-- ==== Sys2Proof/Word.lean ====
section
/-!
DEFINITION. The numbered units of the part (spec/00 R8, R9) and the widths its commands carry.
-/

namespace Sys2Proof

/-- A pavilion, 0 to 7 (spec/00 R8). -/
abbrev Pav := Fin 8
/-- A channel, 0 to 63: pavilion × 8 + local channel (spec/00 R8). -/
abbrev Chan := Fin 64
/-- A rank of a channel, 0 to 3 (spec/00 R8). -/
abbrev Rank := Fin 4
/-- A subchannel: 0 is A, 1 is B (spec/00 R8). -/
abbrev Sub := Fin 2
/-- A host port, 0 to 15 (spec/00 R8). -/
abbrev Port := Fin 16
/-- A promenade link, 0 to 27 (spec/00 R9). -/
abbrev Link := Fin 28
/-- A direction of a link: 0 is from the lower pavilion to the higher (spec/08). -/
abbrev Dir := Fin 2
/-- A slice, 0 to 4,095 (spec/00 R8). -/
abbrev Slice := Fin 4096
/-- A DIMM branch, 0 to 15 (spec/14). -/
abbrev Branch := Fin 16
/-- A session slot, 0 to 31 (spec/11). -/
abbrev Slot := Fin 32
/-- A role code, 0 to 4, where 0 is none (spec/11 R434). -/
abbrev Role := Fin 5
/-- A codebook slot, 0 to 255 (spec/03 R116). -/
abbrev Book := Fin 256
/-- One line of 64 bytes, byte 0 in bits 7 to 0 (spec/00 R3). -/
abbrev Line := BitVec 512
/-- A 64-bit quantity. -/
abbrev U64 := BitVec 64

end Sys2Proof
end

