-- ==== Sys2Proof/Syntax.lean ====
section
/-!
DEFINITION. The commands of the block: one constructor per row of spec/opcode_table.json, with the row's operands.
Operands name the unit the event happens at and what the world outside the part supplies (data, measured values, the
outcome of a physical process); what waits inside the part stands in the state.
-/

namespace Sys2Proof

/-- Who makes a dictionary request: a session of the gatehouse (spec/11 R434) or the monitor's user (spec/16 R595). -/
inductive Who where
  | session (k : Slot)
  | monitor
  deriving DecidableEq, Repr

/-- The transport a frame arrives on and where it came from (spec/11 R442). -/
inductive Transport where
  | ethernet (address : Nat) (udp : Nat)
  | mctp (eid : Nat)
  | mailbox (i : Port)
  deriving DecidableEq, Repr

/-- A frame of the Vuith Object Protocol: the header fields of spec/11 R446, the payload as a little-endian number of
`payloadLen` bytes, and the authenticator of R447. -/
structure Frame where
  sequence   : Nat
  session    : Nat
  result     : Nat
  offset     : Nat
  length     : Nat
  transfer   : Nat
  index      : Nat
  subindex   : Nat
  opcode     : Nat
  kind       : Nat
  role       : Nat
  flags      : Nat
  magic      : Nat
  format     : Nat
  payload    : Nat
  payloadLen : Nat
  auth       : Nat
  deriving DecidableEq, Repr

/-- What a DRAM read that returns brings (spec/05 R194): the burst of the oldest read in flight on a subchannel, with
the bit errors of the transfer; or the outcome of a read of one of the part's own structures in DRAM (spec/05 R211). -/
inductive ReadReturn where
  | burst (u : Sub) (errors : BitVec 640)
  | cellarLine (sl : Slice) (lpage : Nat) (homeLost mirrorLost : Bool)
  | tagLine (extent : Nat) (frame : Nat) (line : Nat)
  | ownerEntry (extent : Nat) (firstLost secondLost : Bool)
  | ownCorrected (burst : Nat) (device : Fin 10) (bits : Fin 128)
  | heatLine (sl : Slice) (group : Nat)
  | planEntry (n : Nat)
  | cellarCacheError (sl : Slice) (lpage : Nat)
  | tagCacheError (burst : Nat)
  | confirm (u : Sub) (errors : BitVec 640)
  | scrub (u : Sub) (bankGroup : Fin 8) (errors : BitVec 640)
  | codebookTable
  deriving DecidableEq, Repr

/-- What the ROM reads and computes of a firmware image in the checks of spec/16 R583: the 256 bytes of its header (R582), whether flash
gives them, whether the fused key hash, the signature and the body's digest match, what the image is. -/
structure ImageCheck where
  header      : BitVec 2048
  flashOk     : Bool
  keyHashOk   : Bool
  signatureOk : Bool
  digestOk    : Bool
  version     : Nat
  measurement : Nat
  dictVersion : Nat
  deriving DecidableEq, Repr

/-- What training finds on one rank (spec/06 R247): whether its write levelling passes (step 3), the sweeps of its 80 lanes for reads
and for writes (steps 4 and 5), each a number per reference step with a bit for each delay step that passes, and whether its pattern
check passes (step 6). -/
structure RankTraining where
  levelled : Bool
  reads    : List (List Nat)
  writes   : List (List Nat)
  pattern  : Bool
  deriving DecidableEq, Repr

/-- What the sweep of one lane in a quick retrain finds (spec/06 R251): for reads and for writes the 17 delay steps around the setting
that pass (bit 8 is the setting), and the eye figures of the lane (R249). -/
structure LaneRetrain where
  read  : Nat
  write : Nat
  eye   : Nat
  deriving DecidableEq, Repr

/-- What training finds on one channel: the population that its SPD names (spec/06 R222), for each DIMM whether its SPD is that of an
accepted module (step 1) and whether the training of its clock driver passes (step 2), the serial numbers, and each rank. -/
structure ChanTraining where
  dimms   : Nat
  ranksPerDimm : Nat
  device  : Nat
  stack   : Nat
  spdOk0  : Bool
  spdOk1  : Bool
  rcdOk0  : Bool
  rcdOk1  : Bool
  serial0 : Nat
  serial1 : Nat
  ranks   : List RankTraining
  deriving DecidableEq, Repr

/-- What training finds on a pavilion (spec/06 R223, R247). -/
structure TrainResult where
  rate  : Nat
  chans : List ChanTraining
  deriving DecidableEq, Repr

/-- A bank of a subchannel with the chip ID of its stack (spec/06 R232, R557). -/
structure BankChip where
  bank : Fin 128
  chip : Fin 4
  deriving DecidableEq, Repr

/-- A command/address parity error of a rank (spec/06 R253), with the number of the channel's last commands from the failed one on. -/
structure ParityError where
  rank : Rank
  back : Fin 65
  deriving DecidableEq, Repr

/-- The channel whose rebuild copies an extent, and the bits in which its reads from the failed rank differ from what was written (spec/06
R256), by burst of the extent. -/
structure RebuildReads where
  chan   : Chan
  errors : List (Nat × Nat)
  deriving DecidableEq, Repr

/-- What the host's memory answers to the device-mastered reads a command makes (spec/12 R476): the CONSUMER word of
the ring, or none when the read times out. -/
structure HostReads where
  consumer : Option Nat
  deriving DecidableEq, Repr

/-- A CMA/SPDM request over DOE (spec/09 R394): its kind, and what it carries. -/
inductive SpdmReq where
  | getVersion (version : Nat)
  | getCertificate (offset len : Nat)
  | challenge (nonce : Nat)
  | getMeasurements (index : Nat) (nonce : Nat)
  | openSession
  | closeSession (session : Fin 2)
  deriving DecidableEq, Repr

/-- The commands: one constructor per row of spec/opcode_table.json. -/
inductive Instr where
  /-- MEM_RD (R343): A MemRd or MemRdData arrives at a host port and is decoded, labelled and queued in its slice's ingress partition to read one line. -/
  | memRd (i : Port) (hpa : U64) (tag : Nat)
  /-- MEM_SPEC_RD (R343): A MemSpecRd arrives at a host port and is discarded without access or response. -/
  | memSpecRd (i : Port) (hpa : U64)
  /-- MEM_INV (R343): A MemInv or MemInvNT arrives at a host port and is answered Cmp without access. -/
  | memInv (i : Port) (hpa : U64) (tag : Nat)
  /-- MEM_WR (R343): A MemWr arrives at a host port as a full-line write and is decoded and queued in its slice's ingress partition. -/
  | memWr (i : Port) (hpa : U64) (tag : Nat) (data : Line) (poison : Bool)
  /-- MEM_WR_PTL (R343): A MemWrPtl arrives at a host port as a partial write, or is answered Cmp without access when no byte is enabled. -/
  | memWrPtl (i : Port) (hpa : U64) (tag : Nat) (mask : U64) (data : Line) (poison : Bool)
  /-- M2S_UNSUPPORTED_MESSAGE (R343): An M2S message that the port does not accept is discarded and Rsvd_Encoding_Violation is set. -/
  | m2sUnsupportedMessage (i : Port) (credit : Bool)
  /-- INGRESS_FORWARD (R287): The head of a slice partition passes its ceiling meter and is forwarded toward its home pavilion, locally or over the promenade. -/
  | ingressForward (i : Port) (sl : Slice)
  /-- PROM_READ (R32): A READ request reaches its home pavilion, which looks up the cellar book and queues the DRAM access or returns zeros. -/
  | promRead (p : Pav) (keyError : Bool)
  /-- PROM_WRITE (R34): A WRITE request reaches its home pavilion and is stored, converted or allocated per tier, then completed. -/
  | promWrite (p : Pav) (keyError : Bool)
  /-- PROM_WRITE_PARTIAL (R172): A WRITE_PARTIAL request reaches its home pavilion and is merged into its line. -/
  | promWritePartial (p : Pav) (keyError : Bool)
  /-- PROM_POISON_LINE (R626): A POISON_LINE request reaches the home pavilion, which makes the page HOT and marks the line LINK_LOSS. -/
  | promPoisonLine (p : Pav)
  /-- PROM_MIRROR_WRITE (R60): A MIRROR_WRITE of a cellar-book line reaches the mirror pavilion and enters its write queue. -/
  | promMirrorWrite (p : Pav)
  /-- PROM_READ_DATA (R310): A READ_DATA response reaches the ingress pavilion and is sent to the host, or returned for withholding. -/
  | promReadData (p : Pav)
  /-- PROM_COMPLETION (R311): A COMPLETION reaches the ingress pavilion and completes the write, or returns it for capacity hold or withholding. -/
  | promCompletion (p : Pav)
  /-- PROM_CAPACITY_NOTICE (R94): A CAPACITY_NOTICE reaches an ingress pavilion, which resends the slice's held writes oldest first. -/
  | promCapacityNotice (p : Pav)
  /-- PROM_MOVE_DATA (R310): A MOVE_DATA message delivers migration data to the destination pavilion. -/
  | promMoveData (p : Pav)
  /-- PROM_MOVE_DONE (R310): A MOVE_DONE message reports completion of a plan entry's transfer. -/
  | promMoveDone (p : Pav)
  /-- PROM_MGMT_REQUEST (R310): A MGMT_REQUEST from the gatehouse reaches a pavilion block. -/
  | promMgmtRequest (p : Pav)
  /-- PROM_MGMT_RESPONSE (R310): A MGMT_RESPONSE reaches the gatehouse. -/
  | promMgmtResponse (p : Pav)
  /-- PROM_KEY_LOAD (R21): A KEY_LOAD message loads key material into a pavilion's key cache on the hardware path. -/
  | promKeyLoad (p : Pav)
  /-- PROM_LINK_NOTICE (R330): A LINK_NOTICE reaches a pavilion, which treats requests routed over that link as lost and re-chooses detours. -/
  | promLinkNotice (p : Pav)
  /-- STALL_TIMER_EXPIRY (R96): A held write reaches SLICE_STALL_LIMIT and is sent to be completed and its page poisoned CAPACITY_EXHAUSTED. -/
  | stallTimerExpiry (i : Port) (sl : Slice) (lpage : Nat)
  /-- SLOT_SERVE (R274): At each slot a subchannel serves its descriptor's owner or the open order, issuing refresh, scrub, repair or a request burst. -/
  | slotServe (c : Chan) (u : Sub) (slot : Fin 1024) (busy : BitVec 16) (guard : BitVec 16)
  /-- CHANNEL_READ_DATA (R194): Data of a DRAM read returns and its requester checks the line code, tag and page code and continues. -/
  | channelReadData (c : Chan) (r : ReadReturn)
  /-- CODEC_LANE_DISPATCH (R142): A codec task is dispatched to the lowest idle lane by fixed priority and runs its decode or compression. -/
  | codecLaneDispatch (p : Pav) (fault : Fin 6)
  /-- FRAME_END (R280): At each frame end the slice meters refill and a pending vintage's slot tables take effect at the boundary. -/
  | frameEnd (p : Pav)
  /-- PLANNING_INTERVAL_END (R78): At each planning interval end the heat table is read and halved and a plan compile starts. -/
  | planningIntervalEnd
  /-- PLAN_ENTRY_PROMOTE (R81): The migration engine begins a PROMOTE entry, copying warm pages of the group to HOT. -/
  | planEntryPromote (p : Pav)
  /-- PLAN_ENTRY_DEMOTE (R82): The migration engine begins a DEMOTE entry, compressing hot pages of the group into casks. -/
  | planEntryDemote (p : Pav)
  /-- PLAN_ENTRY_COMPACT (R83): The migration engine begins a COMPACT entry, moving or re-coding every live frame or slot out of an extent. -/
  | planEntryCompact (p : Pav)
  /-- PLAN_ENTRY_REKEY (R176): The migration engine re-encrypts the group's pages under the new key set in place. -/
  | planEntryRekey (p : Pav)
  /-- PLAN_ENTRY_MOVE_REGION (R566): The migration engine begins copying a region's pages to its destination pavilion in passes. -/
  | planEntryMoveRegion (p : Pav)
  /-- PLAN_ENTRY_MIRROR (R59): The migration engine copies a region block to its new mirror pavilion. -/
  | planEntryMirror (p : Pav)
  /-- PAGE_MOVE_COMMIT (R81): A page's copy phase ends and its commit phase commits the move, or cancels it when MOVING was cleared. -/
  | pageMoveCommit (p : Pav)
  /-- REGION_MOVE_HOLD (R566): When few pages remain or 16 passes end, the old home holds all requests to the region and copies the rest. -/
  | regionMoveHold (p : Pav)
  /-- REGION_MOVE_COMMIT (R45): A region move commits, placement maps change in both banks and held requests go to the new home. -/
  | regionMoveCommit (p : Pav)
  /-- ZEROING_COMPLETE (R66): An extent finishes zeroing and becomes FREE, or RETIRED when on the retire list, and capacity notices are sent. -/
  | zeroingComplete (p : Pav) (ext : Nat)
  /-- RESCUE_CASK (R206): The migration engine reads a cask on the rescue list whole, applies the page code and rewrites it. -/
  | rescueCask (p : Pav)
  /-- SCRUB_PASS_START (R205): A scrub pass starts every SCRUB_PASS_TIME, counting late passes. -/
  | scrubPassStart (c : Chan)
  /-- CODEBOOK_IMAGE_WRITE (R113): A CODEBOOK_IMAGE write is checked and, if accepted, expanded into every pavilion's codebook memory. -/
  | codebookImageWrite (w : Who) (slot : Book) (image : Line)
  /-- CODEBOOK_LOAD_DONE (R114): Every pavilion holds the new tables, the slot becomes LOADED, generation rises and the write is answered. -/
  | codebookLoadDone
  /-- CODEBOOK_DRAIN (R121): CODEBOOK_COMMAND DRAIN moves a BOUND slot to DRAINING and adds re-code entries to plans. -/
  | codebookDrain (w : Who) (slot : Book)
  /-- CODEBOOK_UNLOAD (R123): CODEBOOK_COMMAND UNLOAD makes a LOADED slot EMPTY. -/
  | codebookUnload (w : Who) (slot : Book)
  /-- CODEBOOK_BUILD_START (R124): CODEBOOK_BUILD_COMMAND START begins sampling a slice's pages for a codebook build. -/
  | codebookBuildStart (w : Who)
  /-- CODEBOOK_BUILD_CANCEL (R124): CODEBOOK_BUILD_COMMAND CANCEL ends a build with CANCELLED. -/
  | codebookBuildCancel (w : Who)
  /-- BUILD_SAMPLING_DONE (R124): Sampling ends and Widafa computes the code and loads it, or ends with TOO_FEW_PAGES. -/
  | buildSamplingDone
  /-- SLICE_KEY_GENERATE (R153): SLICE_KEY_COMMAND GENERATE fills key slot 0 from the DRBG. -/
  | sliceKeyGenerate (w : Who) (sl : Slice)
  /-- SLICE_KEY_REKEY (R175): SLICE_KEY_COMMAND REKEY starts a re-key sweep with a new key set in the inactive slot. -/
  | sliceKeyRekey (w : Who) (sl : Slice)
  /-- SLICE_KEY_IMPORT (R157): A SLICE_KEY_IMPORT blob is checked, unwrapped and installed in slot 0 or refused. -/
  | sliceKeyImport (w : Who) (sl : Slice) (blob : Nat)
  /-- WRAP_PEER_PUBLIC_WRITE (R155): A custodian's public point is checked and a wrapping key is derived by ECDH and HKDF. -/
  | wrapPeerPublicWrite (w : Who) (k : Fin 17) (point : Nat)
  /-- WRAP_KEY_DESTROY (R149): WRAP_KEY_COMMAND DESTROY empties a wrapping key and raises its generation. -/
  | wrapKeyDestroy (w : Who) (k : Fin 17)
  /-- RNG_HEALTH_FAIL (R154): A failed DRBG health test sets RNG_HEALTH FAILED until a cold power cycle. -/
  | rngHealthFail
  /-- KEY_CACHE_RELOAD_DONE (R152): A key-cache entry reload completes and waiting requests proceed. -/
  | keyCacheReloadDone (p : Pav)
  /-- REKEY_SWEEP_END (R177): With no page left under the old key, the old key set is destroyed and REKEY_STATE returns to IDLE. -/
  | rekeySweepEnd (sl : Slice)
  /-- FLIP_ARM (R219): FLIP_COMMAND ARM sets FLIP_STATUS ARMED. -/
  | flipArm (w : Who) (c : Chan)
  /-- FLIP_DISARM (R219): FLIP_COMMAND DISARM returns FLIP_STATUS to IDLE. -/
  | flipDisarm (w : Who) (c : Chan)
  /-- FLIP_TEST_WRITE (R220): FLIP_COMMAND TEST_WRITE makes the extent SYSTEM and writes zero data with the mask applied. -/
  | flipTestWrite (w : Who) (c : Chan)
  /-- FLIP_TEST_READ (R220): FLIP_COMMAND TEST_READ reads the burst, records its result and returns the extent through ZEROING. -/
  | flipTestRead (w : Who) (c : Chan)
  /-- CE_TABLE_CLEAR (R209): CE_TABLE_COMMAND CLEAR empties a pavilion's address table. -/
  | ceTableClear (w : Who) (p : Pav)
  /-- DIMM_TEMP_POLL (R234): Every 100 ms the DIMM hub sensors are read and the refresh rate switched or a hot warning logged. -/
  | dimmTempPoll (c : Chan) (t0 : Int) (t1 : Int)
  /-- HAMMER_WINDOW_START (R241): A hammer window starts, clearing row trackers and lifting throttles. -/
  | hammerWindowStart (c : Chan)
  /-- PAGE_OPEN_LIMIT_EXPIRY (R232): An open row idle for PAGE_OPEN_LIMIT slots is precharged. -/
  | pageOpenLimitExpiry (c : Chan) (u : Sub) (bank : BankChip)
  /-- RANK_POWERDOWN_ENTRY (R261): A rank idle for POWERDOWN_IDLE slots enters precharge power-down. -/
  | rankPowerdownEntry (c : Chan) (r : Rank)
  /-- CA_PARITY_ALERT (R253): ALERT_n reports a parity error and the channel stops, clears and reissues its commands. -/
  | caParityAlert (c : Chan) (r : ParityError)
  /-- CHANNEL_QUICK_RETRAIN (R251): CHANNEL_COMMAND QUICK_RETRAIN retrains each rank in turn under a hold. -/
  | channelQuickRetrain (w : Who) (c : Chan)
  /-- RANK_REBUILD_EXTENT (R256): The migration engine copies one extent's bursts from the failed rank to the spare, advancing the watermark. -/
  | rankRebuildExtent (c : RebuildReads)
  /-- VINTAGE_COMPILE_START (R288): Widafa starts the next queued full, forced, plan-only or supplementary compile. -/
  | vintageCompileStart
  /-- VINTAGE_COMPILE_DONE (R288): A compile ends, refusing with a reason or emitting images into the shadow banks. -/
  | vintageCompileDone
  /-- VINTAGE_CHECKER_DONE (R294): The hardware checkers finish and either reject the vintage or set VINTAGE_SWAP_TIME. -/
  | vintageCheckerDone
  /-- VINTAGE_SWAP_TIME (R295): At VINTAGE_SWAP_TIME ingress and class tables take effect and slot tables wait for the frame boundary. -/
  | vintageSwapTime
  /-- VINTAGE_BEGIN_BATCH (R299): VINTAGE_COMMAND BEGIN_BATCH opens a batch for the session. -/
  | vintageBeginBatch (w : Who)
  /-- VINTAGE_COMMIT_BATCH (R299): VINTAGE_COMMAND COMMIT_BATCH compiles all staged writes as one vintage. -/
  | vintageCommitBatch (w : Who)
  /-- VINTAGE_ABORT_BATCH (R299): VINTAGE_COMMAND ABORT_BATCH discards the staged writes. -/
  | vintageAbortBatch (w : Who)
  /-- VINTAGE_BATCH_TIMEOUT (R299): A batch with no request of its session for VINTAGE_BATCH_TIMEOUT is discarded. -/
  | vintageBatchTimeout
  /-- SLICE_CHECK_WINDOW_END (R301): At each check window end owed and delivered bursts are compared and a shortfall counted and reported. -/
  | sliceCheckWindowEnd (sl : Slice)
  /-- FLIT_RECEIVE (R313): A link receiver takes a flit, checks CRC, applies ACK and credits and accepts or discards it. -/
  | flitReceive (n : Link) (d : Dir) (crcOk : Bool)
  /-- FLIT_TRANSMIT (R321): A link transmitter sends the next flit, choosing messages by fixed class and port priority. -/
  | flitTransmit (n : Link) (d : Dir)
  /-- NAK_RECEIVE (R314): A NAK arrives and the sender replays its buffer from the oldest flit. -/
  | nakReceive (n : Link) (d : Dir)
  /-- LINK_CREDIT_TIMEOUT (R324): A counter's returned credits do not advance for LINK_CREDIT_TIMEOUT and the link is broken. -/
  | linkCreditTimeout (n : Link) (d : Dir)
  /-- LINK_ACK_TIMEOUT (R324): ACK does not advance for LINK_CREDIT_TIMEOUT with a non-empty replay buffer and the link is broken. -/
  | linkAckTimeout (n : Link) (d : Dir)
  /-- LINK_PHY_LOST (R324): A receiver loses lock or alignment, or sees the peer's idle, and the link is broken. -/
  | linkPhyLost (n : Link) (d : Dir) (peer : Bool)
  /-- LINK_RETRAIN (R337): LINK_COMMAND RETRAIN breaks an UP link with cause OPERATOR or makes one attempt on a FAILED link. -/
  | linkRetrain (w : Who) (n : Link)
  /-- LINK_IDLE_END (R325): After the 1 µs electrical-idle pattern both ends enter RETRAINING and start training. -/
  | linkIdleEnd (n : Link)
  /-- LINK_TRAINING_DONE (R326): Training and INIT exchange complete and the link becomes UP with counters at 0. -/
  | linkTrainingDone (n : Link) (eye : BitVec 32) (advertisedOk : Bool)
  /-- LINK_TRAINING_FAIL (R327): A training attempt fails; after LINK_RETRAIN_ATTEMPTS failures the link becomes FAILED. -/
  | linkTrainingFail (n : Link)
  /-- PAVILION_STOP (R26): PAVILION_COMMAND STOP moves an empty pavilion to STOPPED. -/
  | pavilionStop (w : Who) (p : Pav)
  /-- PAVILION_START (R26): PAVILION_COMMAND START returns a STOPPED pavilion to IN_SERVICE. -/
  | pavilionStart (w : Who) (p : Pav)
  /-- PAVILION_RETIRE (R26): PAVILION_COMMAND RETIRE moves a pavilion to RETIRING and its regions receive MOVE_REGION entries. -/
  | pavilionRetire (w : Who) (p : Pav)
  /-- PAVILION_RETURN (R29): PAVILION_COMMAND RETURN marks a RETIRED pavilion for return at the next cold boot. -/
  | pavilionReturn (w : Who) (p : Pav)
  /-- PAVILION_FAULT (R26): An uncorrectable pavilion fault makes it FAILED, disables its links and may fail the part. -/
  | pavilionFault (p : Pav)
  /-- GATEHOUSE_HEARTBEAT (R24): The gatehouse sends a heartbeat to the always-on domain every 10 ms. -/
  | gatehouseHeartbeat
  /-- HEARTBEAT_TIMEOUT (R24): 80 ms without a heartbeat declares pavilion 0 lost, turning branches off and idling all ports. -/
  | heartbeatTimeout
  /-- ROOT_PLL_LOCK_LOSS (R499): A root PLL loses lock and its pavilion enters FAILED, or the part fails for pavilion 0. -/
  | rootPllLockLoss (p : Pav)
  /-- AON_PLL_LOCK_LOSS (R24): The always-on PLL loses lock and pavilion 0 is declared lost at once. -/
  | aonPllLockLoss
  /-- PERST_ASSERT (R383): PERST# asserted applies a conventional reset: epoch rises, decoders uncommit, unforwarded requests drop. -/
  | perstAssert (i : Port)
  /-- PERST_DEASSERT (R354): PERST# deasserted starts the port's readiness, answering RRS until ready. -/
  | perstDeassert (i : Port)
  /-- PORT_LINK_DOWN (R386): A host link going down, including surprise removal, applies a conventional reset. -/
  | portLinkDown (i : Port)
  /-- PORT_HOT_RESET (R383): A hot reset applies a conventional reset to the port. -/
  | portHotReset (i : Port)
  /-- PORT_LINK_DISABLE (R383): A link disable applies a conventional reset to the port. -/
  | portLinkDisable (i : Port)
  /-- CXL_RESET (R383): A CXL Reset raises the epoch, uncommits decoders and drops unforwarded requests. -/
  | cxlReset (i : Port)
  /-- FUNCTION_LEVEL_RESET (R384): An FLR silences device-mastered traffic and clears CXL.io state, mailbox, MSI-X and windows. -/
  | functionLevelReset (i : Port)
  /-- BUS_MASTER_ENABLE_CLEAR (R385): Clearing Bus Master Enable stops device-mastered requests and parks the engines. -/
  | busMasterEnableClear (i : Port)
  /-- BUS_MASTER_ENABLE_SET (R385): Setting Bus Master Enable resumes parked ring engines. -/
  | busMasterEnableSet (i : Port)
  /-- BM_WINDOW_WRITE (R359): A write to a bus-master window sets its fields or clears ENABLE, after which no request enters it. -/
  | bmWindowWrite (i : Port) (k : Fin 16) (value : BitVec 256)
  /-- PORT_LINK_TRAINED (R387): A host link trains again and the port becomes ready within the timing table. -/
  | portLinkTrained (i : Port) (speed : Nat) (width : Nat) (flit256 : Bool)
  /-- PM_D_STATE_CHANGE (R388): The host moves the port between D0, D3hot and D3cold, parking or resuming engines. -/
  | pmDStateChange (i : Port) (dstate : Fin 3) (pme : Bool)
  /-- IDE_MAC_FAILURE (R393): A link IDE MAC check fails and the port discards, sets INSECURE and takes the link down. -/
  | ideMacFailure (i : Port)
  /-- IDE_KM_REQUEST (R392): An IDE_KM message in a secured SPDM session sets link IDE keys. -/
  | ideKmRequest (i : Port) (session : Fin 2) (keys : Nat)
  /-- DOE_DISCOVERY (R394): A DOE Discovery request is answered. -/
  | doeDiscovery (i : Port) (index : Nat)
  /-- SPDM_REQUEST (R394): A CMA/SPDM or secured SPDM request over DOE is answered with certificates or measurements. -/
  | spdmRequest (i : Port) (req : SpdmReq)
  /-- CDAT_READ (R354): A CDAT table access over DOE returns the DSMAS and DSLBIS entries. -/
  | cdatRead (i : Port) (entry : Nat)
  /-- MBOX_IDENTIFY (R367): Mailbox command Identify. -/
  | mboxIdentify (i : Port)
  /-- MBOX_GET_EVENT_RECORDS (R369): Mailbox Get Event Records returns records of a port log. -/
  | mboxGetEventRecords (i : Port) (log : Fin 5)
  /-- MBOX_CLEAR_EVENT_RECORDS (R369): Mailbox Clear Event Records removes records from a port log. -/
  | mboxClearEventRecords (i : Port) (log : Fin 5) (all : Bool) (handles : List Nat)
  /-- MBOX_GET_EVENT_INT_POLICY (R373): Mailbox Get Event Interrupt Policy returns the policy. -/
  | mboxGetEventIntPolicy (i : Port)
  /-- MBOX_SET_EVENT_INT_POLICY (R373): Mailbox Set Event Interrupt Policy assigns vectors to logs. -/
  | mboxSetEventIntPolicy (i : Port) (policy : List Nat)
  /-- MBOX_GET_FW_INFO (R367): Mailbox Get FW Info reports the gatehouse firmware. -/
  | mboxGetFwInfo (i : Port)
  /-- MBOX_GET_TIMESTAMP (R471): Mailbox Get Timestamp returns the time base. -/
  | mboxGetTimestamp (i : Port)
  /-- MBOX_SET_TIMESTAMP (R471): Mailbox Set Timestamp steps the time base only under source HOST on TIME_HOST_PORT, else is ignored. -/
  | mboxSetTimestamp (i : Port) (time : U64)
  /-- MBOX_GET_SUPPORTED_LOGS (R367): Mailbox Get Supported Logs lists the CEL. -/
  | mboxGetSupportedLogs (i : Port)
  /-- MBOX_GET_LOG (R367): Mailbox Get Log returns the Command Effects Log. -/
  | mboxGetLog (i : Port) (cel : Bool) (offset : Nat) (len : Nat)
  /-- MBOX_IDENTIFY_MEMORY_DEVICE (R367): Mailbox Identify Memory Device reports zero static capacity. -/
  | mboxIdentifyMemoryDevice (i : Port)
  /-- MBOX_GET_POISON_LIST (R372): Mailbox Get Poison List returns the port's poison list. -/
  | mboxGetPoisonList (i : Port)
  /-- MBOX_CLEAR_POISON (R367): Mailbox Clear Poison performs a full-line write of the given data. -/
  | mboxClearPoison (i : Port) (dpa : U64) (data : Line)
  /-- MBOX_GET_DC_CONFIGURATION (R374): Mailbox Get Dynamic Capacity Configuration reports the 8 DC regions. -/
  | mboxGetDcConfiguration (i : Port)
  /-- MBOX_GET_DC_EXTENT_LIST (R382): Mailbox Get Dynamic Capacity Extent List reports accepted extents. -/
  | mboxGetDcExtentList (i : Port)
  /-- ADD_DC_RESPONSE (R377): Add Dynamic Capacity Response sets mask bits of accepted extents and releases the rest. -/
  | addDcResponse (i : Port) (runs : (List (Nat × Nat)))
  /-- RELEASE_DC (R380): Release Dynamic Capacity clears mask bits and waits for decoded requests to drain. -/
  | releaseDc (i : Port) (runs : (List (Nat × Nat)))
  /-- DC_RELEASE_DRAINED (R380): Requests decoded into released extents have completed; extents are released and a compile follows. -/
  | dcReleaseDrained (i : Port)
  /-- MBOX_VOP_TRANSPORT (R368): Mailbox VOP_TRANSPORT carries a VOP frame as a background command. -/
  | mboxVopTransport (i : Port) (frame : Frame)
  /-- MBOX_UNSUPPORTED (R367): A mailbox opcode not listed returns Unsupported. -/
  | mboxUnsupported (i : Port) (opcode : BitVec 16)
  /-- DC_REQUEST_ADD (R377): DC_REQUEST ADD assigns DPA regions and runs a compile before offering extents. -/
  | dcRequestAdd (w : Who) (i : Port) (req : BitVec 128)
  /-- DC_REQUEST_RELEASE (R379): DC_REQUEST RELEASE writes a Release Capacity record and waits for the host. -/
  | dcRequestRelease (w : Who) (i : Port) (req : BitVec 128)
  /-- DC_REQUEST_FORCE_RELEASE (R381): DC_REQUEST FORCE_RELEASE releases extents without the host and writes a Forced Capacity Release record. -/
  | dcRequestForceRelease (w : Who) (i : Port) (req : BitVec 128)
  /-- DC_OFFER_TIMEOUT (R378): No response within DC_OFFER_TIMEOUT releases every offered extent with result TIMEOUT. -/
  | dcOfferTimeout (i : Port)
  /-- TP_DOORBELL_COUNTER_DUMP (R407): A COUNTER_DUMP doorbell is checked and, if accepted, starts a DUMP record write. -/
  | tpDoorbellCounterDump (i : Port) (sl : Slice) (value : BitVec 32)
  /-- TP_DOORBELL_SAVE (R407): A SAVE doorbell is checked and, if accepted, acts as SLICE_COMMAND SAVE. -/
  | tpDoorbellSave (i : Port) (sl : Slice) (value : BitVec 32)
  /-- TP_DOORBELL_RESTORE (R407): A RESTORE doorbell is checked and, if accepted, acts as SLICE_COMMAND RESTORE. -/
  | tpDoorbellRestore (i : Port) (sl : Slice) (value : BitVec 32)
  /-- COUNTER_DUMP_WRITTEN (R485): The DUMP record is written to SLICE_DUMP_ADDRESS and RESULT reads DONE or FAILED. -/
  | counterDumpWritten (i : Port) (sl : Slice) (ok : Bool)
  /-- SLICE_CREATE (R397): SLICE_COMMAND CREATE moves a FREE slice to STOPPED on its port. -/
  | sliceCreate (w : Who) (sl : Slice)
  /-- SLICE_START (R398): SLICE_COMMAND START makes a slice RUNNING, compiling first when settings changed, and offers rebound extents. -/
  | sliceStart (w : Who) (sl : Slice)
  /-- SLICE_STOP (R397): SLICE_COMMAND STOP drains a RUNNING slice to STOPPED, or stops a FROZEN slice at once. -/
  | sliceStop (w : Who) (sl : Slice)
  /-- SLICE_FREEZE (R397): SLICE_COMMAND FREEZE drains a RUNNING slice to FROZEN. -/
  | sliceFreeze (w : Who) (sl : Slice)
  /-- SLICE_THAW (R397): SLICE_COMMAND THAW returns a FROZEN slice to RUNNING. -/
  | sliceThaw (w : Who) (sl : Slice)
  /-- SLICE_SAVE (R421): SLICE_COMMAND SAVE forms a bundle from dirty extents and sends it to host memory. -/
  | sliceSave (w : Who) (sl : Slice)
  /-- SLICE_RESTORE (R425): SLICE_COMMAND RESTORE reads a bundle from host memory for checking and applying. -/
  | sliceRestore (w : Who) (sl : Slice)
  /-- SLICE_RESET (R409): SLICE_COMMAND RESET drains the slice, squashing unqueued work. -/
  | sliceReset (w : Who) (sl : Slice)
  /-- SLICE_REMOVE (R409): SLICE_COMMAND REMOVE drains the slice, squashing unqueued work, toward FREE. -/
  | sliceRemove (w : Who) (sl : Slice)
  /-- SLICE_CANCEL (R424): SLICE_COMMAND CANCEL ends a SAVE or RESTORE in progress. -/
  | sliceCancel (w : Who) (sl : Slice)
  /-- SLICE_REOFFER (R402): SLICE_COMMAND REOFFER offers the slice's unmapped extents again. -/
  | sliceReoffer (w : Who) (sl : Slice)
  /-- SLICE_DRAIN_END (R410): Every pavilion has reported and nothing is outstanding; the slice takes its new state. -/
  | sliceDrainEnd (sl : Slice)
  /-- SLICE_CLEARING_DONE (R414): Freeing of the slice's storage completes and SLICE_CLEARING returns to 0, or a removed slice becomes FREE. -/
  | sliceClearingDone (sl : Slice)
  /-- SLICE_PORT_WRITE (R402): A new SLICE_PORT on a STOPPED slice moves its binding and region-map entries to the new port. -/
  | slicePortWrite (w : Who) (sl : Slice) (value : BitVec 8)
  /-- SLICE_MIGRATION_ID_WRITE (R416): A SLICE_MIGRATION_ID write arms the slice, marking every extent dirty, or disarms it. -/
  | sliceMigrationIdWrite (w : Who) (sl : Slice) (value : U64)
  /-- SAVE_BUNDLE_SENT (R421): A bundle finishes in host memory, header last, and SLICE_SAVE_RESULT reads DONE, MORE or FINAL. -/
  | saveBundleSent (sl : Slice)
  /-- RESTORE_BUNDLE_READ (R426): A read bundle passes its checks and is applied, or the RESTORE ends with a reason. -/
  | restoreBundleRead (sl : Slice) (bundle : Nat) (len : Nat)
  /-- VOP_OPEN (R452): An OPEN request opens a session and returns its number and nonce. -/
  | vopOpen (t : Transport) (f : Frame)
  /-- VOP_CLOSE (R453): A CLOSE request closes the session. -/
  | vopClose (t : Transport) (f : Frame)
  /-- VOP_KEEPALIVE (R448): A KEEPALIVE request keeps the session open. -/
  | vopKeepalive (t : Transport) (f : Frame)
  /-- VOP_READ (R439): A READ request returns an entry's value in force after the checks. -/
  | vopRead (t : Transport) (f : Frame)
  /-- VOP_WRITE (R439): A WRITE request is checked and applied, staged or queued for its compile. -/
  | vopWrite (t : Transport) (f : Frame)
  /-- VOP_READ_BEGIN (R454): READ_BEGIN copies a long value and opens a segmented read. -/
  | vopReadBegin (t : Transport) (f : Frame)
  /-- VOP_READ_SEGMENT (R454): READ_SEGMENT returns bytes of the copied value. -/
  | vopReadSegment (t : Transport) (f : Frame)
  /-- VOP_WRITE_BEGIN (R454): WRITE_BEGIN opens a segmented write after early checks. -/
  | vopWriteBegin (t : Transport) (f : Frame)
  /-- VOP_WRITE_SEGMENT (R454): WRITE_SEGMENT adds bytes; the LAST segment makes the whole write. -/
  | vopWriteSegment (t : Transport) (f : Frame)
  /-- VOP_TRANSFER_END (R454): TRANSFER_END releases a segmented read's copy. -/
  | vopTransferEnd (t : Transport) (f : Frame)
  /-- VOP_TRANSFER_TIMEOUT (R454): A transfer with no segment for 10 s ends without effect. -/
  | vopTransferTimeout (k : Slot)
  /-- VOP_CATALOGUE_READ (R455): CATALOGUE_READ returns catalogue bytes. -/
  | vopCatalogueRead (t : Transport) (f : Frame)
  /-- VOP_SUBSCRIBE (R461): SUBSCRIBE sets the session's group mask. -/
  | vopSubscribe (t : Transport) (f : Frame)
  /-- VOP_NOTIFY_ACK (R460): NOTIFY_ACK acknowledges notifications up to its number. -/
  | vopNotifyAck (t : Transport) (f : Frame)
  /-- VOP_NOTIFY_POLL (R460): NOTIFY_POLL returns the oldest unacknowledged notification. -/
  | vopNotifyPoll (t : Transport) (f : Frame)
  /-- VOP_CLAIM (R451): A CLAIM request on an unclaimed part derives the custodian key, else is dropped. -/
  | vopClaim (t : Transport) (f : Frame)
  /-- VOP_WAKE_FRAME (R462): A WAKE frame is verified by always-on hardware and, if accepted, is a wake event in REST. -/
  | vopWakeFrame (t : Transport) (f : Frame)
  /-- NOTIFY_RESEND (R460): An unacknowledged pushed notification is sent again each second. -/
  | notifyResend (k : Slot)
  /-- SESSION_IDLE_TIMEOUT (R453): A session without an accepted request for SESSION_IDLE_TIMEOUT closes. -/
  | sessionIdleTimeout (k : Slot)
  /-- SESSION_CLOSE_COMMAND (R453): SESSION_COMMAND CLOSE closes a session. -/
  | sessionCloseCommand (w : Who) (k : Slot)
  /-- ROLE_PEER_PUBLIC_WRITE (R450): A ROLE_PEER_PUBLIC write derives a role key and closes that role's sessions. -/
  | rolePeerPublicWrite (w : Who) (r : Role) (point : Nat)
  /-- ROLE_DESTROY (R450): ROLE_COMMAND DESTROY empties a role key and closes its sessions. -/
  | roleDestroy (w : Who) (r : Role)
  /-- MGMT_APPLY (R444): MGMT_COMMAND APPLY puts staged network settings in force after answering. -/
  | mgmtApply (w : Who)
  /-- MGMT_CONFIRM (R444): MGMT_COMMAND CONFIRM keeps the new network settings. -/
  | mgmtConfirm (w : Who)
  /-- MGMT_CONFIRM_TIMEOUT (R444): No CONFIRM within MGMT_CONFIRM_TIMEOUT reverts the network settings. -/
  | mgmtConfirmTimeout
  /-- ARP_REQUEST (R443): An ARP request on the management port is answered. -/
  | arpRequest (target : BitVec 32)
  /-- ICMP_ECHO_REQUEST (R443): An ICMP or ICMPv6 echo request is answered. -/
  | icmpEchoRequest (v6 : Bool) (addr : BitVec 128) (payload : Nat)
  /-- NEIGHBOUR_SOLICITATION (R443): An IPv6 neighbour solicitation is answered. -/
  | neighbourSolicitation (target : BitVec 128)
  /-- MCTP_SET_ENDPOINT_ID (R445): MCTP Set Endpoint ID assigns the part's EID. -/
  | mctpSetEndpointId (eid : BitVec 8)
  /-- MCTP_GET_ENDPOINT_ID (R445): MCTP Get Endpoint ID is answered. -/
  | mctpGetEndpointId
  /-- MCTP_GET_VERSION_SUPPORT (R445): MCTP Get MCTP Version Support is answered. -/
  | mctpGetVersionSupport (kind : BitVec 8)
  /-- MCTP_GET_MESSAGE_TYPE_SUPPORT (R445): MCTP Get Message Type Support is answered. -/
  | mctpGetMessageTypeSupport
  /-- MCTP_GET_VENDOR_DEFINED_SUPPORT (R445): MCTP Get Vendor Defined Message Support is answered. -/
  | mctpGetVendorDefinedSupport (selector : BitVec 8)
  /-- LODGE_GATHER (R465): Every 100 µs each lodge sends its deltas to the gatehouse lodge, which merges them. -/
  | lodgeGather
  /-- COUNTER_RESET (R466): COUNTER_RESET resets a named tally to 0 or is refused for a level. -/
  | counterReset (w : Who) (value : BitVec 32)
  /-- SLICE_COUNTER_RESET (R466): SLICE_COUNTER_COMMAND RESET resets a slice's tallies together. -/
  | sliceCounterReset (w : Who) (sl : Slice)
  /-- COUNTER_STORE_ERROR (R492): An uncorrectable counter-store error recomputes a level or zeroes and taints a tally. -/
  | counterStoreError (index : BitVec 16) (sub : BitVec 8) (corrected : Bool)
  /-- PTP_MESSAGE (R469): A PTP event or general message is timestamped and disciplines or steps the time base. -/
  | ptpMessage (offset : Int) (master : U64) (domain : BitVec 8)
  /-- PTP_LOSS_TIMEOUT (R468): No master for TIME_PTP_LOSS_TIMEOUT puts the time base in HOLDOVER. -/
  | ptpLossTimeout
  /-- TIME_SOURCE_WRITE (R472): A TIME_SOURCE change is logged and applied. -/
  | timeSourceWrite (w : Who) (value : BitVec 8)
  /-- SNAPSHOT_TICK (R479): At each SNAP_PERIOD tick each port's dump engine writes a snapshot record. -/
  | snapshotTick (i : Port) (host : HostReads)
  /-- HARVEST_TICK (R486): Each millisecond the lodge adds slice levels to capacity tallies and refreshes tenant windows. -/
  | harvestTick
  /-- HARVEST_MINUTE_END (R486): At each minute end one harvest record per active slice goes to a ring or the backlog. -/
  | harvestMinuteEnd (host : HostReads)
  /-- RING_ENABLE_WRITE (R473): A RING_ENABLE write enables or disables rings after window checks, and backlog records drain. -/
  | ringEnableWrite (w : Who) (i : Port) (value : BitVec 8)
  /-- SNAP_SET_WRITE (R478): A SNAP_SET write lists entries for snapshots after checks. -/
  | snapSetWrite (w : Who) (i : Port) (value : Nat)
  /-- ARM_COUNTER_WRITE (R481): An ARM_COUNTER write arms or disarms a sampling arm after checks. -/
  | armCounterWrite (w : Who) (i : Port) (a : Fin 8) (value : BitVec 32)
  /-- LANE_CLOCK_GATE (R502): A lane or pipeline idle for 1 µs gates its own clock. -/
  | laneClockGate (p : Pav) (lane : Fin 44)
  /-- PAVILION_IDLE_ENTRY (R503): A pavilion without work for PAVILION_IDLE_DELAY enters IDLE. -/
  | pavilionIdleEntry (p : Pav)
  /-- POWER_COMMAND_REST (R506): POWER_COMMAND REST starts a REST entry attempt. -/
  | powerCommandRest (w : Who)
  /-- REST_AUTO_DELAY_EXPIRY (R506): With REST_AUTO, all host ports inactive for REST_AUTO_DELAY start a REST attempt. -/
  | restAutoDelayExpiry
  /-- REST_AGENT_AGREE (R507): An agent of the entry sequence agrees after its action, and the sequencer passes abort points or asks the next. -/
  | restAgentAgree
  /-- WAKE_EVENT (R511): A wake source is latched during entry or starts the REST exit. -/
  | wakeEvent (source : Fin 16)
  /-- REST_EXIT_CORE_PG (R516): CORE_PG rises at exit and PLLs, retention, links and channels restart. -/
  | restExitCorePg (pllsLocked : BitVec 8) (exitOk : BitVec 256)
  /-- REST_EXIT_CORE_PG_TIMEOUT (R517): CORE_PG absent 100 ms after CORE_EN at exit keeps the part in REST. -/
  | restExitCorePgTimeout
  /-- RETENTION_RESTORE_DONE (R515): A pavilion's retention words are checked and corrected or handled per structure. -/
  | retentionRestoreDone (p : Pav) (ce : Nat) (ue : (List (Nat × Nat)))
  /-- WARM_MEASUREMENT_DONE (R581): The firmware re-measurement ends; on a match memory is active, else a cold boot. -/
  | warmMeasurementDone (digest : BitVec 384)
  /-- VAUX_RISE (R574): VAUX rises and a cold boot starts with straps sampled and the time base UNSET. -/
  | vauxRise (straps : BitVec 8)
  /-- VAUX_FALL (R519): VAUX is lost and the part enters OFF. -/
  | vauxFall
  /-- PART_RESET_ASSERT (R580): PART_RESET_N low for 1 µs acts as VAUX falling. -/
  | partResetAssert
  /-- PART_RESET_RELEASE (R580): PART_RESET_N release acts as VAUX rising. -/
  | partResetRelease (straps : BitVec 8)
  /-- SELF_TEST_DONE (R578): Each pavilion's ROM self-test ends, failing that pavilion or the part. -/
  | selfTestDone (p : Pav) (pass : Bool) (gate : Bool)
  /-- FW_SLOT_CHECK_DONE (R584): A slot check ends, accepting the image or rejecting and trying the other slot. -/
  | fwSlotCheckDone (img : ImageCheck)
  /-- FIRMWARE_START_DONE (R574): Firmware start reads stores and brings up management, then branch turn-on begins. -/
  | firmwareStartDone (config : Fin 4) (trust : Fin 4) (wear : Fin 3)
  /-- DRAM_TRAINING_DONE (R247): A pavilion's channels finish training, failing ranks or proceeding to repair and fill. -/
  | dramTrainingDone (p : Pav) (t : TrainResult)
  /-- HARD_REPAIR (R560): Listed weak rows receive hard post-package repair before the fill. -/
  | hardRepair (p : Pav) (failed : List Nat)
  /-- FIRST_FILL_DONE (R215): A pavilion's fill completes on every channel, releasing its DRAM or failing it. -/
  | firstFillDone (p : Pav) (failedRanks : List Nat)
  /-- BOOT_MEMORY_ACTIVE (R577): Every starting pavilion is IN_SERVICE or FAILED and memory is reported active, or the part fails. -/
  | bootMemoryActive
  /-- CORE_PG_BOOT_TIMEOUT (R611): CORE_PG not high 100 ms after CORE_EN at cold boot deasserts CORE_EN and retries. -/
  | corePgBootTimeout
  /-- CORE_PG_FALL (R612): CORE_PG falls with power on and the part makes a cold boot 1 s later. -/
  | corePgFall
  /-- THERMAL_TRIP (R621): A junction at 115 °C for 1 ms drops the core supply and drives THERMTRIP_N low. -/
  | thermalTrip
  /-- PRESENT_RAW_ABSENCE (R537): A raw high on PRESENT_n turns the main gate off within 10 µs. -/
  | presentRawAbsence
  /-- PRESENCE_DEBOUNCED (R537): PRESENT_n low for 5 ms starts insertion or counts a bounce. -/
  | presenceDebounced
  /-- ABSENCE_DEBOUNCED (R537): PRESENT_n high for 5 ms starts the absence timer. -/
  | absenceDebounced
  /-- ABSENCE_TIMER_EXPIRY (R537): The absence timer reaches 20 ms, clearing retries and LATCHED and making the state ABSENT. -/
  | absenceTimerExpiry
  /-- INSERT_DELAY_EXPIRY (R530): MAIN_VIN in window for MAIN_INSERT_DELAY starts the main ramp. -/
  | insertDelayExpiry
  /-- MAIN_FULLY_ON (R530): The main input is fully on, the state becomes ON and MAIN_PG rises. -/
  | mainFullyOn
  /-- MAIN_RAMP_TIMEOUT (R530): The ramp exceeds its limit and the main FET trips RAMP_TIMEOUT. -/
  | mainRampTimeout
  /-- MAIN_FAST_TRIP (R528): Main current reaches the fast-trip threshold and the gate is pulled down. -/
  | mainFastTrip
  /-- MAIN_SOA_TIMER_EXPIRY (R528): Main current limiting lasts MAIN_SOA_TIME and the FET trips SOA. -/
  | mainSoaTimerExpiry
  /-- MAIN_RETRY_WAIT_END (R534): 1 s after a trip a new ramp starts, or WAITING when out of window. -/
  | mainRetryWaitEnd
  /-- MAIN_RETRY_COUNT_RESET (R535): ON for 60 s without a break returns MAIN_RETRY_COUNT to 0. -/
  | mainRetryCountReset
  /-- MAIN_WINDOW_EXIT (R532): MAIN_VIN below UV for 50 µs or above OV for 5 µs turns the gate off to WAITING. -/
  | mainWindowExit
  /-- CURRENT_LIMIT_START (R528): Sensed current reaches the limit and the driver regulates, starting the safe-area timer. -/
  | currentLimitStart (k : Fin 17)
  /-- POWER_SAMPLE (R533): The 10 kHz converter samples voltages and currents, updating energy and warning-window exits. -/
  | powerSample (vin : Nat) (vout : Nat) (current : Nat) (branches : List Nat)
  /-- BRANCH_ON (R539): BRANCH_COMMAND ON queues a branch ramp while its pavilion is STARTING. -/
  | branchOn (w : Who) (b : Branch)
  /-- BRANCH_OFF (R540): BRANCH_COMMAND OFF turns a branch off for a STARTING, RETIRED or FAILED pavilion. -/
  | branchOff (w : Who) (b : Branch)
  /-- BRANCH_FULLY_ON (R539): A branch is fully on and the next waiting branch starts its ramp. -/
  | branchFullyOn (b : Branch)
  /-- BRANCH_RAMP_TIMEOUT (R539): A branch ramp exceeds its limit and the branch trips. -/
  | branchRampTimeout (b : Branch)
  /-- BRANCH_FAST_TRIP (R528): Branch current reaches its fast-trip threshold and the gate is pulled down. -/
  | branchFastTrip (b : Branch)
  /-- BRANCH_SOA_TIMER_EXPIRY (R528): Branch current limiting lasts BRANCH_SOA_TIME and the branch trips SOA. -/
  | branchSoaTimerExpiry (b : Branch)
  /-- BRANCH_RETRY_WAIT_END (R541): 1 s after a STARTING branch trip a new ramp starts. -/
  | branchRetryWaitEnd (b : Branch)
  /-- AGE_INTEGRATE (R547): Every second each pavilion's age count adds the acceleration factor of its hottest sensor. -/
  | ageIntegrate (temps : List Nat)
  /-- RING_OSCILLATOR_SAMPLE (R548): Every 10 s ring oscillator drift is measured. -/
  | ringOscillatorSample (p : Pav) (drift : Int)
  /-- PATH_DELAY_SAMPLE (R549): A path-delay monitor sample below 0 ps slack raises VDD_GUARD by 10 mV. -/
  | pathDelaySample (p : Pav) (slack : Int) (avsAck : Bool)
  /-- SEASON_END (R552): A season ends and the re-plan steps without a window run. -/
  | seasonEnd (margins : List Nat)
  /-- MAINT_WINDOW_OPEN (R553): A maintenance window opens daily at MAINT_WINDOW_START when steps are pending. -/
  | maintWindowOpen
  /-- MAINT_OPEN_NOW (R553): MAINT_COMMAND OPEN_NOW opens a maintenance window. -/
  | maintOpenNow (w : Who)
  /-- MAINT_CLOSE (R553): MAINT_COMMAND CLOSE closes the maintenance window. -/
  | maintClose (w : Who)
  /-- MAINT_WINDOW_EXPIRY (R553): The window closes after MAINT_WINDOW_LENGTH. -/
  | maintWindowExpiry
  /-- WEAR_RECORD_HOURLY (R550): Every hour the gatehouse writes the wear record. -/
  | wearRecordHourly
  /-- CE_TABLE_SCAN (R558): Every second or on overflow the gatehouse reads address tables and counts rows in its watch list. -/
  | ceTableScan
  /-- CAPACITY_WITHDRAWAL (R567): A pavilion deficit is covered by region moves and forced withdrawal of logical extents. -/
  | capacityWithdrawal (p : Pav)
  /-- CONFIG_STORE_WRITE (R572): Within 1 s of a write the gatehouse writes the configuration store copy. -/
  | configStoreWrite
  /-- FW_UPDATE_BEGIN (R587): FW_UPDATE_COMMAND BEGIN erases the inactive slot and starts receiving. -/
  | fwUpdateBegin (w : Who)
  /-- FW_UPDATE_DATA (R587): A FW_UPDATE_DATA value is written at FW_UPDATE_OFFSET. -/
  | fwUpdateData (w : Who) (data : Nat) (len : Nat)
  /-- FW_UPDATE_VERIFY (R587): FW_UPDATE_COMMAND VERIFY checks the slot and sets READY on a pass. -/
  | fwUpdateVerify (w : Who)
  /-- FW_UPDATE_ABORT (R587): FW_UPDATE_COMMAND ABORT erases the slot and ends the update. -/
  | fwUpdateAbort (w : Who)
  /-- FW_SVN_COMMIT (R585): FW_SVN_COMMIT blows SVN fuses up to the value written. -/
  | fwSvnCommit (w : Who) (value : BitVec 8)
  /-- FW_KEY_REVOKE (R586): FW_KEY_REVOKE blows a key slot's revocation fuse. -/
  | fwKeyRevoke (w : Who) (value : BitVec 8)
  /-- DEBUG_UNLOCK (R593): A DEBUG_UNLOCK token is verified and unlocks the debug port until cold boot. -/
  | debugUnlock (w : Who) (token : Nat)
  /-- MONITOR_HELP (R596): Monitor command help lists the commands. -/
  | monitorHelp
  /-- MONITOR_LOGIN (R595): Monitor login runs the nonce exchange and opens a session. -/
  | monitorLogin (role : Role) (answer : Nat)
  /-- MONITOR_LOGOUT (R595): Monitor logout closes the session. -/
  | monitorLogout
  /-- MONITOR_LOGIN_LOCK_EXPIRY (R595): The 60 s login lock after three wrong answers ends. -/
  | monitorLoginLockExpiry
  /-- MONITOR_IDLE_TIMEOUT (R595): A monitor session without a command for SESSION_IDLE_TIMEOUT closes. -/
  | monitorIdleTimeout
  /-- MONITOR_BOOT (R596): Monitor command boot prints boot state and rejections. -/
  | monitorBoot
  /-- MONITOR_LOG (R596): Monitor command log prints the last N log records. -/
  | monitorLog (n : Nat)
  /-- MONITOR_OD_READ (R596): Monitor command od read reads one entry. -/
  | monitorOdRead (index : BitVec 16) (sub : BitVec 8)
  /-- MONITOR_OD_WRITE (R596): Monitor command od write writes one entry after the checks. -/
  | monitorOdWrite (index : BitVec 16) (sub : BitVec 8) (value : Nat) (len : Nat)
  /-- MONITOR_VINTAGE (R596): Monitor command vintage prints bank headers. -/
  | monitorVintage
  /-- MONITOR_SLOTS (R596): Monitor command slots prints a channel's slot tables. -/
  | monitorSlots (c : Chan)
  /-- MONITOR_TRAIN (R596): Monitor command train prints a channel's training results. -/
  | monitorTrain (c : Chan)
  /-- MONITOR_PEEK (R597): Monitor command peek prints bytes through the slice-range filter. -/
  | monitorPeek (p : Pav) (addr : U64) (len : Nat)
  /-- MONITOR_POKE (R597): Monitor command poke writes 8 B through the slice-range filter. -/
  | monitorPoke (p : Pav) (addr : U64) (value : U64)
  /-- MONITOR_SLOT_SELECT (R596): Monitor command slot A or B writes BOOT_SLOT_NEXT. -/
  | monitorSlotSelect (b : Bool)
  /-- MONITOR_LOAD (R598): Monitor command load receives an image into the inactive slot by XMODEM-1K. -/
  | monitorLoad (img : ImageCheck)
  /-- HDM_DECODER_COMMIT (R348): The host commits, changes or uncommits an HDM decoder of a port, which sets whether the slice decoder finds a committed decoder for an HPA. -/
  | hdmDecoderCommit (i : Port) (k : Fin 8) (commit : Bool) (base : U64) (size : U64) (ways : Nat) (granularity : Nat) (position : Nat) (skip : U64)
  /-- COMPLETION_TIMEOUT (R390): A device-mastered read, such as a CONSUMER read or a bundle read, times out; Completion Timeout is raised and a ring read timeout faults the ring under R477. -/
  | completionTimeout (i : Port) (engine : Fin 4)
  /-- MGMT_LINK_CHANGE (R443): The 1000BASE-X management link comes up or goes down, changing MGMT_LINK_STATE. -/
  | mgmtLinkChange (up : Bool)
  /-- DHCPV4_MESSAGE (R443): A DHCPv4 reply reaches the management port and sets or renews the IPv4 address in force under MGMT_IPV4_MODE DHCP. -/
  | dhcpv4Message (addr : BitVec 32) (prefixLen : BitVec 8) (gateway : BitVec 32)
  /-- I3C_DYNAMIC_ADDRESS_ASSIGN (R445): The I3C controller assigns the part a dynamic address, which I3C_DYNAMIC_ADDRESS then reads. -/
  | i3cDynamicAddressAssign (addr : BitVec 7)
  /-- ASPM_L1_TRANSITION (R502): A host link enters or leaves L1 by ASPM, which changes whether REST is refused with LINK_ACTIVE and whether the port reads LOW_POWER. -/
  | aspmL1Transition (i : Port) (enter : Bool)
  /-- CURRENT_LIMIT_END (R528): Sensed current falls below the limit in force and the driver stops regulating; a break of 100 µs resets the safe-area timer. -/
  | currentLimitEnd (k : Fin 17)
  /-- CORE_PG_RISE (R574): CORE_PG rises at a cold boot after CORE_EN, the root PLLs lock and the ROM self-test begins. -/
  | corePgRise (locked : BitVec 8)
  /-- CORE_EN_RETRY_WAIT_END (R611): 1 s after CORE_EN was deasserted for a missing or fallen CORE_PG, the part asserts CORE_EN again and restarts the cold boot from stage 3, as R611 and R612 state. -/
  | coreEnRetryWaitEnd
  /-- FW_UPDATE_VERIFY_DONE (R587): The slot check that VERIFY started ends, recording FW_UPDATE_RESULT and setting FW_UPDATE_STATE to READY on a pass. -/
  | fwUpdateVerifyDone (img : ImageCheck)
  /-- QUICK_RETRAIN_RANK_DONE (R251): The sweep of one rank in a quick retrain ends; delays are centred, eye records kept, requests released and the next rank held. -/
  | quickRetrainRankDone (c : Chan) (lanes : List LaneRetrain)
  /-- CODEBOOK_TABLE_RELOAD_DONE (R211): The gatehouse finishes reloading a pavilion's codebook tables after an uncorrectable SRAM error, and held repeat decodes proceed. -/
  | codebookTableReloadDone (p : Pav)
  /-- DEBUG_PORT_ACCESS (R180): An access through the debug access port reaches DRAM through the slice-range filter and is allowed or blocked, counted and logged. -/
  | debugPortAccess (p : Pav) (write : Bool) (addr : U64) (data : U64)
  deriving DecidableEq, Repr

end Sys2Proof
end

