-- ==== Sys2Proof/Decode.lean ====
section
/-!
DEFINITION. The commands that a word of the table's bits spells. The rows of spec/opcode_table.json give no bits (the
spec lists events and operations, not encodings), so no word spells a command. The encodings that the spec does give
(frames, flits, plan entries, slot descriptors, bundles, records) are written where the commands use them.
-/

namespace Sys2Proof

/-- The command that a word spells by the table's bits: none, because no row gives bits. -/
def decodeTableWord (_nbits _w : Nat) : Option Instr := none

end Sys2Proof
end

