-- ==== Sys2Proof/Config.lean ====
section
/-!
DEFINITION. What the spec leaves open and the model does not choose: free values without a body, so that a claim holds
whatever they are. Each is applied to the state's own counter (log entry 3) or to what it depends on.
-/

namespace Sys2Proof.Config

/-- Random bits of the DRBG (spec/04 R153), by draw number; the model takes as many low bits as it needs. -/
opaque random : Nat → Nat

/-- What the CONSUMER word of a ring in host memory reads (spec/12 R476), by read number, where the command that
causes the read brings no answer of the host. -/
opaque hostConsumer : Nat → Nat

/-- An ECDSA signature of the part over a message hash, by draw number (spec/16 R589): the standard leaves the nonce to
the signer. -/
opaque signature : Nat → Nat

/-- DIGEST of a vintage image (spec/07 R267): the image's layout is internal to the part, so the digest of what it holds is
open; equal images give equal digests. -/
opaque imageDigest : List Nat → Nat

/-- LENGTH of a vintage image for a pavilion (spec/07 R267), by pavilion and what the image holds: its layout is internal to the
part. -/
opaque imageLength : Nat → List Nat → Nat

/-- The bytes of the UEFI driver in the expansion ROM (spec/09 R362), by offset. -/
opaque uefiDriver : Nat → Nat

/-- The digest of the boot ROM, fixed at manufacture (spec/16 R590). -/
opaque romDigest : Nat

end Sys2Proof.Config
end

