-- ==== Sys2Proof/Machine/Bits.lean ====
section
/-!
DEFINITION. Bit fields, byte orders and small number helpers (spec/00 R3: bit 0 least significant, little-endian).
-/

namespace Sys2Proof.Machine

/-- Bits `[lo + len - 1 : lo]` of a number. -/
def bits (x lo len : Nat) : Nat := (x >>> lo) &&& (2 ^ len - 1)

/-- Bit `k` of a number. -/
def bit (x k : Nat) : Bool := x.testBit k

/-- A bit as a number. -/
def b2n (b : Bool) : Nat := if b then 1 else 0

/-- Set or clear bit `k`. -/
def setBit (x k : Nat) (b : Bool) : Nat :=
  if x.testBit k = b then x else x ^^^ (2 ^ k)

/-- Replace bits `[lo + len - 1 : lo]`. -/
def setBits (x lo len v : Nat) : Nat :=
  (x ^^^ ((bits x lo len) <<< lo)) ||| ((v &&& (2 ^ len - 1)) <<< lo)

/-- Quotient rounded up. -/
def ceilDiv (a b : Nat) : Nat := (a + b - 1) / b

/-- Little-endian bytes of a number, byte 0 first (spec/00 R3). -/
def toBytes : Nat → Nat → List Nat
  | 0, _ => []
  | n + 1, x => (x &&& 0xFF) :: toBytes n (x >>> 8)

/-- The number that little-endian bytes spell. -/
def ofBytes : List Nat → Nat
  | [] => 0
  | b :: r => (b &&& 0xFF) + 256 * ofBytes r

/-- The number that big-endian bytes spell. -/
def ofBytesBE (l : List Nat) : Nat := l.foldl (fun a b => a * 256 + (b &&& 0xFF)) 0

/-- Big-endian bytes of a number. -/
def toBytesBE (n x : Nat) : List Nat := (toBytes n x).reverse

/-- Split a number into `n` pieces of `w` bits, lowest first. -/
def chunks (w : Nat) : Nat → Nat → List Nat
  | 0, _ => []
  | n + 1, x => (x &&& (2 ^ w - 1)) :: chunks w n (x >>> w)

/-- Join pieces of `w` bits, lowest first. -/
def unchunks (w : Nat) : List Nat → Nat
  | [] => 0
  | p :: r => (p &&& (2 ^ w - 1)) ||| (unchunks w r <<< w)

/-- Number of ones among the low `n` bits. -/
def popCount : Nat → Nat → Nat
  | 0, _ => 0
  | n + 1, x => (x &&& 1) + popCount n (x >>> 1)

/-- Lowest clear bit below `n`, if one is clear. -/
def lowestClear (n x : Nat) : Option Nat :=
  (List.range n).find? (fun k => !x.testBit k)

/-- Lowest set bit below `n`, if one is set. -/
def lowestSet (n x : Nat) : Option Nat :=
  (List.range n).find? (fun k => x.testBit k)

/-- Two's complement in `w` bits (spec/00 R4). -/
def ofInt (w : Nat) (x : Int) : Nat := (x % (2 ^ w : Int)).toNat

/-- The signed value of `w` bits (spec/00 R4). -/
def toInt (w x : Nat) : Int := if x < 2 ^ (w - 1) then (x : Int) else (x : Int) - (2 ^ w : Int)

/-- `a` is ahead of `b` modulo `2 ^ w`, by less than half the range (spec/08 R312). -/
def ahead (w a b : Nat) : Bool :=
  let d := (a + 2 ^ w - b) % 2 ^ w
  decide (0 < d) && decide (d < 2 ^ (w - 1))

/-- Remove the first element that a test accepts, and hand it out. -/
def takeFirst {α : Type} (t : α → Bool) : List α → Option (α × List α)
  | [] => none
  | a :: r => if t a then some (a, r) else (takeFirst t r).map (fun q => (q.1, a :: q.2))

/-- Fold a function over a list of numbered things, changing the state each time. -/
def iter {α σ : Type} (l : List α) (s : σ) (f : σ → α → σ) : σ := l.foldl f s

/-- The promenade link between two different pavilions (spec/00 R9). -/
def linkOf (a b : Nat) : Nat :=
  let lo := min a b
  let hi := max a b
  lo * (15 - lo) / 2 + (hi - lo - 1)

/-- The two pavilions of each link, lower first (spec/00 R9). -/
def linkEnds (n : Nat) : Nat × Nat :=
  ((List.range 8).flatMap (fun a => (List.range 8).filterMap (fun b =>
    if a < b && linkOf a b == n then some (a, b) else none))).headD (0, 1)

end Sys2Proof.Machine
end

