-- ==== Sys2Proof/Machine/Crypto.lean ====
section
/-!
DEFINITION. The cryptographic functions that the spec names by their standards (spec/04, spec/11, spec/16): AES-256,
XTS, CMAC, key wrap with padding, SHA-384, HMAC, HKDF and P-384. PRESUMED (log entry 11): the spec names the standards
and does not give their text; these definitions follow the published standards.
Byte strings are lists of bytes, first byte first.
-/

namespace Sys2Proof.Machine

/-! ## AES-256 (FIPS 197) -/

/-- The S-box, byte k at bits 8k+7 to 8k. -/
def aesSboxTable : Nat := 0x16BB54B00F2D99416842E6BF0D89A18CDF2855CEE9871E9B948ED9691198F8E19E1DC186B95735610EF6034866B53E708A8BBD4B1F74DDE8C6B4A61C2E2578BA08AE7A65EAF4566CA94ED58D6D37C8E779E4959162ACD3C25C2406490A3A32E0DB0B5EDE14B8EE4688902A22DC4F816073195D643D7EA7C41744975FEC130CCDD2F3FF1021DAB6BCF5389D928F40A351A89F3C507F02F94585334D43FBAAEFD0CF584C4A39BECB6A5BB1FC20ED00D153842FE329B3D63B52A05A6E1B1A2C830975B227EBE28012079A059618C323C7041531D871F1E5A534CCF73F362693FDB7C072A49CAFA2D4ADF04759FA7DC982CA76ABD7FE2B670130C56F6BF27B777C63

/-- The inverse S-box. -/
def aesInvTable : Nat := 0x7D0C2155631469E126D677BA7E042B17619953833CBBEBC8B0F52AAE4D3BE0A0EF9CC9939F7AE52D0D4AB519A97F51605FEC8027591012B131C7078833A8DD1FF45ACD78FEC0DB9A2079D2C64B3E56FC1BBE18AA0E62B76F89C5291D711AF1476EDF751CE837F9E28535ADE72274AC9673E6B4F0CECFF297EADC674F4111913A6B8A130103BDAFC1020F3FCA8F1E2CD00645B3B80558E4F70AD3BC8C00ABD890849D8DA75746155EDAB9EDFD5048706C92B6655DCC5CA4D41698688664F6F87225D18B6D49A25B76B224D92866A12E084EC3FA420B954CEE3D23C2A632947B54CBE9DEC444438E3487FF2F9B8239E37CFBD7F3819EA340BF38A53630D56A0952

/-- One byte through the S-box. -/
def aesSub (b : Nat) : Nat := bits aesSboxTable (8 * b) 8

/-- One byte through the inverse S-box. -/
def aesInvSub (b : Nat) : Nat := bits aesInvTable (8 * b) 8

/-- Multiply by x in the field of AES. -/
def aesXtime (b : Nat) : Nat := if b < 128 then 2 * b else (2 * b) ^^^ 0x11B

/-- Multiply in the field of AES by a constant below 16. -/
def aesMul (c b : Nat) : Nat :=
  let b2 := aesXtime b
  let b4 := aesXtime b2
  let b8 := aesXtime b4
  (if bit c 0 then b else 0) ^^^ (if bit c 1 then b2 else 0) ^^^ (if bit c 2 then b4 else 0) ^^^ (if bit c 3 then b8 else 0)

/-- Bytewise exclusive or. -/
def xorBytes (a b : List Nat) : List Nat := List.zipWith (· ^^^ ·) a b

/-- The key schedule, one word of four bytes at a time, newest first; `i` counts the words made. -/
def aesExpand : Nat → Nat → Nat → List (List Nat) → List (List Nat)
  | 0, _, _, ws => ws
  | n + 1, i, rcon, ws =>
    let t := ws.headD []
    let o := ws.getD 7 []
    let t' :=
      if i % 8 = 0 then xorBytes ((t.rotateLeft 1).map aesSub) [rcon, 0, 0, 0]
      else if i % 8 = 4 then t.map aesSub
      else t
    aesExpand n (i + 1) (if i % 8 = 0 then aesXtime rcon else rcon) (xorBytes o t' :: ws)

/-- Split a byte string into blocks of `w` bytes. -/
def blocksOf (w : Nat) : Nat → List Nat → List (List Nat)
  | 0, _ => []
  | n + 1, l => l.take w :: blocksOf w n (l.drop w)

/-- The 15 round keys of AES-256 from a key of 32 bytes. -/
def aesKeys (key : List Nat) : List (List Nat) :=
  let ws := (aesExpand 52 8 1 (blocksOf 4 8 key).reverse).reverse
  (blocksOf 4 15 (ws.map (fun w => unchunks 8 w))).map (fun g => (g.map (fun w => chunks 8 4 w)).flatten)

/-- ShiftRows on 16 bytes in column order. -/
def aesShift (s : List Nat) : List Nat :=
  [0, 5, 10, 15, 4, 9, 14, 3, 8, 13, 2, 7, 12, 1, 6, 11].map (fun k => s.getD k 0)

/-- The inverse of ShiftRows. -/
def aesUnshift (s : List Nat) : List Nat :=
  [0, 13, 10, 7, 4, 1, 14, 11, 8, 5, 2, 15, 12, 9, 6, 3].map (fun k => s.getD k 0)

/-- One column through a circulant matrix with first row `a b c d`. -/
def aesCol (a b c d : Nat) : List Nat → List Nat
  | [w, x, y, z] =>
    [aesMul a w ^^^ aesMul b x ^^^ aesMul c y ^^^ aesMul d z,
     aesMul d w ^^^ aesMul a x ^^^ aesMul b y ^^^ aesMul c z,
     aesMul c w ^^^ aesMul d x ^^^ aesMul a y ^^^ aesMul b z,
     aesMul b w ^^^ aesMul c x ^^^ aesMul d y ^^^ aesMul a z]
  | l => l

/-- MixColumns. -/
def aesMix (s : List Nat) : List Nat := (blocksOf 4 4 s).flatMap (aesCol 2 3 1 1)

/-- The inverse of MixColumns. -/
def aesUnmix (s : List Nat) : List Nat := (blocksOf 4 4 s).flatMap (aesCol 14 11 13 9)

/-- The rounds of encryption over the round keys left. -/
def aesEncRounds : List (List Nat) → List Nat → List Nat
  | [], s => s
  | [k], s => xorBytes (aesShift (s.map aesSub)) k
  | k :: r, s => aesEncRounds r (xorBytes (aesMix (aesShift (s.map aesSub))) k)

/-- The rounds of decryption over the round keys left, last round first. -/
def aesDecRounds : List (List Nat) → List Nat → List Nat
  | [], s => s
  | [k], s => xorBytes ((aesUnshift s).map aesInvSub) k
  | k :: r, s => aesDecRounds r (aesUnmix (xorBytes ((aesUnshift s).map aesInvSub) k))

/-- AES-256 encryption of one block under expanded keys. -/
def aesEncrypt (ks : List (List Nat)) (b : List Nat) : List Nat :=
  aesEncRounds ks.tail (xorBytes b (ks.headD []))

/-- AES-256 decryption of one block under expanded keys. -/
def aesDecrypt (ks : List (List Nat)) (b : List Nat) : List Nat :=
  let r := ks.reverse
  aesDecRounds r.tail (xorBytes b (r.headD []))

/-! ## XTS (IEEE 1619) and CMAC (SP 800-38B) -/

/-- Multiply a tweak of 128 bits, little-endian, by x. -/
def xtsDouble (t : Nat) : Nat :=
  let d := t * 2
  if d < 2 ^ 128 then d else (d - 2 ^ 128) ^^^ 0x87

/-- XTS over whole blocks, with the block cipher given. -/
def xtsBlocks (f : List Nat → List Nat) : List (List Nat) → Nat → List Nat
  | [], _ => []
  | b :: r, t =>
    let tb := toBytes 16 t
    xorBytes (f (xorBytes b tb)) tb ++ xtsBlocks f r (xtsDouble t)

/-- The tweak after `n` doublings. -/
def xtsTweak : Nat → Nat → Nat
  | 0, t => t
  | n + 1, t => xtsTweak n (xtsDouble t)

/-- XTS over a data unit of at least one block, with ciphertext stealing where it ends in part of a block (spec/03 R127, IEEE
1619). `back`: decryption, whose last whole block takes the later tweak. -/
def xtsUnit (f : List Nat → List Nat) (back : Bool) (t : Nat) (data : List Nat) : List Nat :=
  let n := data.length / 16
  let r := data.length % 16
  if r = 0 then xtsBlocks f (blocksOf 16 n data) t else
  let head := xtsBlocks f (blocksOf 16 (n - 1) data) t
  let a := xtsTweak (n - 1) t
  let first := if back then xtsDouble a else a
  let second := if back then a else xtsDouble a
  let whole := xtsBlocks f [(data.drop (16 * (n - 1))).take 16] first
  head ++ xtsBlocks f [data.drop (16 * n) ++ whole.drop r] second ++ whole.take r

/-- XTS-AES-256 encryption of a data unit under the tweak number of spec/04 R158. -/
def xtsEncrypt (kData kTweak : Nat) (tweak : Nat) (data : List Nat) : List Nat :=
  let k1 := aesKeys (toBytes 32 kData)
  let t := ofBytes (aesEncrypt (aesKeys (toBytes 32 kTweak)) (toBytes 16 tweak))
  xtsUnit (aesEncrypt k1) false t data

/-- XTS-AES-256 decryption of a data unit. -/
def xtsDecrypt (kData kTweak : Nat) (tweak : Nat) (data : List Nat) : List Nat :=
  let k1 := aesKeys (toBytes 32 kData)
  let t := ofBytes (aesEncrypt (aesKeys (toBytes 32 kTweak)) (toBytes 16 tweak))
  xtsUnit (aesDecrypt k1) true t data

/-- Double a big-endian block in the field of CMAC. -/
def cmacDouble (b : List Nat) : List Nat :=
  let x := ofBytesBE b * 2
  toBytesBE 16 (if x < 2 ^ 128 then x else (x - 2 ^ 128) ^^^ 0x87)

/-- The chained blocks of CMAC. -/
def cmacChain (ks : List (List Nat)) : List (List Nat) → List Nat → List Nat
  | [], c => c
  | b :: r, c => cmacChain ks r (aesEncrypt ks (xorBytes b c))

/-- AES-256-CMAC of a byte string. -/
def cmac (key : Nat) (m : List Nat) : List Nat :=
  let ks := aesKeys (toBytes 32 key)
  let k1 := cmacDouble (aesEncrypt ks (List.replicate 16 0))
  let n := if m.length = 0 then 1 else ceilDiv m.length 16
  let last := m.drop (16 * (n - 1))
  let lastBlock :=
    if last.length = 16 then xorBytes last k1
    else xorBytes (last ++ 0x80 :: List.replicate (15 - last.length) 0) (cmacDouble k1)
  cmacChain ks (blocksOf 16 (n - 1) m ++ [lastBlock]) (List.replicate 16 0)

/-! ## Key wrap with padding (SP 800-38F) -/

/-- One unwrapping round over registers, last first: `t` is the round's step number for the first one met. -/
def kwRound (ks : List (List Nat)) : Nat → List (List Nat) → List Nat → List (List Nat) → List Nat × List (List Nat)
  | _, [], a, done => (a, done)
  | t, r :: rest, a, done =>
    let b := aesDecrypt ks (xorBytes a (toBytesBE 8 t) ++ r)
    kwRound ks (t - 1) rest (b.take 8) (b.drop 8 :: done)

/-- The six rounds of unwrapping. -/
def kwRounds (ks : List (List Nat)) (n : Nat) : Nat → List Nat → List (List Nat) → List Nat × List (List Nat)
  | 0, a, rs => (a, rs)
  | j + 1, a, rs =>
    let q := kwRound ks (n * (j + 1)) rs.reverse a []
    kwRounds ks n j q.1 q.2

/-- Unwrap a wrapped string with AES-256-KWP: the plain bytes, or none where the integrity check fails. -/
def kwpUnwrap (key : Nat) (c : List Nat) : Option (List Nat) :=
  let ks := aesKeys (toBytes 32 key)
  let n := c.length / 8 - 1
  let q := kwRounds ks n 6 (c.take 8) (blocksOf 8 n (c.drop 8))
  let len := ofBytesBE (q.1.drop 4)
  let plain := q.2.flatten
  if q.1.take 4 = [0xA6, 0x59, 0x59, 0xA6] && decide (len ≤ 8 * n) && decide (8 * (n - 1) < len)
      && (plain.drop len).all (· == 0)
  then some (plain.take len) else none

/-- One wrapping round over registers, first first: `t` is the round's step number for the first one met. -/
def kwWrapRound (ks : List (List Nat)) : Nat → List (List Nat) → List Nat → List (List Nat) → List Nat × List (List Nat)
  | _, [], a, done => (a, done.reverse)
  | t, r :: rest, a, done =>
    let b := aesEncrypt ks (a ++ r)
    kwWrapRound ks (t + 1) rest (xorBytes (b.take 8) (toBytesBE 8 t)) (b.drop 8 :: done)

/-- Wrap a byte string of more than 8 bytes with AES-256-KWP. -/
def kwpWrap (key : Nat) (m : List Nat) : List Nat :=
  let ks := aesKeys (toBytes 32 key)
  let n := (m.length + 7) / 8
  let rs := blocksOf 8 n (m ++ List.replicate (8 * n - m.length) 0)
  let q := (List.range 6).foldl (fun (q : List Nat × List (List Nat)) j => kwWrapRound ks (n * j + 1) q.2 q.1 [])
    ([0xA6, 0x59, 0x59, 0xA6] ++ toBytesBE 4 m.length, rs)
  q.1 ++ q.2.flatten

/-! ## SHA-384 (FIPS 180-4), HMAC, HKDF -/

/-- The round constants of SHA-512. -/
def shaK : List Nat := [
  0x428A2F98D728AE22, 0x7137449123EF65CD, 0xB5C0FBCFEC4D3B2F, 0xE9B5DBA58189DBBC,
  0x3956C25BF348B538, 0x59F111F1B605D019, 0x923F82A4AF194F9B, 0xAB1C5ED5DA6D8118,
  0xD807AA98A3030242, 0x12835B0145706FBE, 0x243185BE4EE4B28C, 0x550C7DC3D5FFB4E2,
  0x72BE5D74F27B896F, 0x80DEB1FE3B1696B1, 0x9BDC06A725C71235, 0xC19BF174CF692694,
  0xE49B69C19EF14AD2, 0xEFBE4786384F25E3, 0x0FC19DC68B8CD5B5, 0x240CA1CC77AC9C65,
  0x2DE92C6F592B0275, 0x4A7484AA6EA6E483, 0x5CB0A9DCBD41FBD4, 0x76F988DA831153B5,
  0x983E5152EE66DFAB, 0xA831C66D2DB43210, 0xB00327C898FB213F, 0xBF597FC7BEEF0EE4,
  0xC6E00BF33DA88FC2, 0xD5A79147930AA725, 0x06CA6351E003826F, 0x142929670A0E6E70,
  0x27B70A8546D22FFC, 0x2E1B21385C26C926, 0x4D2C6DFC5AC42AED, 0x53380D139D95B3DF,
  0x650A73548BAF63DE, 0x766A0ABB3C77B2A8, 0x81C2C92E47EDAEE6, 0x92722C851482353B,
  0xA2BFE8A14CF10364, 0xA81A664BBC423001, 0xC24B8B70D0F89791, 0xC76C51A30654BE30,
  0xD192E819D6EF5218, 0xD69906245565A910, 0xF40E35855771202A, 0x106AA07032BBD1B8,
  0x19A4C116B8D2D0C8, 0x1E376C085141AB53, 0x2748774CDF8EEB99, 0x34B0BCB5E19B48A8,
  0x391C0CB3C5C95A63, 0x4ED8AA4AE3418ACB, 0x5B9CCA4F7763E373, 0x682E6FF3D6B2B8A3,
  0x748F82EE5DEFB2FC, 0x78A5636F43172F60, 0x84C87814A1F0AB72, 0x8CC702081A6439EC,
  0x90BEFFFA23631E28, 0xA4506CEBDE82BDE9, 0xBEF9A3F7B2C67915, 0xC67178F2E372532B,
  0xCA273ECEEA26619C, 0xD186B8C721C0C207, 0xEADA7DD6CDE0EB1E, 0xF57D4F7FEE6ED178,
  0x06F067AA72176FBA, 0x0A637DC5A2C898A6, 0x113F9804BEF90DAE, 0x1B710B35131C471B,
  0x28DB77F523047D84, 0x32CAAB7B40C72493, 0x3C9EBE0A15C9BEBC, 0x431D67C49C100D4C,
  0x4CC5D4BECB3E42B6, 0x597F299CFC657E2A, 0x5FCB6FAB3AD6FAEC, 0x6C44198C4A475817]

/-- The initial value of SHA-384. -/
def shaIV : List Nat := [0xCBBB9D5DC1059ED8, 0x629A292A367CD507, 0x9159015A3070DD17, 0x152FECD8F70E5939, 0x67332667FFC00B31, 0x8EB44A8768581511, 0xDB0C2E0D64F98FA7, 0x47B5481DBEFA4FA4]

/-- Rotate a 64-bit word right. -/
def rotr (n x : Nat) : Nat := (x >>> n) ||| ((x <<< (64 - n)) &&& 0xFFFFFFFFFFFFFFFF)

/-- Addition of 64-bit words. -/
def add64 (a b : Nat) : Nat := (a + b) &&& 0xFFFFFFFFFFFFFFFF

/-- The message schedule, newest word first. -/
def shaSchedule : Nat → List Nat → List Nat
  | 0, w => w
  | n + 1, w =>
    let w2 := w.getD 1 0
    let w15 := w.getD 14 0
    let s0 := rotr 1 w15 ^^^ rotr 8 w15 ^^^ (w15 >>> 7)
    let s1 := rotr 19 w2 ^^^ rotr 61 w2 ^^^ (w2 >>> 6)
    shaSchedule n (add64 (add64 (w.getD 15 0) s0) (add64 (w.getD 6 0) s1) :: w)

/-- One round. -/
def shaRound : List Nat → Nat × Nat → List Nat
  | [a, b, c, d, e, f, g, h], (k, w) =>
    let s1 := rotr 14 e ^^^ rotr 18 e ^^^ rotr 41 e
    let ch := (e &&& f) ^^^ ((0xFFFFFFFFFFFFFFFF ^^^ e) &&& g)
    let t1 := add64 (add64 h s1) (add64 ch (add64 k w))
    let s0 := rotr 28 a ^^^ rotr 34 a ^^^ rotr 39 a
    let mj := (a &&& b) ^^^ (a &&& c) ^^^ (b &&& c)
    [add64 t1 (add64 s0 mj), a, b, c, add64 d t1, e, f, g]
  | l, _ => l

/-- One block of 128 bytes into the chaining value. -/
def shaBlock (h : List Nat) (b : List Nat) : List Nat :=
  let w := (shaSchedule 64 ((blocksOf 8 16 b).map ofBytesBE).reverse).reverse
  List.zipWith add64 h ((shaK.zip w).foldl shaRound h)

/-- SHA-384 of a byte string: 48 bytes. -/
def sha384 (m : List Nat) : List Nat :=
  let z := (111 + 128 - m.length % 128) % 128
  let p := m ++ 0x80 :: List.replicate z 0 ++ toBytesBE 16 (8 * m.length)
  (((blocksOf 128 (p.length / 128) p).foldl shaBlock shaIV).flatMap (toBytesBE 8)).take 48

/-- HMAC-SHA-384 under a key of at most 128 bytes. -/
def hmac (key m : List Nat) : List Nat :=
  let k := key ++ List.replicate (128 - key.length) 0
  sha384 (k.map (· ^^^ 0x5C) ++ sha384 (k.map (· ^^^ 0x36) ++ m))

/-- The first `n` bytes of HKDF-SHA-384, `n` at most 48. -/
def hkdf (salt ikm info : List Nat) (n : Nat) : List Nat :=
  (hmac (hmac salt ikm) (info ++ [1])).take n

/-! ## P-384 (FIPS 186-5, SP 800-186) -/

/-- The prime of P-384. -/
def p384P : Nat := 0xFFFFFFFFFFFFFFFFFFFFFFFFFFFFFFFFFFFFFFFFFFFFFFFFFFFFFFFFFFFFFFFEFFFFFFFF0000000000000000FFFFFFFF

/-- The order of the base point. -/
def p384N : Nat := 0xFFFFFFFFFFFFFFFFFFFFFFFFFFFFFFFFFFFFFFFFFFFFFFFFC7634D81F4372DDF581A0DB248B0A77AECEC196ACCC52973

/-- The coefficient b of the curve. -/
def p384B : Nat := 0xB3312FA7E23EE7E4988E056BE3F82D19181D9C6EFE8141120314088F5013875AC656398D8A2ED19D2A85C8EDD3EC2AEF

/-- The base point. -/
def p384G : Nat × Nat :=
  (0xAA87CA22BE8B05378EB1C71EF320AD746E1D3B628BA79B9859F741E082542A385502F25DBF55296C3A545E3872760AB7,
   0x3617DE4A96262C6F5D9E98BF9292DC29F8F41DBD289A147CE9DA3113B5F0B8C00A60B1CE1D7E819D7A431D7C90EA0E5F)

/-- Modular power by squaring over the low `n` bits of the exponent. -/
def powMod (m : Nat) : Nat → Nat → Nat → Nat → Nat
  | 0, _, _, acc => acc
  | n + 1, b, e, acc => powMod m n (b * b % m) (e >>> 1) (if bit e 0 then acc * b % m else acc)

/-- The inverse modulo a prime of 384 bits. -/
def invMod (m x : Nat) : Nat := powMod m 384 (x % m) (m - 2) 1

/-- Addition of points; none is the point at infinity. -/
def ecAdd : Option (Nat × Nat) → Option (Nat × Nat) → Option (Nat × Nat)
  | none, q => q
  | p, none => p
  | some (x1, y1), some (x2, y2) =>
    if x1 = x2 && (y1 + y2) % p384P = 0 then none else
    let l := if x1 = x2 then (3 * x1 * x1 + (p384P - 3)) * invMod p384P (2 * y1) % p384P
             else (y2 + p384P - y1) * invMod p384P (x2 + p384P - x1) % p384P
    let x3 := (l * l + 2 * p384P - x1 - x2) % p384P
    some (x3, (l * (x1 + p384P - x3) + p384P - y1) % p384P)

/-- Multiply a point by the low `n` bits of a scalar. -/
def ecMul : Nat → Nat → Option (Nat × Nat) → Option (Nat × Nat)
  | 0, _, _ => none
  | n + 1, k, p => ecAdd (if bit k 0 then p else none) (ecMul n (k >>> 1) (ecAdd p p))

/-- Read an uncompressed point of 97 bytes, byte 0 first in the number: 0x04, X, Y, both big-endian. None where the
format is wrong, a coordinate is out of range or the point is not on the curve (spec/04 R155). -/
def ecPoint (v : Nat) : Option (Nat × Nat) :=
  let b := toBytes 97 v
  let x := ofBytesBE ((b.drop 1).take 48)
  let y := ofBytesBE (b.drop 49)
  if b.headD 0 = 4 && decide (x < p384P) && decide (y < p384P)
      && decide (y * y % p384P = (x * x * x + (p384P - 3) * x + p384B) % p384P)
  then some (x, y) else none

/-- The uncompressed bytes of a point as a number. -/
def ecBytes : Option (Nat × Nat) → Nat
  | none => 0
  | some (x, y) => ofBytes (4 :: toBytesBE 48 x ++ toBytesBE 48 y)

/-- ECDH: the big-endian X coordinate of the shared point, 48 bytes. -/
def ecdh (d : Nat) (q : Nat × Nat) : List Nat :=
  match ecMul 384 d (some q) with
  | some (x, _) => toBytesBE 48 x
  | none => List.replicate 48 0

/-- ECDSA with SHA-384: the signature `(r, s)` of a message under a public point. -/
def ecdsaVerify (q : Nat × Nat) (m : List Nat) (r sg : Nat) : Bool :=
  if r = 0 || sg = 0 || decide (p384N ≤ r) || decide (p384N ≤ sg) then false else
  let w := invMod p384N sg
  let e := ofBytesBE (sha384 m)
  match ecAdd (ecMul 384 (e * w % p384N) (some p384G)) (ecMul 384 (r * w % p384N) (some q)) with
  | some (x, _) => decide (x % p384N = r)
  | none => false

end Sys2Proof.Machine
end

