-- ==== Sys2Proof/Machine/Entries.lean ====
section
/-!
DEFINITION. The object dictionary: one name per entry (spec/11 R431) and what each entry is: its address, its
instances, its type, access, default, range, writers and flags, as the entry tables of spec/01 to spec/16 give them.
-/

namespace Sys2Proof.Machine

/-- The types of spec/11 R432. -/
inductive Ty where
  | bool | u8 | u16 | u32 | u64 | i32 | enum | string | blob | time
  deriving DecidableEq, Repr

/-- The access rights of spec/11 R433. -/
inductive Access where
  | const | ro | rw | wo | rws
  deriving DecidableEq, Repr

/-- The function an entry belongs to (spec/11 R435, R441). -/
inductive Func where
  | package | pavilion | channel | rank | port | link | slice
  deriving DecidableEq, Repr

/-- What a counted entry is (spec/11 R464); `notCounted` for every other entry. -/
inductive Count where
  | notCounted | level | tally
  deriving DecidableEq, Repr

/-- One entry of the dictionary, or one block of entries over consecutive instances.
Instance `i` (from `first` to `first + instances - 1`) stands at index `index + i / perIndex` and
subindex `sub + (i % perIndex) * subStep`. -/
structure EntryInfo where
  name      : String
  index     : Nat
  sub       : Nat
  first     : Nat
  instances : Nat
  perIndex  : Nat
  subStep   : Nat
  func      : Func
  ty        : Ty
  access    : Access
  size      : Nat
  dflt      : Nat
  noDefault : Bool
  allowed   : List (Nat × Nat)
  roles     : Nat
  vintage   : Bool
  staged    : Bool
  count     : Count
  deriving DecidableEq, Repr

/-- The entries of the dictionary, one constructor per row of the entry tables. -/
inductive Entry where
  | pavilionsFitted | pavilionsMin | pavilionsInService | gatehousePavilion | partFailed | partFailCause
  | pavilionState | pavilionCommand | pavilionCause | pavilionRawCapacity | pavilionRegionsHomed | pavilionPortsUp
  | pavilionReturnPending | capRaw | capCellarBook | capSpare | capCommonsReserve | capPlots
  | capCommons | capCommonsLent | capFree | capZeroing | capHeldWrites | capLogicalLimit
  | capLogicalGranted | commonsReserveSetting | commonsWarn | planInterval | heatSample | promoteThreshold
  | demoteThreshold | planMaxEntries | movesDone | movesCancelled | movesSkipped | planEntriesUndone
  | demoteIncompressible | cellarMirrorRepairs | cellarExtentsLost | cellarSingleCopy | heatDropped | sliceCapacityMode
  | sliceExpectedRatio | slicePlotMin | sliceHomeMask | sliceFirstWriteTier | sliceTierPin | sliceStallLimit
  | slicePlotWarn | slicePlot | sliceOwned | sliceBorrowed | slicePagesHot | slicePagesWarm
  | slicePagesZero | slicePagesPoisoned | sliceHeldWrites | caskFormat | codecFaultsIllegal | codecFaultsReference
  | codecFaultsLength | codecFaultsOutput | codecFaultsCrc | codecRetryOk | casksRaw | codebookRecodeSkipped
  | buildSourceSlice | buildPages | buildTargetSlot | codebookBuildCommand | buildState | buildResult
  | buildPagesSampled | codebookState | codebookImage | codebookGeneration | codebookCasks | codebookSlices
  | codebookCommand | codebookLoadResult | sliceCodebook | sliceSamplingAllowed | sliceCodebooksHeld | sliceCasksRaw
  | sliceCodecFaults | keystoreCapacity | keystoreUsed | agreementPublic | rngHealth | debugBlocked
  | integrityRetryOk | keyImportRefused | wrapPeerPublic | wrapKeyState | wrapKeyCommand | sliceLineMode
  | sliceKeyCommand | sliceKeyImport | sliceKeyHandle0 | sliceKeyHandle1 | sliceKeyActive | sliceKeyUseLimit
  | sliceKeyUses | rekeyState | rekeyCause | rekeyPagesLeft | sliceIntegrityFails | sliceLinesPoisoned
  | sliceRekeys | fillLastKind | fillLastDuration | repairsDone | repairsDropped | caskRescues
  | pcCorrectedCasks | pcUncorrectable | clearWordFails | tagRegionLinesLost | ownershipEntriesLost | linesUncorrectable
  | ceTable | ceTableOverflow | ceTableCommand | fillState | fillProgress | scrubPassTime
  | scrubSlots | scrubProgress | scrubPasses | scrubLastPass | scrubPassesLate | ceChannel
  | ueChannel | ceDevicesRank | ueRank | flipMask | flipControl | flipAddress
  | flipCommand | flipStatus | flipLast | flipTestResult | flipTestDevice | slicePageCode
  | slicePcCorrections | slicePcUncorrectable | dramSpeed | dramSpeedLimit | dramSpareMode | dramDimmsPerChannel
  | dramRanksPerDimm | dramDevice | dramStack | dramLayers | hammerThrottle | hammerRfm
  | channelState | channelCommand | pageOpenLimit | powerdownIdle | refreshRate | dimmTemp0
  | dimmTemp1 | guardHolds | rfmIssued | hammerThrottles | withheldReturned | caParityErrors
  | quickRetrains | quickRetrainMisses | rebuildProgress | rankState | rankLayer | rankReplaces
  | rankFailCause | trainEyes | ueTransient | slicePagePolicy | sliceHammerThrottles | vintageNumber
  | vintageDigest | vintageSwapTime | vintageCommand | vintageBatchState | vintageBatchTimeout | vintageLastRefusal
  | vintageRefusalDetail | vintageCompiles | vintageRefusals | vintageCheckerRejects | vintageForced | slotHeadroom
  | openMinSlots | migrationBandwidth | swapCarryover | classesActive | migrationBandwidthInForce | slotsOwnedMax
  | slotsOpenMin | writeBlocks | classSlices | classBankMisses | classReadSlots | classWriteSlots
  | slotTableA | slotTableB | slotsOpen | ingressSlices | ingressParkedNow | ingressParked
  | parkFull | sliceServiceClass | sliceGuaranteeRead | sliceGuaranteeWrite | sliceCeilingRead | sliceCeilingWrite
  | sliceCeilingBurst | sliceCheckWindow | sliceShortfallTolerance | sliceServiceEvents | sliceServiceState | sliceServicePermille
  | sliceBurstsClass | sliceBurstsOpen | sliceBankMisses | sliceShortfalls | sliceLatencyMisses | linkState
  | linkCause | linkCommand | linkCreditTimeout | linkRetrainAttempts | linkDetour | linkCrcErrors
  | linkReplays | linkDuplicates | linkReplayStalls | linkBreaks | linkSyntheticCompletions | linkBadMessages
  | linkEyeMargin | portState | portLinkSpeed | portLinkWidth | portFlitMode | portSpeedLimit
  | portWidthLimit | portDState | portWakeMethod | portEpoch | portLinkDowns | portUndecoded
  | portUnmapped | portStaleResponses | portDroppedAtReset | portPoisonedWrites | portBmBlocked | portRegionsMapped
  | portMaskCacheMisses | dcRequest | dcState | dcResult | dcOfferTimeout | dcExtentsAccepted
  | aerUeStatus | aerCeStatus | rasUeStatus | ideState | ideFailures | spdmSessions
  | poisonListEntries | flrCount | sliceState | sliceCommand | sliceDrainKind | slicePort
  | slicePasid | slicePasidEn | sliceDoorbellOps | sliceExtentsGranted | sliceExtentsUnmapped | sliceSquashed
  | sliceRefused | sliceLastDrain | sliceMigrationId | sliceWrapIndex | sliceDirtyExtents | sliceBundleAddress
  | sliceBundleLen | sliceBundleSequence | sliceBundleSize | sliceSaveResult | sliceRestoreResult | sliceDoorbellsRefused
  | sliceClearing | vendorName | productName | orderingCode | stepping | serialNumber
  | firmwareVersion | dictVersion | vopFormat | catalogueLength | mgmtMac | mgmtLinkState
  | mgmtIpv4Mode | mgmtIpv4Address | mgmtIpv4Prefix | mgmtIpv4Gateway | mgmtIpv6Address | mgmtIpv6Prefix
  | mgmtVlan | mgmtUdpPort | mgmtCommand | mgmtConfirmTimeout | mgmtFramesDropped | i3cStaticAddress
  | i3cDynamicAddress | mctpEid | transportRolesEthernet | transportRolesMctp | transportRolesMailbox | mailboxVopPorts
  | sessionsMax | sessionsPerRoleMax | sessionsOpen | sessionIdleTimeout | authFailures | replaysDropped
  | claimState | wakeAccepted | wakeRejected | roleKeyState | rolePeerPublic | roleCommand
  | roleSessions | roleOpenSequence | wakeLastSequence | sessionId | sessionRole | sessionTransport
  | sessionPeer | sessionLastSequence | sessionSubscription | sessionNotifyLost | sessionCommand | logCapacity
  | logNext | logRecords | timeNow | timeSource | timeState | timeHostPort
  | timeStepThreshold | timePtpDomain | timePtpLossTimeout | timeOffset | timeSteps | timeLastStep
  | timeSetsIgnored | counterStoreCe | counterStoreUe | taintedCount | taintedList | counterReset
  | harvestDefaultPort | harvestBacklog | harvestLost | harvestMinutes | dumpRingBase | dumpRingUnits
  | harvestRingBase | harvestRingUnits | noticeRingBase | noticeRingUnits | ringEnable | ringState
  | snapPeriod | snapSet | noticeGroups | noticePackage | snapshotsWritten | dumpLost
  | noticeLost | harvestWritten | armCounter | armPeriod | armTriggers | armSkidMax
  | sliceReadBytes | sliceWriteBytes | sliceReads | sliceWrites | slicePoisonReads | slicePoisonEvents
  | sliceHeldMs | sliceGrantedExtentMs | sliceHotPageMs | sliceWarmPageMs | sliceSavedUnitMs | sliceBorrowedExtentMs
  | sliceTainted | sliceTenantCounters | sliceCounterCommand | sliceDumpAddress | sliceHarvestMinutes | sliceHarvestLost
  | sliceHarvestLast | packagePowerState | powerCommand | restAuto | restAutoDelay | restEntries
  | restRefusals | restRefusalsByKind | restLastRefuser | restLastRefusalReason | restAborts | restLastAbortPoint
  | restLastWakeSource | restLastDuration | restLastExitTime | restExitFailures | retentionCe | retentionUe
  | aonPllLocked | pavilionPowerState | pavilionIdleDelay | pavilionIdleEntries | pavilionIdleMs | domainsGated
  | pllLocked | pllLockLosses | clkPhyFrequency | mainState | mainIlim | mainIlimInForce
  | mainUv | mainOv | mainWarnLow | mainWarnHigh | mainInsertDelay | mainRampRate
  | mainSoaTime | mainRetries | mainRetryCount | mainLastTrip | mainLastTripTime | mainTrips
  | mainWindowExits | presenceBounces | mainVinNow | mainVoutNow | mainCurrent | mainEnergy
  | mainIlimCeiling | branchIlimCeiling | branchState | branchCommand | branchIlim | branchIlimInForce
  | branchRampRate | branchSoaTime | branchRetries | branchLastTrip | branchTrips | branchCurrent
  | branchEnergy | seasonLength | seasonNumber | seasonElapsed | seasonLastEnd | maintWindowStart
  | maintWindowLength | maintCommand | maintState | wearEquivHours | wearRatedHours | tjHistogram
  | wearRecordState | wearRetirePolicy | weakRowThreshold | spareReservePermille | rankWearRows | eyeWidthWorn
  | ceRateDouble | pathSlackGuard | pavilionMinLayers | withdrawnExtents | ladderEvents | vddGuard
  | vddGuardLimit | pathSlackMin | roDrift | pavilionWorn | rowsWeak | rowsRepaired
  | extentsRetired | layersLost | refreshFloor | ceRateSeason | eyeWidthMin | rankWorn
  | pprUsed | portEyeMargin | bootState | bootSource | bootSlotActive | bootSlotNext
  | bootRejectA | bootRejectB | bootStageTimes | bootLastDuration | fwMeasurement | fwSvnImage
  | fwSvnFused | fwSvnCommit | fwKeyIndex | fwKeysRevoked | fwKeyRevoke | fwUpdateCommand
  | fwUpdateOffset | fwUpdateData | fwUpdateState | fwUpdateResult | deviceCert | debugState
  | debugChallenge | debugUnlock | trustAreaState | configStoreState | monitorEnable | monitorBaud
  | monitorRole | monitorLogins | monitorLoginFailures
  deriving DecidableEq, Repr

/-- What each entry is, from the entry tables of the spec. -/
def Entry.info : Entry → EntryInfo
  | .pavilionsFitted => ⟨"PAVILIONS_FITTED", 0x2000, 0x01, 0, 1, 1, 0, .package, .u8, .const, 0, 8, false, [], 0, false, false, .notCounted⟩
  | .pavilionsMin => ⟨"PAVILIONS_MIN", 0x2000, 0x02, 0, 1, 1, 0, .package, .u8, .const, 0, 2, false, [], 0, false, false, .notCounted⟩
  | .pavilionsInService => ⟨"PAVILIONS_IN_SERVICE", 0x2000, 0x03, 0, 1, 1, 0, .package, .u8, .ro, 0, 0, true, [], 0, false, false, .notCounted⟩
  | .gatehousePavilion => ⟨"GATEHOUSE_PAVILION", 0x2000, 0x04, 0, 1, 1, 0, .package, .u8, .const, 0, 0, false, [], 0, false, false, .notCounted⟩
  | .partFailed => ⟨"PART_FAILED", 0x2000, 0x05, 0, 1, 1, 0, .package, .bool, .ro, 0, 0, false, [], 0, false, false, .notCounted⟩
  | .partFailCause => ⟨"PART_FAIL_CAUSE", 0x2000, 0x06, 0, 1, 1, 0, .package, .enum, .ro, 0, 0, false, [], 0, false, false, .notCounted⟩
  | .pavilionState => ⟨"PAVILION_STATE", 0x2010, 0x01, 0, 8, 1, 0, .pavilion, .enum, .ro, 0, 0, false, [], 0, false, false, .notCounted⟩
  | .pavilionCommand => ⟨"PAVILION_COMMAND", 0x2010, 0x02, 0, 8, 1, 0, .pavilion, .enum, .wo, 0, 0, true, [(1, 4)], 10, false, false, .notCounted⟩
  | .pavilionCause => ⟨"PAVILION_CAUSE", 0x2010, 0x03, 0, 8, 1, 0, .pavilion, .enum, .ro, 0, 0, false, [], 0, false, false, .notCounted⟩
  | .pavilionRawCapacity => ⟨"PAVILION_RAW_CAPACITY", 0x2010, 0x04, 0, 8, 1, 0, .pavilion, .u64, .ro, 0, 0, true, [], 0, false, false, .level⟩
  | .pavilionRegionsHomed => ⟨"PAVILION_REGIONS_HOMED", 0x2010, 0x05, 0, 8, 1, 0, .pavilion, .u32, .ro, 0, 0, true, [], 0, false, false, .level⟩
  | .pavilionPortsUp => ⟨"PAVILION_PORTS_UP", 0x2010, 0x06, 0, 8, 1, 0, .pavilion, .u8, .ro, 0, 0, true, [], 0, false, false, .notCounted⟩
  | .pavilionReturnPending => ⟨"PAVILION_RETURN_PENDING", 0x2010, 0x07, 0, 8, 1, 0, .pavilion, .bool, .ro, 0, 0, false, [], 0, false, false, .notCounted⟩
  | .capRaw => ⟨"CAP_RAW", 0x2040, 0x01, 0, 8, 1, 0, .pavilion, .u32, .ro, 0, 0, true, [], 0, false, false, .level⟩
  | .capCellarBook => ⟨"CAP_CELLAR_BOOK", 0x2040, 0x02, 0, 8, 1, 0, .pavilion, .u32, .ro, 0, 0, true, [], 0, false, false, .level⟩
  | .capSpare => ⟨"CAP_SPARE", 0x2040, 0x03, 0, 8, 1, 0, .pavilion, .u32, .ro, 0, 0, true, [], 0, false, false, .level⟩
  | .capCommonsReserve => ⟨"CAP_COMMONS_RESERVE", 0x2040, 0x04, 0, 8, 1, 0, .pavilion, .u32, .ro, 0, 0, true, [], 0, false, false, .level⟩
  | .capPlots => ⟨"CAP_PLOTS", 0x2040, 0x05, 0, 8, 1, 0, .pavilion, .u32, .ro, 0, 0, true, [], 0, false, false, .level⟩
  | .capCommons => ⟨"CAP_COMMONS", 0x2040, 0x06, 0, 8, 1, 0, .pavilion, .i32, .ro, 0, 0, true, [], 0, false, false, .notCounted⟩
  | .capCommonsLent => ⟨"CAP_COMMONS_LENT", 0x2040, 0x07, 0, 8, 1, 0, .pavilion, .u32, .ro, 0, 0, true, [], 0, false, false, .level⟩
  | .capFree => ⟨"CAP_FREE", 0x2040, 0x08, 0, 8, 1, 0, .pavilion, .u32, .ro, 0, 0, true, [], 0, false, false, .level⟩
  | .capZeroing => ⟨"CAP_ZEROING", 0x2040, 0x09, 0, 8, 1, 0, .pavilion, .u32, .ro, 0, 0, true, [], 0, false, false, .level⟩
  | .capHeldWrites => ⟨"CAP_HELD_WRITES", 0x2040, 0x0A, 0, 8, 1, 0, .pavilion, .u32, .ro, 0, 0, true, [], 0, false, false, .level⟩
  | .capLogicalLimit => ⟨"CAP_LOGICAL_LIMIT", 0x2048, 0x01, 0, 1, 1, 0, .package, .u32, .ro, 0, 0, true, [], 0, false, false, .level⟩
  | .capLogicalGranted => ⟨"CAP_LOGICAL_GRANTED", 0x2048, 0x02, 0, 1, 1, 0, .package, .u32, .ro, 0, 0, true, [], 0, false, false, .level⟩
  | .commonsReserveSetting => ⟨"COMMONS_RESERVE_SETTING", 0x2048, 0x03, 0, 1, 1, 0, .package, .u32, .rw, 0, 1024, false, [(0, 4294967295)], 10, true, false, .notCounted⟩
  | .commonsWarn => ⟨"COMMONS_WARN", 0x2048, 0x04, 0, 1, 1, 0, .package, .u8, .rw, 0, 10, false, [(0, 100)], 10, false, false, .notCounted⟩
  | .planInterval => ⟨"PLAN_INTERVAL", 0x2049, 0x01, 0, 1, 1, 0, .package, .u32, .rw, 0, 1000, false, [(100, 60000)], 10, true, false, .notCounted⟩
  | .heatSample => ⟨"HEAT_SAMPLE", 0x2049, 0x02, 0, 1, 1, 0, .package, .enum, .rw, 0, 2, false, [(0, 3)], 10, false, false, .notCounted⟩
  | .promoteThreshold => ⟨"PROMOTE_THRESHOLD", 0x2049, 0x03, 0, 1, 1, 0, .package, .u8, .rw, 0, 8, false, [(1, 63)], 10, true, false, .notCounted⟩
  | .demoteThreshold => ⟨"DEMOTE_THRESHOLD", 0x2049, 0x04, 0, 1, 1, 0, .package, .u8, .rw, 0, 0, false, [(0, 62)], 10, true, false, .notCounted⟩
  | .planMaxEntries => ⟨"PLAN_MAX_ENTRIES", 0x2049, 0x05, 0, 1, 1, 0, .package, .u32, .rw, 0, 65536, false, [(1024, 1048576)], 10, true, false, .notCounted⟩
  | .movesDone => ⟨"MOVES_DONE", 0x2049, 0x06, 0, 1, 1, 0, .package, .u64, .ro, 0, 0, false, [], 0, false, false, .tally⟩
  | .movesCancelled => ⟨"MOVES_CANCELLED", 0x2049, 0x07, 0, 1, 1, 0, .package, .u64, .ro, 0, 0, false, [], 0, false, false, .tally⟩
  | .movesSkipped => ⟨"MOVES_SKIPPED", 0x2049, 0x08, 0, 1, 1, 0, .package, .u64, .ro, 0, 0, false, [], 0, false, false, .tally⟩
  | .planEntriesUndone => ⟨"PLAN_ENTRIES_UNDONE", 0x2049, 0x09, 0, 1, 1, 0, .package, .u64, .ro, 0, 0, false, [], 0, false, false, .tally⟩
  | .demoteIncompressible => ⟨"DEMOTE_INCOMPRESSIBLE", 0x2049, 0x0A, 0, 1, 1, 0, .package, .u64, .ro, 0, 0, false, [], 0, false, false, .tally⟩
  | .cellarMirrorRepairs => ⟨"CELLAR_MIRROR_REPAIRS", 0x2049, 0x0B, 0, 1, 1, 0, .package, .u64, .ro, 0, 0, false, [], 0, false, false, .tally⟩
  | .cellarExtentsLost => ⟨"CELLAR_EXTENTS_LOST", 0x2049, 0x0C, 0, 1, 1, 0, .package, .u64, .ro, 0, 0, false, [], 0, false, false, .tally⟩
  | .cellarSingleCopy => ⟨"CELLAR_SINGLE_COPY", 0x2049, 0x0D, 0, 1, 1, 0, .package, .u32, .ro, 0, 0, false, [], 0, false, false, .level⟩
  | .heatDropped => ⟨"HEAT_DROPPED", 0x2049, 0x0E, 0, 1, 1, 0, .package, .u64, .ro, 0, 0, false, [], 0, false, false, .tally⟩
  | .sliceCapacityMode => ⟨"SLICE_CAPACITY_MODE", 0x6000, 0x20, 0, 4096, 1, 0, .slice, .enum, .rws, 0, 0, false, [(0, 1)], 10, false, false, .notCounted⟩
  | .sliceExpectedRatio => ⟨"SLICE_EXPECTED_RATIO", 0x6000, 0x21, 0, 4096, 1, 0, .slice, .u16, .rw, 0, 200, false, [(100, 800)], 10, true, false, .notCounted⟩
  | .slicePlotMin => ⟨"SLICE_PLOT_MIN", 0x6000, 0x22, 0, 4096, 1, 0, .slice, .u32, .rw, 0, 0, false, [(0, 4294967295)], 10, true, false, .notCounted⟩
  | .sliceHomeMask => ⟨"SLICE_HOME_MASK", 0x6000, 0x23, 0, 4096, 1, 0, .slice, .u8, .rw, 0, 255, false, [(0, 255)], 10, true, false, .notCounted⟩
  | .sliceFirstWriteTier => ⟨"SLICE_FIRST_WRITE_TIER", 0x6000, 0x24, 0, 4096, 1, 0, .slice, .enum, .rw, 0, 0, false, [(0, 1)], 10, false, false, .notCounted⟩
  | .sliceTierPin => ⟨"SLICE_TIER_PIN", 0x6000, 0x25, 0, 4096, 1, 0, .slice, .enum, .rw, 0, 0, false, [(0, 1)], 10, true, false, .notCounted⟩
  | .sliceStallLimit => ⟨"SLICE_STALL_LIMIT", 0x6000, 0x26, 0, 4096, 1, 0, .slice, .u8, .rw, 0, 10, false, [(1, 100)], 10, false, false, .notCounted⟩
  | .slicePlotWarn => ⟨"SLICE_PLOT_WARN", 0x6000, 0x27, 0, 4096, 1, 0, .slice, .u8, .rw, 0, 90, false, [(50, 100)], 10, false, false, .notCounted⟩
  | .slicePlot => ⟨"SLICE_PLOT", 0x6000, 0x28, 0, 4096, 1, 0, .slice, .u32, .ro, 0, 0, true, [], 0, false, false, .level⟩
  | .sliceOwned => ⟨"SLICE_OWNED", 0x6000, 0x29, 0, 4096, 1, 0, .slice, .u32, .ro, 0, 0, true, [], 0, false, false, .level⟩
  | .sliceBorrowed => ⟨"SLICE_BORROWED", 0x6000, 0x2A, 0, 4096, 1, 0, .slice, .u32, .ro, 0, 0, true, [], 0, false, false, .level⟩
  | .slicePagesHot => ⟨"SLICE_PAGES_HOT", 0x6000, 0x2B, 0, 4096, 1, 0, .slice, .u64, .ro, 0, 0, true, [], 0, false, false, .level⟩
  | .slicePagesWarm => ⟨"SLICE_PAGES_WARM", 0x6000, 0x2C, 0, 4096, 1, 0, .slice, .u64, .ro, 0, 0, true, [], 0, false, false, .level⟩
  | .slicePagesZero => ⟨"SLICE_PAGES_ZERO", 0x6000, 0x2D, 0, 4096, 1, 0, .slice, .u64, .ro, 0, 0, true, [], 0, false, false, .level⟩
  | .slicePagesPoisoned => ⟨"SLICE_PAGES_POISONED", 0x6000, 0x2E, 0, 4096, 1, 0, .slice, .u64, .ro, 0, 0, true, [], 0, false, false, .level⟩
  | .sliceHeldWrites => ⟨"SLICE_HELD_WRITES", 0x6000, 0x2F, 0, 4096, 1, 0, .slice, .u16, .ro, 0, 0, true, [], 0, false, false, .notCounted⟩
  | .caskFormat => ⟨"CASK_FORMAT", 0x3800, 0x01, 0, 1, 1, 0, .package, .u8, .const, 0, 1, false, [], 0, false, false, .notCounted⟩
  | .codecFaultsIllegal => ⟨"CODEC_FAULTS_ILLEGAL", 0x3800, 0x02, 0, 1, 1, 0, .package, .u64, .ro, 0, 0, false, [], 0, false, false, .tally⟩
  | .codecFaultsReference => ⟨"CODEC_FAULTS_REFERENCE", 0x3800, 0x03, 0, 1, 1, 0, .package, .u64, .ro, 0, 0, false, [], 0, false, false, .tally⟩
  | .codecFaultsLength => ⟨"CODEC_FAULTS_LENGTH", 0x3800, 0x04, 0, 1, 1, 0, .package, .u64, .ro, 0, 0, false, [], 0, false, false, .tally⟩
  | .codecFaultsOutput => ⟨"CODEC_FAULTS_OUTPUT", 0x3800, 0x05, 0, 1, 1, 0, .package, .u64, .ro, 0, 0, false, [], 0, false, false, .tally⟩
  | .codecFaultsCrc => ⟨"CODEC_FAULTS_CRC", 0x3800, 0x06, 0, 1, 1, 0, .package, .u64, .ro, 0, 0, false, [], 0, false, false, .tally⟩
  | .codecRetryOk => ⟨"CODEC_RETRY_OK", 0x3800, 0x07, 0, 1, 1, 0, .package, .u64, .ro, 0, 0, false, [], 0, false, false, .tally⟩
  | .casksRaw => ⟨"CASKS_RAW", 0x3800, 0x08, 0, 1, 1, 0, .package, .u64, .ro, 0, 0, false, [], 0, false, false, .tally⟩
  | .codebookRecodeSkipped => ⟨"CODEBOOK_RECODE_SKIPPED", 0x3800, 0x09, 0, 1, 1, 0, .package, .u64, .ro, 0, 0, false, [], 0, false, false, .tally⟩
  | .buildSourceSlice => ⟨"BUILD_SOURCE_SLICE", 0x3801, 0x01, 0, 1, 1, 0, .package, .u16, .rw, 0, 0, false, [(0, 4095)], 10, false, false, .notCounted⟩
  | .buildPages => ⟨"BUILD_PAGES", 0x3801, 0x02, 0, 1, 1, 0, .package, .u32, .rw, 0, 4096, false, [(64, 65536)], 10, false, false, .notCounted⟩
  | .buildTargetSlot => ⟨"BUILD_TARGET_SLOT", 0x3801, 0x03, 0, 1, 1, 0, .package, .u8, .rw, 0, 1, false, [(1, 255)], 10, false, false, .notCounted⟩
  | .codebookBuildCommand => ⟨"CODEBOOK_BUILD_COMMAND", 0x3801, 0x04, 0, 1, 1, 0, .package, .enum, .wo, 0, 0, true, [(1, 2)], 10, false, false, .notCounted⟩
  | .buildState => ⟨"BUILD_STATE", 0x3801, 0x05, 0, 1, 1, 0, .package, .enum, .ro, 0, 0, false, [], 0, false, false, .notCounted⟩
  | .buildResult => ⟨"BUILD_RESULT", 0x3801, 0x06, 0, 1, 1, 0, .package, .enum, .ro, 0, 0, false, [], 0, false, false, .notCounted⟩
  | .buildPagesSampled => ⟨"BUILD_PAGES_SAMPLED", 0x3801, 0x07, 0, 1, 1, 0, .package, .u32, .ro, 0, 0, false, [], 0, false, false, .level⟩
  | .codebookState => ⟨"CODEBOOK_STATE", 0x3820, 0x00, 0, 256, 256, 1, .package, .enum, .ro, 0, 0, false, [], 0, false, false, .notCounted⟩
  | .codebookImage => ⟨"CODEBOOK_IMAGE", 0x3821, 0x00, 0, 256, 256, 1, .package, .blob, .rw, 64, 0, true, [], 10, false, false, .notCounted⟩
  | .codebookGeneration => ⟨"CODEBOOK_GENERATION", 0x3822, 0x00, 0, 256, 256, 1, .package, .u8, .ro, 0, 0, false, [], 0, false, false, .notCounted⟩
  | .codebookCasks => ⟨"CODEBOOK_CASKS", 0x3823, 0x00, 0, 256, 256, 1, .package, .u64, .ro, 0, 0, false, [], 0, false, false, .level⟩
  | .codebookSlices => ⟨"CODEBOOK_SLICES", 0x3824, 0x00, 0, 256, 256, 1, .package, .u16, .ro, 0, 0, false, [], 0, false, false, .notCounted⟩
  | .codebookCommand => ⟨"CODEBOOK_COMMAND", 0x3825, 0x00, 0, 256, 256, 1, .package, .enum, .wo, 0, 0, true, [(1, 2)], 10, false, false, .notCounted⟩
  | .codebookLoadResult => ⟨"CODEBOOK_LOAD_RESULT", 0x3826, 0x00, 0, 256, 256, 1, .package, .enum, .ro, 0, 0, false, [], 0, false, false, .notCounted⟩
  | .sliceCodebook => ⟨"SLICE_CODEBOOK", 0x6000, 0x30, 0, 4096, 1, 0, .slice, .u8, .rw, 0, 0, false, [(0, 255)], 10, true, false, .notCounted⟩
  | .sliceSamplingAllowed => ⟨"SLICE_SAMPLING_ALLOWED", 0x6000, 0x31, 0, 4096, 1, 0, .slice, .bool, .rw, 0, 0, false, [(0, 1)], 4, false, false, .notCounted⟩
  | .sliceCodebooksHeld => ⟨"SLICE_CODEBOOKS_HELD", 0x6000, 0x32, 0, 4096, 1, 0, .slice, .blob, .ro, 32, 0, false, [], 0, false, false, .notCounted⟩
  | .sliceCasksRaw => ⟨"SLICE_CASKS_RAW", 0x6000, 0x33, 0, 4096, 1, 0, .slice, .u64, .ro, 0, 0, false, [], 0, false, false, .tally⟩
  | .sliceCodecFaults => ⟨"SLICE_CODEC_FAULTS", 0x6000, 0x34, 0, 4096, 1, 0, .slice, .u64, .ro, 0, 0, false, [], 0, false, false, .tally⟩
  | .keystoreCapacity => ⟨"KEYSTORE_CAPACITY", 0x1180, 0x01, 0, 1, 1, 0, .package, .u16, .const, 0, 8192, false, [], 0, false, false, .notCounted⟩
  | .keystoreUsed => ⟨"KEYSTORE_USED", 0x1180, 0x02, 0, 1, 1, 0, .package, .u16, .ro, 0, 0, false, [], 0, false, false, .notCounted⟩
  | .agreementPublic => ⟨"AGREEMENT_PUBLIC", 0x1180, 0x03, 0, 1, 1, 0, .package, .blob, .ro, 97, 0, true, [], 0, false, false, .notCounted⟩
  | .rngHealth => ⟨"RNG_HEALTH", 0x1180, 0x04, 0, 1, 1, 0, .package, .enum, .ro, 0, 0, false, [], 0, false, false, .notCounted⟩
  | .debugBlocked => ⟨"DEBUG_BLOCKED", 0x1180, 0x05, 0, 1, 1, 0, .package, .u64, .ro, 0, 0, false, [], 0, false, false, .tally⟩
  | .integrityRetryOk => ⟨"INTEGRITY_RETRY_OK", 0x1180, 0x06, 0, 1, 1, 0, .package, .u64, .ro, 0, 0, false, [], 0, false, false, .tally⟩
  | .keyImportRefused => ⟨"KEY_IMPORT_REFUSED", 0x1180, 0x07, 0, 1, 1, 0, .package, .u64, .ro, 0, 0, false, [], 0, false, false, .tally⟩
  | .wrapPeerPublic => ⟨"WRAP_PEER_PUBLIC", 0x1181, 0x00, 1, 16, 256, 1, .package, .blob, .wo, 97, 0, true, [], 4, false, false, .notCounted⟩
  | .wrapKeyState => ⟨"WRAP_KEY_STATE", 0x1182, 0x00, 1, 16, 256, 1, .package, .enum, .ro, 0, 0, false, [], 0, false, false, .notCounted⟩
  | .wrapKeyCommand => ⟨"WRAP_KEY_COMMAND", 0x1183, 0x00, 1, 16, 256, 1, .package, .enum, .wo, 0, 0, true, [(1, 1)], 4, false, false, .notCounted⟩
  | .sliceLineMode => ⟨"SLICE_LINE_MODE", 0x6000, 0x40, 0, 4096, 1, 0, .slice, .enum, .rws, 0, 0, false, [(0, 1)], 10, false, false, .notCounted⟩
  | .sliceKeyCommand => ⟨"SLICE_KEY_COMMAND", 0x6000, 0x41, 0, 4096, 1, 0, .slice, .enum, .wo, 0, 0, true, [(1, 2)], 6, false, false, .notCounted⟩
  | .sliceKeyImport => ⟨"SLICE_KEY_IMPORT", 0x6000, 0x42, 0, 4096, 1, 0, .slice, .blob, .wo, 112, 0, true, [], 4, false, false, .notCounted⟩
  | .sliceKeyHandle0 => ⟨"SLICE_KEY_HANDLE_0", 0x6000, 0x43, 0, 4096, 1, 0, .slice, .u32, .ro, 0, 0, false, [], 0, false, false, .level⟩
  | .sliceKeyHandle1 => ⟨"SLICE_KEY_HANDLE_1", 0x6000, 0x44, 0, 4096, 1, 0, .slice, .u32, .ro, 0, 0, false, [], 0, false, false, .level⟩
  | .sliceKeyActive => ⟨"SLICE_KEY_ACTIVE", 0x6000, 0x45, 0, 4096, 1, 0, .slice, .u8, .ro, 0, 0, false, [], 0, false, false, .notCounted⟩
  | .sliceKeyUseLimit => ⟨"SLICE_KEY_USE_LIMIT", 0x6000, 0x46, 0, 4096, 1, 0, .slice, .u8, .rw, 0, 50, false, [(36, 56)], 10, false, false, .notCounted⟩
  | .sliceKeyUses => ⟨"SLICE_KEY_USES", 0x6000, 0x47, 0, 4096, 1, 0, .slice, .u64, .ro, 0, 0, false, [], 0, false, false, .tally⟩
  | .rekeyState => ⟨"REKEY_STATE", 0x6000, 0x48, 0, 4096, 1, 0, .slice, .enum, .ro, 0, 0, false, [], 0, false, false, .notCounted⟩
  | .rekeyCause => ⟨"REKEY_CAUSE", 0x6000, 0x49, 0, 4096, 1, 0, .slice, .enum, .ro, 0, 0, false, [], 0, false, false, .notCounted⟩
  | .rekeyPagesLeft => ⟨"REKEY_PAGES_LEFT", 0x6000, 0x4A, 0, 4096, 1, 0, .slice, .u64, .ro, 0, 0, false, [], 0, false, false, .level⟩
  | .sliceIntegrityFails => ⟨"SLICE_INTEGRITY_FAILS", 0x6000, 0x4B, 0, 4096, 1, 0, .slice, .u64, .ro, 0, 0, false, [], 0, false, false, .tally⟩
  | .sliceLinesPoisoned => ⟨"SLICE_LINES_POISONED", 0x6000, 0x4C, 0, 4096, 1, 0, .slice, .u64, .ro, 0, 0, false, [], 0, false, false, .tally⟩
  | .sliceRekeys => ⟨"SLICE_REKEYS", 0x6000, 0x4D, 0, 4096, 1, 0, .slice, .u32, .ro, 0, 0, false, [], 0, false, false, .tally⟩
  | .fillLastKind => ⟨"FILL_LAST_KIND", 0x3400, 0x01, 0, 1, 1, 0, .package, .enum, .ro, 0, 0, false, [], 0, false, false, .notCounted⟩
  | .fillLastDuration => ⟨"FILL_LAST_DURATION", 0x3400, 0x02, 0, 1, 1, 0, .package, .u32, .ro, 0, 0, false, [], 0, false, false, .level⟩
  | .repairsDone => ⟨"REPAIRS_DONE", 0x3400, 0x03, 0, 1, 1, 0, .package, .u64, .ro, 0, 0, false, [], 0, false, false, .tally⟩
  | .repairsDropped => ⟨"REPAIRS_DROPPED", 0x3400, 0x04, 0, 1, 1, 0, .package, .u64, .ro, 0, 0, false, [], 0, false, false, .tally⟩
  | .caskRescues => ⟨"CASK_RESCUES", 0x3400, 0x05, 0, 1, 1, 0, .package, .u64, .ro, 0, 0, false, [], 0, false, false, .tally⟩
  | .pcCorrectedCasks => ⟨"PC_CORRECTED_CASKS", 0x3400, 0x06, 0, 1, 1, 0, .package, .u64, .ro, 0, 0, false, [], 0, false, false, .tally⟩
  | .pcUncorrectable => ⟨"PC_UNCORRECTABLE", 0x3400, 0x07, 0, 1, 1, 0, .package, .u64, .ro, 0, 0, false, [], 0, false, false, .tally⟩
  | .clearWordFails => ⟨"CLEAR_WORD_FAILS", 0x3400, 0x08, 0, 1, 1, 0, .package, .u64, .ro, 0, 0, false, [], 0, false, false, .tally⟩
  | .tagRegionLinesLost => ⟨"TAG_REGION_LINES_LOST", 0x3400, 0x09, 0, 1, 1, 0, .package, .u64, .ro, 0, 0, false, [], 0, false, false, .tally⟩
  | .ownershipEntriesLost => ⟨"OWNERSHIP_ENTRIES_LOST", 0x3400, 0x0A, 0, 1, 1, 0, .package, .u64, .ro, 0, 0, false, [], 0, false, false, .tally⟩
  | .linesUncorrectable => ⟨"LINES_UNCORRECTABLE", 0x3400, 0x0B, 0, 1, 1, 0, .package, .u64, .ro, 0, 0, false, [], 0, false, false, .tally⟩
  | .ceTable => ⟨"CE_TABLE", 0x3410, 0x01, 0, 8, 1, 0, .pavilion, .blob, .ro, 1024, 0, false, [], 0, false, false, .notCounted⟩
  | .ceTableOverflow => ⟨"CE_TABLE_OVERFLOW", 0x3410, 0x02, 0, 8, 1, 0, .pavilion, .u64, .ro, 0, 0, false, [], 0, false, false, .tally⟩
  | .ceTableCommand => ⟨"CE_TABLE_COMMAND", 0x3410, 0x03, 0, 8, 1, 0, .pavilion, .enum, .wo, 0, 0, true, [(1, 1)], 10, false, false, .notCounted⟩
  | .fillState => ⟨"FILL_STATE", 0x3410, 0x04, 0, 8, 1, 0, .pavilion, .enum, .ro, 0, 0, false, [], 0, false, false, .notCounted⟩
  | .fillProgress => ⟨"FILL_PROGRESS", 0x3410, 0x05, 0, 8, 1, 0, .pavilion, .u8, .ro, 0, 0, false, [], 0, false, false, .notCounted⟩
  | .scrubPassTime => ⟨"SCRUB_PASS_TIME", 0x3440, 0x01, 0, 64, 1, 0, .channel, .u16, .rw, 0, 1440, false, [(60, 43200)], 10, true, false, .notCounted⟩
  | .scrubSlots => ⟨"SCRUB_SLOTS", 0x3440, 0x02, 0, 64, 1, 0, .channel, .u8, .ro, 0, 0, true, [], 0, false, false, .notCounted⟩
  | .scrubProgress => ⟨"SCRUB_PROGRESS", 0x3440, 0x03, 0, 64, 1, 0, .channel, .u8, .ro, 0, 0, false, [], 0, false, false, .notCounted⟩
  | .scrubPasses => ⟨"SCRUB_PASSES", 0x3440, 0x04, 0, 64, 1, 0, .channel, .u32, .ro, 0, 0, false, [], 0, false, false, .tally⟩
  | .scrubLastPass => ⟨"SCRUB_LAST_PASS", 0x3440, 0x05, 0, 64, 1, 0, .channel, .u32, .ro, 0, 0, false, [], 0, false, false, .level⟩
  | .scrubPassesLate => ⟨"SCRUB_PASSES_LATE", 0x3440, 0x06, 0, 64, 1, 0, .channel, .u32, .ro, 0, 0, false, [], 0, false, false, .tally⟩
  | .ceChannel => ⟨"CE_CHANNEL", 0x3440, 0x07, 0, 64, 1, 0, .channel, .u64, .ro, 0, 0, false, [], 0, false, false, .tally⟩
  | .ueChannel => ⟨"UE_CHANNEL", 0x3440, 0x08, 0, 64, 1, 0, .channel, .u64, .ro, 0, 0, false, [], 0, false, false, .tally⟩
  | .ceDevicesRank => ⟨"CE_DEVICES_RANK", 0x3440, 0x10, 0, 256, 4, 1, .channel, .blob, .ro, 80, 0, false, [], 0, false, false, .notCounted⟩
  | .ueRank => ⟨"UE_RANK", 0x3440, 0x14, 0, 256, 4, 1, .channel, .u64, .ro, 0, 0, false, [], 0, false, false, .tally⟩
  | .flipMask => ⟨"FLIP_MASK", 0x3440, 0x20, 0, 64, 1, 0, .channel, .blob, .rw, 80, 0, false, [], 10, false, false, .notCounted⟩
  | .flipControl => ⟨"FLIP_CONTROL", 0x3440, 0x21, 0, 64, 1, 0, .channel, .u32, .rw, 0, 0, false, [(0, 4294967295)], 10, false, false, .notCounted⟩
  | .flipAddress => ⟨"FLIP_ADDRESS", 0x3440, 0x22, 0, 64, 1, 0, .channel, .u64, .rw, 0, 0, false, [(0, 18446744073709551615)], 10, false, false, .notCounted⟩
  | .flipCommand => ⟨"FLIP_COMMAND", 0x3440, 0x23, 0, 64, 1, 0, .channel, .enum, .wo, 0, 0, true, [(1, 4)], 10, false, false, .notCounted⟩
  | .flipStatus => ⟨"FLIP_STATUS", 0x3440, 0x24, 0, 64, 1, 0, .channel, .enum, .ro, 0, 0, false, [], 0, false, false, .notCounted⟩
  | .flipLast => ⟨"FLIP_LAST", 0x3440, 0x25, 0, 64, 1, 0, .channel, .u64, .ro, 0, 0, false, [], 0, false, false, .level⟩
  | .flipTestResult => ⟨"FLIP_TEST_RESULT", 0x3440, 0x26, 0, 64, 1, 0, .channel, .enum, .ro, 0, 0, false, [], 0, false, false, .notCounted⟩
  | .flipTestDevice => ⟨"FLIP_TEST_DEVICE", 0x3440, 0x27, 0, 64, 1, 0, .channel, .u8, .ro, 0, 0, false, [], 0, false, false, .notCounted⟩
  | .slicePageCode => ⟨"SLICE_PAGE_CODE", 0x6000, 0x50, 0, 4096, 1, 0, .slice, .u8, .rw, 0, 0, false, [(0, 0), (8, 128)], 10, true, false, .notCounted⟩
  | .slicePcCorrections => ⟨"SLICE_PC_CORRECTIONS", 0x6000, 0x51, 0, 4096, 1, 0, .slice, .u64, .ro, 0, 0, false, [], 0, false, false, .tally⟩
  | .slicePcUncorrectable => ⟨"SLICE_PC_UNCORRECTABLE", 0x6000, 0x52, 0, 4096, 1, 0, .slice, .u64, .ro, 0, 0, false, [], 0, false, false, .tally⟩
  | .dramSpeed => ⟨"DRAM_SPEED", 0x2020, 0x01, 0, 8, 1, 0, .pavilion, .u16, .ro, 0, 0, true, [], 0, false, false, .notCounted⟩
  | .dramSpeedLimit => ⟨"DRAM_SPEED_LIMIT", 0x2020, 0x02, 0, 8, 1, 0, .pavilion, .u16, .rw, 0, 8000, false, [(4800, 4800), (5600, 5600), (6400, 6400), (7200, 7200), (8000, 8000)], 10, false, false, .notCounted⟩
  | .dramSpareMode => ⟨"DRAM_SPARE_MODE", 0x2020, 0x03, 0, 8, 1, 0, .pavilion, .enum, .rw, 0, 0, false, [(0, 1)], 10, false, false, .notCounted⟩
  | .dramDimmsPerChannel => ⟨"DRAM_DIMMS_PER_CHANNEL", 0x2020, 0x04, 0, 8, 1, 0, .pavilion, .u8, .ro, 0, 0, true, [], 0, false, false, .notCounted⟩
  | .dramRanksPerDimm => ⟨"DRAM_RANKS_PER_DIMM", 0x2020, 0x05, 0, 8, 1, 0, .pavilion, .u8, .ro, 0, 0, true, [], 0, false, false, .notCounted⟩
  | .dramDevice => ⟨"DRAM_DEVICE", 0x2020, 0x06, 0, 8, 1, 0, .pavilion, .enum, .ro, 0, 0, true, [], 0, false, false, .notCounted⟩
  | .dramStack => ⟨"DRAM_STACK", 0x2020, 0x07, 0, 8, 1, 0, .pavilion, .u8, .ro, 0, 0, true, [], 0, false, false, .notCounted⟩
  | .dramLayers => ⟨"DRAM_LAYERS", 0x2020, 0x08, 0, 8, 1, 0, .pavilion, .u8, .ro, 0, 0, true, [], 0, false, false, .notCounted⟩
  | .hammerThrottle => ⟨"HAMMER_THROTTLE", 0x2020, 0x09, 0, 8, 1, 0, .pavilion, .u16, .rw, 0, 4096, false, [(512, 4096)], 10, false, false, .notCounted⟩
  | .hammerRfm => ⟨"HAMMER_RFM", 0x2020, 0x0A, 0, 8, 1, 0, .pavilion, .u16, .rw, 0, 1024, false, [(256, 1024)], 10, false, false, .notCounted⟩
  | .channelState => ⟨"CHANNEL_STATE", 0x3000, 0x01, 0, 64, 1, 0, .channel, .enum, .ro, 0, 0, false, [], 0, false, false, .notCounted⟩
  | .channelCommand => ⟨"CHANNEL_COMMAND", 0x3000, 0x02, 0, 64, 1, 0, .channel, .enum, .wo, 0, 0, true, [(1, 1)], 10, false, false, .notCounted⟩
  | .pageOpenLimit => ⟨"PAGE_OPEN_LIMIT", 0x3000, 0x03, 0, 64, 1, 0, .channel, .u16, .rw, 0, 64, false, [(8, 1024)], 10, true, false, .notCounted⟩
  | .powerdownIdle => ⟨"POWERDOWN_IDLE", 0x3000, 0x04, 0, 64, 1, 0, .channel, .u16, .rw, 0, 64, false, [(16, 65535)], 10, false, false, .notCounted⟩
  | .refreshRate => ⟨"REFRESH_RATE", 0x3000, 0x05, 0, 64, 1, 0, .channel, .enum, .ro, 0, 0, false, [], 0, false, false, .notCounted⟩
  | .dimmTemp0 => ⟨"DIMM_TEMP_0", 0x3000, 0x06, 0, 64, 1, 0, .channel, .i32, .ro, 0, 0, true, [], 0, false, false, .notCounted⟩
  | .dimmTemp1 => ⟨"DIMM_TEMP_1", 0x3000, 0x07, 0, 64, 1, 0, .channel, .i32, .ro, 0, 0, true, [], 0, false, false, .notCounted⟩
  | .guardHolds => ⟨"GUARD_HOLDS", 0x3000, 0x08, 0, 64, 1, 0, .channel, .u64, .ro, 0, 0, false, [], 0, false, false, .tally⟩
  | .rfmIssued => ⟨"RFM_ISSUED", 0x3000, 0x09, 0, 64, 1, 0, .channel, .u64, .ro, 0, 0, false, [], 0, false, false, .tally⟩
  | .hammerThrottles => ⟨"HAMMER_THROTTLES", 0x3000, 0x0A, 0, 64, 1, 0, .channel, .u64, .ro, 0, 0, false, [], 0, false, false, .tally⟩
  | .withheldReturned => ⟨"WITHHELD_RETURNED", 0x3000, 0x0B, 0, 64, 1, 0, .channel, .u64, .ro, 0, 0, false, [], 0, false, false, .tally⟩
  | .caParityErrors => ⟨"CA_PARITY_ERRORS", 0x3000, 0x0C, 0, 64, 1, 0, .channel, .u64, .ro, 0, 0, false, [], 0, false, false, .tally⟩
  | .quickRetrains => ⟨"QUICK_RETRAINS", 0x3000, 0x0D, 0, 64, 1, 0, .channel, .u32, .ro, 0, 0, false, [], 0, false, false, .tally⟩
  | .quickRetrainMisses => ⟨"QUICK_RETRAIN_MISSES", 0x3000, 0x0E, 0, 64, 1, 0, .channel, .u32, .ro, 0, 0, false, [], 0, false, false, .tally⟩
  | .rebuildProgress => ⟨"REBUILD_PROGRESS", 0x3000, 0x0F, 0, 64, 1, 0, .channel, .u8, .ro, 0, 0, false, [], 0, false, false, .notCounted⟩
  | .rankState => ⟨"RANK_STATE", 0x3100, 0x01, 0, 256, 1, 0, .rank, .enum, .ro, 0, 0, false, [], 0, false, false, .notCounted⟩
  | .rankLayer => ⟨"RANK_LAYER", 0x3100, 0x02, 0, 256, 1, 0, .rank, .u8, .ro, 0, 255, false, [], 0, false, false, .notCounted⟩
  | .rankReplaces => ⟨"RANK_REPLACES", 0x3100, 0x03, 0, 256, 1, 0, .rank, .u8, .ro, 0, 255, false, [], 0, false, false, .notCounted⟩
  | .rankFailCause => ⟨"RANK_FAIL_CAUSE", 0x3100, 0x04, 0, 256, 1, 0, .rank, .enum, .ro, 0, 0, false, [], 0, false, false, .notCounted⟩
  | .trainEyes => ⟨"TRAIN_EYES", 0x3100, 0x05, 0, 256, 1, 0, .rank, .blob, .ro, 320, 0, false, [], 0, false, false, .notCounted⟩
  | .ueTransient => ⟨"UE_TRANSIENT", 0x3100, 0x06, 0, 256, 1, 0, .rank, .u64, .ro, 0, 0, false, [], 0, false, false, .tally⟩
  | .slicePagePolicy => ⟨"SLICE_PAGE_POLICY", 0x6000, 0x58, 0, 4096, 1, 0, .slice, .enum, .rw, 0, 1, false, [(0, 1)], 10, true, false, .notCounted⟩
  | .sliceHammerThrottles => ⟨"SLICE_HAMMER_THROTTLES", 0x6000, 0x59, 0, 4096, 1, 0, .slice, .u64, .ro, 0, 0, false, [], 0, false, false, .tally⟩
  | .vintageNumber => ⟨"VINTAGE_NUMBER", 0x5000, 0x01, 0, 1, 1, 0, .package, .u64, .ro, 0, 0, false, [], 0, false, false, .level⟩
  | .vintageDigest => ⟨"VINTAGE_DIGEST", 0x5000, 0x02, 0, 1, 1, 0, .package, .blob, .ro, 48, 0, false, [], 0, false, false, .notCounted⟩
  | .vintageSwapTime => ⟨"VINTAGE_SWAP_TIME", 0x5000, 0x03, 0, 1, 1, 0, .package, .time, .ro, 0, 0, false, [], 0, false, false, .notCounted⟩
  | .vintageCommand => ⟨"VINTAGE_COMMAND", 0x5000, 0x04, 0, 1, 1, 0, .package, .enum, .wo, 0, 0, true, [(1, 3)], 10, false, false, .notCounted⟩
  | .vintageBatchState => ⟨"VINTAGE_BATCH_STATE", 0x5000, 0x05, 0, 1, 1, 0, .package, .enum, .ro, 0, 0, false, [], 0, false, false, .notCounted⟩
  | .vintageBatchTimeout => ⟨"VINTAGE_BATCH_TIMEOUT", 0x5000, 0x06, 0, 1, 1, 0, .package, .u16, .rw, 0, 10, false, [(1, 300)], 10, false, false, .notCounted⟩
  | .vintageLastRefusal => ⟨"VINTAGE_LAST_REFUSAL", 0x5000, 0x07, 0, 1, 1, 0, .package, .enum, .ro, 0, 0, false, [], 0, false, false, .notCounted⟩
  | .vintageRefusalDetail => ⟨"VINTAGE_REFUSAL_DETAIL", 0x5000, 0x08, 0, 1, 1, 0, .package, .u32, .ro, 0, 4294967295, false, [], 0, false, false, .level⟩
  | .vintageCompiles => ⟨"VINTAGE_COMPILES", 0x5000, 0x09, 0, 1, 1, 0, .package, .u64, .ro, 0, 0, false, [], 0, false, false, .tally⟩
  | .vintageRefusals => ⟨"VINTAGE_REFUSALS", 0x5000, 0x0A, 0, 1, 1, 0, .package, .u64, .ro, 0, 0, false, [], 0, false, false, .tally⟩
  | .vintageCheckerRejects => ⟨"VINTAGE_CHECKER_REJECTS", 0x5000, 0x0B, 0, 1, 1, 0, .package, .u64, .ro, 0, 0, false, [], 0, false, false, .tally⟩
  | .vintageForced => ⟨"VINTAGE_FORCED", 0x5000, 0x0C, 0, 1, 1, 0, .package, .u64, .ro, 0, 0, false, [], 0, false, false, .tally⟩
  | .slotHeadroom => ⟨"SLOT_HEADROOM", 0x5000, 0x0D, 0, 1, 1, 0, .package, .u16, .rw, 0, 125, false, [(0, 500)], 10, true, false, .notCounted⟩
  | .openMinSlots => ⟨"OPEN_MIN_SLOTS", 0x5000, 0x0E, 0, 1, 1, 0, .package, .u16, .rw, 0, 64, false, [(16, 512)], 10, true, false, .notCounted⟩
  | .migrationBandwidth => ⟨"MIGRATION_BANDWIDTH", 0x5000, 0x0F, 0, 1, 1, 0, .package, .u32, .rw, 0, 10000, false, [(1000, 100000)], 10, true, false, .notCounted⟩
  | .swapCarryover => ⟨"SWAP_CARRYOVER", 0x5000, 0x10, 0, 1, 1, 0, .package, .u64, .ro, 0, 0, false, [], 0, false, false, .tally⟩
  | .classesActive => ⟨"CLASSES_ACTIVE", 0x5010, 0x01, 0, 8, 1, 0, .pavilion, .u16, .ro, 0, 0, false, [], 0, false, false, .notCounted⟩
  | .migrationBandwidthInForce => ⟨"MIGRATION_BANDWIDTH_IN_FORCE", 0x5010, 0x02, 0, 8, 1, 0, .pavilion, .u32, .ro, 0, 0, true, [], 0, false, false, .level⟩
  | .slotsOwnedMax => ⟨"SLOTS_OWNED_MAX", 0x5010, 0x03, 0, 8, 1, 0, .pavilion, .u16, .ro, 0, 0, true, [], 0, false, false, .notCounted⟩
  | .slotsOpenMin => ⟨"SLOTS_OPEN_MIN", 0x5010, 0x04, 0, 8, 1, 0, .pavilion, .u16, .ro, 0, 0, true, [], 0, false, false, .notCounted⟩
  | .writeBlocks => ⟨"WRITE_BLOCKS", 0x5010, 0x05, 0, 8, 1, 0, .pavilion, .u8, .ro, 0, 0, true, [], 0, false, false, .notCounted⟩
  | .classSlices => ⟨"CLASS_SLICES", 0x5020, 0x01, 1, 15, 1, 0, .package, .u16, .ro, 0, 0, false, [], 0, false, false, .notCounted⟩
  | .classBankMisses => ⟨"CLASS_BANK_MISSES", 0x5020, 0x02, 1, 15, 1, 0, .package, .u64, .ro, 0, 0, false, [], 0, false, false, .tally⟩
  | .classReadSlots => ⟨"CLASS_READ_SLOTS", 0x5020, 0x03, 1, 15, 1, 0, .package, .blob, .ro, 16, 0, false, [], 0, false, false, .notCounted⟩
  | .classWriteSlots => ⟨"CLASS_WRITE_SLOTS", 0x5020, 0x04, 1, 15, 1, 0, .package, .blob, .ro, 16, 0, false, [], 0, false, false, .notCounted⟩
  | .slotTableA => ⟨"SLOT_TABLE_A", 0x5040, 0x01, 0, 64, 1, 0, .channel, .blob, .ro, 2048, 0, false, [], 0, false, false, .notCounted⟩
  | .slotTableB => ⟨"SLOT_TABLE_B", 0x5040, 0x02, 0, 64, 1, 0, .channel, .blob, .ro, 2048, 0, false, [], 0, false, false, .notCounted⟩
  | .slotsOpen => ⟨"SLOTS_OPEN", 0x5040, 0x03, 0, 64, 1, 0, .channel, .u16, .ro, 0, 0, true, [], 0, false, false, .notCounted⟩
  | .ingressSlices => ⟨"INGRESS_SLICES", 0x5080, 0x01, 0, 16, 1, 0, .port, .u16, .ro, 0, 0, false, [], 0, false, false, .notCounted⟩
  | .ingressParkedNow => ⟨"INGRESS_PARKED_NOW", 0x5080, 0x02, 0, 16, 1, 0, .port, .u32, .ro, 0, 0, false, [], 0, false, false, .level⟩
  | .ingressParked => ⟨"INGRESS_PARKED", 0x5080, 0x03, 0, 16, 1, 0, .port, .u64, .ro, 0, 0, false, [], 0, false, false, .tally⟩
  | .parkFull => ⟨"PARK_FULL", 0x5080, 0x04, 0, 16, 1, 0, .port, .u64, .ro, 0, 0, false, [], 0, false, false, .tally⟩
  | .sliceServiceClass => ⟨"SLICE_SERVICE_CLASS", 0x6000, 0x60, 0, 4096, 1, 0, .slice, .u8, .rw, 0, 0, false, [(0, 15)], 10, true, false, .notCounted⟩
  | .sliceGuaranteeRead => ⟨"SLICE_GUARANTEE_READ", 0x6000, 0x61, 0, 4096, 1, 0, .slice, .u32, .rw, 0, 0, false, [(0, 512000)], 10, true, false, .notCounted⟩
  | .sliceGuaranteeWrite => ⟨"SLICE_GUARANTEE_WRITE", 0x6000, 0x62, 0, 4096, 1, 0, .slice, .u32, .rw, 0, 0, false, [(0, 512000)], 10, true, false, .notCounted⟩
  | .sliceCeilingRead => ⟨"SLICE_CEILING_READ", 0x6000, 0x63, 0, 4096, 1, 0, .slice, .u32, .rw, 0, 0, false, [(0, 0), (100, 240000)], 10, true, false, .notCounted⟩
  | .sliceCeilingWrite => ⟨"SLICE_CEILING_WRITE", 0x6000, 0x64, 0, 4096, 1, 0, .slice, .u32, .rw, 0, 0, false, [(0, 0), (100, 240000)], 10, true, false, .notCounted⟩
  | .sliceCeilingBurst => ⟨"SLICE_CEILING_BURST", 0x6000, 0x65, 0, 4096, 1, 0, .slice, .u16, .rw, 0, 64, false, [(4, 1024)], 10, true, false, .notCounted⟩
  | .sliceCheckWindow => ⟨"SLICE_CHECK_WINDOW", 0x6000, 0x66, 0, 4096, 1, 0, .slice, .u16, .rw, 0, 10, false, [(1, 1000)], 10, false, false, .notCounted⟩
  | .sliceShortfallTolerance => ⟨"SLICE_SHORTFALL_TOLERANCE", 0x6000, 0x67, 0, 4096, 1, 0, .slice, .u16, .rw, 0, 20, false, [(0, 200)], 10, false, false, .notCounted⟩
  | .sliceServiceEvents => ⟨"SLICE_SERVICE_EVENTS", 0x6000, 0x68, 0, 4096, 1, 0, .slice, .enum, .rw, 0, 3, false, [(0, 3)], 10, false, false, .notCounted⟩
  | .sliceServiceState => ⟨"SLICE_SERVICE_STATE", 0x6000, 0x69, 0, 4096, 1, 0, .slice, .enum, .ro, 0, 0, false, [], 0, false, false, .notCounted⟩
  | .sliceServicePermille => ⟨"SLICE_SERVICE_PERMILLE", 0x6000, 0x6A, 0, 4096, 1, 0, .slice, .u16, .ro, 0, 1000, false, [], 0, false, false, .notCounted⟩
  | .sliceBurstsClass => ⟨"SLICE_BURSTS_CLASS", 0x6000, 0x6B, 0, 4096, 1, 0, .slice, .u64, .ro, 0, 0, false, [], 0, false, false, .tally⟩
  | .sliceBurstsOpen => ⟨"SLICE_BURSTS_OPEN", 0x6000, 0x6C, 0, 4096, 1, 0, .slice, .u64, .ro, 0, 0, false, [], 0, false, false, .tally⟩
  | .sliceBankMisses => ⟨"SLICE_BANK_MISSES", 0x6000, 0x6D, 0, 4096, 1, 0, .slice, .u64, .ro, 0, 0, false, [], 0, false, false, .tally⟩
  | .sliceShortfalls => ⟨"SLICE_SHORTFALLS", 0x6000, 0x6E, 0, 4096, 1, 0, .slice, .u32, .ro, 0, 0, false, [], 0, false, false, .tally⟩
  | .sliceLatencyMisses => ⟨"SLICE_LATENCY_MISSES", 0x6000, 0x6F, 0, 4096, 1, 0, .slice, .u64, .ro, 0, 0, false, [], 0, false, false, .tally⟩
  | .linkState => ⟨"LINK_STATE", 0x4800, 0x01, 0, 28, 1, 0, .link, .enum, .ro, 0, 0, false, [], 0, false, false, .notCounted⟩
  | .linkCause => ⟨"LINK_CAUSE", 0x4800, 0x02, 0, 28, 1, 0, .link, .enum, .ro, 0, 0, false, [], 0, false, false, .notCounted⟩
  | .linkCommand => ⟨"LINK_COMMAND", 0x4800, 0x03, 0, 28, 1, 0, .link, .enum, .wo, 0, 0, true, [(1, 1)], 10, false, false, .notCounted⟩
  | .linkCreditTimeout => ⟨"LINK_CREDIT_TIMEOUT", 0x4800, 0x04, 0, 28, 1, 0, .link, .u16, .rw, 0, 100, false, [(1, 1000)], 10, false, false, .notCounted⟩
  | .linkRetrainAttempts => ⟨"LINK_RETRAIN_ATTEMPTS", 0x4800, 0x05, 0, 28, 1, 0, .link, .u8, .rw, 0, 3, false, [(1, 8)], 10, false, false, .notCounted⟩
  | .linkDetour => ⟨"LINK_DETOUR", 0x4800, 0x06, 0, 28, 1, 0, .link, .u8, .ro, 0, 255, false, [], 0, false, false, .notCounted⟩
  | .linkCrcErrors => ⟨"LINK_CRC_ERRORS", 0x4800, 0x07, 0, 28, 1, 0, .link, .u64, .ro, 0, 0, false, [], 0, false, false, .tally⟩
  | .linkReplays => ⟨"LINK_REPLAYS", 0x4800, 0x08, 0, 28, 1, 0, .link, .u64, .ro, 0, 0, false, [], 0, false, false, .tally⟩
  | .linkDuplicates => ⟨"LINK_DUPLICATES", 0x4800, 0x09, 0, 28, 1, 0, .link, .u64, .ro, 0, 0, false, [], 0, false, false, .tally⟩
  | .linkReplayStalls => ⟨"LINK_REPLAY_STALLS", 0x4800, 0x0A, 0, 28, 1, 0, .link, .u64, .ro, 0, 0, false, [], 0, false, false, .tally⟩
  | .linkBreaks => ⟨"LINK_BREAKS", 0x4800, 0x0B, 0, 28, 1, 0, .link, .u32, .ro, 0, 0, false, [], 0, false, false, .tally⟩
  | .linkSyntheticCompletions => ⟨"LINK_SYNTHETIC_COMPLETIONS", 0x4800, 0x0C, 0, 28, 1, 0, .link, .u64, .ro, 0, 0, false, [], 0, false, false, .tally⟩
  | .linkBadMessages => ⟨"LINK_BAD_MESSAGES", 0x4800, 0x0D, 0, 28, 1, 0, .link, .u64, .ro, 0, 0, false, [], 0, false, false, .tally⟩
  | .linkEyeMargin => ⟨"LINK_EYE_MARGIN", 0x4800, 0x0E, 0, 28, 1, 0, .link, .u32, .ro, 0, 0, false, [], 0, false, false, .level⟩
  | .portState => ⟨"PORT_STATE", 0x4000, 0x01, 0, 16, 1, 0, .port, .enum, .ro, 0, 0, false, [], 0, false, false, .notCounted⟩
  | .portLinkSpeed => ⟨"PORT_LINK_SPEED", 0x4000, 0x02, 0, 16, 1, 0, .port, .u8, .ro, 0, 0, false, [], 0, false, false, .notCounted⟩
  | .portLinkWidth => ⟨"PORT_LINK_WIDTH", 0x4000, 0x03, 0, 16, 1, 0, .port, .u8, .ro, 0, 0, false, [], 0, false, false, .notCounted⟩
  | .portFlitMode => ⟨"PORT_FLIT_MODE", 0x4000, 0x04, 0, 16, 1, 0, .port, .enum, .ro, 0, 0, false, [], 0, false, false, .notCounted⟩
  | .portSpeedLimit => ⟨"PORT_SPEED_LIMIT", 0x4000, 0x05, 0, 16, 1, 0, .port, .u8, .rw, 0, 64, false, [(8, 8), (16, 16), (32, 32), (64, 64)], 10, false, false, .notCounted⟩
  | .portWidthLimit => ⟨"PORT_WIDTH_LIMIT", 0x4000, 0x06, 0, 16, 1, 0, .port, .u8, .rw, 0, 16, false, [(4, 4), (8, 8), (16, 16)], 10, false, false, .notCounted⟩
  | .portDState => ⟨"PORT_D_STATE", 0x4000, 0x07, 0, 16, 1, 0, .port, .enum, .ro, 0, 0, false, [], 0, false, false, .notCounted⟩
  | .portWakeMethod => ⟨"PORT_WAKE_METHOD", 0x4000, 0x08, 0, 16, 1, 0, .port, .enum, .rw, 0, 3, false, [(1, 3)], 10, false, false, .notCounted⟩
  | .portEpoch => ⟨"PORT_EPOCH", 0x4000, 0x09, 0, 16, 1, 0, .port, .u32, .ro, 0, 0, false, [], 0, false, false, .level⟩
  | .portLinkDowns => ⟨"PORT_LINK_DOWNS", 0x4000, 0x0A, 0, 16, 1, 0, .port, .u32, .ro, 0, 0, false, [], 0, false, false, .tally⟩
  | .portUndecoded => ⟨"PORT_UNDECODED", 0x4000, 0x0B, 0, 16, 1, 0, .port, .u64, .ro, 0, 0, false, [], 0, false, false, .tally⟩
  | .portUnmapped => ⟨"PORT_UNMAPPED", 0x4000, 0x0C, 0, 16, 1, 0, .port, .u64, .ro, 0, 0, false, [], 0, false, false, .tally⟩
  | .portStaleResponses => ⟨"PORT_STALE_RESPONSES", 0x4000, 0x0D, 0, 16, 1, 0, .port, .u64, .ro, 0, 0, false, [], 0, false, false, .tally⟩
  | .portDroppedAtReset => ⟨"PORT_DROPPED_AT_RESET", 0x4000, 0x0E, 0, 16, 1, 0, .port, .u64, .ro, 0, 0, false, [], 0, false, false, .tally⟩
  | .portPoisonedWrites => ⟨"PORT_POISONED_WRITES", 0x4000, 0x0F, 0, 16, 1, 0, .port, .u64, .ro, 0, 0, false, [], 0, false, false, .tally⟩
  | .portBmBlocked => ⟨"PORT_BM_BLOCKED", 0x4000, 0x10, 0, 16, 1, 0, .port, .u64, .ro, 0, 0, false, [], 0, false, false, .tally⟩
  | .portRegionsMapped => ⟨"PORT_REGIONS_MAPPED", 0x4000, 0x11, 0, 16, 1, 0, .port, .u32, .ro, 0, 0, false, [], 0, false, false, .level⟩
  | .portMaskCacheMisses => ⟨"PORT_MASK_CACHE_MISSES", 0x4000, 0x12, 0, 16, 1, 0, .port, .u64, .ro, 0, 0, false, [], 0, false, false, .tally⟩
  | .dcRequest => ⟨"DC_REQUEST", 0x4000, 0x20, 0, 16, 1, 0, .port, .blob, .wo, 16, 0, true, [], 10, false, false, .notCounted⟩
  | .dcState => ⟨"DC_STATE", 0x4000, 0x21, 0, 16, 1, 0, .port, .enum, .ro, 0, 0, false, [], 0, false, false, .notCounted⟩
  | .dcResult => ⟨"DC_RESULT", 0x4000, 0x22, 0, 16, 1, 0, .port, .enum, .ro, 0, 0, false, [], 0, false, false, .notCounted⟩
  | .dcOfferTimeout => ⟨"DC_OFFER_TIMEOUT", 0x4000, 0x23, 0, 16, 1, 0, .port, .u16, .rw, 0, 5000, false, [(100, 60000)], 10, false, false, .notCounted⟩
  | .dcExtentsAccepted => ⟨"DC_EXTENTS_ACCEPTED", 0x4000, 0x24, 0, 16, 1, 0, .port, .u32, .ro, 0, 0, false, [], 0, false, false, .level⟩
  | .aerUeStatus => ⟨"AER_UE_STATUS", 0x4100, 0x01, 0, 16, 1, 0, .port, .u32, .ro, 0, 0, false, [], 0, false, false, .level⟩
  | .aerCeStatus => ⟨"AER_CE_STATUS", 0x4100, 0x02, 0, 16, 1, 0, .port, .u32, .ro, 0, 0, false, [], 0, false, false, .level⟩
  | .rasUeStatus => ⟨"RAS_UE_STATUS", 0x4100, 0x03, 0, 16, 1, 0, .port, .u32, .ro, 0, 0, false, [], 0, false, false, .level⟩
  | .ideState => ⟨"IDE_STATE", 0x4100, 0x04, 0, 16, 1, 0, .port, .enum, .ro, 0, 0, false, [], 0, false, false, .notCounted⟩
  | .ideFailures => ⟨"IDE_FAILURES", 0x4100, 0x05, 0, 16, 1, 0, .port, .u32, .ro, 0, 0, false, [], 0, false, false, .tally⟩
  | .spdmSessions => ⟨"SPDM_SESSIONS", 0x4100, 0x06, 0, 16, 1, 0, .port, .u8, .ro, 0, 0, false, [], 0, false, false, .notCounted⟩
  | .poisonListEntries => ⟨"POISON_LIST_ENTRIES", 0x4100, 0x07, 0, 16, 1, 0, .port, .u16, .ro, 0, 0, false, [], 0, false, false, .notCounted⟩
  | .flrCount => ⟨"FLR_COUNT", 0x4100, 0x08, 0, 16, 1, 0, .port, .u32, .ro, 0, 0, false, [], 0, false, false, .tally⟩
  | .sliceState => ⟨"SLICE_STATE", 0x6000, 0x01, 0, 4096, 1, 0, .slice, .enum, .ro, 0, 0, false, [], 0, false, false, .notCounted⟩
  | .sliceCommand => ⟨"SLICE_COMMAND", 0x6000, 0x02, 0, 4096, 1, 0, .slice, .enum, .wo, 0, 0, true, [(1, 11)], 10, false, false, .notCounted⟩
  | .sliceDrainKind => ⟨"SLICE_DRAIN_KIND", 0x6000, 0x03, 0, 4096, 1, 0, .slice, .enum, .ro, 0, 0, false, [], 0, false, false, .notCounted⟩
  | .slicePort => ⟨"SLICE_PORT", 0x6000, 0x04, 0, 4096, 1, 0, .slice, .u8, .rws, 0, 255, false, [(0, 15), (255, 255)], 10, false, false, .notCounted⟩
  | .slicePasid => ⟨"SLICE_PASID", 0x6000, 0x05, 0, 4096, 1, 0, .slice, .u32, .rws, 0, 0, false, [(0, 1048575)], 10, false, false, .notCounted⟩
  | .slicePasidEn => ⟨"SLICE_PASID_EN", 0x6000, 0x06, 0, 4096, 1, 0, .slice, .bool, .rws, 0, 0, false, [(0, 1)], 10, false, false, .notCounted⟩
  | .sliceDoorbellOps => ⟨"SLICE_DOORBELL_OPS", 0x6000, 0x07, 0, 4096, 1, 0, .slice, .u8, .rw, 0, 1, false, [(0, 255)], 10, false, false, .notCounted⟩
  | .sliceExtentsGranted => ⟨"SLICE_EXTENTS_GRANTED", 0x6000, 0x08, 0, 4096, 1, 0, .slice, .u32, .ro, 0, 0, false, [], 0, false, false, .level⟩
  | .sliceExtentsUnmapped => ⟨"SLICE_EXTENTS_UNMAPPED", 0x6000, 0x09, 0, 4096, 1, 0, .slice, .u32, .ro, 0, 0, false, [], 0, false, false, .level⟩
  | .sliceSquashed => ⟨"SLICE_SQUASHED", 0x6000, 0x0A, 0, 4096, 1, 0, .slice, .u64, .ro, 0, 0, false, [], 0, false, false, .tally⟩
  | .sliceRefused => ⟨"SLICE_REFUSED", 0x6000, 0x0B, 0, 4096, 1, 0, .slice, .u64, .ro, 0, 0, false, [], 0, false, false, .tally⟩
  | .sliceLastDrain => ⟨"SLICE_LAST_DRAIN", 0x6000, 0x0C, 0, 4096, 1, 0, .slice, .u32, .ro, 0, 0, false, [], 0, false, false, .level⟩
  | .sliceMigrationId => ⟨"SLICE_MIGRATION_ID", 0x6000, 0x0D, 0, 4096, 1, 0, .slice, .u64, .rw, 0, 0, false, [(0, 18446744073709551615)], 4, false, false, .notCounted⟩
  | .sliceWrapIndex => ⟨"SLICE_WRAP_INDEX", 0x6000, 0x0E, 0, 4096, 1, 0, .slice, .u8, .rw, 0, 1, false, [(1, 16)], 4, false, false, .notCounted⟩
  | .sliceDirtyExtents => ⟨"SLICE_DIRTY_EXTENTS", 0x6000, 0x0F, 0, 4096, 1, 0, .slice, .u32, .ro, 0, 0, false, [], 0, false, false, .level⟩
  | .sliceBundleAddress => ⟨"SLICE_BUNDLE_ADDRESS", 0x6000, 0x10, 0, 4096, 1, 0, .slice, .u64, .rw, 0, 0, false, [(0, 18446744073709551615)], 10, false, false, .notCounted⟩
  | .sliceBundleLen => ⟨"SLICE_BUNDLE_LEN", 0x6000, 0x11, 0, 4096, 1, 0, .slice, .u32, .rw, 0, 262144, false, [(4096, 262144)], 10, false, false, .notCounted⟩
  | .sliceBundleSequence => ⟨"SLICE_BUNDLE_SEQUENCE", 0x6000, 0x12, 0, 4096, 1, 0, .slice, .u32, .ro, 0, 0, false, [], 0, false, false, .level⟩
  | .sliceBundleSize => ⟨"SLICE_BUNDLE_SIZE", 0x6000, 0x13, 0, 4096, 1, 0, .slice, .u32, .ro, 0, 0, false, [], 0, false, false, .level⟩
  | .sliceSaveResult => ⟨"SLICE_SAVE_RESULT", 0x6000, 0x14, 0, 4096, 1, 0, .slice, .enum, .ro, 0, 0, false, [], 0, false, false, .notCounted⟩
  | .sliceRestoreResult => ⟨"SLICE_RESTORE_RESULT", 0x6000, 0x15, 0, 4096, 1, 0, .slice, .enum, .ro, 0, 0, false, [], 0, false, false, .notCounted⟩
  | .sliceDoorbellsRefused => ⟨"SLICE_DOORBELLS_REFUSED", 0x6000, 0x16, 0, 4096, 1, 0, .slice, .u64, .ro, 0, 0, false, [], 0, false, false, .tally⟩
  | .sliceClearing => ⟨"SLICE_CLEARING", 0x6000, 0x17, 0, 4096, 1, 0, .slice, .bool, .ro, 0, 0, false, [], 0, false, false, .notCounted⟩
  | .vendorName => ⟨"VENDOR_NAME", 0x1000, 0x01, 0, 1, 1, 0, .package, .string, .const, 32, 10960730861193805745367626479986767516664300797776192590, false, [], 0, false, false, .notCounted⟩
  | .productName => ⟨"PRODUCT_NAME", 0x1000, 0x02, 0, 1, 1, 0, .package, .string, .const, 32, 17440299760035265200431853382, false, [], 0, false, false, .notCounted⟩
  | .orderingCode => ⟨"ORDERING_CODE", 0x1000, 0x03, 0, 1, 1, 0, .package, .string, .const, 16, 5489105481226864198, false, [], 0, false, false, .notCounted⟩
  | .stepping => ⟨"STEPPING", 0x1000, 0x04, 0, 1, 1, 0, .package, .string, .const, 4, 12610, false, [], 0, false, false, .notCounted⟩
  | .serialNumber => ⟨"SERIAL_NUMBER", 0x1000, 0x05, 0, 1, 1, 0, .package, .u64, .const, 0, 0, true, [], 0, false, false, .notCounted⟩
  | .firmwareVersion => ⟨"FIRMWARE_VERSION", 0x1000, 0x06, 0, 1, 1, 0, .package, .string, .ro, 32, 0, true, [], 0, false, false, .notCounted⟩
  | .dictVersion => ⟨"DICT_VERSION", 0x1000, 0x07, 0, 1, 1, 0, .package, .u16, .ro, 0, 0, true, [], 0, false, false, .notCounted⟩
  | .vopFormat => ⟨"VOP_FORMAT", 0x1000, 0x08, 0, 1, 1, 0, .package, .u8, .const, 0, 1, false, [], 0, false, false, .notCounted⟩
  | .catalogueLength => ⟨"CATALOGUE_LENGTH", 0x1000, 0x09, 0, 1, 1, 0, .package, .u32, .ro, 0, 0, true, [], 0, false, false, .level⟩
  | .mgmtMac => ⟨"MGMT_MAC", 0x1010, 0x01, 0, 1, 1, 0, .package, .blob, .const, 6, 0, true, [], 0, false, false, .notCounted⟩
  | .mgmtLinkState => ⟨"MGMT_LINK_STATE", 0x1010, 0x02, 0, 1, 1, 0, .package, .enum, .ro, 0, 0, false, [], 0, false, false, .notCounted⟩
  | .mgmtIpv4Mode => ⟨"MGMT_IPV4_MODE", 0x1010, 0x03, 0, 1, 1, 0, .package, .enum, .rw, 0, 1, false, [(0, 1)], 10, false, true, .notCounted⟩
  | .mgmtIpv4Address => ⟨"MGMT_IPV4_ADDRESS", 0x1010, 0x04, 0, 1, 1, 0, .package, .u32, .rw, 0, 0, false, [(0, 4294967295)], 10, false, true, .notCounted⟩
  | .mgmtIpv4Prefix => ⟨"MGMT_IPV4_PREFIX", 0x1010, 0x05, 0, 1, 1, 0, .package, .u8, .rw, 0, 24, false, [(8, 30)], 10, false, true, .notCounted⟩
  | .mgmtIpv4Gateway => ⟨"MGMT_IPV4_GATEWAY", 0x1010, 0x06, 0, 1, 1, 0, .package, .u32, .rw, 0, 0, false, [(0, 4294967295)], 10, false, true, .notCounted⟩
  | .mgmtIpv6Address => ⟨"MGMT_IPV6_ADDRESS", 0x1010, 0x07, 0, 1, 1, 0, .package, .blob, .rw, 16, 0, false, [], 10, false, true, .notCounted⟩
  | .mgmtIpv6Prefix => ⟨"MGMT_IPV6_PREFIX", 0x1010, 0x08, 0, 1, 1, 0, .package, .u8, .rw, 0, 64, false, [(16, 127)], 10, false, true, .notCounted⟩
  | .mgmtVlan => ⟨"MGMT_VLAN", 0x1010, 0x09, 0, 1, 1, 0, .package, .u16, .rw, 0, 0, false, [(0, 4094)], 10, false, true, .notCounted⟩
  | .mgmtUdpPort => ⟨"MGMT_UDP_PORT", 0x1010, 0x0A, 0, 1, 1, 0, .package, .u16, .rw, 0, 4864, false, [(1024, 65535)], 10, false, true, .notCounted⟩
  | .mgmtCommand => ⟨"MGMT_COMMAND", 0x1010, 0x0B, 0, 1, 1, 0, .package, .enum, .wo, 0, 0, true, [(1, 2)], 10, false, false, .notCounted⟩
  | .mgmtConfirmTimeout => ⟨"MGMT_CONFIRM_TIMEOUT", 0x1010, 0x0C, 0, 1, 1, 0, .package, .u16, .rw, 0, 30, false, [(5, 600)], 10, false, false, .notCounted⟩
  | .mgmtFramesDropped => ⟨"MGMT_FRAMES_DROPPED", 0x1010, 0x0D, 0, 1, 1, 0, .package, .u64, .ro, 0, 0, false, [], 0, false, false, .tally⟩
  | .i3cStaticAddress => ⟨"I3C_STATIC_ADDRESS", 0x1020, 0x01, 0, 1, 1, 0, .package, .u8, .ro, 0, 0, true, [], 0, false, false, .notCounted⟩
  | .i3cDynamicAddress => ⟨"I3C_DYNAMIC_ADDRESS", 0x1020, 0x02, 0, 1, 1, 0, .package, .u8, .ro, 0, 0, false, [], 0, false, false, .notCounted⟩
  | .mctpEid => ⟨"MCTP_EID", 0x1020, 0x03, 0, 1, 1, 0, .package, .u8, .ro, 0, 0, false, [], 0, false, false, .notCounted⟩
  | .transportRolesEthernet => ⟨"TRANSPORT_ROLES_ETHERNET", 0x1030, 0x01, 0, 1, 1, 0, .package, .u8, .rw, 0, 15, false, [(0, 255)], 4, false, false, .notCounted⟩
  | .transportRolesMctp => ⟨"TRANSPORT_ROLES_MCTP", 0x1030, 0x02, 0, 1, 1, 0, .package, .u8, .rw, 0, 15, false, [(0, 255)], 4, false, false, .notCounted⟩
  | .transportRolesMailbox => ⟨"TRANSPORT_ROLES_MAILBOX", 0x1030, 0x03, 0, 1, 1, 0, .package, .u8, .rw, 0, 7, false, [(0, 255)], 4, false, false, .notCounted⟩
  | .mailboxVopPorts => ⟨"MAILBOX_VOP_PORTS", 0x1030, 0x04, 0, 1, 1, 0, .package, .u16, .rw, 0, 65535, false, [(0, 65535)], 4, false, false, .notCounted⟩
  | .sessionsMax => ⟨"SESSIONS_MAX", 0x1100, 0x01, 0, 1, 1, 0, .package, .u8, .const, 0, 32, false, [], 0, false, false, .notCounted⟩
  | .sessionsPerRoleMax => ⟨"SESSIONS_PER_ROLE_MAX", 0x1100, 0x02, 0, 1, 1, 0, .package, .u8, .const, 0, 8, false, [], 0, false, false, .notCounted⟩
  | .sessionsOpen => ⟨"SESSIONS_OPEN", 0x1100, 0x03, 0, 1, 1, 0, .package, .u8, .ro, 0, 0, false, [], 0, false, false, .notCounted⟩
  | .sessionIdleTimeout => ⟨"SESSION_IDLE_TIMEOUT", 0x1100, 0x04, 0, 1, 1, 0, .package, .u16, .rw, 0, 300, false, [(10, 3600)], 10, false, false, .notCounted⟩
  | .authFailures => ⟨"AUTH_FAILURES", 0x1100, 0x05, 0, 1, 1, 0, .package, .u64, .ro, 0, 0, false, [], 0, false, false, .tally⟩
  | .replaysDropped => ⟨"REPLAYS_DROPPED", 0x1100, 0x06, 0, 1, 1, 0, .package, .u64, .ro, 0, 0, false, [], 0, false, false, .tally⟩
  | .claimState => ⟨"CLAIM_STATE", 0x1100, 0x07, 0, 1, 1, 0, .package, .enum, .ro, 0, 0, false, [], 0, false, false, .notCounted⟩
  | .wakeAccepted => ⟨"WAKE_ACCEPTED", 0x1100, 0x08, 0, 1, 1, 0, .package, .u64, .ro, 0, 0, false, [], 0, false, false, .tally⟩
  | .wakeRejected => ⟨"WAKE_REJECTED", 0x1100, 0x09, 0, 1, 1, 0, .package, .u64, .ro, 0, 0, false, [], 0, false, false, .tally⟩
  | .roleKeyState => ⟨"ROLE_KEY_STATE", 0x1110, 0x01, 1, 4, 1, 0, .package, .enum, .ro, 0, 0, false, [], 0, false, false, .notCounted⟩
  | .rolePeerPublic => ⟨"ROLE_PEER_PUBLIC", 0x1110, 0x02, 1, 4, 1, 0, .package, .blob, .wo, 97, 0, true, [], 4, false, false, .notCounted⟩
  | .roleCommand => ⟨"ROLE_COMMAND", 0x1110, 0x03, 1, 4, 1, 0, .package, .enum, .wo, 0, 0, true, [(1, 1)], 4, false, false, .notCounted⟩
  | .roleSessions => ⟨"ROLE_SESSIONS", 0x1110, 0x04, 1, 4, 1, 0, .package, .u8, .ro, 0, 0, false, [], 0, false, false, .notCounted⟩
  | .roleOpenSequence => ⟨"ROLE_OPEN_SEQUENCE", 0x1110, 0x05, 1, 4, 1, 0, .package, .u64, .ro, 0, 0, false, [], 0, false, false, .level⟩
  | .wakeLastSequence => ⟨"WAKE_LAST_SEQUENCE", 0x1110, 0x06, 1, 4, 1, 0, .package, .u64, .ro, 0, 0, false, [], 0, false, false, .level⟩
  | .sessionId => ⟨"SESSION_ID", 0x1140, 0x01, 0, 32, 1, 0, .package, .u32, .ro, 0, 0, false, [], 0, false, false, .level⟩
  | .sessionRole => ⟨"SESSION_ROLE", 0x1140, 0x02, 0, 32, 1, 0, .package, .enum, .ro, 0, 0, false, [], 0, false, false, .notCounted⟩
  | .sessionTransport => ⟨"SESSION_TRANSPORT", 0x1140, 0x03, 0, 32, 1, 0, .package, .enum, .ro, 0, 0, false, [], 0, false, false, .notCounted⟩
  | .sessionPeer => ⟨"SESSION_PEER", 0x1140, 0x04, 0, 32, 1, 0, .package, .blob, .ro, 20, 0, false, [], 0, false, false, .notCounted⟩
  | .sessionLastSequence => ⟨"SESSION_LAST_SEQUENCE", 0x1140, 0x05, 0, 32, 1, 0, .package, .u64, .ro, 0, 0, false, [], 0, false, false, .level⟩
  | .sessionSubscription => ⟨"SESSION_SUBSCRIPTION", 0x1140, 0x06, 0, 32, 1, 0, .package, .blob, .ro, 32, 0, false, [], 0, false, false, .notCounted⟩
  | .sessionNotifyLost => ⟨"SESSION_NOTIFY_LOST", 0x1140, 0x07, 0, 32, 1, 0, .package, .u64, .ro, 0, 0, false, [], 0, false, false, .tally⟩
  | .sessionCommand => ⟨"SESSION_COMMAND", 0x1140, 0x08, 0, 32, 1, 0, .package, .enum, .wo, 0, 0, true, [(1, 1)], 4, false, false, .notCounted⟩
  | .logCapacity => ⟨"LOG_CAPACITY", 0x7000, 0x01, 0, 1, 1, 0, .package, .u32, .const, 0, 65536, false, [], 0, false, false, .notCounted⟩
  | .logNext => ⟨"LOG_NEXT", 0x7000, 0x02, 0, 1, 1, 0, .package, .u64, .ro, 0, 0, false, [], 0, false, false, .level⟩
  | .logRecords => ⟨"LOG_RECORDS", 0x7010, 0x01, 0, 32, 1, 0, .package, .blob, .ro, 65536, 0, false, [], 0, false, false, .notCounted⟩
  | .timeNow => ⟨"TIME_NOW", 0x5800, 0x01, 0, 1, 1, 0, .package, .time, .ro, 0, 0, true, [], 0, false, false, .notCounted⟩
  | .timeSource => ⟨"TIME_SOURCE", 0x5800, 0x02, 0, 1, 1, 0, .package, .enum, .rw, 0, 1, false, [(0, 2)], 10, false, false, .notCounted⟩
  | .timeState => ⟨"TIME_STATE", 0x5800, 0x03, 0, 1, 1, 0, .package, .enum, .ro, 0, 0, false, [], 0, false, false, .notCounted⟩
  | .timeHostPort => ⟨"TIME_HOST_PORT", 0x5800, 0x04, 0, 1, 1, 0, .package, .u8, .rw, 0, 255, false, [(0, 15), (255, 255)], 10, false, false, .notCounted⟩
  | .timeStepThreshold => ⟨"TIME_STEP_THRESHOLD", 0x5800, 0x05, 0, 1, 1, 0, .package, .u32, .rw, 0, 1000, false, [(1, 1000000)], 10, false, false, .notCounted⟩
  | .timePtpDomain => ⟨"TIME_PTP_DOMAIN", 0x5800, 0x06, 0, 1, 1, 0, .package, .u8, .rw, 0, 0, false, [(0, 127)], 10, false, false, .notCounted⟩
  | .timePtpLossTimeout => ⟨"TIME_PTP_LOSS_TIMEOUT", 0x5800, 0x07, 0, 1, 1, 0, .package, .u16, .rw, 0, 3, false, [(1, 60)], 10, false, false, .notCounted⟩
  | .timeOffset => ⟨"TIME_OFFSET", 0x5800, 0x08, 0, 1, 1, 0, .package, .i32, .ro, 0, 0, false, [], 0, false, false, .notCounted⟩
  | .timeSteps => ⟨"TIME_STEPS", 0x5800, 0x09, 0, 1, 1, 0, .package, .u32, .ro, 0, 0, false, [], 0, false, false, .tally⟩
  | .timeLastStep => ⟨"TIME_LAST_STEP", 0x5800, 0x0A, 0, 1, 1, 0, .package, .time, .ro, 0, 0, false, [], 0, false, false, .notCounted⟩
  | .timeSetsIgnored => ⟨"TIME_SETS_IGNORED", 0x5800, 0x0B, 0, 1, 1, 0, .package, .u32, .ro, 0, 0, false, [], 0, false, false, .tally⟩
  | .counterStoreCe => ⟨"COUNTER_STORE_CE", 0x5801, 0x01, 0, 1, 1, 0, .package, .u64, .ro, 0, 0, false, [], 0, false, false, .tally⟩
  | .counterStoreUe => ⟨"COUNTER_STORE_UE", 0x5801, 0x02, 0, 1, 1, 0, .package, .u64, .ro, 0, 0, false, [], 0, false, false, .tally⟩
  | .taintedCount => ⟨"TAINTED_COUNT", 0x5801, 0x03, 0, 1, 1, 0, .package, .u32, .ro, 0, 0, false, [], 0, false, false, .level⟩
  | .taintedList => ⟨"TAINTED_LIST", 0x5801, 0x04, 0, 1, 1, 0, .package, .blob, .ro, 1024, 0, false, [], 0, false, false, .notCounted⟩
  | .counterReset => ⟨"COUNTER_RESET", 0x5801, 0x05, 0, 1, 1, 0, .package, .u32, .wo, 0, 0, true, [(0, 4294967295)], 10, false, false, .notCounted⟩
  | .harvestDefaultPort => ⟨"HARVEST_DEFAULT_PORT", 0x5801, 0x06, 0, 1, 1, 0, .package, .u8, .rw, 0, 255, false, [(0, 15), (255, 255)], 10, false, false, .notCounted⟩
  | .harvestBacklog => ⟨"HARVEST_BACKLOG", 0x5801, 0x07, 0, 1, 1, 0, .package, .u32, .ro, 0, 0, false, [], 0, false, false, .level⟩
  | .harvestLost => ⟨"HARVEST_LOST", 0x5801, 0x08, 0, 1, 1, 0, .package, .u64, .ro, 0, 0, false, [], 0, false, false, .tally⟩
  | .harvestMinutes => ⟨"HARVEST_MINUTES", 0x5801, 0x09, 0, 1, 1, 0, .package, .u64, .ro, 0, 0, false, [], 0, false, false, .tally⟩
  | .dumpRingBase => ⟨"DUMP_RING_BASE", 0x5810, 0x01, 0, 16, 1, 0, .port, .u64, .rw, 0, 0, false, [(0, 18446744073709551615)], 10, false, false, .notCounted⟩
  | .dumpRingUnits => ⟨"DUMP_RING_UNITS", 0x5810, 0x02, 0, 16, 1, 0, .port, .u32, .rw, 0, 0, false, [(64, 16777216)], 10, false, false, .notCounted⟩
  | .harvestRingBase => ⟨"HARVEST_RING_BASE", 0x5810, 0x03, 0, 16, 1, 0, .port, .u64, .rw, 0, 0, false, [(0, 18446744073709551615)], 10, false, false, .notCounted⟩
  | .harvestRingUnits => ⟨"HARVEST_RING_UNITS", 0x5810, 0x04, 0, 16, 1, 0, .port, .u32, .rw, 0, 0, false, [(64, 16777216)], 10, false, false, .notCounted⟩
  | .noticeRingBase => ⟨"NOTICE_RING_BASE", 0x5810, 0x05, 0, 16, 1, 0, .port, .u64, .rw, 0, 0, false, [(0, 18446744073709551615)], 10, false, false, .notCounted⟩
  | .noticeRingUnits => ⟨"NOTICE_RING_UNITS", 0x5810, 0x06, 0, 16, 1, 0, .port, .u32, .rw, 0, 0, false, [(64, 16777216)], 10, false, false, .notCounted⟩
  | .ringEnable => ⟨"RING_ENABLE", 0x5810, 0x07, 0, 16, 1, 0, .port, .u8, .rw, 0, 0, false, [(0, 255)], 10, false, false, .notCounted⟩
  | .ringState => ⟨"RING_STATE", 0x5810, 0x08, 0, 16, 1, 0, .port, .u8, .ro, 0, 0, false, [], 0, false, false, .notCounted⟩
  | .snapPeriod => ⟨"SNAP_PERIOD", 0x5810, 0x09, 0, 16, 1, 0, .port, .u32, .rw, 0, 1000, false, [(1, 60000)], 10, false, false, .notCounted⟩
  | .snapSet => ⟨"SNAP_SET", 0x5810, 0x0A, 0, 16, 1, 0, .port, .blob, .rw, 1024, 0, false, [], 10, false, false, .notCounted⟩
  | .noticeGroups => ⟨"NOTICE_GROUPS", 0x5810, 0x0B, 0, 16, 1, 0, .port, .blob, .rw, 32, 0, false, [], 10, false, false, .notCounted⟩
  | .noticePackage => ⟨"NOTICE_PACKAGE", 0x5810, 0x0C, 0, 16, 1, 0, .port, .bool, .rw, 0, 0, false, [(0, 1)], 10, false, false, .notCounted⟩
  | .snapshotsWritten => ⟨"SNAPSHOTS_WRITTEN", 0x5810, 0x0D, 0, 16, 1, 0, .port, .u64, .ro, 0, 0, false, [], 0, false, false, .tally⟩
  | .dumpLost => ⟨"DUMP_LOST", 0x5810, 0x0E, 0, 16, 1, 0, .port, .u64, .ro, 0, 0, false, [], 0, false, false, .tally⟩
  | .noticeLost => ⟨"NOTICE_LOST", 0x5810, 0x0F, 0, 16, 1, 0, .port, .u64, .ro, 0, 0, false, [], 0, false, false, .tally⟩
  | .harvestWritten => ⟨"HARVEST_WRITTEN", 0x5810, 0x10, 0, 16, 1, 0, .port, .u64, .ro, 0, 0, false, [], 0, false, false, .tally⟩
  | .armCounter => ⟨"ARM_COUNTER", 0x5820, 0x01, 0, 128, 8, 4, .port, .u32, .rw, 0, 0, false, [(0, 4294967295)], 10, false, false, .notCounted⟩
  | .armPeriod => ⟨"ARM_PERIOD", 0x5820, 0x02, 0, 128, 8, 4, .port, .u32, .rw, 0, 1000000, false, [(1, 4294967295)], 10, false, false, .notCounted⟩
  | .armTriggers => ⟨"ARM_TRIGGERS", 0x5820, 0x03, 0, 128, 8, 4, .port, .u64, .ro, 0, 0, false, [], 0, false, false, .tally⟩
  | .armSkidMax => ⟨"ARM_SKID_MAX", 0x5820, 0x04, 0, 128, 8, 4, .port, .u16, .ro, 0, 0, false, [], 0, false, false, .notCounted⟩
  | .sliceReadBytes => ⟨"SLICE_READ_BYTES", 0x6000, 0x70, 0, 4096, 1, 0, .slice, .u64, .ro, 0, 0, false, [], 0, false, false, .tally⟩
  | .sliceWriteBytes => ⟨"SLICE_WRITE_BYTES", 0x6000, 0x71, 0, 4096, 1, 0, .slice, .u64, .ro, 0, 0, false, [], 0, false, false, .tally⟩
  | .sliceReads => ⟨"SLICE_READS", 0x6000, 0x72, 0, 4096, 1, 0, .slice, .u64, .ro, 0, 0, false, [], 0, false, false, .tally⟩
  | .sliceWrites => ⟨"SLICE_WRITES", 0x6000, 0x73, 0, 4096, 1, 0, .slice, .u64, .ro, 0, 0, false, [], 0, false, false, .tally⟩
  | .slicePoisonReads => ⟨"SLICE_POISON_READS", 0x6000, 0x74, 0, 4096, 1, 0, .slice, .u64, .ro, 0, 0, false, [], 0, false, false, .tally⟩
  | .slicePoisonEvents => ⟨"SLICE_POISON_EVENTS", 0x6000, 0x75, 0, 4096, 1, 0, .slice, .u64, .ro, 0, 0, false, [], 0, false, false, .tally⟩
  | .sliceHeldMs => ⟨"SLICE_HELD_MS", 0x6000, 0x76, 0, 4096, 1, 0, .slice, .u64, .ro, 0, 0, false, [], 0, false, false, .tally⟩
  | .sliceGrantedExtentMs => ⟨"SLICE_GRANTED_EXTENT_MS", 0x6000, 0x77, 0, 4096, 1, 0, .slice, .u64, .ro, 0, 0, false, [], 0, false, false, .tally⟩
  | .sliceHotPageMs => ⟨"SLICE_HOT_PAGE_MS", 0x6000, 0x78, 0, 4096, 1, 0, .slice, .u64, .ro, 0, 0, false, [], 0, false, false, .tally⟩
  | .sliceWarmPageMs => ⟨"SLICE_WARM_PAGE_MS", 0x6000, 0x79, 0, 4096, 1, 0, .slice, .u64, .ro, 0, 0, false, [], 0, false, false, .tally⟩
  | .sliceSavedUnitMs => ⟨"SLICE_SAVED_UNIT_MS", 0x6000, 0x7A, 0, 4096, 1, 0, .slice, .u64, .ro, 0, 0, false, [], 0, false, false, .tally⟩
  | .sliceBorrowedExtentMs => ⟨"SLICE_BORROWED_EXTENT_MS", 0x6000, 0x7B, 0, 4096, 1, 0, .slice, .u64, .ro, 0, 0, false, [], 0, false, false, .tally⟩
  | .sliceTainted => ⟨"SLICE_TAINTED", 0x6000, 0x7C, 0, 4096, 1, 0, .slice, .blob, .ro, 16, 0, false, [], 0, false, false, .notCounted⟩
  | .sliceTenantCounters => ⟨"SLICE_TENANT_COUNTERS", 0x6000, 0x7D, 0, 4096, 1, 0, .slice, .bool, .rw, 0, 0, false, [(0, 1)], 10, false, false, .notCounted⟩
  | .sliceCounterCommand => ⟨"SLICE_COUNTER_COMMAND", 0x6000, 0x7E, 0, 4096, 1, 0, .slice, .enum, .wo, 0, 0, true, [(1, 1)], 10, false, false, .notCounted⟩
  | .sliceDumpAddress => ⟨"SLICE_DUMP_ADDRESS", 0x6000, 0x7F, 0, 4096, 1, 0, .slice, .u64, .rw, 0, 0, false, [(0, 18446744073709551615)], 10, false, false, .notCounted⟩
  | .sliceHarvestMinutes => ⟨"SLICE_HARVEST_MINUTES", 0x6000, 0x80, 0, 4096, 1, 0, .slice, .u32, .ro, 0, 0, false, [], 0, false, false, .tally⟩
  | .sliceHarvestLost => ⟨"SLICE_HARVEST_LOST", 0x6000, 0x81, 0, 4096, 1, 0, .slice, .u32, .ro, 0, 0, false, [], 0, false, false, .tally⟩
  | .sliceHarvestLast => ⟨"SLICE_HARVEST_LAST", 0x6000, 0x82, 0, 4096, 1, 0, .slice, .blob, .ro, 128, 0, false, [], 0, false, false, .notCounted⟩
  | .packagePowerState => ⟨"PACKAGE_POWER_STATE", 0x2100, 0x01, 0, 1, 1, 0, .package, .enum, .ro, 0, 1, false, [], 0, false, false, .notCounted⟩
  | .powerCommand => ⟨"POWER_COMMAND", 0x2100, 0x02, 0, 1, 1, 0, .package, .enum, .wo, 0, 0, true, [(1, 1)], 10, false, false, .notCounted⟩
  | .restAuto => ⟨"REST_AUTO", 0x2100, 0x03, 0, 1, 1, 0, .package, .bool, .rw, 0, 0, false, [(0, 1)], 10, false, false, .notCounted⟩
  | .restAutoDelay => ⟨"REST_AUTO_DELAY", 0x2100, 0x04, 0, 1, 1, 0, .package, .u32, .rw, 0, 10000, false, [(100, 3600000)], 10, false, false, .notCounted⟩
  | .restEntries => ⟨"REST_ENTRIES", 0x2100, 0x05, 0, 1, 1, 0, .package, .u64, .ro, 0, 0, false, [], 0, false, false, .tally⟩
  | .restRefusals => ⟨"REST_REFUSALS", 0x2100, 0x06, 0, 1, 1, 0, .package, .u64, .ro, 0, 0, false, [], 0, false, false, .tally⟩
  | .restRefusalsByKind => ⟨"REST_REFUSALS_BY_KIND", 0x2100, 0x07, 0, 1, 1, 0, .package, .blob, .ro, 32, 0, false, [], 0, false, false, .notCounted⟩
  | .restLastRefuser => ⟨"REST_LAST_REFUSER", 0x2100, 0x08, 0, 1, 1, 0, .package, .u16, .ro, 0, 0, false, [], 0, false, false, .notCounted⟩
  | .restLastRefusalReason => ⟨"REST_LAST_REFUSAL_REASON", 0x2100, 0x09, 0, 1, 1, 0, .package, .enum, .ro, 0, 0, false, [], 0, false, false, .notCounted⟩
  | .restAborts => ⟨"REST_ABORTS", 0x2100, 0x0A, 0, 1, 1, 0, .package, .u64, .ro, 0, 0, false, [], 0, false, false, .tally⟩
  | .restLastAbortPoint => ⟨"REST_LAST_ABORT_POINT", 0x2100, 0x0B, 0, 1, 1, 0, .package, .u8, .ro, 0, 0, false, [], 0, false, false, .notCounted⟩
  | .restLastWakeSource => ⟨"REST_LAST_WAKE_SOURCE", 0x2100, 0x0C, 0, 1, 1, 0, .package, .enum, .ro, 0, 0, false, [], 0, false, false, .notCounted⟩
  | .restLastDuration => ⟨"REST_LAST_DURATION", 0x2100, 0x0D, 0, 1, 1, 0, .package, .u64, .ro, 0, 0, false, [], 0, false, false, .level⟩
  | .restLastExitTime => ⟨"REST_LAST_EXIT_TIME", 0x2100, 0x0E, 0, 1, 1, 0, .package, .u32, .ro, 0, 0, false, [], 0, false, false, .level⟩
  | .restExitFailures => ⟨"REST_EXIT_FAILURES", 0x2100, 0x0F, 0, 1, 1, 0, .package, .u32, .ro, 0, 0, false, [], 0, false, false, .tally⟩
  | .retentionCe => ⟨"RETENTION_CE", 0x2100, 0x10, 0, 1, 1, 0, .package, .u64, .ro, 0, 0, false, [], 0, false, false, .tally⟩
  | .retentionUe => ⟨"RETENTION_UE", 0x2100, 0x11, 0, 1, 1, 0, .package, .u64, .ro, 0, 0, false, [], 0, false, false, .tally⟩
  | .aonPllLocked => ⟨"AON_PLL_LOCKED", 0x2100, 0x12, 0, 1, 1, 0, .package, .bool, .ro, 0, 0, true, [], 0, false, false, .notCounted⟩
  | .pavilionPowerState => ⟨"PAVILION_POWER_STATE", 0x2110, 0x01, 0, 8, 1, 0, .pavilion, .enum, .ro, 0, 0, false, [], 0, false, false, .notCounted⟩
  | .pavilionIdleDelay => ⟨"PAVILION_IDLE_DELAY", 0x2110, 0x02, 0, 8, 1, 0, .pavilion, .u32, .rw, 0, 50, false, [(5, 100000)], 10, false, false, .notCounted⟩
  | .pavilionIdleEntries => ⟨"PAVILION_IDLE_ENTRIES", 0x2110, 0x03, 0, 8, 1, 0, .pavilion, .u64, .ro, 0, 0, false, [], 0, false, false, .tally⟩
  | .pavilionIdleMs => ⟨"PAVILION_IDLE_MS", 0x2110, 0x04, 0, 8, 1, 0, .pavilion, .u64, .ro, 0, 0, false, [], 0, false, false, .tally⟩
  | .domainsGated => ⟨"DOMAINS_GATED", 0x2110, 0x05, 0, 8, 1, 0, .pavilion, .u16, .ro, 0, 0, false, [], 0, false, false, .notCounted⟩
  | .pllLocked => ⟨"PLL_LOCKED", 0x2110, 0x06, 0, 8, 1, 0, .pavilion, .bool, .ro, 0, 0, true, [], 0, false, false, .notCounted⟩
  | .pllLockLosses => ⟨"PLL_LOCK_LOSSES", 0x2110, 0x07, 0, 8, 1, 0, .pavilion, .u32, .ro, 0, 0, false, [], 0, false, false, .tally⟩
  | .clkPhyFrequency => ⟨"CLK_PHY_FREQUENCY", 0x2110, 0x08, 0, 8, 1, 0, .pavilion, .u32, .ro, 0, 0, true, [], 0, false, false, .level⟩
  | .mainState => ⟨"MAIN_STATE", 0x2300, 0x01, 0, 1, 1, 0, .package, .enum, .ro, 0, 0, true, [], 0, false, false, .notCounted⟩
  | .mainIlim => ⟨"MAIN_ILIM", 0x2300, 0x02, 0, 1, 1, 0, .package, .u8, .rw, 0, 60, false, [(10, 60)], 10, false, false, .notCounted⟩
  | .mainIlimInForce => ⟨"MAIN_ILIM_IN_FORCE", 0x2300, 0x03, 0, 1, 1, 0, .package, .u8, .ro, 0, 0, true, [], 0, false, false, .notCounted⟩
  | .mainUv => ⟨"MAIN_UV", 0x2300, 0x04, 0, 1, 1, 0, .package, .u16, .rw, 0, 10800, false, [(9000, 11800)], 10, false, false, .notCounted⟩
  | .mainOv => ⟨"MAIN_OV", 0x2300, 0x05, 0, 1, 1, 0, .package, .u16, .rw, 0, 13200, false, [(12200, 14000)], 10, false, false, .notCounted⟩
  | .mainWarnLow => ⟨"MAIN_WARN_LOW", 0x2300, 0x06, 0, 1, 1, 0, .package, .u16, .rw, 0, 11400, false, [(0, 65535)], 10, false, false, .notCounted⟩
  | .mainWarnHigh => ⟨"MAIN_WARN_HIGH", 0x2300, 0x07, 0, 1, 1, 0, .package, .u16, .rw, 0, 12600, false, [(0, 65535)], 10, false, false, .notCounted⟩
  | .mainInsertDelay => ⟨"MAIN_INSERT_DELAY", 0x2300, 0x08, 0, 1, 1, 0, .package, .u16, .rw, 0, 500, false, [(100, 2000)], 10, false, false, .notCounted⟩
  | .mainRampRate => ⟨"MAIN_RAMP_RATE", 0x2300, 0x09, 0, 1, 1, 0, .package, .u16, .rw, 0, 500, false, [(100, 2000)], 10, false, false, .notCounted⟩
  | .mainSoaTime => ⟨"MAIN_SOA_TIME", 0x2300, 0x0A, 0, 1, 1, 0, .package, .u16, .rw, 0, 5000, false, [(500, 20000)], 10, false, false, .notCounted⟩
  | .mainRetries => ⟨"MAIN_RETRIES", 0x2300, 0x0B, 0, 1, 1, 0, .package, .u8, .rw, 0, 3, false, [(0, 7)], 10, false, false, .notCounted⟩
  | .mainRetryCount => ⟨"MAIN_RETRY_COUNT", 0x2300, 0x0C, 0, 1, 1, 0, .package, .u8, .ro, 0, 0, false, [], 0, false, false, .notCounted⟩
  | .mainLastTrip => ⟨"MAIN_LAST_TRIP", 0x2300, 0x0D, 0, 1, 1, 0, .package, .enum, .ro, 0, 0, false, [], 0, false, false, .notCounted⟩
  | .mainLastTripTime => ⟨"MAIN_LAST_TRIP_TIME", 0x2300, 0x0E, 0, 1, 1, 0, .package, .time, .ro, 0, 0, false, [], 0, false, false, .notCounted⟩
  | .mainTrips => ⟨"MAIN_TRIPS", 0x2300, 0x0F, 0, 1, 1, 0, .package, .u32, .ro, 0, 0, false, [], 0, false, false, .tally⟩
  | .mainWindowExits => ⟨"MAIN_WINDOW_EXITS", 0x2300, 0x10, 0, 1, 1, 0, .package, .u32, .ro, 0, 0, false, [], 0, false, false, .tally⟩
  | .presenceBounces => ⟨"PRESENCE_BOUNCES", 0x2300, 0x11, 0, 1, 1, 0, .package, .u32, .ro, 0, 0, false, [], 0, false, false, .tally⟩
  | .mainVinNow => ⟨"MAIN_VIN_NOW", 0x2300, 0x12, 0, 1, 1, 0, .package, .u16, .ro, 0, 0, true, [], 0, false, false, .notCounted⟩
  | .mainVoutNow => ⟨"MAIN_VOUT_NOW", 0x2300, 0x13, 0, 1, 1, 0, .package, .u16, .ro, 0, 0, true, [], 0, false, false, .notCounted⟩
  | .mainCurrent => ⟨"MAIN_CURRENT", 0x2300, 0x14, 0, 1, 1, 0, .package, .u32, .ro, 0, 0, true, [], 0, false, false, .level⟩
  | .mainEnergy => ⟨"MAIN_ENERGY", 0x2300, 0x15, 0, 1, 1, 0, .package, .u64, .ro, 0, 0, false, [], 0, false, false, .tally⟩
  | .mainIlimCeiling => ⟨"MAIN_ILIM_CEILING", 0x2300, 0x16, 0, 1, 1, 0, .package, .u8, .const, 0, 0, true, [], 0, false, false, .notCounted⟩
  | .branchIlimCeiling => ⟨"BRANCH_ILIM_CEILING", 0x2300, 0x17, 0, 1, 1, 0, .package, .u8, .const, 0, 0, true, [], 0, false, false, .notCounted⟩
  | .branchState => ⟨"BRANCH_STATE", 0x2310, 0x01, 0, 16, 1, 0, .package, .enum, .ro, 0, 0, false, [], 0, false, false, .notCounted⟩
  | .branchCommand => ⟨"BRANCH_COMMAND", 0x2310, 0x02, 0, 16, 1, 0, .package, .enum, .wo, 0, 0, true, [(1, 2)], 10, false, false, .notCounted⟩
  | .branchIlim => ⟨"BRANCH_ILIM", 0x2310, 0x03, 0, 16, 1, 0, .package, .u8, .rw, 0, 25, false, [(5, 25)], 10, false, false, .notCounted⟩
  | .branchIlimInForce => ⟨"BRANCH_ILIM_IN_FORCE", 0x2310, 0x04, 0, 16, 1, 0, .package, .u8, .ro, 0, 0, true, [], 0, false, false, .notCounted⟩
  | .branchRampRate => ⟨"BRANCH_RAMP_RATE", 0x2310, 0x05, 0, 16, 1, 0, .package, .u16, .rw, 0, 500, false, [(100, 2000)], 10, false, false, .notCounted⟩
  | .branchSoaTime => ⟨"BRANCH_SOA_TIME", 0x2310, 0x06, 0, 16, 1, 0, .package, .u16, .rw, 0, 2000, false, [(500, 20000)], 10, false, false, .notCounted⟩
  | .branchRetries => ⟨"BRANCH_RETRIES", 0x2310, 0x07, 0, 16, 1, 0, .package, .u8, .rw, 0, 3, false, [(0, 7)], 10, false, false, .notCounted⟩
  | .branchLastTrip => ⟨"BRANCH_LAST_TRIP", 0x2310, 0x08, 0, 16, 1, 0, .package, .enum, .ro, 0, 0, false, [], 0, false, false, .notCounted⟩
  | .branchTrips => ⟨"BRANCH_TRIPS", 0x2310, 0x09, 0, 16, 1, 0, .package, .u32, .ro, 0, 0, false, [], 0, false, false, .tally⟩
  | .branchCurrent => ⟨"BRANCH_CURRENT", 0x2310, 0x0A, 0, 16, 1, 0, .package, .u32, .ro, 0, 0, true, [], 0, false, false, .level⟩
  | .branchEnergy => ⟨"BRANCH_ENERGY", 0x2310, 0x0B, 0, 16, 1, 0, .package, .u64, .ro, 0, 0, false, [], 0, false, false, .tally⟩
  | .seasonLength => ⟨"SEASON_LENGTH", 0x2200, 0x01, 0, 1, 1, 0, .package, .u16, .rw, 0, 30, false, [(7, 365)], 10, false, false, .notCounted⟩
  | .seasonNumber => ⟨"SEASON_NUMBER", 0x2200, 0x02, 0, 1, 1, 0, .package, .u32, .ro, 0, 0, false, [], 0, false, false, .level⟩
  | .seasonElapsed => ⟨"SEASON_ELAPSED", 0x2200, 0x03, 0, 1, 1, 0, .package, .u32, .ro, 0, 0, false, [], 0, false, false, .level⟩
  | .seasonLastEnd => ⟨"SEASON_LAST_END", 0x2200, 0x04, 0, 1, 1, 0, .package, .time, .ro, 0, 0, false, [], 0, false, false, .notCounted⟩
  | .maintWindowStart => ⟨"MAINT_WINDOW_START", 0x2200, 0x05, 0, 1, 1, 0, .package, .u32, .rw, 0, 7200, false, [(0, 86399)], 10, false, false, .notCounted⟩
  | .maintWindowLength => ⟨"MAINT_WINDOW_LENGTH", 0x2200, 0x06, 0, 1, 1, 0, .package, .u16, .rw, 0, 3600, false, [(600, 14400)], 10, false, false, .notCounted⟩
  | .maintCommand => ⟨"MAINT_COMMAND", 0x2200, 0x07, 0, 1, 1, 0, .package, .enum, .wo, 0, 0, true, [(1, 2)], 10, false, false, .notCounted⟩
  | .maintState => ⟨"MAINT_STATE", 0x2200, 0x08, 0, 1, 1, 0, .package, .enum, .ro, 0, 0, false, [], 0, false, false, .notCounted⟩
  | .wearEquivHours => ⟨"WEAR_EQUIV_HOURS", 0x2200, 0x09, 0, 1, 1, 0, .package, .u32, .ro, 0, 0, false, [], 0, false, false, .level⟩
  | .wearRatedHours => ⟨"WEAR_RATED_HOURS", 0x2200, 0x0A, 0, 1, 1, 0, .package, .u32, .const, 0, 426777, false, [], 0, false, false, .notCounted⟩
  | .tjHistogram => ⟨"TJ_HISTOGRAM", 0x2200, 0x0B, 0, 1, 1, 0, .package, .blob, .ro, 20, 0, false, [], 0, false, false, .notCounted⟩
  | .wearRecordState => ⟨"WEAR_RECORD_STATE", 0x2200, 0x0C, 0, 1, 1, 0, .package, .enum, .ro, 0, 0, false, [], 0, false, false, .notCounted⟩
  | .wearRetirePolicy => ⟨"WEAR_RETIRE_POLICY", 0x2200, 0x0D, 0, 1, 1, 0, .package, .enum, .rw, 0, 0, false, [(0, 1)], 10, false, false, .notCounted⟩
  | .weakRowThreshold => ⟨"WEAK_ROW_THRESHOLD", 0x2201, 0x01, 0, 1, 1, 0, .package, .u8, .rw, 0, 8, false, [(2, 64)], 10, false, false, .notCounted⟩
  | .spareReservePermille => ⟨"SPARE_RESERVE_PERMILLE", 0x2201, 0x02, 0, 1, 1, 0, .package, .u16, .rw, 0, 1, false, [(0, 20)], 10, false, false, .notCounted⟩
  | .rankWearRows => ⟨"RANK_WEAR_ROWS", 0x2201, 0x03, 0, 1, 1, 0, .package, .u16, .rw, 0, 64, false, [(8, 1024)], 10, false, false, .notCounted⟩
  | .eyeWidthWorn => ⟨"EYE_WIDTH_WORN", 0x2201, 0x04, 0, 1, 1, 0, .package, .u8, .rw, 0, 20, false, [(16, 64)], 10, false, false, .notCounted⟩
  | .ceRateDouble => ⟨"CE_RATE_DOUBLE", 0x2201, 0x05, 0, 1, 1, 0, .package, .u32, .rw, 0, 100, false, [(1, 1000000)], 10, false, false, .notCounted⟩
  | .pathSlackGuard => ⟨"PATH_SLACK_GUARD", 0x2201, 0x06, 0, 1, 1, 0, .package, .u16, .rw, 0, 15, false, [(5, 50)], 10, false, false, .notCounted⟩
  | .pavilionMinLayers => ⟨"PAVILION_MIN_LAYERS", 0x2201, 0x07, 0, 1, 1, 0, .package, .u8, .rw, 0, 1, false, [(1, 8)], 10, false, false, .notCounted⟩
  | .withdrawnExtents => ⟨"WITHDRAWN_EXTENTS", 0x2201, 0x08, 0, 1, 1, 0, .package, .u64, .ro, 0, 0, false, [], 0, false, false, .tally⟩
  | .ladderEvents => ⟨"LADDER_EVENTS", 0x2201, 0x09, 0, 1, 1, 0, .package, .blob, .ro, 16, 0, false, [], 0, false, false, .notCounted⟩
  | .vddGuard => ⟨"VDD_GUARD", 0x2210, 0x01, 0, 8, 1, 0, .pavilion, .u16, .ro, 0, 0, false, [], 0, false, false, .notCounted⟩
  | .vddGuardLimit => ⟨"VDD_GUARD_LIMIT", 0x2210, 0x02, 0, 8, 1, 0, .pavilion, .u16, .const, 0, 0, true, [], 0, false, false, .notCounted⟩
  | .pathSlackMin => ⟨"PATH_SLACK_MIN", 0x2210, 0x03, 0, 8, 1, 0, .pavilion, .i32, .ro, 0, 0, true, [], 0, false, false, .notCounted⟩
  | .roDrift => ⟨"RO_DRIFT", 0x2210, 0x04, 0, 8, 1, 0, .pavilion, .i32, .ro, 0, 0, false, [], 0, false, false, .notCounted⟩
  | .pavilionWorn => ⟨"PAVILION_WORN", 0x2210, 0x05, 0, 8, 1, 0, .pavilion, .bool, .ro, 0, 0, false, [], 0, false, false, .notCounted⟩
  | .rowsWeak => ⟨"ROWS_WEAK", 0x2210, 0x06, 0, 8, 1, 0, .pavilion, .u16, .ro, 0, 0, false, [], 0, false, false, .notCounted⟩
  | .rowsRepaired => ⟨"ROWS_REPAIRED", 0x2210, 0x07, 0, 8, 1, 0, .pavilion, .u32, .ro, 0, 0, false, [], 0, false, false, .tally⟩
  | .extentsRetired => ⟨"EXTENTS_RETIRED", 0x2210, 0x08, 0, 8, 1, 0, .pavilion, .u32, .ro, 0, 0, false, [], 0, false, false, .level⟩
  | .layersLost => ⟨"LAYERS_LOST", 0x2210, 0x09, 0, 8, 1, 0, .pavilion, .u8, .ro, 0, 0, false, [], 0, false, false, .notCounted⟩
  | .refreshFloor => ⟨"REFRESH_FLOOR", 0x2240, 0x01, 0, 64, 1, 0, .channel, .enum, .ro, 0, 0, false, [], 0, false, false, .notCounted⟩
  | .ceRateSeason => ⟨"CE_RATE_SEASON", 0x2240, 0x02, 0, 64, 1, 0, .channel, .u32, .ro, 0, 0, false, [], 0, false, false, .level⟩
  | .eyeWidthMin => ⟨"EYE_WIDTH_MIN", 0x2240, 0x03, 0, 64, 1, 0, .channel, .u8, .ro, 0, 0, true, [], 0, false, false, .notCounted⟩
  | .rankWorn => ⟨"RANK_WORN", 0x2240, 0x04, 0, 64, 1, 0, .channel, .u8, .ro, 0, 0, false, [], 0, false, false, .notCounted⟩
  | .pprUsed => ⟨"PPR_USED", 0x2240, 0x05, 0, 64, 1, 0, .channel, .u32, .ro, 0, 0, false, [], 0, false, false, .level⟩
  | .portEyeMargin => ⟨"PORT_EYE_MARGIN", 0x2240, 0x06, 0, 16, 1, 0, .channel, .u32, .ro, 0, 0, false, [], 0, false, false, .level⟩
  | .bootState => ⟨"BOOT_STATE", 0x1190, 0x01, 0, 1, 1, 0, .package, .enum, .ro, 0, 0, true, [], 0, false, false, .notCounted⟩
  | .bootSource => ⟨"BOOT_SOURCE", 0x1190, 0x02, 0, 1, 1, 0, .package, .enum, .ro, 0, 0, true, [], 0, false, false, .notCounted⟩
  | .bootSlotActive => ⟨"BOOT_SLOT_ACTIVE", 0x1190, 0x03, 0, 1, 1, 0, .package, .enum, .ro, 0, 0, true, [], 0, false, false, .notCounted⟩
  | .bootSlotNext => ⟨"BOOT_SLOT_NEXT", 0x1190, 0x04, 0, 1, 1, 0, .package, .enum, .rw, 0, 0, false, [(0, 1)], 10, false, false, .notCounted⟩
  | .bootRejectA => ⟨"BOOT_REJECT_A", 0x1190, 0x05, 0, 1, 1, 0, .package, .enum, .ro, 0, 0, false, [], 0, false, false, .notCounted⟩
  | .bootRejectB => ⟨"BOOT_REJECT_B", 0x1190, 0x06, 0, 1, 1, 0, .package, .enum, .ro, 0, 0, false, [], 0, false, false, .notCounted⟩
  | .bootStageTimes => ⟨"BOOT_STAGE_TIMES", 0x1190, 0x07, 0, 1, 1, 0, .package, .blob, .ro, 48, 0, false, [], 0, false, false, .notCounted⟩
  | .bootLastDuration => ⟨"BOOT_LAST_DURATION", 0x1190, 0x08, 0, 1, 1, 0, .package, .u32, .ro, 0, 0, false, [], 0, false, false, .level⟩
  | .fwMeasurement => ⟨"FW_MEASUREMENT", 0x1191, 0x01, 0, 1, 1, 0, .package, .blob, .ro, 48, 0, true, [], 0, false, false, .notCounted⟩
  | .fwSvnImage => ⟨"FW_SVN_IMAGE", 0x1191, 0x02, 0, 1, 1, 0, .package, .u32, .ro, 0, 0, true, [], 0, false, false, .level⟩
  | .fwSvnFused => ⟨"FW_SVN_FUSED", 0x1191, 0x03, 0, 1, 1, 0, .package, .u8, .ro, 0, 0, true, [], 0, false, false, .notCounted⟩
  | .fwSvnCommit => ⟨"FW_SVN_COMMIT", 0x1191, 0x04, 0, 1, 1, 0, .package, .u8, .wo, 0, 0, true, [(0, 255)], 4, false, false, .notCounted⟩
  | .fwKeyIndex => ⟨"FW_KEY_INDEX", 0x1191, 0x05, 0, 1, 1, 0, .package, .u8, .ro, 0, 0, true, [], 0, false, false, .notCounted⟩
  | .fwKeysRevoked => ⟨"FW_KEYS_REVOKED", 0x1191, 0x06, 0, 1, 1, 0, .package, .u8, .ro, 0, 0, false, [], 0, false, false, .notCounted⟩
  | .fwKeyRevoke => ⟨"FW_KEY_REVOKE", 0x1191, 0x07, 0, 1, 1, 0, .package, .u8, .wo, 0, 0, true, [(0, 3)], 4, false, false, .notCounted⟩
  | .fwUpdateCommand => ⟨"FW_UPDATE_COMMAND", 0x1192, 0x01, 0, 1, 1, 0, .package, .enum, .wo, 0, 0, true, [(1, 3)], 10, false, false, .notCounted⟩
  | .fwUpdateOffset => ⟨"FW_UPDATE_OFFSET", 0x1192, 0x02, 0, 1, 1, 0, .package, .u32, .ro, 0, 0, false, [], 0, false, false, .level⟩
  | .fwUpdateData => ⟨"FW_UPDATE_DATA", 0x1192, 0x03, 0, 1, 1, 0, .package, .blob, .wo, 65536, 0, true, [], 10, false, false, .notCounted⟩
  | .fwUpdateState => ⟨"FW_UPDATE_STATE", 0x1192, 0x04, 0, 1, 1, 0, .package, .enum, .ro, 0, 0, false, [], 0, false, false, .notCounted⟩
  | .fwUpdateResult => ⟨"FW_UPDATE_RESULT", 0x1192, 0x05, 0, 1, 1, 0, .package, .enum, .ro, 0, 0, false, [], 0, false, false, .notCounted⟩
  | .deviceCert => ⟨"DEVICE_CERT", 0x1193, 0x01, 0, 1, 1, 0, .package, .blob, .ro, 2048, 0, true, [], 0, false, false, .notCounted⟩
  | .debugState => ⟨"DEBUG_STATE", 0x1193, 0x02, 0, 1, 1, 0, .package, .enum, .ro, 0, 0, false, [], 0, false, false, .notCounted⟩
  | .debugChallenge => ⟨"DEBUG_CHALLENGE", 0x1193, 0x03, 0, 1, 1, 0, .package, .blob, .ro, 32, 0, true, [], 0, false, false, .notCounted⟩
  | .debugUnlock => ⟨"DEBUG_UNLOCK", 0x1193, 0x04, 0, 1, 1, 0, .package, .blob, .wo, 136, 0, true, [], 8, false, false, .notCounted⟩
  | .trustAreaState => ⟨"TRUST_AREA_STATE", 0x1193, 0x05, 0, 1, 1, 0, .package, .enum, .ro, 0, 0, false, [], 0, false, false, .notCounted⟩
  | .configStoreState => ⟨"CONFIG_STORE_STATE", 0x1193, 0x06, 0, 1, 1, 0, .package, .enum, .ro, 0, 0, false, [], 0, false, false, .notCounted⟩
  | .monitorEnable => ⟨"MONITOR_ENABLE", 0x1194, 0x01, 0, 1, 1, 0, .package, .enum, .rw, 0, 0, false, [(0, 1)], 4, false, false, .notCounted⟩
  | .monitorBaud => ⟨"MONITOR_BAUD", 0x1194, 0x02, 0, 1, 1, 0, .package, .u32, .rw, 0, 115200, false, [(115200, 115200), (230400, 230400), (460800, 460800), (921600, 921600)], 10, false, false, .notCounted⟩
  | .monitorRole => ⟨"MONITOR_ROLE", 0x1194, 0x03, 0, 1, 1, 0, .package, .enum, .ro, 0, 0, false, [], 0, false, false, .notCounted⟩
  | .monitorLogins => ⟨"MONITOR_LOGINS", 0x1194, 0x04, 0, 1, 1, 0, .package, .u32, .ro, 0, 0, false, [], 0, false, false, .tally⟩
  | .monitorLoginFailures => ⟨"MONITOR_LOGIN_FAILURES", 0x1194, 0x05, 0, 1, 1, 0, .package, .u32, .ro, 0, 0, false, [], 0, false, false, .tally⟩

/-- Entries of the dictionary, part 0. -/
def entryList0 : List Entry := [
  .pavilionsFitted, .pavilionsMin, .pavilionsInService, .gatehousePavilion, .partFailed, .partFailCause,
  .pavilionState, .pavilionCommand, .pavilionCause, .pavilionRawCapacity, .pavilionRegionsHomed, .pavilionPortsUp,
  .pavilionReturnPending, .capRaw, .capCellarBook, .capSpare, .capCommonsReserve, .capPlots,
  .capCommons, .capCommonsLent, .capFree, .capZeroing, .capHeldWrites, .capLogicalLimit,
  .capLogicalGranted, .commonsReserveSetting, .commonsWarn, .planInterval, .heatSample, .promoteThreshold,
  .demoteThreshold, .planMaxEntries, .movesDone, .movesCancelled, .movesSkipped, .planEntriesUndone,
  .demoteIncompressible, .cellarMirrorRepairs, .cellarExtentsLost, .cellarSingleCopy]

/-- Entries of the dictionary, part 1. -/
def entryList1 : List Entry := [
  .heatDropped, .sliceCapacityMode, .sliceExpectedRatio, .slicePlotMin, .sliceHomeMask, .sliceFirstWriteTier,
  .sliceTierPin, .sliceStallLimit, .slicePlotWarn, .slicePlot, .sliceOwned, .sliceBorrowed,
  .slicePagesHot, .slicePagesWarm, .slicePagesZero, .slicePagesPoisoned, .sliceHeldWrites, .caskFormat,
  .codecFaultsIllegal, .codecFaultsReference, .codecFaultsLength, .codecFaultsOutput, .codecFaultsCrc, .codecRetryOk,
  .casksRaw, .codebookRecodeSkipped, .buildSourceSlice, .buildPages, .buildTargetSlot, .codebookBuildCommand,
  .buildState, .buildResult, .buildPagesSampled, .codebookState, .codebookImage, .codebookGeneration,
  .codebookCasks, .codebookSlices, .codebookCommand, .codebookLoadResult]

/-- Entries of the dictionary, part 2. -/
def entryList2 : List Entry := [
  .sliceCodebook, .sliceSamplingAllowed, .sliceCodebooksHeld, .sliceCasksRaw, .sliceCodecFaults, .keystoreCapacity,
  .keystoreUsed, .agreementPublic, .rngHealth, .debugBlocked, .integrityRetryOk, .keyImportRefused,
  .wrapPeerPublic, .wrapKeyState, .wrapKeyCommand, .sliceLineMode, .sliceKeyCommand, .sliceKeyImport,
  .sliceKeyHandle0, .sliceKeyHandle1, .sliceKeyActive, .sliceKeyUseLimit, .sliceKeyUses, .rekeyState,
  .rekeyCause, .rekeyPagesLeft, .sliceIntegrityFails, .sliceLinesPoisoned, .sliceRekeys, .fillLastKind,
  .fillLastDuration, .repairsDone, .repairsDropped, .caskRescues, .pcCorrectedCasks, .pcUncorrectable,
  .clearWordFails, .tagRegionLinesLost, .ownershipEntriesLost, .linesUncorrectable]

/-- Entries of the dictionary, part 3. -/
def entryList3 : List Entry := [
  .ceTable, .ceTableOverflow, .ceTableCommand, .fillState, .fillProgress, .scrubPassTime,
  .scrubSlots, .scrubProgress, .scrubPasses, .scrubLastPass, .scrubPassesLate, .ceChannel,
  .ueChannel, .ceDevicesRank, .ueRank, .flipMask, .flipControl, .flipAddress,
  .flipCommand, .flipStatus, .flipLast, .flipTestResult, .flipTestDevice, .slicePageCode,
  .slicePcCorrections, .slicePcUncorrectable, .dramSpeed, .dramSpeedLimit, .dramSpareMode, .dramDimmsPerChannel,
  .dramRanksPerDimm, .dramDevice, .dramStack, .dramLayers, .hammerThrottle, .hammerRfm,
  .channelState, .channelCommand, .pageOpenLimit, .powerdownIdle]

/-- Entries of the dictionary, part 4. -/
def entryList4 : List Entry := [
  .refreshRate, .dimmTemp0, .dimmTemp1, .guardHolds, .rfmIssued, .hammerThrottles,
  .withheldReturned, .caParityErrors, .quickRetrains, .quickRetrainMisses, .rebuildProgress, .rankState,
  .rankLayer, .rankReplaces, .rankFailCause, .trainEyes, .ueTransient, .slicePagePolicy,
  .sliceHammerThrottles, .vintageNumber, .vintageDigest, .vintageSwapTime, .vintageCommand, .vintageBatchState,
  .vintageBatchTimeout, .vintageLastRefusal, .vintageRefusalDetail, .vintageCompiles, .vintageRefusals, .vintageCheckerRejects,
  .vintageForced, .slotHeadroom, .openMinSlots, .migrationBandwidth, .swapCarryover, .classesActive,
  .migrationBandwidthInForce, .slotsOwnedMax, .slotsOpenMin, .writeBlocks]

/-- Entries of the dictionary, part 5. -/
def entryList5 : List Entry := [
  .classSlices, .classBankMisses, .classReadSlots, .classWriteSlots, .slotTableA, .slotTableB,
  .slotsOpen, .ingressSlices, .ingressParkedNow, .ingressParked, .parkFull, .sliceServiceClass,
  .sliceGuaranteeRead, .sliceGuaranteeWrite, .sliceCeilingRead, .sliceCeilingWrite, .sliceCeilingBurst, .sliceCheckWindow,
  .sliceShortfallTolerance, .sliceServiceEvents, .sliceServiceState, .sliceServicePermille, .sliceBurstsClass, .sliceBurstsOpen,
  .sliceBankMisses, .sliceShortfalls, .sliceLatencyMisses, .linkState, .linkCause, .linkCommand,
  .linkCreditTimeout, .linkRetrainAttempts, .linkDetour, .linkCrcErrors, .linkReplays, .linkDuplicates,
  .linkReplayStalls, .linkBreaks, .linkSyntheticCompletions, .linkBadMessages]

/-- Entries of the dictionary, part 6. -/
def entryList6 : List Entry := [
  .linkEyeMargin, .portState, .portLinkSpeed, .portLinkWidth, .portFlitMode, .portSpeedLimit,
  .portWidthLimit, .portDState, .portWakeMethod, .portEpoch, .portLinkDowns, .portUndecoded,
  .portUnmapped, .portStaleResponses, .portDroppedAtReset, .portPoisonedWrites, .portBmBlocked, .portRegionsMapped,
  .portMaskCacheMisses, .dcRequest, .dcState, .dcResult, .dcOfferTimeout, .dcExtentsAccepted,
  .aerUeStatus, .aerCeStatus, .rasUeStatus, .ideState, .ideFailures, .spdmSessions,
  .poisonListEntries, .flrCount, .sliceState, .sliceCommand, .sliceDrainKind, .slicePort,
  .slicePasid, .slicePasidEn, .sliceDoorbellOps, .sliceExtentsGranted]

/-- Entries of the dictionary, part 7. -/
def entryList7 : List Entry := [
  .sliceExtentsUnmapped, .sliceSquashed, .sliceRefused, .sliceLastDrain, .sliceMigrationId, .sliceWrapIndex,
  .sliceDirtyExtents, .sliceBundleAddress, .sliceBundleLen, .sliceBundleSequence, .sliceBundleSize, .sliceSaveResult,
  .sliceRestoreResult, .sliceDoorbellsRefused, .sliceClearing, .vendorName, .productName, .orderingCode,
  .stepping, .serialNumber, .firmwareVersion, .dictVersion, .vopFormat, .catalogueLength,
  .mgmtMac, .mgmtLinkState, .mgmtIpv4Mode, .mgmtIpv4Address, .mgmtIpv4Prefix, .mgmtIpv4Gateway,
  .mgmtIpv6Address, .mgmtIpv6Prefix, .mgmtVlan, .mgmtUdpPort, .mgmtCommand, .mgmtConfirmTimeout,
  .mgmtFramesDropped, .i3cStaticAddress, .i3cDynamicAddress, .mctpEid]

/-- Entries of the dictionary, part 8. -/
def entryList8 : List Entry := [
  .transportRolesEthernet, .transportRolesMctp, .transportRolesMailbox, .mailboxVopPorts, .sessionsMax, .sessionsPerRoleMax,
  .sessionsOpen, .sessionIdleTimeout, .authFailures, .replaysDropped, .claimState, .wakeAccepted,
  .wakeRejected, .roleKeyState, .rolePeerPublic, .roleCommand, .roleSessions, .roleOpenSequence,
  .wakeLastSequence, .sessionId, .sessionRole, .sessionTransport, .sessionPeer, .sessionLastSequence,
  .sessionSubscription, .sessionNotifyLost, .sessionCommand, .logCapacity, .logNext, .logRecords,
  .timeNow, .timeSource, .timeState, .timeHostPort, .timeStepThreshold, .timePtpDomain,
  .timePtpLossTimeout, .timeOffset, .timeSteps, .timeLastStep]

/-- Entries of the dictionary, part 9. -/
def entryList9 : List Entry := [
  .timeSetsIgnored, .counterStoreCe, .counterStoreUe, .taintedCount, .taintedList, .counterReset,
  .harvestDefaultPort, .harvestBacklog, .harvestLost, .harvestMinutes, .dumpRingBase, .dumpRingUnits,
  .harvestRingBase, .harvestRingUnits, .noticeRingBase, .noticeRingUnits, .ringEnable, .ringState,
  .snapPeriod, .snapSet, .noticeGroups, .noticePackage, .snapshotsWritten, .dumpLost,
  .noticeLost, .harvestWritten, .armCounter, .armPeriod, .armTriggers, .armSkidMax,
  .sliceReadBytes, .sliceWriteBytes, .sliceReads, .sliceWrites, .slicePoisonReads, .slicePoisonEvents,
  .sliceHeldMs, .sliceGrantedExtentMs, .sliceHotPageMs, .sliceWarmPageMs]

/-- Entries of the dictionary, part 10. -/
def entryList10 : List Entry := [
  .sliceSavedUnitMs, .sliceBorrowedExtentMs, .sliceTainted, .sliceTenantCounters, .sliceCounterCommand, .sliceDumpAddress,
  .sliceHarvestMinutes, .sliceHarvestLost, .sliceHarvestLast, .packagePowerState, .powerCommand, .restAuto,
  .restAutoDelay, .restEntries, .restRefusals, .restRefusalsByKind, .restLastRefuser, .restLastRefusalReason,
  .restAborts, .restLastAbortPoint, .restLastWakeSource, .restLastDuration, .restLastExitTime, .restExitFailures,
  .retentionCe, .retentionUe, .aonPllLocked, .pavilionPowerState, .pavilionIdleDelay, .pavilionIdleEntries,
  .pavilionIdleMs, .domainsGated, .pllLocked, .pllLockLosses, .clkPhyFrequency, .mainState,
  .mainIlim, .mainIlimInForce, .mainUv, .mainOv]

/-- Entries of the dictionary, part 11. -/
def entryList11 : List Entry := [
  .mainWarnLow, .mainWarnHigh, .mainInsertDelay, .mainRampRate, .mainSoaTime, .mainRetries,
  .mainRetryCount, .mainLastTrip, .mainLastTripTime, .mainTrips, .mainWindowExits, .presenceBounces,
  .mainVinNow, .mainVoutNow, .mainCurrent, .mainEnergy, .mainIlimCeiling, .branchIlimCeiling,
  .branchState, .branchCommand, .branchIlim, .branchIlimInForce, .branchRampRate, .branchSoaTime,
  .branchRetries, .branchLastTrip, .branchTrips, .branchCurrent, .branchEnergy, .seasonLength,
  .seasonNumber, .seasonElapsed, .seasonLastEnd, .maintWindowStart, .maintWindowLength, .maintCommand,
  .maintState, .wearEquivHours, .wearRatedHours, .tjHistogram]

/-- Entries of the dictionary, part 12. -/
def entryList12 : List Entry := [
  .wearRecordState, .wearRetirePolicy, .weakRowThreshold, .spareReservePermille, .rankWearRows, .eyeWidthWorn,
  .ceRateDouble, .pathSlackGuard, .pavilionMinLayers, .withdrawnExtents, .ladderEvents, .vddGuard,
  .vddGuardLimit, .pathSlackMin, .roDrift, .pavilionWorn, .rowsWeak, .rowsRepaired,
  .extentsRetired, .layersLost, .refreshFloor, .ceRateSeason, .eyeWidthMin, .rankWorn,
  .pprUsed, .portEyeMargin, .bootState, .bootSource, .bootSlotActive, .bootSlotNext,
  .bootRejectA, .bootRejectB, .bootStageTimes, .bootLastDuration, .fwMeasurement, .fwSvnImage,
  .fwSvnFused, .fwSvnCommit, .fwKeyIndex, .fwKeysRevoked]

/-- Entries of the dictionary, part 13. -/
def entryList13 : List Entry := [
  .fwKeyRevoke, .fwUpdateCommand, .fwUpdateOffset, .fwUpdateData, .fwUpdateState, .fwUpdateResult,
  .deviceCert, .debugState, .debugChallenge, .debugUnlock, .trustAreaState, .configStoreState,
  .monitorEnable, .monitorBaud, .monitorRole, .monitorLogins, .monitorLoginFailures]

/-- Every entry, in the order of the chapters. -/
def Entry.all : List Entry :=
  entryList0 ++ entryList1 ++ entryList2 ++ entryList3 ++ entryList4 ++ entryList5 ++ entryList6 ++ entryList7 ++ entryList8 ++ entryList9 ++ entryList10 ++ entryList11 ++ entryList12 ++ entryList13

/-- Index of instance `i` of an entry (spec/11 R431). -/
def Entry.indexOf (e : Entry) (i : Nat) : Nat := e.info.index + i / e.info.perIndex

/-- Subindex of instance `i` of an entry (spec/11 R431). -/
def Entry.subOf (e : Entry) (i : Nat) : Nat := e.info.sub + (i % e.info.perIndex) * e.info.subStep

/-- The instance of an entry that stands at an index and subindex, if one does. -/
def Entry.instanceAt (e : Entry) (index sub : Nat) : Option Nat :=
  let f := e.info
  if index < f.index || sub < f.sub then none else
  let hi := index - f.index
  let lo := sub - f.sub
  if f.subStep = 0 then
    if lo = 0 && f.first ≤ hi && hi < f.first + f.instances then some hi else none
  else
    let j := lo / f.subStep
    let i := hi * f.perIndex + j
    if lo % f.subStep = 0 && j < f.perIndex && f.first ≤ i && i < f.first + f.instances then some i else none

/-- The entry and instance at an index and subindex (spec/11 R441); none where the map names none. -/
def Entry.find (index sub : Nat) : Option (Entry × Nat) :=
  Entry.all.findSome? fun e => (e.instanceAt index sub).map fun i => (e, i)

/-- Bytes of a value in a frame (spec/11 R432). -/
def EntryInfo.bytes (f : EntryInfo) : Nat :=
  match f.ty with
  | .bool | .u8 | .enum => 1
  | .u16 => 2
  | .u32 | .i32 => 4
  | .u64 | .time => 8
  | .string | .blob => f.size

/-- The key of instance `i` of an entry in the part's store: no entry has more than 65536 instances. -/
def Entry.key (e : Entry) (i : Nat) : Nat := e.ctorIdx * 65536 + i % 65536

/-- The entry is a tally (spec/12 R464). -/
def Entry.isTally (e : Entry) : Bool := e.info.count == .tally

end Sys2Proof.Machine
end

