-- ==== Sys2Proof/Machine/Sparse.lean ====
section
/-!
DEFINITION. Sparse tables: lists of (key, value) pairs with keys strictly rising and no entry equal to what an unlisted
key reads as, so that equal tables are equal data. Every table of the part that is large or mostly at its reset value
(DRAM, the cellar book, the ownership table, the dictionary's store) is held in this form.
-/

namespace Sys2Proof.Machine

/-- A sparse table from keys to values. -/
abbrev Sparse (α : Type) := List (Nat × α)

/-- The value at a key; `d` where the key is not listed. -/
def Sparse.get {α : Type} (d : α) : Sparse α → Nat → α
  | [], _ => d
  | (j, v) :: r, k => if j = k then v else Sparse.get d r k

/-- Take a key's entry out. -/
def Sparse.erase {α : Type} : Sparse α → Nat → Sparse α
  | [], _ => []
  | (j, v) :: r, k => if j = k then Sparse.erase r k else (j, v) :: Sparse.erase r k

/-- Put an entry in at its place in the order of keys. -/
def Sparse.put {α : Type} : Sparse α → Nat → α → Sparse α
  | [], k, v => [(k, v)]
  | (j, w) :: r, k, v =>
    if k < j then (k, v) :: (j, w) :: r
    else if j = k then (k, v) :: r
    else (j, w) :: Sparse.put r k v

/-- Write a key: a value equal to what an unlisted key reads as takes the entry out. -/
def Sparse.set {α : Type} [DecidableEq α] (d : α) (m : Sparse α) (k : Nat) (v : α) : Sparse α :=
  if v = d then m.erase k else m.put k v

/-- Change the value at a key. -/
def Sparse.modify {α : Type} [DecidableEq α] (d : α) (m : Sparse α) (k : Nat) (f : α → α) : Sparse α :=
  m.set d k (f (m.get d k))

/-- Keys strictly rising. -/
def Sparse.sorted {α : Type} : Sparse α → Bool
  | [] => true
  | [_] => true
  | (j, _) :: (k, w) :: r => decide (j < k) && Sparse.sorted ((k, w) :: r)

/-- The canonical form: keys strictly rising, no entry equal to the default. -/
def Sparse.wf {α : Type} [DecidableEq α] (d : α) (m : Sparse α) : Bool :=
  m.sorted && m.all (fun e => decide (e.2 ≠ d))

/-- The entries with keys from `lo` up to but not `hi`. -/
def Sparse.range {α : Type} (m : Sparse α) (lo hi : Nat) : Sparse α :=
  m.filter (fun e => decide (lo ≤ e.1) && decide (e.1 < hi))

/-- Take out every entry with a key from `lo` up to but not `hi`. -/
def Sparse.eraseRange {α : Type} (m : Sparse α) (lo hi : Nat) : Sparse α :=
  m.filter (fun e => !(decide (lo ≤ e.1) && decide (e.1 < hi)))

end Sys2Proof.Machine
end

