-- ==== Sys2Proof/Machine/State.lean ====
section
/-!
DEFINITION. The state of the part: everything the spec gives it, as plain data, and the state after reset. Levels that
the spec computes from the structures they describe (spec/12 R465) are computed when read, and stand here once.
-/

namespace Sys2Proof.Machine

/-- A command that stops the block. No meaning of this model ends in one: every mistake the spec describes has an
effect (poison, an abort code, a log record). -/
inductive Fault where
  /-- raised by no meaning; stands for a stop that no command of the table has. Safe. -/
  | noSuchStop
  deriving DecidableEq, Repr

/-- A command without a meaning. -/
inductive Refusal where
  /-- raised by the arm of a command that has no meaning yet; safe, nothing is claimed of it. -/
  | notModelled (mnemonic : String)
  deriving DecidableEq, Repr

/-! ## The cellar book, ownership and DRAM (spec/02, spec/04, spec/05) -/

/-- A cellar-book entry (spec/02 R55). -/
structure Cell where
  version   : Nat
  tier      : Nat
  slotClass : Nat
  poison    : Bool
  cause     : Nat
  keySel    : Nat
  moving    : Bool
  fixed     : Bool
  loc       : Nat
  deriving DecidableEq, Repr

/-- An entry at its reset value (spec/02 R55). -/
def Cell.zero : Cell := ⟨0, 0, 0, false, 0, 0, false, false, 0⟩

/-- An ownership-table entry (spec/02 R65). -/
structure Own where
  kind      : Nat
  cls       : Nat
  owner     : Nat
  fixed     : Bool
  tagBlock  : Nat
  tagExtent : Nat
  live      : Nat
  deriving DecidableEq, Repr

/-- A FREE extent (spec/02 R65). -/
def Own.free : Own := ⟨0, 0, 0, false, 0, 0, 0⟩

/-- A tag-region entry: LINE_VERSION, TAG and META (spec/04 R162). -/
structure TagEnt where
  version : Nat
  tag     : Nat
  info    : Nat
  deriving DecidableEq, Repr

/-- A tag-region entry at its reset value. -/
def TagEnt.zero : TagEnt := ⟨0, 0, 0⟩

/-- A message of the promenade (spec/08 R309): the header fields and the data units; `slot`, `epoch` and `offered` are
the request's place and epoch at its ingress port (spec/07 R284, spec/09 R351), kept with it. -/
structure Msg where
  cls    : Nat
  opcode : Nat
  src    : Nat
  dst    : Nat
  units  : Nat
  status : Nat
  tag    : Nat
  label  : Nat
  addr   : Nat
  data   : Nat
  deriving DecidableEq, Repr

/-- No message. -/
def Msg.zero : Msg := ⟨0, 0, 0, 0, 0, 0, 0, 0, 0, 0⟩

/-- What a request asks for. -/
inductive ReqKind where
  | read | write | partWrite | poison | capacityPoison
  deriving DecidableEq, Repr

/-- A request accepted at a host port (spec/09 R348). -/
structure Req where
  kind    : ReqKind
  port    : Nat
  hostTag : Nat
  hpa     : Nat
  dpa     : Nat
  slice   : Nat
  logical : Nat
  data    : Nat
  mask    : Nat
  stamp   : Nat
  epoch   : Nat
  answer  : Bool
  deriving DecidableEq, Repr

/-- A request that a partition has forwarded (spec/07 R284): its promenade tag, its home and the path it took
(the pavilion of the detour, or the home itself), and whether it is marked held (spec/02 R93) or withheld (spec/06
R244); whether it is being resent; of a held one whether its stall timer has run out and its place among the refusals of its
partition. -/
structure Fwd where
  req      : Req
  tag      : Nat
  home     : Nat
  via      : Nat
  held     : Bool
  withheld : Bool
  expired  : Bool
  sent     : Bool
  order    : Nat
  deriving DecidableEq, Repr

/-- A page in the hold list of a partition (spec/02 R92): its requests, the held write first; `sent` is true while the
held write is resent (spec/02 R94), `expired` after its stall timer has run out (spec/02 R96), `order` its place among the
refusals of the partition. -/
structure Held where
  lpage   : Nat
  reqs    : List Req
  home    : Nat
  sent    : Bool
  expired : Bool
  order   : Nat
  deriving DecidableEq, Repr

/-- The ingress partition of one slice on one port (spec/07 R284 to R287); `refusals` counts the writes refused for capacity, so
that the held ones are resent oldest first (spec/02 R94). -/
structure Partition where
  reserved   : Nat
  queue      : List Req
  forwarded  : List Fwd
  hold       : List Held
  readMeter  : Nat
  writeMeter : Nat
  meterTime  : Nat
  refusals   : Nat
  deriving DecidableEq, Repr

/-- A partition that does not exist yet. -/
def Partition.none : Partition := ⟨0, [], [], [], 0, 0, 0, 0⟩

/-- What a request being executed on its home pavilion does when its bursts have come (spec/01, spec/02). -/
inductive TaskKind where
  | readLine | mergeLine | readCask | convert
  deriving DecidableEq, Repr

/-- A burst that has come for a task: its address, its data bits and check bits after the transfer. -/
structure Got where
  burst : Nat
  value : Nat
  stale : Bool
  deriving DecidableEq, Repr

/-- A request being executed on its home pavilion, waiting for bursts of DRAM (spec/06 R230). -/
structure Task where
  id     : Nat
  kind   : TaskKind
  msg    : Msg
  slice  : Nat
  lpage  : Nat
  line   : Nat
  bursts : List Nat
  got    : List Got
  again  : Bool
  frame  : Nat
  deriving DecidableEq, Repr

/-- A page held on its home pavilion (spec/01 R48) with the requests that wait behind it. -/
structure Hold where
  slice   : Nat
  lpage   : Nat
  waiting : List Msg
  deriving DecidableEq, Repr

/-- What a codec task is for, in the order of its priority (spec/03 R142). -/
inductive CodecUse where
  | warmRead | conversion | promotion | recode | build | firstWrite | demotion
  deriving DecidableEq, Repr

/-- A task waiting for a codec lane (spec/03 R142); one whose repeat waits for its codebook tables holds the decompressor lane
`lane`. -/
structure CodecTask where
  use    : CodecUse
  slice  : Nat
  lpage  : Nat
  line   : Nat
  msg    : Msg
  page   : Nat
  frame  : Nat
  again  : Bool
  lane   : Nat
  deriving DecidableEq, Repr

/-- A plan entry (spec/02 R79). -/
structure PlanEnt where
  action : Nat
  slice  : Nat
  target : Nat
  pav    : Nat
  count  : Nat
  deriving DecidableEq, Repr

/-- A page move in its copy phase or ready for its commit phase (spec/02 R81): the destination and what the page
becomes; `page` is the page's plain bytes where its fixed frame can be written at the commit only (spec/02 R74). -/
structure Move where
  action : Nat
  slice  : Nat
  lpage  : Nat
  old    : Cell
  new    : Cell
  ready  : Bool
  page   : Nat
  deriving DecidableEq, Repr

/-- A region move in progress (spec/15 R566): the pages left to copy in the next pass, the entries of those copied with
their places on the destination, the fixed frames' extents there, whether the last pass has arrived, the hold. -/
structure RegionMove where
  slice  : Nat
  region : Nat
  dest   : Nat
  pass   : Nat
  left   : List Nat
  copied : Sparse Cell
  fixedNew : Sparse Nat
  arrived : Bool
  hold   : Bool
  waiting : List Msg
  deriving DecidableEq, Repr

/-- A write whose cellar-book change waits for the mirror copy (spec/02 R60): what to send when it has arrived, and the entry
whose storage is then freed (spec/02 R71). -/
structure MirrorWait where
  key    : Nat
  answer : Msg
  old    : Cell
  deriving DecidableEq, Repr

/-- An entry of the address table of corrected errors (spec/05 R209). -/
structure CeEnt where
  burst  : Nat
  count  : Nat
  device : Nat
  time   : Nat
  deriving DecidableEq, Repr

/-- A message that a pavilion received by a new path and holds until the old path is clear (spec/08 R332), with the link and the
direction it came by; it stands in the receive buffer, so its credits are not returned. -/
structure Arrived where
  link : Nat
  way  : Nat
  msg  : Msg
  deriving DecidableEq, Repr

/-- The state of one pavilion. `table` names the extents that hold its ownership table (spec/02: carved out before CAP_RAW);
`refused` the writes sent back for capacity or withholding (sender, slice, page), `behind` the requests of the same sender and
page that wait here for them (spec/01 R36, R48); `casks` the codebook slot of the cask at each PHYS_LOC, times 2, plus 1, plus 1
more for a raw one (spec/03 R119); `newPath` the messages held for an old path (spec/08 R332), in the order of their arrival. -/
structure PavState where
  inbox      : List Msg
  cellar     : Sparse Cell
  mirror     : Sparse Cell
  own        : Sparse Own
  own2       : Sparse Own
  used       : Sparse Nat
  dram       : Sparse Nat
  inlined    : Sparse Nat
  tags       : Sparse TagEnt
  capRaw     : Nat
  table      : List Nat
  zeroing    : Sparse Nat
  heat       : Sparse Nat
  coalesce   : Sparse Nat
  heatSeen   : Nat
  promote    : List PlanEnt
  demote     : List PlanEnt
  warm       : List PlanEnt
  heatLost   : List Nat
  holds      : List Hold
  tasks      : List Task
  nextTask   : Nat
  nextTag    : Nat
  codecQ     : List CodecTask
  laneGated  : Nat
  plan       : List PlanEnt
  moves      : List Move
  regionMove : Option RegionMove
  mirrorWait : List MirrorWait
  rescue     : List (Nat × Nat)
  retire     : List Nat
  emptying   : List Nat
  watch      : Sparse (List Nat)
  ceTable    : List CeEnt
  tokens     : Sparse Nat
  frame      : Nat
  keyInvalid : List Nat
  keyWaiting : List Msg
  cbInvalid  : Bool
  dirty      : Sparse Nat
  owed       : Sparse Nat
  delivered  : Sparse Nat
  latency    : Sparse Nat
  alarms     : Sparse Nat
  refused    : List (Nat × Nat × Nat)
  behind     : List Msg
  casks      : Sparse Nat
  blocks     : Sparse (List Nat)
  lost       : List Nat
  cellarCache : Sparse (List Nat)
  tagCache   : Sparse (List Nat)
  newPath    : List Arrived
  deriving DecidableEq, Repr

/-- A pavilion at reset: nothing queued, every structure at its reset value. -/
def PavState.zero : PavState where
  inbox := []
  cellar := []
  mirror := []
  own := []
  own2 := []
  used := []
  dram := []
  inlined := []
  tags := []
  capRaw := 0
  table := []
  zeroing := []
  heat := []
  coalesce := []
  heatSeen := 0
  promote := []
  demote := []
  warm := []
  heatLost := []
  holds := []
  tasks := []
  nextTask := 0
  nextTag := 0
  codecQ := []
  laneGated := 0
  plan := []
  moves := []
  regionMove := none
  mirrorWait := []
  rescue := []
  retire := []
  emptying := []
  watch := []
  ceTable := []
  tokens := []
  frame := 0
  keyInvalid := []
  keyWaiting := []
  cbInvalid := false
  dirty := []
  owed := []
  delivered := []
  latency := []
  alarms := []
  refused := []
  behind := []
  casks := []
  blocks := []
  lost := []
  cellarCache := []
  tagCache := []
  newPath := []

/-! ## DRAM channels (spec/06) -/

/-- A burst waiting in a channel queue (spec/06 R230): its place (subchannel, bank group, bank with rank, row), its
direction, its owner code of spec/07 R271, the task or write it belongs to, and the bits of a write; the chip ID of its bank, whether it
carries the TAG-INLINE code (spec/05 R186), of a read in flight whether a write of the burst was issued since (R195), and whether a
write is of a line of the cellar book or the tag region, whose bits are taken from the table as it is issued (spec/02 R60, spec/04 R166). -/
structure QEnt where
  sub   : Nat
  group : Nat
  bank  : Nat
  row   : Nat
  write : Bool
  owner : Nat
  label : Nat
  hint  : Bool
  slice : Nat
  lpage : Nat
  burst : Nat
  task  : Nat
  value : Nat
  waits : Nat
  cid   : Nat
  inl   : Bool
  stale : Bool
  line  : Bool
  deriving DecidableEq, Repr

/-- A row of a row tracker (spec/06 R243). -/
structure TrackRow where
  row       : Nat
  requester : Nat
  count     : Nat
  deriving DecidableEq, Repr

/-- A rank being rebuilt onto a spare (spec/06 R256, R257). -/
structure Rebuild where
  failed    : Nat
  spare     : Nat
  watermark : Nat
  deriving DecidableEq, Repr

/-- A command to DRAM (spec/06 R253): a row opened or closed in a bank, a burst read or written, a refresh of a rank of a subchannel,
an RFM command to a bank. -/
inductive DramCmd where
  | activate (key row requester : Nat)
  | precharge (key : Nat)
  | read (q : QEnt)
  | write (q : QEnt)
  | refresh (sub rank bank : Nat)
  | rfm (key : Nat)
  deriving DecidableEq, Repr

/-- The setting of a lane in one direction (spec/06 R248): reference step and delay step. -/
structure LaneSet where
  vref  : Nat
  delay : Nat
  deriving DecidableEq, Repr

/-- The state of one channel. `lanes` holds the settings of the lanes (rank * 160 + direction * 80 + lane), `steps` for each rank the
steps of R247 that failed (bit k - 1 for step k), `parity` whether its registering clock drivers check command/address parity (R253),
`dimmClock` whether the DIMM clock runs (R262), `zqRuns` its ZQ calibrations (R263). `debt` is the refresh debt of each rank of each subchannel (spec/06 R235), `refPtr` the bank
it refreshes next, `rfmDue` the banks to get an RFM command (R240, R243), `raaInit`, `raaMax` and `raaDec` what the mode
registers of each rank hold (R240, log entry 23), `passStart` the start of the scrub pass plus 1, or 0 outside a pass. -/
structure ChanState where
  rankMap     : List Nat
  queue       : List QEnt
  withheld    : List QEnt
  repairQ     : List QEnt
  inflight    : List QEnt
  openRows    : Sparse Nat
  raa         : Sparse Nat
  tracker     : Sparse (List TrackRow)
  throttled   : List (Nat × Nat)
  windowStart : Nat
  debt        : List Nat
  powerDown   : List Nat
  scrubPtr    : Sparse Nat
  scrubDone   : Sparse Nat
  passStart   : Nat
  parityTime  : List (Option Nat)
  lastCmds    : List DramCmd
  rebuild     : Option Rebuild
  retrain     : List Nat
  suspects    : List QEnt
  refPtr      : Sparse Nat
  rfmDue      : List Nat
  raaInit     : List Nat
  raaMax      : List Nat
  raaDec      : List Nat
  lanes       : Sparse LaneSet
  steps       : List Nat
  parity      : Bool
  dimmClock   : Bool
  zqRuns      : Nat
  deriving DecidableEq, Repr

/-- A channel at reset: layer k on rank k (spec/06 R226), nothing queued. -/
def ChanState.zero : ChanState where
  rankMap := [0, 1, 2, 3]
  queue := []
  withheld := []
  repairQ := []
  inflight := []
  openRows := []
  raa := []
  tracker := []
  throttled := []
  windowStart := 0
  debt := [0, 0, 0, 0, 0, 0, 0, 0]
  powerDown := []
  scrubPtr := []
  scrubDone := []
  passStart := 0
  parityTime := [none, none, none, none]
  lastCmds := []
  rebuild := none
  retrain := []
  suspects := []
  refPtr := []
  rfmDue := []
  raaInit := [64, 64, 64, 64]
  raaMax := [384, 384, 384, 384]
  raaDec := [64, 64, 64, 64]
  lanes := []
  steps := [0, 0, 0, 0]
  parity := false
  dimmClock := true
  zqRuns := 0

/-! ## Promenade links (spec/08) -/

/-- A flit on its way (spec/08 R305, R306): its sequence number, its messages, and the ACK and credit fields it was
sent with. -/
structure Flit where
  isData : Bool
  seq    : Nat
  ack    : Nat
  crSel  : Nat
  crCount : Nat
  msgs   : List Msg
  deriving DecidableEq, Repr

/-- A message waiting at a link transmitter with its crossbar port (spec/08 R321). -/
structure TxEnt where
  source : Nat
  msg    : Msg
  deriving DecidableEq, Repr

/-- One direction of a link: the sender's and the receiver's state (spec/08 R312 to R322). When the returned count of each counter
and ACK last advanced, and when a response was last accepted, are kept for spec/00 R13: the time plus 1, 0 for never. -/
structure LinkDir where
  tx         : List TxEnt
  replay     : List Flit
  resend     : List Flit
  nextSeq    : Nat
  acked      : Nat
  crSel      : Nat
  charged    : List Nat
  returned   : List Nat
  naks       : Nat
  wire       : List Flit
  nakWire    : Bool
  expected   : Nat
  nakOut     : Bool
  ownReturn  : List Nat
  creditAt   : List Nat
  ackAt      : Nat
  heardAt    : Nat
  deriving DecidableEq, Repr

/-- A direction after initialisation (spec/08 R326); ACK reads 0xFFF until a flit is accepted (R306). -/
def LinkDir.zero : LinkDir where
  tx := []
  replay := []
  resend := []
  nextSeq := 0
  acked := 0xFFF
  crSel := 0
  charged := [0, 0, 0, 0, 0, 0, 0, 0]
  returned := [0, 0, 0, 0, 0, 0, 0, 0]
  naks := 0
  wire := []
  nakWire := false
  expected := 0
  nakOut := false
  ownReturn := [0, 0, 0, 0, 0, 0, 0, 0]
  creditAt := [0, 0, 0, 0, 0, 0, 0, 0]
  ackAt := 0
  heardAt := 0

/-- The state of one link: its two directions, its count of trainings and of failed attempts in a row, and the messages of its pair that
wait at their source while the pair has no path (spec/08 R334). -/
structure LinkState where
  up        : LinkDir
  down      : LinkDir
  trainings : Nat
  attempts  : Nat
  waiting   : List Msg
  deriving DecidableEq, Repr

/-- A link before its first training. -/
def LinkState.zero : LinkState := ⟨LinkDir.zero, LinkDir.zero, 0, 0, []⟩

/-! ## Host ports (spec/09, spec/12) -/

/-- An HDM decoder of a port, as the host committed it (spec/09 R348). -/
structure Decoder where
  committed   : Bool
  base        : Nat
  size        : Nat
  ways        : Nat
  granularity : Nat
  position    : Nat
  skip        : Nat
  deriving DecidableEq, Repr

/-- An uncommitted decoder. -/
def Decoder.zero : Decoder := ⟨false, 0, 0, 0, 0, 0, 0⟩

/-- An event record of a port's log (spec/09 R369, R370): the vendor record's fields, or a General Media or Dynamic
Capacity record of CXL. -/
structure EventRec where
  kind     : Nat
  handle   : Nat
  time     : Nat
  code     : Nat
  slice    : Nat
  detail   : Nat
  pavilion : Nat
  logical  : Nat
  dpa      : Nat
  valueA   : Nat
  valueB   : Nat
  deriving DecidableEq, Repr

/-- An event log of a port: its records, its overflow count and the first and last overflow times (spec/09 R369). -/
structure EventLog where
  records    : List EventRec
  overflow   : Nat
  firstTime  : Nat
  lastTime   : Nat
  nextHandle : Nat
  deriving DecidableEq, Repr

/-- An empty event log. -/
def EventLog.zero : EventLog := ⟨[], 0, 0, 0, 1⟩

/-- An entry of a port's poison list (spec/09 R372). -/
structure PoisonEnt where
  dpa   : Nat
  units : Nat
  deriving DecidableEq, Repr

/-- A bus-master window (spec/09 R358). -/
structure Window where
  base    : Nat
  limit   : Nat
  pasid   : Nat
  pasidEn : Bool
  enable  : Bool
  deriving DecidableEq, Repr

/-- A window at its reset value (spec/09 R358). -/
def Window.zero : Window := ⟨0, 0, 0, false, false⟩

/-- A ring of a port (spec/12 R473 to R477): whether it runs or is faulted, its PRODUCER, the CONSUMER last read, the
records lost since the last one written and the sequence. -/
structure Ring where
  enabled  : Bool
  faulted  : Bool
  producer : Nat
  consumer : Nat
  lost     : Nat
  sequence : Nat
  pending  : List Nat
  deriving DecidableEq, Repr

/-- A ring at reset. -/
def Ring.zero : Ring := ⟨false, false, 0, 0, 0, 0, []⟩

/-- A sampling arm: the tally when it was written or last triggered, and a crossing whose record is still to be
written (spec/12 R481, R482). -/
structure Arm where
  last    : Nat
  crossed : Option Nat
  skid    : Nat
  hpa     : Nat
  logical : Nat
  value   : Nat
  deriving DecidableEq, Repr

/-- An arm at reset. -/
def Arm.zero : Arm := ⟨0, none, 0, 0, 0, 0⟩

/-- A dynamic-capacity operation in progress on a port (spec/09 R376 to R381, spec/10 R402): the request (its kind 1 ADD, 2
RELEASE, 4 the offer of a rebinding), the DPA regions it took, the runs of logical extents offered. -/
structure DcOp where
  slice   : Nat
  first   : Nat
  count   : Nat
  regions : List Nat
  runs    : List (Nat × Nat)
  kind    : Nat
  deriving DecidableEq, Repr

/-- A release under way on a port (spec/09 R380): DPA extents whose decoded requests must complete. -/
structure Release where
  extents : List Nat
  asked   : Bool
  forced  : Bool
  deriving DecidableEq, Repr

/-- The state of one host port. `grantOf` keeps the grant number under which a DPA extent was accepted (spec/09 R375); `bars` the base
address registers, 0 to 5, and the expansion ROM's, 6, by number (spec/09 R355); `aerMask`, `aerCeMask` and `aerSeverity` the AER masks and
severities (spec/09 R390, their bits as log entry 53 says). -/
structure PortState where
  decoders    : Sparse Decoder
  regionMap   : Sparse Nat
  masks       : Sparse Nat
  grantOf     : Sparse Nat
  maskCache   : List Nat
  parts       : Sparse Partition
  park        : List Req
  heldReq     : Nat
  heldDat     : Nat
  owedReq     : Nat
  owedDat     : Nat
  logs        : Sparse EventLog
  poison      : List PoisonEnt
  poisonOver  : Option Nat
  policy      : List Nat
  mboxVector  : Nat
  mboxBusy    : Option Nat
  windows     : Sparse Window
  bme         : Bool
  msixMask    : Nat
  msixPending : Nat
  aerMask     : Nat
  aerCeMask   : Nat
  aerSeverity : Nat
  perst       : Bool
  pmeEn       : Bool
  inL1        : Bool
  ideKeys     : Nat
  spdm        : Nat
  dcOp        : Option DcOp
  dcGrant     : Nat
  releases    : List Release
  rings       : Sparse Ring
  snapNumber  : Nat
  arms        : Sparse Arm
  bars        : Sparse Nat
  deriving DecidableEq, Repr

/-- A port at reset: no decoder committed, 512 credits of each kind advertised (spec/09 R342). -/
def PortState.zero : PortState where
  decoders := []
  regionMap := []
  masks := []
  grantOf := []
  maskCache := []
  parts := []
  park := []
  heldReq := 512
  heldDat := 512
  owedReq := 0
  owedDat := 0
  logs := []
  poison := []
  poisonOver := none
  policy := [0, 0, 0, 0, 0]
  mboxVector := 0
  mboxBusy := none
  windows := []
  bme := false
  msixMask := 0
  msixPending := 0
  aerMask := 2 ^ 22
  aerCeMask := 2 ^ 14 + 2 ^ 15
  aerSeverity := 2 ^ 4 + 2 ^ 13 + 2 ^ 17 + 2 ^ 18 + 2 ^ 22
  perst := true
  pmeEn := false
  inL1 := false
  ideKeys := 0
  spdm := 0
  dcOp := none
  dcGrant := 0
  releases := []
  rings := []
  snapNumber := 0
  arms := []
  bars := []

/-! ## Slices (spec/10) -/

/-- A drain under way (spec/10 R409): its kind, when it began, the requests squashed, whether a link break extended it
(R411). -/
structure Drain where
  kind     : Nat
  start    : Nat
  squashed : Nat
  extended : Bool
  deriving DecidableEq, Repr

/-- A SAVE or RESTORE in progress (spec/10 R421 to R428): the bundle's bytes and length, the extents a SAVE took, whether a
doorbell asked for it. -/
structure Bundle where
  restore  : Bool
  final    : Bool
  size     : Nat
  extents  : List Nat
  bytes    : Nat
  doorbell : Bool
  deriving DecidableEq, Repr

/-- A slice's harvest (spec/12 R486 to R491): the sequence of its next record, the TAINT, INCOMPLETE, PARTIAL and
LOST_BEFORE marks of the open minute, whether it is to be removed at the minute's end. -/
structure Minute where
  sequence   : Nat
  active     : Bool
  taint      : Nat
  incomplete : Bool
  partMinute : Bool
  lost       : Bool
  removed    : Bool
  deriving DecidableEq, Repr

/-- A minute at reset. -/
def Minute.zero : Minute := ⟨0, false, 0, false, false, false, false⟩

/-- The state of one slice that no dictionary entry shows: whether it exists (is not FREE), whether settings changed since
it last ran (spec/10 R398), its granted extents by region, its fixed frames, its drain, a binding still to be offered (R402),
a bundle with what a RESTORE knows of its source (R425), the doorbell (R406) and the one still ACCEPTED, its harvest minute,
the start value of each source tally in the minute and the rise kept from a reset (spec/12 R488), its tenant window (R484). -/
structure SliceState where
  created    : Bool
  changed    : Bool
  grants     : Sparse Nat
  fixed      : Sparse Nat
  drain      : Option Drain
  rebound    : Bool
  bundle     : Option Bundle
  sourceSerial : Nat
  finalDone  : Bool
  keyRestored : Bool
  rekeyWait  : List Nat
  doorTag    : Nat
  doorOp     : Nat
  doorResult : Nat
  doorRun    : Nat
  minute     : Minute
  carry      : Sparse Nat
  window     : Sparse Nat
  deriving DecidableEq, Repr

/-- A slice at reset. -/
def SliceState.zero : SliceState where
  created := false
  changed := false
  grants := []
  fixed := []
  drain := none
  rebound := false
  bundle := none
  sourceSerial := 0
  finalDone := false
  keyRestored := false
  rekeyWait := []
  doorTag := 0
  doorOp := 0
  doorResult := 0
  doorRun := 0
  minute := Minute.zero
  carry := []
  window := []

/-! ## Vintages (spec/07) -/

/-- The slot counts and tables that a vintage gives one pavilion (spec/07 R266, R289, R291): per subchannel pair the
1,024 descriptors of one subchannel, as one number of 16-bit pieces. -/
structure PavTables where
  slots     : Sparse Nat
  writeBlocks : Nat
  ownedMax  : Nat
  openMin   : Nat
  classes   : Nat
  migSlots  : Nat
  subs      : Nat
  entries   : Sparse Nat
  deriving DecidableEq, Repr

/-- The queue entries of each owner, by owner * 2 + direction (spec/07 R282): four of each active class, the open partition with
those of the classes that are not active, SYSTEM, MIGRATION and, for writes, CODEC. -/
def partitionTable (active : List Nat) : Sparse Nat :=
  let idle := 4 * (5 - active.length)
  [(0, 6 + idle), (1, 3 + idle)] ++ active.flatMap (fun k => [(2 * k, 4), (2 * k + 1, 4)]) ++ [(32, 2), (33, 2), (34, 4), (35, 4), (37, 3)]

/-- No tables: before a vintage no class is active. -/
def PavTables.zero : PavTables := ⟨[], 0, 0, 0, 0, 0, 0, partitionTable []⟩

/-- A write to an entry marked (V) that waits for its vintage: the entry, its instance, the value. -/
structure Staged where
  entry : Entry
  inst  : Nat
  value : Nat
  deriving DecidableEq, Repr

/-- A vintage (spec/07 R266): the writes it carries, tables per pavilion, meter rates per pavilion, slice and direction,
region placement, reserved ingress entries per port and slice, plans, the service of each guaranteed slice (the factor of
R293 in thousandths plus 1; 0 for none). -/
structure Vintage where
  number    : Nat
  forced    : Bool
  planOnly  : Bool
  pavilions : Nat
  settings  : List Staged
  place     : Sparse Nat
  tables    : Sparse PavTables
  rates     : Sparse Nat
  reserved  : Sparse Nat
  plans     : Sparse (List PlanEnt)
  permille  : Sparse Nat
  digest    : Nat
  format    : Nat
  lengths   : Sparse Nat
  slices    : Sparse (List Nat)
  carried   : Sparse (List PlanEnt)
  deriving DecidableEq, Repr

/-- No vintage (spec/05 R214). -/
def Vintage.none : Vintage := ⟨0, false, false, 0, [], [], [], [], [], [], [], 0, 1, [], [], []⟩

/-- What goes on when a compile's vintage is in force, or when it is refused: nothing, the answer to a write or a batch
commit (spec/07 R298, R299), the grant in progress on a port (spec/09 R377), the START of a slice (spec/10 R398), the end of
a RESTORE (spec/10 R426). -/
inductive Goal where
  | plain
  | writes
  | batch
  | grant (i : Nat)
  | start (sl : Nat)
  | restore (sl : Nat)
  deriving DecidableEq, Repr

/-- What asked for a compile (spec/07 R300): the kind (0 full, 1 forced, 2 plan only, 3 supplementary plan of a slice on a
pavilion, 4 supplementary plan of a pavilion's retire list), the writes it carries, who waits, and what for. -/
structure CompileAsk where
  kind   : Nat
  writes : List Staged
  who    : Option Who
  goal   : Goal
  arg    : Nat
  deriving DecidableEq, Repr

/-- The compiler and the banks (spec/07 R267, R294 to R299): the vintage in force, the shadow bank with what it carries, how
far its load has come (checked, its swap time fixed, the pavilions still to swap), the compiles asked for, the batch. -/
structure VintState where
  inForce   : Vintage
  shadow    : Option Vintage
  checking  : Bool
  armed     : Bool
  swapping  : List Nat
  bank      : Nat
  queue     : List CompileAsk
  running   : Option CompileAsk
  batch     : Option Who
  staged    : List Staged
  intervalEnded : Bool
  extra     : List PlanEnt
  commons   : Sparse Int
  shares    : Sparse Nat
  deriving DecidableEq, Repr

/-- No vintage and no compile. -/
def VintState.zero : VintState where
  inForce := Vintage.none
  shadow := none
  checking := false
  armed := false
  swapping := []
  bank := 0
  queue := []
  running := none
  batch := none
  staged := []
  intervalEnded := false
  extra := []
  commons := []
  shares := []

/-! ## Codec (spec/03) and keys (spec/04) -/

/-- A codebook request that waits for the end of a load (spec/03 R114): an image for a slot, from who writes it or from a build,
a CODEBOOK_COMMAND, a CODEBOOK_BUILD_COMMAND. -/
inductive BookAsk where
  | image (w : Who) (b image len : Nat)
  | built (b image : Nat)
  | command (w : Who) (b v : Nat)
  | build (w : Who) (v : Nat)
  deriving DecidableEq, Repr

/-- The codebook memory and the build engine (spec/03 R110 to R125): the load in progress and what waits for its end, the counts
of a build with the bits of its pages under the neutral codebook, and what each slice (key slot * 4096 + slice) has still to compact and promote for the drain of a slot: CASK extents
((pavilion * 2 ^ 40 + extent) * 2) and page groups of fixed frames ((pavilion * 2 ^ 40 + group) * 2 + 1). -/
structure CodecState where
  loading  : Option (Nat × Nat × Option Who)
  waiting  : List BookAsk
  counts   : List Nat
  coded    : Nat
  drains   : Sparse (List Nat)
  deriving DecidableEq, Repr

/-- Nothing built or loading. -/
def CodecState.zero : CodecState := ⟨none, [], [], 0, []⟩

/-- A key set of a slice (spec/04 R146): its three keys and its generation. -/
structure KeySet where
  live  : Bool
  gen   : Nat
  data  : Nat
  tweak : Nat
  mac   : Nat
  deriving DecidableEq, Repr

/-- No key set. -/
def KeySet.zero : KeySet := ⟨false, 0, 0, 0, 0⟩

/-- A wrapping key or a role key (spec/04 R150, spec/11 R450). -/
structure OneKey where
  live : Bool
  gen  : Nat
  key  : Nat
  deriving DecidableEq, Repr

/-- No key. -/
def OneKey.zero : OneKey := ⟨false, 0, 0⟩

/-- The key store (spec/04 R150). `sweeps` holds, for a slice whose sweep waits until the key caches hold its new key set, the cause of the
sweep (log entry 205). -/
structure KeyState where
  sets  : Sparse KeySet
  wraps : Sparse OneKey
  roles : Sparse OneKey
  sweepsRefused : Nat
  sweeps : Sparse Nat
  deriving DecidableEq, Repr

/-! ## The gatehouse (spec/11) -/

/-- A notification waiting for its acknowledgement (spec/11 R460). -/
structure Notify where
  number : Nat
  record : Nat
  logNo  : Nat
  lost   : Bool
  deriving DecidableEq, Repr

/-- A session (spec/11 R452, R453, R454, R460); `usedAt` is the time of its last authenticated request plus 1 (spec/00 R13). -/
structure Session where
  isOpen    : Bool
  openings  : Nat
  key       : Nat
  request   : Option Frame
  answer    : Option Frame
  executing : Bool
  transfer  : Nat
  transferOp : Nat
  transferIx : Nat
  transferLen : Nat
  transferGot : Nat
  transferVal : Nat
  notices   : List Notify
  noticeNo  : Nat
  lostRun   : Bool
  peer      : Transport
  origin    : Transport
  usedAt    : Nat
  deriving DecidableEq, Repr

/-- A free session slot. -/
def Session.zero : Session :=
  ⟨false, 0, 0, none, none, false, 0, 0, 0, 0, 0, 0, [], 0, false, .mctp 0, .mctp 0, 0⟩

/-- The gatehouse: its sessions, the requests held during a REST entry (spec/13 R512), the staged and previous network settings
(spec/11 R444), the IPv4 address, prefix and gateway that DHCP gave (R443), and when the PTP master was last heard (spec/00 R13). -/
structure GateState where
  sessions  : Sparse Session
  held      : List (Transport × Frame)
  netStaged : Sparse Nat
  netOld    : Option (Sparse Nat)
  lease     : Option (Nat × Nat × Nat)
  ptpAt     : Nat
  deriving DecidableEq, Repr

/-- The monitor (spec/16 R595, R596): the wrong answers in a row, the login lock, and what poke wrote into gatehouse memory, by
8-byte word, and when its last command came (spec/00 R13). The role of its session is the entry MONITOR_ROLE. -/
structure MonState where
  wrong  : Nat
  locked : Bool
  memory : Sparse Nat
  usedAt : Nat
  deriving DecidableEq, Repr

/-! ## Power, boot and ageing (spec/13 to spec/17) -/

/-- The power-input controller (spec/14, spec/17): VAUX, the sampled straps, presence as the land shows it and as debounced,
whether a debounced absence runs, the FETs that regulate (0 the main FET, b + 1 branch b), whether MAIN_VIN stands outside the
warning window, the branches whose ramps wait, the trips of each branch since the cold boot, the lands MAIN_PG, CORE_EN, CORE_PG
and THERMTRIP_N, the failures of CORE_PG and the wait after one, MAIN_VIN as last sampled, the samples of the running
millisecond with their count, and the energies below a millijoule. -/
structure PowerState where
  vaux       : Bool
  strapMain  : Nat
  strapBr    : Nat
  strapI3c   : Nat
  present    : Bool
  rawPresent : Bool
  absence    : Bool
  limiting   : List Nat
  warnOut    : Bool
  branchQ    : List Nat
  branchTrips : Sparse Nat
  mainPG     : Bool
  coreEn     : Bool
  corePG     : Bool
  thermtrip  : Bool
  coreFails  : Nat
  coreWait   : Bool
  vin        : Nat
  sums       : List Nat
  sumCount   : Nat
  energy     : Sparse Nat
  deriving DecidableEq, Repr

/-- The REST sequencer (spec/13 R506 to R517): the step it is in, the agents that agreed (newest first), a wake latched, the
start of the attempt, whether the part is in REST and when it entered, whether it leaves and since when, whether the core
supply is back, the pavilions restored, the ports with a latched PERST# edge, the pavilions that lost a branch in REST; whether a
vintage bank was lost (R515), the number of the first log record written in REST. An agent's code has 0x10000 added where its
pavilion was IDLE. -/
structure RestState where
  step     : Option Nat
  agreed   : List Nat
  wake     : Option Nat
  start    : Nat
  inRest   : Bool
  entered  : Nat
  exiting  : Bool
  exitAt   : Nat
  coreUp   : Bool
  restored : List Nat
  perst    : List Nat
  dark     : List Nat
  bankLost : Bool
  logAt    : Nat
  deriving DecidableEq, Repr

/-- A weak row (spec/15 R558): the row on one subchannel of a channel's rank, and the devices its corrections named (bit k
device k, bit 31 every device). -/
structure WeakRow where
  chan    : Nat
  sub     : Nat
  rank    : Nat
  layer   : Nat
  group   : Nat
  bank    : Nat
  chip    : Nat
  row     : Nat
  devices : Nat
  deriving DecidableEq, Repr

/-- The sealed trust area (spec/16 R573): role keys, the settings it keeps, the device certificate. -/
structure Trust where
  keys     : Sparse OneKey
  settings : Sparse Nat
  cert     : Option Nat
  deriving DecidableEq, Repr

/-- What the last wear record holds of the counts and settings in force (spec/15 R550). -/
structure Wear where
  number  : Nat
  elapsed : Nat
  ages    : Sparse Nat
  bands   : Sparse Nat
  guards  : Sparse Nat
  floors  : Sparse Nat
  deriving DecidableEq, Repr

/-- What flash, fuses and the wear record hold (spec/15 R550, spec/16 R571 to R588): it outlives OFF. `slots` marks an image
slot that is erased (1) or partly written (2), `heads` keeps the 256 B header of an image that the part has received into it
(spec/16 R582), 0 for one written before reset; `ppr` counts the repair resources used of a channel; `serials` keeps the SPD
serial numbers, key channel * 2 + DIMM; `subsys` is the subsystem ID over the subsystem vendor ID of the descriptor. -/
structure Flash where
  slots      : Sparse Nat
  heads      : Sparse Nat
  config     : Sparse Nat
  config2    : Sparse Nat
  trust      : Trust
  trust2     : Trust
  slotNext   : Nat
  wear       : Wear
  weakRows   : List WeakRow
  ppr        : Sparse Nat
  serials    : Sparse Nat
  retired    : Nat
  lostLayers : List Nat
  svnFuse    : Nat
  revoked    : Nat
  serial     : Nat
  deviceKey  : Nat
  ilimMain   : Nat
  ilimBranch : Nat
  hammerMax  : Nat
  vddLimit   : Nat
  mac        : Nat
  subsys     : Nat
  vendorPoint : Nat
  deriving DecidableEq, Repr

/-- The always-on domain's watch and the boot sequence (spec/01 R24, spec/16 R574): the last heartbeat, whether pavilion 0 is
lost, the start of the boot, whether the next cold boot follows a loss of the core supply, the pavilions whose self-test has
ended, that are trained, repaired and filled, the layers that training or fill left out of service (pavilion * 4 + layer), whether memory is
active, the measurement, SVN and version of the image in force, whether the second slot is being checked, the image being
received, the debug challenge, the liveness count (spec/09 R357). -/
structure BootState where
  heartbeat  : Nat
  pav0Lost   : Bool
  bootStart  : Nat
  again      : Bool
  tested     : List Nat
  trained    : List Nat
  repaired   : List Nat
  filled     : List Nat
  layersOut  : List Nat
  active     : Bool
  measured   : Nat
  version    : Nat
  second     : Bool
  updateImg  : Sparse Nat
  challenge  : Nat
  liveness   : Nat
  deriving DecidableEq, Repr

/-- Ageing (spec/15): the steps of R552 that wait for a window (plus 20 for those of the next window), the age counts of the
pavilions and the seconds of the temperature bands (in units of 2^-32 s and of 1 s), the least slack of each pavilion in the
season as 32 bits plus 1, corrections of each channel at the start of the season, the pavilions that the ladder retires, the
regions that R567 moves away (region key * 8 + home). -/
structure SeasonState where
  pending  : List Nat
  age      : Sparse Nat
  bands    : Sparse Nat
  slack    : Sparse Nat
  ceStart  : Sparse Nat
  retiring : List Nat
  moves    : List Nat
  deriving DecidableEq, Repr

/-- A record of the part's log (spec/11 R459). -/
structure LogRec where
  time   : Nat
  code   : Nat
  slice  : Option Nat
  pav    : Nat
  flags  : Nat
  valueA : Nat
  valueB : Nat
  deriving DecidableEq, Repr

/-- No record (spec/11: a position never written reads 0). -/
def LogRec.zero : LogRec := ⟨0, 0, none, 0, 0, 0, 0⟩

/-- What the part sends at its lands (log entry 4): the model's own record of it. -/
inductive Output where
  | memData (i : Nat) (tag : Nat) (data : Nat) (poison : Bool)
  | cmp (i : Nat) (tag : Nat)
  | frame (dest : Transport) (f : Frame)
  | msix (i : Nat) (vector : Nat)
  | wake (i : Nat) (method : Nat)
  | hostWrite (i : Nat) (addr : Nat) (len : Nat) (data : Nat) (pasid : Option Nat)
  | hostRead (i : Nat) (addr : Nat) (len : Nat) (pasid : Option Nat)
  | mailbox (i : Nat) (code : Nat) (payload : List Nat)
  | doe (i : Nat) (kind : Nat) (payload : List Nat)
  | net (kind : Nat) (payload : List Nat)
  | mctp (kind : Nat) (payload : List Nat)
  | pin (name : Nat) (level : Nat)
  | text (name : String) (values : List Nat)
  | answer (w : Who) (code : Nat) (detail : List Nat)
  | debug (value : Nat)
  deriving DecidableEq, Repr

/-- Everything of the part but the queue of commands. -/
structure Part where
  dict    : Sparse Nat
  delta   : Sparse Nat
  taint   : List Nat
  now     : Nat
  ptpRate : Int
  ptpLock : Bool
  log     : Sparse LogRec
  logNext : Nat
  lastLog : Sparse Nat
  pavs    : Sparse PavState
  chans   : Sparse ChanState
  links   : Sparse LinkState
  ports   : Sparse PortState
  slices  : Sparse SliceState
  vint    : VintState
  codec   : CodecState
  keys    : KeyState
  gate    : GateState
  mon     : MonState
  power   : PowerState
  rest    : RestState
  flash   : Flash
  boot    : BootState
  season  : SeasonState
  backlog : List Nat
  steppedMinute : Bool
  minuteStart : Nat
  out     : List Output
  freeCtr : Nat
  deriving DecidableEq, Repr

/-- The state: the commands that wait, first in first out, and the part. -/
structure State where
  pending : List Instr
  part    : Part
  deriving DecidableEq, Repr

/-! ## Reset -/

/-- A trust area as manufactured (log entry 12): no role key, default settings, the device certificate written. -/
def Trust.fresh : Trust := ⟨[], [], some 0⟩

/-- A trust area when neither copy is valid (spec/16 R573). -/
def Trust.none : Trust := ⟨[], [], Option.none⟩

/-- A wear record of a new part. -/
def Wear.zero : Wear := ⟨0, 0, [], [], [], []⟩

/-- Flash, fuses and the wear record at reset (log entry 12): a new part, nothing retired or revoked, the fused ceilings at
the largest values the spec allows (spec/14 R526, spec/06 R246). -/
def Flash.fresh : Flash where
  slots := []
  heads := []
  config := []
  config2 := []
  trust := Trust.fresh
  trust2 := Trust.fresh
  slotNext := 0
  wear := Wear.zero
  weakRows := []
  ppr := []
  serials := []
  retired := 0
  lostLayers := []
  svnFuse := 0
  revoked := 0
  serial := 0
  deviceKey := 1
  ilimMain := 60
  ilimBranch := 25
  hammerMax := 4096
  vddLimit := 50
  mac := 0
  subsys := 0x00011F8B
  vendorPoint := 0

/-- The power-input controller as VAUX rises: the module absent, every gate off (spec/14 R529, R535). -/
def PowerState.zero : PowerState where
  vaux := true
  strapMain := 3
  strapBr := 3
  strapI3c := 0
  present := false
  rawPresent := false
  absence := false
  limiting := []
  warnOut := true
  branchQ := []
  branchTrips := []
  mainPG := false
  coreEn := false
  corePG := false
  thermtrip := true
  coreFails := 0
  coreWait := false
  vin := 0
  sums := []
  sumCount := 0
  energy := []

/-- No REST attempt. -/
def RestState.zero : RestState := ⟨none, [], none, 0, false, 0, false, 0, false, [], [], [], false, 0⟩

/-- The boot sequence at the start of stage 1 (spec/16 R574). -/
def BootState.zero : BootState := ⟨0, false, 0, false, [], [], [], [], [], false, 0, 0, false, [], 0, 0⟩

/-- Ageing at reset. -/
def SeasonState.zero : SeasonState := ⟨[], [], [], [], [], [], []⟩

/-- The dictionary at reset: every entry at its default, but BOOT_STATE, which reads stage 1 (spec/16 R574),
PACKAGE_POWER_STATE, which reads OFF until the boot ends (spec/13 R505), and codebook slot 0, which is LOADED (spec/03
R115). -/
def dictReset : Sparse Nat :=
  Sparse.put (Sparse.put (Sparse.put [] (Entry.key .bootState 0) 1) (Entry.key .packagePowerState 0) 0)
    (Entry.key .codebookState 0) 1

/-- The part as VAUX rises and a cold boot begins (spec/16 R574). -/
def Part.reset : Part where
  dict := dictReset
  delta := []
  taint := []
  now := 0
  ptpRate := 0
  ptpLock := false
  log := []
  logNext := 0
  lastLog := []
  pavs := []
  chans := []
  links := []
  ports := []
  slices := []
  vint := VintState.zero
  codec := CodecState.zero
  keys := ⟨[], [], [], 0, []⟩
  gate := ⟨[], [], [], none, none, 0⟩
  mon := ⟨0, false, [], 0⟩
  power := PowerState.zero
  rest := RestState.zero
  flash := Flash.fresh
  boot := BootState.zero
  season := SeasonState.zero
  backlog := []
  steppedMinute := false
  minuteStart := 0
  out := []
  freeCtr := 0

/-- The machine right after reset: no command waits. -/
def State.reset : State := ⟨[], Part.reset⟩

end Sys2Proof.Machine
end

