-- ==== Sys2Proof/Machine/Ops.lean ====
section
/-!
DEFINITION. The named operations over the state that every meaning is built from: the units, the dictionary, counts,
the part's log with its notifications and notice rings, the event logs and interrupts of the host ports, and what the
part sends.
-/

namespace Sys2Proof.Machine

/-! ## Running a change of the part -/

/-- A command's effect on everything but the queue. -/
def State.run (f : Part → Part) (s : State) : Host.Outcome State Fault Refusal :=
  .next { s with part := f s.part }

/-- The next free value (log entry 3). -/
def Part.free (s : Part) : Nat × Part := (Config.random s.freeCtr, { s with freeCtr := s.freeCtr + 1 })

/-- Send something at the lands. -/
def Part.emit (s : Part) (o : Output) : Part := { s with out := s.out ++ [o] }

/-- An agent of the REST sequence has agreed to REST, or the part is in it: the agent is parked (spec/13 R507). Codes as in
spec/13 R509. -/
def Part.parked (s : Part) (agent : Nat) : Bool := s.rest.inRest || s.rest.agreed.contains agent

/-! ## Units -/

/-- The state of a pavilion. -/
def Part.pav (s : Part) (p : Nat) : PavState := s.pavs.get PavState.zero p
/-- Change the state of a pavilion. -/
def Part.onPav (s : Part) (p : Nat) (f : PavState → PavState) : Part :=
  { s with pavs := s.pavs.modify PavState.zero p f }
/-- The state of a channel. -/
def Part.chan (s : Part) (c : Nat) : ChanState := s.chans.get ChanState.zero c
/-- Change the state of a channel. -/
def Part.onChan (s : Part) (c : Nat) (f : ChanState → ChanState) : Part :=
  { s with chans := s.chans.modify ChanState.zero c f }
/-- The state of a host port. -/
def Part.port (s : Part) (i : Nat) : PortState := s.ports.get PortState.zero i
/-- Change the state of a host port. -/
def Part.onPort (s : Part) (i : Nat) (f : PortState → PortState) : Part :=
  { s with ports := s.ports.modify PortState.zero i f }
/-- The state of a link. -/
def Part.link (s : Part) (n : Nat) : LinkState := s.links.get LinkState.zero n
/-- Change the state of a link. -/
def Part.onLink (s : Part) (n : Nat) (f : LinkState → LinkState) : Part :=
  { s with links := s.links.modify LinkState.zero n f }
/-- The state of a slice beside its dictionary entries. -/
def Part.slice (s : Part) (k : Nat) : SliceState := s.slices.get SliceState.zero k
/-- Change the state of a slice. -/
def Part.onSlice (s : Part) (k : Nat) (f : SliceState → SliceState) : Part :=
  { s with slices := s.slices.modify SliceState.zero k f }
/-- The state of a session slot. -/
def Part.sess (s : Part) (k : Nat) : Session := s.gate.sessions.get Session.zero k
/-- Change the state of a session slot. -/
def Part.onSess (s : Part) (k : Nat) (f : Session → Session) : Part :=
  { s with gate := { s.gate with sessions := s.gate.sessions.modify Session.zero k f } }

/-! ## The dictionary (spec/11) -/

/-- The value of an entry as the store holds it. -/
def Part.od (s : Part) (e : Entry) (i : Nat) : Nat := s.dict.get e.info.dflt (e.key i)

/-- Write an entry's value, cut to the width of its type (spec/11 R432). -/
def Part.setOd (s : Part) (e : Entry) (i v : Nat) : Part :=
  { s with dict := s.dict.set e.info.dflt (e.key i) (v % 2 ^ (8 * e.info.bytes)) }

/-- Change an entry's value. -/
def Part.modOd (s : Part) (e : Entry) (i : Nat) (f : Nat → Nat) : Part := s.setOd e i (f (s.od e i))

/-- Add to a tally as a local delta of the block that counts (spec/12 R465). -/
def Part.count (s : Part) (e : Entry) (i : Nat) (n : Nat := 1) : Part :=
  { s with delta := s.delta.modify 0 (e.key i) (· + n) }

/-- The rise of a tally so far: the merged value and the deltas still to be gathered. -/
def Part.tallyNow (s : Part) (e : Entry) (i : Nat) : Nat := s.od e i + s.delta.get 0 (e.key i)

/-- Take back what was added to a tally: from the delta still to be gathered, the rest from the merged value. -/
def Part.uncount (s : Part) (e : Entry) (i n : Nat) : Part :=
  let d := s.delta.get 0 (e.key i)
  let s := { s with delta := s.delta.set 0 (e.key i) (d - n) }
  if n ≤ d then s else s.modOd e i (· - (n - d))

/-- The value of an ENUM, BOOL or number entry of the package. -/
def Part.od0 (s : Part) (e : Entry) : Nat := s.od e 0

/-- Set an entry back to its default. -/
def Part.resetOd (s : Part) (e : Entry) (i : Nat) : Part := { s with dict := s.dict.erase (e.key i) }

/-- Time constants in nanoseconds. -/
def nsPerMs : Nat := 1000000
/-- Nanoseconds in a second. -/
def nsPerS : Nat := 1000000000

/-! ## Pavilions in service (spec/01 R22) -/

/-- PAVILION_STATE of a pavilion. -/
def Part.pstate (s : Part) (p : Nat) : Nat := s.od .pavilionState p

/-- The pavilion is in service: IN_SERVICE or RETIRING (spec/01 R22). -/
def Part.inService (s : Part) (p : Nat) : Bool := s.pstate p == 1 || s.pstate p == 3

/-- The eight pavilions. -/
def allPavs : List Nat := List.range 8

/-- The pavilions in service, ascending. -/
def Part.serving (s : Part) : List Nat := allPavs.filter s.inService

/-- The home pavilion of a port (spec/00 R8). -/
def portPav (i : Nat) : Nat := i / 2

/-! ## Host memory windows (spec/09 R358 to R360) -/

/-- The enabled window of a port that holds a whole range. -/
def PortState.windowOf (t : PortState) (addr len : Nat) : Option (Nat × Window) :=
  (List.range 16).findSome? fun k =>
    let w := t.windows.get Window.zero k
    if w.enable && decide (w.base ≤ addr) && decide (addr + len ≤ w.limit + 4096) then some (k, w) else none

/-- Bus-master engines may issue requests: Bus Master Enable set, D0 (spec/09 R385, R388). -/
def Part.bmActive (s : Part) (i : Nat) : Bool :=
  (s.port i).bme && s.od .portDState i == 0

/-! ## Interrupts (spec/09 R373) -/

/-- Send an MSI-X vector, or keep it pending where MSI-X does not allow it now. -/
def Part.msix (s : Part) (i v : Nat) : Part :=
  if s.bmActive i && !bit (s.port i).msixMask v then s.emit (.msix i v)
  else s.onPort i fun t => { t with msixPending := setBit t.msixPending v true }

/-! ## The part's log (spec/11 R459) -/

/-- The bits of a record. -/
def LogRec.encode (r : LogRec) : Nat :=
  (r.time <<< 192) ||| (r.valueA <<< 128) ||| (r.valueB <<< 64) ||| (r.code <<< 48) |||
  ((r.slice.getD 0) <<< 36) ||| (r.pav <<< 32) |||
  ((r.flags ||| (if r.slice.isSome then 2 else 0)) <<< 24)

/-- The codes that operator sessions receive whatever their mask holds (spec/11 R461). -/
def operatorCodes : List Nat :=
  [0x0F08, 0x1003, 0x1004, 0x1005, 0x1210, 0x1211, 0x1212, 0x1213, 0x1704, 0x1801, 0x1805, 0x180A]

/-- The header of a frame as a number of 256 bits (spec/11 R446). -/
def frameHeader (f : Frame) : Nat :=
  (bits f.sequence 0 64 <<< 192) ||| (bits f.session 0 32 <<< 160) ||| (bits f.result 0 32 <<< 128) |||
  (bits f.offset 0 32 <<< 96) ||| (bits f.length 0 16 <<< 80) ||| (bits f.transfer 0 16 <<< 64) |||
  (bits f.index 0 16 <<< 48) ||| (bits f.subindex 0 8 <<< 40) ||| (bits f.opcode 0 8 <<< 32) |||
  (bits f.kind 0 4 <<< 28) ||| (bits f.role 0 4 <<< 24) ||| (bits f.flags 0 8 <<< 16) |||
  (bits f.magic 0 8 <<< 8) ||| bits f.format 0 8

/-- The authenticator of a frame under a key of 48 bytes (spec/11 R447): the first 32 bytes of the HMAC over the
header and the payload. -/
def frameMac (f : Frame) (key : Nat) : Nat :=
  ofBytes ((hmac (toBytes 48 key) (toBytes 32 (frameHeader f) ++ toBytes f.payloadLen f.payload)).take 32)

/-- A frame with its authenticator. -/
def frameSign (f : Frame) (key : Nat) : Frame := { f with auth := frameMac f key }

/-- The notification frame of a session (spec/11 R460). -/
def notifyFrame (id role : Nat) (n : Notify) : Frame where
  sequence := n.number
  session := id
  result := 0
  offset := 0
  length := 40
  transfer := 0
  index := 0
  subindex := 0
  opcode := 0
  kind := 2
  role := role
  flags := 0
  magic := 0x56
  format := 1
  payload := n.logNo ||| (n.record <<< 64)
  payloadLen := 40
  auth := 0

/-- The session's transport pushes notifications: Ethernet and MCTP do, a mailbox does not (spec/11 R460). -/
def transportPushes : Transport → Bool
  | .mailbox _ => false
  | _ => true

/-- Send one notification frame of a session (spec/11 R460); none in REST (spec/13 R516, step 9). -/
def Part.pushNotice (s : Part) (k : Nat) (n : Notify) : Part :=
  let q := s.sess k
  if transportPushes q.peer && !s.rest.inRest then
    s.emit (.frame q.peer (frameSign (notifyFrame (s.od .sessionId k) (s.od .sessionRole k) n) q.key))
  else s

/-- A session receives a record: its group is in the mask, or its role is operator and the code is listed (spec/11
R461). -/
def Part.subscribed (s : Part) (k code : Nat) : Bool :=
  (s.sess k).isOpen &&
    (bit (s.od .sessionSubscription k) (code / 256) || (s.od .sessionRole k == 2 && operatorCodes.contains code))

/-- Put a record into the ring and the pending lists of the notice rings that take it (spec/11 R459, spec/12 R480). -/
def Part.pushLog (s : Part) (code a b : Nat) (sl : Option Nat) (pav : Nat) : Part :=
  let r : LogRec := ⟨s.now, code, sl, pav, 0, a, b⟩
  let n := s.logNext
  let s := { s with log := s.log.put (n % 65536) r, logNext := n + 1 }
  iter (List.range 16) s fun s i =>
    let ring := (s.port i).rings.get Ring.zero 2
    let wants := ring.enabled && bit (s.od .noticeGroups i) (code / 256) &&
      (match sl with
       | some k => s.od .slicePort k == i
       | none => s.od .noticePackage i == 1)
    if wants then s.onPort i fun t =>
      { t with rings := t.rings.modify Ring.zero 2 fun g => { g with pending := g.pending ++ [n] } }
    else s

/-- Give a record to the sessions that receive it (spec/11 R460): pushed at once over Ethernet and MCTP, kept until it
is acknowledged; a ninth unacknowledged one is dropped, counted, and logged once for each run. -/
def Part.notifyAll (s : Part) (n : Nat) : Part :=
  let r := s.log.get LogRec.zero (n % 65536)
  iter (List.range 32) s fun s k =>
    if !s.subscribed k r.code then s else
    let q := s.sess k
    if 8 ≤ q.notices.length then
      let s := s.count .sessionNotifyLost k
      let s := if q.lostRun then s else s.pushLog 0x1406 k 0 none 0xF
      s.onSess k fun q => { q with lostRun := true }
    else
      let r := if q.lostRun then { r with flags := r.flags ||| 1 } else r
      let m : Notify := ⟨q.noticeNo + 1, r.encode, n, q.lostRun⟩
      let s := s.onSess k fun q => { q with notices := q.notices ++ [m], noticeNo := q.noticeNo + 1, lostRun := false }
      s.pushNotice k m

/-- Log a record and give it to the sessions, without the notice rings' writes. -/
def Part.logQuiet (s : Part) (code a b : Nat) (sl : Option Nat) (pav : Nat) : Part :=
  (s.pushLog code a b sl pav).notifyAll s.logNext

/-! ## Rings in host memory (spec/12 R473 to R477) -/

/-- The base of a ring of a port: 0 dump, 1 harvest, 2 notice. -/
def Part.ringBase (s : Part) (i r : Nat) : Nat :=
  match r with
  | 0 => s.od .dumpRingBase i
  | 1 => s.od .harvestRingBase i
  | _ => s.od .noticeRingBase i

/-- The number of units of a ring. -/
def Part.ringUnits (s : Part) (i r : Nat) : Nat :=
  match r with
  | 0 => s.od .dumpRingUnits i
  | 1 => s.od .harvestRingUnits i
  | _ => s.od .noticeRingUnits i

/-- Change a ring of a port. -/
def Part.onRing (s : Part) (i r : Nat) (f : Ring → Ring) : Part :=
  s.onPort i fun t => { t with rings := t.rings.modify Ring.zero r f }

/-- The tag of a record (spec/12 R475). -/
def ringTag (seq units kind : Nat) : Nat := (bits seq 0 32 <<< 32) ||| (units <<< 16) ||| (kind <<< 8) ||| 1

/-- A device-mastered request outside every enabled window is not issued: counted and logged (spec/09 R360). -/
def Part.bmBlocked (s : Part) (i addr : Nat) : Part :=
  (s.count .portBmBlocked i).logQuiet 0x1203 i addr none (portPav i)

/-- A ring becomes faulted (spec/12 R477): its bit in RING_STATE, vector 19, code 0x1503. -/
def Part.ringFault (s : Part) (i r : Nat) : Part :=
  let s := s.onRing i r fun g => { g with faulted := true }
  let s := s.modOd .ringState i fun v => v ||| 2 ^ r
  (s.msix i 19).logQuiet 0x1503 i r none (portPav i)

/-- A write of the part into host memory through a window, or nothing where no window holds it. -/
def Part.hostWrite (s : Part) (i addr len data : Nat) : Part × Bool :=
  if !s.bmActive i then (s, false) else
  match (s.port i).windowOf addr len with
  | none => (s.bmBlocked i addr, false)
  | some (_, w) => (s.emit (.hostWrite i addr len data (if w.pasidEn then some w.pasid else none)), true)

/-- What a read of CONSUMER brings: the command's answer, or a free value where it brings none. -/
def Part.readConsumer (s : Part) (i r : Nat) (host : Option (Option Nat)) : Part × Option Nat :=
  let s := s.emit (.hostRead i (s.ringBase i r + 16) 8 none)
  match host with
  | some v => (s, v)
  | none => ({ s with freeCtr := s.freeCtr + 1 }, some (Config.hostConsumer s.freeCtr))

/-- A record that a ring cannot take is dropped and counted (spec/12 R477); the harvest ring keeps its own in the
backlog, which its caller does. -/
def Part.ringDrop (s : Part) (i r : Nat) : Part :=
  match r with
  | 0 => (s.count .dumpLost i).onRing i r fun g => { g with lost := g.lost + 1 }
  | 1 => s
  | _ => (s.count .noticeLost i).onRing i r fun g => { g with lost := g.lost + 1 }

/-- The ring has room for `need` units. -/
def Ring.room (g : Ring) (units need : Nat) : Bool := decide (need + (g.producer - g.consumer) ≤ units)

/-- Write one record into a ring (spec/12 R476). `body` is the record's bytes above its tag. Answers whether it was
written. -/
def Part.ringWrite (s : Part) (i r kind units body : Nat) (host : Option (Option Nat)) : Part × Bool :=
  let g := (s.port i).rings.get Ring.zero r
  let size := s.ringUnits i r
  if !g.enabled || g.faulted || !s.bmActive i || size = 0 then (s.ringDrop i r, false) else
  let at_ := g.producer % size
  let pad := if size < at_ + units then size - at_ else 0
  let q : Part × Option Nat :=
    if g.room size (units + pad) then (s, some g.consumer) else s.readConsumer i r host
  match q.2 with
  | none => ((q.1.ringFault i r).ringDrop i r, false)
  | some c =>
    let s := q.1.onRing i r fun g => { g with consumer := c }
    let g := (s.port i).rings.get Ring.zero r
    if !g.room size (units + pad) then (s.ringDrop i r, false) else
    let base := s.ringBase i r + 4096
    let w0 : Part × Bool :=
      if pad = 0 then (s, true) else s.hostWrite i (base + 64 * at_) (64 * pad) (ringTag g.sequence pad 0)
    let pos := if pad = 0 then at_ else 0
    let w1 : Part × Bool :=
      if w0.2 then w0.1.hostWrite i (base + 64 * pos) (64 * units) (ringTag g.sequence units kind ||| (body <<< 64))
      else w0
    if !w1.2 then ((w1.1.ringFault i r).ringDrop i r, false) else
    let s := w1.1.onRing i r fun g =>
      { g with producer := g.producer + pad + units, sequence := g.sequence + 1 }
    let g := (s.port i).rings.get Ring.zero r
    let head := 1 ||| ((r + 1) <<< 16) ||| (bits g.lost 0 32 <<< 32) ||| (bits g.producer 0 64 <<< 64)
    ((s.hostWrite i (s.ringBase i r) 16 head).1, true)

/-- Write the pending records of every notice ring (spec/12 R480): the tag, the record number, the record, and zeros;
vector 18 for each. In REST they wait (spec/13 R516). -/
def Part.flushNotices (s : Part) : Part :=
  if s.rest.inRest then s else
  iter (List.range 16) s fun s i =>
    let g := (s.port i).rings.get Ring.zero 2
    let s := if g.pending.isEmpty then s else s.onRing i 2 fun g => { g with pending := [] }
    iter g.pending s fun s n =>
      let r := (s.log.get LogRec.zero (n % 65536)).encode
      let w := s.ringWrite i 2 5 1 (n ||| (r <<< 64)) none
      if w.2 then w.1.msix i 18 else w.1

/-- Log a record (spec/11 R459): the ring, the sessions (R460, R461) and the notice rings (spec/12 R480). -/
def Part.logEv (s : Part) (code a b : Nat) (sl : Option Nat := none) (pav : Nat := 0xF) : Part :=
  (s.logQuiet code a b sl pav).flushNotices

/-- Log a record at most once per period for a key (log entry 6). -/
def Part.logLimited (s : Part) (limitKey period : Nat) (code a b : Nat) (sl : Option Nat := none)
    (pav : Nat := 0xF) : Part :=
  let last := s.lastLog.get 0 limitKey
  if last = 0 || decide (last - 1 + period ≤ s.now) then
    ({ s with lastLog := s.lastLog.put limitKey (s.now + 1) }).logEv code a b sl pav
  else s

/-! ## Event logs of a port (spec/09 R369 to R373, R389) -/

/-- The logs of a port: 0 Informational, 1 Warning, 2 Failure, 3 Fatal, 4 Dynamic Capacity. -/
def logWarning : Nat := 1
/-- The Failure log. -/
def logFailure : Nat := 2
/-- The Dynamic Capacity log. -/
def logDynamic : Nat := 4

/-- All ones in 64 bits: no address. -/
def ones64 : Nat := 0xFFFFFFFFFFFFFFFF

/-- The interrupt of a record in a log (spec/09 R373, R388, R389): sent in D0 when the policy enables it; in D3hot a PME
when PME_En is 1; in D3cold the wake signal. The policy of a log is 0 when disabled, else the vector plus 1. -/
def Part.eventSignal (s : Part) (i log : Nat) : Part :=
  let pol := (s.port i).policy.getD log 0
  if pol = 0 then s else
  match s.od .portDState i with
  | 0 => s.msix i (pol - 1)
  | 1 => if (s.port i).pmeEn then s.emit (.wake i 4)
         else s.onPort i fun t => { t with msixPending := setBit t.msixPending (pol - 1) true }
  | _ => s.emit (.wake i (s.od .portWakeMethod i))

/-- Put a record into an event log of a port: 512 records, then overflow with its count and times (spec/09 R369). -/
def Part.eventRec (s : Part) (i log : Nat) (r : EventRec) : Part :=
  let g := (s.port i).logs.get EventLog.zero log
  let g' : EventLog :=
    if g.records.length < 512 then
      { g with records := g.records ++ [{ r with handle := g.nextHandle, time := s.now }], nextHandle := g.nextHandle % 65535 + 1 }
    else
      { g with overflow := min 65535 (g.overflow + 1), firstTime := if g.overflow = 0 then s.now else g.firstTime, lastTime := s.now }
  (s.onPort i fun t => { t with logs := t.logs.set EventLog.zero log g' }).eventSignal i log

/-- The vendor record of the part's own events (spec/09 R370, R371). -/
def Part.vendorEvent (s : Part) (i log code : Nat) (sl : Option Nat) (pav : Nat) (dpa logical a b : Nat)
    (detail : Nat := 0) : Part :=
  s.eventRec i log ⟨0, 0, 0, code, sl.getD 0, detail, pav, logical, dpa, a, b⟩

/-- The DPA of a logical address of a slice on a port, all ones when no region-map entry holds it. -/
def Part.dpaOf (s : Part) (i sl logical : Nat) : Nat :=
  match (s.port i).regionMap.find? (fun e => bit e.2 31 && bits e.2 16 12 == sl && bits e.2 0 16 == logical / 2 ^ 30) with
  | some e => e.1 * 2 ^ 30 + logical % 2 ^ 30
  | none => ones64

/-- Add an entry to a port's poison list: the 1,024 most recent, with the overflow time (spec/09 R372). -/
def Part.poisonAdd (s : Part) (i : Nat) (e : PoisonEnt) : Part :=
  let l := (s.port i).poison ++ [e]
  let s :=
    if 1024 < l.length then s.onPort i fun t => { t with poison := l.drop 1, poisonOver := some (t.poisonOver.getD s.now) }
    else s.onPort i fun t => { t with poison := l }
  s.setOd .poisonListEntries i (s.port i).poison.length

/-- Take an entry off a port's poison list (spec/09 R372). -/
def Part.poisonDrop (s : Part) (i dpa units : Nat) : Part :=
  let s := s.onPort i fun t => { t with poison := t.poison.filter fun e => !(e.dpa == dpa && e.units == units) }
  s.setOd .poisonListEntries i (s.port i).poison.length

/-- The port a slice is bound to, if any (spec/10). -/
def Part.boundPort (s : Part) (sl : Nat) : Option Nat :=
  let i := s.od .slicePort sl
  if i < 16 && s.od .sliceState sl != 0 then some i else none

/-- A line or a page of a slice becomes poisoned (spec/09 R372, spec/12 R488): a General Media Event Record in the
Failure log of its port and an entry in its poison list; SLICE_POISON_EVENTS counts it. `units` is 1 for a line, 64 for
a page, 32,768 for an extent. -/
def Part.poisonReport (s : Part) (sl logical units : Nat) (kind : Nat) : Part :=
  let s := s.count .slicePoisonEvents sl
  match s.boundPort sl with
  | none => s
  | some i =>
    let d := s.dpaOf i sl logical
    (s.eventRec i logFailure ⟨1, 0, 0, 0, sl, kind, 0xF, logical, d, units, 0⟩).poisonAdd i ⟨d, units⟩

/-! ## Answers to dictionary requests (spec/11 R458) -/

/-- OK. -/
def rOk : Nat := 0
/-- IN_PROGRESS. -/
def rInProgress : Nat := 1
/-- STAGED. -/
def rStaged : Nat := 2
/-- BAD_FRAME. -/
def rBadFrame : Nat := 0x01000001
/-- OPCODE_UNKNOWN. -/
def rOpcode : Nat := 0x01000002
/-- SESSIONS_FULL. -/
def rSessionsFull : Nat := 0x01000003
/-- TRANSPORT_NOT_PERMITTED. -/
def rTransport : Nat := 0x01000004
/-- BUSY_SESSION. -/
def rBusySession : Nat := 0x01000005
/-- SEGMENT_REQUIRED. -/
def rSegment : Nat := 0x01000006
/-- TRANSFER_UNKNOWN. -/
def rTransferUnknown : Nat := 0x01000007
/-- TRANSFER_OFFSET. -/
def rTransferOffset : Nat := 0x01000008
/-- TRANSFER_TOO_LONG. -/
def rTransferLong : Nat := 0x01000009
/-- NO_SUCH_ENTRY. -/
def rNoEntry : Nat := 0x02000001
/-- ROLE_NOT_PERMITTED. -/
def rRole : Nat := 0x02000002
/-- READ_ONLY. -/
def rReadOnly : Nat := 0x02000003
/-- WRITE_ONLY. -/
def rWriteOnly : Nat := 0x02000004
/-- LENGTH_MISMATCH. -/
def rLength : Nat := 0x03000001
/-- VALUE_OUT_OF_RANGE. -/
def rRange : Nat := 0x03000002
/-- FUNCTION_NOT_STOPPED. -/
def rNotStopped : Nat := 0x03000003
/-- STATE_NOT_ALLOWED. -/
def rState : Nat := 0x04000001
/-- CONDITION_NOT_MET. -/
def rCondition : Nat := 0x04000002
/-- OPERATION_BUSY. -/
def rBusy : Nat := 0x04000003
/-- FUNCTION_DRAINING. -/
def rDraining : Nat := 0x04000004
/-- HANDLE_STALE. -/
def rStale : Nat := 0x04000005
/-- PART_FAILED. -/
def rPartFailed : Nat := 0x04000006
/-- VINTAGE_REFUSED. -/
def rVintage : Nat := 0x05000001
/-- CODEBOOK_REFUSED. -/
def rCodebook : Nat := 0x05000002
/-- KEY_REFUSED. -/
def rKey : Nat := 0x06000001
/-- RNG_FAILED. -/
def rRng : Nat := 0x06000002
/-- POINT_INVALID. -/
def rPoint : Nat := 0x06000003
/-- WRAP_KEY_NOT_LIVE. -/
def rWrap : Nat := 0x06000004

/-- The result of handling a dictionary request: the answer now, or none where it waits for its vintage (spec/07 R298)
or another operation; with the payload of R458. -/
structure Reply where
  part   : Part
  code   : Option Nat
  detail : List Nat

/-- Answered OK. -/
def Part.ok (s : Part) : Reply := ⟨s, some rOk, []⟩
/-- Answered with a code. -/
def Part.refuse (s : Part) (code : Nat) : Reply := ⟨s, some code, []⟩
/-- To be answered later. -/
def Part.later (s : Part) : Reply := ⟨s, none, []⟩

/-- The role of who asks (spec/11 R434); the monitor's user acts in the role of his login (spec/16 R595). -/
def Part.roleOf (s : Part) : Who → Nat
  | .session k => s.od .sessionRole k
  | .monitor => s.od0 .monitorRole

/-- Checks 5 and 6 of spec/11 R439 on a write: the role and the right. -/
def writeRight (f : EntryInfo) (role : Nat) : Option Nat :=
  if f.access != .const && f.access != .ro && !bit f.roles (role - 1) then some rRole
  else if f.access == .const || f.access == .ro then (if role = 0 then some rRole else some rReadOnly)
  else none

/-- Check 7: the value has the length of its type (spec/11 R432). -/
def writeLength (f : EntryInfo) (len : Nat) : Option Nat :=
  if f.ty != .string && len != f.bytes || f.ty == .string && decide (f.size < len) then some rLength else none

/-- Checks 5 to 9 of spec/11 R439 on a write of `v`, `len` bytes long, to an entry: role, right, length, range, and for
RWS that the function is stopped. `stopped` says so of the entry's function (R436). The first failing check decides. -/
def writeChecks (f : EntryInfo) (role v len : Nat) (stopped : Bool) : Option Nat :=
  (writeRight f role).orElse fun _ => (writeLength f len).orElse fun _ =>
    if f.ty != .blob && f.ty != .string && !f.allowed.any (fun r => decide (r.1 ≤ v) && decide (v ≤ r.2)) then some rRange
    else if f.access == .rws && !stopped then some rNotStopped
    else none

end Sys2Proof.Machine
end

