-- ==== Sys2Proof/Machine/Clock.lean ====
section
/-!
DEFINITION. What the block does when no command waits (log entry 7): the time base runs on.
-/

namespace Sys2Proof.Machine

/-- The time base advances by 4 ns in one CLK_AON cycle (spec/12 R467), with the rate correction of R470 left out
(log entry 7); it stands still while the auxiliary supply is absent. -/
def Part.tick (s : Part) : Part := if s.power.vaux then { s with now := (s.now + 4) % 2 ^ 64 } else s

/-- An idle step. -/
def idle (s : State) : State := { s with part := s.part.tick }

end Sys2Proof.Machine
end

