-- ==== Sys2Proof/Machine/Operands.lean ====
section
/-!
DEFINITION. The bit layouts of the spec: cellar-book and ownership entries, META, tweaks and tag headers, plan entries,
key handles, burst addresses, the address hash and the address-table entry.
-/

namespace Sys2Proof.Machine

/-! ## Cellar book and ownership (spec/02) -/

/-- The 128 bits of a cellar-book entry (spec/02 R55). -/
def Cell.encode (c : Cell) : Nat :=
  (bits c.version 0 64 <<< 64) ||| (bits c.tier 0 2 <<< 62) ||| (bits c.slotClass 0 3 <<< 59) ||| (b2n c.poison <<< 58) |||
  (bits c.cause 0 4 <<< 54) ||| (b2n (c.keySel != 0) <<< 53) ||| (b2n c.moving <<< 52) ||| (b2n c.fixed <<< 51) |||
  bits c.loc 0 34

/-- The entry that 128 bits spell (spec/02 R55). -/
def Cell.decode (x : Nat) : Cell where
  version := bits x 64 64
  tier := bits x 62 2
  slotClass := bits x 59 3
  poison := bit x 58
  cause := bits x 54 4
  keySel := bits x 53 1
  moving := bit x 52
  fixed := bit x 51
  loc := bits x 0 34

/-- Tiers (spec/02 R56). -/
def tierZero : Nat := 0
/-- HOT. -/
def tierHot : Nat := 1
/-- WARM. -/
def tierWarm : Nat := 2

/-- The 64 bits of an ownership entry (spec/02 R65). -/
def Own.encode (o : Own) : Nat :=
  (bits o.kind 0 4 <<< 60) ||| (bits o.cls 0 3 <<< 57) ||| (bits o.owner 0 12 <<< 45) ||| (b2n o.fixed <<< 44) |||
  (bits o.tagBlock 0 3 <<< 41) ||| (bits o.tagExtent 0 22 <<< 19) ||| bits o.live 0 13

/-- Kinds of a physical extent (spec/02 R65). -/
def kindFree : Nat := 0
/-- ZEROING. -/
def kindZeroing : Nat := 1
/-- HOT. -/
def kindHot : Nat := 2
/-- TAG. -/
def kindTag : Nat := 3
/-- CASK. -/
def kindCask : Nat := 4
/-- CELLAR. -/
def kindCellar : Nat := 5
/-- SPARE. -/
def kindSpare : Nat := 6
/-- SYSTEM. -/
def kindSystem : Nat := 7
/-- RETIRED. -/
def kindRetired : Nat := 8

/-- Bursts of a physical extent: 2 MiB of 64 B (spec/02). -/
def extBursts : Nat := 32768
/-- Units of 512 B of a physical extent (spec/02 R55). -/
def extUnits : Nat := 4096
/-- The extent of a PHYS_LOC. -/
def extOf (loc : Nat) : Nat := loc / extUnits
/-- The first burst of a PHYS_LOC (spec/06 R227). -/
def burstOf (loc : Nat) : Nat := loc * 8

/-! ## Line metadata (spec/04 R164, R165) -/

/-- META of a poisoned line. -/
def metaPoison (cause : Nat) : Nat := 128 + 8 * (cause % 16)
/-- LINE_POISON. -/
def metaPoisoned (m : Nat) : Bool := bit m 7
/-- Line causes (spec/04 R165). -/
def causeBeforeWrite : Nat := 9
/-- LINK_LOSS. -/
def causeLinkLoss : Nat := 10
/-- LINE_INTEGRITY. -/
def causeIntegrity : Nat := 11
/-- LINE_UNCORRECTABLE. -/
def causeUncorrectable : Nat := 12

/-! ## Tweaks, headers and handles (spec/04) -/

/-- The XTS tweak (spec/04 R158). -/
def tweak (sl domain number : Nat) : Nat :=
  (bits sl 0 12 <<< 116) ||| (bits domain 0 4 <<< 112) ||| bits number 0 40

/-- The header block of an integrity tag (spec/04 R160). -/
def tagHeader (version sl domain number : Nat) : Nat :=
  (bits version 0 64 <<< 64) ||| (bits sl 0 12 <<< 52) ||| (bits domain 0 4 <<< 48) ||| bits number 0 40

/-- A key handle (spec/04 R148). -/
def keyHandle (kind gen index : Nat) : Nat := (kind <<< 28) ||| (bits gen 0 8 <<< 20) ||| bits index 0 13

/-- The logical line number (spec/02 R52). -/
def lineNumber (lpage line : Nat) : Nat := lpage * 64 + line

/-! ## Plan entries (spec/02 R79) -/

/-- The 64 bits of a plan entry. -/
def PlanEnt.encode (e : PlanEnt) : Nat :=
  (bits e.action 0 3 <<< 61) ||| (bits e.slice 0 12 <<< 49) ||| (bits e.target 0 28 <<< 21) ||| (bits e.pav 0 3 <<< 18)

/-! ## DRAM geometry and the address hash (spec/06) -/

/-- The geometry of a pavilion's population (spec/06 R222, R227): burst-column bits c, row bits h, chip-ID bits s, and
whether its devices are x8. -/
structure Geometry where
  c  : Nat
  h  : Nat
  s  : Nat
  x8 : Bool
  deriving DecidableEq, Repr

/-- The geometry that DRAM_DEVICE and DRAM_STACK name. -/
def geometry (device stack : Nat) : Geometry where
  c := if device < 2 then 7 else 6
  h := if device % 2 = 0 then 16 else 17
  s := if stack = 4 then 2 else if stack = 2 then 1 else 0
  x8 := decide (2 ≤ device)

/-- Bursts in one rank of one subchannel (spec/06 R227). -/
def Geometry.q (g : Geometry) : Nat := 2 ^ (g.c + 5 + g.h + g.s)
/-- Bursts of a layer. -/
def Geometry.layerBursts (g : Geometry) : Nat := 16 * g.q
/-- Physical extents of a layer. -/
def Geometry.layerExts (g : Geometry) : Nat := g.layerBursts / extBursts

/-- The place of a burst on a channel (spec/06 R227). -/
structure Place where
  local_  : Nat
  sub     : Nat
  layer   : Nat
  group   : Nat
  bank    : Nat
  row     : Nat
  column  : Nat
  deriving DecidableEq, Repr

/-- The address hash (spec/06 R227, R228): a burst index of the pavilion to its place; the chip ID stands in
COLUMN[1:0]. -/
def Geometry.place (g : Geometry) (x : Nat) : Place :=
  let layer := x / g.layerBursts
  let y := x % g.layerBursts
  let row := bits y (g.c + 9) g.h
  let cid := bits y (g.c + 9 + g.h) g.s
  let u := (bits y 0 4) ^^^ (bits row 0 4)
  { local_ := bits u 1 3
    sub := bits u 0 1
    layer := layer
    group := (bits y 6 3) ^^^ (bits row 4 3) ^^^ (bits row 7 3)
    bank := (bits y 9 2) ^^^ (bits row 10 2)
    row := row
    column := (bits y 11 (g.c - 2) * 4 + bits y 4 2) * 16 + cid }

/-- The burst index of a place: the hash undone. -/
def Geometry.unplace (g : Geometry) (p : Place) : Nat :=
  let u := p.local_ * 2 + p.sub
  let col := p.column / 16
  let y := (u ^^^ bits p.row 0 4) ||| (bits col 0 2 <<< 4) |||
    ((p.group ^^^ bits p.row 4 3 ^^^ bits p.row 7 3) <<< 6) ||| ((p.bank ^^^ bits p.row 10 2) <<< 9) |||
    ((col / 4) <<< 11) ||| (p.row <<< (g.c + 9)) ||| (bits p.column 0 g.s <<< (g.c + 9 + g.h))
  p.layer * g.layerBursts + y

/-- A burst address (spec/06 R228, spec/05 R210). -/
def burstAddress (chan sub rank group bank row column : Nat) : Nat :=
  (bits chan 0 6 <<< 37) ||| (bits sub 0 1 <<< 36) ||| (bits rank 0 2 <<< 34) ||| (bits group 0 3 <<< 31) |||
  (bits bank 0 2 <<< 29) ||| (bits row 0 18 <<< 11) ||| bits column 0 11

/-- The 128 bits of an address-table entry (spec/05 R209). `device` carries CODE, SOURCE and DEVICE as bits 9:8, 7:5 and
4:0. -/
def CeEnt.encode (e : CeEnt) : Nat :=
  (bits e.time 0 64 <<< 64) ||| (1 <<< 63) ||| (bits (min e.count 127) 0 7 <<< 56) ||| (bits e.device 8 2 <<< 54) |||
  (bits e.device 5 3 <<< 51) ||| (bits e.device 0 5 <<< 46) ||| bits e.burst 0 43

/-! ## Casks (spec/03) -/

/-- Slots of a CASK extent by class (spec/03 R130). -/
def slotsPerExtent (cls : Nat) : Nat :=
  [4096, 2048, 1365, 1024, 819, 682, 585, 480].getD cls 0

/-- The bursts of a slot: those of the slot itself and, for class 7, of its trailer (spec/03 R126, R132). -/
def slotBursts (cls loc : Nat) : List Nat :=
  let own := (List.range (8 * (cls + 1))).map (burstOf loc + ·)
  if cls = 7 then
    let ext := extOf loc
    let i := loc % extUnits / 8
    own ++ (List.range 4).map (ext * extBursts + 30720 + 4 * i + ·)
  else own

/-- The clear word of a cask (spec/03 R128), without its check bits. -/
structure ClearWord where
  format  : Nat
  raw     : Bool
  auto    : Bool
  t       : Nat
  len     : Nat
  book    : Nat
  gen     : Nat
  deriving DecidableEq, Repr

/-- Bits [63:8] of a clear word at their places. -/
def ClearWord.encode (w : ClearWord) : Nat :=
  (bits w.format 0 4 <<< 60) ||| (b2n w.raw <<< 59) ||| (b2n w.auto <<< 58) ||| (bits w.t 0 8 <<< 50) |||
  (bits w.len 0 13 <<< 37) ||| (bits w.book 0 8 <<< 29) ||| (bits w.gen 0 8 <<< 21)

/-- The fields of a clear word. -/
def ClearWord.decode (x : Nat) : ClearWord where
  format := bits x 60 4
  raw := bit x 59
  auto := bit x 58
  t := bits x 50 8
  len := bits x 37 13
  book := bits x 29 8
  gen := bits x 21 8

/-- Rounded up to a multiple of 8 (spec/03 R126). -/
def round8 (n : Nat) : Nat := (n + 7) / 8 * 8

/-- The sealed header of a cask (spec/03 R129). -/
def sealedHeader (crc : Nat) (lens : List Nat) : Nat :=
  (bits crc 0 32 <<< 160) ||| (bits (lens.getD 3 0) 0 11 <<< 149) ||| (bits (lens.getD 2 0) 0 11 <<< 138) |||
  (bits (lens.getD 1 0) 0 11 <<< 127) ||| (bits (lens.getD 0 0) 0 11 <<< 116)

/-- SB_LEN0 to SB_LEN3 of a sealed header. -/
def headerLens (h : Nat) : List Nat := [bits h 116 11, bits h 127 11, bits h 138 11, bits h 149 11]

end Sys2Proof.Machine
end

