-- ==== Sys2Proof/Machine/Flags.lean ====
section
/-!
DEFINITION. The codes that say whether stored bits are right: the two line codes (spec/05 R185 to R193), the clear word's
code (R197, R198), the page code (R199, R200) and CRC-32C (spec/03 R111).
-/

namespace Sys2Proof.Machine

/-! ## Finite fields -/

/-- Multiply by the class of x in a field of `2 ^ w` elements with polynomial `poly`. -/
def gfX (w poly a : Nat) : Nat := if a.testBit (w - 1) then (2 * a) ^^^ poly else 2 * a

/-- Multiply: `n` bits of `b` are left. -/
def gfMulN (w poly : Nat) : Nat → Nat → Nat → Nat
  | 0, _, _ => 0
  | n + 1, a, b => (if b % 2 = 1 then a else 0) ^^^ gfMulN w poly n (gfX w poly a) (b / 2)

/-- Multiply in GF(2^16) with x^16 + x^12 + x^3 + x + 1 (spec/05 R188). -/
def mul16 (a b : Nat) : Nat := gfMulN 16 0x1100B 16 a b
/-- Multiply in GF(2^12) with x^12 + x^6 + x^4 + x + 1 (spec/05 R199). -/
def mul12 (a b : Nat) : Nat := gfMulN 12 0x1053 12 a b

/-- A power by squaring. -/
def gfPow (mul : Nat → Nat → Nat) : Nat → Nat → Nat → Nat
  | 0, _, _ => 1
  | n + 1, a, e => mul (if e % 2 = 1 then a else 1) (gfPow mul n (mul a a) (e / 2))

/-- α^e in GF(2^16). -/
def alpha16 (e : Nat) : Nat := gfPow mul16 16 2 (e % 65535)
/-- The inverse in GF(2^16). -/
def inv16 (a : Nat) : Nat := gfPow mul16 16 a 65534
/-- α^e in GF(2^12). -/
def alpha12 (e : Nat) : Nat := gfPow mul12 12 2 (e % 4095)
/-- The inverse in GF(2^12). -/
def inv12 (a : Nat) : Nat := gfPow mul12 12 a 4094

/-! ## The burst (spec/05 R185, R218) -/

/-- All lanes of a burst: 64 data bytes in bits [511:0], CB[7:0] of beat b in bits [519 + 8b : 512 + 8b]. -/
def burstOnes : Nat := 2 ^ 640 - 1

/-- A burst that reads all 0 or all 1 is uncorrectable whatever it spells (spec/05 R189, R193). -/
def burstStuck (x : Nat) : Bool := x % 2 ^ 640 == 0 || x % 2 ^ 640 == burstOnes

/-- What a line code finds (spec/05 R194): clean, corrected (with the burst, the device of R187 and the bits changed), or
uncorrectable. -/
inductive LineCheck where
  | clean (value : Nat)
  | corrected (value device count : Nat)
  | bad (value : Nat)
  deriving DecidableEq, Repr

/-- The burst after the check; as read where it is uncorrectable. -/
def LineCheck.value : LineCheck → Nat
  | .clean v => v
  | .corrected v _ _ => v
  | .bad v => v

/-- The line is usable. -/
def LineCheck.ok : LineCheck → Bool
  | .bad _ => false
  | _ => true

/-! ## SDDC (spec/05 R187 to R191) -/

/-- The nibble of device d in beat b. -/
def sddcNibble (x d b : Nat) : Nat := if d < 8 then bits x (32 * b + 4 * d) 4 else bits x (512 + 8 * b + 4 * (d - 8)) 4

/-- Symbol S[r][d], as stored. -/
def sddcSymbol (x r d : Nat) : Nat := unchunks 4 ((List.range 4).map fun i => sddcNibble x d (4 * r + i))

/-- Symbol S[r][d] with the check symbols turned back. -/
def sddcPlain (x r d : Nat) : Nat := if d < 8 then sddcSymbol x r d else sddcSymbol x r d ^^^ 0xFFFF

/-- The bits of a symbol of row r and device d at their places in the burst. -/
def sddcSpread (r d v : Nat) : Nat :=
  (List.range 4).foldl (fun a i =>
    let b := 4 * r + i
    a ||| (bits v (4 * i) 4 <<< (if d < 8 then 32 * b + 4 * d else 512 + 8 * b + 4 * (d - 8)))) 0

/-- α^(9 - d) for device d. -/
def sddcWeight (d : Nat) : Nat := 2 ^ (9 - d)

/-- The two syndromes of a row. -/
def sddcSyndromes (x r : Nat) : Nat × Nat :=
  (List.range 10).foldl (fun a d =>
    let s := sddcPlain x r d
    (a.1 ^^^ s, a.2 ^^^ mul16 s (sddcWeight d))) (0, 0)

/-- The burst of 64 data bytes under the SDDC code (spec/05 R188): the check symbols c8 and c9 make both syndromes 0. -/
def sddcEncode (line : Nat) : Nat :=
  let line := line % 2 ^ 512
  (List.range 4).foldl (fun x r =>
    let a := (List.range 8).foldl (fun a d =>
      let s := sddcSymbol line r d
      (a.1 ^^^ s, a.2 ^^^ mul16 s (sddcWeight d))) (0, 0)
    let c8 := mul16 (a.1 ^^^ a.2) (inv16 3)
    let c9 := a.1 ^^^ c8
    x ||| sddcSpread r 8 (c8 ^^^ 0xFFFF) ||| sddcSpread r 9 (c9 ^^^ 0xFFFF)) line

/-- Zero data with its SDDC check symbols, all ones (spec/05 R188, R214). -/
def zeroBurst : Nat := (2 ^ 128 - 1) <<< 512

/-- The position that explains a row: one device for a single symbol error, none for any other non-zero syndromes. -/
def sddcPosition (s0 s1 : Nat) : Option Nat :=
  if s0 = 0 then none else (List.range 10).find? fun d => mul16 s0 (sddcWeight d) == s1

/-- The SDDC decoder (spec/05 R189). -/
def sddcCheck (x : Nat) : LineCheck :=
  if burstStuck x then .bad x else
  let rows := (List.range 4).map fun r => (r, sddcSyndromes x r)
  let wrong := rows.filter fun q => q.2 != (0, 0)
  match wrong with
  | [] => .clean x
  | (_, s) :: _ =>
    match sddcPosition s.1 s.2 with
    | none => .bad x
    | some d =>
      if wrong.all fun q => sddcPosition q.2.1 q.2.2 == some d then
        let flips := wrong.foldl (fun a q => a ||| sddcSpread q.1 d q.2.1) 0
        .corrected (x ^^^ flips) d (popCount 640 flips)
      else .bad x

/-! ## TAG-INLINE (spec/05 R192, R193) -/

/-- The symbol of a lane: DQ0 to DQ31, then CB0 to CB7. -/
def laneSymbol (x l : Nat) : Nat :=
  unchunks 1 ((List.range 16).map fun b => if l < 32 then bits x (32 * b + l) 1 else bits x (512 + 8 * b + (l - 32)) 1)

/-- The bits of a lane's symbol at their places. -/
def laneSpread (l v : Nat) : Nat :=
  (List.range 16).foldl (fun a b =>
    a ||| (bits v b 1 <<< (if l < 32 then 32 * b + l else 512 + 8 * b + (l - 32)))) 0

/-- A lane's symbol with the check symbols of CB4 to CB7 turned back. -/
def lanePlain (x l : Nat) : Nat := if l < 36 then laneSymbol x l else laneSymbol x l ^^^ 0xFFFF

/-- Syndrome j of the 40 lanes, by Horner's rule from x^39 down. -/
def laneSyndrome (x j : Nat) : Nat :=
  (List.range 40).foldl (fun a l => mul16 a (2 ^ j) ^^^ lanePlain x l) 0

/-- The sideband of a line on the check-bit lanes: bit 4b + i on CB[i] in beat b (spec/05 R192). -/
def sidebandSpread (sb : Nat) : Nat :=
  (List.range 16).foldl (fun a b => a ||| (bits sb (4 * b) 4 <<< (512 + 8 * b))) 0

/-- The sideband that a burst carries (spec/04 R163). -/
def sidebandOf (x : Nat) : Nat := unchunks 4 ((List.range 16).map fun b => bits x (512 + 8 * b) 4)

/-- The generator (x - 1)(x - α)(x - α²)(x - α³), coefficients of x³ down to 1. -/
def inlineGen : List Nat :=
  (List.range 4).foldl (fun g j =>
    List.zipWith (· ^^^ ·) (g ++ [0]) (0 :: g.map fun a => mul16 a (2 ^ j))) [1] |>.tail

/-- The burst of a line and its sideband under the TAG-INLINE code. -/
def inlineEncode (line sb : Nat) : Nat :=
  let x := (line % 2 ^ 512) ||| sidebandSpread sb
  let rem := (List.range 36).foldl (fun (a : List Nat) l =>
    let f := a.headD 0 ^^^ laneSymbol x l
    List.zipWith (· ^^^ ·) (a.tail ++ [0]) (inlineGen.map (mul16 f))) [0, 0, 0, 0]
  (List.range 4).foldl (fun x k => x ||| laneSpread (36 + k) (rem.getD k 0 ^^^ 0xFFFF)) x

/-- The TAG-INLINE decoder (spec/05 R193): it corrects one lane, and no more. -/
def inlineCheck (x : Nat) : LineCheck :=
  if burstStuck x then .bad x else
  let s0 := laneSyndrome x 0
  let s1 := laneSyndrome x 1
  let s2 := laneSyndrome x 2
  let s3 := laneSyndrome x 3
  if s0 = 0 && s1 = 0 && s2 = 0 && s3 = 0 then .clean x
  else if s0 = 0 then .bad x else
  match (List.range 40).find? (fun l =>
      let a := alpha16 (39 - l)
      mul16 s0 a == s1 && mul16 s1 a == s2 && mul16 s2 a == s3) with
  | none => .bad x
  | some l =>
    let flips := laneSpread l s0
    .corrected (x ^^^ flips) (if l < 32 then l / 4 else 8 + (l - 32) / 4) (popCount 640 flips)

/-- The device that a corrected symbol counts against (spec/05 R208): x4 devices 0 to 9, x8 devices 0 to 4; subchannel B
counts from 10. -/
def ceDevice (x8 : Bool) (sub d : Nat) : Nat := (if x8 then d / 2 else d) + 10 * sub

/-! ## The clear word (spec/05 R197, R198) -/

/-- c(j): the (j - 7)-th integer from 3 upward that is not a power of 2, for j from 8 to 63. -/
def cwColumns : List Nat :=
  ((List.range 64).filter fun n => 3 ≤ n && !(n == 4 || n == 8 || n == 16 || n == 32)).take 56

/-- CW_CHECK bits 0 to 6 of bits [63:8] of a word. -/
def cwHamming (w : Nat) : Nat :=
  (List.range 56).foldl (fun a k => if w.testBit (k + 8) then a ^^^ cwColumns.getD k 0 else a) 0

/-- A clear word with its check bits. -/
def cwSeal (w : Nat) : Nat :=
  let v := w ||| cwHamming w
  v ||| ((popCount 64 v % 2) <<< 7)

/-- The clear word corrected: none after a double error. -/
def cwCorrect (v : Nat) : Option Nat :=
  let syn := cwHamming v ^^^ bits v 0 7
  let odd := popCount 64 v % 2 = 1
  if syn = 0 then (if odd then some (v ^^^ 128) else some v)
  else if !odd then none
  else if syn == 1 || syn == 2 || syn == 4 || syn == 8 || syn == 16 || syn == 32 || syn == 64 then some (v ^^^ syn)
  else match cwColumns.findIdx? (· == syn) with
    | some k => some (v ^^^ 2 ^ (k + 8))
    | none => none

/-! ## The page code (spec/05 R199, R200) -/

/-- The generator of strength t, coefficients from x^(2t - 1) down to 1. -/
def pageGen (t : Nat) : List Nat :=
  ((List.range (2 * t)).foldl (fun (g : List Nat × Nat) _ =>
    (List.zipWith (· ^^^ ·) (g.1 ++ [0]) (0 :: g.1.map (mul12 g.2)), mul12 g.2 2)) ([1], 1)).1.tail

/-- The check symbols q0 to q(2t - 1) of data symbols, highest degree first. -/
def pageChecks (t : Nat) (data : List Nat) : List Nat :=
  let g := pageGen t
  data.foldl (fun (a : List Nat) d =>
    let f := a.headD 0 ^^^ d
    List.zipWith (· ^^^ ·) (a.tail ++ [0]) (g.map (mul12 f))) (List.replicate (2 * t) 0)

/-- The data symbols of a byte string: 12 bits each from bit 0 of the first byte, the last padded with zeros. -/
def pageSymbols (n : Nat) (x : Nat) : List Nat := chunks 12 ((8 * n + 11) / 12) x

/-- A polynomial, lowest degree first, at a point. -/
def polyEval (p : List Nat) (x : Nat) : Nat := p.foldr (fun c a => mul12 a x ^^^ c) 0

/-- The product of two polynomials, lowest degree first. -/
def polyMul : List Nat → List Nat → List Nat
  | [], _ => []
  | a :: p, q =>
    let r := 0 :: polyMul p q
    let s := q.map (mul12 a)
    (List.range (max r.length s.length)).map fun i => r.getD i 0 ^^^ s.getD i 0

/-- One step of Berlekamp and Massey's iteration on the syndromes: the locator, its last copy, the length and the last
discrepancy. -/
def bmStep (syn : List Nat) (st : List Nat × List Nat × Nat × Nat × Nat) (n : Nat) : List Nat × List Nat × Nat × Nat × Nat :=
  let (c, b, l, m, bb) := st
  let d := (List.range (l + 1)).foldl (fun a i => a ^^^ mul12 (c.getD i 0) (syn.getD (n - i) 0)) 0
  if d = 0 then (c, b, l, m + 1, bb) else
  let f := mul12 d (inv12 bb)
  let sh := List.replicate m 0 ++ b.map (mul12 f)
  let c' := (List.range (max c.length sh.length)).map fun i => c.getD i 0 ^^^ sh.getD i 0
  if 2 * l ≤ n then (c', c, n + 1 - l, 1, d) else (c', b, l, m + 1, bb)

/-- A corrected codeword of the page code and the number of symbols changed; none where the decoder reports the cask
uncorrectable. `word` lists data and check symbols, highest degree first, `erased` the positions of erasures. -/
def pageDecode (t : Nat) (word : List Nat) (erased : List Nat) : Option (List Nat × Nat) :=
  let n := word.length
  let f := erased.length
  if 2 * t < f then none else
  let syn := (List.range (2 * t)).map fun j => let a := alpha12 j; word.foldl (fun s c => mul12 s a ^^^ c) 0
  if syn.all (· == 0) then some (word, 0) else
  let gamma := erased.foldl (fun p k => polyMul p [1, alpha12 (n - 1 - k)]) [1]
  let fsyn := (polyMul gamma syn).take (2 * t)
  let tail := fsyn.drop f
  let bm := (List.range tail.length).foldl (bmStep tail) ([1], [1], 0, 1, 1)
  let l := bm.2.2.1
  if 2 * t < 2 * l + f then none else
  let lambda := polyMul (bm.1.take (l + 1)) gamma
  let roots := (List.range n).filter fun k => polyEval lambda (alpha12 (4095 - (n - 1 - k) % 4095)) == 0
  if roots.length != l + f then none else
  let omega := (polyMul lambda syn).take (2 * t)
  let dlambda := (List.range (lambda.length - 1)).map fun i => if i % 2 = 0 then lambda.getD (i + 1) 0 else 0
  let fix := roots.map fun k =>
    let x := alpha12 (n - 1 - k)
    let xi := alpha12 (4095 - (n - 1 - k) % 4095)
    (k, mul12 x (mul12 (polyEval omega xi) (inv12 (polyEval dlambda xi))))
  let word' := (List.range n).map fun k => word.getD k 0 ^^^ ((fix.find? fun q => q.1 == k).map (·.2)).getD 0
  let ok := (List.range (2 * t)).all fun j => let a := alpha12 j; word'.foldl (fun s c => mul12 s a ^^^ c) 0 == 0
  if ok then some (word', (fix.filter fun q => q.2 != 0).length) else none

/-! ## CRC-32C (spec/03 R111) -/

/-- The CRC register after one bit. -/
def crcBit (r : Nat) (d : Nat) : Nat := if (r ^^^ d) % 2 = 1 then (r / 2) ^^^ 0x82F63B78 else r / 2

/-- CRC-32C of the low `n` bytes of a number, byte 0 first. -/
def crc32c (n x : Nat) : Nat :=
  ((List.range (8 * n)).foldl (fun r k => crcBit r (bits x k 1)) 0xFFFFFFFF) ^^^ 0xFFFFFFFF

end Sys2Proof.Machine
end

