-- ==== Sys2Proof/Machine/Catalogue.lean ====
section
/-!
DEFINITION. The dictionary catalogue (spec/09 R363 to R365), from the entry tables: a header, the table of unit names, one
record for each entry or block of entries.
-/

namespace Sys2Proof.Machine

/-- The names of the units, unit 0 the empty one; the entry tables' signs for micro and degree are spelled in ASCII (log
entry 58). -/
def unitNames : List String :=
  ["", "count", "bit mask", "pavilion", "bytes", "extents", "percent", "ms", "pages", "entries", "lines", "regions"] ++
  ["increments", "1/100", "casks", "slice", "slot", "slices", "key sets", "accesses", "handle", "log2 data units", "data units", "bursts"] ++
  ["min", "slots per frame", "s", "device", "symbols", "MT/s", "activations", "slots", "deg C", "commands", "requests", "lanes"] ++
  ["layer", "rank", "ns", "1/1,000", "MB/s", "blocks", "class", "KiB", "us", "flits", "cycles", "GT/s"] ++
  ["responses", "writes", "DPA regions", "sessions", "host port", "index", "bits", "frames", "records", "units", "extent-ms", "page-ms"] ++
  ["512 B-ms", "words", "MHz", "A", "mV", "mV/ms", "mA", "mJ", "days", "h", "rows", "steps"] ++
  ["per hour", "ps", "layers", "ppm", "resources", "baud"]

/-- The unit of each entry, in the order of the entries. -/
def entryUnits : List Nat :=
  [1, 1, 2, 3, 0, 0, 0, 0, 0, 4, 1, 2, 0, 5, 5, 5, 5, 5, 5, 5, 5, 5, 1, 5, 5, 5, 6, 7, 0, 1, 1, 1, 8, 8, 8, 9, 8, 10, 5, 11] ++
  [12, 0, 13, 5, 2, 0, 0, 7, 6, 5, 5, 5, 8, 8, 8, 8, 1, 0, 1, 1, 1, 1, 1, 1, 14, 14, 15, 8, 16, 0, 0, 0, 8, 0, 0, 0, 14, 17, 0, 0] ++
  [16, 0, 0, 14, 1, 18, 18, 0, 0, 19, 1, 1, 0, 0, 0, 0, 0, 0, 20, 20, 16, 21, 22, 0, 0, 8, 1, 10, 1, 0, 7, 23, 23, 14, 14, 14, 14, 10, 9, 10] ++
  [0, 9, 0, 0, 6, 24, 25, 6, 1, 26, 1, 1, 1, 0, 1, 0, 0, 0, 0, 0, 0, 0, 27, 28, 14, 14, 29, 29, 0, 1, 1, 0, 1, 1, 30, 30, 0, 0, 31, 31] ++
  [0, 32, 32, 1, 33, 1, 34, 1, 1, 35, 6, 0, 36, 37, 0, 0, 1, 0, 1, 0, 0, 38, 0, 0, 26, 0, 0, 1, 1, 1, 1, 39, 31, 40, 34, 2, 40, 31, 31, 41] ++
  [17, 1, 0, 0, 0, 0, 31, 17, 34, 34, 1, 42, 40, 40, 40, 40, 43, 7, 39, 0, 0, 39, 23, 23, 1, 1, 1, 0, 0, 0, 44, 1, 3, 45, 1, 45, 46, 1, 1, 1] ++
  [0, 0, 47, 35, 0, 47, 35, 0, 0, 0, 1, 34, 34, 48, 34, 49, 34, 50, 1, 0, 0, 0, 7, 5, 0, 0, 0, 0, 1, 51, 9, 1, 0, 0, 0, 52, 0, 0, 2, 5] ++
  [5, 34, 34, 44, 0, 53, 5, 0, 43, 0, 4, 0, 0, 1, 0, 0, 0, 0, 0, 0, 0, 0, 0, 4, 0, 0, 0, 0, 54, 0, 0, 54, 0, 0, 0, 26, 55, 0, 0, 0] ++
  [2, 2, 2, 2, 51, 51, 51, 26, 55, 55, 0, 55, 55, 0, 0, 0, 51, 0, 0, 0, 0, 0, 0, 0, 0, 1, 0, 56, 0, 0, 38, 0, 0, 52, 44, 0, 26, 38, 1, 38] ++
  [1, 1, 1, 9, 0, 0, 52, 56, 56, 1, 0, 57, 0, 57, 0, 57, 2, 2, 7, 0, 0, 0, 56, 56, 56, 56, 0, 1, 1, 34, 4, 4, 34, 34, 34, 1, 7, 58, 59, 59] ++
  [60, 58, 0, 0, 0, 0, 56, 56, 0, 0, 0, 0, 7, 1, 1, 0, 0, 0, 1, 0, 0, 7, 7, 1, 61, 61, 0, 0, 44, 1, 7, 2, 0, 1, 62, 0, 63, 63, 64, 64] ++
  [64, 64, 7, 65, 44, 1, 1, 0, 38, 1, 1, 1, 64, 64, 66, 67, 63, 63, 0, 0, 63, 63, 65, 44, 1, 0, 1, 66, 67, 68, 0, 26, 38, 26, 26, 0, 0, 69, 69, 0] ++
  [0, 0, 23, 39, 70, 71, 72, 73, 74, 5, 0, 64, 64, 73, 75, 0, 70, 70, 5, 74, 0, 72, 71, 2, 76, 0, 0, 0, 0, 0, 0, 0, 0, 7, 0, 0, 0, 0, 16, 2] ++
  [16, 0, 4, 0, 0, 0, 0, 0, 0, 0, 0, 0, 0, 77, 0, 1, 1]

/-- ASCII bytes of a name, zero-padded to `n`. -/
def nameBytes (n : Nat) (t : String) : List Nat :=
  let b := (t.toList.map Char.toNat).take n
  b ++ List.replicate (n - b.length) 0

/-- The code of a type in a record (spec/09 R364). -/
def Ty.code : Ty → Nat
  | .bool => 0 | .u8 => 1 | .u16 => 2 | .u32 => 3 | .u64 => 4 | .i32 => 5 | .enum => 6 | .string => 7 | .blob => 8 | .time => 9

/-- The code of an access in a record (spec/09 R364). -/
def Access.code : Access → Nat
  | .const => 0 | .ro => 1 | .rw => 2 | .wo => 3 | .rws => 4

/-- One record (spec/09 R364) of an entry whose block begins at `sub` and covers `ixSpan` and `subSpan` more. -/
def catalogueRecord (e : Entry) (sub ixSpan subSpan : Nat) : List Nat :=
  let f := e.info
  let lo := (f.allowed.map (·.1)).foldl min ((f.allowed.map (·.1)).headD 0)
  let hi := (f.allowed.map (·.2)).foldl max 0
  let sized := f.ty == .blob || f.ty == .string
  let head := f.index ||| (sub <<< 16) ||| (f.ty.code <<< 28) ||| (f.access.code <<< 32) ||| (f.roles <<< 36) |||
    (b2n f.vintage <<< 40) ||| (b2n f.noDefault <<< 41) ||| ((if sized then f.size else 0) <<< 48)
  toBytes 8 head ++ toBytes 8 lo ++ toBytes 8 hi ++ toBytes 8 (if f.noDefault then 0 else f.dflt) ++
    [entryUnits.getD e.ctorIdx 0, subSpan] ++ toBytes 2 ixSpan ++ nameBytes 28 f.name

/-- The records of an entry: one block, or one for each subindex where its subindexes do not follow one another. -/
def Entry.records (e : Entry) : List (List Nat) :=
  let f := e.info
  if f.subStep = 0 then [catalogueRecord e f.sub (f.instances - 1) 0]
  else if f.subStep = 1 then
    [catalogueRecord e (f.sub + f.first) ((f.first + f.instances - 1) / f.perIndex) (min f.instances f.perIndex - 1)]
  else (List.range f.perIndex).map fun j => catalogueRecord e (f.sub + j * f.subStep) (f.instances / f.perIndex - 1) 0

/-- The records of every entry. -/
def catalogueRecords : List (List Nat) := Entry.all.flatMap Entry.records

/-- The catalogue's bytes under a dictionary version (spec/09 R363). -/
def catalogue (version : Nat) : List Nat :=
  let recs := catalogueRecords
  let body := unitNames.flatMap (nameBytes 16) ++ recs.flatten
  let at_ := 64 + 16 * unitNames.length
  let len := 64 + body.length
  toBytes 4 0x43385A47 ++ [1, unitNames.length] ++ toBytes 2 version ++ toBytes 4 64 ++ toBytes 4 recs.length ++
    toBytes 4 at_ ++ toBytes 4 len ++ toBytes 4 (crc32c body.length (ofBytes body)) ++ List.replicate 36 0 ++ body

/-- LENGTH of the catalogue (spec/09 R363). -/
def catalogueLength : Nat :=
  64 + 16 * unitNames.length + 64 * (Entry.all.map fun e => if e.info.subStep < 2 then 1 else e.info.perIndex).sum

end Sys2Proof.Machine
end

