-- ==== Sys2Proof/Machine/Commands.lean ====
section
/-!
DEFINITION. Command entries of the dictionary: the checks of spec/11 R439 in their order and the answer to who asked.
-/

namespace Sys2Proof.Machine

/-- Code of the vendor service role (spec/11 R434). -/
def roleVendor : Nat := 4
/-- Code of the custodian role. -/
def roleCustodian : Nat := 3
/-- Code of the operator role. -/
def roleOperator : Nat := 2

/-- A write of `v` to a command entry: checks 5 to 9 of R439, then the restriction of the value to the vendor service role
where `vendor` says so (R434), then PART_FAILED for a command to a function of a failed part (R458, log entry 24), then the
command itself. -/
def Part.command (s : Part) (w : Who) (e : Entry) (v : Nat) (vendor : Bool) (f : Part → Reply) : Reply :=
  match writeChecks e.info (s.roleOf w) v e.info.bytes true with
  | some c => s.refuse c
  | none =>
    if vendor && s.roleOf w != roleVendor then s.refuse rRole
    else if s.od0 .partFailed = 1 && decide (0x2000 ≤ e.info.index) then s.refuse rPartFailed
    else f s

/-- Give the answer of a request to who asked; a request that waits has none yet. -/
def Reply.answer (r : Reply) (w : Who) : Part :=
  match r.code with
  | some c => r.part.emit (.answer w c r.detail)
  | none => r.part

/-! ## The mailbox of a port (spec/09 R366) -/

/-- Success of a mailbox command. -/
def mbSuccess : Nat := 0
/-- Background command started. -/
def mbBackground : Nat := 1
/-- Invalid Input. -/
def mbInvalid : Nat := 2
/-- Unsupported. -/
def mbUnsupported : Nat := 3
/-- Busy: a command is running. -/
def mbBusy : Nat := 6

/-- Answer a mailbox command: its return code and payload, and the vector of the mailbox control register when it names one
(spec/09 R366). -/
def Part.mbox (s : Part) (i code : Nat) (payload : List Nat) : Part :=
  let s := s.emit (.mailbox i code payload)
  if (s.port i).mboxVector = 0 then s else s.msix i ((s.port i).mboxVector - 1)

/-! ## Response frames (spec/11 R446, R453, R458) -/

/-- The bytes of a frame: header, payload, authenticator (spec/11 R446). -/
def frameBytes (f : Frame) : List Nat :=
  toBytes 32 (frameHeader f) ++ toBytes f.payloadLen f.payload ++ toBytes 32 f.auth

/-- Send a response frame to where its request came from; over a mailbox it ends the background command (spec/09 R368). -/
def Part.sendFrame (s : Part) (t : Transport) (f : Frame) : Part :=
  match t with
  | .mailbox i =>
    if (s.port i).mboxBusy = some 0xC800 then
      (s.onPort i fun q => { q with mboxBusy := none }).mbox i mbSuccess (frameBytes f)
    else s
  | _ => s.emit (.frame t f)

/-- The response to a request frame (spec/11 R446, R447): its SEQUENCE, SESSION, INDEX, SUBINDEX and OPCODE, a result and a
payload, the role, authenticated under a key. -/
def responseTo (q : Frame) (session role code payload len key : Nat) : Frame :=
  frameSign { q with
    session := session, result := code, length := len, kind := 1, role := role, flags := 0, magic := 0x56, format := 1,
    offset := 0, transfer := 0, payload := payload, payloadLen := len } key

/-- Answer the request that a session executes and keep the answer for its repetition (spec/11 R453). -/
def Part.respondSession (s : Part) (k code payload len : Nat) (change : Frame → Frame := id) : Part :=
  let q := s.sess k
  match q.request with
  | none => s
  | some r =>
    let f := responseTo r (s.od .sessionId k) (s.od .sessionRole k) code payload len q.key
    let f := frameSign (change f) q.key
    let s := s.onSess k fun q => { q with answer := some f, executing := false }
    s.sendFrame q.origin f

/-- The payload of an abort code's detail: U32 words (spec/11 R458). -/
def detailPayload (l : List Nat) : Nat := unchunks 32 l

/-- The late answer of a request (spec/07 R298): as a response frame when the session's request frame is still executing; the
answer to a closed session is discarded. -/
def Part.answerTo (s : Part) (w : Who) (code : Nat) (detail : List Nat) : Part :=
  match w with
  | .session k =>
    if (s.sess k).executing then s.respondSession k code (detailPayload detail) (4 * detail.length)
    else s.emit (.answer w code detail)
  | .monitor => s.emit (.answer w code detail)

/-- The late answer of a request that waited; one that goes on waiting has none yet. -/
def Reply.settle (r : Reply) (w : Who) : Part :=
  match r.code with
  | some c => r.part.answerTo w c r.detail
  | none => r.part

end Sys2Proof.Machine
end

