-- ==== Sys2Proof/Machine/Path.lean ====
section
/-!
DEFINITION. The path of a request between its ingress port and its home pavilion (spec/01, spec/07, spec/08, spec/09):
the slice decoder, partitions and the park ring, the promenade's messages and routes, answers to the host.
-/

namespace Sys2Proof.Machine

/-! ## Logical addresses (spec/02 R52) and placement (spec/07 R290) -/

/-- The key of a page of a slice in the tables of its home. -/
def pageKey (sl lpage : Nat) : Nat := sl * 2 ^ 34 + lpage
/-- The key of a logical region of a slice. -/
def regionKey (sl region : Nat) : Nat := sl * 65536 + region
/-- The key of a logical extent of a slice. -/
def extentKey (sl ext : Nat) : Nat := sl * 2 ^ 25 + ext
/-- The page of a logical address. -/
def lpageOf (logical : Nat) : Nat := logical / 4096
/-- The line in its page of a logical address. -/
def lineOf (logical : Nat) : Nat := logical / 64 % 64

/-- The placement-map entry of a region. -/
def Part.place (s : Part) (sl region : Nat) : Nat := s.vint.inForce.place.get 0 (regionKey sl region)
/-- The entry is valid. -/
def placeValid (v : Nat) : Bool := bit v 7
/-- The home pavilion of an entry. -/
def placeHome (v : Nat) : Nat := bits v 4 3
/-- A move of the region is in the plan. -/
def placeMoving (v : Nat) : Bool := bit v 3
/-- The destination of the move. -/
def placeDest (v : Nat) : Nat := bits v 0 3
/-- The mirror pavilion of the region (spec/02 R59), kept with the entry. -/
def placeMirror (v : Nat) : Nat := bits v 8 3
/-- The region has one copy of its cellar book only (spec/02 R59). -/
def placeSingle (v : Nat) : Bool := bit v 11
/-- An entry. -/
def mkPlace (home mirror : Nat) (single moving : Bool) (dest : Nat) : Nat :=
  128 + home * 16 + (b2n moving) * 8 + dest + mirror * 256 + (b2n single) * 2048

/-- Write an entry of the placement map in both banks (spec/01 R45). -/
def Part.setPlace (s : Part) (sl region v : Nat) : Part :=
  let put (t : Vintage) : Vintage := { t with place := t.place.set 0 (regionKey sl region) v }
  { s with vint := { s.vint with inForce := put s.vint.inForce, shadow := s.vint.shadow.map put } }

/-- The home pavilion of a page, if its region is placed. -/
def Part.homeOf (s : Part) (sl lpage : Nat) : Option Nat :=
  let v := s.place sl (lpage / 262144)
  if placeValid v then some (placeHome v) else none

/-! ## Messages and routes (spec/08) -/

/-- The label of a request of a slice (spec/07 R277). -/
def sliceLabel (stamp sl : Nat) : Nat := (stamp <<< 12) ||| sl

/-- The direction of a link from a pavilion to another: 0 from the lower to the higher. -/
def dirOf (a b : Nat) : Nat := if a < b then 0 else 1

/-- One direction of a link. -/
def LinkState.dir (l : LinkState) (d : Nat) : LinkDir := if d = 0 then l.up else l.down

/-- Change one direction of a link. -/
def LinkState.onDir (l : LinkState) (d : Nat) (f : LinkDir → LinkDir) : LinkState :=
  if d = 0 then { l with up := f l.up } else { l with down := f l.down }

/-- The link of two pavilions is UP. -/
def Part.linkUp (s : Part) (a b : Nat) : Bool := a != b && s.od .linkState (linkOf a b) == 2

/-- The next hop from a pavilion toward another: the other itself over the direct link, or the detour of spec/08 R331;
none where the pair has no path now (R334). -/
def Part.hop (s : Part) (a b : Nat) : Option Nat :=
  if s.linkUp a b then some b
  else
    let c := s.od .linkDetour (linkOf a b)
    if c < 8 && s.linkUp a c && s.linkUp c b then some c else none

/-- Put a message at the transmitter of a hop (spec/08 R321), with its crossbar port. -/
def Part.transmit (s : Part) (a b source : Nat) (m : Msg) : Part :=
  s.onLink (linkOf a b) fun l => l.onDir (dirOf a b) fun d => { d with tx := d.tx ++ [⟨source, m⟩] }

/-- Send a message from a pavilion: to its own inbox, over the direct link or the detour, or kept at the source until
the pair has a path (spec/08 R331, R334); nothing waits for a DISABLED link (R335). -/
def Part.send (s : Part) (from_ source : Nat) (m : Msg) : Part :=
  if m.dst = from_ then s.onPav from_ fun p => { p with inbox := p.inbox ++ [m] }
  else match s.hop from_ m.dst with
    | some c => s.transmit from_ c source m
    | none =>
      if s.od .linkState (linkOf from_ m.dst) = 5 then s
      else s.onLink (linkOf from_ m.dst) fun l => { l with waiting := l.waiting ++ [m] }

/-- A message along a path already chosen (spec/01 R39): through pavilion `via`; the link beyond it is that pavilion's (spec/08 R331). -/
def Part.sendVia (s : Part) (from_ source via : Nat) (m : Msg) : Part :=
  if m.dst = from_ then s.send from_ source m
  else if s.linkUp from_ via then s.transmit from_ via source m
  else s.send from_ source m

/-- Message classes (spec/08 R309). -/
def clsRequest : Nat := 0
/-- RESPONSE. -/
def clsResponse : Nat := 1
/-- MIGRATION. -/
def clsMigration : Nat := 2
/-- MANAGEMENT. -/
def clsManagement : Nat := 3

/-- The crossbar port of a local host port (spec/08 R321). -/
def xbarPort (i : Nat) : Nat := 7 + i % 2

/-- The gatehouse writes a block of a pavilion (spec/01 R21, spec/08 R310): a MGMT_REQUEST carries what pavilions 1 to 7 are told (log
entry 208). -/
def Part.mgmtReach (s : Part) (p addr data : Nat) : Part :=
  if p = 0 then s
  else s.send 0 11 { Msg.zero with cls := clsManagement, opcode := 10, src := 0, dst := p, units := 4, addr := addr, data := data }

/-- The first pavilion activity ends its IDLE (spec/13 R504). -/
def Part.wakePav (s : Part) (p : Nat) : Part :=
  if s.od .pavilionPowerState p = 1 then
    let s := s.setOd .pavilionPowerState p 0
    if s.od0 .packagePowerState = 2 then s.setOd .packagePowerState 0 1 else s
  else s

/-! ## The slice decoder (spec/09 R345 to R350) -/

/-- What the slice decoder finds. -/
inductive Decoded where
  | undecoded
  | unmapped (dpa : Nat)
  | found (sl logical dpa : Nat)
  deriving DecidableEq, Repr

/-- The decoder holds an HPA: committed, in its range, and at the port's position of the interleave. -/
def Decoder.holds (d : Decoder) (hpa : Nat) : Bool :=
  d.committed && decide (d.base ≤ hpa) && decide (hpa < d.base + d.size) &&
    ((hpa - d.base) / d.granularity % d.ways == d.position)

/-- The DPA of an HPA that the decoder holds (CXL; spec/09, worked example). -/
def Decoder.dpa (d : Decoder) (hpa : Nat) : Nat :=
  let o := hpa - d.base
  d.skip + o / (d.granularity * d.ways) * d.granularity + o % d.granularity

/-- The committed decoder of a port that holds an HPA, lowest number first. -/
def PortState.decoderOf (t : PortState) (hpa : Nat) : Option Decoder :=
  (List.range 8).findSome? fun k =>
    let d := t.decoders.get Decoder.zero k
    if d.holds hpa then some d else none

/-- A look at an extent mask through the mask cache (spec/09 R347): 1,024 sets of 8 lines, least recently used out; a
miss is counted. -/
def Part.maskTouch (s : Part) (i region : Nat) : Part :=
  let cache := (s.port i).maskCache
  let rest := cache.filter (· != region)
  let set_ := rest.filter (fun r => r % 1024 == region % 1024)
  let rest := if set_.length < 8 then rest else rest.filter (· != set_.getLastD 0)
  let s := if cache.contains region then s else s.count .portMaskCacheMisses i
  s.onPort i fun t => { t with maskCache := region :: rest }

/-- The slice decoder of spec/09 R348. -/
def Part.decode (s : Part) (i hpa : Nat) : Part × Decoded :=
  match (s.port i).decoderOf hpa with
  | none => (s, .undecoded)
  | some d =>
    let dpa := d.dpa hpa
    let region := dpa / 2 ^ 30
    let e := (s.port i).regionMap.get 0 region
    let sl := bits e 16 12
    if !bit e 31 || s.boundPort sl != some i then (s, .unmapped dpa) else
    let s := s.maskTouch i region
    if !bit ((s.port i).masks.get 0 region) (dpa % 2 ^ 30 / 2 ^ 21) then (s, .unmapped dpa) else
    (s, .found sl (bits e 0 16 * 2 ^ 30 + dpa % 2 ^ 30) dpa)

/-! ## Answers to the host -/

/-- All-one bytes of a line. -/
def onesLine : Nat := 2 ^ 512 - 1

/-- Answer a request of a port: MemData for a read, Cmp for a write (spec/09 R343). -/
def Part.answerHost (s : Part) (r : Req) (data : Nat) (poison : Bool) : Part :=
  if !r.answer then s else
  match r.kind with
  | .read => s.emit (.memData r.port r.hostTag data poison)
  | .poison => s
  | _ => s.emit (.cmp r.port r.hostTag)

/-! ## Credits and the park ring (spec/09 R342, spec/07 R285, R286) -/

/-- Entries of the park ring of a port. -/
def parkSize : Nat := 65536

/-- Return withheld link credits while the park ring's free entries exceed the credits the host holds (spec/07 R286). -/
def Part.returnCredits (s : Part) (i : Nat) : Part :=
  let t := s.port i
  let room := parkSize - t.park.length - (t.heldReq + t.heldDat)
  let a := min room t.owedReq
  let b := min (room - a) t.owedDat
  if a = 0 && b = 0 then s else
  s.onPort i fun t => { t with heldReq := t.heldReq + a, owedReq := t.owedReq - a, heldDat := t.heldDat + b, owedDat := t.owedDat - b }

/-- The host spends a link credit; none held is Receiver_Overflow (spec/09 R391). -/
def Part.spendCredit (s : Part) (i : Nat) (data : Bool) : Part × Bool :=
  let t := s.port i
  if (if data then t.heldDat else t.heldReq) = 0 then
    (s.modOd .rasUeStatus i fun v => v ||| 2 ^ 11, false)
  else
    (s.onPort i fun t => if data then { t with heldDat := t.heldDat - 1 } else { t with heldReq := t.heldReq - 1 }, true)

/-- The port returns the credit of a request it accepted, or withholds it (spec/07 R286). -/
def Part.giveCredit (s : Part) (i : Nat) (data : Bool) : Part :=
  let t := s.port i
  if t.heldReq + t.heldDat < parkSize - t.park.length then
    s.onPort i fun t => if data then { t with heldDat := t.heldDat + 1 } else { t with heldReq := t.heldReq + 1 }
  else
    let first := t.owedReq + t.owedDat = 0
    let s := s.onPort i fun t => if data then { t with owedDat := t.owedDat + 1 } else { t with owedReq := t.owedReq + 1 }
    if first then (s.count .parkFull i).logEv 0x1006 i 0 none (portPav i) else s

/-! ## Partitions (spec/07 R284, R285, R287) -/

/-- The partition of a slice on a port. -/
def Part.part (s : Part) (i sl : Nat) : Partition := (s.port i).parts.get Partition.none sl
/-- Change a partition. -/
def Part.onPart (s : Part) (i sl : Nat) (f : Partition → Partition) : Part :=
  s.onPort i fun t => { t with parts := t.parts.modify Partition.none sl f }

/-- Entries of a partition in use. -/
def Partition.inUse (q : Partition) : Nat :=
  q.queue.length + q.forwarded.length + (q.hold.map fun h => h.reqs.length).sum

/-- Parked requests return to their partition in order of arrival while it has room (spec/07 R285). -/
def Part.unpark (s : Part) (i sl : Nat) : Part :=
  let t := s.port i
  let q := s.part i sl
  let mine := t.park.filter (·.slice == sl)
  let n := min mine.length (q.reserved - q.inUse)
  if n = 0 then s else
  let others := (t.park.foldl (fun (a : List Req × Nat) r =>
    if r.slice == sl && decide (a.2 < n) then (a.1, a.2 + 1) else (a.1 ++ [r], a.2)) ([], 0)).1
  let s := s.onPort i fun t => { t with park := others }
  let s := s.onPart i sl fun q => { q with queue := q.queue ++ mine.take n }
  (s.setOd .ingressParkedNow i others.length).returnCredits i

/-- Queue an accepted request: in its partition, or in the park ring when the partition is full or the slice has parked
requests (spec/07 R285). -/
def Part.enqueue (s : Part) (r : Req) : Part :=
  let i := r.port
  let q := s.part i r.slice
  let parked := (s.port i).park.any (·.slice == r.slice)
  if parked || decide (q.reserved ≤ q.inUse) then
    let s := s.onPort i fun t => { t with park := t.park ++ [r] }
    (s.count .ingressParked i).setOd .ingressParkedNow i (s.port i).park.length
  else s.onPart i r.slice fun q => { q with queue := q.queue ++ [r] }

/-- The ceiling meters of a partition brought up to now, in thousandths of a byte (spec/07 R287). -/
def Part.refillMeters (s : Part) (i sl : Nat) : Part :=
  let depth := s.od .sliceCeilingBurst sl * 1024 * 1000
  s.onPart i sl fun q =>
    let dt := s.now - q.meterTime
    { q with
      readMeter := min depth (q.readMeter + s.od .sliceCeilingRead sl * dt)
      writeMeter := min depth (q.writeMeter + s.od .sliceCeilingWrite sl * dt)
      meterTime := s.now }

/-- A head passes its ceiling meter: 64 B for the line it covers, and the meter falls; a ceiling of 0 is none (spec/07
R287). -/
def Part.passMeter (s : Part) (i sl : Nat) (read : Bool) : Option Part :=
  let s := s.refillMeters i sl
  let q := s.part i sl
  let cost := 64000
  if read then
    if s.od .sliceCeilingRead sl = 0 then some s
    else if cost ≤ q.readMeter then some (s.onPart i sl fun q => { q with readMeter := q.readMeter - cost }) else none
  else
    if s.od .sliceCeilingWrite sl = 0 then some s
    else if cost ≤ q.writeMeter then some (s.onPart i sl fun q => { q with writeMeter := q.writeMeter - cost }) else none

/-- A new promenade tag of an ingress pavilion (spec/08 R309). -/
def Part.newTag (s : Part) (p : Nat) : Nat × Part :=
  let t := (s.pav p).nextTag
  (t, s.onPav p fun q => { q with nextTag := (t + 1) % 65536 })

/-- The opcode of a request (spec/08 R310). -/
def ReqKind.opcode : ReqKind → Nat
  | .read => 0
  | .write => 1
  | .partWrite => 2
  | .capacityPoison => 1
  | .poison => 3

/-- Data units of a request. -/
def ReqKind.units : ReqKind → Nat
  | .write => 4
  | .capacityPoison => 4
  | .partWrite => 5
  | _ => 0

/-- The message of a request toward its home (spec/08 R309, R310). -/
def reqMsg (r : Req) (tag home status : Nat) : Msg where
  cls := clsRequest
  opcode := r.kind.opcode
  src := portPav r.port
  dst := home
  units := r.kind.units
  status := status
  tag := tag
  label := sliceLabel r.stamp r.slice
  addr := r.logical / 64
  data := match r.kind with
    | .partWrite => r.mask ||| (r.data <<< 128)
    | _ => r.data

/-- A response to a request message: READ_DATA or COMPLETION (spec/08 R310). -/
def respMsg (m : Msg) (status data : Nat) : Msg where
  cls := clsResponse
  opcode := if m.opcode = 0 then 5 else 6
  src := m.dst
  dst := m.src
  units := if m.opcode = 0 && status ≤ 1 then 4 else 0
  status := status
  tag := m.tag
  label := m.label
  addr := 0
  data := data

/-- The slice of a request message. -/
def Msg.slice (m : Msg) : Nat := m.label % 4096
/-- The page of a request message. -/
def Msg.lpage (m : Msg) : Nat := m.addr / 64
/-- The line of a request message. -/
def Msg.line (m : Msg) : Nat := m.addr % 64

/-- Answer a request from its home (spec/01 R34): over the outbound lanes. -/
def Part.respond (s : Part) (m : Msg) (status data : Nat) : Part := s.send m.dst 9 (respMsg m status data)

end Sys2Proof.Machine
end

