-- ==== Sys2Proof/Machine/Ingress.lean ====
section
/-!
DEFINITION. The meanings of the commands at a host port's ingress: the CXL.mem messages (spec/09 R343), forwarding
(spec/07 R287), responses and completions coming back (spec/08 R310, R311), the hold list and its timers (spec/02 R92 to
R96), and the management and notice messages of the promenade.
-/

namespace Sys2Proof.Machine

/-! ## Sampling arms of port-counted tallies (spec/12 R481, R482) -/

/-- The bytes of a sample record above its tag (spec/12 R482). -/
def sampleBody (time value hpa logical skid arm sl : Nat) : Nat :=
  (time <<< 384) ||| (bits value 0 64 <<< 320) ||| (bits hpa 0 64 <<< 256) ||| (bits logical 0 64 <<< 192) |||
  (skid <<< 176) ||| (arm <<< 172) ||| (sl <<< 160)

/-- An arm triggers (spec/12 R481): the record in the dump ring, ARM_TRIGGERS, vector 20 + a. -/
def Part.armTrigger (s : Part) (i a : Nat) (value hpa logical skid sl : Nat) : Part :=
  let s := s.count .armTriggers (i * 8 + a)
  let s := if skid < 0xFFFF then s.modOd .armSkidMax (i * 8 + a) (max skid) else s
  let s := (s.ringWrite i 0 2 1 (sampleBody s.now value hpa logical skid a sl) none).1
  (s.onPort i fun t => { t with arms := t.arms.modify Arm.zero a fun m => { m with last := value } }).msix i (20 + a)

/-- Compare the arms of a port that count a tally with its rise. -/
def Part.armCheck (s : Part) (i : Nat) (e : Entry) (k : Nat) (hpa logical skid sl : Nat) : Part :=
  iter (List.range 8) s fun s a =>
    if s.od .armCounter (i * 8 + a) != e.indexOf k * 256 + e.subOf k then s else
    let v := s.tallyNow e k
    let m := (s.port i).arms.get Arm.zero a
    if s.od .armPeriod (i * 8 + a) ≤ (v + 2 ^ 64 - m.last) % 2 ^ 64 then s.armTrigger i a v hpa logical skid sl else s

/-- Count a port-counted tally and look at the port's arms. -/
def Part.portCount (s : Part) (i : Nat) (e : Entry) (k n : Nat) (hpa logical sl : Nat) : Part :=
  (s.count e k n).armCheck i e k hpa logical 0 sl

/-! ## CXL.mem messages (spec/09 R343 to R349) -/

/-- An undecoded or unmapped request (spec/09 R349): all-one bytes with poison, or Cmp; counted; a Warning record with
code 0x1201 at most once per millisecond. -/
def Part.unmapped (s : Part) (r : Req) (undecoded : Bool) (dpa : Nat) : Part :=
  let i := r.port
  let s := s.answerHost r onesLine true
  let s := s.portCount i (if undecoded then .portUndecoded else .portUnmapped) i 1 r.hpa ones64 0
  let key := 0x120100 + i
  let last := s.lastLog.get 0 key
  if last = 0 || decide (last - 1 + nsPerMs ≤ s.now) then
    let s := { s with lastLog := s.lastLog.put key (s.now + 1) }
    (s.vendorEvent i logWarning 0x1201 none (portPav i) dpa ones64 r.hpa 0).logEv 0x1201 r.hpa 0 none (portPav i)
  else s

/-- A request for a slice that is not RUNNING is answered as unmapped and counted in SLICE_REFUSED (spec/10 R399). -/
def Part.refused (s : Part) (r : Req) (dpa : Nat) : Part :=
  (s.unmapped r false dpa).count .sliceRefused r.slice

/-- The port takes no CXL.mem message: its link is insecure (spec/09 R393). -/
def Part.portDeaf (s : Part) (i : Nat) : Bool := s.od .ideState i == 2

/-- The tallies of an accepted request (spec/12 R488). -/
def Part.countRequest (s : Part) (r : Req) : Part :=
  let i := r.port
  let k := r.slice
  match r.kind with
  | .read => (s.portCount i .sliceReads k 1 r.hpa r.logical k).portCount i .sliceReadBytes k 64 r.hpa r.logical k
  | .partWrite =>
    (s.portCount i .sliceWrites k 1 r.hpa r.logical k).portCount i .sliceWriteBytes k (popCount 64 r.mask) r.hpa r.logical k
  | _ => (s.portCount i .sliceWrites k 1 r.hpa r.logical k).portCount i .sliceWriteBytes k 64 r.hpa r.logical k

/-- The slice's drain squashes requests: RESET or REMOVE (spec/10 R409). -/
def Part.squashing (s : Part) (sl : Nat) : Bool :=
  match (s.slice sl).drain with
  | some d => decide (3 ≤ d.kind)
  | none => false

/-- A squashed request is counted in SLICE_SQUASHED and nowhere else (spec/10 R409, spec/12 R488): what its acceptance added to
the tallies is taken back. `op` is its opcode of spec/08 R310, `bytes` what it would move. -/
def Part.noteSquash (s : Part) (sl op bytes : Nat) : Part :=
  let s := (s.count .sliceSquashed sl).onSlice sl fun q => { q with drain := q.drain.map fun d => { d with squashed := d.squashed + 1 } }
  match op with
  | 0 => (s.uncount .sliceReads sl 1).uncount .sliceReadBytes sl 64
  | 1 | 2 => (s.uncount .sliceWrites sl 1).uncount .sliceWriteBytes sl bytes
  | _ => s

/-- Squash a request that stands at its port (spec/10 R409): all-one bytes with poison for a read, Cmp for a write. -/
def Part.squash (s : Part) (r : Req) : Part :=
  (s.answerHost r onesLine true).noteSquash r.slice r.kind.opcode (if r.kind = .partWrite then popCount 64 r.mask else 64)

/-- A message with data or without reaches a port: its credit, the decoder, the checks and the queue. -/
def Part.receive (s : Part) (r : Req) (poison : Bool) : Part :=
  let i := r.port
  let data := r.kind != .read
  if s.portDeaf i then s else
  let c := s.spendCredit i data
  if !c.2 then c.1 else
  let s := (c.1.giveCredit i data).wakePav (portPav i)
  let d := s.decode i r.hpa
  let s := d.1
  match d.2 with
  | .undecoded => s.unmapped r true ones64
  | .unmapped dpa => s.unmapped r false dpa
  | .found sl logical dpa =>
    let r := { r with slice := sl, logical := logical, dpa := dpa, epoch := s.od .portEpoch i, stamp := s.vint.bank }
    if s.od .sliceState sl != 2 then s.refused r dpa else
    if poison then
      let s := (s.answerHost r 0 false).modOd .rasUeStatus i fun v => v ||| 2 ^ 10
      ((s.count .portPoisonedWrites i).vendorEvent i logFailure 0x1202 (some sl) (portPav i) dpa logical r.hpa 0).logEv
        0x1202 r.hpa 0 (some sl) (portPav i)
    else ((s.countRequest r).enqueue r)

/-- A request as it arrives. -/
def mkReq (kind : ReqKind) (i : Port) (hpa : U64) (tag data mask : Nat) : Req where
  kind := kind
  port := i
  hostTag := tag
  hpa := hpa.toNat
  dpa := 0
  slice := 0
  logical := 0
  data := data
  mask := mask
  stamp := 0
  epoch := 0
  answer := true

/-- MEM_RD (spec/09 R343): a read of one line. -/
def execMemRd (i : Port) (hpa : U64) (tag : Nat) (s : State) : Host.Outcome State Fault Refusal :=
  s.run fun p => p.receive (mkReq .read i hpa tag 0 0) false

/-- MEM_SPEC_RD (spec/09 R343): discarded; its credit is returned. -/
def execMemSpecRd (i : Port) (_hpa : U64) (s : State) : Host.Outcome State Fault Refusal :=
  s.run fun p =>
    let c := p.spendCredit i false
    if c.2 then c.1.giveCredit i false else c.1

/-- MEM_INV (spec/09 R343): Cmp without access. -/
def execMemInv (i : Port) (_hpa : U64) (tag : Nat) (s : State) : Host.Outcome State Fault Refusal :=
  s.run fun p =>
    let c := p.spendCredit i false
    if c.2 then (c.1.giveCredit i false).emit (.cmp i tag) else c.1

/-- MEM_WR (spec/09 R343, R344): a full-line write. -/
def execMemWr (i : Port) (hpa : U64) (tag : Nat) (data : Line) (poison : Bool) (s : State) :
    Host.Outcome State Fault Refusal :=
  s.run fun p => p.receive (mkReq .write i hpa tag data.toNat 0) poison

/-- MEM_WR_PTL (spec/09 R343, R344): a partial write; with no byte enabled, Cmp without access. -/
def execMemWrPtl (i : Port) (hpa : U64) (tag : Nat) (mask : U64) (data : Line) (poison : Bool) (s : State) :
    Host.Outcome State Fault Refusal :=
  s.run fun p =>
    if mask = 0 then
      let c := p.spendCredit i true
      if c.2 then (c.1.giveCredit i true).emit (.cmp i tag) else c.1
    else p.receive (mkReq .partWrite i hpa tag data.toNat mask.toNat) poison

/-- M2S_UNSUPPORTED_MESSAGE (spec/09 R343, R391): discarded; Rsvd_Encoding_Violation, or Receiver_Overflow for a message
without a credit. -/
def execM2sUnsupportedMessage (i : Port) (credit : Bool) (s : State) : Host.Outcome State Fault Refusal :=
  s.run fun p => p.modOd .rasUeStatus i fun v => v ||| (2 ^ 9) ||| (if credit then 0 else 2 ^ 11)

/-! ## Forwarding (spec/07 R287, spec/01 R39) -/

/-- The page of a request. -/
def Req.lpage (r : Req) : Nat := lpageOf r.logical

/-- The path of a page: that of an earlier outstanding request of the port to it (spec/01 R39), else the present one. -/
def Part.pathOf (s : Part) (q : Partition) (p home lpage : Nat) : Nat :=
  match q.forwarded.find? (fun f => f.req.lpage == lpage && f.home == home) with
  | some f => f.via
  | none => (s.hop p home).getD home

/-- A write whose home has FAILED is completed and its line's page is poisoned through the mirror (spec/01 R51): done
where the pages of the failed home are poisoned; a read gets poison. -/
def Part.synthetic (s : Part) (r : Req) : Part :=
  let s := if r.kind = .read then s.count .slicePoisonReads r.slice else s
  s.answerHost r onesLine true

/-- The pavilion to which a request goes first: the path of its page while that link is UP, else the present path (spec/01 R39). -/
def Part.viaOf (s : Part) (r : Req) (home : Nat) : Nat :=
  let p := portPav r.port
  let page := s.pathOf (s.part r.port r.slice) p home r.lpage
  if s.linkUp p page then page else (s.hop p home).getD home

/-- Forward one request toward its home; `mark` sets the marks of its entry. -/
def Part.forward (s : Part) (r : Req) (status : Nat) (mark : Fwd → Fwd := id) : Part :=
  let i := r.port
  let p := portPav i
  match s.homeOf r.slice r.lpage with
  | none => s.synthetic r
  | some home =>
    if s.pstate home = 5 then s.synthetic r else
    let t := s.newTag p
    let s := t.2
    let via := s.viaOf r home
    let s := s.onPart i r.slice fun q => { q with forwarded := q.forwarded ++ [mark ⟨r, t.1, home, via, false, false, false, false, 0⟩] }
    (s.wakePav home).sendVia p (xbarPort i) via (reqMsg r t.1 home status)

/-- A request of the partition's queue may go: its page is not behind a withheld or marked-held request (spec/02 R93,
spec/06 R244). -/
def Partition.free (q : Partition) (r : Req) : Bool :=
  !q.forwarded.any fun f => (f.held || f.withheld) && f.req.lpage == r.lpage

/-- INGRESS_FORWARD (spec/07 R287): the head of the partition passes its ceiling meter and is forwarded. A full hold list
stops the partition (spec/02 R92); a request to a held page joins the page's hold entry. -/
def execIngressForward (i : Port) (sl : Slice) (s : State) : Host.Outcome State Fault Refusal :=
  s.run fun p =>
    let q := p.part i sl
    if 16 ≤ q.hold.length || p.parked (0x0200 + i) then p else
    match takeFirst q.free q.queue with
    | none => p
    | some (r, rest) =>
      if q.hold.any (·.lpage == r.lpage) then
        p.onPart i sl fun q => { q with
          queue := rest
          hold := q.hold.map fun h => if h.lpage == r.lpage then { h with reqs := h.reqs ++ [r] } else h }
      else match p.passMeter i sl (r.kind = .read) with
        | none => p
        | some p => (p.onPart i sl fun q => { q with queue := rest }).forward r 0

/-! ## Responses and completions (spec/08 R310, R311) -/

/-- Take the first message of a pavilion's inbox with an opcode. -/
def Part.takeMsg (s : Part) (p op : Nat) : Option (Msg × Part) :=
  (takeFirst (fun m => m.opcode == op) (s.pav p).inbox).map fun q =>
    (q.1, s.onPav p fun v => { v with inbox := q.2 })

/-- The forwarded request that a response of a pavilion's ports answers: its port and slice are in the response's label
and the port of the slice's partition. -/
def Part.findFwd (s : Part) (p : Nat) (m : Msg) : Option (Nat × Fwd) :=
  [2 * p, 2 * p + 1].findSome? fun i =>
    ((s.part i m.slice).forwarded.find? (fun f => f.tag == m.tag)).map fun f => (i, f)

/-- A request that was sent back to its sender does not come again: those of its page that wait for it at the home go on
(spec/01 R36). -/
def Part.unmark (s : Part) (p src sl lpage : Nat) : Part :=
  s.onPav p fun v =>
    let mine (m : Msg) : Bool := m.src == src && m.slice == sl && m.lpage == lpage
    { v with
      refused := v.refused.filter (· != (src, sl, lpage))
      inbox := v.behind.filter mine ++ v.inbox
      behind := v.behind.filter fun m => !mine m }

/-- Take a forwarded entry out; parked requests return as the entry frees (spec/07 R285). -/
def Part.dropFwd (s : Part) (i sl tag : Nat) : Part :=
  (s.onPart i sl fun q => { q with forwarded := q.forwarded.filter (·.tag != tag) }).unpark i sl

/-- The response's epoch differs from the port's: discarded and counted (spec/09 R351). -/
def Part.stale (s : Part) (i : Nat) (f : Fwd) : Bool := f.req.epoch != s.od .portEpoch i

/-- The requests that waited behind a held write whose page is served go back to the head of the partition's queue. -/
def Part.releaseHold (s : Part) (i sl lpage : Nat) : Part :=
  match takeFirst (fun h : Held => h.lpage == lpage) (s.part i sl).hold with
  | none => s
  | some (h, rest) => s.onPart i sl fun q => { q with hold := rest, queue := h.reqs.tail ++ q.queue }

/-- SLICE_HELD_WRITES of a partition: writes in the hold list and marked held (spec/02 R93). -/
def Partition.heldWrites (q : Partition) : Nat := q.hold.length + (q.forwarded.filter (·.held)).length

/-- Writes of a slice held now, on its port. -/
def Part.heldWrites (s : Part) (sl : Nat) : Nat :=
  ((List.range 16).map fun i => (s.part i sl).heldWrites).sum

/-- The capacity alarms (spec/02 R91). -/
inductive Alarm where
  | plotWarn | commonsLow | held | poisoned
  deriving DecidableEq, Repr

/-- The code of an alarm (spec/09 R371). -/
def Alarm.code : Alarm → Nat
  | .plotWarn => 0x1210
  | .commonsLow => 0x1211
  | .held => 0x1212
  | .poisoned => 0x1213

/-- Raise an alarm of a slice (spec/02 R91): a record in the event log of its port, and in the part's log, whose
notification goes to every operator session (spec/11 R461). -/
def Part.alarm (s : Part) (a : Alarm) (sl pav va vb : Nat) : Part :=
  let s := match s.boundPort sl with
    | some i => s.vendorEvent i (match a with | Alarm.poisoned => logFailure | _ => logWarning) a.code (some sl) pav ones64 ones64 va vb
    | none => s
  s.logEv a.code va vb (some sl) pav

/-- CAPACITY_HELD is raised when a write of the slice is refused and none was held, cleared when none is held. -/
def Part.heldAlarm (s : Part) (sl pav : Nat) : Part :=
  let key := 0x100000 + sl
  let on := (s.pav 0).alarms.get 0 key
  let n := s.heldWrites sl
  if n = 0 then s.onPav 0 fun v => { v with alarms := v.alarms.erase key }
  else if on = 0 then
    (s.onPav 0 fun v => { v with alarms := v.alarms.put key 1 }).alarm .held sl pav n (s.od .sliceStallLimit sl)
  else s

/-- A write refused for capacity comes back (spec/02 R92, R93): a write whose page is held already returns to its place;
otherwise it takes a place in the hold list, or stays in its entry marked held while 16 pages are held. Its order among the
refusals of the partition stays that of its first one. -/
def Part.capacityBack (s : Part) (i : Nat) (f : Fwd) : Part :=
  let sl := f.req.slice
  let s := if f.order = 0 then s.onPart i sl fun q => { q with refusals := q.refusals + 1 } else s
  let q := s.part i sl
  let n := if f.order = 0 then q.refusals else f.order
  let lp := f.req.lpage
  let s :=
    if q.hold.any (·.lpage == lp) then
      let h := q.hold.find? (·.lpage == lp)
      let resent := match h with
        | some h => h.sent && h.reqs.headD f.req == f.req
        | none => false
      s.onPart i sl fun q => { q with
        forwarded := q.forwarded.filter (·.tag != f.tag)
        hold := q.hold.map fun h =>
          if h.lpage == lp then (if resent then { h with sent := false } else { h with reqs := h.reqs ++ [f.req] }) else h }
    else if q.hold.length < 16 then
      s.onPart i sl fun q => { q with
        forwarded := q.forwarded.filter (·.tag != f.tag)
        hold := q.hold ++ [⟨lp, [f.req], f.home, false, f.expired, n⟩] }
    else s.onPart i sl fun q => { q with
        forwarded := q.forwarded.map fun g => if g.tag == f.tag then { g with held := true, sent := false, order := n } else g }
  s.heldAlarm sl f.home

/-- Resend a held write (spec/02 R94, R96): decoded anew, so with the stamp and the home of now. -/
def Part.resendHold (s : Part) (i sl lpage status : Nat) : Part :=
  match (s.part i sl).hold.find? (fun h => h.lpage == lpage) with
  | none => s
  | some h =>
    match h.reqs with
    | [] => s
    | r :: _ =>
      let r := { r with stamp := s.vint.bank }
      let s := s.onPart i sl fun q => { q with
        hold := q.hold.map fun g => if g.lpage == lpage then { g with sent := true, reqs := r :: g.reqs.tail } else g }
      s.forward r status fun g => { g with sent := true }

/-- Resend a write that stays in its entry marked held (spec/02 R93): it stays marked while it is on its way. -/
def Part.resendMarked (s : Part) (i sl tag status : Nat) : Part :=
  match (s.part i sl).forwarded.find? (fun f => f.tag == tag && f.held) with
  | none => s
  | some f =>
    let s := s.onPart i sl fun q => { q with forwarded := q.forwarded.filter (·.tag != tag) }
    s.forward { f.req with stamp := s.vint.bank } status fun g =>
      { g with held := true, sent := true, expired := f.expired, order := f.order }

/-- Insert a number in a rising list. -/
def insertUp (n : Nat) : List Nat → List Nat
  | [] => [n]
  | k :: r => if n ≤ k then n :: k :: r else k :: insertUp n r

/-- The places among the refusals of the writes that a notice of a home resends, oldest first (spec/02 R94). -/
def Partition.due (q : Partition) (home : Nat) : List Nat :=
  (((q.hold.filter fun h => !h.sent && h.home == home).map (·.order)) ++
    (q.forwarded.filter fun f => f.held && !f.sent && f.home == home).map (·.order)).foldr insertUp []

/-- Resend the held write at a place among the refusals. -/
def Part.resendDue (s : Part) (i sl status n : Nat) : Part :=
  let q := s.part i sl
  match q.hold.find? (fun h => !h.sent && h.order == n) with
  | some h => s.resendHold i sl h.lpage status
  | none =>
    match q.forwarded.find? (fun f => f.held && !f.sent && f.order == n) with
    | some f => s.resendMarked i sl f.tag status
    | none => s

/-- A stale response that sends a request back ends it: the requests that wait behind it at its home go on. -/
def Part.staleBack (s : Part) (p : Nat) (m : Msg) (f : Fwd) : Part :=
  if m.status = 2 || m.status = 3 then s.unmark f.home p m.slice f.req.lpage else s

/-- PROM_READ_DATA (spec/08 R310): the first READ_DATA of the pavilion's inbox is sent to the host, returned for
withholding (spec/06 R244), put behind a held write (spec/01 R36), or discarded when its epoch is stale (spec/09
R351). -/
def execPromReadData (p : Pav) (s : State) : Host.Outcome State Fault Refusal :=
  s.run fun q =>
    match q.takeMsg p 5 with
    | none => q
    | some (m, q) =>
      match q.findFwd p m with
      | none => q
      | some (i, f) =>
        if q.stale i f then ((q.staleBack p m f).dropFwd i m.slice m.tag).count .portStaleResponses i else
        if q.squashing m.slice && (m.status = 2 || m.status = 3) then
          ((q.unmark f.home p m.slice f.req.lpage).dropFwd i m.slice m.tag).squash f.req
        else if m.status = 3 then
          q.onPart i m.slice fun v => { v with forwarded := v.forwarded.map fun g => if g.tag == m.tag then { g with withheld := true } else g }
        else if m.status = 2 then q.capacityBack i f
        else
          let poison := m.status != 0
          let q := if poison && !q.squashing m.slice then q.count .slicePoisonReads m.slice else q
          (q.answerHost f.req (if poison then onesLine else m.data) poison).dropFwd i m.slice m.tag

/-- PROM_COMPLETION (spec/08 R311): the first COMPLETION of the inbox completes its write, or returns it for holding
(spec/02 R92) or withholding (spec/06 R244). -/
def execPromCompletion (p : Pav) (s : State) : Host.Outcome State Fault Refusal :=
  s.run fun q =>
    match q.takeMsg p 6 with
    | none => q
    | some (m, q) =>
      match q.findFwd p m with
      | none => q
      | some (i, f) =>
        if q.stale i f then
          (((q.staleBack p m f).dropFwd i m.slice m.tag).releaseHold i m.slice f.req.lpage).count .portStaleResponses i else
        if q.squashing m.slice && (m.status = 2 || m.status = 3) then
          ((q.unmark f.home p m.slice f.req.lpage).dropFwd i m.slice m.tag).squash f.req
        else if m.status = 3 then
          q.onPart i m.slice fun v => { v with forwarded := v.forwarded.map fun g => if g.tag == m.tag then { g with withheld := true } else g }
        else if m.status = 2 then
          let q := q.capacityBack i f
          let v := q.part i m.slice
          match v.hold.find? (fun h => h.lpage == f.req.lpage && h.expired && !h.sent) with
          | some h => q.resendDue i m.slice 7 h.order
          | none =>
            match v.forwarded.find? (fun g => g.req.lpage == f.req.lpage && g.held && g.expired && !g.sent) with
            | some g => q.resendDue i m.slice 7 g.order
            | none => q
        else
          let q := (q.answerHost f.req 0 (m.status != 0)).releaseHold i m.slice f.req.lpage
          (q.dropFwd i m.slice m.tag).heldAlarm m.slice f.home

/-- PROM_CAPACITY_NOTICE (spec/02 R94): the ingress pavilion resends the slice's held writes for that home, oldest
first. -/
def execPromCapacityNotice (p : Pav) (s : State) : Host.Outcome State Fault Refusal :=
  s.run fun q =>
    match q.takeMsg p 7 with
    | none => q
    | some (m, q) =>
      let sl := m.addr
      iter [2 * p.val, 2 * p.val + 1] q fun q i =>
        iter ((q.part i sl).due m.src) q fun q n => q.resendDue i sl 6 n

/-- STALL_TIMER_EXPIRY (spec/02 R96): the held write is sent to its home to be completed and its page poisoned; one that
is being resent is completed so if it is refused again. -/
def execStallTimerExpiry (i : Port) (sl : Slice) (lpage : Nat) (s : State) : Host.Outcome State Fault Refusal :=
  s.run fun q =>
    match (q.part i sl).hold.find? (fun h => h.lpage == lpage) with
    | some h =>
      if h.sent then
        q.onPart i sl fun v => { v with hold := v.hold.map fun g => if g.lpage == lpage then { g with expired := true } else g }
      else q.resendHold i sl lpage 7
    | none =>
      match (q.part i sl).forwarded.find? (fun f => f.held && f.req.lpage == lpage) with
      | some f =>
        if f.sent then
          q.onPart i sl fun v => { v with forwarded := v.forwarded.map fun g => if g.tag == f.tag then { g with expired := true } else g }
        else q.resendMarked i sl f.tag 7
      | none => q

/-! ## Management messages (spec/08 R310) -/

/-- PROM_MGMT_REQUEST (spec/08 R310): a request of the management path reaches a block, which answers it. -/
def execPromMgmtRequest (p : Pav) (s : State) : Host.Outcome State Fault Refusal :=
  s.run fun q =>
    match q.takeMsg p 10 with
    | none => q
    | some (m, q) => q.send p 11 { m with opcode := 11, src := p, dst := m.src }

/-- PROM_MGMT_RESPONSE (spec/08 R310): a response reaches the gatehouse and leaves the inbox. -/
def execPromMgmtResponse (p : Pav) (s : State) : Host.Outcome State Fault Refusal :=
  s.run fun q =>
    match q.takeMsg p 11 with
    | none => q
    | some (_, q) => q

end Sys2Proof.Machine
end

