-- ==== Sys2Proof/Machine/Keys.lean ====
section
/-!
DEFINITION. Key sets: drawing, loading into the key caches, destroying, and the start of a re-key sweep (spec/04 R146 to
R154, R174 to R178).
-/

namespace Sys2Proof.Machine

/-- The index of a key set in the key store (spec/04 R148): slice × 2 + slot. -/
def setIndex (sl slot : Nat) : Nat := sl * 2 + slot

/-- A key set. -/
def Part.keySet (s : Part) (sl slot : Nat) : KeySet := s.keys.sets.get KeySet.zero (setIndex sl slot)

/-- Change a key set. -/
def Part.onKeySet (s : Part) (sl slot : Nat) (f : KeySet → KeySet) : Part :=
  { s with keys := { s.keys with sets := s.keys.sets.modify KeySet.zero (setIndex sl slot) f } }

/-- The handle entry of a slot. -/
def handleEntry (slot : Nat) : Entry := if slot = 0 then .sliceKeyHandle0 else .sliceKeyHandle1

/-- KEYSTORE_USED: live slice key sets (spec/04). -/
def Part.countKeys (s : Part) : Part := s.setOd .keystoreUsed 0 (s.keys.sets.filter fun e => e.2.live).length

/-- The part can make key material: RNG_HEALTH is OK (spec/04 R154). -/
def Part.rngOk (s : Part) : Bool := s.od0 .rngHealth == 0

/-- Draw the three keys of a set; a draw whose data key equals its tweak key is thrown away and drawn again (spec/04
R157), 64 times at most. -/
def Part.drawSet (s : Part) : Nat → Part × (Nat × Nat × Nat)
  | 0 => (s, (0, 1, 0))
  | fuel + 1 =>
    let a := s.free
    let b := a.2.free
    let c := b.2.free
    let k := (a.1 % 2 ^ 256, b.1 % 2 ^ 256, c.1 % 2 ^ 256)
    if k.1 = k.2.1 then c.2.drawSet fuel else (c.2, k)

/-- A key set becomes live in the key store and is sent to every pavilion in service over the path of spec/04 R150; its
handle is reported when every one of them holds it (R152). -/
def Part.installSet (s : Part) (sl slot : Nat) (k : Nat × Nat × Nat) : Part :=
  let ix := setIndex sl slot
  let s := (s.onKeySet sl slot fun q => { q with live := true, data := k.1, tweak := k.2.1, mac := k.2.2 }).countKeys
  iter s.serving s fun s p =>
    (s.onPav p fun v => { v with keyInvalid := v.keyInvalid ++ [ix] }).send 0 9
      { Msg.zero with cls := clsManagement, opcode := 12, src := 0, dst := p, units := 4, addr := ix }

/-- Destroy a key set (spec/04 R149): no key, the generation up by 1, the handle 0. -/
def Part.destroySet (s : Part) (sl slot : Nat) : Part :=
  let ix := setIndex sl slot
  let live := (s.keySet sl slot).live
  let s := { s with keys := { s.keys with sweeps := s.keys.sweeps.erase sl } }
  let s := s.onKeySet sl slot fun q => ⟨false, if live then (q.gen + 1) % 256 else q.gen, 0, 0, 0⟩
  let s := iter allPavs s fun s p => s.onPav p fun v => { v with keyInvalid := v.keyInvalid.filter (· != ix) }
  (s.setOd (handleEntry slot) sl 0).countKeys

/-- A sweep of a slice waits for its new key set. -/
def Part.sweepComing (s : Part) (sl : Nat) : Bool := s.keys.sweeps.get 0 sl != 0

/-- The key set of a sweep is held by every pavilion in service (spec/04 R152): its slot becomes the active one, and the sweep has
started (R175). -/
def Part.sweepBegins (s : Part) (sl slot : Nat) : Part :=
  let cause := s.keys.sweeps.get 0 sl
  let s := { s with keys := { s.keys with sweeps := s.keys.sweeps.erase sl } }
  let s := ((s.setOd .sliceKeyActive sl slot).setOd .sliceKeyUses sl 0).setOd .rekeyState sl 1
  (s.setOd .rekeyCause sl cause).logEv 0x0D06 cause 0 (some sl)

/-- A pavilion holds a key set now: the handle is reported once every pavilion in service holds it (spec/04 R152), and a sweep that
waits for the set starts. -/
def Part.keyLoaded (s : Part) (p ix : Nat) : Part :=
  let s := s.onPav p fun v => { v with keyInvalid := v.keyInvalid.filter (· != ix) }
  let sl := ix / 2
  let slot := ix % 2
  let q := s.keySet sl slot
  if q.live && s.serving.all (fun p => !(s.pav p).keyInvalid.contains ix) then
    let s := s.setOd (handleEntry slot) sl (keyHandle 1 q.gen ix)
    if s.sweepComing sl && slot != s.od .sliceKeyActive sl then s.sweepBegins sl slot else s
  else s

/-- The pavilion's key cache cannot serve a key set now. -/
def Part.keyAway (s : Part) (p sl slot : Nat) : Bool := (s.pav p).keyInvalid.contains (setIndex sl slot)

/-- An uncorrectable error in a pavilion's key cache (spec/04 R152): the entry is invalid until it is reloaded; code
0x0D05. -/
def Part.keyCacheError (s : Part) (p sl slot : Nat) : Part :=
  let ix := setIndex sl slot
  if (s.pav p).keyInvalid.contains ix then s else
  (s.onPav p fun v => { v with keyInvalid := v.keyInvalid ++ [ix] }).logEv 0x0D05 ix 0 (some sl) p

/-- Start a re-key sweep for a cause of spec/04 R174, or record the cause: during a sweep (R178), for an armed slice
(spec/10 R416), or while the random-bit generator has failed, when the refused sweep is counted (R154). The new key set goes to the
key caches first; the sweep has started when they hold it (R152, R175, log entry 205). -/
def Part.startSweep (s : Part) (sl cause : Nat) : Part :=
  let record (s : Part) : Part :=
    s.onSlice sl fun q => { q with rekeyWait := if q.rekeyWait.contains cause then q.rekeyWait else q.rekeyWait ++ [cause] }
  if s.od .rekeyState sl = 1 || s.sweepComing sl || s.od .sliceMigrationId sl != 0 then record s
  else if !s.rngOk then record { s with keys := { s.keys with sweepsRefused := s.keys.sweepsRefused + 1 } }
  else
    let slot := 1 - s.od .sliceKeyActive sl
    let d := s.drawSet 64
    { d.1 with keys := { d.1.keys with sweeps := d.1.keys.sweeps.put sl cause } }.installSet sl slot d.2

/-- Some version of a slice stands at 2^63 or above (spec/04 R169). -/
def Part.versionsHigh (s : Part) (sl : Nat) : Bool :=
  allPavs.any fun p =>
    ((s.pav p).cellar.any fun e => e.1 / 2 ^ 34 == sl && decide (2 ^ 63 ≤ e.2.version)) ||
    ((s.pav p).tags.any fun e => decide (2 ^ 63 ≤ e.2.version) && ((s.pav p).own.get Own.free (e.1 / extBursts)).owner == sl)

/-- Start the sweep of a recorded cause that still holds, the lowest first (spec/04 R174, R178, spec/10 R416). -/
def Part.nextSweep (s : Part) (sl : Nat) : Part :=
  let wait := (s.slice sl).rekeyWait
  let s := s.onSlice sl fun q => { q with rekeyWait := [] }
  if wait.contains 2 && decide (2 ^ s.od .sliceKeyUseLimit sl ≤ s.od .sliceKeyUses sl) then s.startSweep sl 2
  else if wait.contains 3 && s.versionsHigh sl then s.startSweep sl 3
  else if wait.contains 4 && s.versionsHigh sl then s.startSweep sl 4
  else s

/-- Count data units encrypted under a slot (spec/04 R174): at 2^SLICE_KEY_USE_LIMIT a sweep starts. -/
def Part.keyUse (s : Part) (sl slot n : Nat) : Part :=
  if slot != s.od .sliceKeyActive sl then s else
  let u := s.od .sliceKeyUses sl
  let s := s.setOd .sliceKeyUses sl (u + n)
  let lim := 2 ^ s.od .sliceKeyUseLimit sl
  if u < lim && decide (lim ≤ u + n) then s.startSweep sl 2 else s

/-- A version that reaches 2^63 starts a sweep with cause VERSION_HIGH and is logged; one that a RESTORE brings starts a sweep with
cause RESTORE (spec/04 R169). -/
def Part.versionCheck (s : Part) (sl v : Nat) (cause : Nat := 3) : Part :=
  if v < 2 ^ 63 then s
  else if cause = 3 then (s.startSweep sl 3).logEv 0x0D08 v 0 (some sl)
  else s.startSweep sl cause

end Sys2Proof.Machine
end

