-- ==== Sys2Proof/Machine/KeyCmds.lean ====
section
/-!
DEFINITION. The commands of the key store: generating, re-keying and importing slice key sets, wrapping keys, and the
loads of the key caches (spec/04 R146 to R157, R174, R175, R178, spec/16 R588).
-/

namespace Sys2Proof.Machine

/-! ## The derivation engine (spec/16 R588) -/

/-- A name of eight ASCII bytes. -/
def asciiBytes (t : String) : List Nat := t.toList.map Char.toNat

/-- A salt of 48 zero bytes. -/
def zeroSalt : List Nat := List.replicate 48 0

/-- The device secret as bytes. -/
def Part.deviceSecret (s : Part) : List Nat := toBytes 32 s.flash.deviceKey

/-- 64 bytes of HKDF-SHA-384. -/
def hkdf64 (salt ikm info : List Nat) : List Nat :=
  let prk := hmac salt ikm
  let t1 := hmac prk (info ++ [1])
  t1 ++ (hmac prk (t1 ++ info ++ [2])).take 16

/-- A P-384 private key of the device secret: 64 bytes of output by the method of extra random bits. -/
def Part.deviceScalar (s : Part) (info : List Nat) : Nat :=
  ofBytesBE (hkdf64 zeroSalt s.deviceSecret info) % (p384N - 1) + 1

/-- The part's agreement key. -/
def Part.agreementKey (s : Part) : Nat := s.deviceScalar (asciiBytes "GZ8-AGRE")

/-- AGREEMENT_PUBLIC: the agreement key's public point (spec/04 R155). -/
def Part.agreementPoint (s : Part) : Nat := ecBytes (ecMul 384 s.agreementKey (some p384G))

/-- A key of the agreement with a public point: none where the point fails its check (spec/04 R155, spec/11 R450). -/
def Part.agree (s : Part) (point : Nat) (info : List Nat) (n : Nat) : Option Nat :=
  (ecPoint point).map fun q => ofBytes (hkdf zeroSalt (ecdh s.agreementKey q) info n)

/-! ## Writes of values -/

/-- A write of `v`, `len` bytes long, to an entry that acts when written: checks 5 to 9 of spec/11 R439, PART_FAILED for a
function of a failed part (R458, log entry 24), then what it does. -/
def Part.written (s : Part) (w : Who) (e : Entry) (v len : Nat) (f : Part → Reply) : Reply :=
  match writeChecks e.info (s.roleOf w) v len true with
  | some c => s.refuse c
  | none => if s.od0 .partFailed = 1 && decide (0x2000 ≤ e.info.index) then s.refuse rPartFailed else f s

/-! ## Slice key sets (spec/04 R153 to R157, R175) -/

/-- A slice holds no live key set. -/
def Part.noKeys (s : Part) (sl : Nat) : Bool := !(s.keySet sl 0).live && !(s.keySet sl 1).live

/-- The conditions of GENERATE and of an import (spec/04 R153, R156). -/
def Part.keyRefusal (s : Part) (sl : Nat) : Option Nat :=
  if s.od .sliceState sl = 4 then some rDraining
  else if s.od .sliceState sl != 1 then some rState
  else if !s.noKeys sl then some rCondition
  else none

/-- A key set goes into slot 0, which becomes the active slot (spec/04 R153, R156). -/
def Part.fillSlot0 (s : Part) (sl : Nat) (k : Nat × Nat × Nat) : Part :=
  ((s.installSet sl 0 k).setOd .sliceKeyActive sl 0).setOd .sliceKeyUses sl 0

/-- A write of SLICE_KEY_COMMAND: 1 GENERATE by the custodian, 2 REKEY. -/
def Part.keyCommand (s : Part) (w : Who) (sl v : Nat) : Reply :=
  if v = 1 && s.roleOf w = roleOperator then s.refuse rRole else
  s.command w .sliceKeyCommand v false fun s =>
    if v = 1 then
      match s.keyRefusal sl with
      | some c => s.refuse c
      | none =>
        if !s.rngOk then s.refuse rRng else
        let d := s.drawSet 64
        (d.1.fillSlot0 sl d.2).ok
    else if s.od .sliceState sl = 4 then s.refuse rDraining
    else if s.od .sliceState sl = 0 then s.refuse rState
    else if s.od .rekeyState sl = 1 || s.sweepComing sl then s.refuse rBusy
    else if s.noKeys sl || s.od .sliceMigrationId sl != 0 then s.refuse rCondition
    else if !s.rngOk then s.refuse rRng
    else (s.startSweep sl 1).ok

/-- SLICE_KEY_GENERATE (spec/04 R153). -/
def execSliceKeyGenerate (w : Who) (sl : Slice) (s : State) : Host.Outcome State Fault Refusal :=
  s.run fun s => (s.keyCommand w sl 1).answer w

/-- SLICE_KEY_REKEY (spec/04 R174, R175, R178). -/
def execSliceKeyRekey (w : Who) (sl : Slice) (s : State) : Host.Outcome State Fault Refusal :=
  s.run fun s => (s.keyCommand w sl 2).answer w

/-- The key set of an import blob, or the abort code of a refused one (spec/04 R156, R157). -/
def Part.readImport (s : Part) (sl blob : Nat) : Nat × Option (Nat × Nat × Nat) :=
  let wk := s.keys.wraps.get OneKey.zero (bits blob 8 8)
  if bits blob 0 8 != 1 || bits blob 16 12 != sl then (rKey, none)
  else if !wk.live then (rWrap, none)
  else match kwpUnwrap wk.key (toBytes 104 (bits blob 64 832)) with
    | none => (rKey, none)
    | some b =>
      let k := (ofBytes (b.take 32), ofBytes ((b.drop 32).take 32), ofBytes ((b.drop 64).take 32))
      if b.length != 96 || k.1 = k.2.1 then (rKey, none) else (rOk, some k)

/-- A write of SLICE_KEY_IMPORT. Only the refusals of spec/04 R157 are counted, not one for the slice's state or its live key set (R156;
DESIGN CHOICE, log entry 206). -/
def Part.keyImport (s : Part) (w : Who) (sl blob len : Nat) : Reply :=
  s.written w .sliceKeyImport blob len fun s =>
    match s.keyRefusal sl with
    | some c => s.refuse c
    | none =>
      match s.readImport sl blob with
      | (_, some k) => (s.fillSlot0 sl k).ok
      | (c, none) => (s.count .keyImportRefused 0).refuse c

/-- SLICE_KEY_IMPORT (spec/04 R156, R157). -/
def execSliceKeyImport (w : Who) (sl : Slice) (blob : Nat) (s : State) : Host.Outcome State Fault Refusal :=
  s.run fun s => (s.keyImport w sl blob 112).answer w

/-! ## Wrapping keys (spec/04 R149, R155) -/

/-- A write of WRAP_PEER_PUBLIC. -/
def Part.wrapPoint (s : Part) (w : Who) (k point len : Nat) : Reply :=
  if k = 0 then s.refuse rNoEntry else
  s.written w .wrapPeerPublic point len fun s =>
    match s.agree point (asciiBytes "GZ8-WRAP" ++ [k]) 32 with
    | none => s.refuse rPoint
    | some key =>
      let s := { s with keys := { s.keys with wraps := s.keys.wraps.modify OneKey.zero k fun q =>
        ⟨true, if q.live then (q.gen + 1) % 256 else q.gen, key⟩ } }
      (s.setOd .wrapKeyState k 1).ok

/-- WRAP_PEER_PUBLIC_WRITE (spec/04 R155). -/
def execWrapPeerPublicWrite (w : Who) (k : Fin 17) (point : Nat) (s : State) : Host.Outcome State Fault Refusal :=
  s.run fun s => (s.wrapPoint w k point 97).answer w

/-- A write of WRAP_KEY_COMMAND: 1 DESTROY. -/
def Part.wrapCommand (s : Part) (w : Who) (k v : Nat) : Reply :=
  if k = 0 then s.refuse rNoEntry else
  s.command w .wrapKeyCommand v false fun s =>
    if !(s.keys.wraps.get OneKey.zero k).live then s.refuse rWrap else
    let s := { s with keys := { s.keys with wraps := s.keys.wraps.modify OneKey.zero k fun q => ⟨false, (q.gen + 1) % 256, 0⟩ } }
    (s.setOd .wrapKeyState k 0).ok

/-- WRAP_KEY_DESTROY (spec/04 R149). -/
def execWrapKeyDestroy (w : Who) (k : Fin 17) (s : State) : Host.Outcome State Fault Refusal :=
  s.run fun s => (s.wrapCommand w k 1).answer w

/-! ## The generator and the key caches (spec/04 R152, R154) -/

/-- RNG_HEALTH_FAIL (spec/04 R154). -/
def execRngHealthFail (s : State) : Host.Outcome State Fault Refusal := s.run fun s => s.setOd .rngHealth 0 1

/-- A pavilion's key cache has an entry again; the requests that waited for a key go on, oldest first (spec/04 R152). -/
def Part.cacheLoaded (s : Part) (p ix : Nat) : Part :=
  (s.keyLoaded p ix).onPav p fun v => { v with inbox := v.keyWaiting ++ v.inbox, keyWaiting := [] }

/-- PROM_KEY_LOAD (spec/01 R21, spec/04 R152): key material reaches a key cache. -/
def execPromKeyLoad (p : Pav) (s : State) : Host.Outcome State Fault Refusal :=
  s.run fun s =>
    match s.takeMsg p 12 with
    | none => s
    | some (m, s) => s.cacheLoaded p m.addr

/-- KEY_CACHE_RELOAD_DONE (spec/04 R152): the reload of the oldest invalid entry of a key cache has completed. -/
def execKeyCacheReloadDone (p : Pav) (s : State) : Host.Outcome State Fault Refusal :=
  s.run fun s =>
    match (s.pav p).keyInvalid with
    | [] => s
    | ix :: _ => s.cacheLoaded p ix

end Sys2Proof.Machine
end

