-- ==== Sys2Proof/Machine/Codec.lean ====
section
/-!
DEFINITION. The codec (spec/03): predictors, tokens, bit packing, codebooks and their checks, the decode of a sub-block
with its named faults, and the layout of a cask.
-/

namespace Sys2Proof.Machine

/-- All ones of a word. -/
def mask64 : Nat := 0xFFFFFFFFFFFFFFFF

/-! ## Predictors and residues (spec/03 R103 to R105) -/

/-- The prediction of word j from the words before it in its segment (newest first), and whether the residue mode is XOR
(0), SUB (1) or plain (2), with the fallbacks of spec/03 R104. -/
def predict (sel j : Nat) (prev : List Nat) : Nat × Nat :=
  let last := prev.getD 0 0
  let mode := sel % 2
  if sel = 6 then (0, 2)
  else if sel < 2 then (if j = 0 then (0, 2) else (last, mode))
  else if sel < 4 then
    (if j = 0 then (0, 2) else if j = 1 then (last, mode)
     else ((2 * last + 2 ^ 64 - prev.getD 1 0) % 2 ^ 64, mode))
  else (if j < 8 then (0, 2) else (prev.getD 7 0, mode))

/-- The residue of a word (spec/03 R105). -/
def residue (pm : Nat × Nat) (w : Nat) : Nat :=
  if pm.2 = 0 then w ^^^ pm.1
  else if pm.2 = 1 then
    let r := (w + 2 ^ 64 - pm.1) % 2 ^ 64
    ((2 * r) % 2 ^ 64) ^^^ (if r.testBit 63 then mask64 else 0)
  else w

/-- The word of a residue (spec/03 R105). -/
def unresidue (pm : Nat × Nat) (v : Nat) : Nat :=
  if pm.2 = 0 then v ^^^ pm.1
  else if pm.2 = 1 then (pm.1 + ((v / 2) ^^^ (if v % 2 = 1 then mask64 else 0))) % 2 ^ 64
  else v

/-! ## Codebooks (spec/03 R110 to R115) -/

/-- The code lengths of the 67 symbols. -/
abbrev Lengths := List Nat

/-- The lengths of an image (spec/03 R110). -/
def imageLengths (image : Nat) : Lengths := (List.range 67).map fun s => bits image (16 + 4 * s) 4

/-- The neutral codebook of slot 0 (spec/03 R115). -/
def neutralLengths : Lengths := (List.range 67).map fun s => if s = 0 then 2 else if s = 65 then 3 else if s = 66 then 5 else 7

/-- The RsvdZ fields of an image read 0 (spec/03 R110, spec/00 R4). -/
def imageStored (image : Nat) : Nat := setBits (setBits image 352 128 0) 288 48 0

/-- The image of the given lengths and expected ratio (spec/03 R110). -/
def makeImage (l : Lengths) (ratio : Nat) : Nat :=
  let low := 1 ||| (67 <<< 8) ||| (unchunks 4 l <<< 16) ||| (bits ratio 0 16 <<< 336)
  low ||| (crc32c 60 low <<< 480)

/-- The image of the neutral codebook, as slot 0 reads (spec/03 R110, R115); the spec states no EXPECTED_RATIO for it, here 0 (DESIGN CHOICE,
log entry 197). -/
def neutralImage : Nat := makeImage neutralLengths 0

/-- The first code of each length (spec/03 R112). -/
def firstCodes (l : Lengths) : List Nat :=
  ((List.range 15).foldl (fun (a : List Nat × Nat) k =>
    let c := (a.2 + (if k = 0 then 0 else l.count k)) * 2
    (a.1 ++ [c], c)) ([0], 0)).1

/-- The canonical code of a symbol (spec/03 R112). -/
def codeOf (l : Lengths) (s : Nat) : Nat :=
  let n := l.getD s 0
  (firstCodes l).getD n 0 + (l.take s).count n

/-- The codes of all 67 symbols with their lengths. -/
def codeTable (l : Lengths) : List (Nat × Nat) := (List.range 67).map fun s => (l.getD s 0, codeOf l s)

/-- The Kraft sum in units of 2^-15. -/
def kraft (l : Lengths) : Nat := (l.map fun n => if n = 0 then 0 else 2 ^ (15 - n)).sum

/-- The reasons of spec/03 R113 that an image itself gives, in order; 0 for none. -/
def imageReason (image : Nat) : Nat :=
  if bits image 0 8 != 1 || bits image 8 8 != 67 then 1
  else if crc32c 60 image != bits image 480 32 then 2
  else if bits image 284 4 != 0 then 3
  else if (List.range 65).any fun s => bits image (16 + 4 * s) 4 == 0 then 4
  else if 2 ^ 15 < kraft (imageLengths image) then 5
  else 0

/-! ## Tokens (spec/03 R106 to R109) -/

/-- A stream of bits, first bit first. -/
abbrev Stream := List Bool

/-- A code, most significant bit first (spec/03 R109). -/
def putCode (n c : Nat) : Stream := (List.range n).map fun k => c.testBit (n - 1 - k)
/-- A fixed-width field, least significant bit first (spec/03 R109). -/
def putField (n v : Nat) : Stream := (List.range n).map fun k => v.testBit k

/-- A token: its symbol and its operand's width and value. -/
structure Token where
  sym : Nat
  width : Nat
  value : Nat
  deriving DecidableEq, Repr

/-- The bits of a token. -/
def Token.stream (codes : List (Nat × Nat)) (t : Token) : Stream :=
  let c := codes.getD t.sym (0, 0)
  putCode c.1 c.2 ++ putField t.width t.value

/-- The bits a token costs. -/
def Token.cost (l : Lengths) (t : Token) : Nat := l.getD t.sym 0 + t.width

/-- Significant bits of a residue. -/
def sigBits (v : Nat) : Nat := if v = 0 then 0 else Nat.log2 v + 1

/-- The residues of a segment under a selector. -/
def residues (sel : Nat) : Nat → List Nat → List Nat → List Nat
  | _, _, [] => []
  | j, prev, w :: r => residue (predict sel j prev) w :: residues sel (j + 1) (w :: prev) r

/-- The tokens of the rest of a segment (spec/03 R107): `fuel` words at most, at word j, with the words before it newest
first. -/
def tokens (l : Lengths) : Nat → Nat → List Nat → List Nat → List Nat → List Token
  | 0, _, _, _, _ => []
  | fuel + 1, j, prev, words, res =>
    match words, res with
    | w :: ws, v :: vs =>
      if v = 0 then
        let n := min 33 (res.takeWhile (· == 0)).length
        if 2 ≤ n && l.getD 65 0 != 0 && decide (l.getD 65 0 + 5 < n * l.getD 0 0) then
          ⟨65, 5, n - 2⟩ :: tokens l fuel (j + n) ((words.take n).reverse ++ prev) (words.drop n) (res.drop n)
        else ⟨0, 0, 0⟩ :: tokens l fuel (j + 1) (w :: prev) ws vs
      else
        let k := sigBits v
        let lit : Token := ⟨k, k - 1, v - 2 ^ (k - 1)⟩
        let t : Token :=
          match (prev.take 31).findIdx? (· == w) with
          | some d => if l.getD 66 0 != 0 && decide (l.getD 66 0 + 5 < lit.cost l) then ⟨66, 5, d + 1⟩ else lit
          | none => lit
        t :: tokens l fuel (j + 1) (w :: prev) ws vs
    | _, _ => []

/-- The tokens of a segment under a selector. -/
def segTokens (l : Lengths) (sel : Nat) (words : List Nat) : List Token :=
  tokens l 32 0 [] words (residues sel 0 [] words)

/-- The cost of a segment's coding, selector included. -/
def segCost (l : Lengths) (ts : List Token) : Nat := 3 + (ts.map fun t => t.cost l).sum

/-- The coding of a segment: the cheapest selector, the lowest on a tie (spec/03 R108). -/
def codeSegment (l : Lengths) (words : List Nat) : Nat × List Token :=
  ((List.range 7).foldl (fun (b : Option (Nat × Nat × List Token)) sel =>
    let ts := segTokens l sel words
    let c := segCost l ts
    match b with
    | some (c', _, _) => if c < c' then some (c, sel, ts) else b
    | none => some (c, sel, ts)) none).map (fun q => (q.2.1, q.2.2)) |>.getD (0, [])

/-- The bytes of a stream, bit 0 of the first byte first, padded with zero bits; with their number. -/
def packStream (s : Stream) : Nat × Nat :=
  ((s.length + 7) / 8, unchunks 1 (s.map b2n))

/-- The words of a page: 512 of 64 bits (spec/03 R101). -/
def pageWords (page : Nat) : List Nat := chunks 64 512 page

/-- A coded page: per sub-block its bytes' number and value, the bits of all four, and the count of each symbol. -/
structure Coded where
  subs   : List (Nat × Nat)
  bitsN  : Nat
  counts : List Nat
  deriving DecidableEq, Repr

/-- Code a page (spec/03 R101 to R109). -/
def codePage (l : Lengths) (page : Nat) : Coded :=
  let codes := codeTable l
  let segs := (List.range 16).map fun g => codeSegment l ((pageWords page).drop (32 * g) |>.take 32)
  let stream (q : Nat × List Token) : Stream := putField 3 q.1 ++ q.2.flatMap (Token.stream codes)
  let subs := (List.range 4).map fun b => packStream (((segs.drop (4 * b)).take 4).flatMap stream)
  let all := segs.flatMap (·.2)
  { subs := subs
    bitsN := (segs.map fun q => segCost l q.2).sum
    counts := (List.range 67).map fun s => (all.filter fun t => t.sym == s).length }

/-! ## Decoding (spec/03 R137 to R139) -/

/-- The named faults of the decoder, by log code (spec/03 R138), with the sub-block and the bit offset. -/
structure CodecFault where
  code : Nat
  sub  : Nat
  at_  : Nat
  deriving DecidableEq, Repr

/-- ILLEGAL_CODE. -/
def faultIllegal : Nat := 0x0C01
/-- REF_OUTSIDE_SEGMENT. -/
def faultReference : Nat := 0x0C02
/-- LENGTH_OVERRUN. -/
def faultLength : Nat := 0x0C03
/-- OUTPUT_OVERRUN. -/
def faultOutput : Nat := 0x0C04
/-- CRC_MISMATCH. -/
def faultCrc : Nat := 0x0C05

/-- A reader in a sub-block's bits: what is left and how many were read. -/
structure Reader where
  left : Stream
  pos  : Nat

/-- Read a field of n bits, least significant first; past the end a fault, with the bits of the sub-block read by then (log
entry 195). -/
def Reader.field (n : Nat) (r : Reader) : Except (Nat × Nat) (Nat × Reader) :=
  if r.left.length < n then .error (faultLength, r.pos + r.left.length)
  else .ok (unchunks 1 ((r.left.take n).map b2n), ⟨r.left.drop n, r.pos + n⟩)

/-- Read one code bit by bit: ILLEGAL_CODE at the first bit after which no code is or begins with what was read (spec/03
R139). A fault comes with the bits of the sub-block read by then. -/
def Reader.code (codes : List (Nat × Nat)) : Nat → Nat → Nat → Reader → Except (Nat × Nat) (Nat × Reader)
  | 0, _, _, r => .error (faultIllegal, r.pos)
  | fuel + 1, n, c, r =>
    match r.left with
    | [] => .error (faultLength, r.pos)
    | b :: rest =>
      let n := n + 1
      let c := 2 * c + b2n b
      match codes.findIdx? (fun q => q == (n, c)) with
      | some s => .ok (s, ⟨rest, r.pos + 1⟩)
      | none =>
        if codes.any (fun q => decide (n < q.1) && q.2 / 2 ^ (q.1 - n) == c) then
          Reader.code codes fuel n c ⟨rest, r.pos + 1⟩
        else .error (faultIllegal, r.pos + 1)

/-- Words that follow with residue 0. -/
def zeroRun (sel : Nat) : Nat → Nat → List Nat → List Nat
  | 0, _, prev => prev
  | n + 1, j, prev => zeroRun sel n (j + 1) (unresidue (predict sel j prev) 0 :: prev)

/-- Decode a segment's tokens: `fuel` tokens at most, words newest first. A fault carries the bit offset: the bits that had been read when
it was found (spec/03 R138, log entry 195). -/
def decodeSegment (codes : List (Nat × Nat)) (sel : Nat) : Nat → List Nat → Reader → Except (Nat × Nat) (List Nat × Reader)
  | 0, prev, r => .ok (prev, r)
  | fuel + 1, prev, r =>
    let j := prev.length
    if 32 ≤ j then .ok (prev, r) else
    match Reader.code codes 16 0 0 r with
    | .error e => .error e
    | .ok (sym, r1) =>
      if sym = 0 then decodeSegment codes sel fuel (unresidue (predict sel j prev) 0 :: prev) r1
      else if sym ≤ 64 then
        match r1.field (sym - 1) with
        | .error e => .error e
        | .ok (x, r2) => decodeSegment codes sel fuel (unresidue (predict sel j prev) (2 ^ (sym - 1) + x) :: prev) r2
      else if sym = 65 then
        match r1.field 5 with
        | .error e => .error e
        | .ok (x, r2) =>
          if 32 < j + x + 2 then .error (faultReference, r2.pos)
          else decodeSegment codes sel fuel (zeroRun sel (x + 2) j prev) r2
      else
        match r1.field 5 with
        | .error e => .error e
        | .ok (d, r2) =>
          if d = 0 then .error (faultIllegal, r2.pos)
          else if j < d then .error (faultReference, r2.pos)
          else decodeSegment codes sel fuel (prev.getD (d - 1) 0 :: prev) r2

/-- Decode the segments of a sub-block up to the one that holds word `last`, as the pseudocode of spec/03 R137 does; the words come
oldest first. DESIGN CHOICE (log entry 194): the rule's text and its worked example stop a warm read at the line's last word; here
a fault behind it in the same segment faults the read. -/
def decodeSegments (codes : List (Nat × Nat)) (last : Nat) : Nat → Nat → List Nat → Reader → Except (Nat × Nat) (List Nat × Reader)
  | 0, _, out, r => .ok (out, r)
  | n + 1, g, out, r =>
    if last < 32 * g then .ok (out, r) else
    match r.field 3 with
    | .error e => .error e
    | .ok (sel, r1) =>
      if sel = 7 then .error (faultIllegal, r1.pos) else
      match decodeSegment codes sel 32 [] r1 with
      | .error e => .error e
      | .ok (ws, r2) => decodeSegments codes last n (g + 1) (out ++ ws.reverse) r2

/-- Decode one sub-block of `len` bytes up to word `last` (spec/03 R137): its words, or the first fault with its bit
offset. -/
def decodeSub (codes : List (Nat × Nat)) (len x last : Nat) : Except (Nat × Nat) (List Nat) :=
  let stream : Stream := (chunks 1 (8 * len) x).map (· == 1)
  match decodeSegments codes last 4 0 [] ⟨stream, 0⟩ with
  | .error e => .error e
  | .ok (ws, r) =>
    if ws.length < 128 then .ok ws
    else if 8 ≤ r.left.length then .error (faultOutput, r.pos)
    else if r.left.any id then .error (faultIllegal, r.pos + r.left.findIdx id + 1)
    else .ok ws

/-! ## Casks (spec/03 R126 to R134) -/

/-- A page coded for storage: slot class, clear word without check bits, sealed header, payload with pad bytes. -/
structure Cask where
  cls     : Nat
  clear   : ClearWord
  header  : Nat
  payload : Nat
  deriving DecidableEq, Repr

/-- A cask as one number. -/
def Cask.pack (k : Cask) : Nat := k.cls ||| (k.clear.encode <<< 8) ||| (k.header <<< 72) ||| (k.payload <<< 264)

/-- The cask of a number. -/
def Cask.unpack (x : Nat) : Cask := ⟨bits x 0 8, ClearWord.decode (bits x 8 64), bits x 72 192, x >>> 264⟩

/-- Form the cask of a page (spec/03 R129, R131, R132): `strength` is SLICE_PAGE_CODE, 0 for auto-fill. -/
def makeCask (l : Lengths) (book gen strength page : Nat) : Cask :=
  let c := codePage l page
  let lens := c.subs.map (·.1)
  let len := lens.sum
  let payload := (c.subs.foldl (fun (a : Nat × Nat) q => (a.1 ||| (q.2 <<< (8 * a.2)), a.2 + q.1)) (0, 0)).1
  let p8 := round8 len
  let need := if strength = 0 then 8 else strength
  let crc := crc32c 4096 page
  match (List.range 7).find? (fun k => decide (40 + p8 + 3 * need ≤ (k + 1) * 512)) with
  | some k =>
    let t := if strength = 0 then min 128 (((k + 1) * 512 - 40 - p8) / 3) else strength
    ⟨k, ⟨1, false, strength == 0, t, len, book, gen⟩, sealedHeader crc lens, payload⟩
  | none =>
    ⟨7, ⟨1, true, strength == 0, (if strength = 0 then 72 else min strength 72), 4096, book, gen⟩,
     sealedHeader crc [1024, 1024, 1024, 1024], page⟩

/-- Where the parts of a cask lie in the bytes that the page code covers (spec/03 R126): clear word 0 to 7, sealed header
8 to 31, payload and pad from 32, tag field after them. The same order serves a raw cask, whose header, payload and tag
lie in slot and trailer (R132). -/
def coveredLen (len : Nat) : Nat := 40 + round8 len

/-- The payload length fits the slot class of the entry (spec/05 R198). A class-7 cask of another PAYLOAD_LEN than 4,096 has a clear
word that does not fit, and is uncorrectable; it never comes to LENGTH_OVERRUN of spec/03 R138 (DESIGN CHOICE, log entry 194). -/
def lenFits (cls : Nat) (w : ClearWord) : Bool :=
  if cls = 7 then w.raw && w.len == 4096
  else decide (1 ≤ w.len) && decide (coveredLen w.len + 3 * w.t ≤ (cls + 1) * 512)

/-- The clear word of a cask after its checks (spec/05 R198); none makes the cask uncorrectable. -/
def clearWordOf (cls x : Nat) : Option ClearWord :=
  match cwCorrect (x % 2 ^ 64) with
  | none => none
  | some v =>
    let w := ClearWord.decode v
    if w.format = 1 && decide (8 ≤ w.t) && decide (w.t ≤ 128) && lenFits cls w then some w else none

/-- Put a cask's bytes together: covered bytes and check symbols, by slot (and trailer) bytes. -/
def caskBytes (cls len t covered : Nat) : Nat :=
  let n := coveredLen len
  let syms := pageChecks t (pageSymbols n covered)
  let checks := unchunks 12 syms
  if cls = 7 then
    let payload := bits covered (8 * 32) (8 * 4096)
    let trailer := bits covered 0 256 ||| (bits covered (8 * 4128) 64 <<< 256) ||| (checks <<< 320)
    payload ||| (trailer <<< (8 * 4096))
  else covered ||| (checks <<< (8 * n))

/-- The covered bytes and check symbols of the bytes of a slot (and trailer). -/
def caskParts (cls len t x : Nat) : Nat × List Nat :=
  let n := coveredLen len
  if cls = 7 then
    let trailer := x >>> (8 * 4096)
    (bits trailer 0 256 ||| (bits x 0 (8 * 4096) <<< 256) ||| (bits trailer 256 64 <<< (8 * 4128)),
     chunks 12 (2 * t) (trailer >>> 320))
  else (bits x 0 (8 * n), chunks 12 (2 * t) (x >>> (8 * n)))

/-- The bit of a slot's (and trailer's) bytes where bit k of the covered bytes lies. -/
def coveredAt (cls k : Nat) : Nat :=
  if cls = 7 then (if k < 256 then 8 * 4096 + k else if k < 8 * 4128 then k - 256 else k)
  else k

/-- The bit of a slot's (and trailer's) bytes where bit k of the check symbols lies. -/
def checkAt (cls len k : Nat) : Nat := if cls = 7 then 8 * 4096 + 320 + k else 8 * coveredLen len + k

/-- The symbols of a codeword with at least one bit in a bad burst (spec/05 R200); bursts are numbered in slot (and
trailer) order, 512 bits each. -/
def erasures (cls len t : Nat) (bad : List Nat) : List Nat :=
  let n := 8 * coveredLen len
  let nd := (n + 11) / 12
  let hit (p : Nat) : Bool := bad.contains (p / 512)
  ((List.range nd).filter fun i => (List.range 12).any fun b => decide (12 * i + b < n) && hit (coveredAt cls (12 * i + b))) ++
  (((List.range (2 * t)).filter fun i => (List.range 12).any fun b => hit (checkAt cls len (12 * i + b))).map (nd + ·))

/-- What the page code makes of a cask's bytes (spec/05 R200, R201): the bytes with every correction and the number of
symbols corrected. -/
def caskRestore (cls : Nat) (w : ClearWord) (x : Nat) (bad : List Nat) : Option (Nat × Nat) :=
  let n := coveredLen w.len
  let p := caskParts cls w.len w.t x
  let data := pageSymbols n p.1
  match pageDecode w.t (data ++ p.2) (erasures cls w.len w.t bad) with
  | none => none
  | some (word, k) =>
    let covered := unchunks 12 (word.take data.length) % 2 ^ (8 * n)
    some (caskBytes cls w.len w.t covered, k)

/-- The checks against the header (spec/03 R138, R139); a raw cask needs no codebook slot. Sub-block and bit offset of their faults,
which concern no sub-block, are 0 (DESIGN CHOICE, log entry 194). -/
def headerFault (w : ClearWord) (header : Nat) (bookState bookGen pad : Nat) : Option CodecFault :=
  let lens := headerLens header
  if w.format != 1 then some ⟨faultIllegal, 0, 0⟩
  else if w.raw then
    (if w.len != 4096 || lens.any (· != 1024) then some ⟨faultLength, 0, 0⟩ else none)
  else if bookState = 0 || bookGen != w.gen then some ⟨faultIllegal, 0, 0⟩
  else if lens.sum != w.len then some ⟨faultLength, 0, 0⟩
  else if pad != 0 then some ⟨faultIllegal, 0, 0⟩
  else none

/-- Decode sub-block b of a cask's payload up to word `last`. -/
def decodeAt (codes : List (Nat × Nat)) (w : ClearWord) (header payload b last : Nat) : Except CodecFault (List Nat) :=
  let lens := headerLens header
  let off := (lens.take b).sum
  if w.raw then .ok ((chunks 64 128 (payload >>> (8 * 1024 * b))))
  else match decodeSub codes (lens.getD b 0) (payload >>> (8 * off)) last with
    | .ok ws => .ok ws
    | .error e => .error ⟨e.1, b, e.2⟩

/-- A full decode (spec/03 R137): the page, or the first fault in decode order, CRC_MISMATCH last (R139). A raw cask has no check
of its CRC (R132). -/
def decodePage (codes : List (Nat × Nat)) (w : ClearWord) (header payload : Nat) : Except CodecFault Nat :=
  let subs := (List.range 4).map fun b => decodeAt codes w header payload b 127
  match subs.findSome? (fun r => match r with | .error f => some f | .ok _ => none) with
  | some f => .error f
  | none =>
    let words := subs.flatMap fun r => match r with | .ok ws => ws | .error _ => []
    let page := unchunks 64 words
    if !w.raw && crc32c 4096 page != bits header 160 32 then .error ⟨faultCrc, 0xFF, 0xFFFFFFFF⟩ else .ok page

/-- Decode one line of a page (spec/03 R137): words 8n to 8n + 7 of the page. -/
def decodeLine (codes : List (Nat × Nat)) (w : ClearWord) (header payload line : Nat) : Except CodecFault Nat :=
  let b := line / 16
  let k := line % 16
  match decodeAt codes w header payload b (8 * k + 7) with
  | .error f => .error f
  | .ok ws => .ok (unchunks 64 ((ws.drop (8 * k)).take 8))

end Sys2Proof.Machine
end

