-- ==== Sys2Proof/Machine/Store.lean ====
section
/-!
DEFINITION. What a pavilion stores: its geometry and bursts, the ownership table and the allocator (spec/02 R65 to R69,
R84 to R90), the cellar book and its mirror (R55 to R64), lines and casks written and freed (spec/04, spec/05), poison,
heat and the capacity alarms.
-/

namespace Sys2Proof.Machine

/-! ## Geometry, ranks and bursts (spec/06) -/

/-- The geometry of a pavilion. -/
def Part.geom (s : Part) (p : Nat) : Geometry := geometry (s.od .dramDevice p) (s.od .dramStack p)

/-- A layer of a pavilion is lost (spec/15 R563), or out of service since its training or fill (spec/06 R260). -/
def Part.layerLost (s : Part) (p k : Nat) : Bool :=
  s.flash.lostLayers.contains (p * 4 + k) || s.boot.layersOut.contains (p * 4 + k)

/-- Layers of a pavilion, the lost ones and those out of service among them (spec/06 R226). -/
def Part.layersAll (s : Part) (p : Nat) : Nat :=
  s.od .dramLayers p + ((List.range 4).filter (s.layerLost p)).length

/-- The place of a burst of a pavilion (spec/06 R227). -/
def Part.placeOf (s : Part) (p x : Nat) : Place := (s.geom p).place x

/-- The channel of a place. -/
def Place.chan (pl : Place) (p : Nat) : Nat := p * 8 + pl.local_

/-- The rank that serves a layer on a channel (spec/06 R226). -/
def Part.rankOf (s : Part) (c layer : Nat) : Nat := (s.chan c).rankMap.getD layer layer

/-- The rank that serves a burst: during a rebuild the failed rank from the watermark up, whose own extent no request reaches before it is
copied (spec/06 R257). -/
def Part.rankAt (s : Part) (c layer x : Nat) : Nat :=
  let r := s.rankOf c layer
  match (s.chan c).rebuild with
  | some b => if r = b.spare && decide (b.watermark ≤ x / extBursts) then b.failed else r
  | none => r

/-- RANK_STATE of a rank. -/
def Part.rankState (s : Part) (c r : Nat) : Nat := s.od .rankState (c * 4 + r)

/-- The burst lies on a LOST rank (spec/06 R259). -/
def Part.burstLost (s : Part) (p x : Nat) : Bool :=
  let pl := s.placeOf p x
  let c := pl.chan p
  s.rankState c (s.rankAt c pl.layer x) == 6

/-- The burst address of a burst of a pavilion (spec/05 R210). -/
def Part.addressOf (s : Part) (p x : Nat) : Nat :=
  let pl := s.placeOf p x
  let c := pl.chan p
  burstAddress c pl.sub (s.rankAt c pl.layer x) pl.group pl.bank pl.row pl.column

/-- The newest write of a burst that waits in its channel's write queue or is withheld from it (spec/01 R35: it leaves when its
DRAM write is issued); a withheld one is older. -/
def Part.queued (s : Part) (p x : Nat) : Option Nat :=
  let v := s.chan ((s.placeOf p x).chan p)
  ((v.withheld ++ v.queue).filter fun q => q.write && q.burst == x).getLast?.map (·.value)

/-- What DRAM holds at a burst; a LOST rank answers nothing, which reads uncorrectable (spec/06 R259). -/
def Part.dramAt (s : Part) (p x : Nat) : Nat := if s.burstLost p x then 0 else (s.pav p).dram.get zeroBurst x

/-- A burst as a requester finds it: in the write queue, else in DRAM. -/
def Part.burstNow (s : Part) (p x : Nat) : Nat := (s.queued p x).getD (s.dramAt p x)

/-- Requester identities beside the slices (spec/06 R242). -/
def byMigration : Nat := 4096
/-- The scrubber and repairs. -/
def byScrub : Nat := 4097
/-- Codec streams. -/
def byCodec : Nat := 4098
/-- The gatehouse. -/
def bySystem : Nat := 4099

/-- Owner codes of queue entries (spec/07 R271): 0 open, 1 to 15 a guaranteed class. -/
def ownOpen : Nat := 0
/-- SYSTEM. -/
def ownSystem : Nat := 16
/-- MIGRATION. -/
def ownMigration : Nat := 17
/-- CODEC. -/
def ownCodec : Nat := 18
/-- SCRUB. -/
def ownScrub : Nat := 19
/-- A confirming read, which goes in a scrub slot (spec/06 R252). -/
def ownConfirm : Nat := 20

/-- The meter of a slice on a pavilion in a direction (spec/07 R279): the key of its rate in the vintage. -/
def rateKey (p sl dir : Nat) : Nat := (p * 4096 + sl) * 2 + dir

/-- The class of the bursts of a request (spec/07 R280): the slice's guaranteed class while its meter holds `n` tokens,
which it spends; else open. -/
def Part.classFor (s : Part) (p sl dir n : Nat) : Nat × Part :=
  let k := s.od .sliceServiceClass sl
  let t := (s.pav p).tokens.get 0 (sl * 2 + dir)
  if k != 0 && s.vint.inForce.rates.get 0 (rateKey p sl dir) != 0 && decide (n ≤ t) then
    (k, s.onPav p fun v => { v with tokens := v.tokens.set 0 (sl * 2 + dir) (t - n) })
  else (ownOpen, s)

/-- A queue entry for a burst (spec/06 R230, R231): with `cask` of a cask of a codec stream or a request, with `inl` of a burst that
carries the TAG-INLINE code. -/
def Part.qEntry (s : Part) (p x : Nat) (write : Bool) (who label sl lpage task value : Nat) (cask : Bool := false) (inl : Bool := false) : QEnt :=
  let pl := s.placeOf p x
  let open_ := if who < 4096 then cask || s.od .slicePagePolicy who == 0 else who == byCodec
  { sub := pl.sub, group := pl.group, bank := s.rankAt (pl.chan p) pl.layer x * 4 + pl.bank, row := pl.row, write := write
    owner := who, label := label, hint := open_, slice := sl, lpage := lpage, burst := x, task := task, value := value
    waits := 0, cid := pl.column % 16, inl := inl, stale := false, line := false }

/-- Enter a write in its channel's write queue (spec/01 R34). A write to a LOST rank is discarded (spec/06 R259). A repair
of the burst and a confirming read of it are given up (spec/05 R195, spec/06). -/
def Part.writeBurst (s : Part) (p x value who label sl lpage : Nat) (cask : Bool := false) (inl : Bool := false) : Part :=
  if s.burstLost p x then s else
  let pl := s.placeOf p x
  let c := pl.chan p
  let mine (q : QEnt) : Bool := q.burst == x && q.label == ownConfirm
  let gone := (((s.chan c).suspects ++ (s.chan c).inflight).filter mine).map fun q => q.bank / 4
  let s := iter gone s fun s r => s.count .ueTransient (c * 4 + r)
  let q := s.qEntry p x true who label sl lpage 0 value cask inl
  s.onChan c fun v => { v with
    queue := v.queue ++ [q]
    repairQ := v.repairQ.filter fun r => r.burst != x
    inflight := v.inflight.filter fun r => !mine r
    suspects := v.suspects.filter fun r => r.burst != x }

/-- Queue the read of a burst for a task. The queues of a channel take what comes; the slot rule offers no more of a partition than its
entries (spec/06 R230, spec/07 R282, log entry 214). -/
def Part.readBurst (s : Part) (p x who label sl lpage task : Nat) (cask : Bool := false) : Part :=
  s.onChan ((s.placeOf p x).chan p) fun v => { v with queue := v.queue ++ [s.qEntry p x false who label sl lpage task 0 cask] }

/-! ## Keys of pages, lines and casks (spec/04) -/

/-- The tag of a line's ciphertext (spec/04 R160). -/
def lineTag (k : KeySet) (version sl number cipher : Nat) : Nat :=
  ofBytes ((cmac k.mac (toBytes 16 (tagHeader version sl 1 number) ++ toBytes 64 cipher)).take 7)

/-- The ciphertext of a line (spec/04 R159). -/
def lineCipher (k : KeySet) (sl number plain : Nat) : Nat :=
  ofBytes (xtsEncrypt k.data k.tweak (tweak sl 1 number) (toBytes 64 plain))

/-- The plaintext of a line. -/
def linePlain (k : KeySet) (sl number cipher : Nat) : Nat :=
  ofBytes (xtsDecrypt k.data k.tweak (tweak sl 1 number) (toBytes 64 cipher))

/-- The slice's hot lines carry the TAG-INLINE code (spec/05 R186). -/
def Part.inline (s : Part) (sl : Nat) : Bool := s.od .sliceLineMode sl == 1

/-- Apply the line code of a slice's hot lines, or SDDC. -/
def checkBurst (inline : Bool) (x : Nat) : LineCheck := if inline then inlineCheck x else sddcCheck x

/-- A line's version, tag and META: from the tag region, or for TAG-INLINE from the burst's sideband (spec/04 R162,
R163). -/
def lineEntry (inline : Bool) (e : TagEnt) (burst : Nat) : TagEnt :=
  if inline then ⟨e.version, bits (sidebandOf burst) 8 56, bits (sidebandOf burst) 0 8⟩ else e

/-- The ownership entry of an extent: FREE when unlisted, RETIRED in a lost layer (spec/15 R563). -/
def Part.ownOf (s : Part) (p ext : Nat) : Own :=
  let o := (s.pav p).own.get Own.free ext
  if o.kind = kindFree && s.layerLost p (ext / (s.geom p).layerExts) then { o with kind := kindRetired } else o

/-- Write both copies of an ownership entry (spec/05 R211). -/
def Part.setOwn (s : Part) (p ext : Nat) (o : Own) : Part :=
  s.onPav p fun v => { v with own := v.own.set Own.free ext o, own2 := v.own2.set Own.free ext o }

/-- The burst that holds a line's tag-region entry (spec/02 R68, spec/04 R162, R163). -/
def Part.tagBurst (s : Part) (p ext line : Nat) : Nat :=
  let o := s.ownOf p ext
  let inl := s.inline o.owner
  o.tagExtent * extBursts + o.tagBlock * (if inl then 4096 else 8192) + line / (if inl then 8 else 4)

/-- The burst of a pavilion's extents that holds a cellar-book line, of the home or the mirror copy (spec/02 R58, R59). -/
def Part.cellarBurst (s : Part) (p sl lpage : Nat) (home : Bool) : Option Nat :=
  let line := lpage % 262144 / 4
  ((s.pav p).blocks.get [] ((sl * 65536 + lpage / 262144) * 2 + b2n (!home)))[line / extBursts]?.map fun e => e * extBursts + line % extBursts

/-- A line of the cellar book or the tag region changes: its write enters the channel write queue, unless one waits there, with which it
merges (spec/02 R60, spec/04 R166). It is charged to the slice. -/
def Part.putOwnLine (s : Part) (p x who sl lpage : Nat) : Part :=
  let c := (s.placeOf p x).chan p
  if s.burstLost p x || (s.chan c).queue.any fun q => q.write && q.burst == x then s else
  let k := if who < 4096 then s.classFor p who 1 1 else (if who = byMigration then ownMigration else ownSystem, s)
  k.2.onChan c fun v => { v with
    queue := v.queue ++ [{ s.qEntry p x true who k.1 sl lpage 0 0 with line := true }]
    repairQ := v.repairQ.filter fun r => r.burst != x }

/-- The tag-region entry of a line's burst. -/
def Part.tagEnt (s : Part) (p x : Nat) : TagEnt := (s.pav p).tags.get TagEnt.zero x

/-- The entry of a line as stored now. -/
def Part.lineEnt (s : Part) (p sl x : Nat) : TagEnt := lineEntry (s.inline sl) (s.tagEnt p x) (s.burstNow p x)

/-- Write the entry of a line (spec/04 R166). -/
def Part.setTag (s : Part) (p x : Nat) (e : TagEnt) : Part :=
  let o := s.ownOf p (x / extBursts)
  (s.onPav p fun v => { v with tags := v.tags.set TagEnt.zero x e }).putOwnLine p (s.tagBurst p (x / extBursts) (x % extBursts)) o.owner o.owner 0

/-- SLICE_LINES_POISONED follows a line's META (spec/04 R173). -/
def Part.linePoisonCount (s : Part) (sl old new : Nat) : Part :=
  s.modOd .sliceLinesPoisoned sl fun n => n + b2n (metaPoisoned new) - b2n (metaPoisoned old)

/-- Enter a line's ciphertext, tag and META in the write queue and its tag-region entry. -/
def Part.putLine (s : Part) (p sl lpage x cipher version tag mt old who label : Nat) : Part :=
  let s := s.linePoisonCount sl old mt
  if s.inline sl then
    (s.writeBurst p x (inlineEncode cipher ((tag <<< 8) ||| mt)) who label sl lpage false true).setTag p x ⟨version, 0, 0⟩
  else (s.writeBurst p x (sddcEncode cipher) who label sl lpage).setTag p x ⟨version, tag, mt⟩

/-- Store a line in a hot page (spec/01 R34, spec/04 R158 to R168): encrypted, tagged, coded, entered in the write
queue. `old` is the META it replaces, `cause` that of a sweep which the version starts (R169). -/
def Part.storeLine (s : Part) (p sl lpage line loc slot plain version mt old who label : Nat) (cause : Nat := 3) : Part :=
  let k := s.keySet sl slot
  let n := lineNumber lpage line
  let c := lineCipher k sl n plain
  let s := s.putLine p sl lpage (burstOf loc + line) c version (lineTag k version sl n c) mt old who label
  (s.keyUse sl slot 1).versionCheck sl version cause

/-- Store all 64 lines of a page in a frame: the plain page, one version, and each line's META. -/
def Part.storePage (s : Part) (p sl lpage loc slot page version : Nat) (mt : Nat → Nat) (who label : Nat) (cause : Nat := 3) : Part :=
  iter (List.range 64) s fun s n =>
    s.storeLine p sl lpage n loc slot (bits page (512 * n) 512) version (mt n) 0 who label cause

/-! ## Ownership (spec/02 R65, R66) -/

/-- The lowest key from `k` up to but not `hi` that a table does not list. -/
def sparseGap {α : Type} (hi : Nat) : Sparse α → Nat → Option Nat
  | [], k => if k < hi then some k else none
  | (j, _) :: r, k =>
    if j < k then sparseGap hi r k
    else if j = k then sparseGap hi r (k + 1)
    else if k < hi then some k else none

/-- The ownership entries of a pavilion whose KIND is not FREE. -/
def Part.taken (s : Part) (p : Nat) : Sparse Own := (s.pav p).own.filter fun e => e.2.kind != kindFree

/-- The lowest FREE extent of a pavilion in its usable layers (log entry 20). -/
def Part.freeExt (s : Part) (p : Nat) : Option Nat :=
  let le := (s.geom p).layerExts
  (List.range (s.layersAll p)).findSome? fun k =>
    if s.layerLost p k then none else sparseGap ((k + 1) * le) (s.taken p) (k * le)

/-- FREE extents of a pavilion (CAP_FREE). -/
def Part.freeCount (s : Part) (p : Nat) : Nat :=
  let le := (s.geom p).layerExts
  ((List.range (s.layersAll p)).map fun k =>
    if s.layerLost p k then 0 else le - ((s.taken p).range (k * le) ((k + 1) * le)).length).sum

/-- Extents of a kind. -/
def Part.kindCount (s : Part) (p kind : Nat) : Nat := ((s.pav p).own.filter fun e => e.2.kind == kind).length

/-! ## Grants, plots and the commons (spec/02 R84 to R88) -/

/-- A region with this placement has a plot share on a pavilion: its home, or the destination of its move (spec/15
R566). -/
def placeOn (v p : Nat) : Bool := placeValid v && (placeHome v == p || (placeMoving v && placeDest v == p))

/-- Granted extents of a slice in the regions homed on a pavilion: E of spec/02 R84. -/
def Part.homedExts (s : Part) (sl p : Nat) : Nat :=
  ((s.slice sl).grants.map fun e => if placeOn (s.place sl e.1) p then popCount 512 e.2 else 0).sum

/-- Regions of a slice homed on a pavilion. -/
def Part.homedRegions (s : Part) (sl p : Nat) : Nat :=
  ((s.slice sl).grants.filter fun e => placeOn (s.place sl e.1) p).length

/-- The plot share of spec/02 R84 from its inputs: mode, line mode, ratio, plot minimum, E, regions homed, regions. -/
def plotFormula (mode line ratio plotMin e homed regions : Nat) : Nat :=
  let d := if line = 0 then 4 else 8
  if mode = 0 then e + ceilDiv e d
  else if homed = 0 then 0
  else max (ceilDiv (e * (d + 1) * 100) (d * ratio) + 10) (ceilDiv (plotMin * homed) regions)

/-- The plot share of a slice on a pavilion, under the settings in force. -/
def Part.plotShare (s : Part) (sl p : Nat) : Nat :=
  plotFormula (s.od .sliceCapacityMode sl) (s.od .sliceLineMode sl) (s.od .sliceExpectedRatio sl) (s.od .slicePlotMin sl)
    (s.homedExts sl p) (s.homedRegions sl p) (s.slice sl).grants.length

/-- Extents a slice owns on a pavilion: HOT, TAG, CASK, and its freed extents that are ZEROING (spec/02 R88). -/
def Part.ownedExts (s : Part) (sl p : Nat) : Nat :=
  ((s.pav p).own.filter fun e => e.2.owner == sl && (e.2.kind == kindHot || e.2.kind == kindTag || e.2.kind == kindCask)).length +
  ((s.pav p).zeroing.filter fun e => e.2 == sl + 1).length

/-- Slices that hold or own anything. -/
def Part.someSlices (s : Part) : List Nat :=
  let owning := allPavs.flatMap fun p =>
    (((s.pav p).own.filter fun e => e.2.kind == kindHot || e.2.kind == kindTag || e.2.kind == kindCask).map fun e => e.2.owner) ++
    ((s.pav p).zeroing.map fun e => e.2 - 1)
  ((s.slices.map fun e => e.1) ++ owning).eraseDups

/-- CAP_PLOTS (spec/02 R86). -/
def Part.capPlots (s : Part) (p : Nat) : Nat := (s.someSlices.map fun k => max (s.plotShare k p) (s.ownedExts k p)).sum

/-- CAP_COMMONS_LENT. -/
def Part.capLent (s : Part) (p : Nat) : Nat := (s.someSlices.map fun k => s.ownedExts k p - s.plotShare k p).sum

/-- CAP_CELLAR_BOOK (spec/02 R86): the region blocks held, home and mirror, and the heat tables. -/
def Part.capCellar (s : Part) (p : Nat) : Nat :=
  let b := (s.pav p).blocks
  2 * b.length + ceilDiv (b.filter fun e => e.1 % 2 == 0).length 512

/-- CAP_COMMONS (spec/02 R86), which may fall below zero. -/
def Part.capCommons (s : Part) (p : Nat) : Int :=
  ((s.pav p).capRaw : Int) - s.capCellar p - s.kindCount p kindSpare - s.od0 .commonsReserveSetting - s.capPlots p

/-- SLICE_BORROWED of a slice on a pavilion. -/
def Part.borrowed (s : Part) (sl p : Nat) : Nat := s.ownedExts sl p - s.plotShare sl p

/-! ## Capacity alarms (spec/02 R91) -/

/-- An alarm that is raised. -/
def Part.alarmOn (s : Part) (p key : Nat) : Bool := (s.pav p).alarms.get 0 key != 0

/-- Remember or forget an alarm. -/
def Part.setAlarm (s : Part) (p key : Nat) (on : Bool) : Part :=
  s.onPav p fun v => { v with alarms := v.alarms.set 0 key (b2n on) }

/-- PLOT_WARN of a slice on a pavilion. -/
def Part.plotAlarm (s : Part) (p sl : Nat) : Part :=
  let share := s.plotShare sl p
  if s.od .sliceCapacityMode sl != 1 || share = 0 then s else
  let owned := s.ownedExts sl p
  let warn := s.od .slicePlotWarn sl
  if s.alarmOn p (sl + 1) then
    (if owned * 100 ≤ (warn - 2) * share then s.setAlarm p (sl + 1) false else s)
  else if warn * share ≤ owned * 100 then (s.setAlarm p (sl + 1) true).alarm .plotWarn sl p owned share
  else s

/-- COMMONS_LOW of a pavilion: to every port with an overcommitted slice bound that homes a region there. -/
def Part.commonsAlarm (s : Part) (p : Nat) : Part :=
  let commons := s.capCommons p
  let free := commons - s.capLent p
  let warn : Int := s.od0 .commonsWarn
  let key := 0x200000
  if s.alarmOn p key then
    (if (warn + 2) * commons ≤ free * 100 then s.setAlarm p key false else s)
  else if free * 100 < warn * commons then
    let s := s.setAlarm p key true
    let ports := (List.range 16).filter fun i => s.slices.any fun e =>
      s.boundPort e.1 == some i && s.od .sliceCapacityMode e.1 == 1 && decide (0 < s.homedRegions e.1 p)
    let s := iter ports s fun s i => s.vendorEvent i logWarning 0x1211 none p ones64 ones64 (ofInt 64 free) (ofInt 64 commons)
    s.logEv 0x1211 (ofInt 64 free) (ofInt 64 commons) none p
  else s

/-- Look at the alarms after a change of a slice's extents on a pavilion. -/
def Part.capacityAlarms (s : Part) (p sl : Nat) : Part := (s.plotAlarm p sl).commonsAlarm p

/-! ## Taking extents, frames and slots (spec/02 R68, R69, R85, R88, R89) -/

/-- Take an extent for a slice as spec/02 R88 and R89 state: within its plot, then from the commons when `borrow`
allows. An extent of fixed frames comes with its logical extent, so it lies within the plot (R74, R85). -/
def Part.takeExt (s : Part) (p sl : Nat) (borrow : Bool) (o : Own) : Option (Nat × Part) :=
  let within := o.fixed || decide (s.ownedExts sl p < s.plotShare sl p)
  let lend := borrow && s.od .sliceCapacityMode sl == 1 && decide ((s.capLent p : Int) < s.capCommons p)
  if !(within || lend) then none else
  (s.freeExt p).map fun e => (e, (s.setOwn p e o).capacityAlarms p sl)

/-- Mark a frame, slot or block of an extent in use. -/
def Part.markUsed (s : Part) (p ext k : Nat) (on : Bool) : Part :=
  let o := s.ownOf p ext
  (s.onPav p fun v => { v with used := v.used.modify 0 ext fun u => setBit u k on }).setOwn p ext
    { o with live := if on then o.live + 1 else o.live - 1 }

/-- The first extent of a slice's of a kind with a free place. -/
def Part.openExt (s : Part) (p sl kind cls : Nat) (fixed : Bool) (places : Nat) : Option (Nat × Nat) :=
  (s.pav p).own.findSome? fun e =>
    let o := e.2
    if o.kind == kind && o.owner == sl && o.fixed == fixed && o.cls == cls && !(s.pav p).retire.contains e.1 && !(s.pav p).emptying.contains e.1 then
      (lowestClear places ((s.pav p).used.get 0 e.1)).map fun k => (e.1, k)
    else none

/-- Blocks of a TAG extent (spec/02 R68). -/
def Part.tagBlocks (s : Part) (sl : Nat) : Nat := if s.inline sl then 8 else 4

/-- Take a tag block for a HOT extent of a slice. -/
def Part.takeTag (s : Part) (p sl : Nat) (fixed borrow : Bool) : Option (Nat × Nat × Part) :=
  match s.openExt p sl kindTag 0 fixed (s.tagBlocks sl) with
  | some (e, k) => some (e, k, s.markUsed p e k true)
  | none => (s.takeExt p sl borrow { Own.free with kind := kindTag, owner := sl, fixed := fixed }).map fun q =>
      (q.1, 0, q.2.markUsed p q.1 0 true)

/-- Take a HOT extent with its tag block. -/
def Part.takeHot (s : Part) (p sl : Nat) (fixed borrow : Bool) : Option (Nat × Part) :=
  match s.takeExt p sl borrow { Own.free with kind := kindHot, owner := sl, fixed := fixed } with
  | none => none
  | some (e, s) =>
    (s.takeTag p sl fixed borrow).map fun q =>
      (e, q.2.2.setOwn p e { q.2.2.ownOf p e with tagExtent := q.1, tagBlock := q.2.1 })

/-- Take a hot frame for a page (spec/02 R88): its PHYS_LOC. -/
def Part.takeFrame (s : Part) (p sl : Nat) (borrow : Bool) : Option (Nat × Part) :=
  match s.openExt p sl kindHot 0 false 512 with
  | some (e, k) => some (e * extUnits + 8 * k, s.markUsed p e k true)
  | none => (s.takeHot p sl false borrow).map fun q => (q.1 * extUnits, q.2.markUsed p q.1 0 true)

/-- Take a cask slot of a class (spec/02 R69, spec/03 R130). -/
def Part.takeSlot (s : Part) (p sl cls : Nat) (borrow : Bool) : Option (Nat × Part) :=
  match s.openExt p sl kindCask cls false (slotsPerExtent cls) with
  | some (e, k) => some (e * extUnits + (cls + 1) * k, s.markUsed p e k true)
  | none => (s.takeExt p sl borrow { Own.free with kind := kindCask, owner := sl, cls := cls }).map fun q =>
      (q.1 * extUnits, q.2.markUsed p q.1 0 true)

/-- The heat key of a page group. -/
def groupKey (sl lpage : Nat) : Nat := sl * 2 ^ 28 + lpage / 64

/-- Ask for a plan of compactions of a slice on a pavilion (spec/02 R95), unless one is asked for already. -/
def Part.askCompact (s : Part) (p sl : Nat) : Part :=
  let a : CompileAsk := ⟨3, [], none, .plain, sl * 8 + p⟩
  if s.vint.queue.contains a then s else { s with vint := { s.vint with queue := s.vint.queue ++ [a] } }

/-- Held writes of a slice for a pavilion (CAP_HELD_WRITES). -/
def Part.heldFor (s : Part) (sl p : Nat) : Nat :=
  ((List.range 16).map fun i =>
    let q := s.part i sl
    (q.hold.filter fun h => h.home == p).length + (q.forwarded.filter fun f => f.held && f.home == p).length).sum

/-- An extent begins ZEROING (spec/02 R66, R90): a slice's own extent stays owned by it. -/
def Part.toZeroing (s : Part) (p ext : Nat) : Part :=
  let o := s.ownOf p ext
  let slices := o.kind == kindHot || o.kind == kindTag || o.kind == kindCask
  (s.onPav p fun v => { v with used := v.used.erase ext, zeroing := if slices then v.zeroing.set 0 ext (o.owner + 1) else v.zeroing }).setOwn
    p ext { Own.free with kind := kindZeroing, owner := o.owner }

/-- Free one place of an extent; an extent whose LIVE reaches 0 enters ZEROING, and a HOT extent's tag block is freed with
it (spec/02 R90). While its slice has held writes there, each freeing asks for compactions (R95). -/
def Part.freePlace (s : Part) (p ext k : Nat) : Part :=
  let o := s.ownOf p ext
  if !((s.pav p).used.get 0 ext).testBit k then s else
  let s := s.markUsed p ext k false
  let s := if s.heldFor o.owner p != 0 && (o.kind == kindHot || o.kind == kindCask) then s.askCompact p o.owner else s
  if (s.ownOf p ext).live != 0 || o.fixed then s else
  let s := s.toZeroing p ext
  if o.kind != kindHot then s else
  let t := s.ownOf p o.tagExtent
  let s := s.markUsed p o.tagExtent o.tagBlock false
  if t.live ≤ 1 then s.toZeroing p o.tagExtent else s

/-- The state of a codebook slot follows its casks and slices (spec/03 R116, R119, R121). -/
def Part.bookState (s : Part) (b : Nat) : Part :=
  let st := s.od .codebookState b
  let casks := s.od .codebookCasks b
  let used := decide (0 < casks) || decide (0 < s.od .codebookSlices b)
  if st = 1 && used then s.setOd .codebookState b 2
  else if st = 2 && !used then s.setOd .codebookState b 1
  else if st = 3 && casks = 0 then s.setOd .codebookState b 1
  else s

/-- Count a cask of a codebook slot written or released (spec/03 R119, R132). -/
def Part.caskCount (s : Part) (sl book : Nat) (raw on : Bool) : Part :=
  let f (n : Nat) : Nat := if on then n + 1 else n - 1
  let s := s.modOd .codebookCasks book f
  let s := if raw then (s.modOd .casksRaw 0 f).modOd .sliceCasksRaw sl f else s
  s.bookState book

/-- A cask stands at a place: counted under its codebook slot. -/
def Part.noteCask (s : Part) (p sl loc : Nat) (w : ClearWord) : Part :=
  (s.caskCount sl w.book w.raw true).onPav p fun v => { v with casks := v.casks.put loc (1 + 2 * w.book + b2n w.raw) }

/-- The cask at a place is released: its own codebook slot counts one less, whatever DRAM holds there now. -/
def Part.dropCask (s : Part) (p sl loc : Nat) : Part :=
  match (s.pav p).casks.get 0 loc with
  | 0 => s
  | n + 1 => (s.caskCount sl (n / 2) (n % 2 == 1) false).onPav p fun v => { v with casks := v.casks.erase loc }

/-- Free what a page of a slice holds (spec/02 R90): its frame with its lines' entries, or its cask slot. A fixed frame is
kept. -/
def Part.freePage (s : Part) (p sl : Nat) (c : Cell) : Part :=
  if c.tier = tierHot then
    let s := iter (List.range 64) s fun s n =>
      let x := burstOf c.loc + n
      (s.linePoisonCount sl (s.lineEnt p sl x).info 0).setTag p x TagEnt.zero
    if c.fixed then s else s.freePlace p (extOf c.loc) (c.loc % extUnits / 8)
  else if c.tier = tierWarm then
    let s := s.dropCask p sl c.loc
    if c.fixed then s else s.freePlace p (extOf c.loc) (c.loc % extUnits / (c.slotClass + 1))
  else s

/-! ## The cellar book (spec/02 R55 to R64) -/

/-- The entry of a page that nothing has changed since its extent was granted: at its reset value, with the fixed frame of
a strict slice (spec/02 R74). -/
def Part.blank (s : Part) (sl lpage : Nat) : Cell :=
  match (s.slice sl).fixed.get 0 (lpage / 512) with
  | 0 => Cell.zero
  | e + 1 => { Cell.zero with fixed := true, loc := e * extUnits + 8 * (lpage % 512) }

/-- The cellar-book entry of a page on its home. -/
def Part.cell (s : Part) (p sl lpage : Nat) : Cell := (s.pav p).cellar.get (s.blank sl lpage) (pageKey sl lpage)

/-- Write the home copy: its line goes to a channel write queue (spec/02 R60). `who` causes the change. -/
def Part.setCell (s : Part) (p sl lpage : Nat) (c : Cell) (who : Nat := sl) : Part :=
  let s' := s.onPav p fun v => { v with cellar := v.cellar.set (s.blank sl lpage) (pageKey sl lpage) c }
  match s.cellarBurst p sl lpage true with
  | some x => s'.putOwnLine p x who sl lpage
  | none => s'

/-- The mirror copy of an entry. -/
def Part.mirrorCell (s : Part) (q sl lpage : Nat) : Cell := (s.pav q).mirror.get (s.blank sl lpage) (pageKey sl lpage)

/-- The mirror pavilion of a page's region, where it has a second copy (spec/02 R59). -/
def Part.mirrorOf (s : Part) (sl lpage : Nat) : Option Nat :=
  let v := s.place sl (lpage / 262144)
  if placeValid v && !placeSingle v && placeMirror v != placeHome v then some (placeMirror v) else none

/-- Write the mirror copy, charged to the slice (spec/02 R60). -/
def Part.setMirror (s : Part) (q sl lpage : Nat) (c : Cell) : Part :=
  let s' := s.onPav q fun v => { v with mirror := v.mirror.set (s.blank sl lpage) (pageKey sl lpage) c }
  match s.cellarBurst q sl lpage false with
  | some x => s'.putOwnLine q x sl sl lpage
  | none => s'

/-- The MIRROR_WRITE of an entry from its home to its mirror (spec/02 R60, spec/08 R310). -/
def Part.sendMirror (s : Part) (p q sl lpage : Nat) (c : Cell) : Part :=
  s.send p 9 { Msg.zero with
    cls := clsRequest, opcode := 4, src := p, dst := q, units := 4, label := sliceLabel s.vint.bank sl
    addr := pageKey sl lpage, data := c.encode }

/-- Commit a change of the engines (spec/02 R60): the home copy now, the mirror copy by MIRROR_WRITE (log entry 21). -/
def Part.commit (s : Part) (p sl lpage : Nat) (c : Cell) (who : Nat := byMigration) : Part :=
  let s := s.setCell p sl lpage c who
  match s.mirrorOf sl lpage with
  | some q => s.sendMirror p q sl lpage c
  | none => s

/-- The page is held on its home (spec/01 R48). -/
def Part.isHeld (s : Part) (p sl lpage : Nat) : Bool := (s.pav p).holds.any fun h => h.slice == sl && h.lpage == lpage

/-- Hold a page. -/
def Part.holdPage (s : Part) (p sl lpage : Nat) : Part :=
  if s.isHeld p sl lpage then s else s.onPav p fun v => { v with holds := v.holds ++ [⟨sl, lpage, []⟩] }

/-- Release a page: the requests that waited come before the others (spec/01 R36, R48). -/
def Part.releasePage (s : Part) (p sl lpage : Nat) : Part :=
  match takeFirst (fun h : Hold => h.slice == sl && h.lpage == lpage) (s.pav p).holds with
  | none => s
  | some (h, rest) => s.onPav p fun v => { v with holds := rest, inbox := h.waiting ++ v.inbox }

/-- Send a response that a request waits for; a message of no class is none. -/
def Part.answerMsg (s : Part) (p : Nat) (m : Msg) : Part := if m.cls = 0 && m.opcode = 0 then s else s.send p 9 m

/-- The last step of a commit (spec/02 R71, step 6): the answer, the end of the page's hold, what the old entry held freed. -/
def Part.commitDone (s : Part) (p sl lpage : Nat) (answer : Msg) (old : Cell) : Part :=
  ((s.answerMsg p answer).releasePage p sl lpage).freePage p sl old

/-- Commit a change that a request caused (spec/02 R60): the home copy now, the mirror copy by MIRROR_WRITE; the last step
comes when the mirror has the change. `old` is the entry whose storage is then freed. -/
def Part.commitFor (s : Part) (p sl lpage : Nat) (c : Cell) (answer : Msg) (old : Cell) : Part :=
  let s := s.setCell p sl lpage c
  match s.mirrorOf sl lpage with
  | none => s.commitDone p sl lpage answer old
  | some q =>
    let s := s.holdPage p sl lpage
    let s := s.onPav p fun v => { v with mirrorWait := v.mirrorWait ++ [⟨pageKey sl lpage, answer, old⟩] }
    s.sendMirror p q sl lpage c

/-- The bits of a line of the cellar book or the tag region as the tables give them (spec/02 R55, R58, spec/04 R162, R163). -/
def Part.lineBits (s : Part) (p x : Nat) : Nat :=
  let ext := x / extBursts
  let k := x % extBursts
  if (s.ownOf p ext).kind = kindCellar then
    match (s.pav p).blocks.find? (fun b => b.2.contains ext) with
    | none => 0
    | some (b, exts) =>
      let sl := b / 2 / 65536
      let lp := b / 2 % 65536 * 262144 + 4 * (exts.idxOf ext * extBursts + k)
      unchunks 128 ((List.range 4).map fun j => (if b % 2 = 0 then s.cell p sl (lp + j) else s.mirrorCell p sl (lp + j)).encode)
  else
    let inl := s.inline (s.ownOf p ext).owner
    let per := if inl then 4096 else 8192
    let n := if inl then 8 else 4
    match (s.pav p).own.find? (fun e => e.2.kind == kindHot && e.2.tagExtent == ext && e.2.tagBlock == k / per) with
    | none => 0
    | some (h, _) =>
      let e (j : Nat) : TagEnt := s.tagEnt p (h * extBursts + k % per * n + j)
      if inl then unchunks 64 ((List.range 8).map fun j => (e j).version)
      else unchunks 128 ((List.range 4).map fun j => ((e j).version % 2 ^ 64 <<< 64) ||| ((e j).tag % 2 ^ 56 <<< 8) ||| (e j).info % 256)

/-! ## Poisoned pages (spec/02 R57) -/

/-- A page written while its region moves is to be copied again (spec/15 R566). -/
def Part.moveAgain (s : Part) (p sl lpage : Nat) : Part :=
  s.onPav p fun v => { v with regionMove := v.regionMove.map fun r =>
    if r.slice == sl && r.region == lpage / 262144 && !r.left.contains lpage then { r with left := r.left ++ [lpage] } else r }

/-- A page's stored content changes: its extent gets its dirty mark when its slice is armed (spec/10 R417). -/
def Part.dirtyMark (s : Part) (p sl lpage : Nat) : Part :=
  let s := s.moveAgain p sl lpage
  if s.od .sliceMigrationId sl = 0 then s
  else s.onPav p fun v => { v with dirty := v.dirty.set 0 (extentKey sl (lpage / 512)) 1 }

/-- Poison a page with a cause: its storage is freed but for a fixed frame, and its first cause stays (spec/02 R57). -/
def Part.poisonPage (s : Part) (p sl lpage cause : Nat) : Part :=
  let c := s.cell p sl lpage
  if c.poison then s else
  let s := s.freePage p sl c
  let c' : Cell := { c with tier := tierZero, slotClass := 0, poison := true, cause := cause, moving := false, loc := if c.fixed then c.loc else 0 }
  ((s.commit p sl lpage c' sl).poisonReport sl (lpage * 4096) 64 cause).dirtyMark p sl lpage

/-- The first extent among those that an access to a page's storage touches that its slice does not own (spec/02 R67): the HOT
or CASK extent, and for a hot page the TAG extent of its tag-region entries. -/
def Part.foreignExt (s : Part) (p sl : Nat) (c : Cell) : Option Nat :=
  let e := extOf c.loc
  let o := s.ownOf p e
  let t := s.ownOf p o.tagExtent
  if !(o.owner == sl && (o.kind == kindHot || o.kind == kindCask)) then some e
  else if c.tier == tierHot && !(t.owner == sl && t.kind == kindTag) then some o.tagExtent
  else none

/-- The owner check of spec/02 R67 for the storage that an entry names. -/
def Part.ownerOk (s : Part) (p sl : Nat) (c : Cell) : Bool := c.tier = tierZero || (s.foreignExt p sl c).isNone

/-- The owner check of spec/02 R67 for the fixed frame of a page that holds nothing there yet. -/
def Part.frameOk (s : Part) (p sl : Nat) (c : Cell) : Bool := !c.fixed || (s.foreignExt p sl { c with tier := tierHot }).isNone

/-- A page whose storage the slice does not own (spec/02 R67): poisoned OWNER_MISMATCH unless it is poisoned already (R57), with
nothing freed, and logged. PHYS_LOC becomes 0, and stays for a FIXED page (DESIGN CHOICE, log entry 192). -/
def Part.ownerMismatch (s : Part) (p sl lpage : Nat) : Part :=
  let c := s.cell p sl lpage
  let s := if c.poison then s else
    let c' : Cell := { c with tier := tierZero, slotClass := 0, poison := true, cause := 4, moving := false, loc := if c.fixed then c.loc else 0 }
    ((s.commit p sl lpage c' sl).poisonReport sl (lpage * 4096) 64 4).dirtyMark p sl lpage
  s.logEv 0x0B01 (lpage * 4096) ((s.foreignExt p sl { c with tier := max c.tier tierHot }).getD (extOf c.loc)) (some sl) p

/-! ## Heat (spec/02 R76, R77) -/

/-- A page becomes HOT or WARM: the flag of its group. -/
def Part.heatFlag (s : Part) (p sl lpage tier : Nat) : Part :=
  if tier = tierZero then s else
  s.onPav p fun v => { v with heat := v.heat.modify 0 (groupKey sl lpage) fun b => setBit b (if tier = tierHot then 7 else 6) true }

/-- N of spec/02 R77. -/
def Part.heatN (s : Part) : Nat := [1, 4, 16, 64].getD (s.od0 .heatSample) 16

/-- Count a served host request: every Nth adds to its group in the coalescing buffer of 4,096 groups. A group that has
no place takes that of the lowest group, whose increments are dropped (log entry 22). -/
def Part.heatSample (s : Part) (p sl lpage : Nat) : Part :=
  let n := (s.pav p).heatSeen + 1
  let s := s.onPav p fun v => { v with heatSeen := if n % s.heatN = 0 then 0 else n }
  if n % s.heatN != 0 then s else
  let buf := (s.pav p).coalesce
  let k := groupKey sl lpage
  if buf.get 0 k != 0 || decide (buf.length < 4096) then
    s.onPav p fun v => { v with coalesce := v.coalesce.modify 0 k (· + 1) }
  else match buf with
    | [] => s
    | (g, c) :: _ => (s.onPav p fun v => { v with coalesce := (v.coalesce.erase g).set 0 k 1 }).count .heatDropped 0 c

/-- A write of the coalescing buffer to the heat table in a migration slot: the lowest group first. -/
def Part.heatFlush (s : Part) (p : Nat) : Part :=
  match (s.pav p).coalesce with
  | [] => s
  | (g, c) :: r => s.onPav p fun v => { v with
      coalesce := r
      heat := v.heat.modify 0 g fun b => setBits b 0 6 (min 63 (bits b 0 6 + c)) }

/-! ## Correctable and uncorrectable errors (spec/05 R194, R195, R208, R209) -/

/-- Requesters of the address table (spec/05 R209). -/
def srcHostRead : Nat := 0
/-- MERGE. -/
def srcMerge : Nat := 1
/-- SCRUB. -/
def srcScrub : Nat := 2
/-- MIGRATION. -/
def srcMigration : Nat := 3
/-- CODEC. -/
def srcCodec : Nat := 4
/-- SYSTEM. -/
def srcSystem : Nat := 5

/-- Enter a correction in the address table of a pavilion (spec/05 R209). -/
def Part.ceEntry (s : Part) (p addr count code source device : Nat) : Part :=
  let l := (s.pav p).ceTable
  let e : CeEnt := ⟨addr, min 127 count, code * 256 + source * 32 + device, s.now⟩
  match l.find? (fun q => q.burst == addr) with
  | some q => s.onPav p fun v => { v with ceTable := (l.filter fun r => r.burst != addr) ++ [{ q with time := s.now, count := min 127 count }] }
  | none =>
    if l.length < 64 then s.onPav p fun v => { v with ceTable := l ++ [e] }
    else (s.onPav p fun v => { v with ceTable := l.drop 1 ++ [e] }).count .ceTableOverflow p

/-- Queue a repair of a burst (spec/05 R195): 8 a channel; none for a burst with a write queued. -/
def Part.queueRepair (s : Part) (p x value : Nat) (inl : Bool := false) : Part :=
  let c := (s.placeOf p x).chan p
  if (s.queued p x).isSome then s
  else if (s.chan c).repairQ.any fun r => r.burst == x then s
  else if 8 ≤ (s.chan c).repairQ.length then s.count .repairsDropped 0
  else s.onChan c fun v => { v with repairQ := v.repairQ ++ [s.qEntry p x true byScrub ownScrub 0 0 0 value false inl] }

/-- Add to a device's count in CE_DEVICES_RANK, saturating (spec/05 R208). -/
def Part.ceDeviceCount (s : Part) (c r device : Nat) : Part :=
  s.modOd .ceDevicesRank (c * 4 + r) fun b =>
    setBits b (32 * device) 32 (min 0xFFFFFFFF (bits b (32 * device) 32 + 1))

/-- Count a corrected burst and queue its repair (spec/05 R194, R208, R209), unless a write of the burst was issued since the read
that found the error (`stale`, R195). -/
def Part.corrected (s : Part) (p x value device bitsN source : Nat) (inline : Bool) (stale : Bool := false) : Part :=
  let pl := s.placeOf p x
  let c := pl.chan p
  let r := s.rankAt c pl.layer x
  let d := ceDevice (s.geom p).x8 pl.sub device
  let s := (s.ceDeviceCount c r d).count .ceChannel c
  let s := s.ceEntry p (s.addressOf p x) bitsN (b2n inline) source d
  if stale then s else s.queueRepair p x value inline

/-- Count an uncorrectable burst (spec/05 R194). -/
def Part.uncorrectable (s : Part) (p x : Nat) : Part :=
  let pl := s.placeOf p x
  let c := pl.chan p
  (s.count .ueChannel c).count .ueRank (c * 4 + s.rankAt c pl.layer x)

/-- Count the outcome of a line check. -/
def Part.tallyCheck (s : Part) (p x source : Nat) (inline : Bool) (k : LineCheck) (stale : Bool := false) : Part :=
  match k with
  | .clean _ => s
  | .corrected v d n => s.corrected p x v d n source inline stale
  | .bad _ => s.uncorrectable p x

end Sys2Proof.Machine
end

