-- ==== Sys2Proof/Machine/Links.lean ====
section
/-!
DEFINITION. The promenade's links (spec/08 R305 to R338): flits, acknowledgement and replay, credits, breaking and
training, detours, lost traffic.
-/

namespace Sys2Proof.Machine

/-! ## Flits (spec/08 R305 to R308, R312 to R321) -/

/-- Units of a message: its header and its data units (spec/08 R308). -/
def Msg.size (m : Msg) : Nat := 1 + m.units

/-- The advertised count of a counter, class × 2 + kind (spec/08 R317). -/
def advertised (k : Nat) : Nat := [512, 2560, 512, 2048, 128, 512, 32, 128].getD k 0

/-- Add to an entry of a list of counters, modulo 65,536 (spec/08 R306). -/
def bump (l : List Nat) (k n : Nat) : List Nat := l.set k ((l.getD k 0 + n) % 65536)

/-- Credits a sender holds for a counter (spec/08 R318). -/
def LinkDir.credits (d : LinkDir) (k : Nat) : Nat :=
  (advertised k + d.returned.getD k 0 + 65536 - d.charged.getD k 0) % 65536

/-- The sender may place a message in a flit (spec/08 R318). -/
def LinkDir.mayPlace (d : LinkDir) (m : Msg) : Bool :=
  decide (1 ≤ d.credits (2 * m.cls)) && decide (m.units ≤ d.credits (2 * m.cls + 1))

/-- Charge a message's credits. -/
def LinkDir.charge (d : LinkDir) (m : Msg) : LinkDir :=
  { d with charged := bump (bump d.charged (2 * m.cls) 1) (2 * m.cls + 1) m.units }

/-- The place of a class in the sending order (spec/08 R321): MANAGEMENT, RESPONSE, REQUEST, MIGRATION. -/
def classRank (c : Nat) : Nat := [2, 1, 3, 0].getD c 4

/-- The sending order of two waiting messages (spec/08 R321): class, then crossbar port; among equals the earlier. -/
def sendsBefore (a b : TxEnt) : Bool :=
  decide (classRank a.msg.cls < classRank b.msg.cls) ||
    (a.msg.cls == b.msg.cls && decide (a.source < b.source))

/-- Two waiting messages are of one source and class (spec/08 R321). -/
def sameLane (a b : TxEnt) : Bool := a.source == b.source && a.msg.cls == b.msg.cls

/-- The messages that may go now: of each source and class the one that reached the transmitter first (spec/00 R16, spec/08 R321). -/
def laneHeads (l : List TxEnt) : List TxEnt :=
  l.foldl (fun a t => if a.any (sameLane t) then a else a ++ [t]) []

/-- The next message to send: of the messages that may go and have room and credits, the first in the order of spec/08 R321; one without
credits is passed over, and so is one without room in the flit, for another source or class. -/
def pickNext (d : LinkDir) (room : Nat) : Option (TxEnt × List TxEnt) :=
  let fits (t : TxEnt) : Bool := decide (t.msg.size ≤ room) && d.mayPlace t.msg
  let best := ((laneHeads d.tx).filter fits).foldl (fun (b : Option TxEnt) t =>
    match b with
    | none => some t
    | some u => if sendsBefore t u then some t else b) none
  match best with
  | none => none
  | some t => takeFirst (sameLane t) d.tx

/-- Fill a flit with whole messages (spec/08 R308). -/
def fillFlit : Nat → LinkDir → Nat → List Msg → LinkDir × List Msg
  | 0, d, _, acc => (d, acc)
  | fuel + 1, d, room, acc =>
    match pickNext d room with
    | none => (d, acc)
    | some (t, rest) => fillFlit fuel ({ d with tx := rest }.charge t.msg) (room - t.msg.size) (acc ++ [t.msg])

/-- The other direction of a link. -/
def otherDir (d : Nat) : Nat := 1 - d % 2

/-- The header fields of the next flit of a direction (spec/08 R306, R307, R315): the last sequence number its end accepted
and one returned count of the other direction, CR_SEL stepping. -/
def flitHeader (l : LinkState) (d : Nat) : Nat × Nat × Nat :=
  let back := l.dir (otherDir d)
  let me := l.dir d
  ((back.expected + 4095) % 4096, me.crSel, back.ownReturn.getD me.crSel 0)

/-- Send the next flit of a direction (spec/08 R312, R314, R316, R321). -/
def Part.sendFlit (s : Part) (n d : Nat) : Part :=
  let l := s.link n
  let h := flitHeader l d
  let me := { l.dir d with crSel := ((l.dir d).crSel + 1) % 8 }
  let idleFlit : Flit := ⟨false, 0, h.1, h.2.1, h.2.2, []⟩
  match me.resend with
  | f :: rest =>
    s.onLink n fun l => l.onDir d fun _ =>
      { me with resend := rest, wire := me.wire ++ [{ f with ack := h.1, crSel := h.2.1, crCount := h.2.2 }] }
  | [] =>
    if s.parked (0x0400 + n) then s.onLink n fun l => l.onDir d fun _ => { me with wire := me.wire ++ [idleFlit] }
    else if 512 ≤ me.replay.length then
      (s.onLink n fun l => l.onDir d fun _ => { me with wire := me.wire ++ [idleFlit] }).count .linkReplayStalls n
    else
      let q := fillFlit 15 me 15 []
      if q.2.isEmpty then s.onLink n fun l => l.onDir d fun _ => { me with wire := me.wire ++ [idleFlit] }
      else
        let f : Flit := ⟨true, me.nextSeq, h.1, h.2.1, h.2.2, q.2⟩
        s.onLink n fun l => l.onDir d fun _ =>
          { q.1 with nextSeq := (me.nextSeq + 1) % 4096, replay := me.replay ++ [f], wire := me.wire ++ [f] }

/-- FLIT_TRANSMIT (spec/08 R321): a transmitter of an UP link sends its next flit. -/
def execFlitTransmit (n : Link) (d : Dir) (s : State) : Host.Outcome State Fault Refusal :=
  s.run fun p => if p.od .linkState n = 2 && !p.rest.inRest then p.sendFlit n d else p

/-- The class a message's opcode belongs to (spec/08 R310). -/
def opcodeClass (op : Nat) : Nat :=
  if op ≤ 4 then 0 else if op ≤ 7 then 1 else if op ≤ 9 then 2 else if op ≤ 13 then 3 else 4

/-- The crossbar port of a link at a pavilion (spec/08 R321): 0 to 6 in ascending link number. -/
def linkPort (p n : Nat) : Nat :=
  ((List.range 28).filter fun k => decide (k < n) && ((linkEnds k).1 == p || (linkEnds k).2 == p)).length

/-- The end that sends a direction's flits, and the end that receives them. -/
def dirEnds (n d : Nat) : Nat × Nat := let e := linkEnds n; if d = 0 then e else (e.2, e.1)

/-- The messages that a direction of a link carries and its receiver has not accepted, oldest first. -/
def LinkDir.undelivered (q : LinkDir) : List Msg :=
  ((q.replay.filter fun f => f.seq == q.expected || ahead 12 f.seq q.expected).flatMap (·.msgs)) ++ q.tx.map (·.msg)

/-- Messages of a class from pavilion `a` are on the old path to pavilion `b`, a message of theirs having come over link `n` (spec/08
R332): `n` ends the present path, and another link carries one to `b`. -/
def Part.oldPathBusy (s : Part) (n a b cls : Nat) : Bool :=
  let c := (s.hop a b).getD b
  let first := linkOf a c
  n == (if c = b then first else linkOf c b) && (List.range 28).any fun k => k != n && k != first && [0, 1].any fun d =>
    ((s.link k).dir d).undelivered.any fun m => m.src == a && m.cls == cls && (m.dst == b || (dirEnds k d).2 == b)

/-- The forwarded request that a response of a slice answers at a pavilion takes a path through another pavilion: its response is lost
with the link there (spec/01 R49). -/
def Part.viaFor (s : Part) (m : Msg) (p via : Nat) : Part :=
  iter [2 * p, 2 * p + 1] s fun s i => s.onPart i m.slice fun q => { q with
    forwarded := q.forwarded.map fun f => if f.tag == m.tag then { f with via := via } else f }

/-- The crossbar port at which a message stands at its source (spec/08 R321). -/
def Part.sourcePort (s : Part) (m : Msg) : Nat :=
  if m.opcode ≤ 3 then match s.findFwd m.src m with
    | some (i, _) => xbarPort i
    | none => 7
  else if m.cls = clsMigration then 10 else if m.cls = clsManagement then 11 else 9

/-- The messages that are sent again by the new path (spec/08 R328). -/
def resentKind (m : Msg) : Bool := m.opcode == 4 || m.opcode == 7 || m.opcode == 8 || m.opcode == 9 || m.opcode == 10 ||
  m.opcode == 12 || m.opcode == 13

/-- A message is lost with link `n` (spec/01 R49, spec/08 R328): it goes again by the new path, or its sender learns of it; where it is a
response, its request counts as routed over the link. -/
def Part.loseMsg (s : Part) (n : Nat) (m : Msg) : Part :=
  if resentKind m then s.send m.src (s.sourcePort m) m
  else if m.cls = clsResponse then
    let e := linkEnds n
    s.viaFor m m.dst (if m.dst = e.1 then e.2 else if m.dst = e.2 then e.1 else if m.src = e.1 then e.2 else e.1)
  else s

/-- A message leaves the receive buffer of a pavilion (spec/08 R310, R319, R320, R331): its credits return; a bad one is discarded,
counted and logged; one for another pavilion goes on to it over their own link, and through no third pavilion. -/
def Part.deliver (s : Part) (n d at_ : Nat) (m : Msg) : Part :=
  let s := s.onLink n fun l => l.onDir d fun q =>
    { q with ownReturn := bump (bump q.ownReturn (2 * m.cls) 1) (2 * m.cls + 1) m.units }
  if opcodeClass m.opcode != m.cls then (s.count .linkBadMessages n).logEv 0x1106 n m.opcode none at_
  else if m.dst = at_ then (s.onPav at_ fun v => { v with inbox := v.inbox ++ [m] }).wakePav at_
  else if s.linkUp at_ m.dst then s.transmit at_ m.dst (linkPort at_ n) m
  else s.loseMsg (linkOf at_ m.dst) m

/-- A message reaches the receive buffer of a pavilion: it is held while the old path from its source is not clear (spec/08 R332), or
stands behind one of its class and source that is held (log entry 210). -/
def Part.receiveMsg (s : Part) (n d at_ : Nat) (m : Msg) : Part :=
  let kin (h : Arrived) : Bool := h.link == n && h.msg.src == m.src && h.msg.cls == m.cls
  if s.oldPathBusy n m.src at_ m.cls || (s.pav at_).newPath.any kin then
    s.onPav at_ fun v => { v with newPath := v.newPath ++ [⟨n, d, m⟩] }
  else s.deliver n d at_ m

/-- The held messages of a pavilion whose old path is clear are delivered, in the order of their arrival (spec/08 R332). -/
def Part.releasePaths (s : Part) (p : Nat) : Part :=
  let l := (s.pav p).newPath
  let free := l.filter fun h => !s.oldPathBusy h.link h.msg.src p h.msg.cls
  if free.isEmpty then s else
  let s := s.onPav p fun v => { v with newPath := l.filter fun h => !free.contains h }
  iter free s fun s h => s.deliver h.link h.way p h.msg

/-- The ACK and credit fields of a flit applied to the opposite direction's sender at a time (spec/08 R313, R338). -/
def LinkDir.applyHeader (q : LinkDir) (f : Flit) (now : Nat) : LinkDir :=
  let q := if ahead 12 f.ack q.acked then
      { q with
        acked := f.ack
        ackAt := now + 1
        naks := 0
        replay := q.replay.filter fun r => ahead 12 r.seq f.ack
        resend := q.resend.filter fun r => ahead 12 r.seq f.ack }
    else q
  if ahead 16 f.crCount (q.returned.getD f.crSel 0) then
    { q with returned := q.returned.set f.crSel f.crCount, creditAt := q.creditAt.set f.crSel (now + 1) }
  else q

/-- Ask for a replay, unless one is asked for (spec/08 R313). -/
def LinkDir.sendNak (q : LinkDir) : LinkDir := if q.nakOut then q else { q with nakOut := true, nakWire := true }

/-- FLIT_RECEIVE (spec/08 R313): the receiver of a direction takes the oldest flit on its wire. -/
def Part.receiveFlit (s : Part) (n d : Nat) (crcOk : Bool) : Part :=
  match ((s.link n).dir d).wire with
  | [] => s
  | f :: rest =>
    let s := s.onLink n fun l => l.onDir d fun q => { q with wire := rest }
    if !crcOk then
      (s.count .linkCrcErrors n).onLink n fun l => l.onDir d LinkDir.sendNak
    else
      let s := s.onLink n fun l => l.onDir (otherDir d) fun q => q.applyHeader f s.now
      if !f.isData then s else
      let e := ((s.link n).dir d).expected
      if f.seq = e then
        let heard := f.msgs.any (·.cls == clsResponse)
        let s := s.onLink n fun l => l.onDir d fun q =>
          { q with expected := (e + 1) % 4096, nakOut := false, heardAt := if heard then s.now + 1 else q.heardAt }
        let s := iter f.msgs s fun s m => s.receiveMsg n d (dirEnds n d).2 m
        iter allPavs s Part.releasePaths
      else if ahead 12 e f.seq then s.count .linkDuplicates n
      else s.onLink n fun l => l.onDir d LinkDir.sendNak

/-- FLIT_RECEIVE. -/
def execFlitReceive (n : Link) (d : Dir) (crcOk : Bool) (s : State) : Host.Outcome State Fault Refusal :=
  s.run fun p => if p.od .linkState n = 2 then p.receiveFlit n d crcOk else p

/-! ## Losing a link (spec/08 R324 to R335) -/

/-- A pavilion may carry a detour (spec/08 R331). -/
def Part.carries (s : Part) (c : Nat) : Bool := s.pstate c == 1 || s.pstate c == 3 || s.pstate c == 2

/-- The detour of two pavilions now; 0xFF for none (spec/08 R331). -/
def Part.detourOf (s : Part) (a b : Nat) : Nat :=
  ((allPavs.find? fun c => c != a && c != b && s.carries c && s.linkUp a c && s.linkUp c b).getD 0xFF)

/-- Send the messages that wait at their sources for a path (spec/08 R334); a request's path is the one it takes now (spec/01 R39). -/
def Part.flushWaiting (s : Part) (n : Nat) : Part :=
  let l := (s.link n).waiting
  let e := linkEnds n
  if l.isEmpty || ((s.hop e.1 e.2).isNone && (s.hop e.2 e.1).isNone) then s else
  let s := s.onLink n fun q => { q with waiting := [] }
  iter l s fun s m =>
    let s := if m.opcode ≤ 3 then s.viaFor m m.src ((s.hop m.src m.dst).getD m.dst) else s
    s.send m.src (s.sourcePort m) m

/-- Choose every detour again (spec/08 R331); a new one is logged with code 0x1104. -/
def Part.chooseDetours (s : Part) : Part :=
  let s := iter (List.range 28) s fun s n =>
    let e := linkEnds n
    let c := if s.od .linkState n = 2 || s.od .linkState n = 5 then 0xFF else s.detourOf e.1 e.2
    if c = s.od .linkDetour n then s else
    let s := s.setOd .linkDetour n c
    if c = 0xFF then s else s.logEv 0x1104 n c
  iter (List.range 28) s Part.flushWaiting

/-- A forwarded request's path uses a link: on its way to the detour's pavilion or from it to the home (spec/08 R328,
R330). -/
def Fwd.uses (f : Fwd) (p n : Nat) : Bool :=
  let e := linkEnds n
  let leg (a b : Nat) : Bool := (a == e.1 && b == e.2) || (a == e.2 && b == e.1)
  leg p f.via || leg f.via f.home

/-- A request that gets a synthetic error completion (spec/01 R49, R50): poison for a read; a write completes and its line
is to be poisoned by a POISON_LINE request, logged with code 0x1107; a poison request is sent again. The request in place of one that
was being sent again goes ahead at its home, as that one would (status 6, spec/02 R94); those that waited behind a held write follow it. -/
def Part.synthetic50 (s : Part) (i : Nat) (f : Fwd) : Part :=
  let sl := f.req.slice
  let status := if f.sent then 6 else 0
  match f.req.kind with
  | .read => ((s.count .slicePoisonReads sl).answerHost f.req onesLine true).unpark i sl
  | .poison => s.forward f.req status fun g => { g with sent := f.sent }
  | _ =>
    let s := s.answerHost f.req 0 false
    let s := s.forward { f.req with kind := .poison, answer := false } status fun g => { g with sent := f.sent }
    let s := (s.logEv 0x1107 (f.req.logical / 64 * 64) i (some sl)).releaseHold i sl f.req.lpage
    (s.unpark i sl).heldAlarm sl f.home

/-- A forwarded request awaits its response: it was not sent back, and no response to it has arrived. -/
def Part.awaits (s : Part) (p : Nat) (f : Fwd) : Bool :=
  !(f.held && !f.sent) && !f.withheld && !(s.pav p).inbox.any fun m => m.cls == clsResponse && m.tag == f.tag && m.slice == f.req.slice

/-- Treat the requests of a pavilion's ports that were routed over a link as lost (spec/08 R328, R329, R330): all leave their entries
before the first goes again, so that each takes the new path (spec/01 R50). -/
def Part.loseRequests (s : Part) (p n : Nat) : Part :=
  iter [2 * p, 2 * p + 1] s fun s i =>
    iter (s.port i).parts s fun s e =>
      let gone (f : Fwd) : Bool := f.uses p n && s.awaits p f
      let lost := (s.part i e.1).forwarded.filter gone
      let s := s.onPart i e.1 fun q => { q with forwarded := q.forwarded.filter fun f => !gone f }
      iter lost s fun s f => (s.synthetic50 i f).count .linkSyntheticCompletions n

/-- Every message on a link, queued, in the replay buffers or on the wire, oldest first. -/
def LinkState.messages (l : LinkState) : List Msg :=
  let d (q : LinkDir) : List Msg := (q.replay.flatMap (·.msgs)) ++ q.tx.map (·.msg)
  d l.up ++ d l.down

/-- What a link carried to its receivers and they have not delivered: in flight, and held for an old path (spec/08 R328, R332). -/
def Part.carried (s : Part) (n : Nat) : List Msg :=
  (s.link n).up.undelivered ++ (s.link n).down.undelivered ++
    allPavs.flatMap fun p => ((s.pav p).newPath.filter (·.link == n)).map (·.msg)

/-- Drop what a link carried (spec/08 R328): the messages of host requests and responses are gone, the others go again by
the new path; what a receiver held for an old path is dropped with the rest. -/
def Part.dropTraffic (s : Part) (n : Nat) : Part :=
  let lost := (s.link n).messages.filter resentKind ++
    (s.carried n).filter fun m => !(resentKind m && (s.link n).messages.contains m)
  let s := s.onLink n fun l => { l with up := LinkDir.zero, down := LinkDir.zero }
  let s := iter allPavs s fun s p =>
    if (s.pav p).newPath.isEmpty then s else s.onPav p fun v => { v with newPath := v.newPath.filter (·.link != n) }
  let s := iter lost s fun s m => s.loseMsg n m
  iter allPavs s Part.releasePaths

/-- Tell every other pavilion in service of a link's new state (spec/08 R328, R310). -/
def Part.linkNotices (s : Part) (n : Nat) : Part :=
  let e := linkEnds n
  let st := s.od .linkState n
  iter [e.1, e.2] s fun s a =>
    if !s.carries a then s else
    iter (s.serving.filter fun p => p != e.1 && p != e.2) s fun s p =>
      s.send a 11 { Msg.zero with cls := clsManagement, opcode := 13, src := a, dst := p, addr := n + st * 32 }

/-- Some outstanding request of a slice goes over a link. -/
def Part.usesLink (s : Part) (sl n : Nat) : Bool :=
  (List.range 16).any fun i => (s.part i sl).forwarded.any fun f =>
    let a := portPav i
    (a != f.via && linkOf a f.via == n) || (f.via != f.home && linkOf f.via f.home == n)

/-- A link break extends the drains of the slices whose traffic the link carries (spec/10 R411, R412). -/
def Part.extendDrains (s : Part) (n : Nat) : Part :=
  iter (s.slices.filter fun e => e.2.drain.isSome && s.usesLink e.1 n) s fun s e =>
    s.onSlice e.1 fun q => { q with drain := q.drain.map fun d => { d with extended := true } }

/-- A link breaks (spec/08 R324, R325, R328): cause, count, log code 0x1101 with the link, the cause and the end; its traffic
is lost; detours are chosen; the others are told. -/
def Part.breakLink (s : Part) (n cause end_ : Nat) : Part :=
  if s.od .linkState n != 2 || s.rest.inRest then s else
  let e := linkEnds n
  let s := ((s.setOd .linkState n 3).setOd .linkCause n cause).count .linkBreaks n
  let s := s.logEv 0x1101 n (cause ||| (end_ <<< 8))
  let s := ((s.extendDrains n).dropTraffic n).chooseDetours
  let s := s.loseRequests e.1 n
  let s := s.loseRequests e.2 n
  s.linkNotices n

/-- PROM_LINK_NOTICE (spec/08 R330): requests of the pavilion's ports routed over the link are lost; detours are chosen
again. -/
def execPromLinkNotice (p : Pav) (s : State) : Host.Outcome State Fault Refusal :=
  s.run fun q =>
    match q.takeMsg p 13 with
    | none => q
    | some (m, q) => if m.addr / 32 = 2 then q.chooseDetours else (q.loseRequests p (m.addr % 32)).chooseDetours

/-- NAK_RECEIVE (spec/08 R314): every flit of the replay buffer is sent again, oldest first; the sixteenth NAK without ACK
advancing breaks the link with REPLAY_LIMIT (R324). -/
def execNakReceive (n : Link) (d : Dir) (s : State) : Host.Outcome State Fault Refusal :=
  s.run fun p =>
    if p.od .linkState n != 2 || !((p.link n).dir d).nakWire then p else
    let p := (p.onLink n fun l => l.onDir d fun q =>
      { q with nakWire := false, resend := q.replay, naks := q.naks + 1 }).count .linkReplays n
    if 16 ≤ ((p.link n).dir d).naks then p.breakLink n 3 (dirEnds n d).1 else p

/-- A direction's sender holds a message that waits for credit of a counter whose returned count does not advance now (spec/08 R324,
spec/00 R13). -/
def LinkDir.starved (q : LinkDir) (now : Nat) : Bool :=
  q.tx.any fun t =>
    (q.credits (2 * t.msg.cls) == 0 && q.creditAt.getD (2 * t.msg.cls) 0 != now + 1) ||
      (decide (q.credits (2 * t.msg.cls + 1) < t.msg.units) && q.creditAt.getD (2 * t.msg.cls + 1) 0 != now + 1)

/-- LINK_CREDIT_TIMEOUT (spec/08 R324): a message that waits for credit, and the counter's returned count stands still; a response that
arrives on the link now wins (spec/01). -/
def execLinkCreditTimeout (n : Link) (d : Dir) (s : State) : Host.Outcome State Fault Refusal :=
  s.run fun p =>
    let q := (p.link n).dir d
    if q.starved p.now && ((p.link n).dir (otherDir d)).heardAt != p.now + 1 then p.breakLink n 1 (dirEnds n d).1 else p

/-- LINK_ACK_TIMEOUT (spec/08 R324): a replay buffer that is not empty, and ACK stands still, now too (spec/00 R13). -/
def execLinkAckTimeout (n : Link) (d : Dir) (s : State) : Host.Outcome State Fault Refusal :=
  s.run fun p =>
    let q := (p.link n).dir d
    if q.replay.isEmpty || q.ackAt = p.now + 1 then p else p.breakLink n 2 (dirEnds n d).1

/-- LINK_PHY_LOST (spec/08 R324, R325): the receiver of a direction loses lock, or sees the other end's idle. -/
def execLinkPhyLost (n : Link) (d : Dir) (peer : Bool) (s : State) : Host.Outcome State Fault Refusal :=
  s.run fun p => p.breakLink n (if peer then 7 else 4) (dirEnds n d).2

/-- LINK_IDLE_END (spec/08 R325, R326): both ends of a broken link start training. -/
def execLinkIdleEnd (n : Link) (s : State) : Host.Outcome State Fault Refusal :=
  s.run fun p =>
    if p.od .linkState n = 3 then p.onLink n fun l => { l with trainings := (l.trainings + 1) % 65536 } else p

/-- LINK_TRAINING_DONE (spec/08 R326): the link becomes UP, every counter 0; an advertised count outside R317 is INIT_ERROR
and the attempt is to fail. A link returning to service is logged with code 0x1102; waiting messages go. -/
def execLinkTrainingDone (n : Link) (eye : BitVec 32) (advertisedOk : Bool) (s : State) : Host.Outcome State Fault Refusal :=
  s.run fun p =>
    let st := p.od .linkState n
    if st != 0 && st != 1 && st != 3 && st != 4 then p
    else if !advertisedOk then p.setOd .linkCause n 5
    else
      let p := p.onLink n fun l =>
        { l with up := { LinkDir.zero with tx := l.up.tx }, down := { LinkDir.zero with tx := l.down.tx }, attempts := 0 }
      let p := (p.setOd .linkState n 2).setOd .linkEyeMargin n eye.toNat
      let p := if st = 3 || st = 4 then p.logEv 0x1102 n 0 else p
      (p.chooseDetours.linkNotices n).flushWaiting n

/-- A write of LINK_COMMAND: 1 RETRAIN (spec/08 R337). An UP link breaks with cause OPERATOR; a FAILED link makes one attempt;
any other state is refused. -/
def Part.linkCommand (s : Part) (w : Who) (n v : Nat) : Reply :=
  s.command w .linkCommand v false fun s =>
    let st := s.od .linkState n
    if st = 2 then (s.breakLink n 6 (linkEnds n).1).ok
    else if st = 4 then (s.onLink n fun l => { l with trainings := (l.trainings + 1) % 65536, attempts := 255 }).ok
    else s.refuse rState

/-- LINK_RETRAIN (spec/08 R337). -/
def execLinkRetrain (w : Who) (n : Link) (s : State) : Host.Outcome State Fault Refusal :=
  s.run fun s => (s.linkCommand w n 1).answer w

/-- Links that count as lost (spec/08 R334). -/
def Part.linkGone (s : Part) (a b : Nat) : Bool :=
  let st := s.od .linkState (linkOf a b)
  st == 4 || st == 5

/-- Two pavilions have a possible path, directly or through one detour (spec/08 R334). -/
def Part.pathPossible (s : Part) (a b : Nat) : Bool :=
  a == b || !s.linkGone a b ||
    allPavs.any fun c => c != a && c != b && s.carries c && !s.linkGone a c && !s.linkGone c b

/-- The pavilions that a FAILED link takes out (spec/08 R334): those without a path to pavilion 0, and the higher of each
pair without a path. -/
def Part.pathless (s : Part) : List Nat :=
  let live := allPavs.filter s.carries
  let alone := live.filter fun p => p != 0 && !s.pathPossible p 0
  let rest := live.filter fun p => !alone.contains p
  alone ++ rest.filter fun b => rest.any fun a => decide (a < b) && !s.pathPossible a b

/-- The links of a pavilion become DISABLED and their traffic is lost (spec/08 R335). -/
def Part.disableLinks (s : Part) (p : Nat) : Part :=
  let ns := (List.range 28).filter fun n => (linkEnds n).1 == p || (linkEnds n).2 == p
  let s := iter ns s fun s n => s.setOd .linkState n 5
  let s := iter ns s fun s n => (s.dropTraffic n).onLink n fun l => { l with waiting := [] }
  let s := iter ns s.chooseDetours fun s n => s.onLink n fun l => { l with waiting := [] }
  iter allPavs s fun s a => iter ns s fun s n => s.loseRequests a n

end Sys2Proof.Machine
end

