-- ==== Sys2Proof/Machine/Ranks.lean ====
section
/-!
DEFINITION. Ranks and layers leaving service (spec/06 R254 to R260, spec/15 R563, R564) and the asking for compiles
(spec/07 R293, R300).
-/

namespace Sys2Proof.Machine

/-- Queue a compile unless an equal one waits (spec/07 R300): kind 0 full, 1 forced, 2 plan only, 3 supplementary. -/
def Part.askCompile (s : Part) (kind : Nat) (arg : Nat := 0) : Part :=
  let a : CompileAsk := ⟨kind, [], none, .plain, arg⟩
  if s.vint.queue.contains a then s else { s with vint := { s.vint with queue := s.vint.queue ++ [a] } }

/-- Queue a compile with who waits for it and what for. -/
def Part.ask (s : Part) (a : CompileAsk) : Part := { s with vint := { s.vint with queue := s.vint.queue ++ [a] } }

/-- Pavilions whose state is IN_SERVICE. -/
def Part.inServiceState (s : Part) : List Nat := allPavs.filter fun p => s.pstate p == 1

/-- LADDER_EVENTS counts an action of a rung (spec/15 R557). -/
def Part.ladder (s : Part) (rung : Nat) : Part :=
  s.modOd .ladderEvents 0 fun v => setBits v (32 * (rung - 1)) 32 ((bits v (32 * (rung - 1)) 32 + 1) % 2 ^ 32)

/-- The RETIRE of a pavilion that the sparing ladder issues (spec/15 R564, R565): when the transition of spec/01 R26 is
allowed and no other pavilion is RETIRING. Its mirrors and ports are settled before the compile that it asks for starts. -/
def Part.autoRetire (s : Part) (p : Nat) : Part :=
  if (s.pstate p == 1 || s.pstate p == 2) && !(allPavs.any fun q => s.pstate q == 3) &&
      decide (2 ≤ ((s.inServiceState).filter (· != p)).length) then
    let s := (({ s with season := { s.season with retiring := s.season.retiring ++ [p * 2 + b2n (s.pstate p == 2)] } }).ladder 4)
    ((s.setOd .pavilionState p 3).setOd .pavilionCause p 2).askCompile 0
  else s

/-- A pavilion meets rung 4 (spec/15 R564). -/
def Part.rung4 (s : Part) (p : Nat) : Part :=
  if p != 0 && s.od0 .wearRetirePolicy == 1 then s.autoRetire p
  else s.logEv 0x1805 p (s.od .dramLayers p) none p

/-- Layers in service below PAVILION_MIN_LAYERS. -/
def Part.checkLayers (s : Part) (p : Nat) : Part :=
  if s.od .dramLayers p < s.od0 .pavilionMinLayers then s.rung4 p else s

/-- A layer is lost (spec/15 R563): CAP_RAW drops its extents, the wear record keeps it, every live extent gets a COMPACT
entry ahead of the plan, its SPARE extents are RETIRED, a forced compile follows. -/
def Part.loseLayer (s : Part) (p k : Nat) : Part :=
  if s.layerLost p k then s else
  let le := (s.geom p).layerExts
  let mine := (s.pav p).own.range (k * le) ((k + 1) * le)
  let out := (mine.filter fun e => (s.pav p).table.contains e.1 || e.2.kind == kindRetired).length
  let s := { s with flash := { s.flash with lostLayers := s.flash.lostLayers ++ [p * 4 + k] } }
  let s := s.modOd .dramLayers p (· - 1)
  let live := mine.filter fun e => e.2.kind == kindHot || e.2.kind == kindTag || e.2.kind == kindCask || e.2.kind == kindCellar
  let s := s.onPav p fun v => { v with
    capRaw := v.capRaw - (le - out)
    plan := (live.map fun e => ⟨2, e.2.owner, e.1, p, 0⟩) ++ v.plan }
  let s := iter (mine.filter fun e => e.2.kind == kindSpare) s fun s e => s.setOwn p e.1 { Own.free with kind := kindRetired }
  (s.askCompile 1).checkLayers p

/-- Burst numbers from here up name bursts of spare ranks, which no pavilion location names. -/
def spareBase : Nat := 2 ^ 60

/-- Bursts of one rank in one bank group of a subchannel. -/
def Geometry.groupBursts (g : Geometry) : Nat := 2 ^ (g.c + 2 + g.h + g.s)

/-- The number of the first burst of a spare rank's bank group. -/
def Part.spareFirst (s : Part) (k u g : Nat) : Nat := spareBase + ((k * 2 + u) * 8 + g) * (s.geom (k / 32)).groupBursts

/-- Entries of a channel's queues name the ranks that serve their bursts now (spec/06 R257). -/
def Part.rerank (s : Part) (c : Nat) : Part :=
  let f (q : QEnt) : QEnt :=
    if spareBase ≤ q.burst then q else { q with bank := s.rankAt c (s.placeOf (c / 8) q.burst).layer q.burst * 4 + q.bank % 4 }
  s.onChan c fun v => { v with
    queue := v.queue.map f, withheld := v.withheld.map f, repairQ := v.repairQ.map f, suspects := v.suspects.map f }

/-- A rank takes no more commands (spec/06 R259): its writes are discarded, its reads return uncorrectable, and nothing waits for its banks. -/
def Part.silence (s : Part) (c r : Nat) : Part :=
  s.onChan c fun v =>
    let on (q : QEnt) : Bool := q.bank / 4 == r
    let reads := ((v.withheld ++ v.queue).filter fun q => on q && !q.write).map fun q => { q with value := 0 }
    { v with
      queue := v.queue.filter fun q => !on q
      withheld := v.withheld.filter fun q => !on q
      inflight := v.inflight ++ reads
      repairQ := v.repairQ.filter fun q => !on q
      suspects := v.suspects.filter fun q => !on q
      rfmDue := v.rfmDue.filter fun k => k % 16 / 4 != r
      openRows := v.openRows.filter fun e => e.1 % 16 / 4 != r }

/-- Rebuild a rank onto a spare (spec/06 R256): rung 3 of the ladder. The weak rows of the rank leave the list (spec/15, race of
a rank failure with a page retirement). -/
def Part.startRebuild (s : Part) (c r spare : Nat) : Part :=
  let s := s.ladder 3
  let s := { s with flash := { s.flash with weakRows := s.flash.weakRows.filter fun w => !(w.chan == c && w.rank == r) } }
  let layer := s.od .rankLayer (c * 4 + r)
  let s := ((s.setOd .rankState (c * 4 + spare) 2).setOd .rankReplaces (c * 4 + spare) r).setOd .rankLayer (c * 4 + spare) layer
  let s := (s.setOd .rankState (c * 4 + r) 4).setOd .rankLayer (c * 4 + r) 0xFF
  let le := (s.geom (c / 8)).layerExts
  let s := s.onPav (c / 8) fun v => { v with
    dram := v.dram.eraseRange (s.spareFirst (c * 4 + spare) 0 0) (s.spareFirst (c * 4 + spare + 1) 0 0) }
  let s := s.onChan c fun v => { v with
    repairQ := v.repairQ.filter fun q => q.bank / 4 != spare
    suspects := v.suspects.filter fun q => q.bank / 4 != spare
    inflight := v.inflight.filter fun q => q.bank / 4 != spare }
  ((s.onChan c fun v => { v with
    rankMap := v.rankMap.set layer spare
    rebuild := some ⟨r, spare, layer * le⟩ }).rerank c).setOd .rebuildProgress c 0

/-- The lowest spare rank of a channel in state SPARE. -/
def Part.spareRank (s : Part) (c : Nat) : Option Nat := (List.range 4).find? fun r => s.rankState c r == 3

/-- A rank leaves service (spec/06 R254): rebuilt onto a spare of its channel, or LOST with its layer. -/
def Part.rankLeaves (s : Part) (c r cause : Nat) : Part :=
  let st := s.rankState c r
  if st = 3 then
    (((s.setOd .rankState (c * 4 + r) 5).setOd .rankFailCause (c * 4 + r) cause).logEv 0x0F03 (c * 4 + r) cause none (c / 8)).silence c r
  else if st != 2 then s
  else
    let s := (s.setOd .rankFailCause (c * 4 + r) cause).logEv 0x0F03 (c * 4 + r) cause none (c / 8)
    match s.spareRank c with
    | some k => s.startRebuild c r k
    | none =>
      let layer := s.od .rankLayer (c * 4 + r)
      let s := ((s.setOd .rankState (c * 4 + r) 6).setOd .rankLayer (c * 4 + r) 0xFF).silence c r
      s.loseLayer (c / 8) layer

/-- A burst's uncorrectable error is confirmed (spec/06 R252): its rank leaves service with UE_DATA. -/
def Part.confirmed (s : Part) (p x : Nat) : Part :=
  let pl := s.placeOf p x
  let c := pl.chan p
  s.rankLeaves c (s.rankAt c pl.layer x) 1

/-- A second read was clean or corrected: UE_TRANSIENT (spec/06 R252). -/
def Part.transient (s : Part) (p x : Nat) : Part :=
  let pl := s.placeOf p x
  let c := pl.chan p
  s.count .ueTransient (c * 4 + s.rankAt c pl.layer x)

/-- Ask the rank-health logic for a confirming read of a burst (spec/06 R252). -/
def Part.suspect (s : Part) (p x : Nat) : Part :=
  if s.burstLost p x then s else
  s.onChan ((s.placeOf p x).chan p) fun v => { v with suspects := v.suspects ++ [s.qEntry p x false byScrub ownConfirm 0 0 0 0] }

end Sys2Proof.Machine
end

