-- ==== Sys2Proof/Machine/Banks.lean ====
section
/-!
DEFINITION. Banks of a channel: what DRAM holds, open rows, activations and the hammer guard (spec/06 R228, R232, R240 to R245), the
commands of a burst, and the caches of cellar-book and tag-region lines (spec/02 R61, spec/04 R166).
-/

namespace Sys2Proof.Machine

/-! ## Banks and bursts -/

/-- The key of a bank of a channel: chip ID, subchannel, bank group, rank × 4 + bank. Each logical rank of a stack has its own banks
(spec/06 R228). -/
def bankKey (u g b cid : Nat) : Nat := cid * 256 + u * 128 + g * 16 + b
/-- The bank of a queue entry. -/
def QEnt.key (q : QEnt) : Nat := bankKey q.sub q.group q.bank q.cid
/-- The rank of a bank. -/
def keyRank (k : Nat) : Nat := k % 16 / 4

/-- The burst is of a layer that a LOST rank serves; bursts of spare ranks are of none. -/
def Part.unstored (s : Part) (p x : Nat) : Bool := decide (x < spareBase) && s.burstLost p x

/-- Write a burst of DRAM; `inl`: it carries the TAG-INLINE code. -/
def Part.putDram (s : Part) (p x v : Nat) (inl : Bool := false) : Part :=
  if s.unstored p x then s
  else s.onPav p fun q => { q with dram := q.dram.set zeroBurst x (v % 2 ^ 640), inlined := q.inlined.set 0 x (b2n inl) }

/-- Every burst of an extent holds zero data (spec/02 R66). -/
def Part.zeroBursts (s : Part) (p ext : Nat) : Part :=
  let lo := ext * extBursts
  s.onPav p fun v => { v with dram := v.dram.eraseRange lo (lo + extBursts), inlined := v.inlined.eraseRange lo (lo + extBursts) }

/-- Read a burst of DRAM as it stands. -/
def Part.getDram (s : Part) (p x : Nat) : Nat := if spareBase ≤ x then (s.pav p).dram.get zeroBurst x else s.dramAt p x

/-- The burst address of a queue entry (spec/05 R210): on the rank that the entry names. -/
def Part.entryAddress (s : Part) (c : Nat) (q : QEnt) : Nat :=
  burstAddress c q.sub (q.bank / 4) q.group (q.bank % 4) q.row
    (if spareBase ≤ q.burst then q.burst % 2 ^ (s.geom (c / 8)).c * 16 + q.cid else (s.placeOf (c / 8) q.burst).column)

/-! ## The hammer guard (spec/06 R240 to R245) -/

/-- Count an activation in a bank's row tracker (spec/06 R243): the tracker after it and the count of the row for the
requester, 0 when it has no entry. -/
def trackRow (l : List TrackRow) (row who : Nat) : List TrackRow × Nat :=
  match l.find? (fun t => t.row == row && t.requester == who) with
  | some t => (l.map fun e => if e.row == row && e.requester == who then { e with count := e.count + 1 } else e, t.count + 1)
  | none =>
    if l.length < 64 then (l ++ [⟨row, who, 1⟩], 1)
    else ((l.map fun e => { e with count := e.count - 1 }).filter fun e => e.count != 0, 0)

/-- A bank gets an RFM command in the next slot of its bank group. -/
def ChanState.askRfm (v : ChanState) (k : Nat) : ChanState :=
  if v.rfmDue.contains k then v else { v with rfmDue := v.rfmDue ++ [k] }

/-- Keep a command among the last 64 of its channel (spec/06 R253). -/
def ChanState.note (v : ChanState) (m : DramCmd) : ChanState :=
  { v with lastCmds := (if v.lastCmds.length < 64 then v.lastCmds else v.lastCmds.drop 1) ++ [m] }

/-- Throttle a requester in a bank until the window ends (spec/06 R245). The record of the part's log names the requester
(VALUE_A [63:32]), the channel and the bank's key (VALUE_A [31:16] and [15:0], log entry 198) and the row. -/
def Part.throttle (s : Part) (c : Nat) (q : QEnt) : Part :=
  let who := if q.owner < 4096 then some q.owner else none
  let s := s.onChan c fun v => { v with throttled := v.throttled ++ [(q.key, q.owner)] }
  let s := s.count .hammerThrottles c
  let a := q.group * 4 + q.bank % 4
  let s := match who with
    | none => s
    | some sl =>
      let s := s.count .sliceHammerThrottles sl
      match s.boundPort sl with
      | none => s
      | some i => s.vendorEvent i logWarning 0x0F02 who (c / 8) ones64 ones64 a q.row
  s.logEv 0x0F02 ((q.owner <<< 32) ||| (c <<< 16) ||| q.key) q.row who (c / 8)

/-- An activation of a row by a requester (spec/06 R240, R243). -/
def Part.activate (s : Part) (c : Nat) (q : QEnt) : Part :=
  let k := q.key
  let t := trackRow ((s.chan c).tracker.get [] k) q.row q.owner
  let s := s.onChan c fun v => { v with raa := v.raa.modify 0 k (· + 1), tracker := v.tracker.set [] k t.1 }
  let s := if (s.chan c).raaInit.getD (keyRank k) 0 ≤ (s.chan c).raa.get 0 k then s.onChan c fun v => v.askRfm k else s
  let s := if 0 < t.2 && t.2 % s.od .hammerRfm (c / 8) = 0 then s.onChan c fun v => v.askRfm k else s
  if s.od .hammerThrottle (c / 8) ≤ t.2 && !(s.chan c).throttled.contains (k, q.owner) then s.throttle c q else s

/-- A requester is throttled in a bank. -/
def ChanState.isThrottled (v : ChanState) (q : QEnt) : Bool := v.throttled.contains (q.key, q.owner)

/-! ## The commands of a burst -/

/-- The row of an entry is open. -/
def ChanState.rowOpen (v : ChanState) (q : QEnt) : Bool := v.openRows.get 0 q.key == q.row + 1

/-- Commands of a burst go out: activation unless its row is open, after a precharge where another row is, the page policy (spec/06
R232), wake from power-down (R261), and the record of the last 64 (R253). -/
def Part.commandsOf (s : Part) (c : Nat) (q : QEnt) : Part :=
  let s :=
    if (s.chan c).rowOpen q then s else
    let s := if (s.chan c).openRows.get 0 q.key = 0 then s else s.onChan c fun v => v.note (.precharge q.key)
    (s.activate c q).onChan c fun v => v.note (.activate q.key q.row q.owner)
  s.onChan c fun v => { v with
    openRows := if q.hint then v.openRows.set 0 q.key (q.row + 1) else v.openRows.erase q.key
    powerDown := v.powerDown.filter (· != q.bank / 4) }.note (if q.write then .write q else .read q)

/-- An engine reads a burst in its own command (log entry 71): the commands of the read go out under its identity (spec/06 R242) unless
the burst stands in a write queue or on a LOST rank. -/
def Part.engineRead (s : Part) (p x who : Nat) : Part :=
  if s.burstLost p x || (s.queued p x).isSome then s
  else s.commandsOf ((s.placeOf p x).chan p) (s.qEntry p x false who ownMigration 0 0 0 0)

/-! ## The caches of the part's own lines (spec/02 R61, spec/04 R166) -/

/-- Look a line up in a set-associative cache of 16 ways that replaces the least recently used line of a set: the cache after it, and
whether the line was there. A line's set is its number modulo the sets (log entry 203). -/
def cacheLook (sets line : Nat) (v : Sparse (List Nat)) : Sparse (List Nat) × Bool :=
  let l := v.get [] (line % sets)
  (v.set [] (line % sets) ((line :: l.filter (· != line)).take 16), l.contains line)

/-- A line leaves a cache. -/
def cacheDrop (sets line : Nat) (v : Sparse (List Nat)) : Sparse (List Nat) := v.modify [] (line % sets) (·.filter (· != line))

/-- Sets of the cellar-book cache: 4 MiB in 64-byte lines and 16 ways. -/
def cellarSets : Nat := 4096
/-- Sets of the tag cache: 8 MiB. -/
def tagSets : Nat := 8192

/-- The cellar-book cache of a page's home holds the line of its entry. -/
def Part.cellCached (s : Part) (p sl lpage : Nat) : Bool :=
  ((s.pav p).cellarCache.get [] (pageKey sl lpage / 4 % cellarSets)).contains (pageKey sl lpage / 4)

/-- The tag cache of a pavilion holds the line of the tag-region entry of a line's burst. -/
def Part.tagCached (s : Part) (p x : Nat) : Bool :=
  let b := s.tagBurst p (x / extBursts) (x % extBursts)
  ((s.pav p).tagCache.get [] (b % tagSets)).contains b

/-- The entry of a page is looked up in the cellar-book cache of its home; a miss reads its line from DRAM (log entry 203). -/
def Part.lookCell (s : Part) (p who sl lpage : Nat) : Part :=
  let q := cacheLook cellarSets (pageKey sl lpage / 4) (s.pav p).cellarCache
  let s := s.onPav p fun v => { v with cellarCache := q.1 }
  if q.2 then s else iter (s.cellarBurst p sl lpage true).toList s fun s x => s.engineRead p x who

/-- The tag-region entry of a line's burst is looked up in the tag cache; a miss reads its line from DRAM. -/
def Part.lookTag (s : Part) (p who x : Nat) : Part :=
  let b := s.tagBurst p (x / extBursts) (x % extBursts)
  let q := cacheLook tagSets b (s.pav p).tagCache
  let s := s.onPav p fun v => { v with tagCache := q.1 }
  if q.2 then s else s.engineRead p b who

end Sys2Proof.Machine
end

