-- ==== Sys2Proof/Machine/Home.lean ====
section
/-!
DEFINITION. Requests on their home pavilion: reads, writes, partial writes and poison requests (spec/01 R32 to R48, spec/02
R70 to R75, spec/04 R170 to R173, R626), the DRAM reads they wait for (spec/05 R194 to R201) and the mirror writes of the
cellar book (spec/02 R60).
-/

namespace Sys2Proof.Machine

/-! ## Taking a request -/

/-- A message of the request class that names a page. -/
def Msg.onPage (m : Msg) : Bool := m.cls == 0 && decide (m.opcode ≤ 3)

/-- Two messages name one page. -/
def samePage (a b : Msg) : Bool := a.slice == b.slice && a.lpage == b.lpage

/-- A request may run beside the tasks of its page: reads beside reads only (spec/01 R36). -/
def Part.taskFree (s : Part) (p : Nat) (m : Msg) : Bool :=
  (s.pav p).tasks.all fun t =>
    t.slice != m.slice || t.lpage != m.lpage || (m.opcode == 0 && (t.kind == .readLine || t.kind == .readCask))

/-- Take the first request of an opcode that no earlier request of its page precedes (spec/01 R36). -/
def takeReqFrom (ok : Msg → Bool) (op : Nat) : List Msg → List Msg → Option (Msg × List Msg)
  | _, [] => none
  | seen, m :: r =>
    if m.cls == 0 && m.opcode == op && ok m && !(seen.any fun e => e.onPage && samePage e m) then some (m, seen ++ r)
    else takeReqFrom ok op (seen ++ [m]) r

/-- The next request of an opcode at a pavilion. -/
def Part.takeReq (s : Part) (p op : Nat) : Option (Msg × Part) :=
  let ready (m : Msg) : Bool := s.taskFree p m && !(s.vint.swapping.contains p && m.label / 4096 % 2 == s.vint.bank)
  (takeReqFrom ready op [] (s.pav p).inbox).map fun q => (q.1, s.onPav p fun v => { v with inbox := q.2 })

/-- A request whose region's move has its hold waits there (spec/15 R566). -/
def Part.regionHeld (s : Part) (p : Nat) (m : Msg) : Bool :=
  match (s.pav p).regionMove with
  | some r => r.hold && r.slice == m.slice && r.region == m.lpage / 262144
  | none => false

/-- What must come before a request runs: its region's hold, its home now (spec/01 R45), its page's hold (R48). Answers
whether it may run. -/
def Part.takeIn (s : Part) (p : Nat) (m : Msg) : Part × Bool :=
  if s.regionHeld p m then
    (s.onPav p fun v => { v with regionMove := v.regionMove.map fun r => { r with waiting := r.waiting ++ [m] } }, false)
  else match s.homeOf m.slice m.lpage with
    | some h =>
      if h != p then (s.send p 9 { m with dst := h }, false)
      else if s.isHeld p m.slice m.lpage then
        (s.onPav p fun v => { v with holds := v.holds.map fun q =>
          if q.slice == m.slice && q.lpage == m.lpage then { q with waiting := q.waiting ++ [m] } else q }, false)
      else (s, true)
    | none => (s, true)

/-- The key slots a request may need: that of its page, and the active one for a page that may take storage (spec/04 R175). -/
def Part.needSlots (s : Part) (c : Cell) (sl : Nat) : List Nat :=
  let active := s.od .sliceKeyActive sl
  if c.tier = tierZero then [active]
  else if c.tier = tierWarm && !c.fixed && c.keySel != active then [c.keySel, active]
  else [c.keySel]

/-- The key cache serves the request, or it waits for the reload (spec/04 R152). `err`: the cache finds an uncorrectable
error in the entry now. -/
def Part.keyGate (s : Part) (p : Nat) (m : Msg) (err : Bool) : Part × Bool :=
  let slots := s.needSlots (s.cell p m.slice m.lpage) m.slice
  let s := if err then s.keyCacheError p m.slice (slots.headD 0) else s
  if slots.any (s.keyAway p m.slice) then (s.onPav p fun v => { v with keyWaiting := v.keyWaiting ++ [m] }, false) else (s, true)

/-! ## Tasks -/

/-- Start or repeat a task: its bursts are taken from the write queues, from LOST ranks as uncorrectable, or read. -/
def Part.startReads (s : Part) (p : Nat) (t : Task) : Part × Task :=
  let now := t.bursts.filterMap fun x =>
    if s.burstLost p x then some (⟨x, 0, false⟩ : Got) else (s.queued p x).map fun v => ⟨x, v, false⟩
  let t := { t with got := now }
  let rest := t.bursts.filter fun x => !(now.any fun g => g.burst == x)
  let s := s.onPav p fun v => { v with tasks := v.tasks ++ [t] }
  let k := if rest.isEmpty then (ownOpen, s) else s.classFor p t.slice 0 rest.length
  let cask := t.kind == .readCask || t.kind == .convert
  (iter rest k.2 fun s x => s.readBurst p x t.slice k.1 t.slice t.lpage t.id cask, t)

/-- Every burst of a task has come. -/
def Task.full (t : Task) : Bool := t.got.length == t.bursts.length

/-- Take a task off the pavilion's list. -/
def Part.endTask (s : Part) (p id : Nat) : Part := s.onPav p fun v => { v with tasks := v.tasks.filter (·.id != id) }

/-- Give up a conversion: the frame taken for it is given back, its page is released. -/
def Part.giveUp (s : Part) (p : Nat) (t : Task) : Part :=
  if t.kind != .convert then s else
  let s := if (s.cell p t.slice t.lpage).fixed then s else s.freePlace p (extOf t.frame) (t.frame % extUnits / 8)
  s.releasePage p t.slice t.lpage

/-- Give up a task of a pavilion: its reads leave the channels. -/
def Part.abortTask (s : Part) (p : Nat) (t : Task) : Part :=
  let mine (q : QEnt) : Bool := q.task == t.id && !q.write
  let s := iter (List.range 8) s fun s k => s.onChan (p * 8 + k) fun v => { v with
    queue := v.queue.filter fun q => !mine q
    withheld := v.withheld.filter fun q => !mine q
    inflight := v.inflight.filter fun q => !mine q }
  (s.endTask p t.id).giveUp p t

/-- A write of a burst was issued since the task's read of it. -/
def Task.stale (t : Task) (x : Nat) : Bool := t.got.any fun g => g.burst == x && g.stale

/-- The value a task got for a burst. -/
def Task.value (t : Task) (x : Nat) : Nat := ((t.got.find? fun g => g.burst == x).map (·.value)).getD 0

/-! ## Lines -/

/-- Merge the bytes a mask enables into a line (spec/09 R344). -/
def mergeBytes (mask data old : Nat) : Nat :=
  let bytes := (List.range 64).foldl (fun a k => if mask.testBit k then a ||| (0xFF <<< (8 * k)) else a) 0
  (old ^^^ (old &&& bytes)) ||| (data &&& bytes)

/-- The line after a request's bytes: a full write, a partial write, or none. -/
def Msg.apply (m : Msg) (old : Nat) : Nat :=
  match m.opcode with
  | 1 => m.data % 2 ^ 512
  | 2 => mergeBytes (m.data % 2 ^ 64) (m.data / 2 ^ 128) old
  | _ => old

/-- The META of the request's line after it: cleared by a full write (spec/04 R173), kept by a partial one, LINK_LOSS for a
poison request on a line not yet poisoned (R626). -/
def Msg.mark (m : Msg) (old : Nat) : Nat :=
  match m.opcode with
  | 1 => 0
  | 3 => if metaPoisoned old then old else metaPoison causeLinkLoss
  | _ => old

/-- A write clears MOVING and so cancels a move in its copy phase (spec/02 R81). -/
def Part.touch (s : Part) (p sl lpage : Nat) : Part :=
  let c := s.cell p sl lpage
  let s := if c.moving then s.commit p sl lpage { c with moving := false } sl else s
  s.dirtyMark p sl lpage

/-- The logical address of a line. -/
def lineAddress (lpage line : Nat) : Nat := lpage * 4096 + line * 64

/-- The host port of a slice for a record; 0xFF for none. -/
def Part.portFor (s : Part) (sl : Nat) : Nat := (s.boundPort sl).getD 0xFF

/-- Set LINE_POISON of a stored line that is not yet poisoned, with a cause (spec/04 R170, spec/05 R196), and report it.
For TAG-INLINE an uncorrectable line is written again as read, with a fresh tag and its version up by 1. -/
def Part.poisonLine (s : Part) (p sl lpage line : Nat) (c : Cell) (value cause : Nat) : Part :=
  let x := burstOf c.loc + line
  let e := lineEntry (s.inline sl) (s.tagEnt p x) value
  let was := metaPoisoned e.info
  let fresh := s.inline sl && (cause == causeUncorrectable || cause == 8)
  if was && !fresh then s else
  let mt := if was then e.info else metaPoison cause
  let s := s.dirtyMark p sl lpage
  let s := if was then s else (s.linePoisonCount sl 0 128).poisonReport sl (lineAddress lpage line) 1 cause
  if s.inline sl then
    let cipher := value % 2 ^ 512
    let v := if fresh then (s.tagEnt p x).version + 1 else e.version
    let k := s.keySet sl c.keySel
    let tag := if fresh then lineTag k v sl (lineNumber lpage line) cipher else e.tag
    let w := s.classFor p sl 1 1
    let s := (w.2.writeBurst p x (inlineEncode cipher ((tag <<< 8) ||| mt)) sl w.1 sl lpage false true).setTag p x ⟨v, 0, 0⟩
    if fresh then s.versionCheck sl v else s
  else s.setTag p x { e with info := mt }

/-- A hot line read from DRAM: line code, tag, plaintext. -/
structure LineRead where
  check  : LineCheck
  ent    : TagEnt
  tagOk  : Bool
  plain  : Nat

/-- Check and decrypt a stored line (spec/04 R170). -/
def Part.readLine (s : Part) (p sl lpage line : Nat) (c : Cell) (raw : Nat) : LineRead :=
  let x := burstOf c.loc + line
  let k := checkBurst (s.inline sl) raw
  let e := lineEntry (s.inline sl) (s.tagEnt p x) k.value
  let ks := s.keySet sl c.keySel
  let n := lineNumber lpage line
  let cipher := k.value % 2 ^ 512
  ⟨k, e, lineTag ks e.version sl n cipher == e.tag, linePlain ks sl n cipher⟩

/-! ## Casks -/

/-- What a read of a cask comes to before its decode. -/
inductive CaskRead where
  | good (w : ClearWord) (sealed_ : Nat)
  | tagFails
  | lost
  deriving DecidableEq, Repr

/-- Restore a cask from its bursts (spec/05 R194, R198 to R202): line codes, clear word, page code. The answer is the clear word and the
slot's bytes; `mend`: corrected bursts are repaired (R201), `stale` names those that a write has overtaken. -/
def Part.restoreCask (s : Part) (p sl lpage cls loc : Nat) (vals : List (Nat × Nat)) (source : Nat) (mend : Bool) (stale : List Nat := []) :
    Part × Option (ClearWord × Nat) :=
  let checks := vals.map fun q => (q.1, sddcCheck q.2)
  let s := iter checks s fun s q => s.tallyCheck p q.1 source false q.2 (stale.contains q.1 || !mend)
  let bad := (checks.zipIdx.filter fun q => !q.1.2.ok).map fun q => (q.2, q.1.1)
  let s := iter bad s fun s q => s.suspect p q.2
  let x := unchunks 512 (checks.map fun q => q.2.value % 2 ^ 512)
  let at_ := if cls = 7 then 8 * 4096 else 0
  match clearWordOf cls (x >>> at_) with
  | none => ((s.count .clearWordFails 0).logEv 0x0E04 (s.addressOf p (burstOf loc)) (lpage * 4096) (some sl) p, none)
  | some w =>
    match caskRestore cls w (setBits x at_ 64 (cwSeal w.encode)) (bad.map (·.1)) with
    | none => (s, none)
    | some (y, fixed) =>
      if fixed = 0 then (s, some (w, y)) else
      let s := iter checks.zipIdx s fun s q =>
        let line := bits y (512 * q.2) 512
        if mend && (line != q.1.2.value % 2 ^ 512 || !q.1.2.ok) && !stale.contains q.1.1 then s.queueRepair p q.1.1 (sddcEncode line) else s
      let s := (s.count .pcCorrectedCasks 0).count .slicePcCorrections sl
      (s.ceEntry p (s.addressOf p (burstOf loc)) fixed 2 source 31, some (w, y))

/-- A cask is uncorrectable (spec/05 R200). -/
def Part.caskLost (s : Part) (p sl lpage loc : Nat) : Part :=
  ((s.count .pcUncorrectable 0).count .slicePcUncorrectable sl).logEv 0x0E03 (s.addressOf p (burstOf loc)) (lpage * 4096) (some sl) p

/-- Check a cask's bursts (spec/03 R136, spec/05 R194 to R201, spec/04 R171): clear word, page code, tag, decryption. The
plaintext is the sealed header (24 bytes) with the payload above it. -/
def Part.checkCask (s : Part) (p sl lpage : Nat) (c : Cell) (vals : List (Nat × Nat)) (source : Nat) (stale : List Nat := []) : Part × CaskRead :=
  match s.restoreCask p sl lpage c.slotClass c.loc vals source true stale with
  | (s, none) => (s.caskLost p sl lpage c.loc, .lost)
  | (s, some (w, y)) =>
      let n := 24 + round8 w.len
      let parts := caskParts c.slotClass w.len w.t y
      let clear := bits parts.1 0 64
      let cipher := toBytes n (parts.1 >>> 64)
      let k := s.keySet sl c.keySel
      let tag := ofBytes ((cmac k.mac (toBytes 16 (tagHeader c.version sl 2 lpage) ++ toBytes 8 clear ++ cipher)).take 7)
      if tag != bits parts.1 (8 * (8 + n) + 8) 56 then (s, .tagFails)
      else (s, .good w (ofBytes (xtsDecrypt k.data k.tweak (tweak sl 2 lpage) cipher)))

/-- The bytes of a cask in its slot (spec/03 R136): sealed, tagged, page-coded. -/
def caskImage (ks : KeySet) (sl lpage version : Nat) (k : Cask) : Nat :=
  let n := 24 + round8 k.clear.len
  let plain := k.header ||| (k.payload <<< 192)
  let cipher := ofBytes (xtsEncrypt ks.data ks.tweak (tweak sl 2 lpage) (toBytes n plain))
  let clear := cwSeal k.clear.encode
  let tag := ofBytes ((cmac ks.mac (toBytes 16 (tagHeader version sl 2 lpage) ++ toBytes 8 clear ++ toBytes n cipher)).take 7)
  caskBytes k.cls k.clear.len k.clear.t (clear ||| (cipher <<< 64) ||| (tag <<< (8 * (8 + n) + 8)))

/-- Enter the bursts of a cask for its slot in the write queues (spec/03 R136), each burst with its line code. -/
def Part.putCask (s : Part) (p sl lpage loc slot version : Nat) (k : Cask) (who label : Nat) : Part :=
  let x := caskImage (s.keySet sl slot) sl lpage version k
  iter (slotBursts k.cls loc).zipIdx s fun s q =>
    s.writeBurst p q.1 (sddcEncode (bits x (512 * q.2) 512)) who label sl lpage true

/-- Write a new cask: a data unit more under its key set (spec/04 R174), one cask more of its codebook (spec/03 R119). -/
def Part.storeCask (s : Part) (p sl lpage loc slot version : Nat) (k : Cask) (who label : Nat) (cause : Nat := 3) : Part :=
  (((s.putCask p sl lpage loc slot version k who label).keyUse sl slot 1).versionCheck sl version cause).noteCask p sl loc k.clear

/-! ## Refusing for capacity (spec/02 R92) -/

/-- Send a request back to its ingress pavilion; later requests of its sender to the page wait here until it comes again
(spec/01 R36, R48). -/
def Part.sendBack (s : Part) (p : Nat) (m : Msg) (status : Nat) : Part :=
  let s := s.onPav p fun v => { v with refused := v.refused ++ [(m.src, m.slice, m.lpage)] }
  s.respond m status 0

/-- Refuse a request for capacity (spec/02 R92). -/
def Part.refuseCapacity (s : Part) (p : Nat) (m : Msg) : Part := s.sendBack p m 2

/-- The page of a request waits for an earlier request of the same sender that was sent back, and the request is not that one. -/
def Part.bounced (s : Part) (p : Nat) (m : Msg) : Bool :=
  m.status < 6 && (s.pav p).refused.contains (m.src, m.slice, m.lpage)

/-- A request waits behind one that was sent back. -/
def Part.waitBehind (s : Part) (p : Nat) (m : Msg) : Part := s.onPav p fun v => { v with behind := v.behind ++ [m] }

/-- A held write comes again: those that waited for it stand next in the inbox. -/
def Part.unbounce (s : Part) (p : Nat) (m : Msg) : Part := s.unmark p m.src m.slice m.lpage

/-! ## Writes that change a page's tier -/

/-- Store a page in a hot frame and commit it (spec/02 R71 to R73, spec/04 R168): `loc` is the frame, `page` the plain
bytes, `mt` each line's META before the request is applied. What the page held is freed after the commit. -/
def Part.makeHot (s : Part) (p : Nat) (m : Msg) (c : Cell) (loc page : Nat) (mt : Nat → Nat) : Part :=
  let sl := m.slice
  let lp := m.lpage
  let slot := if c.fixed && c.tier != tierZero then c.keySel else s.od .sliceKeyActive sl
  let v := c.version + 1
  let line := m.line
  let new := m.apply (bits page (512 * line) 512)
  let page := setBits page (512 * line) 512 new
  let old := mt line
  let mark := m.mark old
  let w := s.classFor p sl 1 64
  let s := w.2.storePage p sl lp loc slot page v (fun n => if n = line then mark else mt n) sl w.1
  let s := if metaPoisoned mark && !metaPoisoned old then s.poisonReport sl (lineAddress lp line) 1 causeLinkLoss else s
  let c' : Cell := { c with version := v, tier := tierHot, slotClass := 0, poison := false, cause := 0, keySel := slot, moving := false, loc := loc }
  ((s.heatFlag p sl lp tierHot).dirtyMark p sl lp).commitFor p sl lp c' (respMsg m 0 0) c

/-- A frame for a page: its own fixed frame, or one taken under spec/02 R88. -/
def Part.frameFor (s : Part) (p sl : Nat) (c : Cell) : Option (Nat × Part) :=
  if c.fixed then some (c.loc, s) else s.takeFrame p sl true

/-- A write or poison request to a page with POISON set (spec/02 R73, spec/04 R626): a HOT frame, the other lines poisoned
with the page's cause; in the port's poison list the page entry gives way to line entries (spec/09 R372). -/
def Part.writePoisoned (s : Part) (p : Nat) (m : Msg) (c : Cell) : Part :=
  match s.frameFor p m.slice c with
  | none => s.refuseCapacity p m
  | some (loc, s) =>
    let sl := m.slice
    let s := match s.boundPort sl with
      | none => s
      | some i =>
        let s := s.poisonDrop i (s.dpaOf i sl (m.lpage * 4096)) 64
        iter ((List.range 64).filter (· != m.line)) s fun s n => s.poisonAdd i ⟨s.dpaOf i sl (lineAddress m.lpage n), 1⟩
    s.makeHot p m c loc 0 fun n => if n = m.line then 0 else metaPoison c.cause

/-- The first write to a ZERO page (spec/02 R70): HOT in a new frame, or a codec task for a cask. -/
def Part.firstWrite (s : Part) (p : Nat) (m : Msg) (c : Cell) : Part :=
  let sl := m.slice
  if m.opcode != 3 && s.od .sliceFirstWriteTier sl = 1 then
    let page := setBits 0 (512 * m.line) 512 (m.apply 0)
    let s := s.holdPage p sl m.lpage
    s.onPav p fun v => { v with codecQ := v.codecQ ++ [⟨.firstWrite, sl, m.lpage, m.line, m, page, 0, false, 0⟩] }
  else match s.frameFor p sl c with
    | none => s.refuseCapacity p m
    | some (loc, s) => s.makeHot p m c loc 0 fun _ => 0

/-- The conversion of a WARM page failed a check (spec/02 R72): every line carries the cause but one the write covers in
full. Lines newly poisoned are reported. -/
def Part.convertPoisoned (s : Part) (p : Nat) (t : Task) (cause : Nat) : Part :=
  let s := iter ((List.range 64).filter fun n => !(n == t.line && t.msg.opcode == 1)) s fun s n =>
    s.poisonReport t.slice (lineAddress t.lpage n) 1 cause
  s.makeHot p t.msg (s.cell p t.slice t.lpage) t.frame 0 fun _ => metaPoison cause

/-- Poison a page after a read found its cask bad, and answer the read (spec/05 R200, spec/04 R171, spec/03 R140). -/
def Part.readPoisoned (s : Part) (p : Nat) (t : Task) (cause : Nat) : Part :=
  ((s.poisonPage p t.slice t.lpage cause).dirtyMark p t.slice t.lpage).respond t.msg 1 0

/-! ## Ending tasks -/

/-- What a finished task does next: ended, or its bursts are to be read again. -/
inductive After where
  | done (s : Part)
  | again (s : Part) (t : Task)

/-- A hot read's line has come (spec/04 R170, spec/05 R194, R196, spec/06 R252). `frame` 0: first read; 1: the repeat after an
uncorrectable line; 2: the repeat after a failed tag. -/
def Part.endRead (s : Part) (p : Nat) (t : Task) : After :=
  let c := s.cell p t.slice t.lpage
  let x := burstOf c.loc + t.line
  let r := s.readLine p t.slice t.lpage t.line c (t.value x)
  let s := s.tallyCheck p x srcHostRead (s.inline t.slice) r.check (t.stale x)
  let n := lineNumber t.lpage t.line
  if !r.check.ok then
    if t.frame = 0 then .again s { t with frame := 1, again := true }
    else if t.frame = 1 then
      let s := (s.confirmed p x).poisonLine p t.slice t.lpage t.line c r.check.value causeUncorrectable
      let s := (s.count .linesUncorrectable 0).logEv 0x0E01 (s.addressOf p x) n (some t.slice) p
      .done (s.respond t.msg 1 0)
    else
      let s := s.poisonLine p t.slice t.lpage t.line c r.check.value causeIntegrity
      let s := (s.count .sliceIntegrityFails t.slice).logEv 0x0D01 n (s.portFor t.slice) (some t.slice) p
      .done (s.respond t.msg 1 0)
  else
    let s := if t.frame = 1 then s.transient p x else s
    if metaPoisoned r.ent.info then .done (s.respond t.msg 1 0)
    else if r.tagOk then
      let s := if t.frame = 2 then s.count .integrityRetryOk 0 else s
      .done (s.respond t.msg 0 r.plain)
    else if t.frame = 2 then
      let s := s.poisonLine p t.slice t.lpage t.line c r.check.value causeIntegrity
      let s := (s.count .sliceIntegrityFails t.slice).logEv 0x0D01 n (s.portFor t.slice) (some t.slice) p
      .done (s.respond t.msg 1 0)
    else .again s { t with frame := 2, again := true }

/-- The host physical address of a request, which its ingress port keeps with its tag. -/
def Part.hpaOf (s : Part) (m : Msg) : Nat :=
  ([2 * m.src, 2 * m.src + 1].findSome? fun i => (s.port i).parts.findSome? fun e =>
    (e.2.forwarded.find? fun f => f.tag == m.tag).map (·.req.hpa)).getD 0

/-- A merge's line has come (spec/04 R172): the merge always completes. The record 0x0D03 carries the host port in VALUE_A [63:56] with the
logical line below it, and the host physical address in VALUE_B (log entry 204). -/
def Part.endMerge (s : Part) (p : Nat) (t : Task) : After :=
  let sl := t.slice
  let c := s.cell p sl t.lpage
  let x := burstOf c.loc + t.line
  let r := s.readLine p sl t.lpage t.line c (t.value x)
  let s := s.tallyCheck p x srcMerge (s.inline sl) r.check (t.stale x)
  if !r.check.ok && t.frame = 0 then .again s { t with frame := 1, again := true }
  else
    let s := if t.frame = 1 then (if r.check.ok then s.transient p x else s.confirmed p x) else s
    let bad := !r.check.ok || !r.tagOk
    let old := r.ent.info
    let mt := if metaPoisoned old || !bad then old
      else metaPoison (if r.check.ok then causeBeforeWrite else causeUncorrectable)
    let s :=
      if metaPoisoned old || !bad then s else
      let s := s.poisonReport sl (lineAddress t.lpage t.line) 1 (bits mt 3 4)
      let s := s.logEv 0x0D03 ((s.portFor sl <<< 56) ||| lineNumber t.lpage t.line) (s.hpaOf t.msg) (some sl) p
      if r.check.ok then s
      else (s.count .linesUncorrectable 0).logEv 0x0E01 (s.addressOf p x) (lineNumber t.lpage t.line) (some sl) p
    let w := s.classFor p sl 1 1
    let s := w.2.storeLine p sl t.lpage t.line c.loc c.keySel (t.msg.apply r.plain) (r.ent.version + 1) mt old sl w.1
    .done (s.respond t.msg 0 0)

/-- The bursts of a cask have come, for a warm read or a conversion (spec/03 R136, spec/02 R71, R72). -/
def Part.endCask (s : Part) (p : Nat) (t : Task) : After :=
  let c := s.cell p t.slice t.lpage
  let q := s.checkCask p t.slice t.lpage c (t.bursts.map fun x => (x, t.value x)) srcCodec
    (t.bursts.filter t.stale)
  let s := q.1
  let fails (s : Part) (cause : Nat) : Part :=
    if t.kind = .convert then s.convertPoisoned p t cause else s.readPoisoned p t cause
  match q.2 with
  | .lost => .done (fails s 5)
  | .tagFails =>
    if t.again then
      .done (fails ((s.count .sliceIntegrityFails t.slice).logEv 0x0D02 (t.lpage * 4096) (s.portFor t.slice) (some t.slice) p) 6)
    else .again s { t with again := true }
  | .good w plain =>
    let use := if t.kind = .convert then CodecUse.conversion else CodecUse.warmRead
    .done (s.onPav p fun v => { v with
      codecQ := v.codecQ ++ [⟨use, t.slice, t.lpage, t.line, t.msg, (plain <<< 64) ||| cwSeal w.encode, t.frame, false, 0⟩] })

/-- The page of a task holds its storage no more: it was poisoned while the task ran (spec/02 R64). -/
def Part.pageGone (s : Part) (p : Nat) (t : Task) : Bool :=
  (s.cell p t.slice t.lpage).tier != (if t.kind == .readLine || t.kind == .mergeLine then tierHot else tierWarm)

/-- Finish a task whose bursts have all come; where its page is gone, the request is served again as the page now stands. -/
def Part.finish (s : Part) (p : Nat) (t : Task) : After :=
  if s.pageGone p t then .done ((s.abortTask p t).onPav p fun v => { v with inbox := t.msg :: v.inbox }) else
  match t.kind with
  | .readLine => s.endRead p t
  | .mergeLine => s.endMerge p t
  | _ => s.endCask p t

/-- Run a task as far as it goes without DRAM; three reads of a burst at most. -/
def Part.runTask : Nat → Part → Nat → Task → Part
  | 0, s, _, _ => s
  | fuel + 1, s, p, t =>
    let q := s.startReads p t
    if !q.2.full then q.1 else
    match (q.1.endTask p t.id).finish p q.2 with
    | .done s => s
    | .again s t => s.runTask fuel p { t with got := [] }

/-- A new task of a request. -/
def Part.newTask (s : Part) (p : Nat) (kind : TaskKind) (m : Msg) (bursts : List Nat) (frame : Nat) : Part :=
  let id := (s.pav p).nextTask + 1
  let s := s.onPav p fun v => { v with nextTask := id }
  s.runTask 4 p ⟨id, kind, m, m.slice, m.lpage, m.line, bursts, [], false, frame⟩

/-! ## PROM_READ, PROM_WRITE, PROM_WRITE_PARTIAL, PROM_POISON_LINE -/

/-- Poison every page of a logical extent for a lost cellar-book line (spec/02 R64). -/
def Part.extentLost (s : Part) (p sl ext : Nat) : Part :=
  let s := iter (List.range 512) s fun s k =>
    let lp := ext * 512 + k
    let c := s.cell p sl lp
    let s := if c.poison then s else s.poisonReport sl (lp * 4096) 64 2
    s.commit p sl lp { c with
      tier := tierZero, slotClass := 0, poison := true, cause := if c.poison then c.cause else 2, moving := false
      loc := if c.fixed then c.loc else 0 }
  (s.dirtyMark p sl (ext * 512)).count .cellarExtentsLost 0

/-- A read of a cellar-book line (spec/02 R63, R64): four entries. -/
def Part.cellarLine (s : Part) (p sl lpage : Nat) (homeLost mirrorLost : Bool) : Part :=
  if !homeLost then s else
  match s.mirrorOf sl lpage with
  | some q =>
    if mirrorLost then s.extentLost p sl (lpage / 512) else
    let s := iter (List.range 4) s fun s k =>
      let lp := lpage / 4 * 4 + k
      s.setCell p sl lp (s.mirrorCell q sl lp)
    s.count .cellarMirrorRepairs 0
  | none => s.extentLost p sl (lpage / 512)

/-- The cellar-book line of a burst of a region block is lost: of the home copy as spec/02 R63 and R64 state; a line of the mirror copy
is written again from the home copy. -/
def Part.cellarBad (s : Part) (p x : Nat) : Part :=
  match (s.pav p).blocks.find? (fun b => b.2.contains (x / extBursts)) with
  | none => s
  | some (k, exts) =>
    let sl := k / 2 / 65536
    let lp := k / 2 % 65536 * 262144 + 4 * (exts.idxOf (x / extBursts) * extBursts + x % extBursts)
    if k % 2 = 0 then s.cellarLine p sl lp true false
    else match s.homeOf sl lp with
      | none => s
      | some h => iter (List.range 4) s fun s j => s.setMirror p sl (lp + j) (s.cell h sl (lp + j))

/-- A copy of an entry whose TIER is 0b11 is an uncorrectable cellar-book error (spec/02 R56), served as R63 and R64 state. -/
def Part.soundCell (s : Part) (p sl lpage : Nat) : Part × Cell :=
  let s := s.lookCell p sl sl lpage
  let c := s.cell p sl lpage
  if c.tier != 3 then (s, c) else
  let mirrorLost := match s.mirrorOf sl lpage with
    | some q => (s.mirrorCell q sl lpage).tier == 3
    | none => true
  let s := s.cellarLine p sl lpage true mirrorLost
  (s, s.cell p sl lpage)

/-- Serve a read on its home (spec/01 R32, spec/02 R56). -/
def Part.serveRead (s : Part) (p : Nat) (m : Msg) (err : Bool) : Part :=
  if s.bounced p m then s.waitBehind p m else
  let s := if 6 ≤ m.status then s.unbounce p m else s
  let g := s.keyGate p m err
  if !g.2 then g.1 else
  let s := g.1.heatSample p m.slice m.lpage
  let q := s.soundCell p m.slice m.lpage
  let s := q.1
  let c := q.2
  if c.tier = tierZero then s.respond m (b2n c.poison) 0
  else if !s.ownerOk p m.slice c then (s.ownerMismatch p m.slice m.lpage).respond m 1 0
  else if c.tier = tierHot then (s.lookTag p m.slice (burstOf c.loc + m.line)).newTask p .readLine m [burstOf c.loc + m.line] 0
  else s.newTask p .readCask m (slotBursts c.slotClass c.loc) 0

/-- Serve a write, a partial write or a poison request on its home (spec/02, the write path). -/
def Part.serveWrite (s : Part) (p : Nat) (m : Msg) (err : Bool) : Part :=
  let sl := m.slice
  if s.bounced p m then s.waitBehind p m else
  let s := if 6 ≤ m.status then s.unbounce p m else s
  let g := s.keyGate p m err
  if !g.2 then g.1 else
  let s := (g.1.heatSample p sl m.lpage).touch p sl m.lpage
  if m.status = 7 then
    let s := s.poisonPage p sl m.lpage 1
    (s.respond m 0 0).alarm .poisoned sl p (((s.pav p).cellar.range (sl * 2 ^ 34) ((sl + 1) * 2 ^ 34)).filter fun e => e.2.poison).length 0
  else
  let q := s.soundCell p sl m.lpage
  let s := q.1
  let c := q.2
  if !s.ownerOk p sl c then
    let s := s.ownerMismatch p sl m.lpage
    if c.fixed then s.respond m 0 0 else s.writePoisoned p m (s.cell p sl m.lpage)
  else if c.tier = tierHot then
    let x := burstOf c.loc + m.line
    let s := s.lookTag p sl x
    let e := s.lineEnt p sl x
    match m.opcode with
    | 1 =>
      let w := s.classFor p sl 1 1
      (w.2.storeLine p sl m.lpage m.line c.loc c.keySel (m.data % 2 ^ 512) (e.version + 1) 0 e.info sl w.1).respond m 0 0
    | 2 => s.newTask p .mergeLine m [x] 0
    | _ =>
      if metaPoisoned e.info then s.respond m 0 0
      else (s.poisonLine p sl m.lpage m.line c (s.burstNow p x) causeLinkLoss).respond m 0 0
  else if c.tier = tierZero && !c.poison && m.opcode != 3 && m.apply 0 == 0 then s.respond m 0 0
  else if !s.frameOk p sl c then (s.ownerMismatch p sl m.lpage).respond m 0 0
  else if c.poison then s.writePoisoned p m c
  else if c.tier = tierZero then s.firstWrite p m c
  else
    let s := s.holdPage p sl m.lpage
    match s.frameFor p sl c with
    | none => (s.releasePage p sl m.lpage).refuseCapacity p m
    | some (loc, s) => s.newTask p .convert m (slotBursts c.slotClass c.loc) loc

/-- Take and serve the next request of an opcode; a request of a slice being reset or removed is squashed (spec/10 R409). -/
def Part.serve (s : Part) (p op : Nat) (err : Bool) : Part :=
  match s.takeReq p op with
  | none => s
  | some (m, s) =>
    if s.squashing m.slice then
      (s.noteSquash m.slice op (if op = 2 then popCount 64 (m.data % 2 ^ 64) else 64)).respond m (if op = 0 then 1 else 0) 0
    else
    let q := s.takeIn p m
    if !q.2 then q.1 else if op = 0 then q.1.serveRead p m err else q.1.serveWrite p m err

/-- PROM_READ (spec/01 R32). -/
def execPromRead (p : Pav) (keyError : Bool) (s : State) : Host.Outcome State Fault Refusal :=
  s.run fun q => q.serve p 0 keyError

/-- PROM_WRITE (spec/01 R34). -/
def execPromWrite (p : Pav) (keyError : Bool) (s : State) : Host.Outcome State Fault Refusal :=
  s.run fun q => q.serve p 1 keyError

/-- PROM_WRITE_PARTIAL (spec/04 R172). -/
def execPromWritePartial (p : Pav) (keyError : Bool) (s : State) : Host.Outcome State Fault Refusal :=
  s.run fun q => q.serve p 2 keyError

/-- PROM_POISON_LINE (spec/04 R626). -/
def execPromPoisonLine (p : Pav) (s : State) : Host.Outcome State Fault Refusal :=
  s.run fun q => q.serve p 3 false

/-- PROM_MIRROR_WRITE (spec/02 R60): the mirror copy has the change; the home's commit is complete, the write it waited for
is answered and the page's hold ends. -/
def execPromMirrorWrite (p : Pav) (s : State) : Host.Outcome State Fault Refusal :=
  s.run fun q =>
    match q.takeMsg p 4 with
    | none => q
    | some (m, q) =>
      let sl := m.addr / 2 ^ 34
      let lp := m.addr % 2 ^ 34
      let q := if q.mirrorOf sl lp = some p.val then q.setMirror p sl lp (Cell.decode m.data) else q
      match takeFirst (fun w : MirrorWait => w.key == m.addr) (q.pav m.src).mirrorWait with
      | none => q
      | some (w, rest) =>
        let q := q.onPav m.src fun v => { v with mirrorWait := rest }
        q.commitDone m.src sl lp w.answer w.old

end Sys2Proof.Machine
end

