-- ==== Sys2Proof/Machine/Channels.lean ====
section
/-!
DEFINITION. The DRAM channels: the slot rule (spec/07 R268 to R276), the timing and hammer guards (spec/06 R235 to R246),
refresh, the scrubber and repairs (spec/05 R195, R204 to R207), the flip mask (R218 to R220), power-down, parity recovery,
quick retrains and the rebuild of a rank (spec/06 R251 to R261).
-/

namespace Sys2Proof.Machine

/-- The tables of a pavilion in force. -/
def Part.tables (s : Part) (p : Nat) : PavTables := s.vint.inForce.tables.get PavTables.zero p

/-- The slot descriptor k of a channel in force (spec/07 R270). -/
def Part.descriptor (s : Part) (c k : Nat) : Nat := bits ((s.tables (c / 8)).slots.get 0 (c % 8)) (16 * k) 16

/-- The reason a request is returned in a response: withheld (spec/08 R310). -/
def statusWithheld : Nat := 3

/-- Withheld requests step out of their queues (spec/06 R244): 64 on a subchannel; a further read of a slice goes back to its
ingress pavilion, where it is held; a write has completed, so it keeps its place, as a further request of an engine does, and
gets no slot. -/
def Part.withhold (s : Part) (c u : Nat) : Part :=
  iter ((s.chan c).queue.filter fun q => q.sub == u && (s.chan c).isThrottled q) s fun s q =>
    if !(s.chan c).queue.contains q then s
    else if ((s.chan c).withheld.filter fun r => r.sub == u).length < 64 then
      s.onChan c fun v => { v with queue := v.queue.erase q, withheld := v.withheld ++ [q] }
    else if q.write || 4096 ≤ q.owner then s
    else match (s.pav (c / 8)).tasks.find? (fun t => t.id == q.task) with
      | none => s
      | some t => ((s.abortTask (c / 8) t).count .withheldReturned c).sendBack (c / 8) t.msg statusWithheld

/-- A request of an internal requester is withheld on a channel of a pavilion: its engine stalls (spec/06 R244). -/
def Part.stalled (s : Part) (p who : Nat) : Bool :=
  (List.range 8).any fun k => (s.chan (p * 8 + k)).withheld.any fun q => q.owner == who

/-! ## Refresh (spec/06 R233 to R235) -/

/-- One refresh in the unit of the debt: 390 × the transfer rate, so that a frame of 16,384 transfers adds a whole number. -/
def Part.refreshUnit (s : Part) (c : Nat) : Nat := 390 * s.od .dramSpeed (c / 8)

/-- Same-bank refreshes that may be postponed: four refresh intervals of four each (log entry 25). -/
def postponeLimit : Nat := 16

/-- What a slot adds to the debt of each rank of its subchannel: four same-bank refreshes in 3.9 µs, or in 1.95 µs at the doubled
rate. -/
def Part.slotDebt (s : Part) (c : Nat) : Nat := 4 * 16 * 100 * (if s.od .refreshRate c = 1 then 2 else 1)

/-- A rank that takes commands. -/
def Part.rankRuns (s : Part) (c r : Nat) : Bool := let st := s.rankState c r; st == 2 || st == 3 || st == 4

/-- The rank of a subchannel with the most debt at or above a limit, the lowest first. -/
def Part.refreshDue (s : Part) (c u limit : Nat) : Option Nat :=
  let d (r : Nat) : Nat := (s.chan c).debt.getD (u * 4 + r) 0
  let l := (List.range 4).filter fun r => s.rankRuns c r && decide (limit ≤ d r)
  l.find? fun r => l.all fun t => decide (d t ≤ d r)

/-- The slot's time passes: the ranks of the subchannel that take commands owe more refreshes (spec/06 R233, R235). -/
def Part.addDebt (s : Part) (c u : Nat) : Part :=
  let d := s.slotDebt c
  let runs := (List.range 4).map (s.rankRuns c)
  s.onChan c fun v => { v with debt := v.debt.zipIdx.map fun q =>
    if q.2 / 4 == u && runs.getD (q.2 % 4) false then q.1 + d else q.1 }

/-- What a refresh does to banks of a rank: their rows close (spec/06 R232) and their activation counts fall (R240). -/
def ChanState.refreshed (v : ChanState) (r : Nat) (on : Nat → Bool) : ChanState :=
  { v with
    openRows := v.openRows.filter fun e => !on e.1
    raa := (v.raa.map fun e => (e.1, if on e.1 then e.2 - v.raaDec.getD r 0 else e.2)).filter fun e => e.2 != 0 }

/-- Refresh one bank of each bank group of a rank, in every logical rank of its stack. -/
def Part.refresh (s : Part) (c u r : Nat) : Part :=
  let b := (s.chan c).refPtr.get 0 (u * 4 + r)
  let unit := s.refreshUnit c
  s.onChan c fun v =>
    ({ (v.refreshed r fun k => k % 256 / 128 == u && k % 16 == r * 4 + b) with
      debt := v.debt.set (u * 4 + r) (v.debt.getD (u * 4 + r) 0 - unit)
      refPtr := v.refPtr.set 0 (u * 4 + r) ((b + 1) % 4) }).note (.refresh u r b)

/-- Refresh every bank of a rank (spec/06 R262, R263). -/
def Part.refreshAll (s : Part) (c r : Nat) : Part := s.onChan c fun v => v.refreshed r fun k => keyRank k == r

/-- Issue an RFM command to a bank (spec/06 R240). -/
def Part.rfm (s : Part) (c k : Nat) : Part :=
  (s.onChan c fun v => { v with
    rfmDue := v.rfmDue.erase k
    openRows := v.openRows.erase k
    raa := v.raa.modify 0 k (· - v.raaInit.getD (keyRank k) 0) }.note (.rfm k)).count .rfmIssued c

/-! ## Issuing a burst -/

/-- The flip mask of a channel as FLIP_CONTROL applies it (spec/05 R218). -/
def Part.flipMask (s : Part) (c : Nat) : Nat :=
  let m := s.od .flipMask c
  let k := s.od .flipControl c
  (if bit k 3 then bits m 0 512 else 0) ||| (if bit k 2 then bits m 512 128 <<< 512 else 0)

/-- The armed mask matches a write (spec/05 R218, R219). -/
def Part.flipMatches (s : Part) (c : Nat) (q : QEnt) : Bool :=
  let k := s.od .flipControl c
  s.od .flipStatus c == 1 &&
    (if bits k 5 2 = 0 then bits k 4 1 == q.sub
     else bits k 5 2 == 1 && s.entryAddress c q == s.od .flipAddress c)

/-- Reads of a burst that have come, or are in flight, are older than a write of it (spec/05 R195). -/
def Part.overtake (s : Part) (c x : Nat) : Part :=
  let s := s.onChan c fun v => { v with inflight := v.inflight.map fun r => if r.burst == x then { r with stale := true } else r }
  s.onPav (c / 8) fun v => { v with tasks := v.tasks.map fun t =>
    { t with got := t.got.map fun g => if g.burst == x then { g with stale := true } else g } }

/-- What the write of a queue entry stores: a line of the part's own tables as it stands now, coded SDDC (spec/02 R62, spec/05 R211). -/
def Part.stored (s : Part) (c : Nat) (q : QEnt) : Nat := if q.line then sddcEncode (s.lineBits (c / 8) q.burst) else q.value

/-- Write a burst, with the flip mask if it is armed and matches (spec/05 R219). -/
def Part.writeNow (s : Part) (c : Nat) (q : QEnt) : Part :=
  let q := { q with value := s.stored c q }
  let s := s.overtake c q.burst
  if s.flipMatches c q then
    let a := s.entryAddress c q
    let s := s.putDram (c / 8) q.burst (q.value ^^^ s.flipMask c) q.inl
    ((s.setOd .flipStatus c 2).setOd .flipLast c a).logEv 0x0E08 a 0 none (c / 8)
  else s.putDram (c / 8) q.burst q.value q.inl

/-- Count a served burst of a slice (spec/07 R279, R301): under its class or as open traffic. -/
def Part.countBurst (s : Part) (c : Nat) (q : QEnt) : Part :=
  if 4096 ≤ q.owner then s else
  let s := s.count (if q.label = ownOpen then .sliceBurstsOpen else .sliceBurstsClass) q.owner
  s.onPav (c / 8) fun v => { v with delivered := v.delivered.modify 0 (q.owner * 2 + b2n q.write) (· + 1) }

/-- A class owns slots of a direction in the table of a channel. -/
def Part.ownsSlots (s : Part) (c k : Nat) (write : Bool) : Bool :=
  (List.range 1024).any fun j => let d := s.descriptor c j; bits d 10 5 == k && bit d 15 == write

/-- The guard holds the burst: the request stays and the slot carries no data (spec/06 R238). -/
def Part.guardHold (s : Part) (c : Nat) (q : QEnt) : Part :=
  let a := s.entryAddress c q
  (s.count .guardHolds c).logLimited (0x0F010000 + c) nsPerMs 0x0F01 a 0 none (c / 8)

/-- Serve a queued request: a write goes to DRAM, a read is in flight with what DRAM holds now. -/
def Part.serveEntry (s : Part) (c : Nat) (q : QEnt) : Part :=
  let s := s.onChan c fun v => { v with queue := v.queue.erase q }
  let s := if 0 < q.label && q.label < 16 && !s.ownsSlots c q.label q.write then s.count .swapCarryover 0 else s
  let s := (s.commandsOf c q).countBurst c q
  if q.write then s.writeNow c q
  else
    let value := s.getDram (c / 8) q.burst
    s.onChan c fun v => { v with inflight := v.inflight ++ [{ q with value := value }] }

/-! ## The scrubber (spec/05 R204 to R207) -/

/-- Ranks the scrubber visits: in service, rebuilding and spare. -/
def Part.scrubRanks (s : Part) (c : Nat) : List Nat := (List.range 4).filter (s.rankRuns c)

/-- Where a scrub pointer stands (spec/05 R204): a rank and a burst of the bank group in it. A pointer at a rank that the scrubber no
longer visits goes on with the next one; none past the last. -/
def Part.scrubPlace (s : Part) (c n : Nat) : Option (Nat × Nat) :=
  let per := (s.geom (c / 8)).groupBursts
  let l := s.scrubRanks c
  if l.contains (n / per) then some (n / per, n % per) else (l.find? fun r => decide (n / per < r)).map fun r => (r, 0)

/-- The scrub read that a pointer names (spec/05 R204): rank, bank, row, column in this order; none past the last rank. -/
def Part.scrubEntry (s : Part) (c u g n : Nat) : Option QEnt :=
  let p := c / 8
  let gm := s.geom p
  let per := gm.groupBursts
  (s.scrubPlace c n).map fun z =>
    let r := z.1
    let y := z.2
    let bank := y / (per / 4)
    let row := y % (per / 4) / 2 ^ (gm.c + gm.s)
    let col := y % 2 ^ (gm.c + gm.s) / 2 ^ gm.s
    let cid := y % 2 ^ gm.s
    let layer := s.od .rankLayer (c * 4 + r)
    let x := if layer = 0xFF then s.spareFirst (c * 4 + r) u g + y
      else gm.unplace ⟨c % 8, u, layer, g, bank, row, col * 16 + cid⟩
    { sub := u, group := g, bank := r * 4 + bank, row := row, write := false, owner := byScrub, label := ownScrub
      hint := false, slice := 0, lpage := 0, burst := x, task := 0, value := 0, waits := 0, cid := cid, inl := false, stale := false
      line := false }

/-- A scrub pass runs on a channel. -/
def ChanState.scrubbing (v : ChanState) : Bool := v.passStart != 0

/-- The scrub read due in a bank group: none outside a pass and where the pointer has wrapped in this pass. -/
def Part.scrubNext (s : Part) (c u g : Nat) : Option QEnt :=
  let v := s.chan c
  if !v.scrubbing || v.scrubDone.get 0 (u * 8 + g) != 0 then none else s.scrubEntry c u g (v.scrubPtr.get 0 (u * 8 + g))

/-- Start a scrub pass now. -/
def Part.startPass (s : Part) (c : Nat) : Part :=
  s.onChan c fun v => { v with passStart := s.now + 1, scrubDone := [], scrubPtr := [] }

/-- A pass ends (spec/05 R205): counted, and when it is late the next starts at once. -/
def Part.endPass (s : Part) (c : Nat) : Part :=
  let len := s.now + 1 - (s.chan c).passStart
  let s := (s.modOd .scrubPasses c (· + 1)).setOd .scrubLastPass c (len / nsPerS)
  if s.od .scrubPassTime c * 60 * nsPerS < len then (s.modOd .scrubPassesLate c (· + 1)).startPass c
  else s.onChan c fun v => { v with passStart := 0 }

/-- The pointer of a bank group moves on; after the last burst it has wrapped, and the pass ends when all have. -/
def Part.scrubStep (s : Part) (c u g : Nat) : Part :=
  let k := u * 8 + g
  let n := match s.scrubPlace c ((s.chan c).scrubPtr.get 0 k) with
    | some z => z.1 * (s.geom (c / 8)).groupBursts + z.2 + 1
    | none => 4 * (s.geom (c / 8)).groupBursts
  if (s.scrubEntry c u g n).isSome then s.onChan c fun v => { v with scrubPtr := v.scrubPtr.set 0 k n }
  else
    let s := s.onChan c fun v => { v with scrubPtr := v.scrubPtr.erase k, scrubDone := v.scrubDone.set 0 k 1 }
    if (s.chan c).scrubDone.length = 16 then s.endPass c else s

/-- A pointer past the ranks that are left has wrapped. -/
def Part.scrubSettle (s : Part) (c u g : Nat) : Part :=
  let v := s.chan c
  if v.scrubbing && v.scrubDone.get 0 (u * 8 + g) == 0 && (s.scrubNext c u g).isNone then s.scrubStep c u g else s

/-- The scrub read of a slot: a confirming read that waits (spec/06 R252), else the pointer's burst. -/
def Part.scrubRead (s : Part) (c u g : Nat) (ready : QEnt → Bool) : Option QEnt :=
  let ok (q : QEnt) : Bool := ready q && !(s.chan c).isThrottled q
  match (s.chan c).suspects.find? (fun q => q.sub == u && q.group == g && ok q) with
  | some q => some q
  | none => (s.scrubNext c u g).filter ok

/-- Serve a scrub read. A burst with a write queued counts as scrubbed (spec/05 R207). -/
def Part.serveScrub (s : Part) (c u g : Nat) (q : QEnt) : Part :=
  let go (s : Part) : Part :=
    let s := s.commandsOf c q
    let value := s.getDram (c / 8) q.burst
    s.onChan c fun v => { v with inflight := v.inflight ++ [{ q with value := value }] }
  if q.label = ownConfirm then go (s.onChan c fun v => { v with suspects := v.suspects.erase q })
  else
    let queued := q.burst < spareBase && (s.queued (c / 8) q.burst).isSome
    (if queued then s else go s).scrubStep c u g

/-- The head of the repair queue on a subchannel. -/
def Part.repairHead (s : Part) (c u g : Nat) : Option QEnt :=
  ((s.chan c).repairQ.find? fun q => q.sub == u).filter fun q => q.group == g && !(s.chan c).isThrottled q

/-- Write a repair (spec/05 R195). -/
def Part.serveRepair (s : Part) (c : Nat) (q : QEnt) : Part :=
  let s := s.onChan c fun v => { v with repairQ := v.repairQ.erase q }
  ((s.commandsOf c q).writeNow c q).count .repairsDone 0

/-! ## The slot rule (spec/07 R274 to R276) -/

/-- The entries of a partition. -/
def ChanState.partition (v : ChanState) (u g : Nat) (write : Bool) (owner : Nat) : List QEnt :=
  v.queue.filter fun q => q.sub == u && q.group == g && q.write == write && q.label == owner && !v.isThrottled q

/-- Entries of the open partition, of the partition table in force: its own and those of classes that are not active (spec/07 R282). -/
def Part.openSize (s : Part) (p : Nat) (write : Bool) : Nat := (s.tables p).entries.get 0 (2 * ownOpen + b2n write)

/-- The bursts that the open order of R275 offers, in its order. -/
def Part.openOrder (s : Part) (c u g : Nat) (write : Bool) : List QEnt :=
  let v := s.chan c
  let heads := (List.range 15).filterMap fun k => (v.partition u g write (k + 1)).head?
  let part (o : Nat) : List QEnt := (v.partition u g write o).take 1
  heads ++ part ownSystem ++ (v.partition u g write ownOpen).take (s.openSize (c / 8) write) ++ part ownMigration ++
    (if write then part ownCodec else [])

/-- A bank miss of a guaranteed class (spec/07 R276). -/
def Part.bankMiss (s : Part) (c : Nat) (q : QEnt) : Part :=
  let s := (s.count .sliceBankMisses q.owner).count .classBankMisses q.label
  s.onChan c fun v => { v with queue := v.queue.map fun e => if e = q then { e with waits := 0 } else e }

/-- The head of a class partition waits for its bound of R283; the first burst over it in a check window raises the event of
R302. -/
def Part.latencyMiss (s : Part) (c : Nat) (q : QEnt) : Part :=
  let p := c / 8
  let sl := q.owner
  let s := s.count .sliceLatencyMisses sl
  let n := (s.pav p).latency.get 0 sl
  let s := s.onPav p fun v => { v with latency := v.latency.set 0 sl (n + 1) }
  if n != 0 then s else
  let ev := s.od .sliceServiceEvents sl
  let s := match s.boundPort sl with
    | some i => if bit ev 1 then s.vendorEvent i logWarning 0x1005 (some sl) p ones64 ones64 1 0 (b2n q.write) else s
    | none => s
  s.logEv 0x1005 1 0 (some sl) p

/-- Every head of a class partition of a subchannel waits one slot more; one that has waited a frame is over its bound. -/
def Part.waitSlot (s : Part) (c u : Nat) : Part :=
  let v := s.chan c
  let isHead (q : QEnt) : Bool :=
    q.sub == u && decide (0 < q.label) && decide (q.label < 16) && (v.partition u q.group q.write q.label).head? == some q
  let late := v.queue.filter fun q => isHead q && q.waits == 1024
  let s := s.onChan c fun w => { w with queue := w.queue.map fun q => if isHead q then { q with waits := q.waits + 1 } else q }
  iter late s fun s q => s.latencyMiss c q

/-- The burst lies in the extent that a rebuild is copying: its request waits for the copy (spec/06 R257). -/
def Part.atWatermark (s : Part) (c : Nat) (q : QEnt) : Bool :=
  match (s.chan c).rebuild with
  | some b => decide (q.burst < spareBase) && q.burst / extBursts == b.watermark
  | none => false

/-- Serve one slot of a subchannel (spec/07 R274). `busy`: banks that the slot finds not ready; `guard_`: banks whose command
the guard would delay past the slot. -/
def Part.slot (s : Part) (c u k : Nat) (busy guard_ : Nat) : Part :=
  let p := c / 8
  let d := s.descriptor c k
  let g := (k + (s.pav p).frame) % 8
  let owner := bits d 10 5
  let write := bit d 15
  let full (q : QEnt) : Bool :=
    (s.chan c).raaMax.getD (q.bank / 4) 0 ≤ (s.chan c).raa.get 0 q.key && !(s.chan c).rowOpen q
  let ready (q : QEnt) : Bool := !busy.testBit q.bank && !full q && !s.atWatermark c q
  let issue (s : Part) (q : QEnt) (f : Part → Part) : Part := if guard_.testBit q.bank then s.guardHold c q else f s
  let fromOpen (s : Part) : Part :=
    match (s.openOrder c u g write).find? ready with
    | some q => issue s q fun s => s.serveEntry c q
    | none =>
      if write then
        match (s.repairHead c u g).filter ready with
        | some q => issue s q fun s => s.serveRepair c q
        | none => s
      else match s.scrubRead c u g ready with
        | some q => issue s q fun s => s.serveScrub c u g q
        | none => s
  let lostOwner (s : Part) : Part :=
    if 0 < owner && owner < 16 then
      match ((s.chan c).partition u g write owner).head? with
      | some h => s.bankMiss c h
      | none => s
    else s
  match s.refreshDue c u (postponeLimit * s.refreshUnit c) with
  | some r => lostOwner (s.refresh c u r)
  | none =>
    match (s.chan c).rfmDue.find? (fun b => b % 256 / 128 == u && b % 128 / 16 == g) with
    | some b => lostOwner (s.rfm c b)
    | none =>
      if owner = 21 then s
      else if owner = 20 then
        match s.refreshDue c u (s.refreshUnit c) with
        | some r => s.refresh c u r
        | none => fromOpen s
      else if owner = ownScrub then
        if write then
          match (s.repairHead c u g).filter ready with
          | some q => issue s q fun s => s.serveRepair c q
          | none => fromOpen s
        else match s.scrubRead c u g ready with
          | some q => issue s q fun s => s.serveScrub c u g q
          | none => fromOpen s
      else if owner != ownOpen then
        match ((s.chan c).partition u g write owner).head? with
        | some h => if ready h then issue s h fun s => s.serveEntry c h else fromOpen (lostOwner s)
        | none => fromOpen (if write && owner = ownMigration then s.heatFlush p else s)
      else fromOpen s

/-- SLOT_SERVE (spec/07 R274): requests of throttled requesters step aside first. A channel that is not in service carries nothing; one
that holds its requests for a retrain (spec/06 R251) carries no data, only the refresh of a rank at its limit (R235). -/
def execSlotServe (c : Chan) (u : Sub) (slot : Fin 1024) (busy guard : BitVec 16) (s : State) :
    Host.Outcome State Fault Refusal :=
  s.run fun p =>
    if p.od .channelState c != 2 then p else
    let p := p.addDebt c u
    if !(p.chan c).retrain.isEmpty then
      match p.refreshDue c u (postponeLimit * p.refreshUnit c) with
      | some r => p.refresh c u r
      | none => p
    else
      let p := p.scrubSettle c u ((slot + (p.pav (c / 8)).frame) % 8)
      ((p.withhold c u).waitSlot c u).slot c u slot busy.toNat guard.toNat

/-! ## Data that returns (spec/05 R194 to R213, spec/06 R252) -/

/-- The burst carries the TAG-INLINE code (spec/05 R186): a line of a hot page of a TAG-INLINE slice. A cask in a fixed frame and a
frame that nothing has been written to carry SDDC. -/
def Part.inlineAt (s : Part) (p x : Nat) : Bool := (s.pav p).inlined.get 0 x != 0

/-- Take the oldest read in flight that a test accepts. -/
def Part.takeFlight (s : Part) (c : Nat) (t : QEnt → Bool) : Option (QEnt × Part) :=
  (takeFirst t (s.chan c).inflight).map fun q => (q.1, s.onChan c fun v => { v with inflight := q.2 })

/-- A burst for a task has come; the task goes on when its last one has. -/
def Part.taskBurst (s : Part) (p : Nat) (q : QEnt) (value : Nat) : Part :=
  match (s.pav p).tasks.find? (fun t => t.id == q.task) with
  | none => s
  | some t =>
    let t := { t with got := t.got ++ [⟨q.burst, value, q.stale⟩] }
    if !t.full then
      s.onPav p fun v => { v with tasks := v.tasks.map fun e => if e.id == t.id then t else e }
    else match (s.endTask p t.id).finish p t with
      | .done s => s
      | .again s t => s.runTask 4 p { t with got := [] }

/-- The slot of a CASK extent that holds a burst, if one does (spec/03 R126, R132). -/
def slotOf (cls off : Nat) : Option Nat :=
  if cls = 7 && 30720 ≤ off then some ((off - 30720) / 4)
  else
    let k := off / (8 * (cls + 1))
    if k < slotsPerExtent cls then some k else none

/-- Queue the repair of a burst of a spare rank (spec/05 R195). -/
def Part.repairSpare (s : Part) (c : Nat) (q : QEnt) (value : Nat) : Part :=
  if (s.chan c).repairQ.any fun r => r.burst == q.burst then s
  else if 8 ≤ (s.chan c).repairQ.length then s.count .repairsDropped 0
  else s.onChan c fun v => { v with repairQ := v.repairQ ++ [{ q with write := true, value := value }] }

/-- The scrubber finds an uncorrectable burst (spec/05 R206). -/
def Part.scrubBad (s : Part) (c : Nat) (q : QEnt) : Part :=
  let p := c / 8
  let x := q.burst
  if spareBase ≤ x then s.repairSpare c q zeroBurst
  else
  let ext := x / extBursts
  let o := s.ownOf p ext
  if o.kind = kindFree || o.kind = kindZeroing || o.kind = kindSpare then s.queueRepair p x zeroBurst
  else if o.kind = kindCask then
    match slotOf o.cls (x % extBursts) with
    | none => s
    | some k =>
      if (s.pav p).rescue.contains (ext, k) || 64 ≤ (s.pav p).rescue.length then s
      else s.onPav p fun v => { v with rescue := v.rescue ++ [(ext, k)] }
  else s

/-- A scrub read returns (spec/05 R206, R207). A result that a newer write has overtaken is counted and not repaired
(R195), and asks for no confirming read (spec/06, races). -/
def Part.scrubBack (s : Part) (c : Nat) (q : QEnt) (value : Nat) : Part :=
  let p := c / 8
  let spare := decide (spareBase ≤ q.burst)
  let inl := !spare && s.inlineAt p q.burst
  let fresh := !q.stale && (spare || (s.queued p q.burst).isNone)
  match checkBurst inl value with
  | .clean _ => s
  | .corrected v d n =>
    if spare then
      let r := q.bank / 4
      let dev := ceDevice (s.geom p).x8 q.sub d
      let s := (s.ceDeviceCount c r dev).count .ceChannel c
      let s := s.ceEntry p (s.entryAddress c q) n 0 srcScrub dev
      if fresh then s.repairSpare c q v else s
    else if fresh then s.corrected p q.burst v d n srcScrub inl
    else
      let r := q.bank / 4
      let dev := ceDevice (s.geom p).x8 q.sub d
      ((s.ceDeviceCount c r dev).count .ceChannel c).ceEntry p (s.entryAddress c q) n (b2n inl) srcScrub dev
  | .bad _ =>
    let s := (s.count .ueChannel c).count .ueRank (c * 4 + q.bank / 4)
    let s := s.logEv 0x0E02 (s.entryAddress c q) 0 none p
    if !fresh then s.count .ueTransient (c * 4 + q.bank / 4) else
    let s := if spare then s.onChan c fun v => { v with suspects := v.suspects ++ [{ q with label := ownConfirm }] } else s.suspect p q.burst
    s.scrubBad c q

/-- A confirming read returns (spec/06 R252). -/
def Part.confirmBack (s : Part) (c : Nat) (q : QEnt) (value : Nat) : Part :=
  let p := c / 8
  if spareBase ≤ q.burst then
    match sddcCheck value with
    | .bad _ => ((s.count .ueChannel c).count .ueRank (c * 4 + q.bank / 4)).rankLeaves c (q.bank / 4) 1
    | _ => s.count .ueTransient (c * 4 + q.bank / 4)
  else
  let k := checkBurst (s.inlineAt p q.burst) value
  let s := s.tallyCheck p q.burst srcScrub (s.inlineAt p q.burst) k
  if k.ok then s.transient p q.burst else s.confirmed p q.burst

/-- The page of a slice that a frame holds. -/
def Part.pageAt (s : Part) (p sl loc tier : Nat) : Option Nat :=
  ((s.pav p).cellar.find? fun e => e.1 / 2 ^ 34 == sl && e.2.tier == tier && e.2.loc == loc).map fun e => e.1 % 2 ^ 34

/-- A tag-region line is lost (spec/05 R213): the lines it describes are poisoned LINE_UNCORRECTABLE, with the version of
their page plus 1. -/
def Part.tagLineLost (s : Part) (p ext frame line : Nat) : Part :=
  let o := s.ownOf p ext
  if o.kind != kindHot then s else
  let sl := o.owner
  let loc := ext * extUnits + 8 * frame
  let s := (s.count .tagRegionLinesLost 0).logEv 0x0E05 ext (frame * 16 + line) (some sl) p
  match s.pageAt p sl loc tierHot with
  | none => s
  | some lp =>
    let c := s.cell p sl lp
    let n := if s.inline sl then 8 else 4
    iter ((List.range n).filter fun k => decide (line * n + k < 64)) s fun s k =>
      let l := line * n + k
      let x := burstOf loc + l
      let old := s.lineEnt p sl x
      let s := if metaPoisoned old.info then s
        else (s.linePoisonCount sl 0 128).poisonReport sl (lineAddress lp l) 1 causeUncorrectable
      let v := c.version + 1
      let mt := metaPoison causeUncorrectable
      if s.inline sl then
        let cipher := s.burstNow p x % 2 ^ 512
        let tag := lineTag (s.keySet sl c.keySel) v sl (lineNumber lp l) cipher
        (s.writeBurst p x (inlineEncode cipher ((tag <<< 8) ||| mt)) bySystem ownSystem sl lp false true).setTag p x ⟨v, 0, 0⟩ |>.versionCheck sl v
      else (s.setTag p x ⟨v, old.tag, mt⟩).versionCheck sl v

/-- A read of an ownership entry (spec/05 R211, R212). -/
def Part.ownerEntry (s : Part) (p ext : Nat) (firstLost secondLost : Bool) : Part :=
  if firstLost && secondLost then
    let s := if s.ownOf p ext |>.kind |> (· == kindRetired) then s else s.onPav p fun v => { v with capRaw := v.capRaw - 1 }
    let s := (s.setOwn p ext { Own.free with kind := kindRetired }).onPav p fun v => { v with
      used := v.used.erase ext, zeroing := v.zeroing.erase ext }
    (s.count .ownershipEntriesLost 0).logEv 0x0E06 ext 0 none p
  else if firstLost then s.onPav p fun v => { v with own := v.own.set Own.free ext (v.own2.get Own.free ext) }
  else if secondLost then s.onPav p fun v => { v with own2 := v.own2.set Own.free ext (v.own.get Own.free ext) }
  else s

/-- The tag-region line of a burst of a TAG extent is lost (spec/05 R213). -/
def Part.tagBad (s : Part) (p x : Nat) : Part :=
  let t := x / extBursts
  let inl := s.inline (s.ownOf p t).owner
  let per := if inl then 4096 else 8192
  let n := if inl then 8 else 4
  match (s.pav p).own.find? (fun e => e.2.kind == kindHot && e.2.tagExtent == t && e.2.tagBlock == x % extBursts / per) with
  | none => s
  | some (h, _) => let line := x % extBursts % per * n; s.tagLineLost p h (line / 64) (line % 64 / n)

/-- The bursts of the two copies of the ownership table that hold an extent's entry (spec/05 R211): the copies stand one after the other
in the table's extents (log entry 202). -/
def Part.ownBursts (s : Part) (p ext : Nat) : List Nat :=
  let l := (s.pav p).table
  let half := l.length * extBursts / 2
  [ext / 8, half + ext / 8].filterMap fun k => l[k / extBursts]?.map fun e => e * extBursts + k % extBursts

/-- The ownership entries of a burst of the table are lost: each is read from the other copy (spec/05 R211). -/
def Part.ownBad (s : Part) (p x : Nat) : Part :=
  let l := (s.pav p).table
  let half := l.length * extBursts / 2
  let k := l.idxOf (x / extBursts) * extBursts + x % extBursts
  iter (List.range 8) s fun s j => s.ownerEntry p (k % half * 8 + j) (decide (k < half)) (decide (half ≤ k))

/-- A burst of the part's own structures reads uncorrectable: counted, and passed to the rank-health logic (spec/05 R194). -/
def Part.structBad (s : Part) (p x : Nat) : Part := (s.uncorrectable p x).suspect p x

/-- A burst of the part's own structures is corrected (spec/05 R194). -/
def Part.structCorrected (s : Part) (p x device n : Nat) : Part :=
  let k := (s.ownOf p (x / extBursts)).kind
  if k = kindTag || k = kindCellar then s.corrected p x (sddcEncode (s.lineBits p x)) device n srcSystem false
  else if k = kindSystem then s.corrected p x (s.dramAt p x) device n srcSystem false
  else s

/-- A line of the heat table is lost (spec/05 R211): every COUNT of its 64 groups is 0, and its flags are recomputed by the next plan. -/
def Part.heatBad (s : Part) (p sl group : Nat) : Part :=
  let lo := sl * 2 ^ 28 + group / 64 * 64
  s.onPav p fun v => { v with
    heat := v.heat.eraseRange lo (lo + 64)
    heatLost := if v.heatLost.contains (lo / 64) then v.heatLost else v.heatLost ++ [lo / 64] }

/-- CHANNEL_READ_DATA (spec/05 R194): what comes back, with the bit errors of the transfer. -/
def execChannelReadData (c : Chan) (r : ReadReturn) (s : State) : Host.Outcome State Fault Refusal :=
  s.run fun s =>
    let p := c.val / 8
    match r with
    | .burst u e =>
      match s.takeFlight c (fun q => q.sub == u.val && q.label != ownScrub && q.label != ownConfirm) with
      | none => s
      | some (q, s) => s.taskBurst p q (q.value ^^^ e.toNat)
    | .confirm u e =>
      match s.takeFlight c (fun q => q.sub == u.val && q.label == ownConfirm) with
      | none => s
      | some (q, s) => s.confirmBack c q (q.value ^^^ e.toNat)
    | .scrub u g e =>
      match s.takeFlight c (fun q => q.sub == u.val && q.group == g.val && q.label == ownScrub) with
      | none => s
      | some (q, s) => s.scrubBack c q (q.value ^^^ e.toNat)
    | .cellarLine sl lpage h m =>
      let s := if h then iter (s.cellarBurst p sl lpage true).toList s fun s x => s.structBad p x else s
      let s := match s.mirrorOf sl lpage with
        | some q => if h && m then iter (s.cellarBurst q sl lpage false).toList s fun s x => s.structBad q x else s
        | none => s
      s.cellarLine p sl lpage h m
    | .tagLine ext frame line =>
      (s.structBad p (s.tagBurst p ext (frame * 64 + line * (if s.inline (s.ownOf p ext).owner then 8 else 4)))).tagLineLost p ext frame line
    | .ownerEntry ext a b =>
      let l := s.ownBursts p ext
      let s := if a then iter (l.take 1) s fun s x => s.structBad p x else s
      let s := if b then iter (l.drop 1) s fun s x => s.structBad p x else s
      s.ownerEntry p ext a b
    | .ownCorrected x d n => s.structCorrected p x d n
    | .heatLine sl group => s.heatBad p sl group
    | .cellarCacheError sl lpage =>
      (s.onPav p fun v => { v with cellarCache := cacheDrop cellarSets (pageKey sl lpage / 4) v.cellarCache }).lookCell p sl sl lpage
    | .tagCacheError x =>
      let b := s.tagBurst p (x / extBursts) (x % extBursts)
      (s.onPav p fun v => { v with tagCache := cacheDrop tagSets b v.tagCache }).lookTag p (s.ownOf p (x / extBursts)).owner x
    | .planEntry n =>
      if n < (s.pav p).plan.length then (s.onPav p fun v => { v with plan := v.plan.eraseIdx n }).count .planEntriesUndone 0 else s
    | .codebookTable => s.onPav p fun v => { v with cbInvalid := true }

/-- SCRUB_PASS_START (spec/05 R205): a pass that still runs goes on and starts the next itself when it ends late. -/
def execScrubPassStart (c : Chan) (s : State) : Host.Outcome State Fault Refusal :=
  s.run fun s => if (s.chan c).scrubbing || s.parked (0x0500 + c) then s else s.startPass c

/-! ## Temperature, windows, power-down (spec/06) -/

/-- DIMM_TEMP_POLL (spec/06 R234): the rate never falls below REFRESH_FLOOR (spec/15 R555). -/
def execDimmTempPoll (c : Chan) (t0 t1 : Int) (s : State) : Host.Outcome State Fault Refusal :=
  s.run fun s =>
    if s.rest.inRest then s else
    let s := (s.setOd .dimmTemp0 c (ofInt 32 t0)).setOd .dimmTemp1 c (ofInt 32 t1)
    let hot := decide (85 < t0) || decide (85 < t1)
    let s := if hot then s.setOd .refreshRate c 1
      else if decide (t0 < 83) && decide (t1 < 83) then s.setOd .refreshRate c (s.od .refreshFloor c) else s
    if 95 < t0 || 95 < t1 then
      s.logLimited (0x0F080000 + c) (60 * nsPerS) 0x0F08 c (ofInt 32 (max t0 t1)) none (c.val / 8)
    else s

/-- A hammer window starts (spec/06 R241, R243 to R245): trackers clear, throttles lift, withheld requests come back to their
queues, and the ports resend those returned to them. -/
def Part.hammerWindow (s : Part) (c : Nat) : Part :=
  let p := c / 8
  let s := s.onChan c fun v => { v with
    tracker := [], throttled := [], windowStart := s.now, queue := v.withheld ++ v.queue, withheld := [] }
  iter (List.range 16) s fun s i =>
    iter (s.port i).parts s fun s e =>
      iter (e.2.forwarded.filter fun f => f.withheld && f.home == p) s fun s f =>
        (s.onPart i e.1 fun q => { q with forwarded := q.forwarded.filter (·.tag != f.tag) }).forward
          { f.req with stamp := s.vint.bank } 6 fun g => { g with sent := true }

/-- HAMMER_WINDOW_START (spec/06 R241). -/
def execHammerWindowStart (c : Chan) (s : State) : Host.Outcome State Fault Refusal := s.run fun s => s.hammerWindow c

/-- PAGE_OPEN_LIMIT_EXPIRY (spec/06 R232): the row of a bank of the chip is closed. -/
def execPageOpenLimitExpiry (c : Chan) (u : Sub) (bank : BankChip) (s : State) : Host.Outcome State Fault Refusal :=
  s.run fun s =>
    let k := bankKey u (bank.bank / 16) (bank.bank % 16) bank.chip
    if (s.chan c).openRows.get 0 k = 0 then s
    else s.onChan c fun v => { v with openRows := v.openRows.erase k }.note (.precharge k)

/-- RANK_POWERDOWN_ENTRY (spec/06 R261): a rank without a request. -/
def execRankPowerdownEntry (c : Chan) (r : Rank) (s : State) : Host.Outcome State Fault Refusal :=
  s.run fun s =>
    let v := s.chan c
    if !s.rankRuns c r || v.powerDown.contains r.val || (v.queue.any fun q => q.bank / 4 == r.val) then s
    else s.onChan c fun v => { v with
      powerDown := v.powerDown ++ [r.val]
      openRows := v.openRows.filter fun e => e.1 % 16 / 4 != r.val }

/-- Issue a command again (spec/06 R253). An activation counts again (R240, R243) and leaves its row open, a precharge and a refresh
close theirs; a burst is what it was. -/
def Part.reissue (s : Part) (c : Nat) (m : DramCmd) : Part :=
  let s := match m with
    | .activate k row who =>
      let q : QEnt := { sub := k % 256 / 128, group := k % 128 / 16, bank := k % 16, row := row, write := false, owner := who
                        label := ownOpen, hint := true, slice := 0, lpage := 0, burst := 0, task := 0, value := 0, waits := 0
                        cid := k / 256, inl := false, stale := false, line := false }
      (s.activate c q).onChan c fun v => { v with openRows := v.openRows.set 0 k (row + 1) }
    | .precharge k => s.onChan c fun v => { v with openRows := v.openRows.erase k }
    | .refresh u r b => s.onChan c fun v => { v with openRows := v.openRows.filter fun e => !(e.1 % 256 / 128 == u && e.1 % 16 == r * 4 + b) }
    | .rfm k => s.onChan c fun v => { v with openRows := v.openRows.erase k }
    | .read q | .write q => s.onChan c fun v => { v with openRows := if q.hint then v.openRows else v.openRows.erase q.key }
  s.onChan c fun v => v.note m

/-- CA_PARITY_ALERT (spec/06 R253): the channel recovers by issuing its last `back` commands again, those from the failed one on; a second
error of the rank within 1 ms of a recovery is a command error, which takes it out of service (R254). -/
def execCaParityAlert (c : Chan) (e : ParityError) (s : State) : Host.Outcome State Fault Refusal :=
  s.run fun s =>
    let r := e.rank
    let again := match (s.chan c).parityTime.getD r none with
      | some t => decide (s.now ≤ t + nsPerMs)
      | none => false
    let s := (s.count .caParityErrors c).logEv 0x0F05 (c.val * 4 + r.val) 0 none (c.val / 8)
    let s := s.onChan c fun v => { v with parityTime := v.parityTime.set r (some s.now) }
    let last := (s.chan c).lastCmds
    let s := iter (last.drop (last.length - e.back)) s fun s m => s.reissue c m
    if again then s.rankLeaves c r 2 else s

/-! ## Quick retrain (spec/06 R251) -/

/-- Start a quick retrain of every rank of a channel. -/
def Part.startRetrain (s : Part) (c : Nat) : Part :=
  s.onChan c fun v => { v with retrain := (List.range 4).filter (s.rankRuns c) }

/-- A write of CHANNEL_COMMAND: 1 QUICK_RETRAIN, in IN_SERVICE only. -/
def Part.channelCommand (s : Part) (w : Who) (c v : Nat) : Reply :=
  s.command w .channelCommand v false fun s =>
    if s.od .channelState c != 2 then s.refuse rState
    else if !(s.chan c).retrain.isEmpty then s.refuse rBusy
    else (s.startRetrain c).ok

/-- CHANNEL_QUICK_RETRAIN (spec/06 R251). -/
def execChannelQuickRetrain (w : Who) (c : Chan) (s : State) : Host.Outcome State Fault Refusal :=
  s.run fun s => (s.channelCommand w c 1).answer w

/-- The maintenance window closes (spec/15 R553): steps not done, and those of a season that ended meanwhile, wait for the next
one; a rank that is held is swept to its end. -/
def Part.closeWindow (s : Part) : Part :=
  let l := (s.season.pending.map fun k => if 20 ≤ k then k - 20 else k).eraseDups
  let s := iter (List.range 64) s fun s c => s.onChan c fun v => { v with retrain := v.retrain.take 1 }
  ({ s with season := { s.season with pending := l } } : Part).setOd .maintState 0 (if l.isEmpty then 0 else 1)

/-- Step 4 of R552 is done when no rank is left to retrain; nothing else is then pending, and the window closes. -/
def Part.retrainsDone (s : Part) : Part :=
  if s.od0 .maintState != 2 || (s.chans.any fun e => !e.2.retrain.isEmpty) then s else
  ({ s with season := { s.season with pending := s.season.pending.filter (· != 4) } } : Part).closeWindow

/-- The first step and the length of the longest run of passing steps among the low `n` (spec/06 R248, R251), the lowest of equal ones:
at each step the run that ends there, and the longest so far. -/
def longestRun (n mask : Nat) : Nat × Nat :=
  ((List.range n).foldl (fun q k =>
    let run := if mask.testBit k then q.1 + 1 else 0
    (run, if q.2.2 < run then (k + 1 - run, run) else q.2)) ((0, 0, 0) : Nat × Nat × Nat)).2

/-- A sweep of a quick retrain misses: no step passes, or the interval reaches an end (spec/06 R251). -/
def sweepMisses (mask : Nat) : Bool := let q := longestRun 17 mask; q.2 == 0 || q.1 == 0 || q.1 + q.2 == 17

/-- A lane misses: the sweep of either direction does. -/
def laneMisses (l : LaneRetrain) : Bool := sweepMisses l.read || sweepMisses l.write

/-- A delay moves to the centre of the passing interval; bit 8 of a sweep is the old setting. -/
def LaneSet.recentre (v : LaneSet) (mask : Nat) : LaneSet :=
  let q := longestRun 17 mask
  { v with delay := v.delay + (q.1 + (q.2 - 1) / 2) - 8 }

/-- The key of the setting of a lane of a rank: direction 0 read, 1 write. -/
def laneKey (r dir lane : Nat) : Nat := r * 160 + dir * 80 + lane

/-- The settings of a rank's lanes after a quick retrain (spec/06 R251). -/
def ChanState.retrained (v : ChanState) (r : Nat) (lanes : List LaneRetrain) : ChanState :=
  iter lanes.zipIdx v fun v q =>
    if laneMisses q.1 then v else
    { v with lanes := (v.lanes.modify ⟨0, 0⟩ (laneKey r 0 q.2) fun l => l.recentre q.1.read).modify ⟨0, 0⟩ (laneKey r 1 q.2) fun l => l.recentre q.1.write }

/-- The narrowest eye of a rank: over its lanes, read and write (spec/15 R562). -/
def eyeWidth (eyes : Nat) : Nat :=
  ((List.range 80).map fun l => min (bits eyes (32 * l) 8) (bits eyes (32 * l + 16) 8)).foldl min 255

/-- EYE_WIDTH_MIN of a channel: its worst lane, over the ranks that take commands. -/
def Part.eyesMin (s : Part) (c : Nat) : Part :=
  s.setOd .eyeWidthMin c ((((List.range 4).filter fun r => s.rankRuns c r || s.rankState c r == 1).map fun r =>
    eyeWidth (s.od .trainEyes (c * 4 + r))).foldl min 255)

/-- QUICK_RETRAIN_RANK_DONE (spec/06 R251, R249): the delays of the rank's lanes are set, its eyes are recorded, and the next rank is
held. -/
def execQuickRetrainRankDone (c : Chan) (lanes : List LaneRetrain) (s : State) : Host.Outcome State Fault Refusal :=
  s.run fun s =>
    match (s.chan c).retrain with
    | [] => s
    | r :: rest =>
      let lanes := lanes.take 80
      let missed := (lanes.filter laneMisses).length
      let old := s.od .trainEyes (c.val * 4 + r)
      let s := (s.setOd .trainEyes (c.val * 4 + r)
        (lanes.zipIdx.foldl (fun v e => setBits v (32 * e.2) 32 (bits e.1.eye 0 32)) old)).eyesMin c
      let s := s.modOd .quickRetrainMisses c (· + missed)
      let s := s.onChan c fun v => { v.retrained r lanes with retrain := rest }
      if rest.isEmpty then (s.modOd .quickRetrains c (· + 1)).retrainsDone else s

/-! ## The flip mask and the address table (spec/05 R209, R218 to R220) -/

/-- The burst of a burst address on a channel, if it names one of a layer in service: found by undoing the hash. -/
def Part.flipBurst (s : Part) (c a : Nat) : Option Nat :=
  let p := c / 8
  if bits a 37 6 != c || 2 ^ 43 ≤ a then none else
  let layer := s.od .rankLayer (c * 4 + bits a 34 2)
  if 4 ≤ layer then none else
  let gm := s.geom p
  let pl : Place := ⟨c % 8, bits a 36 1, layer, bits a 31 3, bits a 29 2, bits a 11 18, bits a 0 11⟩
  let x := gm.unplace pl
  if gm.place x = pl then some x else none

/-- A write of FLIP_COMMAND: 1 ARM (vendor service only, R219), 2 DISARM, 3 TEST_WRITE, 4 TEST_READ (R220). -/
def Part.flipCommand (s : Part) (w : Who) (c v : Nat) : Reply :=
  s.command w .flipCommand v (v == 1) fun s =>
    let p := c / 8
    let st := s.od .flipStatus c
    match v with
    | 1 => if st = 3 then s.refuse rState else (s.setOd .flipStatus c 1).ok
    | 2 => (s.setOd .flipStatus c 0).ok
    | 3 =>
      match s.flipBurst c (s.od .flipAddress c) with
      | none => s.refuse rCondition
      | some x =>
        let ext := x / extBursts
        if s.ownOf p ext != Own.free then s.refuse rCondition
        else if st = 3 then s.refuse rState
        else
          let s := s.setOwn p ext { Own.free with kind := kindSystem }
          let s := s.zeroBursts p ext
          let s := s.putDram p x (zeroBurst ^^^ s.flipMask c)
          let s := (s.setOd .flipStatus c 3).setOd .flipLast c (s.addressOf p x)
          (s.logEv 0x0E08 (s.addressOf p x) 0 none p).ok
    | _ =>
      if st != 3 then s.refuse rState else
      match s.flipBurst c (s.od .flipLast c) with
      | none => s.refuse rCondition
      | some x =>
        let ext := x / extBursts
        let k := sddcCheck (s.dramAt p x)
        let q : Part × Nat × Nat := match k with
          | .clean _ => (s, 1, 31)
          | .corrected v d n => (s.corrected p x v d n srcSystem false, 2, ceDevice (s.geom p).x8 (s.placeOf p x).sub d)
          | .bad _ => (s.structBad p x, 3, 31)
        let s := ((q.1.setOd .flipTestResult c q.2.1).setOd .flipTestDevice c q.2.2).setOd .flipStatus c 0
        let s := if (s.ownOf p ext).kind = kindSystem then
            s.toZeroing p ext
          else s
        s.ok

/-- FLIP_ARM (spec/05 R219). -/
def execFlipArm (w : Who) (c : Chan) (s : State) : Host.Outcome State Fault Refusal :=
  s.run fun s => (s.flipCommand w c 1).answer w

/-- FLIP_DISARM (spec/05 R219). -/
def execFlipDisarm (w : Who) (c : Chan) (s : State) : Host.Outcome State Fault Refusal :=
  s.run fun s => (s.flipCommand w c 2).answer w

/-- FLIP_TEST_WRITE (spec/05 R220). -/
def execFlipTestWrite (w : Who) (c : Chan) (s : State) : Host.Outcome State Fault Refusal :=
  s.run fun s => (s.flipCommand w c 3).answer w

/-- FLIP_TEST_READ (spec/05 R220). -/
def execFlipTestRead (w : Who) (c : Chan) (s : State) : Host.Outcome State Fault Refusal :=
  s.run fun s => (s.flipCommand w c 4).answer w

/-- A write of CE_TABLE_COMMAND: 1 CLEAR. -/
def Part.ceTableCommand (s : Part) (w : Who) (p v : Nat) : Reply :=
  s.command w .ceTableCommand v false fun s => (s.onPav p fun q => { q with ceTable := [] }).ok

/-- CE_TABLE_CLEAR (spec/05 R209). -/
def execCeTableClear (w : Who) (p : Pav) (s : State) : Host.Outcome State Fault Refusal :=
  s.run fun s => (s.ceTableCommand w p 1).answer w

/-! ## Rebuild of a rank (spec/06 R256 to R258) -/

/-- Write a burst of the extent at the watermark to the spare rank, as the migration engine does (spec/06 R256). -/
def Part.copyTo (s : Part) (c spare x value : Nat) (inl : Bool) : Part :=
  let q := s.qEntry (c / 8) x true byMigration ownMigration 0 0 0 value false inl
  let q := { q with bank := spare * 4 + q.bank % 4 }
  (s.onChan c fun v => { v with repairQ := v.repairQ.filter fun r => r.burst != x }).commandsOf c q |>.writeNow c q

/-- Copy one burst of the failed rank (spec/06 R256). `errors` gives, for bursts of the extent, the bits that the failed rank returns
wrong (R258). -/
def Part.rebuildBurst (s : Part) (c spare : Nat) (o : Own) (errors : List (Nat × Nat)) (x : Nat) : Part :=
  let p := c / 8
  let inl := s.inlineAt p x
  let s := s.commandsOf c (s.qEntry p x false byMigration ownMigration 0 0 0 0)
  let read (s : Part) (b : Nat) : Nat :=
    s.dramAt p b ^^^ (if x ≤ b && b / extBursts == x / extBursts && (s.placeOf p b).chan p == c then
      ((errors.find? fun e => e.1 == b % extBursts).map (·.2)).getD 0 else 0)
  let zero (s : Part) : Part := s.copyTo c spare x zeroBurst false
  if o.kind = kindFree || o.kind = kindZeroing || o.kind = kindSpare || o.kind = kindRetired then zero s
  else match checkBurst inl (read s x) with
    | .clean v => s.copyTo c spare x v inl
    | .corrected v d n => (s.corrected p x v d n srcMigration inl).copyTo c spare x v inl
    | .bad v =>
      if o.kind = kindCask then
        match slotOf o.cls (x % extBursts) with
        | none => zero (s.uncorrectable p x)
        | some n =>
          let loc := x / extBursts * extUnits + (if o.cls = 7 then 8 else o.cls + 1) * n
          match s.pageAt p o.owner loc tierWarm with
          | none => zero (s.uncorrectable p x)
          | some lp =>
            let xs := slotBursts o.cls loc
            match s.restoreCask p o.owner lp o.cls loc (xs.map fun b => (b, read s b)) srcMigration false with
            | (s, none) => zero ((s.caskLost p o.owner lp loc).poisonPage p o.owner lp 8)
            | (s, some (_, y)) => s.copyTo c spare x (sddcEncode (bits y (512 * xs.idxOf x) 512)) false
      else
      let s := s.uncorrectable p x
      if o.kind = kindHot then
        match s.pageAt p o.owner (x / 8 / 8 * 8) tierHot with
        | none => zero s
        | some lp =>
          let s := s.poisonLine p o.owner lp (x % 64) (s.cell p o.owner lp) v 8
          s.copyTo c spare x (if inl then v else sddcEncode (v % 2 ^ 512)) inl
      else if o.kind = kindTag then zero (s.tagBad p x)
      else if o.kind = kindCellar then zero (s.cellarBad p x)
      else if (s.pav p).table.contains (x / extBursts) then zero (s.ownBad p x)
      else zero (s.logEv 0x0F07 (s.addressOf p x) 0 none p)

/-- RANK_REBUILD_EXTENT (spec/06 R256): the 4,096 bursts of one extent on the channel are copied and the watermark moves on; after the last
the failed rank is FAILED. -/
def execRankRebuildExtent (e : RebuildReads) (s : State) : Host.Outcome State Fault Refusal :=
  s.run fun s =>
    let c := e.chan
    let p := c.val / 8
    match (s.chan c).rebuild with
    | none => s
    | some b =>
      let le := (s.geom p).layerExts
      let layer := b.watermark / le
      let ext := b.watermark
      let o := s.ownOf p ext
      let mine := ((List.range extBursts).map (ext * extBursts + ·)).filter fun x => (s.placeOf p x).chan p == c
      let s := iter mine s fun s x => s.rebuildBurst c b.spare o e.errors x
      let next := ext + 1
      if next < (layer + 1) * le then
        ((s.onChan c fun v => { v with rebuild := some { b with watermark := next } }).rerank c).setOd .rebuildProgress c
          ((next - layer * le) * 100 / le)
      else
        let s := ((s.onChan c fun v => { v with rebuild := none }).rerank c).setOd .rebuildProgress c 0
        let s := s.setOd .rankState (c.val * 4 + b.failed) 5
        s.logEv 0x0F04 (c.val * 4 + b.failed) (c.val * 4 + b.spare) none p

end Sys2Proof.Machine
end

