-- ==== Sys2Proof/Machine/Engine.lean ====
section
/-!
DEFINITION. The migration engine (spec/02 R76 to R83): plan entries, page moves with their two phases, compaction, re-key
sweeps in place (spec/04 R174 to R178), zeroing, rescues (spec/05 R206).
-/

namespace Sys2Proof.Machine

/-! ## Reading pages for the engine -/

/-- A hot page as the engine reads it: its bytes, each line's META, the largest version, and whether every line passed its
checks. -/
structure HotPage where
  page  : Nat
  marks : List Nat
  top   : Nat
  clean : Bool

/-- Read the 64 lines of a hot page. A line that fails its checks gets a poison mark of LINE_UNCORRECTABLE or LINE_INTEGRITY
in what is read. -/
def Part.readHot (s : Part) (p sl lp : Nat) (c : Cell) : Part × HotPage :=
  iter (List.range 64) (s.lookCell p byMigration sl lp, ⟨0, [], c.version, true⟩) fun q n =>
    let s := q.1
    let h := q.2
    let x := burstOf c.loc + n
    let s := (s.engineRead p x byMigration).lookTag p byMigration x
    let r := s.readLine p sl lp n c (s.burstNow p x)
    let s := s.tallyCheck p x srcMigration (s.inline sl) r.check
    let s := if r.check.ok then s else s.suspect p x
    let was := metaPoisoned r.ent.info
    let bad := !r.check.ok || (!r.tagOk && !was)
    let mark := if was || !bad then r.ent.info else metaPoison (if r.check.ok then causeIntegrity else causeUncorrectable)
    (s, ⟨h.page ||| (r.plain <<< (512 * n)), h.marks ++ [mark], max h.top r.ent.version, h.clean && !bad⟩)

/-- Some line of a hot page is poisoned. -/
def Part.anyPoison (s : Part) (p sl : Nat) (c : Cell) : Bool :=
  (List.range 64).any fun n => metaPoisoned (s.lineEnt p sl (burstOf c.loc + n)).info

/-- Clear the tag-region entries of a frame. -/
def Part.clearLines (s : Part) (p sl loc : Nat) : Part :=
  iter (List.range 64) s fun s n =>
    let x := burstOf loc + n
    (s.linePoisonCount sl (s.lineEnt p sl x).info 0).setTag p x TagEnt.zero

/-- A cask read by the engine, its page poisoned where a check fails (spec/05 R200, spec/04 R171). -/
def Part.readCaskNow (s : Part) (p sl lp : Nat) (c : Cell) : Part × Option (ClearWord × Nat) :=
  let s := s.lookCell p byMigration sl lp
  let s := iter (slotBursts c.slotClass c.loc) s fun s x => s.engineRead p x byCodec
  let r := s.checkCask p sl lp c ((slotBursts c.slotClass c.loc).map fun x => (x, s.burstNow p x)) srcMigration
  match r.2 with
  | .good w plain => (r.1, some (w, plain))
  | .lost => (r.1.poisonPage p sl lp 5, none)
  | .tagFails =>
    let s := (r.1.count .sliceIntegrityFails sl).logEv 0x0D02 (lp * 4096) (r.1.portFor sl) (some sl) p
    (s.poisonPage p sl lp 6, none)

/-! ## Drains of codebook slots (spec/03 R121) -/

/-- CASK extents of a slice on a pavilion. -/
def Part.caskExts (s : Part) (p sl : Nat) : List Nat :=
  ((s.pav p).own.filter fun e => e.2.kind == kindCask && e.2.owner == sl).map (·.1)

/-- Page groups with HAS_WARM set of a slice whose pages have fixed frames, on a pavilion (spec/03 R121). -/
def Part.fixedWarmGroups (s : Part) (p sl : Nat) : List Nat :=
  if s.od .sliceCapacityMode sl != 0 then [] else
  (((s.pav p).heat.range (sl * 2 ^ 28) ((sl + 1) * 2 ^ 28)).filter fun e => bit e.2 6).map fun e => e.1 % 2 ^ 28

/-- What a drain still has to do for a slice (spec/03 R121): its CASK extents and its groups, as State lists them. -/
def Part.drainLeft (s : Part) (sl : Nat) : List Nat :=
  allPavs.flatMap fun p =>
    ((s.caskExts p sl).map fun e => (p * 2 ^ 40 + e) * 2) ++ (s.fixedWarmGroups p sl).map fun g => (p * 2 ^ 40 + g) * 2 + 1

/-- A slice has a codebook slot drained for it: its bit in SLICE_CODEBOOKS_HELD is cleared. -/
def Part.clearHeld (s : Part) (b sl : Nat) : Part :=
  s.modOd .sliceCodebooksHeld sl fun v => setBit v b false

/-- The drains of every slice after a compaction or promotion (spec/03 R121): extents that are gone and groups that hold no warm page
of a fixed frame more leave the list; with the last of them the slice's bit is cleared. -/
def Part.settleDrains (s : Part) : Part :=
  iter s.codec.drains s fun s e =>
    let b := e.1 / 4096
    let sl := e.1 % 4096
    let now := s.drainLeft sl
    let left := e.2.filter now.contains
    if left.isEmpty then
      ({ s with codec := { s.codec with drains := s.codec.drains.erase e.1 } } : Part).clearHeld b sl
    else { s with codec := { s.codec with drains := s.codec.drains.put e.1 left } }

/-! ## Page moves (spec/02 R81) -/

/-- The pages of a slice among the entries of a pavilion that a test accepts. -/
def Part.pagesWhere (s : Part) (p sl lo hi : Nat) (t : Cell → Bool) : List Nat :=
  (((s.pav p).cellar.range (pageKey sl lo) (pageKey sl hi)).filter fun e => t e.2).map fun e => e.1 % 2 ^ 34

/-- The pages of a group in a tier. -/
def Part.groupPages (s : Part) (p sl group tier : Nat) : List Nat :=
  s.pagesWhere p sl (group * 64) (group * 64 + 64) fun c => c.tier == tier

/-- Clear a flag of a group that has no page of the tier left (spec/02 R77). -/
def Part.settleFlag (s : Part) (p sl group tier : Nat) : Part :=
  if (s.groupPages p sl group tier).isEmpty then
    s.onPav p fun v => { v with heat := v.heat.modify 0 (sl * 2 ^ 28 + group) fun b => setBit b (if tier = tierHot then 7 else 6) false }
  else s

/-- A task of the home runs on a page. -/
def Part.hasTask (s : Part) (p sl lp : Nat) : Bool := (s.pav p).tasks.any fun t => t.slice == sl && t.lpage == lp

/-- A page is held, or a request runs on it. -/
def Part.inUse (s : Part) (p sl lp : Nat) : Bool := s.isHeld p sl lp || s.hasTask p sl lp

/-- An entry may run now: MOVE_REGION and MIRROR for a slice neither FREE nor DRAINING (spec/01 R27), the others for a RUNNING
slice (spec/10 R409); the extents of the cellar book belong to no slice. -/
def Part.planRuns (s : Part) (p : Nat) (e : PlanEnt) : Bool :=
  let st := s.od .sliceState e.slice
  if e.action = 4 || e.action = 5 then st != 0 && st != 4
  else if e.action = 2 && (s.ownOf p e.target).kind == kindCellar then true
  else st == 2

/-- The plan's next entry that may run, when it has an action and nothing of the entry before it is still moving. A withheld request
of the migration engine stalls it (spec/06 R244). -/
def Part.planHead (s : Part) (p action : Nat) : Option (PlanEnt × Part) :=
  if s.parked (0x0300 + p) || s.stalled p byMigration then none else
  match takeFirst (s.planRuns p) (s.pav p).plan with
  | some (e, rest) =>
    if e.action = action && (s.pav p).moves.isEmpty && (s.pav p).regionMove.isNone then
      some (e, s.onPav p fun v => { v with plan := rest })
    else none
  | none => none

/-- Keep an entry at the head of the plan for the pages of it that are held now (spec/02 R81). -/
def Part.keepEntry (s : Part) (p : Nat) (e : PlanEnt) : Part := s.onPav p fun v => { v with plan := e :: v.plan }

/-- Set MOVING and list the move. -/
def Part.beginMove (s : Part) (p : Nat) (m : Move) : Part :=
  let s := s.commit p m.slice m.lpage { m.old with moving := true }
  s.onPav p fun v => { v with moves := v.moves ++ [m] }

/-- Give up a move: MOVING is cleared. -/
def Part.dropMove (s : Part) (p sl lp : Nat) : Part :=
  let s := s.onPav p fun v => { v with moves := v.moves.filter fun m => !(m.slice == sl && m.lpage == lp) }
  let c := s.cell p sl lp
  if c.moving then s.commit p sl lp { c with moving := false } else s

/-- A move is ready for its commit phase. -/
def Part.readyMove (s : Part) (p sl lp : Nat) (new : Cell) (page : Nat) : Part :=
  s.onPav p fun v => { v with moves := v.moves.map fun m =>
    if m.slice == sl && m.lpage == lp then { m with new := new, ready := true, page := page } else m }

/-- Write a page into the fixed frame that an entry names (spec/02 R74): plain bytes for a HOT page, the packed cask for a WARM
one. -/
def Part.storeFrame (s : Part) (p sl lp : Nat) (c : Cell) (page : Nat) : Part :=
  if c.tier = tierHot then s.storePage p sl lp c.loc c.keySel page c.version (fun _ => 0) byMigration ownMigration
  else if c.tier = tierWarm then s.storeCask p sl lp c.loc c.keySel c.version (Cask.unpack page) byCodec ownCodec
  else s

/-- A move of a page with a fixed frame is ready. A page that stays in its frame is kept plain or coded (`page`) until its commit
writes the frame (spec/02 R74, spec/03 R136); one that goes to another frame is written there now. -/
def Part.readyFixed (s : Part) (p sl lp : Nat) (new : Cell) (page : Nat) : Part :=
  if new.loc = (s.cell p sl lp).loc then s.readyMove p sl lp new page
  else (s.storeFrame p sl lp new page).readyMove p sl lp new 0

/-- Queue a codec task of the engine. -/
def Part.engineTask (s : Part) (p : Nat) (use : CodecUse) (sl lp page frame : Nat) : Part :=
  s.onPav p fun v => { v with codecQ := v.codecQ ++ [⟨use, sl, lp, 0, Msg.zero, page, frame, false, 0⟩] }

/-- Begin the promotion of a warm page. -/
def Part.beginPromote (s : Part) (p sl lp : Nat) : Part :=
  let c := s.cell p sl lp
  if !s.ownerOk p sl c then s.ownerMismatch p sl lp else
  match s.readCaskNow p sl lp c with
  | (s, none) => s
  | (s, some (w, plain)) =>
    (s.beginMove p ⟨0, sl, lp, c, c, false, 0⟩).engineTask p .promotion sl lp ((plain <<< 64) ||| cwSeal w.encode) 0

/-- Begin the demotion of a hot page: a page with line poison is skipped (spec/02 R81). -/
def Part.beginDemote (s : Part) (p sl lp : Nat) : Part :=
  let c := s.cell p sl lp
  if !s.ownerOk p sl c then s.ownerMismatch p sl lp
  else if s.anyPoison p sl c then s
  else
    let r := s.readHot p sl lp c
    if !r.2.clean then r.1.count .movesSkipped 0
    else (r.1.beginMove p ⟨1, sl, lp, c, { c with version := r.2.top + 1 }, false, 0⟩).engineTask p .demotion sl lp r.2.page 0

/-- PLAN_ENTRY_PROMOTE (spec/02 R81): the warm pages of the group; those held now keep the entry at the head. -/
def execPlanEntryPromote (p : Pav) (s : State) : Host.Outcome State Fault Refusal :=
  s.run fun s =>
    match s.planHead p 0 with
    | none => s
    | some (e, s) =>
      let pages := s.groupPages p e.slice e.target tierWarm
      let free := pages.filter fun lp => !s.inUse p e.slice lp
      let s := iter free s fun s lp => s.beginPromote p e.slice lp
      let s := if free.length < pages.length then s.keepEntry p e else s
      (s.settleFlag p e.slice e.target tierWarm).settleDrains

/-- PLAN_ENTRY_DEMOTE (spec/02 R81, R82): the hot pages of the group. -/
def execPlanEntryDemote (p : Pav) (s : State) : Host.Outcome State Fault Refusal :=
  s.run fun s =>
    match s.planHead p 1 with
    | none => s
    | some (e, s) =>
      let pages := s.groupPages p e.slice e.target tierHot
      let free := pages.filter fun lp => !s.inUse p e.slice lp
      let s := iter free s fun s lp => s.beginDemote p e.slice lp
      let s := if free.length < pages.length then s.keepEntry p e else s
      s.settleFlag p e.slice e.target tierHot

/-! ## Compaction (spec/02 R83, spec/15 R559, R563) -/

/-- Copy the lines of a hot page to another frame, ciphertext and tags unchanged; a line that cannot be corrected is
poisoned, RANK_LOST on a lost rank (spec/06 R256). -/
def Part.copyLines (s : Part) (p sl lp from_ dest : Nat) (c : Cell) : Part :=
  iter (List.range 64) s fun s n =>
    let x := burstOf from_ + n
    let s := (s.engineRead p x byMigration).lookTag p byMigration x
    let inl := s.inline sl
    let k := checkBurst inl (s.burstNow p x)
    let s := s.tallyCheck p x srcMigration inl k
    let lost := s.burstLost p x
    let s := if k.ok || lost then s else s.suspect p x
    let e := lineEntry inl (s.tagEnt p x) k.value
    let cipher := k.value % 2 ^ 512
    let cause := if lost then 8 else causeUncorrectable
    let newly := !k.ok && !metaPoisoned e.info
    let mt := if newly then metaPoison cause else e.info
    let v := if k.ok || !inl then e.version else (s.tagEnt p x).version + 1
    let tag := if k.ok || !inl then e.tag else lineTag (s.keySet sl c.keySel) v sl (lineNumber lp n) cipher
    let s := if newly then (s.poisonReport sl (lineAddress lp n) 1 cause).dirtyMark p sl lp else s
    s.putLine p sl lp (burstOf dest + n) cipher v tag mt 0 byMigration ownMigration

/-- Frames and slots of an extent in use that no page, move, task or codec task names are freed (spec/02 R83). -/
def Part.freeStray (s : Part) (p ext places : Nat) (locOf : Nat → Nat) : Part :=
  let o := s.ownOf p ext
  let v := s.pav p
  let named (loc : Nat) : Bool :=
    (v.cellar.any fun e => e.1 / 2 ^ 34 == o.owner && e.2.tier != tierZero && e.2.loc == loc) ||
    (v.moves.any fun m => m.new.loc == loc) || (v.mirrorWait.any fun w => w.old.tier != tierZero && w.old.loc == loc) || (v.tasks.any fun t => t.kind == .convert && t.frame == loc) ||
    (v.codecQ.any fun t => t.use == .conversion && t.frame == loc)
  iter ((List.range places).filter fun k => (v.used.get 0 ext).testBit k && !named (locOf k)) s fun s k => s.freePlace p ext k

/-- Move a hot page out of an extent. -/
def Part.compactHot (s : Part) (p sl lp : Nat) : Part :=
  let c := s.cell p sl lp
  if !s.ownerOk p sl c then s.ownerMismatch p sl lp else
  match s.takeFrame p sl true with
  | none => s.count .movesSkipped 0
  | some (loc, s) =>
    let s := s.copyLines p sl lp c.loc loc c
    (s.beginMove p ⟨2, sl, lp, c, { c with loc := loc }, false, 0⟩).readyMove p sl lp { c with loc := loc } 0

/-- Move a cask out of an extent: copied when it uses the codebook in force, else coded again (spec/03 R122). -/
def Part.compactCask (s : Part) (p sl lp : Nat) : Part :=
  let c := s.cell p sl lp
  if !s.ownerOk p sl c then s.ownerMismatch p sl lp else
  match s.readCaskNow p sl lp c with
  | (s, none) => s
  | (s, some (w, plain)) =>
    let book := s.od .sliceCodebook sl
    if w.book = book && w.gen = s.od .codebookGeneration book then
      match s.takeSlot p sl c.slotClass true with
      | none => s.count .movesSkipped 0
      | some (loc, s) =>
        let k : Cask := ⟨c.slotClass, w, plain % 2 ^ 192, plain >>> 192⟩
        let s := (s.putCask p sl lp loc c.keySel c.version k byMigration ownMigration).noteCask p sl loc w
        (s.beginMove p ⟨2, sl, lp, c, c, false, 0⟩).readyMove p sl lp { c with loc := loc } 0
    else
      (s.beginMove p ⟨2, sl, lp, c, { c with version := c.version + 1 }, false, 0⟩).engineTask p .recode sl lp
        ((plain <<< 64) ||| cwSeal w.encode) 0

/-- Lines of a HOT extent whose tag-region burst lies on a lost rank are poisoned (spec/05 R213). -/
def Part.tagsLost (s : Part) (p ext : Nat) : Part :=
  let n := if s.inline (s.ownOf p ext).owner then 8 else 4
  let per := 64 / n
  iter (List.range 512) s fun s f =>
    iter (List.range per) s fun s l =>
      if s.burstLost p (s.tagBurst p ext (f * 64 + l * n)) then s.tagLineLost p ext f l else s

/-- Move a TAG extent's blocks (spec/15 R559). -/
def Part.compactTag (s : Part) (p ext : Nat) : Part :=
  let o := s.ownOf p ext
  let served := ((s.pav p).own.filter fun e => e.2.kind == kindHot && e.2.tagExtent == ext && e.2.owner == o.owner).map (·.1)
  iter served s fun s h =>
    let s := s.tagsLost p h
    match s.takeTag p o.owner o.fixed true with
    | none => s.count .movesSkipped 0
    | some (te, tb, s) =>
      let b := s.ownOf p h
      let s := s.setOwn p h { b with tagExtent := te, tagBlock := tb }
      let s := s.markUsed p ext b.tagBlock false
      if (s.ownOf p ext).live = 0 then s.toZeroing p ext else s

/-- Move a region block's extent (spec/15 R559): lines on a lost rank follow spec/02 R63 and R64. -/
def Part.compactCellar (s : Part) (p ext : Nat) : Part :=
  match (s.pav p).blocks.find? (fun b => b.2.contains ext) with
  | none => s
  | some (k, exts) =>
    match s.freeExt p with
    | none => s.count .movesSkipped 0
    | some e =>
      let lines := ((List.range extBursts).map (ext * extBursts + ·)).filter (s.burstLost p)
      let s := iter lines s fun s x => (s.structBad p x).cellarBad p x
      let s := s.setOwn p e { Own.free with kind := kindCellar, live := 1 }
      let s := s.onPav p fun v => { v with blocks := v.blocks.put k (exts.map fun x => if x = ext then e else x) }
      s.toZeroing p ext

/-- The extent of fixed frames that takes over from one that is being emptied: it shares its tag block (log entry 27). -/
def Part.fixedDest (s : Part) (p ext : Nat) : Option (Nat × Part) :=
  let o := s.ownOf p ext
  match (s.pav p).own.find? (fun e => e.1 != ext && e.2.kind == kindHot && e.2.fixed && e.2.owner == o.owner &&
      e.2.tagExtent == o.tagExtent && e.2.tagBlock == o.tagBlock) with
  | some (e, _) => some (e, s)
  | none => (s.freeExt p).map fun e => (e, s.setOwn p e { o with live := 512 })

/-- Move a page with a fixed frame to the same frame of another extent (spec/02 R81, spec/03 R122). -/
def Part.compactFrame (s : Part) (p sl lp loc : Nat) : Part :=
  let c := s.cell p sl lp
  let new : Cell := { c with loc := loc }
  if !s.ownerOk p sl c then s.ownerMismatch p sl lp
  else if c.tier = tierHot then
    ((s.copyLines p sl lp c.loc loc c).beginMove p ⟨2, sl, lp, c, new, false, 0⟩).readyMove p sl lp new 0
  else match s.readCaskNow p sl lp c with
    | (s, none) => s
    | (s, some (w, plain)) =>
      let book := s.od .sliceCodebook sl
      if w.book = book && w.gen = s.od .codebookGeneration book then
        let k : Cask := ⟨c.slotClass, w, plain % 2 ^ 192, plain >>> 192⟩
        let s := (s.putCask p sl lp loc c.keySel c.version k byMigration ownMigration).noteCask p sl loc w
        (s.beginMove p ⟨2, sl, lp, c, new, false, 0⟩).readyMove p sl lp new 0
      else
        (s.beginMove p ⟨2, sl, lp, c, { new with version := c.version + 1 }, false, 0⟩).engineTask p .recode sl lp
          ((plain <<< 64) ||| cwSeal w.encode) 0

/-- The frames of a logical extent are those of another physical extent from now on: its entries that hold nothing name them, and
the emptied extent enters ZEROING. -/
def Part.switchFrames (s : Part) (p sl le ext dest : Nat) : Part :=
  let lo := pageKey sl (le * 512)
  let cells := (((s.pav p).cellar.range lo (lo + 512)).map fun e => (e.1 % 2 ^ 34, e.2)).map fun q =>
    (q.1, if q.2.fixed && extOf q.2.loc = ext then { q.2 with loc := dest * extUnits + 8 * (q.1 % 512) } else q.2)
  let s := s.onPav p fun v => { v with cellar := v.cellar.eraseRange lo (lo + 512) }
  let s := match s.mirrorOf sl (le * 512) with
    | some q => s.onPav q fun v => { v with mirror := v.mirror.eraseRange lo (lo + 512) }
    | none => s
  let s := s.onSlice sl fun q => { q with fixed := q.fixed.put le (dest + 1) }
  (iter cells s fun s q => s.commit p sl q.1 q.2).toZeroing p ext

/-- Move the pages of an extent of fixed frames to a new one (spec/02 R83, spec/15 R559), each with its two phases. The entry stays at
the head of the plan until no page holds anything in the extent. -/
def Part.compactFixed (s : Part) (p ext : Nat) : Part :=
  let sl := (s.ownOf p ext).owner
  match (s.slice sl).fixed.find? (fun f => f.2 == ext + 1 && s.homeOf sl (f.1 * 512) == some p) with
  | none => s
  | some (le, _) =>
    match s.fixedDest p ext with
    | none => s.count .movesSkipped 0
    | some (dest, s) =>
      let pages := s.pagesWhere p sl (le * 512) (le * 512 + 512) fun c => c.tier != tierZero && extOf c.loc == ext
      if pages.isEmpty && !((List.range 512).any fun k => s.inUse p sl (le * 512 + k)) then s.switchFrames p sl le ext dest
      else
        let s := iter (pages.filter fun lp => !s.inUse p sl lp) s fun s lp =>
          s.compactFrame p sl lp (dest * extUnits + 8 * (lp % 512))
        s.keepEntry p ⟨2, sl, ext, p, 0⟩

/-- PLAN_ENTRY_COMPACT (spec/02 R83): every live frame or slot of the extent is moved; other kinds as spec/15 R559 states. -/
def execPlanEntryCompact (p : Pav) (s : State) : Host.Outcome State Fault Refusal :=
  s.run fun s =>
    match s.planHead p 2 with
    | none => s
    | some (e, s) =>
      let ext := e.target
      let o := s.ownOf p ext
      let s := s.onPav p fun v => { v with emptying := [ext] }
      let fin (s : Part) : Part := if (s.pav p).moves.isEmpty then s.onPav p fun v => { v with emptying := [] } else s
      let run (s : Part) (tier places : Nat) (locOf : Nat → Nat) (f : Part → Nat → Part) : Part :=
        let s := s.freeStray p ext places locOf
        let pages := (((s.pav p).cellar.range (pageKey o.owner 0) (pageKey o.owner (2 ^ 34))).filter fun q =>
          q.2.tier == tier && extOf q.2.loc == ext).map fun q => q.1 % 2 ^ 34
        let free := pages.filter fun lp => !s.inUse p o.owner lp
        let s := iter free s f
        let s := if free.length < pages.length then s.keepEntry p e else s
        if (s.ownOf p ext).kind = o.kind && (s.ownOf p ext).live = 0 then s.toZeroing p ext else s
      let s :=
        if o.kind = kindTag then s.compactTag p ext
        else if o.kind = kindCellar then s.compactCellar p ext
        else if o.owner != e.slice then s
        else if o.kind = kindHot && o.fixed then s.compactFixed p ext
        else if o.kind = kindHot then run s tierHot 512 (fun k => ext * extUnits + 8 * k) fun s lp => s.compactHot p o.owner lp
        else if o.kind = kindCask then
          run s tierWarm (slotsPerExtent o.cls) (fun k => ext * extUnits + (if o.cls = 7 then 8 else o.cls + 1) * k)
            fun s lp => s.compactCask p o.owner lp
        else s
      (fin s).settleDrains

/-! ## The commit phase (spec/02 R81) -/

/-- The move leaves its page in its own fixed frame. -/
def Move.inPlace (m : Move) : Bool := m.new.fixed && m.new.loc == m.old.loc

/-- Free the destination of a move that is cancelled. -/
def Part.freeDest (s : Part) (p : Nat) (m : Move) : Part :=
  if !m.ready || m.inPlace || m.new.tier = tierZero then s else s.freePage p m.slice m.new

/-- Commit one move, or cancel it when MOVING has been cleared: the entry, then the source is freed; a page that stays in its fixed
frame is written there between its release and the entry. -/
def Part.endMove (s : Part) (p : Nat) (m : Move) : Part :=
  let sl := m.slice
  let lp := m.lpage
  let s := s.onPav p fun v => { v with moves := v.moves.filter fun q => !(q.slice == sl && q.lpage == lp) }
  let c := s.cell p sl lp
  if !c.moving then (s.freeDest p m).count .movesCancelled 0 else
  let s := if m.inPlace then (s.freePage p sl m.old).storeFrame p sl lp m.new m.page else s
  let s := (s.commit p sl lp { m.new with moving := false }).count .movesDone 0
  let s := if m.inPlace then s else s.freePage p sl m.old
  let s := s.heatFlag p sl lp m.new.tier
  if m.action = 0 then s.settleFlag p sl (lp / 64) tierWarm
  else if m.action = 1 then s.settleFlag p sl (lp / 64) tierHot
  else s

/-- PAGE_MOVE_COMMIT (spec/02 R81): the first move that is ready and whose page is not in use. -/
def execPageMoveCommit (p : Pav) (s : State) : Host.Outcome State Fault Refusal :=
  s.run fun s =>
    match (s.pav p).moves.find? (fun m => m.ready && !s.inUse p m.slice m.lpage) with
    | none => s
    | some m =>
      let s := (s.endMove p m).settleDrains
      if (s.pav p).moves.isEmpty then s.onPav p fun v => { v with emptying := [] } else s

/-! ## Re-key in place (spec/04 R176) -/

/-- Re-key one page under its hold. -/
def Part.rekeyPage (s : Part) (p sl lp : Nat) : Part :=
  let c := s.cell p sl lp
  let slot := s.od .sliceKeyActive sl
  let new : Cell := { c with keySel := slot, version := 1 }
  if !s.ownerOk p sl c then s.ownerMismatch p sl lp
  else if c.tier = tierHot then
    let r := s.readHot p sl lp c
    let fresh := (List.range 64).filter fun n =>
      metaPoisoned (r.2.marks.getD n 0) && !metaPoisoned (s.lineEnt p sl (burstOf c.loc + n)).info
    let s := iter fresh r.1 fun s n => s.poisonReport sl (lineAddress lp n) 1 (bits (r.2.marks.getD n 0) 3 4)
    let s := if fresh.isEmpty then s else s.dirtyMark p sl lp
    let s := (s.clearLines p sl c.loc).storePage p sl lp c.loc slot r.2.page 1 (fun n => r.2.marks.getD n 0) byMigration ownMigration
    s.commit p sl lp new
  else match s.readCaskNow p sl lp c with
    | (s, none) => s
    | (s, some (w, plain)) =>
      let s := s.putCask p sl lp c.loc slot 1 ⟨c.slotClass, w, plain % 2 ^ 192, plain >>> 192⟩ byMigration ownMigration
      (s.keyUse sl slot 1).commit p sl lp new

/-- PLAN_ENTRY_REKEY (spec/04 R176): the pages of the group with another KEY_SEL; those in use keep the entry. -/
def execPlanEntryRekey (p : Pav) (s : State) : Host.Outcome State Fault Refusal :=
  s.run fun s =>
    match s.planHead p 3 with
    | none => s
    | some (e, s) =>
      let slot := s.od .sliceKeyActive e.slice
      let pages := s.pagesWhere p e.slice (e.target * 64) (e.target * 64 + 64) fun c => c.tier != tierZero && c.keySel != slot
      let free := pages.filter fun lp => !s.inUse p e.slice lp
      let s := iter free s fun s lp => s.rekeyPage p e.slice lp
      if free.length < pages.length then s.keepEntry p e else s

/-- REKEY_PAGES_LEFT (spec/04 R177). -/
def Part.rekeyLeft (s : Part) (sl : Nat) : Nat :=
  let slot := s.od .sliceKeyActive sl
  (allPavs.map fun p => (s.pagesWhere p sl 0 (2 ^ 34) fun c => c.tier != tierZero && c.keySel != slot).length).sum

/-- REKEY_SWEEP_END (spec/04 R177, R178): the old key set is destroyed; a cause recorded in the meantime starts the next
sweep if it still holds, the lowest first where several wait (log entry 207). -/
def execRekeySweepEnd (sl : Slice) (s : State) : Host.Outcome State Fault Refusal :=
  s.run fun s =>
    if s.od .rekeyState sl != 1 || s.rekeyLeft sl != 0 then s else
    let s := s.destroySet sl (1 - s.od .sliceKeyActive sl)
    let s := ((s.setOd .rekeyState sl 0).modOd .sliceRekeys sl (· + 1)).logEv 0x0D07 0 0 (some sl.val)
    s.nextSweep sl

/-! ## Zeroing and capacity notices (spec/02 R66, R90, R94) -/

/-- Send a capacity notice of a slice to each ingress pavilion that holds its writes for a home (spec/02 R94). -/
def Part.capacityNotice (s : Part) (p sl : Nat) : Part :=
  let holds (i : Nat) : Bool :=
    let q := s.part i sl
    (q.hold.any fun h => h.home == p) || q.forwarded.any fun f => f.held && f.home == p
  let dests := allPavs.filter fun d => holds (2 * d) || holds (2 * d + 1)
  iter dests s fun s d =>
    s.send p 9 { Msg.zero with cls := clsResponse, opcode := 7, src := p, dst := d, addr := sl, label := sliceLabel s.vint.bank sl }

/-- Notices for every slice with held writes on a pavilion. -/
def Part.capacityNotices (s : Part) (p : Nat) : Part :=
  iter (s.slices.map (·.1)) s fun s sl => if s.heldFor sl p = 0 then s else s.capacityNotice p sl

/-- An emptied extent of the retire list or a lost layer becomes RETIRED (spec/15 R559): CAP_SPARE falls by one SPARE extent
while there is one, which becomes FREE by way of ZEROING (spec/02 R66), CAP_RAW by 1. -/
def Part.retireExtent (s : Part) (p ext : Nat) : Part :=
  let lost := s.layerLost p (ext / (s.geom p).layerExts)
  let s := s.setOwn p ext { s.ownOf p ext with kind := kindRetired }
  let s := s.onPav p fun v => { v with retire := v.retire.filter (· != ext) }
  if lost then s else
  let s := s.onPav p fun v => { v with capRaw := v.capRaw - 1 }
  match (s.pav p).own.find? (fun e => e.2.kind == kindSpare) with
  | some (e, _) => s.toZeroing p e
  | none => s

/-- ZEROING_COMPLETE (spec/02 R66): the extent holds zero data; it is FREE, its OWNER standing until KIND leaves FREE, or RETIRED when it is on the retire list or of a
lost layer; capacity notices go out (R94). -/
def execZeroingComplete (p : Pav) (ext : Nat) (s : State) : Host.Outcome State Fault Refusal :=
  s.run fun s =>
    if (s.ownOf p ext).kind != kindZeroing then s else
    let owner := (s.pav p).zeroing.get 0 ext
    let o := s.ownOf p ext
    let lo := ext * extBursts
    let s := s.onPav p fun v => { v with
      tags := v.tags.eraseRange lo (lo + extBursts), zeroing := v.zeroing.erase ext }
    let s := s.zeroBursts p ext
    let s := iter (List.range 8) s fun s k => s.onChan (p.val * 8 + k) fun v => { v with
      queue := v.queue.filter fun q => !(q.write && q.burst / extBursts == ext && q.burst < spareBase)
      withheld := v.withheld.filter fun q => !(q.write && q.burst / extBursts == ext && q.burst < spareBase)
      repairQ := v.repairQ.filter fun q => q.burst / extBursts != ext }
    let s := s.setOwn p ext { o with kind := kindFree }
    let s := if (s.pav p).retire.contains ext || s.layerLost p (ext / (s.geom p).layerExts) then s.retireExtent p ext else s
    let s := if owner = 0 then s.commonsAlarm p else s.capacityAlarms p (owner - 1)
    s.capacityNotices p

/-! ## Rescues (spec/05 R206) -/

/-- RESCUE_CASK (spec/05 R206): the oldest entry of the rescue list; a cask that cannot be restored stays, and an entry whose
slot is no longer live is dropped. -/
def execRescueCask (p : Pav) (s : State) : Host.Outcome State Fault Refusal :=
  s.run fun s =>
    match (s.pav p).rescue with
    | [] => s
    | (ext, k) :: rest =>
      let s := s.onPav p fun v => { v with rescue := rest }
      let o := s.ownOf p ext
      let loc := ext * extUnits + (if o.cls = 7 then 8 else o.cls + 1) * k
      if o.kind != kindCask || !((s.pav p).used.get 0 ext).testBit k then s else
      match s.pageAt p o.owner loc tierWarm with
      | none => s
      | some lp =>
        let xs := slotBursts o.cls loc
        let s := iter xs s fun s x => s.engineRead p x byMigration
        match s.restoreCask p o.owner lp o.cls loc (xs.map fun x => (x, s.burstNow p x)) srcMigration false with
        | (s, none) => s
        | (s, some (_, y)) =>
          let s := iter xs.zipIdx s fun s q =>
            s.writeBurst p q.1 (sddcEncode (bits y (512 * q.2) 512)) byMigration ownMigration o.owner lp
          s.count .caskRescues 0

end Sys2Proof.Machine
end

