-- ==== Sys2Proof/Machine/Lanes.lean ====
section
/-!
DEFINITION. The codec lanes (spec/03 R136 to R142), codebook slots (R113 to R123) and codebook builds (R124, R125).
-/

namespace Sys2Proof.Machine

/-! ## Decoding -/

/-- The code lengths of a codebook slot. -/
def Part.lengths (s : Part) (b : Nat) : Lengths := if b = 0 then neutralLengths else imageLengths (s.od .codebookImage b)

/-- A sealed plaintext as a codec task carries it: clear word below, sealed header, payload. -/
structure Sealed where
  word    : ClearWord
  header  : Nat
  payload : Nat

/-- The parts of a task's cask. -/
def CodecTask.sealed_ (t : CodecTask) : Sealed :=
  ⟨ClearWord.decode (t.page % 2 ^ 64), bits t.page 64 192, t.page >>> 256⟩

/-- Check a header and decode (spec/03 R137 to R139): one line for a warm read, else the page. -/
def Part.decodeTask (s : Part) (t : CodecTask) : Except CodecFault Nat :=
  let k := t.sealed_
  let b := k.word.book
  match headerFault k.word k.header (s.od .codebookState b) (s.od .codebookGeneration b) (k.payload >>> (8 * k.word.len)) with
  | some f => .error f
  | none =>
    let codes := codeTable (s.lengths b)
    if t.use = .warmRead then decodeLine codes k.word k.header k.payload t.line else decodePage codes k.word k.header k.payload

/-- The counter of a fault (spec/03 R138). -/
def faultEntry (code : Nat) : Entry :=
  if code = faultIllegal then .codecFaultsIllegal
  else if code = faultReference then .codecFaultsReference
  else if code = faultLength then .codecFaultsLength
  else if code = faultOutput then .codecFaultsOutput
  else .codecFaultsCrc

/-- The idle decompressor lanes of a pavilion, lowest first (spec/03 R142): a repeat that waits for its codebook tables holds its
lane. -/
def Part.idleLanes (s : Part) (p : Nat) : List Nat :=
  (List.range 8).filter fun k => !((s.pav p).codecQ.any fun t => t.again && t.lane == k)

/-- The lane on which a sub-block of a decode runs (spec/03 R142, R143): one lane per sub-block while lanes are idle, else in turn on
the lowest-numbered one. -/
def laneFor (idle : List Nat) (t : CodecTask) (sub : Nat) : Nat :=
  if t.use = .warmRead || 4 ≤ sub then idle.headD 0 else idle.getD sub (idle.headD 0)

/-- Log a decode fault with the lane of the first decode that faulted (spec/03 R138, R142). -/
def Part.logFault (s : Part) (p : Nat) (t : CodecTask) (f : CodecFault) : Part :=
  s.logEv f.code (t.lpage * 4096)
    ((t.sealed_.word.book <<< 56) ||| (f.sub <<< 48) ||| (laneFor (s.idleLanes p) t f.sub <<< 40) ||| bits f.at_ 0 32) (some t.slice) p

/-- A fault of the lane itself (spec/03 R140): at the start of the line's sub-block, or of the first one of a full decode, or of the
whole page for the CRC. -/
def laneFault (t : CodecTask) (k : Nat) : CodecFault :=
  if k = 5 then ⟨faultCrc, 0xFF, 0xFFFFFFFF⟩ else ⟨0x0C00 + k, if t.use = .warmRead then t.line / 16 else 0, 0⟩

/-- What a decode comes to with its repeat (spec/03 R140). -/
inductive Decode2 where
  | good (s : Part) (v : Nat)
  | waits (s : Part)
  | faulted (s : Part)

/-- Decode with one repeat on another lane. `fault`: the first lane faults with this code offset. A decode that meets
damaged codebook tables faults, and its repeat waits for their reload (spec/03, races). The fault of the first decode is logged
and that of the repeat counted, also where they differ (DESIGN CHOICE, log entry 194). -/
def Part.decodeTwice (s : Part) (p : Nat) (t : CodecTask) (fault : Nat) : Decode2 :=
  let raw := t.sealed_.word.raw
  let damaged := (s.pav p).cbInvalid && !raw
  let first : Except CodecFault Nat :=
    if t.again then .error (laneFault t 1)
    else if fault != 0 then .error (laneFault t fault)
    else if damaged then .error (laneFault t 1)
    else s.decodeTask t
  match first with
  | .ok v => .good s v
  | .error f =>
    let s := if t.again then s else s.logFault p t f
    if damaged then .waits s else
    match s.decodeTask t with
    | .ok v => .good (s.count .codecRetryOk 0) v
    | .error g => .faulted ((s.count (faultEntry g.code) 0).count .sliceCodecFaults t.slice)

/-! ## Ending codec tasks -/

/-- The task of a conversion or read as the home's functions take it. -/
def CodecTask.task (t : CodecTask) : Task :=
  ⟨0, if t.use = .conversion then .convert else .readCask, t.msg, t.slice, t.lpage, t.line, [], [], false, t.frame⟩

/-- The key slot that a move's page takes (spec/04 R175): the active one for storage it acquires, its own in a fixed
frame. -/
def Part.moveSlot (s : Part) (c : Cell) (sl : Nat) : Nat := if c.fixed then c.keySel else s.od .sliceKeyActive sl

/-- A promotion has its page (spec/02 R82): a frame within the plot, or it is skipped. -/
def Part.endPromotion (s : Part) (p sl lp page : Nat) : Part :=
  let c := s.cell p sl lp
  let slot := s.moveSlot c sl
  let v := c.version + 1
  if c.fixed then s.readyFixed p sl lp { c with tier := tierHot, slotClass := 0, version := v } page else
  match s.takeFrame p sl false with
  | none => (s.dropMove p sl lp).count .movesSkipped 0
  | some (loc, s) =>
    let s := s.storePage p sl lp loc slot page v (fun _ => 0) byMigration ownMigration
    s.readyMove p sl lp { c with tier := tierHot, slotClass := 0, version := v, keySel := slot, loc := loc } 0

/-- The compressor has a page of the engine (spec/02 R82, spec/03 R122, R131, R134): a demotion, or a re-code. -/
def Part.endCompress (s : Part) (p sl lp page : Nat) (recode : Bool) : Part :=
  let c := s.cell p sl lp
  match (s.pav p).moves.find? (fun m => m.slice == sl && m.lpage == lp) with
  | none => s
  | some m =>
    let slot := s.moveSlot c sl
    let v := m.new.version
    if page = 0 then
      (s.versionCheck sl v).readyMove p sl lp { c with tier := tierZero, slotClass := 0, version := v, loc := if c.fixed then c.loc else 0 } 0
    else
      let book := s.od .sliceCodebook sl
      let k := makeCask (s.lengths book) book (s.od .codebookGeneration book) (s.od .slicePageCode sl) page
      if k.cls = 7 && !recode then (s.dropMove p sl lp).count .demoteIncompressible 0
      else if c.fixed then
        let loc := m.new.loc
        (if k.cls = 7 then s.readyFixed p sl lp { c with tier := tierHot, slotClass := 0, version := v, loc := loc } page
         else s.readyFixed p sl lp { c with tier := tierWarm, slotClass := k.cls, version := v, loc := loc } k.pack)
      else match s.takeSlot p sl k.cls true with
        | none => (s.dropMove p sl lp).count (if recode then .codebookRecodeSkipped else .movesSkipped) 0
        | some (loc, s) =>
          let s := s.storeCask p sl lp loc slot v k byCodec ownCodec
          s.readyMove p sl lp { c with tier := tierWarm, slotClass := k.cls, version := v, keySel := slot, loc := loc } 0

/-- A first write to a warm tier has its page (spec/02 R70, spec/03 R133): a cask, or HOT where a fixed frame's page needs the
raw form. -/
def Part.endFirstWrite (s : Part) (p : Nat) (t : CodecTask) : Part :=
  let sl := t.slice
  let lp := t.lpage
  let c := s.cell p sl lp
  let book := s.od .sliceCodebook sl
  let k := makeCask (s.lengths book) book (s.od .codebookGeneration book) (s.od .slicePageCode sl) t.page
  let slot := if c.fixed then s.od .sliceKeyActive sl else s.moveSlot c sl
  let v := c.version + 1
  let put (s : Part) (loc : Nat) : Part :=
    let s := s.storeCask p sl lp loc slot v k sl ownOpen
    ((s.heatFlag p sl lp tierWarm).dirtyMark p sl lp).commitFor p sl lp
      { c with version := v, tier := tierWarm, slotClass := k.cls, keySel := slot, moving := false, loc := loc } (respMsg t.msg 0 0)
      Cell.zero
  if c.fixed then (if k.cls = 7 then s.makeHot p t.msg c c.loc 0 (fun _ => 0) else put s c.loc)
  else match s.takeSlot p sl k.cls true with
    | none => (s.releasePage p sl lp).refuseCapacity p t.msg
    | some (loc, s) => put s loc

/-- Count a sample page of a build (spec/03 R124): coded with the neutral codebook, nothing written. -/
def Part.countSample (s : Part) (page : Nat) : Part :=
  let c := codePage neutralLengths page
  let s := s.modOd .buildPagesSampled 0 (· + 1)
  { s with codec := { s.codec with
      counts := (List.range 67).map fun k => s.codec.counts.getD k 0 + c.counts.getD k 0
      coded := s.codec.coded + c.bitsN } }

/-- Keep a task at the head of the queue for its repeat, on the next idle lane, which it holds. -/
def Part.keepTask (s : Part) (p : Nat) (t : CodecTask) : Part :=
  let lane := (s.idleLanes p).getD 1 ((s.idleLanes p).headD 0)
  s.onPav p fun v => { v with codecQ := { t with again := true, lane := lane } :: v.codecQ }

/-- A page for the compressor stage of a task that a decode began. -/
def Part.toCompressor (s : Part) (p : Nat) (t : CodecTask) (page : Nat) : Part :=
  s.onPav p fun q => { q with codecQ := q.codecQ ++ [{ t with page := page, frame := 1, again := false }] }

/-- A decompressor lane takes a task. Where its page was poisoned meanwhile, its request is served again as the page stands. -/
def Part.decodeLaneTask (s : Part) (p : Nat) (t : CodecTask) (fault : Nat) : Part :=
  let sl := t.slice
  let lp := t.lpage
  if (t.use = .warmRead || t.use = .conversion) && (s.cell p sl lp).tier != tierWarm then
    (s.giveUp p t.task).onPav p fun v => { v with inbox := t.msg :: v.inbox }
  else
  match s.decodeTwice p t fault with
  | .waits s => s.keepTask p t
  | .good s v =>
    match t.use with
    | .warmRead => s.respond t.msg 0 v
    | .conversion => s.makeHot p t.msg (s.cell p sl lp) t.frame v fun _ => 0
    | .promotion => s.endPromotion p sl lp v
    | _ => s.toCompressor p t v
  | .faulted s =>
    match t.use with
    | .warmRead => s.readPoisoned p t.task 7
    | .conversion => s.convertPoisoned p t.task 7
    | .promotion | .recode => (s.dropMove p sl lp).poisonPage p sl lp 7
    | _ => s.poisonPage p sl lp 7

/-- A codebook build's sample (spec/03 R124): read and checked on its home, then passed to a compressor lane; ZERO and poisoned
pages are skipped. -/
def Part.sample (s : Part) (p : Nat) (t : CodecTask) (fault : Nat) : Part :=
  let c := s.cell p t.slice t.lpage
  if c.tier = tierHot then
    let r := s.readHot p t.slice t.lpage c
    if r.2.clean then r.1.toCompressor p t r.2.page else r.1
  else if c.tier = tierWarm then
    match s.readCaskNow p t.slice t.lpage c with
    | (s, none) => s
    | (s, some (w, plain)) => s.decodeLaneTask p { t with page := (plain <<< 64) ||| cwSeal w.encode } fault
  else s

/-- The task needs a decompressor lane. -/
def CodecTask.decodes (t : CodecTask) : Bool :=
  match t.use with
  | .warmRead | .conversion | .promotion => true
  | .recode | .build => t.frame == 0
  | .firstWrite | .demotion => false

/-- The rank of a task for the next dispatch: the priorities of spec/03 R142 for the decompressor lanes are 0 to 3, those for the
compressor lanes 4 to 6. That one dispatch prefers a decompressor task is the model's (DESIGN CHOICE, log entry 73). -/
def CodecTask.rank (t : CodecTask) : Nat :=
  match t.use with
  | .warmRead => 0
  | .conversion => 1
  | .promotion => 2
  | .recode => if t.frame = 0 then 2 else 5
  | .build => if t.frame = 0 then 3 else 6
  | .firstWrite => 4
  | .demotion => 5

/-- The task a lane takes next: the first of the lowest rank for which a lane is idle. A task whose repeat waits for codebook
tables stays. -/
def Part.nextCodec (s : Part) (p : Nat) : Option (CodecTask × Part) :=
  if s.stalled p byCodec then none else
  let q := (s.pav p).codecQ
  let idle := !(s.idleLanes p).isEmpty
  let ok (t : CodecTask) : Bool := !(t.again && (s.pav p).cbInvalid) && (idle || t.again || !t.decodes)
  match (List.range 7).findSome? (fun r => q.find? fun t => t.rank == r && ok t) with
  | none => none
  | some t => (takeFirst (fun u => u.rank == t.rank && ok u) q).map fun r => (r.1, s.onPav p fun v => { v with codecQ := r.2 })

/-- The lanes that a task runs on, as bits of the gating mask: decompressor lane k at 8 + k, compressor lane k at k. -/
def Part.lanesOf (s : Part) (p : Nat) (t : CodecTask) : List Nat :=
  if !t.decodes then [0]
  else if t.again then [8 + t.lane]
  else ((List.range (if t.use = .warmRead then 1 else 4)).map fun b => 8 + laneFor (s.idleLanes p) t b).eraseDups

/-- CODEC_LANE_DISPATCH (spec/03 R142, R143): one task runs on its lanes, the lowest-numbered idle ones. A lane that was
clock-gated wakes. -/
def execCodecLaneDispatch (p : Pav) (fault : Fin 6) (s : State) : Host.Outcome State Fault Refusal :=
  s.run fun s =>
    if s.parked (0x0300 + p) then s else
    match s.nextCodec p with
    | none => s
    | some (t, s) =>
      let lanes := s.lanesOf p t
      let s := s.onPav p fun v => { v with laneGated := lanes.foldl (fun g k => setBit g k false) v.laneGated }
      if t.use = .build then (if t.decodes then s.sample p t fault else s.countSample t.page)
      else if t.decodes then s.decodeLaneTask p t fault
      else if t.use = .firstWrite then s.endFirstWrite p t
      else s.endCompress p t.slice t.lpage t.page (t.use = .recode)

/-- CODEBOOK_TABLE_RELOAD_DONE (spec/05 R211, spec/03, races). -/
def execCodebookTableReloadDone (p : Pav) (s : State) : Host.Outcome State Fault Refusal :=
  s.run fun s => s.onPav p fun v => { v with cbInvalid := false }

/-! ## Codebook slots (spec/03 R113 to R123) -/

/-- A write of SLICE_CODEBOOK that names a slot is pending (spec/03 R113): in a compile or staged in a batch. -/
def Part.bookPending (s : Part) (b : Nat) : Bool :=
  let names (w : Staged) : Bool := w.entry == .sliceCodebook && w.value == b
  (s.vint.staged.any names) || (s.vint.queue.any fun a => a.writes.any names) ||
  (match s.vint.running with
   | some a => a.writes.any names
   | none => false)

/-- The reason for which an image is refused for a slot (spec/03 R113); 0 when it is accepted. -/
def Part.imageRefusal (s : Part) (b image : Nat) : Nat :=
  let r := imageReason image
  if r != 0 then r
  else if 2 ≤ s.od .codebookState b || s.od .codebookCasks b != 0 || s.od .codebookSlices b != 0 || s.bookPending b then 6
  else if b = 0 then 7
  else 0

/-- Begin the load of an accepted image (spec/03 R114): the answer waits for its end. -/
def Part.beginLoad (s : Part) (b image : Nat) (w : Option Who) : Part :=
  { s with codec := { s.codec with loading := some (b, image, w) } }

/-- A codebook request waits for the end of the load that runs (spec/03 R114). -/
def Part.bookWait (s : Part) (a : BookAsk) : Part :=
  { s with codec := { s.codec with waiting := s.codec.waiting ++ [a] } }

/-- A write of CODEBOOK_IMAGE; while a load runs it waits for its end (spec/03 R114). -/
def Part.imageWrite (s : Part) (w : Who) (b image len : Nat) : Reply :=
  if s.codec.loading.isSome then (s.bookWait (.image w b image len)).later else
  match writeChecks Entry.codebookImage.info (s.roleOf w) image len true with
  | some c => s.refuse c
  | none =>
    let r := s.imageRefusal b image
    let s := s.setOd .codebookLoadResult b r
    if r != 0 then ⟨s, some rCodebook, [r]⟩ else (s.beginLoad b image (some w)).later

/-- CODEBOOK_IMAGE_WRITE (spec/03 R113). -/
def execCodebookImageWrite (w : Who) (slot : Book) (image : Line) (s : State) : Host.Outcome State Fault Refusal :=
  s.run fun s => (s.imageWrite w slot image.toNat 64).answer w

/-- DRAIN of a slot begins (spec/03 R121): a slice that names it and has nothing to drain has its bit cleared at once. -/
def Part.beginDrainBook (s : Part) (b : Nat) : Part :=
  let s := s.setOd .codebookState b 3
  let held := (s.slices.map (·.1)).filter fun sl => bit (s.od .sliceCodebooksHeld sl) b
  let s := iter held s fun s sl =>
    match s.drainLeft sl with
    | [] => s.clearHeld b sl
    | l => { s with codec := { s.codec with drains := s.codec.drains.put (b * 4096 + sl) l } }
  if s.od .codebookCasks b = 0 then s.setOd .codebookState b 1 else s

/-- A write of CODEBOOK_COMMAND: 1 DRAIN (spec/03 R121), 2 UNLOAD (R123); while a load runs it waits for its end (R114). -/
def Part.codebookCommand (s : Part) (w : Who) (b v : Nat) : Reply :=
  if s.codec.loading.isSome then (s.bookWait (.command w b v)).later else
  s.command w .codebookCommand v false fun s =>
    let st := s.od .codebookState b
    if v = 1 then
      if st != 2 then s.refuse rState
      else if s.od .codebookSlices b != 0 then s.refuse rCondition
      else (s.beginDrainBook b).ok
    else if b = 0 || st != 1 then s.refuse rState
    else ((s.setOd .codebookState b 0).resetOd .codebookImage b).ok

/-- CODEBOOK_DRAIN (spec/03 R121). -/
def execCodebookDrain (w : Who) (slot : Book) (s : State) : Host.Outcome State Fault Refusal :=
  s.run fun s => (s.codebookCommand w slot 1).answer w

/-- CODEBOOK_UNLOAD (spec/03 R123). -/
def execCodebookUnload (w : Who) (slot : Book) (s : State) : Host.Outcome State Fault Refusal :=
  s.run fun s => (s.codebookCommand w slot 2).answer w

/-! ## Builds (spec/03 R124, R125) -/

/-- Pages of a slice's granted extents in order: the extents, ascending. -/
def Part.grantedExts (s : Part) (sl : Nat) : List Nat :=
  (s.slice sl).grants.flatMap fun e => ((List.range 512).filter fun k => e.2.testBit k).map fun k => e.1 * 512 + k

/-- The sample pages of a build: positions ⌊i × P / N⌋ of the P granted pages. -/
def Part.samplePages (s : Part) (sl n : Nat) : List Nat :=
  let exts := s.grantedExts sl
  let total := exts.length * 512
  if total = 0 then [] else
  (List.range n).map fun i =>
    let k := i * total / n
    exts.getD (k / 512) 0 * 512 + k % 512

/-- A build is sampling or loading its image. -/
def Part.building (s : Part) : Bool := s.od0 .buildState == 1 || s.od0 .buildState == 2

/-- End a build with CANCELLED (spec/03 R124). -/
def Part.cancelBuild (s : Part) : Part :=
  let s := iter allPavs s fun s p => s.onPav p fun v => { v with codecQ := v.codecQ.filter fun t => t.use != .build }
  let s := match s.codec.loading with
    | some (_, _, none) => { s with codec := { s.codec with loading := none } }
    | _ => s
  let s : Part := { s with codec := { s.codec with waiting := s.codec.waiting.filter fun a => match a with
    | .built _ _ => false
    | _ => true } }
  (s.setOd .buildState 0 4).setOd .buildResult 0 5

/-- A write of CODEBOOK_BUILD_COMMAND: 1 START, 2 CANCEL; while a load of another image runs it waits for its end (spec/03 R114). A
START refused because its slice is not RUNNING leaves BUILD_RESULT as it is (DESIGN CHOICE, log entry 194). -/
def Part.buildCommand (s : Part) (w : Who) (v : Nat) : Reply :=
  if s.codec.loading.any fun q => q.2.2.isSome then (s.bookWait (.build w v)).later else
  s.command w .codebookBuildCommand v false fun s =>
    if v = 1 then
      let sl := s.od0 .buildSourceSlice
      let b := s.od0 .buildTargetSlot
      if s.building then s.refuse rBusy
      else if s.od .sliceSamplingAllowed sl != 1 then (s.setOd .buildResult 0 2).refuse rCondition
      else if s.od .sliceState sl != 2 then s.refuse rCondition
      else if 2 ≤ s.od .codebookState b || s.od .codebookCasks b != 0 || s.od .codebookSlices b != 0 then
        (s.setOd .buildResult 0 4).refuse rCondition
      else
        let s := ((s.setOd .buildState 0 1).setOd .buildResult 0 0).setOd .buildPagesSampled 0 0
        let s := { s with codec := { s.codec with counts := [], coded := 0 } }
        let s := iter (s.samplePages sl (s.od0 .buildPages)) s fun s lp =>
          match s.homeOf sl lp with
          | some p => s.engineTask p .build sl lp 0 0
          | none => s
        s.ok
    else if !s.building then s.refuse rState
    else s.cancelBuild.ok

/-- CODEBOOK_BUILD_START (spec/03 R124). -/
def execCodebookBuildStart (w : Who) (s : State) : Host.Outcome State Fault Refusal :=
  s.run fun s => (s.buildCommand w 1).answer w

/-- CODEBOOK_BUILD_CANCEL (spec/03 R124). -/
def execCodebookBuildCancel (w : Who) (s : State) : Host.Outcome State Fault Refusal :=
  s.run fun s => (s.buildCommand w 2).answer w

/-- Merge the two lightest trees: each is its weight and its symbols; the symbols' lengths grow by 1. Among equal weights the first in
the list is taken, and a merged tree goes to its end (DESIGN CHOICE, log entry 28: the spec does not say which prefix code). -/
def huffMerge (trees : List (Nat × List Nat)) (lens : List Nat) : List (Nat × List Nat) × List Nat :=
  let lightest (l : List (Nat × List Nat)) : Option (Nat × List Nat) :=
    l.foldl (fun a t => match a with
      | none => some t
      | some b => if t.1 < b.1 then some t else some b) none
  match lightest trees with
  | none => (trees, lens)
  | some a =>
    let rest := trees.erase a
    match lightest rest with
    | none => (trees, lens)
    | some b =>
      let syms := a.2 ++ b.2
      (rest.erase b ++ [(a.1 + b.1, syms)], lens.zipIdx.map fun q => if syms.contains q.2 then q.1 + 1 else q.1)

/-- The lengths of a prefix code for counts, by merging. -/
def huffLengths (counts : List Nat) : Lengths :=
  let trees := counts.zipIdx.map fun q => (q.1, [q.2])
  ((List.range (counts.length - 1)).foldl (fun a _ => huffMerge a.1 a.2) (trees, counts.map fun _ => 0)).2

/-- A prefix code with no length above 15 (log entry 28): the counts are halved, rounded up, until the code fits. -/
def boundedLengths : Nat → List Nat → Lengths
  | 0, counts => counts.map fun _ => 7
  | fuel + 1, counts =>
    let l := huffLengths counts
    if l.all (· ≤ 15) then l else boundedLengths fuel (counts.map fun c => (c + 1) / 2)

/-- The bits that a page count's symbols take under code lengths (spec/03 R106 to R109): each symbol's code and its operand, and
the 16 selectors of each page. -/
def codedBits (l : Lengths) (pages : Nat) (counts : List Nat) : Nat :=
  48 * pages + ((List.range 67).map fun k =>
    counts.getD k 0 * (l.getD k 0 + if k = 0 then 0 else if k ≤ 64 then k - 1 else 5)).sum

/-- A build's image for a slot (spec/03 R124): checked under R113, then loaded; while another load runs it waits for its end. -/
def Part.loadBuilt (s : Part) (b image : Nat) : Part :=
  if s.codec.loading.isSome then s.bookWait (.built b image) else
  let r := s.imageRefusal b image
  let s := s.setOd .codebookLoadResult b r
  if r != 0 then (s.setOd .buildState 0 4).setOd .buildResult 0 4 else s.beginLoad b image none

/-- BUILD_SAMPLING_DONE (spec/03 R124, R125): every sample is counted; the code is computed and its image loaded, or the
build ends. -/
def execBuildSamplingDone (s : State) : Host.Outcome State Fault Refusal :=
  s.run fun s =>
    if s.od0 .buildState != 1 || (allPavs.any fun p => (s.pav p).codecQ.any fun t => t.use == .build) then s else
    let n := s.od0 .buildPagesSampled
    if n < 64 then (s.setOd .buildState 0 4).setOd .buildResult 0 3 else
    let l := boundedLengths 64 ((List.range 67).map fun k => s.codec.counts.getD k 0 + 1)
    let ratio := min 65535 (n * 4096 * 8 * 100 / max 1 (codedBits l n s.codec.counts))
    (s.setOd .buildState 0 2).loadBuilt (s.od0 .buildTargetSlot) (makeImage l ratio)

/-! ## The end of a load (spec/03 R114) -/

/-- What waited for a load is handled, in its order, until one of them starts another load: at most `fuel` of them. -/
def Part.bookNext : Nat → Part → Part
  | 0, s => s
  | fuel + 1, s =>
    match s.codec.loading, s.codec.waiting with
    | none, a :: rest =>
      let s : Part := { s with codec := { s.codec with waiting := rest } }
      Part.bookNext fuel (match a with
        | .image w b image len => (s.imageWrite w b image len).settle w
        | .built b image => s.loadBuilt b image
        | .command w b v => (s.codebookCommand w b v).settle w
        | .build w v => (s.buildCommand w v).settle w)
    | _, _ => s

/-- A codebook load ends (spec/03 R114): the slot is LOADED with its next generation; the image write is answered, or the
build is done; what waited for its end is handled. -/
def Part.loadDone (s : Part) : Part :=
  match s.codec.loading with
  | none => s
  | some (b, image, w) =>
    let s := { s with codec := { s.codec with loading := none } }
    let s := ((s.setOd .codebookImage b (imageStored image)).setOd .codebookState b 1).modOd .codebookGeneration b fun g => (g + 1) % 256
    let s := match w with
      | some w => s.answerTo w rOk []
      | none => (s.setOd .buildState 0 3).setOd .buildResult 0 1
    s.bookNext s.codec.waiting.length

end Sys2Proof.Machine
end

