-- ==== Sys2Proof/Machine/Moves.lean ====
section
/-!
DEFINITION. Region moves and mirror copies (spec/15 R566, R628, spec/02 R59): the passes, the hold, what a move leaves on
either pavilion. The messages of spec/08 R310 carry the lines; a line's tag-region entry travels with it (log entry 26).
-/

namespace Sys2Proof.Machine

/-! ## Fixed frames and region blocks -/

/-- A HOT extent of fixed frames for a granted extent of a strict slice, with its tag block (spec/02 R74, R89). -/
def Part.takeFixed (s : Part) (p sl : Nat) : Option (Nat × Part) :=
  (s.takeHot p sl true false).map fun q => (q.1, q.2.setOwn p q.1 { q.2.ownOf p q.1 with live := 512 })

/-- Release an extent of fixed frames and its tag block (spec/02 R90). -/
def Part.releaseFixed (s : Part) (p ext : Nat) : Part :=
  let o := s.ownOf p ext
  let s := (s.toZeroing p ext).markUsed p o.tagExtent o.tagBlock false
  if (s.ownOf p o.tagExtent).live = 0 then s.toZeroing p o.tagExtent else s

/-- The key of a region's block on a pavilion: its home block, or its mirror block. -/
def blockKey (sl region : Nat) (mirror : Bool) : Nat := regionKey sl region * 2 + b2n mirror

/-- Take the two extents of a region block (spec/02 R58). -/
def Part.takeBlock (s : Part) (p key : Nat) : Option Part :=
  let book : Own := { Own.free with kind := kindCellar, live := 1 }
  match s.freeExt p with
  | none => none
  | some a =>
    let s := s.setOwn p a book
    match s.freeExt p with
    | none => none
    | some b => some ((s.setOwn p b book).onPav p fun v => { v with blocks := v.blocks.put key [a, b] })

/-- Release a region block. -/
def Part.dropBlock (s : Part) (p key : Nat) : Part :=
  let s := iter ((s.pav p).blocks.get [] key) s fun s e => s.toZeroing p e
  s.onPav p fun v => { v with blocks := v.blocks.erase key }

/-- The mirror pavilion of a home (spec/02 R59): the next whose state is IN_SERVICE above it, round from 7 to 0. -/
def Part.mirrorFor (s : Part) (home : Nat) : Option Nat :=
  ((List.range 7).map fun k => (home + k + 1) % 8).find? fun q => s.pstate q == 1

/-- Entries of a region in a table of the cellar book. -/
def regionCells (sl region : Nat) (m : Sparse Cell) : Sparse Cell :=
  m.range (pageKey sl (region * 262144)) (pageKey sl (region * 262144 + 262144))

/-- Take a region's entries out of a table of the cellar book. -/
def dropRegion (sl region : Nat) (m : Sparse Cell) : Sparse Cell :=
  m.eraseRange (pageKey sl (region * 262144)) (pageKey sl (region * 262144 + 262144))

/-- Give up the mirror copy of a region on a pavilion. -/
def Part.dropMirror (s : Part) (q sl region : Nat) : Part :=
  (s.dropBlock q (blockKey sl region true)).onPav q fun v => { v with mirror := dropRegion sl region v.mirror }

/-! ## MIRROR entries (spec/02 R59) -/

/-- PLAN_ENTRY_MIRROR (spec/02 R59): the region block is copied to its new mirror pavilion; with that commit the region
has two copies again. An entry without room for the block is passed over. -/
def execPlanEntryMirror (p : Pav) (s : State) : Host.Outcome State Fault Refusal :=
  s.run fun s =>
    match s.planHead p 5 with
    | none => s
    | some (e, s) =>
      let sl := e.slice
      let v := s.place sl e.target
      if !placeValid v || placeHome v != p || e.pav = p || s.pstate e.pav != 1 then s else
      let had := placeMirror v
      let s := if had = p then s else s.dropMirror had sl e.target
      let lone := s.setPlace sl e.target (mkPlace p had true (placeMoving v) (placeDest v))
      match s.takeBlock e.pav (blockKey sl e.target true) with
      | none => lone
      | some s =>
        let cells := regionCells sl e.target (s.pav p).cellar
        let s := s.onPav e.pav fun q => { q with mirror := cells.foldl (fun m c => m.put c.1 c.2) q.mirror }
        s.setPlace sl e.target (mkPlace p e.pav false (placeMoving v) (placeDest v))

/-! ## Copying pages of a region -/

/-- The cask at a place is noted no more, with no change to the counts of its codebook slot: another copy of it counts. -/
def Part.forgetCask (s : Part) (p loc : Nat) : Part := s.onPav p fun v => { v with casks := v.casks.erase loc }

/-- Free what a page's copy holds on a pavilion: its lines' entries with a hot frame, its place unless it is fixed. -/
def Part.freeCopy (s : Part) (p sl : Nat) (c : Cell) : Part :=
  let s := if c.tier = tierWarm then s.forgetCask p c.loc else s
  if c.tier = tierHot then
    let s := s.clearLines p sl c.loc
    if c.fixed then s else s.freePlace p (extOf c.loc) (c.loc % extUnits / 8)
  else if c.tier = tierWarm && !c.fixed then s.freePlace p (extOf c.loc) (c.loc % extUnits / (c.slotClass + 1))
  else s

/-- What MOVE_DATA carries of a line beside its ciphertext: its tag-region entry and its page. -/
def moveData (line : Nat) (e : TagEnt) (lp : Nat) : Nat :=
  line % 2 ^ 512 ||| ((e.info ||| (e.tag <<< 8) ||| (e.version <<< 64)) <<< 512) ||| (lp <<< 640)

/-- Send a line to a burst of the destination. -/
def Part.sendLine (s : Part) (p d sl x data : Nat) : Part :=
  s.send p 10 { Msg.zero with
    cls := clsMigration, opcode := 8, src := p, dst := d, units := 4, label := sliceLabel s.vint.bank sl, addr := x, data := data }

/-- Send the lines of a hot page, ciphertext and tags unchanged; a line that cannot be corrected is poisoned, RANK_LOST on a
lost rank (spec/06 R256, spec/15 R563). -/
def Part.sendHot (s : Part) (p d sl lp : Nat) (c : Cell) (loc : Nat) : Part :=
  iter (List.range 64) s fun s n =>
    let x := burstOf c.loc + n
    let inl := s.inline sl
    let k := checkBurst inl (s.burstNow p x)
    let s := s.tallyCheck p x srcMigration inl k
    let lost := s.burstLost p x
    let cause := if lost then 8 else causeUncorrectable
    let s := if k.ok then s else (if lost then s else s.suspect p x).poisonLine p sl lp n c k.value cause
    let e := lineEntry inl (s.tagEnt p x) k.value
    let e : TagEnt := if k.ok || metaPoisoned e.info then e else { e with info := metaPoison cause }
    s.sendLine p d sl (burstOf loc + n) (moveData k.value e lp)

/-- Copy one page of a region being moved: storage on the destination, the lines on their way, MOVING set. `none`: the
destination has no storage for it (spec/15 R628). -/
def Part.copyPage (s : Part) (p lp : Nat) : Option Part :=
  match (s.pav p).regionMove with
  | none => some s
  | some r =>
    let sl := r.slice
    let d := r.dest
    let before := r.copied.get Cell.zero lp
    let s := s.freeCopy d sl before
    let keep (s : Part) (c : Cell) : Part :=
      s.onPav p fun v => { v with regionMove := v.regionMove.map fun r => { r with copied := r.copied.set Cell.zero lp c } }
    let s := keep s Cell.zero
    let c := s.cell p sl lp
    let s := if s.ownerOk p sl c then s else s.ownerMismatch p sl lp
    let c := s.cell p sl lp
    let fixedLoc := (r.fixedNew.get 0 (lp / 512) - 1) * extUnits + 8 * (lp % 512)
    if c.tier = tierHot then
      let at_ := if c.fixed then some (fixedLoc, s) else s.takeFrame d sl true
      at_.map fun q =>
        let s := (keep q.2 { c with loc := q.1 }).commit p sl lp { c with moving := true }
        s.sendHot p d sl lp c q.1
    else if c.tier = tierWarm then
      match s.readCaskNow p sl lp c with
      | (s, none) => some s
      | (s, some (w, plain)) =>
        let at_ := if c.fixed then some (fixedLoc, s) else s.takeSlot d sl c.slotClass true
        at_.map fun q =>
          let s := (keep q.2 { c with loc := q.1 }).commit p sl lp { c with moving := true }
          let s := s.onPav d fun v => { v with casks := v.casks.set 0 q.1 ((s.pav p).casks.get 0 c.loc) }
          let x := caskImage (s.keySet sl c.keySel) sl lp c.version ⟨c.slotClass, w, plain % 2 ^ 192, plain >>> 192⟩
          iter (slotBursts c.slotClass q.1).zipIdx s fun s y =>
            s.sendLine p d sl y.1 (moveData (bits x (512 * y.2) 512) TagEnt.zero lp)
    else some s

/-- Copy the pages left that no request uses now. -/
def Part.copyLeft (s : Part) (p : Nat) : Option Part :=
  match (s.pav p).regionMove with
  | none => some s
  | some r =>
    let now := r.left.filter fun lp => !s.inUse p r.slice lp
    let later := r.left.filter fun lp => s.inUse p r.slice lp
    let s := s.onPav p fun v => { v with regionMove := some { r with left := later, pass := r.pass + 1, arrived := false } }
    now.foldl (fun q lp => q.bind fun s => s.copyPage p lp) (some s)

/-- The report that a pass is whole (spec/08 R310): it follows the pass's data. -/
def Part.sendMoveDone (s : Part) (p d sl region : Nat) : Part :=
  s.send p 10 { Msg.zero with
    cls := clsMigration, opcode := 9, src := p, dst := d, label := sliceLabel s.vint.bank sl, addr := region }

/-- Clear MOVING on the pages of a region. -/
def Part.clearMoving (s : Part) (p sl region : Nat) : Part :=
  iter (regionCells sl region (s.pav p).cellar) s fun s e =>
    if e.2.moving then s.commit p sl (e.1 % 2 ^ 34) { e.2 with moving := false } else s

/-- End a region move without its commit: the destination's storage is freed, the held requests are served by the old
home. -/
def Part.dropRegionMove (s : Part) (p : Nat) : Part :=
  match (s.pav p).regionMove with
  | none => s
  | some r =>
    let s := iter r.copied s fun s e => s.freeCopy r.dest r.slice e.2
    let s := iter r.fixedNew s fun s e => s.releaseFixed r.dest (e.2 - 1)
    let s := s.dropBlock r.dest (blockKey r.slice r.region false)
    let s := s.onPav p fun v => { v with regionMove := none, inbox := r.waiting ++ v.inbox }
    s.clearMoving p r.slice r.region

/-- Count and log a region move not begun or abandoned (spec/15 R628). -/
def Part.regionSkipped (s : Part) (p sl region dest : Nat) : Part :=
  let n := ((regionCells sl region (s.pav p).cellar).filter fun e => e.2.tier != tierZero).length
  (s.count .movesSkipped 0 n).logEv 0x180B region dest (some sl) p

/-- Abandon a region move for this plan (spec/15 R628). -/
def Part.abandonMove (s : Part) (p : Nat) : Part :=
  match (s.pav p).regionMove with
  | none => s
  | some r => (s.dropRegionMove p).regionSkipped p r.slice r.region r.dest

/-- Run a pass: its data, then its end; without storage the move is abandoned. -/
def Part.regionPass (s : Part) (p : Nat) : Part :=
  match (s.pav p).regionMove with
  | none => s
  | some r =>
    match s.copyLeft p with
    | some s => s.sendMoveDone p r.dest r.slice r.region
    | none => s.abandonMove p

/-- Granted extents of a region, as logical extent numbers of the slice. -/
def Part.regionExts (s : Part) (sl region : Nat) : List Nat :=
  let g := (s.slice sl).grants.get 0 region
  ((List.range 512).filter fun k => g.testBit k).map fun k => region * 512 + k

/-- The fixed frames of a region on its destination (spec/15 R566): one extent of frames for each granted extent. -/
def Part.fixedOn (s : Part) (d sl : Nat) : List Nat → Option (Sparse Nat × Part)
  | [] => some ([], s)
  | le :: r =>
    match s.fixedOn d sl r with
    | none => none
    | some (m, s) => (s.takeFixed d sl).map fun q => (m.put le (q.1 + 1), q.2)

/-- PLAN_ENTRY_MOVE_REGION (spec/15 R566): fixed frames and the region block are taken on the destination, then the first
pass runs. Without them the entry does not begin (R628). -/
def execPlanEntryMoveRegion (p : Pav) (s : State) : Host.Outcome State Fault Refusal :=
  s.run fun s =>
    match s.planHead p 4 with
    | none => s
    | some (e, s) =>
      let sl := e.slice
      let d := e.pav
      let v := s.place sl e.target
      if !placeValid v || placeHome v != p || d = p || s.pstate d != 1 then s else
      let exts := if s.od .sliceCapacityMode sl = 0 then s.regionExts sl e.target else []
      match (s.fixedOn d sl exts).bind fun q => (q.2.takeBlock d (blockKey sl e.target false)).map fun s => (q.1, s) with
      | none => s.regionSkipped p sl e.target d
      | some (fixedNew, s) =>
        let pages := (regionCells sl e.target (s.pav p).cellar).map fun c => c.1 % 2 ^ 34
        let s := s.onPav p fun q => { q with
          regionMove := some ⟨sl, e.target, d, 0, pages, [], fixedNew, false, false, []⟩ }
        s.regionPass p

/-- PROM_MOVE_DATA (spec/08 R310): a line for a page that is still being moved to it enters the destination's write queue
with its code and its tag-region entry; other lines are of moves that have ended and are discarded. -/
def execPromMoveData (p : Pav) (s : State) : Host.Outcome State Fault Refusal :=
  s.run fun s =>
    match s.takeMsg p 8 with
    | none => s
    | some (m, s) =>
      let sl := m.slice
      let lp := m.data / 2 ^ 640
      let c := match (s.pav m.src).regionMove with
        | some r => if r.slice = sl && r.dest = p then r.copied.get Cell.zero lp else Cell.zero
        | none => Cell.zero
      let x := m.addr
      let line := m.data % 2 ^ 512
      if c.tier = tierHot && burstOf c.loc ≤ x && x < burstOf c.loc + 64 then
        let old := (s.lineEnt p sl x).info
        s.putLine p sl lp x line (bits m.data 576 64) (bits m.data 520 56) (bits m.data 512 8) old byMigration ownMigration
      else if c.tier = tierWarm && (slotBursts c.slotClass c.loc).contains x then
        s.writeBurst p x (sddcEncode line) byMigration ownMigration sl lp
      else s

/-- PROM_MOVE_DONE (spec/08 R310, spec/15 R566): a pass has arrived. More than 64 pages left before the 16th pass start the
next one; else the hold may come. -/
def execPromMoveDone (p : Pav) (s : State) : Host.Outcome State Fault Refusal :=
  s.run fun s =>
    match s.takeMsg p 9 with
    | none => s
    | some (m, s) =>
      match (s.pav m.src).regionMove with
      | none => s
      | some r =>
        if r.slice != m.slice || r.region != m.addr || r.dest != p then s else
        let s := s.clearMoving m.src r.slice r.region
        if r.hold || r.left.length ≤ 64 || 16 ≤ r.pass then
          s.onPav m.src fun v => { v with regionMove := v.regionMove.map fun r => { r with arrived := true } }
        else s.regionPass m.src

/-- Some page of the region is in use by a request. -/
def Part.regionInUse (s : Part) (p sl region : Nat) : Bool :=
  ((s.pav p).tasks.any fun t => t.slice == sl && t.lpage / 262144 == region) ||
  ((s.pav p).holds.any fun h => h.slice == sl && h.lpage / 262144 == region)

/-- REGION_MOVE_HOLD (spec/15 R566): at most 64 pages are left or 16 passes have run. The old home holds every request to
the region from here on, and copies the rest. -/
def execRegionMoveHold (p : Pav) (s : State) : Host.Outcome State Fault Refusal :=
  s.run fun s =>
    match (s.pav p).regionMove with
    | none => s
    | some r =>
      if r.hold || !r.arrived || s.regionInUse p r.slice r.region then s else
      let s := if 64 < r.left.length then s.logEv 0x1806 r.region r.left.length (some r.slice) p else s
      let s := s.onPav p fun v => { v with regionMove := some { r with hold := true } }
      let s := s.regionPass p
      s.onPav p fun v => { v with regionMove := v.regionMove.map fun r => { r with left := [] } }

/-- A region's entries in the heat table and the coalescing buffer go with it. -/
def Part.moveHeat (s : Part) (p d sl region : Nat) : Part :=
  let lo := sl * 2 ^ 28 + region * 4096
  let v := s.pav p
  let s := s.onPav p fun v => { v with heat := v.heat.eraseRange lo (lo + 4096), coalesce := v.coalesce.eraseRange lo (lo + 4096) }
  s.onPav d fun q => { q with
    heat := (v.heat.range lo (lo + 4096)).foldl (fun m e => m.put e.1 e.2) q.heat
    coalesce := (v.coalesce.range lo (lo + 4096)).foldl (fun m e => m.put e.1 e.2) q.coalesce }

/-- Dirty marks and the requests sent back for capacity go with a region. -/
def Part.moveMarks (s : Part) (p d sl region : Nat) : Part :=
  let lo := extentKey sl (region * 512)
  let v := s.pav p
  let mine (r : Nat × Nat × Nat) : Bool := r.2.1 == sl && r.2.2 / 262144 == region
  let after (m : Msg) : Bool := m.slice == sl && m.lpage / 262144 == region
  let s := s.onPav p fun v => { v with
    dirty := v.dirty.eraseRange lo (lo + 512), refused := v.refused.filter fun r => !mine r, behind := v.behind.filter fun m => !after m }
  let s := s.onPav d fun q => { q with
    dirty := (v.dirty.range lo (lo + 512)).foldl (fun m e => m.put e.1 e.2) q.dirty
    refused := q.refused ++ v.refused.filter mine
    behind := q.behind ++ v.behind.filter after }
  iter (List.range 16) s fun s i => s.onPart i sl fun t => { t with
    forwarded := t.forwarded.map fun f => if f.home = p && lpageOf f.req.logical / 262144 = region then { f with home := d } else f
    hold := t.hold.map fun h => if h.home = p && h.lpage / 262144 = region then { h with home := d } else h }

/-- The commit of a region move (spec/01 R45, spec/15 R566): the entries on the destination and on its mirror, the placement
maps of both banks, the old storage freed, the held requests sent to the new home. -/
def Part.commitRegion (s : Part) (p : Nat) (r : RegionMove) : Part :=
  let sl := r.slice
  let d := r.dest
  let was := s.place sl r.region
  let olds := (regionCells sl r.region (s.pav p).cellar).map fun e => (e.1 % 2 ^ 34, e.2)
  let oldFixed := (s.slice sl).fixed.range (r.region * 512) (r.region * 512 + 512)
  let news := olds.map fun e =>
    let c := e.2
    let loc :=
      if c.tier != tierZero then (r.copied.get Cell.zero e.1).loc
      else if c.fixed then (r.fixedNew.get 0 (e.1 / 512) - 1) * extUnits + 8 * (e.1 % 512)
      else 0
    (e.1, { c with loc := loc, moving := false })
  let s := iter olds s fun s e => s.freeCopy p sl e.2
  let s := s.onPav p fun v => { v with cellar := dropRegion sl r.region v.cellar, regionMove := none }
  let s := if placeSingle was then s else s.dropMirror (placeMirror was) sl r.region
  let s := s.dropBlock p (blockKey sl r.region false)
  let s := s.onSlice sl fun q => { q with fixed := r.fixedNew.foldl (fun m e => m.put e.1 e.2) q.fixed }
  let s := if r.fixedNew.isEmpty then s else iter oldFixed s fun s e => s.releaseFixed p (e.2 - 1)
  let two := (s.mirrorFor d).bind fun q => (s.takeBlock q (blockKey sl r.region true)).map fun s => (q, s)
  let s := match two with
    | some (q, s) => s.setPlace sl r.region (mkPlace d q false false 0)
    | none => s.setPlace sl r.region (mkPlace d d true false 0)
  let s := iter news s fun s e => s.commit d sl e.1 e.2
  let s := (s.moveHeat p d sl r.region).moveMarks p d sl r.region
  let s := s.count .movesDone 0 (news.filter fun e => e.2.tier != tierZero).length
  let s := iter r.waiting s fun s m => s.send p 9 { m with dst := d }
  s.capacityNotice d sl

end Sys2Proof.Machine
end

