-- ==== Sys2Proof/Machine/Compile.lean ====
section
/-!
DEFINITION. Widafa, the vintage compiler (spec/07 R278 to R293): slot tables, placement of regions, meters, ingress shares,
plans; and the hardware checker (R294).
-/

namespace Sys2Proof.Machine

/-! ## Slot tables (spec/07 R268 to R273, R289, R291) -/

/-- Owner code REFRESH (spec/07 R271). -/
def codeRefresh : Nat := 20
/-- Owner code NONE. -/
def codeNone : Nat := 21
/-- A code that no descriptor uses, for a position still free while a table is laid out. -/
def codeFree : Nat := 31

/-- T_RW of spec/07 R272. -/
def turnRW (rate : Nat) : Nat := if rate ≤ 6400 then 3 else 4

/-- T_WR of spec/07 R272. -/
def turnWR (rate : Nat) : Nat :=
  if rate ≤ 4800 then 8 else if rate ≤ 5600 then 9 else if rate ≤ 6400 then 10 else if rate ≤ 7200 then 11 else 12

/-- What a subchannel's table is to hold: the owners of each direction with their slots per residue, the refresh and scrub
slots, the least open slots. -/
structure SlotNeed where
  rate    : Nat
  reads   : List (Nat × Nat)
  writes  : List (Nat × Nat)
  refresh : Nat
  scrubR  : Nat
  scrubW  : Nat
  openMin : Nat
  deriving DecidableEq, Repr

/-- A table: the owner code of each of the 1,024 slots, and its write blocks. -/
structure SlotTable where
  codes  : List Nat
  blocks : Nat
  deriving DecidableEq, Repr

/-- Owned read slots, R of spec/07 R291. -/
def SlotNeed.ownedReads (q : SlotNeed) : Nat := 8 * (q.reads.map (·.2)).sum + q.scrubR

/-- Owned write slots, W of spec/07 R291. -/
def SlotNeed.ownedWrites (q : SlotNeed) : Nat := 8 * (q.writes.map (·.2)).sum + q.scrubW

/-- Every slot that is not open, but for the open minimum. -/
def SlotNeed.used (q : SlotNeed) : Nat :=
  q.ownedReads + q.ownedWrites + q.refresh + (if q.ownedWrites = 0 then 0 else turnRW q.rate + turnWR q.rate)

/-- b_w of spec/07 R291. -/
def SlotNeed.blocks (q : SlotNeed) : Nat :=
  if q.ownedWrites = 0 then 0
  else max (ceilDiv (q.ownedWrites + turnRW q.rate + turnWR q.rate) 64)
    (ceilDiv (16 * q.ownedWrites) (q.ownedReads + q.ownedWrites))

/-- Take the first free position of a list from an index on, then from its start. -/
def takePos (pos : List Nat) (start owner : Nat) (t : List Nat) : List Nat :=
  match (pos.drop start ++ pos.take start).find? fun k => t.getD k 0 == codeFree with
  | some k => t.set k owner
  | none => t

/-- Spread `n` slots of an owner over positions (spec/07 R291, steps 3 and 4). -/
def spread (pos : List Nat) (n owner : Nat) (t : List Nat) : List Nat :=
  iter (List.range n) t fun t j => takePos pos (j * pos.length / n) owner t

/-- Free positions of a residue among the positions of a direction. -/
def freeAt (pos t : List Nat) (res : Nat) : List Nat := pos.filter fun k => k % 8 == res && t.getD k 0 == codeFree

/-- Place an owner at every residue; the slots it lacks are added up. -/
def placeOwner (pos : List Nat) (o : Nat × Nat) (t : List Nat × Nat) : List Nat × Nat :=
  iter (List.range 8) t fun t r =>
    let free := freeAt pos t.1 r
    (spread free o.2 o.1 t.1, t.2 + (o.2 - free.length))

/-- Lay out a table (spec/07 R291), or the slots short. -/
def SlotNeed.layout (q : SlotNeed) : Except Nat SlotTable :=
  let short := q.used + q.openMin - 1024
  if short != 0 then .error short else
  let b := q.blocks
  let first := (16 - b) * 64
  let t := (List.range 1024).map fun k =>
    if b != 0 && (decide (k < turnWR q.rate) || (decide (first ≤ k) && decide (k < first + turnRW q.rate))) then codeNone else codeFree
  let rd := List.range first
  let wr := (List.range (1024 - first)).map (· + first)
  let t := spread wr q.scrubW ownScrub (spread rd q.scrubR ownScrub (spread rd q.refresh codeRefresh t))
  let r := iter q.reads (t, 0) fun t o => placeOwner rd o t
  let w := iter q.writes r fun t o => placeOwner wr o t
  if w.2 != 0 then .error w.2 else
  let left := (w.1.filter (· == codeFree)).length
  if left < q.openMin then .error (q.openMin - left)
  else .ok ⟨w.1.map fun o => if o = codeFree then ownOpen else o, b⟩

/-- The descriptors of a table as one number of 16-bit pieces (spec/07 R270). -/
def SlotTable.encode (t : SlotTable) : Nat :=
  let first := (16 - t.blocks) * 64
  (t.codes.zipIdx.map fun q => ((if first ≤ q.2 then 2 ^ 15 else 0) + q.1 * 1024) <<< (16 * q.2)).foldl (· ||| ·) 0

/-! ## Meters (spec/07 R278, R279) -/

/-- A slice takes part in a compile: it is not FREE. -/
def Part.live (s : Part) (sl : Nat) : Bool := s.od .sliceState sl != 0

/-- Regions of a slice homed on a pavilion in a placement map. -/
def Part.regionsOn (s : Part) (sl p : Nat) : Nat :=
  ((s.slice sl).grants.filter fun e => let v := s.place sl e.1; placeValid v && placeHome v == p).length

/-- Regions of a slice that are placed. -/
def Part.regionsAll (s : Part) (sl : Nat) : Nat :=
  ((s.slice sl).grants.filter fun e => placeValid (s.place sl e.1)).length

/-- The guarantee of a slice in a direction. -/
def Part.guarantee (s : Part) (sl dir : Nat) : Nat := if dir = 0 then s.od .sliceGuaranteeRead sl else s.od .sliceGuaranteeWrite sl

/-- The meter rate of a slice on a pavilion in bursts per frame (spec/07 R279): G × 256 / rate is G × F / 64 B. -/
def Part.meterRate (s : Part) (sl p dir : Nat) : Nat :=
  if !s.live sl || s.od .sliceServiceClass sl = 0 || s.regionsAll sl = 0 then 0
  else ceilDiv (s.guarantee sl dir * s.regionsOn sl p * 256) (s.od .dramSpeed p * s.regionsAll sl)

/-- The depth of a meter (spec/07 R279). -/
def meterDepth (rate : Nat) : Nat := max (2 * rate) 72

/-- A slice makes its class active on a pavilion (spec/07 R278). -/
def Part.activeOn (s : Part) (sl p : Nat) : Bool :=
  s.live sl && s.od .sliceServiceClass sl != 0 && decide (0 < s.regionsOn sl p) &&
    decide (0 < s.guarantee sl 0 + s.guarantee sl 1)

/-- The slices of the part, numbered 0 to 4,095 (spec/00 R8). -/
def Part.allSlices (s : Part) : List Nat := (s.slices.filter fun e => e.2.created && decide (e.1 < 4096)).map (·.1)

/-- The active classes of a pavilion, ascending. -/
def Part.activeClasses (s : Part) (p : Nat) : List Nat :=
  ((List.range 15).map (· + 1)).filter fun c =>
    s.allSlices.any fun sl => s.od .sliceServiceClass sl == c && s.activeOn sl p

/-- Meter rates of a pavilion's slices in the classes kept, at a factor in thousandths: by slice × 2 + direction. -/
def Part.ratesOf (s : Part) (p : Nat) (classes : List Nat) (k : Nat) : Sparse Nat :=
  (s.allSlices.filter fun sl => classes.contains (s.od .sliceServiceClass sl)).foldl (fun m sl =>
    ((m.set 0 (sl * 2) (s.meterRate sl p 0 * k / 1000)).set 0 (sl * 2 + 1) (s.meterRate sl p 1 * k / 1000))) []

/-- The sum of a class's meter rates in a direction. -/
def Part.classRate (s : Part) (rates : Sparse Nat) (c dir : Nat) : Nat :=
  ((rates.filter fun e => e.1 % 2 == dir && s.od .sliceServiceClass (e.1 / 2) == c).map (·.2)).sum

/-- Subchannels of a pavilion in service: S of spec/07 R288. -/
def Part.subsOf (s : Part) (p : Nat) : Nat := 2 * ((List.range 8).filter fun k => s.od .channelState (p * 8 + k) == 2).length

/-- Ranks of a channel of a pavilion, spares included. -/
def Part.ranksOf (s : Part) (p : Nat) : Nat := ((List.range 4).filter fun r => s.rankState (p * 8) r != 0).length

/-- Slots per residue of a class in a direction (spec/07 R283, R288). -/
def classSlots (rate headroom subs least : Nat) : Nat :=
  if rate = 0 then 0 else max least (ceilDiv (rate * (1000 + headroom)) (8 * subs * 1000))

/-- Migration slots per residue and direction (spec/07 R289). -/
def Part.migrationSlots (s : Part) (p : Nat) : Nat := ceilDiv (16 * s.od0 .migrationBandwidth) (s.od .dramSpeed p * s.subsOf p)

/-- What the table of a local channel's subchannels is to hold under given meter rates (spec/07 R288, R289, spec/05 R205). -/
def Part.slotNeed (s : Part) (p c : Nat) (classes : List Nat) (rates : Sparse Nat) : SlotNeed :=
  let rate := s.od .dramSpeed p
  let subs := s.subsOf p
  let ranks := s.ranksOf p
  let m := s.migrationSlots p
  let h := s.od0 .slotHeadroom
  let bursts := ranks * 8 * (s.geom p).groupBursts
  let n := max 1 (ceilDiv (bursts * 16384) (rate * 1000000 * 60 * s.od .scrubPassTime (p * 8 + c)))
  let cls (dir least : Nat) : List (Nat × Nat) :=
    (classes.map fun c => (c, classSlots (s.classRate rates c dir) h subs least)).filter fun q => q.2 != 0
  { rate := rate
    reads := cls 0 2 ++ [(ownSystem, 1), (ownMigration, m)]
    writes := cls 1 4 ++ [(ownSystem, 1), (ownMigration, ceilDiv m 2), (ownCodec, m / 2)]
    refresh := ceilDiv (4 * ranks * 16384 * 100) (rate * 195)
    scrubR := n
    scrubW := max 1 (ceilDiv n 8)
    openMin := s.od0 .openMinSlots }

/-- The layouts of some tables, or the slots short of the first that does not fit. -/
def layouts : List SlotNeed → Except Nat (List SlotTable)
  | [] => .ok []
  | q :: r => match q.layout with
    | .error n => .error n
    | .ok t => (layouts r).map fun l => t :: l

/-- The tables and rates of one pavilion, or the slots short; channels with one SCRUB_PASS_TIME share one table. -/
def Part.pavTables (s : Part) (p : Nat) (classes : List Nat) (k : Nat) : Except Nat (PavTables × Sparse Nat) :=
  let rates := s.ratesOf p classes k
  let needs := (List.range 8).map fun c => s.slotNeed p c classes rates
  let kinds := needs.eraseDups
  match layouts kinds with
  | .error n => .error n
  | .ok ts =>
    let of (q : SlotNeed) : Nat := ((kinds.zip (ts.map SlotTable.encode)).lookup q).getD 0
    .ok ({ slots := needs.zipIdx.map fun q => (q.2, of q.1)
           writeBlocks := (ts.map (·.blocks)).foldl max 0
           ownedMax := (needs.map fun q => q.ownedReads + q.ownedWrites).foldl max 0
           openMin := (ts.map fun t => (t.codes.filter (· == ownOpen)).length).foldl min 1024
           classes := classes.foldl (fun b c => setBit b c true) 0
           migSlots := 16 * s.migrationSlots p
           subs := s.subsOf p
           entries := partitionTable classes }, rates)

/-! ## Refusals (spec/07 R292) -/

/-- A refusal: the reason and VINTAGE_REFUSAL_DETAIL. -/
structure Refuse where
  reason : Nat
  detail : Nat
  deriving DecidableEq, Repr

/-- A refusal with its subject, channel and pavilion. -/
def refuseAt (reason : Nat) (subject : Nat := 0xFFFF) (channel : Nat := 0xFF) (pav : Nat := 0xFF) : Refuse :=
  ⟨reason, (subject % 65536) * 65536 + (channel % 256) * 256 + pav % 256⟩

/-! ## Limits (spec/02 R54, R86, R87) -/

/-- CAP_LOGICAL_LIMIT (spec/02 R54). -/
def Part.logicalLimit (s : Part) : Nat :=
  min 122070312 (4 * ((s.inServiceState).map fun p => (s.pav p).capRaw).sum)

/-- CAP_LOGICAL_GRANTED. -/
def Part.logicalGranted (s : Part) : Nat := (s.slices.map fun e => (e.2.grants.map fun g => popCount 512 g.2).sum).sum

/-- CAP_CELLAR_BOOK of a pavilion under a placement map: the region blocks of regions homed, mirrored or moving there, and
the heat tables (spec/02 R86). -/
def Part.placedCellar (s : Part) (p : Nat) : Nat :=
  let vs := (s.vint.inForce.place.filter fun e => placeValid e.2).map (·.2)
  let home := (vs.filter fun v => placeHome v == p).length
  let dest := (vs.filter fun v => placeMoving v && placeDest v == p && placeHome v != p).length
  let mirror := (vs.filter fun v => !placeSingle v && placeMirror v == p).length
  2 * (home + dest + mirror) + ceilDiv home 512

/-- CAP_COMMONS under the settings of a compile. -/
def Part.placedCommons (s : Part) (p : Nat) : Int :=
  ((s.pav p).capRaw : Int) - s.placedCellar p - s.kindCount p kindSpare - s.od0 .commonsReserveSetting - s.capPlots p

/-! ## Placement (spec/07 R290, R293) -/

/-- The pavilion of a list that holds the fewest, lowest number first. -/
def fewest (count : Nat → Nat) : List Nat → Option Nat
  | [] => none
  | p :: r => match fewest count r with
    | none => some p
    | some q => some (if count p ≤ count q then p else q)

/-- Place the regions of one slice: regions keep their homes, a home out of service gives way to its mirror, new regions and
those to move get the pavilion with the fewest. -/
def Part.placeSlice (s : Part) (forced : Bool) (sl : Nat) : Except Refuse Part :=
  let eligible := s.inServiceState
  let mask := s.od .sliceHomeMask sl
  let ok := eligible.filter fun p => bit mask p
  let regions := (s.slice sl).grants.map (·.1)
  let s := iter regions s fun s r =>
    let v := s.place sl r
    if !placeValid v then s else
    let home :=
      if s.inService (placeHome v) then placeHome v
      else if !placeSingle v && s.inService (placeMirror v) then placeMirror v
      else (s.mirrorFor (placeHome v)).getD 0
    let single := placeSingle v || home != placeHome v || s.pstate (placeMirror v) != 1
    let keep := placeMoving v && home == placeHome v && s.pstate (placeDest v) == 1
    s.setPlace sl r (mkPlace home (placeMirror v) single keep (if keep then placeDest v else 0))
  let step (q : Except Refuse Part) (r : Nat) : Except Refuse Part :=
    match q with
    | .error e => .error e
    | .ok s =>
      let v := s.place sl r
      let count (p : Nat) : Nat := s.homedRegions sl p
      if !placeValid v then
        match fewest count (if forced && ok.isEmpty then eligible else ok) with
        | some h =>
          let m := s.mirrorFor h
          .ok (s.setPlace sl r (mkPlace h (m.getD h) m.isNone false 0))
        | none => if forced then .ok s else .error (refuseAt 4 sl)
      else
        let home := placeHome v
        let leaves := s.pstate home == 3 || !ok.contains home || s.season.moves.contains (regionKey sl r * 8 + home)
        let cands := (if s.pstate home == 3 && ok.isEmpty then eligible else ok).filter (· != home)
        if !leaves then .ok (s.setPlace sl r (mkPlace home (placeMirror v) (placeSingle v) false 0))
        else if placeMoving v && cands.contains (placeDest v) then .ok s
        else match fewest count cands with
          | some d => .ok (s.setPlace sl r (mkPlace home (placeMirror v) (placeSingle v) true d))
          | none => .ok (s.setPlace sl r (mkPlace home (placeMirror v) (placeSingle v) false 0))
  regions.foldl step (.ok s)

/-- Place the regions of every slice. -/
def Part.placeAll (s : Part) (forced : Bool) : Except Refuse Part :=
  s.allSlices.foldl (fun q sl => match q with
    | .error e => .error e
    | .ok s => if s.live sl then s.placeSlice forced sl else .ok s) (.ok s)

/-! ## Ingress (spec/07 R284) -/

/-- The slices bound to a port. -/
def Part.boundTo (s : Part) (i : Nat) : List Nat := s.allSlices.filter fun sl => s.boundPort sl == some i

/-- The weight of a slice. -/
def Part.ingressWeight (s : Part) (sl : Nat) : Nat :=
  let f (c : Nat) : Nat := if c = 0 then 240000 else c
  f (s.od .sliceCeilingRead sl) + f (s.od .sliceCeilingWrite sl)

/-- The reserved entries of every bound slice, by port × 4,096 + slice. -/
def Part.ingressTable (s : Part) : Sparse Nat :=
  (List.range 16).foldl (fun m i =>
    let ks := s.boundTo i
    let total := (ks.map s.ingressWeight).sum
    ks.foldl (fun m sl => m.set 0 (i * 4096 + sl) (2 + (8192 - 2 * ks.length) * s.ingressWeight sl / total)) m) []

/-! ## Codebooks (spec/03 R117) -/

/-- The first slice whose codebook may not be named: EMPTY or DRAINING. -/
def Part.codebookRefusal (s : Part) : Option Refuse :=
  s.allSlices.findSome? fun sl =>
    if !s.live sl then none else
    let b := s.od .sliceCodebook sl
    match s.od .codebookState b with
    | 0 => some (refuseAt 9 sl b)
    | 3 => some (refuseAt 10 sl b)
    | _ => none

/-! ## Plans (spec/02 R78, R79, R95, spec/03 R121, spec/04 R176, spec/15 R559) -/

/-- The order of plan entries (spec/02 R79) as a number. -/
def PlanEnt.order (e : PlanEnt) : Nat :=
  let rank := [4, 5, 3, 2, 1, 0].getD e.action 6
  let c := if e.action = 0 then 63 - e.count else if e.action = 1 then e.count else 0
  ((rank * 64 + c) * 4096 + e.slice) * 2 ^ 28 + e.target

/-- Put an entry at its place in a plan. -/
def planInsert (e : PlanEnt) : List PlanEnt → List PlanEnt
  | [] => [e]
  | a :: r => if e.order < a.order then e :: a :: r else if e = a then a :: r else a :: planInsert e r

/-- A plan in its order. -/
def planSort (l : List PlanEnt) : List PlanEnt := l.foldl (fun r e => planInsert e r) []

/-- Places of an extent of a kind. -/
def placesOf (o : Own) : Nat := if o.kind = kindCask then slotsPerExtent o.cls else 512

/-- The extents of a slice worth emptying while its writes are held (spec/02 R95, log entry 29): of each kind and class the
one with the fewest live places, where the others of its kind and class have room for them. -/
def Part.emptiest (s : Part) (p sl : Nat) : List Nat :=
  let mine := (s.pav p).own.filter fun e =>
    e.2.owner == sl && !e.2.fixed && (e.2.kind == kindHot || e.2.kind == kindCask) && decide (0 < e.2.live)
  (mine.filter fun e =>
    let peers := mine.filter fun f => f.1 != e.1 && f.2.kind == e.2.kind && f.2.cls == e.2.cls
    decide (e.2.live ≤ (peers.map fun f => placesOf f.2 - f.2.live).sum) &&
      !(peers.any fun f => f.2.live < e.2.live || (f.2.live == e.2.live && f.1 < e.1))).map (·.1)

/-- A COMPACT entry for an extent. -/
def Part.compactEnt (s : Part) (p ext : Nat) : PlanEnt := ⟨2, (s.ownOf p ext).owner, ext, p, 0⟩

/-- The extents of a pavilion's retire list, and of its lost layers, that are still to be emptied (spec/15 R559, R563). -/
def Part.retireEnts (s : Part) (p : Nat) : List PlanEnt :=
  let busy (k : Nat) : Bool := k == kindHot || k == kindTag || k == kindCask || k == kindCellar
  let listed := (s.pav p).retire.filter fun e => busy (s.ownOf p e).kind
  let lost := ((s.pav p).own.filter fun e => busy e.2.kind && s.layerLost p (e.1 / (s.geom p).layerExts)).map (·.1)
  ((listed ++ lost).eraseDups).map (s.compactEnt p)

/-- The COMPACT entries of a slice with held writes on a pavilion. -/
def Part.heldEnts (s : Part) (p sl : Nat) : List PlanEnt :=
  if s.heldFor sl p = 0 then [] else (s.emptiest p sl).map (s.compactEnt p)

/-- COUNT of a page group as the last planning interval's end read it (spec/02 R78): 0 for a group with no warm page then. -/
def Part.countRead (s : Part) (p sl g : Nat) : Nat :=
  (((s.pav p).warm.find? fun e => e.slice == sl && e.target == g).map (·.count)).getD 0

/-- The entries that a draining codebook adds (spec/03 R121). -/
def Part.drainEnts (s : Part) (p : Nat) : List PlanEnt :=
  let books := (List.range 256).filter fun b => s.od .codebookState b == 3
  books.flatMap fun b =>
    (s.allSlices.filter fun sl => bit (s.od .sliceCodebooksHeld sl) b).flatMap fun sl =>
      ((s.caskExts p sl).map (s.compactEnt p)) ++
      ((s.fixedWarmGroups p sl).map fun g => ⟨0, sl, g, p, s.countRead p sl g⟩)

/-- REKEY entries (spec/04 R176). -/
def Part.rekeyEnts (s : Part) (p : Nat) : List PlanEnt :=
  (s.allSlices.filter fun sl => s.od .rekeyState sl == 1).flatMap fun sl =>
    let slot := s.od .sliceKeyActive sl
    (((s.pagesWhere p sl 0 (2 ^ 34) fun c => c.tier != tierZero && c.keySel != slot).map (· / 64)).eraseDups).map
      fun g => ⟨3, sl, g, p, 0⟩

/-- MIRROR and MOVE_REGION entries of a placement map (spec/02 R59, spec/07 R290). -/
def Part.regionEnts (s : Part) (p : Nat) : List PlanEnt :=
  let mine := s.vint.inForce.place.filter fun e => placeValid e.2 && placeHome e.2 == p
  let mirrors := (mine.filter fun e => placeSingle e.2).filterMap fun e =>
    (s.mirrorFor p).map fun q => (⟨5, e.1 / 65536, e.1 % 65536, q, 0⟩ : PlanEnt)
  let moves := (mine.filter fun e => placeMoving e.2).map fun e => (⟨4, e.1 / 65536, e.1 % 65536, placeDest e.2, 0⟩ : PlanEnt)
  mirrors ++ moves

/-- PROMOTE and DEMOTE entries formed from the lists of a planning interval's end (spec/02 R78, R79). -/
def Part.tierEnts (s : Part) (p : Nat) : List PlanEnt :=
  let v := s.pav p
  let pinned (sl : Nat) : Bool := s.od .sliceTierPin sl == 1
  (v.promote.filter fun e => !pinned e.slice) ++ (v.warm.filter fun e => pinned e.slice) ++ (v.demote.filter fun e => !pinned e.slice)

/-- The PROMOTE and DEMOTE entries that a plan carries over (spec/02 R78): those of the plan in force not yet begun; none where it
ends an interval. -/
def Part.carryOver (s : Part) (p : Nat) (fresh : Bool) : List PlanEnt :=
  if fresh then [] else (s.pav p).plan.filter fun e => e.action ≤ 1

/-- The plan of a pavilion: with `fresh` its PROMOTE and DEMOTE entries come from the interval's lists, else from the plan in
force (spec/02 R78). -/
def Part.formPlan (s : Part) (p : Nat) (fresh : Bool) : List PlanEnt :=
  let tiers := if fresh then s.tierEnts p else s.carryOver p fresh
  let held := s.allSlices.flatMap (s.heldEnts p)
  (planSort (s.regionEnts p ++ s.rekeyEnts p ++ s.retireEnts p ++ s.drainEnts p ++ held ++ tiers)).take (s.od0 .planMaxEntries)

/-! ## The compile (spec/07 R288, R293) -/

/-- The writes of a compile in the settings. -/
def Part.withWrites (s : Part) (ws : List Staged) : Part := iter ws s fun s w => s.setOd w.entry w.inst w.value

/-- The extents of a grant in progress on a port, as granted (spec/09 R377). -/
def Part.withGrant (s : Part) (i : Nat) : Part :=
  match (s.port i).dcOp with
  | some op => iter (List.range op.count) s fun s k =>
      let le := op.first + k
      s.onSlice op.slice fun q => { q with grants := q.grants.modify 0 (le / 512) fun b => setBit b (le % 512) true }
  | none => s

/-- What a vintage's image holds from byte 64 on, for its digest and length (spec/07 R266, R267): every component, none of the
header's fields. -/
def Vintage.words (v : Vintage) : List Nat :=
  v.tables.flatMap (fun e => e.1 :: (e.2.slots.map (·.2) ++ e.2.entries.flatMap fun q => [q.1, q.2])) ++
    v.rates.flatMap (fun e => [e.1, e.2]) ++ v.slices.flatMap (fun e => e.1 :: e.2) ++ v.reserved.flatMap (fun e => [e.1, e.2]) ++
    v.place.flatMap (fun e => [e.1, e.2]) ++
    v.plans.flatMap (fun e => e.1 :: e.2.flatMap fun q => [q.action, q.slice, q.target, q.pav, q.count])

/-- What the class table, the ingress tables and the slice settings of a vintage hold of each slice that is not FREE (spec/07 R266):
its class, its ceilings and their depth, SLICE_CODEBOOK, SLICE_PAGE_CODE, SLICE_PAGE_POLICY and SLICE_TIER_PIN. -/
def Part.sliceImage (s : Part) : Sparse (List Nat) :=
  (s.allSlices.filter s.live).map fun sl => (sl,
    [Entry.sliceServiceClass, .sliceCeilingRead, .sliceCeilingWrite, .sliceCeilingBurst, .sliceCodebook, .slicePageCode,
      .slicePagePolicy, .sliceTierPin].map fun e => s.od e sl)

/-- A vintage with its DIGEST, and its LENGTH for each pavilion of the mask (spec/07 R267). -/
def Vintage.sealed_ (v : Vintage) : Vintage :=
  { v with
    digest := Config.imageDigest v.words % 2 ^ 384
    lengths := (allPavs.filter fun p => v.pavilions.testBit p).map fun p => (p, Config.imageLength p v.words % 2 ^ 24) }

/-- The classes kept on a pavilion: at most five, the lowest (spec/07 R278, R293). -/
def Part.keptClasses (s : Part) (p : Nat) : List Nat := (s.activeClasses p).take 5

/-- Compile the tables of one pavilion; a forced compile takes the largest factor that fits (spec/07 R293). -/
def Part.compilePav (s : Part) (forced : Bool) (p : Nat) : Except Refuse (Nat × PavTables × Sparse Nat) :=
  let classes := s.keptClasses p
  if forced then
    match (List.range 1001).findSome? fun j => (s.pavTables p classes (1000 - j)).toOption.map fun q => (1000 - j, q) with
    | some q => .ok q
    | none => .ok (0, PavTables.zero, [])
  else match s.pavTables p classes 1000 with
    | .ok q => .ok (1000, q)
    | .error n => .error (refuseAt 7 n (p * 8) p)

/-- The factor of a slice on its home pavilions (spec/07 R293): the smallest; 0 where its class has no meter. -/
def Part.serviceOf (s : Part) (factors : Sparse Nat) (sl : Nat) : Nat :=
  if s.od .sliceServiceClass sl = 0 || s.guarantee sl 0 + s.guarantee sl 1 = 0 then 0 else
  let fs := (s.serving.filter fun p => s.activeOn sl p).map fun p =>
    if (s.keptClasses p).contains (s.od .sliceServiceClass sl) then factors.get 0 p else 0
  1 + fs.foldl min 1000

/-- Steps 1 to 12 of spec/07 R288 over a state that already holds the settings and grants to compile for. -/
def Part.compile (s : Part) (forced fresh : Bool) (ws : List Staged) : Except Refuse Vintage :=
  if !forced && decide (s.logicalLimit < s.logicalGranted) then .error (refuseAt 1)
  else if s.od0 .commonsReserveSetting < 1024 then .error (refuseAt 2)
  else if s.od0 .promoteThreshold ≤ s.od0 .demoteThreshold then .error (refuseAt 3)
  else match s.placeAll forced with
  | .error e => .error e
  | .ok s =>
    match if forced then none else s.serving.find? fun p => decide (s.placedCommons p < 0) with
    | some p => .error (refuseAt 5 0xFFFF 0xFF p)
    | none =>
    match if forced then none else s.serving.find? fun p => decide (5 < (s.activeClasses p).length) with
    | some p => .error (refuseAt 6 ((s.activeClasses p).getD 5 0) 0xFF p)
    | none =>
    let each := s.serving.foldl (fun q p => match q with
      | .error e => .error e
      | .ok l => (s.compilePav forced p).map fun r => l ++ [(p, r)]) (Except.ok [])
    match each with
    | .error e => .error e
    | .ok l =>
    match (List.range 16).find? fun i => decide (4096 < (s.boundTo i).length) with
    | some i => .error (refuseAt 8 i 0xFF (portPav i))
    | none =>
    match s.codebookRefusal with
    | some e => .error e
    | none =>
      let factors : Sparse Nat := l.map fun q => (q.1, q.2.1)
      let v : Vintage := {
        number := s.vint.inForce.number + 1
        forced := forced
        planOnly := false
        pavilions := s.serving.foldl (fun b p => setBit b p true) 0
        settings := ws
        place := s.vint.inForce.place
        tables := l.map fun q => (q.1, q.2.2.1)
        rates := l.flatMap fun q => q.2.2.2.map fun e => (q.1 * 8192 + e.1, e.2)
        reserved := s.ingressTable
        plans := s.serving.map fun p => (p, s.formPlan p fresh)
        permille := (s.allSlices.map fun sl => (sl, s.serviceOf factors sl)).filter fun e => e.2 != 0
        digest := 0
        format := 1
        lengths := []
        slices := s.sliceImage
        carried := s.serving.map fun p => (p, s.carryOver p fresh) }
      .ok v.sealed_

/-- Some slice's guarantee is lowered in the vintage in force (spec/07 R293). -/
def Vintage.lowered (v : Vintage) : Bool := v.permille.any fun e => e.2 != 1001

/-- A plan-only vintage: the components of the vintage in force with a new plan (spec/07 R267). -/
def Part.planOnly (s : Part) (fresh : Bool) : Vintage :=
  let v := { s.vint.inForce with
    number := s.vint.inForce.number + 1, planOnly := true, forced := false, settings := []
    plans := s.serving.map fun p => (p, s.formPlan p fresh)
    carried := s.serving.map fun p => (p, s.carryOver p fresh) }
  v.sealed_

/-- The compile that an ask leads to. A forced compile with writes that settings alone forbid is done without them, which are
refused (spec/07 R624). Answers the vintage and what is refused. -/
def Part.compileAsk (s : Part) (a : CompileAsk) : Except Refuse Vintage × Option Refuse :=
  let fresh := s.vint.intervalEnded
  let t := match a.goal with
    | .grant i => (s.withWrites a.writes).withGrant i
    | _ => s.withWrites a.writes
  match a.kind with
  | 1 => match t.compile true fresh a.writes with
    | .ok v => (.ok v, none)
    | .error e => (s.compile true fresh [], some e)
  | 2 =>
    if s.vint.inForce.lowered then
      match s.compile false fresh [] with
      | .ok v => (.ok v, none)
      | .error _ => (.ok (s.planOnly fresh), none)
    else (.ok (s.planOnly fresh), none)
  | _ => (t.compile false fresh a.writes, none)

/-! ## The checker (spec/07 R294) -/

/-- Owner code of a descriptor. -/
def descOwner (d : Nat) : Nat := bits d 10 5

/-- The descriptors of a subchannel. -/
def PavTables.descs (t : PavTables) (c : Nat) : List Nat := (List.range 1024).map fun k => bits (t.slots.get 0 c) (16 * k) 16

/-- Slots of an owner in a direction at a residue. -/
def slotsAt (ds : List Nat) (owner dir res : Nat) : Nat :=
  (ds.zipIdx.filter fun q => descOwner q.1 == owner && bits q.1 15 1 == dir && q.2 % 8 == res).length

/-- Slots of an owner in both directions. -/
def slotsOf (ds : List Nat) (owner : Nat) : Nat := (ds.filter fun d => descOwner d == owner).length

/-- Check 4: the direction blocks and the NONE slots (spec/07 R272). -/
def blocksOk (rate : Nat) (ds : List Nat) : Bool :=
  let dirs := ds.map fun d => bits d 15 1
  let reads := (dirs.filter (· == 0)).length
  let writes := 1024 - reads
  (dirs.zipIdx.all fun q => (q.1 == 1) == decide (reads ≤ q.2)) && reads % 64 == 0 &&
    ds.zipIdx.all fun q =>
      (descOwner q.1 == codeNone) ==
        (writes != 0 && (decide (q.2 < turnWR rate) || (decide (reads ≤ q.2) && decide (q.2 < reads + turnRW rate))))

/-- The checks 3 to 8 on one pavilion's tables; the number of the first that fails, 0 for none. -/
def Part.checkTables (s : Part) (v : Vintage) (p : Nat) : Nat :=
  let t := v.tables.get PavTables.zero p
  let rates := (v.rates.range (p * 8192) (p * 8192 + 8192)).map fun e => (e.1 % 8192, e.2)
  let bad := (List.range 8).map fun c =>
    let need := s.slotNeed p c [] []
    let ds := t.descs c
    if ds.any fun d => 21 < descOwner d then 3
    else if !blocksOk (s.od .dramSpeed p) ds then 4
    else if slotsOf ds codeRefresh < need.refresh || slotsOf ds ownScrub < need.scrubR + need.scrubW || slotsOf ds ownOpen < need.openMin then 5
    else if (List.range 19).any fun o => o != 0 &&
        (List.range 2).any fun d => (List.range 8).any fun r => slotsAt ds o d r != slotsAt ds o d 0 then 6
    else if (List.range 16).any fun c => c != 0 &&
        ((s.classRate rates c 0 != 0 && decide (slotsAt ds c 0 0 < 2)) || (s.classRate rates c 1 != 0 && decide (slotsAt ds c 1 0 < 4))) then 7
    else if t.entries != partitionTable ((List.range 16).filter fun k => t.classes.testBit k) then 8
    else 0
  (bad.find? (· != 0)).getD 0

/-- The first failing check of spec/07 R294 with its pavilion. -/
def Part.checkVintage (s : Part) (v : Vintage) : Option (Nat × Nat) :=
  let t := s.withWrites v.settings
  s.serving.findSome? fun p =>
    let c :=
      if v.digest != v.sealed_.digest || v.format != 1 || v.number != s.vint.inForce.number + 1 then 1
      else if v.pavilions != s.serving.foldl (fun b p => setBit b p true) 0 then 2
      else if !v.planOnly && t.checkTables v p != 0 then t.checkTables v p
      else if v.place.any fun e => placeValid e.2 &&
          (!s.inService (placeHome e.2) || (placeMoving e.2 && s.pstate (placeDest e.2) != 1)) then 9
      else if t.allSlices.any fun sl => t.live sl &&
          ((t.od .codebookState (t.od .sliceCodebook sl) != 1 && t.od .codebookState (t.od .sliceCodebook sl) != 2) ||
            (t.od .slicePageCode sl != 0 && (decide (t.od .slicePageCode sl < 8) || decide (128 < t.od .slicePageCode sl)))) then 10
      else if v.plans.any fun e => e.2.any fun q => 5 < q.action then 11
      else if (List.range 16).any fun i => 8192 < ((v.reserved.range (i * 4096) (i * 4096 + 4096)).map (·.2)).sum then 12
      else 0
    if c = 0 then none else some (c, p)

end Sys2Proof.Machine
end

