-- ==== Sys2Proof/Machine/Grants.lean ====
section
/-!
DEFINITION. Dynamic capacity (spec/09 R374 to R382): grants, offers and releases of logical extents (spec/02 R90), the region
map and the extent masks of a port.
-/

namespace Sys2Proof.Machine

/-! ## The region map of a port (spec/09 R346, R377) -/

/-- The region-map entry of a logical region of a slice on a port. -/
def Part.regionEntry (s : Part) (i sl region : Nat) : Option Nat :=
  ((s.port i).regionMap.find? fun e => bit e.2 31 && bits e.2 16 12 == sl && bits e.2 0 16 == region).map (·.1)

/-- Take the lowest free DPA region of a DC region for a logical region (spec/09 R377). -/
def Part.mapRegion (s : Part) (i sl region dc : Nat) : Option (Nat × Part) :=
  match sparseGap ((dc + 1) * 32768) (s.port i).regionMap (dc * 32768) with
  | none => none
  | some r => some (r, s.onPort i fun t => { t with regionMap := t.regionMap.put r (2 ^ 31 + sl * 65536 + region) })

/-- Free a region-map entry with its mask. -/
def Part.unmapRegion (s : Part) (i r : Nat) : Part :=
  s.onPort i fun t => { t with
    regionMap := t.regionMap.erase r, masks := t.masks.erase r, grantOf := t.grantOf.eraseRange (512 * r) (512 * r + 512), maskCache := t.maskCache.filter (· != r) }

/-- Set or clear the mask bit of a DPA extent. -/
def Part.setMask (s : Part) (i x : Nat) (on : Bool) : Part :=
  s.onPort i fun t => { t with
    masks := t.masks.modify 0 (x / 512) fun m => setBit m (x % 512) on
    grantOf := if on then t.grantOf.set 0 x t.dcGrant else t.grantOf.erase x }

/-- The mask bit of a DPA extent. -/
def Part.maskBit (s : Part) (i x : Nat) : Bool := bit ((s.port i).masks.get 0 (x / 512)) (x % 512)

/-- The DPA extent of a logical extent of a slice on a port. -/
def Part.dpaExt (s : Part) (i sl le : Nat) : Option Nat := (s.regionEntry i sl (le / 512)).map fun r => r * 512 + le % 512

/-- The slice and logical extent of a DPA extent. -/
def Part.extOfDpa (s : Part) (i x : Nat) : Option (Nat × Nat) :=
  let e := (s.port i).regionMap.get 0 (x / 512)
  if bit e 31 then some (bits e 16 12, bits e 0 16 * 512 + x % 512) else none

/-- A logical extent is granted to a slice. -/
def Part.granted (s : Part) (sl le : Nat) : Bool := bit ((s.slice sl).grants.get 0 (le / 512)) (le % 512)

/-- Drop the poison-list entries of a DPA extent (spec/09 R372). -/
def Part.poisonForget (s : Part) (i x : Nat) : Part :=
  let s := s.onPort i fun t => { t with poison := t.poison.filter fun e => e.dpa / 2 ^ 21 != x }
  s.setOd .poisonListEntries i (s.port i).poison.length

/-! ## Runs and records (spec/09 R377, R379, R381) -/

/-- The runs of consecutive logical extents within one region, from a rising list. -/
def runsOf : List Nat → List (Nat × Nat)
  | [] => []
  | e :: r => match runsOf r with
    | (f, n) :: q => if f = e + 1 && f / 512 = e / 512 then (e, n + 1) :: q else (e, 1) :: (f, n) :: q
    | [] => [(e, 1)]

/-- The tag of an offered extent (spec/09 R375). -/
def dcTag (grant region sl : Nat) : Nat := (grant <<< 64) ||| (region <<< 48) ||| (sl <<< 32) ||| 1

/-- Write the Dynamic Capacity records of a list of runs (spec/09 R377): the kind 0 Add, 1 Release, 2 Forced Release; More is
set on all but the last. -/
def Part.dcRecords (s : Part) (i kind sl : Nat) (runs : List (Nat × Nat)) : Part :=
  iter runs.zipIdx s fun s q =>
    let le := q.1.1
    let dpa := match s.dpaExt i sl le with
      | some x => x * 2 ^ 21
      | none => ones64
    s.eventRec i logDynamic ⟨2, 0, 0, kind, sl, b2n (decide (q.2 + 1 < runs.length)), 0xF, le * 2 ^ 21, dpa,
      q.1.2 * 2 ^ 21, dcTag (s.port i).dcGrant (le / 512) sl⟩

/-- Offer granted extents of a slice on its port (spec/09 R377, step 4; spec/10 R402). -/
def Part.offer (s : Part) (i : Nat) (op : DcOp) (exts : List Nat) : Part :=
  let runs := runsOf exts
  let s := s.onPort i fun t => { t with dcGrant := t.dcGrant + 1, dcOp := some { op with runs := runs } }
  (s.dcRecords i 0 op.slice runs).setOd .dcState i 2

/-! ## Granting (spec/02 R58, R74, R85, spec/09 R377) -/

/-- Take the region block of a newly granted region on its home and on its mirror. -/
def Part.openRegion (s : Part) (sl region : Nat) : Part :=
  let v := s.place sl region
  if !placeValid v || ((s.pav (placeHome v)).blocks.get [] (blockKey sl region false)) != [] then s else
  let s := (s.takeBlock (placeHome v) (blockKey sl region false)).getD s
  if placeSingle v then s else (s.takeBlock (placeMirror v) (blockKey sl region true)).getD s

/-- Grant a logical extent: a strict slice's fixed frames are taken on the region's home (spec/02 R74). Where the pavilion has no FREE
extent left for them, as when rows were retired since the compile, the extent is granted without them and its pages allocate like
those of another slice (DESIGN CHOICE, log entry 193). -/
def Part.grantExtent (s : Part) (sl le : Nat) : Part :=
  let s := s.onSlice sl fun q => { q with grants := q.grants.modify 0 (le / 512) fun b => setBit b (le % 512) true }
  let s := s.openRegion sl (le / 512)
  if s.od .sliceCapacityMode sl != 0 then s else
  match s.takeFixed (placeHome (s.place sl (le / 512))) sl with
  | some (e, s) => s.onSlice sl fun q => { q with fixed := q.fixed.put le (e + 1) }
  | none => s

/-- The vintage of an ADD is in force (spec/09 R377, step 4): the extents are granted and offered. -/
def Part.grantInForce (s : Part) (i : Nat) : Part :=
  match (s.port i).dcOp with
  | some op =>
    let exts := (List.range op.count).map (op.first + ·)
    let s := iter exts s fun s le => s.grantExtent op.slice le
    s.offer i op exts
  | none => s

/-- The compile of an ADD refuses (spec/09 R377, step 3). -/
def Part.grantRefused (s : Part) (i : Nat) : Part :=
  match (s.port i).dcOp with
  | some op =>
    let s := iter op.regions s fun s r => s.unmapRegion i r
    ((s.onPort i fun t => { t with dcOp := none }).setOd .dcState i 0).setOd .dcResult i 7
  | none => s

/-! ## Releasing (spec/02 R90) -/

/-- Give up what a page's moves hold. -/
def Part.cancelMoves (s : Part) (p sl lo hi : Nat) : Part :=
  let mine (m : Move) : Bool := m.slice == sl && decide (lo ≤ m.lpage) && decide (m.lpage < hi)
  let s := iter ((s.pav p).moves.filter mine) s fun s m => s.freeDest p m
  s.onPav p fun v => { v with
    moves := v.moves.filter fun m => !mine m
    codecQ := v.codecQ.filter fun t => !(t.slice == sl && decide (lo ≤ t.lpage) && decide (t.lpage < hi) &&
      (t.use == .promotion || t.use == .demotion || t.use == .recode || t.use == .build)) }

/-- Take an extent's pages out of a region move in progress. -/
def Part.leaveMove (s : Part) (p sl le : Nat) : Part :=
  match (s.pav p).regionMove with
  | none => s
  | some r =>
    if r.slice != sl || r.region != le / 512 then s else
    let s := iter (r.copied.range (le * 512) (le * 512 + 512)) s fun s e => s.freeCopy r.dest sl e.2
    let f := r.fixedNew.get 0 le
    let s := if f = 0 then s else s.releaseFixed r.dest (f - 1)
    s.onPav p fun v => { v with regionMove := v.regionMove.map fun r => { r with
      left := r.left.filter fun lp => lp / 512 != le
      copied := r.copied.eraseRange (le * 512) (le * 512 + 512)
      fixedNew := r.fixedNew.erase le } }

/-- The last extent of a region is released: its blocks, its place and its heat table go (spec/02 R58). -/
def Part.closeRegion (s : Part) (sl region : Nat) : Part :=
  let v := s.place sl region
  let p := placeHome v
  let s := match (s.pav p).regionMove with
    | some r => if r.slice = sl && r.region = region then s.dropRegionMove p else s
    | none => s
  let s := s.dropBlock p (blockKey sl region false)
  let s := if placeSingle v then s else s.dropBlock (placeMirror v) (blockKey sl region true)
  let lo := sl * 2 ^ 28 + region * 4096
  let s := s.onPav p fun q => { q with heat := q.heat.eraseRange lo (lo + 4096), coalesce := q.coalesce.eraseRange lo (lo + 4096) }
  let s := iter allPavs s fun s q => s.onPav q fun v => { v with lost := v.lost.filter (· != regionKey sl region) }
  (s.onSlice sl fun q => { q with grants := q.grants.erase region }).setPlace sl region 0

/-- Free the storage of an extent's pages and return its entries to their reset values (spec/02 R90); the fixed frames go
with it when `frames` is set. -/
def Part.clearExtent (s : Part) (sl le : Nat) (frames : Bool) : Part :=
  let v := s.place sl (le / 512)
  let p := placeHome v
  let lo := le * 512
  let s := (s.cancelMoves p sl lo (lo + 512)).leaveMove p sl le
  let cells := (s.pav p).cellar.range (pageKey sl lo) (pageKey sl (lo + 512))
  let s := iter cells s fun s e => s.freePage p sl e.2
  let clear (m : Sparse Cell) : Sparse Cell := m.eraseRange (pageKey sl lo) (pageKey sl (lo + 512))
  let s := s.onPav p fun q => { q with cellar := clear q.cellar, dirty := q.dirty.erase (extentKey sl le) }
  let s := if placeSingle v then s else s.onPav (placeMirror v) fun q => { q with mirror := clear q.mirror }
  let f := (s.slice sl).fixed.get 0 le
  if !frames || f = 0 then s
  else (s.releaseFixed p (f - 1)).onSlice sl fun q => { q with fixed := q.fixed.erase le }

/-- Release a logical extent of a slice (spec/02 R90). -/
def Part.releaseExtent (s : Part) (sl le : Nat) : Part :=
  if !s.granted sl le then s else
  let s := s.clearExtent sl le true
  let s := s.onSlice sl fun q => { q with grants := q.grants.modify 0 (le / 512) fun b => setBit b (le % 512) false }
  if (s.slice sl).grants.get 0 (le / 512) = 0 then s.closeRegion sl (le / 512) else s

/-- The offered logical extents of an operation. -/
def DcOp.offered (op : DcOp) : List Nat := op.runs.flatMap fun r => (List.range r.2).map (r.1 + ·)

/-- An operation in progress has given a logical region a map entry that it still needs. -/
def DcOp.names (op : DcOp) (sl region : Nat) : Bool :=
  op.slice == sl && op.kind != 2 && ((op.offered.any fun le => le / 512 == region) ||
    (op.kind == 1 && decide (op.first / 512 ≤ region) && decide (region ≤ (op.first + op.count - 1) / 512)))

/-- Free the region-map entries among some DPA regions of a port whose mask is all 0 (spec/09 R380), but those that the
operation in progress names. -/
def Part.freeEmptyMaps (s : Part) (i : Nat) (rs : List Nat) : Part :=
  iter rs.eraseDups s fun s r =>
    let e := (s.port i).regionMap.get 0 r
    let kept := match (s.port i).dcOp with
      | some op => op.names (bits e 16 12) (bits e 0 16)
      | none => false
    if (s.port i).masks.get 0 r = 0 && !kept then s.unmapRegion i r else s

/-- Step 3 of spec/09 R380 for DPA extents: the extents are released, region-map entries without a mask bit are freed. -/
def Part.releaseDpa (s : Part) (i : Nat) (xs : List Nat) : Part :=
  let s := iter xs s fun s x =>
    match s.extOfDpa i x with
    | some (sl, le) => (s.poisonForget i x).releaseExtent sl le
    | none => s
  s.freeEmptyMaps i (xs.map (· / 512))

/-- Some request decoded into a DPA extent is still to complete on the port. -/
def Part.decodedInto (s : Part) (i : Nat) (xs : List Nat) : Bool :=
  let t := s.port i
  let hit (r : Req) : Bool := xs.contains (r.dpa / 2 ^ 21)
  t.park.any hit || t.parts.any fun e =>
    e.2.queue.any hit || (e.2.forwarded.any fun f => hit f.req) || e.2.hold.any fun h => h.reqs.any hit

/-- A pending RELEASE of the operator ends when every extent it names has gone (spec/09 R379). -/
def Part.endAsked (s : Part) (i : Nat) : Part :=
  match (s.port i).dcOp with
  | some op =>
    if op.kind = 2 && (List.range op.count).all fun k => !s.granted op.slice (op.first + k) then
      ((s.onPort i fun t => { t with dcOp := none }).setOd .dcState i 0).setOd .dcResult i 5
    else s
  | none => s

/-- A Forced Capacity Release record for DPA extents, before their map entries go (spec/09 R381). -/
def Part.forcedRecords (s : Part) (i : Nat) (xs : List Nat) : Part :=
  let exts := xs.filterMap (s.extOfDpa i)
  let slices := (exts.map (·.1)).eraseDups
  iter slices s fun s sl => s.dcRecords i 2 sl (runsOf ((exts.filter fun e => e.1 == sl).map (·.2)))

/-- Carry out the releases of a port whose requests have all completed (spec/09 R380, R381); a full compile follows. -/
def Part.drainReleases (s : Part) (i : Nat) : Part :=
  iter (s.port i).releases s fun s r =>
    if s.decodedInto i r.extents then s else
    let s := s.onPort i fun t => { t with releases := t.releases.filter (· != r) }
    let s := if r.forced then s.forcedRecords i r.extents else s
    let s := (s.releaseDpa i r.extents).askCompile 0
    let s := if r.forced then
        (if r.asked then ((s.onPort i fun t => { t with dcOp := none }).setOd .dcState i 0).setOd .dcResult i 6 else s.setOd .dcResult i 6)
      else if (s.port i).mboxBusy = some 0x4803 then (s.onPort i fun t => { t with mboxBusy := none }).mbox i mbSuccess []
      else s
    s.endAsked i

/-- Steps 1 and 2 of spec/09 R380: the mask bits are cleared and the release waits for the requests decoded before. -/
def Part.beginRelease (s : Part) (i : Nat) (r : Release) : Part :=
  let s := iter r.extents s fun s x => s.setMask i x false
  s.onPort i fun t => { t with releases := t.releases ++ [r] }

/-- Forced release of logical extents of a slice without the host (spec/09 R381): of mapped extents on their port; others,
which no request can reach, at once. -/
def Part.forceRelease (s : Part) (sl : Nat) (exts : List Nat) (asked : Bool) : Part :=
  let i := s.od .slicePort sl
  let xs := exts.filterMap (s.dpaExt i sl)
  let bare := exts.filter fun le => (s.dpaExt i sl le).isNone
  let s := iter bare s fun s le => s.releaseExtent sl le
  let s := if bare.isEmpty then s else s.askCompile 0
  if xs.isEmpty then s else (s.beginRelease i ⟨xs, asked, true⟩).drainReleases i

/-! ## DC_REQUEST (spec/09 R376 to R381) -/

/-- The fields of DC_REQUEST. -/
structure DcReq where
  op    : Nat
  slice : Nat
  dc    : Nat
  first : Nat
  count : Nat

/-- Read DC_REQUEST (spec/09 R376). -/
def DcReq.decode (x : Nat) : DcReq := ⟨bits x 0 8, bits x 24 12, bits x 36 3, bits x 39 25, bits x 64 32⟩

/-- Step 2 of spec/09 R377: region-map entries for the regions of a grant that have none. -/
def Part.mapRegions (s : Part) (i sl dc : Nat) : List Nat → Option (List Nat × Part)
  | [] => some ([], s)
  | r :: rest =>
    if (s.regionEntry i sl r).isSome then s.mapRegions i sl dc rest
    else match s.mapRegion i sl r dc with
      | none => none
      | some (x, s) => (s.mapRegions i sl dc rest).map fun q => (x :: q.1, q.2)

/-- An accepted ADD (spec/09 R377, steps 1 to 3). -/
def Part.dcAdd (s : Part) (i : Nat) (q : DcReq) : Part :=
  let regions := ((List.range q.count).map fun k => (q.first + k) / 512).eraseDups
  match s.mapRegions i q.slice q.dc regions with
  | none => s.setOd .dcResult i 7
  | some (taken, s) =>
    let s := (s.onPort i fun t => { t with dcOp := some ⟨q.slice, q.first, q.count, taken, [], 1⟩ }).setOd .dcState i 1
    s.ask ⟨0, [], none, .grant i, 0⟩

/-- A write of DC_REQUEST (spec/09 R376): only while DC_STATE is IDLE, but for the FORCE_RELEASE of a pending RELEASE (R379). -/
def Part.dcRequest (s : Part) (w : Who) (i x len : Nat) : Reply :=
  match writeChecks Entry.dcRequest.info (s.roleOf w) x len true with
  | some c => s.refuse c
  | none =>
    if s.od0 .partFailed = 1 then s.refuse rPartFailed else
    let q := DcReq.decode x
    let st := s.od .dcState i
    if st != 0 && !(st == 3 && q.op == 3) then s.refuse rBusy else
    let exts := (List.range q.count).map (q.first + ·)
    if q.count = 0 || 65536 < q.count || 2 ^ 25 < q.first + q.count then s.refuse rCondition
    else if s.boundPort q.slice != some i then s.refuse rCondition
    else match q.op with
    | 1 => if exts.any fun le => s.granted q.slice le then s.refuse rCondition else (s.dcAdd i q).ok
    | 2 =>
      if !(exts.all fun le => s.granted q.slice le) then s.refuse rCondition else
      let s := (s.onPort i fun t => { t with dcOp := some ⟨q.slice, q.first, q.count, [], runsOf exts, 2⟩ }).setOd .dcState i 3
      (s.dcRecords i 1 q.slice (runsOf exts)).ok
    | 3 =>
      if !(exts.all fun le => s.granted q.slice le) then s.refuse rCondition else
      let s := (s.onPort i fun t => { t with dcOp := none }).setOd .dcState i 0
      let s := s.forceRelease q.slice exts true
      (if (s.port i).releases.any (·.asked) then s.setOd .dcState i 3 else s.setOd .dcResult i 6).ok
    | _ => s.refuse rCondition

/-- DC_REQUEST_ADD (spec/09 R377). -/
def execDcRequestAdd (w : Who) (i : Port) (req : BitVec 128) (s : State) : Host.Outcome State Fault Refusal :=
  s.run fun s => (s.dcRequest w i (setBits req.toNat 0 8 1) 16).answer w

/-- DC_REQUEST_RELEASE (spec/09 R379). -/
def execDcRequestRelease (w : Who) (i : Port) (req : BitVec 128) (s : State) : Host.Outcome State Fault Refusal :=
  s.run fun s => (s.dcRequest w i (setBits req.toNat 0 8 2) 16).answer w

/-! ## The host's side (spec/09 R377, R378, R380, R382) -/

/-- The DPA extents of a list of (start, length) runs; none where a run is not whole extents of 2 MiB. -/
def dpaExts (runs : List (Nat × Nat)) : Option (List Nat) :=
  if runs.all fun r => r.1 % 2 ^ 21 == 0 && r.2 % 2 ^ 21 == 0 && r.2 != 0 then
    some (runs.flatMap fun r => (List.range (r.2 / 2 ^ 21)).map (r.1 / 2 ^ 21 + ·))
  else none

/-- End an offer: accepted extents get their mask bits; the others are released, or stay granted and unmapped when the offer is
a rebinding's (spec/09 R377, R378, spec/10 R402). -/
def Part.endOffer (s : Part) (i : Nat) (op : DcOp) (accepted : List Nat) (result : Nat) : Part :=
  let s := iter accepted s fun s le => match s.dpaExt i op.slice le with
    | some x => s.setMask i x true
    | none => s
  let others := op.offered.filter fun le => !accepted.contains le
  let s := ((s.onPort i fun t => { t with dcOp := none }).setOd .dcState i 0).setOd .dcResult i result
  if op.kind = 4 || others.isEmpty then s else
  let rs := others.filterMap fun le => s.regionEntry i op.slice (le / 512)
  let s := iter others s fun s le => s.releaseExtent op.slice le
  (s.freeEmptyMaps i rs).askCompile 0

/-- Add Dynamic Capacity Response (spec/09 R377, step 5). -/
def Part.addDcResponse (s : Part) (i : Nat) (runs : List (Nat × Nat)) : Part :=
    match (s.port i).dcOp, dpaExts runs with
    | some op, some xs =>
      let got := xs.map (s.extOfDpa i)
      if s.od .dcState i != 2 then s.mbox i mbInvalid []
      else if got.any fun e => match e with
          | some (sl, le) => sl != op.slice || !op.offered.contains le
          | none => true then s.mbox i mbInvalid []
      else
        let acc := got.filterMap fun e => e.map (·.2)
        let all := op.offered.all fun le => acc.contains le
        (s.endOffer i op acc (if acc.isEmpty then 3 else if all then 1 else 2)).mbox i mbSuccess []
    | _, _ => s.mbox i mbInvalid []

/-- No response came (spec/09 R378): every offered extent is released; code 0x1204. -/
def Part.dcOfferTimeout (s : Part) (i : Nat) : Part :=
    match (s.port i).dcOp with
    | some op =>
      if s.od .dcState i != 2 then s else
      let n := if op.kind = 4 then 0 else op.offered.length
      let g := (s.port i).dcGrant
      let s := s.endOffer i op [] 4
      (s.vendorEvent i logWarning 0x1204 (some op.slice) (portPav i) ones64 ones64 n g).logEv 0x1204 n g (some op.slice) (portPav i)
    | none => s

/-- RELEASE_DC (spec/09 R380, steps 1 and 2): every extent named must be accepted on the port. -/
def execReleaseDc (i : Port) (runs : (List (Nat × Nat))) (s : State) : Host.Outcome State Fault Refusal :=
  s.run fun s =>
    if (s.port i).mboxBusy.isSome then s.mbox i mbBusy [] else
    match dpaExts runs with
    | none => s.mbox i mbInvalid []
    | some xs =>
      if xs.isEmpty || !(xs.all fun x => s.maskBit i x) then s.mbox i mbInvalid [] else
      (s.onPort i fun t => { t with mboxBusy := some 0x4803 }).beginRelease i ⟨xs, false, false⟩

end Sys2Proof.Machine
end

