-- ==== Sys2Proof/Machine/Bundles.lean ====
section
/-!
DEFINITION. Migration bundles (spec/10 R416 to R428): dirty extents, SAVE and RESTORE, the bundle's layout, its key section and
its authenticator; the windows of a slice's own traffic (R403).
-/

namespace Sys2Proof.Machine

/-! ## The windows of a slice (spec/10 R403) -/

/-- The enabled windows of a port that carry a slice's traffic. -/
def Part.sliceWindows (s : Part) (i sl : Nat) : List Window :=
  (((s.port i).windows.filter fun e => e.2.enable).map (·.2)).filter fun w =>
    w.pasidEn == (s.od .slicePasidEn sl == 1) && (!w.pasidEn || w.pasid == s.od .slicePasid sl)

/-- The windows hold every byte from an address up to an end. -/
def covered (ws : List Window) : Nat → Nat → Nat → Bool
  | 0, addr, end_ => decide (end_ ≤ addr)
  | fuel + 1, addr, end_ =>
    decide (end_ ≤ addr) || match ws.find? fun w => decide (w.base ≤ addr) && decide (addr < w.limit + 4096) with
      | some w => covered ws fuel (w.limit + 4096) end_
      | none => false

/-- The slice's traffic may reach a range of host memory through its port (spec/10 R403, spec/09 R360): an access that no
window holds is counted and logged. -/
def Part.sliceReach (s : Part) (i sl addr len : Nat) : Part × Bool :=
  if !s.bmActive i then (s, false)
  else if covered (s.sliceWindows i sl) 17 addr (addr + len) then (s, true)
  else (s.bmBlocked i addr, false)

/-- The PASID that a slice's traffic carries. -/
def Part.slicePasidTag (s : Part) (sl : Nat) : Option Nat :=
  if s.od .slicePasidEn sl = 1 then some (s.od .slicePasid sl) else none

/-! ## Dirty extents (spec/10 R416, R417) -/

/-- The dirty extents of a slice, ascending. -/
def Part.dirtyExts (s : Part) (sl : Nat) : List Nat :=
  let all := allPavs.flatMap fun p => ((s.pav p).dirty.range (extentKey sl 0) (extentKey sl (2 ^ 25))).map (·.1 % 2 ^ 25)
  (all.foldl (fun m e => Sparse.put m e ()) []).map (·.1)

/-- Set or clear the dirty mark of an extent on its region's home. -/
def Part.markExt (s : Part) (sl le : Nat) (on : Bool) : Part :=
  match s.homeOf sl (le * 512) with
  | some p => s.onPav p fun v => { v with dirty := v.dirty.set 0 (extentKey sl le) (b2n on) }
  | none => s

/-! ## The layout of a bundle (spec/10 R419, R420, R422) -/

/-- A byte string being built: its bytes as a number and their count. -/
structure Bytes where
  value : Nat
  len   : Nat

/-- Add bytes at the end. -/
def Bytes.add (b : Bytes) (x n : Nat) : Bytes := ⟨b.value ||| (x <<< (8 * b.len)), b.len + n⟩

/-- A page record with its page's bytes as sent (spec/10 R422). -/
structure PageRec where
  version : Nat
  poison  : Nat
  lpage   : Nat
  kind    : Nat
  tier    : Nat
  cause   : Nat
  lineCause : Nat
  data    : Nat
  deriving DecidableEq, Repr

/-- The 256 bits of a page record. -/
def PageRec.encode (r : PageRec) : Nat :=
  (bits r.version 0 64 <<< 192) ||| (bits r.poison 0 64 <<< 128) ||| (bits r.lpage 0 34 <<< 94) ||| (bits r.kind 0 2 <<< 92) |||
  (bits r.tier 0 2 <<< 90) ||| (bits r.cause 0 4 <<< 86) ||| (bits r.lineCause 0 4 <<< 82)

/-- The page record that 256 bits and the bytes after them spell. -/
def PageRec.decode (x data : Nat) : PageRec :=
  ⟨bits x 192 64, bits x 128 64, bits x 94 34, bits x 92 2, bits x 90 2, bits x 86 4, bits x 82 4, data⟩

/-- Bytes of a page record with its page. -/
def PageRec.size (r : PageRec) : Nat := if r.kind = 1 then 4128 else 32

/-- The header of a bundle without its authenticator (spec/10 R420). -/
structure BundleHead where
  auth     : Nat
  id       : Nat
  serial   : Nat
  sequence : Nat
  length   : Nat
  pages    : Nat
  grants   : Nat
  slice    : Nat
  wrap     : Nat
  final    : Bool
  format   : Nat

/-- The 512 bits of a header. -/
def BundleHead.encode (h : BundleHead) : Nat :=
  (h.auth <<< 384) ||| (bits h.id 0 64 <<< 320) ||| (bits h.serial 0 64 <<< 256) ||| (bits h.sequence 0 32 <<< 224) |||
  (bits h.length 0 32 <<< 192) ||| (bits h.pages 0 32 <<< 160) ||| (bits h.grants 0 32 <<< 128) ||| (bits h.slice 0 12 <<< 116) |||
  (bits h.wrap 0 8 <<< 108) ||| (b2n h.final <<< 104) ||| bits h.format 0 8

/-- The header that 512 bits spell. -/
def BundleHead.decode (x : Nat) : BundleHead :=
  ⟨bits x 384 128, bits x 320 64, bits x 256 64, bits x 224 32, bits x 192 32, bits x 160 32, bits x 128 32, bits x 116 12,
    bits x 108 8, bit x 104, bits x 0 8⟩

/-- Bytes before the page records: header and key section. -/
def bundleFixed : Nat := 176

/-- A wrapping key. -/
def Part.wrapKey (s : Part) (w : Nat) : OneKey := s.keys.wraps.get OneKey.zero w

/-- The bundle key of a wrapping key (spec/10 R423). -/
def bundleKey (k w : Nat) : Nat :=
  ofBytes (hkdf (List.replicate 48 0) (toBytes 32 k) ([0x47, 0x5A, 0x38, 0x2D, 0x42, 0x4E, 0x44, 0x4C] ++ [w]) 32)

/-- AUTH of a bundle (spec/10 R423): over header bytes 0 to 47 and every byte after the header. -/
def bundleAuth (k w head body bodyLen : Nat) : Nat :=
  ofBytes ((cmac (bundleKey k w) (toBytes 48 (head % 2 ^ 384) ++ toBytes bodyLen body)).take 16)

/-- The bytes of a key set in the layout of spec/04 R146. -/
def KeySet.bytes (k : KeySet) : List Nat := toBytes 32 k.data ++ toBytes 32 k.tweak ++ toBytes 32 k.mac

/-- The key set that 96 bytes spell. -/
def keysOf (b : List Nat) : Nat × Nat × Nat := (ofBytes (b.take 32), ofBytes ((b.drop 32).take 32), ofBytes (b.drop 64))

/-- The entries that a FINAL bundle carries (spec/10 R419, spec/12 R491): the RW entries of the slice at subindexes 0x20 to
0x6F but the named exception, and the five of R491. -/
def carriedEntries : List Entry :=
  (Entry.all.filter fun e =>
    let f := e.info
    f.index == 0x6000 && f.access == .rw && decide (0x20 ≤ f.sub) && decide (f.sub ≤ 0x6F) && f.ty != .blob && e != .sliceSamplingAllowed) ++
  [.sliceReadBytes, .sliceWriteBytes, .sliceReads, .sliceWrites, .sliceTenantCounters]

/-! ## Saving (spec/10 R421) -/

/-- The record of a page that holds no data: ZERO or POISONED. -/
def emptyRec (lp : Nat) (c : Cell) : PageRec := ⟨c.version, 0, lp, if c.poison then 2 else 0, 0, c.cause, 0, 0⟩

/-- The record of a DATA page under the active key set. -/
def Part.dataRec (s : Part) (sl lp version tier page : Nat) (marks : List Nat) : PageRec :=
  let k := s.keySet sl (s.od .sliceKeyActive sl)
  let bad := (List.range 64).filter fun n => metaPoisoned (marks.getD n 0)
  let page := bad.foldl (fun x n => setBits x (512 * n) 512 0) page
  let cipher := ofBytes (xtsEncrypt k.data k.tweak (tweak sl 2 lp) (toBytes 4096 page))
  ⟨version, bad.foldl (fun m n => setBit m n true) 0, lp, 1, tier, 0,
    match bad with
    | n :: _ => bits (marks.getD n 0) 3 4
    | [] => 0, cipher⟩

/-- Read a page for a bundle (spec/10 R422). A warm page takes a full decode, which spec/03 R137 does not list for a SAVE (DESIGN CHOICE,
log entry 194). -/
def Part.savePage (s : Part) (p sl lp : Nat) : Part × PageRec :=
  let c := s.cell p sl lp
  if c.tier = tierZero then (s, emptyRec lp c)
  else if !s.ownerOk p sl c then
    let s := s.ownerMismatch p sl lp
    (s, emptyRec lp (s.cell p sl lp))
  else if c.tier = tierHot then
    let r := s.readHot p sl lp c
    let fresh := (List.range 64).filter fun n =>
      metaPoisoned (r.2.marks.getD n 0) && !metaPoisoned (s.lineEnt p sl (burstOf c.loc + n)).info
    let s := iter fresh r.1 fun s n =>
      s.poisonLine p sl lp n c (s.burstNow p (burstOf c.loc + n)) (bits (r.2.marks.getD n 0) 3 4)
    (s, s.dataRec sl lp r.2.top tierHot r.2.page r.2.marks)
  else match s.readCaskNow p sl lp c with
    | (s, none) => (s, emptyRec lp (s.cell p sl lp))
    | (s, some (w, plain)) =>
      let t : CodecTask := ⟨.recode, sl, lp, 0, Msg.zero, (plain <<< 64) ||| cwSeal w.encode, 0, false, 0⟩
      let lost (s : Part) : Part × PageRec :=
        let s := s.poisonPage p sl lp 7
        (s, emptyRec lp (s.cell p sl lp))
      match s.decodeTwice p t 0 with
      | .good s v => (s, s.dataRec sl lp c.version tierWarm v [])
      | .faulted s => lost s
      | .waits s => match s.decodeTask t with
        | .ok v => (s, s.dataRec sl lp c.version tierWarm v [])
        | .error _ => lost s

/-- Bytes of the page records of an extent as it stands. -/
def Part.extentBytes (s : Part) (sl le : Nat) : Nat :=
  match s.homeOf sl (le * 512) with
  | some p => 512 * 32 + 4096 * (s.pagesWhere p sl (le * 512) (le * 512 + 512) fun c => c.tier != tierZero).length
  | none => 0

/-- Whole extents of a rising list that fit in `room` bytes, from its start. -/
def Part.fitting (s : Part) (sl : Nat) : Nat → List Nat → List Nat
  | _, [] => []
  | room, le :: r =>
    let n := s.extentBytes sl le
    if n ≤ room then le :: s.fitting sl (room - n) r else []

/-- The grant records of a slice (spec/10 R419). -/
def Part.grantRecords (s : Part) (sl : Nat) : List Nat := (s.slice sl).grants.map fun e => e.2 ||| (e.1 <<< 512)

/-- An entry instance as index × 256 + subindex. -/
def Entry.number (e : Entry) (i : Nat) : Nat := e.indexOf i * 256 + e.subOf i

/-- The state records of a slice: a tainted tally is left out (spec/12 R491). -/
def Part.stateRecords (s : Part) (sl : Nat) : List Nat :=
  (carriedEntries.filter fun e => !(e.isTally && s.taint.contains (e.number sl))).map fun e =>
    let v := if e.isTally then s.tallyNow e sl else s.od e sl
    (bits v 0 64 <<< 64) ||| (e.info.sub <<< 56)

/-- Form the bundle of a SAVE (spec/10 R421, steps 1 to 4): the extents that fit lose their marks, their pages are read. -/
def Part.formBundle (s : Part) (sl : Nat) (doorbell : Bool) : Part × Bundle :=
  let limit := s.od .sliceBundleLen sl * 1024
  let dirty := s.dirtyExts sl
  let exts := s.fitting sl (limit - bundleFixed) dirty
  let s := iter exts s fun s le => s.markExt sl le false
  let w := s.od .sliceWrapIndex sl
  let wrap := s.wrapKey w
  let key := ofBytes (kwpWrap wrap.key (s.keySet sl (s.od .sliceKeyActive sl)).bytes)
  let pages := iter exts (s, (⟨key, 112⟩ : Bytes)) fun q le =>
    match s.homeOf sl (le * 512) with
    | none => q
    | some p => iter (List.range 512) q fun q k =>
        let r := q.1.savePage p sl (le * 512 + k)
        (r.1, if r.2.kind = 1 then (q.2.add r.2.encode 32).add r.2.data 4096 else q.2.add r.2.encode 32)
  let s := pages.1
  let grants := s.grantRecords sl
  let states := s.stateRecords sl
  let extra := 72 * grants.length + 16 * states.length
  let final := s.od .sliceState sl = 3 && exts.length = dirty.length && decide (64 + pages.2.len + extra ≤ limit)
  let body := if final then states.foldl (fun b x => b.add x 16) (grants.foldl (fun b x => b.add x 72) pages.2) else pages.2
  let h : BundleHead := ⟨0, s.od .sliceMigrationId sl, s.flash.serial, s.od .sliceBundleSequence sl, 64 + body.len, exts.length * 512,
    if final then grants.length else 0, sl, w, final, 1⟩
  let head := h.encode
  let auth := bundleAuth wrap.key w head body.value body.len
  (s, ⟨false, final, 64 + body.len, exts, { h with auth := auth }.encode ||| (body.value <<< 512), doorbell⟩)

/-- The doorbell that asked for an operation ends with a RESULT (spec/10 R406). -/
def Part.endDoorbell (s : Part) (sl : Nat) (asked : Bool) (result : Nat) : Part :=
  if asked then s.onSlice sl fun q => { q with doorRun := 0, doorResult := result } else s

/-- A SAVE ends early (spec/10 R424): what it had taken is dirty again. -/
def Part.endSave (s : Part) (sl result : Nat) : Part :=
  match (s.slice sl).bundle with
  | none => s
  | some b =>
    let s := iter (b.extents.filter fun le => s.granted sl le) s fun s le => s.markExt sl le true
    let s := (s.onSlice sl fun q => { q with bundle := none }).setOd .sliceSaveResult sl result
    s.endDoorbell sl b.doorbell 6

/-- A RESTORE is refused or ends early (spec/10 R425, R427): code 0x1305. -/
def Part.endRestore (s : Part) (sl reason : Nat) : Part :=
  match (s.slice sl).bundle with
  | none => s
  | some b =>
    let s := (s.onSlice sl fun q => { q with bundle := none }).setOd .sliceRestoreResult sl reason
    (s.logEv 0x1305 reason (s.od .sliceBundleSequence sl) (some sl)).endDoorbell sl b.doorbell 6

/-- Cancel a SAVE or RESTORE in progress (spec/10 R397, R409, R424). -/
def Part.cancelBundle (s : Part) (sl : Nat) : Part :=
  match (s.slice sl).bundle with
  | none => s
  | some b =>
    if !b.restore then s.endSave sl 6 else
    let plain (a : CompileAsk) : CompileAsk := if a.goal = .restore sl then { a with writes := [], goal := .plain } else a
    let s := { s with vint := { s.vint with queue := s.vint.queue.map plain, running := s.vint.running.map plain } }
    s.endRestore sl 12

/-- SAVE (spec/10 R421): the conditions in their order, then the bundle is formed. -/
def Part.startSave (s : Part) (sl : Nat) (doorbell : Bool) : Reply :=
  if s.od .sliceMigrationId sl = 0 then s.refuse rCondition
  else if !(s.wrapKey (s.od .sliceWrapIndex sl)).live then s.refuse rWrap
  else if (s.slice sl).bundle.isSome then s.refuse rBusy
  else
    let r := s.formBundle sl doorbell
    ((r.1.onSlice sl fun q => { q with bundle := some r.2 }).setOd .sliceSaveResult sl 1).ok

/-- The port over which a slice's traffic goes. -/
def Part.trafficPort (s : Part) (sl : Nat) : Nat := (s.boundPort sl).getD 16

/-- A write of a slice's own traffic. -/
def Part.sliceWrite (s : Part) (sl addr len data : Nat) : Part × Bool :=
  let i := s.trafficPort sl
  match s.sliceReach i sl addr len with
  | (s, true) => (s.emit (.hostWrite i addr len data (s.slicePasidTag sl)), true)
  | (s, false) => (s, false)

/-- SAVE_BUNDLE_SENT (spec/10 R421): the body goes first and the header last; the result, the sequence, code 0x1304. -/
def execSaveBundleSent (sl : Slice) (s : State) : Host.Outcome State Fault Refusal :=
  s.run fun s =>
    match (s.slice sl).bundle with
    | none => s
    | some b =>
      if b.restore then s else
      let addr := s.od .sliceBundleAddress sl
      match s.sliceWrite sl (addr + 64) (b.size - 64) (b.bytes >>> 512) with
      | (s, false) => s.endSave sl 5
      | (s, true) =>
        match s.sliceWrite sl addr 64 (b.bytes % 2 ^ 512) with
        | (s, false) => s.endSave sl 5
        | (s, true) =>
          let seq := s.od .sliceBundleSequence sl
          let s := s.onSlice sl fun q => { q with bundle := none }
          let result := if b.final then 4 else if (s.dirtyExts sl).isEmpty then 2 else 3
          let s := ((s.setOd .sliceSaveResult sl result).setOd .sliceBundleSize sl b.size).setOd .sliceBundleSequence sl (seq + 1)
          (s.logEv 0x1304 seq b.size (some sl.val)).endDoorbell sl b.doorbell 2

/-! ## Restoring (spec/10 R425 to R428) -/

/-- RESTORE (spec/10 R426): armed, SLICE_CLEARING 0, none running; the engine reads the bundle's header. -/
def Part.startRestore (s : Part) (sl : Nat) (doorbell : Bool) : Reply :=
  if s.od .sliceMigrationId sl = 0 || s.od .sliceClearing sl = 1 then s.refuse rCondition
  else if (s.slice sl).bundle.isSome then s.refuse rBusy
  else
    let s := (s.onSlice sl fun q => { q with bundle := some ⟨true, false, 0, [], 0, doorbell⟩ }).setOd .sliceRestoreResult sl 1
    let addr := s.od .sliceBundleAddress sl
    match s.sliceReach (s.trafficPort sl) sl addr 64 with
    | (s, true) => (s.emit (.hostRead (s.trafficPort sl) addr 64 (s.slicePasidTag sl))).ok
    | (s, false) => (s.endRestore sl 10).ok

/-- Read the page records of a bundle from a byte offset on: the records and the offset after them. -/
def readPages (x : Nat) : Nat → Nat → List PageRec × Nat
  | 0, at_ => ([], at_)
  | n + 1, at_ =>
    let r := PageRec.decode (bits x (8 * at_) 256) 0
    let r := if r.kind = 1 then { r with data := bits x (8 * (at_ + 32)) 32768 } else r
    let q := readPages x n (at_ + r.size)
    (r :: q.1, q.2)

/-- A bundle as read. -/
structure BundleRead where
  head   : BundleHead
  keys   : Option (Nat × Nat × Nat)
  pages  : List PageRec
  grants : List (Nat × Nat)
  states : List (Nat × Nat)

/-- Take a bundle apart; none where its length does not agree with its counts (spec/10 R425, check 1). -/
def Part.readBundle (s : Part) (x len : Nat) : Option BundleRead :=
  let h := BundleHead.decode (x % 2 ^ 512)
  if h.length != len || len < bundleFixed || (len - bundleFixed) / 32 < h.pages then none else
  let p := readPages x h.pages bundleFixed
  let end_ := p.2 + 72 * h.grants
  let n := (len - end_) / 16
  if len < end_ || p.2 + 72 * h.grants + 16 * n != len || (!h.final && (h.grants != 0 || n != 0)) then none else
  some ⟨h, (kwpUnwrap (s.wrapKey h.wrap).key (toBytes 104 (bits x 512 832))).map keysOf, p.1,
    (List.range h.grants).map (fun k => let g := bits x (8 * (p.2 + 72 * k)) 576; (bits g 512 16, bits g 0 512)),
    (List.range n).map (fun k => let v := bits x (8 * (end_ + 16 * k)) 128; (bits v 56 8, bits v 64 64))⟩

/-- The slice holds a live key set. -/
def Part.hasKey (s : Part) (sl : Nat) : Bool := (s.keySet sl 0).live || (s.keySet sl 1).live

/-- Check 5 of spec/10 R425. A first bundle that ended with CAPACITY may be applied again to the key set it installed
(R427). -/
def Part.keysMatch (s : Part) (sl sequence : Nat) (k : Option (Nat × Nat × Nat)) : Bool :=
  match k with
  | none => false
  | some k =>
    let q := s.keySet sl (s.od .sliceKeyActive sl)
    let same := q.live && (q.data, q.tweak, q.mac) == k
    if sequence = 0 then (if s.hasKey sl then (s.slice sl).keyRestored && same else k.1 != k.2.1) else same

/-- Checks 2 to 6 of spec/10 R425: the reason of the first that fails. -/
def Part.bundleRefusal (s : Part) (sl x len : Nat) (b : BundleRead) : Option Nat :=
  let h := b.head
  let wrap := s.wrapKey h.wrap
  let q := s.slice sl
  if h.id != s.od .sliceMigrationId sl || h.id = 0 then some 5
  else if !wrap.live || bundleAuth wrap.key h.wrap (x % 2 ^ 512) (x >>> 512) (len - 64) != h.auth then some 6
  else if h.sequence != s.od .sliceBundleSequence sl || (h.sequence != 0 && h.serial != q.sourceSerial) || q.finalDone then some 13
  else if !s.keysMatch sl h.sequence b.keys then some 7
  else if b.pages.any (fun r => !s.granted sl (r.lpage / 512)) || b.grants.any (fun g =>
      (List.range 512).any fun k => g.2.testBit k && !s.granted sl (g.1 * 512 + k)) then some 8
  else none

/-- Store a page of a bundle (spec/10 R426, steps 2 to 4); none where no storage is to be had (R427). -/
def Part.restorePage (s : Part) (sl source : Nat) (r : PageRec) : Option Part :=
  match s.homeOf sl r.lpage with
  | none => some s
  | some p =>
    let lp := r.lpage
    let old := s.cell p sl lp
    let s := s.freePage p sl old
    let s := match s.boundPort sl with
      | some i => if old.poison then s.poisonDrop i (s.dpaOf i sl (lp * 4096)) 64 else s
      | none => s
    let v := r.version + 1
    let s := s.versionCheck sl v 4
    let zero : Cell := { s.blank sl lp with version := v }
    let s := s.commit p sl lp zero
    let poisoned (s : Part) : Part :=
      ((s.commit p sl lp { zero with poison := true, cause := r.cause }).poisonReport sl (lp * 4096) 64 r.cause).dirtyMark p sl lp
    if r.kind = 0 || r.kind = 3 then some s
    else if r.kind = 2 then some (poisoned s)
    else
      let slot := s.od .sliceKeyActive sl
      let k := s.keySet sl slot
      let page := ofBytes (xtsDecrypt k.data k.tweak (tweak source 2 lp) (toBytes 4096 r.data))
      let hot (s : Part) : Option Part := (s.frameFor p sl zero).map fun q =>
        let mt (n : Nat) : Nat := if r.poison.testBit n then metaPoison r.lineCause else 0
        let s := q.2.storePage p sl lp q.1 slot page v mt byMigration ownMigration 4
        let s := iter ((List.range 64).filter fun n => r.poison.testBit n) s fun s n =>
          s.poisonReport sl (lineAddress lp n) 1 r.lineCause
        (s.commit p sl lp { zero with tier := tierHot, keySel := slot, loc := q.1 }).heatFlag p sl lp tierHot
      if r.tier = tierHot || s.od .sliceFirstWriteTier sl = 0 then hot s
      else if r.poison != 0 then some (poisoned s)
      else
        let book := s.od .sliceCodebook sl
        let c := makeCask (s.lengths book) book (s.od .codebookGeneration book) (s.od .slicePageCode sl) page
        if zero.fixed && c.cls = 7 then hot s else
        let at_ := if zero.fixed then some (zero.loc, s) else s.takeSlot p sl c.cls true
        at_.map fun q =>
          let s := q.2.storeCask p sl lp q.1 slot v c byCodec ownCodec 4
          (s.commit p sl lp { zero with tier := tierWarm, slotClass := c.cls, keySel := slot, loc := q.1 }).heatFlag p sl lp tierWarm

/-- Store the pages of a bundle in order; whether all were stored. -/
def Part.restorePages (sl source : Nat) : List PageRec → Part → Part × Bool
  | [], s => (s, true)
  | r :: rest, s =>
    match s.restorePage sl source r with
    | some s => Part.restorePages sl source rest s
    | none => (s, false)

/-- Install the key set of the first bundle (spec/10 R426, step 1). -/
def Part.restoreKeys (s : Part) (sl sequence serial : Nat) (k : Option (Nat × Nat × Nat)) : Part :=
  if sequence != 0 then s else
  let s := s.onSlice sl fun q => { q with sourceSerial := serial, keyRestored := true }
  match k with
  | some k => if s.hasKey sl then s else (s.installSet sl 0 k).setOd .sliceKeyActive sl 0
  | none => s

/-- A RESTORE has succeeded (spec/10 R426): the sequence rises, the result reads DONE or FINAL. -/
def Part.restoreDone (s : Part) (sl : Nat) (final : Bool) : Part :=
  match (s.slice sl).bundle with
  | none => s
  | some b =>
    let s := s.onSlice sl fun q => { q with bundle := none, finalDone := q.finalDone || final }
    let s := ((s.modOd .sliceBundleSequence sl (· + 1)).setOd .sliceRestoreResult sl (if final then 3 else 2)).setOd .sliceBundleSize sl b.size
    s.endDoorbell sl b.doorbell 2

/-- The writes that the state records of a FINAL bundle make. -/
def stateWrites (sl : Nat) (recs : List (Nat × Nat)) : List Staged :=
  recs.filterMap fun r => (carriedEntries.find? fun e => e.info.sub == r.1).map fun e => ⟨e, sl, r.2⟩

/-- RESTORE_BUNDLE_READ (spec/10 R425, R426): the bundle's bytes have come. -/
def execRestoreBundleRead (sl : Slice) (bundle len : Nat) (s : State) : Host.Outcome State Fault Refusal :=
  s.run fun s =>
    match (s.slice sl).bundle with
    | none => s
    | some b =>
      if !b.restore || b.size != 0 then s else
      let h := BundleHead.decode (bundle % 2 ^ 512)
      if h.format != 1 || s.od .sliceBundleLen sl * 1024 < h.length then s.endRestore sl 4 else
      match s.sliceReach (s.trafficPort sl) sl (s.od .sliceBundleAddress sl) h.length with
      | (s, false) => s.endRestore sl 10
      | (s, true) =>
        match s.readBundle bundle len with
        | none => s.endRestore sl 4
        | some r =>
          match s.bundleRefusal sl bundle len r with
          | some reason => s.endRestore sl reason
          | none =>
            let s := s.restoreKeys sl h.sequence h.serial r.keys
            let s := s.onSlice sl fun q => { q with bundle := some { b with size := len } }
            match Part.restorePages sl h.slice r.pages s with
            | (s, false) => s.endRestore sl 9
            | (s, true) =>
              if !h.final then s.restoreDone sl false
              else s.ask ⟨0, stateWrites sl r.states, none, .restore sl, 0⟩

end Sys2Proof.Machine
end

