-- ==== Sys2Proof/Machine/Slices.lean ====
section
/-!
DEFINITION. Slices (spec/10 R396 to R415): SLICE_COMMAND and its state table, START, binding to a port, drains, RESET and
REMOVE, arming for migration, the doorbells of the tenant page.
-/

namespace Sys2Proof.Machine

/-! ## Binding and offers (spec/10 R402) -/

/-- Granted extents of a slice that no mask bit of its port maps. -/
def Part.unmappedExts (s : Part) (sl : Nat) : List Nat :=
  let i := s.od .slicePort sl
  (s.grantedExts sl).filter fun le => match s.dpaExt i sl le with
    | some x => !s.maskBit i x
    | none => true

/-- Offer the unmapped extents of a slice on its port, without a compile (spec/10 R402, step 3). -/
def Part.reoffer (s : Part) (sl : Nat) : Part :=
  let i := s.od .slicePort sl
  let exts := (s.unmappedExts sl).filter fun le => (s.dpaExt i sl le).isSome
  if 16 ≤ i || exts.isEmpty then s else s.offer i ⟨sl, 0, 0, [], [], 4⟩ exts

/-- A DPA region for a logical region: DC region 0 first, then 1 to 7 (spec/10 R402, step 2). -/
def Part.mapAnywhere (s : Part) (i sl region : Nat) : Option Part :=
  (List.range 8).findSome? fun dc => (s.mapRegion i sl region dc).map (·.2)

/-- Region-map entries on a new port for every region of a slice. -/
def Part.mapSlice (s : Part) (i sl : Nat) : List Nat → Option Part
  | [] => some s
  | r :: rest => (s.mapAnywhere i sl r).bind fun s => s.mapSlice i sl rest

/-- The old port gives up a slice (spec/10 R402, step 1): the record, the mask bits, the region-map entries. -/
def Part.unbind (s : Part) (i sl : Nat) : Part :=
  let mine := (s.port i).regionMap.filter fun e => bits e.2 16 12 == sl
  let mapped := (s.grantedExts sl).filter fun le => match s.dpaExt i sl le with
    | some x => s.maskBit i x
    | none => false
  let s := if mapped.isEmpty then s else s.dcRecords i 2 sl (runsOf mapped)
  iter mine s fun s e => s.unmapRegion i e.1

/-- The function of a slice is stopped (spec/11 R436). -/
def Part.sliceStopped (s : Part) (sl : Nat) : Bool := decide (s.od .sliceState sl ≤ 1) && s.od .sliceClearing sl == 0

/-- A write of SLICE_PORT (spec/10 R402). A slice with an operation in progress on its port keeps it (OPERATION_BUSY); a new
port without DPA regions for the slice's regions is refused. -/
def Part.slicePortWrite (s : Part) (w : Who) (sl v len : Nat) : Reply :=
  match writeChecks Entry.slicePort.info (s.roleOf w) v len (s.sliceStopped sl) with
  | some c => s.refuse c
  | none =>
    if s.od0 .partFailed = 1 then s.refuse rPartFailed else
    let old := s.od .slicePort sl
    let changed (s : Part) : Part := s.onSlice sl fun q => { q with changed := true }
    if v = old || s.od .sliceState sl = 0 then ((s.setOd .slicePort sl v)).ok
    else if old < 16 && (match (s.port old).dcOp with | some op => op.slice == sl | none => false) then s.refuse rBusy
    else
      let t := if old < 16 then s.unbind old sl else s
      let regions := (s.slice sl).grants.map (·.1)
      match if v < 16 then t.mapSlice v sl regions else some t with
      | none => s.refuse rCondition
      | some t => (changed ((t.setOd .slicePort sl v).onSlice sl fun q => { q with rebound := !regions.isEmpty })).ok

/-- SLICE_PORT_WRITE (spec/10 R402). -/
def execSlicePortWrite (w : Who) (sl : Slice) (value : BitVec 8) (s : State) : Host.Outcome State Fault Refusal :=
  s.run fun s => (s.slicePortWrite w sl value.toNat 1).answer w

/-! ## Arming (spec/10 R416) -/

/-- Disarm a slice: its dirty marks go. -/
def Part.disarm (s : Part) (sl : Nat) : Part :=
  let s := iter (s.dirtyExts sl) s fun s le => s.markExt sl le false
  (s.setOd .sliceMigrationId sl 0).onSlice sl fun q => { q with finalDone := false, sourceSerial := 0, keyRestored := false }

/-- A write of SLICE_MIGRATION_ID (spec/10 R416). -/
def Part.migrationIdWrite (s : Part) (w : Who) (sl v len : Nat) : Reply :=
  match writeChecks Entry.sliceMigrationId.info (s.roleOf w) v len true with
  | some c => s.refuse c
  | none =>
    if s.od0 .partFailed = 1 then s.refuse rPartFailed else
    let st := s.od .sliceState sl
    if st = 0 || st = 4 || s.od .rekeyState sl = 1 || s.sweepComing sl then s.refuse rCondition
    else if v = 0 then ((s.disarm sl).nextSweep sl).ok
    else
      let s := ((s.disarm sl).setOd .sliceMigrationId sl v).setOd .sliceBundleSequence sl 0
      (iter (s.grantedExts sl) s fun s le => s.markExt sl le true).ok

/-- SLICE_MIGRATION_ID_WRITE (spec/10 R416). -/
def execSliceMigrationIdWrite (w : Who) (sl : Slice) (value : U64) (s : State) : Host.Outcome State Fault Refusal :=
  s.run fun s => (s.migrationIdWrite w sl value.toNat 8).answer w

/-! ## Starting (spec/10 R397, R398) -/

/-- A port's dynamic-capacity operation is in progress. -/
def Part.dcBusy (s : Part) (sl : Nat) : Bool :=
  let i := s.od .slicePort sl
  decide (i < 16) && s.od .dcState i != 0

/-- The slice runs; a rebinding START offers its extents (spec/10 R402). -/
def Part.runSlice (s : Part) (sl : Nat) : Part :=
  let s := (s.setOd .sliceState sl 2).onSlice sl fun q => { q with changed := false }
  if (s.slice sl).rebound && !s.dcBusy sl then (s.reoffer sl).onSlice sl fun q => { q with rebound := false } else s

/-- The slice's active key set is live: its handle is reported, so every pavilion in service holds it (spec/04 R152). -/
def Part.keyHeld (s : Part) (sl : Nat) : Bool := s.od (handleEntry (s.od .sliceKeyActive sl)) sl != 0

/-- The conditions of START in their order. -/
def Part.startRefusal (s : Part) (sl : Nat) : Option Nat :=
  if s.od .sliceState sl != 1 then some rState
  else if !s.keyHeld sl || s.od .sliceClearing sl = 1 then some rCondition
  else if (s.slice sl).rebound && s.dcBusy sl then some rBusy
  else none

/-- A START of the slice waits for its compile. -/
def Part.starting (s : Part) (sl : Nat) : Bool :=
  s.vint.queue.any (fun a => a.goal = .start sl) || (match s.vint.running with | some a => a.goal = .start sl | none => false)

/-- START (spec/10 R398): with a full compile when settings have changed since the slice last ran. -/
def Part.startSlice (s : Part) (w : Who) (sl : Nat) : Reply :=
  match s.startRefusal sl with
  | some c => s.refuse c
  | none =>
    if s.starting sl then s.refuse rBusy
    else if (s.slice sl).changed then
      (s.ask ⟨0, [], some w, .start sl, 0⟩).later
    else (s.runSlice sl).ok

/-- The compile of a START is in force: the conditions are met still, or the START is refused. -/
def Part.startInForce (s : Part) (sl : Nat) : Reply :=
  match s.startRefusal sl with
  | some c => s.refuse c
  | none => (s.runSlice sl).ok

/-! ## Draining (spec/10 R409 to R413) -/

/-- Squash what of a slice stands at one port. -/
def Part.squashPort (sl : Nat) (s : Part) (i : Nat) : Part :=
  let q := s.part i sl
  let gone := q.forwarded.filter fun f => f.held && !f.sent || f.withheld
  let parked := (s.port i).park.filter (·.slice == sl)
  let reqs := q.queue ++ parked ++ q.hold.flatMap (fun h => if h.sent then h.reqs.tail else h.reqs) ++ gone.map (·.req)
  let s := if parked.isEmpty then s else
    let s := s.onPort i fun t => { t with park := t.park.filter (·.slice != sl) }
    (s.setOd .ingressParkedNow i (s.port i).park.length).returnCredits i
  let s := if reqs.isEmpty then s else s.onPart i sl fun q => { q with
    queue := [], hold := [], forwarded := q.forwarded.filter fun f => !(f.held && !f.sent || f.withheld) }
  let s := iter reqs s Part.squash
  if q.heldWrites = 0 then s else s.heldAlarm sl (portPav i)

/-- Squash what of a slice stands at its ports: queued, parked, held, marked held, and withheld (spec/10 R409). -/
def Part.squashIngress (s : Part) (sl : Nat) : Part := iter (List.range 16) s (Part.squashPort sl)

/-- Squash the reads of a slice that a channel withholds (spec/10 R409): they go back as squashed. -/
def Part.squashWithheld (s : Part) (sl : Nat) : Part :=
  iter (List.range 64) s fun s c =>
    iter ((s.chan c).withheld.filter fun q => q.owner == sl && !q.write) s fun s q =>
      match (s.pav (c / 8)).tasks.find? (fun t => t.id == q.task) with
      | none => s
      | some t => ((s.abortTask (c / 8) t).noteSquash sl t.msg.opcode
          (if t.msg.opcode = 2 then popCount 64 (t.msg.data % 2 ^ 64) else 64)).respond t.msg (if t.msg.opcode = 0 then 1 else 0) 0

/-- First writes that wait for a codec lane are squashed: none has reached a channel queue (spec/10 R409). -/
def Part.squashFirstWrites (s : Part) (sl : Nat) : Part :=
  iter allPavs s fun s p =>
    let mine (t : CodecTask) : Bool := t.slice == sl && t.use == .firstWrite
    let ts := (s.pav p).codecQ.filter mine
    if ts.isEmpty then s else
    let s := s.onPav p fun v => { v with codecQ := v.codecQ.filter fun t => !mine t }
    iter ts s fun s t =>
      let s := s.releasePage p sl t.lpage
      (s.noteSquash sl t.msg.opcode (if t.msg.opcode = 2 then popCount 64 (t.msg.data % 2 ^ 64) else 64)).respond t.msg 0 0

/-- What of a slice stands at one pavilion's engines leaves: its plan entries, its marks, the move of its region; what waits behind an
access comes to be served. -/
def Part.squashHome (sl : Nat) (s : Part) (p : Nat) : Part :=
  let s := s.onPav p fun v => { v with
    plan := v.plan.filter fun e => e.slice != sl
    refused := v.refused.filter fun r => r.2.1 != sl
    inbox := (v.behind.filter fun m => m.slice == sl) ++ v.inbox
    behind := v.behind.filter fun m => m.slice != sl }
  match (s.pav p).regionMove with
  | some r => if r.slice = sl then s.dropRegionMove p else s
  | none => s

/-- What RESET and REMOVE do to a slice's work at once (spec/10 R409); requests on their way are squashed where they arrive. -/
def Part.squashSlice (s : Part) (sl : Nat) : Part :=
  let s := ((s.squashIngress sl).squashWithheld sl).squashFirstWrites sl
  let s := iter allPavs s (Part.squashHome sl)
  if (s.slice sl).doorRun = 1 then s.onSlice sl fun q => { q with doorRun := 0, doorResult := 6 } else s

/-- A drain begins (spec/10 R409): 1 STOP, 2 FREEZE, 3 RESET, 4 REMOVE. -/
def Part.beginDrain (s : Part) (sl kind : Nat) : Part :=
  let s := (s.setOd .sliceState sl 4).setOd .sliceDrainKind sl kind
  let s := s.onSlice sl fun q => { q with drain := some ⟨kind, s.now, 0, false⟩ }
  let s := s.cancelBundle sl
  let s := if s.building && s.od0 .buildSourceSlice = sl then s.cancelBuild else s
  if 3 ≤ kind then s.squashSlice sl else s

/-- A request of the slice is outstanding at some ingress pavilion. -/
def Part.outstanding (s : Part) (sl : Nat) : Bool :=
  (List.range 16).any fun i =>
    let q := s.part i sl
    !q.queue.isEmpty || !q.forwarded.isEmpty || !q.hold.isEmpty || (s.port i).park.any (·.slice == sl)

/-- The end of a RESET (spec/10 R414, steps 1 and 2). -/
def Part.resetSlice (s : Part) (sl : Nat) : Part :=
  let s := (s.destroySet sl 0).destroySet sl 1
  let s := ((s.setOd .sliceState sl 1).setOd .sliceClearing sl 1).setOd .rekeyState sl 0
  (s.disarm sl).onSlice sl fun q => { q with rekeyWait := [] }

/-- The end of a REMOVE (spec/10 R415): the key sets, the record and the mapping on the port, the entries; the tallies stay
until the end of the minute (spec/12 R491). -/
def Part.removeSlice (s : Part) (sl : Nat) : Part :=
  let s := (s.destroySet sl 0).destroySet sl 1
  let i := s.od .slicePort sl
  let s := if 16 ≤ i then s else
    let s := match (s.port i).dcOp with
      | some op => if op.slice = sl then
          ((s.onPort i fun t => { t with dcOp := none }).setOd .dcState i 0).setOd .dcResult i 6 else s
      | none => s
    let xs := (s.grantedExts sl).filterMap (s.dpaExt i sl)
    (iter xs s fun s x => s.poisonForget i x).unbind i sl
  let s := s.disarm sl
  let s := s.onPort i fun t => { t with parts := t.parts.erase sl }
  let s := iter (Entry.all.filter fun e => e.info.func == .slice && !e.isTally) s fun s e => s.resetOd e sl
  (s.setOd .sliceClearing sl 1).onSlice sl fun q => { q with
    rebound := false, rekeyWait := [], doorTag := 0, doorOp := 0, doorResult := 0, doorRun := 0, changed := false
    minute := { q.minute with removed := true } }

/-- SLICE_DRAIN_END (spec/10 R410): nothing of the slice is outstanding. -/
def execSliceDrainEnd (sl : Slice) (s : State) : Host.Outcome State Fault Refusal :=
  s.run fun s =>
    match (s.slice sl).drain with
    | none => s
    | some d =>
      if s.outstanding sl then s else
      let us := (s.now - d.start) / 1000
      let s := s.onSlice sl fun q => { q with drain := none }
      let s := s.setOd .sliceLastDrain sl us
      let s := if d.squashed = 0 then s else s.logEv 0x1301 d.squashed d.kind (some sl.val)
      let s := s.logEv 0x1302 d.kind us (some sl.val)
      let s := if d.extended then s.logEv 0x1303 d.kind us (some sl.val) else s
      match d.kind with
      | 1 => s.setOd .sliceState sl 1
      | 2 => s.setOd .sliceState sl 3
      | 3 => s.resetSlice sl
      | _ => s.removeSlice sl

/-- The freeing of a slice's storage is complete (spec/10 R414, steps 3 and 4, R415). -/
def Part.sliceCleared (s : Part) (sl : Nat) : Part :=
    if s.od .sliceClearing sl != 1 then s
    else if s.od .sliceState sl != 0 then
      (iter (s.grantedExts sl) s fun s le => s.clearExtent sl le false).setOd .sliceClearing sl 0
    else
      let exts := s.grantedExts sl
      let s := iter exts s fun s le => s.releaseExtent sl le
      let s := (s.setOd .sliceClearing sl 0).onSlice sl fun q => { SliceState.zero with minute := q.minute, carry := q.carry }
      if exts.isEmpty then s else s.askCompile 0

/-! ## SLICE_COMMAND (spec/10 R397) -/

/-- CREATE: SLICE_PORT names a port whose pavilion is IN_SERVICE, and a removed slice's release is complete (R415). -/
def Part.createSlice (s : Part) (sl : Nat) : Reply :=
  let i := s.od .slicePort sl
  if 16 ≤ i || s.pstate (portPav i) != 1 || s.od .sliceClearing sl = 1 then s.refuse rCondition
  else ((s.setOd .sliceState sl 1).onSlice sl fun q => { q with
    created := true, changed := true, minute := { q.minute with sequence := 0, active := true, partMinute := true } }).ok

/-- A write of SLICE_COMMAND: 1 CREATE, 2 START, 3 STOP, 4 FREEZE, 5 THAW, 6 SAVE, 7 RESTORE, 8 RESET, 9 REMOVE, 10 CANCEL,
11 REOFFER. -/
def Part.sliceCommand (s : Part) (w : Who) (sl v : Nat) : Reply :=
  s.command w .sliceCommand v false fun s =>
    let st := s.od .sliceState sl
    let stops (s : Part) : Part := s.onSlice sl fun q => { q with changed := if st = 2 then false else q.changed }
    if st = 4 then s.refuse rDraining else
    match v with
    | 1 => if st = 0 then s.createSlice sl else s.refuse rState
    | 2 => s.startSlice w sl
    | 3 =>
      if st = 2 then ((stops s).beginDrain sl 1).ok
      else if st = 3 then ((s.setOd .sliceState sl 1)).ok
      else s.refuse rState
    | 4 =>
      if st != 2 then s.refuse rState
      else if s.od .sliceMigrationId sl != 0 && s.od .rekeyState sl != 0 then s.refuse rCondition
      else ((stops s).beginDrain sl 2).ok
    | 5 => if st = 3 then (s.setOd .sliceState sl 2).ok else s.refuse rState
    | 6 => if st = 2 || st = 3 then s.startSave sl false else s.refuse rState
    | 7 => if st = 1 then s.startRestore sl false else s.refuse rState
    | 8 => if st = 0 then s.refuse rState else ((stops s).beginDrain sl 3).ok
    | 9 => if st = 0 then s.refuse rState else ((stops s).beginDrain sl 4).ok
    | 10 =>
      let late := s.vint.shadow.isSome && (match s.vint.running with | some a => a.goal = .restore sl | none => false)
      if st = 0 then s.refuse rState else if late then s.refuse rBusy else (s.cancelBundle sl).ok
    | _ =>
      if st != 1 then s.refuse rState
      else if s.dcBusy sl then s.refuse rBusy
      else ((s.reoffer sl).onSlice sl fun q => { q with rebound := false }).ok

/-- SLICE_CREATE (spec/10 R397). -/
def execSliceCreate (w : Who) (sl : Slice) (s : State) : Host.Outcome State Fault Refusal :=
  s.run fun s => (s.sliceCommand w sl 1).answer w
/-- SLICE_START (spec/10 R398). -/
def execSliceStart (w : Who) (sl : Slice) (s : State) : Host.Outcome State Fault Refusal :=
  s.run fun s => (s.sliceCommand w sl 2).answer w
/-- SLICE_STOP (spec/10 R397). -/
def execSliceStop (w : Who) (sl : Slice) (s : State) : Host.Outcome State Fault Refusal :=
  s.run fun s => (s.sliceCommand w sl 3).answer w
/-- SLICE_FREEZE (spec/10 R397). -/
def execSliceFreeze (w : Who) (sl : Slice) (s : State) : Host.Outcome State Fault Refusal :=
  s.run fun s => (s.sliceCommand w sl 4).answer w
/-- SLICE_THAW (spec/10 R397). -/
def execSliceThaw (w : Who) (sl : Slice) (s : State) : Host.Outcome State Fault Refusal :=
  s.run fun s => (s.sliceCommand w sl 5).answer w
/-- SLICE_SAVE (spec/10 R421). -/
def execSliceSave (w : Who) (sl : Slice) (s : State) : Host.Outcome State Fault Refusal :=
  s.run fun s => (s.sliceCommand w sl 6).answer w
/-- SLICE_RESTORE (spec/10 R425). -/
def execSliceRestore (w : Who) (sl : Slice) (s : State) : Host.Outcome State Fault Refusal :=
  s.run fun s => (s.sliceCommand w sl 7).answer w
/-- SLICE_RESET (spec/10 R409). -/
def execSliceReset (w : Who) (sl : Slice) (s : State) : Host.Outcome State Fault Refusal :=
  s.run fun s => (s.sliceCommand w sl 8).answer w
/-- SLICE_REMOVE (spec/10 R409). -/
def execSliceRemove (w : Who) (sl : Slice) (s : State) : Host.Outcome State Fault Refusal :=
  s.run fun s => (s.sliceCommand w sl 9).answer w
/-- SLICE_CANCEL (spec/10 R424). -/
def execSliceCancel (w : Who) (sl : Slice) (s : State) : Host.Outcome State Fault Refusal :=
  s.run fun s => (s.sliceCommand w sl 10).answer w
/-- SLICE_REOFFER (spec/10 R402). -/
def execSliceReoffer (w : Who) (sl : Slice) (s : State) : Host.Outcome State Fault Refusal :=
  s.run fun s => (s.sliceCommand w sl 11).answer w

/-! ## Doorbells of the tenant page (spec/10 R406, R407) -/

/-- What a doorbell write carries (log entry 9): TAG, PASID, whether the request has a PASID prefix, whether it is 8 B wide. -/
structure DoorWrite where
  tag    : Nat
  pasid  : Nat
  prefixed : Bool
  wide   : Bool

/-- The fields of the operand of a doorbell command. -/
def DoorWrite.decode (x : BitVec 32) : DoorWrite := ⟨bits x.toNat 0 8, bits x.toNat 8 20, bit x.toNat 28, bit x.toNat 29⟩

/-- RESULT of a refused doorbell: 3 REFUSED_PASID, 4 REFUSED_OP, 5 BUSY; 0 for none. -/
def Part.doorRefusal (s : Part) (sl op : Nat) (d : DoorWrite) : Nat :=
  let st := s.od .sliceState sl
  let stateOk := if op = 3 then st == 1 else st == 2 || st == 3
  if !(d.prefixed && s.od .slicePasidEn sl == 1 && d.pasid == s.od .slicePasid sl) then 3
  else if !bit (s.od .sliceDoorbellOps sl) (op - 1) || !stateOk then 4
  else if (s.slice sl).doorRun != 0 then 5
  else 0

/-- A refused doorbell: counted, and logged with code 0x1306 at most once per millisecond per slice. -/
def Part.doorRefused (s : Part) (i sl op : Nat) : Part :=
  (s.count .sliceDoorbellsRefused sl).logLimited (0x13060000 + sl) nsPerMs 0x1306 op i (some sl) (portPav i)

/-- A doorbell write (spec/10 R407): dropped where the tenant page is not live (spec/09 R361). -/
def Part.doorbell (s : Part) (i sl op : Nat) (d : DoorWrite) (accept : Part → Reply) : Part :=
  if s.boundPort sl != some i then s
  else if !d.wide then s.doorRefused i sl op
  else
    let s := s.onSlice sl fun q => { q with doorTag := d.tag, doorOp := op }
    let result (s : Part) (r : Nat) : Part := s.onSlice sl fun q => { q with doorResult := r }
    match s.doorRefusal sl op d with
    | 0 =>
      let r := accept s
      match r.code with
      | some 0 => result r.part (if op != 1 && (r.part.slice sl).bundle.isNone then 6 else 1)
      | some c => (result s (if c = rBusy then 5 else 6)).doorRefused i sl op
      | none => result r.part 1
    | k + 1 => (result s (k + 1)).doorRefused i sl op

/-- Mark the doorbell that is now ACCEPTED. -/
def Part.doorOpen (s : Part) (sl op : Nat) : Part := s.onSlice sl fun q => { q with doorRun := op }

/-- TP_DOORBELL_COUNTER_DUMP (spec/10 R407, spec/12 R485). -/
def execTpDoorbellCounterDump (i : Port) (sl : Slice) (value : BitVec 32) (s : State) : Host.Outcome State Fault Refusal :=
  s.run fun s => s.doorbell i sl 1 (DoorWrite.decode value) fun s => (s.doorOpen sl 1).ok

/-- TP_DOORBELL_SAVE (spec/10 R407): as SLICE_COMMAND SAVE. -/
def execTpDoorbellSave (i : Port) (sl : Slice) (value : BitVec 32) (s : State) : Host.Outcome State Fault Refusal :=
  s.run fun s => s.doorbell i sl 2 (DoorWrite.decode value) fun s => (s.doorOpen sl 2).startSave sl true

/-- TP_DOORBELL_RESTORE (spec/10 R407): as SLICE_COMMAND RESTORE. -/
def execTpDoorbellRestore (i : Port) (sl : Slice) (value : BitVec 32) (s : State) : Host.Outcome State Fault Refusal :=
  s.run fun s => s.doorbell i sl 3 (DoorWrite.decode value) fun s => (s.doorOpen sl 3).startRestore sl true

end Sys2Proof.Machine
end

