-- ==== Sys2Proof/Machine/Ports.lean ====
section
/-!
DEFINITION. Host ports (spec/09): resets, bus-master windows, link training, D-states, decoders, link security, the data
objects of DOE.
-/

namespace Sys2Proof.Machine

/-! ## Bus mastering (spec/09 R358 to R360, R385, spec/12 R477) -/

/-- A ring lies whole in one enabled window without PASID (spec/12 R473). -/
def Part.ringInWindow (s : Part) (i r : Nat) : Bool :=
  match (s.port i).windowOf (s.ringBase i r) (4096 + 64 * s.ringUnits i r) with
  | some (_, w) => !w.pasidEn
  | none => false

/-- After a window has closed: the rings that lay in it are faulted, the bundle transfers into it end with WINDOW (spec/12 R477,
spec/10 R424). -/
def Part.windowsChanged (s : Part) (i : Nat) : Part :=
  let s := iter (List.range 3) s fun s r =>
    let g := (s.port i).rings.get Ring.zero r
    if g.enabled && !g.faulted && !s.ringInWindow i r then s.ringFault i r else s
  iter (s.boundTo i) s fun s sl =>
    match (s.slice sl).bundle with
    | none => s
    | some b =>
      let addr := s.od .sliceBundleAddress sl
      if covered (s.sliceWindows i sl) 17 addr (addr + max 64 b.size) || s.vint.running.any (fun a => a.goal = .restore sl)
        || s.vint.queue.any (fun a => a.goal = .restore sl) then s
      else if b.restore then s.endRestore sl 10 else s.endSave sl 5

/-- Bus mastering stops (spec/09 R385): each ring engine parks where it stands, bundle transfers are cancelled. -/
def Part.busMasterStop (s : Part) (i : Nat) : Part := iter (s.boundTo i) s fun s sl => s.cancelBundle sl

/-- Close every window of a port. -/
def Part.clearWindows (s : Part) (i : Nat) : Part := (s.onPort i fun t => { t with windows := [] }).windowsChanged i

/-- BUS_MASTER_ENABLE_CLEAR (spec/09 R385). -/
def execBusMasterEnableClear (i : Port) (s : State) : Host.Outcome State Fault Refusal :=
  s.run fun s => (s.onPort i fun t => { t with bme := false }).busMasterStop i

/-- Write a window register block (spec/09 R358, R359): BASE, LIMIT, PASID_EN and PASID are dropped while ENABLE is 1. -/
def Window.write (w : Window) (x : Nat) : Window :=
  if w.enable then { w with enable := bit x 159 }
  else ⟨bits x 12 52 * 4096, bits x 76 52 * 4096, bits x 128 20, bit x 157, bit x 159⟩

/-- BM_WINDOW_WRITE (spec/09 R359). -/
def execBmWindowWrite (i : Port) (k : Fin 16) (value : BitVec 256) (s : State) : Host.Outcome State Fault Refusal :=
  s.run fun s =>
    (s.onPort i fun t => { t with windows := t.windows.modify Window.zero k fun w => w.write value.toNat }).windowsChanged i

/-! ## Resets (spec/09 R383, R386) -/

/-- Requests of a port that it has not forwarded are dropped (spec/09 R383): queued, parked, held, marked held, withheld. A
dropped held write poisons nothing. -/
def Part.dropUnforwarded (s : Part) (i : Nat) : Part :=
  let t := s.port i
  let waiting (f : Fwd) : Bool := f.held && !f.sent || f.withheld
  let n := t.park.length + (t.parts.map fun e =>
    e.2.queue.length + (e.2.forwarded.filter waiting).length +
      (e.2.hold.map fun h => if h.sent then h.reqs.tail.length else h.reqs.length).sum).sum
  let gone := t.parts.flatMap fun e =>
    ((e.2.hold.filter fun h => !h.sent).map fun h => (e.1, h.lpage)) ++ ((e.2.forwarded.filter waiting).map fun f => (e.1, f.req.lpage))
  let s := s.onPort i fun t => { t with
    park := []
    parts := t.parts.map fun e => (e.1, { e.2 with queue := [], hold := [], forwarded := e.2.forwarded.filter fun f => !waiting f }) }
  let s := iter allPavs s fun s p => iter gone s fun s g => s.unmark p (portPav i) g.1 g.2
  let s := s.setOd .ingressParkedNow i 0
  let s := if n = 0 then s else s.count .portDroppedAtReset i n
  iter (gone.map (·.1)).eraseDups s fun s sl => s.heldAlarm sl (portPav i)

/-- Raise the epoch, uncommit the decoders, drop what is not forwarded: what a conventional reset and a CXL Reset share. -/
def Part.memReset (s : Part) (i : Nat) : Part :=
  ((s.modOd .portEpoch i (· + 1)).onPort i fun t => { t with decoders := [] }).dropUnforwarded i

/-- The port's link leaves service: speed, width and flit mode read 0, the link's credits are those of a new link. -/
def Part.linkLost (s : Part) (i state : Nat) : Part :=
  let st := s.od .portState i
  let was := st = 3 || st = 4 || st = 5
  let s := (((s.setOd .portLinkSpeed i 0).setOd .portLinkWidth i 0).setOd .portFlitMode i 0).setOd .portState i state
  let s := s.onPort i fun t => { t with heldReq := 512, heldDat := 512, owedReq := 0, owedDat := 0, inL1 := false }
  if was then (s.count .portLinkDowns i).logEv 0x1206 i (s.od .portEpoch i) none (portPav i) else s

/-- A conventional reset (spec/09 R383): PERST#, link down, link disable, hot reset. Sticky error bits and an insecure link
stay. -/
def Part.conventional (s : Part) (i state : Nat) : Part :=
  if s.od .portState i = 0 then s else
  let s := (s.memReset i).linkLost i state
  let s := ((s.onPort i fun t => { t with bme := false }).busMasterStop i).clearWindows i
  let s := s.onPort i fun t => { t with
    mboxVector := 0, mboxBusy := none, policy := [0, 0, 0, 0, 0], msixMask := 0, msixPending := 0, pmeEn := false, spdm := 0, bars := [] }
  let s := (s.setOd .portDState i 0).setOd .spdmSessions i 0
  if s.od .ideState i = 1 then (s.onPort i fun t => { t with ideKeys := 0 }).setOd .ideState i 0 else s

/-- A port is held in electrical idle (spec/01 R23 to R25): its link goes down and it reads DISABLED. -/
def Part.portIdle (s : Part) (i : Nat) : Part := s.conventional i 0

/-- The ports of a pavilion are held in electrical idle. -/
def Part.pavPortsIdle (s : Part) (p : Nat) : Part := (s.portIdle (2 * p)).portIdle (2 * p + 1)

/-- The ports of a pavilion in service may train again. -/
def Part.pavPortsOn (s : Part) (p : Nat) : Part :=
  iter [2 * p, 2 * p + 1] s fun s i =>
    if s.od .portState i = 0 then s.setOd .portState i (if (s.port i).perst then 1 else 2) else s

/-! ## Wake events (spec/13 R510, R511, R516) -/

/-- A wake event: during an entry it is latched for the next abort point (the first one is recorded); in REST it starts the
exit with CORE_EN; elsewhere it changes nothing. Sources: 1 HOST_LINK, 2 WAKE_FRAME, 3 I3C, 4 POWER_INPUT. -/
def Part.wakeEvent (s : Part) (source : Nat) : Part :=
  if s.rest.step.isSome then { s with rest := { s.rest with wake := some (s.rest.wake.getD source) } }
  else if s.rest.inRest && !s.rest.exiting then
    let s := (s.setOd .restLastWakeSource 0 source).setOd .packagePowerState 0 5
    ({ s with
      rest := { s.rest with exiting := true, exitAt := s.now, coreUp := false, restored := [] }
      power := { s.power with coreEn := true } }.setOd .bootState 0 15).emit (.pin 1 1)
  else s

/-- A PERST# edge while the part is in REST is latched for its port (spec/13 R516). -/
def Part.latchPerst (s : Part) (i : Nat) : Part :=
  { s with rest := { s.rest with perst := if s.rest.perst.contains i then s.rest.perst else s.rest.perst ++ [i] } }

/-- PERST_ASSERT (spec/09 R383): a HOST_LINK wake as well; in REST the reset acts at the exit (spec/13 R516). -/
def execPerstAssert (i : Port) (s : State) : Host.Outcome State Fault Refusal :=
  s.run fun s =>
    let s := s.onPort i fun t => { t with perst := true }
    if s.rest.inRest then (s.latchPerst i).wakeEvent 1 else (s.wakeEvent 1).conventional i 1

/-- PERST_DEASSERT (spec/09 R354): the port trains and is ready when its link is up; a HOST_LINK wake as well. -/
def execPerstDeassert (i : Port) (s : State) : Host.Outcome State Fault Refusal :=
  s.run fun s =>
    let s := (s.onPort i fun t => { t with perst := false })
    if s.rest.inRest then (s.latchPerst i).wakeEvent 1
    else
      let s := s.wakeEvent 1
      if s.od .portState i = 1 then s.setOd .portState i 2 else s

/-- PORT_LINK_DOWN (spec/09 R383, R386). -/
def execPortLinkDown (i : Port) (s : State) : Host.Outcome State Fault Refusal :=
  s.run fun s => s.conventional i 1

/-- PORT_HOT_RESET (spec/09 R383): the link trains again. -/
def execPortHotReset (i : Port) (s : State) : Host.Outcome State Fault Refusal :=
  s.run fun s => s.conventional i 2

/-- PORT_LINK_DISABLE (spec/09 R383). -/
def execPortLinkDisable (i : Port) (s : State) : Host.Outcome State Fault Refusal :=
  s.run fun s => s.conventional i 1

/-- CXL_RESET (spec/09 R383). -/
def execCxlReset (i : Port) (s : State) : Host.Outcome State Fault Refusal :=
  s.run fun s => if s.od .portState i = 0 then s else s.memReset i

/-- FUNCTION_LEVEL_RESET (spec/09 R383, R384): a VOP frame that has reached the gatehouse still executes; the result of a
mailbox command that runs is lost. -/
def execFunctionLevelReset (i : Port) (s : State) : Host.Outcome State Fault Refusal :=
  s.run fun s =>
    if s.od .portState i = 0 then s else
    let s := s.count .flrCount i
    let s := ((s.onPort i fun t => { t with bme := false }).busMasterStop i).clearWindows i
    s.onPort i fun t => { t with mboxVector := 0, mboxBusy := none, msixMask := 0, msixPending := 0, bars := [] }

/-! ## Link training and states (spec/09 R339, R340, R387) -/

/-- The highest of some steps that is at most two bounds; 0 where none is. -/
def stepDown (steps : List Nat) (a b : Nat) : Nat := (steps.filter fun v => decide (v ≤ a) && decide (v ≤ b)).foldl max 0

/-- PORT_LINK_TRAINED (spec/09 R339, R340, R387): the highest rate and widest width that host and limits allow; without 256 B
flits 68 B flits at 32 GT/s at most. -/
def execPortLinkTrained (i : Port) (speed width : Nat) (flit256 : Bool) (s : State) : Host.Outcome State Fault Refusal :=
  s.run fun s =>
    let st := s.od .portState i
    if (st != 1 && st != 2) || (s.port i).perst then s else
    let v := stepDown [8, 16, 32, 64] (if flit256 then speed else min speed 32) (s.od .portSpeedLimit i)
    let n := stepDown [4, 8, 16] width (s.od .portWidthLimit i)
    if v = 0 || n = 0 then s else
    let s := ((s.setOd .portLinkSpeed i v).setOd .portLinkWidth i n).setOd .portFlitMode i (if flit256 then 2 else 1)
    (s.wakePav (portPav i)).setOd .portState i (if s.od0 .bootState < 7 then 3 else 4)

/-- ASPM_L1_TRANSITION (spec/13 R502): the link enters or leaves L1; the port reads LOW_POWER in it. -/
def execAspmL1Transition (i : Port) (enter : Bool) (s : State) : Host.Outcome State Fault Refusal :=
  s.run fun s =>
    let st := s.od .portState i
    if enter && st = 4 then (s.onPort i fun t => { t with inL1 := true }).setOd .portState i 5
    else if !enter && st = 5 then ((s.wakePav (portPav i)).onPort i fun t => { t with inL1 := false }).setOd .portState i 4
    else s

/-! ## Decoders (spec/09 R339, R348) -/

/-- What the host commits is a decoder of the kinds that R339 supports. -/
def Decoder.valid (d : Decoder) : Bool :=
  [1, 2, 3, 4, 6, 8, 12, 16].contains d.ways && [256, 512, 1024, 2048, 4096, 8192, 16384].contains d.granularity &&
    decide (d.position < d.ways) && d.size != 0

/-- HDM_DECODER_COMMIT (spec/09 R348): a decoder of no supported kind does not commit. -/
def execHdmDecoderCommit (i : Port) (k : Fin 8) (commit : Bool) (base size : U64) (ways granularity position : Nat) (skip : U64)
    (s : State) : Host.Outcome State Fault Refusal :=
  s.run fun s =>
    let d : Decoder := ⟨true, base.toNat, size.toNat, ways, granularity, position, skip.toNat⟩
    if !commit then s.onPort i fun t => { t with decoders := t.decoders.set Decoder.zero k Decoder.zero }
    else if d.valid then s.onPort i fun t => { t with decoders := t.decoders.set Decoder.zero k d }
    else s

/-! ## Errors of device-mastered reads (spec/09 R390, spec/12 R477) -/

/-- COMPLETION_TIMEOUT (spec/09 R390): Completion Timeout is raised; engine 0 to 2 is a ring, whose read of CONSUMER faults it;
3 is a bundle read, whose RESTORE ends with WINDOW. -/
def execCompletionTimeout (i : Port) (engine : Fin 4) (s : State) : Host.Outcome State Fault Refusal :=
  s.run fun s =>
    let s := s.modOd .aerUeStatus i fun v => setBit v 14 true
    if engine.val < 3 then
      let g := (s.port i).rings.get Ring.zero engine
      if g.enabled && !g.faulted then s.ringFault i engine else s
    else iter (s.boundTo i) s fun s sl =>
      match (s.slice sl).bundle with
      | some b => if b.restore && b.size = 0 then s.endRestore sl 10 else s
      | none => s

/-! ## Link security and DOE (spec/09 R392 to R394) -/

/-- IDE_MAC_FAILURE (spec/09 R393): the failing epoch's messages that are not forwarded are dropped with the link, which goes
down; the port is INSECURE. -/
def execIdeMacFailure (i : Port) (s : State) : Host.Outcome State Fault Refusal :=
  s.run fun s =>
    if s.od .ideState i != 1 then s else
    let s := (s.modOd .rasUeStatus i fun v => setBit v 16 true).count .ideFailures i
    let s := ((s.setOd .ideState i 2).onPort i fun t => { t with ideKeys := 0 })
    let s := (s.vendorEvent i logFailure 0x1205 none (portPav i) ones64 ones64 i 0).logEv 0x1205 i 0 none (portPav i)
    s.conventional i 1

/-- A secured session of the port is open. -/
def Part.spdmOpen (s : Part) (i : Nat) (k : Nat) : Bool := bit (s.port i).spdm k

/-- IDE_KM_REQUEST (spec/09 R392): keys set in a secured session put link IDE in force. -/
def execIdeKmRequest (i : Port) (session : Fin 2) (keys : Nat) (s : State) : Host.Outcome State Fault Refusal :=
  s.run fun s =>
    if !s.spdmOpen i session then s.emit (.doe i 3 [1])
    else (((s.onPort i fun t => { t with ideKeys := keys }).setOd .ideState i 1)).emit (.doe i 3 [0])

/-- DOE_DISCOVERY (spec/09 R394): vendor, data object protocol and next index of the four protocols that R394 names. -/
def execDoeDiscovery (i : Port) (index : Nat) (s : State) : Host.Outcome State Fault Refusal :=
  s.run fun s => s.emit (.doe i 0 ([[0x0001, 0, 1], [0x0001, 1, 2], [0x0001, 2, 3], [0x1E98, 2, 0]].getD index [0xFFFF, 0xFF, 0]))

/-- CDAT_READ (spec/09 R345, R354): entries 0 to 7 the DSMAS of each DC region (handle, base, length), then the DSLBIS of read
latency and write latency in ns and of read and write bandwidth in GB/s. -/
def execCdatRead (i : Port) (entry : Nat) (s : State) : Host.Outcome State Fault Refusal :=
  s.run fun s => s.emit (.doe i 2 (
    if entry < 8 then [0, entry, entry * 2 ^ 45, 2 ^ 45]
    else [[1, 1, 90], [1, 2, 57], [1, 4, 120], [1, 5, 120]].getD (entry - 8) []))

/-! ## Power states of a port (spec/09 R388, R389) -/

/-- Interrupts kept pending go out when MSI-X allows them again. -/
def Part.flushMsix (s : Part) (i : Nat) : Part :=
  let p := (s.port i).msixPending
  let s := s.onPort i fun t => { t with msixPending := 0 }
  iter ((List.range 32).filter fun v => bit p v) s fun s v => s.msix i v

end Sys2Proof.Machine
end

