-- ==== Sys2Proof/Machine/Pavilions.lean ====
section
/-!
DEFINITION. Pavilions entering and leaving service (spec/01 R22 to R29, R44 to R51): the state table, what a failure does to
requests, pages and mirrors, the failing of the part, the loss of pavilion 0; links that fail for good (spec/08 R327, R334); the
commit of region moves.
-/

namespace Sys2Proof.Machine

/-! ## A REST attempt ends (spec/13 R509) -/

/-- PACKAGE_POWER_STATE outside REST: IDLE when every pavilion in service is (spec/13 R505). -/
def Part.packageNow (s : Part) : Nat :=
  if !s.serving.isEmpty && s.serving.all fun p => s.od .pavilionPowerState p == 1 then 2 else 1

/-- A channel leaves self-refresh (spec/06 R263): the DIMM clock runs again, an all-bank refresh, ZQ calibration. -/
def Part.leaveSelfRefresh (s : Part) (c : Nat) : Part :=
  let s := iter ((List.range 4).filter (s.rankRuns c)) s fun s r => s.refreshAll c r
  (s.onChan c fun v => { v with dimmClock := true, zqRuns := v.zqRuns + 1 }).setOd .channelState c 2

/-- The agents that agreed restart, the newest first (spec/13 R509): pavilions with their root PLLs, channels out of
self-refresh with a quick retrain of every rank (spec/06 R263); the others go on where they parked. -/
def Part.restRestart (s : Part) : Part :=
  let s := iter s.rest.agreed s fun s a =>
    let n := a % 256
    if a / 256 % 256 = 6 && s.od .pavilionPowerState n = 3 then
      (s.setOd .pllLocked n 1).setOd .pavilionPowerState n (if s.pstate n = 2 then 2 else a / 65536)
    else if a / 256 = 5 && s.od .channelState n = 3 && s.pstate (n / 8) != 2 then (s.leaveSelfRefresh n).startRetrain n
    else s
  { s with rest := { s.rest with step := none, agreed := [], wake := none } }

/-- An agent refuses REST, or a pavilion fails during the attempt (spec/13 R509): the agents that agreed resume where they
parked. -/
def Part.restRefuse (s : Part) (code reason : Nat) : Part :=
  let kind := code / 256
  let s := (s.count .restRefusals 0).modOd .restRefusalsByKind 0 fun v => setBits v (32 * kind) 32 (bits v (32 * kind) 32 + 1)
  let s := (s.setOd .restLastRefuser 0 code).setOd .restLastRefusalReason 0 reason
  let s := s.restRestart
  (s.setOd .packagePowerState 0 s.packageNow).logEv 0x1602 code reason

/-! ## Branches and the part's failure (spec/01 R23, spec/14 R540, R542) -/

/-- A branch is turned off; TRIPPED stays until the next cold boot (spec/14 R541). -/
def Part.branchDown (s : Part) (b : Nat) : Part :=
  let s := { s with power := { s.power with branchQ := s.power.branchQ.filter (· != b), limiting := s.power.limiting.filter (· != b + 1) } }
  if s.od .branchState b = 4 then s else s.setOd .branchState b 0

/-- Both branches of a pavilion are turned off (spec/14 R540). -/
def Part.pavBranchesDown (s : Part) (p : Nat) : Part := (s.branchDown (2 * p)).branchDown (2 * p + 1)

/-- Every host port goes to electrical idle and every DIMM branch off. -/
def Part.darken (s : Part) : Part :=
  let s := iter (List.range 16) s Part.portIdle
  iter (List.range 16) s Part.branchDown

/-- The part fails (spec/01 R23); only a cold power cycle ends it. -/
def Part.failPart (s : Part) (cause : Nat) : Part :=
  if s.od0 .partFailed = 1 then s else ((s.setOd .partFailed 0 1).setOd .partFailCause 0 cause).darken

/-- A pavilion has left service: fewer than two in service fail the part (spec/01 R23). -/
def Part.checkService (s : Part) : Part := if s.serving.length < 2 then s.failPart 1 else s

/-- Pavilion 0 is declared lost (spec/01 R24): branches off, ports in electrical idle, the management port down. -/
def Part.losePavilion0 (s : Part) : Part :=
  if s.boot.pav0Lost then s else
  ({ s with boot := { s.boot with pav0Lost := true } }.setOd .mgmtLinkState 0 0).darken

/-! ## Vintages that a failure overtakes (spec/07 R624) -/

/-- A vintage in the shadow bank is discarded before its swap: check 2 fails, once, and a forced compile takes its writes. -/
def Part.discardVintage (s : Part) (p : Nat) : Part :=
  if s.vint.shadow.isNone || !s.vint.swapping.isEmpty then s else
  let ask : CompileAsk := match s.vint.running with
    | some a => { a with kind := 1 }
    | none => ⟨1, [], none, .plain, 0⟩
  let s := { s with vint := { s.vint with
    shadow := none, checking := false, armed := false, running := none, queue := ask :: s.vint.queue } }
  (s.count .vintageCheckerRejects 0).logEv 0x1001 2 p none p

/-- A pavilion no longer takes part in a swap. -/
def Part.leaveSwap (s : Part) (p : Nat) : Part :=
  if !s.vint.swapping.contains p then s else
  let l := s.vint.swapping.filter (· != p)
  { s with vint := { s.vint with swapping := l, shadow := if l.isEmpty then none else s.vint.shadow } }

/-! ## Requests, pages and mirrors of a failed pavilion (spec/01 R51) -/

/-- The requests that await a response of a failed home complete: a read receives poison, a write completes; writes held for
it complete in the same way, and the requests behind them go on. -/
def Part.completeAt (s : Part) (home : Nat) : Part :=
  iter (List.range 16) s fun s i =>
    iter (s.port i).parts s fun s e =>
      let sl := e.1
      let fs := e.2.forwarded.filter fun f => f.home == home
      let s := s.onPart i sl fun q => { q with forwarded := q.forwarded.filter fun f => f.home != home }
      let s := iter fs s fun s f =>
        if s.stale i f then s
        else if f.req.kind = .read then (s.count .slicePoisonReads sl).answerHost f.req onesLine true
        else s.answerHost f.req 0 false
      let hs := e.2.hold.filter fun h => h.home == home
      let s := s.onPart i sl fun q => { q with
        hold := q.hold.filter fun h => h.home != home
        queue := (hs.flatMap fun h => h.reqs.tail) ++ q.queue }
      let s := iter hs s fun s h => if h.sent then s else iter (h.reqs.take 1) s fun s r => s.answerHost r 0 false
      if fs.isEmpty && hs.isEmpty then s else (s.heldAlarm sl home).unpark i sl

/-- Writes that wait for a mirror copy that is gone complete with the home's copy alone (spec/02 R60). -/
def Part.settleWaits (s : Part) (home sl region : Nat) : Part :=
  let mine (w : MirrorWait) : Bool := w.key / 2 ^ 34 == sl && w.key % 2 ^ 34 / 262144 == region
  let ws := (s.pav home).mirrorWait.filter mine
  let s := s.onPav home fun v => { v with mirrorWait := v.mirrorWait.filter fun w => !mine w }
  iter ws s fun s w => s.commitDone home sl (w.key % 2 ^ 34) w.answer w.old

/-- Regions mirrored on a pavilion that leaves the state IN_SERVICE have one copy until a MIRROR entry commits (spec/02
R59). -/
def Part.loseMirrors (s : Part) (q : Nat) : Part :=
  iter s.vint.inForce.place s fun s e =>
    let v := e.2
    if !placeValid v || placeSingle v || placeMirror v != q || placeHome v = q then s else
    let sl := e.1 / 65536
    let region := e.1 % 65536
    let s := s.dropMirror q sl region
    let s := s.setPlace sl region (mkPlace (placeHome v) q true (placeMoving v) (placeDest v))
    s.settleWaits (placeHome v) sl region

/-- The entry of a page poisoned with its pavilion (spec/02 R57): no storage, its first cause kept. -/
def Cell.failed (c : Cell) : Cell :=
  { c with tier := tierZero, slotClass := 0, poison := true, cause := if c.poison then c.cause else 3, moving := false, fixed := false, loc := 0 }

/-- The pages of a failed pavilion's region are poisoned through the mirror copy, and reported by extent (spec/01 R51, spec/09
R372). -/
def Part.poisonRegion (s : Part) (p sl region v : Nat) : Part :=
  let exts := s.regionExts sl region
  let q := placeMirror v
  let two := !placeSingle v
  let pages := exts.flatMap fun le => (List.range 512).map fun k => le * 512 + k
  let old (lp : Nat) : Cell := if two then s.mirrorCell q sl lp else s.cell p sl lp
  let cells := pages.map fun lp => (lp, old lp)
  let s := s.onSlice sl fun t => { t with fixed := t.fixed.eraseRange (region * 512) (region * 512 + 512) }
  let s := if two then
      s.onPav q fun w => { w with mirror := cells.foldl (fun m c => m.put (pageKey sl c.1) c.2.failed) (dropRegion sl region w.mirror) }
    else s
  let s := s.count .slicePoisonEvents sl (cells.filter fun c => !c.2.poison).length
  match s.boundPort sl with
  | none => s
  | some i => iter exts s fun s le =>
      let d := s.dpaOf i sl (le * 2 ^ 21)
      (s.eventRec i logFailure ⟨1, 0, 0, 0, sl, 3, 0xF, le * 2 ^ 21, d, 32768, 0⟩).poisonAdd i ⟨d, 32768⟩

/-- The regions homed on a pavilion, as keys with their placement entries. -/
def Part.regionsHomed (s : Part) (p : Nat) : Sparse Nat :=
  s.vint.inForce.place.filter fun e => placeValid e.2 && placeHome e.2 == p

/-- Region moves with an end on a pavilion that leaves end without their commit. -/
def Part.dropMovesOf (s : Part) (p : Nat) : Part :=
  iter allPavs s fun s a =>
    match (s.pav a).regionMove with
    | some r => if a = p || r.dest = p then s.dropRegionMove a else s
    | none => s

/-- What a pavilion held is gone: its casks and lines no longer count, every structure stands at its reset value but the
address table and the watch list. -/
def Part.losePavState (s : Part) (p : Nat) : Part :=
  let s := iter (s.pav p).cellar s fun s e => s.freePage p (e.1 / 2 ^ 34) e.2
  let s := iter (s.pav p).casks s fun s e => s.dropCask p (s.ownOf p (extOf e.1)).owner e.1
  let away := (s.pav p).keyInvalid
  let lost := (s.regionsHomed p).map (·.1)
  let s := s.onPav p fun v => { PavState.zero with ceTable := v.ceTable, watch := v.watch, nextTag := v.nextTag, lost := lost }
  iter away s fun s ix => s.keyLoaded p ix

/-- The channels of a pavilion take a state; absent ones stay so. -/
def Part.pavChannels (s : Part) (p st : Nat) : Part :=
  iter (List.range 8) s fun s k => if s.od .channelState (p * 8 + k) = 0 then s else s.setOd .channelState (p * 8 + k) st

/-- Requests that a failed pavilion's own ports had forwarded are forgotten with it. -/
def Part.forgetPorts (s : Part) (p : Nat) : Part :=
  iter [2 * p, 2 * p + 1] s fun s i =>
    (s.onPort i fun t => { t with parts := t.parts.map fun e => (e.1, { e.2 with queue := [], forwarded := [], hold := [] }), park := [] }).setOd
      .ingressParkedNow i 0

/-! ## RETIRED (spec/01 R26, R28) -/

/-- A region that a pavilion homed when it failed still has a granted extent. -/
def Part.lostLeft (s : Part) (p : Nat) : Bool :=
  (s.pav p).lost.any fun k => (s.slice (k / 65536)).grants.get 0 (k % 65536) != 0

/-- An automatic RETIRE that waited for another pavilion's retirement (spec/15 R565). -/
def Part.retireNext (s : Part) : Part :=
  if s.od0 .wearRetirePolicy != 1 then s else
  iter (allPavs.filter (· != 0)) s fun s p =>
    if s.pstate p = 1 && (s.od .dramLayers p < s.od0 .pavilionMinLayers || s.od .pavilionWorn p = 1) then s.autoRetire p else s

/-- A pavilion becomes RETIRED: kept in the wear record, branches off, links DISABLED, ports idle; a forced compile follows
(spec/07 R293). -/
def Part.retired (s : Part) (p : Nat) : Part :=
  let was := s.inService p
  let s := { s with flash := { s.flash with retired := setBit s.flash.retired p true } }
  let s := ((s.setOd .pavilionState p 4).setOd .pavilionPowerState p 2).pavPortsIdle p
  let s := if was then ((s.loseMirrors p).losePavState p).disableLinks p else s
  let s := ((s.pavChannels p 4).pavBranchesDown p).onPav p fun v => { v with lost := [] }
  let s := if s.boot.active then (s.leaveSwap p).askCompile 1 else s
  (if was then s.checkService else s).retireNext

/-- RETIRING with every homed region moved or withdrawn, and FAILED with every region re-homed and its extents withdrawn, become
RETIRED (spec/01 R26); one that homed nothing, at once (spec/95, PAVILION_RETIRED). -/
def Part.retireIfEmpty (s : Part) (p : Nat) : Part :=
  if !(s.regionsHomed p).isEmpty then s
  else if s.pstate p = 3 then s.retired p
  else if s.pstate p = 5 && p != 0 && !s.lostLeft p then s.retired p
  else s

/-- The pavilions that may have become RETIRED. -/
def Part.retireEmpty (s : Part) : Part := iter allPavs s Part.retireIfEmpty

/-- The retirements that the ladder issued take the effects of RETIRE (spec/01 R26): power, ports and channels of a pavilion
that was STOPPED, mirrors, and RETIRED at once where nothing is homed. -/
def Part.settleRetiring (s : Part) : Part :=
  let l := s.season.retiring
  let s := { s with season := { s.season with retiring := [] } }
  iter l s fun s k =>
    let p := k / 2
    if s.pstate p != 3 then s else
    let s := s.setOd .pavilionPowerState p 0
    let s := if k % 2 = 1 then (s.pavPortsOn p).pavChannels p 2 else s
    (s.loseMirrors p).retireIfEmpty p

/-! ## FAILED (spec/01 R26, R51) -/

/-- A pavilion other than 0 enters FAILED. -/
def Part.failOther (s : Part) (p cause : Nat) : Part :=
  let was := s.inService p
  let s := if s.rest.step.isSome then s.restRefuse (6 * 256 + p) 14 else s
  let s := s.dropMovesOf p
  let s := ((s.setOd .pavilionState p 5).setOd .pavilionCause p cause).setOd .pavilionPowerState p 2
  let s := ((s.pavPortsIdle p).forgetPorts p).completeAt p
  let s := s.loseMirrors p
  let s := iter (s.regionsHomed p) s fun s e => s.poisonRegion p (e.1 / 65536) (e.1 % 65536) e.2
  let s := ((s.losePavState p).disableLinks p).pavChannels p 4
  let s := s.pavBranchesDown p
  let s := if s.boot.active then ((s.leaveSwap p).discardVintage p).askCompile 1 else s
  let s := if was then s.checkService else s
  s.retireIfEmpty p

/-- Pavilion 0 enters FAILED: its ports and links stop; the rest of the part follows when the always-on domain declares it lost
(spec/01 R24). -/
def Part.failZero (s : Part) (cause : Nat) : Part :=
  let s := ((s.setOd .pavilionState 0 5).setOd .pavilionCause 0 cause).setOd .pavilionPowerState 0 2
  (((s.pavPortsIdle 0).forgetPorts 0).completeAt 0).disableLinks 0

/-- An uncorrectable fault of a pavilion that is STARTING, IN_SERVICE, STOPPED or RETIRING (spec/01 R26). -/
def Part.failPavilion (s : Part) (p cause : Nat) : Part :=
  if 4 ≤ s.pstate p then s else if p = 0 then s.failZero cause else s.failOther p cause

/-- The gatehouse of pavilion 0 runs. -/
def Part.gateAlive (s : Part) : Bool := s.pstate 0 != 5 && !s.boot.pav0Lost

/-! ## PAVILION_COMMAND (spec/01 R26 to R29, spec/15 R565) -/

/-- Load every live key set again into a pavilion's cache. -/
def Part.reloadKeys (s : Part) (p : Nat) : Part :=
  iter (s.keys.sets.filter fun e => e.2.live) s fun s e =>
    (s.onPav p fun v => { v with keyInvalid := if v.keyInvalid.contains e.1 then v.keyInvalid else v.keyInvalid ++ [e.1] }).send 0 11
      { Msg.zero with cls := clsManagement, opcode := 12, src := 0, dst := p, units := 4, addr := e.1 }

/-- A slice that is RUNNING, FROZEN or DRAINING is bound to a port of a pavilion. -/
def Part.portsBusy (s : Part) (p : Nat) : Bool :=
  [2 * p, 2 * p + 1].any fun i => (s.boundTo i).any fun sl => 2 ≤ s.od .sliceState sl

/-- A write of PAVILION_COMMAND: 1 STOP, 2 START, 3 RETIRE, 4 RETURN (spec/01 R26, R29). -/
def Part.pavilionCommand (s : Part) (w : Who) (p v : Nat) : Reply :=
  s.command w .pavilionCommand v (v == 4) fun s =>
    let st := s.pstate p
    match v with
    | 1 =>
      if st != 1 then s.refuse rState
      else if p = 0 || !(s.regionsHomed p).isEmpty || s.portsBusy p then s.refuse rCondition
      else
        let s := ((s.setOd .pavilionState p 2).setOd .pavilionCause p 1).setOd .pavilionPowerState p 2
        let s := ((s.pavPortsIdle p).loseMirrors p).pavChannels p 3
        (((s.leaveSwap p).askCompile 0).checkService).ok
    | 2 =>
      if st != 2 then s.refuse rState else
      let s := ((s.setOd .pavilionState p 1).setOd .pavilionCause p 0).setOd .pavilionPowerState p 0
      ((((s.pavPortsOn p).pavChannels p 2).reloadKeys p).askCompile 0).ok
    | 3 =>
      if st != 1 && st != 2 then s.refuse rState
      else if allPavs.any fun q => s.pstate q == 3 then s.refuse rBusy
      else if p = 0 || (s.inServiceState.filter (· != p)).length < 2 then s.refuse rCondition
      else
        let s := ((s.setOd .pavilionState p 3).setOd .pavilionCause p 1).setOd .pavilionPowerState p 0
        let s := if st = 2 then (s.pavPortsOn p).pavChannels p 2 else s
        (((s.loseMirrors p).askCompile 0).retireIfEmpty p).ok
    | _ =>
      if st != 4 then s.refuse rState else
      ({ s with flash := { s.flash with retired := setBit s.flash.retired p false } }.setOd .pavilionReturnPending p 1).ok

/-- PAVILION_STOP (spec/01 R26, R27). -/
def execPavilionStop (w : Who) (p : Pav) (s : State) : Host.Outcome State Fault Refusal :=
  s.run fun s => (s.pavilionCommand w p 1).answer w

/-- PAVILION_START (spec/01 R26). -/
def execPavilionStart (w : Who) (p : Pav) (s : State) : Host.Outcome State Fault Refusal :=
  s.run fun s => (s.pavilionCommand w p 2).answer w

/-- PAVILION_RETIRE (spec/01 R26, spec/15 R565). -/
def execPavilionRetire (w : Who) (p : Pav) (s : State) : Host.Outcome State Fault Refusal :=
  s.run fun s => (s.pavilionCommand w p 3).answer w

/-- PAVILION_RETURN (spec/01 R29). -/
def execPavilionReturn (w : Who) (p : Pav) (s : State) : Host.Outcome State Fault Refusal :=
  s.run fun s => (s.pavilionCommand w p 4).answer w

/-! ## Faults (spec/01 R24, R26, spec/13 R499) -/

/-- GATEHOUSE_HEARTBEAT (spec/01 R24). -/
def execGatehouseHeartbeat (s : State) : Host.Outcome State Fault Refusal :=
  s.run fun s => if s.gateAlive then { s with boot := { s.boot with heartbeat := s.now + 1 } } else s

/-- HEARTBEAT_TIMEOUT (spec/01 R24, spec/00 R13): no heartbeat for 80 ms, nor one now; the gatehouse's clocks stop in REST, where none is due. -/
def execHeartbeatTimeout (s : State) : Host.Outcome State Fault Refusal :=
  s.run fun s => if s.rest.inRest || s.boot.heartbeat = s.now + 1 then s else s.losePavilion0

/-- AON_PLL_LOCK_LOSS (spec/01 R24, spec/13 R499). -/
def execAonPllLockLoss (s : State) : Host.Outcome State Fault Refusal :=
  s.run fun s => (s.setOd .aonPllLocked 0 0).losePavilion0

/-! ## Links that fail (spec/08 R327, R334) -/

/-- Take out the pavilions without a path, one after the other: each may leave others without one. -/
def Part.losePathless : Nat → Part → Nat → Part
  | 0, s, _ => s
  | fuel + 1, s, n =>
    match s.pathless with
    | [] => s
    | p :: _ => ((s.logEv 0x1105 p n none p).failPavilion p (if s.boot.active then 3 else 4)).losePathless fuel n

/-! ## Region moves end (spec/15 R566) -/

/-- REGION_MOVE_COMMIT (spec/01 R45): the hold's pass has arrived. A pavilion with no region left may become RETIRED. -/
def execRegionMoveCommit (p : Pav) (s : State) : Host.Outcome State Fault Refusal :=
  s.run fun s =>
    match (s.pav p).regionMove with
    | none => s
    | some r => if r.hold && r.arrived then (s.commitRegion p r).retireEmpty else s

/-! ## Commands that release extents, after which a pavilion may be RETIRED -/

/-- DC_REQUEST_FORCE_RELEASE (spec/09 R381). -/
def execDcRequestForceRelease (w : Who) (i : Port) (req : BitVec 128) (s : State) : Host.Outcome State Fault Refusal :=
  s.run fun s => ((s.dcRequest w i (setBits req.toNat 0 8 3) 16).answer w).retireEmpty

/-- ADD_DC_RESPONSE (spec/09 R377, step 5). -/
def execAddDcResponse (i : Port) (runs : (List (Nat × Nat))) (s : State) : Host.Outcome State Fault Refusal :=
  s.run fun s => (s.addDcResponse i runs).retireEmpty

/-- DC_OFFER_TIMEOUT (spec/09 R378). -/
def execDcOfferTimeout (i : Port) (s : State) : Host.Outcome State Fault Refusal :=
  s.run fun s => (s.dcOfferTimeout i).retireEmpty

/-- DC_RELEASE_DRAINED (spec/09 R380, steps 3 and 4). -/
def execDcReleaseDrained (i : Port) (s : State) : Host.Outcome State Fault Refusal :=
  s.run fun s => (s.drainReleases i).retireEmpty

/-- SLICE_CLEARING_DONE (spec/10 R414, R415). -/
def execSliceClearingDone (sl : Slice) (s : State) : Host.Outcome State Fault Refusal :=
  s.run fun s => (s.sliceCleared sl).retireEmpty

end Sys2Proof.Machine
end

