-- ==== Sys2Proof/Machine/Vintages.lean ====
section
/-!
DEFINITION. Vintages (spec/07 R294 to R302, R624): the running of compiles, the load, check and swap of their images, batches, the
ends of frames, planning intervals and check windows.
-/

namespace Sys2Proof.Machine

/-! ## Writes of (V) entries and batches (spec/07 R298, R299, spec/11 R438) -/

/-- The gatehouse has agreed to REST, or the part is in it: it compiles nothing (spec/13 R507). -/
def Part.gateParked (s : Part) : Bool := s.rest.inRest || s.rest.agreed.contains 0x0100

/-- A checked write to an entry marked (V): staged in its session's batch, answered at once where it changes nothing, else
compiled. -/
def Part.stageWrite (s : Part) (w : Who) (e : Entry) (i v : Nat) : Reply :=
  if s.vint.batch = some w && s.od0 .vintageBatchState = 1 then
    let rest := s.vint.staged.filter fun q => !(q.entry == e && q.inst == i)
    ⟨{ s with vint := { s.vint with staged := rest ++ [⟨e, i, v⟩] } }, some rStaged, []⟩
  else if s.od e i = v then s.ok
  else (s.ask ⟨0, [⟨e, i, v⟩], some w, .writes, 0⟩).later

/-- The batch is over. -/
def Part.endBatch (s : Part) : Part :=
  { s with vint := { s.vint with batch := none, staged := [] } }.setOd .vintageBatchState 0 0

/-- A write of VINTAGE_COMMAND: 1 BEGIN_BATCH, 2 COMMIT_BATCH, 3 ABORT_BATCH. -/
def Part.vintageCommand (s : Part) (w : Who) (v : Nat) : Reply :=
  s.command w .vintageCommand v false fun s =>
    let st := s.od0 .vintageBatchState
    if v = 1 then
      if st != 0 then s.refuse rBusy
      else ({ s with vint := { s.vint with batch := some w, staged := [] } }.setOd .vintageBatchState 0 1).ok
    else if st = 0 then s.refuse rCondition
    else if st = 2 || s.vint.batch != some w then s.refuse rBusy
    else if v = 2 then ((s.ask ⟨0, s.vint.staged, some w, .batch, 0⟩).setOd .vintageBatchState 0 2).later
    else s.endBatch.ok

/-- VINTAGE_BEGIN_BATCH (spec/07 R299). -/
def execVintageBeginBatch (w : Who) (s : State) : Host.Outcome State Fault Refusal :=
  s.run fun s => (s.vintageCommand w 1).answer w

/-- VINTAGE_COMMIT_BATCH (spec/07 R299). -/
def execVintageCommitBatch (w : Who) (s : State) : Host.Outcome State Fault Refusal :=
  s.run fun s => (s.vintageCommand w 2).answer w

/-- VINTAGE_ABORT_BATCH (spec/07 R299). -/
def execVintageAbortBatch (w : Who) (s : State) : Host.Outcome State Fault Refusal :=
  s.run fun s => (s.vintageCommand w 3).answer w

/-- A request of the batch's session comes now (spec/07 R299, spec/00 R13). -/
def Part.batchUsed (s : Part) : Bool :=
  match s.vint.batch with
  | some (.session k) => (s.sess k).usedAt == s.now + 1
  | some .monitor => s.mon.usedAt == s.now + 1
  | none => false

/-- VINTAGE_BATCH_TIMEOUT (spec/07 R299): an open batch is discarded, unless a request of its session comes now. -/
def execVintageBatchTimeout (s : State) : Host.Outcome State Fault Refusal :=
  s.run fun s => if s.od0 .vintageBatchState = 1 && !s.batchUsed then (s.endBatch).logEv 0x1007 0 0 else s

/-! ## Compiles (spec/07 R288, R292, R293, R298, R300) -/

/-- VINTAGE_COMPILE_START (spec/07 R298): the next compile asked for starts when none runs, no vintage is on its way and no
codebook image loads. The entries of a supplementary plan for held writes are read now: later freeings enter the next one (spec/02
R95). -/
def execVintageCompileStart (s : State) : Host.Outcome State Fault Refusal :=
  s.run fun s =>
    if s.vint.running.isSome || s.vint.shadow.isSome || s.codec.loading.isSome || s.gateParked || !s.gateAlive then s else
    match s.vint.queue with
    | [] => s
    | a :: rest =>
      let extra := if a.kind = 3 then s.heldEnts (a.arg % 8) (a.arg / 8) else []
      ({ s with vint := { s.vint with queue := rest, running := some a, extra := extra } }).settleRetiring

/-- What waited for a compile learns that it was refused (spec/07 R298, R299, spec/09 R377, spec/10 R426). -/
def Part.goalFailed (s : Part) (a : CompileAsk) (e : Refuse) : Part :=
  let s := match a.goal with
    | .batch => s.endBatch
    | .grant i => s.grantRefused i
    | .restore sl => s.endRestore sl 11
    | _ => s
  match a.who with
  | some w => s.answerTo w rVintage [e.reason, e.detail]
  | none => s

/-- A compile is refused (spec/07 R292): recorded, counted, logged with code 0x1002; the settings keep their values. -/
def Part.compileRefused (s : Part) (a : CompileAsk) (e : Refuse) : Part :=
  let s := (s.setOd .vintageLastRefusal 0 e.reason).setOd .vintageRefusalDetail 0 e.detail
  let s := (s.count .vintageRefusals 0).logEv 0x1002 e.reason e.detail
  { s with vint := { s.vint with running := none, shadow := none, checking := false } }.goalFailed a e

/-- Entries of a supplementary plan are appended to the plan in force of their pavilion (spec/07 R300), up to PLAN_MAX_ENTRIES
(spec/02 R79). -/
def Part.appendPlan (s : Part) (p : Nat) (es : List PlanEnt) : Part :=
  let most := s.od0 .planMaxEntries
  { s with vint := { s.vint with running := none, extra := [] } }.onPav p fun v =>
    { v with plan := v.plan ++ ((planSort es).filter fun e => !v.plan.contains e).take (most - v.plan.length) }

/-- A request stamped with the outgoing bank is still outside the channel queues (spec/07 R296). -/
def Part.oldStamps (s : Part) : Bool :=
  let b := s.vint.bank
  let old (m : Msg) : Bool := m.cls == 0 && decide (m.opcode ≤ 2) && m.label / 4096 % 2 != b
  (s.ports.any fun e => e.2.park.any (fun r => r.stamp != b) || e.2.parts.any fun q => q.2.queue.any fun r => r.stamp != b) ||
  (s.pavs.any fun e => e.2.inbox.any old) || (s.links.any fun e => e.2.messages.any old || e.2.waiting.any old)

/-- A compile gives a vintage: it is loaded into the shadow banks of every pavilion in service (spec/01 R21) and its check begins; the
lists of an interval's end are used up (spec/02 R78). -/
def Part.loadShadow (s : Part) (a : CompileAsk) (v : Vintage) : Part :=
  let s := { s with vint := { s.vint with shadow := some v, checking := true, armed := false, running := some a, intervalEnded := false } }
  let s := iter allPavs s fun s p => s.onPav p fun q => { q with promote := [], demote := [] }
  let s := iter s.serving s fun s p => s.mgmtReach p 0 v.number
  if v.forced then s.count .vintageForced 0 else s

/-- VINTAGE_COMPILE_DONE (spec/07 R288): the shadow bank must be free of the last vintage's requests (R296). -/
def execVintageCompileDone (s : State) : Host.Outcome State Fault Refusal :=
  s.run fun s =>
    let s := s.settleRetiring
    match s.vint.running with
    | none => s
    | some a =>
      if s.vint.shadow.isSome then s
      else if a.kind = 3 then s.appendPlan (a.arg % 8) s.vint.extra
      else if a.kind = 4 then s.appendPlan a.arg (s.retireEnts a.arg)
      else if s.oldStamps then s
      else match s.compileAsk a with
        | (.ok v, none) => s.loadShadow a v
        | (.ok v, some e) =>
          (s.loadShadow { a with writes := [], who := none, goal := .plain } v).goalFailed a e
        | (.error e, _) => s.compileRefused a e

/-! ## Checking (spec/07 R294, R624) -/

/-- VINTAGE_CHECKER_DONE (spec/07 R294, R295): refused with CHECKER, or VINTAGE_SWAP_TIME is set. -/
def execVintageCheckerDone (s : State) : Host.Outcome State Fault Refusal :=
  s.run fun s =>
    match s.vint.shadow, s.vint.running with
    | some v, some a =>
      if !s.vint.checking then s else
      match s.checkVintage v with
      | some (n, p) =>
        let s := (s.count .vintageCheckerRejects 0).logEv 0x1001 n p none p
        s.compileRefused a (refuseAt 11 0xFFFF n p)
      | none =>
        ({ s with vint := { s.vint with checking := false, armed := true } }).setOd .vintageSwapTime 0 (s.now + 100000)
    | _, _ => s

/-! ## The swap (spec/07 R295 to R297) -/

/-- A region whose home has failed gets the home of the new vintage (spec/07 R293): its mirror copy becomes the home's; without
one its pages are poisoned there. -/
def Part.rehome (s : Part) (sl region old new : Nat) : Part :=
  if !placeValid old || placeHome old = placeHome new then s else
  let q := placeHome new
  let exts := s.regionExts sl region
  let s :=
    if !placeSingle old && placeMirror old = q then
      let cells := regionCells sl region (s.pav q).mirror
      s.onPav q fun v => { v with
        cellar := cells.foldl (fun m c => m.put c.1 c.2) v.cellar
        mirror := dropRegion sl region v.mirror
        blocks := (v.blocks.erase (blockKey sl region true)).set [] (blockKey sl region false) (v.blocks.get [] (blockKey sl region true)) }
    else
      let s := (s.takeBlock q (blockKey sl region false)).getD s
      let pages := exts.flatMap fun le => (List.range 512).map fun k => le * 512 + k
      s.onPav q fun v => { v with cellar := pages.foldl (fun m lp => m.put (pageKey sl lp) Cell.zero.failed) v.cellar }
  if s.od .sliceMigrationId sl = 0 then s else iter exts s fun s le => s.markExt sl le true

/-- The source tallies of a harvest record, bit 0 first (spec/12 R488). -/
def harvestSources : List Entry :=
  [.sliceGrantedExtentMs, .sliceHotPageMs, .sliceWarmPageMs, .sliceSavedUnitMs, .sliceBorrowedExtentMs, .sliceReadBytes,
   .sliceWriteBytes, .sliceBurstsClass, .sliceBurstsOpen, .sliceBankMisses, .sliceLatencyMisses, .sliceShortfalls,
   .slicePoisonEvents, .slicePoisonReads, .sliceHeldMs]

/-- A source tally is set to a value: the rise of the open minute counts from there, and `keep` of the rise before it is kept
(spec/12 R488, R491). -/
def Part.rebase (s : Part) (sl : Nat) (e : Entry) (keep : Nat) : Part :=
  match harvestSources.idxOf? e with
  | none => s
  | some n => s.onSlice sl fun q => { q with
      carry := (q.carry.set 0 (2 * n) (s.od e sl)).modify 0 (2 * n + 1) (· + keep) }

/-- The rise of a source tally in the open minute (spec/12 R488). -/
def Part.rise (s : Part) (sl n : Nat) : Nat :=
  let q := (s.slice sl).carry
  s.od (harvestSources.getD n .sliceHeldMs) sl - q.get 0 (2 * n) + q.get 0 (2 * n + 1)

/-- The settings of a vintage take effect (spec/02 R99); a slice's are noted for its next START (spec/10 R398). -/
def Part.applySettings (s : Part) (ws : List Staged) : Part :=
  iter ws s fun s w =>
    let s := s.setOd w.entry w.inst w.value
    let s := if w.entry.isTally then s.rebase w.inst w.entry 0 else s
    if w.entry.info.func == .slice then s.onSlice w.inst fun q => { q with changed := true } else s

/-- CODEBOOK_SLICES, SLICE_CODEBOOKS_HELD and the states of the slots follow the slices' codebooks (spec/03 R116, R120). -/
def Part.bindBooks (s : Part) : Part :=
  let named := (s.allSlices.filter s.live).map fun sl => (sl, s.od .sliceCodebook sl)
  let s := iter named s fun s q => s.modOd .sliceCodebooksHeld q.1 fun v => setBit v q.2 true
  iter (List.range 256) s fun s b => (s.setOd .codebookSlices b (named.filter fun q => q.2 == b).length).bookState b

/-- SLICE_SERVICE_STATE and SLICE_SERVICE_PERMILLE (spec/07 R293). -/
def Part.setService (s : Part) (v : Vintage) : Part :=
  let s := iter s.allSlices s fun s sl =>
    let k := v.permille.get 0 sl
    if k = 0 then (s.setOd .sliceServiceState sl 0).setOd .sliceServicePermille sl 1000
    else (s.setOd .sliceServiceState sl (if k = 1001 then 1 else 2)).setOd .sliceServicePermille sl (k - 1)
  if v.forced && v.lowered then s.logEv 0x1003 ((v.permille.map (·.2 - 1)).foldl min 1000) 0 else s

/-- The ingress table takes effect (spec/07 R284, R287): a slice that first appears starts with full ceiling meters, others are
clipped to their depth. -/
def Part.swapIngress (s : Part) (v : Vintage) : Part :=
  let old := s.vint.inForce.reserved
  let s := iter (List.range 16) s fun s i => iter (s.port i).parts s fun s e => s.onPart i e.1 fun q => { q with reserved := 0 }
  iter v.reserved s fun s e =>
    let i := e.1 / 4096
    let sl := e.1 % 4096
    let s := s.refillMeters i sl
    let depth := s.od .sliceCeilingBurst sl * 1024 * 1000
    let first := old.get 0 e.1 = 0
    let f (n : Nat) : Nat := if first then depth else min depth n
    (s.onPart i sl fun q => { q with reserved := e.2, readMeter := f q.readMeter, writeMeter := f q.writeMeter }).unpark i sl

/-- Capacity notices for what a vintage raises over the one before it (spec/02 R94): the commons of a pavilion, the plot shares of
its slices. The values of this vintage are kept for the next. -/
def Part.raisedNotices (s : Part) : Part :=
  let commons := s.serving.map fun p => (p, s.capCommons p)
  let shares := s.serving.flatMap fun p => s.someSlices.map fun sl => (p * 4096 + sl, s.plotShare sl p)
  let was := s.vint
  let s := iter commons s fun s c => if was.commons.get 0 c.1 < c.2 then s.capacityNotices c.1 else s
  let s := iter shares s fun s q =>
    if was.shares.get 0 q.1 < q.2 && s.heldFor (q.1 % 4096) (q.1 / 4096) != 0 then s.capacityNotice (q.1 / 4096) (q.1 % 4096) else s
  { s with vint := { s.vint with commons := commons, shares := shares.foldl (fun m q => m.set 0 q.1 q.2) [] } }

/-- Every pavilion has swapped: the vintage is in force in all its parts (spec/07 R295, R298); who waited is answered. -/
def Part.vintageInForce (s : Part) : Part :=
  let v := s.vint.inForce
  let s := ((s.setOd .vintageNumber 0 v.number).setOd .vintageDigest 0 v.digest).count .vintageCompiles 0
  let ask := s.vint.running
  let s := { s with vint := { s.vint with shadow := none, running := none } }
  match ask with
  | none => s
  | some a =>
    let s := if a.goal = .batch then s.endBatch else s
    match a.goal, a.who with
    | .start _, _ => s
    | _, some w => s.answerTo w rOk []
    | _, none => s

/-- The goals that a vintage's ingress and placement serve (spec/09 R377, spec/10 R398, R426). -/
def Part.goalReached (s : Part) (a : CompileAsk) : Part :=
  match a.goal with
  | .grant i => s.grantInForce i
  | .start sl =>
    let r := s.startInForce sl
    match r.code, a.who with
    | some c, some w => r.part.answerTo w c r.detail
    | _, _ => r.part
  | .restore sl => s.restoreDone sl true
  | _ => s

/-- VINTAGE_SWAP_TIME (spec/07 R295): settings, placement, ingress and classes take effect everywhere at once; the slot tables,
meters and plan of each pavilion wait for its frame boundary. -/
def execVintageSwapTime (s : State) : Host.Outcome State Fault Refusal :=
  s.run fun s =>
    match s.vint.shadow with
    | none => s
    | some v =>
      if !s.vint.armed then s else
      let was := s.vint.inForce
      let s := s.applySettings v.settings
      let s := iter v.place s fun s e => s.rehome (e.1 / 65536) (e.1 % 65536) (was.place.get 0 e.1) e.2
      let s := s.swapIngress v
      let s := { s with vint := { s.vint with
        inForce := { v with tables := was.tables, rates := was.rates, plans := was.plans }
        armed := false, bank := 1 - s.vint.bank, swapping := s.serving } }
      let s := (s.bindBooks).setService v
      let s := match s.vint.running with
        | some a => s.goalReached a
        | none => s
      let s := s.raisedNotices
      let s := iter s.serving s fun s p => iter s.allSlices s fun s sl => s.plotAlarm p sl
      let s := iter s.serving s fun s p => s.commonsAlarm p
      let s := s.retireEmpty
      if s.vint.swapping.isEmpty then s.vintageInForce else s

/-! ## Frames (spec/07 R280, R295, R297, R301) -/

/-- A burst of a slice's class waits in a direction at a pavilion (spec/07 R301). -/
def Part.backlogged (s : Part) (p sl : Nat) (write : Bool) : Bool :=
  (List.range 8).any fun k => (s.chan (p * 8 + k)).queue.any fun q =>
    q.owner == sl && q.write == write && q.label != ownOpen && decide (q.label < 16)

/-- The rates of a pavilion in the vintage in force: by slice × 2 + direction. -/
def Part.ratesAt (s : Part) (p : Nat) : Sparse Nat :=
  (s.vint.inForce.rates.range (p * 8192) (p * 8192 + 8192)).map fun e => (e.1 % 8192, e.2)

/-- The meters of a pavilion refill, and backlogged slices are owed their rates (spec/07 R280, R301). -/
def Part.refillTokens (s : Part) (p : Nat) : Part :=
  iter (s.ratesAt p) s fun s e =>
    let late := s.backlogged p (e.1 / 2) (e.1 % 2 == 1)
    s.onPav p fun v => { v with
      tokens := v.tokens.modify 0 e.1 fun t => min (meterDepth e.2) (t + e.2)
      owed := if late then v.owed.modify 0 e.1 (· + e.2) else v.owed }

/-- Queued bursts of classes that own no slot in the new tables (spec/07 R297). -/
def Part.carryover (s : Part) (p : Nat) : Nat :=
  ((List.range 8).map fun k =>
    let c := p * 8 + k
    ((s.chan c).queue.filter fun q => 1 ≤ q.label && q.label < 16 && !s.ownsSlots c q.label q.write).length).sum

/-- The tables and the meter rates of a pavilion as the new vintage has them (spec/07 R266, R295). -/
def Part.swapTables (s : Part) (p : Nat) (v : Vintage) : Part :=
  let new := v.rates.range (p * 8192) (p * 8192 + 8192)
  let rates := new.foldl (fun m e => m.put e.1 e.2) (s.vint.inForce.rates.eraseRange (p * 8192) (p * 8192 + 8192))
  let tables := s.vint.inForce.tables.set PavTables.zero p (v.tables.get PavTables.zero p)
  { s with vint := { s.vint with inForce := { s.vint.inForce with rates := rates, tables := tables } } }

/-- Tokens carry over the swap, cut to the new depth; a meter new in the vintage starts full (spec/07 R297). -/
def swapTokens (old tokens : Sparse Nat) (new : Sparse Nat) : Sparse Nat :=
  new.foldl (fun m e =>
    let k := e.1 % 8192
    m.set 0 k (if old.get 0 k = 0 then meterDepth e.2 else min (meterDepth e.2) (tokens.get 0 k))) []

/-- The plan of the new vintage replaces a pavilion's plan (spec/02 R80): entries not yet begun are undone but those that it carries
over, and a carried one that has begun since the compile is not done twice. -/
def Part.swapPlan (s : Part) (p : Nat) (v : Vintage) : Part :=
  let old := (s.pav p).plan
  let carried := v.carried.get [] p
  let plan := (v.plans.get [] p).filter fun e => !carried.contains e || old.contains e
  let undone := (old.filter fun e => !(carried.contains e && plan.contains e)).length
  let s := s.onPav p fun w => { w with plan := plan }
  if undone = 0 then s else s.count .planEntriesUndone 0 undone

/-- The slot tables, meters and plan of a pavilion swap at its frame boundary (spec/07 R295, R297, spec/02 R80). -/
def Part.swapFrame (s : Part) (p : Nat) : Part :=
  match s.vint.shadow with
  | none => s
  | some v =>
    let old := s.ratesAt p
    let s := s.swapTables p v
    let tokens := swapTokens old (s.pav p).tokens (v.rates.range (p * 8192) (p * 8192 + 8192))
    let s := s.onPav p fun w => { w with tokens := tokens }
    let s := s.swapPlan p v
    let s := s.setOd .classesActive p (v.tables.get PavTables.zero p).classes
    let n := s.carryover p
    let s := if n = 0 then s else s.count .swapCarryover 0 n
    let s := { s with vint := { s.vint with swapping := s.vint.swapping.filter (· != p) } }
    if s.vint.swapping.isEmpty then s.vintageInForce else s

/-- FRAME_END (spec/07 R280): a pavilion in service ends a frame; a pending swap takes place at the boundary. -/
def execFrameEnd (p : Pav) (s : State) : Host.Outcome State Fault Refusal :=
  s.run fun s =>
    if !s.inService p || s.rest.inRest then s else
    let s := s.refillTokens p
    let s := s.onPav p fun v => { v with frame := (v.frame + 1) % 8 }
    if s.vint.swapping.contains p.val then s.swapFrame p else s

/-! ## Planning intervals and check windows (spec/02 R78, spec/07 R301) -/

/-- Read and halve the heat table of a pavilion (spec/02 R78). -/
def Part.readHeat (s : Part) (p : Nat) : Part :=
  let s := s.heatFlush p
  let heat := (s.pav p).heat
  let ent (action : Nat) (e : Nat × Nat) : PlanEnt := ⟨action, e.1 / 2 ^ 28, e.1 % 2 ^ 28, p, bits e.2 0 6⟩
  let up := heat.filter fun e => bit e.2 6 && decide (s.od0 .promoteThreshold ≤ bits e.2 0 6)
  let down := heat.filter fun e => bit e.2 7 && decide (bits e.2 0 6 ≤ s.od0 .demoteThreshold)
  s.onPav p fun v => { v with
    promote := up.map (ent 0), demote := down.map (ent 1), warm := (heat.filter fun e => bit e.2 6).map (ent 0)
    heat := (heat.map fun e => (e.1, setBits e.2 0 6 (bits e.2 0 6 / 2))).filter fun e => e.2 != 0 }

/-- PLANNING_INTERVAL_END (spec/02 R78, spec/07 R300). -/
def execPlanningIntervalEnd (s : State) : Host.Outcome State Fault Refusal :=
  s.run fun s =>
    if s.gateParked then s else
    let s := iter s.serving s Part.readHeat
    let s := { s with vint := { s.vint with intervalEnded := true } }
    if s.vint.queue.any fun a => a.kind ≤ 1 then s else s.askCompile 2

/-- One direction of a slice's check window on a pavilion (spec/07 R301). -/
def Part.checkWindow (s : Part) (sl p dir : Nat) : Part :=
  let k := sl * 2 + dir
  let owed := (s.pav p).owed.get 0 k
  let got := (s.pav p).delivered.get 0 k
  if s.guarantee sl dir = 0 || !decide (got * 1000 < owed * (1000 - s.od .sliceShortfallTolerance sl)) then s else
  let s := (s.count .sliceShortfalls sl).logEv 0x1004 owed got (some sl) p
  match s.boundPort sl with
  | some i =>
    if s.od .sliceServiceEvents sl = 1 || s.od .sliceServiceEvents sl = 3 then
      s.vendorEvent i logWarning 0x1004 (some sl) p ones64 ones64 owed got dir
    else s
  | none => s

/-- SLICE_CHECK_WINDOW_END (spec/07 R301): a new window starts. -/
def execSliceCheckWindowEnd (sl : Slice) (s : State) : Host.Outcome State Fault Refusal :=
  s.run fun s =>
    if s.rest.inRest then s else
    iter s.serving s fun s p =>
      let s := (s.checkWindow sl p 0).checkWindow sl p 1
      let k := sl.val * 2
      s.onPav p fun v => { v with
        owed := (v.owed.erase k).erase (k + 1), delivered := (v.delivered.erase k).erase (k + 1), latency := v.latency.erase sl }

end Sys2Proof.Machine
end

