-- ==== Sys2Proof/Machine/Levels.lean ====
section
/-!
DEFINITION. What a read of an entry gives: tallies from the merged store, levels and other present quantities from the
structures they describe (spec/12 R464, R465), the rest from the store.
-/

namespace Sys2Proof.Machine

/-! ## Capacity (spec/02) -/

/-- Writes held for a pavilion. -/
def Part.heldAt (s : Part) (p : Nat) : Nat := (s.someSlices.map fun sl => s.heldFor sl p).sum

/-- A sum over the pavilions. -/
def overPavs (f : Nat → Nat) : Nat := (allPavs.map f).sum

/-- Pages of a slice that satisfy a test. -/
def Part.pageCount (s : Part) (sl : Nat) (t : Cell → Bool) : Nat := overPavs fun p => (s.pagesWhere p sl 0 (2 ^ 34) t).length

/-- Granted extents of a slice. -/
def Part.grantCount (s : Part) (sl : Nat) : Nat := ((s.slice sl).grants.map fun g => popCount 512 g.2).sum

/-- The sum of 7 − SLOT_CLASS over the warm pages of a slice (spec/12 R488). -/
def Part.savedUnits (s : Part) (sl : Nat) : Nat :=
  overPavs fun p => (((s.pav p).cellar.range (pageKey sl 0) (pageKey sl (2 ^ 34))).map fun e =>
    if e.2.tier = tierWarm then 7 - e.2.slotClass else 0).sum

/-- The value of a capacity entry of a pavilion (spec/02 R86, R99). -/
def Part.capLevel (s : Part) (e : Entry) (p : Nat) : Option Nat :=
  match e with
  | .capRaw => some (s.pav p).capRaw
  | .capCellarBook => some (s.capCellar p)
  | .capSpare => some (s.kindCount p kindSpare)
  | .capCommonsReserve => some (s.od0 .commonsReserveSetting)
  | .capPlots => some (s.capPlots p)
  | .capCommons => some (ofInt 32 (s.capCommons p))
  | .capCommonsLent => some (s.capLent p)
  | .capFree => some (s.freeCount p)
  | .capZeroing => some (s.kindCount p kindZeroing)
  | .capHeldWrites => some (s.heldAt p)
  | .capLogicalLimit => some s.logicalLimit
  | .capLogicalGranted => some s.logicalGranted
  | .cellarSingleCopy => some (s.vint.inForce.place.filter fun q => placeValid q.2 && placeSingle q.2).length
  | .extentsRetired => some (s.kindCount p kindRetired)
  | _ => none

/-- The value of a present quantity of a slice. -/
def Part.sliceLevel (s : Part) (e : Entry) (sl : Nat) : Option Nat :=
  match e with
  | .slicePlot => some (overPavs (s.plotShare sl))
  | .sliceOwned => some (overPavs (s.ownedExts sl))
  | .sliceBorrowed => some (overPavs (s.borrowed sl))
  | .slicePagesHot => some (s.pageCount sl fun c => c.tier == tierHot)
  | .slicePagesWarm => some (s.pageCount sl fun c => c.tier == tierWarm)
  | .slicePagesZero => some (512 * s.grantCount sl - s.pageCount sl fun c => c.tier != tierZero)
  | .slicePagesPoisoned => some (s.pageCount sl fun c => c.poison)
  | .sliceHeldWrites => some (s.heldWrites sl)
  | .rekeyPagesLeft => some (s.rekeyLeft sl)
  | .sliceExtentsGranted => some (s.grantCount sl)
  | .sliceExtentsUnmapped => some (s.unmappedExts sl).length
  | .sliceDirtyExtents => some (s.dirtyExts sl).length
  | _ => none

/-! ## Slot tables and scrubbing (spec/05 R205, spec/07 R266 to R291) -/

/-- The descriptors in force of a channel's subchannels. -/
def Part.descsOf (s : Part) (c : Nat) : List Nat := (s.vint.inForce.tables.get PavTables.zero (c / 8)).descs (c % 8)

/-- Slots of an owner in a direction. -/
def slotsDir (ds : List Nat) (owner dir : Nat) : Nat := (ds.filter fun d => descOwner d == owner && bits d 15 1 == dir).length

/-- The percentage of a scrub pass that is done (spec/05). -/
def Part.scrubPercent (s : Part) (c : Nat) : Nat :=
  let v := s.chan c
  let per := (s.geom (c / 8)).groupBursts
  let l := s.scrubRanks c
  let all := per * l.length
  let done (n : Nat) : Nat := (l.filter fun r => decide (r < n / per)).length * per + (if l.contains (n / per) then n % per else 0)
  if !v.scrubbing || all = 0 then 0 else
  100 * ((List.range 16).map fun k => if v.scrubDone.get 0 k != 0 then all else done (v.scrubPtr.get 0 k)).sum / (16 * all)

/-- Per pavilion, the slots per subchannel of a class in a direction, as U16 pieces. -/
def Part.classSlotsOf (s : Part) (k dir : Nat) : Nat :=
  unchunks 16 (allPavs.map fun p => if s.inService p then slotsDir (s.descsOf (p * 8)) k dir else 0)

/-- The value of a present quantity of the slot tables. -/
def Part.slotLevel (s : Part) (e : Entry) (i : Nat) : Option Nat :=
  let t := s.vint.inForce.tables.get PavTables.zero i
  match e with
  | .migrationBandwidthInForce => some (ceilDiv (t.migSlots / 16 * s.od .dramSpeed i * t.subs) 16)
  | .slotsOwnedMax => some t.ownedMax
  | .slotsOpenMin => some t.openMin
  | .writeBlocks => some t.writeBlocks
  | .classSlices => some (s.allSlices.filter fun sl => s.live sl && s.od .sliceServiceClass sl == i).length
  | .classReadSlots => some (s.classSlotsOf i 0)
  | .classWriteSlots => some (s.classSlotsOf i 1)
  | .slotTableA | .slotTableB => some ((s.vint.inForce.tables.get PavTables.zero (i / 8)).slots.get 0 (i % 8))
  | .slotsOpen => some (slotsOf (s.descsOf i) ownOpen)
  | .scrubSlots => some (slotsDir (s.descsOf i) ownScrub 0)
  | .scrubProgress => some (s.scrubPercent i)
  | _ => none

/-! ## Ports, sessions, power -/

/-- The role key of a role exists. -/
def Part.roleLive (s : Part) (r : Nat) : Bool := (s.keys.roles.get OneKey.zero r).live

/-- Open sessions. -/
def Part.openSessions (s : Part) : List Nat := (List.range 32).filter fun k => (s.sess k).isOpen

/-- The value of a present quantity of a port or the gatehouse. -/
def Part.portLevel (s : Part) (e : Entry) (i : Nat) : Option Nat :=
  match e with
  | .ingressSlices => some (s.boundTo i).length
  | .portRegionsMapped => some ((s.port i).regionMap.filter fun q => bit q.2 31).length
  | .dcExtentsAccepted => some ((s.port i).masks.map fun q => popCount 512 q.2).sum
  | .sessionsOpen => some s.openSessions.length
  | .roleSessions => some (s.openSessions.filter fun k => s.od .sessionRole k == i).length
  | .roleKeyState => some (b2n (s.roleLive i))
  | .claimState => some (b2n (s.roleLive roleCustodian))
  | .logNext => some s.logNext
  | .logRecords => some (unchunks 256 ((List.range 2048).map fun k => (s.log.get LogRec.zero (2048 * i + k)).encode))
  | .agreementPublic => some s.agreementPoint
  | _ => none

/-- The clock domains of a pavilion that are gated or off in its state (spec/13 R500 to R502): bit k is domain 12p + k.
`laneGated` holds the lanes; the CODEC and CRYPTO domains gate in IDLE; a channel in self-refresh gates its PHY domain, and CLK_MC gates
with the last one (spec/06 R262). -/
def Part.domainsGated (s : Part) (p : Nat) : Nat :=
  let asleep (lo n : Nat) : Bool := (List.range n).all fun k => s.od .channelState (p * 8 + lo + k) == 3
  let gh := (if p = 0 then 0 else 2 ^ 10) ||| b2n (asleep 0 4) ||| 2 * b2n (asleep 4 4) ||| 4 * b2n (asleep 0 8)
  match s.od .pavilionPowerState p, s.pstate p with
  | _, 4 => 0xFFF
  | _, 5 => 0xFFF
  | 1, _ => gh ||| 0b1111000
  | 2, _ => gh ||| 0b111111011
  | 3, _ => 0xFFF
  | _, _ => gh

/-- A ceiling of a strap value (spec/14 R527). -/
def strapMainAmps (v : Nat) : Nat := 30 + 10 * v
/-- A branch ceiling of a strap value (spec/14 R527). -/
def strapBranchAmps (v : Nat) : Nat := 10 + 5 * v

/-- The main current limit in force in A (spec/14 R526). -/
def Part.mainLimit (s : Part) : Nat := min (s.od0 .mainIlim) (min (strapMainAmps s.power.strapMain) s.flash.ilimMain)

/-- A branch current limit in force in A (spec/14 R526). -/
def Part.branchLimit (s : Part) (b : Nat) : Nat :=
  min (s.od .branchIlim b) (min (strapBranchAmps s.power.strapBr) s.flash.ilimBranch)

/-- The value of a present quantity of the package. -/
def Part.packageLevel (s : Part) (e : Entry) (i : Nat) : Option Nat :=
  match e with
  | .pavilionsInService => some (s.serving.foldl (fun b p => setBit b p true) 0)
  | .pavilionRawCapacity => some (if s.pstate i = 4 || s.pstate i = 5 then 0 else (s.pav i).capRaw * 2 ^ 21)
  | .pavilionRegionsHomed => some (s.regionsHomed i).length
  | .pavilionPortsUp => some (b2n (decide (3 ≤ s.od .portState (2 * i))) + 2 * b2n (decide (3 ≤ s.od .portState (2 * i + 1))))
  | .serialNumber => some s.flash.serial
  | .catalogueLength => some catalogueLength
  | .codebookImage => if i = 0 then some neutralImage else none
  | .mgmtMac => some s.flash.mac
  | .domainsGated => some (s.domainsGated i)
  | .clkPhyFrequency => some (s.od .dramSpeed i / 2)
  | .mainIlimInForce => some s.mainLimit
  | .branchIlimInForce => some (s.branchLimit i)
  | .mainIlimCeiling => some (strapMainAmps s.power.strapMain)
  | .branchIlimCeiling => some (strapBranchAmps s.power.strapBr)
  | .vddGuardLimit => some s.flash.vddLimit
  | .fwSvnFused => some s.flash.svnFuse
  | .fwKeysRevoked => some s.flash.revoked
  | .rowsWeak => some (s.flash.weakRows.filter fun r => r.chan / 8 == i).length
  | .layersLost => some (s.flash.lostLayers.filter fun k => k / 4 == i).length
  | .pprUsed => some (s.flash.ppr.get 0 i)
  | .ceTable => some (unchunks 128 ((s.pav i).ceTable.map CeEnt.encode))
  | .i3cStaticAddress => some (0x30 + s.power.strapI3c)
  | .firmwareVersion => some s.boot.version
  | .deviceCert => some (s.flash.trust.cert.getD 0)
  | .mgmtIpv4Address => if s.od0 .mgmtIpv4Mode = 1 then some ((s.gate.lease.map (·.1)).getD 0) else none
  | .mgmtIpv4Prefix => if s.od0 .mgmtIpv4Mode = 1 then s.gate.lease.map (·.2.1) else none
  | .mgmtIpv4Gateway => if s.od0 .mgmtIpv4Mode = 1 then s.gate.lease.map (·.2.2) else none
  | _ => none

/-! ## Counters (spec/12) -/

/-- The entry instance of a number. -/
def entryOf (n : Nat) : Option (Entry × Nat) := Entry.find (n / 256) (n % 256)

/-- The value of an entry about counting: the time base, the backlog and the taint marks, which stand as entry numbers. -/
def Part.countLevel (s : Part) (e : Entry) (i : Nat) : Option Nat :=
  match e with
  | .timeNow => some s.now
  | .taintedCount => some s.taint.length
  | .taintedList => some (unchunks 32 (s.taint.take 256))
  | .harvestBacklog => some s.backlog.length
  | .sliceTainted =>
    some ((s.taint.filter fun n => n / 256 == 0x6000 + i && 0x20 ≤ n % 256).foldl (fun b n => setBit b (n % 256 - 0x20) true) 0)
  | _ => none

/-- The value of an entry as a read gives it. -/
def Part.odRead (s : Part) (e : Entry) (i : Nat) : Nat :=
  if e.isTally then s.od e i else
  ((s.capLevel e i).orElse fun _ => (s.sliceLevel e i).orElse fun _ => (s.slotLevel e i).orElse fun _ =>
    (s.portLevel e i).orElse fun _ => (s.packageLevel e i).orElse fun _ => s.countLevel e i).getD (s.od e i)

end Sys2Proof.Machine
end

