-- ==== Sys2Proof/Machine/Counters.lean ====
section
/-!
DEFINITION. Counting: the lodges' gathering, resets and taint, harvest ticks, minutes and records, snapshots, the tenant's
counters, and the time base (spec/12 R464 to R493).
-/

namespace Sys2Proof.Machine

/-- The gatehouse and its engines run: alive, and not parked for REST. -/
def Part.gateRuns (s : Part) : Bool := s.gateAlive && !s.gateParked

/-! ## Merging, taint and reset (spec/12 R465, R466, R492, R493) -/

/-- Merge the deltas of one tally. -/
def Part.mergeKey (s : Part) (k : Nat) : Part :=
  match Entry.all[k / 65536]? with
  | none => s
  | some e =>
    let s' := s.modOd e (k % 65536) (· + s.delta.get 0 k)
    { s' with delta := s'.delta.erase k }

/-- Merge every delta into the merged store. -/
def Part.gather (s : Part) : Part := iter (s.delta.map (·.1)) s Part.mergeKey

/-- The tallies that a port counts itself (spec/12 R481). -/
def portCounted (e : Entry) : Bool :=
  [Entry.sliceReads, .sliceWrites, .sliceReadBytes, .sliceWriteBytes, .portUndecoded, .portUnmapped].contains e

/-- Compare the arms of a port with merged tallies (spec/12 R481, R482). -/
def Part.lodgeArms (s : Part) (i : Nat) : Part :=
  iter (List.range 8) s fun s a =>
    match entryOf (s.od .armCounter (i * 8 + a)) with
    | none => s
    | some (e, k) => if portCounted e then s else s.armCheck i e k ones64 ones64 0xFFFF (if e.info.func == .slice then k else 0)

/-- LODGE_GATHER (spec/12 R465). -/
def execLodgeGather (s : State) : Host.Outcome State Fault Refusal :=
  s.run fun s =>
    if !s.gateRuns then s else
    let s := s.gather
    (iter (List.range 16) s Part.lodgeArms).flushNotices

/-- Put a number into a list in ascending order, once. -/
def insertNumber (n : Nat) : List Nat → List Nat
  | [] => [n]
  | m :: r => if n < m then n :: m :: r else if n = m then m :: r else m :: insertNumber n r

/-- A tally returns to 0: the rise of the open minute is kept (spec/12 R488), arms go on counting, its mark clears (R493). -/
def Part.resetTally (s : Part) (e : Entry) (i : Nat) : Part :=
  let s := s.mergeKey (e.key i)
  let old := s.od e i
  let n := e.number i
  let keep := match harvestSources.idxOf? e with
    | some k => old - (s.slice i).carry.get 0 (2 * k)
    | none => 0
  let s := (s.setOd e i 0).rebase i e keep
  let s := iter (List.range 16) s fun s p => iter (List.range 8) s fun s a =>
    if s.od .armCounter (p * 8 + a) = n then
      s.onPort p fun t => { t with arms := t.arms.modify Arm.zero a fun m => { m with last := (m.last + 2 ^ 64 - old) % 2 ^ 64 } }
    else s
  { s with taint := s.taint.filter (· != n) }

/-- The tallies of a slice. -/
def sliceTallies : List Entry := Entry.all.filter fun e => e.isTally && e.info.func == .slice

/-- A write of COUNTER_RESET (spec/12 R466). -/
def Part.counterReset (s : Part) (w : Who) (v len : Nat) : Reply :=
  s.written w .counterReset v len fun s =>
    match entryOf v with
    | some (e, i) => if e.isTally then (s.resetTally e i).ok else s.refuse rCondition
    | none => s.refuse rCondition

/-- COUNTER_RESET (spec/12 R466). -/
def execCounterReset (w : Who) (value : BitVec 32) (s : State) : Host.Outcome State Fault Refusal :=
  s.run fun s => (s.counterReset w value.toNat 4).answer w

/-- A write of SLICE_COUNTER_COMMAND: 1 RESET (spec/12 R466). -/
def Part.sliceCounterCommand (s : Part) (w : Who) (sl v : Nat) : Reply :=
  s.command w .sliceCounterCommand v false fun s => (iter sliceTallies s fun s e => s.resetTally e sl).ok

/-- SLICE_COUNTER_RESET (spec/12 R466). -/
def execSliceCounterReset (w : Who) (sl : Slice) (s : State) : Host.Outcome State Fault Refusal :=
  s.run fun s => (s.sliceCounterCommand w sl 1).answer w

/-- A tally is lost: it reads 0 and is tainted; code 0x1502 (spec/12 R492). -/
def Part.taintTally (s : Part) (e : Entry) (i : Nat) : Part :=
  let n := e.number i
  let s := (s.setOd e i 0).rebase i e 0
  let s := { s with taint := insertNumber n s.taint }
  let sl := if e.info.func == .slice then some i else none
  let s := match harvestSources.idxOf? e with
    | some k => s.onSlice i fun q => { q with minute := { q.minute with taint := setBit q.minute.taint k true } }
    | none => s
  s.logEv 0x1502 n 0 sl

/-- COUNTER_STORE_ERROR (spec/12 R492): in the word of a counted entry. -/
def execCounterStoreError (index : BitVec 16) (sub : BitVec 8) (corrected : Bool) (s : State) : Host.Outcome State Fault Refusal :=
  s.run fun s =>
    match Entry.find index.toNat sub.toNat with
    | none => s
    | some (e, i) =>
      if e.info.count == .notCounted then s
      else if corrected then s.count .counterStoreCe 0
      else
        let s := s.count .counterStoreUe 0
        if e.isTally then s.taintTally e i else s

/-! ## Harvest ticks (spec/12 R484, R486, R488) -/

/-- Add the levels of a slice to its capacity tallies, for `n` ticks. -/
def Part.addLevels (s : Part) (sl n : Nat) : Part :=
  let add (s : Part) (e : Entry) (v : Nat) : Part := if v = 0 || n = 0 then s else s.count e sl (v * n)
  let s := add s .sliceGrantedExtentMs (s.grantCount sl)
  let s := add s .sliceHotPageMs (s.pageCount sl fun c => c.tier == tierHot)
  let s := add s .sliceWarmPageMs (s.pageCount sl fun c => c.tier == tierWarm)
  let s := add s .sliceSavedUnitMs (s.savedUnits sl)
  let s := add s .sliceBorrowedExtentMs (overPavs (s.borrowed sl))
  add s .sliceHeldMs (b2n (s.heldWrites sl != 0))

/-- The number entries at subindexes 0x20 to 0x8F of a slice, which the tenant window shows (spec/12 R484). -/
def windowEntries : List Entry :=
  Entry.all.filter fun e => e.info.func == .slice && 0x20 ≤ e.info.sub && decide (e.info.sub ≤ 0x8F) &&
    e.info.ty != .blob && e.info.ty != .string && e.info.access != .wo

/-- The content of a slice's window: values by subindex; the time at key 0, the taint bits at key 1. -/
def Part.windowOf (s : Part) (sl : Nat) : Sparse Nat :=
  let m : Sparse Nat := windowEntries.foldl (fun m e => m.set 0 e.info.sub (s.odRead e sl)) []
  (m.set 0 0 s.now).set 0 1 (s.odRead .sliceTainted sl)

/-- Refresh the tenant window of a slice: all zeros while SLICE_TENANT_COUNTERS is 0. -/
def Part.refreshWindow (s : Part) (sl : Nat) : Part :=
  let w := if s.od .sliceTenantCounters sl = 1 then s.windowOf sl else []
  s.onSlice sl fun q => { q with window := w }

/-- HARVEST_TICK (spec/09 R357, spec/12 R484, R486, spec/13 R504). No tick is taken in REST (spec/13 R514). -/
def execHarvestTick (s : State) : Host.Outcome State Fault Refusal :=
  s.run fun s =>
    let s := { s with boot := { s.boot with liveness := (s.boot.liveness + 1) % 65536 } }
    if !s.gateAlive || s.rest.inRest then s else
    let s := iter s.allSlices s fun s sl => (s.addLevels sl 1).refreshWindow sl
    iter allPavs s fun s p => if s.od .pavilionPowerState p = 1 then s.count .pavilionIdleMs p else s

/-! ## Harvest records (spec/12 R487 to R491) -/

/-- The bits of a record above its tag, without its CRC (spec/12 R487, R489). -/
def Part.harvestBody (s : Part) (sl : Nat) (stepped delayed : Bool) : Nat :=
  let m := (s.slice sl).minute
  let flags := b2n (m.taint != 0 || m.incomplete) + 2 * b2n (stepped || s.steppedMinute) + 4 * b2n (m.partMinute || m.removed) +
    8 * b2n delayed + 16 * b2n m.lost
  let wide (n at_ : Nat) : Nat := bits (s.rise sl n) 0 64 <<< at_
  let narrow (n at_ : Nat) : Nat := min (s.rise sl n) (2 ^ 32 - 1) <<< at_
  let x := wide 0 960 ||| wide 1 896 ||| wide 2 832 ||| wide 3 768 ||| wide 4 704 ||| wide 5 640 ||| wide 6 576 |||
    wide 7 512 ||| wide 8 448 ||| narrow 9 416 ||| narrow 10 384 ||| narrow 11 352 ||| narrow 12 320 ||| narrow 13 288 |||
    narrow 14 256 ||| (bits m.sequence 0 32 <<< 224) ||| (bits m.taint 0 32 <<< 192) ||| (bits s.minuteStart 0 64 <<< 128) |||
    (sl <<< 84) ||| (flags <<< 76)
  x >>> 64

/-- A record's body with DELAYED set (spec/12 R489). -/
def harvestDelayed (body : Nat) : Nat := setBit body 15 true

/-- The slice of a record's body. -/
def harvestSlice (body : Nat) : Nat := bits body 20 12

/-- A record's body with the CRC over its 128 bytes under a tag (spec/12 R487). -/
def harvestSeal (tag body : Nat) : Nat := setBits body 32 32 (crc32c 128 (tag ||| (body <<< 64)))

/-- The port whose harvest ring takes a slice's records: its own, else HARVEST_DEFAULT_PORT, where the ring is enabled. -/
def Part.harvestPort (s : Part) (sl : Nat) : Option Nat :=
  let on (i : Nat) : Bool := decide (i < 16) && ((s.port i).rings.get Ring.zero 1).enabled
  let d := s.od0 .harvestDefaultPort
  match s.boundPort sl with
  | some i => if on i then some i else if on d then some d else none
  | none => if on d then some d else none

/-- The tag a record gets at a port's harvest ring now. -/
def Part.harvestTag (s : Part) (i : Nat) : Nat := ringTag ((s.port i).rings.get Ring.zero 1).sequence 2 4

/-- Write one record to a port's harvest ring. -/
def Part.harvestWrite (s : Part) (i body : Nat) (host : Option (Option Nat)) : Part × Bool :=
  let w := s.ringWrite i 1 4 2 (harvestSeal (s.harvestTag i) body) host
  if w.2 then (w.1.count .harvestWritten i, true) else (w.1, false)

/-- Keep a record in the backlog; the oldest is dropped when it is full, and logged with code 0x1504 (spec/12 R490). -/
def Part.harvestKeep (s : Part) (body : Nat) : Part :=
  let s := if s.backlog.length < 8388608 then s else
    let sl := harvestSlice (s.backlog.headD 0)
    let s := (s.count .harvestLost 0).count .sliceHarvestLost sl
    let s := s.onSlice sl fun q => { q with minute := { q.minute with lost := true } }
    ({ s with backlog := s.backlog.tail }).logEv 0x1504 sl 0 (some sl)
  { s with backlog := s.backlog ++ [harvestDelayed body] }

/-- Write what the rings take of the backlog, oldest first; a ring that fails takes no later record now. Answers the ports
written to. -/
def Part.flushBacklog (s : Part) (host : Option (Option Nat)) : Part × List Nat :=
  let l := s.backlog
  let q := iter l ({ s with backlog := [] }, ([] : List Nat), ([] : List Nat)) fun q body =>
    let s := q.1
    let keep := ({ s with backlog := s.backlog ++ [body] }, q.2)
    match s.harvestPort (harvestSlice body) with
    | none => keep
    | some i =>
      if q.2.1.contains i then keep else
      let w := s.harvestWrite i body host
      if w.2 then (w.1, q.2.1, if q.2.2.contains i then q.2.2 else q.2.2 ++ [i])
      else ({ w.1 with backlog := w.1.backlog ++ [body] }, q.2.1 ++ [i], q.2.2)
  (q.1, q.2.2)

/-- A slice's record goes to its ring, or into the backlog behind what waits there (spec/12 R490), with the copy in
SLICE_HARVEST_LAST. Answers the port written to. -/
def Part.harvestPut (s : Part) (sl body : Nat) (park : Bool) (host : Option (Option Nat)) : Part × Option Nat :=
  let copy (s : Part) (tag b : Nat) : Part := s.setOd .sliceHarvestLast sl (tag ||| (harvestSeal tag b <<< 64))
  let keep (s : Part) : Part × Option Nat := ((copy s (ringTag 0 2 4) (harvestDelayed body)).harvestKeep body, none)
  if park then keep s else
  match s.harvestPort sl with
  | none => keep s
  | some i =>
    if s.backlog.any fun b => s.harvestPort (harvestSlice b) == some i then keep s else
    let tag := s.harvestTag i
    let w := s.harvestWrite i body host
    if w.2 then (copy w.1 tag body, some i) else keep w.1

/-- A slice's minute after its record: the tallies of a removed slice return to 0 (spec/12 R491). -/
def Part.nextMinute (s : Part) (sl : Nat) : Part :=
  let gone := (s.slice sl).minute.removed
  let s := if gone then iter sliceTallies s fun s e => s.resetTally e sl else s
  let marks := (List.range 15).foldl (fun b k => setBit b k (s.taint.contains ((harvestSources.getD k .sliceHeldMs).number sl))) 0
  let base : Sparse Nat := (List.range 15).foldl (fun m k => m.set 0 (2 * k) (s.od (harvestSources.getD k .sliceHeldMs) sl)) []
  s.onSlice sl fun q => { q with
    carry := base
    minute := if q.created then { Minute.zero with sequence := q.minute.sequence + 1, active := true, taint := marks }
      else Minute.zero }

/-- The slices that are active in the open minute, ascending. -/
def Part.activeSlices (s : Part) : List Nat := (s.slices.filter fun e => e.2.minute.active).map (·.1)

/-- End the open minute (spec/12 R486, R487): a record for each active slice; vector 17 where one was written. `stepped`: a
step ends it; `park`: it ended in REST (spec/13 R514). -/
def Part.endMinute (s : Part) (stepped park : Bool) (next : Nat) (host : Option (Option Nat)) : Part :=
  let s := s.gather
  let q0 := if park then (s, []) else s.flushBacklog host
  let q := iter s.activeSlices q0 fun q sl =>
    let s := q.1.count .sliceHarvestMinutes sl
    let w := s.harvestPut sl (s.harvestBody sl stepped park) park host
    let s := w.1.nextMinute sl
    match w.2 with
    | some i => (s, if q.2.contains i then q.2 else q.2 ++ [i])
    | none => (s, q.2)
  let s := iter q.2 q.1 fun s i => s.msix i 17
  { s.count .harvestMinutes 0 with minuteStart := next, steppedMinute := stepped }

/-- Nanoseconds of a harvest minute. -/
def nsPerMinute : Nat := 60 * nsPerS

/-- HARVEST_MINUTE_END (spec/12 R486, R490). -/
def execHarvestMinuteEnd (host : HostReads) (s : State) : Host.Outcome State Fault Refusal :=
  s.run fun s =>
    if !s.gateRuns then s else s.endMinute false false (s.now / nsPerMinute * nsPerMinute) (some host.consumer)

/-! ## Snapshots (spec/12 R478, R479) -/

/-- The entries that SNAP_SET of a port lists, up to the first 0. -/
def Part.snapList (s : Part) (i : Nat) : List Nat := ((List.range 256).map fun k => bits (s.od .snapSet i) (32 * k) 32).takeWhile (· != 0)

/-- A listed entry is omitted: a slice entry of a slice not bound to the port (spec/12 R478). -/
def Part.snapOmitted (s : Part) (i n : Nat) : Bool :=
  match entryOf n with
  | some (e, k) => e.info.func == .slice && s.boundPort k != some i
  | none => true

/-- The body of a snapshot record above its tag, and its units (spec/12 R479). -/
def Part.snapshotBody (s : Part) (i : Nat) : Nat × Nat :=
  let l := s.snapList i
  let value (n : Nat) : Nat := if s.snapOmitted i n then 0 else match entryOf n with
    | some (e, k) => bits (s.odRead e k) 0 64
    | none => 0
  let marks (t : Nat → Bool) : Nat := (l.zipIdx.filter fun q => t q.1).foldl (fun b q => setBit b q.2 true) 0
  let period := s.od .snapPeriod i * nsPerMs
  let x := (l.length <<< 368) ||| (bits (s.port i).snapNumber 0 64 <<< 384) ||| ((s.now / period * period) <<< 448) |||
    (marks s.taint.contains <<< 512) ||| (marks (s.snapOmitted i) <<< 768) ||| (unchunks 64 (l.map value) <<< 1024)
  (x >>> 64, (128 + 8 * l.length + 63) / 64)

/-- SNAPSHOT_TICK (spec/12 R479). -/
def execSnapshotTick (i : Port) (host : HostReads) (s : State) : Host.Outcome State Fault Refusal :=
  s.run fun s =>
    if !s.gateRuns || !((s.port i).rings.get Ring.zero 0).enabled then s else
    let b := s.snapshotBody i
    let w := s.ringWrite i 0 1 b.2 b.1 (some host.consumer)
    let s := w.1.onPort i fun t => { t with snapNumber := t.snapNumber + 1 }
    if w.2 then (s.count .snapshotsWritten i).msix i 16 else s

/-! ## The tenant's counter dump (spec/12 R485) -/

/-- A DUMP record as bits: tag, time, zeros, window offsets 0x200 to 0x67F. -/
def Part.dumpRecord (s : Part) (sl : Nat) : Nat :=
  let w := s.windowOf sl
  let values := (List.range 112).map fun k => bits (w.get 0 (0x20 + k)) 0 64
  ringTag 0 19 3 ||| (s.now <<< 64) ||| (unchunks 64 values <<< 512) ||| (bits (w.get 0 1) 0 128 <<< (512 + 8 * 0x380)) |||
    (bits (s.od .sliceHarvestLast sl) 0 1024 <<< (512 + 8 * 0x400))

/-- COUNTER_DUMP_WRITTEN (spec/12 R485): the body first, the tag last; RESULT reads DONE or FAILED. -/
def execCounterDumpWritten (i : Port) (sl : Slice) (ok : Bool) (s : State) : Host.Outcome State Fault Refusal :=
  s.run fun s =>
    if (s.slice sl).doorRun != 1 || s.boundPort sl != some i.val then s else
    let x := s.dumpRecord sl
    let addr := s.od .sliceDumpAddress sl
    if !ok then s.endDoorbell sl true 6 else
    match s.sliceWrite sl (addr + 8) 1208 (x >>> 64) with
    | (s, false) => s.endDoorbell sl true 6
    | (s, true) =>
      match s.sliceWrite sl addr 8 (bits x 0 64) with
      | (s, false) => s.endDoorbell sl true 6
      | (s, true) => s.endDoorbell sl true 2

/-! ## The time base (spec/12 R467 to R472) -/

/-- What was measured on the old time base stands on the new one. -/
def shifted (old new t : Nat) : Nat := new + t - old

/-- The times that the part keeps move with a step, so that what they measure goes on. -/
def Part.shiftTimes (s : Part) (old new : Nat) : Part :=
  let f := shifted old new
  let s := { s with
    ports := s.ports.map fun (e : Nat × PortState) => (e.1, { e.2 with
      parts := e.2.parts.map fun (q : Nat × Partition) => (q.1, { q.2 with meterTime := f q.2.meterTime }) })
    slices := s.slices.map fun (e : Nat × SliceState) => (e.1, { e.2 with drain := e.2.drain.map fun (d : Drain) => { d with start := f d.start } })
    chans := s.chans.map fun (e : Nat × ChanState) => (e.1, { e.2 with
      passStart := if e.2.passStart = 0 then 0 else f (e.2.passStart - 1) + 1
      parityTime := e.2.parityTime.map fun (t : Option Nat) => t.map f })
    lastLog := s.lastLog.map fun (e : Nat × Nat) => (e.1, f (e.2 - 1) + 1)
    boot := { s.boot with heartbeat := f (s.boot.heartbeat - 1) + 1, bootStart := f s.boot.bootStart }
    rest := { s.rest with start := f s.rest.start, entered := f s.rest.entered, exitAt := f s.rest.exitAt } }
  if s.vint.armed then s.setOd .vintageSwapTime 0 (new + 100000) else s

/-- The time base steps (spec/12 R472): the minute and the hammer windows that the step interrupts end, a swap time is fixed
again (spec/07), code 0x1501. -/
def Part.stepTime (s : Part) (new : Nat) : Part :=
  let old := s.now
  let s := s.endMinute true false new none
  let s := ({ s with now := new }).shiftTimes old new
  let s := (s.count .timeSteps 0).setOd .timeLastStep 0 new
  let s := iter (s.chans.map (·.1)) s Part.hammerWindow
  s.logEv 0x1501 old new

/-- TIME_STATE: 0 UNSET, 1 FREE, 2 ACQUIRING, 3 LOCKED, 4 HOLDOVER. -/
def Part.timeState (s : Part) : Nat := s.od0 .timeState

/-- PTP_MESSAGE (spec/12 R469, R470): a master of the domain is heard and an offset measured. The time base steps to the
master's time at a first lock or beyond TIME_STEP_THRESHOLD, else its rate changes by at most 500 ppm. -/
def execPtpMessage (offset : Int) (master : U64) (domain : BitVec 8) (s : State) : Host.Outcome State Fault Refusal :=
  s.run fun s =>
    if s.od0 .timeSource != 1 || domain.toNat != s.od0 .timePtpDomain || s.rest.inRest || !s.gateAlive then s else
    let s := s.setOd .timeOffset 0 (ofInt 32 (max (-(2 ^ 31 : Int)) (min (2 ^ 31 - 1) offset)))
    let s := if !s.ptpLock || decide (s.od0 .timeStepThreshold * 1000 < offset.natAbs) then s.stepTime master.toNat
      else { s with ptpRate := max (-500) (min 500 (-offset)) }
    let s : Part := { s with gate := { s.gate with ptpAt := s.now + 1 } }
    if s.timeState = 3 then s else
    (({ s with ptpLock := true }).setOd .timeState 0 3).logEv 0x1506 0 0

/-- PTP_LOSS_TIMEOUT (spec/12 R468): HOLDOVER, code 0x1505, unless the master is heard now (spec/00 R13). -/
def execPtpLossTimeout (s : State) : Host.Outcome State Fault Refusal :=
  s.run fun s => if s.od0 .timeSource = 1 && s.timeState = 3 && s.gate.ptpAt != s.now + 1 then (s.setOd .timeState 0 4).logEv 0x1505 0 0 else s

/-- A write of TIME_SOURCE (spec/12 R468, R472). -/
def Part.timeSourceWrite (s : Part) (w : Who) (v len : Nat) : Reply :=
  s.written w .timeSource v len fun s =>
    if v = s.od0 .timeSource then s.ok else
    let s := (s.setOd .timeSource 0 v).setOd .timeState 0 (if v = 1 then 2 else 1)
    (({ s with ptpLock := if v = 1 then s.ptpLock else false, ptpRate := if v = 1 then s.ptpRate else 0 }).logEv 0x1501 s.now s.now).ok

/-- TIME_SOURCE_WRITE (spec/12 R468). -/
def execTimeSourceWrite (w : Who) (value : BitVec 8) (s : State) : Host.Outcome State Fault Refusal :=
  s.run fun s => (s.timeSourceWrite w value.toNat 1).answer w

end Sys2Proof.Machine
end

