-- ==== Sys2Proof/Machine/Rings.lean ====
section
/-!
DEFINITION. The rings of a port, its snapshot set and its arms as they are set up (spec/12 R473, R478, R481), and what its
engines do when bus mastering or the D-state changes (spec/09 R385, R388, R389).
-/

namespace Sys2Proof.Machine

/-! ## Enabling rings (spec/12 R473, R477, R490) -/

/-- A ring is enabled: no fault, PRODUCER 0, CONSUMER read; an engine that may not master the bus parks (spec/09 R385). -/
def Part.ringStart (s : Part) (i r : Nat) : Part :=
  let s := s.onRing i r fun _ => { Ring.zero with enabled := true }
  let s := s.modOd .ringState i fun v => setBit v r false
  if !s.bmActive i then s else
  match s.readConsumer i r none with
  | (s, some c) => s.onRing i r fun g => { g with consumer := c }
  | (s, none) => s

/-- The harvest rings take what the backlog keeps for them (spec/12 R490); vector 17 for each ring written to. -/
def Part.drainBacklog (s : Part) : Part :=
  let q := s.flushBacklog none
  iter q.2 q.1 fun s i => s.msix i 17

/-- A ring may be enabled: it has units and lies in one enabled window without PASID. -/
def Part.ringFit (s : Part) (i r : Nat) : Bool := s.ringUnits i r != 0 && s.ringInWindow i r

/-- A write of RING_ENABLE (spec/12 R473). -/
def Part.ringEnableWrite (s : Part) (w : Who) (i v len : Nat) : Reply :=
  s.written w .ringEnable v len fun s =>
    let old := s.od .ringEnable i
    let rises := (List.range 3).filter fun r => bit v r && !bit old r
    if rises.any fun r => !s.ringFit i r then s.refuse rCondition else
    let s := iter (List.range 3) s fun s r => if bit v r then s else s.onRing i r fun g => { g with enabled := false }
    let s := iter rises (s.setOd .ringEnable i (bits v 0 3)) fun s r => s.ringStart i r
    (if rises.contains 1 then s.drainBacklog else s).ok

/-- RING_ENABLE_WRITE (spec/12 R473). -/
def execRingEnableWrite (w : Who) (i : Port) (value : BitVec 8) (s : State) : Host.Outcome State Fault Refusal :=
  s.run fun s => (s.ringEnableWrite w i value.toNat 1).answer w

/-! ## The snapshot set and the arms (spec/12 R478, R481) -/

/-- The refusal of a listed entry (spec/12 R478): it must be a number that can be read, of the port's own slices. -/
def Part.snapRefusal (s : Part) (i n : Nat) : Option Nat :=
  match entryOf n with
  | none => some rRange
  | some (e, k) =>
    let f := e.info
    if f.ty == .string || f.ty == .blob || f.access == .wo then some rRange
    else if f.func == .slice && s.boundPort k != some i then some rCondition
    else none

/-- A write of SNAP_SET (spec/12 R478). -/
def Part.snapSetWrite (s : Part) (w : Who) (i v len : Nat) : Reply :=
  s.written w .snapSet v len fun s =>
    let l := ((List.range 256).map fun k => bits v (32 * k) 32).takeWhile (· != 0)
    match l.findSome? (s.snapRefusal i) with
    | some c => s.refuse c
    | none => (s.setOd .snapSet i v).ok

/-- SNAP_SET_WRITE (spec/12 R478). -/
def execSnapSetWrite (w : Who) (i : Port) (value : Nat) (s : State) : Host.Outcome State Fault Refusal :=
  s.run fun s => (s.snapSetWrite w i value 1024).answer w

/-- An arm of a port may count a tally: one of the port itself or of a slice bound to it (spec/12 R481). -/
def Part.armable (s : Part) (i : Nat) (e : Entry) (k : Nat) : Bool :=
  e.isTally && match e.info.func with
    | .port => k / e.info.perIndex == i
    | .slice => s.boundPort k == some i
    | _ => false

/-- A write of ARM_COUNTER (spec/12 R481): the count starts from now. -/
def Part.armCounterWrite (s : Part) (w : Who) (i a v len : Nat) : Reply :=
  s.written w .armCounter v len fun s =>
    let set_ (s : Part) (last : Nat) : Reply :=
      ((s.setOd .armCounter (i * 8 + a) v).onPort i fun t => { t with arms := t.arms.set Arm.zero a { Arm.zero with last := last } }).ok
    if v = 0 then set_ s 0 else
    match entryOf v with
    | none => s.refuse rCondition
    | some (e, k) => if s.armable i e k then set_ s (s.tallyNow e k) else s.refuse rCondition

/-- ARM_COUNTER_WRITE (spec/12 R481). -/
def execArmCounterWrite (w : Who) (i : Port) (a : Fin 8) (value : BitVec 32) (s : State) : Host.Outcome State Fault Refusal :=
  s.run fun s => (s.armCounterWrite w i a value.toNat 4).answer w

/-! ## Bus mastering and D-states (spec/09 R385, R388, R389) -/

/-- The engines of a port go on from where they parked: interrupts, notices, the backlog. -/
def Part.busMasterResume (s : Part) (i : Nat) : Part :=
  if s.bmActive i then ((s.flushMsix i).flushNotices).drainBacklog else s

/-- BUS_MASTER_ENABLE_SET (spec/09 R385). -/
def execBusMasterEnableSet (i : Port) (s : State) : Host.Outcome State Fault Refusal :=
  s.run fun s => (s.onPort i fun t => { t with bme := true }).busMasterResume i

/-- PM_D_STATE_CHANGE (spec/09 R388): 0 D0, 1 D3hot, 2 D3cold; `pme` is PME_En. -/
def execPmDStateChange (i : Port) (dstate : Fin 3) (pme : Bool) (s : State) : Host.Outcome State Fault Refusal :=
  s.run fun s =>
    let old := s.od .portDState i
    let s := (s.onPort i fun t => { t with pmeEn := pme }).setOd .portDState i dstate
    if old = 0 && dstate.val != 0 then s.busMasterStop i
    else if old != 0 && dstate.val = 0 then s.busMasterResume i
    else s

end Sys2Proof.Machine
end

