-- ==== Sys2Proof/Machine/Mailbox.lean ====
section
/-!
DEFINITION. The mailbox of a host port (spec/09 R366 to R374, R382, spec/12 R471): every command of R367 but the two of
dynamic capacity that stand in Grants.lean and Pavilions.lean and VOP_TRANSPORT, which stands with the frames. A payload is the
list of its fields' values in the order that CXL gives them (log entry 30).
-/

namespace Sys2Proof.Machine

/-! ## Identity and firmware (spec/09 R352, R367) -/

/-- MBOX_IDENTIFY: vendor, device, subsystem vendor and subsystem identifiers, serial number, log2 of the largest payload (8 KiB),
component type 3 (spec/09 R352, R366). -/
def execMboxIdentify (i : Port) (s : State) : Host.Outcome State Fault Refusal :=
  s.run fun s => s.mbox i mbSuccess [0x1F8B, 0x0C08, bits s.flash.subsys 0 16, bits s.flash.subsys 16 16, s.flash.serial, 13, 3]

/-- MBOX_GET_FW_INFO: one slot, active, none staged, no activation, the revision of the firmware in force. -/
def execMboxGetFwInfo (i : Port) (s : State) : Host.Outcome State Fault Refusal :=
  s.run fun s => s.mbox i mbSuccess [1, 1, 0, 0, s.boot.version]

/-- The mailbox opcodes of spec/09 R367 with their command effects (log entry 31): bit 1 immediate configuration change, bit 2
immediate data change, bit 3 immediate policy change, bit 4 immediate log change, bit 6 background operation. -/
def mboxEffects : List (Nat × Nat) :=
  [(0x0001, 0), (0x0100, 0), (0x0101, 16), (0x0102, 0), (0x0103, 8), (0x0200, 0), (0x0300, 0), (0x0301, 8), (0x0400, 0),
    (0x0401, 0), (0x4000, 0), (0x4300, 0), (0x4302, 4), (0x4800, 0), (0x4801, 0), (0x4802, 2), (0x4803, 2 + 64), (0xC800, 64)]

/-- The bytes of the Command Effects Log: opcode and effect, 2 bytes each. -/
def celBytes : List Nat := mboxEffects.flatMap fun e => toBytes 2 e.1 ++ toBytes 2 e.2

/-- MBOX_GET_SUPPORTED_LOGS: one log, the Command Effects Log, with its length. -/
def execMboxGetSupportedLogs (i : Port) (s : State) : Host.Outcome State Fault Refusal :=
  s.run fun s => s.mbox i mbSuccess [1, celBytes.length]

/-- MBOX_GET_LOG: bytes of the Command Effects Log; another log or a range past its end is Invalid Input. -/
def execMboxGetLog (i : Port) (cel : Bool) (offset : Nat) (len : Nat) (s : State) : Host.Outcome State Fault Refusal :=
  s.run fun s =>
    if !cel || celBytes.length < offset + len then s.mbox i mbInvalid []
    else s.mbox i mbSuccess ((celBytes.drop offset).take len)

/-! ## Event logs (spec/09 R369, R373) -/

/-- The fields of an event record as its command returns them. -/
def EventRec.fields (r : EventRec) : List Nat :=
  [r.kind, r.handle, r.time, r.code, r.slice, r.detail, r.pavilion, r.logical, r.dpa, r.valueA, r.valueB]

/-- Records that one payload of 8 KiB holds: 128 bytes each after a header of 32 bytes. -/
def recordsPerPayload : Nat := 63

/-- MBOX_GET_EVENT_RECORDS: the overflow and More flags, the overflow count and times, the number of records, the records. -/
def execMboxGetEventRecords (i : Port) (log : Fin 5) (s : State) : Host.Outcome State Fault Refusal :=
  s.run fun s =>
    let g := (s.port i).logs.get EventLog.zero log
    let l := g.records.take recordsPerPayload
    let flags := b2n (g.overflow != 0) + 2 * b2n (decide (recordsPerPayload < g.records.length))
    s.mbox i mbSuccess ([flags, g.overflow, g.firstTime, g.lastTime, l.length] ++ l.flatMap EventRec.fields)

/-- Invalid Handle. -/
def mbInvalidHandle : Nat := 0xE

/-- MBOX_CLEAR_EVENT_RECORDS: every record, or those whose handles it names; the overflow state is cleared with a record. -/
def execMboxClearEventRecords (i : Port) (log : Fin 5) (all : Bool) (handles : List Nat) (s : State) :
    Host.Outcome State Fault Refusal :=
  s.run fun s =>
    let g := (s.port i).logs.get EventLog.zero log
    let keep (f : EventRec → Bool) : Part :=
      let g' : EventLog := { g with records := g.records.filter f, overflow := 0, firstTime := 0, lastTime := 0 }
      (s.onPort i fun t => { t with logs := t.logs.set EventLog.zero log g' }).mbox i mbSuccess []
    if all then keep fun _ => false
    else if handles.isEmpty then s.mbox i mbInvalid []
    else if handles.any fun h => !(g.records.any fun r => r.handle == h) then s.mbox i mbInvalidHandle []
    else keep fun r => !handles.contains r.handle

/-- MBOX_GET_EVENT_INT_POLICY: per log 0 where no interrupt is raised, else the vector plus 1. -/
def execMboxGetEventIntPolicy (i : Port) (s : State) : Host.Outcome State Fault Refusal :=
  s.run fun s => s.mbox i mbSuccess (s.port i).policy

/-- MBOX_SET_EVENT_INT_POLICY: vectors 0 to 15 only (spec/09 R373). -/
def execMboxSetEventIntPolicy (i : Port) (policy : List Nat) (s : State) : Host.Outcome State Fault Refusal :=
  s.run fun s =>
    if policy.length != 5 || policy.any (16 < ·) then s.mbox i mbInvalid []
    else (s.onPort i fun t => { t with policy := policy }).mbox i mbSuccess []

/-! ## The time base (spec/12 R471) -/

/-- MBOX_GET_TIMESTAMP. -/
def execMboxGetTimestamp (i : Port) (s : State) : Host.Outcome State Fault Refusal :=
  s.run fun s => s.mbox i mbSuccess [s.now]

/-- MBOX_SET_TIMESTAMP: a step only under source HOST on the port of TIME_HOST_PORT; ignored and counted elsewhere. -/
def execMboxSetTimestamp (i : Port) (time : U64) (s : State) : Host.Outcome State Fault Refusal :=
  s.run fun s =>
    let s := if s.od0 .timeSource = 2 && s.od0 .timeHostPort = i.val then s.stepTime time.toNat else s.count .timeSetsIgnored 0
    s.mbox i mbSuccess []

/-! ## Capacity and poison (spec/09 R367, R372) -/

/-- MBOX_IDENTIFY_MEMORY_DEVICE: the firmware revision, total, volatile and persistent capacity 0, the records of each log,
label storage 0, the length of the poison list, no injected poison. -/
def execMboxIdentifyMemoryDevice (i : Port) (s : State) : Host.Outcome State Fault Refusal :=
  s.run fun s => s.mbox i mbSuccess [s.boot.version, 0, 0, 0, 512, 512, 512, 512, 512, 0, 1024, 0]

/-- Poison entries that one payload of 8 KiB holds: 16 bytes each after a header of 32 bytes. -/
def poisonPerPayload : Nat := 510

/-- MBOX_GET_POISON_LIST: the More and overflow flags, the overflow time, the number of entries, and per entry its DPA, its length
in 64 B units and the source Internal (2). -/
def execMboxGetPoisonList (i : Port) (s : State) : Host.Outcome State Fault Refusal :=
  s.run fun s =>
    let l := (s.port i).poison
    let o := (s.port i).poisonOver
    s.mbox i mbSuccess ([b2n (decide (poisonPerPayload < l.length)) + 2 * b2n o.isSome, o.getD 0, min poisonPerPayload l.length]
      ++ (l.take poisonPerPayload).flatMap fun e => [e.dpa, e.units, 2])

/-- The slice and the logical address of a DPA of a port, where its extent is accepted and the slice RUNNING. -/
def Part.ofDpa (s : Part) (i dpa : Nat) : Option (Nat × Nat) :=
  if !s.maskBit i (dpa / 2 ^ 21) then none else
  match s.extOfDpa i (dpa / 2 ^ 21) with
  | some (sl, le) => if s.od .sliceState sl = 2 && s.boundPort sl = some i then some (sl, le * 2 ^ 21 + dpa % 2 ^ 21) else none
  | none => none

/-- MBOX_CLEAR_POISON: a full-line write of the given data to the line of a DPA. -/
def execMboxClearPoison (i : Port) (dpa : U64) (data : Line) (s : State) : Host.Outcome State Fault Refusal :=
  s.run fun s =>
    match s.ofDpa i dpa.toNat with
    | none => s.mbox i mbInvalid []
    | some (sl, logical) =>
      let r : Req := ⟨.write, i, 0, ones64, dpa.toNat, sl, logical / 64 * 64, data.toNat, 0, s.vint.bank, s.od .portEpoch i, false⟩
      (s.enqueue r).mbox i mbSuccess []

/-! ## Dynamic capacity (spec/09 R374, R382) -/

/-- MBOX_GET_DC_CONFIGURATION: 8 regions, each with its base, its length of 2^45 bytes, its block size and its DSMAS handle. -/
def execMboxGetDcConfiguration (i : Port) (s : State) : Host.Outcome State Fault Refusal :=
  s.run fun s => s.mbox i mbSuccess (8 :: (List.range 8).flatMap fun r => [r * 2 ^ 45, 2 ^ 45, 2 ^ 21, r])

/-- Runs of consecutive accepted DPA extents under one tag: first DPA, length and tag of each. -/
def tagRuns : List (Nat × Nat) → List (Nat × Nat × Nat)
  | [] => []
  | (x, g) :: r => match tagRuns r with
    | (y, n, h) :: q => if y = x + 1 && h = g then (x, n + 1, g) :: q else (x, 1, g) :: (y, n, h) :: q
    | [] => [(x, 1, g)]

/-- The accepted DPA extents of a port, rising, with their tags (spec/09 R375). -/
def Part.acceptedExts (s : Part) (i : Nat) : List (Nat × Nat) :=
  (s.port i).masks.flatMap fun m => ((List.range 512).filter (bit m.2)).map fun k =>
    let e := (s.port i).regionMap.get 0 m.1
    (m.1 * 512 + k, dcTag ((s.port i).grantOf.get 0 (m.1 * 512 + k)) (bits e 0 16) (bits e 16 12))

/-- MBOX_GET_DC_EXTENT_LIST: the accepted extents: start DPA, length and tag of each run. -/
def execMboxGetDcExtentList (i : Port) (s : State) : Host.Outcome State Fault Refusal :=
  s.run fun s =>
    let l := tagRuns (s.acceptedExts i)
    s.mbox i mbSuccess (l.length :: l.flatMap fun r => [r.1 * 2 ^ 21, r.2.1 * 2 ^ 21, r.2.2])

/-- MBOX_UNSUPPORTED: an opcode that R367 does not list. -/
def execMboxUnsupported (i : Port) (opcode : BitVec 16) (s : State) : Host.Outcome State Fault Refusal :=
  s.run fun s => if mboxEffects.any fun e => e.1 == opcode.toNat then s else s.mbox i mbUnsupported []

end Sys2Proof.Machine
end

