-- ==== Sys2Proof/Machine/PowerIn.lean ====
section
/-!
DEFINITION. The power-input controller (spec/14 R523 to R544): presence, the main FET, the DIMM branches, samples; what a loss
of the core supply leaves (R531, spec/17 R612, R621). Lands by number: 0 MAIN_PG, 1 CORE_EN, 2 THERMTRIP_N.
-/

namespace Sys2Proof.Machine

/-! ## The land levels -/

/-- Drive CORE_EN. -/
def Part.setCoreEn (s : Part) (on : Bool) : Part :=
  if s.power.coreEn = on then s else ({ s with power := { s.power with coreEn := on } }).emit (.pin 1 (b2n on))

/-- Drive MAIN_PG. -/
def Part.setMainPG (s : Part) (on : Bool) : Part :=
  if s.power.mainPG = on then s else ({ s with power := { s.power with mainPG := on } }).emit (.pin 0 (b2n on))

/-! ## Losing the core supply (spec/14 R531, spec/13 R505, R519) -/

/-- The entries whose values stand in always-on registers: the power-input controller's (spec/14 R523), the state of the always-on PLL
and of the time base, and the failed state of the part, which only a cold power cycle ends (spec/01 R23). -/
def keptEntries : List Entry :=
  [.aonPllLocked, .timeState, .bootSource, .partFailed, .partFailCause] ++ Entry.all.filter fun e => decide (0x2300 ≤ e.info.index) && decide (e.info.index < 0x2320)

/-- A key of the store is that of an entry which a loss of the core supply leaves. -/
def keptKey (k : Nat) : Bool := keptEntries.any fun e => e.key 0 / 65536 == k / 65536

/-- The retired pavilions of the wear record enter STARTING at no boot (spec/01 R28, log entry 211). -/
def Part.retiredStay (s : Part) : Part :=
  iter (allPavs.filter fun p => bit s.flash.retired p) s fun s p => (s.setOd .pavilionState p 4).setOd .pavilionPowerState p 2

/-- Every state outside the always-on domains is lost: what remains is the power-input controller, the time base, the part's log
in its retention SRAM, the flash. Keys and sessions do not survive a cold boot (spec/04 R151, spec/11 R453); a port keeps only
the level of its PERST#. -/
def Part.coreLost (s : Part) : Part :=
  let z := Part.reset
  let s : Part := { z with
    dict := s.dict.filter fun e => keptKey e.1
    now := s.now
    log := s.log
    logNext := s.logNext
    lastLog := s.lastLog
    ports := (s.ports.filter fun e => !e.2.perst).map fun e => (e.1, { PortState.zero with perst := false })
    power := { s.power with branchQ := [], branchTrips := [], limiting := s.power.limiting.filter (· == 0), corePG := false }
    flash := s.flash
    boot := { BootState.zero with again := true, liveness := s.boot.liveness, pav0Lost := s.boot.pav0Lost }
    out := s.out
    freeCtr := s.freeCtr }
  let s := iter (List.range 16) s fun s b => s.setOd .branchState b 0
  ((((s.setOd .packagePowerState 0 0).setOd .bootState 0 2).setOd .codebookState 0 1).setCoreEn false).retiredStay

/-- The core supply goes with the branches, and code 0x1706 is logged (spec/14 R531). -/
def Part.corePowerLost (s : Part) : Part := s.coreLost.logEv 0x1706 0 0

/-- MAIN_PG falls, if it stood high. -/
def Part.mainOff (s : Part) : Part :=
  let s := { s with power := { s.power with limiting := s.power.limiting.filter (· != 0) } }
  if !s.power.mainPG then s else
  let s := { s with power := { s.power with coreWait := false } }
  (s.setMainPG false).corePowerLost

/-! ## Boot stages (spec/16 R574) -/

/-- A stage of the cold boot ends: BOOT_STAGE_TIMES keeps its end in ms from the start of the boot. -/
def Part.stageTime (s : Part) (k : Nat) : Part :=
  s.modOd .bootStageTimes 0 fun v => setBits v (32 * (k - 1)) 32 ((s.now - s.boot.bootStart) / nsPerMs)

/-- A stage ends and another begins. -/
def Part.stageEnd (s : Part) (k next : Nat) : Part := (s.stageTime k).setOd .bootState 0 next

/-- Stage 3 begins when MAIN_PG stands high: CORE_EN (spec/14 R531), unless a thermal trip or three failures hold it low
(spec/17 R611, R621), or the part has failed (spec/01 R23, R24, log entry 212). -/
def Part.coreStart (s : Part) : Part :=
  if s.od0 .partFailed = 1 || s.boot.pav0Lost then s else
  if !s.power.mainPG || !s.power.thermtrip || decide (3 ≤ s.power.coreFails) then s else
  let s := if s.boot.again then
      ({ s with boot := { s.boot with again := false, bootStart := s.now } }).logEv 0x1901 (s.od0 .bootSource) 0
    else s
  ((s.stageEnd 2 3).setCoreEn true)

/-! ## The main FET (spec/14 R526 to R537) -/

/-- MAIN_STATE: 0 ABSENT, 1 WAITING, 2 RAMPING, 3 ON, 4 RETRY_WAIT, 5 LATCHED. -/
def Part.mainState (s : Part) : Nat := s.od0 .mainState

/-- Set MAIN_STATE. -/
def Part.setMain (s : Part) (v : Nat) : Part := s.setOd .mainState 0 v

/-- The gate of the main FET is driven. -/
def Part.mainDriven (s : Part) : Bool := s.mainState == 2 || s.mainState == 3

/-- A voltage lies inside the window: above MAIN_UV and below MAIN_OV. -/
def Part.inWindow (s : Part) (v : Nat) : Bool := decide (s.od0 .mainUv < v) && decide (v < s.od0 .mainOv)

/-- A trip of the main FET (spec/14 R534): 1 FAST, 2 SOA, 3 RAMP_TIMEOUT. -/
def Part.mainTrip (s : Part) (cause : Nat) : Part :=
  let s := s.mainOff
  let s := (s.modOd .mainRetryCount 0 (· + 1)).modOd .mainTrips 0 (· + 1)
  let s := ((s.setOd .mainLastTrip 0 cause).setOd .mainLastTripTime 0 s.now).logEv 0x1701 cause (s.od0 .mainRetryCount)
  if s.od0 .mainRetries < s.od0 .mainRetryCount then (s.setMain 5).logEv 0x1702 cause (s.od0 .mainRetryCount)
  else s.setMain 4

/-- PRESENT_RAW_ABSENCE (spec/14 R537): the gate goes off, no trip is recorded; PRESENT_n is a wake source (R543). -/
def execPresentRawAbsence (s : State) : Host.Outcome State Fault Refusal :=
  s.run fun s =>
    let s := ({ s with power := { s.power with rawPresent := false } }).wakeEvent 4
    if s.mainDriven then s.mainOff.setMain 1 else s

/-- PRESENCE_DEBOUNCED (spec/14 R530, R537): in ABSENT insertion starts; after an absence that did not reach 20 ms it is a
bounce. -/
def execPresenceDebounced (s : State) : Host.Outcome State Fault Refusal :=
  s.run fun s =>
    let was := s.power.rawPresent
    let s := ({ s with power := { s.power with rawPresent := true, present := true, absence := false } })
    let s := if was then s else s.wakeEvent 4
    if s.mainState = 0 then s.setMain 1
    else if was then s
    else
      let s := (s.modOd .presenceBounces 0 (· + 1)).logEv 0x1705 (s.od0 .presenceBounces + 1) 0
      if s.mainState = 5 then s else s.mainOff.setMain 1

/-- ABSENCE_DEBOUNCED (spec/14 R537): the absence timer starts. -/
def execAbsenceDebounced (s : State) : Host.Outcome State Fault Refusal :=
  s.run fun s =>
    if s.power.rawPresent then s else { s with power := { s.power with present := false, absence := true } }

/-- ABSENCE_TIMER_EXPIRY (spec/14 R537): MAIN_RETRY_COUNT returns to 0, LATCHED ends, the state becomes ABSENT. -/
def execAbsenceTimerExpiry (s : State) : Host.Outcome State Fault Refusal :=
  s.run fun s =>
    if !s.power.absence then s else
    (({ s with power := { s.power with absence := false } }.mainOff).setOd .mainRetryCount 0 0).setMain 0

/-- INSERT_DELAY_EXPIRY (spec/14 R530, step 2): the ramp starts. -/
def execInsertDelayExpiry (s : State) : Host.Outcome State Fault Refusal :=
  s.run fun s => if s.mainState = 1 && s.power.rawPresent then s.setMain 2 else s

/-- MAIN_FULLY_ON (spec/14 R530, step 4, R531): ON, MAIN_PG high, and the cold boot's stage 3. -/
def execMainFullyOn (s : State) : Host.Outcome State Fault Refusal :=
  s.run fun s => if s.mainState = 2 then ((s.setMain 3).setMainPG true).coreStart else s

/-- MAIN_RAMP_TIMEOUT (spec/14 R530). -/
def execMainRampTimeout (s : State) : Host.Outcome State Fault Refusal :=
  s.run fun s => if s.mainState = 2 then s.mainTrip 3 else s

/-- MAIN_FAST_TRIP (spec/14 R528): armed whenever the gate is driven. -/
def execMainFastTrip (s : State) : Host.Outcome State Fault Refusal :=
  s.run fun s => if s.mainDriven then s.mainTrip 1 else s

/-- MAIN_SOA_TIMER_EXPIRY (spec/14 R528). -/
def execMainSoaTimerExpiry (s : State) : Host.Outcome State Fault Refusal :=
  s.run fun s => if s.mainDriven && s.power.limiting.contains 0 then s.mainTrip 2 else s

/-- MAIN_RETRY_WAIT_END (spec/14 R534, step 4): a ramp when MAIN_VIN lies inside the window, else WAITING. -/
def execMainRetryWaitEnd (s : State) : Host.Outcome State Fault Refusal :=
  s.run fun s =>
    if s.mainState != 4 then s
    else if s.power.rawPresent && s.inWindow s.power.vin then s.setMain 2
    else s.setMain 1

/-- MAIN_RETRY_COUNT_RESET (spec/14 R535). -/
def execMainRetryCountReset (s : State) : Host.Outcome State Fault Refusal :=
  s.run fun s => if s.mainState = 3 then s.setOd .mainRetryCount 0 0 else s

/-- MAIN_WINDOW_EXIT (spec/14 R532): not a trip; insertion resumes with its delay. -/
def execMainWindowExit (s : State) : Host.Outcome State Fault Refusal :=
  s.run fun s =>
    if s.mainState != 3 then s else
    ((s.mainOff.setMain 1).modOd .mainWindowExits 0 (· + 1)).logEv 0x1703 s.power.vin 0

/-! ## Branches (spec/14 R538 to R542) -/

/-- A branch ramps now. -/
def Part.ramping (s : Part) : Bool := (List.range 16).any fun b => s.od .branchState b == 1

/-- Ramp the next waiting branch, one at a time (spec/14 R539). -/
def Part.nextRamp (s : Part) : Part :=
  if s.ramping then s else
  match s.power.branchQ with
  | [] => s
  | b :: q => ({ s with power := { s.power with branchQ := q } }).setOd .branchState b 1

/-- Turn a branch on: it ramps, or waits for the one that ramps. -/
def Part.branchTurnOn (s : Part) (b : Nat) : Part :=
  if s.power.branchQ.contains b then s else
  ({ s with power := { s.power with branchQ := s.power.branchQ ++ [b] } }).nextRamp

/-- The pavilions that are STARTING. -/
def Part.startingPavs (s : Part) : List Nat := allPavs.filter fun p => s.pstate p == 0

/-- A branch is still to come on. -/
def Part.branchesPending (s : Part) : Bool :=
  !s.power.branchQ.isEmpty || (List.range 16).any fun b => s.od .branchState b == 1 || s.od .branchState b == 3

/-- Stages 7 to 10 end when every pavilion that is STARTING has its branches, its training, its repair of listed rows and its
fill behind it (spec/16 R574, R577). -/
def Part.bootProgress (s : Part) : Part :=
  let all (s : Part) (l : List Nat) : Bool := s.startingPavs.all l.contains
  let s := if s.od0 .bootState = 7 && !s.branchesPending then s.stageEnd 7 8 else s
  let s := if s.od0 .bootState = 8 && all s s.boot.trained then s.stageEnd 8 9 else s
  let listed := s.flash.weakRows.any fun r => s.pstate (r.chan / 8) == 0 && !s.boot.repaired.contains (r.chan / 8)
  let s := if s.od0 .bootState = 9 && !listed then s.stageEnd 9 10 else s
  if s.od0 .bootState = 10 && all s s.boot.filled then s.stageEnd 10 11 else s

/-- A trip while the pavilion is STARTING: a retry, or TRIPPED with the pavilion FAILED (spec/14 R541). -/
def Part.tripStarting (s : Part) (b : Nat) : Part :=
  let n := s.power.branchTrips.get 0 b + 1
  let s : Part := { s with power := { s.power with branchTrips := s.power.branchTrips.put b n } }
  if s.od .branchRetries b < n then (s.setOd .branchState b 4).failPavilion (b / 2) 4 else s.setOd .branchState b 3

/-- A trip in REST: the branch is off at once, the pavilion fails at the exit, the trip is a wake (spec/14 R542, R543). -/
def Part.tripResting (s : Part) (b : Nat) : Part :=
  let l := if s.rest.dark.contains (b / 2) then s.rest.dark else s.rest.dark ++ [b / 2]
  ({ s with rest := { s.rest with dark := l } } : Part).wakeEvent 4

/-- What follows a trip of a branch, by its pavilion's state; on pavilion 0 the part fails (spec/01 R24). -/
def Part.tripFollows (s : Part) (b : Nat) : Part :=
  if s.pstate (b / 2) = 0 then s.tripStarting b
  else if s.rest.inRest then (s.setOd .branchState b 4).tripResting b
  else (s.setOd .branchState b 4).failPavilion (b / 2) 3

/-- A trip of a branch (spec/14 R541, R542): 1 FAST, 2 SOA, 3 RAMP_TIMEOUT. -/
def Part.branchTrip (s : Part) (b cause : Nat) : Part :=
  let s : Part := { s with power := { s.power with limiting := s.power.limiting.filter (· != b + 1) } }
  let s := ((s.modOd .branchTrips b (· + 1)).setOd .branchLastTrip b cause).logEv 0x1710 b cause none (b / 2)
  let s := s.tripFollows b
  let s := if b / 2 = 0 && s.pstate 0 = 5 then s.losePavilion0 else s
  s.nextRamp.bootProgress

/-- A write of BRANCH_COMMAND: 1 ON, 2 OFF (spec/14 R539 to R541). -/
def Part.branchCommand (s : Part) (w : Who) (b v : Nat) : Reply :=
  s.command w .branchCommand v false fun s =>
    let st := s.pstate (b / 2)
    if v = 1 then
      if s.od .branchState b != 0 || s.mainState != 3 || st != 0 then s.refuse rCondition else (s.branchTurnOn b).ok
    else if s.od .branchState b = 4 || (st != 0 && st != 4 && st != 5) then s.refuse rCondition
    else ((s.branchDown b).nextRamp.bootProgress).ok

/-- BRANCH_ON (spec/14 R539). -/
def execBranchOn (w : Who) (b : Branch) (s : State) : Host.Outcome State Fault Refusal :=
  s.run fun s => (s.branchCommand w b 1).answer w

/-- BRANCH_OFF (spec/14 R540). -/
def execBranchOff (w : Who) (b : Branch) (s : State) : Host.Outcome State Fault Refusal :=
  s.run fun s => (s.branchCommand w b 2).answer w

/-- BRANCH_FULLY_ON (spec/14 R539): the next waiting branch starts its ramp. -/
def execBranchFullyOn (b : Branch) (s : State) : Host.Outcome State Fault Refusal :=
  s.run fun s => if s.od .branchState b = 1 then ((s.setOd .branchState b 2).nextRamp).bootProgress else s

/-- BRANCH_RETRY_WAIT_END (spec/14 R541): a new ramp. -/
def execBranchRetryWaitEnd (b : Branch) (s : State) : Host.Outcome State Fault Refusal :=
  s.run fun s => if s.od .branchState b = 3 && s.pstate (b / 2) = 0 then (s.setOd .branchState b 0).branchTurnOn b else s

/-! ## Current limiting and samples (spec/14 R528, R533, R543) -/

/-- The gate of a FET is driven: 0 the main FET, b + 1 branch b. -/
def Part.fetDriven (s : Part) (k : Nat) : Bool :=
  if k = 0 then s.mainDriven else s.od .branchState (k - 1) == 1 || s.od .branchState (k - 1) == 2

/-- CURRENT_LIMIT_START (spec/14 R528): the driver regulates and the safe-area timer runs; a wake in REST (R543). -/
def execCurrentLimitStart (k : Fin 17) (s : State) : Host.Outcome State Fault Refusal :=
  s.run fun s =>
    if !s.fetDriven k || s.power.limiting.contains k then s else
    ({ s with power := { s.power with limiting := s.power.limiting ++ [k.val] } }).wakeEvent 4

/-- CURRENT_LIMIT_END (spec/14 R528): the driver stops regulating. -/
def execCurrentLimitEnd (k : Fin 17) (s : State) : Host.Outcome State Fault Refusal :=
  s.run fun s => { s with power := { s.power with limiting := s.power.limiting.filter (· != k.val) } }

/-- Add the energy of a sample, in units of 10^-7 mJ (mV × mA × 100 µs), to an energy entry; the rest below 1 mJ is kept. -/
def Part.addEnergy (s : Part) (k : Nat) (e : Entry) (i units : Nat) : Part :=
  let x := s.power.energy.get 0 k + units
  ({ s with power := { s.power with energy := s.power.energy.set 0 k (x % 10000000) } }).modOd e i (· + x / 10000000)

/-- The readings of a millisecond: the mean of its ten samples. -/
def Part.readings (s : Part) : Part :=
  let mean (k : Nat) : Nat := s.power.sums.getD k 0 / 10
  let s := ((s.setOd .mainVinNow 0 (mean 0)).setOd .mainVoutNow 0 (mean 1)).setOd .mainCurrent 0 (mean 2)
  let s := iter (List.range 16) s fun s b => s.setOd .branchCurrent b (mean (3 + b))
  { s with power := { s.power with sums := [], sumCount := 0 } }

/-- POWER_SAMPLE (spec/14 R533): voltages in mV, currents in mA; the energies at MAIN_VIN (log entry 32). -/
def execPowerSample (vin vout current : Nat) (branches : List Nat) (s : State) : Host.Outcome State Fault Refusal :=
  s.run fun s =>
    let l := vin :: vout :: current :: (List.range 16).map fun b => branches.getD b 0
    let sums := (List.range 19).map fun k => s.power.sums.getD k 0 + l.getD k 0
    let s : Part := { s with power := { s.power with vin := vin, sums := sums, sumCount := s.power.sumCount + 1 } }
    let s := s.addEnergy 0 .mainEnergy 0 (vin * current)
    let s := iter (List.range 16) s fun s b => s.addEnergy (b + 1) .branchEnergy b (vin * l.getD (3 + b) 0)
    let s := if s.power.sumCount < 10 then s else s.readings
    let out := decide (vin < s.od0 .mainWarnLow) || decide (s.od0 .mainWarnHigh < vin)
    let left := out && !s.power.warnOut
    let s := { s with power := { s.power with warnOut := out } }
    if left then (s.logEv 0x1704 vin 0).wakeEvent 4 else s

end Sys2Proof.Machine
end

