-- ==== Sys2Proof/Machine/Seasons.lean ====
section
/-!
DEFINITION. Ageing, seasons and the lower rungs of the sparing ladder (spec/15 R546 to R568).
-/

namespace Sys2Proof.Machine

/-- Firmware runs on the gatehouse, and not parked: what is periodic happens. -/
def Part.firmwareRuns (s : Part) : Bool :=
  s.gateAlive && decide (7 ≤ s.od0 .bootState) && decide (s.od0 .bootState ≤ 13) && !s.gateParked

/-! ## Age (spec/15 R546, R547) -/

/-- One more term of the exponential series: the sum so far and the last term, both in units of 2^-64. -/
def expTerm (num den k : Nat) (q : Nat × Nat) : Nat × Nat :=
  let t := q.2 * num / (den * k)
  (q.1 + t, t)

/-- exp(num / den) in units of 2^-32, by 120 terms of the series. -/
def exp32 (num den : Nat) : Nat :=
  ((List.range 120).foldl (fun q k => expTerm num den (k + 1) q) (2 ^ 64, 2 ^ 64)).1 / 2 ^ 32

/-- The acceleration factor at a junction temperature in °C, in units of 2^-32 (spec/15 R546): exp(8,123.5 K × (1/343.15 K −
1/T)). -/
def ageFactor (t : Nat) : Nat :=
  let k := 100 * t + 27315
  if 34315 ≤ k then exp32 (812350 * (k - 34315)) (34315 * k)
  else 2 ^ 64 / exp32 (812350 * (34315 - k)) (34315 * k)

/-- The band of the profile of R546 that a temperature falls in; 4 above 105 °C. -/
def tempBand (t : Nat) : Nat :=
  if t ≤ 70 then 0 else if t ≤ 85 then 1 else if t ≤ 95 then 2 else if t ≤ 105 then 3 else 4

/-- WEAR_EQUIV_HOURS and TJ_HISTOGRAM from the counts (spec/15 R547). -/
def Part.showAge (s : Part) : Part :=
  let oldest := (allPavs.map fun p => s.season.age.get 0 p).foldl max 0
  (s.setOd .wearEquivHours 0 (oldest / 2 ^ 32 / 3600)).setOd .tjHistogram 0
    (unchunks 32 ((List.range 5).map fun b => s.season.bands.get 0 b / 3600))

/-- AGE_INTEGRATE (spec/15 R547, R551): the hottest sensor of each pavilion in °C; the season's time runs in RUN, IDLE and
REST. -/
def execAgeIntegrate (temps : List Nat) (s : State) : Host.Outcome State Fault Refusal :=
  s.run fun s =>
    if s.od0 .packagePowerState = 0 then s else
    let age := (allPavs.foldl (fun m p => m.modify 0 p (· + ageFactor (temps.getD p 0))) s.season.age)
    let bands := s.season.bands.modify 0 (tempBand (temps.foldl max 0)) (· + 1)
    (({ s with season := { s.season with age := age, bands := bands } }).modOd .seasonElapsed 0 (· + 1)).showAge

/-- RING_OSCILLATOR_SAMPLE (spec/15 R548): the drift of the pavilion's worst domain. -/
def execRingOscillatorSample (p : Pav) (drift : Int) (s : State) : Host.Outcome State Fault Refusal :=
  s.run fun s => if s.rest.inRest then s else s.setOd .roDrift p (ofInt 32 drift)

/-! ## The wear record (spec/15 R550) -/

/-- Write the wear record: what it holds beside the lists that stand in flash at once. -/
def Part.writeWear (s : Part) : Part :=
  let guards := allPavs.foldl (fun m p => Sparse.set 0 m p (s.od .vddGuard p)) []
  let floors := (List.range 64).foldl (fun m c => Sparse.set 0 m c (s.od .refreshFloor c)) []
  { s with flash := { s.flash with
    wear := ⟨s.od0 .seasonNumber, s.od0 .seasonElapsed, s.season.age, s.season.bands, guards, floors⟩ } }

/-- WEAR_RECORD_HOURLY (spec/15 R550). -/
def execWearRecordHourly (s : State) : Host.Outcome State Fault Refusal :=
  s.run fun s => if s.firmwareRuns then s.writeWear else s

/-! ## The core voltage guard (spec/15 R549, R554, spec/17 R609) -/

/-- A pavilion's guard takes a value, up to the fused limit; the regulator is written, and a write it does not acknowledge is a
fault of the pavilion (spec/17 R609). -/
def Part.setGuard (s : Part) (p v : Nat) (ack : Bool) : Part :=
  let v := min s.flash.vddLimit v
  if v = s.od .vddGuard p then s else
  let s := s.setOd .vddGuard p v
  if ack then s else
  let s := s.failPavilion p 3
  if p = 0 then s.losePavilion0 else s

/-- The least slack of a pavilion in the season, in ps. -/
def Part.slackMin (s : Part) (p : Nat) : Option Int :=
  let v := s.season.slack.get 0 p
  if v = 0 then none else some (toInt 32 (v - 1))

/-- PATH_DELAY_SAMPLE (spec/15 R548, R549): the worst monitor's slack in ps, and whether the regulator acknowledges a write that
follows. -/
def execPathDelaySample (p : Pav) (slack : Int) (avsAck : Bool) (s : State) : Host.Outcome State Fault Refusal :=
  s.run fun s =>
    if s.rest.inRest || 4 ≤ s.pstate p then s else
    let least := match s.slackMin p with
      | some m => min m slack
      | none => slack
    let s : Part := { s with season := { s.season with slack := s.season.slack.set 0 p (ofInt 32 least + 1) } }
    let s := s.setOd .pathSlackMin p (ofInt 32 least)
    if slack < 0 then (s.logEv 0x1803 p (ofInt 64 slack) none p).setGuard p (s.od .vddGuard p + 10) avsAck else s

/-- Step 1 of R552 on one pavilion (spec/15 R554); a new season's least slack begins. -/
def Part.seasonGuard (s : Part) (p : Nat) : Part :=
  if 4 ≤ s.pstate p then s else
  match s.slackMin p with
  | none => s
  | some m =>
    let g : Int := s.od0 .pathSlackGuard
    let v := s.od .vddGuard p
    let s := if m < g then s.setGuard p (v + 5 * ((g - m) / 2).toNat) true
      else if 2 * g < m then s.setGuard p (v - 5) true else s
    let worn := decide (s.od .vddGuard p = s.flash.vddLimit) && decide (m < g)
    let s : Part := { s with season := { s.season with slack := s.season.slack.erase p } }
    (s.setOd .pavilionWorn p (b2n worn)).setOd .pathSlackMin p 0

/-! ## The refresh floor and worn ranks (spec/15 R555, R562) -/

/-- Step 2 of R552 on one channel (spec/15 R555): corrections per hour of the season. -/
def Part.seasonFloor (s : Part) (c : Nat) : Part :=
  let n := s.tallyNow .ceChannel c
  let start := s.season.ceStart.get 0 c
  let rise := if start ≤ n then n - start else n
  let rate := rise * 3600 / max 1 (s.od0 .seasonElapsed)
  let s : Part := { s with season := { s.season with ceStart := s.season.ceStart.set 0 c n } }
  let s := s.setOd .ceRateSeason c (min rate (2 ^ 32 - 1))
  if s.od0 .ceRateDouble ≤ rate then (s.setOd .refreshFloor c 1).setOd .refreshRate c 1 else s

/-- A rank in service is worn (spec/15 R562). -/
def Part.rankWornNow (s : Part) (c r : Nat) : Bool :=
  decide (s.od0 .rankWearRows ≤ (s.flash.weakRows.filter fun w => w.chan == c && w.rank == r).length) ||
    decide (eyeWidth (s.od .trainEyes (c * 4 + r)) < s.od0 .eyeWidthWorn) ||
    decide (4 * s.od0 .ceRateDouble ≤ s.od .ceRateSeason c)

/-- Step 3 of R552 on one rank (spec/15 R562): rebuilt onto a spare, else marked and reported. -/
def Part.seasonRank (s : Part) (c r : Nat) : Part :=
  if s.rankState c r != 2 || !s.rankWornNow c r then s else
  match (if (s.chan c).rebuild.isSome then none else s.spareRank c) with
  | some k => ((s.startRebuild c r k).setOd .rankFailCause (c * 4 + r) 0).logEv 0x1804 (c * 4 + r) k none (c / 8)
  | none => (s.modOd .rankWorn c fun v => setBit v r true).logEv 0x180A (c * 4 + r) 0 none (c / 8)

/-! ## Seasons (spec/15 R551, R552) -/

/-- An eye margin in the layout of LINK_EYE_MARGIN (spec/08 R337) has a width or a height below 8 steps at either end (spec/15
R556; log entry 41 for the links). -/
def marginLow (m : Nat) : Bool := (List.range 4).any fun k => decide (bits m (8 * k) 8 < 8)

/-- Step 6 of R552 on one port at L0 (spec/15 R556). -/
def Part.seasonPort (s : Part) (i margin : Nat) : Part :=
  if s.od .portState i != 4 then s else
  let s := s.setOd .portEyeMargin i margin
  if marginLow margin then s.logEv 0x1807 i margin none (portPav i) else s

/-- The steps that need no window, in the order of R552; steps 4 and 5 wait for one. -/
def Part.seasonEnd (s : Part) (margins : List Nat) : Part :=
  let s := iter allPavs s Part.seasonGuard
  let chans := (List.range 64).filter fun c => s.od .channelState c == 2
  let s := iter chans s Part.seasonFloor
  let s := iter chans s fun s c => iter (List.range 4) s fun s r => s.seasonRank c r
  let open_ := s.od0 .maintState == 2
  let l := s.season.pending.filter (· < 20) ++ (if open_ then [24, 25] else [])
  let s : Part := { s with season := { s.season with pending := if open_ then l else [4, 5] } }
  let s := if open_ then s else s.setOd .maintState 0 1
  let s := iter (List.range 16) s fun s i => s.seasonPort i (margins.getD i 0)
  let s := iter allPavs s fun s p => if s.od .pavilionWorn p = 1 && s.inService p then s.rung4 p else s
  let s := ((s.modOd .seasonNumber 0 (· + 1)).setOd .seasonElapsed 0 0).setOd .seasonLastEnd 0 s.now
  let s := iter allPavs s fun s p => s.onPav p fun v => { v with watch := [] }
  s.writeWear.logEv 0x1801 (s.od0 .seasonNumber) 0

/-- SEASON_END (spec/15 R551, R552): SEASON_LENGTH days of running time have passed. -/
def execSeasonEnd (margins : List Nat) (s : State) : Host.Outcome State Fault Refusal :=
  s.run fun s => if s.firmwareRuns then s.seasonEnd margins else s

/-! ## Maintenance windows (spec/15 R553) -/

/-- Step 5 of R552: LINK_COMMAND RETRAIN (spec/08 R337) of every UP link whose LINK_EYE_MARGIN is below its limit. -/
def Part.retrainLinks (s : Part) : Part :=
  iter (List.range 28) s fun s n =>
    if s.od .linkState n = 2 && marginLow (s.od .linkEyeMargin n) then s.breakLink n 6 (linkEnds n).1 else s

/-- A window opens: the pending steps start, in the order of R552. -/
def Part.openWindow (s : Part) : Part :=
  if s.od0 .maintState = 2 then s else
  let s := s.setOd .maintState 0 2
  let s := if s.season.pending.contains 4 then
      iter (List.range 64) s fun s c => if s.od .channelState c = 2 && (s.chan c).retrain.isEmpty then s.startRetrain c else s
    else s
  let s := if s.season.pending.contains 5 then
      ({ s with season := { s.season with pending := s.season.pending.filter (· != 5) } } : Part).retrainLinks
    else s
  s.retrainsDone

/-- MAINT_WINDOW_OPEN (spec/15 R553): the time of day of MAINT_WINDOW_START. -/
def execMaintWindowOpen (s : State) : Host.Outcome State Fault Refusal :=
  s.run fun s => if s.firmwareRuns && !s.season.pending.isEmpty then s.openWindow else s

/-- A write of MAINT_COMMAND: 1 OPEN_NOW, 2 CLOSE. -/
def Part.maintCommand (s : Part) (w : Who) (v : Nat) : Reply :=
  s.command w .maintCommand v false fun s =>
    if v = 1 then s.openWindow.ok
    else (if s.od0 .maintState = 2 then s.closeWindow else s).ok

/-- MAINT_OPEN_NOW (spec/15 R553). -/
def execMaintOpenNow (w : Who) (s : State) : Host.Outcome State Fault Refusal := s.run fun s => (s.maintCommand w 1).answer w

/-- MAINT_CLOSE (spec/15 R553). -/
def execMaintClose (w : Who) (s : State) : Host.Outcome State Fault Refusal := s.run fun s => (s.maintCommand w 2).answer w

/-- MAINT_WINDOW_EXPIRY (spec/15 R553): MAINT_WINDOW_LENGTH has passed. -/
def execMaintWindowExpiry (s : State) : Host.Outcome State Fault Refusal :=
  s.run fun s => if s.od0 .maintState = 2 then s.closeWindow else s

/-! ## Weak rows: rungs 1 and 2 (spec/15 R558, R559) -/

/-- The row of a burst address, as a key: the address without its column, and the chip ID of COLUMN[1:0]. -/
def rowKey (addr : Nat) : Nat := addr / 2048 * 4 + addr % 4

/-- A row of the watch list gives way: the first of those with the least count. -/
def leastRow (m : Sparse (List Nat)) : Nat :=
  let n := (m.map fun e => e.2.length).foldl min 64
  ((m.find? fun e => e.2.length == n).map (·.1)).getD 0

/-- Count a correction in the watch list: an element is a burst address with its device above bit 43; a burst counts once for
its row. -/
def watchAdd (m : Sparse (List Nat)) (addr device : Nat) : Sparse (List Nat) :=
  let k := rowKey addr
  let l := m.get [] k
  if l.any fun x => x % 2 ^ 43 == addr then m else
  let m := if l.isEmpty && 4096 ≤ m.length then m.erase (leastRow m) else m
  m.put k (l ++ [addr + device * 2 ^ 43])

/-- The row that a burst address names, of a layer; `devices` as the corrections named them. -/
def weakRowOf (addr layer devices : Nat) : WeakRow :=
  ⟨bits addr 37 6, bits addr 36 1, bits addr 34 2, layer, bits addr 31 3, bits addr 29 2, bits addr 0 2, bits addr 11 18, devices⟩

/-- Two records name one row. -/
def WeakRow.same (a b : WeakRow) : Bool :=
  a.chan == b.chan && a.sub == b.sub && a.rank == b.rank && a.group == b.group && a.bank == b.bank && a.chip == b.chip &&
    a.row == b.row

/-- The physical extents that hold a row (spec/15 R559, step 1). -/
def Part.rowExts (s : Part) (r : WeakRow) : List Nat :=
  let g := s.geom (r.chan / 8)
  if 4 ≤ r.layer then [] else
  (List.range (2 ^ (g.c - 6))).map fun j =>
    r.layer * 2 ^ (g.c + g.h + g.s - 6) + r.chip * 2 ^ (g.c + g.h - 6) + r.row * 2 ^ (g.c - 6) + j

/-- An extent that is FREE or SPARE becomes RETIRED (spec/15 R559, step 4): a SPARE one is its own spare. -/
def Part.retireNow (s : Part) (p ext : Nat) : Part :=
  if (s.ownOf p ext).kind = kindSpare then
    (s.setOwn p ext { Own.free with kind := kindRetired }).onPav p fun v => { v with capRaw := v.capRaw - 1, retire := v.retire.filter (· != ext) }
  else s.retireExtent p ext

/-- An extent enters the retire list (spec/15 R559, steps 2 to 4): emptied by a supplementary plan; a SYSTEM extent's contents
move to a FREE one; one that holds nothing is RETIRED at once. -/
def Part.retireAsk (s : Part) (p ext : Nat) : Part :=
  if (s.pav p).retire.contains ext || 256 ≤ (s.pav p).retire.length then s else
  let listed := s.onPav p fun v => { v with retire := v.retire ++ [ext] }
  match (s.ownOf p ext).kind with
  | 8 => s
  | 0 => s.retireNow p ext
  | 6 => s.retireNow p ext
  | 1 => listed
  | 7 => match listed.freeExt p with
    | some e => ((listed.setOwn p e (s.ownOf p ext)).onPav p fun v => { v with
        table := v.table.map fun x => if x = ext then e else x }).retireNow p ext
    | none => listed
  | _ => listed.askCompile 4 p

/-- A row becomes weak (spec/15 R558, R559): listed for repair, logged, its extents retired; rung 2 of the ladder. -/
def Part.rowWeak (s : Part) (p : Nat) (addr count devices : Nat) : Part :=
  let r := weakRowOf addr (s.od .rankLayer (bits addr 37 6 * 4 + bits addr 34 2)) devices
  if s.flash.weakRows.any r.same then s else
  let s : Part := { s with flash := { s.flash with weakRows := s.flash.weakRows ++ [r] } }
  let s := (s.logEv 0x1802 addr count none p).ladder 2
  iter (s.rowExts r) s fun s e => s.retireAsk p e

/-- The gatehouse reads the address table of a pavilion (spec/15 R558). -/
def Part.scanTable (s : Part) (p : Nat) : Part :=
  iter (s.pav p).ceTable s fun s e =>
    let s := s.onPav p fun v => { v with watch := watchAdd v.watch e.burst (e.device % 32) }
    let l := (s.pav p).watch.get [] (rowKey e.burst)
    if s.od0 .weakRowThreshold ≤ l.length then
      s.rowWeak p e.burst l.length (l.foldl (fun b x => b ||| 2 ^ (x / 2 ^ 43)) 0)
    else s

/-- CE_TABLE_SCAN (spec/15 R558). -/
def execCeTableScan (s : State) : Host.Outcome State Fault Refusal :=
  s.run fun s => if s.firmwareRuns then iter s.serving s Part.scanTable else s

/-! ## Withdrawal of capacity (spec/15 R567, R568) -/

/-- The commons that a region's leaving gives back to its home: its part of the plot share and its block. -/
def Part.regionShare (s : Part) (sl region p : Nat) (stays : Bool) : Nat :=
  let v := mkPlace p p true false 0
  let off := mkPlace (8 - 1 - p) (8 - 1 - p) true false 0
  let a := (s.setPlace sl region (if stays then v else s.place sl region)).plotShare sl p
  let b := (s.setPlace sl region off).plotShare sl p
  a - b + 2

/-- The regions that R567 moves away from a pavilion. -/
def Part.leavingRegions (s : Part) (p : Nat) : List Nat :=
  (s.season.moves.filter fun k => k % 8 == p && placeHome (s.vint.inForce.place.get 0 (k / 8)) == p &&
    placeMoving (s.vint.inForce.place.get 0 (k / 8))).map (· / 8)

/-- DPA extents in forced releases of a port that still wait for their requests. -/
def Part.pendingForced (s : Part) (i : Nat) : List Nat := ((s.port i).releases.filter (·.forced)).flatMap (·.extents)

/-- A logical extent is being released already. -/
def Part.extLeaving (s : Part) (sl le : Nat) : Bool :=
  match s.boundPort sl with
  | some i => match s.dpaExt i sl le with
    | some x => (s.pendingForced i).contains x
    | none => false
  | none => false

/-- Granted extents of a slice homed on a pavilion, not yet leaving, highest first. -/
def Part.homedGranted (s : Part) (sl p : Nat) : List Nat :=
  (((s.slice sl).grants.filter fun e => placeValid (s.place sl e.1) && placeHome (s.place sl e.1) == p).flatMap fun e =>
    ((List.range 512).filter fun k => bit e.2 k && !s.extLeaving sl (e.1 * 512 + k)).map fun k => e.1 * 512 + k).reverse

/-- Extents of a slice homed on a pavilion that are leaving. -/
def Part.leavingExts (s : Part) (p : Nat) : Nat :=
  (s.allSlices.map fun sl =>
    (((s.slice sl).grants.filter fun e => placeValid (s.place sl e.1) && placeHome (s.place sl e.1) == p).map fun e =>
      ((List.range 512).filter fun k => bit e.2 k && s.extLeaving sl (e.1 * 512 + k)).length).sum).sum

/-- The deficit of a pavilion that neither moves nor releases under way cover. -/
def Part.deficit (s : Part) (p : Nat) : Int :=
  -(s.capCommons p) - (((s.leavingRegions p).map fun k => s.regionShare (k / 65536) (k % 65536) p false).sum : Nat) - (s.leavingExts p : Nat)

/-- The next extent that holds a page left in a lost layer with no free extent to go to (spec/15 R563, step 3): the lowest
slice's highest. -/
def Part.leftExt (s : Part) (p : Nat) : Option (Nat × Nat) :=
  if (s.freeExt p).isSome then none else
  let le := (s.geom p).layerExts
  let l := (((s.pav p).cellar.filter fun e => e.2.tier != tierZero && s.layerLost p (extOf e.2.loc / le)).map fun e =>
    (e.1 / 2 ^ 34, e.1 % 2 ^ 34 / 512)).filter fun q => !s.extLeaving q.1 q.2
  (l.filter fun q => some q.1 == (l.head?.map (·.1))).getLast?

/-- The pages of a logical extent that stand in a lost layer. -/
def Part.leftPages (s : Part) (p sl le : Nat) : List Nat :=
  let n := (s.geom p).layerExts
  ((s.pav p).cellar.range (pageKey sl (le * 512)) (pageKey sl (le * 512 + 512))).filterMap fun e =>
    if e.2.tier != tierZero && s.layerLost p (extOf e.2.loc / n) then some (e.1 % 2 ^ 34) else none

/-- Withdraw a logical extent (spec/15 R568): a page entry in the poison list for each page left in a lost layer. -/
def Part.withdraw (s : Part) (p sl le : Nat) : Part :=
  let pages := s.leftPages p sl le
  let dpas := match s.boundPort sl with
    | some i => pages.map fun lp => (i, s.dpaOf i sl (lp * 4096))
    | none => []
  let s := s.forceRelease sl [le] false
  let s := iter dpas s fun s d => s.poisonAdd d.1 ⟨d.2, 64⟩
  (s.modOd .withdrawnExtents 0 (· + 1)).logEv 0x1809 le 0 (some sl) p

/-- The slices of a pavilion in the order of R567: overcommitted borrowers by what they borrow, other overcommitted slices and
strict slices from the highest number. -/
def Part.withdrawOrder (s : Part) (p : Nat) : List Nat :=
  let l := (s.allSlices.filter fun sl => !(s.homedGranted sl p).isEmpty).reverse
  let lent := l.filter fun sl => s.od .sliceCapacityMode sl == 1
  let borrowers := (lent.filter fun sl => s.borrowed sl p != 0)
  let most := borrowers.foldl (fun b sl => match b with
    | none => some sl
    | some k => if s.borrowed k p ≤ s.borrowed sl p then some sl else b) (none : Option Nat)
  most.toList ++ lent.filter (fun sl => s.borrowed sl p == 0) ++ l.filter (fun sl => s.od .sliceCapacityMode sl == 0)

/-- Withdraw one extent after the other until the deficit is gone; the deficit is recomputed after each. -/
def Part.withdrawMore : Nat → Part → Nat → Part
  | 0, s, _ => s
  | fuel + 1, s, p =>
    match s.leftExt p with
    | some q => (s.withdraw p q.1 q.2).withdrawMore fuel p
    | none =>
      if s.deficit p ≤ 0 then s else
      match s.withdrawOrder p with
      | [] => s
      | sl :: _ => match s.homedGranted sl p with
        | [] => s
        | le :: _ => (s.withdraw p sl le).withdrawMore fuel p

/-- Where a region can go: the pavilion in the slice's mask with the most commons that keeps it at 0 or more (spec/15 R567). -/
def Part.moveTarget (s : Part) (sl region p : Nat) : Option Nat :=
  let room (q : Nat) : Int := s.capCommons q - (s.regionShare sl region q true : Nat)
  let l := (s.inServiceState.filter fun q => q != p && bit (s.od .sliceHomeMask sl) q).filter fun q => 0 ≤ room q
  l.foldl (fun b q => match b with
    | none => some q
    | some k => if s.capCommons k < s.capCommons q then some q else b) none

/-- MOVE_REGION entries for the regions of a pavilion in deficit, lowest slice and region first, while the deficit is not
covered (spec/15 R567). -/
def Part.planMoves (s : Part) (p : Nat) : Part :=
  let homed := (s.regionsHomed p).filter fun e => !placeMoving e.2
  iter homed s fun s e =>
    if s.deficit p ≤ 0 then s else
    match s.moveTarget (e.1 / 65536) (e.1 % 65536) p with
    | none => s
    | some d =>
      let v := s.vint.inForce.place.get 0 e.1
      let s := s.setPlace (e.1 / 65536) (e.1 % 65536) (mkPlace p (placeMirror v) (placeSingle v) true d)
      ({ s with season := { s.season with moves := s.season.moves ++ [e.1 * 8 + p] } } : Part).askCompile 2

/-- CAPACITY_WITHDRAWAL (spec/15 R567, R568): a pavilion with CAP_COMMONS below 0 or pages left in a lost layer. -/
def execCapacityWithdrawal (p : Pav) (s : State) : Host.Outcome State Fault Refusal :=
  s.run fun s =>
    if !s.firmwareRuns || !s.inService p then s else
    let live := s.season.moves.filter fun k => placeHome (s.vint.inForce.place.get 0 (k / 8)) == k % 8
    let s : Part := { s with season := { s.season with moves := live } }
    ((s.planMoves p).withdrawMore 33554432 p).retireEmpty

end Sys2Proof.Machine
end

