-- ==== Sys2Proof/Machine/Boot.lean ====
section
/-!
DEFINITION. Power-up, reset and the cold boot (spec/16 R570 to R584, spec/06 R222 to R226, R247 to R250, R260, spec/05 R214,
R215, spec/15 R550, R560, R561, spec/17 R611, R612, R621).
-/

namespace Sys2Proof.Machine

/-! ## VAUX and PART_RESET_N (spec/13 R519, spec/16 R574, R580) -/

/-- Everything but flash and fuses is lost with VAUX (spec/13 R519); the lands that the part drove fall to their pulls. -/
def Part.off (s : Part) : Part :=
  if !s.power.vaux then s else
  let s := (s.setCoreEn false).setMainPG false
  { Part.reset with
    ports := (s.ports.filter fun e => !e.2.perst).map fun e => (e.1, { PortState.zero with perst := false })
    power := { PowerState.zero with vaux := false }
    flash := s.flash
    out := s.out
    freeCtr := s.freeCtr }

/-- A cold boot starts (spec/16 R574): the straps are sampled, the always-on domains run, the main input starts by itself.
`source` is 0 for VAUX, 1 for PART_RESET_N. -/
def Part.on (s : Part) (source straps : Nat) : Part :=
  if s.power.vaux && s.od0 .bootState != 1 then s else
  let s : Part := { s with
    power := { s.power with vaux := true, strapMain := bits straps 0 2, strapBr := bits straps 2 2, strapI3c := bits straps 4 3 }
    boot := { s.boot with bootStart := s.now } }
  let s := (((s.setOd .bootSource 0 source).setOd .timeState 0 0).setOd .aonPllLocked 0 1).logEv 0x1901 source 0
  (s.stageEnd 1 2).retiredStay

/-- VAUX_RISE (spec/16 R574). -/
def execVauxRise (straps : BitVec 8) (s : State) : Host.Outcome State Fault Refusal := s.run fun s => s.on 0 straps.toNat

/-- VAUX_FALL (spec/13 R519). -/
def execVauxFall (s : State) : Host.Outcome State Fault Refusal := s.run fun s => s.off

/-- PART_RESET_ASSERT (spec/16 R580): the effect of VAUX falling. -/
def execPartResetAssert (s : State) : Host.Outcome State Fault Refusal := s.run fun s => s.off

/-- PART_RESET_RELEASE (spec/16 R580): the effect of VAUX rising. -/
def execPartResetRelease (straps : BitVec 8) (s : State) : Host.Outcome State Fault Refusal := s.run fun s => s.on 1 straps.toNat

/-! ## CORE_PG (spec/16 R574, spec/17 R611, R612, R621) -/

/-- The cold boot stands in a stage and goes on: the part has not failed. -/
def Part.booting (s : Part) (stage : Nat) : Bool :=
  s.od0 .bootState == stage && s.od0 .partFailed == 0 && !s.boot.pav0Lost

/-- The retired pavilions of the wear record stay gated, their links DISABLED (spec/01 R28, R29). -/
def Part.keepRetired (s : Part) : Part :=
  iter (allPavs.filter fun p => bit s.flash.retired p) s fun s p =>
    if s.pstate p = 5 then s else
    (((s.setOd .pavilionState p 4).setOd .pavilionPowerState p 2).pavPortsIdle p).disableLinks p

/-- CORE_PG_RISE (spec/16 R574): the root PLLs lock, the promenade trains; a pavilion whose PLL does not lock fails (spec/13
R499). -/
def execCorePgRise (locked : BitVec 8) (s : State) : Host.Outcome State Fault Refusal :=
  s.run fun s =>
    if !s.booting 3 || !s.power.coreEn || s.power.corePG then s else
    let s : Part := { s with power := { s.power with corePG := true, coreFails := 0 } }
    let s := iter allPavs s fun s p => s.setOd .pllLocked p (b2n (bit locked.toNat p))
    let s := (iter (List.range 28) s fun s n => s.setOd .linkState n 1).keepRetired
    iter (allPavs.filter fun p => !bit locked.toNat p) s fun s p =>
      let s := s.failPavilion p 4
      if p = 0 then s.losePavilion0 else s

/-- CORE_PG_BOOT_TIMEOUT (spec/17 R611): three failures keep CORE_EN low. -/
def execCorePgBootTimeout (s : State) : Host.Outcome State Fault Refusal :=
  s.run fun s =>
    if !s.booting 3 || !s.power.coreEn || s.power.corePG then s else
    let n := s.power.coreFails + 1
    let s : Part := { s with power := { s.power with coreFails := n, coreWait := decide (n < 3) } }
    (s.setCoreEn false).logEv 0x1A02 n 0

/-- CORE_PG_FALL (spec/17 R612): with MAIN_PG high; the cold boot from stage 3 comes after 1 s. -/
def execCorePgFall (s : State) : Host.Outcome State Fault Refusal :=
  s.run fun s =>
    if !s.power.corePG || !s.power.coreEn || !s.power.mainPG then s else
    let s := s.corePowerLost.logEv 0x1A02 0 0
    { s with power := { s.power with coreWait := true } }

/-- CORE_EN_RETRY_WAIT_END (spec/17 R611, R612): CORE_EN again. -/
def execCoreEnRetryWaitEnd (s : State) : Host.Outcome State Fault Refusal :=
  s.run fun s =>
    if !s.power.coreWait then s else
    let s : Part := { s with power := { s.power with coreWait := false } }
    if s.od0 .bootState = 3 && s.power.mainPG && s.power.thermtrip then s.setCoreEn true else s.coreStart

/-- THERMAL_TRIP (spec/17 R621): THERMTRIP_N low and CORE_EN deasserted until a cold power cycle. -/
def execThermalTrip (s : State) : Host.Outcome State Fault Refusal :=
  s.run fun s =>
    if !s.power.corePG || !s.power.thermtrip then s else
    let s := s.corePowerLost.logEv 0x1A01 0 0
    ({ s with power := { s.power with thermtrip := false, coreWait := false } } : Part).emit (.pin 2 0)

/-- SELF_TEST_DONE (spec/16 R577, R578): `gate` says whether the gatehouse of pavilion 0 passed. -/
def execSelfTestDone (p : Pav) (pass gate : Bool) (s : State) : Host.Outcome State Fault Refusal :=
  s.run fun s =>
    if !s.booting 3 || !s.power.corePG || s.boot.tested.contains p.val then s
    else if p.val = 0 && !gate then s.losePavilion0
    else if p.val = 0 && !pass then (s.failPavilion 0 4).failPart 2
    else
      let s := if pass then s else s.failPavilion p 4
      let s : Part := { s with boot := { s.boot with tested := s.boot.tested ++ [p.val] } }
      if allPavs.all s.boot.tested.contains then s.stageEnd 3 4 else s

/-! ## Firmware images (spec/16 R582 to R584) -/

/-- The header of a firmware image (spec/16 R582). -/
structure ImageHeader where
  format     : Nat
  keyIndex   : Nat
  svn        : Nat
  length     : Nat
  magic      : Nat
  bodyDigest : Nat
  keyX       : Nat
  keyY       : Nat
  sigR       : Nat
  sigS       : Nat
  deriving DecidableEq, Repr

/-- Read a header's 256 bytes; the public key and the signature are big-endian (spec/16 R582). -/
def readHeader (x : Nat) : ImageHeader :=
  let be (at_ : Nat) : Nat := ofBytesBE (toBytes 48 (bits x (8 * at_) 384))
  ⟨bits x 0 8, bits x 24 8, bits x 32 32, bits x 64 32, bits x 96 32, bits x 128 384, be 64, be 112, be 160, be 208⟩

/-- MAGIC, FORMAT and LENGTH of a header are those of an image (spec/16 R582, R583). -/
def ImageHeader.sound (h : ImageHeader) : Bool :=
  h.magic == 0x46385A47 && h.format == 1 && decide (1 ≤ h.length) && decide (h.length ≤ 50331392)

/-- The header in an image slot: that of the image received into it, or what the ROM reads there (log entry 213). -/
def Part.slotHeader (s : Part) (x : Nat) (c : ImageCheck) : ImageHeader :=
  let held := s.flash.heads.get 0 x
  readHeader (if held = 0 then c.header.toNat else held)

/-- The check of an image slot (spec/16 R583): the reason of the first check that fails, 0 for none. A slot that is erased has
no header, a partly written one not the body of its digest. -/
def Part.slotCheck (s : Part) (x : Nat) (c : ImageCheck) : Nat :=
  let mark := s.flash.slots.get 0 x
  let h := s.slotHeader x c
  if !c.flashOk then 6
  else if mark = 1 || !h.sound then 1
  else if 3 < h.keyIndex || bit s.flash.revoked h.keyIndex || !c.keyHashOk then 2
  else if !c.signatureOk then 3
  else if h.svn < s.flash.svnFuse then 4
  else if mark = 2 || !c.digestOk then 5
  else 0

/-- The slot that the ROM checks now: the one BOOT_SLOT_NEXT names, then the other. -/
def Part.slotNow (s : Part) : Nat := if s.boot.second then 1 - s.flash.slotNext else s.flash.slotNext

/-- The first slot accepted runs, and the host ports are released (spec/16 R575, R584). -/
def Part.acceptImage (s : Part) (x : Nat) (h : ImageCheck) : Part :=
  let head := s.slotHeader x h
  let s := ((((s.setOd .bootSlotActive 0 x).setOd .fwMeasurement 0 h.measurement).setOd .fwSvnImage 0 head.svn).setOd
    .fwKeyIndex 0 head.keyIndex).setOd .dictVersion 0 h.dictVersion
  let s : Part := { s with boot := { s.boot with measured := h.measurement, version := h.version } }
  iter (allPavs.filter fun p => s.pstate p == 0) (s.stageEnd 4 6) fun s p => s.pavPortsOn p

/-- FW_SLOT_CHECK_DONE (spec/16 R583, R584). -/
def execFwSlotCheckDone (img : ImageCheck) (s : State) : Host.Outcome State Fault Refusal :=
  s.run fun s =>
    if !s.booting 4 then s else
    let x := s.slotNow
    let r := s.slotCheck x img
    if r = 0 then s.acceptImage x img else
    let s := (s.setOd (if x = 0 then .bootRejectA else .bootRejectB) 0 r).logEv 0x1902 x r
    if s.boot.second then (s.logEv 0x1903 0 0).setOd .bootState 0 14
    else { s with boot := { s.boot with second := true } }

/-! ## Firmware start (spec/16 R572 to R574, spec/15 R550) -/

/-- Which of two copies a boot takes, by what of them is valid: 0 both, 1 only the newer, 2 only the older, 3 none. -/
def pickCopy {α : Type} (k : Nat) (newer older none : α) : α := if k ≤ 1 then newer else if k = 2 then older else none

/-- VALID, ONE_COPY or REBUILT. -/
def copyState (k : Nat) : Nat := if k = 0 then 0 else if k ≤ 2 then 1 else 2

/-- The configuration store's entries take their values, and each codebook image it holds is loaded (spec/16 R572). -/
def Part.readConfig (s : Part) (k : Nat) : Part :=
  let c := pickCopy k s.flash.config s.flash.config2 []
  let s : Part := { s with
    dict := c.foldl (fun m e => m.put e.1 e.2) s.dict
    flash := { s.flash with config := c, config2 := c, slotNext := if k = 3 then 0 else s.flash.slotNext } }
  let s := iter (List.range 256) s fun s b =>
    if s.od .codebookImage b = 0 then s else (s.setOd .codebookState b 1).setOd .codebookGeneration b 1
  let s := (s.setOd .configStoreState 0 (copyState k)).setOd .bootSlotNext 0 s.flash.slotNext
  if k = 3 then s.logEv 0x1906 0 0 else s

/-- The settings that the trust area keeps (spec/16 R573); CLAIM_STATE follows from the role keys. -/
def trustSettings : List Entry := [.monitorEnable, .transportRolesEthernet, .transportRolesMctp, .transportRolesMailbox, .mailboxVopPorts]

/-- The trust area's role keys and settings (spec/16 R573). -/
def Part.readTrust (s : Part) (k : Nat) : Part :=
  let t := pickCopy k s.flash.trust s.flash.trust2 Trust.none
  let s := iter trustSettings s fun s e => s.resetOd e 0
  let s : Part := { s with
    keys := { s.keys with roles := t.keys }
    dict := t.settings.foldl (fun m e => m.put e.1 e.2) s.dict
    flash := { s.flash with trust := t, trust2 := t } }
  let s := s.setOd .trustAreaState 0 (copyState k)
  if k = 3 then s.logEv 0x1906 1 0 else s

/-- The wear record (spec/15 R550): `k` is 0 with both copies valid, 1 with one, 2 with none. -/
def Part.readWear (s : Part) (k : Nat) : Part :=
  let f := if k = 2 then { s.flash with wear := Wear.zero, weakRows := [], ppr := [], serials := [], retired := 0, lostLayers := [] } else s.flash
  let w := f.wear
  let s : Part := { s with flash := f, season := { s.season with age := w.ages, bands := w.bands } }
  let s := ((s.setOd .seasonNumber 0 w.number).setOd .seasonElapsed 0 w.elapsed).setOd .wearRecordState 0 k
  let s := iter allPavs s fun s p => s.setOd .vddGuard p (w.guards.get 0 p)
  let s := iter (List.range 64) s fun s c => (s.setOd .refreshFloor c (w.floors.get 0 c)).setOd .refreshRate c (w.floors.get 0 c)
  let s := s.showAge
  if k = 2 then s.logEv 0x1808 0 0 else s

/-- FIRMWARE_START_DONE (spec/16 R574, stages 6 and 7): stores read, DRBG seeded, branch turn-on begins. -/
def execFirmwareStartDone (config : Fin 4) (trust : Fin 4) (wear : Fin 3) (s : State) : Host.Outcome State Fault Refusal :=
  s.run fun s =>
    if !s.booting 6 then s else
    let s := (((s.readConfig config).readTrust trust).readWear wear).keepRetired
    let q := s.free
    let s := (q.2.setOd .debugChallenge 0 (q.1 % 2 ^ 256)).stageEnd 6 7
    let s := iter (List.range 16) s fun s i => if s.od .portState i = 3 then s.setOd .portState i 4 else s
    (iter s.startingPavs s fun s p => (s.branchTurnOn (2 * p)).branchTurnOn (2 * p + 1)).bootProgress

/-! ## DRAM training (spec/06 R222 to R226, R247 to R250) -/

/-- A pavilion with DRAM work of the boot before it: STARTING with both branches on. -/
def Part.bootDram (s : Part) (p : Nat) : Bool :=
  s.pstate p == 0 && s.od .branchState (2 * p) == 2 && s.od .branchState (2 * p + 1) == 2 && s.od0 .partFailed == 0 &&
    decide (7 ≤ s.od0 .bootState) && decide (s.od0 .bootState ≤ 10)

/-- A pavilion leaves the boot (spec/16 R577). -/
def Part.bootFailed (s : Part) (p : Nat) : Part :=
  let s := s.failPavilion p 4
  (if p = 0 then s.losePavilion0 else s).nextRamp.bootProgress

/-- The population of a channel. -/
def trainPopulation (c : ChanTraining) : List Nat := [c.dimms, c.ranksPerDimm, c.device, c.stack]

/-- Every channel carries the same population, and has a DIMM (spec/06 R224). -/
def trainUniform (t : TrainResult) : Bool :=
  t.chans.all fun c => some (trainPopulation c) == (t.chans.head?.map trainPopulation) && c.dimms != 0

/-- The population is one of accepted modules (spec/06 R222). -/
def trainAccepted (c : ChanTraining) : Bool :=
  decide (c.dimms ≤ 2) && (c.ranksPerDimm == 1 || c.ranksPerDimm == 2) && decide (c.device < 4) && (c.stack == 1 || c.stack == 2 || c.stack == 4)

/-- The ranks that a population has (spec/00 R8, R10). Layer k begins on the k-th of them (log entry 199). -/
def presentRanks (c : ChanTraining) : List Nat := (List.range 4).filter fun r => decide (r / 2 < c.dimms) && decide (r % 2 < c.ranksPerDimm)

/-- The middle of the 126 reference steps (spec/06 R248, log entry 200). -/
def refMid : Nat := 62

/-- The choice of a lane's setting in one direction (spec/06 R248) and the width and height of its eye. -/
structure LaneChoice where
  set    : LaneSet
  width  : Nat
  height : Nat
  deriving DecidableEq, Repr

/-- Choose the setting of a lane from its sweep: a number per reference step, a bit per delay step that passes. -/
def chooseLane (sweep : List Nat) : LaneChoice :=
  let dist (v : Nat) : Nat := max v refMid - min v refMid
  let best := sweep.zipIdx.foldl (fun (b : Option (Nat × Nat × Nat)) q =>
    let run := longestRun 128 q.1
    match b with
    | none => some (q.2, run)
    | some c => if c.2.2 < run.2 || (run.2 == c.2.2 && decide (dist q.2 < dist c.1)) then some (q.2, run) else b) none
  match best with
  | none => ⟨⟨0, 0⟩, 0, 0⟩
  | some (v, first, len) =>
    let delay := first + (len - 1) / 2
    let at_ := sweep.map fun m => m.testBit delay
    ⟨⟨v, delay⟩, len, ((at_.drop v).takeWhile id).length + ((at_.take v).reverse.takeWhile id).length⟩

/-- The lane passes (spec/06 R248). -/
def LaneChoice.ok (l : LaneChoice) : Bool := decide (16 ≤ l.width) && decide (8 ≤ l.height)

/-- The choices for the 80 lanes of a rank in one direction. -/
def chooseLanes (sweeps : List (List Nat)) : List LaneChoice := (List.range 80).map fun l => chooseLane (sweeps.getD l [])

/-- What the steps of R247 come to on one rank: the steps that fail (bit k - 1 for step k; a step after one that fails is not made), the
choices for reads and for writes. -/
structure RankOutcome where
  failed : Nat
  reads  : List LaneChoice
  writes : List LaneChoice
  deriving DecidableEq, Repr

/-- Train a rank (spec/06 R247): steps 1 and 2 are those of its DIMM. -/
def rankOutcome (spd rcd : Bool) (r : RankTraining) : RankOutcome :=
  if !spd then ⟨1, [], []⟩
  else if !rcd then ⟨2, [], []⟩
  else if !r.levelled then ⟨4, [], []⟩
  else
    let a := chooseLanes r.reads
    let b := chooseLanes r.writes
    if !a.all (·.ok) then ⟨8, a, []⟩
    else if !b.all (·.ok) then ⟨16, a, b⟩
    else if !r.pattern then ⟨32, a, b⟩
    else ⟨0, a, b⟩

/-- TRAIN_EYES of a rank (spec/06 R249): 4 bytes per lane. -/
def RankOutcome.eyes (o : RankOutcome) : Nat :=
  let byte (n k : Nat) : Nat := min 255 n <<< (8 * k)
  unchunks 32 ((List.range 80).map fun l =>
    let a := o.reads.getD l ⟨⟨0, 0⟩, 0, 0⟩
    let b := o.writes.getD l ⟨⟨0, 0⟩, 0, 0⟩
    byte a.width 0 ||| byte a.height 1 ||| byte b.width 2 ||| byte b.height 3)

/-- The settings of the lanes of a rank. -/
def RankOutcome.settings (o : RankOutcome) (r : Nat) (v : Sparse LaneSet) : Sparse LaneSet :=
  let v := iter o.reads.zipIdx v fun v q => v.set ⟨0, 0⟩ (laneKey r 0 q.2) q.1.set
  iter o.writes.zipIdx v fun v q => v.set ⟨0, 0⟩ (laneKey r 1 q.2) q.1.set

/-- DIMMs whose serial numbers differ from those in the wear record: their channel's weak rows, repair history and refresh floor
go, and the lost layers that a rank of theirs began (spec/15 R555, R560, R563). -/
def Part.newDimms (s : Part) (c : Nat) (t : ChanTraining) : Part :=
  let old (d : Nat) : Nat := s.flash.serials.get 0 (c * 2 + d)
  if old 0 = t.serial0 && old 1 = t.serial1 then s else
  let first := old 0 = 0 && old 1 = 0
  let f := s.flash
  let gone (k : Nat) : Bool := k / 4 == c / 8 && (if k % 4 < t.ranksPerDimm then old 0 != t.serial0 else old 1 != t.serial1)
  let s : Part := { s with flash := { f with
    serials := (f.serials.set 0 (c * 2) t.serial0).set 0 (c * 2 + 1) t.serial1
    weakRows := f.weakRows.filter fun r => r.chan != c
    ppr := f.ppr.erase c
    lostLayers := if first then f.lostLayers else f.lostLayers.filter fun k => !gone k } }
  if first then s else (s.setOd .refreshFloor c 0).setOd .refreshRate c 0

/-- A spare of the channel takes a layer without a copy, or the layer is out of service (spec/06 R250, R260). -/
def Part.coverLayer (s : Part) (c layer failed : Nat) : Part :=
  match (List.range 4).find? fun r => (s.rankState c r == 1 || s.rankState c r == 3) && s.od .rankLayer (c * 4 + r) == 0xFF with
  | some r =>
    ((s.setOd .rankLayer (c * 4 + r) layer).setOd .rankReplaces (c * 4 + r) failed).onChan c fun v => { v with rankMap := v.rankMap.set layer r }
  | none =>
    let k := c / 8 * 4 + layer
    if s.boot.layersOut.contains k || s.flash.lostLayers.contains k then s else
    ({ s with boot := { s.boot with layersOut := s.boot.layersOut ++ [k] } } : Part).modOd .dramLayers (c / 8) (· - 1)

/-- A rank leaves the boot: FAILED, its layer taken by a spare or out of service. -/
def Part.bootRankFails (s : Part) (c r cause : Nat) : Part :=
  let layer := s.od .rankLayer (c * 4 + r)
  let s := ((s.setOd .rankState (c * 4 + r) 5).setOd .rankFailCause (c * 4 + r) cause).setOd .rankLayer (c * 4 + r) 0xFF
  if 4 ≤ layer then s else
  let covered := s.coverLayer c layer r
  if cause = 3 || !covered.layerLost (c / 8) layer then covered else covered.setOd .rankState (c * 4 + r) 6

/-- What training leaves of one channel (spec/06 R226, R247 to R250): its settings and eyes, `spares` of its ranks spares, the ranks with a
failed step FAILED. -/
def Part.trainChannel (s : Part) (c spares : Nat) (ok : Bool) (t : ChanTraining) : Part :=
  let s := s.newDimms c t
  let ranks := presentRanks t
  let n := ranks.length
  let outcome (r : Nat) : RankOutcome :=
    let rank := t.ranks.getD r ⟨false, [], [], false⟩
    rankOutcome (ok && (if r / 2 = 0 then t.spdOk0 else t.spdOk1)) (if r / 2 = 0 then t.rcdOk0 else t.rcdOk1) rank
  let s := s.onChan c fun _ => { ChanState.zero with
    rankMap := ranks ++ (List.range 4).drop n
    steps := (List.range 4).map fun r => if ranks.contains r then (outcome r).failed else 0
    lanes := iter ranks [] fun v r => (outcome r).settings r v
    parity := ranks.any fun r => (outcome r).failed &&& 3 == 0 }
  let s := s.setOd .channelState c 1
  let s := iter ranks.zipIdx s fun s q =>
    let k := c * 4 + q.1
    (((s.setOd .rankState k 1).setOd .rankLayer k (if q.2 + spares < n then q.2 else 0xFF)).setOd .trainEyes k (outcome q.1).eyes).setOd
      .rankReplaces k 0xFF
  let s := s.eyesMin c
  let bad := ranks.filter fun r => (outcome r).failed != 0
  let s := iter bad s fun s r => (s.setOd .rankState (c * 4 + r) 5).logEv 0x0F06 (c * 4 + r) 3 none (c / 8)
  iter bad s fun s r => s.bootRankFails c r 3

/-- Training of a pavilion ends (spec/06 R223 to R226). -/
def Part.trained (s : Part) (p : Nat) (t : TrainResult) : Part :=
  if !trainUniform t || t.chans.length != 8 then (s.logEv 0x0F09 p 0 none p).bootFailed p else
  match t.chans with
  | [] => s
  | c0 :: _ =>
  let n := (presentRanks c0).length
  let top := s.od .dramSpareMode p = 1
  let s := if top && n < 2 then s.logEv 0x0F0A p 0 none p else s
  let spares := if top && 2 ≤ n then 1 else 0
  let rate := stepDown [4800, 5600, 6400, 7200, 8000] (min (s.od .dramSpeedLimit p) t.rate) (if c0.dimms = 2 then 6400 else 8000)
  let fits := trainAccepted c0
  let s := if !fits then s else
    ((((s.setOd .dramSpeed p rate).setOd .dramDimmsPerChannel p c0.dimms).setOd .dramRanksPerDimm p c0.ranksPerDimm).setOd
      .dramDevice p c0.device).setOd .dramStack p c0.stack
  let s := iter (List.range 8) s fun s k => match t.chans[k]? with
    | some q => s.newDimms (p * 8 + k) q
    | none => s
  let lost := ((List.range (n - spares)).filter fun k => s.flash.lostLayers.contains (p * 4 + k)).length
  let s := s.setOd .dramLayers p (n - spares - lost)
  let s := iter (List.range 8) s fun s k => match t.chans[k]? with
    | some q => s.trainChannel (p * 8 + k) spares (rate != 0 && fits) q
    | none => s
  let s : Part := { s with boot := { s.boot with trained := s.boot.trained ++ [p] } }
  if s.od .dramLayers p = 0 then s.bootFailed p else s.bootProgress

/-- DRAM_TRAINING_DONE (spec/06 R247). -/
def execDramTrainingDone (p : Pav) (t : TrainResult) (s : State) : Host.Outcome State Fault Refusal :=
  s.run fun s => if !s.bootDram p || s.boot.trained.contains p.val then s else s.trained p t

/-! ## Hard repair (spec/15 R560) -/

/-- HARD_REPAIR (spec/15 R560): rung 1; `failed` numbers, among the pavilion's listed rows, those whose repair fails or whose
devices have no resource left. -/
def execHardRepair (p : Pav) (failed : List Nat) (s : State) : Host.Outcome State Fault Refusal :=
  s.run fun s =>
    if !s.bootDram p || !s.boot.trained.contains p.val || s.boot.repaired.contains p.val || s.boot.filled.contains p.val then s else
    let mine := (s.flash.weakRows.filter fun r => r.chan / 8 == p.val).zipIdx
    let done := (mine.filter fun q => !failed.contains q.2).map (·.1)
    let x8 := (s.geom p).x8
    let used (r : WeakRow) : Nat := if bit r.devices 31 then (if x8 then 5 else 10) else popCount 20 r.devices
    let s := iter done s fun s r =>
      let s : Part := { s with flash := { s.flash with
        weakRows := s.flash.weakRows.filter (· != r), ppr := s.flash.ppr.modify 0 r.chan (· + used r) } }
      (s.modOd .rowsRepaired p (· + 1)).ladder 1
    let s : Part := { s with boot := { s.boot with repaired := s.boot.repaired ++ [p.val] } }
    s.writeWear.bootProgress

/-! ## The first fill (spec/05 R214, R215, spec/06 R260, spec/15 R560, R561) -/

/-- The extents that one copy of the ownership table takes: 8 bytes for each extent of the population. -/
def Part.ownTableExts (s : Part) (p : Nat) : Nat := ceilDiv (2 * (s.layersAll p * (s.geom p).layerExts) * 8) 2097152

/-- The layers of a pavilion that are in service, ascending. -/
def Part.layersIn (s : Part) (p : Nat) : List Nat := (List.range (s.layersAll p)).filter fun k => !s.layerLost p k

/-- The highest `n` extents of the layers in service that are FREE. -/
def Part.highest (s : Part) (p n : Nat) : List Nat :=
  let le := (s.geom p).layerExts
  let top (k : Nat) : List Nat := (List.range (min le n)).map fun j => (k + 1) * le - 1 - j
  (((s.layersIn p).reverse.flatMap top).filter fun e => s.ownOf p e == Own.free).take n

/-- The lowest `n` extents of the layers in service that are FREE. -/
def Part.lowest (s : Part) (p n : Nat) : List Nat :=
  let le := (s.geom p).layerExts
  (((s.layersIn p).flatMap fun k => (List.range (min le (n + (s.pav p).own.length))).map (k * le + ·)).filter fun e =>
    s.ownOf p e == Own.free).take n

/-- The extents of a pavilion that hold the park rings of its two host ports (spec/07 R284: 4 each), their extent masks
(spec/09 R347: 1 each) and, on pavilion 0, the harvest backlog (spec/12 R490: 512). -/
def systemExts (p : Nat) : Nat := 2 * 4 + 2 * 1 + if p = 0 then 512 else 0

/-- The ownership table after the fill (spec/05 R214): its own extents SYSTEM, the extents of rows still listed RETIRED, the
spare reserve SPARE at the highest extents (spec/15 R560, R561), the park rings, masks and backlog SYSTEM at the lowest. -/
def Part.fillOwnership (s : Part) (p : Nat) : Part :=
  let le := (s.geom p).layerExts
  let s := s.onPav p fun v => { PavState.zero with nextTag := v.nextTag }
  let table := ((s.layersIn p).flatMap fun k => (List.range (min le (s.ownTableExts p))).map (k * le + ·)).take (s.ownTableExts p)
  let s := iter table s fun s e => s.setOwn p e { Own.free with kind := kindSystem }
  let cap := (s.layersIn p).length * le - table.length
  let s := s.onPav p fun v => { v with capRaw := cap, table := table }
  let weak := ((s.flash.weakRows.filter fun r => r.chan / 8 == p).flatMap s.rowExts).eraseDups.filter fun e => s.ownOf p e == Own.free
  let spare := ceilDiv (cap * s.od0 .spareReservePermille) 1000 - weak.length
  let s := iter weak s fun s e => s.setOwn p e { Own.free with kind := kindRetired }
  let s := s.onPav p fun v => { v with capRaw := cap - weak.length }
  let s := iter (s.highest p spare) s fun s e => s.setOwn p e { Own.free with kind := kindSpare }
  iter (s.lowest p (systemExts p)) s fun s e => s.setOwn p e { Own.free with kind := kindSystem }

/-- FIRST_FILL_DONE (spec/05 R214, R215, spec/06 R260): `failedRanks` are local channel * 4 + rank of ranks that raised an error. -/
def execFirstFillDone (p : Pav) (failedRanks : List Nat) (s : State) : Host.Outcome State Fault Refusal :=
  s.run fun s =>
    if !s.bootDram p || !s.boot.trained.contains p.val || s.boot.filled.contains p.val then s else
    let bad := failedRanks.filter fun k => k < 32 && s.od .rankState (p * 32 + k) == 1
    let s := iter bad s fun s k => (s.setOd .rankState (p * 32 + k) 6).logEv 0x0F03 (p * 32 + k) 2 none p
    let s := iter bad s fun s k => s.bootRankFails (p * 8 + k / 4) (k % 4) 2
    if s.od .dramLayers p = 0 then ((s.setOd .fillState p 4).logEv 0x0E07 p 0 none p).bootFailed p else
    let s := s.fillOwnership p
    let s := iter (List.range 32) s fun s k =>
      if s.od .rankState (p * 32 + k) != 1 then s
      else s.setOd .rankState (p * 32 + k) (if s.od .rankLayer (p * 32 + k) = 0xFF then 3 else 2)
    let s := iter (List.range 8) s fun s k => s.setOd .channelState (p * 8 + k) 2
    let start := bits (s.od0 .bootStageTimes) 288 32
    let took := (s.now - s.boot.bootStart) / nsPerMs - start
    let s := (((s.setOd .fillState p 2).setOd .fillProgress p 100).setOd .fillLastKind 0 1).setOd .fillLastDuration 0 took
    let s : Part := { s with boot := { s.boot with filled := s.boot.filled ++ [p.val] } }
    s.bootProgress

/-! ## Memory active (spec/16 R574, stages 11 and 12, R577) -/

/-- The first vintage: a full compile with no slice, put in force at once. -/
def Part.firstVintage (s : Part) : Part :=
  match s.compile false false [] with
  | .ok v =>
    let s : Part := { s with vint := { s.vint with
      shadow := some v, checking := false, armed := false, running := none
      inForce := { v with tables := [], rates := [], plans := [] }, swapping := s.serving } }
    iter s.serving s Part.swapFrame
  | .error _ => s

/-- BOOT_MEMORY_ACTIVE (spec/16 R574, R577): every pavilion that is STARTING has been filled. -/
def execBootMemoryActive (s : State) : Host.Outcome State Fault Refusal :=
  s.run fun s =>
    if !s.booting 11 || !(s.startingPavs.all s.boot.filled.contains) then s
    else if s.startingPavs.length < 2 then s.failPart 2
    else
      let s := iter s.startingPavs s fun s p => (s.setOd .pavilionState p 1).setOd .pavilionPowerState p 0
      let s := ((s.firstVintage.stageTime 11).stageTime 12).stageTime 5
      let ms := (s.now - s.boot.bootStart) / nsPerMs
      let s := ((s.setOd .bootState 0 13).setOd .bootLastDuration 0 ms).setOd .packagePowerState 0 1
      ({ s with boot := { s.boot with active := true } } : Part).logEv 0x1904 ms 0

end Sys2Proof.Machine
end

