-- ==== Sys2Proof/Machine/Firmware.lean ====
section
/-!
DEFINITION. The stores in flash, firmware updates, fuses, attestation and debug access (spec/16 R572, R573, R585 to R590, R593,
spec/04 R180, R181, spec/09 R394).
-/

namespace Sys2Proof.Machine

/-! ## The stores (spec/16 R572, R573) -/

/-- The configuration store keeps a key: an RW or RWS entry outside 0x6000 to 0x6FFF, a codebook image only of a loaded slot. -/
def Part.storesKey (s : Part) (k : Nat) : Bool :=
  match Entry.all.find? fun e => e.key 0 / 65536 == k / 65536 with
  | none => false
  | some .codebookImage => s.od .codebookState (k % 65536) != 0
  | some e =>
    let f := e.info
    (f.access == .rw || f.access == .rws) && !(decide (0x6000 ≤ f.index) && decide (f.index < 0x7000))

/-- The contents of the configuration store now. -/
def Part.configNow (s : Part) : Sparse Nat := s.dict.filter fun e => s.storesKey e.1

/-- The contents of the trust area now. -/
def Part.trustNow (s : Part) : Trust :=
  ⟨s.keys.roles, trustSettings.foldl (fun m e => m.put (e.key 0) (s.od e 0)) [], s.flash.trust.cert⟩

/-- CONFIG_STORE_WRITE (spec/16 R572, R573): a store whose contents changed is written over its older copy. -/
def execConfigStoreWrite (s : State) : Host.Outcome State Fault Refusal :=
  s.run fun s =>
    if !s.firmwareRuns then s else
    let c := s.configNow
    let t := s.trustNow
    let f := s.flash
    let f := if f.config = c then f else { f with config := c, config2 := f.config, slotNext := s.od0 .bootSlotNext }
    { s with flash := if f.trust = t then f else { f with trust := t, trust2 := f.trust } }

/-! ## Firmware updates (spec/16 R587) -/

/-- The image slot that is not active. -/
def Part.otherSlot (s : Part) : Nat := 1 - s.od0 .bootSlotActive

/-- Mark an image slot: 0 whole, 1 erased, 2 partly written, and keep the header of what it holds. -/
def Part.markSlot (s : Part) (x m head : Nat) : Part :=
  { s with flash := { s.flash with slots := s.flash.slots.set 0 x m, heads := s.flash.heads.set 0 x head } }

/-- The inactive slot is erased. -/
def Part.eraseSlot (s : Part) : Part :=
  ({ s.markSlot s.otherSlot 1 0 with boot := { s.boot with updateImg := [] } }).setOd .fwUpdateOffset 0 0

/-- A write of FW_UPDATE_COMMAND: 1 BEGIN, 2 VERIFY, 3 ABORT (spec/16 R587). -/
def Part.updateCommand (s : Part) (w : Who) (v : Nat) : Reply :=
  s.command w .fwUpdateCommand v false fun s =>
    if v = 1 then ((s.eraseSlot).setOd .fwUpdateState 0 1).ok
    else if v = 2 then
      if s.od0 .fwUpdateState = 1 then (s.setOd .fwUpdateState 0 2).ok else s.refuse rState
    else ((s.eraseSlot).setOd .fwUpdateState 0 0).ok

/-- FW_UPDATE_BEGIN (spec/16 R587, step 1). -/
def execFwUpdateBegin (w : Who) (s : State) : Host.Outcome State Fault Refusal := s.run fun s => (s.updateCommand w 1).answer w

/-- FW_UPDATE_VERIFY (spec/16 R587, step 3): the check of the slot starts. -/
def execFwUpdateVerify (w : Who) (s : State) : Host.Outcome State Fault Refusal := s.run fun s => (s.updateCommand w 2).answer w

/-- FW_UPDATE_ABORT (spec/16 R587). -/
def execFwUpdateAbort (w : Who) (s : State) : Host.Outcome State Fault Refusal := s.run fun s => (s.updateCommand w 3).answer w

/-- The header of the image that is being received. -/
def Part.receivedHead (s : Part) : Nat := bits (s.boot.updateImg.get 0 0) 0 2048

/-- The image received is whole: the header's LENGTH bytes of body lie below the offset (spec/16 R582). -/
def Part.imageWhole (s : Part) : Bool := decide (256 + (readHeader s.receivedHead).length ≤ s.od0 .fwUpdateOffset)

/-- A write of FW_UPDATE_DATA (spec/16 R587, step 2): a shorter value is padded with 0xFF. -/
def Part.updateData (s : Part) (w : Who) (data len : Nat) : Reply :=
  match writeChecks { Entry.fwUpdateData.info with size := min len 65536 } (s.roleOf w) data len true with
  | some c => s.refuse c
  | none =>
    if s.od0 .fwUpdateState != 1 then s.refuse rState else
    let off := s.od0 .fwUpdateOffset
    let value := data ||| ((2 ^ (8 * (65536 - len)) - 1) <<< (8 * len))
    let s : Part := { s with boot := { s.boot with updateImg := s.boot.updateImg.put off value } }
    let s := s.setOd .fwUpdateOffset 0 (off + 65536)
    (s.markSlot s.otherSlot (if s.imageWhole then 0 else 2) s.receivedHead).ok

/-- FW_UPDATE_DATA (spec/16 R587). -/
def execFwUpdateData (w : Who) (data len : Nat) (s : State) : Host.Outcome State Fault Refusal :=
  s.run fun s => (s.updateData w data len).answer w

/-- FW_UPDATE_VERIFY_DONE (spec/16 R587, step 3): the result of R583 on the slot. -/
def execFwUpdateVerifyDone (img : ImageCheck) (s : State) : Host.Outcome State Fault Refusal :=
  s.run fun s =>
    if s.od0 .fwUpdateState != 2 then s else
    let r := s.slotCheck s.otherSlot img
    ((s.setOd .fwUpdateResult 0 r).setOd .fwUpdateState 0 (if r = 0 then 3 else 0)).logEv 0x1909 r s.otherSlot

/-! ## Fuses (spec/16 R585, R586) -/

/-- A write of FW_SVN_COMMIT. -/
def Part.svnCommit (s : Part) (w : Who) (v len : Nat) : Reply :=
  s.written w .fwSvnCommit v len fun s =>
    if v < s.flash.svnFuse || s.od0 .fwSvnImage < v then s.refuse rRange
    else (({ s with flash := { s.flash with svnFuse := v } } : Part).logEv 0x1907 v 0).ok

/-- FW_SVN_COMMIT (spec/16 R585). -/
def execFwSvnCommit (w : Who) (value : BitVec 8) (s : State) : Host.Outcome State Fault Refusal :=
  s.run fun s => (s.svnCommit w value.toNat 1).answer w

/-- A write of FW_KEY_REVOKE. -/
def Part.keyRevoke (s : Part) (w : Who) (k len : Nat) : Reply :=
  s.written w .fwKeyRevoke k len fun s =>
    let others := (List.range 4).filter fun j => j != k && !bit s.flash.revoked j
    if k = s.od0 .fwKeyIndex || (others.isEmpty && !bit s.flash.revoked k) then s.refuse rCondition
    else (({ s with flash := { s.flash with revoked := setBit s.flash.revoked k true } } : Part).logEv 0x1908 k 0).ok

/-- FW_KEY_REVOKE (spec/16 R586). -/
def execFwKeyRevoke (w : Who) (value : BitVec 8) (s : State) : Host.Outcome State Fault Refusal :=
  s.run fun s => (s.keyRevoke w value.toNat 1).answer w

/-! ## Debug access (spec/16 R593, spec/04 R180, R181) -/

/-- A token of R593: serial number, challenge, signature over both by the Ndellivin debug key. -/
def Part.tokenOk (s : Part) (token : Nat) : Bool :=
  let b := toBytes 136 token
  bits token 0 64 == s.flash.serial && bits token 64 256 == s.od0 .debugChallenge &&
    match ecPoint s.flash.vendorPoint with
    | some q => ecdsaVerify q (b.take 40) (ofBytesBE ((b.drop 40).take 48)) (ofBytesBE (b.drop 88))
    | none => false

/-- A write of DEBUG_UNLOCK. -/
def Part.debugUnlock (s : Part) (w : Who) (token len : Nat) : Reply :=
  s.written w .debugUnlock token len fun s =>
    if s.tokenOk token then ((s.setOd .debugState 0 1).logEv 0x190B 0 0).ok else s.refuse rKey

/-- DEBUG_UNLOCK (spec/16 R593). -/
def execDebugUnlock (w : Who) (token : Nat) (s : State) : Host.Outcome State Fault Refusal :=
  s.run fun s => (s.debugUnlock w token 136).answer w

/-- An access stopped by the slice-range filter (spec/04 R181); the masters are 0 the debug port, 1 the monitor. -/
def Part.filterBlocked (s : Part) (master p addr : Nat) : Part :=
  (s.count .debugBlocked 0).logLimited (0x0D040000 + master) nsPerMs 0x0D04 master addr none p

/-- The filter lets an access through (spec/04 R180). -/
def Part.filterAllows (s : Part) (p addr : Nat) (write : Bool) : Bool :=
  let k := (s.ownOf p (addr / 2 ^ 21)).kind
  k == kindSystem || (!write && (k == kindFree || k == kindSpare))

/-- Read 8 bytes at a byte address of a pavilion's DRAM through the filter; what the part's own tables hold there is open (log
entry 42). -/
def Part.filterRead (s : Part) (master p addr : Nat) : Part × Nat :=
  if !s.filterAllows p addr false then (s.filterBlocked master p addr, 0) else
  let x := addr / 64
  let line := (sddcCheck (s.burstNow p x)).value
  if (s.ownOf p (addr / 2 ^ 21)).kind = kindSystem && !(s.pav p).dram.any (fun e => e.1 == x) then
    let q := s.free
    (q.2, q.1 % 2 ^ 64)
  else (s, bits line (64 * (addr / 8 % 8)) 64)

/-- Write 8 bytes through the filter. -/
def Part.filterWrite (s : Part) (master p addr value : Nat) : Part :=
  if !s.filterAllows p addr true then s.filterBlocked master p addr else
  let x := addr / 64
  s.putDram p x (sddcEncode (setBits (sddcCheck (s.burstNow p x)).value (64 * (addr / 8 % 8)) 64 value))

/-- DEBUG_PORT_ACCESS (spec/16 R593, spec/04 R180): nothing while the port is LOCKED. -/
def execDebugPortAccess (p : Pav) (write : Bool) (addr data : U64) (s : State) : Host.Outcome State Fault Refusal :=
  s.run fun s =>
    if s.od0 .debugState = 0 then s
    else if write then s.filterWrite 0 p addr.toNat data.toNat
    else
      let q := s.filterRead 0 p addr.toNat
      q.1.emit (.debug q.2)

/-! ## Attestation (spec/09 R394, spec/16 R589, R590) -/

/-- The alias key's scalar (spec/16 R588). -/
def Part.aliasKey (s : Part) : Nat := s.deviceScalar (asciiBytes "GZ8-ALIA" ++ toBytes 48 (s.od0 .fwMeasurement))

/-- The certificate chain as the values that its certificates carry: the device certificate, the serial number, the alias key
and the measurement in its extension (log entry 43). -/
def Part.chain (s : Part) (cert : Nat) : List Nat :=
  [cert, s.flash.serial, ecBytes (ecMul 384 s.aliasKey (some p384G)), s.od0 .fwMeasurement]

/-- The measurement blocks of R590. -/
def Part.measurement (s : Part) (index : Nat) : Option (List Nat) :=
  match index with
  | 1 => some [Config.romDigest]
  | 2 => some [s.od0 .fwMeasurement]
  | 3 => some [s.od0 .fwSvnImage, s.flash.svnFuse]
  | 4 => some [s.od0 .debugState, s.od0 .monitorEnable, s.odRead .claimState 0, s.flash.revoked, s.odRead .mainIlimCeiling 0,
      s.odRead .branchIlimCeiling 0]
  | 5 => some [ofBytes (sha384 (catalogue (s.od0 .dictVersion)))]
  | _ => none

/-- A response signed by the alias key: the values, the nonce it answers and the signature. -/
def Part.signed (s : Part) (i : Nat) (l : List Nat) : Part :=
  ({ s with freeCtr := s.freeCtr + 1 } : Part).emit (.doe i 1 (l ++ [Config.signature s.freeCtr]))

/-- What a CMA/SPDM request is answered (spec/09 R394): version 1.1 and 1.2, certificates, a challenge, measurements, sessions. An
error response carries 0x7F. -/
def Part.spdm (s : Part) (i : Nat) : SpdmReq → Part
  | .getVersion _ => s.emit (.doe i 1 [0x04, 0x11, 0x12])
  | .getCertificate offset len => match s.flash.trust.cert with
    | none => s
    | some c => s.emit (.doe i 1 ([0x02, offset, len] ++ s.chain c))
  | .challenge nonce => match s.flash.trust.cert with
    | none => s
    | some _ => s.signed i [0x03, nonce]
  | .getMeasurements index nonce => match s.measurement index with
    | some l => s.signed i ([0x60, index, nonce] ++ l)
    | none => s.emit (.doe i 1 [0x7F, 1])
  | .openSession => match lowestClear 2 (s.port i).spdm with
    | some k => ((s.onPort i fun t => { t with spdm := setBit t.spdm k true }).modOd .spdmSessions i (· + 1)).emit (.doe i 1 [0x64, k])
    | none => s.emit (.doe i 1 [0x7F, 3])
  | .closeSession k =>
    if s.spdmOpen i k then
      ((s.onPort i fun t => { t with spdm := setBit t.spdm k false }).modOd .spdmSessions i (· - 1)).emit (.doe i 1 [0x6C, k])
    else s.emit (.doe i 1 [0x7F, 1])

/-- SPDM_REQUEST (spec/09 R394, spec/16 R589, R590). -/
def execSpdmRequest (i : Port) (req : SpdmReq) (s : State) : Host.Outcome State Fault Refusal := s.run fun s => s.spdm i req

end Sys2Proof.Machine
end

