-- ==== Sys2Proof/Machine/RestSeq.lean ====
section
/-!
DEFINITION. Power states of the pavilions and the package: lanes and IDLE, the entry into REST with its agents, wakes, and the
exit (spec/13 R502 to R518, spec/06 R262, R263, spec/16 R581).
-/

namespace Sys2Proof.Machine

/-! ## RUN and IDLE (spec/13 R502, R503) -/

/-- LANE_CLOCK_GATE (spec/13 R502): a lane or pipeline without a task, in RUN. -/
def execLaneClockGate (p : Pav) (lane : Fin 44) (s : State) : Host.Outcome State Fault Refusal :=
  s.run fun s =>
    if s.od .pavilionPowerState p != 0 || !s.inService p || !(s.pav p).codecQ.isEmpty || !(s.pav p).tasks.isEmpty then s
    else s.onPav p fun v => { v with laneGated := setBit v.laneGated lane true }

/-- A request waits in a port: in its ingress buffers, its park ring or its hold lists, or for its response. -/
def Part.portBusy (s : Part) (i : Nat) : Bool :=
  !(s.port i).park.isEmpty ||
    (s.port i).parts.any fun e => !e.2.queue.isEmpty || !e.2.forwarded.isEmpty || !e.2.hold.isEmpty

/-- A message waits in a pavilion's crossbar or receive buffers. -/
def Part.crossbarBusy (s : Part) (p : Nat) : Bool :=
  !(s.pav p).inbox.isEmpty || (List.range 28).any fun n =>
    ((linkEnds n).1 == p && !(s.link n).up.tx.isEmpty) || ((linkEnds n).2 == p && !(s.link n).down.tx.isEmpty)

/-- A channel holds a request other than scrub, repair or refresh. -/
def Part.channelBusy (s : Part) (c : Nat) : Bool :=
  let v := s.chan c
  (v.queue ++ v.withheld ++ v.inflight).any fun q => q.label != ownScrub && q.label != ownConfirm

/-- What keeps a pavilion out of IDLE (spec/13 R503). -/
def Part.pavBusy (s : Part) (p : Nat) : Bool :=
  let v := s.pav p
  s.portBusy (2 * p) || s.portBusy (2 * p + 1) || s.crossbarBusy p || (List.range 8).any (fun k => s.channelBusy (p * 8 + k)) ||
    !v.moves.isEmpty || v.regionMove.isSome || !v.tasks.isEmpty || !v.codecQ.isEmpty || !v.keyInvalid.isEmpty ||
    v.cbInvalid || s.codec.loading.isSome

/-- Every rank of a pavilion goes into power-down (spec/06 R261). -/
def Part.powerDownAll (s : Part) (p : Nat) : Part :=
  iter (List.range 8) s fun s k =>
    let c := p * 8 + k
    let ranks := (List.range 4).filter (s.rankRuns c)
    s.onChan c fun v => { v with powerDown := ranks, openRows := [] }

/-- PAVILION_IDLE_ENTRY (spec/13 R503): no work for PAVILION_IDLE_DELAY. -/
def execPavilionIdleEntry (p : Pav) (s : State) : Host.Outcome State Fault Refusal :=
  s.run fun s =>
    if !s.inService p || s.od .pavilionPowerState p != 0 || s.pavBusy p then s else
    let s := ((s.setOd .pavilionPowerState p 1).count .pavilionIdleEntries p).powerDownAll p
    if s.od0 .packagePowerState = 1 then s.setOd .packagePowerState 0 s.packageNow else s

/-! ## An attempt starts (spec/13 R506) -/

/-- An attempt to enter REST. -/
def Part.restStart (s : Part) : Part :=
  ({ s with rest := { RestState.zero with step := some 1, start := s.now } } : Part).setOd .packagePowerState 0 4

/-- A write of POWER_COMMAND: 1 REST. -/
def Part.powerCommand (s : Part) (w : Who) (v : Nat) : Reply :=
  s.command w .powerCommand v false fun s =>
    match s.od0 .packagePowerState with
    | 1 => s.restStart.ok
    | 2 => s.restStart.ok
    | 0 => s.refuse rState
    | _ => s.refuse rBusy

/-- POWER_COMMAND_REST (spec/13 R506). -/
def execPowerCommandRest (w : Who) (s : State) : Host.Outcome State Fault Refusal :=
  s.run fun s => (s.powerCommand w 1).answer w

/-- A host port lets REST_AUTO start an attempt: DOWN, DISABLED, or in D3hot or D3cold. -/
def Part.portInactive (s : Part) (i : Nat) : Bool :=
  s.od .portState i == 0 || s.od .portState i == 1 || s.od .portDState i != 0

/-- REST_AUTO_DELAY_EXPIRY (spec/13 R506). -/
def execRestAutoDelayExpiry (s : State) : Host.Outcome State Fault Refusal :=
  s.run fun s =>
    if s.od0 .restAuto = 1 && (s.od0 .packagePowerState == 1 || s.od0 .packagePowerState == 2) && s.od0 .partFailed == 0 &&
        (List.range 16).all s.portInactive then s.restStart
    else s

/-! ## The agents (spec/13 R507, R508) -/

/-- The agents of a step, in the order they are asked; codes as in spec/13 R509. -/
def restAgents : Nat → List Nat
  | 2 => [0x0100, 0x0700]
  | 3 => (List.range 16).map (0x0200 + ·)
  | 4 => (List.range 8).map (0x0300 + ·)
  | 5 => (List.range 28).map (0x0400 + ·)
  | 6 => (List.range 64).map (0x0500 + ·)
  | 7 => (List.range 8).reverse.map (0x0600 + ·)
  | _ => []

/-- The abort point after a step; none after step 2 (spec/13 R507). -/
def restPoint : Nat → Option Nat
  | 1 => some 1
  | 3 => some 2
  | 4 => some 3
  | 5 => some 4
  | 6 => some 5
  | 7 => some 6
  | _ => none

/-- Why the gatehouse refuses REST; 0 when it does not (spec/13 R508). -/
def Part.gateRefuses (s : Part) : Nat :=
  let anySlice (f : Nat → Bool) : Bool := s.allSlices.any f
  if s.vint.running.isSome || !s.vint.queue.isEmpty || s.vint.shadow.isSome then 1
  else if s.od0 .vintageBatchState != 0 then 2
  else if anySlice fun sl => s.od .rekeyState sl == 1 || s.sweepComing sl then 3
  else if s.building || s.codec.loading.isSome || (List.range 256).any (fun b => s.od .codebookState b == 3) then 4
  else if anySlice fun sl => s.od .sliceState sl == 4 || (s.slice sl).bundle.isSome || s.od .sliceClearing sl == 1 then 5
  else if (List.range 16).any fun i => s.od .dcState i != 0 then 6
  else if allPavs.any fun p => s.pstate p == 0 || s.pstate p == 3 then 7
  else if s.od0 .maintState = 2 then 8
  else 0

/-- The reason for which an agent refuses, 0 for none. The ports and engines of a STOPPED pavilion agree at once. -/
def Part.agentRefuses (s : Part) (a : Nat) : Nat :=
  let n := a % 256
  match a / 256 with
  | 1 => s.gateRefuses
  | 2 =>
    if s.pstate (portPav n) = 2 then 0
    else if s.od .portState n = 3 || s.od .portState n = 4 then 10
    else if s.portBusy n || (s.port n).mboxBusy.isSome then 11
    else 0
  | 4 => if s.od .linkState n = 1 || s.od .linkState n = 3 then 12 else 0
  | 5 => if (s.chan n).rebuild.isSome then 13 else if !(s.chan n).retrain.isEmpty then 12 else 0
  | 7 =>
    if s.mainState = 4 || (List.range 16).any fun b => s.od .branchState b == 3 || s.od .branchState b == 4 then 9 else 0
  | _ => 0

/-- An agent that does not refuse still has something in hand: a page, a flit without its acknowledgement, a read of DRAM. -/
def Part.agentWaits (s : Part) (a : Nat) : Bool :=
  let n := a % 256
  match a / 256 with
  | 3 => s.pstate n != 2 && (!(s.pav n).moves.isEmpty || !(s.pav n).codecQ.isEmpty)
  | 4 => s.od .linkState n == 2 && (!(s.link n).up.replay.isEmpty || !(s.link n).down.replay.isEmpty)
  | 5 =>
    let v := s.chan n
    s.od .channelState n == 2 &&
      (!v.inflight.isEmpty || !v.suspects.isEmpty || (v.queue ++ v.withheld).any fun q => !q.write)
  | _ => false

/-- The refresh debt of a channel is paid, one same-bank refresh after the other (spec/06 R262). -/
def Part.payDebt (s : Part) (c : Nat) : Part :=
  let unit := max 1 (s.refreshUnit c)
  let s := iter (List.range 8) s fun s k =>
    iter (List.range (((s.chan c).debt.getD k 0 + unit - 1) / unit)) s fun s _ => s.refresh c (k / 4) (k % 4)
  s.onChan c fun v => { v with debt := v.debt.map fun _ => 0 }

/-- A channel goes into self-refresh (spec/06 R262): queued writes and repairs issue, those withheld first, which are older; the refresh
debt is paid; every rank that takes commands is refreshed whole; the DIMM clock stops. -/
def Part.selfRefresh (s : Part) (c : Nat) : Part :=
  if s.od .channelState c != 2 then s else
  let v := s.chan c
  let s := iter (v.withheld ++ v.queue) s fun s q => (s.commandsOf c q).countBurst c q |>.writeNow c q
  let s := iter (s.chan c).repairQ s fun s q => s.serveRepair c q
  let s := s.payDebt c
  let s := iter ((List.range 4).filter (s.rankRuns c)) s fun s r => s.refreshAll c r
  (s.onChan c fun v => { v with queue := [], withheld := [], openRows := [], powerDown := [], dimmClock := false }).setOd .channelState c 3

/-- What an agent does as it agrees (spec/13 R507). -/
def Part.agentParks (s : Part) (a : Nat) : Part :=
  let n := a % 256
  match a / 256 with
  | 3 => s.gather
  | 5 => s.selfRefresh n
  | 6 => if 4 ≤ s.pstate n then s else (s.setOd .pavilionPowerState n 3).setOd .pllLocked n 0
  | _ => s

/-- An agent's entry in the list of those that agreed: a pavilion that was IDLE goes back to IDLE. -/
def Part.agreedAs (s : Part) (a : Nat) : Nat :=
  if a / 256 = 6 && s.od .pavilionPowerState (a % 256) = 1 then a + 0x10000 else a

/-! ## Abort points (spec/13 R507, R510, R512) -/

/-- The attempt ends at an abort point (spec/13 R510). -/
def Part.restAbort (s : Part) (point source : Nat) : Part :=
  let s := ((s.restRestart.count .restAborts 0).setOd .restLastAbortPoint 0 point).setOd .restLastWakeSource 0 source
  (s.setOd .packagePowerState 0 s.packageNow).logEv 0x1603 point source

/-- After abort point 6 the part is in REST (spec/13 R507, R512, R514): the record is written first, then the core supply goes. -/
def Part.enterRest (s : Part) : Part :=
  let first := s.logNext
  let s := (s.count .restEntries 0).setCoreEn false
  let n := s.gate.held.length
  let s := if n = 0 then s else s.count .mgmtFramesDropped 0 n
  let s : Part := { s with
    gate := { s.gate with held := [] }
    power := { s.power with corePG := false }
    rest := { s.rest with step := none, wake := none, inRest := true, entered := s.now, logAt := first } }
  let s := if s.od0 .timeSource = 1 then s.setOd .timeState 0 4 else s
  (s.setOd .packagePowerState 0 3).logEv 0x1601 0 0

/-- A step is done: its abort point is passed, with the next step to ask, or REST after the last. -/
def Part.stepPassed (s : Part) (step : Nat) : Part :=
  match restPoint step, s.rest.wake with
  | some point, some source => s.restAbort point source
  | _, _ =>
    if step = 7 then s.enterRest else { s with rest := { s.rest with step := some (step + 1) } }

/-- The next agent of a step is asked (spec/13 R507 to R509). Agents are asked in their order, so the next is the first that has
not agreed. -/
def Part.askAgent (s : Part) (step : Nat) : Part :=
  let done (a : Nat) : Bool := s.rest.agreed.any fun b => b % 0x10000 == a
  match (restAgents step).filter fun a => !done a with
  | [] => s.stepPassed step
  | a :: rest =>
    let r := s.agentRefuses a
    if r != 0 then s.restRefuse a r
    else if s.agentWaits a then s
    else
      let b := s.agreedAs a
      let s := s.agentParks a
      let s : Part := { s with rest := { s.rest with agreed := b :: s.rest.agreed } }
      if rest.isEmpty then s.stepPassed step else s

/-- REST_AGENT_AGREE's effect: step 1 has no agent, only its abort point. -/
def Part.restAgree (s : Part) : Part :=
  match s.rest.step with
  | none => s
  | some k => s.askAgent k

/-- WAKE_EVENT (spec/13 R511): a source of the table. -/
def execWakeEvent (source : Fin 16) (s : State) : Host.Outcome State Fault Refusal :=
  s.run fun s => if 1 ≤ source.val && source.val ≤ 4 then s.wakeEvent source else s

/-! ## Leaving REST (spec/13 R515, R516, R517) -/

/-- The pavilions that come back from REST. -/
def Part.leaving (s : Part) : List Nat := allPavs.filter fun p => s.pstate p == 1 || s.pstate p == 2 || s.pstate p == 3

/-- The exit runs, before or after the core supply is back. -/
def Part.exits (s : Part) (coreUp : Bool) : Bool := s.rest.inRest && s.rest.exiting && s.rest.coreUp == coreUp

/-- A pavilion fails in the exit; pavilion 0 takes the part with it (spec/01 R24). -/
def Part.exitFails (s : Part) (p : Nat) : Part :=
  let s := s.failPavilion p 3
  if p = 0 then s.losePavilion0 else s

/-- Steps 5 to 7 of R516: links train, channels leave self-refresh with a quick retrain, agents restart, latched PERST# edges act
on their ports. -/
def Part.exitSteps (s : Part) : Part :=
  let s := iter (List.range 28) s fun s n => if s.od .linkState n = 2 then s.setOd .linkState n 1 else s
  let latched := s.rest.perst
  let agreed := s.rest.agreed
  let s := s.restRestart
  let s : Part := { s with rest := { s.rest with agreed := agreed, perst := [] } }
  iter latched s fun s i => s.conventional i (if (s.port i).perst then 1 else 2)

/-- The exit goes on when every pavilion has restored its retention. -/
def Part.exitProgress (s : Part) : Part :=
  if s.rest.coreUp && s.leaving.all s.rest.restored.contains then s.exitSteps else s

/-- REST_EXIT_CORE_PG (spec/13 R516, steps 2 and 3, R499, spec/14 R542, spec/06 R254, R263): PLLs lock; a pavilion whose PLL does
not, or whose branch tripped in REST, fails; a rank that fails its exit (bit channel * 4 + rank of `exitOk` is 0) leaves service. -/
def execRestExitCorePg (pllsLocked : BitVec 8) (exitOk : BitVec 256) (s : State) : Host.Outcome State Fault Refusal :=
  s.run fun s =>
    if !s.exits false then s else
    let s : Part := { s with rest := { s.rest with coreUp := true, restored := [] }, power := { s.power with corePG := true } }
    let s := iter s.leaving s fun s p => s.setOd .pllLocked p (b2n (bit pllsLocked.toNat p))
    let s := iter (s.leaving.filter fun p => !bit pllsLocked.toNat p || s.rest.dark.contains p) s Part.exitFails
    let s := iter (List.range 256) s fun s k =>
      if bit exitOk.toNat k || s.od .channelState (k / 4) != 3 || s.pstate (k / 32) = 2 then s else s.rankLeaves (k / 4) (k % 4) 4
    s.exitProgress

/-- REST_EXIT_CORE_PG_TIMEOUT (spec/13 R517): the part stays in REST; the next wake starts the exit again. -/
def execRestExitCorePgTimeout (s : State) : Host.Outcome State Fault Refusal :=
  s.run fun s =>
    if !s.exits false then s else
    let s : Part := { s with rest := { s.rest with exiting := false } }
    let s := ((s.setCoreEn false).setOd .packagePowerState 0 3).setOd .bootState 0 13
    (s.count .restExitFailures 0).logEv 0x1606 0 0

/-- What an uncorrectable retention word does (spec/13 R515). The kinds: 0 a cache line, 1 a vintage bank, 2 a region-map entry,
3 a tally (its number), 4 a register with parity, 5 a record of the log (its number), 6 a dirty mask (its slice). A cache line and
a region-map entry are read again from their source. -/
def Part.retentionLost (s : Part) (p kind n : Nat) : Part :=
  match kind with
  | 1 => { s with rest := { s.rest with bankLost := true } }
  | 3 => match entryOf n with
    | some (e, i) => if e.isTally then s.taintTally e i else s
    | none => s
  | 4 => s.exitFails p
  | 5 => { s with log := s.log.erase (n % 65536) }
  | 6 => if s.od .sliceMigrationId n = 0 then s else iter (s.grantedExts n) s fun s le => s.markExt n le true
  | _ => s

/-- RETENTION_RESTORE_DONE (spec/13 R515): a pavilion has read every retention word: `ce` corrected, `ue` uncorrectable. -/
def execRetentionRestoreDone (p : Pav) (ce : Nat) (ue : List (Nat × Nat)) (s : State) : Host.Outcome State Fault Refusal :=
  s.run fun s =>
    if !s.exits true || s.rest.restored.contains p.val || !s.leaving.contains p.val then s else
    let s := if ce = 0 then s else s.count .retentionCe 0 ce
    let s := iter ue s fun s u => ((s.count .retentionUe 0).logEv 0x1605 p u.1 none p).retentionLost p u.1 u.2
    ({ s with rest := { s.rest with restored := s.rest.restored ++ [p.val] } } : Part).exitProgress

/-! ## Memory active again (spec/13 R514, R516, spec/16 R581) -/

/-- The ticks that fell in REST up to a time, and the minutes that ended in it: a record for each minute, into the backlog (spec/13
R514). `n` bounds the minutes. -/
def Part.restMinutes : Nat → Part → Nat → Nat → Part
  | 0, s, _, _ => s
  | n + 1, s, from_, to_ =>
    let edge := (from_ / nsPerMinute + 1) * nsPerMinute
    let upTo := min edge to_
    let ticks := upTo / nsPerMs - from_ / nsPerMs
    let s := if ticks = 0 then s else iter s.allSlices s fun s sl => s.addLevels sl ticks
    if edge ≤ to_ then (s.endMinute false true edge none).restMinutes n edge to_ else s

/-- The notifications of the records written in REST are sent, and the notice rings get theirs (spec/13 R516). -/
def Part.restNotices (s : Part) (first : Nat) : Part :=
  let s := iter (List.range 32) s fun s k =>
    if !(s.sess k).isOpen then s else
    iter ((s.sess k).notices.filter fun n => decide (first ≤ n.logNo)) s fun s n => s.pushNotice k n
  s.flushNotices

/-- REST is over (spec/13 R516, step 9): a plan-only compile follows; `logAt` numbers the first record written in REST. -/
def Part.restOver (s : Part) (logAt : Nat) : Part :=
  let s : Part := { s with rest := RestState.zero, boot := { s.boot with heartbeat := s.now } }
  let s := (iter s.leaving s fun s p => s.setOd .fillState p 3).setOd .fillLastKind 0 2
  let s := if s.od0 .timeSource = 1 then s.setOd .timeState 0 2 else s
  (((s.setOd .bootState 0 13).setOd .packagePowerState 0 s.packageNow).askCompile 2).restNotices logAt

/-- The first match of the measurement makes memory active (spec/13 R516, step 9, R514). -/
def Part.restLeft (s : Part) : Part :=
  let r := s.rest
  let stay := (r.exitAt - r.entered) / nsPerMs
  let took := (s.now - r.exitAt) / nsPerMs
  let s := if r.bankLost then s.firstVintage else s
  let s := s.restMinutes (s.now / nsPerMinute - r.entered / nsPerMinute + 1) r.entered s.now
  (((s.setOd .restLastDuration 0 stay).setOd .restLastExitTime 0 took).logEv 0x1604 stay took).restOver r.logAt

/-- WARM_MEASUREMENT_DONE (spec/16 R581): the steps before it are done. Another measurement than the cold boot's drops the
retention: a cold boot from stage 3. -/
def execWarmMeasurementDone (digest : BitVec 384) (s : State) : Host.Outcome State Fault Refusal :=
  s.run fun s =>
    if !s.exits true || !(s.leaving.all s.rest.restored.contains) || (List.range 28).any (fun n => s.od .linkState n == 1) then s
    else if digest.toNat = s.boot.measured then s.restLeft
    else ((s.logEv 0x1905 0 0).coreLost).coreStart

end Sys2Proof.Machine
end

