-- ==== Sys2Proof/Machine/Network.lean ====
section
/-!
DEFINITION. The management Ethernet port and MCTP on I3C (spec/11 R443 to R445): link, address resolution, echo, DHCP, staged
network settings, endpoint control messages.
-/

namespace Sys2Proof.Machine

/-- The gatehouse handles what arrives: it is alive, its firmware runs, and the part is not in REST. -/
def Part.listens (s : Part) : Bool :=
  s.gateAlive && decide (7 ≤ s.od0 .bootState) && decide (s.od0 .bootState ≤ 13) && !s.rest.inRest

/-! ## The port and its addresses (spec/11 R443) -/

/-- The management link is up. -/
def Part.mgmtUp (s : Part) : Bool := s.od0 .mgmtLinkState == 1

/-- A frame on the management port is dropped and counted. -/
def Part.mgmtDrop (s : Part) : Part := s.count .mgmtFramesDropped 0

/-- The link-local IPv6 address formed from MGMT_MAC (log entry 44), as a number with the first byte highest. -/
def Part.linkLocal (s : Part) : Nat :=
  let m := toBytes 6 s.flash.mac
  let o (k : Nat) : Nat := m.getD k 0
  ofBytesBE ([0xFE, 0x80, 0, 0, 0, 0, 0, 0] ++ [o 0 ^^^ 2, o 1, o 2, 0xFF, 0xFE, o 3, o 4, o 5])

/-- An IPv4 address is the part's. -/
def Part.ownsV4 (s : Part) (a : Nat) : Bool := a != 0 && s.odRead .mgmtIpv4Address 0 == a

/-- An IPv6 address is the part's: the static one, whose entry holds its bytes in order, or the link-local one. -/
def Part.ownsV6 (s : Part) (a : Nat) : Bool :=
  (s.od0 .mgmtIpv6Address != 0 && ofBytesBE (toBytes 16 (s.od0 .mgmtIpv6Address)) == a) || a == s.linkLocal

/-- MGMT_LINK_CHANGE (spec/11 R443): the port of a lost pavilion 0 stays down (spec/01 R24). -/
def execMgmtLinkChange (up : Bool) (s : State) : Host.Outcome State Fault Refusal :=
  s.run fun s => if s.boot.pav0Lost || !s.power.vaux then s else s.setOd .mgmtLinkState 0 (b2n up)

/-- ARP_REQUEST (spec/11 R443): answered with the part's address, in REST too. -/
def execArpRequest (target : BitVec 32) (s : State) : Host.Outcome State Fault Refusal :=
  s.run fun s => if s.mgmtUp && s.ownsV4 target.toNat then s.emit (.net 0 [target.toNat, s.flash.mac]) else s

/-- NEIGHBOUR_SOLICITATION (spec/11 R443): answered, in REST too. -/
def execNeighbourSolicitation (target : BitVec 128) (s : State) : Host.Outcome State Fault Refusal :=
  s.run fun s => if s.mgmtUp && s.ownsV6 target.toNat then s.emit (.net 1 [target.toNat, s.flash.mac]) else s

/-- ICMP_ECHO_REQUEST (spec/11 R443): answered with its payload; dropped in REST. -/
def execIcmpEchoRequest (v6 : Bool) (addr : BitVec 128) (payload : Nat) (s : State) : Host.Outcome State Fault Refusal :=
  s.run fun s =>
    if !s.mgmtUp then s
    else if s.rest.inRest then s.mgmtDrop
    else if s.listens && (if v6 then s.ownsV6 addr.toNat else s.ownsV4 addr.toNat) then
      s.emit (.net (if v6 then 3 else 2) [addr.toNat, payload])
    else s

/-- DHCPV4_MESSAGE (spec/11 R443): a reply sets or renews the address in force under DHCP. -/
def execDhcpv4Message (addr : BitVec 32) (prefixLen : BitVec 8) (gateway : BitVec 32) (s : State) :
    Host.Outcome State Fault Refusal :=
  s.run fun s =>
    if !s.mgmtUp then s
    else if s.rest.inRest then s.mgmtDrop
    else if !s.listens || s.od0 .mgmtIpv4Mode != 1 then s
    else { s with gate := { s.gate with lease := some (addr.toNat, prefixLen.toNat, gateway.toNat) } }

/-! ## Staged settings (spec/11 R444) -/

/-- The entries marked (N). -/
def stagedEntries : List Entry := Entry.all.filter fun e => e.info.staged

/-- The network settings in force as the store holds them. -/
def Part.netNow (s : Part) : Sparse Nat := stagedEntries.foldl (fun m e => m.put (e.key 0) (s.od e 0)) []

/-- Put network settings in force: a new source of the IPv4 address forgets the lease. -/
def Part.netApply (s : Part) (m : Sparse Nat) : Part :=
  let mode := s.od0 .mgmtIpv4Mode
  let s := iter stagedEntries s fun s e => match m.find? fun q => q.1 == e.key 0 with
    | some q => s.setOd e 0 q.2
    | none => s
  if s.od0 .mgmtIpv4Mode = mode then s else { s with gate := { s.gate with lease := none } }

/-- A write to an entry marked (N) is staged. -/
def Part.netStage (s : Part) (e : Entry) (v : Nat) : Part :=
  { s with gate := { s.gate with netStaged := s.gate.netStaged.put (e.key 0) v } }

/-- APPLY takes effect after its answer: the settings before the first unconfirmed APPLY are kept (log entry 45). -/
def Part.applyStaged (s : Part) : Part :=
  let old := s.gate.netOld.getD s.netNow
  let s := s.netApply s.gate.netStaged
  ({ s with gate := { s.gate with netStaged := [], netOld := some old } } : Part).logEv 0x1407 0 0

/-- Who asks reached the gatehouse through the management port. -/
def Part.overEthernet (s : Part) : Who → Bool
  | .session k => match (s.sess k).origin with
    | .ethernet _ _ => true
    | _ => false
  | .monitor => false

/-- A write of MGMT_COMMAND: 1 APPLY, whose effect follows its answer, 2 CONFIRM, which counts only through the port. -/
def Part.mgmtCommand (s : Part) (w : Who) (v : Nat) : Reply :=
  s.command w .mgmtCommand v false fun s =>
    if v = 2 && s.overEthernet w then ({ s with gate := { s.gate with netOld := none } } : Part).ok else s.ok

/-- MGMT_APPLY (spec/11 R444). -/
def execMgmtApply (w : Who) (s : State) : Host.Outcome State Fault Refusal :=
  s.run fun s =>
    let r := s.mgmtCommand w 1
    let s := r.answer w
    if r.code = some rOk then s.applyStaged else s

/-- MGMT_CONFIRM (spec/11 R444). -/
def execMgmtConfirm (w : Who) (s : State) : Host.Outcome State Fault Refusal :=
  s.run fun s => (s.mgmtCommand w 2).answer w

/-- MGMT_CONFIRM_TIMEOUT (spec/11 R444): the old settings return; code 0x1408. -/
def execMgmtConfirmTimeout (s : State) : Host.Outcome State Fault Refusal :=
  s.run fun s =>
    match s.gate.netOld with
    | none => s
    | some m => ({ (s.netApply m) with gate := { (s.netApply m).gate with netOld := none } } : Part).logEv 0x1408 0 0

/-! ## MCTP on I3C (spec/11 R445, spec/13 R511) -/

/-- A private write addressed to the part on I3C: a wake event; in REST it is answered with NACK. -/
def Part.onI3c (s : Part) (f : Part → Part) : Part :=
  let asleep := s.rest.inRest
  let s := s.wakeEvent 3
  if asleep || !s.listens then s else f s

/-- I3C_DYNAMIC_ADDRESS_ASSIGN (spec/11 R445). -/
def execI3cDynamicAddressAssign (addr : BitVec 7) (s : State) : Host.Outcome State Fault Refusal :=
  s.run fun s => if s.power.vaux then s.setOd .i3cDynamicAddress 0 addr.toNat else s

/-- MCTP_SET_ENDPOINT_ID (spec/11 R445): the null and the broadcast identifiers are invalid data (log entry 46). -/
def execMctpSetEndpointId (eid : BitVec 8) (s : State) : Host.Outcome State Fault Refusal :=
  s.run fun s => s.onI3c fun s =>
    if eid = 0 || eid = 0xFF then s.emit (.mctp 1 [2])
    else (s.setOd .mctpEid 0 eid.toNat).emit (.mctp 1 [0, 0, eid.toNat, 0])

/-- MCTP_GET_ENDPOINT_ID (spec/11 R445). -/
def execMctpGetEndpointId (s : State) : Host.Outcome State Fault Refusal :=
  s.run fun s => s.onI3c fun s => s.emit (.mctp 2 [0, s.od0 .mctpEid, 0, 0])

/-- MCTP_GET_VERSION_SUPPORT (spec/11 R445): the base specification, control messages and type 0x7E; the version is a free value;
another type is not supported. -/
def execMctpGetVersionSupport (kind : BitVec 8) (s : State) : Host.Outcome State Fault Refusal :=
  s.run fun s => s.onI3c fun s =>
    if kind = 0xFF || kind = 0 || kind = 0x7E then
      let q := s.free
      q.2.emit (.mctp 4 [0, 1, q.1 % 2 ^ 32])
    else s.emit (.mctp 4 [0x80])

/-- MCTP_GET_MESSAGE_TYPE_SUPPORT (spec/11 R445): type 0x7E. -/
def execMctpGetMessageTypeSupport (s : State) : Host.Outcome State Fault Refusal :=
  s.run fun s => s.onI3c fun s => s.emit (.mctp 5 [0, 1, 0x7E])

/-- MCTP_GET_VENDOR_DEFINED_SUPPORT (spec/11 R445): one set, by PCI vendor ID 0x1F8B. -/
def execMctpGetVendorDefinedSupport (selector : BitVec 8) (s : State) : Host.Outcome State Fault Refusal :=
  s.run fun s => s.onI3c fun s => s.emit (.mctp 6 (if selector = 0 then [0, 0xFF, 0, 0x1F8B, 0] else [2]))

end Sys2Proof.Machine
end

