-- ==== Sys2Proof/Machine/Vop.lean ====
section
/-!
DEFINITION. Sessions, roles and notifications of the Vuith Object Protocol (spec/11 R450 to R454, R460 to R462).
-/

namespace Sys2Proof.Machine

/-! ## Transports (spec/11 R442) -/

/-- SESSION_TRANSPORT: 1 ETHERNET, 2 MCTP, 3 + i the mailbox of port i. -/
def transportCode : Transport → Nat
  | .ethernet _ _ => 1
  | .mctp _ => 2
  | .mailbox i => 3 + i

/-- The largest frame of a transport in bytes. -/
def frameLimit : Transport → Nat
  | .ethernet _ _ => 1440
  | .mctp _ => 1088
  | .mailbox _ => 8184

/-- The largest segment payload of a transport. -/
def segmentLimit (t : Transport) : Nat := frameLimit t - 64

/-- SESSION_PEER: over Ethernet the IPv6 or IPv4-mapped address, the UDP port and two bytes of 0; over MCTP the endpoint. -/
def peerBytes : Transport → Nat
  | .ethernet a u => ofBytes (toBytesBE 16 (if a < 2 ^ 32 then a + 0xFFFF00000000 else a) ++ toBytes 2 u)
  | .mctp e => e % 256
  | .mailbox _ => 0

/-- The TRANSPORT_ROLES entry of a transport. -/
def transportRoles : Transport → Entry
  | .ethernet _ _ => .transportRolesEthernet
  | .mctp _ => .transportRolesMctp
  | .mailbox _ => .transportRolesMailbox

/-! ## Closing a session (spec/11 R453, R454) -/

/-- Who a session slot is. -/
def sessionWho (k : Nat) : Who := .session ⟨k % 32, Nat.mod_lt _ (by decide)⟩

/-- What a session waits for goes on without it: its late answers are discarded. -/
def Part.forgetWho (s : Part) (w : Who) : Part :=
  let f (a : CompileAsk) : CompileAsk := if a.who = some w then { a with who := none } else a
  { s with
    vint := { s.vint with
      queue := s.vint.queue.map f, running := s.vint.running.map f, batch := if s.vint.batch = some w then none else s.vint.batch }
    codec := { s.codec with loading := s.codec.loading.map fun q => if q.2.2 = some w then (q.1, q.2.1, none) else q } }

/-- A mailbox command VOP_TRANSPORT that gets no response frame ends; its return code then is open (log entry 47). -/
def Part.mboxSilent (s : Part) (t : Transport) : Part :=
  match t with
  | .mailbox i =>
    if (s.port i).mboxBusy = some 0xC800 then
      let q := s.free
      (q.2.onPort i fun p => { p with mboxBusy := none }).mbox i (q.1 % 65536) []
    else s
  | _ => s

/-- The segmented transfer of a session is over. -/
def Part.endTransfer (s : Part) (k : Nat) : Part :=
  s.onSess k fun q => { q with transfer := 0, transferOp := 0, transferIx := 0, transferLen := 0, transferGot := 0, transferVal := 0 }

/-- The entries of a session slot that return to their defaults when the slot is free. -/
def sessionEntries : List Entry :=
  [.sessionId, .sessionRole, .sessionTransport, .sessionPeer, .sessionLastSequence, .sessionSubscription]

/-- A session closes (spec/11 R453): logged with the slot and the cause (log entry 48: 1 CLOSE, 2 SESSION_COMMAND, 3 a new or
destroyed role key, 4 idle, 5 the last SEQUENCE, 6 a transfer's time, 7 a transfer's session). -/
def Part.closeSession (s : Part) (k cause : Nat) : Part :=
  let q := s.sess k
  if !q.isOpen then s else
  let s := if q.transfer = 0 then s else s.logEv 0x1403 k 7
  let s := (s.forgetWho (sessionWho k)).onSess k fun q => { Session.zero with openings := q.openings }
  let s := iter sessionEntries s fun s e => s.resetOd e k
  let s := if q.executing then s.mboxSilent q.origin else s
  s.logEv 0x1403 k cause

/-- Close every open session of a role. -/
def Part.closeRole (s : Part) (r : Nat) : Part :=
  iter (s.openSessions.filter fun k => s.od .sessionRole k == r) s fun s k => s.closeSession k 3

/-- SESSION_IDLE_TIMEOUT (spec/11 R453), unless a request comes now (spec/00 R13); sessions are kept through REST. -/
def execSessionIdleTimeout (k : Slot) (s : State) : Host.Outcome State Fault Refusal :=
  s.run fun s => if s.rest.inRest || (s.sess k).executing || (s.sess k).usedAt = s.now + 1 then s else s.closeSession k 4

/-- A write of SESSION_COMMAND: 1 CLOSE. A session that names itself closes after its answer. -/
def Part.sessionCommand (s : Part) (w : Who) (k v : Nat) : Reply :=
  s.command w .sessionCommand v false fun s =>
    if w = sessionWho k then s.ok else (s.closeSession k 2).ok

/-- SESSION_CLOSE_COMMAND (spec/11 R453). -/
def execSessionCloseCommand (w : Who) (k : Slot) (s : State) : Host.Outcome State Fault Refusal :=
  s.run fun s =>
    let r := s.sessionCommand w k 1
    let s := r.answer w
    if r.code = some rOk && w = .session k then s.closeSession k 2 else s

/-- A segment of the session's transfer comes now (spec/11 R454, spec/00 R13). -/
def Part.segmentNow (s : Part) (k : Nat) : Bool :=
  let q := s.sess k
  q.usedAt == s.now + 1 && match q.request with
    | some f => f.opcode == 0x13 || f.opcode == 0x15
    | none => false

/-- VOP_TRANSFER_TIMEOUT (spec/11 R454), unless a segment comes now. -/
def execVopTransferTimeout (k : Slot) (s : State) : Host.Outcome State Fault Refusal :=
  s.run fun s => if (s.sess k).transfer = 0 || s.segmentNow k then s else (s.endTransfer k).logEv 0x1403 k 6

/-! ## Role keys (spec/11 R450, R451) -/

/-- Put a role key into the key store; its GEN counts what it replaces (spec/04 R149). -/
def Part.setRoleKey (s : Part) (r key : Nat) : Part :=
  { s with keys := { s.keys with roles := s.keys.roles.modify OneKey.zero r fun q =>
    ⟨true, if q.live then (q.gen + 1) % 256 else q.gen, key⟩ } }

/-- The role key that a public point gives. -/
def Part.roleKeyOf (s : Part) (r point : Nat) : Option Nat := s.agree point (asciiBytes "GZ8-ROLE" ++ [r]) 48

/-- A write of ROLE_PEER_PUBLIC. -/
def Part.rolePoint (s : Part) (w : Who) (r point len : Nat) : Reply :=
  if r = 0 || 4 < r then s.refuse rNoEntry else
  s.written w .rolePeerPublic point len fun s =>
    match s.roleKeyOf r point with
    | none => s.refuse rPoint
    | some key => (((s.setRoleKey r key).closeRole r).logEv 0x1404 r 1).ok

/-- ROLE_PEER_PUBLIC_WRITE (spec/11 R450). -/
def execRolePeerPublicWrite (w : Who) (r : Role) (point : Nat) (s : State) : Host.Outcome State Fault Refusal :=
  s.run fun s => (s.rolePoint w r point 97).answer w

/-- A write of ROLE_COMMAND: 1 DESTROY, refused for the custodian. -/
def Part.roleCommand (s : Part) (w : Who) (r v : Nat) : Reply :=
  if r = 0 || 4 < r then s.refuse rNoEntry else
  s.command w .roleCommand v false fun s =>
    if r = roleCustodian then s.refuse rCondition else
    let s : Part := { s with keys := { s.keys with roles := s.keys.roles.modify OneKey.zero r fun q => ⟨false, (q.gen + 1) % 256, 0⟩ } }
    ((s.closeRole r).logEv 0x1404 r 0).ok

/-- ROLE_DESTROY (spec/11 R450). -/
def execRoleDestroy (w : Who) (r : Role) (s : State) : Host.Outcome State Fault Refusal :=
  s.run fun s => (s.roleCommand w r 1).answer w

/-- The key of a role as the frames use it; none where it is EMPTY. -/
def Part.roleKey (s : Part) (r : Nat) : Option Nat :=
  let q := s.keys.roles.get OneKey.zero r
  if 1 ≤ r && r ≤ 4 && q.live then some q.key else none

/-! ## Dropped frames (spec/11 R439, R452) -/

/-- Check 1 fails: dropped, counted, logged with the transport at most once per second. -/
def Part.authFails (s : Part) (t : Transport) : Part :=
  (s.count .authFailures 0).logLimited (0x14010000 + transportCode t) nsPerS 0x1401 (transportCode t) 0

/-- Check 2 fails: dropped and counted. -/
def Part.replayDropped (s : Part) : Part := s.count .replaysDropped 0

/-! ## CLAIM (spec/11 R451) -/

/-- Answer a CLAIM under a key; without one the authenticator is a free value (log entry 49). -/
def Part.claimAnswer (s : Part) (t : Transport) (f : Frame) (code : Nat) (key : Option Nat) : Part :=
  match key with
  | some k => s.sendFrame t (responseTo f 0 roleCustodian code 0 0 k)
  | none =>
    let q := s.free
    q.2.sendFrame t { responseTo f 0 roleCustodian code 0 0 0 with auth := q.1 % 2 ^ 256 }

/-- A CLAIM request: dropped over Ethernet and when the part is claimed. -/
def Part.claim (s : Part) (t : Transport) (f : Frame) : Part :=
  if transportCode t = 1 || s.roleLive roleCustodian then s
  else if f.auth != 0 then s.authFails t
  else if f.format != 1 || f.magic != 0x56 || f.opcode != 0 || f.session != 0 || f.length != 97 || f.payloadLen != 97 then
    s.claimAnswer t f rBadFrame none
  else match s.roleKeyOf roleCustodian f.payload with
    | none => s.claimAnswer t f rPoint none
    | some key =>
      if !s.rngOk then s.claimAnswer t f rRng (some key)
      else ((s.setRoleKey roleCustodian key).logEv 0x1405 (transportCode t) 0).claimAnswer t f rOk (some key)

/-! ## WAKE (spec/11 R462) -/

/-- The always-on hardware accepts a WAKE frame. -/
def Part.wakeOk (s : Part) (f : Frame) : Bool :=
  match s.roleKey f.role with
  | none => false
  | some key =>
    f.format == 1 && f.magic == 0x56 && f.kind == 3 && f.session == 0 && f.opcode == 0 && f.length == 0 && f.payloadLen == 0 &&
      f.auth == frameMac f key && decide (s.od .wakeLastSequence f.role < f.sequence)

/-- A WAKE frame: only over the management port; never answered. -/
def Part.wakeFrame (s : Part) (t : Transport) (f : Frame) : Part :=
  if transportCode t != 1 || !s.mgmtUp then s
  else if s.wakeOk f then ((s.setOd .wakeLastSequence f.role f.sequence).count .wakeAccepted 0).wakeEvent 2
  else s.count .wakeRejected 0

/-! ## OPEN (spec/11 R452) -/

/-- The lowest free session slot. -/
def Part.freeSlot (s : Part) : Option Nat := (List.range 32).find? fun k => !(s.sess k).isOpen

/-- SESSION of an opening of a slot: never 0. -/
def sessionNumber (k openings : Nat) : Nat :=
  let m := (openings + 1) % 2 ^ 27
  if k + 32 * m = 0 then 32 else k + 32 * m

/-- Open a session: the part's nonce is drawn, the session key derived. -/
def Part.openSession (s : Part) (t : Transport) (f : Frame) (k key : Nat) : Part :=
  let q := s.free
  let nonce := q.1 % 2 ^ 256
  let id := sessionNumber k (s.sess k).openings
  let info := asciiBytes "GZ8-SESS" ++ [f.role] ++ toBytes 4 id
  let sk := ofBytes (hkdf (toBytes 32 f.payload ++ toBytes 32 nonce) (toBytes 48 key) info 48)
  let s := q.2.onSess k fun o => { Session.zero with isOpen := true, openings := o.openings + 1, key := sk, peer := t, origin := t, usedAt := s.now + 1 }
  let s := (((s.setOd .sessionId k id).setOd .sessionRole k f.role).setOd .sessionTransport k (transportCode t)).setOd
    .sessionPeer k (peerBytes t)
  let s := s.logEv 0x1402 k f.role
  s.sendFrame t (responseTo f f.session f.role rOk (id ||| (nonce <<< 32)) 36 key)

/-- An OPEN request whose authenticator has verified (spec/11 R452). -/
def Part.openChecked (s : Part) (t : Transport) (f : Frame) (key : Nat) : Part :=
  if f.sequence ≤ s.od .roleOpenSequence f.role then s.replayDropped else
  let s := s.setOd .roleOpenSequence f.role f.sequence
  let no (code : Nat) : Part := s.sendFrame t (responseTo f f.session f.role code 0 0 key)
  if f.format != 1 || f.magic != 0x56 || f.session != 0 || f.length != 32 || f.payloadLen != 32 then no rBadFrame
  else match s.freeSlot with
    | none => no rSessionsFull
    | some k =>
      if 8 ≤ (s.openSessions.filter fun j => s.od .sessionRole j == f.role).length then no rSessionsFull
      else if !bit (s.od0 (transportRoles t)) (f.role - 1) then no rTransport
      else s.openSession t f k key

/-- An OPEN request. -/
def Part.openRequest (s : Part) (t : Transport) (f : Frame) : Part :=
  match s.roleKey f.role with
  | none => s.authFails t
  | some key => if f.auth = frameMac f key then s.openChecked t f key else s.authFails t

/-! ## Notifications (spec/11 R460) -/

/-- NOTIFY_RESEND (spec/11 R460): the notifications that no acknowledgement covers are pushed again. -/
def execNotifyResend (k : Slot) (s : State) : Host.Outcome State Fault Refusal :=
  s.run fun s => if (s.sess k).isOpen && s.listens then iter (s.sess k).notices s fun s n => s.pushNotice k n else s

end Sys2Proof.Machine
end

