-- ==== Sys2Proof/Machine/Requests.lean ====
section
/-!
DEFINITION. Dictionary requests: which function of the part a write reaches, the conditions that the chapters put on plain
settings, and reads (spec/11 R432 to R439, R449).
-/

namespace Sys2Proof.Machine

/-! ## Stopped functions (spec/11 R436) -/

/-- The pavilion is STOPPED (spec/11 R436). -/
def Part.pavStopped (s : Part) (p : Nat) : Bool := s.pstate p == 2

/-- No slice is RUNNING, FROZEN or DRAINING. -/
def Part.noneRunning (s : Part) : Bool :=
  s.allSlices.all fun sl => !(decide (2 ≤ s.od .sliceState sl) && decide (s.od .sliceState sl ≤ 4))

/-- The function of an instance of an entry is stopped. -/
def Part.functionStopped (s : Part) (e : Entry) (i : Nat) : Bool :=
  match e.info.func with
  | .slice => s.sliceStopped i
  | .port =>
    let i := i / e.info.perIndex
    s.pavStopped (portPav i) || s.od .portState i == 0
  | .channel => s.pavStopped (i / 8) || s.od .channelState i == 0 || s.od .channelState i == 4
  | .rank => s.pavStopped (i / 32) || s.od .channelState (i / 4) == 0 || s.od .channelState (i / 4) == 4
  | .link => s.od .linkState i == 0 || s.od .linkState i == 4 || s.od .linkState i == 5
  | .pavilion => if i = 0 then s.noneRunning else s.pavStopped i || s.pstate i == 4 || s.pstate i == 5
  | .package => s.noneRunning

/-! ## Conditions on plain settings (check 10 of spec/11 R439) -/

/-- The slice holds a granted extent. -/
def Part.holdsGrant (s : Part) (sl : Nat) : Bool := !(s.slice sl).grants.isEmpty

/-- MAIN_UV, MAIN_WARN_LOW, MAIN_WARN_HIGH and MAIN_OV stand in that order with steps of 100 mV (spec/14). -/
def mainOrder (uv low high ov : Nat) : Bool := decide (uv + 100 ≤ low) && decide (low + 100 ≤ high) && decide (high + 100 ≤ ov)

/-- The limits of the main input with one of them replaced. -/
def Part.mainOrderWith (s : Part) (e : Entry) (v : Nat) : Bool :=
  let g (x : Entry) : Nat := if x = e then v else s.od0 x
  mainOrder (g .mainUv) (g .mainWarnLow) (g .mainWarnHigh) (g .mainOv)

/-- A base or size of ring `r` of port `i`: writable while its enable bit is 0 (spec/12 R473). -/
def Part.ringSetting (s : Part) (i r v align : Nat) : Option Nat :=
  if bit (s.od .ringEnable i) r then some rCondition else if v % align != 0 then some rRange else none

/-- The condition of a setting's chapter that a write fails, as the abort code that names it. -/
def Part.settingRefusal (s : Part) (e : Entry) (i v : Nat) : Option Nat :=
  let need (b : Bool) (c : Nat) : Option Nat := if b then none else some c
  match e with
  | .sliceLineMode => need (s.od .sliceState i == 1 && !s.holdsGrant i) rCondition
  | .sliceCapacityMode => need (!s.holdsGrant i) rCondition
  | .hammerThrottle =>
    if s.flash.hammerMax < v then some rRange else need (decide (s.od .hammerRfm i ≤ v)) rCondition
  | .hammerRfm => need (decide (v ≤ s.od .hammerThrottle i)) rCondition
  | .mainUv | .mainWarnLow | .mainWarnHigh | .mainOv => need (s.mainOrderWith e v) rCondition
  | .dumpRingBase => s.ringSetting i 0 v 4096
  | .dumpRingUnits => s.ringSetting i 0 v 1
  | .harvestRingBase => s.ringSetting i 1 v 4096
  | .harvestRingUnits => s.ringSetting i 1 v 1
  | .noticeRingBase => s.ringSetting i 2 v 4096
  | .noticeRingUnits => s.ringSetting i 2 v 1
  | .sliceBundleAddress => need (v % 4096 == 0) rRange
  | .sliceDumpAddress => need (v % 64 == 0) rRange
  | _ => none

/-! ## The monitor's session (spec/16 R594, R595) -/

/-- The monitor's session is over. -/
def Part.monClose (s : Part) : Part := s.setOd .monitorRole 0 0

/-- The pavilion whose block holds a setting; 0 for what the gatehouse's pavilion or the package holds. -/
def settingPav (e : Entry) (i : Nat) : Nat :=
  match e.info.func with
  | .port => portPav (i / e.info.perIndex)
  | .channel => i / 8
  | .rank => i / 32
  | .pavilion => i
  | .slice | .link | .package => 0

/-- What a setting does beside taking its value: a slice's is compiled at its next START, MONITOR_ENABLE LOCKED ends the
monitor's session (spec/16 R594), one of another pavilion's block goes there (spec/01 R21). -/
def Part.settingTaken (s : Part) (e : Entry) (i v : Nat) : Part :=
  match e.info.func with
  | .slice =>
    let s := s.onSlice i fun q => { q with changed := true }
    if e = .sliceKeyUseLimit && s.keyHeld i && decide (2 ^ v ≤ s.od .sliceKeyUses i) then s.startSweep i 2 else s
  | _ => (if e = .monitorEnable && v = 0 then s.monClose else s).mgmtReach (settingPav e i) (e.key i) v

/-- The bits of an entry's value that a write can set: those that the entry's fields reserve read 0 (spec/00 R5, spec/05 R210, R218). -/
def Entry.clean (e : Entry) (v : Nat) : Nat :=
  match e with
  | .flipAddress => bits v 0 43
  | .flipControl => v &&& 0x7C
  | _ => v

/-- A write of a setting: the checks, then its batch or compile for (V), the staging of (N), or the value at once. -/
def Part.settingWrite (s : Part) (w : Who) (e : Entry) (i v len : Nat) : Reply :=
  match (writeChecks e.info (s.roleOf w) v len (s.functionStopped e i)).orElse fun _ => s.settingRefusal e i v with
  | some c => s.refuse c
  | none =>
    let v := e.clean v
    if e.info.vintage then s.stageWrite w e i v
    else if e.info.staged then (s.netStage e v).ok
    else ((s.setOd e i v).settingTaken e i v).ok

/-! ## Writes -/

/-- A command whose value has the length of its type. -/
def Part.sized (s : Part) (w : Who) (e : Entry) (len : Nat) (r : Reply) : Reply :=
  match (writeRight e.info (s.roleOf w)).orElse fun _ => writeLength e.info len with
  | some c => s.refuse c
  | none => r

/-- The command entries (spec/11 R439 to R441): the one definition of each command, which the row of its own also runs. -/
def Part.commandWrite (s : Part) (w : Who) (e : Entry) (i v len : Nat) : Option Reply :=
  match e with
  | .pavilionCommand => some (s.sized w e len (s.pavilionCommand w i v))
  | .codebookBuildCommand => some (s.sized w e len (s.buildCommand w v))
  | .codebookCommand => some (s.sized w e len (s.codebookCommand w i v))
  | .wrapKeyCommand => some (s.sized w e len (s.wrapCommand w i v))
  | .sliceKeyCommand => some (s.sized w e len (s.keyCommand w i v))
  | .ceTableCommand => some (s.sized w e len (s.ceTableCommand w i v))
  | .flipCommand => some (s.sized w e len (s.flipCommand w i v))
  | .channelCommand => some (s.sized w e len (s.channelCommand w i v))
  | .vintageCommand => some (s.sized w e len (s.vintageCommand w v))
  | .linkCommand => some (s.sized w e len (s.linkCommand w i v))
  | .sliceCommand => some (s.sized w e len (s.sliceCommand w i v))
  | .mgmtCommand => some (s.sized w e len (s.mgmtCommand w v))
  | .roleCommand => some (s.sized w e len (s.roleCommand w i v))
  | .sessionCommand => some (s.sized w e len (s.sessionCommand w i v))
  | .sliceCounterCommand => some (s.sized w e len (s.sliceCounterCommand w i v))
  | .powerCommand => some (s.sized w e len (s.powerCommand w v))
  | .branchCommand => some (s.sized w e len (s.branchCommand w i v))
  | .maintCommand => some (s.sized w e len (s.maintCommand w v))
  | .fwUpdateCommand => some (s.sized w e len (s.updateCommand w v))
  | _ => none

/-- The entries whose writes do more than take a value. -/
def Part.specialWrite (s : Part) (w : Who) (e : Entry) (i v len : Nat) : Option Reply :=
  match e with
  | .codebookImage => some (s.imageWrite w i v len)
  | .wrapPeerPublic => some (s.wrapPoint w i v len)
  | .sliceKeyImport => some (s.keyImport w i v len)
  | .dcRequest =>
    let r := s.dcRequest w i v len
    some { r with part := r.part.retireEmpty }
  | .slicePort => some (s.slicePortWrite w i v len)
  | .sliceMigrationId => some (s.migrationIdWrite w i v len)
  | .rolePeerPublic => some (s.rolePoint w i v len)
  | .timeSource => some (s.timeSourceWrite w v len)
  | .counterReset => some (s.counterReset w v len)
  | .ringEnable => some (s.ringEnableWrite w i v len)
  | .snapSet => some (s.snapSetWrite w i v len)
  | .armCounter => some (s.armCounterWrite w (i / 8) (i % 8) v len)
  | .fwSvnCommit => some (s.svnCommit w v len)
  | .fwKeyRevoke => some (s.keyRevoke w v len)
  | .fwUpdateData => some (s.updateData w v len)
  | .debugUnlock => some (s.debugUnlock w v len)
  | _ => none

/-- A write of a value to an entry (spec/11 R439): checks 5 to 11 and its effect. -/
def Part.dictWrite (s : Part) (w : Who) (e : Entry) (i v len : Nat) : Reply :=
  ((s.commandWrite w e i v len).orElse fun _ => s.specialWrite w e i v len).getD (s.settingWrite w e i v len)

/-- What follows an answered write: an APPLY takes effect (spec/11 R444), and a session that closed itself ends (races). -/
def Part.afterWrite (s : Part) (w : Who) (e : Entry) (i v code : Nat) : Part :=
  if code != rOk then s
  else if e = .mgmtCommand && v = 1 then s.applyStaged
  else if e = .sessionCommand && w = sessionWho i then s.closeSession i 2
  else s

/-- A write of an entry instance by its place in the dictionary, answered. -/
def Part.dictAnswer (s : Part) (w : Who) (e : Entry) (i v len : Nat) : Part :=
  let r := s.dictWrite w e i v len
  (r.answer w).afterWrite w e i v (r.code.getD rInProgress)

/-! ## Reads (spec/11 R433, R449) -/

/-- Bytes of a value with the zero bytes at its end left out: the length of a STRING. -/
def stringLength : Nat → Nat → Nat
  | 0, _ => 0
  | n + 1, v => if v = 0 then 0 else stringLength n (v / 256) + 1

/-- The value of an entry instance that a read gives with its length in bytes, or the abort code. -/
def Part.dictRead (s : Part) (index sub : Nat) : Except Nat (Nat × Nat) :=
  match Entry.find index sub with
  | none => .error rNoEntry
  | some (e, i) =>
    if e.info.access = .wo then .error rWriteOnly else
    let v := s.odRead e i
    .ok (v, if e.info.ty = .string then stringLength e.info.size v else e.info.bytes)

end Sys2Proof.Machine
end

