-- ==== Sys2Proof/Machine/Frames.lean ====
section
/-!
DEFINITION. Frames of the Vuith Object Protocol as they arrive: what is dropped, held or handled, the session rules, and every
operation of spec/11 R448 (R439, R442, R446 to R462; spec/09 R368; spec/13 R512).
-/

namespace Sys2Proof.Machine

/-! ## Check 3 (spec/11 R439, R446, R448) -/

/-- The opcodes of spec/11 R448. -/
def vopOpcodes : List Nat := [0x01, 0x02, 0x03, 0x10, 0x11, 0x12, 0x13, 0x14, 0x15, 0x16, 0x18, 0x20, 0x21, 0x22]

/-- LENGTH agrees with the opcode and the payload: READ_SEGMENT and CATALOGUE_READ name bytes and carry none. -/
def lengthAgrees (f : Frame) : Bool :=
  match f.opcode with
  | 0x11 | 0x15 => f.payloadLen == f.length
  | 0x13 | 0x18 => f.payloadLen == 0
  | 0x20 => f.length == 32 && f.payloadLen == 32
  | 0x21 => f.length == 8 && f.payloadLen == 8
  | _ => f.length == 0 && f.payloadLen == 0

/-- Check 3 of a session's request. -/
def formRefusal (f : Frame) : Option Nat :=
  if f.format != 1 || f.magic != 0x56 || f.kind != 0 then some rBadFrame
  else if !vopOpcodes.contains f.opcode then some rOpcode
  else if !lengthAgrees f then some rBadFrame
  else none

/-! ## Reads and writes (spec/11 R449, R454, R455) -/

/-- The longest expedited value. -/
def expedited : Nat := 1024

/-- The longest segmented value. -/
def transferMax : Nat := 65536

/-- Answer a session's request with a code alone. -/
def Part.respondCode (s : Part) (k code : Nat) : Part := s.respondSession k code 0 0

/-- READ (spec/11 R439, R449). -/
def Part.opRead (s : Part) (k : Nat) (f : Frame) : Part :=
  match s.dictRead f.index f.subindex with
  | .error c => s.respondCode k c
  | .ok (v, n) => if expedited < n then s.respondCode k rSegment else s.respondSession k rOk v n

/-- A whole value is written: answered now, or when its vintage or load is done. -/
def Part.writeWhole (s : Part) (k : Nat) (e : Entry) (i v len : Nat) : Part :=
  let w := sessionWho k
  let r := s.dictWrite w e i v len
  match r.code with
  | some c => (r.part.respondSession k c (detailPayload r.detail) (4 * r.detail.length)).afterWrite w e i v c
  | none => r.part

/-- Checks 5 and 6 of a write and the session's own test of its length. -/
def Part.rightOf (s : Part) (k : Nat) (e : Entry) : Option Nat := writeRight e.info (s.roleOf (sessionWho k))

/-- WRITE (spec/11 R439, R449). -/
def Part.opWrite (s : Part) (k : Nat) (f : Frame) : Part :=
  match Entry.find f.index f.subindex with
  | none => s.respondCode k rNoEntry
  | some (e, i) =>
    match s.rightOf k e with
    | some c => s.respondCode k c
    | none =>
      if expedited < f.payloadLen then s.respondCode k rSegment
      else s.writeWhole k e i (f.payload % 256 ^ f.payloadLen) f.payloadLen

/-- The TRANSFER number that a request opens: never 0. -/
def transferNumber (f : Frame) : Nat := f.sequence % 65535 + 1

/-- READ_BEGIN (spec/11 R454). -/
def Part.opReadBegin (s : Part) (k : Nat) (f : Frame) : Part :=
  match s.dictRead f.index f.subindex with
  | .error c => s.respondCode k c
  | .ok (v, n) =>
    let t := transferNumber f
    let s := s.onSess k fun q => { q with
      transfer := t, transferOp := 1, transferIx := f.index * 256 + f.subindex, transferLen := n, transferGot := 0, transferVal := v }
    s.respondSession k rOk 0 0 fun r => { r with offset := n, transfer := t }

/-- The request names the open transfer of its kind: 1 read, 2 write. -/
def Session.names (q : Session) (f : Frame) (op : Nat) : Bool := q.transfer != 0 && q.transfer == f.transfer && q.transferOp == op

/-- READ_SEGMENT (spec/11 R454). -/
def Part.opReadSegment (s : Part) (t : Transport) (k : Nat) (f : Frame) : Part :=
  let q := s.sess k
  if !q.names f 1 then s.respondCode k rTransferUnknown
  else if segmentLimit t < f.length || q.transferLen < f.offset + f.length then s.respondCode k rRange
  else s.respondSession k rOk (bits q.transferVal (8 * f.offset) (8 * f.length)) f.length fun r =>
    { r with offset := f.offset, transfer := f.transfer }

/-- Check 7 of a segmented write; a firmware segment may be shorter than its entry (spec/16 R587). -/
def segmentedLength (e : Entry) (total : Nat) : Option Nat :=
  if e = .fwUpdateData then none else writeLength e.info total

/-- WRITE_BEGIN (spec/11 R454): checks 4 to 7 at once. -/
def Part.opWriteBegin (s : Part) (k : Nat) (f : Frame) : Part :=
  match Entry.find f.index f.subindex with
  | none => s.respondCode k rNoEntry
  | some (e, _) =>
    let no := (s.rightOf k e).orElse fun _ =>
      if transferMax < f.offset then some rTransferLong else segmentedLength e f.offset
    match no with
    | some c => s.respondCode k c
    | none =>
      let t := transferNumber f
      let s := s.onSess k fun q => { q with
        transfer := t, transferOp := 2, transferIx := f.index * 256 + f.subindex, transferLen := f.offset, transferGot := 0, transferVal := 0 }
      s.respondSession k rOk 0 0 fun r => { r with transfer := t }

/-- The last segment completes the value, which is then handled as a whole. -/
def Part.completeWrite (s : Part) (k value total : Nat) : Part :=
  let q := s.sess k
  let s := s.endTransfer k
  if total != q.transferLen then s.respondCode k rLength else
  match entryOf q.transferIx with
  | some (e, i) => s.writeWhole k e i value total
  | none => s.respondCode k rNoEntry

/-- WRITE_SEGMENT (spec/11 R454). -/
def Part.opWriteSegment (s : Part) (k : Nat) (f : Frame) : Part :=
  let q := s.sess k
  let got := q.transferGot + f.payloadLen
  let value := q.transferVal ||| ((f.payload % 256 ^ f.payloadLen) <<< (8 * q.transferGot))
  if !q.names f 2 then s.respondCode k rTransferUnknown
  else if f.offset != q.transferGot then (s.endTransfer k).respondCode k rTransferOffset
  else if q.transferLen < got then (s.endTransfer k).respondCode k rTransferLong
  else if bit f.flags 0 then s.completeWrite k value got
  else (s.onSess k fun q => { q with transferGot := got, transferVal := value }).respondSession k rOk 0 0 fun r =>
    { r with offset := f.offset, transfer := f.transfer }

/-- TRANSFER_END (spec/11 R454). -/
def Part.opTransferEnd (s : Part) (k : Nat) (f : Frame) : Part :=
  let q := s.sess k
  if q.transfer = 0 || q.transfer != f.transfer then s.respondCode k rTransferUnknown
  else (s.endTransfer k).respondCode k rOk

/-- CATALOGUE_READ (spec/11 R455). -/
def Part.opCatalogue (s : Part) (t : Transport) (k : Nat) (f : Frame) : Part :=
  if segmentLimit t < f.length || catalogueLength < f.offset + f.length then s.respondCode k rRange
  else
    let bytes := ((catalogue (s.od0 .dictVersion)).drop f.offset).take f.length
    s.respondSession k rOk (ofBytes bytes) f.length

/-! ## Notifications (spec/11 R460, R461) -/

/-- SUBSCRIBE. -/
def Part.opSubscribe (s : Part) (k : Nat) (f : Frame) : Part :=
  (s.setOd .sessionSubscription k (f.payload % 2 ^ 256)).respondCode k rOk

/-- NOTIFY_ACK: every notification up to its number is acknowledged. -/
def Part.opNotifyAck (s : Part) (k : Nat) (f : Frame) : Part :=
  let n := f.payload % 2 ^ 64
  (s.onSess k fun q => { q with notices := q.notices.filter fun m => decide (n < m.number) }).respondCode k rOk

/-- NOTIFY_POLL: the oldest unacknowledged notification, or none. -/
def Part.opNotifyPoll (s : Part) (k : Nat) : Part :=
  let q := s.sess k
  match q.notices with
  | [] => s.respondCode k rOk
  | m :: _ =>
    let b := frameBytes (frameSign (notifyFrame (s.od .sessionId k) (s.od .sessionRole k) m) q.key)
    s.respondSession k rOk (ofBytes b) b.length

/-! ## A session's request (spec/11 R439, R453) -/

/-- CLOSE. -/
def Part.opClose (s : Part) (k : Nat) : Part := (s.respondCode k rOk).closeSession k 1

/-- Run an accepted request. -/
def Part.runRequest (s : Part) (t : Transport) (k : Nat) (f : Frame) : Part :=
  match formRefusal f with
  | some c => s.respondCode k c
  | none =>
    match f.opcode with
    | 0x02 => s.opClose k
    | 0x03 => s.respondCode k rOk
    | 0x10 => s.opRead k f
    | 0x11 => s.opWrite k f
    | 0x12 => s.opReadBegin k f
    | 0x13 => s.opReadSegment t k f
    | 0x14 => s.opWriteBegin k f
    | 0x15 => s.opWriteSegment k f
    | 0x16 => s.opTransferEnd k f
    | 0x18 => s.opCatalogue t k f
    | 0x20 => s.opSubscribe k f
    | 0x21 => s.opNotifyAck k f
    | _ => s.opNotifyPoll k

/-- Answer a request outside its session's order: nothing is stored. -/
def Part.respondAside (s : Part) (t : Transport) (k : Nat) (f : Frame) (code : Nat) : Part :=
  s.sendFrame t (responseTo f (s.od .sessionId k) (s.od .sessionRole k) code 0 0 (s.sess k).key)

/-- A request with a new SEQUENCE: busy while another executes, else executed; the last SEQUENCE closes the session. -/
def Part.newRequest (s : Part) (t : Transport) (k : Nat) (f : Frame) : Part :=
  let s := s.setOd .sessionLastSequence k f.sequence
  let s :=
    if (s.sess k).executing then s.respondAside t k f rBusySession
    else (s.onSess k fun q => { q with request := some f, answer := none, executing := true, origin := t }).runRequest t k f
  if f.sequence = 2 ^ 64 - 1 then s.closeSession k 5 else s

/-- A request that repeats the last SEQUENCE: the stored request's answer again, or that it executes; any other is dropped. -/
def Part.oldRequest (s : Part) (t : Transport) (k : Nat) (f : Frame) : Part :=
  let q := s.sess k
  if f.sequence = s.od .sessionLastSequence k && q.request == some f then
    if q.executing then s.respondAside t k f rInProgress
    else match q.answer with
      | some a => s.sendFrame t a
      | none => s.replayDropped
  else s.replayDropped

/-- A frame that a session must have authenticated. -/
def Part.sessionFrame (s : Part) (t : Transport) (f : Frame) : Part :=
  let k := f.session % 32
  let q := s.sess k
  if f.session = 0 || !q.isOpen || s.od .sessionId k != f.session || f.auth != frameMac f q.key then s.authFails t
  else
    let s := s.onSess k fun q => { q with usedAt := s.now + 1 }
    if s.od .sessionLastSequence k < f.sequence then s.newRequest t k f else s.oldRequest t k f

/-- The gatehouse handles a frame (spec/11 R456). -/
def Part.handleFrame (s : Part) (t : Transport) (f : Frame) : Part :=
  let s :=
    if f.kind = 4 then s.claim t f
    else if f.kind = 0 && f.opcode = 1 then s.openRequest t f
    else s.sessionFrame t f
  match t with
  | .mailbox i =>
    if (List.range 32).any fun k => (s.sess k).executing && (s.sess k).origin == .mailbox i then s else s.mboxSilent t
  | _ => s

/-! ## Arrival (spec/11 R442, R443, spec/13 R512, spec/03 R114) -/

/-- The gatehouse handles no request now: it has agreed to REST, or it loads a codebook. -/
def Part.gateHolds (s : Part) : Bool := s.gateParked || s.codec.loading.isSome

/-- Handle or hold a frame; a gatehouse that has failed does neither. -/
def Part.gateTake (s : Part) (t : Transport) (f : Frame) : Part :=
  if !s.listens then s
  else if s.gateHolds then { s with gate := { s.gate with held := s.gate.held ++ [(t, f)] } } else s.handleFrame t f

/-- The held frames are handled in the order of their arrival once the gatehouse is free. -/
def Part.settleHeld (s : Part) : Part :=
  let l := s.gate.held
  if s.gateHolds || l.isEmpty then s else
  iter l { s with gate := { s.gate with held := [] } } fun s q => s.gateTake q.1 q.2

/-- A frame arrives over the management port. -/
def Part.arriveEthernet (s : Part) (t : Transport) (f : Frame) : Part :=
  if !s.mgmtUp then s
  else if f.kind = 3 then s.wakeFrame t f
  else if frameLimit t < f.payloadLen + 64 || s.rest.inRest then s.mgmtDrop
  else if s.listens then s.gateTake t f
  else s

/-- A frame arrives over MCTP on I3C: a private write, so a wake event. -/
def Part.arriveMctp (s : Part) (t : Transport) (f : Frame) : Part :=
  s.onI3c fun s =>
    if frameLimit t < f.payloadLen + 64 then s
    else if f.kind = 3 then s
    else s.gateTake t f

/-- A frame arrives in a mailbox as the background command VOP_TRANSPORT (spec/09 R368). -/
def Part.arriveMailbox (s : Part) (i : Port) (f : Frame) : Part :=
  let t := Transport.mailbox i
  if !s.listens then s
  else if !bit (s.od0 .mailboxVopPorts) i then s.mbox i mbUnsupported []
  else if (s.port i).mboxBusy.isSome then s.mbox i mbBusy []
  else
    let s := s.onPort i fun p => { p with mboxBusy := some 0xC800 }
    if frameLimit t < f.payloadLen + 64 || f.kind = 3 then s.mboxSilent t else s.gateTake t f

/-- A frame arrives. -/
def Part.arrive (s : Part) (t : Transport) (f : Frame) : Part :=
  match t with
  | .ethernet _ _ => s.arriveEthernet t f
  | .mctp _ => s.arriveMctp t f
  | .mailbox i => s.arriveMailbox i f

/-! ## The rows of the frames -/

/-- The frame of a row: a request or another frame for a session, with the row's opcode or one that no row has. -/
def rowFrame (op : Nat) (f : Frame) : Bool :=
  f.kind != 3 && f.kind != 4 && (f.opcode == op || !vopOpcodes.contains f.opcode)

/-- A frame of a row arrives; the frame of another row is none (log entry 8). -/
def Part.arriveAs (s : Part) (op : Nat) (t : Transport) (f : Frame) : Part :=
  if rowFrame op f then s.arrive t f else s

/-- VOP_OPEN (spec/11 R452). -/
def execVopOpen (t : Transport) (f : Frame) (s : State) : Host.Outcome State Fault Refusal := s.run fun s => s.arriveAs 0x01 t f

/-- VOP_CLOSE (spec/11 R453). -/
def execVopClose (t : Transport) (f : Frame) (s : State) : Host.Outcome State Fault Refusal := s.run fun s => s.arriveAs 0x02 t f

/-- VOP_KEEPALIVE (spec/11 R448). -/
def execVopKeepalive (t : Transport) (f : Frame) (s : State) : Host.Outcome State Fault Refusal := s.run fun s => s.arriveAs 0x03 t f

/-- VOP_READ (spec/11 R439). -/
def execVopRead (t : Transport) (f : Frame) (s : State) : Host.Outcome State Fault Refusal := s.run fun s => s.arriveAs 0x10 t f

/-- VOP_WRITE (spec/11 R439). -/
def execVopWrite (t : Transport) (f : Frame) (s : State) : Host.Outcome State Fault Refusal := s.run fun s => s.arriveAs 0x11 t f

/-- VOP_READ_BEGIN (spec/11 R454). -/
def execVopReadBegin (t : Transport) (f : Frame) (s : State) : Host.Outcome State Fault Refusal := s.run fun s => s.arriveAs 0x12 t f

/-- VOP_READ_SEGMENT (spec/11 R454). -/
def execVopReadSegment (t : Transport) (f : Frame) (s : State) : Host.Outcome State Fault Refusal := s.run fun s => s.arriveAs 0x13 t f

/-- VOP_WRITE_BEGIN (spec/11 R454). -/
def execVopWriteBegin (t : Transport) (f : Frame) (s : State) : Host.Outcome State Fault Refusal := s.run fun s => s.arriveAs 0x14 t f

/-- VOP_WRITE_SEGMENT (spec/11 R454). -/
def execVopWriteSegment (t : Transport) (f : Frame) (s : State) : Host.Outcome State Fault Refusal := s.run fun s => s.arriveAs 0x15 t f

/-- VOP_TRANSFER_END (spec/11 R454). -/
def execVopTransferEnd (t : Transport) (f : Frame) (s : State) : Host.Outcome State Fault Refusal := s.run fun s => s.arriveAs 0x16 t f

/-- VOP_CATALOGUE_READ (spec/11 R455). -/
def execVopCatalogueRead (t : Transport) (f : Frame) (s : State) : Host.Outcome State Fault Refusal := s.run fun s => s.arriveAs 0x18 t f

/-- VOP_SUBSCRIBE (spec/11 R461). -/
def execVopSubscribe (t : Transport) (f : Frame) (s : State) : Host.Outcome State Fault Refusal := s.run fun s => s.arriveAs 0x20 t f

/-- VOP_NOTIFY_ACK (spec/11 R460). -/
def execVopNotifyAck (t : Transport) (f : Frame) (s : State) : Host.Outcome State Fault Refusal := s.run fun s => s.arriveAs 0x21 t f

/-- VOP_NOTIFY_POLL (spec/11 R460). -/
def execVopNotifyPoll (t : Transport) (f : Frame) (s : State) : Host.Outcome State Fault Refusal := s.run fun s => s.arriveAs 0x22 t f

/-- VOP_CLAIM (spec/11 R451): a frame of KIND CLAIM. -/
def execVopClaim (t : Transport) (f : Frame) (s : State) : Host.Outcome State Fault Refusal :=
  s.run fun s => if f.kind = 4 then s.arrive t f else s

/-- VOP_WAKE_FRAME (spec/11 R462): a frame of KIND WAKE. -/
def execVopWakeFrame (t : Transport) (f : Frame) (s : State) : Host.Outcome State Fault Refusal :=
  s.run fun s => if f.kind = 3 then s.arrive t f else s

/-- MBOX_VOP_TRANSPORT (spec/09 R368). -/
def execMboxVopTransport (i : Port) (f : Frame) (s : State) : Host.Outcome State Fault Refusal :=
  s.run fun s => s.arriveMailbox i f

/-- CODEBOOK_LOAD_DONE (spec/03 R114): the gatehouse is free for what it held. -/
def execCodebookLoadDone (s : State) : Host.Outcome State Fault Refusal := s.run fun s => s.loadDone.settleHeld

end Sys2Proof.Machine
end

