-- ==== Sys2Proof/Machine/Faults.lean ====
section
/-!
DEFINITION. Faults that can end a REST entry, and the agreement of its agents (spec/01 R24, R26, spec/08 R327, spec/13 R499, R507,
R512, spec/14 R528, R539 to R542): after each, the requests that the gatehouse held are handled once it is free.
-/

namespace Sys2Proof.Machine

/-! ## Pavilions and links -/

/-- PAVILION_FAULT (spec/01 R26): cause FAULT. -/
def execPavilionFault (p : Pav) (s : State) : Host.Outcome State Fault Refusal :=
  s.run fun s => (s.failPavilion p 3).settleHeld

/-- The root PLL of a pavilion loses its lock: the pavilion fails; without pavilion 0 the part fails (spec/13 R499). -/
def Part.pllLost (s : Part) (p : Nat) : Part :=
  if s.rest.inRest || s.od .pllLocked p = 0 then s else
  let s := ((s.setOd .pllLocked p 0).count .pllLockLosses p).failPavilion p 3
  if p = 0 then s.losePavilion0 else s

/-- ROOT_PLL_LOCK_LOSS (spec/13 R499). -/
def execRootPllLockLoss (p : Pav) (s : State) : Host.Outcome State Fault Refusal :=
  s.run fun s => (s.pllLost p).settleHeld

/-- An attempt to train a link fails; the last one makes the link FAILED (spec/08 R327, R334, R337). -/
def Part.trainingFails (s : Part) (n : Nat) : Part :=
  let st := s.od .linkState n
  let k := (s.link n).attempts
  if st = 4 then s.onLink n fun l => { l with attempts := 0 }
  else if st != 1 && st != 3 then s
  else if k + 1 < s.od .linkRetrainAttempts n then
    s.onLink n fun l => { l with attempts := k + 1, trainings := (l.trainings + 1) % 65536 }
  else
    let s := (s.onLink n fun l => { l with attempts := 0 }).setOd .linkState n 4
    let s := ((s.logEv 0x1103 n 0).chooseDetours).linkNotices n
    s.losePathless 8 n

/-- LINK_TRAINING_FAIL (spec/08 R327, R334, R337). -/
def execLinkTrainingFail (n : Link) (s : State) : Host.Outcome State Fault Refusal :=
  s.run fun s => (s.trainingFails n).settleHeld

/-! ## Branches (spec/14 R528, R539, R541) -/

/-- The gate of a branch is driven: it ramps or is on. -/
def Part.branchDriven (s : Part) (b : Nat) : Bool := s.od .branchState b == 1 || s.od .branchState b == 2

/-- BRANCH_RAMP_TIMEOUT (spec/14 R539). -/
def execBranchRampTimeout (b : Branch) (s : State) : Host.Outcome State Fault Refusal :=
  s.run fun s => if s.od .branchState b = 1 then (s.branchTrip b 3).settleHeld else s

/-- BRANCH_FAST_TRIP (spec/14 R528). -/
def execBranchFastTrip (b : Branch) (s : State) : Host.Outcome State Fault Refusal :=
  s.run fun s => if s.branchDriven b then (s.branchTrip b 1).settleHeld else s

/-- BRANCH_SOA_TIMER_EXPIRY (spec/14 R528): the branch limits its current. -/
def execBranchSoaTimerExpiry (b : Branch) (s : State) : Host.Outcome State Fault Refusal :=
  s.run fun s => if s.branchDriven b && s.power.limiting.contains (b + 1) then (s.branchTrip b 2).settleHeld else s

/-! ## REST entry (spec/13 R507 to R509, R512) -/

/-- REST_AGENT_AGREE (spec/13 R507). -/
def execRestAgentAgree (s : State) : Host.Outcome State Fault Refusal := s.run fun s => s.restAgree.settleHeld

end Sys2Proof.Machine
end

