-- ==== Sys2Proof/Machine/Monitor.lean ====
section
/-!
DEFINITION. The Jimbeale monitor (spec/16 R594 to R598). What a command prints is given as its name and the values printed.
-/

namespace Sys2Proof.Machine

/-! ## Who may do what (spec/16 R594, R596, R598) -/

/-- The monitor serves the UART: from stage 3 onward, while the core supply of pavilion 0 stands. -/
def Part.monServes (s : Part) : Bool := decide (3 ≤ s.od0 .bootState) && !s.rest.inRest && !s.boot.pav0Lost

/-- ROM-only mode: before stage 6, or after no valid image was found. -/
def Part.romOnly (s : Part) : Bool := decide (s.od0 .bootState < 6) || s.od0 .bootState == 14

/-- MONITOR_ENABLE is ENABLED; the ROM reads it from the trust area itself. -/
def Part.monEnabled (s : Part) : Bool :=
  if s.romOnly then s.flash.trust.settings.get 0 (Entry.monitorEnable.key 0) == 1 else s.od0 .monitorEnable == 1

/-- The monitor prints. -/
def Part.prints (s : Part) (name : String) (l : List Nat) : Part := s.emit (.text name l)

/-- The answer to a command that the monitor does not allow. -/
def Part.monRefuses (s : Part) : Part := s.prints "refused" []

/-- Run a command that needs at least role `least` (0 none), allowed in ROM-only mode where `rom` says so. While
MONITOR_ENABLE is LOCKED nothing is answered. -/
def Part.monitor (s : Part) (least : Nat) (rom : Bool) (f : Part → Part) : Part :=
  if !s.monServes || !s.monEnabled then s
  else
    let s : Part := { s with mon := { s.mon with usedAt := s.now + 1 } }
    if (s.romOnly && !rom) || decide (s.od0 .monitorRole < least) then s.monRefuses else f s

/-! ## The session (spec/16 R595) -/

/-- The names of the commands (spec/16 R596). -/
def monCommands : List String :=
  ["help", "login", "logout", "boot", "log", "od read", "od write", "vintage", "slots", "train", "peek", "poke", "slot", "load"]

/-- MONITOR_HELP (spec/16 R594, R596): answered also while LOCKED. -/
def execMonitorHelp (s : State) : Host.Outcome State Fault Refusal :=
  s.run fun s => if s.monServes then iter monCommands s fun s c => s.prints c [] else s

/-- The key of a role for a login; in ROM-only mode from the trust area. -/
def Part.monKey (s : Part) (r : Nat) : Option Nat :=
  let q := (if s.romOnly then s.flash.trust.keys else s.keys.roles).get OneKey.zero r
  if 1 ≤ r && r ≤ 4 && q.live then some q.key else none

/-- The right answer to a nonce. -/
def Part.monAnswer (s : Part) (key nonce : Nat) : Nat :=
  ofBytes ((hmac (toBytes 48 key) (asciiBytes "GZ8-MON" ++ toBytes 8 s.flash.serial ++ toBytes 16 nonce)).take 16)

/-- A login fails: the third failure in a row locks the login. -/
def Part.loginFails (s : Part) (r : Nat) : Part :=
  let third := decide (2 ≤ s.mon.wrong)
  let s : Part := { s with mon := { s.mon with wrong := if third then 0 else s.mon.wrong + 1, locked := third } }
  ((s.count .monitorLoginFailures 0).logEv 0x190A r 0).monRefuses

/-- A login succeeds. -/
def Part.loginPasses (s : Part) (r : Nat) : Part :=
  let s : Part := { s with mon := { s.mon with wrong := 0 } }
  ((s.setOd .monitorRole 0 r).count .monitorLogins 0).logEv 0x190A r 1

/-- Login: the nonce is drawn and printed, and the user's answer is compared. -/
def Part.login (s : Part) (r answer : Nat) : Part :=
  if s.mon.locked || s.od0 .monitorRole != 0 then s.monRefuses else
  match s.monKey r with
  | none => s.monRefuses
  | some key =>
    let q := s.free
    let nonce := q.1 % 2 ^ 128
    let s := q.2.prints "nonce" [nonce]
    if answer = s.monAnswer key nonce then s.loginPasses r else s.loginFails r

/-- MONITOR_LOGIN (spec/16 R595). -/
def execMonitorLogin (r : Role) (answer : Nat) (s : State) : Host.Outcome State Fault Refusal :=
  s.run fun s => s.monitor 0 true fun s => s.login r answer

/-- MONITOR_LOGOUT (spec/16 R595). -/
def execMonitorLogout (s : State) : Host.Outcome State Fault Refusal :=
  s.run fun s => s.monitor 0 true Part.monClose

/-- MONITOR_LOGIN_LOCK_EXPIRY (spec/16 R595). -/
def execMonitorLoginLockExpiry (s : State) : Host.Outcome State Fault Refusal :=
  s.run fun s => { s with mon := { s.mon with locked := false } }

/-- MONITOR_IDLE_TIMEOUT (spec/16 R595), unless a command comes now (spec/00 R13). -/
def execMonitorIdleTimeout (s : State) : Host.Outcome State Fault Refusal :=
  s.run fun s => if s.monServes && s.mon.usedAt != s.now + 1 then s.monClose else s

/-! ## Reading (spec/16 R596) -/

/-- MONITOR_BOOT: BOOT_STATE, the twelve stage times, the slot in force, the reject reasons. -/
def execMonitorBoot (s : State) : Host.Outcome State Fault Refusal :=
  s.run fun s => s.monitor 1 true fun s =>
    s.prints "boot" ([s.od0 .bootState] ++ ((List.range 12).map fun k => bits (s.od0 .bootStageTimes) (32 * k) 32) ++
      [s.od0 .bootSlotActive, s.od0 .bootRejectA, s.od0 .bootRejectB])

/-- MONITOR_LOG: the last N records that the ring holds, oldest first. -/
def execMonitorLog (n : Nat) (s : State) : Host.Outcome State Fault Refusal :=
  s.run fun s => s.monitor 1 true fun s =>
    let n := min (min n s.logNext) 65536
    s.prints "log" ((List.range n).map fun k => (s.log.get LogRec.zero ((s.logNext - n + k) % 65536)).encode)

/-- MONITOR_OD_READ: the value and its length, or the abort code. -/
def execMonitorOdRead (index : BitVec 16) (sub : BitVec 8) (s : State) : Host.Outcome State Fault Refusal :=
  s.run fun s => s.monitor 1 false fun s =>
    match s.dictRead index.toNat sub.toNat with
    | .error c => s.emit (.answer .monitor c [])
    | .ok (v, n) => s.prints "od" [v, n]

/-- MONITOR_OD_WRITE: checks 4 to 11 of spec/11 R439 for the session's role. -/
def execMonitorOdWrite (index : BitVec 16) (sub : BitVec 8) (value : Nat) (len : Nat) (s : State) :
    Host.Outcome State Fault Refusal :=
  s.run fun s => s.monitor 1 false fun s =>
    match Entry.find index.toNat sub.toNat with
    | none => s.emit (.answer .monitor rNoEntry [])
    | some (e, i) => s.dictAnswer .monitor e i value len

/-- The header of a vintage image for a pavilion (spec/07 R267). -/
def Part.printVintage (s : Part) (name : String) (v : Vintage) (p : Nat) : Part :=
  s.prints name [v.digest, v.number, v.lengths.get 0 p, v.pavilions, b2n v.forced + 2 * b2n v.planOnly, v.format]

/-- MONITOR_VINTAGE: the headers of the bank in force and of the shadow bank, of every pavilion in service. -/
def execMonitorVintage (s : State) : Host.Outcome State Fault Refusal :=
  s.run fun s => s.monitor 2 false fun s =>
    iter s.serving s fun s p =>
      let s := s.printVintage "in force" s.vint.inForce p
      s.printVintage "shadow" (s.vint.shadow.getD Vintage.none) p

/-- MONITOR_SLOTS: SLOT_TABLE_A and SLOT_TABLE_B of a channel. -/
def execMonitorSlots (c : Chan) (s : State) : Host.Outcome State Fault Refusal :=
  s.run fun s => s.monitor 2 false fun s => s.prints "slots" [s.odRead .slotTableA c, s.odRead .slotTableB c]

/-- The results of the seven training steps of a rank (spec/06 R247), bit k - 1 for a failure in step k. -/
def Part.stepResults (s : Part) (k : Nat) : Nat := (s.chan (k / 4)).steps.getD (k % 4) 0

/-- MONITOR_TRAIN: state, TRAIN_EYES and the step results of every rank of a channel. -/
def execMonitorTrain (c : Chan) (s : State) : Host.Outcome State Fault Refusal :=
  s.run fun s => s.monitor 2 false fun s =>
    iter (List.range 4) s fun s r =>
      let k := c.val * 4 + r
      s.prints "train" [r, s.od .rankState k, s.od .trainEyes k, s.stepResults k]

/-! ## peek and poke (spec/16 R597) -/

/-- Addresses from here on name bytes of gatehouse memory. -/
def gateMemory : Nat := 2 ^ 43

/-- Read an 8-byte word: DRAM of a pavilion through the filter, or gatehouse memory, of which only what poke wrote is known. -/
def Part.peekWord (s : Part) (p word : Nat) : Part × Nat :=
  if 8 * word < gateMemory then s.filterRead 1 p (8 * word)
  else match s.mon.memory.lookup (word - gateMemory / 8) with
    | some v => (s, v)
    | none =>
      let q := s.free
      (q.2, q.1 % 2 ^ 64)

/-- Write an 8-byte word. -/
def Part.pokeWord (s : Part) (p word value : Nat) : Part :=
  if 8 * word < gateMemory then s.filterWrite 1 p (8 * word) value
  else { s with mon := { s.mon with memory := s.mon.memory.put (word - gateMemory / 8) value } }

/-- The words from one on, lowest first, as one number. -/
def Part.peekWords : Nat → Part → Nat → Nat → Part × Nat
  | 0, s, _, _ => (s, 0)
  | n + 1, s, p, word =>
    let a := s.peekWord p word
    let b := a.1.peekWords n p (word + 1)
    (b.1, a.2 ||| (b.2 <<< 64))

/-- MONITOR_PEEK: at most 256 bytes; only gatehouse memory in ROM-only mode. -/
def execMonitorPeek (p : Pav) (addr : U64) (len : Nat) (s : State) : Host.Outcome State Fault Refusal :=
  s.run fun s => s.monitor 2 (decide (gateMemory ≤ addr.toNat)) fun s =>
    if 256 < len then s.monRefuses else
    let a := addr.toNat
    let q := s.peekWords ((a % 8 + len + 7) / 8) p (a / 8)
    q.1.prints "peek" [bits q.2 (8 * (a % 8)) (8 * len)]

/-- Change the bytes of a word that a mask names. -/
def Part.pokeMasked (s : Part) (p word mask value : Nat) : Part :=
  if mask = 0 then s
  else if mask = 2 ^ 64 - 1 then s.pokeWord p word value
  else
    let q := s.peekWord p word
    q.1.pokeWord p word ((q.2 &&& (mask ^^^ (2 ^ 64 - 1))) ||| value)

/-- MONITOR_POKE: 8 bytes. -/
def execMonitorPoke (p : Pav) (addr : U64) (value : U64) (s : State) : Host.Outcome State Fault Refusal :=
  s.run fun s => s.monitor roleVendor (decide (gateMemory ≤ addr.toNat)) fun s =>
    let a := addr.toNat
    let v := value.toNat <<< (8 * (a % 8))
    let m := (2 ^ 64 - 1) <<< (8 * (a % 8))
    (s.pokeMasked p (a / 8) (bits m 0 64) (bits v 0 64)).pokeMasked p (a / 8 + 1) (bits m 64 64) (bits v 64 64)

/-! ## Image slots (spec/16 R596, R598) -/

/-- MONITOR_SLOT_SELECT: BOOT_SLOT_NEXT, in flash at once. -/
def execMonitorSlotSelect (b : Bool) (s : State) : Host.Outcome State Fault Refusal :=
  s.run fun s => s.monitor roleOperator true fun s =>
    ({ s with flash := { s.flash with slotNext := b2n b } } : Part).setOd .bootSlotNext 0 (b2n b)

/-- MONITOR_LOAD: the image fills the slot that is not active, whole where its header gives a length; it is checked at the next cold
boot, and never before. -/
def execMonitorLoad (img : ImageCheck) (s : State) : Host.Outcome State Fault Refusal :=
  s.run fun s => s.monitor roleVendor true fun s =>
    let h := readHeader img.header.toNat
    s.markSlot s.otherSlot (if 1 ≤ h.length && h.length ≤ 50331392 then 0 else 2) img.header.toNat

end Sys2Proof.Machine
end

