-- ==== Sys2Proof/Machine/Dispatch.lean ====
section
/-!
DEFINITION. The command table: one arm per command, each one call of its meaning.
-/

namespace Sys2Proof.Machine

/-- The effect of a command on everything but the queue. -/
def exec (i : Instr) (s : State) : Host.Outcome State Fault Refusal :=
  match i with
  | .memRd port hpa tag => Sys2Proof.Machine.execMemRd port hpa tag s
  | .memSpecRd port hpa => Sys2Proof.Machine.execMemSpecRd port hpa s
  | .memInv port hpa tag => Sys2Proof.Machine.execMemInv port hpa tag s
  | .memWr port hpa tag data poison => Sys2Proof.Machine.execMemWr port hpa tag data poison s
  | .memWrPtl port hpa tag mask data poison => Sys2Proof.Machine.execMemWrPtl port hpa tag mask data poison s
  | .m2sUnsupportedMessage port credit => Sys2Proof.Machine.execM2sUnsupportedMessage port credit s
  | .ingressForward port sl => Sys2Proof.Machine.execIngressForward port sl s
  | .promRead p keyError => Sys2Proof.Machine.execPromRead p keyError s
  | .promWrite p keyError => Sys2Proof.Machine.execPromWrite p keyError s
  | .promWritePartial p keyError => Sys2Proof.Machine.execPromWritePartial p keyError s
  | .promPoisonLine p => Sys2Proof.Machine.execPromPoisonLine p s
  | .promMirrorWrite p => Sys2Proof.Machine.execPromMirrorWrite p s
  | .promReadData p => Sys2Proof.Machine.execPromReadData p s
  | .promCompletion p => Sys2Proof.Machine.execPromCompletion p s
  | .promCapacityNotice p => Sys2Proof.Machine.execPromCapacityNotice p s
  | .promMoveData p => Sys2Proof.Machine.execPromMoveData p s
  | .promMoveDone p => Sys2Proof.Machine.execPromMoveDone p s
  | .promMgmtRequest p => Sys2Proof.Machine.execPromMgmtRequest p s
  | .promMgmtResponse p => Sys2Proof.Machine.execPromMgmtResponse p s
  | .promKeyLoad p => Sys2Proof.Machine.execPromKeyLoad p s
  | .promLinkNotice p => Sys2Proof.Machine.execPromLinkNotice p s
  | .stallTimerExpiry port sl lpage => Sys2Proof.Machine.execStallTimerExpiry port sl lpage s
  | .slotServe c u slot busy guard => Sys2Proof.Machine.execSlotServe c u slot busy guard s
  | .channelReadData c r => Sys2Proof.Machine.execChannelReadData c r s
  | .codecLaneDispatch p fault => Sys2Proof.Machine.execCodecLaneDispatch p fault s
  | .frameEnd p => Sys2Proof.Machine.execFrameEnd p s
  | .planningIntervalEnd => Sys2Proof.Machine.execPlanningIntervalEnd s
  | .planEntryPromote p => Sys2Proof.Machine.execPlanEntryPromote p s
  | .planEntryDemote p => Sys2Proof.Machine.execPlanEntryDemote p s
  | .planEntryCompact p => Sys2Proof.Machine.execPlanEntryCompact p s
  | .planEntryRekey p => Sys2Proof.Machine.execPlanEntryRekey p s
  | .planEntryMoveRegion p => Sys2Proof.Machine.execPlanEntryMoveRegion p s
  | .planEntryMirror p => Sys2Proof.Machine.execPlanEntryMirror p s
  | .pageMoveCommit p => Sys2Proof.Machine.execPageMoveCommit p s
  | .regionMoveHold p => Sys2Proof.Machine.execRegionMoveHold p s
  | .regionMoveCommit p => Sys2Proof.Machine.execRegionMoveCommit p s
  | .zeroingComplete p ext => Sys2Proof.Machine.execZeroingComplete p ext s
  | .rescueCask p => Sys2Proof.Machine.execRescueCask p s
  | .scrubPassStart c => Sys2Proof.Machine.execScrubPassStart c s
  | .codebookImageWrite w slot image => Sys2Proof.Machine.execCodebookImageWrite w slot image s
  | .codebookLoadDone => Sys2Proof.Machine.execCodebookLoadDone s
  | .codebookDrain w slot => Sys2Proof.Machine.execCodebookDrain w slot s
  | .codebookUnload w slot => Sys2Proof.Machine.execCodebookUnload w slot s
  | .codebookBuildStart w => Sys2Proof.Machine.execCodebookBuildStart w s
  | .codebookBuildCancel w => Sys2Proof.Machine.execCodebookBuildCancel w s
  | .buildSamplingDone => Sys2Proof.Machine.execBuildSamplingDone s
  | .sliceKeyGenerate w sl => Sys2Proof.Machine.execSliceKeyGenerate w sl s
  | .sliceKeyRekey w sl => Sys2Proof.Machine.execSliceKeyRekey w sl s
  | .sliceKeyImport w sl blob => Sys2Proof.Machine.execSliceKeyImport w sl blob s
  | .wrapPeerPublicWrite w k point => Sys2Proof.Machine.execWrapPeerPublicWrite w k point s
  | .wrapKeyDestroy w k => Sys2Proof.Machine.execWrapKeyDestroy w k s
  | .rngHealthFail => Sys2Proof.Machine.execRngHealthFail s
  | .keyCacheReloadDone p => Sys2Proof.Machine.execKeyCacheReloadDone p s
  | .rekeySweepEnd sl => Sys2Proof.Machine.execRekeySweepEnd sl s
  | .flipArm w c => Sys2Proof.Machine.execFlipArm w c s
  | .flipDisarm w c => Sys2Proof.Machine.execFlipDisarm w c s
  | .flipTestWrite w c => Sys2Proof.Machine.execFlipTestWrite w c s
  | .flipTestRead w c => Sys2Proof.Machine.execFlipTestRead w c s
  | .ceTableClear w p => Sys2Proof.Machine.execCeTableClear w p s
  | .dimmTempPoll c t0 t1 => Sys2Proof.Machine.execDimmTempPoll c t0 t1 s
  | .hammerWindowStart c => Sys2Proof.Machine.execHammerWindowStart c s
  | .pageOpenLimitExpiry c u bank => Sys2Proof.Machine.execPageOpenLimitExpiry c u bank s
  | .rankPowerdownEntry c r => Sys2Proof.Machine.execRankPowerdownEntry c r s
  | .caParityAlert c r => Sys2Proof.Machine.execCaParityAlert c r s
  | .channelQuickRetrain w c => Sys2Proof.Machine.execChannelQuickRetrain w c s
  | .rankRebuildExtent c => Sys2Proof.Machine.execRankRebuildExtent c s
  | .vintageCompileStart => Sys2Proof.Machine.execVintageCompileStart s
  | .vintageCompileDone => Sys2Proof.Machine.execVintageCompileDone s
  | .vintageCheckerDone => Sys2Proof.Machine.execVintageCheckerDone s
  | .vintageSwapTime => Sys2Proof.Machine.execVintageSwapTime s
  | .vintageBeginBatch w => Sys2Proof.Machine.execVintageBeginBatch w s
  | .vintageCommitBatch w => Sys2Proof.Machine.execVintageCommitBatch w s
  | .vintageAbortBatch w => Sys2Proof.Machine.execVintageAbortBatch w s
  | .vintageBatchTimeout => Sys2Proof.Machine.execVintageBatchTimeout s
  | .sliceCheckWindowEnd sl => Sys2Proof.Machine.execSliceCheckWindowEnd sl s
  | .flitReceive n d crcOk => Sys2Proof.Machine.execFlitReceive n d crcOk s
  | .flitTransmit n d => Sys2Proof.Machine.execFlitTransmit n d s
  | .nakReceive n d => Sys2Proof.Machine.execNakReceive n d s
  | .linkCreditTimeout n d => Sys2Proof.Machine.execLinkCreditTimeout n d s
  | .linkAckTimeout n d => Sys2Proof.Machine.execLinkAckTimeout n d s
  | .linkPhyLost n d peer => Sys2Proof.Machine.execLinkPhyLost n d peer s
  | .linkRetrain w n => Sys2Proof.Machine.execLinkRetrain w n s
  | .linkIdleEnd n => Sys2Proof.Machine.execLinkIdleEnd n s
  | .linkTrainingDone n eye advertisedOk => Sys2Proof.Machine.execLinkTrainingDone n eye advertisedOk s
  | .linkTrainingFail n => Sys2Proof.Machine.execLinkTrainingFail n s
  | .pavilionStop w p => Sys2Proof.Machine.execPavilionStop w p s
  | .pavilionStart w p => Sys2Proof.Machine.execPavilionStart w p s
  | .pavilionRetire w p => Sys2Proof.Machine.execPavilionRetire w p s
  | .pavilionReturn w p => Sys2Proof.Machine.execPavilionReturn w p s
  | .pavilionFault p => Sys2Proof.Machine.execPavilionFault p s
  | .gatehouseHeartbeat => Sys2Proof.Machine.execGatehouseHeartbeat s
  | .heartbeatTimeout => Sys2Proof.Machine.execHeartbeatTimeout s
  | .rootPllLockLoss p => Sys2Proof.Machine.execRootPllLockLoss p s
  | .aonPllLockLoss => Sys2Proof.Machine.execAonPllLockLoss s
  | .perstAssert port => Sys2Proof.Machine.execPerstAssert port s
  | .perstDeassert port => Sys2Proof.Machine.execPerstDeassert port s
  | .portLinkDown port => Sys2Proof.Machine.execPortLinkDown port s
  | .portHotReset port => Sys2Proof.Machine.execPortHotReset port s
  | .portLinkDisable port => Sys2Proof.Machine.execPortLinkDisable port s
  | .cxlReset port => Sys2Proof.Machine.execCxlReset port s
  | .functionLevelReset port => Sys2Proof.Machine.execFunctionLevelReset port s
  | .busMasterEnableClear port => Sys2Proof.Machine.execBusMasterEnableClear port s
  | .busMasterEnableSet port => Sys2Proof.Machine.execBusMasterEnableSet port s
  | .bmWindowWrite port k value => Sys2Proof.Machine.execBmWindowWrite port k value s
  | .portLinkTrained port speed width flit256 => Sys2Proof.Machine.execPortLinkTrained port speed width flit256 s
  | .pmDStateChange port dstate pme => Sys2Proof.Machine.execPmDStateChange port dstate pme s
  | .ideMacFailure port => Sys2Proof.Machine.execIdeMacFailure port s
  | .ideKmRequest port session keys => Sys2Proof.Machine.execIdeKmRequest port session keys s
  | .doeDiscovery port index => Sys2Proof.Machine.execDoeDiscovery port index s
  | .spdmRequest port req => Sys2Proof.Machine.execSpdmRequest port req s
  | .cdatRead port entry => Sys2Proof.Machine.execCdatRead port entry s
  | .mboxIdentify port => Sys2Proof.Machine.execMboxIdentify port s
  | .mboxGetEventRecords port log => Sys2Proof.Machine.execMboxGetEventRecords port log s
  | .mboxClearEventRecords port log all handles => Sys2Proof.Machine.execMboxClearEventRecords port log all handles s
  | .mboxGetEventIntPolicy port => Sys2Proof.Machine.execMboxGetEventIntPolicy port s
  | .mboxSetEventIntPolicy port policy => Sys2Proof.Machine.execMboxSetEventIntPolicy port policy s
  | .mboxGetFwInfo port => Sys2Proof.Machine.execMboxGetFwInfo port s
  | .mboxGetTimestamp port => Sys2Proof.Machine.execMboxGetTimestamp port s
  | .mboxSetTimestamp port time => Sys2Proof.Machine.execMboxSetTimestamp port time s
  | .mboxGetSupportedLogs port => Sys2Proof.Machine.execMboxGetSupportedLogs port s
  | .mboxGetLog port cel offset len => Sys2Proof.Machine.execMboxGetLog port cel offset len s
  | .mboxIdentifyMemoryDevice port => Sys2Proof.Machine.execMboxIdentifyMemoryDevice port s
  | .mboxGetPoisonList port => Sys2Proof.Machine.execMboxGetPoisonList port s
  | .mboxClearPoison port dpa data => Sys2Proof.Machine.execMboxClearPoison port dpa data s
  | .mboxGetDcConfiguration port => Sys2Proof.Machine.execMboxGetDcConfiguration port s
  | .mboxGetDcExtentList port => Sys2Proof.Machine.execMboxGetDcExtentList port s
  | .addDcResponse port runs => Sys2Proof.Machine.execAddDcResponse port runs s
  | .releaseDc port runs => Sys2Proof.Machine.execReleaseDc port runs s
  | .dcReleaseDrained port => Sys2Proof.Machine.execDcReleaseDrained port s
  | .mboxVopTransport port frame => Sys2Proof.Machine.execMboxVopTransport port frame s
  | .mboxUnsupported port opcode => Sys2Proof.Machine.execMboxUnsupported port opcode s
  | .dcRequestAdd w port req => Sys2Proof.Machine.execDcRequestAdd w port req s
  | .dcRequestRelease w port req => Sys2Proof.Machine.execDcRequestRelease w port req s
  | .dcRequestForceRelease w port req => Sys2Proof.Machine.execDcRequestForceRelease w port req s
  | .dcOfferTimeout port => Sys2Proof.Machine.execDcOfferTimeout port s
  | .tpDoorbellCounterDump port sl value => Sys2Proof.Machine.execTpDoorbellCounterDump port sl value s
  | .tpDoorbellSave port sl value => Sys2Proof.Machine.execTpDoorbellSave port sl value s
  | .tpDoorbellRestore port sl value => Sys2Proof.Machine.execTpDoorbellRestore port sl value s
  | .counterDumpWritten port sl ok => Sys2Proof.Machine.execCounterDumpWritten port sl ok s
  | .sliceCreate w sl => Sys2Proof.Machine.execSliceCreate w sl s
  | .sliceStart w sl => Sys2Proof.Machine.execSliceStart w sl s
  | .sliceStop w sl => Sys2Proof.Machine.execSliceStop w sl s
  | .sliceFreeze w sl => Sys2Proof.Machine.execSliceFreeze w sl s
  | .sliceThaw w sl => Sys2Proof.Machine.execSliceThaw w sl s
  | .sliceSave w sl => Sys2Proof.Machine.execSliceSave w sl s
  | .sliceRestore w sl => Sys2Proof.Machine.execSliceRestore w sl s
  | .sliceReset w sl => Sys2Proof.Machine.execSliceReset w sl s
  | .sliceRemove w sl => Sys2Proof.Machine.execSliceRemove w sl s
  | .sliceCancel w sl => Sys2Proof.Machine.execSliceCancel w sl s
  | .sliceReoffer w sl => Sys2Proof.Machine.execSliceReoffer w sl s
  | .sliceDrainEnd sl => Sys2Proof.Machine.execSliceDrainEnd sl s
  | .sliceClearingDone sl => Sys2Proof.Machine.execSliceClearingDone sl s
  | .slicePortWrite w sl value => Sys2Proof.Machine.execSlicePortWrite w sl value s
  | .sliceMigrationIdWrite w sl value => Sys2Proof.Machine.execSliceMigrationIdWrite w sl value s
  | .saveBundleSent sl => Sys2Proof.Machine.execSaveBundleSent sl s
  | .restoreBundleRead sl bundle len => Sys2Proof.Machine.execRestoreBundleRead sl bundle len s
  | .vopOpen t f => Sys2Proof.Machine.execVopOpen t f s
  | .vopClose t f => Sys2Proof.Machine.execVopClose t f s
  | .vopKeepalive t f => Sys2Proof.Machine.execVopKeepalive t f s
  | .vopRead t f => Sys2Proof.Machine.execVopRead t f s
  | .vopWrite t f => Sys2Proof.Machine.execVopWrite t f s
  | .vopReadBegin t f => Sys2Proof.Machine.execVopReadBegin t f s
  | .vopReadSegment t f => Sys2Proof.Machine.execVopReadSegment t f s
  | .vopWriteBegin t f => Sys2Proof.Machine.execVopWriteBegin t f s
  | .vopWriteSegment t f => Sys2Proof.Machine.execVopWriteSegment t f s
  | .vopTransferEnd t f => Sys2Proof.Machine.execVopTransferEnd t f s
  | .vopTransferTimeout k => Sys2Proof.Machine.execVopTransferTimeout k s
  | .vopCatalogueRead t f => Sys2Proof.Machine.execVopCatalogueRead t f s
  | .vopSubscribe t f => Sys2Proof.Machine.execVopSubscribe t f s
  | .vopNotifyAck t f => Sys2Proof.Machine.execVopNotifyAck t f s
  | .vopNotifyPoll t f => Sys2Proof.Machine.execVopNotifyPoll t f s
  | .vopClaim t f => Sys2Proof.Machine.execVopClaim t f s
  | .vopWakeFrame t f => Sys2Proof.Machine.execVopWakeFrame t f s
  | .notifyResend k => Sys2Proof.Machine.execNotifyResend k s
  | .sessionIdleTimeout k => Sys2Proof.Machine.execSessionIdleTimeout k s
  | .sessionCloseCommand w k => Sys2Proof.Machine.execSessionCloseCommand w k s
  | .rolePeerPublicWrite w r point => Sys2Proof.Machine.execRolePeerPublicWrite w r point s
  | .roleDestroy w r => Sys2Proof.Machine.execRoleDestroy w r s
  | .mgmtApply w => Sys2Proof.Machine.execMgmtApply w s
  | .mgmtConfirm w => Sys2Proof.Machine.execMgmtConfirm w s
  | .mgmtConfirmTimeout => Sys2Proof.Machine.execMgmtConfirmTimeout s
  | .arpRequest target => Sys2Proof.Machine.execArpRequest target s
  | .icmpEchoRequest v6 addr payload => Sys2Proof.Machine.execIcmpEchoRequest v6 addr payload s
  | .neighbourSolicitation target => Sys2Proof.Machine.execNeighbourSolicitation target s
  | .mctpSetEndpointId eid => Sys2Proof.Machine.execMctpSetEndpointId eid s
  | .mctpGetEndpointId => Sys2Proof.Machine.execMctpGetEndpointId s
  | .mctpGetVersionSupport kind => Sys2Proof.Machine.execMctpGetVersionSupport kind s
  | .mctpGetMessageTypeSupport => Sys2Proof.Machine.execMctpGetMessageTypeSupport s
  | .mctpGetVendorDefinedSupport selector => Sys2Proof.Machine.execMctpGetVendorDefinedSupport selector s
  | .lodgeGather => Sys2Proof.Machine.execLodgeGather s
  | .counterReset w value => Sys2Proof.Machine.execCounterReset w value s
  | .sliceCounterReset w sl => Sys2Proof.Machine.execSliceCounterReset w sl s
  | .counterStoreError index sub corrected => Sys2Proof.Machine.execCounterStoreError index sub corrected s
  | .ptpMessage offset master domain => Sys2Proof.Machine.execPtpMessage offset master domain s
  | .ptpLossTimeout => Sys2Proof.Machine.execPtpLossTimeout s
  | .timeSourceWrite w value => Sys2Proof.Machine.execTimeSourceWrite w value s
  | .snapshotTick port host => Sys2Proof.Machine.execSnapshotTick port host s
  | .harvestTick => Sys2Proof.Machine.execHarvestTick s
  | .harvestMinuteEnd host => Sys2Proof.Machine.execHarvestMinuteEnd host s
  | .ringEnableWrite w port value => Sys2Proof.Machine.execRingEnableWrite w port value s
  | .snapSetWrite w port value => Sys2Proof.Machine.execSnapSetWrite w port value s
  | .armCounterWrite w port a value => Sys2Proof.Machine.execArmCounterWrite w port a value s
  | .laneClockGate p lane => Sys2Proof.Machine.execLaneClockGate p lane s
  | .pavilionIdleEntry p => Sys2Proof.Machine.execPavilionIdleEntry p s
  | .powerCommandRest w => Sys2Proof.Machine.execPowerCommandRest w s
  | .restAutoDelayExpiry => Sys2Proof.Machine.execRestAutoDelayExpiry s
  | .restAgentAgree => Sys2Proof.Machine.execRestAgentAgree s
  | .wakeEvent source => Sys2Proof.Machine.execWakeEvent source s
  | .restExitCorePg pllsLocked exitOk => Sys2Proof.Machine.execRestExitCorePg pllsLocked exitOk s
  | .restExitCorePgTimeout => Sys2Proof.Machine.execRestExitCorePgTimeout s
  | .retentionRestoreDone p ce ue => Sys2Proof.Machine.execRetentionRestoreDone p ce ue s
  | .warmMeasurementDone digest => Sys2Proof.Machine.execWarmMeasurementDone digest s
  | .vauxRise straps => Sys2Proof.Machine.execVauxRise straps s
  | .vauxFall => Sys2Proof.Machine.execVauxFall s
  | .partResetAssert => Sys2Proof.Machine.execPartResetAssert s
  | .partResetRelease straps => Sys2Proof.Machine.execPartResetRelease straps s
  | .selfTestDone p pass gate => Sys2Proof.Machine.execSelfTestDone p pass gate s
  | .fwSlotCheckDone img => Sys2Proof.Machine.execFwSlotCheckDone img s
  | .firmwareStartDone config trust wear => Sys2Proof.Machine.execFirmwareStartDone config trust wear s
  | .dramTrainingDone p t => Sys2Proof.Machine.execDramTrainingDone p t s
  | .hardRepair p failed => Sys2Proof.Machine.execHardRepair p failed s
  | .firstFillDone p failedRanks => Sys2Proof.Machine.execFirstFillDone p failedRanks s
  | .bootMemoryActive => Sys2Proof.Machine.execBootMemoryActive s
  | .corePgBootTimeout => Sys2Proof.Machine.execCorePgBootTimeout s
  | .corePgFall => Sys2Proof.Machine.execCorePgFall s
  | .thermalTrip => Sys2Proof.Machine.execThermalTrip s
  | .presentRawAbsence => Sys2Proof.Machine.execPresentRawAbsence s
  | .presenceDebounced => Sys2Proof.Machine.execPresenceDebounced s
  | .absenceDebounced => Sys2Proof.Machine.execAbsenceDebounced s
  | .absenceTimerExpiry => Sys2Proof.Machine.execAbsenceTimerExpiry s
  | .insertDelayExpiry => Sys2Proof.Machine.execInsertDelayExpiry s
  | .mainFullyOn => Sys2Proof.Machine.execMainFullyOn s
  | .mainRampTimeout => Sys2Proof.Machine.execMainRampTimeout s
  | .mainFastTrip => Sys2Proof.Machine.execMainFastTrip s
  | .mainSoaTimerExpiry => Sys2Proof.Machine.execMainSoaTimerExpiry s
  | .mainRetryWaitEnd => Sys2Proof.Machine.execMainRetryWaitEnd s
  | .mainRetryCountReset => Sys2Proof.Machine.execMainRetryCountReset s
  | .mainWindowExit => Sys2Proof.Machine.execMainWindowExit s
  | .currentLimitStart k => Sys2Proof.Machine.execCurrentLimitStart k s
  | .powerSample vin vout current branches => Sys2Proof.Machine.execPowerSample vin vout current branches s
  | .branchOn w b => Sys2Proof.Machine.execBranchOn w b s
  | .branchOff w b => Sys2Proof.Machine.execBranchOff w b s
  | .branchFullyOn b => Sys2Proof.Machine.execBranchFullyOn b s
  | .branchRampTimeout b => Sys2Proof.Machine.execBranchRampTimeout b s
  | .branchFastTrip b => Sys2Proof.Machine.execBranchFastTrip b s
  | .branchSoaTimerExpiry b => Sys2Proof.Machine.execBranchSoaTimerExpiry b s
  | .branchRetryWaitEnd b => Sys2Proof.Machine.execBranchRetryWaitEnd b s
  | .ageIntegrate temps => Sys2Proof.Machine.execAgeIntegrate temps s
  | .ringOscillatorSample p drift => Sys2Proof.Machine.execRingOscillatorSample p drift s
  | .pathDelaySample p slack avsAck => Sys2Proof.Machine.execPathDelaySample p slack avsAck s
  | .seasonEnd margins => Sys2Proof.Machine.execSeasonEnd margins s
  | .maintWindowOpen => Sys2Proof.Machine.execMaintWindowOpen s
  | .maintOpenNow w => Sys2Proof.Machine.execMaintOpenNow w s
  | .maintClose w => Sys2Proof.Machine.execMaintClose w s
  | .maintWindowExpiry => Sys2Proof.Machine.execMaintWindowExpiry s
  | .wearRecordHourly => Sys2Proof.Machine.execWearRecordHourly s
  | .ceTableScan => Sys2Proof.Machine.execCeTableScan s
  | .capacityWithdrawal p => Sys2Proof.Machine.execCapacityWithdrawal p s
  | .configStoreWrite => Sys2Proof.Machine.execConfigStoreWrite s
  | .fwUpdateBegin w => Sys2Proof.Machine.execFwUpdateBegin w s
  | .fwUpdateData w data len => Sys2Proof.Machine.execFwUpdateData w data len s
  | .fwUpdateVerify w => Sys2Proof.Machine.execFwUpdateVerify w s
  | .fwUpdateAbort w => Sys2Proof.Machine.execFwUpdateAbort w s
  | .fwSvnCommit w value => Sys2Proof.Machine.execFwSvnCommit w value s
  | .fwKeyRevoke w value => Sys2Proof.Machine.execFwKeyRevoke w value s
  | .debugUnlock w token => Sys2Proof.Machine.execDebugUnlock w token s
  | .monitorHelp => Sys2Proof.Machine.execMonitorHelp s
  | .monitorLogin role answer => Sys2Proof.Machine.execMonitorLogin role answer s
  | .monitorLogout => Sys2Proof.Machine.execMonitorLogout s
  | .monitorLoginLockExpiry => Sys2Proof.Machine.execMonitorLoginLockExpiry s
  | .monitorIdleTimeout => Sys2Proof.Machine.execMonitorIdleTimeout s
  | .monitorBoot => Sys2Proof.Machine.execMonitorBoot s
  | .monitorLog n => Sys2Proof.Machine.execMonitorLog n s
  | .monitorOdRead index sub => Sys2Proof.Machine.execMonitorOdRead index sub s
  | .monitorOdWrite index sub value len => Sys2Proof.Machine.execMonitorOdWrite index sub value len s
  | .monitorVintage => Sys2Proof.Machine.execMonitorVintage s
  | .monitorSlots c => Sys2Proof.Machine.execMonitorSlots c s
  | .monitorTrain c => Sys2Proof.Machine.execMonitorTrain c s
  | .monitorPeek p addr len => Sys2Proof.Machine.execMonitorPeek p addr len s
  | .monitorPoke p addr value => Sys2Proof.Machine.execMonitorPoke p addr value s
  | .monitorSlotSelect b => Sys2Proof.Machine.execMonitorSlotSelect b s
  | .monitorLoad img => Sys2Proof.Machine.execMonitorLoad img s
  | .hdmDecoderCommit port k commit base size ways granularity position skip => Sys2Proof.Machine.execHdmDecoderCommit port k commit base size ways granularity position skip s
  | .completionTimeout port engine => Sys2Proof.Machine.execCompletionTimeout port engine s
  | .mgmtLinkChange up => Sys2Proof.Machine.execMgmtLinkChange up s
  | .dhcpv4Message addr prefixLen gateway => Sys2Proof.Machine.execDhcpv4Message addr prefixLen gateway s
  | .i3cDynamicAddressAssign addr => Sys2Proof.Machine.execI3cDynamicAddressAssign addr s
  | .aspmL1Transition port enter => Sys2Proof.Machine.execAspmL1Transition port enter s
  | .currentLimitEnd k => Sys2Proof.Machine.execCurrentLimitEnd k s
  | .corePgRise locked => Sys2Proof.Machine.execCorePgRise locked s
  | .coreEnRetryWaitEnd => Sys2Proof.Machine.execCoreEnRetryWaitEnd s
  | .fwUpdateVerifyDone img => Sys2Proof.Machine.execFwUpdateVerifyDone img s
  | .quickRetrainRankDone c lanes => Sys2Proof.Machine.execQuickRetrainRankDone c lanes s
  | .codebookTableReloadDone p => Sys2Proof.Machine.execCodebookTableReloadDone p s
  | .debugPortAccess p write addr data => Sys2Proof.Machine.execDebugPortAccess p write addr data s

end Sys2Proof.Machine
end

