-- ==== Sys2Proof/Machine/Endpoint.lean ====
section
/-!
DEFINITION. What a host reads of a port's endpoint (spec/09 R352 to R362, spec/10 R404 to R406): configuration space, base address
registers, the words of BAR0 that the manual lays out, tenant pages, the expansion ROM. No row of the table reads or writes them: they are
views of the state, and what a host writes here is an operation of its own (log entry 209).
-/

namespace Sys2Proof.Machine

/-! ## Configuration space (spec/09 R352, R353) -/

/-- The capabilities of a port's configuration space, in the order of their offsets (spec/09 R353). -/
inductive Capability where
  | powerManagement | msix | pciExpress | aer | serialNumber | secondaryPcie | dataLinkFeature | phy16 | phy32 | phy64
  | laneMargining | pasid | doe | cxlDevices | gpf | flexBusPort | registerLocator | ide
  deriving DecidableEq, Repr

/-- Every capability, in the order of the offsets. -/
def Capability.all : List Capability :=
  [.powerManagement, .msix, .pciExpress, .aer, .serialNumber, .secondaryPcie, .dataLinkFeature, .phy16, .phy32, .phy64,
    .laneMargining, .pasid, .doe, .cxlDevices, .gpf, .flexBusPort, .registerLocator, .ide]

/-- The configuration-space offset of a capability (spec/09 R353). -/
def Capability.offset : Capability → Nat
  | .powerManagement => 0x40 | .msix => 0x50 | .pciExpress => 0x70 | .aer => 0x100 | .serialNumber => 0x150
  | .secondaryPcie => 0x160 | .dataLinkFeature => 0x1A0 | .phy16 => 0x1C0 | .phy32 => 0x200 | .phy64 => 0x240
  | .laneMargining => 0x280 | .pasid => 0x300 | .doe => 0x310 | .cxlDevices => 0x400 | .gpf => 0x440 | .flexBusPort => 0x460
  | .registerLocator => 0x480 | .ide => 0x4C0

/-- The part's settings of a capability (spec/09 R353), each named as the table names it; a setting that is on or capable reads 1. -/
def Capability.settings : Capability → List (String × Nat)
  | .powerManagement => [("D3cold PME support", 1), ("soft reset on D3hot to D0", 0)]
  | .msix => [("vectors", 32), ("table BAR", 0), ("PBA BAR", 0), ("table offset", 0x9000), ("PBA offset", 0x9800)]
  | .pciExpress => [("endpoint", 1), ("FLR capable", 1), ("completion timeout ranges A to D", 0xF), ("default timeout ms", 50)]
  | .dataLinkFeature => [("scaled flow control", 1), ("flit mode", 1)]
  | .pasid => [("PASID width", 20), ("execute", 0), ("privileged", 0)]
  | .doe => [("protocols", 4)]
  | .cxlDevices => [("Mem_Capable", 1), ("Cache_Capable", 0), ("HDM_Count", 1), ("CXL Reset capable", 1), ("CXL Reset timeout ms", 100),
      ("Mem_Clr capable", 0), ("Memory_Active_Timeout s", 256)]
  | .gpf => [("phase 2 duration", 0), ("persistent memory", 0)]
  | .flexBusPort => [("CXL.io", 1), ("CXL.mem", 1), ("68 B flit mode", 1), ("256 B flit mode", 1)]
  | .registerLocator => [("component registers BAR", 0), ("component registers offset", 0), ("device registers BAR", 0),
      ("device registers offset", 0x2000), ("vendor registers BAR", 0), ("vendor registers offset", 0x8000)]
  | .ide => [("link streams", 1), ("selective streams", 0)]
  | _ => []

/-- The capability whose structure holds a configuration-space offset: the last that begins at or below it. -/
def capabilityAt (off : Nat) : Option Capability :=
  (Capability.all.filter fun c => decide (c.offset ≤ off) && (decide (0x100 ≤ c.offset) == decide (0x100 ≤ off))).getLast?

/-- The identification registers of a port as U32 words (spec/09 R352): vendor and device ID, revision and class code, subsystem IDs,
the two words of the serial number. None for another offset. -/
def Part.identWord (s : Part) (off : Nat) : Option Nat :=
  match off with
  | 0x00 => some (0x1F8B ||| (0x0C08 <<< 16))
  | 0x08 => some (0x11 ||| (0x050210 <<< 8))
  | 0x2C => some s.flash.subsys
  | 0x154 => some (bits s.flash.serial 0 32)
  | 0x158 => some (bits s.flash.serial 32 32)
  | _ => none

/-! ## Base address registers (spec/09 R355) -/

/-- What a port decodes. -/
inductive Bar where
  | registers | tenants | rom
  deriving DecidableEq, Repr

/-- The number of a window's (lower) base address register; 6 is the expansion ROM's. -/
def Bar.register : Bar → Nat
  | .registers => 0 | .tenants => 2 | .rom => 6

/-- The size of a window in bytes. -/
def Bar.size : Bar → Nat
  | .registers => 2 ^ 16 | .tenants => 2 ^ 24 | .rom => 2 ^ 20

/-- The kind bits of a base address register: 64-bit memory, non-prefetchable; of the expansion ROM's, its enable bit as written. -/
def Bar.kind : Bar → Nat
  | .registers => 4 | .tenants => 4 | .rom => 0

/-- The base that the host has given a window. -/
def Part.barBase (s : Part) (i : Nat) (b : Bar) : Nat :=
  let r (k : Nat) : Nat := (s.port i).bars.get 0 k % 2 ^ 32
  match b with
  | .rom => bits (r 6) 20 12 <<< 20
  | _ => ((r b.register ||| (r (b.register + 1) <<< 32)) / b.size) * b.size

/-- A read of a base address register: the address bits, and the kind bits of the lower half; BAR4 and BAR5 read 0. -/
def Part.barRead (s : Part) (i k : Nat) : Nat :=
  match k with
  | 0 => bits (s.barBase i .registers) 0 32 ||| 4
  | 1 => bits (s.barBase i .registers) 32 32
  | 2 => bits (s.barBase i .tenants) 0 32 ||| 4
  | 3 => bits (s.barBase i .tenants) 32 32
  | 6 => s.barBase i .rom ||| bits ((s.port i).bars.get 0 6) 0 1
  | _ => 0

/-- A write of a base address register: the host moves the window; BAR4 and BAR5 keep nothing. -/
def Part.barWrite (s : Part) (i k v : Nat) : Part :=
  if k = 4 || k = 5 || 6 < k then s else s.onPort i fun t => { t with bars := t.bars.set 0 k (v % 2 ^ 32) }

/-- The window that decodes a host address, with the offset into it; none is decoded elsewhere. The expansion ROM decodes while its enable
bit is set. -/
def Part.barDecode (s : Part) (i addr : Nat) : Option (Bar × Nat) :=
  ([Bar.registers, .tenants, .rom].filter fun b => b != .rom || bit ((s.port i).bars.get 0 6) 0).findSome? fun b =>
    let base := s.barBase i b
    if decide (base ≤ addr) && decide (addr < base + b.size) then some (b, addr - base) else none

/-- A configuration word of a port (spec/09 R352 to R355, R390): identification, base address registers, the capabilities pointer, the status,
mask and severity registers of AER; none for another word that the PCIe Base Specification lays out. -/
def Part.configWord (s : Part) (i off : Nat) : Option Nat :=
  if 0x10 ≤ off && off < 0x28 then some (s.barRead i ((off - 0x10) / 4))
  else if off = 0x30 then some (s.barRead i 6)
  else if off = 0x34 then some 0x40
  else if off = 0x104 then some (s.od .aerUeStatus i)
  else if off = 0x108 then some (s.port i).aerMask
  else if off = 0x10C then some (s.port i).aerSeverity
  else if off = 0x110 then some (s.od .aerCeStatus i)
  else if off = 0x114 then some (s.port i).aerCeMask
  else s.identWord off

/-- The port answers configuration requests: until it is ready it answers each with Request Retry Status (spec/09 R354, spec/16 R576). -/
def Part.configReady (s : Part) (i : Nat) : Bool := s.od .portState i == 4 || s.od .portState i == 5

/-! ## BAR0 (spec/09 R356 to R358) -/

/-- The blocks of BAR0. -/
inductive Block where
  | reserved | cxlIo | cachemem | device | mailbox | liveness | window (k : Nat) | msixTable | msixPending
  deriving DecidableEq, Repr

/-- The block that holds an offset of BAR0 (spec/09 R356). -/
def blockAt (off : Nat) : Block :=
  if off < 0x1000 then .cxlIo
  else if off < 0x2000 then .cachemem
  else if off < 0x4000 then .device
  else if off < 0x6020 then .mailbox
  else if 0x8000 ≤ off && off < 0x8004 then .liveness
  else if 0x8100 ≤ off && off < 0x8300 then .window ((off - 0x8100) / 32)
  else if 0x9000 ≤ off && off < 0x9200 then .msixTable
  else if 0x9800 ≤ off && off < 0x9808 then .msixPending
  else .reserved

/-- The liveness word (spec/09 R357). -/
def Part.livenessWord (s : Part) : Nat :=
  s.boot.liveness % 65536 ||| (b2n (decide (s.serving.length < 8)) <<< 22) ||| (b2n s.boot.active <<< 23) ||| (0x5A <<< 24)

/-- A ring of a port lies in a window. -/
def Part.ringIn (s : Part) (i r : Nat) (w : Window) : Bool :=
  let g := (s.port i).rings.get Ring.zero r
  let base := s.ringBase i r
  g.enabled && w.enable && decide (w.base ≤ base) && decide (base + 4096 + 64 * s.ringUnits i r ≤ w.limit + 4096)

/-- A bundle transfer of the port, in the direction given, has an address in a window. -/
def Part.bundleIn (s : Part) (i : Nat) (w : Window) (reads : Bool) : Bool :=
  w.enable && (s.boundTo i).any fun sl =>
    match (s.slice sl).bundle with
    | some b =>
      let a := s.od .sliceBundleAddress sl
      (!reads || b.restore) && decide (w.base < a + max 64 b.size) && decide (a < w.limit + 4096)
    | none => false

/-- A bus-master window block as it reads (spec/09 R358); the reads of a RESTORE keep it BUSY. -/
def Part.windowWord (s : Part) (i k : Nat) : Nat :=
  let w := (s.port i).windows.get Window.zero k
  (w.base / 4096 <<< 12) ||| (w.limit / 4096 <<< 76) ||| (w.pasid <<< 128) ||| (b2n w.pasidEn <<< 157) |||
    (b2n (s.bundleIn i w true) <<< 158) ||| (b2n w.enable <<< 159) ||| (b2n (s.ringIn i 0 w) <<< 160) |||
    (b2n (s.ringIn i 1 w) <<< 161) ||| (b2n (s.ringIn i 2 w) <<< 162) ||| (b2n (s.bundleIn i w false) <<< 163)

/-- A 64-bit word of BAR0 that the manual lays out; reserved offsets read 0, none for the words of the CXL specification. -/
def Part.bar0Word (s : Part) (i off : Nat) : Option Nat :=
  match blockAt off with
  | .liveness => some s.livenessWord
  | .window k => some (bits (s.windowWord i k) (64 * (off % 32 / 8)) 64)
  | .msixPending => some (s.port i).msixPending
  | .reserved | .cxlIo => some 0
  | .cachemem | .device | .mailbox | .msixTable => none

/-! ## Tenant pages (spec/09 R361, spec/10 R404 to R406, spec/12 R484) -/

/-- TP_IDENT of a slice (spec/10 R405). -/
def Part.tpIdent (s : Part) (sl : Nat) : Nat := sl % 4096 ||| (s.od .sliceState sl % 16 <<< 16) ||| (0x5A47534C <<< 32)

/-- TP_DOORBELL_STATUS of a slice (spec/10 R406). -/
def Part.tpDoorbellStatus (s : Part) (sl : Nat) : Nat :=
  let q := s.slice sl
  q.doorOp % 256 ||| (q.doorResult % 256 <<< 8) ||| (q.doorTag % 256 <<< 32)

/-- The counter window of a tenant page as it was last refreshed (spec/12 R484), by offset into the page. -/
def Part.tpCounter (s : Part) (sl off : Nat) : Nat :=
  let w := (s.slice sl).window
  if off = 0x100 then w.get 0 0
  else if 0x200 ≤ off && off < 0x580 then w.get 0 ((off - 0x200) / 8 + 0x20)
  else if 0x580 ≤ off && off < 0x590 then bits (w.get 0 1) (64 * ((off - 0x580) / 8)) 64
  else if 0x600 ≤ off && off < 0x680 then
    if w.isEmpty then 0 else bits (s.odRead .sliceHarvestLast sl) (64 * ((off - 0x600) / 8)) 64
  else 0

/-- The U64 of a tenant page at an offset (spec/10 R404); offsets that the table does not list read 0. -/
def Part.tenantWord (s : Part) (sl off : Nat) : Nat :=
  match off with
  | 0x000 => s.tpIdent sl
  | 0x010 => s.tpDoorbellStatus sl
  | 0x018 => s.odRead .sliceDirtyExtents sl
  | _ => s.tpCounter sl off

/-- The tenant page of a slice is live at a port (spec/09 R361). -/
def Part.tenantLive (s : Part) (i sl : Nat) : Bool := s.boundPort sl == some i && s.od .sliceState sl != 0

/-- A read of BAR2 (spec/09 R361): none is Unsupported Request, for a width other than 4 B and 8 B or an offset not aligned to it; a page
that is not live reads 0. -/
def Part.tenantRead (s : Part) (i off len : Nat) : Option Nat :=
  if (len != 4 && len != 8) || off % len != 0 then none
  else if !s.tenantLive i (off / 4096) then some 0
  else some (bits (s.tenantWord (off / 4096) (off % 4096 / 8 * 8)) (8 * (off % 8)) (8 * len))

/-! ## The expansion ROM (spec/09 R362) -/

/-- The PCI data structure of a ROM image (PRESUMED, log entry 209): the bytes "PCIR", vendor and device ID, length and revision, class
code, the image's length in units of 512 B, code type, and the indicator of the last image. -/
def pciData (units codeType : Nat) (last : Bool) : List Nat :=
  asciiBytes "PCIR" ++ toBytes 2 0x1F8B ++ toBytes 2 0x0C08 ++ [0, 0] ++ toBytes 2 24 ++ [3] ++ toBytes 3 0x050210 ++ toBytes 2 units ++
    [0, 0, codeType, b2n last * 128, 0, 0]

/-- The first 512 bytes of a ROM image: the signature 0xAA55 and, at the offset that byte 24 names, its PCI data structure. -/
def romHeader (units codeType : Nat) (last : Bool) : List Nat :=
  let l := [0x55, 0xAA] ++ List.replicate 22 0 ++ toBytes 2 0x40 ++ List.replicate 38 0 ++ pciData units codeType last
  l ++ List.replicate (512 - l.length) 0

/-- A byte of the expansion ROM window: the UEFI driver's image below 0x80000, then the image that holds the dictionary catalogue from
its byte 0x200. The window reads the same on every port; nothing writes it. -/
def Part.romByte (s : Part) (off : Nat) : Nat :=
  if off < 512 then (romHeader 0x400 0x03 false).getD off 0
  else if off < 0x80000 then Config.uefiDriver off % 256
  else if off < 0x80200 then (romHeader 0x400 0x7E true).getD (off - 0x80000) 0
  else (catalogue (s.od0 .dictVersion)).getD (off - 0x80200) 0

end Sys2Proof.Machine
end

