-- ==== Sys2Proof/Safety.lean ====
section
/-!
DEFINITION. What counts as a safe run, and the words in which statements say what a change leaves as it is.
-/

namespace Sys2Proof

/-- The machine does not stop within `k` steps from a state. -/
def Safe : Nat → Machine.State → Prop
  | 0, _ => True
  | k + 1, s => ∃ t, Machine.step s = .next t ∧ Safe k t

namespace Machine

/-- The state with its part replaced and its queue as it is. -/
def State.withPart (s : State) (p : Part) : State := { s with part := p }

/-- The fields of the part. -/
inductive PartField where
  | dict | delta | taint | now | ptpRate | ptpLock | log | logNext | lastLog
  | pavs | chans | links | ports | slices | vint | codec | keys | gate
  | mon | power | rest | flash | boot | season | backlog | steppedMinute | minuteStart
  | out | freeCtr
  deriving DecidableEq, Repr

/-- A field holds the same in two parts. -/
def PartField.same (a b : Part) : PartField → Prop
  | .dict => b.dict = a.dict
  | .delta => b.delta = a.delta
  | .taint => b.taint = a.taint
  | .now => b.now = a.now
  | .ptpRate => b.ptpRate = a.ptpRate
  | .ptpLock => b.ptpLock = a.ptpLock
  | .log => b.log = a.log
  | .logNext => b.logNext = a.logNext
  | .lastLog => b.lastLog = a.lastLog
  | .pavs => b.pavs = a.pavs
  | .chans => b.chans = a.chans
  | .links => b.links = a.links
  | .ports => b.ports = a.ports
  | .slices => b.slices = a.slices
  | .vint => b.vint = a.vint
  | .codec => b.codec = a.codec
  | .keys => b.keys = a.keys
  | .gate => b.gate = a.gate
  | .mon => b.mon = a.mon
  | .power => b.power = a.power
  | .rest => b.rest = a.rest
  | .flash => b.flash = a.flash
  | .boot => b.boot = a.boot
  | .season => b.season = a.season
  | .backlog => b.backlog = a.backlog
  | .steppedMinute => b.steppedMinute = a.steppedMinute
  | .minuteStart => b.minuteStart = a.minuteStart
  | .out => b.out = a.out
  | .freeCtr => b.freeCtr = a.freeCtr

/-- From `a` to `b` no field changes but those listed. -/
def Part.only (l : List PartField) (a b : Part) : Prop := ∀ f, f ∉ l → f.same a b

/-- From `a` to `b` no stored value of the dictionary changes but those listed. -/
def Part.odOnly (l : List (Entry × Nat)) (a b : Part) : Prop := ∀ e i, i < 65536 → (e, i) ∉ l → b.od e i = a.od e i

/-- The dictionary lets the role of who asks write the entry (spec/11 R439, check 5), and the part has not failed (R458). -/
def Part.mayWrite (s : Part) (w : Who) (e : Entry) : Prop :=
  bit e.info.roles (s.roleOf w - 1) = true ∧ s.od0 .partFailed = 0

/-! ## Frames -/

/-- The frame is a new request of the session in a slot and passes checks 1 to 3 (spec/11 R439, R453), none of its requests
executes, and its SEQUENCE is not the last. -/
def Part.newTo (s : Part) (k : Nat) (f : Frame) : Prop :=
  f.session ≠ 0 ∧ f.session % 32 = k ∧ (s.sess k).isOpen = true ∧ s.od .sessionId k = f.session ∧ f.auth = frameMac f (s.sess k).key ∧
  s.od .sessionLastSequence k < f.sequence ∧ f.sequence < 2 ^ 64 - 1 ∧ (s.sess k).executing = false ∧ formRefusal f = none

/-- A frame that arrives over a transport is handled at once (spec/11 R442, R456, spec/09 R368). -/
def Part.hears (s : Part) (t : Transport) (f : Frame) : Prop :=
  s.listens = true ∧ s.gateHolds = false ∧ f.payloadLen + 64 ≤ frameLimit t ∧
  match t with
  | .ethernet _ _ => s.mgmtUp = true
  | .mctp _ => True
  | .mailbox i => bit (s.od0 .mailboxVopPorts) i = true ∧ (s.port i).mboxBusy = none

/-- What the arrival of a frame itself changes: over I3C it is a wake event, over a mailbox a background command begins. -/
def Part.heardAt (s : Part) (t : Transport) : Part :=
  match t with
  | .ethernet _ _ => s
  | .mctp _ => s.wakeEvent 3
  | .mailbox i => s.onPort i fun p => { p with mboxBusy := some 0xC800 }

/-- The state in which a session's new request executes. -/
def Part.takes (s : Part) (t : Transport) (k : Nat) (f : Frame) : Part :=
  ((s.heardAt t).setOd .sessionLastSequence k f.sequence).onSess k fun q =>
    { q with request := some f, answer := none, executing := true, origin := t }

/-- A response as it goes over its transport. -/
def sentOver (t : Transport) (r : Frame) : Output :=
  match t with
  | .mailbox i => .mailbox i mbSuccess (frameBytes r)
  | _ => .frame t r

/-- From `x` to `q` a session's request is answered with a RESULT, a payload and its length, an OFFSET and a TRANSFER, and
nothing else changes. -/
def Part.answers (x q : Part) (t : Transport) (k : Nat) (f : Frame) (code payload len offset transfer : Nat) : Prop :=
  ∃ r, r = frameSign { responseTo f (x.od .sessionId k) (x.od .sessionRole k) code payload len (x.sess k).key with
      offset := offset, transfer := transfer } (x.sess k).key ∧
    q.sess k = { x.sess k with answer := some r, executing := false } ∧ (∀ j, j ≠ k → q.sess j = x.sess j) ∧
    Part.only [.gate, .out, .ports] x q ∧ sentOver t r ∈ q.out

end Machine

end Sys2Proof
end

