-- ==== Sys2Proof/WellFormed.lean ====
section
/-!
DEFINITION. Which commands are well formed: the operands that their types do not bound already fit the fields the spec
gives them.
-/

namespace Sys2Proof

/-- A frame's fields fit the header of spec/11 R446 and its payload fits its length. -/
def frameOk (f : Frame) : Bool :=
  decide (f.sequence < 2 ^ 64) && decide (f.session < 2 ^ 32) && decide (f.result < 2 ^ 32) &&
  decide (f.offset < 2 ^ 32) && decide (f.length < 2 ^ 16) && decide (f.transfer < 2 ^ 16) &&
  decide (f.index < 2 ^ 16) && decide (f.subindex < 256) && decide (f.opcode < 256) && decide (f.kind < 16) &&
  decide (f.role < 16) && decide (f.flags < 256) && decide (f.magic < 256) && decide (f.format < 256) &&
  decide (f.payload < 256 ^ f.payloadLen) && decide (f.auth < 2 ^ 256)

/-- A rank's training gives the sweeps of its 80 lanes in each direction, over the 126 reference steps and 128 delay steps at most (spec/06
R247). -/
def rankTrainingOk (r : RankTraining) : Bool :=
  let ok (l : List (List Nat)) : Bool := decide (l.length ≤ 80) && l.all fun v => decide (v.length ≤ 126) && v.all fun m => decide (m < 2 ^ 128)
  ok r.reads && ok r.writes

/-- A channel's training result names four ranks (spec/00 R8). -/
def trainingOk (c : ChanTraining) : Bool := decide (c.ranks.length = 4) && c.ranks.all rankTrainingOk

/-- The well-formed commands. -/
def Instr.wf : Instr → Bool
  | .stallTimerExpiry _ _ lpage => decide (lpage < 2 ^ 34)
  | .channelReadData _ (.cellarLine _ lpage _ _) => decide (lpage < 2 ^ 34)
  | .channelReadData _ (.tagLine _ frame line) => decide (frame < 512) && decide (line < 16)
  | .sliceKeyImport _ _ blob => decide (blob < 256 ^ 112)
  | .wrapPeerPublicWrite _ k point => decide (0 < k.val) && decide (point < 256 ^ 97)
  | .wrapKeyDestroy _ k => decide (0 < k.val)
  | .rolePeerPublicWrite _ r point => decide (0 < r.val) && decide (point < 256 ^ 97)
  | .roleDestroy _ r => decide (0 < r.val)
  | .ideKmRequest _ _ keys => decide (keys < 2 ^ 256)
  | .mboxSetEventIntPolicy _ policy => decide (policy.length = 5) && policy.all (fun v => decide (v ≤ 16))
  | .restoreBundleRead _ bundle len => decide (bundle < 256 ^ len)
  | .vopOpen _ f | .vopClose _ f | .vopKeepalive _ f | .vopRead _ f | .vopWrite _ f | .vopReadBegin _ f
  | .vopReadSegment _ f | .vopWriteBegin _ f | .vopWriteSegment _ f | .vopTransferEnd _ f | .vopCatalogueRead _ f
  | .vopSubscribe _ f | .vopNotifyAck _ f | .vopNotifyPoll _ f | .vopClaim _ f | .vopWakeFrame _ f => frameOk f
  | .mboxVopTransport _ f => frameOk f
  | .snapSetWrite _ _ value => decide (value < 256 ^ 1024)
  | .quickRetrainRankDone _ l => decide (l.length = 80) && l.all fun e => decide (e.read < 2 ^ 17) && decide (e.write < 2 ^ 17) && decide (e.eye < 2 ^ 32)
  | .rankRebuildExtent c => c.errors.all fun e => decide (e.1 < 32768) && decide (e.2 < 2 ^ 640)
  | .channelReadData _ (.cellarCacheError _ lpage) => decide (lpage < 2 ^ 34)
  | .channelReadData _ (.heatLine _ group) => decide (group < 2 ^ 28)
  | .dramTrainingDone _ t => decide (t.chans.length = 8) && t.chans.all trainingOk
  | .powerSample _ _ _ branches => decide (branches.length = 16)
  | .ageIntegrate temps => decide (temps.length = 8)
  | .fwUpdateData _ data len => decide (len ≤ 65536) && decide (data < 256 ^ len)
  | .debugUnlock _ token => decide (token < 256 ^ 136)
  | .monitorLogin r answer => decide (0 < r.val) && decide (answer < 2 ^ 128)
  | .monitorOdWrite _ _ value len => decide (value < 256 ^ len)
  | .monitorPeek _ addr len => decide (len ≤ 256) && (decide (addr.toNat + len ≤ 2 ^ 43) || decide (2 ^ 43 ≤ addr.toNat))
  | _ => true

end Sys2Proof
end

