-- ==== Sys2Proof/Certificates/Slice0/Obligations.lean ====
section
/-!
DEFINITION. The statements for the provers: what a step does, what the commands of each family do and leave, when each
command completes, and what every step keeps. Each docstring says what the statement says; OBLIGATIONS.json cites the spec.
-/

open Sys2Proof Sys2Proof.Machine

/-! ## The queue and the step -/

/-- A step runs the command at the front of the queue on the state with the queue's rest. -/
def Obligations.StepRunsFrontCommand : Prop :=
  ∀ (c : Instr) (rest : List Instr) (s : State),
    step { s with pending := c :: rest } = exec c { s with pending := rest }

/-- On an empty queue the time base runs on by 4 ns while the auxiliary supply is present, and nothing else changes: the model's choice of a clock
tick (log entry 7). -/
def Obligations.EmptyQueueStepAdvancesTime : Prop :=
  ∀ s : State, s.pending = [] →
    step s = .next (s.withPart ({ s.part with now := if s.part.power.vaux then (s.part.now + 4) % 2 ^ 64 else s.part.now }))

/-- No command of the table stops the block, from any state, in any number of steps. -/
def Obligations.NoCommandStopsTheBlock : Prop := ∀ (k : Nat) (s : State), Safe k s

/-- Commands run in the order of the queue, each exactly once: after `k` steps the queue is the old one without its first `k` commands, whatever
those commands did. -/
def Obligations.CommandsRunInOrder : Prop :=
  ∀ (k : Nat) (s : State), ∃ t, Host.Core.run Sys2Proof.core k s = .next t ∧ t.pending = s.pending.drop k

/-- Every step keeps the queue well formed: no command puts a command into it. -/
def Obligations.StepKeepsQueueWellFormed : Prop :=
  ∀ s t : State, s.pending.all Instr.wf = true → step s = .next t → t.pending.all Instr.wf = true

/-- The machine after reset: no command waits; the part is powered from VAUX only, in stage 1 of its boot, with package state OFF; the time base
reads 0; no page, DRAM burst, key, session or vintage is there; no port holds a committed decoder and each advertises 512 credits of each kind. Where
the spec names no reset value the zeros are the model's choice (log entries 2 and 5). -/
def Obligations.ResetState : Prop :=
  State.reset.pending = [] ∧
  (∀ e i, i < 65536 → (e, i) ≠ (.bootState, 0) → (e, i) ≠ (.packagePowerState, 0) → (e, i) ≠ (.codebookState, 0) →
    State.reset.part.od e i = e.info.dflt) ∧
  State.reset.part.od .bootState 0 = 1 ∧ State.reset.part.od .packagePowerState 0 = 0 ∧
  State.reset.part.od .codebookState 0 = 1 ∧
  State.reset.part.now = 0 ∧ State.reset.part.logNext = 0 ∧ State.reset.part.vint.inForce = Vintage.none ∧
  (∀ p, State.reset.part.pav p = PavState.zero) ∧
  (∀ k, State.reset.part.keys.sets.get KeySet.zero k = KeySet.zero) ∧
  (∀ k, (State.reset.part.sess k).isOpen = false) ∧
  (∀ i k, (State.reset.part.port i).decoders.get Decoder.zero k = Decoder.zero) ∧
  (∀ i, (State.reset.part.port i).heldReq = 512 ∧ (State.reset.part.port i).heldDat = 512) ∧
  State.reset.part.power.mainPG = false ∧ State.reset.part.power.corePG = false

/-! ## The part's log, the mailbox and the data objects of a port -/

/-- Logging a record changes the log, the sessions' notices, the ports' rings and pending vectors, tallies and what is sent: no other field of the
part, and of the dictionary's store only RING_STATE of a port. With no session open and no notice ring enabled or with records waiting, a record goes
into the log at the place of its number, with its time, code, slice, pavilion and values, the number of the next record rises by 1, and nothing else
changes. -/
def Obligations.LoggingARecord : Prop :=
  (∀ (p : Part) (code a b : Nat) (sl : Option Nat) (pav : Nat),
     Part.only [.log, .logNext, .ports, .delta, .gate, .dict, .out, .freeCtr] p (p.logEv code a b sl pav) ∧
     ∀ e i, e ≠ .ringState → i < 65536 → (p.logEv code a b sl pav).od e i = p.od e i) ∧
  (∀ (p : Part) (code a b : Nat) (sl : Option Nat) (pav : Nat),
     (∀ k < 32, (p.sess k).isOpen = false) →
     (∀ i < 16, ((p.port i).rings.get Ring.zero 2).enabled = false ∧ ((p.port i).rings.get Ring.zero 2).pending = []) →
     p.logEv code a b sl pav =
       { p with log := p.log.put (p.logNext % 65536) ⟨p.now, code, sl, pav, 0, a, b⟩, logNext := p.logNext + 1 })

/-- A mailbox command is answered with its return code and payload; where the mailbox control register names no vector nothing else happens. The
mailbox commands that report what the part is answer Success with the identity, the firmware revision, the supported logs and their bytes, the memory
device, the dynamic-capacity regions, and change nothing. An opcode that the part does not list is answered Unsupported and changes nothing. The
event logs of a port: Get Event Records returns the overflow state and the oldest records, Clear Event Records of all empties the log and clears its
overflow, and the interrupt policy reads back what was set. The poison list of a port: Get Poison List returns up to 510 of its entries with the More
and overflow flags; Clear Poison of an accepted address of a running slice queues a full-line write of the data there. The payloads as lists of
values and the bits of the command effects are the model's (log entries 30 and 31). -/
def Obligations.MailboxCommands : Prop :=
  (∀ (p : Part) (i code : Nat) (payload : List Nat), (p.port i).mboxVector = 0 →
     p.mbox i code payload = { p with out := p.out ++ [.mailbox i code payload] }) ∧
  (∀ (s : State) (i : Port),
     exec (.mboxIdentify i) s = .next (s.withPart (s.part.mbox i 0
       [0x1F8B, 0x0C08, bits s.part.flash.subsys 0 16, bits s.part.flash.subsys 16 16, s.part.flash.serial, 13, 3])) ∧
     exec (.mboxGetFwInfo i) s = .next (s.withPart (s.part.mbox i 0 [1, 1, 0, 0, s.part.boot.version])) ∧
     exec (.mboxGetSupportedLogs i) s = .next (s.withPart (s.part.mbox i 0 [1, 4 * mboxEffects.length])) ∧
     (∀ offset len, offset + len ≤ 4 * mboxEffects.length → ∃ l : List Nat, l.length = len ∧
       exec (.mboxGetLog i true offset len) s = .next (s.withPart (s.part.mbox i 0 l)) ∧
       ∀ k < len, l[k]? = (mboxEffects.flatMap fun e => [e.1 % 256, e.1 / 256 % 256, e.2 % 256, e.2 / 256 % 256])[offset + k]?) ∧
     exec (.mboxIdentifyMemoryDevice i) s = .next (s.withPart (s.part.mbox i 0
       [s.part.boot.version, 0, 0, 0, 512, 512, 512, 512, 512, 0, 1024, 0])) ∧
     exec (.mboxGetDcConfiguration i) s = .next (s.withPart (s.part.mbox i 0
       (8 :: (List.range 8).flatMap fun r => [r * 2 ^ 45, 2 ^ 45, 2 ^ 21, r])))) ∧
  (∀ (s : State) (i : Port) (op : BitVec 16), (∀ e ∈ mboxEffects, e.1 ≠ op.toNat) →
     exec (.mboxUnsupported i op) s = .next (s.withPart (s.part.mbox i 3 []))) ∧
  (∀ (s : State) (i : Port) (log : Fin 5),
     (let g := (s.part.port i).logs.get EventLog.zero log
      exec (.mboxGetEventRecords i log) s = .next (s.withPart (s.part.mbox i 0
       ([b2n (g.overflow != 0) + 2 * b2n (decide (63 < g.records.length)), g.overflow, g.firstTime, g.lastTime, min 63 g.records.length] ++
         (g.records.take 63).flatMap EventRec.fields)))) ∧
     (∀ handles, exec (.mboxClearEventRecords i log true handles) s = .next (s.withPart
       ((s.part.onPort i fun t => { t with
         logs := t.logs.set EventLog.zero log { t.logs.get EventLog.zero log with records := [], overflow := 0, firstTime := 0, lastTime := 0 } }).mbox i 0 []))) ∧
     exec (.mboxGetEventIntPolicy i) s = .next (s.withPart (s.part.mbox i 0 (s.part.port i).policy)) ∧
     (∀ policy : List Nat, policy.length = 5 → (∀ v ∈ policy, v ≤ 16) →
       exec (.mboxSetEventIntPolicy i policy) s =
         .next (s.withPart ((s.part.onPort i fun t => { t with policy := policy }).mbox i 0 [])))) ∧
  (∀ (s : State) (i : Port),
     exec (.mboxGetPoisonList i) s = .next (s.withPart (s.part.mbox i 0
       ([b2n (decide (510 < (s.part.port i).poison.length)) + 2 * b2n (s.part.port i).poisonOver.isSome,
         (s.part.port i).poisonOver.getD 0, min 510 (s.part.port i).poison.length] ++
         ((s.part.port i).poison.take 510).flatMap fun e => [e.dpa, e.units, 2]))) ∧
     ∀ (dpa : U64) (data : Line) (sl logical : Nat), s.part.ofDpa i dpa.toNat = some (sl, logical) →
       exec (.mboxClearPoison i dpa data) s = .next (s.withPart ((s.part.enqueue ⟨.write, i, 0, ones64, dpa.toNat, sl, logical / 64 * 64, data.toNat, 0, s.part.vint.bank,
           s.part.od .portEpoch i, false⟩).mbox i 0 [])))

/-- Get Timestamp returns the time base. Set Timestamp under another source or on another port than TIME_HOST_PORT returns Success, changes nothing
and adds 1 to TIME_SETS_IGNORED; under source HOST on that port it steps the time base to the time given. -/
def Obligations.MailboxTimestamp : Prop :=
  ∀ (s : State) (i : Port) (time : U64),
    exec (.mboxGetTimestamp i) s = .next (s.withPart (s.part.mbox i 0 [s.part.now])) ∧
    (¬(s.part.od0 .timeSource = 2 ∧ s.part.od0 .timeHostPort = i.val) →
      exec (.mboxSetTimestamp i time) s = .next (s.withPart ((s.part.count .timeSetsIgnored 0).mbox i 0 []))) ∧
    (s.part.od0 .timeSource = 2 → s.part.od0 .timeHostPort = i.val →
      ∃ p : Part, exec (.mboxSetTimestamp i time) s = .next (s.withPart (p.mbox i 0 [])) ∧ p.now = time.toNat)

/-- DOE Discovery walks the four data objects of the port and ends with an empty entry; a CDAT read gives the memory ranges of the eight regions and
the latency and bandwidth entries. Nothing else changes. SPDM over DOE: versions 1.1 and 1.2, the certificate chain, a signed challenge and signed
measurements, two secured sessions at a time. In an open secured session IDE_KM sets the keys and link IDE is in force. The payloads as lists of
values are the model's (log entry 43). -/
def Obligations.DataObjectsAndLinkKeys : Prop :=
  (∀ (s : State) (i : Port),
     (∀ k, exec (.doeDiscovery i k) s = .next (s.withPart (s.part.emit (.doe i 0
       (match k with
        | 0 => [1, 0, 1] | 1 => [1, 1, 2] | 2 => [1, 2, 3] | 3 => [0x1E98, 2, 0] | _ => [0xFFFF, 0xFF, 0]))))) ∧
     (∀ r < 8, exec (.cdatRead i r) s = .next (s.withPart (s.part.emit (.doe i 2 [0, r, r * 2 ^ 45, 2 ^ 45]))))) ∧
  (∀ (s : State) (i : Port),
     (∀ v, exec (.spdmRequest i (.getVersion v)) s = .next (s.withPart (s.part.emit (.doe i 1 [0x04, 0x11, 0x12])))) ∧
     (∀ offset len c, s.part.flash.trust.cert = some c →
       exec (.spdmRequest i (.getCertificate offset len)) s =
         .next (s.withPart (s.part.emit (.doe i 1 ([0x02, offset, len] ++ s.part.chain c))))) ∧
     (∀ index nonce l, s.part.measurement index = some l →
       exec (.spdmRequest i (.getMeasurements index nonce)) s =
         .next (s.withPart (({ s.part with freeCtr := s.part.freeCtr + 1 } : Part).emit
           (.doe i 1 ([0x60, index, nonce] ++ l ++ [Config.signature s.part.freeCtr]))))) ∧
     (bit (s.part.port i).spdm 0 = false →
       exec (.spdmRequest i .openSession) s = .next (s.withPart (((s.part.onPort i fun t => { t with spdm := setBit t.spdm 0 true }).setOd .spdmSessions i
           (s.part.od .spdmSessions i + 1)).emit (.doe i 1 [0x64, 0])))) ∧
     (bit (s.part.port i).spdm 0 = true → bit (s.part.port i).spdm 1 = true →
       exec (.spdmRequest i .openSession) s = .next (s.withPart (s.part.emit (.doe i 1 [0x7F, 3])))) ∧
     (∀ (k : Fin 2) (keys : Nat), bit (s.part.port i).spdm k = true →
       exec (.ideKmRequest i k keys) s = .next (s.withPart (((s.part.onPort i fun t => { t with ideKeys := keys }).setOd .ideState i 1).emit (.doe i 3 [0])))))

/-! ## Host ports -/

/-- PERST#, a link that goes down, a hot reset and a link disable apply a conventional reset to a port in service: its decoders are uncommitted, its
epoch rises by 1, nothing waits unforwarded, bus mastering is off and every window closed, the mailbox is idle, the port is in D0 without a link and
holds the credits of a new link, its base addresses are 0. Region maps and extent masks stay, and the state of every slice. A CXL Reset raises the epoch and uncommits the
decoders and leaves the link and the windows; a function-level reset counts in FLR_COUNT, stops bus mastering, closes every window, clears the base addresses and empties the
mailbox and MSI-X state, and leaves the decoders and the link: CXL.mem goes on. -/
def Obligations.PortResets : Prop :=
  (∀ (s : State) (i : Port) (c : Instr) (x : Nat),
     (c, x) ∈ [(.perstAssert i, 1), (.portLinkDown i, 1), (.portHotReset i, 2), (.portLinkDisable i, 1)] →
     s.part.od .portState i ≠ 0 → s.part.rest.inRest = false →
     ∃ p, exec c s = .next (s.withPart p) ∧
       (p.port i).decoders = [] ∧ (p.port i).park = [] ∧
       (∀ e ∈ (p.port i).parts, e.2.queue = [] ∧ e.2.hold = []) ∧
       (p.port i).windows = [] ∧ (p.port i).bme = false ∧ (p.port i).mboxBusy = none ∧ (p.port i).spdm = 0 ∧
       (p.port i).heldReq = 512 ∧ (p.port i).heldDat = 512 ∧ (p.port i).bars = [] ∧
       (p.port i).regionMap = (s.part.port i).regionMap ∧ (p.port i).masks = (s.part.port i).masks ∧
       p.od .portEpoch i = (s.part.od .portEpoch i + 1) % 2 ^ 32 ∧
       p.od .portState i = x ∧ p.od .portLinkSpeed i = 0 ∧ p.od .portLinkWidth i = 0 ∧ p.od .portDState i = 0 ∧
       (∀ sl < 4096, p.od .sliceState sl = s.part.od .sliceState sl) ∧
       Part.only [.dict, .delta, .ports, .slices, .pavs, .vint, .log, .logNext, .gate, .out, .freeCtr, .rest] s.part p) ∧
  (∀ (s : State) (i : Port), s.part.od .portState i ≠ 0 →
     (∃ p, exec (.cxlReset i) s = .next (s.withPart p) ∧
       (p.port i).decoders = [] ∧ (p.port i).park = [] ∧ (∀ e ∈ (p.port i).parts, e.2.queue = [] ∧ e.2.hold = []) ∧
       p.od .portEpoch i = (s.part.od .portEpoch i + 1) % 2 ^ 32 ∧ p.od .portState i = s.part.od .portState i ∧
       (p.port i).windows = (s.part.port i).windows ∧ (p.port i).bme = (s.part.port i).bme ∧
       (p.port i).regionMap = (s.part.port i).regionMap ∧ (p.port i).masks = (s.part.port i).masks ∧
       ∀ sl < 4096, p.od .sliceState sl = s.part.od .sliceState sl) ∧
     (∃ p, exec (.functionLevelReset i) s = .next (s.withPart p) ∧
       (p.port i).windows = [] ∧ (p.port i).bme = false ∧ (p.port i).mboxBusy = none ∧ (p.port i).msixMask = 0 ∧
       (p.port i).msixPending = 0 ∧ (p.port i).bars = [] ∧
       (p.port i).decoders = (s.part.port i).decoders ∧ (p.port i).parts = (s.part.port i).parts ∧
       (p.port i).park = (s.part.port i).park ∧ p.od .portEpoch i = s.part.od .portEpoch i ∧
       p.od .portState i = s.part.od .portState i ∧
       ∀ sl < 4096, p.od .sliceState sl = s.part.od .sliceState sl))

/-- Clearing Bus Master Enable stops bus mastering, setting it allows it, and a window write changes the window it names as the register does: while
the window is enabled only ENABLE can change. Decoders, partitions and the other windows stay. -/
def Obligations.BusMasterAndWindows : Prop :=
  ∀ (s : State) (i : Port),
    (∃ p, exec (.busMasterEnableClear i) s = .next (s.withPart p) ∧
      (p.port i).bme = false ∧ (p.port i).windows = (s.part.port i).windows ∧
      (p.port i).decoders = (s.part.port i).decoders ∧ (p.port i).parts = (s.part.port i).parts) ∧
    (∃ p, exec (.busMasterEnableSet i) s = .next (s.withPart p) ∧
      (p.port i).bme = true ∧ (p.port i).windows = (s.part.port i).windows ∧
      (p.port i).decoders = (s.part.port i).decoders ∧ (p.port i).parts = (s.part.port i).parts) ∧
    (s.part.od .portDState i ≠ 0 →
      exec (.busMasterEnableSet i) s = .next (s.withPart (s.part.onPort i fun t => { t with bme := true }))) ∧
    (∀ (k : Fin 16) (value : BitVec 256), ∃ p, exec (.bmWindowWrite i k value) s = .next (s.withPart p) ∧
      (∀ j, (p.port i).windows.get Window.zero j =
        (let w := (s.part.port i).windows.get Window.zero j
         if j = k.val then
          (if w.enable then { w with enable := bit value.toNat 159 }
           else ⟨bits value.toNat 12 52 * 4096, bits value.toNat 76 52 * 4096, bits value.toNat 128 20, bit value.toNat 157,
            bit value.toNat 159⟩)
         else w)) ∧
      (p.port i).bme = (s.part.port i).bme ∧ (p.port i).decoders = (s.part.port i).decoders ∧
      (p.port i).parts = (s.part.port i).parts)

/-- A port out of PERST# trains; a trained link is at the highest rate and width that the host offers and the limits allow, in 68 B flits at 32 GT/s
at most where the host has no 256 B flits; ASPM L1 makes the port LOW_POWER and back. The host moves the port between D0, D3hot and D3cold:
PORT_D_STATE reads the new state, PME_En is what the host wrote, and the decoders, windows and partitions stay. -/
def Obligations.PortLinkAndDStates : Prop :=
  (∀ (s : State) (i : Port),
     (s.part.rest.inRest = false → s.part.rest.step = none → s.part.od .portState i = 1 →
       exec (.perstDeassert i) s = .next (s.withPart
         ((s.part.onPort i fun t => { t with perst := false }).setOd .portState i 2))) ∧
     (∀ (speed width : Nat) (flit256 : Bool) (v n : Nat),
       s.part.od .portState i = 2 → (s.part.port i).perst = false → s.part.od .pavilionPowerState (i / 2) ≠ 1 →
       v ∈ [8, 16, 32, 64] → v ≤ speed → (flit256 = false → v ≤ 32) → v ≤ s.part.od .portSpeedLimit i →
       (∀ u ∈ [8, 16, 32, 64], u ≤ speed → (flit256 = false → u ≤ 32) → u ≤ s.part.od .portSpeedLimit i → u ≤ v) →
       n ∈ [4, 8, 16] → n ≤ width → n ≤ s.part.od .portWidthLimit i →
       (∀ u ∈ [4, 8, 16], u ≤ width → u ≤ s.part.od .portWidthLimit i → u ≤ n) →
       exec (.portLinkTrained i speed width flit256) s = .next (s.withPart
         ((((s.part.setOd .portLinkSpeed i v).setOd .portLinkWidth i n).setOd .portFlitMode i (if flit256 then 2 else 1)).setOd
           .portState i (if s.part.od0 .bootState < 7 then 3 else 4)))) ∧
     (s.part.od .portState i = 4 →
       exec (.aspmL1Transition i true) s = .next (s.withPart
         ((s.part.onPort i fun t => { t with inL1 := true }).setOd .portState i 5))) ∧
     (s.part.od .portState i = 5 → s.part.od .pavilionPowerState (i / 2) ≠ 1 →
       exec (.aspmL1Transition i false) s = .next (s.withPart
         ((s.part.onPort i fun t => { t with inL1 := false }).setOd .portState i 4)))) ∧
  (∀ (s : State) (i : Port) (d : Fin 3) (pme : Bool), (s.part.od .portDState i = 0 ∨ d.val ≠ 0 ∨ (s.part.port i).bme = false) →
     ∃ p, exec (.pmDStateChange i d pme) s = .next (s.withPart p) ∧
       p.od .portDState i = d.val ∧ (p.port i).pmeEn = pme ∧
       (p.port i).decoders = (s.part.port i).decoders ∧ (p.port i).windows = (s.part.port i).windows ∧
       (p.port i).parts = (s.part.port i).parts)

/-- A decoder of a supported kind commits as the host wrote it and uncommits; a decoder of no supported kind changes nothing. Every other decoder
stays. A failed MAC of link IDE makes the port INSECURE: its keys go, and the link goes down as by a conventional reset. A Completion Timeout raises
its bit in AER_UE_STATUS and faults the ring whose read it was. -/
def Obligations.DecodersSecurityAndTimeout : Prop :=
  (∀ (s : State) (i : Port) (k : Fin 8) (base size skip : U64) (ways granularity position : Nat),
     (ways ∈ [1, 2, 3, 4, 6, 8, 12, 16] → granularity ∈ [256, 512, 1024, 2048, 4096, 8192, 16384] → position < ways →
       size ≠ 0 →
       exec (.hdmDecoderCommit i k true base size ways granularity position skip) s = .next (s.withPart
         (s.part.onPort i fun t => { t with
           decoders := t.decoders.set Decoder.zero k ⟨true, base.toNat, size.toNat, ways, granularity, position, skip.toNat⟩ }))) ∧
     exec (.hdmDecoderCommit i k false base size ways granularity position skip) s = .next (s.withPart
       (s.part.onPort i fun t => { t with decoders := t.decoders.set Decoder.zero k Decoder.zero })) ∧
     (ways ∉ [1, 2, 3, 4, 6, 8, 12, 16] ∨ granularity ∉ [256, 512, 1024, 2048, 4096, 8192, 16384] ∨ ways ≤ position ∨ size = 0 →
       exec (.hdmDecoderCommit i k true base size ways granularity position skip) s = .next s)) ∧
  (∀ (s : State) (i : Port),
     (s.part.od .ideState i = 1 → s.part.od .portState i ≠ 0 →
       ∃ p, exec (.ideMacFailure i) s = .next (s.withPart p) ∧
         p.od .ideState i = 2 ∧ (p.port i).ideKeys = 0 ∧ p.od .portState i = 1 ∧ (p.port i).decoders = []) ∧
     (∀ r : Fin 4, r.val < 3 → ((s.part.port i).rings.get Ring.zero r).enabled = true →
       ((s.part.port i).rings.get Ring.zero r).faulted = false →
       exec (.completionTimeout i r) s = .next (s.withPart
         ((s.part.setOd .aerUeStatus i (setBit (s.part.od .aerUeStatus i) 14 true)).ringFault i r))))

/-! ## Requests at the ingress pavilion -/

/-- A read, a write and a partial write of a line that the slice decoder finds in a RUNNING slice bound to the port are queued: at the end of the
slice's partition, or of the park ring when the partition is full or the slice has parked requests. The request carries its logical address, the
port's epoch and the bank's stamp. DRAM, channels and links stay as they are. -/
def Obligations.HostRequestIsQueued : Prop :=
  ∀ (s : State) (i : Port) (hpa : U64) (tag sl : Nat) (d : Decoder) (l : Line) (c : Instr) (kind : ReqKind) (data mask : Nat),
    (c = .memRd i hpa tag ∧ kind = .read ∧ data = 0 ∧ mask = 0 ∧ (s.part.port i).heldReq ≠ 0) ∨
    (c = .memWr i hpa tag l false ∧ kind = .write ∧ data = l.toNat ∧ mask = 0 ∧ (s.part.port i).heldDat ≠ 0) ∨
    (∃ m : U64, m ≠ 0 ∧ c = .memWrPtl i hpa tag m l false ∧ kind = .partWrite ∧ data = l.toNat ∧ mask = m.toNat ∧
      (s.part.port i).heldDat ≠ 0) →
    s.part.od .ideState i ≠ 2 → (s.part.port i).decoderOf hpa.toNat = some d →
    bit ((s.part.port i).regionMap.get 0 (d.dpa hpa.toNat / 2 ^ 30)) 31 = true →
    bits ((s.part.port i).regionMap.get 0 (d.dpa hpa.toNat / 2 ^ 30)) 16 12 = sl →
    bit ((s.part.port i).masks.get 0 (d.dpa hpa.toNat / 2 ^ 30)) (d.dpa hpa.toNat % 2 ^ 30 / 2 ^ 21) = true →
    s.part.od .slicePort sl = i → s.part.od .sliceState sl = 2 →
    let full := (s.part.port i).park.any (·.slice == sl) || decide ((s.part.part i sl).reserved ≤ (s.part.part i sl).inUse)
    let r : Req := ⟨kind, i, tag, hpa.toNat, d.dpa hpa.toNat, sl,
      bits ((s.part.port i).regionMap.get 0 (d.dpa hpa.toNat / 2 ^ 30)) 0 16 * 2 ^ 30 + d.dpa hpa.toNat % 2 ^ 30,
      data, mask, s.part.vint.bank, s.part.od .portEpoch i, true⟩
    ∃ p, exec c s = .next (s.withPart p) ∧
      (p.port i).park = (s.part.port i).park ++ (if full then [r] else []) ∧
      (p.part i sl).queue = (s.part.part i sl).queue ++ (if full then [] else [r]) ∧
      p.pavs = s.part.pavs ∧ p.chans = s.part.chans ∧ p.links = s.part.links

/-- MemSpecRd is discarded, MemInv and a partial write without an enabled byte are answered with Cmp and make no access, and an unsupported message
is discarded and raises Rsvd_Encoding_Violation, with Receiver_Overflow when it came without a credit. -/
def Obligations.MessagesWithoutAccess : Prop :=
  ∀ (s : State) (i : Port) (hpa : U64) (tag : Nat) (l : Line),
    ((s.part.port i).heldReq ≠ 0 → (s.part.port i).heldReq + (s.part.port i).heldDat + (s.part.port i).park.length ≤ 65536 →
      (∃ p, exec (.memSpecRd i hpa) s = .next (s.withPart p) ∧ p.port i = s.part.port i ∧ Part.only [.ports] s.part p) ∧
      (∃ p, exec (.memInv i hpa tag) s = .next (s.withPart p) ∧ p.port i = s.part.port i ∧
        p.out = s.part.out ++ [.cmp i tag] ∧ Part.only [.ports, .out] s.part p)) ∧
    ((s.part.port i).heldDat ≠ 0 → (s.part.port i).heldReq + (s.part.port i).heldDat + (s.part.port i).park.length ≤ 65536 →
      ∃ p, exec (.memWrPtl i hpa tag 0 l false) s = .next (s.withPart p) ∧ p.port i = s.part.port i ∧
        p.out = s.part.out ++ [.cmp i tag] ∧ Part.only [.ports, .out] s.part p) ∧
    (∀ credit : Bool, exec (.m2sUnsupportedMessage i credit) s = .next (s.withPart
      (s.part.setOd .rasUeStatus i (s.part.od .rasUeStatus i ||| 2 ^ 9 ||| (if credit then 0 else 2 ^ 11)))))

/-- The first request of a partition's queue is forwarded to the home of its page: it leaves the queue, takes the pavilion's next tag, and stands as
forwarded with that home. It goes only where no ceiling is set and its page is not held. -/
def Obligations.PartitionHeadIsForwarded : Prop :=
  ∀ (s : State) (i : Port) (sl : Slice) (r : Req) (rest : List Req) (home : Nat),
    (s.part.part i sl).queue = r :: rest → r.port = i → r.slice = sl → (s.part.part i sl).free r = true →
    (s.part.part i sl).hold.length < 16 → (s.part.part i sl).hold.any (·.lpage == r.lpage) = false →
    s.part.parked (0x0200 + i) = false → s.part.od .sliceCeilingRead sl = 0 → s.part.od .sliceCeilingWrite sl = 0 →
    s.part.homeOf sl r.lpage = some home → s.part.pstate home ≠ 5 →
    ∃ p via, exec (.ingressForward i sl) s = .next (s.withPart p) ∧
      (p.part i sl).queue = rest ∧
      (p.part i sl).forwarded = (s.part.part i sl).forwarded ++
        [⟨r, (s.part.pav (portPav i)).nextTag, home, via, false, false, false, false, 0⟩] ∧
      (p.part i sl).hold = (s.part.part i sl).hold ∧ p.chans = s.part.chans ∧ p.slices = s.part.slices

/-- A response of the right epoch answers its request: READ_DATA sends the line to the host, COMPLETION sends Cmp, each for the request it carries
the tag of, which then has no entry; a response of an older epoch sends nothing. -/
def Obligations.ResponsesAnswerTheHost : Prop :=
  ∀ (s : State) (q : Pav) (m : Msg) (t : Part) (i : Nat) (f : Fwd),
    (s.part.takeMsg q 5 = some (m, t) → t.findFwd q m = some (i, f) → f.req.epoch = s.part.od .portEpoch i → m.status = 0 →
      t.squashing m.slice = false → f.req.kind = .read → f.req.answer = true →
      ∃ p, exec (.promReadData q) s = .next (s.withPart p) ∧
        p.out = s.part.out ++ [.memData f.req.port f.req.hostTag m.data false] ∧
        (∀ g ∈ (p.part i m.slice).forwarded, g.tag ≠ m.tag) ∧ p.chans = s.part.chans ∧ p.links = s.part.links) ∧
    (s.part.takeMsg q 6 = some (m, t) → t.findFwd q m = some (i, f) → f.req.epoch = s.part.od .portEpoch i → m.status = 0 →
      t.squashing m.slice = false → f.req.kind = .write → f.req.answer = true → s.part.heldWrites m.slice = 0 →
      ∃ p, exec (.promCompletion q) s = .next (s.withPart p) ∧
        p.out = s.part.out ++ [.cmp f.req.port f.req.hostTag] ∧
        (∀ g ∈ (p.part i m.slice).forwarded, g.tag ≠ m.tag) ∧ p.chans = s.part.chans ∧ p.links = s.part.links) ∧
    (∀ op c, (op = 5 ∧ c = Instr.promReadData q) ∨ (op = 6 ∧ c = Instr.promCompletion q) →
      s.part.takeMsg q op = some (m, t) → t.findFwd q m = some (i, f) → f.req.epoch ≠ s.part.od .portEpoch i →
      ∃ p, exec c s = .next (s.withPart p) ∧ p.out = s.part.out ∧ p.chans = s.part.chans ∧ p.links = s.part.links)

/-- A held write whose page has room again, and one whose stall timer has run out, is resent to the home of now with the bank's stamp; it keeps its
place in the hold list until it is completed. A timer that runs out while the write is being resent is noted. -/
def Obligations.HeldWritesAreResent : Prop :=
  ∀ (s : State) (i : Port) (q : Pav) (sl : Slice) (lp home : Nat) (r : Req) (more : List Req), q.val = i.val / 2 →
    r.port = i → r.slice = sl → r.lpage = lp → s.part.homeOf sl lp = some home → s.part.pstate home ≠ 5 →
    (∀ (src n : Nat) (x : Bool) (m : Msg) (t : Part), (s.part.part i sl).hold = [⟨lp, r :: more, src, false, x, n⟩] →
      s.part.takeMsg q 7 = some (m, t) → m.addr = sl → m.src = src →
      (s.part.part i sl).forwarded = [] → (∀ j, j ≠ i.val → s.part.part j sl = Partition.none) →
      ∃ p via, exec (.promCapacityNotice q) s = .next (s.withPart p) ∧
        (p.part i sl).hold = [⟨lp, { r with stamp := s.part.vint.bank } :: more, src, true, x, n⟩] ∧
        (p.part i sl).forwarded = [⟨{ r with stamp := s.part.vint.bank }, (t.pav (portPav i)).nextTag, home, via, false, false, false, true, 0⟩]) ∧
    (∀ (src n : Nat), (s.part.part i sl).hold = [⟨lp, r :: more, src, false, false, n⟩] →
      ∃ p via, exec (.stallTimerExpiry i sl lp) s = .next (s.withPart p) ∧
        (p.part i sl).hold = [⟨lp, { r with stamp := s.part.vint.bank } :: more, src, true, false, n⟩] ∧
        (p.part i sl).forwarded = (s.part.part i sl).forwarded ++
          [⟨{ r with stamp := s.part.vint.bank }, (s.part.pav (portPav i)).nextTag, home, via, false, false, false, true, 0⟩]) ∧
    (∀ (src n : Nat), (s.part.part i sl).hold = [⟨lp, r :: more, src, true, false, n⟩] →
      ∃ p, exec (.stallTimerExpiry i sl lp) s = .next (s.withPart p) ∧
        (p.part i sl).hold = [⟨lp, r :: more, src, true, true, n⟩] ∧
        (p.part i sl).forwarded = (s.part.part i sl).forwarded)

/-- A management request that reaches a block is answered with a response to where it came from; a response that reaches the gatehouse leaves the
inbox. -/
def Obligations.ManagementMessages : Prop :=
  ∀ (s : State) (q : Pav) (m : Msg) (t : Part),
    (s.part.takeMsg q 10 = some (m, t) → exec (.promMgmtRequest q) s = .next (s.withPart
      (t.send q 11 { m with opcode := 11, src := q, dst := m.src }))) ∧
    (s.part.takeMsg q 11 = some (m, t) → exec (.promMgmtResponse q) s = .next (s.withPart t))

/-! ## Reads and writes on the home pavilion -/

/-- A read on its home, of a page that is not held and whose region is homed there: a ZERO page answers with zeros, poisoned when the page is; a HOT
page looks its line's tag-region entry up and starts a task that reads the line's burst, a WARM page one that reads its cask's bursts. Before it
DRAM, the cellar book, the tag region and the links are as they were; where the cellar-book cache holds the page's entry the dictionary and the
channels are too, else the entry's line is read from DRAM (log entry 203). -/
def Obligations.ReadsOnTheirHome : Prop :=
  ∀ (s : State) (p : Pav) (m : Msg) (t : Part), s.part.takeReq p 0 = some (m, t) → t.squashing m.slice = false →
    t.regionHeld p m = false → t.homeOf m.slice m.lpage = some p.val → t.isHeld p m.slice m.lpage = false →
    t.bounced p m = false → (t.needSlots (t.cell p m.slice m.lpage) m.slice).any (t.keyAway p m.slice) = false →
    ∃ u : Part, u.links = s.part.links ∧
      (t.cellCached p m.slice m.lpage = true → u.dict = s.part.dict ∧ u.chans = s.part.chans) ∧
      (∀ q, (u.pav q).cellar = (s.part.pav q).cellar ∧ (u.pav q).dram = (s.part.pav q).dram ∧ (u.pav q).tags = (s.part.pav q).tags) ∧
      ((t.cell p m.slice m.lpage).tier = tierZero → exec (.promRead p false) s = .next (s.withPart
        (u.respond m (b2n (t.cell p m.slice m.lpage).poison) 0))) ∧
      ((t.cell p m.slice m.lpage).tier = tierHot → t.ownerOk p m.slice (t.cell p m.slice m.lpage) = true →
        exec (.promRead p false) s = .next (s.withPart
          ((u.lookTag p m.slice (burstOf (t.cell p m.slice m.lpage).loc + m.line)).newTask p .readLine m
            [burstOf (t.cell p m.slice m.lpage).loc + m.line] 0))) ∧
      ((t.cell p m.slice m.lpage).tier = tierWarm → t.ownerOk p m.slice (t.cell p m.slice m.lpage) = true →
        exec (.promRead p false) s = .next (s.withPart
          (u.newTask p .readCask m (slotBursts (t.cell p m.slice m.lpage).slotClass (t.cell p m.slice m.lpage).loc) 0)))

/-- Writes on their home, of a page as above that no move copies. A full write to a HOT page stores the line with a version one up, a partial write
reads the line to merge, a poison request on a line that is not poisoned poisons it LINK_LOSS; each looks the line's tag-region entry up first. A
full write of zeros to a ZERO page changes nothing and completes. -/
def Obligations.WritesOnTheirHome : Prop :=
  ∀ (s : State) (p : Pav) (op : Nat) (m : Msg) (t : Part), s.part.takeReq p op = some (m, t) → m.opcode = op →
    t.squashing m.slice = false → m.status ≠ 7 →
    t.regionHeld p m = false → t.homeOf m.slice m.lpage = some p.val → t.isHeld p m.slice m.lpage = false →
    t.bounced p m = false → (t.needSlots (t.cell p m.slice m.lpage) m.slice).any (t.keyAway p m.slice) = false →
    (t.cell p m.slice m.lpage).moving = false → t.ownerOk p m.slice (t.cell p m.slice m.lpage) = true →
    let c := t.cell p m.slice m.lpage
    let x := burstOf c.loc + m.line
    let e := t.lineEnt p m.slice x
    ∃ u : Part, u.links = s.part.links ∧
      (t.cellCached p m.slice m.lpage = true → u.dict = s.part.dict ∧ u.chans = s.part.chans) ∧
      (∀ q, (u.pav q).cellar = (s.part.pav q).cellar ∧ (u.pav q).dram = (s.part.pav q).dram ∧ (u.pav q).tags = (s.part.pav q).tags) ∧
      let h := u.lookTag p m.slice x
      (op = 1 → c.tier = tierHot → exec (.promWrite p false) s = .next (s.withPart
        (((h.classFor p m.slice 1 1).2.storeLine p m.slice m.lpage m.line c.loc c.keySel (m.data % 2 ^ 512) (e.version + 1) 0 e.info
          m.slice (h.classFor p m.slice 1 1).1).respond m 0 0))) ∧
      (op = 2 → c.tier = tierHot → exec (.promWritePartial p false) s = .next (s.withPart (h.newTask p .mergeLine m [x] 0))) ∧
      (op = 3 → c.tier = tierHot → metaPoisoned e.info = false → exec (.promPoisonLine p) s = .next (s.withPart
        ((h.poisonLine p m.slice m.lpage m.line c (h.burstNow p x) causeLinkLoss).respond m 0 0))) ∧
      (op = 1 → c.tier = tierZero → c.poison = false → m.data % 2 ^ 512 = 0 →
        exec (.promWrite p false) s = .next (s.withPart (u.respond m 0 0)))

/-- A line stored in a page of a slice with TAG-SPLIT lines, in a rank that is not LOST: its tag-region entry holds the new version, its tag and its
META, and its channel's write queue ends with its ciphertext under the line code. -/
def Obligations.LineIsStored : Prop :=
  ∀ (s : Part) (p sl lpage x cipher version tag mt old who label : Nat), s.inline sl = false → s.burstLost p x = false →
    p < 8 → sl < 4096 → (s.placeOf p x).chan p * 4 + s.rankAt ((s.placeOf p x).chan p) (s.placeOf p x).layer x < 256 →
    let t := s.putLine p sl lpage x cipher version tag mt old who label
    t.tagEnt p x = ⟨version, tag, mt⟩ ∧ t.queued p x = some (sddcEncode cipher) ∧
      (∀ y, y ≠ x → t.tagEnt p y = s.tagEnt p y) ∧ t.links = s.links ∧ t.ports = s.ports

/-- A mirror copy takes the change that its home sent: the entry reads as sent, and the home's commit is complete: it answers the write that waited
for it, ends the page's hold and frees what the page held before. -/
def Obligations.MirrorTakesTheChange : Prop :=
  ∀ (s : State) (p : Pav) (m : Msg) (t : Part) (w : MirrorWait) (rest : List MirrorWait), s.part.takeMsg p 4 = some (m, t) →
    t.mirrorOf (m.addr / 2 ^ 34) (m.addr % 2 ^ 34) = some p.val →
    (t.pav m.src).mirrorWait = w :: rest → w.key = m.addr →
    ∃ u : Part, exec (.promMirrorWrite p) s = .next (s.withPart
        (u.commitDone m.src (m.addr / 2 ^ 34) (m.addr % 2 ^ 34) w.answer w.old)) ∧
      u.mirrorCell p (m.addr / 2 ^ 34) (m.addr % 2 ^ 34) = Cell.decode m.data ∧ (u.pav m.src).mirrorWait = rest ∧
      (∀ k, k ≠ m.addr → ∀ d, (u.pav p).mirror.get d k = (t.pav p).mirror.get d k) ∧ Part.only [.pavs, .chans] s.part u

/-! ## Channels and DRAM -/

/-- An open slot serves the one ready request of its bank group, whose row is open: a write goes into DRAM, where its burst is read or in flight it
makes that read old, a read is in flight with what DRAM holds, and the queue is empty. A channel that is not in service serves nothing; one that
holds its requests for a retrain serves no request, and its time passes. -/
def Obligations.SlotServesTheQueue : Prop :=
  ∀ (s : State) (c : Chan) (u : Sub) (k : Fin 1024) (busy guard : BitVec 16) (q : QEnt),
    (s.part.od .channelState c ≠ 2 → exec (.slotServe c u k busy guard) s = .next s) ∧
    ((s.part.chan c).retrain ≠ [] → ∃ p, exec (.slotServe c u k busy guard) s = .next (s.withPart p) ∧
      (p.chan c).queue = (s.part.chan c).queue ∧ (p.chan c).inflight = (s.part.chan c).inflight ∧
      (p.chan c).withheld = (s.part.chan c).withheld ∧ Part.only [.chans] s.part p) ∧
    (s.part.od .channelState c = 2 → (s.part.chan c).retrain = [] → (s.part.chan c).throttled = [] → (s.part.chan c).rfmDue = [] →
      (s.part.addDebt c u).refreshDue c u (postponeLimit * s.part.refreshUnit c) = none → s.part.atWatermark c q = false →
      q.line = false → bits (s.part.descriptor c k) 10 5 = ownOpen → bit (s.part.descriptor c k) 15 = q.write →
      (s.part.chan c).queue = [q] → q.sub = u → q.group = (k + (s.part.pav (c / 8)).frame) % 8 → q.label = ownOpen →
      q.owner < 4096 → busy.toNat.testBit q.bank = false → guard.toNat.testBit q.bank = false →
      (s.part.chan c).rowOpen q = true → s.part.od .flipStatus c ≠ 1 → s.part.openSize (c / 8) q.write ≠ 0 →
      ∃ p, exec (.slotServe c u k busy guard) s = .next (s.withPart p) ∧ (p.chan c).queue = [] ∧
        (q.write = true →
          (p.chan c).inflight = (s.part.chan c).inflight.map (fun r => if r.burst = q.burst then { r with stale := true } else r) ∧
          (p.pav (c / 8)).dram = (if s.part.unstored (c / 8) q.burst then (s.part.pav (c / 8)).dram
            else (s.part.pav (c / 8)).dram.set zeroBurst q.burst (q.value % 2 ^ 640))) ∧
        (q.write = false → (p.chan c).inflight = (s.part.chan c).inflight ++ [{ q with value := s.part.getDram (c / 8) q.burst }] ∧
          (p.pav (c / 8)).dram = (s.part.pav (c / 8)).dram) ∧ p.ports = s.part.ports ∧ p.links = s.part.links)

/-- What returns on a channel: a burst joins its task with the errors of the transfer, a clean scrub read only leaves the list of reads in flight,
one lost copy of an ownership entry is written again from the other, a lost line of the cellar book is written again from its mirror, a lost line of
the heat table counts from 0 again, a lost plan entry is discarded and counted, and a damaged codebook table is marked for its reload. -/
def Obligations.ReadDataReturns : Prop :=
  ∀ (s : State) (c : Chan) (q : QEnt) (rest : List QEnt),
    (∀ (u : Sub) (e : BitVec 640) (t : Task) (more : List Task), (s.part.chan c).inflight = q :: rest → q.sub = u.val →
      q.label ≠ ownScrub → q.label ≠ ownConfirm → (s.part.pav (c / 8)).tasks = t :: more → t.id = q.task →
      (∀ m ∈ more, m.id ≠ t.id) → t.got.length + 1 ≠ t.bursts.length →
      ∃ p, exec (.channelReadData c (.burst u e)) s = .next (s.withPart p) ∧ (p.chan c).inflight = rest ∧
        (p.pav (c / 8)).tasks = { t with got := t.got ++ [⟨q.burst, q.value ^^^ e.toNat, q.stale⟩] } :: more ∧ Part.only [.chans, .pavs] s.part p) ∧
    (∀ (u : Sub) (g : Fin 8) (e : BitVec 640) (v : Nat), (s.part.chan c).inflight = q :: rest → q.sub = u.val → q.group = g.val →
      q.label = ownScrub →
      checkBurst (!decide (spareBase ≤ q.burst) && s.part.inlineAt (c / 8) q.burst) (q.value ^^^ e.toNat) = .clean v →
      exec (.channelReadData c (.scrub u g e)) s = .next (s.withPart (s.part.onChan c fun v => { v with inflight := rest }))) ∧
    (∀ ext, ∃ p, exec (.channelReadData c (.ownerEntry ext true false)) s = .next (s.withPart p) ∧
      (∀ x, (p.pav (c / 8)).own.get Own.free x = (if x = ext then (s.part.pav (c / 8)).own2.get Own.free ext
        else (s.part.pav (c / 8)).own.get Own.free x)) ∧ (p.pav (c / 8)).own2 = (s.part.pav (c / 8)).own2 ∧
      Part.only [.pavs, .chans, .delta] s.part p) ∧
    (∀ ext, ∃ p, exec (.channelReadData c (.ownerEntry ext false true)) s = .next (s.withPart p) ∧
      (∀ x, (p.pav (c / 8)).own2.get Own.free x = (if x = ext then (s.part.pav (c / 8)).own.get Own.free ext
        else (s.part.pav (c / 8)).own2.get Own.free x)) ∧ (p.pav (c / 8)).own = (s.part.pav (c / 8)).own ∧
      Part.only [.pavs, .chans, .delta] s.part p) ∧
    (∀ (sl : Slice) (lp n : Nat), s.part.mirrorOf sl lp = some n → n ≠ c / 8 →
      ∃ p, exec (.channelReadData c (.cellarLine sl lp true false)) s = .next (s.withPart p) ∧
        (∀ k < 4, p.cell (c / 8) sl (lp / 4 * 4 + k) = s.part.mirrorCell n sl (lp / 4 * 4 + k)) ∧
        Part.only [.pavs, .chans, .delta] s.part p) ∧
    (∀ (sl : Slice) (group : Nat), group < 2 ^ 28 →
      ∃ p, exec (.channelReadData c (.heatLine sl group)) s = .next (s.withPart p) ∧
        (∀ k, (p.pav (c / 8)).heat.get 0 k =
          (if k / 64 = (sl.val * 2 ^ 28 + group) / 64 then 0 else (s.part.pav (c / 8)).heat.get 0 k)) ∧ Part.only [.pavs] s.part p) ∧
    (∀ n, n < (s.part.pav (c / 8)).plan.length →
      ∃ p, exec (.channelReadData c (.planEntry n)) s = .next (s.withPart p) ∧
        (p.pav (c / 8)).plan = (s.part.pav (c / 8)).plan.eraseIdx n ∧
        p.tallyNow .planEntriesUndone 0 = s.part.tallyNow .planEntriesUndone 0 + 1 ∧ Part.only [.pavs, .delta] s.part p) ∧
    exec (.channelReadData c .codebookTable) s = .next (s.withPart (s.part.onPav (c / 8) fun v => { v with cbInvalid := true }))

/-- Timed events of a channel. A scrub pass starts with every pointer at 0; a hammer window starts with no row counted and no requester throttled,
and withheld requests are back at the head of the queue; a row open too long is closed; an idle rank powers down with its rows closed; the refresh
rate follows the DIMM sensors; a first parity error is counted, logged and recovered from by issuing the channel's last commands again, from the
failed one on, and a second within 1 ms takes the rank out of service as a command error. -/
def Obligations.ChannelEvents : Prop :=
  ∀ (s : State) (c : Chan) (r : Rank) (back : Fin 65),
    let last := (s.part.chan c).lastCmds
    let u := iter (last.drop (last.length - back))
      (((s.part.count .caParityErrors c).logEv 0x0F05 (c.val * 4 + r.val) 0 none (c.val / 8)).onChan c fun v =>
        { v with parityTime := v.parityTime.set r (some s.part.now) }) fun s m => s.reissue c m
    ((s.part.chan c).passStart = 0 → s.part.parked (0x0500 + c) = false →
      exec (.scrubPassStart c) s = .next (s.withPart
        (s.part.onChan c fun v => { v with passStart := s.part.now + 1, scrubDone := [], scrubPtr := [] }))) ∧
    (∃ p, exec (.hammerWindowStart c) s = .next (s.withPart p) ∧ (p.chan c).tracker = [] ∧ (p.chan c).throttled = [] ∧
      (p.chan c).windowStart = s.part.now ∧ (p.chan c).queue = (s.part.chan c).withheld ++ (s.part.chan c).queue ∧
      (p.chan c).withheld = []) ∧
    (∀ (u : Sub) (bank : BankChip), ∃ p, exec (.pageOpenLimitExpiry c u bank) s = .next (s.withPart p) ∧
      (∀ k, (p.chan c).openRows.get 0 k = (if k = bankKey u (bank.bank / 16) (bank.bank % 16) bank.chip then 0
        else (s.part.chan c).openRows.get 0 k)) ∧
      (∀ k, k ≠ c.val → p.chan k = s.part.chan k) ∧ Part.only [.chans] s.part p) ∧
    (s.part.rankRuns c r = true → r.val ∉ (s.part.chan c).powerDown → (∀ q ∈ (s.part.chan c).queue, q.bank / 4 ≠ r.val) →
      ∃ p, exec (.rankPowerdownEntry c r) s = .next (s.withPart p) ∧ (p.chan c).powerDown = (s.part.chan c).powerDown ++ [r.val] ∧
        (∀ e ∈ (p.chan c).openRows, e.1 % 16 / 4 ≠ r.val) ∧ Part.only [.chans] s.part p) ∧
    (∀ t0 t1 : Int, s.part.rest.inRest = false → t0 ≤ 95 → t1 ≤ 95 →
      ∃ p, exec (.dimmTempPoll c t0 t1) s = .next (s.withPart p) ∧
        p.od .refreshRate c = (if 85 < t0 ∨ 85 < t1 then 1 else if t0 < 83 ∧ t1 < 83 then s.part.od .refreshFloor c % 256
          else s.part.od .refreshRate c) ∧ p.od .dimmTemp1 c = ofInt 32 t1 ∧ p.od .dimmTemp0 c = ofInt 32 t0 ∧
        Part.odOnly [(.refreshRate, c), (.dimmTemp0, c), (.dimmTemp1, c)] s.part p) ∧
    ((s.part.chan c).parityTime.getD r none = none →
      exec (.caParityAlert c ⟨r, back⟩) s = .next (s.withPart u)) ∧
    (∀ t, (s.part.chan c).parityTime.getD r none = some t → s.part.now ≤ t + nsPerMs →
      exec (.caParityAlert c ⟨r, back⟩) s = .next (s.withPart (u.rankLeaves c r 2)))

/-- A quick retrain goes rank by rank and is counted when its last rank is done: a lane that misses in either direction keeps its setting, another
moves to the centre of its passing steps. The rebuild of a rank goes extent by extent, and after the last the failed rank is FAILED and the rebuild
is over. -/
def Obligations.RetrainAndRebuild : Prop :=
  ∀ (s : State) (c : Chan),
    (∀ (lanes : List LaneRetrain) (r k : Nat) (rest : List Nat), (s.part.chan c).retrain = r :: k :: rest → r < 4 →
      ∃ p, exec (.quickRetrainRankDone c lanes) s = .next (s.withPart p) ∧ (p.chan c).retrain = k :: rest ∧
        p.od .quickRetrains c = s.part.od .quickRetrains c ∧ Part.only [.dict, .chans] s.part p) ∧
    (∀ (lanes : List LaneRetrain) (r : Nat) (rest : List Nat) (j : Nat) (l : LaneRetrain), (s.part.chan c).retrain = r :: rest → r < 4 →
      j < 80 → lanes[j]? = some l →
      ∃ p, exec (.quickRetrainRankDone c lanes) s = .next (s.withPart p) ∧
        (p.chan c).lanes.get ⟨0, 0⟩ (laneKey r 0 j) =
          (let v := (s.part.chan c).lanes.get ⟨0, 0⟩ (laneKey r 0 j); if laneMisses l then v else v.recentre l.read) ∧
        (p.chan c).lanes.get ⟨0, 0⟩ (laneKey r 1 j) =
          (let v := (s.part.chan c).lanes.get ⟨0, 0⟩ (laneKey r 1 j); if laneMisses l then v else v.recentre l.write)) ∧
    (∀ (lanes : List LaneRetrain) (r : Nat), (s.part.chan c).retrain = [r] → r < 4 → s.part.od0 .maintState ≠ 2 →
      ∃ p, exec (.quickRetrainRankDone c lanes) s = .next (s.withPart p) ∧ (p.chan c).retrain = [] ∧
        p.od .quickRetrains c = (s.part.od .quickRetrains c + 1) % 2 ^ 32 ∧ Part.only [.dict, .chans] s.part p) ∧
    (∀ b errors, (s.part.chan c).rebuild = some b → b.failed < 4 →
      let le := (s.part.geom (c / 8)).layerExts
      (b.watermark % le + 1 < le →
        ∃ p, exec (.rankRebuildExtent ⟨c, errors⟩) s = .next (s.withPart p) ∧
          (p.chan c).rebuild = some { b with watermark := b.watermark + 1 } ∧
          p.od .rebuildProgress c = (b.watermark % le + 1) * 100 / le) ∧
      (b.watermark % le + 1 = le →
        ∃ p, exec (.rankRebuildExtent ⟨c, errors⟩) s = .next (s.withPart p) ∧ (p.chan c).rebuild = none ∧
          p.od .rankState (c.val * 4 + b.failed) = 5 ∧ p.od .rebuildProgress c = 0))

/-- The commands of a channel and the address table. QUICK_RETRAIN holds every running rank; ARM, which only the vendor service may give, and DISARM
set FLIP_STATUS; TEST_WRITE puts the masked zero burst into a FREE extent, which becomes SYSTEM; TEST_READ of a burst that checks clean says so and
disarms; CLEAR empties the address table. -/
def Obligations.ChannelCommands : Prop :=
  ∀ (s : State) (w : Who) (c : Chan),
    (s.part.mayWrite w .channelCommand → s.part.od .channelState c = 2 → (s.part.chan c).retrain = [] →
      exec (.channelQuickRetrain w c) s = .next (s.withPart
        ((s.part.onChan c fun v => { v with retrain := (List.range 4).filter (s.part.rankRuns c) }).emit (.answer w rOk [])))) ∧
    (s.part.mayWrite w .flipCommand →
      exec (.flipDisarm w c) s = .next (s.withPart ((s.part.setOd .flipStatus c 0).emit (.answer w rOk [])))) ∧
    (s.part.mayWrite w .flipCommand → s.part.od .flipStatus c ≠ 3 →
      (s.part.roleOf w = roleVendor →
        exec (.flipArm w c) s = .next (s.withPart ((s.part.setOd .flipStatus c 1).emit (.answer w rOk [])))) ∧
      (s.part.roleOf w ≠ roleVendor → exec (.flipArm w c) s = .next (s.withPart (s.part.emit (.answer w rRole [])))) ∧
      exec (.flipTestRead w c) s = .next (s.withPart (s.part.emit (.answer w rState []))) ∧
      (∀ x, s.part.flipBurst c (s.part.od .flipAddress c) = some x → s.part.ownOf (c / 8) (x / extBursts) = Own.free →
        s.part.burstLost (c / 8) x = false → x < spareBase →
        ∃ p, exec (.flipTestWrite w c) s = .next (s.withPart p) ∧ p.od .flipStatus c = 3 ∧
          (p.pav (c / 8)).dram.get zeroBurst x = (zeroBurst ^^^ s.part.flipMask c) % 2 ^ 640 ∧
          ((p.pav (c / 8)).own.get Own.free (x / extBursts)).kind = kindSystem ∧
          ∃ l, p.out = l ++ [.answer w rOk []])) ∧
    (s.part.mayWrite w .flipCommand → s.part.od .flipStatus c = 3 →
      (∀ x v, s.part.flipBurst c (s.part.od .flipLast c) = some x → sddcCheck (s.part.dramAt (c / 8) x) = .clean v →
        ∃ p, exec (.flipTestRead w c) s = .next (s.withPart p) ∧ p.od .flipStatus c = 0 ∧ p.od .flipTestResult c = 1 ∧
          p.od .flipTestDevice c = 31 ∧ ∃ l, p.out = l ++ [.answer w rOk []])) ∧
    (∀ q : Pav, s.part.mayWrite w .ceTableCommand → exec (.ceTableClear w q) s = .next (s.withPart
      ((s.part.onPav q fun v => { v with ceTable := [] }).emit (.answer w rOk []))))

/-! ## Plans, moves and the codec -/

/-- The plan's entries. PROMOTE, DEMOTE and REKEY take the pages of their group that are not in use, here one; COMPACT of an extent of the cellar
book moves its lines to a FREE extent; MIRROR copies the region's entries to the new mirror; MOVE_REGION of an overcommitted slice takes the
destination's block and runs its first pass, and does not begin without the block. -/
def Obligations.PlanEntriesRun : Prop :=
  ∀ (s : State) (p : Pav) (e : PlanEnt) (t : Part) (lp : Nat),
    (s.part.planHead p 0 = some (e, t) → t.groupPages p e.slice e.target tierWarm = [lp] → t.inUse p e.slice lp = false →
      exec (.planEntryPromote p) s = .next (s.withPart
        ((t.beginPromote p e.slice lp).settleFlag p e.slice e.target tierWarm).settleDrains)) ∧
    (s.part.planHead p 1 = some (e, t) → t.groupPages p e.slice e.target tierHot = [lp] → t.inUse p e.slice lp = false →
      exec (.planEntryDemote p) s = .next (s.withPart ((t.beginDemote p e.slice lp).settleFlag p e.slice e.target tierHot))) ∧
    (s.part.planHead p 3 = some (e, t) → t.pagesWhere p e.slice (e.target * 64) (e.target * 64 + 64)
        (fun c => c.tier != tierZero && c.keySel != t.od .sliceKeyActive e.slice) = [lp] → t.inUse p e.slice lp = false →
      exec (.planEntryRekey p) s = .next (s.withPart (t.rekeyPage p e.slice lp))) ∧
    (∀ (k x : Nat) (exts : List Nat), s.part.planHead p 2 = some (e, t) → (t.ownOf p e.target).kind = kindCellar →
      (t.pav p).blocks.find? (fun b => b.2.contains e.target) = some (k, exts) → k % 2 = 1 → t.freeExt p = some x →
      x ≠ e.target →
      ∃ q : Part, exec (.planEntryCompact p) s = .next (s.withPart q) ∧
        (q.pav p).blocks.get [] k = exts.map (fun y => if y = e.target then x else y) ∧
        ((q.pav p).own.get Own.free x).kind = kindCellar ∧ ((q.pav p).own.get Own.free e.target).kind = kindZeroing) ∧
    (∀ u, s.part.planHead p 5 = some (e, t) → placeValid (t.place e.slice e.target) = true →
      placeHome (t.place e.slice e.target) = p.val → e.pav ≠ p.val → t.pstate e.pav = 1 →
      placeMirror (t.place e.slice e.target) = p.val → t.takeBlock e.pav (blockKey e.slice e.target true) = some u →
      ∃ q : Part, exec (.planEntryMirror p) s = .next (s.withPart q) ∧
        q.place e.slice e.target = mkPlace p e.pav false (placeMoving (t.place e.slice e.target)) (placeDest (t.place e.slice e.target)) ∧
        (q.pav e.pav).mirror = (regionCells e.slice e.target (u.pav p).cellar).foldl (fun m c => m.put c.1 c.2) (u.pav e.pav).mirror) ∧
    (s.part.planHead p 4 = some (e, t) → placeValid (t.place e.slice e.target) = true →
      placeHome (t.place e.slice e.target) = p.val → e.pav ≠ p.val → t.pstate e.pav = 1 → t.od .sliceCapacityMode e.slice ≠ 0 →
      (t.takeBlock e.pav (blockKey e.slice e.target false) = none →
        exec (.planEntryMoveRegion p) s = .next (s.withPart (t.regionSkipped p e.slice e.target e.pav))) ∧
      ∀ u, t.takeBlock e.pav (blockKey e.slice e.target false) = some u →
        exec (.planEntryMoveRegion p) s = .next (s.withPart ((u.onPav p fun q => { q with
          regionMove := some ⟨e.slice, e.target, e.pav, 0, (regionCells e.slice e.target (u.pav p).cellar).map (fun c => c.1 % 2 ^ 34), [], [],
            false, false, []⟩ }).regionPass p)))

/-- How moves end. A page move that is ready and whose MOVING is still set commits its new entry; one whose MOVING was cleared is cancelled. A
region's data enter the destination's write queues, the last pass may be held, and the commit follows the hold; a sweep without a page left destroys
the old key set; an extent that was zeroed is FREE, its OWNER standing, and reads as zero data; an entry of the rescue list whose slot is no longer live is dropped, and a
cask that its protection can restore is written again, each burst with its code. -/
def Obligations.MovesAndSweepsEnd : Prop :=
  ∀ (s : State) (p : Pav),
    (∀ m, (s.part.pav p).moves.find? (fun m => m.ready && !s.part.inUse p m.slice m.lpage) = some m →
      ((s.part.cell p m.slice m.lpage).moving = true →
        ∃ q : Part, exec (.pageMoveCommit p) s = .next (s.withPart q) ∧ q.cell p m.slice m.lpage = { m.new with moving := false }) ∧
      ((s.part.cell p m.slice m.lpage).moving = false → m.new.tier = tierZero → (s.part.pav p).moves = [m] →
        ∃ q : Part, exec (.pageMoveCommit p) s = .next (s.withPart q) ∧ q.cell p m.slice m.lpage = s.part.cell p m.slice m.lpage ∧
          (q.pav p).moves = [] ∧ (q.pav p).own = (s.part.pav p).own ∧ Part.only [.dict, .codec, .pavs, .delta] s.part q ∧
          (s.part.codec.drains = [] → Part.only [.pavs, .delta] s.part q))) ∧
    (∀ (m : Msg) (t : Part) (r : RegionMove), s.part.takeMsg p 8 = some (m, t) → (t.pav m.src).regionMove = some r →
      r.slice = m.slice → r.dest = p →
      ((r.copied.get Cell.zero (m.data / 2 ^ 640)).tier = tierHot →
        burstOf (r.copied.get Cell.zero (m.data / 2 ^ 640)).loc ≤ m.addr →
        m.addr < burstOf (r.copied.get Cell.zero (m.data / 2 ^ 640)).loc + 64 →
        exec (.promMoveData p) s = .next (s.withPart (t.putLine p m.slice (m.data / 2 ^ 640) m.addr (m.data % 2 ^ 512)
          (bits m.data 576 64) (bits m.data 520 56) (bits m.data 512 8) (t.lineEnt p m.slice m.addr).info byMigration ownMigration))) ∧
      ((r.copied.get Cell.zero (m.data / 2 ^ 640)).tier = tierZero →
        exec (.promMoveData p) s = .next (s.withPart t))) ∧
    (∀ (m : Msg) (t : Part) (r : RegionMove), s.part.takeMsg p 9 = some (m, t) → (t.pav m.src).regionMove = some r →
      r.slice = m.slice → r.region = m.addr → r.dest = p → r.left.length ≤ 64 →
      exec (.promMoveDone p) s = .next (s.withPart
        ((t.clearMoving m.src r.slice r.region).onPav m.src fun v => { v with regionMove := v.regionMove.map fun r => { r with arrived := true } }))) ∧
    (∀ r, (s.part.pav p).regionMove = some r → r.hold = false → r.arrived = true → r.left = [] →
      s.part.regionInUse p r.slice r.region = false →
      exec (.regionMoveHold p) s = .next (s.withPart (((s.part.onPav p fun v => { v with regionMove := some { r with hold := true } }).regionPass
        p).onPav p fun v => { v with regionMove := v.regionMove.map fun r => { r with left := [] } }))) ∧
    (∀ r, (s.part.pav p).regionMove = some r → r.hold = true → r.arrived = true →
      exec (.regionMoveCommit p) s = .next (s.withPart ((s.part.commitRegion p r).retireEmpty))) ∧
    (∀ sl : Slice, s.part.od .rekeyState sl = 1 → s.part.rekeyLeft sl = 0 → s.part.od .sliceKeyActive sl = 0 →
      (s.part.slice sl).rekeyWait = [] →
      ∃ q : Part, exec (.rekeySweepEnd sl) s = .next (s.withPart q) ∧ q.od .rekeyState sl = 0 ∧ (q.keySet sl 1).live = false ∧
        q.keySet sl 0 = s.part.keySet sl 0) ∧
    (∀ ext, (s.part.ownOf p ext).kind = kindZeroing → (s.part.pav p).zeroing.get 0 ext = 0 → ext ∉ (s.part.pav p).retire →
      s.part.layerLost p (ext / (s.part.geom p).layerExts) = false →
      ∃ u : Part, exec (.zeroingComplete p ext) s = .next (s.withPart ((u.commonsAlarm p).capacityNotices p)) ∧
        (u.pav p).own.get Own.free ext = { s.part.ownOf p ext with kind := kindFree } ∧
        (∀ x, ext * extBursts ≤ x → x < ext * extBursts + extBursts →
          (u.pav p).dram.get zeroBurst x = zeroBurst ∧ (u.pav p).tags.get TagEnt.zero x = TagEnt.zero) ∧
        (∀ x, x < ext * extBursts ∨ ext * extBursts + extBursts ≤ x →
          (u.pav p).dram.get zeroBurst x = (s.part.pav p).dram.get zeroBurst x)) ∧
    (∀ ext k rest, (s.part.pav p).rescue = (ext, k) :: rest → (s.part.ownOf p ext).kind ≠ kindCask →
      exec (.rescueCask p) s = .next (s.withPart (s.part.onPav p fun v => { v with rescue := rest }))) ∧
    (∀ ext k rest lp w y t u, (s.part.pav p).rescue = (ext, k) :: rest →
      t = (s.part.onPav p fun v => { v with rescue := rest }) → (t.ownOf p ext).kind = kindCask →
      ((t.pav p).used.get 0 ext).testBit k = true →
      let o := t.ownOf p ext
      let loc := ext * extUnits + (if o.cls = 7 then 8 else o.cls + 1) * k
      let xs := slotBursts o.cls loc
      let r := iter xs t fun s x => s.engineRead p x byMigration
      t.pageAt p o.owner loc tierWarm = some lp →
      r.restoreCask p o.owner lp o.cls loc (xs.map fun x => (x, r.burstNow p x)) srcMigration false = (u, some (w, y)) →
      exec (.rescueCask p) s = .next (s.withPart ((iter xs.zipIdx u fun s c =>
        s.writeBurst p c.1 (sddcEncode (bits y (512 * c.2) 512)) byMigration ownMigration o.owner lp).count .caskRescues 0)))

/-- The codebook commands. DRAIN of a BOUND slot without slices makes it DRAINING, or LOADED at once when no cask names it; UNLOAD of a LOADED slot
other than 0 empties it; an accepted image is loaded before its write is answered, and a damaged one is refused with its reason; a build counts from
zero pages, CANCEL ends it with result 5. While a load of another image runs, a command of a slot or an image waits for its end. -/
def Obligations.CodebookCommands : Prop :=
  ∀ (s : State) (w : Who) (b : Book),
    (s.part.codec.loading.isSome = true →
      (∀ image : Line, exec (.codebookImageWrite w b image) s =
        .next (s.withPart (s.part.bookWait (.image w b image.toNat 64)))) ∧
      exec (.codebookDrain w b) s = .next (s.withPart (s.part.bookWait (.command w b 1))) ∧
      exec (.codebookUnload w b) s = .next (s.withPart (s.part.bookWait (.command w b 2)))) ∧
    (s.part.mayWrite w .codebookCommand → s.part.codec.loading = none → s.part.od .codebookState b = 2 → s.part.od .codebookSlices b = 0 →
      (∀ e ∈ s.part.slices, e.1 < 4096) →
      ∃ q : Part, exec (.codebookDrain w b) s = .next (s.withPart (q.emit (.answer w rOk []))) ∧
        q.od .codebookState b = (if s.part.od .codebookCasks b = 0 then 1 else 3) ∧
        q.od .codebookGeneration b = s.part.od .codebookGeneration b ∧ q.od .codebookImage b = s.part.od .codebookImage b ∧
        Part.only [.dict, .codec] s.part q) ∧
    (s.part.mayWrite w .codebookCommand → s.part.codec.loading = none → b.val ≠ 0 → s.part.od .codebookState b = 1 →
      ∃ q : Part, exec (.codebookUnload w b) s = .next (s.withPart (q.emit (.answer w rOk []))) ∧
        q.od .codebookState b = 0 ∧ q.od .codebookImage b = Entry.codebookImage.info.dflt ∧
        Part.only [.dict] s.part q) ∧
    (∀ image : Line, s.part.mayWrite w .codebookImage → s.part.codec.loading = none → imageReason image.toNat = 0 → b.val ≠ 0 →
      s.part.od .codebookState b < 2 → s.part.od .codebookCasks b = 0 → s.part.od .codebookSlices b = 0 →
      s.part.bookPending b = false →
      ∃ q : Part, exec (.codebookImageWrite w b image) s = .next (s.withPart q) ∧
        q.codec.loading = some (b.val, image.toNat, some w) ∧ q.od .codebookLoadResult b = 0 ∧
        Part.only [.dict, .codec] s.part q) ∧
    (∀ image : Line, s.part.mayWrite w .codebookImage → s.part.codec.loading = none → imageReason image.toNat ≠ 0 →
      ∃ q : Part, exec (.codebookImageWrite w b image) s = .next (s.withPart (q.emit (.answer w rCodebook [imageReason image.toNat]))) ∧
        q.od .codebookLoadResult b = imageReason image.toNat ∧ Part.only [.dict] s.part q) ∧
    (s.part.mayWrite w .codebookBuildCommand → s.part.codec.loading = none → s.part.building = false →
      s.part.od .sliceSamplingAllowed (s.part.od0 .buildSourceSlice) = 1 → s.part.od .sliceState (s.part.od0 .buildSourceSlice) = 2 →
      s.part.od .codebookState (s.part.od0 .buildTargetSlot) < 2 → s.part.od .codebookCasks (s.part.od0 .buildTargetSlot) = 0 →
      s.part.od .codebookSlices (s.part.od0 .buildTargetSlot) = 0 →
      ∃ q : Part, exec (.codebookBuildStart w) s = .next (s.withPart (q.emit (.answer w rOk []))) ∧
        q.od0 .buildState = 1 ∧ q.od0 .buildResult = 0 ∧ q.od0 .buildPagesSampled = 0 ∧ q.codec.counts = [] ∧ q.codec.coded = 0 ∧
        Part.only [.dict, .codec, .pavs] s.part q) ∧
    (s.part.mayWrite w .codebookBuildCommand → (∀ q, s.part.codec.loading = some q → q.2.2 = none) → s.part.building = true →
      ∃ q : Part, exec (.codebookBuildCancel w) s = .next (s.withPart (q.emit (.answer w rOk []))) ∧
        q.od0 .buildState = 4 ∧ q.od0 .buildResult = 5 ∧
        (∀ p : Pav, ∀ t ∈ (q.pav p).codecQ, t.use ≠ .build) ∧ Part.only [.dict, .codec, .pavs] s.part q)

/-- The codec at work. A build whose samples are all counted ends with result 3 below 64 pages; else its code's image is loaded into its slot. A
finished load makes the slot LOADED with its next generation, and ends the build or answers the image's write. Reloaded tables are valid. A lane
answers a warm read with the line, also after one fault of the first lane; ends a first write; and makes a demotion of an all-zero page ready as
ZERO. -/
def Obligations.CodecWorks : Prop :=
  ∀ (s : State) (p : Pav),
    (s.part.od0 .buildState = 1 → (∀ k : Pav, ∀ t ∈ (s.part.pav k).codecQ, t.use ≠ .build) → s.part.od0 .buildPagesSampled < 64 →
      ∃ q : Part, exec .buildSamplingDone s = .next (s.withPart q) ∧ q.od0 .buildState = 4 ∧ q.od0 .buildResult = 3 ∧
        Part.only [.dict] s.part q) ∧
    (∀ l image, l = boundedLengths 64 ((List.range 67).map fun k => s.part.codec.counts.getD k 0 + 1) →
      image = makeImage l (min 65535 (s.part.od0 .buildPagesSampled * 4096 * 8 * 100 /
        max 1 (codedBits l (s.part.od0 .buildPagesSampled) s.part.codec.counts))) →
      s.part.od0 .buildState = 1 → (∀ k : Pav, ∀ t ∈ (s.part.pav k).codecQ, t.use ≠ .build) → 64 ≤ s.part.od0 .buildPagesSampled →
      s.part.imageRefusal (s.part.od0 .buildTargetSlot) image = 0 → s.part.od0 .buildTargetSlot < 16 → s.part.codec.loading = none →
      ∃ q : Part, exec .buildSamplingDone s = .next (s.withPart q) ∧ q.od0 .buildState = 2 ∧
        q.codec.loading = some (s.part.od0 .buildTargetSlot, image, none) ∧ Part.only [.dict, .codec] s.part q) ∧
    (∀ (b : Book) (image : Nat), s.part.codec.loading = some (b.val, image, none) → s.part.codec.waiting = [] →
      s.part.gate.held = [] → image < 2 ^ 512 →
      ∃ q : Part, exec .codebookLoadDone s = .next (s.withPart q) ∧ q.codec.loading = none ∧
        q.od .codebookImage b = imageStored image ∧ q.od .codebookState b = 1 ∧
        q.od .codebookGeneration b = (s.part.od .codebookGeneration b + 1) % 256 ∧ q.od0 .buildState = 3 ∧ q.od0 .buildResult = 1 ∧
        Part.only [.dict, .codec] s.part q) ∧
    (∀ (b : Book) (image : Nat), s.part.codec.loading = some (b.val, image, some .monitor) → s.part.codec.waiting = [] →
      s.part.gate.held = [] → image < 2 ^ 512 →
      ∃ q : Part, exec .codebookLoadDone s = .next (s.withPart (q.emit (.answer .monitor rOk []))) ∧ q.codec.loading = none ∧
        q.od .codebookImage b = imageStored image ∧ q.od .codebookState b = 1 ∧
        q.od .codebookGeneration b = (s.part.od .codebookGeneration b + 1) % 256 ∧ Part.only [.dict, .codec] s.part q) ∧
    exec (.codebookTableReloadDone p) s = .next (s.withPart (s.part.onPav p fun v => { v with cbInvalid := false })) ∧
    (∀ (t : CodecTask) (u v : Part), s.part.parked (0x0300 + p) = false → s.part.nextCodec p = some (t, u) →
      v = u.onPav p (fun k => { k with laneGated := (u.lanesOf p t).foldl (fun g j => setBit g j false) k.laneGated }) →
      (t.use = .warmRead → t.again = false → (v.cell p t.slice t.lpage).tier = tierWarm →
        (∀ line, (v.pav p).cbInvalid = false → v.decodeTask t = .ok line →
          exec (.codecLaneDispatch p 0) s = .next (s.withPart (v.respond t.msg 0 line))) ∧
        (∀ (line : Nat) (k : Fin 6), (v.pav p).cbInvalid = false → k.val ≠ 0 → (v.logFault p t (laneFault t k)).decodeTask t = .ok line →
          exec (.codecLaneDispatch p k) s = .next (s.withPart
            (((v.logFault p t (laneFault t k)).count .codecRetryOk 0).respond t.msg 0 line)))) ∧
      (t.use = .firstWrite → exec (.codecLaneDispatch p 0) s = .next (s.withPart (v.endFirstWrite p t))) ∧
      (∀ m : Move, t.use = .demotion → t.page = 0 →
        (v.pav p).moves.find? (fun m => m.slice == t.slice && m.lpage == t.lpage) = some m →
        (v.cell p t.slice t.lpage).fixed = false →
        exec (.codecLaneDispatch p 0) s = .next (s.withPart ((v.versionCheck t.slice m.new.version).readyMove p t.slice t.lpage
          { v.cell p t.slice t.lpage with tier := tierZero, slotClass := 0, version := m.new.version, loc := 0 } 0))))

/-! ## Vintages and keys -/

/-- Batches and compiles. BEGIN_BATCH opens a batch for who asked; COMMIT_BATCH of its own batch queues one compile with every staged write;
ABORT_BATCH and the timeout discard it. A compile starts when none runs and no vintage is on its way; what it gives is loaded into the shadow bank
and its check begins, a refusal is recorded and answered, and the settings keep their values; a vintage that passes is due 100 µs after the check; a
supplementary plan is appended. -/
def Obligations.BatchesAndCompiles : Prop :=
  ∀ (s : State) (w : Who),
    (s.part.mayWrite w .vintageCommand → s.part.od0 .vintageBatchState = 0 →
      exec (.vintageBeginBatch w) s = .next (s.withPart
        ((({ s.part with vint := { s.part.vint with batch := some w, staged := [] } } : Part).setOd .vintageBatchState 0 1).emit
          (.answer w rOk [])))) ∧
    (s.part.mayWrite w .vintageCommand → s.part.od0 .vintageBatchState = 1 → s.part.vint.batch = some w →
      exec (.vintageCommitBatch w) s = .next (s.withPart (({ s.part with vint := { s.part.vint with
        queue := s.part.vint.queue ++ [⟨0, s.part.vint.staged, some w, .batch, 0⟩] } } : Part).setOd .vintageBatchState 0 2)) ∧
      exec (.vintageAbortBatch w) s = .next (s.withPart
        ((({ s.part with vint := { s.part.vint with batch := none, staged := [] } } : Part).setOd .vintageBatchState 0 0).emit
          (.answer w rOk [])))) ∧
    (s.part.od0 .vintageBatchState = 1 → s.part.batchUsed = false →
      exec .vintageBatchTimeout s = .next (s.withPart
        ((({ s.part with vint := { s.part.vint with batch := none, staged := [] } } : Part).setOd .vintageBatchState 0 0).logEv
          0x1007 0 0))) ∧
    (∀ (a : CompileAsk) (rest : List CompileAsk), s.part.vint.running = none → s.part.vint.shadow = none →
      s.part.codec.loading = none → s.part.gateParked = false → s.part.gateAlive = true → s.part.vint.queue = a :: rest →
      s.part.season.retiring = [] →
      exec .vintageCompileStart s = .next (s.withPart
        { s.part with vint := { s.part.vint with queue := rest, running := some a
                                                 extra := if a.kind = 3 then s.part.heldEnts (a.arg % 8) (a.arg / 8) else [] } })) ∧
    (∀ (a : CompileAsk), s.part.season.retiring = [] → s.part.vint.running = some a → s.part.vint.shadow = none →
      (∀ v, a.kind ≤ 2 → s.part.oldStamps = false → s.part.compileAsk a = (.ok v, none) →
        ∃ q : Part, exec .vintageCompileDone s = .next (s.withPart q) ∧ q.vint.shadow = some v ∧ q.vint.checking = true ∧
          q.vint.inForce = s.part.vint.inForce ∧ (∀ p : Pav, (q.pav p).promote = [] ∧ (q.pav p).demote = []) ∧
          Part.only [.vint, .pavs, .links, .delta] s.part q) ∧
      (∀ (e : Refuse) (x : Option Refuse) (by_ : Who), a.kind ≤ 2 → s.part.oldStamps = false →
        s.part.compileAsk a = (.error e, x) → a.goal = .writes → a.who = some by_ →
        ∃ u : Part, exec .vintageCompileDone s = .next (s.withPart (u.answerTo by_ rVintage [e.reason, e.detail])) ∧
          u.vint.running = none ∧ u.vint.inForce = s.part.vint.inForce ∧
          ∀ k i, k ∉ [Entry.vintageLastRefusal, .vintageRefusalDetail, .ringState] → i < 65536 → u.od k i = s.part.od k i) ∧
      (a.kind = 4 → exec .vintageCompileDone s = .next (s.withPart (s.part.appendPlan a.arg (s.part.retireEnts a.arg))))) ∧
    (∀ (a : CompileAsk) (v : Vintage), s.part.vint.shadow = some v → s.part.vint.running = some a → s.part.vint.checking = true →
      (s.part.checkVintage v = none → exec .vintageCheckerDone s = .next (s.withPart
        (({ s.part with vint := { s.part.vint with checking := false, armed := true } } : Part).setOd .vintageSwapTime 0
          (s.part.now + 100000)))) ∧
      ∀ n p, s.part.checkVintage v = some (n, p) → exec .vintageCheckerDone s = .next (s.withPart
        (((s.part.count .vintageCheckerRejects 0).logEv 0x1001 n p none p).compileRefused a (refuseAt 11 0xFFFF n p))))

/-- A vintage takes effect. At VINTAGE_SWAP_TIME its settings and its placement, ingress and classes are in force and the bank changes; the tables,
rates and plans wait. At its next frame boundary a pavilion takes its table, its classes and its plan but the carried entries that have begun
meanwhile; with the last one VINTAGE_NUMBER and
VINTAGE_DIGEST name the vintage and who waited is answered. Otherwise a frame's end refills the meters and begins the next of 8 frames. The end of a
planning interval reads the heat tables and asks for a plan; a check window starts anew. -/
def Obligations.VintageTakesEffect : Prop :=
  ∀ (s : State),
    (∀ (v : Vintage) (a : CompileAsk), s.part.vint.shadow = some v → s.part.vint.armed = true → s.part.vint.running = some a →
      a.goal = .writes → (∀ e ∈ v.reserved, e.1 < 65536) →
      (∀ w ∈ v.settings, w.entry.info.vintage = true ∧ w.inst < 65536) → (∀ p < 8, s.part.pstate p ≠ 3 ∧ s.part.pstate p ≠ 5) →
      ∃ q : Part, exec .vintageSwapTime s = .next (s.withPart q) ∧
        q.vint.bank = 1 - s.part.vint.bank ∧ q.vint.armed = false ∧
        q.vint.inForce = { v with tables := s.part.vint.inForce.tables, rates := s.part.vint.inForce.rates,
                                  plans := s.part.vint.inForce.plans } ∧
        ∀ w ∈ v.settings, (∀ u ∈ v.settings, u.entry = w.entry → u.inst = w.inst → u = w) →
          q.od w.entry w.inst = w.value % 2 ^ (8 * w.entry.info.bytes)) ∧
    (∀ p : Pav, s.part.inService p = true → s.part.rest.inRest = false → s.part.vint.swapping.contains p.val = false →
      exec (.frameEnd p) s = .next (s.withPart
        ((s.part.refillTokens p).onPav p fun v => { v with frame := (v.frame + 1) % 8 }))) ∧
    (∀ (p : Pav) (v : Vintage), s.part.inService p = true → s.part.rest.inRest = false →
      s.part.vint.swapping.contains p.val = true → s.part.vint.shadow = some v →
      (∀ x ∈ s.part.vint.swapping, x ≠ p.val →
        ∃ q : Part, exec (.frameEnd p) s = .next (s.withPart q) ∧
          q.vint.inForce.tables.get PavTables.zero p = v.tables.get PavTables.zero p ∧ q.vint.shadow = some v ∧
          q.vint.swapping = s.part.vint.swapping.filter (· != p.val) ∧
          (q.pav p).plan = (v.plans.get [] p).filter (fun e => !(v.carried.get [] p).contains e || (s.part.pav p).plan.contains e) ∧
          (q.pav p).frame = ((s.part.pav p).frame + 1) % 8 ∧
          q.od .classesActive p = (v.tables.get PavTables.zero p).classes % 2 ^ (8 * Entry.classesActive.info.bytes)) ∧
      (∀ a : CompileAsk, s.part.vint.swapping = [p.val] → s.part.vint.running = some a → a.goal = .writes → a.who = some .monitor →
        ∃ q : Part, exec (.frameEnd p) s = .next (s.withPart (q.emit (.answer .monitor rOk []))) ∧
          q.vint.inForce.tables.get PavTables.zero p = v.tables.get PavTables.zero p ∧
          (q.pav p).plan = (v.plans.get [] p).filter (fun e => !(v.carried.get [] p).contains e || (s.part.pav p).plan.contains e) ∧
          q.vint.shadow = none ∧ q.vint.running = none ∧
          q.od0 .vintageNumber = s.part.vint.inForce.number % 2 ^ (8 * Entry.vintageNumber.info.bytes) ∧
          q.od0 .vintageDigest = s.part.vint.inForce.digest % 2 ^ (8 * Entry.vintageDigest.info.bytes))) ∧
    (s.part.gateParked = false → exec .planningIntervalEnd s = .next (s.withPart
      (let u := iter s.part.serving s.part Part.readHeat
       let t : Part := { u with vint := { u.vint with intervalEnded := true } }
       if t.vint.queue.any fun a => a.kind ≤ 1 then t else t.askCompile 2))) ∧
    (∀ sl : Slice, s.part.rest.inRest = false →
      (s.part.guarantee sl 0 = 0 → s.part.guarantee sl 1 = 0 →
        exec (.sliceCheckWindowEnd sl) s = .next (s.withPart (iter s.part.serving s.part fun t p => t.onPav p fun v => { v with
          owed := (v.owed.erase (sl.val * 2)).erase (sl.val * 2 + 1),
          delivered := (v.delivered.erase (sl.val * 2)).erase (sl.val * 2 + 1), latency := v.latency.erase sl }))) ∧
      (∀ p owed got, s.part.serving = [p] → s.part.guarantee sl 0 ≠ 0 → s.part.guarantee sl 1 = 0 → s.part.boundPort sl = none →
        (s.part.pav p).owed.get 0 (sl.val * 2) = owed → (s.part.pav p).delivered.get 0 (sl.val * 2) = got →
        got * 1000 < owed * (1000 - s.part.od .sliceShortfallTolerance sl) →
        exec (.sliceCheckWindowEnd sl) s = .next (s.withPart
          (((s.part.count .sliceShortfalls sl).logEv 0x1004 owed got (some sl.val) p).onPav p fun v => { v with
            owed := (v.owed.erase (sl.val * 2)).erase (sl.val * 2 + 1),
            delivered := (v.delivered.erase (sl.val * 2)).erase (sl.val * 2 + 1), latency := v.latency.erase sl }))))

/-- Key sets of slices. GENERATE fills slot 0 of a STOPPED slice without keys with a drawn set whose data and tweak keys differ; REKEY draws a set
into the other slot and sends it to the key cache of every pavilion in service, where the sweep with cause COMMAND waits for it, and the old set
stays active; an import that unwraps fills slot 0 with the keys
it carries, and one that does not is counted and refused. Every other set stays. -/
def Obligations.KeySetsOfSlices : Prop :=
  ∀ (s : State) (w : Who) (sl : Slice),
    (s.part.mayWrite w .sliceKeyCommand → s.part.roleOf w ≠ roleOperator → s.part.od .sliceState sl = 1 →
      s.part.noKeys sl = true → s.part.rngOk = true →
      ∃ q : Part, exec (.sliceKeyGenerate w sl) s = .next (s.withPart (q.emit (.answer w rOk []))) ∧
        (q.keySet sl 0).live = true ∧ (q.keySet sl 0).gen = (s.part.keySet sl 0).gen ∧
        (q.keySet sl 0).data ≠ (q.keySet sl 0).tweak ∧ q.od .sliceKeyActive sl = 0 ∧ q.od .sliceKeyUses sl = 0 ∧
        (∀ (a : Slice) (b : Fin 2), (a, b) ≠ (sl, 0) → q.keySet a b = s.part.keySet a b) ∧
        Part.only [.dict, .keys, .pavs, .links, .freeCtr] s.part q) ∧
    (s.part.mayWrite w .sliceKeyCommand → s.part.od .sliceState sl ≠ 4 → s.part.od .sliceState sl ≠ 0 →
      s.part.od .rekeyState sl ≠ 1 → s.part.sweepComing sl = false → s.part.noKeys sl = false → s.part.od .sliceMigrationId sl = 0 → s.part.rngOk = true →
      s.part.od .sliceKeyActive sl < 2 →
      ∃ q : Part, exec (.sliceKeyRekey w sl) s = .next (s.withPart (q.emit (.answer w rOk []))) ∧
        q.keys.sweeps.get 0 sl = 1 ∧ q.od .sliceKeyActive sl = s.part.od .sliceKeyActive sl ∧
        (∀ p ∈ s.part.serving, setIndex sl (1 - s.part.od .sliceKeyActive sl) ∈ (q.pav p).keyInvalid) ∧
        Part.only [.dict, .keys, .pavs, .links, .freeCtr] s.part q ∧ (q.keySet sl (1 - s.part.od .sliceKeyActive sl)).live = true ∧
        (q.keySet sl (1 - s.part.od .sliceKeyActive sl)).data ≠ (q.keySet sl (1 - s.part.od .sliceKeyActive sl)).tweak ∧
        q.keySet sl (s.part.od .sliceKeyActive sl) = s.part.keySet sl (s.part.od .sliceKeyActive sl)) ∧
    (∀ blob, s.part.mayWrite w .sliceKeyImport → s.part.od .sliceState sl = 1 → s.part.noKeys sl = true →
      (∀ c k, s.part.readImport sl blob = (c, some k) →
        ∃ q : Part, exec (.sliceKeyImport w sl blob) s = .next (s.withPart (q.emit (.answer w rOk []))) ∧
          q.keySet sl 0 = ⟨true, (s.part.keySet sl 0).gen, k.1, k.2.1, k.2.2⟩ ∧ q.od .sliceKeyActive sl = 0 ∧
          q.od .sliceKeyUses sl = 0 ∧ ∀ (a : Slice) (b : Fin 2), (a, b) ≠ (sl, 0) → q.keySet a b = s.part.keySet a b) ∧
      (∀ c, s.part.readImport sl blob = (c, none) →
        exec (.sliceKeyImport w sl blob) s = .next (s.withPart ((s.part.count .keyImportRefused 0).emit (.answer w c [])))))

/-- Wrapping keys, the generator and the key caches. A public point on its curve makes a wrapping key of the agreement; DESTROY takes a live one
away. A failed health test leaves the generator failed. A key set that reaches a cache is valid there, what waited for it comes first, and its handle
is reported once every pavilion in service holds it; a sweep that waits for the set starts then: its slot is active, without uses, and REKEY_STATE
and REKEY_CAUSE say so. -/
def Obligations.WrapKeysAndKeyCaches : Prop :=
  ∀ (s : State) (w : Who),
    (∀ (k : Fin 17) (point key : Nat), k.val ≠ 0 → s.part.mayWrite w .wrapPeerPublic →
      s.part.agree point (asciiBytes "GZ8-WRAP" ++ [k.val]) 32 = some key →
      ∃ q : Part, exec (.wrapPeerPublicWrite w k point) s = .next (s.withPart (q.emit (.answer w rOk []))) ∧
        q.keys.wraps.get OneKey.zero k = ⟨true, (let o := s.part.keys.wraps.get OneKey.zero k
          if o.live then (o.gen + 1) % 256 else o.gen), key⟩ ∧
        (∀ j, j ≠ k.val → q.keys.wraps.get OneKey.zero j = s.part.keys.wraps.get OneKey.zero j) ∧
        q.od .wrapKeyState k = 1 ∧ q.keys.sets = s.part.keys.sets ∧ Part.only [.dict, .keys] s.part q) ∧
    (∀ (k : Fin 17), k.val ≠ 0 → s.part.mayWrite w .wrapKeyCommand → (s.part.keys.wraps.get OneKey.zero k).live = true →
      ∃ q : Part, exec (.wrapKeyDestroy w k) s = .next (s.withPart (q.emit (.answer w rOk []))) ∧
        q.keys.wraps.get OneKey.zero k = ⟨false, ((s.part.keys.wraps.get OneKey.zero k).gen + 1) % 256, 0⟩ ∧
        (∀ j, j ≠ k.val → q.keys.wraps.get OneKey.zero j = s.part.keys.wraps.get OneKey.zero j) ∧
        q.od .wrapKeyState k = 0 ∧ q.keys.sets = s.part.keys.sets ∧ Part.only [.dict, .keys] s.part q) ∧
    (∃ q : Part, exec .rngHealthFail s = .next (s.withPart q) ∧ q.rngOk = false ∧ Part.only [.dict] s.part q) ∧
    (∀ (p : Pav) (c : Instr) (ix : Nat) (t : Part), ix < 8192 →
      (c = .promKeyLoad p ∧ (∃ m, s.part.takeMsg p 12 = some (m, t) ∧ m.addr = ix)) ∨
        (c = .keyCacheReloadDone p ∧ t = s.part ∧ ∃ rest, (s.part.pav p).keyInvalid = ix :: rest) →
      ∃ q : Part, exec c s = .next (s.withPart q) ∧
        (q.pav p).keyInvalid = (t.pav p).keyInvalid.filter (· != ix) ∧
        (q.pav p).inbox = (t.pav p).keyWaiting ++ (t.pav p).inbox ∧ (q.pav p).keyWaiting = [] ∧
        ((t.keySet (ix / 2) (ix % 2)).live = true → (∀ k ∈ t.serving, k = p.val ∨ ix ∉ (t.pav k).keyInvalid) →
          q.od (handleEntry (ix % 2)) (ix / 2) = keyHandle 1 (t.keySet (ix / 2) (ix % 2)).gen ix % 2 ^ (8 * (handleEntry (ix % 2)).info.bytes)) ∧
        (t.sweepComing (ix / 2) = false → Part.only [.dict, .pavs] t q) ∧
        ((t.keySet (ix / 2) (ix % 2)).live = true → (∀ k ∈ t.serving, k = p.val ∨ ix ∉ (t.pav k).keyInvalid) →
          t.sweepComing (ix / 2) = true → ix % 2 ≠ t.od .sliceKeyActive (ix / 2) →
          q.od .sliceKeyActive (ix / 2) = ix % 2 ∧ q.od .sliceKeyUses (ix / 2) = 0 ∧ q.od .rekeyState (ix / 2) = 1 ∧
          q.od .rekeyCause (ix / 2) = t.keys.sweeps.get 0 (ix / 2) % 2 ^ (8 * Entry.rekeyCause.info.bytes) ∧
          q.sweepComing (ix / 2) = false))

/-! ## Promenade links -/

/-- Flits. A transmitter of an UP link resends what a NAK asked for, with the header of now; else it sends what fits under its next sequence number
and keeps it for a replay, or an idle flit. A receiver takes a flit of the next sequence number, delivers its message and returns its credits; it
counts a flit with a bad CRC and asks for a replay once; it counts a duplicate. A message whose source has messages on an older path to the pavilion
is held there until the old path is clear, and its credits with it. -/
def Obligations.FlitsAreSentAndReceived : Prop :=
  ∀ (s : State) (n : Link) (d : Dir), s.part.od .linkState n = 2 →
    (∀ (f : Flit) (rest : List Flit), s.part.rest.inRest = false → ((s.part.link n).dir d).resend = f :: rest →
      ∃ q : Part, exec (.flitTransmit n d) s = .next (s.withPart q) ∧ ((q.link n).dir d).resend = rest ∧
        (∃ g : Flit, ((q.link n).dir d).wire = ((s.part.link n).dir d).wire ++ [g] ∧ g.isData = f.isData ∧ g.seq = f.seq ∧
          g.msgs = f.msgs ∧ g.ack = (((s.part.link n).dir (otherDir d)).expected + 4095) % 4096) ∧
        ((q.link n).dir d).replay = ((s.part.link n).dir d).replay ∧ Part.only [.links] s.part q) ∧
    (∀ (t : TxEnt), s.part.rest.inRest = false → ((s.part.link n).dir d).resend = [] → s.part.parked (0x0400 + n) = false →
      ((s.part.link n).dir d).replay.length < 512 → ((s.part.link n).dir d).tx = [t] → t.msg.size ≤ 15 →
      ((s.part.link n).dir d).mayPlace t.msg = true →
      ∃ (q : Part) (g : Flit), exec (.flitTransmit n d) s = .next (s.withPart q) ∧
        g.isData = true ∧ g.seq = ((s.part.link n).dir d).nextSeq ∧ g.msgs = [t.msg] ∧
        ((q.link n).dir d).wire = ((s.part.link n).dir d).wire ++ [g] ∧
        ((q.link n).dir d).replay = ((s.part.link n).dir d).replay ++ [g] ∧ ((q.link n).dir d).tx = [] ∧
        ((q.link n).dir d).nextSeq = (((s.part.link n).dir d).nextSeq + 1) % 4096 ∧ Part.only [.links] s.part q) ∧
    (∀ (f : Flit) (rest : List Flit), ((s.part.link n).dir d).wire = f :: rest →
      (∃ q : Part, exec (.flitReceive n d false) s = .next (s.withPart q) ∧ ((q.link n).dir d).wire = rest ∧
        ((q.link n).dir d).nakOut = true ∧ ((q.link n).dir d).expected = ((s.part.link n).dir d).expected ∧
        q.tallyNow .linkCrcErrors n = s.part.tallyNow .linkCrcErrors n + 1 ∧ q.pavs = s.part.pavs) ∧
      (∀ m : Msg, f.isData = true → f.seq = ((s.part.link n).dir d).expected → f.msgs = [m] → opcodeClass m.opcode = m.cls →
        m.dst = (dirEnds n d).2 → (∀ p, (s.part.pav p).newPath = []) → s.part.oldPathBusy n m.src m.dst m.cls = false →
        ∃ q : Part, exec (.flitReceive n d true) s = .next (s.withPart q) ∧ ((q.link n).dir d).wire = rest ∧
          ((q.link n).dir d).expected = (((s.part.link n).dir d).expected + 1) % 4096 ∧
          (q.pav m.dst).inbox = (s.part.pav m.dst).inbox ++ [m] ∧
          ((q.link n).dir d).ownReturn = bump (bump ((s.part.link n).dir d).ownReturn (2 * m.cls) 1) (2 * m.cls + 1) m.units) ∧
      (∀ m : Msg, f.isData = true → f.seq = ((s.part.link n).dir d).expected → f.msgs = [m] →
        (∀ p, (s.part.pav p).newPath = []) → s.part.oldPathBusy n m.src (dirEnds n d).2 m.cls = true →
        ∃ q : Part, exec (.flitReceive n d true) s = .next (s.withPart q) ∧ ((q.link n).dir d).wire = rest ∧
          (q.pav (dirEnds n d).2).newPath = [⟨n, d, m⟩] ∧ (∀ p, (q.pav p).inbox = (s.part.pav p).inbox) ∧
          ((q.link n).dir d).ownReturn = ((s.part.link n).dir d).ownReturn) ∧
      (f.isData = true → f.seq ≠ ((s.part.link n).dir d).expected → ahead 12 ((s.part.link n).dir d).expected f.seq = true →
        ∃ q : Part, exec (.flitReceive n d true) s = .next (s.withPart q) ∧ ((q.link n).dir d).wire = rest ∧
          ((q.link n).dir d).expected = ((s.part.link n).dir d).expected ∧
          q.tallyNow .linkDuplicates n = s.part.tallyNow .linkDuplicates n + 1 ∧ q.pavs = s.part.pavs))

/-- Links that break and train. A NAK sends the replay buffer again, and the sixteenth without progress breaks the link with REPLAY_LIMIT; a credit
that stands still breaks it with CREDIT_TIMEOUT, an ACK that stands still with ACK_TIMEOUT, a lost PHY with PHY_LOST or PEER, the operator's RETRAIN
with OPERATOR: each leaves an UP link in RETRAINING with its cause. The end of the idle starts training; a link that has trained is UP with its eye
margin, and a wrong advertisement is INIT_ERROR. A notice of a link's state chooses the detours again. -/
def Obligations.LinksBreakAndTrain : Prop :=
  ∀ (s : State) (n : Link) (d : Dir),
    (s.part.od .linkState n = 2 → s.part.rest.inRest = false →
      (∀ (c : Instr) (cause : Nat),
        ((c = .linkCreditTimeout n d ∧ cause = 1 ∧ ((s.part.link n).dir d).starved s.part.now = true ∧
            ((s.part.link n).dir (otherDir d)).heardAt ≠ s.part.now + 1) ∨
         (c = .linkAckTimeout n d ∧ cause = 2 ∧ ((s.part.link n).dir d).replay ≠ [] ∧ ((s.part.link n).dir d).ackAt ≠ s.part.now + 1) ∨
         (c = .nakReceive n d ∧ cause = 3 ∧ ((s.part.link n).dir d).nakWire = true ∧ 15 ≤ ((s.part.link n).dir d).naks) ∨
         (c = .linkPhyLost n d false ∧ cause = 4) ∨
         (c = .linkPhyLost n d true ∧ cause = 7) ∨
         (∃ w, c = .linkRetrain w n ∧ cause = 6 ∧ s.part.mayWrite w .linkCommand)) →
        ∃ q : Part, exec c s = .next (s.withPart q) ∧ q.od .linkState n = 3 ∧ q.od .linkCause n = cause ∧
          ∀ k : Link, k ≠ n → q.od .linkState k = s.part.od .linkState k) ∧
      (((s.part.link n).dir d).nakWire = true → ((s.part.link n).dir d).naks < 15 →
        exec (.nakReceive n d) s = .next (s.withPart ((s.part.onLink n fun l => l.onDir d fun q =>
          { q with nakWire := false, resend := q.replay, naks := q.naks + 1 }).count .linkReplays n)))) ∧
    (s.part.od .linkState n = 3 → exec (.linkIdleEnd n) s = .next (s.withPart
      (s.part.onLink n fun l => { l with trainings := (l.trainings + 1) % 65536 }))) ∧
    (∀ eye : BitVec 32, s.part.od .linkState n ∈ [0, 1, 3, 4] →
      (∃ q : Part, exec (.linkTrainingDone n eye true) s = .next (s.withPart q) ∧ q.od .linkState n = 2 ∧
        q.od .linkEyeMargin n = eye.toNat ∧ ∀ k : Link, k ≠ n → q.od .linkState k = s.part.od .linkState k) ∧
      exec (.linkTrainingDone n eye false) s = .next (s.withPart (s.part.setOd .linkCause n 5))) ∧
    (∀ w, s.part.mayWrite w .linkCommand → s.part.od .linkState n = 4 →
      exec (.linkRetrain w n) s = .next (s.withPart
        ((s.part.onLink n fun l => { l with trainings := (l.trainings + 1) % 65536, attempts := 255 }).emit (.answer w rOk [])))) ∧
    (∀ (p : Pav) (m : Msg) (t : Part), s.part.takeMsg p 13 = some (m, t) → exec (.promLinkNotice p) s = .next (s.withPart
      (if m.addr / 32 = 2 then t.chooseDetours else (t.loseRequests p (m.addr % 32)).chooseDetours)))

/-- Every event of a link, each by itself, from the state of the link that it needs. On a link that is UP outside REST: a lost PHY, a credit that a
waiting message lacks, an ACK that a replay buffer waits for, the sixteenth NAK and the operator's RETRAIN each leave the link in RETRAINING with the
event's cause and one more break; a NAK before that has every kept flit sent again. Off service: the end of the idle counts a training, a training
that ends leaves the link UP, one that fails counts an attempt, and the last one leaves it FAILED with its event; RETRAIN starts a FAILED link again. A
notice is taken from its queue and chooses the detours again. -/
def Obligations.LinkEventsComplete : Prop :=
  ∀ (s : State) (n : Link) (d : Dir),
    (s.part.od .linkState n = 2 → s.part.rest.inRest = false →
      (∀ peer : Bool, ∃ q : Part, exec (.linkPhyLost n d peer) s = .next (s.withPart q) ∧ q.od .linkState n = 3 ∧
        q.od .linkCause n = (if peer then 7 else 4) ∧ q.tallyNow .linkBreaks n = s.part.tallyNow .linkBreaks n + 1) ∧
      (((s.part.link n).dir d).starved s.part.now = true → ((s.part.link n).dir (otherDir d)).heardAt ≠ s.part.now + 1 →
        ∃ q : Part, exec (.linkCreditTimeout n d) s = .next (s.withPart q) ∧ q.od .linkState n = 3 ∧ q.od .linkCause n = 1 ∧
          q.tallyNow .linkBreaks n = s.part.tallyNow .linkBreaks n + 1) ∧
      (((s.part.link n).dir d).replay ≠ [] → ((s.part.link n).dir d).ackAt ≠ s.part.now + 1 →
        ∃ q : Part, exec (.linkAckTimeout n d) s = .next (s.withPart q) ∧ q.od .linkState n = 3 ∧ q.od .linkCause n = 2 ∧
          q.tallyNow .linkBreaks n = s.part.tallyNow .linkBreaks n + 1) ∧
      (((s.part.link n).dir d).nakWire = true →
        (15 ≤ ((s.part.link n).dir d).naks → ∃ q : Part, exec (.nakReceive n d) s = .next (s.withPart q) ∧ q.od .linkState n = 3 ∧
          q.od .linkCause n = 3 ∧ q.tallyNow .linkBreaks n = s.part.tallyNow .linkBreaks n + 1) ∧
        (((s.part.link n).dir d).naks < 15 → ∃ q : Part, exec (.nakReceive n d) s = .next (s.withPart q) ∧
          ((q.link n).dir d).resend = ((s.part.link n).dir d).replay ∧ ((q.link n).dir d).nakWire = false ∧
          ((q.link n).dir d).naks = ((s.part.link n).dir d).naks + 1 ∧ q.od .linkState n = 2 ∧
          q.tallyNow .linkReplays n = s.part.tallyNow .linkReplays n + 1 ∧ Part.only [.links, .delta] s.part q)) ∧
      (∀ w, s.part.mayWrite w .linkCommand → ∃ q : Part, exec (.linkRetrain w n) s = .next (s.withPart q) ∧ q.od .linkState n = 3 ∧
        q.od .linkCause n = 6 ∧ q.tallyNow .linkBreaks n = s.part.tallyNow .linkBreaks n + 1)) ∧
    (s.part.od .linkState n = 4 → ∀ w, s.part.mayWrite w .linkCommand → ∃ q : Part, exec (.linkRetrain w n) s = .next (s.withPart q) ∧
      (q.link n).attempts = 255 ∧ (q.link n).trainings = ((s.part.link n).trainings + 1) % 65536 ∧ q.out = s.part.out ++ [.answer w rOk []] ∧
      Part.only [.links, .out] s.part q) ∧
    (s.part.od .linkState n = 3 → ∃ q : Part, exec (.linkIdleEnd n) s = .next (s.withPart q) ∧
      (q.link n).trainings = ((s.part.link n).trainings + 1) % 65536 ∧ Part.only [.links] s.part q) ∧
    (s.part.od .linkState n ∈ [0, 1, 3, 4] → ∀ eye : BitVec 32,
      (∃ q : Part, exec (.linkTrainingDone n eye true) s = .next (s.withPart q) ∧ q.od .linkState n = 2 ∧ q.od .linkEyeMargin n = eye.toNat) ∧
      ∃ q : Part, exec (.linkTrainingDone n eye false) s = .next (s.withPart q) ∧ q.od .linkCause n = 5 ∧
        q.od .linkState n = s.part.od .linkState n ∧ Part.only [.dict] s.part q) ∧
    (s.part.od .linkState n ∈ [1, 3] → s.part.gate.held = [] →
      ((s.part.link n).attempts + 1 < s.part.od .linkRetrainAttempts n → ∃ q : Part, exec (.linkTrainingFail n) s = .next (s.withPart q) ∧
        (q.link n).attempts = (s.part.link n).attempts + 1 ∧ q.od .linkState n = s.part.od .linkState n) ∧
      (s.part.od .linkRetrainAttempts n ≤ (s.part.link n).attempts + 1 → (s.part.setOd .linkState n 4).pathless = [] →
        ∃ q : Part, exec (.linkTrainingFail n) s = .next (s.withPart q) ∧ q.od .linkState n = 4)) ∧
    (∀ (p : Pav) (m : Msg) (t : Part), s.part.takeMsg p 13 = some (m, t) → m.addr / 32 = 2 →
      ∃ q : Part, exec (.promLinkNotice p) s = .next (s.withPart q) ∧ q = t.chooseDetours)

/-! ## What a host reads of an endpoint -/

/-- The views that a host has of a port. The identification words of the manual. A base address register keeps the address bits that a host
writes, BAR4 and BAR5 read 0 and keep nothing. A window decodes the addresses from its base to its size. The liveness word holds the counter and its signature.
A tenant page names its slice and the slice's state under its signature; an access of another width or alignment is refused, and a page that is not
live reads 0. Both images of the expansion ROM begin with the signature. -/
def Obligations.EndpointViews : Prop :=
  ∀ (s : State) (i : Port),
    (s.part.configWord i 0x00 = some 0x0C081F8B ∧ s.part.configWord i 0x08 = some 0x05021011 ∧ s.part.configWord i 0x34 = some 0x40) ∧
    (∀ v : BitVec 32,
      (s.part.barWrite i 0 v.toNat).barRead i 0 = v.toNat / 2 ^ 16 * 2 ^ 16 + 4 ∧ (s.part.barWrite i 1 v.toNat).barRead i 1 = v.toNat ∧
      (s.part.barWrite i 2 v.toNat).barRead i 2 = v.toNat / 2 ^ 24 * 2 ^ 24 + 4 ∧ (s.part.barWrite i 3 v.toNat).barRead i 3 = v.toNat ∧
      ∀ k ∈ [4, 5], s.part.barWrite i k v.toNat = s.part ∧ s.part.barRead i k = 0) ∧
    (∀ (a : Nat) (b : Bar) (off : Nat), s.part.barDecode i a = some (b, off) → a = s.part.barBase i b + off ∧ off < b.size) ∧
    (s.part.livenessWord % 2 ^ 16 = s.part.boot.liveness % 2 ^ 16 ∧ s.part.livenessWord / 2 ^ 24 = 0x5A ∧
      (bit s.part.livenessWord 23 = true ↔ s.part.boot.active = true)) ∧
    (∀ sl : Slice, bits (s.part.tpIdent sl) 32 32 = 0x5A47534C ∧ bits (s.part.tpIdent sl) 0 12 = sl.val ∧
      bits (s.part.tpIdent sl) 16 4 = s.part.od .sliceState sl % 16 ∧ s.part.tpIdent sl ≠ 2 ^ 64 - 1 ∧
      (s.part.tenantLive i sl = true → s.part.tenantRead i (sl.val * 4096) 8 = some (s.part.tpIdent sl)) ∧
      (s.part.tenantLive i sl = false → ∀ off < 4096, off % 8 = 0 → s.part.tenantRead i (sl.val * 4096 + off) 8 = some 0)) ∧
    (∀ off len : Nat, s.part.tenantRead i off len = none ↔ ¬ (len = 4 ∨ len = 8) ∨ off % len ≠ 0) ∧
    (∀ k ∈ [0, 0x80000], s.part.romByte k = 0x55 ∧ s.part.romByte (k + 1) = 0xAA ∧ s.part.romByte (k + 0x18) = 0x40 ∧
      [s.part.romByte (k + 0x40), s.part.romByte (k + 0x41), s.part.romByte (k + 0x42), s.part.romByte (k + 0x43)] = asciiBytes "PCIR")

/-! ## Power -/

/-- The main input. Presence starts insertion, and its debounced absence the absence timer, whose end leaves ABSENT with the retry count at 0; a
bounce is counted, and ends in WAITING but from LATCHED; a raw absence takes the gate and MAIN_PG down with no trip recorded. The insertion delay
ends in RAMPING, a fully-on input in ON with MAIN_PG high and the core supply asked for. Each trip takes MAIN_PG down, counts, records its cause and
its time, and ends in LATCHED past MAIN_RETRIES, in RETRY_WAIT before; the wait's end ramps again inside the window. A window exit is counted and is
no trip. -/
def Obligations.MainInputSequence : Prop :=
  ∀ s : State,
    (s.part.rest.step = none → s.part.rest.inRest = false → s.part.od .mainState 0 = 0 →
      ∃ q : Part, exec .presenceDebounced s = .next (s.withPart q) ∧ q.od .mainState 0 = 1 ∧ q.power.rawPresent = true ∧
        q.power.present = true ∧ q.power.absence = false ∧ Part.only [.dict, .power] s.part q ∧ Part.odOnly [(.mainState, 0)] s.part q) ∧
    (s.part.rest.step = none → s.part.rest.inRest = false → s.part.power.rawPresent = false → s.part.od .mainState 0 ∈ [1, 2, 3, 4, 5] →
      ∃ q : Part, exec .presenceDebounced s = .next (s.withPart q) ∧ q.power.present = true ∧ q.power.absence = false ∧
        q.od .mainState 0 = (if s.part.od .mainState 0 = 5 then 5 else 1) ∧
        q.od .presenceBounces 0 = (s.part.od .presenceBounces 0 + 1) % 2 ^ 32 ∧ q.od .mainRetryCount 0 = s.part.od .mainRetryCount 0) ∧
    (s.part.rest.step = none → s.part.rest.inRest = false → s.part.od .mainState 0 ∈ [2, 3] →
      ∃ q : Part, exec .presentRawAbsence s = .next (s.withPart q) ∧ q.od .mainState 0 = 1 ∧ q.power.mainPG = false ∧
        q.power.rawPresent = false ∧ ∀ e ∈ [Entry.mainTrips, .mainRetryCount, .mainLastTrip, .presenceBounces], q.od e 0 = s.part.od e 0) ∧
    (s.part.power.rawPresent = false → exec .absenceDebounced s = .next (s.withPart { s.part with
      power := { s.part.power with present := false, absence := true } })) ∧
    (s.part.power.absence = true →
      ∃ q : Part, exec .absenceTimerExpiry s = .next (s.withPart q) ∧ q.od .mainState 0 = 0 ∧ q.od .mainRetryCount 0 = 0 ∧
        q.power.mainPG = false ∧ q.power.absence = false) ∧
    (s.part.od .mainState 0 = 1 → s.part.power.rawPresent = true →
      exec .insertDelayExpiry s = .next (s.withPart (s.part.setOd .mainState 0 2))) ∧
    (s.part.od .mainState 0 = 2 → s.part.power.thermtrip = true → s.part.power.coreFails < 3 → s.part.od .partFailed 0 ≠ 1 →
      s.part.boot.pav0Lost = false →
      ∃ q : Part, exec .mainFullyOn s = .next (s.withPart q) ∧ q.od .mainState 0 = 3 ∧ q.power.mainPG = true ∧
        q.power.coreEn = true ∧ q.od .bootState 0 = 3) ∧
    (∀ (c : Instr) (cause : Nat),
      ((c = .mainFastTrip ∧ cause = 1 ∧ s.part.od .mainState 0 ∈ [2, 3]) ∨
       (c = .mainSoaTimerExpiry ∧ cause = 2 ∧ s.part.od .mainState 0 ∈ [2, 3] ∧ 0 ∈ s.part.power.limiting) ∨
       (c = .mainRampTimeout ∧ cause = 3 ∧ s.part.od .mainState 0 = 2)) → s.part.od .mainRetryCount 0 < 255 →
      ∃ q : Part, exec c s = .next (s.withPart q) ∧ q.power.mainPG = false ∧
        q.od .mainRetryCount 0 = s.part.od .mainRetryCount 0 + 1 ∧ q.od .mainTrips 0 = (s.part.od .mainTrips 0 + 1) % 2 ^ 32 ∧
        q.od .mainLastTrip 0 = cause ∧ q.od .mainLastTripTime 0 = s.part.now % 2 ^ 64 ∧
        q.od .mainState 0 = if s.part.od .mainRetries 0 < s.part.od .mainRetryCount 0 + 1 then 5 else 4) ∧
    (s.part.od .mainState 0 = 4 → s.part.power.rawPresent = true → exec .mainRetryWaitEnd s = .next (s.withPart
      (s.part.setOd .mainState 0
        (if s.part.od .mainUv 0 < s.part.power.vin ∧ s.part.power.vin < s.part.od .mainOv 0 then 2 else 1)))) ∧
    (s.part.od .mainState 0 = 3 →
      exec .mainRetryCountReset s = .next (s.withPart (s.part.setOd .mainRetryCount 0 0)) ∧
      ∃ q : Part, exec .mainWindowExit s = .next (s.withPart q) ∧ q.od .mainState 0 = 1 ∧ q.power.mainPG = false ∧
        q.od .mainWindowExits 0 = (s.part.od .mainWindowExits 0 + 1) % 2 ^ 32 ∧ q.od .mainRetryCount 0 = s.part.od .mainRetryCount 0)

/-- The DIMM branches and the samples. A branch is turned on from OFF of a STARTING pavilion while the main input is ON: it ramps at once where none
does, and waits for its turn behind the one that ramps; the next in line ramps as it is fully on. It is turned off where its pavilion has left
service. A retry wait ends in a new ramp. Current limiting holds from its start to its end. A sample adds to the energies, and the tenth makes the
readings: the means. -/
def Obligations.BranchesAndSamples : Prop :=
  ∀ (s : State) (b : Branch),
    (∀ w, s.part.mayWrite w .branchCommand → s.part.od .branchState b = 0 → s.part.od .mainState 0 = 3 → s.part.pstate (b / 2) = 0 →
      ¬ b.val ∈ s.part.power.branchQ →
      (s.part.ramping = true → exec (.branchOn w b) s = .next (s.withPart (({ s.part with
        power := { s.part.power with branchQ := s.part.power.branchQ ++ [b.val] } } : Part).emit (.answer w rOk [])))) ∧
      (s.part.ramping = false → s.part.power.branchQ = [] → ∃ q : Part, exec (.branchOn w b) s = .next (s.withPart q) ∧
        q.od .branchState b = 1 ∧ Part.odOnly [(.branchState, b.val)] s.part q ∧ Part.only [.dict, .power, .out] s.part q)) ∧
    (∀ w, s.part.mayWrite w .branchCommand → s.part.od .branchState b ≠ 4 → s.part.pstate (b / 2) ∈ [4, 5] → s.part.power.branchQ = [] →
      ∃ q : Part, exec (.branchOff w b) s = .next (s.withPart q) ∧ q.od .branchState b = 0 ∧ q.out = s.part.out ++ [.answer w rOk []] ∧
        ∀ c : Branch, c ≠ b → q.od .branchState c = s.part.od .branchState c) ∧
    (∀ (c : Branch) (l : List Nat), s.part.od .branchState b = 1 → s.part.power.branchQ = c.val :: l → c ≠ b →
      (∀ d : Branch, d ≠ b → s.part.od .branchState d ≠ 1) →
      ∃ q : Part, exec (.branchFullyOn b) s = .next (s.withPart q) ∧ q.od .branchState b = 2 ∧ q.od .branchState c = 1 ∧ q.power.branchQ = l) ∧
    (s.part.od .branchState b = 3 → s.part.pstate (b / 2) = 0 → s.part.ramping = false → s.part.power.branchQ = [] →
      ∃ q : Part, exec (.branchRetryWaitEnd b) s = .next (s.withPart q) ∧ q.od .branchState b = 1 ∧ Part.odOnly [(.branchState, b.val)] s.part q) ∧
    (∀ k : Fin 17,
      (s.part.fetDriven k = true → ¬ k.val ∈ s.part.power.limiting → s.part.rest.step = none → s.part.rest.inRest = false →
        exec (.currentLimitStart k) s = .next (s.withPart { s.part with
          power := { s.part.power with limiting := s.part.power.limiting ++ [k.val] } })) ∧
      ∃ q : Part, exec (.currentLimitEnd k) s = .next (s.withPart q) ∧ ¬ k.val ∈ q.power.limiting ∧
        (∀ j, j ≠ k.val → (j ∈ q.power.limiting ↔ j ∈ s.part.power.limiting)) ∧ Part.only [.power] s.part q) ∧
    (∀ (vin vout cur : Nat) (l : List Nat),
      ∃ q : Part, exec (.powerSample vin vout cur l) s = .next (s.withPart q) ∧ q.power.vin = vin ∧
        q.od .mainEnergy 0 = (s.part.od .mainEnergy 0 + (s.part.power.energy.get 0 0 + vin * cur) / 10000000) % 2 ^ 64 ∧
        (s.part.power.sumCount < 9 → q.power.sumCount = s.part.power.sumCount + 1 ∧ q.od .mainVinNow 0 = s.part.od .mainVinNow 0) ∧
        (9 ≤ s.part.power.sumCount → q.power.sumCount = 0 ∧
          q.od .mainVinNow 0 = ((s.part.power.sums.getD 0 0 + vin) / 10) % 2 ^ 16))

/-! ## Monitor, firmware, network -/

/-- The monitor. While MONITOR_ENABLE is LOCKED it answers the command help only. A right answer to the nonce opens the session of the role, a wrong
one is counted, and the third in a row locks the login; a locked login is refused until the lock ends. A session's commands need its role: boot, log,
od, vintage, slots and train print; peek prints what poke wrote into gatehouse memory, and an access to DRAM goes through the filter; slot chooses
the next image slot and load fills the inactive one; logout and the idle timeout end the session, the timeout only where no command comes at the same
time. -/
def Obligations.MonitorCommands : Prop :=
  ∀ s : State, s.part.monServes = true →
    let u : Part := { s.part with mon := { s.part.mon with usedAt := s.part.now + 1 } }
    exec .monitorHelp s = .next (s.withPart { s.part with out := s.part.out ++ monCommands.map fun c => .text c [] }) ∧
    (s.part.monEnabled = false → ∀ c ∈ [Instr.monitorLogout, .monitorBoot, .monitorVintage, .monitorLog 1, .monitorSlotSelect true],
      exec c s = .next s) ∧
    exec .monitorLoginLockExpiry s = .next (s.withPart { s.part with mon := { s.part.mon with locked := false } }) ∧
    (s.part.mon.usedAt ≠ s.part.now + 1 → exec .monitorIdleTimeout s = .next (s.withPart (s.part.setOd .monitorRole 0 0))) ∧
    (s.part.mon.usedAt = s.part.now + 1 → exec .monitorIdleTimeout s = .next s) ∧
    (s.part.monEnabled = true →
      exec .monitorLogout s = .next (s.withPart (u.setOd .monitorRole 0 0)) ∧
      (∀ (r : Role) (answer key : Nat), s.part.monKey r = some key → s.part.od .monitorRole 0 = 0 →
        (s.part.mon.locked = true → exec (.monitorLogin r answer) s = .next (s.withPart (u.emit (.text "refused" [])))) ∧
        (s.part.mon.locked = false →
          (answer = s.part.monAnswer key (s.part.free.1 % 2 ^ 128) → ∃ q : Part, exec (.monitorLogin r answer) s = .next (s.withPart q) ∧
            q.od .monitorRole 0 = r ∧ q.mon = { u.mon with wrong := 0 } ∧ q.keys = s.part.keys ∧ q.flash = s.part.flash) ∧
          (answer ≠ s.part.monAnswer key (s.part.free.1 % 2 ^ 128) → ∃ q : Part, exec (.monitorLogin r answer) s = .next (s.withPart q) ∧
            q.od .monitorRole 0 = 0 ∧ q.mon.locked = decide (2 ≤ s.part.mon.wrong) ∧
            q.mon.wrong = if 2 ≤ s.part.mon.wrong then 0 else s.part.mon.wrong + 1))) ∧
      (1 ≤ s.part.od .monitorRole 0 →
        exec .monitorBoot s = .next (s.withPart (u.emit (.text "boot" ([s.part.od .bootState 0] ++
          ((List.range 12).map fun k => bits (s.part.od .bootStageTimes 0) (32 * k) 32) ++
          [s.part.od .bootSlotActive 0, s.part.od .bootRejectA 0, s.part.od .bootRejectB 0])))) ∧
        (∀ n, n ≤ s.part.logNext → n ≤ 65536 → exec (.monitorLog n) s = .next (s.withPart (u.emit (.text "log" ((List.range n).map fun k =>
          (s.part.log.get LogRec.zero ((s.part.logNext - n + k) % 65536)).encode))))) ∧
        (s.part.romOnly = false → ∀ (index : BitVec 16) (sub : BitVec 8),
          (∀ v n, u.dictRead index.toNat sub.toNat = .ok (v, n) →
            exec (.monitorOdRead index sub) s = .next (s.withPart (u.emit (.text "od" [v, n])))) ∧
          (∀ v n, Entry.find index.toNat sub.toNat = none →
            exec (.monitorOdWrite index sub v n) s = .next (s.withPart (u.emit (.answer .monitor rNoEntry [])))) ∧
          (∀ v n e i, Entry.find index.toNat sub.toNat = some (e, i) →
            exec (.monitorOdWrite index sub v n) s = .next (s.withPart (u.dictAnswer .monitor e i v n))))) ∧
      (2 ≤ s.part.od .monitorRole 0 →
        exec (.monitorSlotSelect true) s = .next (s.withPart (Part.setOd { u with flash := { s.part.flash with slotNext := 1 } } .bootSlotNext 0 1)) ∧
        exec (.monitorSlotSelect false) s = .next (s.withPart (Part.setOd { u with flash := { s.part.flash with slotNext := 0 } } .bootSlotNext 0 0)) ∧
        (∀ (p : Pav) (addr : U64) (v : Nat), gateMemory ≤ addr.toNat → addr.toNat % 8 = 0 → v < 2 ^ 64 →
          s.part.mon.memory.lookup (addr.toNat / 8 - gateMemory / 8) = some v →
          exec (.monitorPeek p addr 8) s = .next (s.withPart (u.emit (.text "peek" [v])))) ∧
        (s.part.romOnly = false →
          (∀ (p : Pav) (addr : U64), addr.toNat < gateMemory → addr.toNat % 8 = 0 → exec (.monitorPeek p addr 8) s = .next (s.withPart
            ((u.filterRead 1 p addr.toNat).1.emit (.text "peek" [(u.filterRead 1 p addr.toNat).2 % 2 ^ 64])))) ∧
          (∃ (q : Part) (l : List Output), exec .monitorVintage s = .next (s.withPart q) ∧ q.out = s.part.out ++ l ∧
            l.length = 2 * s.part.serving.length ∧ Part.only [.out] u q) ∧
          ∀ c : Chan, exec (.monitorSlots c) s = .next (s.withPart (u.emit
              (.text "slots" [s.part.odRead .slotTableA c, s.part.odRead .slotTableB c]))) ∧
            ∃ (q : Part) (l : List Output), exec (.monitorTrain c) s = .next (s.withPart q) ∧ q.out = s.part.out ++ l ∧ l.length = 4 ∧
              Part.only [.out] u q ∧
              ∀ r : Fin 4, l[r.val]? = some (.text "train" [r, s.part.od .rankState (c * 4 + r), s.part.od .trainEyes (c * 4 + r),
                (s.part.chan c).steps.getD r 0]))) ∧
      (4 ≤ s.part.od .monitorRole 0 →
        (∀ (p : Pav) (addr value : U64), gateMemory ≤ addr.toNat → addr.toNat % 8 = 0 →
          exec (.monitorPoke p addr value) s = .next (s.withPart { u with
            mon := { u.mon with memory := s.part.mon.memory.put (addr.toNat / 8 - gateMemory / 8) value.toNat } })) ∧
        (s.part.romOnly = false → ∀ (p : Pav) (addr value : U64), addr.toNat < gateMemory → addr.toNat % 8 = 0 →
          exec (.monitorPoke p addr value) s = .next (s.withPart (u.filterWrite 1 p addr.toNat value.toNat))) ∧
        ∀ img : ImageCheck,
          let n := (readHeader img.header.toNat).length
          exec (.monitorLoad img) s = .next (s.withPart { u with flash := { u.flash with
            slots := s.part.flash.slots.set 0 (1 - s.part.od .bootSlotActive 0) (if 1 ≤ n ∧ n ≤ 50331392 then 0 else 2)
            heads := s.part.flash.heads.set 0 (1 - s.part.od .bootSlotActive 0) img.header.toNat } })))

/-- Firmware and fuses. A store of flash whose contents changed is written over its older copy. BEGIN erases the inactive slot and opens an update,
DATA puts 64 KiB at the offset and advances it, VERIFY starts the check, which ends in READY or IDLE with its result; ABORT erases. The SVN fuses are
raised to a value that is neither below them nor above the image's; a key of the image in force or the last one left is not revoked, another is. A
right token unlocks the debug port; a locked port does nothing; an unlocked one reads and writes through the filter. -/
def Obligations.FirmwareAndFuses : Prop :=
  ∀ s : State,
    (s.part.firmwareRuns = true → ∃ q : Part, exec .configStoreWrite s = .next (s.withPart q) ∧ Part.only [.flash] s.part q ∧
      q.flash.config = s.part.configNow ∧ q.flash.trust = s.part.trustNow ∧
      (s.part.flash.config ≠ s.part.configNow → q.flash.config2 = s.part.flash.config) ∧
      (s.part.flash.trust ≠ s.part.trustNow → q.flash.trust2 = s.part.flash.trust)) ∧
    (∀ w, s.part.mayWrite w .fwUpdateCommand →
      (∀ c v, (c = Instr.fwUpdateBegin w ∧ v = 1) ∨ (c = .fwUpdateAbort w ∧ v = 0) → ∃ q : Part, exec c s = .next (s.withPart q) ∧
        q.od .fwUpdateState 0 = v ∧ q.od .fwUpdateOffset 0 = 0 ∧ q.flash.slots.get 0 (1 - s.part.od .bootSlotActive 0) = 1 ∧
        q.flash.slots.get 0 (s.part.od .bootSlotActive 0) = s.part.flash.slots.get 0 (s.part.od .bootSlotActive 0) ∧
        q.out = s.part.out ++ [.answer w rOk []]) ∧
      (s.part.od .fwUpdateState 0 = 1 → exec (.fwUpdateVerify w) s = .next (s.withPart
        ((s.part.setOd .fwUpdateState 0 2).emit (.answer w rOk [])))) ∧
      (s.part.od .fwUpdateState 0 ≠ 1 → exec (.fwUpdateVerify w) s = .next (s.withPart (s.part.emit (.answer w rState []))))) ∧
    (∀ w data, s.part.mayWrite w .fwUpdateData → s.part.od .fwUpdateState 0 = 1 →
      ∃ q : Part, exec (.fwUpdateData w data 65536) s = .next (s.withPart q) ∧ q.od .fwUpdateState 0 = 1 ∧
        q.od .fwUpdateOffset 0 = (s.part.od .fwUpdateOffset 0 + 65536) % 2 ^ 32 ∧
        q.boot.updateImg.get 0 (s.part.od .fwUpdateOffset 0) = data ∧ q.out = s.part.out ++ [.answer w rOk []]) ∧
    (∀ img, s.part.od .fwUpdateState 0 = 2 → ∃ q : Part, exec (.fwUpdateVerifyDone img) s = .next (s.withPart q) ∧
      q.od .fwUpdateResult 0 = s.part.slotCheck (1 - s.part.od .bootSlotActive 0) img ∧
      q.od .fwUpdateState 0 = (if s.part.slotCheck (1 - s.part.od .bootSlotActive 0) img = 0 then 3 else 0) ∧ q.flash = s.part.flash) ∧
    (∀ (w : Who) (v : BitVec 8), s.part.mayWrite w .fwSvnCommit →
      (s.part.flash.svnFuse ≤ v.toNat → v.toNat ≤ s.part.od .fwSvnImage 0 → ∃ q : Part, exec (.fwSvnCommit w v) s = .next (s.withPart q) ∧
        q.flash = { s.part.flash with svnFuse := v.toNat }) ∧
      (v.toNat < s.part.flash.svnFuse ∨ s.part.od .fwSvnImage 0 < v.toNat →
        exec (.fwSvnCommit w v) s = .next (s.withPart (s.part.emit (.answer w rRange []))))) ∧
    (∀ (w : Who) (v : BitVec 8), s.part.mayWrite w .fwKeyRevoke → v.toNat ≤ 3 →
      (v.toNat ≠ s.part.od .fwKeyIndex 0 → (∃ j < 4, j ≠ v.toNat ∧ bit s.part.flash.revoked j = false) →
        ∃ q : Part, exec (.fwKeyRevoke w v) s = .next (s.withPart q) ∧
          q.flash = { s.part.flash with revoked := setBit s.part.flash.revoked v.toNat true }) ∧
      (v.toNat = s.part.od .fwKeyIndex 0 →
        exec (.fwKeyRevoke w v) s = .next (s.withPart (s.part.emit (.answer w rCondition []))))) ∧
    (∀ w token, s.part.mayWrite w .debugUnlock →
      (s.part.tokenOk token = true → ∃ q : Part, exec (.debugUnlock w token) s = .next (s.withPart q) ∧ q.od .debugState 0 = 1 ∧
        ∀ e, e ≠ .debugState → e ≠ .ringState → q.od e 0 = s.part.od e 0) ∧
      (s.part.tokenOk token = false → exec (.debugUnlock w token) s = .next (s.withPart (s.part.emit (.answer w rKey []))))) ∧
    (∀ (p : Pav) (wr : Bool) (addr data : U64),
      (s.part.od .debugState 0 = 0 → exec (.debugPortAccess p wr addr data) s = .next s) ∧
      (s.part.od .debugState 0 ≠ 0 →
        exec (.debugPortAccess p true addr data) s = .next (s.withPart (s.part.filterWrite 0 p addr.toNat data.toNat)) ∧
        (s.part.filterAllows p addr.toNat false = true → (s.part.ownOf p (addr.toNat / 2 ^ 21)).kind ≠ kindSystem →
          exec (.debugPortAccess p false addr data) s = .next (s.withPart (s.part.emit
            (.debug (bits (sddcCheck (s.part.burstNow p (addr.toNat / 64))).value (64 * (addr.toNat / 8 % 8)) 64)))))))

/-- The network. The management link changes while pavilion 0 and VAUX stand; an UP port answers address resolution for its own addresses, in REST
too, an echo outside REST only, and takes a DHCP lease where DHCP is chosen. APPLY puts every staged setting in force after its answer, CONFIRM over
the port keeps it, and without it the old settings return. The I3C address is taken; the MCTP control messages are answered: an endpoint identifier
that is neither null nor broadcast is set (log entry 46), and the one held is returned; type 0x7E is supported; one vendor set. The completion codes
are the model's (log entry 46). -/
def Obligations.NetworkAndMctp : Prop :=
  ∀ s : State,
    (∀ up, s.part.boot.pav0Lost = false → s.part.power.vaux = true →
      exec (.mgmtLinkChange up) s = .next (s.withPart (s.part.setOd .mgmtLinkState 0 (if up then 1 else 0)))) ∧
    (s.part.od .mgmtLinkState 0 = 1 →
      (∀ a : BitVec 32, (s.part.ownsV4 a.toNat = true → exec (.arpRequest a) s = .next (s.withPart (s.part.emit (.net 0 [a.toNat, s.part.flash.mac])))) ∧
        (s.part.ownsV4 a.toNat = false → exec (.arpRequest a) s = .next s)) ∧
      (∀ a : BitVec 128, (s.part.ownsV6 a.toNat = true →
          exec (.neighbourSolicitation a) s = .next (s.withPart (s.part.emit (.net 1 [a.toNat, s.part.flash.mac])))) ∧
        (s.part.ownsV6 a.toNat = false → exec (.neighbourSolicitation a) s = .next s)) ∧
      (∀ (v6 : Bool) (a : BitVec 128) (data : Nat), s.part.listens = true → (if v6 then s.part.ownsV6 a.toNat else s.part.ownsV4 a.toNat) = true →
        exec (.icmpEchoRequest v6 a data) s = .next (s.withPart (s.part.emit (.net (if v6 then 3 else 2) [a.toNat, data])))) ∧
      (∀ (a g : BitVec 32) (l : BitVec 8), s.part.listens = true → s.part.od .mgmtIpv4Mode 0 = 1 →
        exec (.dhcpv4Message a l g) s = .next (s.withPart { s.part with gate := { s.part.gate with lease := some (a.toNat, l.toNat, g.toNat) } })) ∧
      (∀ (v6 : Bool) (a : BitVec 128) (data : Nat), s.part.rest.inRest = true →
        exec (.icmpEchoRequest v6 a data) s = .next (s.withPart (s.part.count .mgmtFramesDropped 0)))) ∧
    (∀ w, s.part.mayWrite w .mgmtCommand →
      (∃ q : Part, exec (.mgmtApply w) s = .next (s.withPart q) ∧ (∀ e ∈ stagedEntries, q.od e 0 =
          ((s.part.gate.netStaged.find? fun x => x.1 == e.key 0).map fun x => x.2 % 2 ^ (8 * e.info.bytes)).getD (s.part.od e 0)) ∧
        q.slices = s.part.slices ∧ q.vint = s.part.vint ∧ q.keys = s.part.keys) ∧
      (s.part.overEthernet w = true → exec (.mgmtConfirm w) s = .next (s.withPart
        (Part.emit { s.part with gate := { s.part.gate with netOld := none } } (.answer w rOk []))))) ∧
    (∀ m, s.part.gate.netOld = some m → ∃ q : Part, exec .mgmtConfirmTimeout s = .next (s.withPart q) ∧
      (∀ e ∈ stagedEntries, q.od e 0 = ((m.find? fun x => x.1 == e.key 0).map fun x => x.2 % 2 ^ (8 * e.info.bytes)).getD (s.part.od e 0)) ∧
      q.slices = s.part.slices ∧ q.vint = s.part.vint ∧ q.keys = s.part.keys) ∧
    (∀ a, s.part.power.vaux = true → exec (.i3cDynamicAddressAssign a) s = .next (s.withPart (s.part.setOd .i3cDynamicAddress 0 a.toNat))) ∧
    (s.part.listens = true → s.part.rest.step = none →
      (∀ eid : BitVec 8, eid ≠ 0 → eid ≠ 0xFF → exec (.mctpSetEndpointId eid) s = .next (s.withPart
        ((s.part.setOd .mctpEid 0 eid.toNat).emit (.mctp 1 [0, 0, eid.toNat, 0])))) ∧
      exec .mctpGetEndpointId s = .next (s.withPart (s.part.emit (.mctp 2 [0, s.part.od .mctpEid 0, 0, 0]))) ∧
      (∃ v, exec (.mctpGetVersionSupport 0x7E) s = .next (s.withPart (s.part.free.2.emit (.mctp 4 [0, 1, v])))) ∧
      exec .mctpGetMessageTypeSupport s = .next (s.withPart (s.part.emit (.mctp 5 [0, 1, 0x7E]))) ∧
      exec (.mctpGetVendorDefinedSupport 0) s = .next (s.withPart (s.part.emit (.mctp 6 [0, 0xFF, 0, 0x1F8B, 0]))))

/-! ## Capacity, pavilions, slices -/

/-- Dynamic capacity. An accepted ADD makes region-map entries and asks for a compile, with DC_STATE COMPILING; an accepted RELEASE writes its record
and waits; FORCE_RELEASE of unmapped extents releases them at once, with DC_RESULT FORCED. The host's response ends an offer: what it accepted stays
granted, the rest is released; no response in time releases everything. Release Dynamic Capacity clears the mask bits and waits for the requests
decoded before; when they have gone, the extents are released and the answer is sent. -/
def Obligations.DynamicCapacity : Prop :=
  ∀ (s : State) (i : Port),
    (∀ (w : Who) (x : BitVec 128) (r : DcReq), s.part.mayWrite w .dcRequest → 0 < r.count → r.count ≤ 65536 → r.first + r.count ≤ 2 ^ 25 →
      s.part.boundPort r.slice = some i.val → s.part.od .dcState i = 0 →
      (r = DcReq.decode (setBits x.toNat 0 8 1) → (∀ k < r.count, s.part.granted r.slice (r.first + k) = false) →
        ∀ taken t, s.part.mapRegions i r.slice r.dc (((List.range r.count).map fun k => (r.first + k) / 512).eraseDups) = some (taken, t) →
        ∃ q : Part, exec (.dcRequestAdd w i x) s = .next (s.withPart q) ∧ q.od .dcState i = 1 ∧
          (q.port i).dcOp = some ⟨r.slice, r.first, r.count, taken, [], 1⟩ ∧ (q.port i).regionMap = (t.port i).regionMap ∧
          q.vint.queue = s.part.vint.queue ++ [⟨0, [], none, .grant i, 0⟩] ∧ q.slices = s.part.slices ∧
          q.out = s.part.out ++ [.answer w rOk []]) ∧
      (r = DcReq.decode (setBits x.toNat 0 8 2) → (∀ k < r.count, s.part.granted r.slice (r.first + k) = true) →
        ∃ q : Part, exec (.dcRequestRelease w i x) s = .next (s.withPart q) ∧ q.od .dcState i = 3 ∧
          (∃ runs, (q.port i).dcOp = some ⟨r.slice, r.first, r.count, [], runs, 2⟩) ∧ q.slices = s.part.slices) ∧
      (r = DcReq.decode (setBits x.toNat 0 8 3) → (∀ k < r.count, s.part.granted r.slice (r.first + k) = true) →
        (∀ k < r.count, s.part.regionEntry i r.slice ((r.first + k) / 512) = none) → (s.part.port i).releases = [] →
        (∀ p < 8, s.part.pstate p ≠ 3 ∧ s.part.pstate p ≠ 5) →
        ∃ q : Part, exec (.dcRequestForceRelease w i x) s = .next (s.withPart q) ∧ q.od .dcState i = 0 ∧ q.od .dcResult i = 6 ∧
          ∀ sl le, q.granted sl le =
            if sl = r.slice ∧ r.first ≤ le ∧ le < r.first + r.count then false else s.part.granted sl le)) ∧
    (∀ (w : Who) (x : BitVec 128), s.part.mayWrite w .dcRequest → s.part.od .dcState i ∈ [1, 2] →
      ∀ c ∈ [Instr.dcRequestAdd w i x, .dcRequestRelease w i x], exec c s = .next (s.withPart (s.part.emit (.answer w rBusy [])))) ∧
    (∀ op : DcOp, (s.part.port i).dcOp = some op → op.slice < 4096 → s.part.od .dcState i = 2 → op.kind ≠ 4 →
      (∀ p < 8, s.part.pstate p ≠ 3 ∧ s.part.pstate p ≠ 5) →
      (∀ (runs : List (Nat × Nat)) (xs : List Nat), dpaExts runs = some xs →
        (∀ x ∈ xs, ∃ le ∈ op.offered, s.part.extOfDpa i x = some (op.slice, le)) →
        ∃ q : Part, exec (.addDcResponse i runs) s = .next (s.withPart q) ∧ q.od .dcState i = 0 ∧ (q.port i).dcOp = none ∧
          q.od .dcResult i = (if xs = [] then 3 else if ∀ le ∈ op.offered, ∃ x ∈ xs, s.part.extOfDpa i x = some (op.slice, le) then 1 else 2) ∧
          ∀ sl le, q.granted sl le = if sl = op.slice ∧ le ∈ op.offered ∧ ¬ ∃ x ∈ xs, s.part.extOfDpa i x = some (op.slice, le)
            then false else s.part.granted sl le) ∧
      ∃ q : Part, exec (.dcOfferTimeout i) s = .next (s.withPart q) ∧ q.od .dcState i = 0 ∧ q.od .dcResult i = 4 ∧
        (q.port i).dcOp = none ∧ ∀ sl le, q.granted sl le = if sl = op.slice ∧ le ∈ op.offered then false else s.part.granted sl le) ∧
    (∀ (runs : List (Nat × Nat)) (xs : List Nat), (s.part.port i).mboxBusy = none → dpaExts runs = some xs → xs ≠ [] →
      (∀ x ∈ xs, s.part.maskBit i x = true) →
      ∃ q : Part, exec (.releaseDc i runs) s = .next (s.withPart q) ∧ (q.port i).mboxBusy = some 0x4803 ∧
        (q.port i).releases = (s.part.port i).releases ++ [⟨xs, false, false⟩] ∧
        (∀ x, q.maskBit i x = if x ∈ xs then false else s.part.maskBit i x) ∧ Part.only [.ports] s.part q) ∧
    (∀ r : Release, (s.part.port i).releases = [r] → r.forced = false → s.part.decodedInto i r.extents = false →
      (s.part.port i).mboxBusy = some 0x4803 → (s.part.port i).dcOp = none → (∀ p < 8, s.part.pstate p ≠ 3 ∧ s.part.pstate p ≠ 5) →
      ∃ q : Part, exec (.dcReleaseDrained i) s = .next (s.withPart q) ∧ (q.port i).releases = [] ∧ (q.port i).mboxBusy = none ∧
        .mailbox i mbSuccess [] ∈ q.out ∧
        ∀ sl le, q.granted sl le = if ∃ x ∈ r.extents, s.part.extOfDpa i x = some (sl, le) then false else s.part.granted sl le) ∧
    exec (.mboxGetDcExtentList i) s = .next (s.withPart (s.part.mbox i mbSuccess ((tagRuns (s.part.acceptedExts i)).length ::
      (tagRuns (s.part.acceptedExts i)).flatMap fun r => [r.1 * 2 ^ 21, r.2.1 * 2 ^ 21, r.2.2])))

/-- The commands of a pavilion. STOP of a pavilion in service that homes nothing, whose ports serve no slice, ends in STOPPED with cause COMMAND;
START of a STOPPED one in STARTING, its ports and its channels starting; RETIRE of one that homes regions in RETIRING, while none other retires and
two more are in service; RETURN of a RETIRED one, by a vendor, leaves the wear record and pends for the next boot. A command in the wrong state is
refused with STATE_NOT_ALLOWED. -/
def Obligations.PavilionCommands : Prop :=
  ∀ (s : State) (w : Who) (p : Pav), s.part.mayWrite w .pavilionCommand →
    (s.part.pstate p = 1 → p.val ≠ 0 → s.part.regionsHomed p = [] → s.part.portsBusy p = false →
      2 ≤ (s.part.serving.filter (· != p.val)).length →
      ∃ q : Part, exec (.pavilionStop w p) s = .next (s.withPart q) ∧ q.od .pavilionState p = 2 ∧ q.od .pavilionCause p = 1 ∧
        (∀ c : Chan, q.od .channelState c = if c.val / 8 = p ∧ s.part.od .channelState c ≠ 0 then 3 else s.part.od .channelState c) ∧
        (∀ r : Pav, r ≠ p → q.od .pavilionState r = s.part.od .pavilionState r) ∧ .answer w rOk [] ∈ q.out) ∧
    (s.part.pstate p = 2 →
      ∃ q : Part, exec (.pavilionStart w p) s = .next (s.withPart q) ∧ q.od .pavilionState p = 1 ∧ q.od .pavilionCause p = 0 ∧
        q.od .pavilionPowerState p = 0 ∧
        (∀ c : Chan, q.od .channelState c = if c.val / 8 = p ∧ s.part.od .channelState c ≠ 0 then 2 else s.part.od .channelState c) ∧
        (∀ i : Port, q.od .portState i = if i.val / 2 = p ∧ s.part.od .portState i = 0 then
          (if (s.part.port i).perst then 1 else 2) else s.part.od .portState i) ∧ .answer w rOk [] ∈ q.out) ∧
    (s.part.pstate p ∈ [1, 2] → p.val ≠ 0 → (∀ r : Pav, s.part.pstate r ≠ 3) → 2 ≤ (s.part.inServiceState.filter (· != p.val)).length →
      s.part.vint.inForce.place.sorted = true →
      (∃ k, placeValid (s.part.vint.inForce.place.get 0 k) = true ∧ placeHome (s.part.vint.inForce.place.get 0 k) = p) →
      ∃ q : Part, exec (.pavilionRetire w p) s = .next (s.withPart q) ∧ q.od .pavilionState p = 3 ∧ q.od .pavilionCause p = 1 ∧
        (∀ r : Pav, r ≠ p → q.od .pavilionState r = s.part.od .pavilionState r) ∧ .answer w rOk [] ∈ q.out) ∧
    (s.part.pstate p = 4 → s.part.roleOf w = roleVendor →
      exec (.pavilionReturn w p) s = .next (s.withPart
        ((({ s.part with flash := { s.part.flash with retired := setBit s.part.flash.retired p false } } : Part).setOd
          .pavilionReturnPending p 1).emit (.answer w rOk [])))) ∧
    (∀ c ∈ [(Instr.pavilionStop w p, [1]), (.pavilionStart w p, [2]), (.pavilionRetire w p, [1, 2])], ¬ s.part.pstate p ∈ c.2 →
      exec c.1 s = .next (s.withPart (s.part.emit (.answer w rState []))))

/-- Faults. A heartbeat is noted by its time; without one, or without the always-on clock, pavilion 0 is declared lost: the management port goes down
and every DIMM branch goes off. A fault of a pavilion, the loss of its root clock, a branch that trips while it is in service, or a link that fails
for good and leaves it without a path, make it FAILED (or, when it homes nothing that is left, RETIRED already): its links are DISABLED and its
branches off. A branch that trips while its pavilion is STARTING waits to ramp again within its retries. A training attempt that fails is tried again
within its attempts. An agent of a REST entry agrees, or refuses and ends the attempt; the last one to agree ends in REST. -/
def Obligations.FaultsAndLoss : Prop :=
  ∀ s : State,
    (s.part.pstate 0 ≠ 5 → s.part.boot.pav0Lost = false → exec .gatehouseHeartbeat s = .next (s.withPart { s.part with
      boot := { s.part.boot with heartbeat := s.part.now + 1 } })) ∧
    (s.part.boot.pav0Lost = false →
      (s.part.rest.inRest = false → s.part.boot.heartbeat ≠ s.part.now + 1 → ∃ q : Part, exec .heartbeatTimeout s = .next (s.withPart q) ∧ q.boot.pav0Lost = true ∧
        q.od .mgmtLinkState 0 = 0 ∧ ∀ b : Branch, q.od .branchState b = 0 ∨ q.od .branchState b = 4) ∧
      ∃ q : Part, exec .aonPllLockLoss s = .next (s.withPart q) ∧ q.boot.pav0Lost = true ∧ q.od .aonPllLocked 0 = 0 ∧
        q.od .mgmtLinkState 0 = 0 ∧ ∀ b : Branch, q.od .branchState b = 0 ∨ q.od .branchState b = 4) ∧
    (∀ p : Pav, s.part.pstate p < 4 → s.part.rest.step = none → s.part.gate.held = [] →
      (∀ c, (c = .pavilionFault p ∨ c = .rootPllLockLoss p ∧ s.part.rest.inRest = false ∧ s.part.od .pllLocked p ≠ 0) →
        ∃ q : Part, exec c s = .next (s.withPart q) ∧ (q.od .pavilionState p = 5 ∨ p.val ≠ 0 ∧ q.od .pavilionState p = 4) ∧
          q.od .pavilionCause p = 3 ∧ (∀ n : Link, (linkEnds n).1 = p ∨ (linkEnds n).2 = p → q.od .linkState n = 5) ∧
          (p.val ≠ 0 → ∀ b : Branch, b.val / 2 = p → q.od .branchState b = 0 ∨ q.od .branchState b = 4) ∧
          (c = .rootPllLockLoss p → q.od .pllLocked p = 0))) ∧
    (∀ n : Link, s.part.od .linkState n ∈ [1, 3] → s.part.gate.held = [] →
      ((s.part.link n).attempts + 1 < s.part.od .linkRetrainAttempts n →
        ∃ q : Part, exec (.linkTrainingFail n) s = .next (s.withPart q) ∧ (q.link n).attempts = (s.part.link n).attempts + 1 ∧
          Part.only [.links] s.part q) ∧
      (s.part.od .linkRetrainAttempts n ≤ (s.part.link n).attempts + 1 →
        (s.part.setOd .linkState n 4).pathless = [] →
        ∃ q : Part, exec (.linkTrainingFail n) s = .next (s.withPart q) ∧ q.od .linkState n = 4 ∧
          ∀ m : Link, m ≠ n → q.od .linkState m = s.part.od .linkState m)) ∧
    (∀ (b : Branch) (c : Instr) (cause : Nat), s.part.gate.held = [] → s.part.power.branchQ = [] →
      (c = .branchRampTimeout b ∧ cause = 3 ∧ s.part.od .branchState b = 1 ∨
       c = .branchFastTrip b ∧ cause = 1 ∧ s.part.od .branchState b ∈ [1, 2] ∨
       c = .branchSoaTimerExpiry b ∧ cause = 2 ∧ s.part.od .branchState b ∈ [1, 2] ∧ b.val + 1 ∈ s.part.power.limiting) →
      (s.part.pstate (b / 2) = 0 → s.part.power.branchTrips.get 0 b + 1 ≤ s.part.od .branchRetries b →
        ∃ q : Part, exec c s = .next (s.withPart q) ∧ q.od .branchState b = 3 ∧ q.od .branchLastTrip b = cause ∧
          q.od .branchTrips b = (s.part.od .branchTrips b + 1) % 2 ^ 32 ∧
          q.power.branchTrips.get 0 b = s.part.power.branchTrips.get 0 b + 1) ∧
      (s.part.pstate (b / 2) ∈ [1, 2, 3] → b.val / 2 ≠ 0 → s.part.rest.step = none → s.part.rest.inRest = false →
        ∃ q : Part, exec c s = .next (s.withPart q) ∧ q.od .branchState b = 4 ∧ q.od .branchLastTrip b = cause ∧
          q.od .branchTrips b = (s.part.od .branchTrips b + 1) % 2 ^ 32 ∧ q.od .pavilionCause (b / 2) = 3 ∧
          (q.od .pavilionState (b / 2) = 5 ∨ q.od .pavilionState (b / 2) = 4))) ∧
    (s.part.gate.held = [] →
      (s.part.rest.step = some 1 → s.part.rest.wake = none → exec .restAgentAgree s = .next (s.withPart { s.part with
        rest := { s.part.rest with step := some 2 } })) ∧
      (s.part.rest.step = some 2 → s.part.rest.agreed = [] → s.part.gateRefuses = 0 →
        exec .restAgentAgree s = .next (s.withPart { s.part with rest := { s.part.rest with agreed := [0x0100] } })) ∧
      (s.part.rest.step = some 2 → s.part.rest.agreed = [] → s.part.gateRefuses ≠ 0 → s.part.gateRefuses < 256 →
        ∃ q : Part, exec .restAgentAgree s = .next (s.withPart q) ∧ q.rest.step = none ∧ q.rest.agreed = [] ∧
          q.od .restLastRefuser 0 = 0x0100 ∧ q.od .restLastRefusalReason 0 = s.part.gateRefuses) ∧
      (s.part.rest.step = some 7 → s.part.rest.wake = none → (∀ k < 7, 0x0601 + k ∈ s.part.rest.agreed.map (· % 0x10000)) → ¬ 0x0600 ∈ s.part.rest.agreed.map (· % 0x10000) →
        ∃ q : Part, exec .restAgentAgree s = .next (s.withPart q) ∧ q.rest.inRest = true ∧ q.rest.step = none ∧
          q.od .packagePowerState 0 = 3 ∧ q.power.coreEn = false ∧ q.power.corePG = false))

/-- The life of a slice. CREATE on a port in service ends in STOPPED; START of a STOPPED slice with a key in RUNNING, or in a compile first where its
settings changed; STOP, FREEZE, RESET and REMOVE begin a drain of their kind, and RESET and REMOVE leave nothing of the slice queued or parked at any
port; THAW ends in RUNNING again. The drain's end logs and ends in STOPPED or FROZEN; a RESET's in STOPPED with its keys destroyed and the slice
clearing; a REMOVE's in FREE. Clearing ends with nothing granted to a removed slice. CANCEL ends a SAVE; REOFFER and SLICE_PORT bind and offer. -/
def Obligations.SliceLifecycle : Prop :=
  ∀ (s : State) (w : Who) (sl : Slice),
    (s.part.mayWrite w .sliceCommand →
      (s.part.od .sliceState sl = 0 → s.part.od .slicePort sl < 16 → s.part.pstate (portPav (s.part.od .slicePort sl)) = 1 →
        s.part.od .sliceClearing sl ≠ 1 →
        ∃ q : Part, exec (.sliceCreate w sl) s = .next (s.withPart q) ∧ q.od .sliceState sl = 1 ∧ (q.slice sl).created = true ∧
          (q.slice sl).changed = true ∧ Part.odOnly [(.sliceState, sl.val)] s.part q ∧ Part.only [.dict, .slices, .out] s.part q) ∧
      (s.part.od .sliceState sl = 1 → s.part.hasKey sl = true → s.part.od .sliceClearing sl ≠ 1 → (s.part.slice sl).rebound = false →
        s.part.starting sl = false →
        ((s.part.slice sl).changed = true →
          exec (.sliceStart w sl) s = .next (s.withPart (s.part.ask ⟨0, [], some w, .start sl, 0⟩))) ∧
        ((s.part.slice sl).changed = false → ∃ q : Part, exec (.sliceStart w sl) s = .next (s.withPart q) ∧ q.od .sliceState sl = 2 ∧
          Part.odOnly [(.sliceState, sl.val)] s.part q ∧ Part.only [.dict, .slices, .out] s.part q ∧
          q.out = s.part.out ++ [.answer w rOk []])) ∧
      (s.part.od .sliceState sl = 3 →
        exec (.sliceThaw w sl) s = .next (s.withPart ((s.part.setOd .sliceState sl 2).emit (.answer w rOk []))) ∧
        exec (.sliceStop w sl) s = .next (s.withPart ((s.part.setOd .sliceState sl 1).emit (.answer w rOk [])))) ∧
      ((s.part.slice sl).bundle = none → s.part.building = false →
        (∀ (c : Instr) (kind : Nat),
          (c = .sliceStop w sl ∧ kind = 1 ∧ s.part.od .sliceState sl = 2 ∨
           c = .sliceFreeze w sl ∧ kind = 2 ∧ s.part.od .sliceState sl = 2 ∧ s.part.od .sliceMigrationId sl = 0) →
          ∃ q : Part, exec c s = .next (s.withPart q) ∧ q.od .sliceState sl = 4 ∧ q.od .sliceDrainKind sl = kind ∧
            (q.slice sl).drain = some ⟨kind, s.part.now, 0, false⟩ ∧
            Part.odOnly [(.sliceState, sl.val), (.sliceDrainKind, sl.val)] s.part q) ∧
        (∀ (c : Instr) (kind : Nat), (c = .sliceReset w sl ∧ kind = 3 ∨ c = .sliceRemove w sl ∧ kind = 4) →
          s.part.od .sliceState sl ∈ [1, 2, 3] →
          ∃ q : Part, exec c s = .next (s.withPart q) ∧ q.od .sliceState sl = 4 ∧ q.od .sliceDrainKind sl = kind ∧
            ∀ i : Port, (q.part i sl).queue = [] ∧ ∀ r ∈ (q.port i).park, r.slice ≠ sl.val)) ∧
      (s.part.od .sliceState sl ∈ [1, 2, 3] → ∀ b : Bundle, (s.part.slice sl).bundle = some b → b.restore = false →
        s.part.vint.shadow = none →
        ∃ q : Part, exec (.sliceCancel w sl) s = .next (s.withPart q) ∧ (q.slice sl).bundle = none ∧ q.od .sliceSaveResult sl = 6 ∧
          q.od .sliceState sl = s.part.od .sliceState sl) ∧
      (s.part.od .sliceState sl = 1 → s.part.dcBusy sl = false →
        (s.part.unmappedExts sl = [] → exec (.sliceReoffer w sl) s = .next (s.withPart
          ((s.part.onSlice sl fun q => { q with rebound := false }).emit (.answer w rOk [])))) ∧
        (∀ i : Port, s.part.od .slicePort sl = i → (∃ le ∈ s.part.unmappedExts sl, (s.part.dpaExt i sl le).isSome = true) →
          ∃ q : Part, exec (.sliceReoffer w sl) s = .next (s.withPart q) ∧ q.od .dcState i = 2 ∧ (q.slice sl).rebound = false ∧
            ∃ op, (q.port i).dcOp = some op ∧ op.slice = sl ∧ op.kind = 4)) ∧
      (s.part.od .sliceState sl = 4 → ∀ c ∈ [Instr.sliceCreate w sl, .sliceStart w sl, .sliceStop w sl, .sliceFreeze w sl, .sliceThaw w sl,
          .sliceSave w sl, .sliceRestore w sl, .sliceReset w sl, .sliceRemove w sl, .sliceCancel w sl, .sliceReoffer w sl],
        exec c s = .next (s.withPart (s.part.emit (.answer w rDraining []))))) ∧
    (∀ v : BitVec 8, writeChecks Entry.slicePort.info (s.part.roleOf w) v.toNat 1 (s.part.sliceStopped sl) = none →
      s.part.od .partFailed 0 = 0 →
      (s.part.od .sliceState sl = 0 → exec (.slicePortWrite w sl v) s = .next (s.withPart
        ((s.part.setOd .slicePort sl v.toNat).emit (.answer w rOk [])))) ∧
      (s.part.od .sliceState sl ≠ 0 → 16 ≤ s.part.od .slicePort sl → v.toNat < 16 →
        ∀ t, s.part.mapSlice v.toNat sl ((s.part.slice sl).grants.map (·.1)) = some t →
        ∃ q : Part, exec (.slicePortWrite w sl v) s = .next (s.withPart q) ∧ q.od .slicePort sl = v.toNat ∧
          (q.slice sl).changed = true ∧ (q.slice sl).rebound = !(s.part.slice sl).grants.isEmpty ∧ q.ports = t.ports)) ∧
    (∀ d : Drain, (s.part.slice sl).drain = some d → s.part.outstanding sl = false →
      ∃ q : Part, exec (.sliceDrainEnd sl) s = .next (s.withPart q) ∧ (q.slice sl).drain = none ∧
        (d.kind = 1 → q.od .sliceState sl = 1) ∧ (d.kind = 2 → q.od .sliceState sl = 3) ∧
        (d.kind = 3 → q.od .sliceState sl = 1 ∧ q.od .sliceClearing sl = 1 ∧ q.od .sliceMigrationId sl = 0 ∧ q.hasKey sl = false) ∧
        (d.kind = 4 → q.od .sliceState sl = 0 ∧ q.od .sliceClearing sl = 1 ∧ (q.slice sl).minute.removed = true) ∧
        (d.kind = 1 ∨ d.kind = 2 → q.od .sliceLastDrain sl = (s.part.now - d.start) / 1000 % 2 ^ 32)) ∧
    (s.part.od .sliceClearing sl = 1 → (∀ p : Pav, s.part.pstate p ≠ 3 ∧ s.part.pstate p ≠ 5) →
      ∃ q : Part, exec (.sliceClearingDone sl) s = .next (s.withPart q) ∧ q.od .sliceClearing sl = 0 ∧
        (s.part.od .sliceState sl ≠ 0 → ∀ k, (q.slice k).grants = (s.part.slice k).grants) ∧
        (s.part.od .sliceState sl = 0 → ∀ le, q.granted sl le = false))

/-- Migration, and the doorbells of the tenant page. Arming sets the identifier, the sequence 0, and marks every granted extent; disarming clears the
identifier. SAVE forms a bundle, which is sent body first and header last, and the sequence rises; RESTORE reads the bundle's header, and a bundle
that passes every check and is stored whole raises the sequence. A doorbell that is accepted leaves its TAG, its operation and ACCEPTED, and does
what its command does. -/
def Obligations.MigrationAndDoorbells : Prop :=
  ∀ (s : State) (sl : Slice),
    (∀ (w : Who) (v : U64), s.part.mayWrite w .sliceMigrationId → s.part.od .sliceState sl ∈ [1, 2, 3] → s.part.od .rekeyState sl ≠ 1 →
      s.part.sweepComing sl = false →
      (v.toNat ≠ 0 → ∃ q : Part, exec (.sliceMigrationIdWrite w sl v) s = .next (s.withPart q) ∧
        q.od .sliceMigrationId sl = v.toNat ∧ q.od .sliceBundleSequence sl = 0 ∧ (q.slice sl).finalDone = false ∧
        ∀ le p, s.part.granted sl le = true → s.part.homeOf sl (le * 512) = some p → (q.pav p).dirty.get 0 (extentKey sl le) = 1) ∧
      (v.toNat = 0 → (s.part.slice sl).rekeyWait = [] → ∃ q : Part, exec (.sliceMigrationIdWrite w sl v) s = .next (s.withPart q) ∧
        q.od .sliceMigrationId sl = 0 ∧ (q.slice sl).keyRestored = false ∧ Part.odOnly [(.sliceMigrationId, sl.val)] s.part q)) ∧
    (∀ w, s.part.mayWrite w .sliceCommand → s.part.od .sliceMigrationId sl ≠ 0 → (s.part.slice sl).bundle = none →
      (s.part.od .sliceState sl ∈ [2, 3] → (s.part.wrapKey (s.part.od .sliceWrapIndex sl)).live = true →
        ∃ q : Part, exec (.sliceSave w sl) s = .next (s.withPart q) ∧ (q.slice sl).bundle = some (s.part.formBundle sl false).2 ∧
          q.od .sliceSaveResult sl = 1 ∧ .answer w rOk [] ∈ q.out) ∧
      (s.part.od .sliceState sl = 1 → s.part.od .sliceClearing sl ≠ 1 → s.part.bmActive (s.part.trafficPort sl) = true →
        covered (s.part.sliceWindows (s.part.trafficPort sl) sl) 17 (s.part.od .sliceBundleAddress sl) (s.part.od .sliceBundleAddress sl + 64) = true →
        ∃ q : Part, exec (.sliceRestore w sl) s = .next (s.withPart q) ∧ (q.slice sl).bundle = some ⟨true, false, 0, [], 0, false⟩ ∧
          q.od .sliceRestoreResult sl = 1 ∧
          .hostRead (s.part.trafficPort sl) (s.part.od .sliceBundleAddress sl) 64 (s.part.slicePasidTag sl) ∈ q.out)) ∧
    (∀ b : Bundle, (s.part.slice sl).bundle = some b → b.restore = false → s.part.bmActive (s.part.trafficPort sl) = true →
      (∀ k len, (k, len) ∈ [(64, b.size - 64), (0, 64)] → covered (s.part.sliceWindows (s.part.trafficPort sl) sl) 17
        (s.part.od .sliceBundleAddress sl + k) (s.part.od .sliceBundleAddress sl + k + len) = true) →
      ∃ t : Part, exec (.saveBundleSent sl) s = .next (s.withPart
          ((t.logEv 0x1304 (s.part.od .sliceBundleSequence sl) b.size (some sl.val)).endDoorbell sl b.doorbell 2)) ∧
        (t.slice sl).bundle = none ∧ t.od .sliceSaveResult sl = (if b.final then 4 else if (s.part.dirtyExts sl).isEmpty then 2 else 3) ∧
        t.od .sliceBundleSequence sl = (s.part.od .sliceBundleSequence sl + 1) % 2 ^ 32 ∧ t.od .sliceBundleSize sl = b.size % 2 ^ 32 ∧
        t.out = s.part.out ++ [
          .hostWrite (s.part.trafficPort sl) (s.part.od .sliceBundleAddress sl + 64) (b.size - 64) (b.bytes >>> 512) (s.part.slicePasidTag sl),
          .hostWrite (s.part.trafficPort sl) (s.part.od .sliceBundleAddress sl) 64 (b.bytes % 2 ^ 512) (s.part.slicePasidTag sl)]) ∧
    (∀ (b : Bundle) (x len : Nat) (h : BundleHead) (r : BundleRead) (t : Part), (s.part.slice sl).bundle = some b → b.restore = true → b.size = 0 →
      h = BundleHead.decode (x % 2 ^ 512) → h.format = 1 → h.length ≤ s.part.od .sliceBundleLen sl * 1024 → s.part.bmActive (s.part.trafficPort sl) = true →
      covered (s.part.sliceWindows (s.part.trafficPort sl) sl) 17 (s.part.od .sliceBundleAddress sl) (s.part.od .sliceBundleAddress sl + h.length) = true →
      s.part.readBundle x len = some r → s.part.bundleRefusal sl x len r = none →
      Part.restorePages sl h.slice r.pages ((s.part.restoreKeys sl h.sequence h.serial r.keys).onSlice sl fun q => { q with bundle := some { b with size := len } }) = (t, true) →
      (h.final = true → exec (.restoreBundleRead sl x len) s = .next (s.withPart (t.ask ⟨0, stateWrites sl r.states, none, .restore sl, 0⟩))) ∧
      (h.final = false → (t.slice sl).bundle = some { b with size := len } →
        ∃ q : Part, exec (.restoreBundleRead sl x len) s = .next (s.withPart q) ∧ (q.slice sl).bundle = none ∧ q.od .sliceRestoreResult sl = 2 ∧
          q.od .sliceBundleSequence sl = (t.od .sliceBundleSequence sl + 1) % 2 ^ 32 ∧ q.od .sliceBundleSize sl = len % 2 ^ 32)) ∧
    (∀ (i : Port) (x : BitVec 32) (d : DoorWrite), d = DoorWrite.decode x → s.part.boundPort sl = some i.val → d.wide = true →
      (s.part.doorRefusal sl 1 d = 0 → ∃ q : Part, exec (.tpDoorbellCounterDump i sl x) s = .next (s.withPart q) ∧ Part.only [.slices] s.part q ∧
        ∀ k, q.slice k = if k = sl.val then { s.part.slice sl with doorTag := d.tag, doorOp := 1, doorRun := 1, doorResult := 1 } else s.part.slice k) ∧
      (s.part.doorRefusal sl 2 d = 0 → s.part.od .sliceMigrationId sl ≠ 0 → (s.part.wrapKey (s.part.od .sliceWrapIndex sl)).live = true →
        (s.part.slice sl).bundle = none →
        ∃ q : Part, exec (.tpDoorbellSave i sl x) s = .next (s.withPart q) ∧ (q.slice sl).doorResult = 1 ∧
          (q.slice sl).bundle.isSome = true ∧ q.od .sliceSaveResult sl = 1) ∧
      (s.part.doorRefusal sl 3 d = 0 → s.part.od .sliceMigrationId sl ≠ 0 → s.part.od .sliceClearing sl ≠ 1 → (s.part.slice sl).bundle = none →
        s.part.bmActive (s.part.trafficPort sl) = true →
        covered (s.part.sliceWindows (s.part.trafficPort sl) sl) 17 (s.part.od .sliceBundleAddress sl) (s.part.od .sliceBundleAddress sl + 64) = true →
        ∃ q : Part, exec (.tpDoorbellRestore i sl x) s = .next (s.withPart q) ∧ (q.slice sl).doorTag = d.tag ∧ (q.slice sl).doorOp = 3 ∧
          (q.slice sl).doorRun = 3 ∧ (q.slice sl).doorResult = 1 ∧ (q.slice sl).bundle = some ⟨true, false, 0, [], 0, true⟩ ∧
          q.od .sliceRestoreResult sl = 1))

/-! ## Management sessions and counters -/

/-- A new request of an open session is executed and answered, over every transport, and stored with its SEQUENCE and its answer: reading, writing,
the segmented transfers, the catalogue, the subscription and the notifications. A write that only takes its value answers OK and changes that value.
-/
def Obligations.SessionRequests : Prop :=
  ∀ (s : State) (t : Transport) (k : Nat) (f : Frame) (x : Part), s.part.hears t f → s.part.newTo k f → x = s.part.takes t k f →
    ((f.opcode = 0x03 → ∀ c, (c = .vopKeepalive t f ∨ ∃ i, t = .mailbox i ∧ c = .mboxVopTransport i f) →
      ∃ q : Part, exec c s = .next (s.withPart q) ∧ x.answers q t k f rOk 0 0 0 0) ∧
    (f.opcode = 0x02 → ∀ c, (c = .vopClose t f ∨ ∃ i, t = .mailbox i ∧ c = .mboxVopTransport i f) →
      ∃ y : Part, x.answers y t k f rOk 0 0 0 0 ∧ exec c s = .next (s.withPart (y.closeSession k 1))) ∧
    (f.opcode = 0x10 → ∀ c, (c = .vopRead t f ∨ ∃ i, t = .mailbox i ∧ c = .mboxVopTransport i f) →
      ∃ q : Part, exec c s = .next (s.withPart q) ∧
        (∀ a, x.dictRead f.index f.subindex = .error a → x.answers q t k f a 0 0 0 0) ∧
        (∀ v n, x.dictRead f.index f.subindex = .ok (v, n) →
          if 1024 < n then x.answers q t k f rSegment 0 0 0 0 else x.answers q t k f rOk v n 0 0)) ∧
    (f.opcode = 0x11 → ∀ e i p, Entry.find f.index f.subindex = some (e, i) → writeRight e.info (x.roleOf (sessionWho k)) = none →
      e ≠ .mgmtCommand → e ≠ .sessionCommand → f.payloadLen ≤ 1024 →
      x.dictWrite (sessionWho k) e i (f.payload % 256 ^ f.payloadLen) f.payloadLen = p.ok → Part.only [.dict, .slices] x p →
      ∀ c, (c = .vopWrite t f ∨ ∃ i, t = .mailbox i ∧ c = .mboxVopTransport i f) →
      ∃ q : Part, exec c s = .next (s.withPart q) ∧ p.answers q t k f rOk 0 0 0 0) ∧
    (f.opcode = 0x12 → ∀ v n, x.dictRead f.index f.subindex = .ok (v, n) → ∀ c, (c = .vopReadBegin t f ∨ ∃ i, t = .mailbox i ∧ c = .mboxVopTransport i f) →
      ∃ q : Part, exec c s = .next (s.withPart q) ∧ (x.onSess k fun o => { o with transfer := f.sequence % 65535 + 1, transferOp := 1, transferIx := f.index * 256 + f.subindex, transferLen := n, transferGot := 0, transferVal := v }).answers q t k f rOk 0 0 n (f.sequence % 65535 + 1)) ∧
    (f.opcode = 0x13 → (s.part.sess k).names f 1 = true → f.length ≤ segmentLimit t → f.offset + f.length ≤ (s.part.sess k).transferLen →
      ∀ c, (c = .vopReadSegment t f ∨ ∃ i, t = .mailbox i ∧ c = .mboxVopTransport i f) →
      ∃ q : Part, exec c s = .next (s.withPart q) ∧
        x.answers q t k f rOk (bits (s.part.sess k).transferVal (8 * f.offset) (8 * f.length)) f.length f.offset f.transfer) ∧
    (f.opcode = 0x14 → ∀ e i, Entry.find f.index f.subindex = some (e, i) → writeRight e.info (x.roleOf (sessionWho k)) = none →
      f.offset ≤ 65536 → segmentedLength e f.offset = none → ∀ c, (c = .vopWriteBegin t f ∨ ∃ i, t = .mailbox i ∧ c = .mboxVopTransport i f) →
      ∃ q : Part, exec c s = .next (s.withPart q) ∧ (x.onSess k fun o => { o with transfer := f.sequence % 65535 + 1, transferOp := 2, transferIx := f.index * 256 + f.subindex, transferLen := f.offset, transferGot := 0, transferVal := 0 }).answers q t k f rOk 0 0 0 (f.sequence % 65535 + 1)) ∧
    (f.opcode = 0x15 → (s.part.sess k).names f 2 = true → f.offset = (s.part.sess k).transferGot →
      f.offset + f.payloadLen ≤ (s.part.sess k).transferLen → ∀ value, value = (s.part.sess k).transferVal ||| ((f.payload % 256 ^ f.payloadLen) <<< (8 * f.offset)) →
      ∀ c, (c = .vopWriteSegment t f ∨ ∃ i, t = .mailbox i ∧ c = .mboxVopTransport i f) →
      (bit f.flags 0 = false → ∃ q : Part, exec c s = .next (s.withPart q) ∧
        (x.onSess k fun o => { o with transferGot := f.offset + f.payloadLen, transferVal := value }).answers q t k f rOk 0 0 f.offset f.transfer) ∧
      (bit f.flags 0 = true → f.offset + f.payloadLen ≠ (s.part.sess k).transferLen → ∃ q : Part, exec c s = .next (s.withPart q) ∧
        (x.endTransfer k).answers q t k f rLength 0 0 0 0) ∧
      (bit f.flags 0 = true → f.offset + f.payloadLen = (s.part.sess k).transferLen → ∀ e i p, entryOf (s.part.sess k).transferIx = some (e, i) →
        e ≠ .mgmtCommand → e ≠ .sessionCommand →
        (x.endTransfer k).dictWrite (sessionWho k) e i value (f.offset + f.payloadLen) = p.ok → Part.only [.dict, .slices] (x.endTransfer k) p →
        ∃ q : Part, exec c s = .next (s.withPart q) ∧ p.answers q t k f rOk 0 0 0 0)) ∧
    (f.opcode = 0x16 → (s.part.sess k).transfer ≠ 0 → f.transfer = (s.part.sess k).transfer →
      ∀ c, (c = .vopTransferEnd t f ∨ ∃ i, t = .mailbox i ∧ c = .mboxVopTransport i f) →
      ∃ q : Part, exec c s = .next (s.withPart q) ∧ (x.endTransfer k).answers q t k f rOk 0 0 0 0) ∧
    (f.opcode = 0x18 → f.length ≤ segmentLimit t → f.offset + f.length ≤ catalogueLength →
      ∀ c, (c = .vopCatalogueRead t f ∨ ∃ i, t = .mailbox i ∧ c = .mboxVopTransport i f) →
      ∃ q : Part, exec c s = .next (s.withPart q) ∧
        x.answers q t k f rOk (ofBytes (((catalogue (x.od0 .dictVersion)).drop f.offset).take f.length)) f.length 0 0) ∧
    (f.opcode = 0x20 → ∀ c, (c = .vopSubscribe t f ∨ ∃ i, t = .mailbox i ∧ c = .mboxVopTransport i f) →
      ∃ q : Part, exec c s = .next (s.withPart q) ∧ (x.setOd .sessionSubscription k (f.payload % 2 ^ 256)).answers q t k f rOk 0 0 0 0) ∧
    (f.opcode = 0x21 → ∀ c, (c = .vopNotifyAck t f ∨ ∃ i, t = .mailbox i ∧ c = .mboxVopTransport i f) →
      ∃ q : Part, exec c s = .next (s.withPart q) ∧
        (x.onSess k fun o => { o with notices := o.notices.filter fun m => decide (f.payload % 2 ^ 64 < m.number) }).answers q t k f rOk 0 0 0 0) ∧
    (f.opcode = 0x22 → ∀ c, (c = .vopNotifyPoll t f ∨ ∃ i, t = .mailbox i ∧ c = .mboxVopTransport i f) →
      ∃ q : Part, exec c s = .next (s.withPart q) ∧ ∀ b, b = (match (s.part.sess k).notices with
          | [] => []
          | m :: _ => frameBytes (frameSign (notifyFrame (s.part.od .sessionId k) (s.part.od .sessionRole k) m) (s.part.sess k).key)) →
        x.answers q t k f rOk (ofBytes b) b.length 0 0))

/-- Sessions open and close, roles get and lose their keys, and the frames outside sessions do what they are for. OPEN takes the lowest free slot,
derives the session's key from a fresh nonce, and advances the role's sequence; CLAIM sets the custodian's key; an accepted WAKE frame advances its
role's sequence and is a wake event. A slot that closes is free again. A new or destroyed role key closes the role's sessions. -/
def Obligations.SessionsAndRoles : Prop :=
  ∀ (s : State),
    (∀ (x : Part) (k : Slot) (cause : Nat), (x.sess k).isOpen = true → (x.sess k).executing = false →
      ((x.closeSession k cause).sess k).isOpen = false ∧ (x.closeSession k cause).od .sessionId k = 0 ∧
        (x.closeSession k cause).od .sessionRole k = 0 ∧ (x.closeSession k cause).od .sessionSubscription k = 0 ∧
        ∀ j : Slot, j ≠ k → ∃ n m l, (x.closeSession k cause).sess j = { x.sess j with notices := n, noticeNo := m, lostRun := l }) ∧
    (∀ (t : Transport) (f : Frame) (key k : Nat) (c : Instr), (c = .vopOpen t f ∨ ∃ i, t = .mailbox i ∧ c = .mboxVopTransport i f) →
      s.part.hears t f → f.kind = 0 → f.opcode = 1 → s.part.roleKey f.role = some key → f.auth = frameMac f key →
      s.part.od .roleOpenSequence f.role < f.sequence → f.sequence < 2 ^ 64 → f.format = 1 → f.magic = 0x56 → f.session = 0 → f.length = 32 →
      f.payloadLen = 32 → s.part.freeSlot = some k → (s.part.openSessions.filter fun j => s.part.od .sessionRole j == f.role).length < 8 →
      bit (s.part.od0 (transportRoles t)) (f.role - 1) = true →
      ∀ id nonce, id = sessionNumber k (s.part.sess k).openings → nonce = Config.random s.part.freeCtr % 2 ^ 256 →
      ∃ y : Part, exec c s = .next (s.withPart ((y.logEv 0x1402 k f.role).sendFrame t (responseTo f 0 f.role rOk (id ||| (nonce <<< 32)) 36 key))) ∧
        y.sess k = { Session.zero with isOpen := true, openings := (s.part.sess k).openings + 1, peer := t, origin := t, usedAt := s.part.now + 1
                                       key := ofBytes (hkdf (toBytes 32 f.payload ++ toBytes 32 nonce) (toBytes 48 key)
                                         (asciiBytes "GZ8-SESS" ++ [f.role] ++ toBytes 4 id) 48) } ∧
        y.od .sessionId k = id ∧ y.od .sessionRole k = f.role ∧ y.od .sessionTransport k = transportCode t ∧
        y.od .roleOpenSequence f.role = f.sequence ∧ Part.only [.dict, .gate, .freeCtr] (s.part.heardAt t) y) ∧
    (∀ (t : Transport) (f : Frame) (key : Nat) (c : Instr), (c = .vopClaim t f ∨ ∃ i, t = .mailbox i ∧ c = .mboxVopTransport i f) → s.part.hears t f →
      transportCode t ≠ 1 → s.part.roleLive roleCustodian = false → f.kind = 4 → f.auth = 0 → f.format = 1 → f.magic = 0x56 → f.opcode = 0 →
      f.session = 0 → f.length = 97 → f.payloadLen = 97 → s.part.roleKeyOf roleCustodian f.payload = some key → s.part.rngOk = true →
      exec c s = .next (s.withPart (((((s.part.heardAt t).setRoleKey roleCustodian key).logEv 0x1405 (transportCode t) 0).sendFrame t
        (responseTo f 0 roleCustodian rOk 0 0 key)))) ∧
      ((s.part.heardAt t).setRoleKey roleCustodian key).roleKey roleCustodian = some key) ∧
    (∀ (a u : Nat) (f : Frame), s.part.mgmtUp = true → f.kind = 3 →
      (s.part.wakeOk f = true → exec (.vopWakeFrame (.ethernet a u) f) s = .next (s.withPart
        (((s.part.setOd .wakeLastSequence f.role f.sequence).count .wakeAccepted 0).wakeEvent 2))) ∧
      (s.part.wakeOk f = false → exec (.vopWakeFrame (.ethernet a u) f) s = .next (s.withPart (s.part.count .wakeRejected 0)))) ∧
    (∀ (i : Port) (f : Frame), s.part.listens = true →
      (bit (s.part.od0 .mailboxVopPorts) i = false → exec (.mboxVopTransport i f) s = .next (s.withPart (s.part.mbox i mbUnsupported []))) ∧
      (bit (s.part.od0 .mailboxVopPorts) i = true → (s.part.port i).mboxBusy.isSome = true →
        exec (.mboxVopTransport i f) s = .next (s.withPart (s.part.mbox i mbBusy [])))) ∧
    (∀ k : Slot,
      (s.part.rest.inRest = false → (s.part.sess k).executing = false → (s.part.sess k).usedAt ≠ s.part.now + 1 →
        exec (.sessionIdleTimeout k) s = .next (s.withPart (s.part.closeSession k 4))) ∧
      (∀ w, s.part.mayWrite w .sessionCommand → exec (.sessionCloseCommand w k) s = .next (s.withPart
        (if w = .session k then (s.part.emit (.answer w rOk [])).closeSession k 2 else (s.part.closeSession k 2).emit (.answer w rOk [])))) ∧
      ((s.part.sess k).transfer ≠ 0 → s.part.segmentNow k = false → exec (.vopTransferTimeout k) s = .next (s.withPart ((s.part.endTransfer k).logEv 0x1403 k 6)) ∧
        ((s.part.endTransfer k).sess k).transfer = 0) ∧
      ((s.part.sess k).isOpen = true → s.part.listens = true → transportPushes (s.part.sess k).peer = true →
        ∃ q : Part, exec (.notifyResend k) s = .next (s.withPart q) ∧ Part.only [.out] s.part q ∧
          q.out = s.part.out ++ (s.part.sess k).notices.map fun n => .frame (s.part.sess k).peer
            (frameSign (notifyFrame (s.part.od .sessionId k) (s.part.od .sessionRole k) n) (s.part.sess k).key))) ∧
    (∀ (w : Who) (r : Role), r ≠ 0 →
      (∀ point key, s.part.mayWrite w .rolePeerPublic → s.part.roleKeyOf r point = some key →
        exec (.rolePeerPublicWrite w r point) s = .next (s.withPart ((((s.part.setRoleKey r key).closeRole r).logEv 0x1404 r 1).emit (.answer w rOk []))) ∧
        (((s.part.setRoleKey r key).closeRole r).logEv 0x1404 r 1).roleKey r = some key) ∧
      (s.part.mayWrite w .roleCommand → r.val ≠ roleCustodian → ∃ q : Part, exec (.roleDestroy w r) s = .next (s.withPart
          (((q.closeRole r).logEv 0x1404 r 0).emit (.answer w rOk []))) ∧
        Part.only [.keys] s.part q ∧ ((q.closeRole r).logEv 0x1404 r 0).roleKey r = none) ∧
      (s.part.mayWrite w .roleCommand → r.val = roleCustodian → exec (.roleDestroy w r) s = .next (s.withPart (s.part.emit (.answer w rCondition []))))) ∧
    (∀ (x : Part) (r : Nat) (k : Slot), x.od .sessionRole k = r → (∀ j : Slot, (x.sess j).executing = false) → ((x.closeRole r).sess k).isOpen = false)

/-- Counters. The gathering merges every delta into its tally; a reset leaves a tally at 0 and unmarked and no other tally changed; an error in the
counter store is counted, and an uncorrected one leaves the tally at 0 and tainted. A harvest tick counts the levels and raises the liveness counter;
a minute's end begins the next minute for every active slice with the next sequence number; a snapshot raises its number. The tenant's dump sends its
body first and its tag last. -/
def Obligations.CountersGatherAndReset : Prop :=
  ∀ (s : State),
    (s.part.gateRuns = true → exec .lodgeGather s = .next (s.withPart ((iter (List.range 16) s.part.gather Part.lodgeArms).flushNotices)) ∧
      (s.part.delta.sorted = true → ∀ e i, i < 65536 →
        s.part.gather.delta.get 0 (e.key i) = 0 ∧ (s.part.delta.get 0 (e.key i) ≠ 0 →
          s.part.gather.od e i = (s.part.od e i + s.part.delta.get 0 (e.key i)) % 2 ^ (8 * e.info.bytes)))) ∧
    (∀ (w : Who) (v : BitVec 32) (e : Entry) (i : Nat), s.part.mayWrite w .counterReset → entryOf v.toNat = some (e, i) → e.isTally = true → i < 65536 →
      ∃ q : Part, exec (.counterReset w v) s = .next (s.withPart (q.emit (.answer w rOk []))) ∧ q.tallyNow e i = 0 ∧
        q.taint = s.part.taint.filter (· != e.number i) ∧ ∀ f j, j < 65536 → (f ≠ e ∨ j ≠ i) → q.tallyNow f j = s.part.tallyNow f j) ∧
    (∀ (w : Who) (sl : Slice), s.part.mayWrite w .sliceCounterCommand →
      ∃ q : Part, exec (.sliceCounterReset w sl) s = .next (s.withPart (q.emit (.answer w rOk []))) ∧ (∀ e ∈ sliceTallies, q.tallyNow e sl = 0) ∧
        ∀ f j, j < 65536 → (f ∉ sliceTallies ∨ j ≠ sl.val) → q.tallyNow f j = s.part.tallyNow f j) ∧
    (∀ (ix : BitVec 16) (sub : BitVec 8) (e : Entry) (i : Nat), Entry.find ix.toNat sub.toNat = some (e, i) → e.info.count ≠ .notCounted → i < 65536 →
      exec (.counterStoreError ix sub true) s = .next (s.withPart (s.part.count .counterStoreCe 0)) ∧
      (e.isTally = true → ∃ q : Part, exec (.counterStoreError ix sub false) s = .next (s.withPart q) ∧ q.od e i = 0 ∧
        e.number i ∈ q.taint ∧ ∀ f j, j < 65536 → f ≠ .ringState → (f ≠ e ∨ j ≠ i) → q.od f j = s.part.od f j)) ∧
    (s.part.slices.sorted = true → ∃ q : Part, exec .harvestTick s = .next (s.withPart q) ∧ q.boot.liveness = (s.part.boot.liveness + 1) % 65536 ∧
      (s.part.gateAlive = true → s.part.rest.inRest = false →
        (∀ p : Pav, q.tallyNow .pavilionIdleMs p = s.part.tallyNow .pavilionIdleMs p + if s.part.od .pavilionPowerState p = 1 then 1 else 0) ∧
        (∀ sl ∈ s.part.allSlices, q.tallyNow .sliceGrantedExtentMs sl = s.part.tallyNow .sliceGrantedExtentMs sl + s.part.grantCount sl) ∧
        ∀ sl ∈ s.part.allSlices, s.part.od .sliceTenantCounters sl ≠ 1 → (q.slice sl).window = [])) ∧
    (∀ host : HostReads, s.part.gateRuns = true → s.part.slices.sorted = true → (∀ sl, (s.part.slice sl).minute.active = true → sl < 4096) →
      ∃ q : Part, exec (.harvestMinuteEnd host) s = .next (s.withPart q) ∧
      q.minuteStart = s.part.now / nsPerMinute * nsPerMinute ∧ q.steppedMinute = false ∧
      ∀ sl, (s.part.slice sl).minute.active = true → (s.part.slice sl).created = true →
        (q.slice sl).minute.sequence = (s.part.slice sl).minute.sequence + 1 ∧ (q.slice sl).minute.active = true ∧ (q.slice sl).minute.partMinute = false) ∧
    (∀ (i : Port) (host : HostReads), s.part.gateRuns = true → ((s.part.port i).rings.get Ring.zero 0).enabled = true →
      ∃ q : Part, exec (.snapshotTick i host) s = .next (s.withPart q) ∧ (q.port i).snapNumber = (s.part.port i).snapNumber + 1 ∧
        Part.only [.log, .logNext, .ports, .delta, .gate, .dict, .out, .freeCtr] s.part q) ∧
    (∀ (i : Port) (sl : Slice), (s.part.slice sl).doorRun = 1 → s.part.boundPort sl = some i.val →
      (∃ q : Part, exec (.counterDumpWritten i sl false) s = .next (s.withPart q) ∧ (q.slice sl).doorRun = 0 ∧ (q.slice sl).doorResult = 6 ∧
        Part.only [.slices] s.part q) ∧
      (s.part.bmActive i = true → (∀ a n, (a, n) ∈ [(8, 1208), (0, 8)] → covered (s.part.sliceWindows i sl) 17
          (s.part.od .sliceDumpAddress sl + a) (s.part.od .sliceDumpAddress sl + a + n) = true) →
        ∃ q : Part, exec (.counterDumpWritten i sl true) s = .next (s.withPart q) ∧ (q.slice sl).doorRun = 0 ∧ (q.slice sl).doorResult = 2 ∧
          Part.only [.slices, .out] s.part q ∧ q.out = s.part.out ++ [
            .hostWrite i (s.part.od .sliceDumpAddress sl + 8) 1208 (s.part.dumpRecord sl >>> 64) (s.part.slicePasidTag sl),
            .hostWrite i (s.part.od .sliceDumpAddress sl) 8 (bits (s.part.dumpRecord sl) 0 64) (s.part.slicePasidTag sl)]))

/-- Rings, snapshot sets, arms and the time base. Rings are enabled where each rising one fits, and read as enabled; a set with an entry that it may
not list is refused; an arm counts from now. A measured offset of a locked time base changes its rate by at most 500 ppm and no more; without a lock
the base steps to the master's time. -/
def Obligations.RingsAndTimeBase : Prop :=
  ∀ (s : State),
    (∀ (w : Who) (i : Port) (v : BitVec 8), s.part.mayWrite w .ringEnable → v.toNat < 8 → ∀ rises, rises = (List.range 3).filter (fun r => bit v.toNat r && !bit (s.part.od .ringEnable i) r) →
      ((∃ r ∈ rises, s.part.ringFit i r = false) → exec (.ringEnableWrite w i v) s = .next (s.withPart (s.part.emit (.answer w rCondition [])))) ∧
      ((∀ r ∈ rises, s.part.ringFit i r = true) → ∃ a : Part, exec (.ringEnableWrite w i v) s = .next (s.withPart
          ((if 1 ∈ rises then a.drainBacklog else a).emit (.answer w rOk []))) ∧
        a.od .ringEnable i = v.toNat ∧ Part.only [.dict, .ports, .out, .freeCtr] s.part a ∧
        ∀ r < 3, ((a.port i).rings.get Ring.zero r).enabled = (bit v.toNat r && (decide (r ∈ rises) || ((s.part.port i).rings.get Ring.zero r).enabled)))) ∧
    (∀ (w : Who) (i : Port) (v : Nat) (l : List Nat), s.part.mayWrite w .snapSet → l = ((List.range 256).map fun k => bits v (32 * k) 32).takeWhile (· != 0) →
      ((∀ n ∈ l, s.part.snapRefusal i n = none) → exec (.snapSetWrite w i v) s = .next (s.withPart ((s.part.setOd .snapSet i v).emit (.answer w rOk [])))) ∧
      (∀ c, l.findSome? (s.part.snapRefusal i) = some c → exec (.snapSetWrite w i v) s = .next (s.withPart (s.part.emit (.answer w c []))))) ∧
    (∀ (w : Who) (i : Port) (a : Fin 8) (v : BitVec 32) (e : Entry) (k : Nat), s.part.mayWrite w .armCounter → v.toNat ≠ 0 → entryOf v.toNat = some (e, k) →
      (s.part.armable i e k = true → exec (.armCounterWrite w i a v) s = .next (s.withPart
        (((s.part.setOd .armCounter (i * 8 + a) v.toNat).onPort i fun t => { t with
          arms := t.arms.set Arm.zero a { Arm.zero with last := s.part.tallyNow e k } }).emit (.answer w rOk [])))) ∧
      (s.part.armable i e k = false → exec (.armCounterWrite w i a v) s = .next (s.withPart (s.part.emit (.answer w rCondition []))))) ∧
    (∀ (offset : Int) (master : U64) (domain : BitVec 8), s.part.od0 .timeSource = 1 → domain.toNat = s.part.od0 .timePtpDomain →
      s.part.rest.inRest = false → s.part.gateAlive = true →
      (s.part.ptpLock = true → s.part.od0 .timeState = 3 → offset.natAbs ≤ s.part.od0 .timeStepThreshold * 1000 →
        ∃ q : Part, exec (.ptpMessage offset master domain) s = .next (s.withPart q) ∧ q.ptpRate = max (-500) (min 500 (-offset)) ∧ q.now = s.part.now ∧
          q.gate.ptpAt = s.part.now + 1 ∧ q.od .timeOffset 0 = ofInt 32 (max (-(2 ^ 31 : Int)) (min (2 ^ 31 - 1) offset)) ∧
          Part.only [.dict, .ptpRate, .gate] s.part q ∧ Part.odOnly [(.timeOffset, 0)] s.part q) ∧
      (s.part.ptpLock = false → s.part.od0 .timeState ≠ 3 → ∃ q : Part, exec (.ptpMessage offset master domain) s = .next (s.withPart q) ∧
        q.now = master.toNat ∧ q.od .timeState 0 = 3)) ∧
    (s.part.od0 .timeSource = 1 → s.part.od0 .timeState = 3 → s.part.gate.ptpAt ≠ s.part.now + 1 →
      exec .ptpLossTimeout s = .next (s.withPart ((s.part.setOd .timeState 0 4).logEv 0x1505 0 0))) ∧
    (∀ (w : Who) (v : BitVec 8), s.part.mayWrite w .timeSource → v.toNat ≤ 1 →
      (v.toNat = s.part.od0 .timeSource → exec (.timeSourceWrite w v) s = .next (s.withPart (s.part.emit (.answer w rOk [])))) ∧
      (v.toNat ≠ s.part.od0 .timeSource → ∃ y : Part, exec (.timeSourceWrite w v) s = .next (s.withPart
          ((y.logEv 0x1501 s.part.now s.part.now).emit (.answer w rOk []))) ∧
        y.od .timeSource 0 = v.toNat ∧ y.od .timeState 0 = (if v.toNat = 1 then 2 else 1) ∧ (v.toNat = 0 → y.ptpLock = false) ∧
        Part.odOnly [(.timeSource, 0), (.timeState, 0)] s.part y ∧ Part.only [.dict, .ptpLock, .ptpRate] s.part y))

/-! ## Power states, boot and ageing -/

/-- Power states down to REST and back. An idle lane of a pavilion in RUN is gated; a pavilion without work goes to IDLE with every rank that runs in
power-down, and the package with the last of them. POWER_COMMAND REST and REST_AUTO start an attempt from RUN or IDLE. In the exit the root PLLs lock as
the core supply comes back; each pavilion restores its retention, with its corrected words counted, and after the last of them every link that was up
trains. A measurement that matches makes memory active again, with how long REST and its exit took; another one drops the retention and makes a cold
boot from stage 3. -/
def Obligations.RestEntryAndExit : Prop :=
  ∀ (s : State) (p : Pav),
    (∀ lane, s.part.od .pavilionPowerState p = 0 → s.part.inService p = true → (s.part.pav p).codecQ = [] → (s.part.pav p).tasks = [] →
      exec (.laneClockGate p lane) s = .next (s.withPart (s.part.onPav p fun v => { v with laneGated := setBit v.laneGated lane true }))) ∧
    (s.part.inService p = true → s.part.od .pavilionPowerState p = 0 → s.part.pavBusy p = false →
      ∃ q : Part, exec (.pavilionIdleEntry p) s = .next (s.withPart q) ∧ q.od .pavilionPowerState p = 1 ∧
        q.tallyNow .pavilionIdleEntries p = s.part.tallyNow .pavilionIdleEntries p + 1 ∧
        (s.part.od .packagePowerState 0 = 1 → (∀ k ∈ s.part.serving, k ≠ p.val → s.part.od .pavilionPowerState k = 1) →
          q.od .packagePowerState 0 = 2) ∧
        (∀ c : Chan, c.val / 8 = p → (q.chan c).openRows = [] ∧ (q.chan c).powerDown = (List.range 4).filter (s.part.rankRuns c)) ∧
        Part.only [.dict, .delta, .chans] s.part q ∧
        Part.odOnly [(.pavilionPowerState, p.val), (.packagePowerState, 0)] s.part q) ∧
    (∀ w, s.part.mayWrite w .powerCommand →
      (s.part.od .packagePowerState 0 ∈ [1, 2] → exec (.powerCommandRest w) s = .next (s.withPart
        ((({ s.part with rest := { RestState.zero with step := some 1, start := s.part.now } } : Part).setOd .packagePowerState 0 4).emit
          (.answer w rOk [])))) ∧
      (s.part.od .packagePowerState 0 = 0 → exec (.powerCommandRest w) s = .next (s.withPart (s.part.emit (.answer w rState [])))) ∧
      (s.part.od .packagePowerState 0 ∈ [3, 4, 5] → exec (.powerCommandRest w) s = .next (s.withPart (s.part.emit (.answer w rBusy []))))) ∧
    (s.part.od .restAuto 0 = 1 → s.part.od .packagePowerState 0 ∈ [1, 2] → s.part.od .partFailed 0 = 0 →
      (∀ i : Port, s.part.portInactive i = true) → exec .restAutoDelayExpiry s = .next (s.withPart
        (({ s.part with rest := { RestState.zero with step := some 1, start := s.part.now } } : Part).setOd .packagePowerState 0 4))) ∧
    (s.part.rest.inRest = true → s.part.rest.exiting = true → s.part.rest.coreUp = false → p.val ∈ s.part.leaving → s.part.rest.dark = [] →
      ∀ (plls : BitVec 8) (ok : BitVec 256), (∀ k ∈ s.part.leaving, bit plls.toNat k = true) →
      (∀ k < 256, s.part.od .channelState (k / 4) = 3 → bit ok.toNat k = true) →
      ∃ q : Part, exec (.restExitCorePg plls ok) s = .next (s.withPart q) ∧ q.rest = { s.part.rest with coreUp := true, restored := [] } ∧
        q.power = { s.part.power with corePG := true } ∧ (∀ k ∈ s.part.leaving, q.od .pllLocked k = 1) ∧
        Part.only [.dict, .rest, .power] s.part q ∧ Part.odOnly ((List.range 8).map fun k => (.pllLocked, k)) s.part q) ∧
    (s.part.rest.inRest = true → s.part.rest.exiting = true → s.part.rest.coreUp = true → p.val ∈ s.part.leaving → ¬ p.val ∈ s.part.rest.restored →
      ∀ ce : Nat,
      ((∃ k ∈ s.part.leaving, k ≠ p.val ∧ ¬ k ∈ s.part.rest.restored) →
        ∃ q : Part, exec (.retentionRestoreDone p ce []) s = .next (s.withPart q) ∧ q.tallyNow .retentionCe 0 = s.part.tallyNow .retentionCe 0 + ce ∧
          q.rest = { s.part.rest with restored := s.part.rest.restored ++ [p.val] } ∧ Part.only [.delta, .rest] s.part q) ∧
      ((∀ k ∈ s.part.leaving, k ≠ p.val → k ∈ s.part.rest.restored) → s.part.rest.perst = [] →
        ∃ q : Part, exec (.retentionRestoreDone p ce []) s = .next (s.withPart q) ∧ q.rest.step = none ∧
          q.rest.restored = s.part.rest.restored ++ [p.val] ∧
          ∀ n : Link, q.od .linkState n = if s.part.od .linkState n = 2 then 1 else s.part.od .linkState n)) ∧
    (s.part.rest.inRest = true → s.part.rest.exiting = true → s.part.rest.coreUp = true → (∀ k ∈ s.part.leaving, k ∈ s.part.rest.restored) →
      (∀ n : Link, s.part.od .linkState n ≠ 1) → ∀ digest : BitVec 384,
      (digest.toNat = s.part.boot.measured →
        ∃ q : Part, exec (.warmMeasurementDone digest) s = .next (s.withPart q) ∧ q.rest = RestState.zero ∧ q.od .bootState 0 = 13 ∧
          q.od .packagePowerState 0 ∈ [1, 2] ∧ q.od .restLastDuration 0 = (s.part.rest.exitAt - s.part.rest.entered) / nsPerMs % 2 ^ 64 ∧
          q.od .restLastExitTime 0 = (s.part.now - s.part.rest.exitAt) / nsPerMs % 2 ^ 32) ∧
      (digest.toNat ≠ s.part.boot.measured → s.part.power.mainPG = true → s.part.power.thermtrip = true → s.part.power.coreFails < 3 →
        s.part.od .partFailed 0 ≠ 1 → s.part.boot.pav0Lost = false →
        ∃ q : Part, exec (.warmMeasurementDone digest) s = .next (s.withPart q) ∧ q.rest = RestState.zero ∧ q.od .bootState 0 = 3 ∧
          q.power.coreEn = true ∧ q.power.corePG = false ∧ q.keys.sets = [] ∧ q.flash = s.part.flash))

/-- CORE_PG does not come within its time in an exit from REST: CORE_EN falls, the part stays in REST, the failure is counted and logged, and the next
wake event starts the exit again. -/
def Obligations.RestExitTimeout : Prop :=
  ∀ s : State, s.part.rest.inRest = true → s.part.rest.exiting = true → s.part.rest.coreUp = false → s.part.rest.step = none →
    ∃ x : Part, exec .restExitCorePgTimeout s = .next (s.withPart (x.logEv 0x1606 0 0)) ∧
      x.power.coreEn = false ∧ x.rest = { s.part.rest with exiting := false } ∧ x.od .packagePowerState 0 = 3 ∧
      x.tallyNow .restExitFailures 0 = s.part.tallyNow .restExitFailures 0 + 1 ∧
      Part.only [.dict, .power, .rest, .delta, .out] s.part x ∧ Part.odOnly [(.packagePowerState, 0), (.bootState, 0)] s.part x ∧
      ∀ source : Fin 16, source.val ∈ [1, 2, 3, 4] →
        ∃ q : Part, exec (.wakeEvent source) (s.withPart (x.logEv 0x1606 0 0)) = .next (s.withPart q) ∧
          q.rest.inRest = true ∧ q.rest.exiting = true ∧ q.rest.coreUp = false ∧ q.power.coreEn = true ∧ q.od .packagePowerState 0 = 5 ∧
          q.od .restLastWakeSource 0 = source.val

/-- The supply and the early cold boot. VAUX that falls, and PART_RESET_N, lose everything but flash and fuses: the machine after reset, unpowered,
with each PERST# as it stands. VAUX that rises, and the release of the reset, sample the straps and begin the boot. Self-tests: the stage ends with the
last pavilion; one that fails takes its pavilion out with cause BOOT_FAILURE, on pavilion 0 the part, and a gatehouse that fails leaves nothing to answer.
The first image slot that passes its checks runs and the ports of the pavilions that start are released; a slot that fails has its reason kept, and after
the second the boot stops in ROM-only mode. Firmware starts from the copies that are valid: settings, role keys, wear record; retired pavilions stay
RETIRED. The premise on flash says that no stored setting is one of the four levels that the boot sets. -/
def Obligations.PowerUpAndImages : Prop :=
  ∀ s : State,
    (s.part.power.vaux = true → s.part.ports.sorted = true → ∀ c ∈ [Instr.vauxFall, .partResetAssert],
      ∃ q : Part, exec c s = .next (s.withPart q) ∧ q.power = { PowerState.zero with vaux := false } ∧ q.flash = s.part.flash ∧
        q.freeCtr = s.part.freeCtr ∧ Part.only [.ports, .power, .flash, .out, .freeCtr] State.reset.part q ∧
        ∀ i : Port, q.port i = { PortState.zero with perst := (s.part.port i).perst }) ∧
    (s.part.power.vaux = false ∨ s.part.od .bootState 0 = 1 → ∀ (straps : BitVec 8) (c : Instr) (source : Nat),
      (c, source) ∈ [(Instr.vauxRise straps, 0), (.partResetRelease straps, 1)] →
      ∃ q : Part, exec c s = .next (s.withPart q) ∧ q.power = { s.part.power with
          vaux := true, strapMain := bits straps.toNat 0 2, strapBr := bits straps.toNat 2 2, strapI3c := bits straps.toNat 4 3 } ∧
        q.boot.bootStart = s.part.now ∧ q.od .bootSource 0 = source ∧ q.od .aonPllLocked 0 = 1 ∧ q.od .timeState 0 = 0 ∧
        q.od .bootState 0 = 2) ∧
    (s.part.booting 3 = true → s.part.power.corePG = true → ∀ p : Pav, ¬ p.val ∈ s.part.boot.tested →
      (∀ gate : Bool, (p.val = 0 → gate = true) → (∃ k < 8, k ≠ p.val ∧ ¬ k ∈ s.part.boot.tested) →
        exec (.selfTestDone p true gate) s = .next (s.withPart { s.part with boot := { s.part.boot with tested := s.part.boot.tested ++ [p.val] } })) ∧
      (∀ gate : Bool, (p.val = 0 → gate = true) → (∀ k < 8, k ≠ p.val → k ∈ s.part.boot.tested) →
        ∃ q : Part, exec (.selfTestDone p true gate) s = .next (s.withPart q) ∧ q.od .bootState 0 = 4 ∧ q.boot.tested = s.part.boot.tested ++ [p.val] ∧
          Part.only [.dict, .boot] s.part q ∧ Part.odOnly [(.bootState, 0), (.bootStageTimes, 0)] s.part q) ∧
      (p.val ≠ 0 → s.part.pstate p < 4 → s.part.rest.step = none → s.part.gate.held = [] → ∀ gate : Bool,
        ∃ q : Part, exec (.selfTestDone p false gate) s = .next (s.withPart q) ∧ q.od .pavilionState p ∈ [4, 5] ∧ q.od .pavilionCause p = 4) ∧
      (p.val = 0 → ∀ pass : Bool, ∃ q : Part, exec (.selfTestDone p pass false) s = .next (s.withPart q) ∧ q.boot.pav0Lost = true ∧
        q.od .mgmtLinkState 0 = 0) ∧
      (p.val = 0 → s.part.pstate 0 < 4 → ∃ q : Part, exec (.selfTestDone p false true) s = .next (s.withPart q) ∧ q.od .partFailed 0 = 1 ∧
        q.od .partFailCause 0 = 2)) ∧
    (s.part.booting 4 = true → ∀ img : ImageCheck,
      (s.part.slotCheck s.part.slotNow img = 0 → ∃ q : Part, exec (.fwSlotCheckDone img) s = .next (s.withPart q) ∧ q.od .bootState 0 = 6 ∧
        q.od .bootSlotActive 0 = s.part.slotNow % 256 ∧ q.od .fwMeasurement 0 = img.measurement % 2 ^ (8 * Entry.fwMeasurement.info.bytes) ∧
        q.boot.measured = img.measurement ∧ q.boot.version = img.version ∧
        ∀ i : Port, s.part.pstate (portPav i) = 0 → s.part.od .portState i = 0 →
          q.od .portState i = if (s.part.port i).perst = true then 1 else 2) ∧
      (s.part.slotCheck s.part.slotNow img ≠ 0 → ∃ q : Part, exec (.fwSlotCheckDone img) s = .next (s.withPart q) ∧
        q.od (if s.part.slotNow = 0 then .bootRejectA else .bootRejectB) 0 = s.part.slotCheck s.part.slotNow img ∧
        q.od .bootState 0 = (if s.part.boot.second = true then 14 else 4) ∧ q.boot.second = true)) ∧
    (s.part.booting 6 = true → (∀ t ∈ [s.part.flash.config, s.part.flash.config2, s.part.flash.trust.settings, s.part.flash.trust2.settings],
        ∀ x ∈ t, ∀ e ∈ [Entry.configStoreState, .trustAreaState, .pavilionState, .portState], ∀ i, x.1 ≠ e.key i) →
      ∀ (config trust : Fin 4) (wear : Fin 3),
      ∃ q : Part, exec (.firmwareStartDone config trust wear) s = .next (s.withPart q) ∧ 7 ≤ q.od .bootState 0 ∧
        q.od .configStoreState 0 = (if config.val = 0 then 0 else if config.val ≤ 2 then 1 else 2) ∧
        q.od .trustAreaState 0 = (if trust.val = 0 then 0 else if trust.val ≤ 2 then 1 else 2) ∧ q.od .wearRecordState 0 = wear.val ∧
        (∀ p : Pav, s.part.pstate p ≠ 5 → bit s.part.flash.retired p = true → wear.val ≠ 2 → q.od .pavilionState p = 4) ∧
        (∀ i : Port, s.part.od .portState i = 3 → s.part.flash.retired = 0 → q.od .portState i = 4) ∧
        (s.part.flash.retired = 0 → q.keys.roles = (match trust with
          | 0 => s.part.flash.trust.keys | 1 => s.part.flash.trust.keys | 2 => s.part.flash.trust2.keys | 3 => [])))

/-- The core supply and the DRAM boot. CORE_PG that rises lets the root PLLs lock and the links train; one that does not come in time is counted and
logged, and CORE_EN rises again after a wait while fewer than three attempts failed. CORE_PG that falls and a thermal trip lose every state outside the
always-on domains, as a fall of MAIN_PG does; the thermal trip drives THERMTRIP_N low and ends the waits. Training of a uniform population without a
failed rank gives the pavilion its rate, its population, its layers and its spare rank; a population that is not uniform takes the pavilion out. Hard
repair takes the repaired rows off the list. A lane takes the reference step of its widest run of passing delay steps, the one nearest the middle
among equals. The first fill leaves zero data and puts ranks and channels in service. Memory becomes active with at least
two pavilions, and with fewer the part fails. -/
def Obligations.DramBootAndCoreSupply : Prop :=
  ∀ s : State,
    (s.part.booting 3 = true → s.part.power.coreEn = true → s.part.power.corePG = false →
      (∀ locked : BitVec 8, (∀ p : Pav, bit locked.toNat p = true) → ∃ q : Part, exec (.corePgRise locked) s = .next (s.withPart q) ∧
        q.power = { s.part.power with corePG := true, coreFails := 0 } ∧ (∀ p : Pav, q.od .pllLocked p = 1) ∧
        (∀ p : Pav, bit s.part.flash.retired p = true → q.od .pavilionState p ∈ [4, 5]) ∧
        (s.part.flash.retired = 0 → (∀ n : Link, q.od .linkState n = 1) ∧ Part.only [.dict, .power] s.part q)) ∧
      ∃ x : Part, exec .corePgBootTimeout s = .next (s.withPart (x.logEv 0x1A02 (s.part.power.coreFails + 1) 0)) ∧
        x.power = { s.part.power with
          coreFails := s.part.power.coreFails + 1, coreWait := decide (s.part.power.coreFails < 2), coreEn := false } ∧
        Part.only [.power, .out] s.part x) ∧
    (s.part.power.coreWait = true → s.part.power.mainPG = true → s.part.power.thermtrip = true →
      (s.part.od .bootState 0 = 3 → ∃ q : Part, exec .coreEnRetryWaitEnd s = .next (s.withPart q) ∧
        q.power = { s.part.power with coreWait := false, coreEn := true } ∧ Part.only [.power, .out] s.part q) ∧
      (s.part.od .bootState 0 ≠ 3 → s.part.power.coreFails < 3 → s.part.od .partFailed 0 ≠ 1 → s.part.boot.pav0Lost = false → ∃ q : Part, exec .coreEnRetryWaitEnd s = .next (s.withPart q) ∧
        q.power = { s.part.power with coreWait := false, coreEn := true } ∧ q.od .bootState 0 = 3)) ∧
    (∀ (c : Instr) (therm : Bool), (c, therm) ∈ [(Instr.corePgFall, false), (.thermalTrip, true)] → s.part.power.corePG = true →
      (therm = false → s.part.power.coreEn = true ∧ s.part.power.mainPG = true) → (therm = true → s.part.power.thermtrip = true) →
      ∃ q : Part, exec c s = .next (s.withPart q) ∧ q.power.coreEn = false ∧ q.power.corePG = false ∧
        q.power.coreWait = !therm ∧ q.power.thermtrip = (!therm && s.part.power.thermtrip) ∧ q.power.mainPG = s.part.power.mainPG ∧
        q.od .bootState 0 = 2 ∧ q.od .packagePowerState 0 = 0 ∧ (∀ b : Branch, q.od .branchState b = 0) ∧ q.keys.sets = [] ∧
        q.pavs = [] ∧ q.flash = s.part.flash ∧ q.now = s.part.now ∧ (therm = true → ∃ l, q.out = l ++ [.pin 2 0])) ∧
    (∀ p : Pav, s.part.bootDram p = true →
      (∀ (t : TrainResult) (c : ChanTraining), ¬ p.val ∈ s.part.boot.trained → trainUniform t = true → t.chans.length = 8 → t.chans.head? = some c →
        trainAccepted c = true → (∀ k < 4, s.part.layerLost p k = false) → (∀ d ∈ t.chans, ∀ r ∈ presentRanks c, ∃ q, d.ranks[r]? = some q ∧
          (rankOutcome (if r / 2 = 0 then d.spdOk0 else d.spdOk1) (if r / 2 = 0 then d.rcdOk0 else d.rcdOk1) q).failed = 0) →
        stepDown [4800, 5600, 6400, 7200, 8000] (min (s.part.od .dramSpeedLimit p) t.rate) (if c.dimms = 2 then 6400 else 8000) ≠ 0 →
        ∀ n spares, n = (presentRanks c).length → spares = (if s.part.od .dramSpareMode p = 1 ∧ 2 ≤ n then 1 else 0) →
        ∃ q : Part, exec (.dramTrainingDone p t) s = .next (s.withPart q) ∧ q.boot.trained = s.part.boot.trained ++ [p.val] ∧
          q.od .dramSpeed p = stepDown [4800, 5600, 6400, 7200, 8000] (min (s.part.od .dramSpeedLimit p) t.rate) (if c.dimms = 2 then 6400 else 8000) ∧
          q.od .dramDimmsPerChannel p = c.dimms ∧ q.od .dramRanksPerDimm p = c.ranksPerDimm ∧ q.od .dramDevice p = c.device ∧ q.od .dramStack p = c.stack ∧
          q.od .dramLayers p = n - spares ∧
          ∀ k < 8, q.od .channelState (p * 8 + k) = 1 ∧ ∀ j r, (presentRanks c)[j]? = some r → q.od .rankState ((p * 8 + k) * 4 + r) = 1 ∧
            q.od .rankLayer ((p * 8 + k) * 4 + r) = if j + spares < n then j else 0xFF) ∧
      (p.val ≠ 0 → s.part.rest.step = none → s.part.gate.held = [] → ∀ t : TrainResult, ¬ p.val ∈ s.part.boot.trained → trainUniform t = false →
        ∃ q : Part, exec (.dramTrainingDone p t) s = .next (s.withPart q) ∧ q.od .pavilionState p ∈ [4, 5] ∧ q.od .pavilionCause p = 4) ∧
      (p.val ∈ s.part.boot.trained → ¬ p.val ∈ s.part.boot.filled →
        (∀ failed : List Nat, ¬ p.val ∈ s.part.boot.repaired → ∃ q : Part, exec (.hardRepair p failed) s = .next (s.withPart q) ∧
          q.boot.repaired = s.part.boot.repaired ++ [p.val] ∧
          ∀ r, r ∈ q.flash.weakRows ↔ r ∈ s.part.flash.weakRows ∧
            ¬ ∃ k, ¬ k ∈ failed ∧ (s.part.flash.weakRows.filter fun w => w.chan / 8 == p.val)[k]? = some r) ∧
        (s.part.od .dramLayers p ≠ 0 → ∃ q : Part, exec (.firstFillDone p []) s = .next (s.withPart q) ∧ q.od .fillState p = 2 ∧ q.od .fillProgress p = 100 ∧
          q.boot.filled = s.part.boot.filled ++ [p.val] ∧ (q.pav p).dram = [] ∧ (q.pav p).tags = [] ∧ (q.pav p).cellar = [] ∧
          ∀ k < 8, q.od .channelState (p * 8 + k) = 2 ∧ ∀ r < 4, s.part.od .rankState ((p * 8 + k) * 4 + r) = 1 →
            q.od .rankState ((p * 8 + k) * 4 + r) = if s.part.od .rankLayer ((p * 8 + k) * 4 + r) = 0xFF then 3 else 2))) ∧
    (s.part.booting 11 = true → (∀ p ∈ s.part.startingPavs, p ∈ s.part.boot.filled) →
      (2 ≤ s.part.startingPavs.length → ∃ q : Part, exec .bootMemoryActive s = .next (s.withPart q) ∧ q.od .bootState 0 = 13 ∧
        q.od .packagePowerState 0 = 1 ∧ q.boot.active = true ∧
        ((∀ k < 8, s.part.pstate k ≠ 3 ∧ s.part.pstate k ≠ 5) → ∀ p ∈ s.part.startingPavs, q.od .pavilionState p = 1)) ∧
      (s.part.startingPavs.length < 2 → s.part.od .partFailed 0 = 0 → ∃ q : Part, exec .bootMemoryActive s = .next (s.withPart q) ∧
        q.od .partFailed 0 = 1 ∧ q.od .partFailCause 0 = 2)) ∧
    (∀ (sweep : List Nat), sweep ≠ [] → ∀ l, l = chooseLane sweep → l.set.vref < sweep.length ∧
      (∀ m, sweep[l.set.vref]? = some m → longestRun 128 m = ((longestRun 128 m).1, l.width) ∧ l.set.delay = (longestRun 128 m).1 + (l.width - 1) / 2) ∧
      ∀ (v m : Nat), sweep[v]? = some m → (longestRun 128 m).2 ≤ l.width ∧
        ((longestRun 128 m).2 = l.width → max l.set.vref refMid - min l.set.vref refMid ≤ max v refMid - min v refMid))

/-- Ageing. Each second of running time adds to the ages, the temperature bands and the season; samples of the ring oscillators and of the path delays
are kept, and a slack below 0 raises the guard of its pavilion by 10 mV up to its fused limit. The end of a season begins the next, with the steps that
need a window pending, and writes the wear record, as each hour does. A window, at its time of day or by command, starts its retrains; it ends at its
length or by command, with the next steps still pending. The scan of the address table adds to the watch list, and a row that reaches the threshold
becomes weak. A pavilion in deficit that nothing moves from has its next extent withdrawn. -/
def Obligations.SeasonsAndWindows : Prop :=
  ∀ s : State,
    (∀ temps : List Nat, s.part.od .packagePowerState 0 ≠ 0 → ∃ q : Part, exec (.ageIntegrate temps) s = .next (s.withPart q) ∧
      q.od .seasonElapsed 0 = (s.part.od .seasonElapsed 0 + 1) % 2 ^ 32 ∧
      (∀ p : Pav, q.season.age.get 0 p = s.part.season.age.get 0 p + ageFactor (temps.getD p 0)) ∧
      (∀ b, q.season.bands.get 0 b = s.part.season.bands.get 0 b + if tempBand (temps.foldl max 0) = b then 1 else 0) ∧
      Part.only [.dict, .season] s.part q ∧ Part.odOnly [(.seasonElapsed, 0), (.wearEquivHours, 0), (.tjHistogram, 0)] s.part q) ∧
    (s.part.rest.inRest = false → ∀ p : Pav,
      (∀ drift : Int, exec (.ringOscillatorSample p drift) s = .next (s.withPart (s.part.setOd .roDrift p (ofInt 32 drift)))) ∧
      (s.part.pstate p < 4 → ∀ (slack : Int) (ack : Bool) (least : Int),
        least = (match s.part.slackMin p with | some m => min m slack | none => slack) →
        (0 ≤ slack → ∃ q : Part, exec (.pathDelaySample p slack ack) s = .next (s.withPart q) ∧ q.od .pathSlackMin p = ofInt 32 least ∧
          Part.only [.dict, .season] s.part q ∧ Part.odOnly [(.pathSlackMin, p.val)] s.part q) ∧
        (slack < 0 → s.part.flash.vddLimit < 65536 → ∃ q : Part, exec (.pathDelaySample p slack true) s = .next (s.withPart q) ∧ q.od .pathSlackMin p = ofInt 32 least ∧
          q.od .vddGuard p = min s.part.flash.vddLimit (s.part.od .vddGuard p + 10)))) ∧
    (s.part.firmwareRuns = true →
      (∀ margins : List Nat, s.part.od .maintState 0 ≠ 2 → ∃ q : Part, exec (.seasonEnd margins) s = .next (s.withPart q) ∧
        q.od .seasonNumber 0 = (s.part.od .seasonNumber 0 + 1) % 2 ^ 32 ∧ q.od .seasonElapsed 0 = 0 ∧ q.od .maintState 0 = 1 ∧
        q.season.pending = [4, 5] ∧ q.flash.wear.number = q.od .seasonNumber 0 ∧ ∀ p : Pav, (q.pav p).watch = []) ∧
      (∀ (c : Nat), c < 64 → 4 ∈ s.part.season.pending → s.part.od .maintState 0 ≠ 2 → s.part.od .channelState c = 2 → (s.part.chan c).retrain = [] →
        (∃ r < 4, s.part.rankRuns c r = true) →
        (∀ n : Link, s.part.od .linkState n = 2 → marginLow (s.part.od .linkEyeMargin n) = false) → ∃ q : Part, exec .maintWindowOpen s = .next (s.withPart q) ∧ q.od .maintState 0 = 2 ∧
          (q.chan c).retrain = (List.range 4).filter (s.part.rankRuns c)) ∧
      (∃ q : Part, exec .wearRecordHourly s = .next (s.withPart q) ∧ q.flash.wear.number = s.part.od .seasonNumber 0 ∧
        q.flash.wear.elapsed = s.part.od .seasonElapsed 0 ∧ q.flash.wear.ages = s.part.season.age ∧ q.flash.wear.bands = s.part.season.bands ∧
        (∀ p : Pav, q.flash.wear.guards.get 0 p = s.part.od .vddGuard p) ∧ (∀ c : Chan, q.flash.wear.floors.get 0 c = s.part.od .refreshFloor c) ∧
        Part.only [.flash] s.part q) ∧
      (∀ (p : Pav) (e : CeEnt), p.val ∈ s.part.serving → (∀ k ∈ s.part.serving, k ≠ p.val → (s.part.pav k).ceTable = []) → (s.part.pav p).ceTable = [e] →
        ∀ l, l = (watchAdd (s.part.pav p).watch e.burst (e.device % 32)).get [] (rowKey e.burst) →
        (l.length < s.part.od .weakRowThreshold 0 → exec .ceTableScan s = .next (s.withPart (s.part.onPav p fun v => { v with
          watch := watchAdd v.watch e.burst (e.device % 32) }))) ∧
        (∀ r, s.part.od .weakRowThreshold 0 ≤ l.length →
          r = weakRowOf e.burst (s.part.od .rankLayer (bits e.burst 37 6 * 4 + bits e.burst 34 2)) (l.foldl (fun b x => b ||| 2 ^ (x / 2 ^ 43)) 0) →
          s.part.flash.weakRows.any r.same = false → ∃ q : Part, exec .ceTableScan s = .next (s.withPart q) ∧
            q.flash.weakRows = s.part.flash.weakRows ++ [r])) ∧
      (∀ (p : Pav) (x y : Part) (sl le : Nat) (rest more : List Nat), s.part.inService p = true →
        x = { s.part with season := { s.part.season with
          moves := s.part.season.moves.filter fun k => placeHome (s.part.vint.inForce.place.get 0 (k / 8)) == k % 8 } } →
        x.planMoves p = x → x.leftExt p = none → 0 < x.deficit p → x.withdrawOrder p = sl :: rest → x.homedGranted sl p = le :: more →
        x.leftPages p sl le = [] → y = x.withdraw p sl le → y.leftExt p = none → y.deficit p ≤ 0 →
        exec (.capacityWithdrawal p) s = .next (s.withPart y.retireEmpty) ∧
          y = (((x.forceRelease sl [le] false).modOd .withdrawnExtents 0 (· + 1)).logEv 0x1809 le 0 (some sl) p))) ∧
    (∀ w : Who, s.part.mayWrite w .maintCommand →
      (∀ c : Nat, c < 64 → 4 ∈ s.part.season.pending → s.part.od .maintState 0 ≠ 2 → s.part.od .channelState c = 2 → (s.part.chan c).retrain = [] →
        (∃ r < 4, s.part.rankRuns c r = true) →
        (∀ n : Link, s.part.od .linkState n = 2 → marginLow (s.part.od .linkEyeMargin n) = false) → ∃ q : Part, exec (.maintOpenNow w) s = .next (s.withPart (q.emit (.answer w rOk []))) ∧ q.od .maintState 0 = 2 ∧
          (q.chan c).retrain = (List.range 4).filter (s.part.rankRuns c)) ∧
      (s.part.od .maintState 0 ≠ 2 → exec (.maintClose w) s = .next (s.withPart (s.part.emit (.answer w rOk []))))) ∧
    (s.part.od .maintState 0 = 2 → ∃ q : Part, exec .maintWindowExpiry s = .next (s.withPart q) ∧
      q.season.pending = (s.part.season.pending.map fun k => if 20 ≤ k then k - 20 else k).eraseDups ∧
      q.od .maintState 0 = (if q.season.pending = [] then 0 else 1) ∧ (∀ c : Chan, (q.chan c).retrain = (s.part.chan c).retrain.take 1) ∧
      Part.only [.chans, .season, .dict] s.part q ∧
      ∀ w : Who, s.part.mayWrite w .maintCommand → exec (.maintClose w) s = .next (s.withPart (q.emit (.answer w rOk []))))
end

