-- ==== Sys2Proof/Laws/Sparse.lean ====
section
/-!
SUPPORT. What reading a sparse table gives after each operation, and that each operation keeps the canonical form.
-/

namespace Sys2Proof.Machine

variable {α : Type}

@[simp] theorem Sparse.get_nil (d : α) (k : Nat) : Sparse.get d [] k = d := rfl

theorem Sparse.get_cons (d : α) (j : Nat) (v : α) (r : Sparse α) (k : Nat) :
    Sparse.get d ((j, v) :: r) k = if j = k then v else Sparse.get d r k := rfl

/-- Reading after `put`: the new value at its key, every other key as before. -/
theorem Sparse.get_put (d : α) (m : Sparse α) (k : Nat) (v : α) (k' : Nat) :
    (m.put k v).get d k' = if k = k' then v else m.get d k' := by
  induction m with
  | nil => simp [Sparse.put, Sparse.get]
  | cons e r ih =>
    obtain ⟨j, w⟩ := e
    by_cases h1 : k < j
    · simp [Sparse.put, Sparse.get, h1]
    · by_cases h2 : j = k
      · subst h2
        by_cases h3 : j = k' <;> simp [Sparse.put, Sparse.get, h3]
      · simp only [Sparse.put, h1, h2, if_false, Sparse.get_cons, ih]
        by_cases h3 : j = k' <;> by_cases h4 : k = k' <;> simp_all

/-- Reading after `erase`: the default at the key, every other key as before. -/
theorem Sparse.get_erase (d : α) (m : Sparse α) (k k' : Nat) :
    (m.erase k).get d k' = if k = k' then d else m.get d k' := by
  induction m with
  | nil => simp [Sparse.erase, Sparse.get]
  | cons e r ih =>
    obtain ⟨j, w⟩ := e
    by_cases h2 : j = k
    · subst h2
      by_cases h3 : j = k' <;> simp_all [Sparse.erase, Sparse.get]
    · simp only [Sparse.erase, h2, if_false, Sparse.get_cons, ih]
      by_cases h3 : j = k' <;> by_cases h4 : k = k' <;> simp_all

/-- Reading after `set`: the value written at its key, every other key as before. -/
@[simp] theorem Sparse.get_set [DecidableEq α] (d : α) (m : Sparse α) (k : Nat) (v : α) (k' : Nat) :
    (m.set d k v).get d k' = if k = k' then v else m.get d k' := by
  unfold Sparse.set
  split
  · next h => rw [Sparse.get_erase, h]
  · exact Sparse.get_put d m k v k'

/-- Reading after `modify`. -/
@[simp] theorem Sparse.get_modify [DecidableEq α] (d : α) (m : Sparse α) (k : Nat) (f : α → α) (k' : Nat) :
    (m.modify d k f).get d k' = if k = k' then f (m.get d k) else m.get d k' := Sparse.get_set d m k _ k'

/-! ## The canonical form -/

/-- Every key of the table is above a number. -/
def Sparse.above (lo : Nat) (m : Sparse α) : Prop := ∀ e ∈ m, lo < e.1

/-- Sortedness, said of the head and the tail. -/
theorem Sparse.sorted_cons (j : Nat) (v : α) (r : Sparse α) :
    Sparse.sorted ((j, v) :: r) = true ↔ Sparse.above j r ∧ Sparse.sorted r = true := by
  induction r generalizing j v with
  | nil => simp [Sparse.sorted, Sparse.above]
  | cons e r ih =>
    obtain ⟨k, w⟩ := e
    constructor
    · intro h
      have h' : j < k ∧ Sparse.sorted ((k, w) :: r) = true := by simpa [Sparse.sorted] using h
      refine ⟨fun e he => ?_, h'.2⟩
      rcases List.mem_cons.mp he with rfl | he
      · exact h'.1
      · exact lt_trans h'.1 (((ih k w).mp h'.2).1 e he)
    · intro h
      have : j < k := h.1 (k, w) (by simp)
      simp [Sparse.sorted, this, h.2]

theorem Sparse.mem_put {m : Sparse α} {k : Nat} {v : α} {e : Nat × α} (h : e ∈ m.put k v) : e = (k, v) ∨ e ∈ m := by
  induction m with
  | nil => simpa [Sparse.put] using h
  | cons a r ih =>
    obtain ⟨j, w⟩ := a
    unfold Sparse.put at h
    split at h
    · simpa using h
    · split at h
      · rcases List.mem_cons.mp h with h | h
        · exact .inl h
        · exact .inr (List.mem_cons_of_mem _ h)
      · rcases List.mem_cons.mp h with h | h
        · exact .inr (by simp [h])
        · exact (ih h).imp id (List.mem_cons_of_mem _)

theorem Sparse.mem_erase {m : Sparse α} {k : Nat} {e : Nat × α} (h : e ∈ m.erase k) : e ∈ m := by
  induction m with
  | nil => simp [Sparse.erase] at h
  | cons a r ih =>
    obtain ⟨j, w⟩ := a
    unfold Sparse.erase at h
    split at h
    · exact List.mem_cons_of_mem _ (ih h)
    · rcases List.mem_cons.mp h with h | h
      · simp [h]
      · exact List.mem_cons_of_mem _ (ih h)

theorem Sparse.sorted_put {m : Sparse α} (k : Nat) (v : α) (h : m.sorted = true) : (m.put k v).sorted = true := by
  induction m with
  | nil => rfl
  | cons a r ih =>
    obtain ⟨j, w⟩ := a
    have hs := (Sparse.sorted_cons j w r).mp h
    by_cases h1 : k < j
    · simp only [Sparse.put, h1, if_true]
      refine (Sparse.sorted_cons _ _ _).mpr ⟨fun e he => ?_, h⟩
      rcases List.mem_cons.mp he with rfl | he
      · exact h1
      · exact lt_trans h1 (hs.1 e he)
    · by_cases h2 : j = k
      · subst h2
        simpa [Sparse.put] using (Sparse.sorted_cons j v r).mpr hs
      · simp only [Sparse.put, h1, h2, if_false]
        refine (Sparse.sorted_cons _ _ _).mpr ⟨fun e he => ?_, ih hs.2⟩
        rcases Sparse.mem_put he with rfl | he
        · exact Nat.lt_of_le_of_ne (Nat.le_of_not_lt h1) h2
        · exact hs.1 e he

theorem Sparse.sorted_erase {m : Sparse α} (k : Nat) (h : m.sorted = true) : (m.erase k).sorted = true := by
  induction m with
  | nil => rfl
  | cons a r ih =>
    obtain ⟨j, w⟩ := a
    have hs := (Sparse.sorted_cons j w r).mp h
    unfold Sparse.erase
    split
    · exact ih hs.2
    · exact (Sparse.sorted_cons _ _ _).mpr ⟨fun e he => hs.1 e (Sparse.mem_erase he), ih hs.2⟩

theorem Sparse.sorted_filter {m : Sparse α} (f : Nat × α → Bool) (h : m.sorted = true) :
    Sparse.sorted (m.filter f) = true := by
  induction m with
  | nil => rfl
  | cons a r ih =>
    obtain ⟨j, w⟩ := a
    have hs := (Sparse.sorted_cons j w r).mp h
    rw [List.filter_cons]
    split
    · exact (Sparse.sorted_cons _ _ _).mpr ⟨fun e he => hs.1 e (List.mem_filter.mp he).1, ih hs.2⟩
    · exact ih hs.2

theorem Sparse.wf_iff [DecidableEq α] (d : α) (m : Sparse α) :
    m.wf d = true ↔ m.sorted = true ∧ ∀ e ∈ m, e.2 ≠ d := by
  simp [Sparse.wf, List.all_eq_true]

@[simp] theorem Sparse.wf_nil [DecidableEq α] (d : α) : Sparse.wf d [] = true := rfl

/-- `put` of a value other than the default keeps the canonical form. -/
theorem Sparse.wf_put [DecidableEq α] {d : α} {m : Sparse α} (k : Nat) {v : α} (hv : v ≠ d) (h : m.wf d = true) :
    (m.put k v).wf d = true := by
  have h' := (Sparse.wf_iff d m).mp h
  refine (Sparse.wf_iff d _).mpr ⟨Sparse.sorted_put k v h'.1, fun e he => ?_⟩
  rcases Sparse.mem_put he with rfl | he
  · exact hv
  · exact h'.2 e he

/-- `erase` keeps the canonical form. -/
theorem Sparse.wf_erase [DecidableEq α] {d : α} {m : Sparse α} (k : Nat) (h : m.wf d = true) :
    (m.erase k).wf d = true := by
  have h' := (Sparse.wf_iff d m).mp h
  exact (Sparse.wf_iff d _).mpr ⟨Sparse.sorted_erase k h'.1, fun e he => h'.2 e (Sparse.mem_erase he)⟩

/-- `set` keeps the canonical form. -/
theorem Sparse.wf_set [DecidableEq α] {d : α} {m : Sparse α} (k : Nat) (v : α) (h : m.wf d = true) :
    (m.set d k v).wf d = true := by
  unfold Sparse.set
  split
  · exact Sparse.wf_erase k h
  · next hv => exact Sparse.wf_put k hv h

/-- `modify` keeps the canonical form. -/
theorem Sparse.wf_modify [DecidableEq α] {d : α} {m : Sparse α} (k : Nat) (f : α → α) (h : m.wf d = true) :
    (m.modify d k f).wf d = true := Sparse.wf_set k _ h

/-- Keeping some of the entries keeps the canonical form. -/
theorem Sparse.wf_filter [DecidableEq α] {d : α} {m : Sparse α} (f : Nat × α → Bool) (h : m.wf d = true) :
    Sparse.wf d (m.filter f) = true := by
  have h' := (Sparse.wf_iff d m).mp h
  exact (Sparse.wf_iff d _).mpr ⟨Sparse.sorted_filter f h'.1, fun e he => h'.2 e (List.mem_filter.mp he).1⟩

/-- `eraseRange` keeps the canonical form. -/
theorem Sparse.wf_eraseRange [DecidableEq α] {d : α} {m : Sparse α} (lo hi : Nat) (h : m.wf d = true) :
    (m.eraseRange lo hi).wf d = true := Sparse.wf_filter _ h

/-- Reading after `eraseRange`: the default inside the range, every other key as before. -/
theorem Sparse.get_eraseRange (d : α) (m : Sparse α) (lo hi k : Nat) :
    (m.eraseRange lo hi).get d k = if lo ≤ k ∧ k < hi then d else m.get d k := by
  induction m with
  | nil => simp [Sparse.eraseRange]
  | cons a r ih =>
    obtain ⟨j, w⟩ := a
    unfold Sparse.eraseRange at ih ⊢
    rw [List.filter_cons]
    by_cases h1 : lo ≤ j ∧ j < hi
    · simp only [h1.1, h1.2, decide_true, Bool.and_self, Bool.not_true, Bool.false_eq_true, if_false, ih,
        Sparse.get_cons]
      by_cases h2 : j = k
      · subst h2; simp [h1]
      · simp [h2]
    · have : (!(decide (lo ≤ j) && decide (j < hi))) = true := by
        rcases Nat.lt_or_ge j lo with h | h
        · simp [Nat.not_le.mpr h]
        · simp [Nat.not_lt.mpr (Nat.le_of_not_lt fun q => h1 ⟨h, q⟩)]
      rw [if_pos this, Sparse.get_cons, Sparse.get_cons, ih]
      by_cases h2 : j = k
      · subst h2; simp [h1]
      · simp [h2]

/-- A table in canonical form that lists a key reads something other than the default there. -/
theorem Sparse.get_of_mem {d : α} {m : Sparse α} (h : m.sorted = true) {e : Nat × α} (he : e ∈ m) :
    m.get d e.1 = e.2 := by
  induction m with
  | nil => simp at he
  | cons a r ih =>
    obtain ⟨j, w⟩ := a
    have hs := (Sparse.sorted_cons j w r).mp h
    rcases List.mem_cons.mp he with rfl | he
    · simp [Sparse.get]
    · have hlt := hs.1 e he
      simp only [Sparse.get_cons, ih hs.2 he, if_neg (Nat.ne_of_lt hlt)]

/-- An unlisted key reads the default. -/
theorem Sparse.get_of_above {d : α} {m : Sparse α} {k : Nat} (h : m.above k) : m.get d k = d := by
  induction m with
  | nil => rfl
  | cons a r ih =>
    obtain ⟨j, w⟩ := a
    have hj : k < j := h (j, w) (by simp)
    rw [Sparse.get_cons, if_neg (Nat.ne_of_gt hj)]
    exact ih fun e he => h e (List.mem_cons_of_mem _ he)

/-- Two tables in canonical form that read the same everywhere are equal. -/
theorem Sparse.ext_get [DecidableEq α] {d : α} {a b : Sparse α} (ha : a.wf d = true) (hb : b.wf d = true)
    (h : ∀ k, a.get d k = b.get d k) : a = b := by
  induction a generalizing b with
  | nil =>
    cases b with
    | nil => rfl
    | cons e r =>
      have hb' := (Sparse.wf_iff d _).mp hb
      have := h e.1
      rw [Sparse.get_of_mem hb'.1 (by simp)] at this
      exact absurd this.symm (hb'.2 e (by simp))
  | cons x xs ih =>
    obtain ⟨j, v⟩ := x
    have ha' := (Sparse.wf_iff d _).mp ha
    cases b with
    | nil =>
      have := h j
      rw [Sparse.get_of_mem ha'.1 (e := (j, v)) (by simp)] at this
      exact absurd this (ha'.2 (j, v) (by simp))
    | cons y ys =>
      obtain ⟨k, w⟩ := y
      have hb' := (Sparse.wf_iff d _).mp hb
      have sa := (Sparse.sorted_cons j v xs).mp ha'.1
      have sb := (Sparse.sorted_cons k w ys).mp hb'.1
      have hjk : j = k := by
        rcases Nat.lt_trichotomy j k with hlt | heq | hgt
        · exfalso
          have h1 := h j
          rw [Sparse.get_of_mem ha'.1 (e := (j, v)) (by simp), Sparse.get_of_above (m := (k, w) :: ys)] at h1
          · exact ha'.2 (j, v) (by simp) h1
          · intro e he
            rcases List.mem_cons.mp he with rfl | he
            · exact hlt
            · exact lt_trans hlt (sb.1 e he)
        · exact heq
        · exfalso
          have h1 := h k
          rw [Sparse.get_of_mem hb'.1 (e := (k, w)) (by simp), Sparse.get_of_above (m := (j, v) :: xs)] at h1
          · exact hb'.2 (k, w) (by simp) h1.symm
          · intro e he
            rcases List.mem_cons.mp he with rfl | he
            · exact hgt
            · exact lt_trans hgt (sa.1 e he)
      subst hjk
      have hvw : v = w := by simpa [Sparse.get] using h j
      subst hvw
      have hx : Sparse.wf d xs = true := (Sparse.wf_iff d _).mpr ⟨sa.2, fun e he => ha'.2 e (List.mem_cons_of_mem _ he)⟩
      have hy : Sparse.wf d ys = true := (Sparse.wf_iff d _).mpr ⟨sb.2, fun e he => hb'.2 e (List.mem_cons_of_mem _ he)⟩
      congr 1
      refine ih hx hy fun k => ?_
      by_cases hk : j = k
      · subst hk; rw [Sparse.get_of_above sa.1, Sparse.get_of_above sb.1]
      · simpa [Sparse.get_cons, hk] using h k

end Sys2Proof.Machine
end

