-- ==== Sys2Proof/Laws/State.lean ====
section
/-!
SUPPORT. One lemma per field of the part and per update, and the same for the units' accessors, so that no proof unfolds
a record update.
-/

namespace Sys2Proof.Machine

variable (s : Part)

/-! ## setOd -/

@[simp] theorem Part.setOd_delta (e : Entry) (i v : Nat) : (s.setOd e i v).delta = s.delta := rfl
@[simp] theorem Part.setOd_taint (e : Entry) (i v : Nat) : (s.setOd e i v).taint = s.taint := rfl
@[simp] theorem Part.setOd_now (e : Entry) (i v : Nat) : (s.setOd e i v).now = s.now := rfl
@[simp] theorem Part.setOd_ptpRate (e : Entry) (i v : Nat) : (s.setOd e i v).ptpRate = s.ptpRate := rfl
@[simp] theorem Part.setOd_ptpLock (e : Entry) (i v : Nat) : (s.setOd e i v).ptpLock = s.ptpLock := rfl
@[simp] theorem Part.setOd_log (e : Entry) (i v : Nat) : (s.setOd e i v).log = s.log := rfl
@[simp] theorem Part.setOd_logNext (e : Entry) (i v : Nat) : (s.setOd e i v).logNext = s.logNext := rfl
@[simp] theorem Part.setOd_lastLog (e : Entry) (i v : Nat) : (s.setOd e i v).lastLog = s.lastLog := rfl
@[simp] theorem Part.setOd_pavs (e : Entry) (i v : Nat) : (s.setOd e i v).pavs = s.pavs := rfl
@[simp] theorem Part.setOd_chans (e : Entry) (i v : Nat) : (s.setOd e i v).chans = s.chans := rfl
@[simp] theorem Part.setOd_links (e : Entry) (i v : Nat) : (s.setOd e i v).links = s.links := rfl
@[simp] theorem Part.setOd_ports (e : Entry) (i v : Nat) : (s.setOd e i v).ports = s.ports := rfl
@[simp] theorem Part.setOd_slices (e : Entry) (i v : Nat) : (s.setOd e i v).slices = s.slices := rfl
@[simp] theorem Part.setOd_vint (e : Entry) (i v : Nat) : (s.setOd e i v).vint = s.vint := rfl
@[simp] theorem Part.setOd_codec (e : Entry) (i v : Nat) : (s.setOd e i v).codec = s.codec := rfl
@[simp] theorem Part.setOd_keys (e : Entry) (i v : Nat) : (s.setOd e i v).keys = s.keys := rfl
@[simp] theorem Part.setOd_gate (e : Entry) (i v : Nat) : (s.setOd e i v).gate = s.gate := rfl
@[simp] theorem Part.setOd_mon (e : Entry) (i v : Nat) : (s.setOd e i v).mon = s.mon := rfl
@[simp] theorem Part.setOd_power (e : Entry) (i v : Nat) : (s.setOd e i v).power = s.power := rfl
@[simp] theorem Part.setOd_rest (e : Entry) (i v : Nat) : (s.setOd e i v).rest = s.rest := rfl
@[simp] theorem Part.setOd_flash (e : Entry) (i v : Nat) : (s.setOd e i v).flash = s.flash := rfl
@[simp] theorem Part.setOd_boot (e : Entry) (i v : Nat) : (s.setOd e i v).boot = s.boot := rfl
@[simp] theorem Part.setOd_season (e : Entry) (i v : Nat) : (s.setOd e i v).season = s.season := rfl
@[simp] theorem Part.setOd_backlog (e : Entry) (i v : Nat) : (s.setOd e i v).backlog = s.backlog := rfl
@[simp] theorem Part.setOd_steppedMinute (e : Entry) (i v : Nat) : (s.setOd e i v).steppedMinute = s.steppedMinute := rfl
@[simp] theorem Part.setOd_minuteStart (e : Entry) (i v : Nat) : (s.setOd e i v).minuteStart = s.minuteStart := rfl
@[simp] theorem Part.setOd_out (e : Entry) (i v : Nat) : (s.setOd e i v).out = s.out := rfl
@[simp] theorem Part.setOd_freeCtr (e : Entry) (i v : Nat) : (s.setOd e i v).freeCtr = s.freeCtr := rfl
@[simp] theorem Part.setOd_pav (e : Entry) (i v : Nat) (j : Nat) : (s.setOd e i v).pav j = s.pav j := rfl
@[simp] theorem Part.setOd_chan (e : Entry) (i v : Nat) (j : Nat) : (s.setOd e i v).chan j = s.chan j := rfl
@[simp] theorem Part.setOd_port (e : Entry) (i v : Nat) (j : Nat) : (s.setOd e i v).port j = s.port j := rfl
@[simp] theorem Part.setOd_link (e : Entry) (i v : Nat) (j : Nat) : (s.setOd e i v).link j = s.link j := rfl
@[simp] theorem Part.setOd_slice (e : Entry) (i v : Nat) (j : Nat) : (s.setOd e i v).slice j = s.slice j := rfl
@[simp] theorem Part.setOd_sess (e : Entry) (i v : Nat) (j : Nat) : (s.setOd e i v).sess j = s.sess j := rfl

/-! ## count -/

@[simp] theorem Part.count_dict (e : Entry) (i n : Nat) : (s.count e i n).dict = s.dict := rfl
@[simp] theorem Part.count_taint (e : Entry) (i n : Nat) : (s.count e i n).taint = s.taint := rfl
@[simp] theorem Part.count_now (e : Entry) (i n : Nat) : (s.count e i n).now = s.now := rfl
@[simp] theorem Part.count_ptpRate (e : Entry) (i n : Nat) : (s.count e i n).ptpRate = s.ptpRate := rfl
@[simp] theorem Part.count_ptpLock (e : Entry) (i n : Nat) : (s.count e i n).ptpLock = s.ptpLock := rfl
@[simp] theorem Part.count_log (e : Entry) (i n : Nat) : (s.count e i n).log = s.log := rfl
@[simp] theorem Part.count_logNext (e : Entry) (i n : Nat) : (s.count e i n).logNext = s.logNext := rfl
@[simp] theorem Part.count_lastLog (e : Entry) (i n : Nat) : (s.count e i n).lastLog = s.lastLog := rfl
@[simp] theorem Part.count_pavs (e : Entry) (i n : Nat) : (s.count e i n).pavs = s.pavs := rfl
@[simp] theorem Part.count_chans (e : Entry) (i n : Nat) : (s.count e i n).chans = s.chans := rfl
@[simp] theorem Part.count_links (e : Entry) (i n : Nat) : (s.count e i n).links = s.links := rfl
@[simp] theorem Part.count_ports (e : Entry) (i n : Nat) : (s.count e i n).ports = s.ports := rfl
@[simp] theorem Part.count_slices (e : Entry) (i n : Nat) : (s.count e i n).slices = s.slices := rfl
@[simp] theorem Part.count_vint (e : Entry) (i n : Nat) : (s.count e i n).vint = s.vint := rfl
@[simp] theorem Part.count_codec (e : Entry) (i n : Nat) : (s.count e i n).codec = s.codec := rfl
@[simp] theorem Part.count_keys (e : Entry) (i n : Nat) : (s.count e i n).keys = s.keys := rfl
@[simp] theorem Part.count_gate (e : Entry) (i n : Nat) : (s.count e i n).gate = s.gate := rfl
@[simp] theorem Part.count_mon (e : Entry) (i n : Nat) : (s.count e i n).mon = s.mon := rfl
@[simp] theorem Part.count_power (e : Entry) (i n : Nat) : (s.count e i n).power = s.power := rfl
@[simp] theorem Part.count_rest (e : Entry) (i n : Nat) : (s.count e i n).rest = s.rest := rfl
@[simp] theorem Part.count_flash (e : Entry) (i n : Nat) : (s.count e i n).flash = s.flash := rfl
@[simp] theorem Part.count_boot (e : Entry) (i n : Nat) : (s.count e i n).boot = s.boot := rfl
@[simp] theorem Part.count_season (e : Entry) (i n : Nat) : (s.count e i n).season = s.season := rfl
@[simp] theorem Part.count_backlog (e : Entry) (i n : Nat) : (s.count e i n).backlog = s.backlog := rfl
@[simp] theorem Part.count_steppedMinute (e : Entry) (i n : Nat) : (s.count e i n).steppedMinute = s.steppedMinute := rfl
@[simp] theorem Part.count_minuteStart (e : Entry) (i n : Nat) : (s.count e i n).minuteStart = s.minuteStart := rfl
@[simp] theorem Part.count_out (e : Entry) (i n : Nat) : (s.count e i n).out = s.out := rfl
@[simp] theorem Part.count_freeCtr (e : Entry) (i n : Nat) : (s.count e i n).freeCtr = s.freeCtr := rfl
@[simp] theorem Part.count_pav (e : Entry) (i n : Nat) (j : Nat) : (s.count e i n).pav j = s.pav j := rfl
@[simp] theorem Part.count_chan (e : Entry) (i n : Nat) (j : Nat) : (s.count e i n).chan j = s.chan j := rfl
@[simp] theorem Part.count_port (e : Entry) (i n : Nat) (j : Nat) : (s.count e i n).port j = s.port j := rfl
@[simp] theorem Part.count_link (e : Entry) (i n : Nat) (j : Nat) : (s.count e i n).link j = s.link j := rfl
@[simp] theorem Part.count_slice (e : Entry) (i n : Nat) (j : Nat) : (s.count e i n).slice j = s.slice j := rfl
@[simp] theorem Part.count_sess (e : Entry) (i n : Nat) (j : Nat) : (s.count e i n).sess j = s.sess j := rfl
@[simp] theorem Part.count_od (e : Entry) (i n : Nat) (x : Entry) (j : Nat) : (s.count e i n).od x j = s.od x j := rfl

/-! ## emit -/

@[simp] theorem Part.emit_dict (o : Output) : (s.emit o).dict = s.dict := rfl
@[simp] theorem Part.emit_delta (o : Output) : (s.emit o).delta = s.delta := rfl
@[simp] theorem Part.emit_taint (o : Output) : (s.emit o).taint = s.taint := rfl
@[simp] theorem Part.emit_now (o : Output) : (s.emit o).now = s.now := rfl
@[simp] theorem Part.emit_ptpRate (o : Output) : (s.emit o).ptpRate = s.ptpRate := rfl
@[simp] theorem Part.emit_ptpLock (o : Output) : (s.emit o).ptpLock = s.ptpLock := rfl
@[simp] theorem Part.emit_log (o : Output) : (s.emit o).log = s.log := rfl
@[simp] theorem Part.emit_logNext (o : Output) : (s.emit o).logNext = s.logNext := rfl
@[simp] theorem Part.emit_lastLog (o : Output) : (s.emit o).lastLog = s.lastLog := rfl
@[simp] theorem Part.emit_pavs (o : Output) : (s.emit o).pavs = s.pavs := rfl
@[simp] theorem Part.emit_chans (o : Output) : (s.emit o).chans = s.chans := rfl
@[simp] theorem Part.emit_links (o : Output) : (s.emit o).links = s.links := rfl
@[simp] theorem Part.emit_ports (o : Output) : (s.emit o).ports = s.ports := rfl
@[simp] theorem Part.emit_slices (o : Output) : (s.emit o).slices = s.slices := rfl
@[simp] theorem Part.emit_vint (o : Output) : (s.emit o).vint = s.vint := rfl
@[simp] theorem Part.emit_codec (o : Output) : (s.emit o).codec = s.codec := rfl
@[simp] theorem Part.emit_keys (o : Output) : (s.emit o).keys = s.keys := rfl
@[simp] theorem Part.emit_gate (o : Output) : (s.emit o).gate = s.gate := rfl
@[simp] theorem Part.emit_mon (o : Output) : (s.emit o).mon = s.mon := rfl
@[simp] theorem Part.emit_power (o : Output) : (s.emit o).power = s.power := rfl
@[simp] theorem Part.emit_rest (o : Output) : (s.emit o).rest = s.rest := rfl
@[simp] theorem Part.emit_flash (o : Output) : (s.emit o).flash = s.flash := rfl
@[simp] theorem Part.emit_boot (o : Output) : (s.emit o).boot = s.boot := rfl
@[simp] theorem Part.emit_season (o : Output) : (s.emit o).season = s.season := rfl
@[simp] theorem Part.emit_backlog (o : Output) : (s.emit o).backlog = s.backlog := rfl
@[simp] theorem Part.emit_steppedMinute (o : Output) : (s.emit o).steppedMinute = s.steppedMinute := rfl
@[simp] theorem Part.emit_minuteStart (o : Output) : (s.emit o).minuteStart = s.minuteStart := rfl
@[simp] theorem Part.emit_freeCtr (o : Output) : (s.emit o).freeCtr = s.freeCtr := rfl
@[simp] theorem Part.emit_pav (o : Output) (j : Nat) : (s.emit o).pav j = s.pav j := rfl
@[simp] theorem Part.emit_chan (o : Output) (j : Nat) : (s.emit o).chan j = s.chan j := rfl
@[simp] theorem Part.emit_port (o : Output) (j : Nat) : (s.emit o).port j = s.port j := rfl
@[simp] theorem Part.emit_link (o : Output) (j : Nat) : (s.emit o).link j = s.link j := rfl
@[simp] theorem Part.emit_slice (o : Output) (j : Nat) : (s.emit o).slice j = s.slice j := rfl
@[simp] theorem Part.emit_sess (o : Output) (j : Nat) : (s.emit o).sess j = s.sess j := rfl
@[simp] theorem Part.emit_od (o : Output) (x : Entry) (j : Nat) : (s.emit o).od x j = s.od x j := rfl
@[simp] theorem Part.emit_out (o : Output) : (s.emit o).out = s.out ++ [o] := rfl

/-! ## onPav -/

@[simp] theorem Part.onPav_dict (k : Nat) (f : PavState → PavState) : (s.onPav k f).dict = s.dict := rfl
@[simp] theorem Part.onPav_delta (k : Nat) (f : PavState → PavState) : (s.onPav k f).delta = s.delta := rfl
@[simp] theorem Part.onPav_taint (k : Nat) (f : PavState → PavState) : (s.onPav k f).taint = s.taint := rfl
@[simp] theorem Part.onPav_now (k : Nat) (f : PavState → PavState) : (s.onPav k f).now = s.now := rfl
@[simp] theorem Part.onPav_ptpRate (k : Nat) (f : PavState → PavState) : (s.onPav k f).ptpRate = s.ptpRate := rfl
@[simp] theorem Part.onPav_ptpLock (k : Nat) (f : PavState → PavState) : (s.onPav k f).ptpLock = s.ptpLock := rfl
@[simp] theorem Part.onPav_log (k : Nat) (f : PavState → PavState) : (s.onPav k f).log = s.log := rfl
@[simp] theorem Part.onPav_logNext (k : Nat) (f : PavState → PavState) : (s.onPav k f).logNext = s.logNext := rfl
@[simp] theorem Part.onPav_lastLog (k : Nat) (f : PavState → PavState) : (s.onPav k f).lastLog = s.lastLog := rfl
@[simp] theorem Part.onPav_chans (k : Nat) (f : PavState → PavState) : (s.onPav k f).chans = s.chans := rfl
@[simp] theorem Part.onPav_links (k : Nat) (f : PavState → PavState) : (s.onPav k f).links = s.links := rfl
@[simp] theorem Part.onPav_ports (k : Nat) (f : PavState → PavState) : (s.onPav k f).ports = s.ports := rfl
@[simp] theorem Part.onPav_slices (k : Nat) (f : PavState → PavState) : (s.onPav k f).slices = s.slices := rfl
@[simp] theorem Part.onPav_vint (k : Nat) (f : PavState → PavState) : (s.onPav k f).vint = s.vint := rfl
@[simp] theorem Part.onPav_codec (k : Nat) (f : PavState → PavState) : (s.onPav k f).codec = s.codec := rfl
@[simp] theorem Part.onPav_keys (k : Nat) (f : PavState → PavState) : (s.onPav k f).keys = s.keys := rfl
@[simp] theorem Part.onPav_gate (k : Nat) (f : PavState → PavState) : (s.onPav k f).gate = s.gate := rfl
@[simp] theorem Part.onPav_mon (k : Nat) (f : PavState → PavState) : (s.onPav k f).mon = s.mon := rfl
@[simp] theorem Part.onPav_power (k : Nat) (f : PavState → PavState) : (s.onPav k f).power = s.power := rfl
@[simp] theorem Part.onPav_rest (k : Nat) (f : PavState → PavState) : (s.onPav k f).rest = s.rest := rfl
@[simp] theorem Part.onPav_flash (k : Nat) (f : PavState → PavState) : (s.onPav k f).flash = s.flash := rfl
@[simp] theorem Part.onPav_boot (k : Nat) (f : PavState → PavState) : (s.onPav k f).boot = s.boot := rfl
@[simp] theorem Part.onPav_season (k : Nat) (f : PavState → PavState) : (s.onPav k f).season = s.season := rfl
@[simp] theorem Part.onPav_backlog (k : Nat) (f : PavState → PavState) : (s.onPav k f).backlog = s.backlog := rfl
@[simp] theorem Part.onPav_steppedMinute (k : Nat) (f : PavState → PavState) : (s.onPav k f).steppedMinute = s.steppedMinute := rfl
@[simp] theorem Part.onPav_minuteStart (k : Nat) (f : PavState → PavState) : (s.onPav k f).minuteStart = s.minuteStart := rfl
@[simp] theorem Part.onPav_out (k : Nat) (f : PavState → PavState) : (s.onPav k f).out = s.out := rfl
@[simp] theorem Part.onPav_freeCtr (k : Nat) (f : PavState → PavState) : (s.onPav k f).freeCtr = s.freeCtr := rfl
/-- The unit changed, and every other. -/
theorem Part.onPav_pav (k : Nat) (f : PavState → PavState) (j : Nat) :
    (s.onPav k f).pav j = if k = j then f (s.pav k) else s.pav j := Sparse.get_modify _ _ _ _ _
@[simp] theorem Part.onPav_pav_self (k : Nat) (f : PavState → PavState) : (s.onPav k f).pav k = f (s.pav k) := by
  simp [Part.onPav_pav]
theorem Part.onPav_pav_other (k : Nat) (f : PavState → PavState) {j : Nat} (h : k ≠ j) : (s.onPav k f).pav j = s.pav j := by
  simp [Part.onPav_pav, h]
@[simp] theorem Part.onPav_chan (k : Nat) (f : PavState → PavState) (j : Nat) : (s.onPav k f).chan j = s.chan j := rfl
@[simp] theorem Part.onPav_port (k : Nat) (f : PavState → PavState) (j : Nat) : (s.onPav k f).port j = s.port j := rfl
@[simp] theorem Part.onPav_link (k : Nat) (f : PavState → PavState) (j : Nat) : (s.onPav k f).link j = s.link j := rfl
@[simp] theorem Part.onPav_slice (k : Nat) (f : PavState → PavState) (j : Nat) : (s.onPav k f).slice j = s.slice j := rfl
@[simp] theorem Part.onPav_sess (k : Nat) (f : PavState → PavState) (j : Nat) : (s.onPav k f).sess j = s.sess j := rfl
@[simp] theorem Part.onPav_od (k : Nat) (f : PavState → PavState) (x : Entry) (j : Nat) : (s.onPav k f).od x j = s.od x j := rfl

/-! ## onChan -/

@[simp] theorem Part.onChan_dict (k : Nat) (f : ChanState → ChanState) : (s.onChan k f).dict = s.dict := rfl
@[simp] theorem Part.onChan_delta (k : Nat) (f : ChanState → ChanState) : (s.onChan k f).delta = s.delta := rfl
@[simp] theorem Part.onChan_taint (k : Nat) (f : ChanState → ChanState) : (s.onChan k f).taint = s.taint := rfl
@[simp] theorem Part.onChan_now (k : Nat) (f : ChanState → ChanState) : (s.onChan k f).now = s.now := rfl
@[simp] theorem Part.onChan_ptpRate (k : Nat) (f : ChanState → ChanState) : (s.onChan k f).ptpRate = s.ptpRate := rfl
@[simp] theorem Part.onChan_ptpLock (k : Nat) (f : ChanState → ChanState) : (s.onChan k f).ptpLock = s.ptpLock := rfl
@[simp] theorem Part.onChan_log (k : Nat) (f : ChanState → ChanState) : (s.onChan k f).log = s.log := rfl
@[simp] theorem Part.onChan_logNext (k : Nat) (f : ChanState → ChanState) : (s.onChan k f).logNext = s.logNext := rfl
@[simp] theorem Part.onChan_lastLog (k : Nat) (f : ChanState → ChanState) : (s.onChan k f).lastLog = s.lastLog := rfl
@[simp] theorem Part.onChan_pavs (k : Nat) (f : ChanState → ChanState) : (s.onChan k f).pavs = s.pavs := rfl
@[simp] theorem Part.onChan_links (k : Nat) (f : ChanState → ChanState) : (s.onChan k f).links = s.links := rfl
@[simp] theorem Part.onChan_ports (k : Nat) (f : ChanState → ChanState) : (s.onChan k f).ports = s.ports := rfl
@[simp] theorem Part.onChan_slices (k : Nat) (f : ChanState → ChanState) : (s.onChan k f).slices = s.slices := rfl
@[simp] theorem Part.onChan_vint (k : Nat) (f : ChanState → ChanState) : (s.onChan k f).vint = s.vint := rfl
@[simp] theorem Part.onChan_codec (k : Nat) (f : ChanState → ChanState) : (s.onChan k f).codec = s.codec := rfl
@[simp] theorem Part.onChan_keys (k : Nat) (f : ChanState → ChanState) : (s.onChan k f).keys = s.keys := rfl
@[simp] theorem Part.onChan_gate (k : Nat) (f : ChanState → ChanState) : (s.onChan k f).gate = s.gate := rfl
@[simp] theorem Part.onChan_mon (k : Nat) (f : ChanState → ChanState) : (s.onChan k f).mon = s.mon := rfl
@[simp] theorem Part.onChan_power (k : Nat) (f : ChanState → ChanState) : (s.onChan k f).power = s.power := rfl
@[simp] theorem Part.onChan_rest (k : Nat) (f : ChanState → ChanState) : (s.onChan k f).rest = s.rest := rfl
@[simp] theorem Part.onChan_flash (k : Nat) (f : ChanState → ChanState) : (s.onChan k f).flash = s.flash := rfl
@[simp] theorem Part.onChan_boot (k : Nat) (f : ChanState → ChanState) : (s.onChan k f).boot = s.boot := rfl
@[simp] theorem Part.onChan_season (k : Nat) (f : ChanState → ChanState) : (s.onChan k f).season = s.season := rfl
@[simp] theorem Part.onChan_backlog (k : Nat) (f : ChanState → ChanState) : (s.onChan k f).backlog = s.backlog := rfl
@[simp] theorem Part.onChan_steppedMinute (k : Nat) (f : ChanState → ChanState) : (s.onChan k f).steppedMinute = s.steppedMinute := rfl
@[simp] theorem Part.onChan_minuteStart (k : Nat) (f : ChanState → ChanState) : (s.onChan k f).minuteStart = s.minuteStart := rfl
@[simp] theorem Part.onChan_out (k : Nat) (f : ChanState → ChanState) : (s.onChan k f).out = s.out := rfl
@[simp] theorem Part.onChan_freeCtr (k : Nat) (f : ChanState → ChanState) : (s.onChan k f).freeCtr = s.freeCtr := rfl
@[simp] theorem Part.onChan_pav (k : Nat) (f : ChanState → ChanState) (j : Nat) : (s.onChan k f).pav j = s.pav j := rfl
/-- The unit changed, and every other. -/
theorem Part.onChan_chan (k : Nat) (f : ChanState → ChanState) (j : Nat) :
    (s.onChan k f).chan j = if k = j then f (s.chan k) else s.chan j := Sparse.get_modify _ _ _ _ _
@[simp] theorem Part.onChan_chan_self (k : Nat) (f : ChanState → ChanState) : (s.onChan k f).chan k = f (s.chan k) := by
  simp [Part.onChan_chan]
theorem Part.onChan_chan_other (k : Nat) (f : ChanState → ChanState) {j : Nat} (h : k ≠ j) : (s.onChan k f).chan j = s.chan j := by
  simp [Part.onChan_chan, h]
@[simp] theorem Part.onChan_port (k : Nat) (f : ChanState → ChanState) (j : Nat) : (s.onChan k f).port j = s.port j := rfl
@[simp] theorem Part.onChan_link (k : Nat) (f : ChanState → ChanState) (j : Nat) : (s.onChan k f).link j = s.link j := rfl
@[simp] theorem Part.onChan_slice (k : Nat) (f : ChanState → ChanState) (j : Nat) : (s.onChan k f).slice j = s.slice j := rfl
@[simp] theorem Part.onChan_sess (k : Nat) (f : ChanState → ChanState) (j : Nat) : (s.onChan k f).sess j = s.sess j := rfl
@[simp] theorem Part.onChan_od (k : Nat) (f : ChanState → ChanState) (x : Entry) (j : Nat) : (s.onChan k f).od x j = s.od x j := rfl

/-! ## onPort -/

@[simp] theorem Part.onPort_dict (k : Nat) (f : PortState → PortState) : (s.onPort k f).dict = s.dict := rfl
@[simp] theorem Part.onPort_delta (k : Nat) (f : PortState → PortState) : (s.onPort k f).delta = s.delta := rfl
@[simp] theorem Part.onPort_taint (k : Nat) (f : PortState → PortState) : (s.onPort k f).taint = s.taint := rfl
@[simp] theorem Part.onPort_now (k : Nat) (f : PortState → PortState) : (s.onPort k f).now = s.now := rfl
@[simp] theorem Part.onPort_ptpRate (k : Nat) (f : PortState → PortState) : (s.onPort k f).ptpRate = s.ptpRate := rfl
@[simp] theorem Part.onPort_ptpLock (k : Nat) (f : PortState → PortState) : (s.onPort k f).ptpLock = s.ptpLock := rfl
@[simp] theorem Part.onPort_log (k : Nat) (f : PortState → PortState) : (s.onPort k f).log = s.log := rfl
@[simp] theorem Part.onPort_logNext (k : Nat) (f : PortState → PortState) : (s.onPort k f).logNext = s.logNext := rfl
@[simp] theorem Part.onPort_lastLog (k : Nat) (f : PortState → PortState) : (s.onPort k f).lastLog = s.lastLog := rfl
@[simp] theorem Part.onPort_pavs (k : Nat) (f : PortState → PortState) : (s.onPort k f).pavs = s.pavs := rfl
@[simp] theorem Part.onPort_chans (k : Nat) (f : PortState → PortState) : (s.onPort k f).chans = s.chans := rfl
@[simp] theorem Part.onPort_links (k : Nat) (f : PortState → PortState) : (s.onPort k f).links = s.links := rfl
@[simp] theorem Part.onPort_slices (k : Nat) (f : PortState → PortState) : (s.onPort k f).slices = s.slices := rfl
@[simp] theorem Part.onPort_vint (k : Nat) (f : PortState → PortState) : (s.onPort k f).vint = s.vint := rfl
@[simp] theorem Part.onPort_codec (k : Nat) (f : PortState → PortState) : (s.onPort k f).codec = s.codec := rfl
@[simp] theorem Part.onPort_keys (k : Nat) (f : PortState → PortState) : (s.onPort k f).keys = s.keys := rfl
@[simp] theorem Part.onPort_gate (k : Nat) (f : PortState → PortState) : (s.onPort k f).gate = s.gate := rfl
@[simp] theorem Part.onPort_mon (k : Nat) (f : PortState → PortState) : (s.onPort k f).mon = s.mon := rfl
@[simp] theorem Part.onPort_power (k : Nat) (f : PortState → PortState) : (s.onPort k f).power = s.power := rfl
@[simp] theorem Part.onPort_rest (k : Nat) (f : PortState → PortState) : (s.onPort k f).rest = s.rest := rfl
@[simp] theorem Part.onPort_flash (k : Nat) (f : PortState → PortState) : (s.onPort k f).flash = s.flash := rfl
@[simp] theorem Part.onPort_boot (k : Nat) (f : PortState → PortState) : (s.onPort k f).boot = s.boot := rfl
@[simp] theorem Part.onPort_season (k : Nat) (f : PortState → PortState) : (s.onPort k f).season = s.season := rfl
@[simp] theorem Part.onPort_backlog (k : Nat) (f : PortState → PortState) : (s.onPort k f).backlog = s.backlog := rfl
@[simp] theorem Part.onPort_steppedMinute (k : Nat) (f : PortState → PortState) : (s.onPort k f).steppedMinute = s.steppedMinute := rfl
@[simp] theorem Part.onPort_minuteStart (k : Nat) (f : PortState → PortState) : (s.onPort k f).minuteStart = s.minuteStart := rfl
@[simp] theorem Part.onPort_out (k : Nat) (f : PortState → PortState) : (s.onPort k f).out = s.out := rfl
@[simp] theorem Part.onPort_freeCtr (k : Nat) (f : PortState → PortState) : (s.onPort k f).freeCtr = s.freeCtr := rfl
@[simp] theorem Part.onPort_pav (k : Nat) (f : PortState → PortState) (j : Nat) : (s.onPort k f).pav j = s.pav j := rfl
@[simp] theorem Part.onPort_chan (k : Nat) (f : PortState → PortState) (j : Nat) : (s.onPort k f).chan j = s.chan j := rfl
/-- The unit changed, and every other. -/
theorem Part.onPort_port (k : Nat) (f : PortState → PortState) (j : Nat) :
    (s.onPort k f).port j = if k = j then f (s.port k) else s.port j := Sparse.get_modify _ _ _ _ _
@[simp] theorem Part.onPort_port_self (k : Nat) (f : PortState → PortState) : (s.onPort k f).port k = f (s.port k) := by
  simp [Part.onPort_port]
theorem Part.onPort_port_other (k : Nat) (f : PortState → PortState) {j : Nat} (h : k ≠ j) : (s.onPort k f).port j = s.port j := by
  simp [Part.onPort_port, h]
@[simp] theorem Part.onPort_link (k : Nat) (f : PortState → PortState) (j : Nat) : (s.onPort k f).link j = s.link j := rfl
@[simp] theorem Part.onPort_slice (k : Nat) (f : PortState → PortState) (j : Nat) : (s.onPort k f).slice j = s.slice j := rfl
@[simp] theorem Part.onPort_sess (k : Nat) (f : PortState → PortState) (j : Nat) : (s.onPort k f).sess j = s.sess j := rfl
@[simp] theorem Part.onPort_od (k : Nat) (f : PortState → PortState) (x : Entry) (j : Nat) : (s.onPort k f).od x j = s.od x j := rfl

/-! ## onLink -/

@[simp] theorem Part.onLink_dict (k : Nat) (f : LinkState → LinkState) : (s.onLink k f).dict = s.dict := rfl
@[simp] theorem Part.onLink_delta (k : Nat) (f : LinkState → LinkState) : (s.onLink k f).delta = s.delta := rfl
@[simp] theorem Part.onLink_taint (k : Nat) (f : LinkState → LinkState) : (s.onLink k f).taint = s.taint := rfl
@[simp] theorem Part.onLink_now (k : Nat) (f : LinkState → LinkState) : (s.onLink k f).now = s.now := rfl
@[simp] theorem Part.onLink_ptpRate (k : Nat) (f : LinkState → LinkState) : (s.onLink k f).ptpRate = s.ptpRate := rfl
@[simp] theorem Part.onLink_ptpLock (k : Nat) (f : LinkState → LinkState) : (s.onLink k f).ptpLock = s.ptpLock := rfl
@[simp] theorem Part.onLink_log (k : Nat) (f : LinkState → LinkState) : (s.onLink k f).log = s.log := rfl
@[simp] theorem Part.onLink_logNext (k : Nat) (f : LinkState → LinkState) : (s.onLink k f).logNext = s.logNext := rfl
@[simp] theorem Part.onLink_lastLog (k : Nat) (f : LinkState → LinkState) : (s.onLink k f).lastLog = s.lastLog := rfl
@[simp] theorem Part.onLink_pavs (k : Nat) (f : LinkState → LinkState) : (s.onLink k f).pavs = s.pavs := rfl
@[simp] theorem Part.onLink_chans (k : Nat) (f : LinkState → LinkState) : (s.onLink k f).chans = s.chans := rfl
@[simp] theorem Part.onLink_ports (k : Nat) (f : LinkState → LinkState) : (s.onLink k f).ports = s.ports := rfl
@[simp] theorem Part.onLink_slices (k : Nat) (f : LinkState → LinkState) : (s.onLink k f).slices = s.slices := rfl
@[simp] theorem Part.onLink_vint (k : Nat) (f : LinkState → LinkState) : (s.onLink k f).vint = s.vint := rfl
@[simp] theorem Part.onLink_codec (k : Nat) (f : LinkState → LinkState) : (s.onLink k f).codec = s.codec := rfl
@[simp] theorem Part.onLink_keys (k : Nat) (f : LinkState → LinkState) : (s.onLink k f).keys = s.keys := rfl
@[simp] theorem Part.onLink_gate (k : Nat) (f : LinkState → LinkState) : (s.onLink k f).gate = s.gate := rfl
@[simp] theorem Part.onLink_mon (k : Nat) (f : LinkState → LinkState) : (s.onLink k f).mon = s.mon := rfl
@[simp] theorem Part.onLink_power (k : Nat) (f : LinkState → LinkState) : (s.onLink k f).power = s.power := rfl
@[simp] theorem Part.onLink_rest (k : Nat) (f : LinkState → LinkState) : (s.onLink k f).rest = s.rest := rfl
@[simp] theorem Part.onLink_flash (k : Nat) (f : LinkState → LinkState) : (s.onLink k f).flash = s.flash := rfl
@[simp] theorem Part.onLink_boot (k : Nat) (f : LinkState → LinkState) : (s.onLink k f).boot = s.boot := rfl
@[simp] theorem Part.onLink_season (k : Nat) (f : LinkState → LinkState) : (s.onLink k f).season = s.season := rfl
@[simp] theorem Part.onLink_backlog (k : Nat) (f : LinkState → LinkState) : (s.onLink k f).backlog = s.backlog := rfl
@[simp] theorem Part.onLink_steppedMinute (k : Nat) (f : LinkState → LinkState) : (s.onLink k f).steppedMinute = s.steppedMinute := rfl
@[simp] theorem Part.onLink_minuteStart (k : Nat) (f : LinkState → LinkState) : (s.onLink k f).minuteStart = s.minuteStart := rfl
@[simp] theorem Part.onLink_out (k : Nat) (f : LinkState → LinkState) : (s.onLink k f).out = s.out := rfl
@[simp] theorem Part.onLink_freeCtr (k : Nat) (f : LinkState → LinkState) : (s.onLink k f).freeCtr = s.freeCtr := rfl
@[simp] theorem Part.onLink_pav (k : Nat) (f : LinkState → LinkState) (j : Nat) : (s.onLink k f).pav j = s.pav j := rfl
@[simp] theorem Part.onLink_chan (k : Nat) (f : LinkState → LinkState) (j : Nat) : (s.onLink k f).chan j = s.chan j := rfl
@[simp] theorem Part.onLink_port (k : Nat) (f : LinkState → LinkState) (j : Nat) : (s.onLink k f).port j = s.port j := rfl
/-- The unit changed, and every other. -/
theorem Part.onLink_link (k : Nat) (f : LinkState → LinkState) (j : Nat) :
    (s.onLink k f).link j = if k = j then f (s.link k) else s.link j := Sparse.get_modify _ _ _ _ _
@[simp] theorem Part.onLink_link_self (k : Nat) (f : LinkState → LinkState) : (s.onLink k f).link k = f (s.link k) := by
  simp [Part.onLink_link]
theorem Part.onLink_link_other (k : Nat) (f : LinkState → LinkState) {j : Nat} (h : k ≠ j) : (s.onLink k f).link j = s.link j := by
  simp [Part.onLink_link, h]
@[simp] theorem Part.onLink_slice (k : Nat) (f : LinkState → LinkState) (j : Nat) : (s.onLink k f).slice j = s.slice j := rfl
@[simp] theorem Part.onLink_sess (k : Nat) (f : LinkState → LinkState) (j : Nat) : (s.onLink k f).sess j = s.sess j := rfl
@[simp] theorem Part.onLink_od (k : Nat) (f : LinkState → LinkState) (x : Entry) (j : Nat) : (s.onLink k f).od x j = s.od x j := rfl

/-! ## onSlice -/

@[simp] theorem Part.onSlice_dict (k : Nat) (f : SliceState → SliceState) : (s.onSlice k f).dict = s.dict := rfl
@[simp] theorem Part.onSlice_delta (k : Nat) (f : SliceState → SliceState) : (s.onSlice k f).delta = s.delta := rfl
@[simp] theorem Part.onSlice_taint (k : Nat) (f : SliceState → SliceState) : (s.onSlice k f).taint = s.taint := rfl
@[simp] theorem Part.onSlice_now (k : Nat) (f : SliceState → SliceState) : (s.onSlice k f).now = s.now := rfl
@[simp] theorem Part.onSlice_ptpRate (k : Nat) (f : SliceState → SliceState) : (s.onSlice k f).ptpRate = s.ptpRate := rfl
@[simp] theorem Part.onSlice_ptpLock (k : Nat) (f : SliceState → SliceState) : (s.onSlice k f).ptpLock = s.ptpLock := rfl
@[simp] theorem Part.onSlice_log (k : Nat) (f : SliceState → SliceState) : (s.onSlice k f).log = s.log := rfl
@[simp] theorem Part.onSlice_logNext (k : Nat) (f : SliceState → SliceState) : (s.onSlice k f).logNext = s.logNext := rfl
@[simp] theorem Part.onSlice_lastLog (k : Nat) (f : SliceState → SliceState) : (s.onSlice k f).lastLog = s.lastLog := rfl
@[simp] theorem Part.onSlice_pavs (k : Nat) (f : SliceState → SliceState) : (s.onSlice k f).pavs = s.pavs := rfl
@[simp] theorem Part.onSlice_chans (k : Nat) (f : SliceState → SliceState) : (s.onSlice k f).chans = s.chans := rfl
@[simp] theorem Part.onSlice_links (k : Nat) (f : SliceState → SliceState) : (s.onSlice k f).links = s.links := rfl
@[simp] theorem Part.onSlice_ports (k : Nat) (f : SliceState → SliceState) : (s.onSlice k f).ports = s.ports := rfl
@[simp] theorem Part.onSlice_vint (k : Nat) (f : SliceState → SliceState) : (s.onSlice k f).vint = s.vint := rfl
@[simp] theorem Part.onSlice_codec (k : Nat) (f : SliceState → SliceState) : (s.onSlice k f).codec = s.codec := rfl
@[simp] theorem Part.onSlice_keys (k : Nat) (f : SliceState → SliceState) : (s.onSlice k f).keys = s.keys := rfl
@[simp] theorem Part.onSlice_gate (k : Nat) (f : SliceState → SliceState) : (s.onSlice k f).gate = s.gate := rfl
@[simp] theorem Part.onSlice_mon (k : Nat) (f : SliceState → SliceState) : (s.onSlice k f).mon = s.mon := rfl
@[simp] theorem Part.onSlice_power (k : Nat) (f : SliceState → SliceState) : (s.onSlice k f).power = s.power := rfl
@[simp] theorem Part.onSlice_rest (k : Nat) (f : SliceState → SliceState) : (s.onSlice k f).rest = s.rest := rfl
@[simp] theorem Part.onSlice_flash (k : Nat) (f : SliceState → SliceState) : (s.onSlice k f).flash = s.flash := rfl
@[simp] theorem Part.onSlice_boot (k : Nat) (f : SliceState → SliceState) : (s.onSlice k f).boot = s.boot := rfl
@[simp] theorem Part.onSlice_season (k : Nat) (f : SliceState → SliceState) : (s.onSlice k f).season = s.season := rfl
@[simp] theorem Part.onSlice_backlog (k : Nat) (f : SliceState → SliceState) : (s.onSlice k f).backlog = s.backlog := rfl
@[simp] theorem Part.onSlice_steppedMinute (k : Nat) (f : SliceState → SliceState) : (s.onSlice k f).steppedMinute = s.steppedMinute := rfl
@[simp] theorem Part.onSlice_minuteStart (k : Nat) (f : SliceState → SliceState) : (s.onSlice k f).minuteStart = s.minuteStart := rfl
@[simp] theorem Part.onSlice_out (k : Nat) (f : SliceState → SliceState) : (s.onSlice k f).out = s.out := rfl
@[simp] theorem Part.onSlice_freeCtr (k : Nat) (f : SliceState → SliceState) : (s.onSlice k f).freeCtr = s.freeCtr := rfl
@[simp] theorem Part.onSlice_pav (k : Nat) (f : SliceState → SliceState) (j : Nat) : (s.onSlice k f).pav j = s.pav j := rfl
@[simp] theorem Part.onSlice_chan (k : Nat) (f : SliceState → SliceState) (j : Nat) : (s.onSlice k f).chan j = s.chan j := rfl
@[simp] theorem Part.onSlice_port (k : Nat) (f : SliceState → SliceState) (j : Nat) : (s.onSlice k f).port j = s.port j := rfl
@[simp] theorem Part.onSlice_link (k : Nat) (f : SliceState → SliceState) (j : Nat) : (s.onSlice k f).link j = s.link j := rfl
/-- The unit changed, and every other. -/
theorem Part.onSlice_slice (k : Nat) (f : SliceState → SliceState) (j : Nat) :
    (s.onSlice k f).slice j = if k = j then f (s.slice k) else s.slice j := Sparse.get_modify _ _ _ _ _
@[simp] theorem Part.onSlice_slice_self (k : Nat) (f : SliceState → SliceState) : (s.onSlice k f).slice k = f (s.slice k) := by
  simp [Part.onSlice_slice]
theorem Part.onSlice_slice_other (k : Nat) (f : SliceState → SliceState) {j : Nat} (h : k ≠ j) : (s.onSlice k f).slice j = s.slice j := by
  simp [Part.onSlice_slice, h]
@[simp] theorem Part.onSlice_sess (k : Nat) (f : SliceState → SliceState) (j : Nat) : (s.onSlice k f).sess j = s.sess j := rfl
@[simp] theorem Part.onSlice_od (k : Nat) (f : SliceState → SliceState) (x : Entry) (j : Nat) : (s.onSlice k f).od x j = s.od x j := rfl

/-! ## onSess -/

@[simp] theorem Part.onSess_dict (k : Nat) (f : Session → Session) : (s.onSess k f).dict = s.dict := rfl
@[simp] theorem Part.onSess_delta (k : Nat) (f : Session → Session) : (s.onSess k f).delta = s.delta := rfl
@[simp] theorem Part.onSess_taint (k : Nat) (f : Session → Session) : (s.onSess k f).taint = s.taint := rfl
@[simp] theorem Part.onSess_now (k : Nat) (f : Session → Session) : (s.onSess k f).now = s.now := rfl
@[simp] theorem Part.onSess_ptpRate (k : Nat) (f : Session → Session) : (s.onSess k f).ptpRate = s.ptpRate := rfl
@[simp] theorem Part.onSess_ptpLock (k : Nat) (f : Session → Session) : (s.onSess k f).ptpLock = s.ptpLock := rfl
@[simp] theorem Part.onSess_log (k : Nat) (f : Session → Session) : (s.onSess k f).log = s.log := rfl
@[simp] theorem Part.onSess_logNext (k : Nat) (f : Session → Session) : (s.onSess k f).logNext = s.logNext := rfl
@[simp] theorem Part.onSess_lastLog (k : Nat) (f : Session → Session) : (s.onSess k f).lastLog = s.lastLog := rfl
@[simp] theorem Part.onSess_pavs (k : Nat) (f : Session → Session) : (s.onSess k f).pavs = s.pavs := rfl
@[simp] theorem Part.onSess_chans (k : Nat) (f : Session → Session) : (s.onSess k f).chans = s.chans := rfl
@[simp] theorem Part.onSess_links (k : Nat) (f : Session → Session) : (s.onSess k f).links = s.links := rfl
@[simp] theorem Part.onSess_ports (k : Nat) (f : Session → Session) : (s.onSess k f).ports = s.ports := rfl
@[simp] theorem Part.onSess_slices (k : Nat) (f : Session → Session) : (s.onSess k f).slices = s.slices := rfl
@[simp] theorem Part.onSess_vint (k : Nat) (f : Session → Session) : (s.onSess k f).vint = s.vint := rfl
@[simp] theorem Part.onSess_codec (k : Nat) (f : Session → Session) : (s.onSess k f).codec = s.codec := rfl
@[simp] theorem Part.onSess_keys (k : Nat) (f : Session → Session) : (s.onSess k f).keys = s.keys := rfl
@[simp] theorem Part.onSess_mon (k : Nat) (f : Session → Session) : (s.onSess k f).mon = s.mon := rfl
@[simp] theorem Part.onSess_power (k : Nat) (f : Session → Session) : (s.onSess k f).power = s.power := rfl
@[simp] theorem Part.onSess_rest (k : Nat) (f : Session → Session) : (s.onSess k f).rest = s.rest := rfl
@[simp] theorem Part.onSess_flash (k : Nat) (f : Session → Session) : (s.onSess k f).flash = s.flash := rfl
@[simp] theorem Part.onSess_boot (k : Nat) (f : Session → Session) : (s.onSess k f).boot = s.boot := rfl
@[simp] theorem Part.onSess_season (k : Nat) (f : Session → Session) : (s.onSess k f).season = s.season := rfl
@[simp] theorem Part.onSess_backlog (k : Nat) (f : Session → Session) : (s.onSess k f).backlog = s.backlog := rfl
@[simp] theorem Part.onSess_steppedMinute (k : Nat) (f : Session → Session) : (s.onSess k f).steppedMinute = s.steppedMinute := rfl
@[simp] theorem Part.onSess_minuteStart (k : Nat) (f : Session → Session) : (s.onSess k f).minuteStart = s.minuteStart := rfl
@[simp] theorem Part.onSess_out (k : Nat) (f : Session → Session) : (s.onSess k f).out = s.out := rfl
@[simp] theorem Part.onSess_freeCtr (k : Nat) (f : Session → Session) : (s.onSess k f).freeCtr = s.freeCtr := rfl
@[simp] theorem Part.onSess_pav (k : Nat) (f : Session → Session) (j : Nat) : (s.onSess k f).pav j = s.pav j := rfl
@[simp] theorem Part.onSess_chan (k : Nat) (f : Session → Session) (j : Nat) : (s.onSess k f).chan j = s.chan j := rfl
@[simp] theorem Part.onSess_port (k : Nat) (f : Session → Session) (j : Nat) : (s.onSess k f).port j = s.port j := rfl
@[simp] theorem Part.onSess_link (k : Nat) (f : Session → Session) (j : Nat) : (s.onSess k f).link j = s.link j := rfl
@[simp] theorem Part.onSess_slice (k : Nat) (f : Session → Session) (j : Nat) : (s.onSess k f).slice j = s.slice j := rfl
/-- The unit changed, and every other. -/
theorem Part.onSess_sess (k : Nat) (f : Session → Session) (j : Nat) :
    (s.onSess k f).sess j = if k = j then f (s.sess k) else s.sess j := Sparse.get_modify _ _ _ _ _
@[simp] theorem Part.onSess_sess_self (k : Nat) (f : Session → Session) : (s.onSess k f).sess k = f (s.sess k) := by
  simp [Part.onSess_sess]
theorem Part.onSess_sess_other (k : Nat) (f : Session → Session) {j : Nat} (h : k ≠ j) : (s.onSess k f).sess j = s.sess j := by
  simp [Part.onSess_sess, h]
@[simp] theorem Part.onSess_od (k : Nat) (f : Session → Session) (x : Entry) (j : Nat) : (s.onSess k f).od x j = s.od x j := rfl
@[simp] theorem Part.onSess_gate_held (k : Nat) (f : Session → Session) : (s.onSess k f).gate.held = s.gate.held := rfl
@[simp] theorem Part.onSess_gate_netStaged (k : Nat) (f : Session → Session) : (s.onSess k f).gate.netStaged = s.gate.netStaged := rfl
@[simp] theorem Part.onSess_gate_netOld (k : Nat) (f : Session → Session) : (s.onSess k f).gate.netOld = s.gate.netOld := rfl
@[simp] theorem Part.onSess_gate_lease (k : Nat) (f : Session → Session) : (s.onSess k f).gate.lease = s.gate.lease := rfl

/-! ## The free counter -/

@[simp] theorem Part.free_value : s.free.1 = Config.random s.freeCtr := rfl
@[simp] theorem Part.free_part : s.free.2 = { s with freeCtr := s.freeCtr + 1 } := rfl

/-! ## Running a change -/

@[simp] theorem State.run_eq (f : Part → Part) (s : State) : s.run f = .next (s.withPart (f s.part)) := rfl
@[simp] theorem State.withPart_part (s : State) (p : Part) : (s.withPart p).part = p := rfl
@[simp] theorem State.withPart_pending (s : State) (p : Part) : (s.withPart p).pending = s.pending := rfl

end Sys2Proof.Machine
end

