-- ==== Sys2Proof/Laws/Ops.lean ====
section
/-!
SUPPORT. What the shared operations do, said once: the dictionary's store, frames, logging, what leaves the lands.
-/

namespace Sys2Proof.Machine

/-! ## The dictionary's store -/

theorem Entry.ctorIdx_inj {e f : Entry} (h : e.ctorIdx = f.ctorIdx) : e = f := by
  rw [← Entry.ofNat_ctorIdx e, h, Entry.ofNat_ctorIdx]

/-- Two instances have one key only when they are the same. -/
theorem Entry.key_inj {e f : Entry} {i j : Nat} (hi : i < 65536) (hj : j < 65536) (h : e.key i = f.key j) :
    e = f ∧ i = j := by
  unfold Entry.key at h
  have h1 : e.ctorIdx = f.ctorIdx := by omega
  exact ⟨Entry.ctorIdx_inj h1, by omega⟩

/-- Writing a key leaves what every other key reads, whatever the two defaults are. -/
theorem Sparse.get_set_other {α : Type} [DecidableEq α] (d d' : α) (m : Sparse α) (v : α) {k k' : Nat} (h : k ≠ k') :
    (m.set d k v).get d' k' = m.get d' k' := by
  unfold Sparse.set
  split
  · rw [Sparse.get_erase, if_neg h]
  · rw [Sparse.get_put, if_neg h]

/-- Reading an entry after it was written: the value cut to the width of its type (spec/11 R432). -/
@[simp] theorem Part.od_setOd_self (s : Part) (e : Entry) (i v : Nat) :
    (s.setOd e i v).od e i = v % 2 ^ (8 * e.info.bytes) := by
  simp [Part.setOd, Part.od]

/-- A write of an entry leaves every other instance and entry. -/
theorem Part.od_setOd_other (s : Part) {e f : Entry} {i j : Nat} (v : Nat) (hi : i < 65536) (hj : j < 65536)
    (h : ¬(e = f ∧ i = j)) : (s.setOd e i v).od f j = s.od f j :=
  Sparse.get_set_other _ _ _ _ fun q => h (Entry.key_inj hi hj q)

/-- A write of an entry leaves every other entry, whatever the instances. -/
theorem Part.od_setOd_entry (s : Part) {e f : Entry} {i j : Nat} (v : Nat) (hi : i < 65536) (hj : j < 65536)
    (h : e ≠ f) : (s.setOd e i v).od f j = s.od f j := Part.od_setOd_other s v hi hj fun q => h q.1

/-- The keys of two entries differ, whatever the instances. -/
theorem Entry.key_ne {e f : Entry} (h : e ≠ f) (i j : Nat) : e.key i ≠ f.key j := fun q => h (Entry.ctorIdx_inj (by
  unfold Entry.key at q; omega))

/-- A write of an entry leaves every other entry, the instances being any numbers. -/
theorem Part.od_setOd_ne (s : Part) {e f : Entry} (i j v : Nat) (h : e ≠ f) : (s.setOd e i v).od f j = s.od f j :=
  Sparse.get_set_other _ _ _ _ (Entry.key_ne h i j)

/-- A value that fits its type reads back as it was written. -/
theorem Part.od_setOd_val (s : Part) (e : Entry) (i v : Nat) (h : v < 2 ^ (8 * e.info.bytes)) : (s.setOd e i v).od e i = v := by
  rw [Part.od_setOd_self, Nat.mod_eq_of_lt h]

/-- The dictionary's store after a write of one value. -/
theorem Part.od_setOd (s : Part) (e f : Entry) (i j v : Nat) (hi : i < 65536) (hj : j < 65536) :
    (s.setOd e i v).od f j = if e = f ∧ i = j then v % 2 ^ (8 * e.info.bytes) else s.od f j := by
  split
  · next h => obtain ⟨rfl, rfl⟩ := h; exact Part.od_setOd_self s e i v
  · next h => exact Part.od_setOd_other s v hi hj h

/-- The dictionary's store after a value went back to its reset value. -/
theorem Part.od_resetOd (s : Part) (e f : Entry) (i j : Nat) (hi : i < 65536) (hj : j < 65536) :
    (s.resetOd e i).od f j = if e = f ∧ i = j then e.info.dflt else s.od f j := by
  unfold Part.resetOd Part.od
  dsimp only
  rw [Sparse.get_erase]
  split
  · next h => obtain ⟨rfl, rfl⟩ := Entry.key_inj hi hj h; simp
  · next h => rw [if_neg fun q => h (by rw [q.1, q.2])]

@[simp] theorem Part.modOd_eq (s : Part) (e : Entry) (i : Nat) (f : Nat → Nat) : s.modOd e i f = s.setOd e i (f (s.od e i)) :=
  rfl

/-- Counting raises the tally by what is counted, and no other. -/
theorem Part.count_delta_get (s : Part) (e : Entry) (i n k : Nat) :
    (s.count e i n).delta.get 0 k = if e.key i = k then s.delta.get 0 k + n else s.delta.get 0 k := by
  unfold Part.count
  rw [Sparse.get_modify]
  split
  · next h => rw [h]
  · rfl

theorem Part.count_tallyNow (s : Part) (e : Entry) (i n : Nat) : (s.count e i n).tallyNow e i = s.tallyNow e i + n := by
  simp [Part.tallyNow, Part.count_delta_get, Nat.add_assoc]

/-! ## Frames -/

theorem Part.only_refl (l : List PartField) (a : Part) : Part.only l a a := fun f _ => by cases f <;> rfl

theorem Part.only_trans {l : List PartField} {a b c : Part} (h : Part.only l a b) (k : Part.only l b c) :
    Part.only l a c := fun f hf => by
  have := h f hf; have := k f hf
  cases f <;> simp_all [PartField.same]

theorem Part.only_mono {l l' : List PartField} {a b : Part} (h : Part.only l a b) (hl : ∀ f ∈ l, f ∈ l') :
    Part.only l' a b := fun f hf => h f fun q => hf (hl f q)

/-- A fold whose every step changes some fields only changes no others. -/
theorem Part.only_iter {α : Type} {l : List PartField} {f : Part → α → Part} (h : ∀ s a, Part.only l s (f s a))
    (xs : List α) (s : Part) : Part.only l s (iter xs s f) := by
  induction xs generalizing s with
  | nil => exact Part.only_refl l s
  | cons x xs ih => exact Part.only_trans (h s x) (ih (f s x))

theorem Part.odOnly_refl (l : List (Entry × Nat)) (a : Part) : Part.odOnly l a a := fun _ _ _ _ => rfl

theorem Part.odOnly_trans {l : List (Entry × Nat)} {a b c : Part} (h : Part.odOnly l a b) (k : Part.odOnly l b c) :
    Part.odOnly l a c := fun e i hi hm => (k e i hi hm).trans (h e i hi hm)

theorem Part.odOnly_of_dict {l : List (Entry × Nat)} {a b : Part} (h : b.dict = a.dict) : Part.odOnly l a b :=
  fun e i _ _ => by simp [Part.od, h]

theorem Part.odOnly_setOd {l : List (Entry × Nat)} (s : Part) (e : Entry) (i v : Nat) (hi : i < 65536) (h : (e, i) ∈ l) :
    Part.odOnly l s (s.setOd e i v) := fun _ _ hj hm =>
  Part.od_setOd_other s v hi hj fun q => hm (q.1 ▸ q.2 ▸ h)

theorem Part.only_setOd (s : Part) (e : Entry) (i v : Nat) : Part.only [.dict] s (s.setOd e i v) := fun f hf => by
  cases f <;> first | rfl | simp at hf
theorem Part.only_resetOd (s : Part) (e : Entry) (i : Nat) : Part.only [.dict] s (s.resetOd e i) := fun f hf => by
  cases f <;> first | rfl | simp at hf
theorem Part.only_count (s : Part) (e : Entry) (i n : Nat) : Part.only [.delta] s (s.count e i n) := fun f hf => by
  cases f <;> first | rfl | simp at hf
theorem Part.only_emit (s : Part) (o : Output) : Part.only [.out] s (s.emit o) := fun f hf => by
  cases f <;> first | rfl | simp at hf
theorem Part.only_onPort (s : Part) (i : Nat) (g : PortState → PortState) : Part.only [.ports] s (s.onPort i g) :=
  fun f hf => by cases f <;> first | rfl | simp at hf
theorem Part.only_onPav (s : Part) (i : Nat) (g : PavState → PavState) : Part.only [.pavs] s (s.onPav i g) :=
  fun f hf => by cases f <;> first | rfl | simp at hf
theorem Part.only_onChan (s : Part) (i : Nat) (g : ChanState → ChanState) : Part.only [.chans] s (s.onChan i g) :=
  fun f hf => by cases f <;> first | rfl | simp at hf
theorem Part.only_onLink (s : Part) (i : Nat) (g : LinkState → LinkState) : Part.only [.links] s (s.onLink i g) :=
  fun f hf => by cases f <;> first | rfl | simp at hf
theorem Part.only_onSlice (s : Part) (i : Nat) (g : SliceState → SliceState) : Part.only [.slices] s (s.onSlice i g) :=
  fun f hf => by cases f <;> first | rfl | simp at hf
theorem Part.only_onSess (s : Part) (i : Nat) (g : Session → Session) : Part.only [.gate] s (s.onSess i g) :=
  fun f hf => by cases f <;> first | rfl | simp at hf

/-- Every stored value but those of some entries stays as it is. -/
def Part.keepsOd (l : List Entry) (a b : Part) : Prop := ∀ e i, e ∉ l → i < 65536 → b.od e i = a.od e i

theorem Part.keepsOd_refl (l : List Entry) (a : Part) : Part.keepsOd l a a := fun _ _ _ _ => rfl

theorem Part.keepsOd_trans {l : List Entry} {a b c : Part} (h : Part.keepsOd l a b) (k : Part.keepsOd l b c) :
    Part.keepsOd l a c := fun e i he hi => (k e i he hi).trans (h e i he hi)

theorem Part.keepsOd_mono {l l' : List Entry} {a b : Part} (h : Part.keepsOd l a b) (hl : ∀ e ∈ l, e ∈ l') :
    Part.keepsOd l' a b := fun e i he hi => h e i (fun q => he (hl e q)) hi

theorem Part.keepsOd_of_only {l : List Entry} {fs : List PartField} {a b : Part} (h : Part.only fs a b)
    (hd : PartField.dict ∉ fs) : Part.keepsOd l a b := fun e i _ _ => by
  have : b.dict = a.dict := h .dict hd
  simp [Part.od, this]

theorem Part.keepsOd_setOd {l : List Entry} (s : Part) {e : Entry} (i v : Nat) (hi : i < 65536) (he : e ∈ l) :
    Part.keepsOd l s (s.setOd e i v) := fun _ _ hf hj =>
  Part.od_setOd_entry s v hi hj fun q => hf (q ▸ he)

theorem Part.keepsOd_setAny {l : List Entry} (s : Part) {e : Entry} (i v : Nat) (he : e ∈ l) :
    Part.keepsOd l s (s.setOd e i v) := fun _ j hf _ => Part.od_setOd_ne s i j v fun h => hf (h ▸ he)

theorem Part.keepsOd_ite {c : Prop} [Decidable c] {l : List Entry} {s a b : Part} (h : Part.keepsOd l s a)
    (k : Part.keepsOd l s b) : Part.keepsOd l s (if c then a else b) := by split <;> assumption

theorem Part.keepsOd_iter {α : Type} {l : List Entry} {f : Part → α → Part} (xs : List α) (s : Part)
    (h : ∀ s a, a ∈ xs → Part.keepsOd l s (f s a)) : Part.keepsOd l s (iter xs s f) := by
  induction xs generalizing s with
  | nil => exact Part.keepsOd_refl l s
  | cons x xs ih =>
    exact Part.keepsOd_trans (h s x (by simp)) (ih (f s x) fun s a ha => h s a (List.mem_cons_of_mem _ ha))

/-! ## Logging (spec/11 R459 to R461, spec/12 R480) -/

/-- The fields that logging a record may change. -/
def logFields : List PartField := [.log, .logNext, .ports, .delta, .gate, .dict, .out, .freeCtr]

/-- What logging leaves as it is: every field but those of `logFields`, every stored value but RING_STATE of the ports,
and of a port everything but its rings and its pending vectors. -/
structure LogFrame (a b : Part) : Prop where
  only : Part.only logFields a b
  od : ∀ e i, e ≠ .ringState → i < 65536 → b.od e i = a.od e i
  port : ∀ i, ∃ r m, b.port i = { a.port i with rings := r, msixPending := m }
  held : b.gate.held = a.gate.held
  sess : ∀ k, ∃ n m l, b.sess k = { a.sess k with notices := n, noticeNo := m, lostRun := l }
  sent : ∃ l, b.out = a.out ++ l

theorem LogFrame.refl (a : Part) : LogFrame a a :=
  ⟨Part.only_refl _ a, fun _ _ _ _ => rfl, fun _ => ⟨_, _, rfl⟩, rfl, fun _ => ⟨_, _, _, rfl⟩, [], (List.append_nil _).symm⟩

theorem LogFrame.trans {a b c : Part} (h : LogFrame a b) (k : LogFrame b c) : LogFrame a c where
  only := Part.only_trans h.only k.only
  od e i he hi := (k.od e i he hi).trans (h.od e i he hi)
  port i := by
    obtain ⟨r, m, h1⟩ := h.port i
    obtain ⟨r', m', h2⟩ := k.port i
    exact ⟨r', m', by rw [h2, h1]⟩
  held := k.held.trans h.held
  sess i := by
    obtain ⟨x, y, z, h1⟩ := h.sess i
    obtain ⟨x', y', z', h2⟩ := k.sess i
    exact ⟨x', y', z', by rw [h2, h1]⟩
  sent := by
    obtain ⟨x, h1⟩ := h.sent
    obtain ⟨y, h2⟩ := k.sent
    exact ⟨x ++ y, by rw [h2, h1, List.append_assoc]⟩

theorem LogFrame.iter {α : Type} {f : Part → α → Part} (xs : List α) (s : Part)
    (h : ∀ s a, a ∈ xs → LogFrame s (f s a)) : LogFrame s (iter xs s f) := by
  induction xs generalizing s with
  | nil => exact LogFrame.refl s
  | cons x xs ih =>
    exact (h s x (by simp)).trans (ih (f s x) fun s a ha => h s a (List.mem_cons_of_mem _ ha))

/-- A change of fields in `logFields` other than the dictionary and the ports. -/
theorem LogFrame.of_only {l : List PartField} {a b : Part} (h : Part.only l a b) (hl : ∀ f ∈ l, f ∈ logFields)
    (hd : PartField.dict ∉ l) (hp : PartField.ports ∉ l) (hg : PartField.gate ∉ l) (ho : PartField.out ∉ l) : LogFrame a b where
  only := Part.only_mono h hl
  od e i _ _ := by
    have := h .dict hd
    simp only [PartField.same] at this
    simp [Part.od, this]
  port i := by
    have := h .ports hp
    simp only [PartField.same] at this
    exact ⟨(a.port i).rings, (a.port i).msixPending, by unfold Part.port; rw [this]⟩
  held := congrArg GateState.held (h .gate hg)
  sess k := ⟨_, _, _, (by unfold Part.sess; rw [show b.gate = a.gate from h .gate hg] : b.sess k = a.sess k)⟩
  sent := ⟨[], by rw [show b.out = a.out from h .out ho]; exact (List.append_nil _).symm⟩

theorem LogFrame.ite {c : Prop} [Decidable c] {s a b : Part} (h : LogFrame s a) (k : LogFrame s b) :
    LogFrame s (if c then a else b) := by split <;> assumption

theorem LogFrame.count (s : Part) (e : Entry) (i n : Nat) : LogFrame s (s.count e i n) :=
  .of_only (s.only_count e i n) (by decide) (by decide) (by decide) (by decide) (by decide)
theorem LogFrame.emit (s : Part) (o : Output) : LogFrame s (s.emit o) :=
  ⟨Part.only_mono (s.only_emit o) (by decide), fun _ _ _ _ => rfl, fun _ => ⟨_, _, rfl⟩, rfl, fun _ => ⟨_, _, _, rfl⟩, [o], rfl⟩
theorem LogFrame.onSess (s : Part) (k : Nat) (f : Session → Session)
    (h : ∃ n m l, f (s.sess k) = { s.sess k with notices := n, noticeNo := m, lostRun := l }) : LogFrame s (s.onSess k f) :=
  ⟨Part.only_mono (s.only_onSess k f) (by decide), fun _ _ _ _ => rfl, fun _ => ⟨_, _, rfl⟩, rfl, fun j => by
    rw [Part.onSess_sess]
    split
    · next e => subst e; exact h
    · exact ⟨_, _, _, rfl⟩, [], (List.append_nil _).symm⟩

theorem LogFrame.onPort (s : Part) (i : Nat) (f : PortState → PortState)
    (h : ∃ r m, f (s.port i) = { s.port i with rings := r, msixPending := m }) : LogFrame s (s.onPort i f) where
  only := Part.only_mono (s.only_onPort i f) (by decide)
  od _ _ _ _ := rfl
  port j := by
    rw [Part.onPort_port]
    split
    · next e => subst e; exact h
    · exact ⟨_, _, rfl⟩
  held := rfl
  sess _ := ⟨_, _, _, rfl⟩
  sent := ⟨[], (List.append_nil _).symm⟩

theorem LogFrame.ringState (s : Part) (i v : Nat) (hi : i < 65536) : LogFrame s (s.setOd .ringState i v) where
  only := Part.only_mono (s.only_setOd _ _ _) (by decide)
  od _ _ he hj := Part.od_setOd_entry s v hi hj (Ne.symm he)
  port _ := ⟨_, _, rfl⟩
  held := rfl
  sess _ := ⟨_, _, _, rfl⟩
  sent := ⟨[], (List.append_nil _).symm⟩

theorem LogFrame.onRing (s : Part) (i r : Nat) (f : Ring → Ring) : LogFrame s (s.onRing i r f) :=
  .onPort s i _ ⟨_, _, rfl⟩

theorem LogFrame.msix (s : Part) (i v : Nat) : LogFrame s (s.msix i v) := by
  unfold Part.msix
  split
  · exact .emit s _
  · exact .onPort s i _ ⟨_, _, rfl⟩

theorem LogFrame.pushLog (s : Part) (c a b : Nat) (sl : Option Nat) (pav : Nat) : LogFrame s (s.pushLog c a b sl pav) := by
  unfold Part.pushLog
  refine LogFrame.trans (b := { s with log := s.log.put (s.logNext % 65536) ⟨s.now, c, sl, pav, 0, a, b⟩, logNext := s.logNext + 1 })
    (.of_only (l := [.log, .logNext]) (fun f hf => by cases f <;> first | rfl | simp at hf) (by decide) (by decide) (by decide) (by decide) (by decide)) ?_
  refine LogFrame.iter _ _ fun s i _ => ?_
  extract_lets ring wants
  refine .ite (.onPort s i _ ⟨_, _, rfl⟩) (.refl s)

theorem LogFrame.pushNotice (s : Part) (k : Nat) (n : Notify) : LogFrame s (s.pushNotice k n) := by
  unfold Part.pushNotice
  dsimp only
  split
  · exact .emit s _
  · exact .refl s

theorem LogFrame.notifyAll (s : Part) (n : Nat) : LogFrame s (s.notifyAll n) := by
  unfold Part.notifyAll
  refine LogFrame.iter _ _ fun s k _ => ?_
  refine .ite (.refl s) ?_
  extract_lets q s1 s2 r m s3
  have h1 : LogFrame s s1 := .count s _ _ _
  have h2 : LogFrame s s2 := .ite h1 (h1.trans (.pushLog _ _ _ _ _ _))
  exact .ite (h2.trans (.onSess _ _ _ ⟨_, _, _, rfl⟩)) ((LogFrame.onSess s _ _ ⟨_, _, _, rfl⟩).trans (.pushNotice _ _ _))

theorem LogFrame.logQuiet (s : Part) (c a b : Nat) (sl : Option Nat) (pav : Nat) : LogFrame s (s.logQuiet c a b sl pav) :=
  (LogFrame.pushLog s c a b sl pav).trans (.notifyAll _ _)

theorem LogFrame.ringFault (s : Part) (i r : Nat) (hi : i < 65536) : LogFrame s (s.ringFault i r) := by
  unfold Part.ringFault
  exact (((LogFrame.onRing s i r _).trans (.ringState _ _ _ hi)).trans (.msix _ _ _)).trans (.logQuiet _ _ _ _ _ _)

theorem LogFrame.hostWrite (s : Part) (i addr len data : Nat) : LogFrame s (s.hostWrite i addr len data).1 := by
  unfold Part.hostWrite
  split
  · exact .refl s
  · split
    · unfold Part.bmBlocked
      dsimp only
      exact (LogFrame.count s _ _ _).trans (.logQuiet _ _ _ _ _ _)
    · exact .emit s _

theorem LogFrame.ringDrop (s : Part) (i r : Nat) : LogFrame s (s.ringDrop i r) := by
  unfold Part.ringDrop
  split
  · exact (LogFrame.count s _ _ _).trans (.onRing _ _ _ _)
  · exact .refl s
  · exact (LogFrame.count s _ _ _).trans (.onRing _ _ _ _)

theorem LogFrame.readConsumer (s : Part) (i r : Nat) (h : Option (Option Nat)) : LogFrame s (s.readConsumer i r h).1 := by
  unfold Part.readConsumer
  cases h with
  | some v => exact .emit s _
  | none =>
    exact (LogFrame.emit s _).trans
      (.of_only (l := [.freeCtr]) (fun f hf => by cases f <;> first | rfl | simp at hf) (by decide) (by decide) (by decide) (by decide) (by decide))

theorem LogFrame.ringWrite (s : Part) (i r kind units body : Nat) (h : Option (Option Nat)) (hi : i < 65536) :
    LogFrame s (s.ringWrite i r kind units body h).1 := by
  unfold Part.ringWrite
  extract_lets g size at_ pad q pos
  have hq : LogFrame s q.1 := by
    dsimp only [q]
    split
    · exact .refl s
    · exact .readConsumer s i r h
  split
  · exact .ringDrop s i r
  · split
    · exact (hq.trans (.ringFault _ i r hi)).trans (.ringDrop _ i r)
    · next c _ =>
      extract_lets s1 g1 base w0 w1 s2 g2 head
      have h1 : LogFrame s s1 := hq.trans (.onRing _ i r _)
      split
      · exact h1.trans (.ringDrop _ i r)
      · have h2 : LogFrame s w0.1 := by
          dsimp only [w0]
          split
          · exact h1
          · exact h1.trans (.hostWrite _ _ _ _ _)
        have h3 : LogFrame s w1.1 := by
          dsimp only [w1]
          split
          · exact h2.trans (.hostWrite _ _ _ _ _)
          · exact h2
        have h4 : LogFrame s s2 := h3.trans (.onRing _ i r _)
        split
        · exact (h3.trans (.ringFault _ i r hi)).trans (.ringDrop _ i r)
        · exact h4.trans (.hostWrite _ _ _ _ _)

theorem LogFrame.flushNotices (s : Part) : LogFrame s s.flushNotices := by
  unfold Part.flushNotices
  split
  · exact .refl s
  · refine LogFrame.iter _ _ fun s i hi => ?_
    have hi : i < 65536 := by have := List.mem_range.mp hi; omega
    extract_lets g s1
    have h1 : LogFrame s s1 := by
      dsimp only [s1]
      split
      · exact .refl s
      · exact .onRing s i 2 _
    refine h1.trans (LogFrame.iter _ _ fun s n _ => ?_)
    extract_lets r w
    have hw : LogFrame s w.1 := .ringWrite s i 2 5 1 _ none hi
    split
    · exact hw.trans (.msix _ _ _)
    · exact hw

/-- What logging a record leaves as it is. -/
theorem LogFrame.logEv (s : Part) (c a b : Nat) (sl : Option Nat) (pav : Nat) : LogFrame s (s.logEv c a b sl pav) :=
  (LogFrame.logQuiet s c a b sl pav).trans (.flushNotices _)

theorem Part.keepsOd_logEv (s : Part) (c a b : Nat) (sl : Option Nat) (pav : Nat) :
    Part.keepsOd [.ringState] s (s.logEv c a b sl pav) := fun e i he hi =>
  (LogFrame.logEv s c a b sl pav).od e i (by simpa using he) hi

theorem Part.keepsOd_ringFault (s : Part) (i r : Nat) (hi : i < 65536) : Part.keepsOd [.ringState] s (s.ringFault i r) :=
  fun e j he hj => (LogFrame.ringFault s i r hi).od e j (by simpa using he) hj

/-! ## Fields after a record -/

section
variable (s : Part) (c a b : Nat) (sl : Option Nat) (pav : Nat)

@[simp] theorem Part.logEv_taint : (s.logEv c a b sl pav).taint = s.taint := (LogFrame.logEv s c a b sl pav).only .taint (by decide)
@[simp] theorem Part.logEv_now : (s.logEv c a b sl pav).now = s.now := (LogFrame.logEv s c a b sl pav).only .now (by decide)
@[simp] theorem Part.logEv_ptpRate : (s.logEv c a b sl pav).ptpRate = s.ptpRate := (LogFrame.logEv s c a b sl pav).only .ptpRate (by decide)
@[simp] theorem Part.logEv_ptpLock : (s.logEv c a b sl pav).ptpLock = s.ptpLock := (LogFrame.logEv s c a b sl pav).only .ptpLock (by decide)
@[simp] theorem Part.logEv_lastLog : (s.logEv c a b sl pav).lastLog = s.lastLog := (LogFrame.logEv s c a b sl pav).only .lastLog (by decide)
@[simp] theorem Part.logEv_pavs : (s.logEv c a b sl pav).pavs = s.pavs := (LogFrame.logEv s c a b sl pav).only .pavs (by decide)
@[simp] theorem Part.logEv_chans : (s.logEv c a b sl pav).chans = s.chans := (LogFrame.logEv s c a b sl pav).only .chans (by decide)
@[simp] theorem Part.logEv_links : (s.logEv c a b sl pav).links = s.links := (LogFrame.logEv s c a b sl pav).only .links (by decide)
@[simp] theorem Part.logEv_slices : (s.logEv c a b sl pav).slices = s.slices := (LogFrame.logEv s c a b sl pav).only .slices (by decide)
@[simp] theorem Part.logEv_vint : (s.logEv c a b sl pav).vint = s.vint := (LogFrame.logEv s c a b sl pav).only .vint (by decide)
@[simp] theorem Part.logEv_codec : (s.logEv c a b sl pav).codec = s.codec := (LogFrame.logEv s c a b sl pav).only .codec (by decide)
@[simp] theorem Part.logEv_keys : (s.logEv c a b sl pav).keys = s.keys := (LogFrame.logEv s c a b sl pav).only .keys (by decide)
@[simp] theorem Part.logEv_mon : (s.logEv c a b sl pav).mon = s.mon := (LogFrame.logEv s c a b sl pav).only .mon (by decide)
@[simp] theorem Part.logEv_power : (s.logEv c a b sl pav).power = s.power := (LogFrame.logEv s c a b sl pav).only .power (by decide)
@[simp] theorem Part.logEv_rest : (s.logEv c a b sl pav).rest = s.rest := (LogFrame.logEv s c a b sl pav).only .rest (by decide)
@[simp] theorem Part.logEv_flash : (s.logEv c a b sl pav).flash = s.flash := (LogFrame.logEv s c a b sl pav).only .flash (by decide)
@[simp] theorem Part.logEv_boot : (s.logEv c a b sl pav).boot = s.boot := (LogFrame.logEv s c a b sl pav).only .boot (by decide)
@[simp] theorem Part.logEv_season : (s.logEv c a b sl pav).season = s.season := (LogFrame.logEv s c a b sl pav).only .season (by decide)
@[simp] theorem Part.logEv_backlog : (s.logEv c a b sl pav).backlog = s.backlog := (LogFrame.logEv s c a b sl pav).only .backlog (by decide)
@[simp] theorem Part.logEv_steppedMinute : (s.logEv c a b sl pav).steppedMinute = s.steppedMinute := (LogFrame.logEv s c a b sl pav).only .steppedMinute (by decide)
@[simp] theorem Part.logEv_minuteStart : (s.logEv c a b sl pav).minuteStart = s.minuteStart := (LogFrame.logEv s c a b sl pav).only .minuteStart (by decide)
@[simp] theorem Part.logEv_pav (j : Nat) : (s.logEv c a b sl pav).pav j = s.pav j := by simp [Part.pav]
@[simp] theorem Part.logEv_chan (j : Nat) : (s.logEv c a b sl pav).chan j = s.chan j := by simp [Part.chan]
@[simp] theorem Part.logEv_link (j : Nat) : (s.logEv c a b sl pav).link j = s.link j := by simp [Part.link]
@[simp] theorem Part.logEv_slice (j : Nat) : (s.logEv c a b sl pav).slice j = s.slice j := by simp [Part.slice]
theorem Part.logEv_od {e : Entry} (he : e ≠ .ringState) {i : Nat} (hi : i < 65536) : (s.logEv c a b sl pav).od e i = s.od e i :=
  (LogFrame.logEv s c a b sl pav).od e i he hi

end

end Sys2Proof.Machine
end

