-- ==== Sys2Proof/Laws/Commands.lean ====
section
/-!
SUPPORT. The checks of a write to the dictionary, said once: where they let a command or a value through, what is left is the
command itself.
-/

namespace Sys2Proof.Machine

/-- The checks of spec/11 R439 that depend on the entry and the value only. -/
def EntryInfo.takes (f : EntryInfo) (v len : Nat) : Bool :=
  f.access != .const && f.access != .ro && (writeLength f len).isNone &&
    (f.ty == .blob || f.ty == .string || f.allowed.any fun r => decide (r.1 ≤ v) && decide (v ≤ r.2))

/-- Where the role has the right and the value fits, no check fails but that of a running function. -/
theorem writeChecks_takes {f : EntryInfo} {role v len : Nat} {stopped : Bool} (hr : bit f.roles (role - 1) = true)
    (ht : f.takes v len = true) (hs : f.access = .rws → stopped = true) : writeChecks f role v len stopped = none := by
  simp only [EntryInfo.takes, Bool.and_eq_true, bne_iff_ne, ne_eq, Option.isNone_iff_eq_none] at ht
  obtain ⟨⟨⟨h1, h2⟩, h3⟩, h4⟩ := ht
  have hw : writeRight f role = none := by simp [writeRight, h1, h2, hr]
  simp only [writeChecks, hw, h3, Option.orElse_none]
  by_cases hb : f.ty = .blob
  · by_cases ha : f.access = .rws <;> simp_all
  · by_cases hs' : f.ty = .string
    · by_cases ha : f.access = .rws <;> simp_all
    · have h5 : (f.allowed.any fun r => decide (r.1 ≤ v) && decide (v ≤ r.2)) = true := by simpa [hb, hs'] using h4
      by_cases ha : f.access = .rws <;> simp_all

/-- A command entry's command runs when the role may write, the value is one of its own, and a value kept for the vendor
service role comes from it. -/
theorem Part.command_eq {s : Part} {w : Who} {e : Entry} (v : Nat) (vendor : Bool) (f : Part → Reply) (h : s.mayWrite w e)
    (ht : e.info.takes v e.info.bytes = true) (hv : vendor = true → s.roleOf w = roleVendor) :
    s.command w e v vendor f = f s := by
  unfold Part.command
  rw [writeChecks_takes h.1 ht fun _ => rfl]
  have hv' : (vendor && s.roleOf w != roleVendor) = false := by
    cases vendor
    · rfl
    · simp [hv rfl]
  simp [hv', h.2]

/-- A write that acts when written acts when the role may write and the value fits. -/
theorem Part.written_eq {s : Part} {w : Who} {e : Entry} (v len : Nat) (f : Part → Reply) (h : s.mayWrite w e)
    (ht : e.info.takes v len = true) : s.written w e v len f = f s := by
  unfold Part.written
  rw [writeChecks_takes h.1 ht fun _ => rfl]
  simp [h.2]

@[simp] theorem Reply.answer_ok (s : Part) (w : Who) : s.ok.answer w = s.emit (.answer w rOk []) := rfl
@[simp] theorem Reply.answer_refuse (s : Part) (w : Who) (c : Nat) : (s.refuse c).answer w = s.emit (.answer w c []) := rfl
@[simp] theorem Reply.answer_later (s : Part) (w : Who) : s.later.answer w = s := rfl

end Sys2Proof.Machine
end

