-- ==== Sys2Proof/Laws/Dram.lean ====
section
/-!
SUPPORT. DRAM keeps its canonical form under every operation that changes it, and a burst reads what was written to it last.
-/

namespace Sys2Proof.Machine

/-- The DRAM of every pavilion is in its canonical form (log entry 10). -/
def Part.dramWf (s : Part) : Prop := ∀ p, (s.pav p).dram.wf zeroBurst = true

/-- DRAM is canonical at reset: it lists nothing. -/
theorem Part.dramWf_reset : State.reset.part.dramWf := fun _ => rfl

/-- A change of a pavilion whose DRAM stays canonical keeps the form. -/
theorem Part.dramWf_onPav {s : Part} (k : Nat) (f : PavState → PavState) (h : s.dramWf)
    (hf : (f (s.pav k)).dram.wf zeroBurst = true) : (s.onPav k f).dramWf := fun p => by
  rw [Part.onPav_pav]
  split
  · exact hf
  · exact h p

/-- A change that leaves the pavilions alone keeps the form. -/
theorem Part.dramWf_congr {s t : Part} (h : s.dramWf) (e : t.pavs = s.pavs) : t.dramWf := fun p => by
  unfold Part.pav
  rw [e]
  exact h p

/-- A write of a burst keeps the form. -/
theorem Part.dramWf_putDram {s : Part} (p x v : Nat) (h : s.dramWf) : (s.putDram p x v).dramWf := by
  unfold Part.putDram
  split
  · exact h
  · exact Part.dramWf_onPav _ _ h (Sparse.wf_set _ _ (h p))

/-- The zeroing of a range of bursts keeps the form. -/
theorem Part.dramWf_zero {s : Part} (p lo hi : Nat) (f : PavState → PavState) (h : s.dramWf)
    (hf : (f (s.pav p)).dram = (s.pav p).dram.eraseRange lo hi) : (s.onPav p f).dramWf :=
  Part.dramWf_onPav _ _ h (by rw [hf]; exact Sparse.wf_eraseRange _ _ (h p))

/-- The loss of a pavilion's storage keeps the form. -/
theorem Part.dramWf_clear {s : Part} (p : Nat) (f : PavState → PavState) (h : s.dramWf) (hf : (f (s.pav p)).dram = []) :
    (s.onPav p f).dramWf :=
  Part.dramWf_onPav _ _ h (by rw [hf]; rfl)

/-- A burst of a rank that answers reads what was written to it; every other burst of every pavilion reads as before. -/
theorem Part.dramAt_putDram (s : Part) (p x v q y : Nat) (hl : s.unstored p x = false) (hx : s.burstLost p x = false) :
    (s.putDram p x v).dramAt q y = if p = q ∧ x = y then v % 2 ^ 640 else s.dramAt q y := by
  have e : s.putDram p x v = s.onPav p fun z =>
      { z with dram := z.dram.set zeroBurst x (v % 2 ^ 640), inlined := z.inlined.set 0 x (b2n false) } := by
    unfold Part.putDram
    rw [if_neg (by rw [hl]; decide)]
  rw [e]
  show (if s.burstLost q y then 0 else ((s.onPav p fun z =>
    { z with dram := z.dram.set zeroBurst x (v % 2 ^ 640), inlined := z.inlined.set 0 x (b2n false) }).pav q).dram.get zeroBurst y) = _
  unfold Part.dramAt
  rw [Part.onPav_pav]
  by_cases h1 : p = q
  · subst h1
    rw [if_pos rfl]
    show (if s.burstLost p y then 0 else Sparse.get zeroBurst (Sparse.set _ _ _ _) y) = _
    rw [Sparse.get_set]
    by_cases h2 : x = y
    · subst h2
      rw [hx]
      simp only [and_self, if_true, Bool.false_eq_true, if_false]
    · simp [h2]
  · simp [h1]

end Sys2Proof.Machine
end

