-- ==== Sys2Proof/Laws/Exec.lean ====
section
/-!
SUPPORT. What the command table and one step do, arm by arm: every command answers a next state and leaves the queue's rest
as it is.
-/

namespace Sys2Proof.Machine


@[simp] theorem exec_memRd port hpa tag (s : State) : exec (.memRd port hpa tag) s = execMemRd port hpa tag s := rfl
@[simp] theorem exec_memSpecRd port hpa (s : State) : exec (.memSpecRd port hpa) s = execMemSpecRd port hpa s := rfl
@[simp] theorem exec_memInv port hpa tag (s : State) : exec (.memInv port hpa tag) s = execMemInv port hpa tag s := rfl
@[simp] theorem exec_memWr port hpa tag data poison (s : State) : exec (.memWr port hpa tag data poison) s = execMemWr port hpa tag data poison s := rfl
@[simp] theorem exec_memWrPtl port hpa tag mask data poison (s : State) : exec (.memWrPtl port hpa tag mask data poison) s = execMemWrPtl port hpa tag mask data poison s := rfl
@[simp] theorem exec_m2sUnsupportedMessage port credit (s : State) : exec (.m2sUnsupportedMessage port credit) s = execM2sUnsupportedMessage port credit s := rfl
@[simp] theorem exec_ingressForward port sl (s : State) : exec (.ingressForward port sl) s = execIngressForward port sl s := rfl
@[simp] theorem exec_promRead p keyError (s : State) : exec (.promRead p keyError) s = execPromRead p keyError s := rfl
@[simp] theorem exec_promWrite p keyError (s : State) : exec (.promWrite p keyError) s = execPromWrite p keyError s := rfl
@[simp] theorem exec_promWritePartial p keyError (s : State) : exec (.promWritePartial p keyError) s = execPromWritePartial p keyError s := rfl
@[simp] theorem exec_promPoisonLine p (s : State) : exec (.promPoisonLine p) s = execPromPoisonLine p s := rfl
@[simp] theorem exec_promMirrorWrite p (s : State) : exec (.promMirrorWrite p) s = execPromMirrorWrite p s := rfl
@[simp] theorem exec_promReadData p (s : State) : exec (.promReadData p) s = execPromReadData p s := rfl
@[simp] theorem exec_promCompletion p (s : State) : exec (.promCompletion p) s = execPromCompletion p s := rfl
@[simp] theorem exec_promCapacityNotice p (s : State) : exec (.promCapacityNotice p) s = execPromCapacityNotice p s := rfl
@[simp] theorem exec_promMoveData p (s : State) : exec (.promMoveData p) s = execPromMoveData p s := rfl
@[simp] theorem exec_promMoveDone p (s : State) : exec (.promMoveDone p) s = execPromMoveDone p s := rfl
@[simp] theorem exec_promMgmtRequest p (s : State) : exec (.promMgmtRequest p) s = execPromMgmtRequest p s := rfl
@[simp] theorem exec_promMgmtResponse p (s : State) : exec (.promMgmtResponse p) s = execPromMgmtResponse p s := rfl
@[simp] theorem exec_promKeyLoad p (s : State) : exec (.promKeyLoad p) s = execPromKeyLoad p s := rfl
@[simp] theorem exec_promLinkNotice p (s : State) : exec (.promLinkNotice p) s = execPromLinkNotice p s := rfl
@[simp] theorem exec_stallTimerExpiry port sl lpage (s : State) : exec (.stallTimerExpiry port sl lpage) s = execStallTimerExpiry port sl lpage s := rfl
@[simp] theorem exec_slotServe c u slot busy guard (s : State) : exec (.slotServe c u slot busy guard) s = execSlotServe c u slot busy guard s := rfl
@[simp] theorem exec_channelReadData c r (s : State) : exec (.channelReadData c r) s = execChannelReadData c r s := rfl
@[simp] theorem exec_codecLaneDispatch p fault (s : State) : exec (.codecLaneDispatch p fault) s = execCodecLaneDispatch p fault s := rfl
@[simp] theorem exec_frameEnd p (s : State) : exec (.frameEnd p) s = execFrameEnd p s := rfl
@[simp] theorem exec_planningIntervalEnd (s : State) : exec .planningIntervalEnd s = execPlanningIntervalEnd s := rfl
@[simp] theorem exec_planEntryPromote p (s : State) : exec (.planEntryPromote p) s = execPlanEntryPromote p s := rfl
@[simp] theorem exec_planEntryDemote p (s : State) : exec (.planEntryDemote p) s = execPlanEntryDemote p s := rfl
@[simp] theorem exec_planEntryCompact p (s : State) : exec (.planEntryCompact p) s = execPlanEntryCompact p s := rfl
@[simp] theorem exec_planEntryRekey p (s : State) : exec (.planEntryRekey p) s = execPlanEntryRekey p s := rfl
@[simp] theorem exec_planEntryMoveRegion p (s : State) : exec (.planEntryMoveRegion p) s = execPlanEntryMoveRegion p s := rfl
@[simp] theorem exec_planEntryMirror p (s : State) : exec (.planEntryMirror p) s = execPlanEntryMirror p s := rfl
@[simp] theorem exec_pageMoveCommit p (s : State) : exec (.pageMoveCommit p) s = execPageMoveCommit p s := rfl
@[simp] theorem exec_regionMoveHold p (s : State) : exec (.regionMoveHold p) s = execRegionMoveHold p s := rfl
@[simp] theorem exec_regionMoveCommit p (s : State) : exec (.regionMoveCommit p) s = execRegionMoveCommit p s := rfl
@[simp] theorem exec_zeroingComplete p ext (s : State) : exec (.zeroingComplete p ext) s = execZeroingComplete p ext s := rfl
@[simp] theorem exec_rescueCask p (s : State) : exec (.rescueCask p) s = execRescueCask p s := rfl
@[simp] theorem exec_scrubPassStart c (s : State) : exec (.scrubPassStart c) s = execScrubPassStart c s := rfl
@[simp] theorem exec_codebookImageWrite w slot image (s : State) : exec (.codebookImageWrite w slot image) s = execCodebookImageWrite w slot image s := rfl
@[simp] theorem exec_codebookLoadDone (s : State) : exec .codebookLoadDone s = execCodebookLoadDone s := rfl
@[simp] theorem exec_codebookDrain w slot (s : State) : exec (.codebookDrain w slot) s = execCodebookDrain w slot s := rfl
@[simp] theorem exec_codebookUnload w slot (s : State) : exec (.codebookUnload w slot) s = execCodebookUnload w slot s := rfl
@[simp] theorem exec_codebookBuildStart w (s : State) : exec (.codebookBuildStart w) s = execCodebookBuildStart w s := rfl
@[simp] theorem exec_codebookBuildCancel w (s : State) : exec (.codebookBuildCancel w) s = execCodebookBuildCancel w s := rfl
@[simp] theorem exec_buildSamplingDone (s : State) : exec .buildSamplingDone s = execBuildSamplingDone s := rfl
@[simp] theorem exec_sliceKeyGenerate w sl (s : State) : exec (.sliceKeyGenerate w sl) s = execSliceKeyGenerate w sl s := rfl
@[simp] theorem exec_sliceKeyRekey w sl (s : State) : exec (.sliceKeyRekey w sl) s = execSliceKeyRekey w sl s := rfl
@[simp] theorem exec_sliceKeyImport w sl blob (s : State) : exec (.sliceKeyImport w sl blob) s = execSliceKeyImport w sl blob s := rfl
@[simp] theorem exec_wrapPeerPublicWrite w k point (s : State) : exec (.wrapPeerPublicWrite w k point) s = execWrapPeerPublicWrite w k point s := rfl
@[simp] theorem exec_wrapKeyDestroy w k (s : State) : exec (.wrapKeyDestroy w k) s = execWrapKeyDestroy w k s := rfl
@[simp] theorem exec_rngHealthFail (s : State) : exec .rngHealthFail s = execRngHealthFail s := rfl
@[simp] theorem exec_keyCacheReloadDone p (s : State) : exec (.keyCacheReloadDone p) s = execKeyCacheReloadDone p s := rfl
@[simp] theorem exec_rekeySweepEnd sl (s : State) : exec (.rekeySweepEnd sl) s = execRekeySweepEnd sl s := rfl
@[simp] theorem exec_flipArm w c (s : State) : exec (.flipArm w c) s = execFlipArm w c s := rfl
@[simp] theorem exec_flipDisarm w c (s : State) : exec (.flipDisarm w c) s = execFlipDisarm w c s := rfl
@[simp] theorem exec_flipTestWrite w c (s : State) : exec (.flipTestWrite w c) s = execFlipTestWrite w c s := rfl
@[simp] theorem exec_flipTestRead w c (s : State) : exec (.flipTestRead w c) s = execFlipTestRead w c s := rfl
@[simp] theorem exec_ceTableClear w p (s : State) : exec (.ceTableClear w p) s = execCeTableClear w p s := rfl
@[simp] theorem exec_dimmTempPoll c t0 t1 (s : State) : exec (.dimmTempPoll c t0 t1) s = execDimmTempPoll c t0 t1 s := rfl
@[simp] theorem exec_hammerWindowStart c (s : State) : exec (.hammerWindowStart c) s = execHammerWindowStart c s := rfl
@[simp] theorem exec_pageOpenLimitExpiry c u bank (s : State) : exec (.pageOpenLimitExpiry c u bank) s = execPageOpenLimitExpiry c u bank s := rfl
@[simp] theorem exec_rankPowerdownEntry c r (s : State) : exec (.rankPowerdownEntry c r) s = execRankPowerdownEntry c r s := rfl
@[simp] theorem exec_caParityAlert c r (s : State) : exec (.caParityAlert c r) s = execCaParityAlert c r s := rfl
@[simp] theorem exec_channelQuickRetrain w c (s : State) : exec (.channelQuickRetrain w c) s = execChannelQuickRetrain w c s := rfl
@[simp] theorem exec_rankRebuildExtent c (s : State) : exec (.rankRebuildExtent c) s = execRankRebuildExtent c s := rfl
@[simp] theorem exec_vintageCompileStart (s : State) : exec .vintageCompileStart s = execVintageCompileStart s := rfl
@[simp] theorem exec_vintageCompileDone (s : State) : exec .vintageCompileDone s = execVintageCompileDone s := rfl
@[simp] theorem exec_vintageCheckerDone (s : State) : exec .vintageCheckerDone s = execVintageCheckerDone s := rfl
@[simp] theorem exec_vintageSwapTime (s : State) : exec .vintageSwapTime s = execVintageSwapTime s := rfl
@[simp] theorem exec_vintageBeginBatch w (s : State) : exec (.vintageBeginBatch w) s = execVintageBeginBatch w s := rfl
@[simp] theorem exec_vintageCommitBatch w (s : State) : exec (.vintageCommitBatch w) s = execVintageCommitBatch w s := rfl
@[simp] theorem exec_vintageAbortBatch w (s : State) : exec (.vintageAbortBatch w) s = execVintageAbortBatch w s := rfl
@[simp] theorem exec_vintageBatchTimeout (s : State) : exec .vintageBatchTimeout s = execVintageBatchTimeout s := rfl
@[simp] theorem exec_sliceCheckWindowEnd sl (s : State) : exec (.sliceCheckWindowEnd sl) s = execSliceCheckWindowEnd sl s := rfl
@[simp] theorem exec_flitReceive n d crcOk (s : State) : exec (.flitReceive n d crcOk) s = execFlitReceive n d crcOk s := rfl
@[simp] theorem exec_flitTransmit n d (s : State) : exec (.flitTransmit n d) s = execFlitTransmit n d s := rfl
@[simp] theorem exec_nakReceive n d (s : State) : exec (.nakReceive n d) s = execNakReceive n d s := rfl
@[simp] theorem exec_linkCreditTimeout n d (s : State) : exec (.linkCreditTimeout n d) s = execLinkCreditTimeout n d s := rfl
@[simp] theorem exec_linkAckTimeout n d (s : State) : exec (.linkAckTimeout n d) s = execLinkAckTimeout n d s := rfl
@[simp] theorem exec_linkPhyLost n d peer (s : State) : exec (.linkPhyLost n d peer) s = execLinkPhyLost n d peer s := rfl
@[simp] theorem exec_linkRetrain w n (s : State) : exec (.linkRetrain w n) s = execLinkRetrain w n s := rfl
@[simp] theorem exec_linkIdleEnd n (s : State) : exec (.linkIdleEnd n) s = execLinkIdleEnd n s := rfl
@[simp] theorem exec_linkTrainingDone n eye advertisedOk (s : State) : exec (.linkTrainingDone n eye advertisedOk) s = execLinkTrainingDone n eye advertisedOk s := rfl
@[simp] theorem exec_linkTrainingFail n (s : State) : exec (.linkTrainingFail n) s = execLinkTrainingFail n s := rfl
@[simp] theorem exec_pavilionStop w p (s : State) : exec (.pavilionStop w p) s = execPavilionStop w p s := rfl
@[simp] theorem exec_pavilionStart w p (s : State) : exec (.pavilionStart w p) s = execPavilionStart w p s := rfl
@[simp] theorem exec_pavilionRetire w p (s : State) : exec (.pavilionRetire w p) s = execPavilionRetire w p s := rfl
@[simp] theorem exec_pavilionReturn w p (s : State) : exec (.pavilionReturn w p) s = execPavilionReturn w p s := rfl
@[simp] theorem exec_pavilionFault p (s : State) : exec (.pavilionFault p) s = execPavilionFault p s := rfl
@[simp] theorem exec_gatehouseHeartbeat (s : State) : exec .gatehouseHeartbeat s = execGatehouseHeartbeat s := rfl
@[simp] theorem exec_heartbeatTimeout (s : State) : exec .heartbeatTimeout s = execHeartbeatTimeout s := rfl
@[simp] theorem exec_rootPllLockLoss p (s : State) : exec (.rootPllLockLoss p) s = execRootPllLockLoss p s := rfl
@[simp] theorem exec_aonPllLockLoss (s : State) : exec .aonPllLockLoss s = execAonPllLockLoss s := rfl
@[simp] theorem exec_perstAssert port (s : State) : exec (.perstAssert port) s = execPerstAssert port s := rfl
@[simp] theorem exec_perstDeassert port (s : State) : exec (.perstDeassert port) s = execPerstDeassert port s := rfl
@[simp] theorem exec_portLinkDown port (s : State) : exec (.portLinkDown port) s = execPortLinkDown port s := rfl
@[simp] theorem exec_portHotReset port (s : State) : exec (.portHotReset port) s = execPortHotReset port s := rfl
@[simp] theorem exec_portLinkDisable port (s : State) : exec (.portLinkDisable port) s = execPortLinkDisable port s := rfl
@[simp] theorem exec_cxlReset port (s : State) : exec (.cxlReset port) s = execCxlReset port s := rfl
@[simp] theorem exec_functionLevelReset port (s : State) : exec (.functionLevelReset port) s = execFunctionLevelReset port s := rfl
@[simp] theorem exec_busMasterEnableClear port (s : State) : exec (.busMasterEnableClear port) s = execBusMasterEnableClear port s := rfl
@[simp] theorem exec_busMasterEnableSet port (s : State) : exec (.busMasterEnableSet port) s = execBusMasterEnableSet port s := rfl
@[simp] theorem exec_bmWindowWrite port k value (s : State) : exec (.bmWindowWrite port k value) s = execBmWindowWrite port k value s := rfl
@[simp] theorem exec_portLinkTrained port speed width flit256 (s : State) : exec (.portLinkTrained port speed width flit256) s = execPortLinkTrained port speed width flit256 s := rfl
@[simp] theorem exec_pmDStateChange port dstate pme (s : State) : exec (.pmDStateChange port dstate pme) s = execPmDStateChange port dstate pme s := rfl
@[simp] theorem exec_ideMacFailure port (s : State) : exec (.ideMacFailure port) s = execIdeMacFailure port s := rfl
@[simp] theorem exec_ideKmRequest port session keys (s : State) : exec (.ideKmRequest port session keys) s = execIdeKmRequest port session keys s := rfl
@[simp] theorem exec_doeDiscovery port index (s : State) : exec (.doeDiscovery port index) s = execDoeDiscovery port index s := rfl
@[simp] theorem exec_spdmRequest port req (s : State) : exec (.spdmRequest port req) s = execSpdmRequest port req s := rfl
@[simp] theorem exec_cdatRead port entry (s : State) : exec (.cdatRead port entry) s = execCdatRead port entry s := rfl
@[simp] theorem exec_mboxIdentify port (s : State) : exec (.mboxIdentify port) s = execMboxIdentify port s := rfl
@[simp] theorem exec_mboxGetEventRecords port log (s : State) : exec (.mboxGetEventRecords port log) s = execMboxGetEventRecords port log s := rfl
@[simp] theorem exec_mboxClearEventRecords port log all handles (s : State) : exec (.mboxClearEventRecords port log all handles) s = execMboxClearEventRecords port log all handles s := rfl
@[simp] theorem exec_mboxGetEventIntPolicy port (s : State) : exec (.mboxGetEventIntPolicy port) s = execMboxGetEventIntPolicy port s := rfl
@[simp] theorem exec_mboxSetEventIntPolicy port policy (s : State) : exec (.mboxSetEventIntPolicy port policy) s = execMboxSetEventIntPolicy port policy s := rfl
@[simp] theorem exec_mboxGetFwInfo port (s : State) : exec (.mboxGetFwInfo port) s = execMboxGetFwInfo port s := rfl
@[simp] theorem exec_mboxGetTimestamp port (s : State) : exec (.mboxGetTimestamp port) s = execMboxGetTimestamp port s := rfl
@[simp] theorem exec_mboxSetTimestamp port time (s : State) : exec (.mboxSetTimestamp port time) s = execMboxSetTimestamp port time s := rfl
@[simp] theorem exec_mboxGetSupportedLogs port (s : State) : exec (.mboxGetSupportedLogs port) s = execMboxGetSupportedLogs port s := rfl
@[simp] theorem exec_mboxGetLog port cel offset len (s : State) : exec (.mboxGetLog port cel offset len) s = execMboxGetLog port cel offset len s := rfl
@[simp] theorem exec_mboxIdentifyMemoryDevice port (s : State) : exec (.mboxIdentifyMemoryDevice port) s = execMboxIdentifyMemoryDevice port s := rfl
@[simp] theorem exec_mboxGetPoisonList port (s : State) : exec (.mboxGetPoisonList port) s = execMboxGetPoisonList port s := rfl
@[simp] theorem exec_mboxClearPoison port dpa data (s : State) : exec (.mboxClearPoison port dpa data) s = execMboxClearPoison port dpa data s := rfl
@[simp] theorem exec_mboxGetDcConfiguration port (s : State) : exec (.mboxGetDcConfiguration port) s = execMboxGetDcConfiguration port s := rfl
@[simp] theorem exec_mboxGetDcExtentList port (s : State) : exec (.mboxGetDcExtentList port) s = execMboxGetDcExtentList port s := rfl
@[simp] theorem exec_addDcResponse port runs (s : State) : exec (.addDcResponse port runs) s = execAddDcResponse port runs s := rfl
@[simp] theorem exec_releaseDc port runs (s : State) : exec (.releaseDc port runs) s = execReleaseDc port runs s := rfl
@[simp] theorem exec_dcReleaseDrained port (s : State) : exec (.dcReleaseDrained port) s = execDcReleaseDrained port s := rfl
@[simp] theorem exec_mboxVopTransport port frame (s : State) : exec (.mboxVopTransport port frame) s = execMboxVopTransport port frame s := rfl
@[simp] theorem exec_mboxUnsupported port opcode (s : State) : exec (.mboxUnsupported port opcode) s = execMboxUnsupported port opcode s := rfl
@[simp] theorem exec_dcRequestAdd w port req (s : State) : exec (.dcRequestAdd w port req) s = execDcRequestAdd w port req s := rfl
@[simp] theorem exec_dcRequestRelease w port req (s : State) : exec (.dcRequestRelease w port req) s = execDcRequestRelease w port req s := rfl
@[simp] theorem exec_dcRequestForceRelease w port req (s : State) : exec (.dcRequestForceRelease w port req) s = execDcRequestForceRelease w port req s := rfl
@[simp] theorem exec_dcOfferTimeout port (s : State) : exec (.dcOfferTimeout port) s = execDcOfferTimeout port s := rfl
@[simp] theorem exec_tpDoorbellCounterDump port sl value (s : State) : exec (.tpDoorbellCounterDump port sl value) s = execTpDoorbellCounterDump port sl value s := rfl
@[simp] theorem exec_tpDoorbellSave port sl value (s : State) : exec (.tpDoorbellSave port sl value) s = execTpDoorbellSave port sl value s := rfl
@[simp] theorem exec_tpDoorbellRestore port sl value (s : State) : exec (.tpDoorbellRestore port sl value) s = execTpDoorbellRestore port sl value s := rfl
@[simp] theorem exec_counterDumpWritten port sl ok (s : State) : exec (.counterDumpWritten port sl ok) s = execCounterDumpWritten port sl ok s := rfl
@[simp] theorem exec_sliceCreate w sl (s : State) : exec (.sliceCreate w sl) s = execSliceCreate w sl s := rfl
@[simp] theorem exec_sliceStart w sl (s : State) : exec (.sliceStart w sl) s = execSliceStart w sl s := rfl
@[simp] theorem exec_sliceStop w sl (s : State) : exec (.sliceStop w sl) s = execSliceStop w sl s := rfl
@[simp] theorem exec_sliceFreeze w sl (s : State) : exec (.sliceFreeze w sl) s = execSliceFreeze w sl s := rfl
@[simp] theorem exec_sliceThaw w sl (s : State) : exec (.sliceThaw w sl) s = execSliceThaw w sl s := rfl
@[simp] theorem exec_sliceSave w sl (s : State) : exec (.sliceSave w sl) s = execSliceSave w sl s := rfl
@[simp] theorem exec_sliceRestore w sl (s : State) : exec (.sliceRestore w sl) s = execSliceRestore w sl s := rfl
@[simp] theorem exec_sliceReset w sl (s : State) : exec (.sliceReset w sl) s = execSliceReset w sl s := rfl
@[simp] theorem exec_sliceRemove w sl (s : State) : exec (.sliceRemove w sl) s = execSliceRemove w sl s := rfl
@[simp] theorem exec_sliceCancel w sl (s : State) : exec (.sliceCancel w sl) s = execSliceCancel w sl s := rfl
@[simp] theorem exec_sliceReoffer w sl (s : State) : exec (.sliceReoffer w sl) s = execSliceReoffer w sl s := rfl
@[simp] theorem exec_sliceDrainEnd sl (s : State) : exec (.sliceDrainEnd sl) s = execSliceDrainEnd sl s := rfl
@[simp] theorem exec_sliceClearingDone sl (s : State) : exec (.sliceClearingDone sl) s = execSliceClearingDone sl s := rfl
@[simp] theorem exec_slicePortWrite w sl value (s : State) : exec (.slicePortWrite w sl value) s = execSlicePortWrite w sl value s := rfl
@[simp] theorem exec_sliceMigrationIdWrite w sl value (s : State) : exec (.sliceMigrationIdWrite w sl value) s = execSliceMigrationIdWrite w sl value s := rfl
@[simp] theorem exec_saveBundleSent sl (s : State) : exec (.saveBundleSent sl) s = execSaveBundleSent sl s := rfl
@[simp] theorem exec_restoreBundleRead sl bundle len (s : State) : exec (.restoreBundleRead sl bundle len) s = execRestoreBundleRead sl bundle len s := rfl
@[simp] theorem exec_vopOpen t f (s : State) : exec (.vopOpen t f) s = execVopOpen t f s := rfl
@[simp] theorem exec_vopClose t f (s : State) : exec (.vopClose t f) s = execVopClose t f s := rfl
@[simp] theorem exec_vopKeepalive t f (s : State) : exec (.vopKeepalive t f) s = execVopKeepalive t f s := rfl
@[simp] theorem exec_vopRead t f (s : State) : exec (.vopRead t f) s = execVopRead t f s := rfl
@[simp] theorem exec_vopWrite t f (s : State) : exec (.vopWrite t f) s = execVopWrite t f s := rfl
@[simp] theorem exec_vopReadBegin t f (s : State) : exec (.vopReadBegin t f) s = execVopReadBegin t f s := rfl
@[simp] theorem exec_vopReadSegment t f (s : State) : exec (.vopReadSegment t f) s = execVopReadSegment t f s := rfl
@[simp] theorem exec_vopWriteBegin t f (s : State) : exec (.vopWriteBegin t f) s = execVopWriteBegin t f s := rfl
@[simp] theorem exec_vopWriteSegment t f (s : State) : exec (.vopWriteSegment t f) s = execVopWriteSegment t f s := rfl
@[simp] theorem exec_vopTransferEnd t f (s : State) : exec (.vopTransferEnd t f) s = execVopTransferEnd t f s := rfl
@[simp] theorem exec_vopTransferTimeout k (s : State) : exec (.vopTransferTimeout k) s = execVopTransferTimeout k s := rfl
@[simp] theorem exec_vopCatalogueRead t f (s : State) : exec (.vopCatalogueRead t f) s = execVopCatalogueRead t f s := rfl
@[simp] theorem exec_vopSubscribe t f (s : State) : exec (.vopSubscribe t f) s = execVopSubscribe t f s := rfl
@[simp] theorem exec_vopNotifyAck t f (s : State) : exec (.vopNotifyAck t f) s = execVopNotifyAck t f s := rfl
@[simp] theorem exec_vopNotifyPoll t f (s : State) : exec (.vopNotifyPoll t f) s = execVopNotifyPoll t f s := rfl
@[simp] theorem exec_vopClaim t f (s : State) : exec (.vopClaim t f) s = execVopClaim t f s := rfl
@[simp] theorem exec_vopWakeFrame t f (s : State) : exec (.vopWakeFrame t f) s = execVopWakeFrame t f s := rfl
@[simp] theorem exec_notifyResend k (s : State) : exec (.notifyResend k) s = execNotifyResend k s := rfl
@[simp] theorem exec_sessionIdleTimeout k (s : State) : exec (.sessionIdleTimeout k) s = execSessionIdleTimeout k s := rfl
@[simp] theorem exec_sessionCloseCommand w k (s : State) : exec (.sessionCloseCommand w k) s = execSessionCloseCommand w k s := rfl
@[simp] theorem exec_rolePeerPublicWrite w r point (s : State) : exec (.rolePeerPublicWrite w r point) s = execRolePeerPublicWrite w r point s := rfl
@[simp] theorem exec_roleDestroy w r (s : State) : exec (.roleDestroy w r) s = execRoleDestroy w r s := rfl
@[simp] theorem exec_mgmtApply w (s : State) : exec (.mgmtApply w) s = execMgmtApply w s := rfl
@[simp] theorem exec_mgmtConfirm w (s : State) : exec (.mgmtConfirm w) s = execMgmtConfirm w s := rfl
@[simp] theorem exec_mgmtConfirmTimeout (s : State) : exec .mgmtConfirmTimeout s = execMgmtConfirmTimeout s := rfl
@[simp] theorem exec_arpRequest target (s : State) : exec (.arpRequest target) s = execArpRequest target s := rfl
@[simp] theorem exec_icmpEchoRequest v6 addr payload (s : State) : exec (.icmpEchoRequest v6 addr payload) s = execIcmpEchoRequest v6 addr payload s := rfl
@[simp] theorem exec_neighbourSolicitation target (s : State) : exec (.neighbourSolicitation target) s = execNeighbourSolicitation target s := rfl
@[simp] theorem exec_mctpSetEndpointId eid (s : State) : exec (.mctpSetEndpointId eid) s = execMctpSetEndpointId eid s := rfl
@[simp] theorem exec_mctpGetEndpointId (s : State) : exec .mctpGetEndpointId s = execMctpGetEndpointId s := rfl
@[simp] theorem exec_mctpGetVersionSupport kind (s : State) : exec (.mctpGetVersionSupport kind) s = execMctpGetVersionSupport kind s := rfl
@[simp] theorem exec_mctpGetMessageTypeSupport (s : State) : exec .mctpGetMessageTypeSupport s = execMctpGetMessageTypeSupport s := rfl
@[simp] theorem exec_mctpGetVendorDefinedSupport selector (s : State) : exec (.mctpGetVendorDefinedSupport selector) s = execMctpGetVendorDefinedSupport selector s := rfl
@[simp] theorem exec_lodgeGather (s : State) : exec .lodgeGather s = execLodgeGather s := rfl
@[simp] theorem exec_counterReset w value (s : State) : exec (.counterReset w value) s = execCounterReset w value s := rfl
@[simp] theorem exec_sliceCounterReset w sl (s : State) : exec (.sliceCounterReset w sl) s = execSliceCounterReset w sl s := rfl
@[simp] theorem exec_counterStoreError index sub corrected (s : State) : exec (.counterStoreError index sub corrected) s = execCounterStoreError index sub corrected s := rfl
@[simp] theorem exec_ptpMessage offset master domain (s : State) : exec (.ptpMessage offset master domain) s = execPtpMessage offset master domain s := rfl
@[simp] theorem exec_ptpLossTimeout (s : State) : exec .ptpLossTimeout s = execPtpLossTimeout s := rfl
@[simp] theorem exec_timeSourceWrite w value (s : State) : exec (.timeSourceWrite w value) s = execTimeSourceWrite w value s := rfl
@[simp] theorem exec_snapshotTick port host (s : State) : exec (.snapshotTick port host) s = execSnapshotTick port host s := rfl
@[simp] theorem exec_harvestTick (s : State) : exec .harvestTick s = execHarvestTick s := rfl
@[simp] theorem exec_harvestMinuteEnd host (s : State) : exec (.harvestMinuteEnd host) s = execHarvestMinuteEnd host s := rfl
@[simp] theorem exec_ringEnableWrite w port value (s : State) : exec (.ringEnableWrite w port value) s = execRingEnableWrite w port value s := rfl
@[simp] theorem exec_snapSetWrite w port value (s : State) : exec (.snapSetWrite w port value) s = execSnapSetWrite w port value s := rfl
@[simp] theorem exec_armCounterWrite w port a value (s : State) : exec (.armCounterWrite w port a value) s = execArmCounterWrite w port a value s := rfl
@[simp] theorem exec_laneClockGate p lane (s : State) : exec (.laneClockGate p lane) s = execLaneClockGate p lane s := rfl
@[simp] theorem exec_pavilionIdleEntry p (s : State) : exec (.pavilionIdleEntry p) s = execPavilionIdleEntry p s := rfl
@[simp] theorem exec_powerCommandRest w (s : State) : exec (.powerCommandRest w) s = execPowerCommandRest w s := rfl
@[simp] theorem exec_restAutoDelayExpiry (s : State) : exec .restAutoDelayExpiry s = execRestAutoDelayExpiry s := rfl
@[simp] theorem exec_restAgentAgree (s : State) : exec .restAgentAgree s = execRestAgentAgree s := rfl
@[simp] theorem exec_wakeEvent source (s : State) : exec (.wakeEvent source) s = execWakeEvent source s := rfl
@[simp] theorem exec_restExitCorePg pllsLocked exitOk (s : State) : exec (.restExitCorePg pllsLocked exitOk) s = execRestExitCorePg pllsLocked exitOk s := rfl
@[simp] theorem exec_restExitCorePgTimeout (s : State) : exec .restExitCorePgTimeout s = execRestExitCorePgTimeout s := rfl
@[simp] theorem exec_retentionRestoreDone p ce ue (s : State) : exec (.retentionRestoreDone p ce ue) s = execRetentionRestoreDone p ce ue s := rfl
@[simp] theorem exec_warmMeasurementDone digest (s : State) : exec (.warmMeasurementDone digest) s = execWarmMeasurementDone digest s := rfl
@[simp] theorem exec_vauxRise straps (s : State) : exec (.vauxRise straps) s = execVauxRise straps s := rfl
@[simp] theorem exec_vauxFall (s : State) : exec .vauxFall s = execVauxFall s := rfl
@[simp] theorem exec_partResetAssert (s : State) : exec .partResetAssert s = execPartResetAssert s := rfl
@[simp] theorem exec_partResetRelease straps (s : State) : exec (.partResetRelease straps) s = execPartResetRelease straps s := rfl
@[simp] theorem exec_selfTestDone p pass gate (s : State) : exec (.selfTestDone p pass gate) s = execSelfTestDone p pass gate s := rfl
@[simp] theorem exec_fwSlotCheckDone img (s : State) : exec (.fwSlotCheckDone img) s = execFwSlotCheckDone img s := rfl
@[simp] theorem exec_firmwareStartDone config trust wear (s : State) : exec (.firmwareStartDone config trust wear) s = execFirmwareStartDone config trust wear s := rfl
@[simp] theorem exec_dramTrainingDone p t (s : State) : exec (.dramTrainingDone p t) s = execDramTrainingDone p t s := rfl
@[simp] theorem exec_hardRepair p failed (s : State) : exec (.hardRepair p failed) s = execHardRepair p failed s := rfl
@[simp] theorem exec_firstFillDone p failedRanks (s : State) : exec (.firstFillDone p failedRanks) s = execFirstFillDone p failedRanks s := rfl
@[simp] theorem exec_bootMemoryActive (s : State) : exec .bootMemoryActive s = execBootMemoryActive s := rfl
@[simp] theorem exec_corePgBootTimeout (s : State) : exec .corePgBootTimeout s = execCorePgBootTimeout s := rfl
@[simp] theorem exec_corePgFall (s : State) : exec .corePgFall s = execCorePgFall s := rfl
@[simp] theorem exec_thermalTrip (s : State) : exec .thermalTrip s = execThermalTrip s := rfl
@[simp] theorem exec_presentRawAbsence (s : State) : exec .presentRawAbsence s = execPresentRawAbsence s := rfl
@[simp] theorem exec_presenceDebounced (s : State) : exec .presenceDebounced s = execPresenceDebounced s := rfl
@[simp] theorem exec_absenceDebounced (s : State) : exec .absenceDebounced s = execAbsenceDebounced s := rfl
@[simp] theorem exec_absenceTimerExpiry (s : State) : exec .absenceTimerExpiry s = execAbsenceTimerExpiry s := rfl
@[simp] theorem exec_insertDelayExpiry (s : State) : exec .insertDelayExpiry s = execInsertDelayExpiry s := rfl
@[simp] theorem exec_mainFullyOn (s : State) : exec .mainFullyOn s = execMainFullyOn s := rfl
@[simp] theorem exec_mainRampTimeout (s : State) : exec .mainRampTimeout s = execMainRampTimeout s := rfl
@[simp] theorem exec_mainFastTrip (s : State) : exec .mainFastTrip s = execMainFastTrip s := rfl
@[simp] theorem exec_mainSoaTimerExpiry (s : State) : exec .mainSoaTimerExpiry s = execMainSoaTimerExpiry s := rfl
@[simp] theorem exec_mainRetryWaitEnd (s : State) : exec .mainRetryWaitEnd s = execMainRetryWaitEnd s := rfl
@[simp] theorem exec_mainRetryCountReset (s : State) : exec .mainRetryCountReset s = execMainRetryCountReset s := rfl
@[simp] theorem exec_mainWindowExit (s : State) : exec .mainWindowExit s = execMainWindowExit s := rfl
@[simp] theorem exec_currentLimitStart k (s : State) : exec (.currentLimitStart k) s = execCurrentLimitStart k s := rfl
@[simp] theorem exec_powerSample vin vout current branches (s : State) : exec (.powerSample vin vout current branches) s = execPowerSample vin vout current branches s := rfl
@[simp] theorem exec_branchOn w b (s : State) : exec (.branchOn w b) s = execBranchOn w b s := rfl
@[simp] theorem exec_branchOff w b (s : State) : exec (.branchOff w b) s = execBranchOff w b s := rfl
@[simp] theorem exec_branchFullyOn b (s : State) : exec (.branchFullyOn b) s = execBranchFullyOn b s := rfl
@[simp] theorem exec_branchRampTimeout b (s : State) : exec (.branchRampTimeout b) s = execBranchRampTimeout b s := rfl
@[simp] theorem exec_branchFastTrip b (s : State) : exec (.branchFastTrip b) s = execBranchFastTrip b s := rfl
@[simp] theorem exec_branchSoaTimerExpiry b (s : State) : exec (.branchSoaTimerExpiry b) s = execBranchSoaTimerExpiry b s := rfl
@[simp] theorem exec_branchRetryWaitEnd b (s : State) : exec (.branchRetryWaitEnd b) s = execBranchRetryWaitEnd b s := rfl
@[simp] theorem exec_ageIntegrate temps (s : State) : exec (.ageIntegrate temps) s = execAgeIntegrate temps s := rfl
@[simp] theorem exec_ringOscillatorSample p drift (s : State) : exec (.ringOscillatorSample p drift) s = execRingOscillatorSample p drift s := rfl
@[simp] theorem exec_pathDelaySample p slack avsAck (s : State) : exec (.pathDelaySample p slack avsAck) s = execPathDelaySample p slack avsAck s := rfl
@[simp] theorem exec_seasonEnd margins (s : State) : exec (.seasonEnd margins) s = execSeasonEnd margins s := rfl
@[simp] theorem exec_maintWindowOpen (s : State) : exec .maintWindowOpen s = execMaintWindowOpen s := rfl
@[simp] theorem exec_maintOpenNow w (s : State) : exec (.maintOpenNow w) s = execMaintOpenNow w s := rfl
@[simp] theorem exec_maintClose w (s : State) : exec (.maintClose w) s = execMaintClose w s := rfl
@[simp] theorem exec_maintWindowExpiry (s : State) : exec .maintWindowExpiry s = execMaintWindowExpiry s := rfl
@[simp] theorem exec_wearRecordHourly (s : State) : exec .wearRecordHourly s = execWearRecordHourly s := rfl
@[simp] theorem exec_ceTableScan (s : State) : exec .ceTableScan s = execCeTableScan s := rfl
@[simp] theorem exec_capacityWithdrawal p (s : State) : exec (.capacityWithdrawal p) s = execCapacityWithdrawal p s := rfl
@[simp] theorem exec_configStoreWrite (s : State) : exec .configStoreWrite s = execConfigStoreWrite s := rfl
@[simp] theorem exec_fwUpdateBegin w (s : State) : exec (.fwUpdateBegin w) s = execFwUpdateBegin w s := rfl
@[simp] theorem exec_fwUpdateData w data len (s : State) : exec (.fwUpdateData w data len) s = execFwUpdateData w data len s := rfl
@[simp] theorem exec_fwUpdateVerify w (s : State) : exec (.fwUpdateVerify w) s = execFwUpdateVerify w s := rfl
@[simp] theorem exec_fwUpdateAbort w (s : State) : exec (.fwUpdateAbort w) s = execFwUpdateAbort w s := rfl
@[simp] theorem exec_fwSvnCommit w value (s : State) : exec (.fwSvnCommit w value) s = execFwSvnCommit w value s := rfl
@[simp] theorem exec_fwKeyRevoke w value (s : State) : exec (.fwKeyRevoke w value) s = execFwKeyRevoke w value s := rfl
@[simp] theorem exec_debugUnlock w token (s : State) : exec (.debugUnlock w token) s = execDebugUnlock w token s := rfl
@[simp] theorem exec_monitorHelp (s : State) : exec .monitorHelp s = execMonitorHelp s := rfl
@[simp] theorem exec_monitorLogin role answer (s : State) : exec (.monitorLogin role answer) s = execMonitorLogin role answer s := rfl
@[simp] theorem exec_monitorLogout (s : State) : exec .monitorLogout s = execMonitorLogout s := rfl
@[simp] theorem exec_monitorLoginLockExpiry (s : State) : exec .monitorLoginLockExpiry s = execMonitorLoginLockExpiry s := rfl
@[simp] theorem exec_monitorIdleTimeout (s : State) : exec .monitorIdleTimeout s = execMonitorIdleTimeout s := rfl
@[simp] theorem exec_monitorBoot (s : State) : exec .monitorBoot s = execMonitorBoot s := rfl
@[simp] theorem exec_monitorLog n (s : State) : exec (.monitorLog n) s = execMonitorLog n s := rfl
@[simp] theorem exec_monitorOdRead index sub (s : State) : exec (.monitorOdRead index sub) s = execMonitorOdRead index sub s := rfl
@[simp] theorem exec_monitorOdWrite index sub value len (s : State) : exec (.monitorOdWrite index sub value len) s = execMonitorOdWrite index sub value len s := rfl
@[simp] theorem exec_monitorVintage (s : State) : exec .monitorVintage s = execMonitorVintage s := rfl
@[simp] theorem exec_monitorSlots c (s : State) : exec (.monitorSlots c) s = execMonitorSlots c s := rfl
@[simp] theorem exec_monitorTrain c (s : State) : exec (.monitorTrain c) s = execMonitorTrain c s := rfl
@[simp] theorem exec_monitorPeek p addr len (s : State) : exec (.monitorPeek p addr len) s = execMonitorPeek p addr len s := rfl
@[simp] theorem exec_monitorPoke p addr value (s : State) : exec (.monitorPoke p addr value) s = execMonitorPoke p addr value s := rfl
@[simp] theorem exec_monitorSlotSelect b (s : State) : exec (.monitorSlotSelect b) s = execMonitorSlotSelect b s := rfl
@[simp] theorem exec_monitorLoad img (s : State) : exec (.monitorLoad img) s = execMonitorLoad img s := rfl
@[simp] theorem exec_hdmDecoderCommit port k commit base size ways granularity position skip (s : State) : exec (.hdmDecoderCommit port k commit base size ways granularity position skip) s = execHdmDecoderCommit port k commit base size ways granularity position skip s := rfl
@[simp] theorem exec_completionTimeout port engine (s : State) : exec (.completionTimeout port engine) s = execCompletionTimeout port engine s := rfl
@[simp] theorem exec_mgmtLinkChange up (s : State) : exec (.mgmtLinkChange up) s = execMgmtLinkChange up s := rfl
@[simp] theorem exec_dhcpv4Message addr prefixLen gateway (s : State) : exec (.dhcpv4Message addr prefixLen gateway) s = execDhcpv4Message addr prefixLen gateway s := rfl
@[simp] theorem exec_i3cDynamicAddressAssign addr (s : State) : exec (.i3cDynamicAddressAssign addr) s = execI3cDynamicAddressAssign addr s := rfl
@[simp] theorem exec_aspmL1Transition port enter (s : State) : exec (.aspmL1Transition port enter) s = execAspmL1Transition port enter s := rfl
@[simp] theorem exec_currentLimitEnd k (s : State) : exec (.currentLimitEnd k) s = execCurrentLimitEnd k s := rfl
@[simp] theorem exec_corePgRise locked (s : State) : exec (.corePgRise locked) s = execCorePgRise locked s := rfl
@[simp] theorem exec_coreEnRetryWaitEnd (s : State) : exec .coreEnRetryWaitEnd s = execCoreEnRetryWaitEnd s := rfl
@[simp] theorem exec_fwUpdateVerifyDone img (s : State) : exec (.fwUpdateVerifyDone img) s = execFwUpdateVerifyDone img s := rfl
@[simp] theorem exec_quickRetrainRankDone c eyes (s : State) : exec (.quickRetrainRankDone c eyes) s = execQuickRetrainRankDone c eyes s := rfl
@[simp] theorem exec_codebookTableReloadDone p (s : State) : exec (.codebookTableReloadDone p) s = execCodebookTableReloadDone p s := rfl
@[simp] theorem exec_debugPortAccess p write addr data (s : State) : exec (.debugPortAccess p write addr data) s = execDebugPortAccess p write addr data s := rfl

/-- Every command changes the part only and answers a next state. -/
theorem exec_run (c : Instr) : ∃ f : Part → Part, ∀ s, exec c s = s.run f := by
  cases c
  case memRd => exact ⟨_, fun s => by rw [exec_memRd, execMemRd]⟩
  case memSpecRd => exact ⟨_, fun s => by rw [exec_memSpecRd, execMemSpecRd]⟩
  case memInv => exact ⟨_, fun s => by rw [exec_memInv, execMemInv]⟩
  case memWr => exact ⟨_, fun s => by rw [exec_memWr, execMemWr]⟩
  case memWrPtl => exact ⟨_, fun s => by rw [exec_memWrPtl, execMemWrPtl]⟩
  case m2sUnsupportedMessage => exact ⟨_, fun s => by rw [exec_m2sUnsupportedMessage, execM2sUnsupportedMessage]⟩
  case ingressForward => exact ⟨_, fun s => by rw [exec_ingressForward, execIngressForward]⟩
  case promRead => exact ⟨_, fun s => by rw [exec_promRead, execPromRead]⟩
  case promWrite => exact ⟨_, fun s => by rw [exec_promWrite, execPromWrite]⟩
  case promWritePartial => exact ⟨_, fun s => by rw [exec_promWritePartial, execPromWritePartial]⟩
  case promPoisonLine => exact ⟨_, fun s => by rw [exec_promPoisonLine, execPromPoisonLine]⟩
  case promMirrorWrite => exact ⟨_, fun s => by rw [exec_promMirrorWrite, execPromMirrorWrite]⟩
  case promReadData => exact ⟨_, fun s => by rw [exec_promReadData, execPromReadData]⟩
  case promCompletion => exact ⟨_, fun s => by rw [exec_promCompletion, execPromCompletion]⟩
  case promCapacityNotice => exact ⟨_, fun s => by rw [exec_promCapacityNotice, execPromCapacityNotice]⟩
  case promMoveData => exact ⟨_, fun s => by rw [exec_promMoveData, execPromMoveData]⟩
  case promMoveDone => exact ⟨_, fun s => by rw [exec_promMoveDone, execPromMoveDone]⟩
  case promMgmtRequest => exact ⟨_, fun s => by rw [exec_promMgmtRequest, execPromMgmtRequest]⟩
  case promMgmtResponse => exact ⟨_, fun s => by rw [exec_promMgmtResponse, execPromMgmtResponse]⟩
  case promKeyLoad => exact ⟨_, fun s => by rw [exec_promKeyLoad, execPromKeyLoad]⟩
  case promLinkNotice => exact ⟨_, fun s => by rw [exec_promLinkNotice, execPromLinkNotice]⟩
  case stallTimerExpiry => exact ⟨_, fun s => by rw [exec_stallTimerExpiry, execStallTimerExpiry]⟩
  case slotServe => exact ⟨_, fun s => by rw [exec_slotServe, execSlotServe]⟩
  case channelReadData => exact ⟨_, fun s => by rw [exec_channelReadData, execChannelReadData]⟩
  case codecLaneDispatch => exact ⟨_, fun s => by rw [exec_codecLaneDispatch, execCodecLaneDispatch]⟩
  case frameEnd => exact ⟨_, fun s => by rw [exec_frameEnd, execFrameEnd]⟩
  case planningIntervalEnd => exact ⟨_, fun s => by rw [exec_planningIntervalEnd, execPlanningIntervalEnd]⟩
  case planEntryPromote => exact ⟨_, fun s => by rw [exec_planEntryPromote, execPlanEntryPromote]⟩
  case planEntryDemote => exact ⟨_, fun s => by rw [exec_planEntryDemote, execPlanEntryDemote]⟩
  case planEntryCompact => exact ⟨_, fun s => by rw [exec_planEntryCompact, execPlanEntryCompact]⟩
  case planEntryRekey => exact ⟨_, fun s => by rw [exec_planEntryRekey, execPlanEntryRekey]⟩
  case planEntryMoveRegion => exact ⟨_, fun s => by rw [exec_planEntryMoveRegion, execPlanEntryMoveRegion]⟩
  case planEntryMirror => exact ⟨_, fun s => by rw [exec_planEntryMirror, execPlanEntryMirror]⟩
  case pageMoveCommit => exact ⟨_, fun s => by rw [exec_pageMoveCommit, execPageMoveCommit]⟩
  case regionMoveHold => exact ⟨_, fun s => by rw [exec_regionMoveHold, execRegionMoveHold]⟩
  case regionMoveCommit => exact ⟨_, fun s => by rw [exec_regionMoveCommit, execRegionMoveCommit]⟩
  case zeroingComplete => exact ⟨_, fun s => by rw [exec_zeroingComplete, execZeroingComplete]⟩
  case rescueCask => exact ⟨_, fun s => by rw [exec_rescueCask, execRescueCask]⟩
  case scrubPassStart => exact ⟨_, fun s => by rw [exec_scrubPassStart, execScrubPassStart]⟩
  case codebookImageWrite => exact ⟨_, fun s => by rw [exec_codebookImageWrite, execCodebookImageWrite]⟩
  case codebookLoadDone => exact ⟨_, fun s => by rw [exec_codebookLoadDone, execCodebookLoadDone]⟩
  case codebookDrain => exact ⟨_, fun s => by rw [exec_codebookDrain, execCodebookDrain]⟩
  case codebookUnload => exact ⟨_, fun s => by rw [exec_codebookUnload, execCodebookUnload]⟩
  case codebookBuildStart => exact ⟨_, fun s => by rw [exec_codebookBuildStart, execCodebookBuildStart]⟩
  case codebookBuildCancel => exact ⟨_, fun s => by rw [exec_codebookBuildCancel, execCodebookBuildCancel]⟩
  case buildSamplingDone => exact ⟨_, fun s => by rw [exec_buildSamplingDone, execBuildSamplingDone]⟩
  case sliceKeyGenerate => exact ⟨_, fun s => by rw [exec_sliceKeyGenerate, execSliceKeyGenerate]⟩
  case sliceKeyRekey => exact ⟨_, fun s => by rw [exec_sliceKeyRekey, execSliceKeyRekey]⟩
  case sliceKeyImport => exact ⟨_, fun s => by rw [exec_sliceKeyImport, execSliceKeyImport]⟩
  case wrapPeerPublicWrite => exact ⟨_, fun s => by rw [exec_wrapPeerPublicWrite, execWrapPeerPublicWrite]⟩
  case wrapKeyDestroy => exact ⟨_, fun s => by rw [exec_wrapKeyDestroy, execWrapKeyDestroy]⟩
  case rngHealthFail => exact ⟨_, fun s => by rw [exec_rngHealthFail, execRngHealthFail]⟩
  case keyCacheReloadDone => exact ⟨_, fun s => by rw [exec_keyCacheReloadDone, execKeyCacheReloadDone]⟩
  case rekeySweepEnd => exact ⟨_, fun s => by rw [exec_rekeySweepEnd, execRekeySweepEnd]⟩
  case flipArm => exact ⟨_, fun s => by rw [exec_flipArm, execFlipArm]⟩
  case flipDisarm => exact ⟨_, fun s => by rw [exec_flipDisarm, execFlipDisarm]⟩
  case flipTestWrite => exact ⟨_, fun s => by rw [exec_flipTestWrite, execFlipTestWrite]⟩
  case flipTestRead => exact ⟨_, fun s => by rw [exec_flipTestRead, execFlipTestRead]⟩
  case ceTableClear => exact ⟨_, fun s => by rw [exec_ceTableClear, execCeTableClear]⟩
  case dimmTempPoll => exact ⟨_, fun s => by rw [exec_dimmTempPoll, execDimmTempPoll]⟩
  case hammerWindowStart => exact ⟨_, fun s => by rw [exec_hammerWindowStart, execHammerWindowStart]⟩
  case pageOpenLimitExpiry => exact ⟨_, fun s => by rw [exec_pageOpenLimitExpiry, execPageOpenLimitExpiry]⟩
  case rankPowerdownEntry => exact ⟨_, fun s => by rw [exec_rankPowerdownEntry, execRankPowerdownEntry]⟩
  case caParityAlert => exact ⟨_, fun s => by rw [exec_caParityAlert, execCaParityAlert]⟩
  case channelQuickRetrain => exact ⟨_, fun s => by rw [exec_channelQuickRetrain, execChannelQuickRetrain]⟩
  case rankRebuildExtent => exact ⟨_, fun s => by rw [exec_rankRebuildExtent, execRankRebuildExtent]⟩
  case vintageCompileStart => exact ⟨_, fun s => by rw [exec_vintageCompileStart, execVintageCompileStart]⟩
  case vintageCompileDone => exact ⟨_, fun s => by rw [exec_vintageCompileDone, execVintageCompileDone]⟩
  case vintageCheckerDone => exact ⟨_, fun s => by rw [exec_vintageCheckerDone, execVintageCheckerDone]⟩
  case vintageSwapTime => exact ⟨_, fun s => by rw [exec_vintageSwapTime, execVintageSwapTime]⟩
  case vintageBeginBatch => exact ⟨_, fun s => by rw [exec_vintageBeginBatch, execVintageBeginBatch]⟩
  case vintageCommitBatch => exact ⟨_, fun s => by rw [exec_vintageCommitBatch, execVintageCommitBatch]⟩
  case vintageAbortBatch => exact ⟨_, fun s => by rw [exec_vintageAbortBatch, execVintageAbortBatch]⟩
  case vintageBatchTimeout => exact ⟨_, fun s => by rw [exec_vintageBatchTimeout, execVintageBatchTimeout]⟩
  case sliceCheckWindowEnd => exact ⟨_, fun s => by rw [exec_sliceCheckWindowEnd, execSliceCheckWindowEnd]⟩
  case flitReceive => exact ⟨_, fun s => by rw [exec_flitReceive, execFlitReceive]⟩
  case flitTransmit => exact ⟨_, fun s => by rw [exec_flitTransmit, execFlitTransmit]⟩
  case nakReceive => exact ⟨_, fun s => by rw [exec_nakReceive, execNakReceive]⟩
  case linkCreditTimeout => exact ⟨_, fun s => by rw [exec_linkCreditTimeout, execLinkCreditTimeout]⟩
  case linkAckTimeout => exact ⟨_, fun s => by rw [exec_linkAckTimeout, execLinkAckTimeout]⟩
  case linkPhyLost => exact ⟨_, fun s => by rw [exec_linkPhyLost, execLinkPhyLost]⟩
  case linkRetrain => exact ⟨_, fun s => by rw [exec_linkRetrain, execLinkRetrain]⟩
  case linkIdleEnd => exact ⟨_, fun s => by rw [exec_linkIdleEnd, execLinkIdleEnd]⟩
  case linkTrainingDone => exact ⟨_, fun s => by rw [exec_linkTrainingDone, execLinkTrainingDone]⟩
  case linkTrainingFail => exact ⟨_, fun s => by rw [exec_linkTrainingFail, execLinkTrainingFail]⟩
  case pavilionStop => exact ⟨_, fun s => by rw [exec_pavilionStop, execPavilionStop]⟩
  case pavilionStart => exact ⟨_, fun s => by rw [exec_pavilionStart, execPavilionStart]⟩
  case pavilionRetire => exact ⟨_, fun s => by rw [exec_pavilionRetire, execPavilionRetire]⟩
  case pavilionReturn => exact ⟨_, fun s => by rw [exec_pavilionReturn, execPavilionReturn]⟩
  case pavilionFault => exact ⟨_, fun s => by rw [exec_pavilionFault, execPavilionFault]⟩
  case gatehouseHeartbeat => exact ⟨_, fun s => by rw [exec_gatehouseHeartbeat, execGatehouseHeartbeat]⟩
  case heartbeatTimeout => exact ⟨_, fun s => by rw [exec_heartbeatTimeout, execHeartbeatTimeout]⟩
  case rootPllLockLoss => exact ⟨_, fun s => by rw [exec_rootPllLockLoss, execRootPllLockLoss]⟩
  case aonPllLockLoss => exact ⟨_, fun s => by rw [exec_aonPllLockLoss, execAonPllLockLoss]⟩
  case perstAssert => exact ⟨_, fun s => by rw [exec_perstAssert, execPerstAssert]⟩
  case perstDeassert => exact ⟨_, fun s => by rw [exec_perstDeassert, execPerstDeassert]⟩
  case portLinkDown => exact ⟨_, fun s => by rw [exec_portLinkDown, execPortLinkDown]⟩
  case portHotReset => exact ⟨_, fun s => by rw [exec_portHotReset, execPortHotReset]⟩
  case portLinkDisable => exact ⟨_, fun s => by rw [exec_portLinkDisable, execPortLinkDisable]⟩
  case cxlReset => exact ⟨_, fun s => by rw [exec_cxlReset, execCxlReset]⟩
  case functionLevelReset => exact ⟨_, fun s => by rw [exec_functionLevelReset, execFunctionLevelReset]⟩
  case busMasterEnableClear => exact ⟨_, fun s => by rw [exec_busMasterEnableClear, execBusMasterEnableClear]⟩
  case busMasterEnableSet => exact ⟨_, fun s => by rw [exec_busMasterEnableSet, execBusMasterEnableSet]⟩
  case bmWindowWrite => exact ⟨_, fun s => by rw [exec_bmWindowWrite, execBmWindowWrite]⟩
  case portLinkTrained => exact ⟨_, fun s => by rw [exec_portLinkTrained, execPortLinkTrained]⟩
  case pmDStateChange => exact ⟨_, fun s => by rw [exec_pmDStateChange, execPmDStateChange]⟩
  case ideMacFailure => exact ⟨_, fun s => by rw [exec_ideMacFailure, execIdeMacFailure]⟩
  case ideKmRequest => exact ⟨_, fun s => by rw [exec_ideKmRequest, execIdeKmRequest]⟩
  case doeDiscovery => exact ⟨_, fun s => by rw [exec_doeDiscovery, execDoeDiscovery]⟩
  case spdmRequest => exact ⟨_, fun s => by rw [exec_spdmRequest, execSpdmRequest]⟩
  case cdatRead => exact ⟨_, fun s => by rw [exec_cdatRead, execCdatRead]⟩
  case mboxIdentify => exact ⟨_, fun s => by rw [exec_mboxIdentify, execMboxIdentify]⟩
  case mboxGetEventRecords => exact ⟨_, fun s => by rw [exec_mboxGetEventRecords, execMboxGetEventRecords]⟩
  case mboxClearEventRecords => exact ⟨_, fun s => by rw [exec_mboxClearEventRecords, execMboxClearEventRecords]⟩
  case mboxGetEventIntPolicy => exact ⟨_, fun s => by rw [exec_mboxGetEventIntPolicy, execMboxGetEventIntPolicy]⟩
  case mboxSetEventIntPolicy => exact ⟨_, fun s => by rw [exec_mboxSetEventIntPolicy, execMboxSetEventIntPolicy]⟩
  case mboxGetFwInfo => exact ⟨_, fun s => by rw [exec_mboxGetFwInfo, execMboxGetFwInfo]⟩
  case mboxGetTimestamp => exact ⟨_, fun s => by rw [exec_mboxGetTimestamp, execMboxGetTimestamp]⟩
  case mboxSetTimestamp => exact ⟨_, fun s => by rw [exec_mboxSetTimestamp, execMboxSetTimestamp]⟩
  case mboxGetSupportedLogs => exact ⟨_, fun s => by rw [exec_mboxGetSupportedLogs, execMboxGetSupportedLogs]⟩
  case mboxGetLog => exact ⟨_, fun s => by rw [exec_mboxGetLog, execMboxGetLog]⟩
  case mboxIdentifyMemoryDevice => exact ⟨_, fun s => by rw [exec_mboxIdentifyMemoryDevice, execMboxIdentifyMemoryDevice]⟩
  case mboxGetPoisonList => exact ⟨_, fun s => by rw [exec_mboxGetPoisonList, execMboxGetPoisonList]⟩
  case mboxClearPoison => exact ⟨_, fun s => by rw [exec_mboxClearPoison, execMboxClearPoison]⟩
  case mboxGetDcConfiguration => exact ⟨_, fun s => by rw [exec_mboxGetDcConfiguration, execMboxGetDcConfiguration]⟩
  case mboxGetDcExtentList => exact ⟨_, fun s => by rw [exec_mboxGetDcExtentList, execMboxGetDcExtentList]⟩
  case addDcResponse => exact ⟨_, fun s => by rw [exec_addDcResponse, execAddDcResponse]⟩
  case releaseDc => exact ⟨_, fun s => by rw [exec_releaseDc, execReleaseDc]⟩
  case dcReleaseDrained => exact ⟨_, fun s => by rw [exec_dcReleaseDrained, execDcReleaseDrained]⟩
  case mboxVopTransport => exact ⟨_, fun s => by rw [exec_mboxVopTransport, execMboxVopTransport]⟩
  case mboxUnsupported => exact ⟨_, fun s => by rw [exec_mboxUnsupported, execMboxUnsupported]⟩
  case dcRequestAdd => exact ⟨_, fun s => by rw [exec_dcRequestAdd, execDcRequestAdd]⟩
  case dcRequestRelease => exact ⟨_, fun s => by rw [exec_dcRequestRelease, execDcRequestRelease]⟩
  case dcRequestForceRelease => exact ⟨_, fun s => by rw [exec_dcRequestForceRelease, execDcRequestForceRelease]⟩
  case dcOfferTimeout => exact ⟨_, fun s => by rw [exec_dcOfferTimeout, execDcOfferTimeout]⟩
  case tpDoorbellCounterDump => exact ⟨_, fun s => by rw [exec_tpDoorbellCounterDump, execTpDoorbellCounterDump]⟩
  case tpDoorbellSave => exact ⟨_, fun s => by rw [exec_tpDoorbellSave, execTpDoorbellSave]⟩
  case tpDoorbellRestore => exact ⟨_, fun s => by rw [exec_tpDoorbellRestore, execTpDoorbellRestore]⟩
  case counterDumpWritten => exact ⟨_, fun s => by rw [exec_counterDumpWritten, execCounterDumpWritten]⟩
  case sliceCreate => exact ⟨_, fun s => by rw [exec_sliceCreate, execSliceCreate]⟩
  case sliceStart => exact ⟨_, fun s => by rw [exec_sliceStart, execSliceStart]⟩
  case sliceStop => exact ⟨_, fun s => by rw [exec_sliceStop, execSliceStop]⟩
  case sliceFreeze => exact ⟨_, fun s => by rw [exec_sliceFreeze, execSliceFreeze]⟩
  case sliceThaw => exact ⟨_, fun s => by rw [exec_sliceThaw, execSliceThaw]⟩
  case sliceSave => exact ⟨_, fun s => by rw [exec_sliceSave, execSliceSave]⟩
  case sliceRestore => exact ⟨_, fun s => by rw [exec_sliceRestore, execSliceRestore]⟩
  case sliceReset => exact ⟨_, fun s => by rw [exec_sliceReset, execSliceReset]⟩
  case sliceRemove => exact ⟨_, fun s => by rw [exec_sliceRemove, execSliceRemove]⟩
  case sliceCancel => exact ⟨_, fun s => by rw [exec_sliceCancel, execSliceCancel]⟩
  case sliceReoffer => exact ⟨_, fun s => by rw [exec_sliceReoffer, execSliceReoffer]⟩
  case sliceDrainEnd => exact ⟨_, fun s => by rw [exec_sliceDrainEnd, execSliceDrainEnd]⟩
  case sliceClearingDone => exact ⟨_, fun s => by rw [exec_sliceClearingDone, execSliceClearingDone]⟩
  case slicePortWrite => exact ⟨_, fun s => by rw [exec_slicePortWrite, execSlicePortWrite]⟩
  case sliceMigrationIdWrite => exact ⟨_, fun s => by rw [exec_sliceMigrationIdWrite, execSliceMigrationIdWrite]⟩
  case saveBundleSent => exact ⟨_, fun s => by rw [exec_saveBundleSent, execSaveBundleSent]⟩
  case restoreBundleRead => exact ⟨_, fun s => by rw [exec_restoreBundleRead, execRestoreBundleRead]⟩
  case vopOpen => exact ⟨_, fun s => by rw [exec_vopOpen, execVopOpen]⟩
  case vopClose => exact ⟨_, fun s => by rw [exec_vopClose, execVopClose]⟩
  case vopKeepalive => exact ⟨_, fun s => by rw [exec_vopKeepalive, execVopKeepalive]⟩
  case vopRead => exact ⟨_, fun s => by rw [exec_vopRead, execVopRead]⟩
  case vopWrite => exact ⟨_, fun s => by rw [exec_vopWrite, execVopWrite]⟩
  case vopReadBegin => exact ⟨_, fun s => by rw [exec_vopReadBegin, execVopReadBegin]⟩
  case vopReadSegment => exact ⟨_, fun s => by rw [exec_vopReadSegment, execVopReadSegment]⟩
  case vopWriteBegin => exact ⟨_, fun s => by rw [exec_vopWriteBegin, execVopWriteBegin]⟩
  case vopWriteSegment => exact ⟨_, fun s => by rw [exec_vopWriteSegment, execVopWriteSegment]⟩
  case vopTransferEnd => exact ⟨_, fun s => by rw [exec_vopTransferEnd, execVopTransferEnd]⟩
  case vopTransferTimeout => exact ⟨_, fun s => by rw [exec_vopTransferTimeout, execVopTransferTimeout]⟩
  case vopCatalogueRead => exact ⟨_, fun s => by rw [exec_vopCatalogueRead, execVopCatalogueRead]⟩
  case vopSubscribe => exact ⟨_, fun s => by rw [exec_vopSubscribe, execVopSubscribe]⟩
  case vopNotifyAck => exact ⟨_, fun s => by rw [exec_vopNotifyAck, execVopNotifyAck]⟩
  case vopNotifyPoll => exact ⟨_, fun s => by rw [exec_vopNotifyPoll, execVopNotifyPoll]⟩
  case vopClaim => exact ⟨_, fun s => by rw [exec_vopClaim, execVopClaim]⟩
  case vopWakeFrame => exact ⟨_, fun s => by rw [exec_vopWakeFrame, execVopWakeFrame]⟩
  case notifyResend => exact ⟨_, fun s => by rw [exec_notifyResend, execNotifyResend]⟩
  case sessionIdleTimeout => exact ⟨_, fun s => by rw [exec_sessionIdleTimeout, execSessionIdleTimeout]⟩
  case sessionCloseCommand => exact ⟨_, fun s => by rw [exec_sessionCloseCommand, execSessionCloseCommand]⟩
  case rolePeerPublicWrite => exact ⟨_, fun s => by rw [exec_rolePeerPublicWrite, execRolePeerPublicWrite]⟩
  case roleDestroy => exact ⟨_, fun s => by rw [exec_roleDestroy, execRoleDestroy]⟩
  case mgmtApply => exact ⟨_, fun s => by rw [exec_mgmtApply, execMgmtApply]⟩
  case mgmtConfirm => exact ⟨_, fun s => by rw [exec_mgmtConfirm, execMgmtConfirm]⟩
  case mgmtConfirmTimeout => exact ⟨_, fun s => by rw [exec_mgmtConfirmTimeout, execMgmtConfirmTimeout]⟩
  case arpRequest => exact ⟨_, fun s => by rw [exec_arpRequest, execArpRequest]⟩
  case icmpEchoRequest => exact ⟨_, fun s => by rw [exec_icmpEchoRequest, execIcmpEchoRequest]⟩
  case neighbourSolicitation => exact ⟨_, fun s => by rw [exec_neighbourSolicitation, execNeighbourSolicitation]⟩
  case mctpSetEndpointId => exact ⟨_, fun s => by rw [exec_mctpSetEndpointId, execMctpSetEndpointId]⟩
  case mctpGetEndpointId => exact ⟨_, fun s => by rw [exec_mctpGetEndpointId, execMctpGetEndpointId]⟩
  case mctpGetVersionSupport => exact ⟨_, fun s => by rw [exec_mctpGetVersionSupport, execMctpGetVersionSupport]⟩
  case mctpGetMessageTypeSupport => exact ⟨_, fun s => by rw [exec_mctpGetMessageTypeSupport, execMctpGetMessageTypeSupport]⟩
  case mctpGetVendorDefinedSupport => exact ⟨_, fun s => by rw [exec_mctpGetVendorDefinedSupport, execMctpGetVendorDefinedSupport]⟩
  case lodgeGather => exact ⟨_, fun s => by rw [exec_lodgeGather, execLodgeGather]⟩
  case counterReset => exact ⟨_, fun s => by rw [exec_counterReset, execCounterReset]⟩
  case sliceCounterReset => exact ⟨_, fun s => by rw [exec_sliceCounterReset, execSliceCounterReset]⟩
  case counterStoreError => exact ⟨_, fun s => by rw [exec_counterStoreError, execCounterStoreError]⟩
  case ptpMessage => exact ⟨_, fun s => by rw [exec_ptpMessage, execPtpMessage]⟩
  case ptpLossTimeout => exact ⟨_, fun s => by rw [exec_ptpLossTimeout, execPtpLossTimeout]⟩
  case timeSourceWrite => exact ⟨_, fun s => by rw [exec_timeSourceWrite, execTimeSourceWrite]⟩
  case snapshotTick => exact ⟨_, fun s => by rw [exec_snapshotTick, execSnapshotTick]⟩
  case harvestTick => exact ⟨_, fun s => by rw [exec_harvestTick, execHarvestTick]⟩
  case harvestMinuteEnd => exact ⟨_, fun s => by rw [exec_harvestMinuteEnd, execHarvestMinuteEnd]⟩
  case ringEnableWrite => exact ⟨_, fun s => by rw [exec_ringEnableWrite, execRingEnableWrite]⟩
  case snapSetWrite => exact ⟨_, fun s => by rw [exec_snapSetWrite, execSnapSetWrite]⟩
  case armCounterWrite => exact ⟨_, fun s => by rw [exec_armCounterWrite, execArmCounterWrite]⟩
  case laneClockGate => exact ⟨_, fun s => by rw [exec_laneClockGate, execLaneClockGate]⟩
  case pavilionIdleEntry => exact ⟨_, fun s => by rw [exec_pavilionIdleEntry, execPavilionIdleEntry]⟩
  case powerCommandRest => exact ⟨_, fun s => by rw [exec_powerCommandRest, execPowerCommandRest]⟩
  case restAutoDelayExpiry => exact ⟨_, fun s => by rw [exec_restAutoDelayExpiry, execRestAutoDelayExpiry]⟩
  case restAgentAgree => exact ⟨_, fun s => by rw [exec_restAgentAgree, execRestAgentAgree]⟩
  case wakeEvent => exact ⟨_, fun s => by rw [exec_wakeEvent, execWakeEvent]⟩
  case restExitCorePg => exact ⟨_, fun s => by rw [exec_restExitCorePg, execRestExitCorePg]⟩
  case restExitCorePgTimeout => exact ⟨_, fun s => by rw [exec_restExitCorePgTimeout, execRestExitCorePgTimeout]⟩
  case retentionRestoreDone => exact ⟨_, fun s => by rw [exec_retentionRestoreDone, execRetentionRestoreDone]⟩
  case warmMeasurementDone => exact ⟨_, fun s => by rw [exec_warmMeasurementDone, execWarmMeasurementDone]⟩
  case vauxRise => exact ⟨_, fun s => by rw [exec_vauxRise, execVauxRise]⟩
  case vauxFall => exact ⟨_, fun s => by rw [exec_vauxFall, execVauxFall]⟩
  case partResetAssert => exact ⟨_, fun s => by rw [exec_partResetAssert, execPartResetAssert]⟩
  case partResetRelease => exact ⟨_, fun s => by rw [exec_partResetRelease, execPartResetRelease]⟩
  case selfTestDone => exact ⟨_, fun s => by rw [exec_selfTestDone, execSelfTestDone]⟩
  case fwSlotCheckDone => exact ⟨_, fun s => by rw [exec_fwSlotCheckDone, execFwSlotCheckDone]⟩
  case firmwareStartDone => exact ⟨_, fun s => by rw [exec_firmwareStartDone, execFirmwareStartDone]⟩
  case dramTrainingDone => exact ⟨_, fun s => by rw [exec_dramTrainingDone, execDramTrainingDone]⟩
  case hardRepair => exact ⟨_, fun s => by rw [exec_hardRepair, execHardRepair]⟩
  case firstFillDone => exact ⟨_, fun s => by rw [exec_firstFillDone, execFirstFillDone]⟩
  case bootMemoryActive => exact ⟨_, fun s => by rw [exec_bootMemoryActive, execBootMemoryActive]⟩
  case corePgBootTimeout => exact ⟨_, fun s => by rw [exec_corePgBootTimeout, execCorePgBootTimeout]⟩
  case corePgFall => exact ⟨_, fun s => by rw [exec_corePgFall, execCorePgFall]⟩
  case thermalTrip => exact ⟨_, fun s => by rw [exec_thermalTrip, execThermalTrip]⟩
  case presentRawAbsence => exact ⟨_, fun s => by rw [exec_presentRawAbsence, execPresentRawAbsence]⟩
  case presenceDebounced => exact ⟨_, fun s => by rw [exec_presenceDebounced, execPresenceDebounced]⟩
  case absenceDebounced => exact ⟨_, fun s => by rw [exec_absenceDebounced, execAbsenceDebounced]⟩
  case absenceTimerExpiry => exact ⟨_, fun s => by rw [exec_absenceTimerExpiry, execAbsenceTimerExpiry]⟩
  case insertDelayExpiry => exact ⟨_, fun s => by rw [exec_insertDelayExpiry, execInsertDelayExpiry]⟩
  case mainFullyOn => exact ⟨_, fun s => by rw [exec_mainFullyOn, execMainFullyOn]⟩
  case mainRampTimeout => exact ⟨_, fun s => by rw [exec_mainRampTimeout, execMainRampTimeout]⟩
  case mainFastTrip => exact ⟨_, fun s => by rw [exec_mainFastTrip, execMainFastTrip]⟩
  case mainSoaTimerExpiry => exact ⟨_, fun s => by rw [exec_mainSoaTimerExpiry, execMainSoaTimerExpiry]⟩
  case mainRetryWaitEnd => exact ⟨_, fun s => by rw [exec_mainRetryWaitEnd, execMainRetryWaitEnd]⟩
  case mainRetryCountReset => exact ⟨_, fun s => by rw [exec_mainRetryCountReset, execMainRetryCountReset]⟩
  case mainWindowExit => exact ⟨_, fun s => by rw [exec_mainWindowExit, execMainWindowExit]⟩
  case currentLimitStart => exact ⟨_, fun s => by rw [exec_currentLimitStart, execCurrentLimitStart]⟩
  case powerSample => exact ⟨_, fun s => by rw [exec_powerSample, execPowerSample]⟩
  case branchOn => exact ⟨_, fun s => by rw [exec_branchOn, execBranchOn]⟩
  case branchOff => exact ⟨_, fun s => by rw [exec_branchOff, execBranchOff]⟩
  case branchFullyOn => exact ⟨_, fun s => by rw [exec_branchFullyOn, execBranchFullyOn]⟩
  case branchRampTimeout => exact ⟨_, fun s => by rw [exec_branchRampTimeout, execBranchRampTimeout]⟩
  case branchFastTrip => exact ⟨_, fun s => by rw [exec_branchFastTrip, execBranchFastTrip]⟩
  case branchSoaTimerExpiry => exact ⟨_, fun s => by rw [exec_branchSoaTimerExpiry, execBranchSoaTimerExpiry]⟩
  case branchRetryWaitEnd => exact ⟨_, fun s => by rw [exec_branchRetryWaitEnd, execBranchRetryWaitEnd]⟩
  case ageIntegrate => exact ⟨_, fun s => by rw [exec_ageIntegrate, execAgeIntegrate]⟩
  case ringOscillatorSample => exact ⟨_, fun s => by rw [exec_ringOscillatorSample, execRingOscillatorSample]⟩
  case pathDelaySample => exact ⟨_, fun s => by rw [exec_pathDelaySample, execPathDelaySample]⟩
  case seasonEnd => exact ⟨_, fun s => by rw [exec_seasonEnd, execSeasonEnd]⟩
  case maintWindowOpen => exact ⟨_, fun s => by rw [exec_maintWindowOpen, execMaintWindowOpen]⟩
  case maintOpenNow => exact ⟨_, fun s => by rw [exec_maintOpenNow, execMaintOpenNow]⟩
  case maintClose => exact ⟨_, fun s => by rw [exec_maintClose, execMaintClose]⟩
  case maintWindowExpiry => exact ⟨_, fun s => by rw [exec_maintWindowExpiry, execMaintWindowExpiry]⟩
  case wearRecordHourly => exact ⟨_, fun s => by rw [exec_wearRecordHourly, execWearRecordHourly]⟩
  case ceTableScan => exact ⟨_, fun s => by rw [exec_ceTableScan, execCeTableScan]⟩
  case capacityWithdrawal => exact ⟨_, fun s => by rw [exec_capacityWithdrawal, execCapacityWithdrawal]⟩
  case configStoreWrite => exact ⟨_, fun s => by rw [exec_configStoreWrite, execConfigStoreWrite]⟩
  case fwUpdateBegin => exact ⟨_, fun s => by rw [exec_fwUpdateBegin, execFwUpdateBegin]⟩
  case fwUpdateData => exact ⟨_, fun s => by rw [exec_fwUpdateData, execFwUpdateData]⟩
  case fwUpdateVerify => exact ⟨_, fun s => by rw [exec_fwUpdateVerify, execFwUpdateVerify]⟩
  case fwUpdateAbort => exact ⟨_, fun s => by rw [exec_fwUpdateAbort, execFwUpdateAbort]⟩
  case fwSvnCommit => exact ⟨_, fun s => by rw [exec_fwSvnCommit, execFwSvnCommit]⟩
  case fwKeyRevoke => exact ⟨_, fun s => by rw [exec_fwKeyRevoke, execFwKeyRevoke]⟩
  case debugUnlock => exact ⟨_, fun s => by rw [exec_debugUnlock, execDebugUnlock]⟩
  case monitorHelp => exact ⟨_, fun s => by rw [exec_monitorHelp, execMonitorHelp]⟩
  case monitorLogin => exact ⟨_, fun s => by rw [exec_monitorLogin, execMonitorLogin]⟩
  case monitorLogout => exact ⟨_, fun s => by rw [exec_monitorLogout, execMonitorLogout]⟩
  case monitorLoginLockExpiry => exact ⟨_, fun s => by rw [exec_monitorLoginLockExpiry, execMonitorLoginLockExpiry]⟩
  case monitorIdleTimeout => exact ⟨_, fun s => by rw [exec_monitorIdleTimeout, execMonitorIdleTimeout]⟩
  case monitorBoot => exact ⟨_, fun s => by rw [exec_monitorBoot, execMonitorBoot]⟩
  case monitorLog => exact ⟨_, fun s => by rw [exec_monitorLog, execMonitorLog]⟩
  case monitorOdRead => exact ⟨_, fun s => by rw [exec_monitorOdRead, execMonitorOdRead]⟩
  case monitorOdWrite => exact ⟨_, fun s => by rw [exec_monitorOdWrite, execMonitorOdWrite]⟩
  case monitorVintage => exact ⟨_, fun s => by rw [exec_monitorVintage, execMonitorVintage]⟩
  case monitorSlots => exact ⟨_, fun s => by rw [exec_monitorSlots, execMonitorSlots]⟩
  case monitorTrain => exact ⟨_, fun s => by rw [exec_monitorTrain, execMonitorTrain]⟩
  case monitorPeek => exact ⟨_, fun s => by rw [exec_monitorPeek, execMonitorPeek]⟩
  case monitorPoke => exact ⟨_, fun s => by rw [exec_monitorPoke, execMonitorPoke]⟩
  case monitorSlotSelect => exact ⟨_, fun s => by rw [exec_monitorSlotSelect, execMonitorSlotSelect]⟩
  case monitorLoad => exact ⟨_, fun s => by rw [exec_monitorLoad, execMonitorLoad]⟩
  case hdmDecoderCommit => exact ⟨_, fun s => by rw [exec_hdmDecoderCommit, execHdmDecoderCommit]⟩
  case completionTimeout => exact ⟨_, fun s => by rw [exec_completionTimeout, execCompletionTimeout]⟩
  case mgmtLinkChange => exact ⟨_, fun s => by rw [exec_mgmtLinkChange, execMgmtLinkChange]⟩
  case dhcpv4Message => exact ⟨_, fun s => by rw [exec_dhcpv4Message, execDhcpv4Message]⟩
  case i3cDynamicAddressAssign => exact ⟨_, fun s => by rw [exec_i3cDynamicAddressAssign, execI3cDynamicAddressAssign]⟩
  case aspmL1Transition => exact ⟨_, fun s => by rw [exec_aspmL1Transition, execAspmL1Transition]⟩
  case currentLimitEnd => exact ⟨_, fun s => by rw [exec_currentLimitEnd, execCurrentLimitEnd]⟩
  case corePgRise => exact ⟨_, fun s => by rw [exec_corePgRise, execCorePgRise]⟩
  case coreEnRetryWaitEnd => exact ⟨_, fun s => by rw [exec_coreEnRetryWaitEnd, execCoreEnRetryWaitEnd]⟩
  case fwUpdateVerifyDone => exact ⟨_, fun s => by rw [exec_fwUpdateVerifyDone, execFwUpdateVerifyDone]⟩
  case quickRetrainRankDone => exact ⟨_, fun s => by rw [exec_quickRetrainRankDone, execQuickRetrainRankDone]⟩
  case codebookTableReloadDone => exact ⟨_, fun s => by rw [exec_codebookTableReloadDone, execCodebookTableReloadDone]⟩
  case debugPortAccess => exact ⟨_, fun s => by rw [exec_debugPortAccess, execDebugPortAccess]⟩

/-- One step answers a next state and takes the front off the queue. -/
theorem step_run (s : State) : ∃ p, step s = .next ⟨s.pending.tail, p⟩ := by
  obtain ⟨l, q⟩ := s
  cases l with
  | nil => exact ⟨q.tick, rfl⟩
  | cons c r =>
    obtain ⟨f, h⟩ := exec_run c
    exact ⟨f q, h ⟨r, q⟩⟩

end Sys2Proof.Machine
end

