-- ==== Sys2Proof/Laws/Path.lean ====
section
/-!
SUPPORT. What the operations of a request's path may change: the slice decoder, credits and partitions, the promenade, the
answers to the host, forwarding and the hold list.
-/

namespace Sys2Proof.Machine

theorem Part.only_ite {c : Prop} [Decidable c] {l : List PartField} {s a b : Part} (h : Part.only l s a)
    (k : Part.only l s b) : Part.only l s (if c then a else b) := by split <;> assumption

/-- A change of one field only, as a record update: closed by cases on the field. -/
theorem Part.only_log (s : Part) (c a b : Nat) (sl : Option Nat) (pav : Nat) : Part.only logFields s (s.logEv c a b sl pav) :=
  (LogFrame.logEv s c a b sl pav).only

theorem Part.only_transmit (s : Part) (a b c : Nat) (m : Msg) : Part.only [.links] s (s.transmit a b c m) :=
  s.only_onLink _ _

theorem Part.only_send (s : Part) (a c : Nat) (m : Msg) : Part.only [.links, .pavs] s (s.send a c m) := by
  unfold Part.send
  split
  · exact Part.only_mono (s.only_onPav _ _) (by simp)
  · split
    · exact Part.only_mono (s.only_transmit _ _ _ _) (by simp)
    · exact Part.only_ite (Part.only_refl _ _) (Part.only_mono (s.only_onLink _ _) (by simp))

theorem Part.only_sendVia (s : Part) (a c v : Nat) (m : Msg) : Part.only [.links, .pavs] s (s.sendVia a c v m) := by
  unfold Part.sendVia
  split
  · exact s.only_send _ _ _
  · exact Part.only_ite (Part.only_mono (s.only_transmit _ _ _ _) (by simp)) (s.only_send _ _ _)

theorem Part.only_respond (s : Part) (m : Msg) (st d : Nat) : Part.only [.links, .pavs] s (s.respond m st d) :=
  s.only_send _ _ _

theorem Part.only_wakePav (s : Part) (p : Nat) : Part.only [.dict] s (s.wakePav p) := by
  unfold Part.wakePav
  refine Part.only_ite ?_ (Part.only_refl _ _)
  exact Part.only_ite (Part.only_trans (s.only_setOd _ _ _) (Part.only_setOd _ _ _ _)) (s.only_setOd _ _ _)

theorem Part.only_maskTouch (s : Part) (i r : Nat) : Part.only [.ports, .delta] s (s.maskTouch i r) := by
  unfold Part.maskTouch
  refine Part.only_trans ?_ (Part.only_mono (Part.only_onPort _ _ _) (by simp))
  exact Part.only_ite (Part.only_refl _ _) (Part.only_mono (s.only_count _ _ _) (by simp))

theorem Part.only_decode (s : Part) (i hpa : Nat) : Part.only [.ports, .delta] s (s.decode i hpa).1 := by
  unfold Part.decode
  split
  · exact Part.only_refl _ _
  · dsimp only
    split
    · exact Part.only_refl _ _
    · split
      · exact s.only_maskTouch _ _
      · exact s.only_maskTouch _ _

theorem Part.only_answerHost (s : Part) (r : Req) (d : Nat) (b : Bool) : Part.only [.out] s (s.answerHost r d b) := by
  unfold Part.answerHost
  split
  · exact Part.only_refl _ _
  · split
    · exact s.only_emit _
    · exact Part.only_refl _ _
    · exact s.only_emit _

theorem Part.only_spendCredit (s : Part) (i : Nat) (d : Bool) : Part.only [.ports, .dict] s (s.spendCredit i d).1 := by
  unfold Part.spendCredit
  dsimp only
  split <;> split <;>
    first
    | exact Part.only_mono (s.only_setOd _ _ _) (by simp)
    | exact Part.only_mono (s.only_onPort _ _) (by simp)

theorem Part.only_giveCredit (s : Part) (i : Nat) (d : Bool) : Part.only logFields s (s.giveCredit i d) := by
  unfold Part.giveCredit
  dsimp only
  refine Part.only_ite (Part.only_mono (s.only_onPort _ _) (by decide)) ?_
  refine Part.only_ite ?_ (Part.only_mono (s.only_onPort _ _) (by decide))
  exact Part.only_trans (Part.only_trans (Part.only_mono (s.only_onPort _ _) (by decide))
    (Part.only_mono (Part.only_count _ _ _ _) (by decide))) (Part.only_log _ _ _ _ _ _)

theorem Part.only_onPart (s : Part) (i sl : Nat) (f : Partition → Partition) : Part.only [.ports] s (s.onPart i sl f) :=
  s.only_onPort _ _

/-- A partition after a change of one, and every other. -/
theorem Part.part_onPart (s : Part) (i sl : Nat) (f : Partition → Partition) (j k : Nat) :
    (s.onPart i sl f).part j k = if i = j ∧ sl = k then f (s.part i sl) else s.part j k := by
  unfold Part.part Part.onPart
  rw [Part.onPort_port]
  by_cases h : i = j
  · subst h
    simp only [if_true, true_and, Sparse.get_modify]
  · simp [h]

theorem Part.only_returnCredits (s : Part) (i : Nat) : Part.only [.ports] s (s.returnCredits i) := by
  unfold Part.returnCredits
  dsimp only
  exact Part.only_ite (Part.only_refl _ _) (s.only_onPort _ _)

theorem Part.only_unpark (s : Part) (i sl : Nat) : Part.only [.ports, .dict] s (s.unpark i sl) := by
  unfold Part.unpark
  dsimp only
  refine Part.only_ite (Part.only_refl _ _) ?_
  refine Part.only_trans ?_ (Part.only_mono (Part.only_returnCredits _ _) (by simp))
  refine Part.only_trans ?_ (Part.only_mono (Part.only_setOd _ _ _ _) (by simp))
  exact Part.only_mono (Part.only_trans (s.only_onPort _ _) (Part.only_onPart _ _ _ _)) (by simp)

theorem Part.only_enqueue (s : Part) (r : Req) : Part.only [.ports, .dict, .delta] s (s.enqueue r) := by
  unfold Part.enqueue
  dsimp only
  refine Part.only_ite ?_ (Part.only_mono (s.only_onPart _ _ _) (by simp))
  refine Part.only_trans ?_ (Part.only_mono (Part.only_setOd _ _ _ _) (by simp))
  exact Part.only_trans (Part.only_mono (s.only_onPort _ _) (by simp)) (Part.only_mono (Part.only_count _ _ _ _) (by simp))

theorem Part.only_refillMeters (s : Part) (i sl : Nat) : Part.only [.ports] s (s.refillMeters i sl) := s.only_onPart _ _ _

theorem Part.only_newTag (s : Part) (p : Nat) : Part.only [.pavs] s (s.newTag p).2 := s.only_onPav _ _

theorem Part.only_synthetic (s : Part) (r : Req) : Part.only [.delta, .out] s (s.synthetic r) := by
  unfold Part.synthetic
  dsimp only
  refine Part.only_trans ?_ (Part.only_mono (Part.only_answerHost _ _ _ _) (by simp))
  exact Part.only_ite (Part.only_mono (s.only_count _ _ _) (by simp)) (Part.only_refl _ _)

/-- The fields that forwarding a request may change. -/
def forwardFields : List PartField := [.pavs, .links, .ports, .dict, .delta, .out]

theorem Part.only_forward (s : Part) (r : Req) (st : Nat) (mark : Fwd → Fwd) : Part.only forwardFields s (s.forward r st mark) := by
  unfold Part.forward
  dsimp only
  split
  · exact Part.only_mono (s.only_synthetic r) (by decide)
  · refine Part.only_ite (Part.only_mono (s.only_synthetic r) (by decide)) ?_
    refine Part.only_trans ?_ (Part.only_mono (Part.only_sendVia _ _ _ _ _) (by decide))
    refine Part.only_trans ?_ (Part.only_mono (Part.only_wakePav _ _) (by decide))
    exact Part.only_trans (Part.only_mono (s.only_newTag _) (by decide)) (Part.only_mono (Part.only_onPart _ _ _ _) (by decide))

theorem Part.only_dropFwd (s : Part) (i sl tag : Nat) : Part.only [.ports, .dict] s (s.dropFwd i sl tag) :=
  Part.only_trans (Part.only_mono (s.only_onPart _ _ _) (by simp)) (Part.only_unpark _ _ _)

theorem Part.only_releaseHold (s : Part) (i sl lp : Nat) : Part.only [.ports] s (s.releaseHold i sl lp) := by
  unfold Part.releaseHold
  split
  · exact Part.only_refl _ _
  · exact s.only_onPart _ _ _

theorem Part.only_resendHold (s : Part) (i sl lp st : Nat) : Part.only forwardFields s (s.resendHold i sl lp st) := by
  unfold Part.resendHold
  split
  · exact Part.only_refl _ _
  · split
    · exact Part.only_refl _ _
    · exact Part.only_trans (Part.only_mono (s.only_onPart _ _ _) (by decide)) (Part.only_forward _ _ _ _)

theorem Part.only_hammerWindow (s : Part) (c : Nat) : Part.only (.chans :: forwardFields) s (s.hammerWindow c) := by
  unfold Part.hammerWindow
  dsimp only
  refine Part.only_trans ?_ (Part.only_iter (fun s i => Part.only_iter (fun s e => Part.only_iter (fun s f => ?_) _ _) _ _) _ _)
  · exact Part.only_mono (s.only_onChan _ _) (by decide)
  · exact Part.only_trans (Part.only_mono (s.only_onPart _ _ _) (by decide))
      (Part.only_mono (Part.only_forward _ _ _ _) (by decide))

theorem Part.only_msix (s : Part) (i v : Nat) : Part.only [.ports, .out] s (s.msix i v) := by
  unfold Part.msix
  exact Part.only_ite (Part.only_mono (Part.only_emit _ _) (by simp)) (Part.only_mono (Part.only_onPort _ _ _) (by simp))

theorem Part.only_eventSignal (s : Part) (i log : Nat) : Part.only [.ports, .out] s (s.eventSignal i log) := by
  unfold Part.eventSignal
  dsimp only
  refine Part.only_ite (Part.only_refl _ _) ?_
  split
  · exact s.only_msix _ _
  · exact Part.only_ite (Part.only_mono (Part.only_emit _ _) (by simp)) (Part.only_mono (Part.only_onPort _ _ _) (by simp))
  · exact Part.only_mono (Part.only_emit _ _) (by simp)

/-- An event record of a port's log changes the ports and what is sent. -/
theorem Part.only_eventRec (s : Part) (i log : Nat) (r : EventRec) : Part.only [.ports, .out] s (s.eventRec i log r) := by
  unfold Part.eventRec
  dsimp only
  exact Part.only_trans (Part.only_mono (s.only_onPort _ _) (by simp)) (Part.only_eventSignal _ _ _)

theorem Part.only_vendorEvent (s : Part) (i log code : Nat) (sl : Option Nat) (pav dpa la a b d : Nat) :
    Part.only [.ports, .out] s (s.vendorEvent i log code sl pav dpa la a b d) := s.only_eventRec _ _ _

theorem Part.only_alarm (s : Part) (a : Alarm) (sl pav va vb : Nat) : Part.only logFields s (s.alarm a sl pav va vb) := by
  unfold Part.alarm
  dsimp only
  refine Part.only_trans ?_ (Part.only_log _ _ _ _ _ _)
  split
  · exact Part.only_mono (s.only_vendorEvent _ _ _ _ _ _ _ _ _ _) (by decide)
  · exact Part.only_refl _ _

theorem Part.only_heldAlarm (s : Part) (sl pav : Nat) : Part.only (.pavs :: logFields) s (s.heldAlarm sl pav) := by
  unfold Part.heldAlarm
  dsimp only
  refine Part.only_ite (Part.only_mono (s.only_onPav _ _) (by decide)) ?_
  exact Part.only_ite (Part.only_trans (Part.only_mono (s.only_onPav _ _) (by decide))
    (Part.only_mono (Part.only_alarm _ _ _ _ _ _) (by decide))) (Part.only_refl _ _)

/-- An alarm of held writes leaves every stored value but those of the rings. -/
theorem Part.keepsOd_heldAlarm (s : Part) (sl pav : Nat) : Part.keepsOd [.ringState] s (s.heldAlarm sl pav) := by
  have h : ∀ (t : Part) (n l : Nat), Part.keepsOd [.ringState] t (t.alarm .held sl pav n l) := fun t n l => by
    unfold Part.alarm
    dsimp only
    refine Part.keepsOd_trans ?_ (Part.keepsOd_logEv _ _ _ _ _ _)
    split
    · exact Part.keepsOd_of_only (Part.only_vendorEvent _ _ _ _ _ _ _ _ _ _ _) (by decide)
    · exact Part.keepsOd_refl _ _
  unfold Part.heldAlarm
  extract_lets key on n
  have ho : ∀ f : PavState → PavState, Part.keepsOd [.ringState] s (s.onPav 0 f) := fun f =>
    Part.keepsOd_of_only (s.only_onPav 0 f) (by decide)
  exact Part.keepsOd_ite (ho _) (Part.keepsOd_ite (Part.keepsOd_trans (ho _) (h _ _ _)) (Part.keepsOd_refl _ _))

end Sys2Proof.Machine
end

