-- ==== Sys2Proof/Laws/Ports.lean ====
section
/-!
SUPPORT. What the resets of a host port, the end of bundle transfers and the closing of windows may change.
-/

namespace Sys2Proof.Machine

/-- What bundle transfers that end leave of the part: everything but these fields. -/
def bundleFields : List PartField := .slices :: .pavs :: .vint :: logFields

/-- The entries that bundle transfers that end may write. -/
def bundleEntries : List Entry := [.ringState, .sliceSaveResult, .sliceRestoreResult]

/-- A change that leaves of every port all but its rings, pending vectors and event logs. -/
def Part.keepsPorts (a b : Part) : Prop := ∀ i, ∃ r m l, b.port i = { a.port i with rings := r, msixPending := m, logs := l }

theorem Part.keepsPorts_refl (a : Part) : Part.keepsPorts a a := fun _ => ⟨_, _, _, rfl⟩

theorem Part.keepsPorts_trans {a b c : Part} (h : Part.keepsPorts a b) (k : Part.keepsPorts b c) : Part.keepsPorts a c :=
  fun i => by
    obtain ⟨r, m, l, h1⟩ := h i
    obtain ⟨r', m', l', h2⟩ := k i
    exact ⟨r', m', l', by rw [h2, h1]⟩

theorem Part.keepsPorts_of_only {fs : List PartField} {a b : Part} (h : Part.only fs a b) (hp : PartField.ports ∉ fs) :
    Part.keepsPorts a b := fun i => by
  have : b.ports = a.ports := h .ports hp
  exact ⟨(a.port i).rings, (a.port i).msixPending, (a.port i).logs, by unfold Part.port; rw [this]⟩

theorem Part.keepsPorts_iter {α : Type} {f : Part → α → Part} (h : ∀ s a, Part.keepsPorts s (f s a)) (xs : List α)
    (s : Part) : Part.keepsPorts s (iter xs s f) := by
  induction xs generalizing s with
  | nil => exact Part.keepsPorts_refl s
  | cons x xs ih => exact Part.keepsPorts_trans (h s x) (ih (f s x))

/-- A change of the shape of the end of a bundle transfer: fields, entries and ports. -/
structure BundleFrame (a b : Part) : Prop where
  only : Part.only bundleFields a b
  od : Part.keepsOd bundleEntries a b
  ports : Part.keepsPorts a b
  held : b.gate.held = a.gate.held

theorem BundleFrame.refl (a : Part) : BundleFrame a a := ⟨Part.only_refl _ _, Part.keepsOd_refl _ _, Part.keepsPorts_refl _, rfl⟩

theorem BundleFrame.trans {a b c : Part} (h : BundleFrame a b) (k : BundleFrame b c) : BundleFrame a c :=
  ⟨Part.only_trans h.only k.only, Part.keepsOd_trans h.od k.od, Part.keepsPorts_trans h.ports k.ports, k.held.trans h.held⟩

theorem BundleFrame.iter {α : Type} {f : Part → α → Part} (xs : List α) (s : Part)
    (h : ∀ s a, a ∈ xs → BundleFrame s (f s a)) : BundleFrame s (iter xs s f) := by
  induction xs generalizing s with
  | nil => exact BundleFrame.refl s
  | cons x xs ih => exact (h s x (by simp)).trans (ih (f s x) fun s a ha => h s a (List.mem_cons_of_mem _ ha))

theorem BundleFrame.ite {c : Prop} [Decidable c] {s a b : Part} (h : BundleFrame s a) (k : BundleFrame s b) :
    BundleFrame s (if c then a else b) := by split <;> assumption

theorem BundleFrame.of_only {fs : List PartField} {a b : Part} (h : Part.only fs a b) (hf : ∀ f ∈ fs, f ∈ bundleFields)
    (hd : PartField.dict ∉ fs) (hp : PartField.ports ∉ fs) (hg : PartField.gate ∉ fs) : BundleFrame a b :=
  ⟨Part.only_mono h hf, Part.keepsOd_of_only h hd, Part.keepsPorts_of_only h hp, congrArg GateState.held (h .gate hg)⟩

theorem BundleFrame.of_log {a b : Part} (h : LogFrame a b) : BundleFrame a b :=
  ⟨Part.only_mono h.only (by decide), fun e i he hi => h.od e i (fun q => he (by simp [bundleEntries, q])) hi,
    fun i => by obtain ⟨r, m, e⟩ := h.port i; exact ⟨r, m, (a.port i).logs, e⟩, h.held⟩

theorem BundleFrame.onSlice (s : Part) (k : Nat) (f : SliceState → SliceState) : BundleFrame s (s.onSlice k f) :=
  .of_only (s.only_onSlice k f) (by decide) (by decide) (by decide) (by decide)

theorem BundleFrame.setOd (s : Part) {e : Entry} (i v : Nat) (hi : i < 65536) (he : e ∈ bundleEntries) :
    BundleFrame s (s.setOd e i v) :=
  ⟨Part.only_mono (s.only_setOd _ _ _) (by decide), Part.keepsOd_setOd s i v hi he,
    Part.keepsPorts_of_only (s.only_setOd _ _ _) (by decide), rfl⟩

theorem BundleFrame.endDoorbell (s : Part) (sl : Nat) (b : Bool) (r : Nat) : BundleFrame s (s.endDoorbell sl b r) := by
  unfold Part.endDoorbell
  exact .ite (.onSlice _ _ _) (.refl s)

theorem BundleFrame.markExt (s : Part) (sl le : Nat) (b : Bool) : BundleFrame s (s.markExt sl le b) := by
  unfold Part.markExt
  split
  · exact .of_only (s.only_onPav _ _) (by decide) (by decide) (by decide) (by decide)
  · exact .refl s

theorem BundleFrame.endSave (s : Part) (sl r : Nat) (h : sl < 65536) : BundleFrame s (s.endSave sl r) := by
  unfold Part.endSave
  split
  · exact .refl s
  · dsimp only
    refine BundleFrame.trans ?_ (.endDoorbell _ _ _ _)
    refine BundleFrame.trans ?_ (.setOd _ _ _ h (by decide))
    refine BundleFrame.trans ?_ (.onSlice _ _ _)
    exact BundleFrame.iter _ _ fun s _ _ => .markExt s _ _ _

theorem BundleFrame.endRestore (s : Part) (sl r : Nat) (h : sl < 65536) : BundleFrame s (s.endRestore sl r) := by
  unfold Part.endRestore
  split
  · exact .refl s
  · dsimp only
    refine BundleFrame.trans ?_ (.endDoorbell _ _ _ _)
    refine BundleFrame.trans ?_ (.of_log (LogFrame.logEv _ _ _ _ _ _))
    exact BundleFrame.trans (.onSlice _ _ _) (.setOd _ _ _ h (by decide))

theorem BundleFrame.cancelBundle (s : Part) (sl : Nat) (h : sl < 65536) : BundleFrame s (s.cancelBundle sl) := by
  unfold Part.cancelBundle
  split
  · exact .refl s
  · split
    · exact .endSave s sl 6 h
    · dsimp only
      refine BundleFrame.trans ?_ (.endRestore _ sl 12 h)
      exact .of_only (fs := [.vint]) (fun f hf => by cases f <;> first | rfl | simp at hf) (by decide) (by decide) (by decide) (by decide)

theorem Part.boundTo_lt {s : Part} {i sl : Nat} (h : sl ∈ s.boundTo i) : sl < 65536 := by
  have := (List.mem_filter.mp h).1
  simp only [Part.allSlices, List.mem_map, List.mem_filter, Bool.and_eq_true, decide_eq_true_eq] at this
  obtain ⟨e, h, rfl⟩ := this
  omega

theorem BundleFrame.busMasterStop (s : Part) (i : Nat) : BundleFrame s (s.busMasterStop i) :=
  BundleFrame.iter _ _ fun s _ h => .cancelBundle s _ (Part.boundTo_lt h)

theorem BundleFrame.windowsChanged (s : Part) (i : Nat) (hi : i < 65536) : BundleFrame s (s.windowsChanged i) := by
  unfold Part.windowsChanged
  extract_lets s1
  have h1 : BundleFrame s s1 := BundleFrame.iter _ _ fun s r _ => .ite (.of_log (LogFrame.ringFault s i r hi)) (.refl s)
  refine h1.trans ?_
  refine BundleFrame.iter _ _ fun s sl h => ?_
  have hl := Part.boundTo_lt h
  dsimp only
  split
  · exact .refl s
  · exact .ite (.refl s) (.ite (.endRestore s sl 10 hl) (.endSave s sl 5 hl))

/-! ## Alarms and dropped requests -/

theorem Part.keepsPorts_onPort (s : Part) (i : Nat) (f : PortState → PortState)
    (h : ∃ r m l, f (s.port i) = { s.port i with rings := r, msixPending := m, logs := l }) : Part.keepsPorts s (s.onPort i f) := by
  intro j
  rw [Part.onPort_port]
  split
  · next e => subst e; exact h
  · exact ⟨_, _, _, rfl⟩

theorem Part.keepsPorts_ite {c : Prop} [Decidable c] {s a b : Part} (h : Part.keepsPorts s a) (k : Part.keepsPorts s b) :
    Part.keepsPorts s (if c then a else b) := by split <;> assumption

theorem Part.keepsPorts_emit (s : Part) (o : Output) : Part.keepsPorts s (s.emit o) :=
  Part.keepsPorts_of_only (s.only_emit o) (by decide)

theorem Part.keepsPorts_eventSignal (s : Part) (i log : Nat) : Part.keepsPorts s (s.eventSignal i log) := by
  unfold Part.eventSignal
  dsimp only
  refine Part.keepsPorts_ite (Part.keepsPorts_refl s) ?_
  split
  · unfold Part.msix
    exact Part.keepsPorts_ite (s.keepsPorts_emit _) (s.keepsPorts_onPort _ _ ⟨_, _, _, rfl⟩)
  · exact Part.keepsPorts_ite (s.keepsPorts_emit _) (s.keepsPorts_onPort _ _ ⟨_, _, _, rfl⟩)
  · exact s.keepsPorts_emit _

theorem Part.keepsPorts_eventRec (s : Part) (i log : Nat) (r : EventRec) : Part.keepsPorts s (s.eventRec i log r) := by
  unfold Part.eventRec
  dsimp only
  exact Part.keepsPorts_trans (s.keepsPorts_onPort _ _ ⟨_, _, _, rfl⟩) (Part.keepsPorts_eventSignal _ _ _)

/-- A change of the shape of an alarm, a fault or a bundle's end. -/
theorem BundleFrame.alarm (s : Part) (a : Alarm) (sl pav va vb : Nat) : BundleFrame s (s.alarm a sl pav va vb) := by
  unfold Part.alarm
  dsimp only
  refine BundleFrame.trans ?_ (.of_log (LogFrame.logEv _ _ _ _ _ _))
  split
  · exact ⟨Part.only_mono (s.only_eventRec _ _ _) (by decide), Part.keepsOd_of_only (s.only_eventRec _ _ _) (by decide),
      s.keepsPorts_eventRec _ _ _, congrArg GateState.held (s.only_eventRec _ _ _ .gate (by decide))⟩
  · exact .refl s

theorem BundleFrame.onPav (s : Part) (k : Nat) (f : PavState → PavState) : BundleFrame s (s.onPav k f) :=
  .of_only (s.only_onPav k f) (by decide) (by decide) (by decide) (by decide)

theorem BundleFrame.count (s : Part) (e : Entry) (k n : Nat) : BundleFrame s (s.count e k n) :=
  .of_only (s.only_count e k n) (by decide) (by decide) (by decide) (by decide)

theorem BundleFrame.heldAlarm (s : Part) (sl pav : Nat) : BundleFrame s (s.heldAlarm sl pav) := by
  unfold Part.heldAlarm
  dsimp only
  exact .ite (.onPav _ _ _) (.ite ((BundleFrame.onPav _ _ _).trans (.alarm _ _ _ _ _ _)) (.refl s))

/-! ## Resets -/

/-- Requests not forwarded are dropped: nothing waits at the port, and what is left of it stays. -/
theorem Part.dropUnforwarded_spec (s : Part) (i : Nat) (hi : i < 65536) :
    Part.only (.ports :: bundleFields) s (s.dropUnforwarded i) ∧
    Part.keepsOd (.ingressParkedNow :: bundleEntries) s (s.dropUnforwarded i) ∧
    ∃ parts : Sparse Partition, (∀ e ∈ parts, e.2.queue = [] ∧ e.2.hold = []) ∧
      ∃ r m l, (s.dropUnforwarded i).port i = { s.port i with parts := parts, park := [], rings := r, msixPending := m, logs := l } := by
  unfold Part.dropUnforwarded
  extract_lets t waiting n gone s1 s2 s3 s4
  have h1 : (s1.port i) = { s.port i with park := [], parts := (s.port i).parts.map fun e => (e.1, { e.2 with queue := [], hold := [], forwarded := e.2.forwarded.filter fun f => !waiting f }) } := by
    simp [s1]
  have o1 : Part.only [.ports] s s1 := s.only_onPort _ _
  have o2 : Part.only [.pavs] s1 s2 := Part.only_iter (fun s a => Part.only_iter (fun s g => s.only_onPav _ _) _ _) _ _
  have o3 : Part.only [.dict] s2 s3 := Part.only_setOd _ _ _ _
  have o4 : BundleFrame s3 s4 := .ite (.refl _) (.count _ _ _ _)
  have o5 : BundleFrame s4 (iter (gone.map (·.1)).eraseDups s4 fun s sl => s.heldAlarm sl (portPav i)) :=
    .iter _ _ fun s a _ => .heldAlarm s a _
  have k := o4.trans o5
  refine ⟨?_, ?_, ⟨(s1.port i).parts, ?_, ?_⟩⟩
  · refine Part.only_trans (Part.only_mono o1 (by decide)) (Part.only_trans (Part.only_mono o2 (by decide)) (Part.only_trans (Part.only_mono o3 (by decide)) (Part.only_mono k.only (by decide))))
  · refine Part.keepsOd_trans (Part.keepsOd_of_only o1 (by decide)) (Part.keepsOd_trans (Part.keepsOd_of_only o2 (by decide)) (Part.keepsOd_trans (Part.keepsOd_setOd _ _ _ hi (by decide)) (Part.keepsOd_mono k.od (by decide))))
  · rw [h1]; intro e he; simp at he; obtain ⟨a, b, _, rfl⟩ := he; exact ⟨rfl, rfl⟩
  · obtain ⟨r, m, l, e⟩ := k.ports i
    refine ⟨r, m, l, ?_⟩
    rw [e]
    have e3 : s3.port i = s1.port i := by
      have := (Part.only_trans (Part.only_mono o2 (l' := [.pavs, .dict]) (by decide)) (Part.only_mono o3 (by decide))) .ports (by decide)
      simp only [PartField.same] at this
      unfold Part.port; rw [this]
    rw [e3, h1]

/-- The link leaves service. -/
theorem Part.linkLost_spec (s : Part) (i x : Nat) (hi : i < 65536) (hx : x < 256) :
    Part.only logFields s (s.linkLost i x) ∧
    Part.keepsOd [.portLinkSpeed, .portLinkWidth, .portFlitMode, .portState, .ringState] s (s.linkLost i x) ∧
    (s.linkLost i x).od .portState i = x ∧ (s.linkLost i x).od .portLinkSpeed i = 0 ∧ (s.linkLost i x).od .portLinkWidth i = 0 ∧
    ∃ r m, (s.linkLost i x).port i = { s.port i with heldReq := 512, heldDat := 512, owedReq := 0, owedDat := 0, inL1 := false, rings := r, msixPending := m } := by
  unfold Part.linkLost
  extract_lets st was s1 s2
  have o1 : Part.only [.dict] s s1 :=
    Part.only_trans (Part.only_trans (Part.only_trans (s.only_setOd _ _ _) (Part.only_setOd _ _ _ _)) (Part.only_setOd _ _ _ _)) (Part.only_setOd _ _ _ _)
  have k1 : Part.keepsOd [.portLinkSpeed, .portLinkWidth, .portFlitMode, .portState, .ringState] s s1 :=
    Part.keepsOd_trans (Part.keepsOd_trans (Part.keepsOd_trans (Part.keepsOd_setOd _ _ _ hi (by decide)) (Part.keepsOd_setOd _ _ _ hi (by decide))) (Part.keepsOd_setOd _ _ _ hi (by decide))) (Part.keepsOd_setOd _ _ _ hi (by decide))
  have o2 : Part.only [.ports] s1 s2 := s1.only_onPort _ _
  have p2 : s2.port i = { s.port i with heldReq := 512, heldDat := 512, owedReq := 0, owedDat := 0, inL1 := false } := by
    simp [s2, s1]
  have v1 : s1.od .portState i = x := by simp [s1, EntryInfo.bytes, Entry.info]; omega
  have v2 : s1.od .portLinkSpeed i = 0 := by
    simp only [s1]
    rw [Part.od_setOd_entry _ _ hi hi (by decide), Part.od_setOd_entry _ _ hi hi (by decide), Part.od_setOd_entry _ _ hi hi (by decide)]
    simp
  have v3 : s1.od .portLinkWidth i = 0 := by
    simp only [s1]
    rw [Part.od_setOd_entry _ _ hi hi (by decide), Part.od_setOd_entry _ _ hi hi (by decide)]
    simp
  have fin : ∀ q, LogFrame s2 q → Part.only logFields s q ∧
    Part.keepsOd [.portLinkSpeed, .portLinkWidth, .portFlitMode, .portState, .ringState] s q ∧
    q.od .portState i = x ∧ q.od .portLinkSpeed i = 0 ∧ q.od .portLinkWidth i = 0 ∧
    ∃ r m, q.port i = { s.port i with heldReq := 512, heldDat := 512, owedReq := 0, owedDat := 0, inL1 := false, rings := r, msixPending := m } := by
    intro q hq
    refine ⟨Part.only_trans (Part.only_mono o1 (by decide)) (Part.only_trans (Part.only_mono o2 (by decide)) hq.only), ?_, ?_, ?_, ?_, ?_⟩
    · exact Part.keepsOd_trans k1 (Part.keepsOd_trans (Part.keepsOd_of_only o2 (by decide)) fun e j he hj => hq.od e j (fun h => he (by simp [h])) hj)
    · rw [hq.od _ _ (by decide) hi]; exact v1
    · rw [hq.od _ _ (by decide) hi]; exact v2
    · rw [hq.od _ _ (by decide) hi]; exact v3
    · obtain ⟨r, m, e⟩ := hq.port i
      exact ⟨r, m, by rw [e, p2]⟩
  split
  · exact fin _ ((LogFrame.count s2 _ _ _).trans (.logEv _ _ _ _ _ _))
  · exact fin _ (.refl s2)

/-- What a conventional reset of a port in service leaves. -/
theorem Part.conventional_spec (s : Part) (i : Port) (x : Nat) (hx : x < 256) (h : s.od .portState i ≠ 0) :
    ∀ p, p = s.conventional i x →
      (p.port i).decoders = [] ∧ (p.port i).park = [] ∧
      (∀ e ∈ (p.port i).parts, e.2.queue = [] ∧ e.2.hold = []) ∧
      (p.port i).windows = [] ∧ (p.port i).bme = false ∧ (p.port i).mboxBusy = none ∧ (p.port i).spdm = 0 ∧
      (p.port i).heldReq = 512 ∧ (p.port i).heldDat = 512 ∧
      (p.port i).regionMap = (s.port i).regionMap ∧ (p.port i).masks = (s.port i).masks ∧
      p.od .portEpoch i = (s.od .portEpoch i + 1) % 2 ^ 32 ∧
      p.od .portState i = x ∧ p.od .portLinkSpeed i = 0 ∧ p.od .portLinkWidth i = 0 ∧ p.od .portDState i = 0 ∧
      (∀ sl < 4096, p.od .sliceState sl = s.od .sliceState sl) ∧
      (s.od .ideState i ≠ 1 → p.od .ideState i = s.od .ideState i ∧ (p.port i).ideKeys = (s.port i).ideKeys) ∧
      Part.only [.dict, .delta, .ports, .slices, .pavs, .vint, .log, .logNext, .gate, .out, .freeCtr] s p := by
  have hi : (i : Nat) < 65536 := by omega
  intro p hp
  unfold Part.conventional at hp
  rw [if_neg h] at hp
  unfold Part.memReset Part.clearWindows at hp
  rw [Part.modOd_eq] at hp
  -- the pieces
  generalize e1 : s.setOd .portEpoch i (s.od .portEpoch i + 1) = a1 at hp
  generalize e2 : (a1.onPort i fun t => { t with decoders := [] }) = a2 at hp
  generalize e3 : a2.dropUnforwarded i = a3 at hp
  generalize e4 : a3.linkLost i x = a4 at hp
  dsimp only at hp
  generalize e5 : (a4.onPort i fun t => { t with bme := false }) = a5 at hp
  generalize e6 : a5.busMasterStop i = a6 at hp
  generalize e7 : (a6.onPort i fun t => { t with windows := [] }) = a7 at hp
  generalize e8 : a7.windowsChanged i = a8 at hp
  generalize e9 : (a8.onPort i fun t => { t with mboxVector := 0, mboxBusy := none, policy := [0, 0, 0, 0, 0], msixMask := 0, msixPending := 0, pmeEn := false, spdm := 0, bars := [] }) = a9 at hp
  generalize e10 : a9.setOd .portDState i 0 = a10 at hp
  generalize e11 : a10.setOd .spdmSessions i 0 = a11 at hp
  obtain ⟨o3, k3, parts, hparts, r3, m3, l3, p3⟩ := e3 ▸ Part.dropUnforwarded_spec a2 i hi
  obtain ⟨o4, k4, v4, v5, v6, r4, m4, p4⟩ := e4 ▸ Part.linkLost_spec a3 i x hi hx
  have f6 : BundleFrame a5 a6 := e6 ▸ .busMasterStop a5 i
  have f8 : BundleFrame a7 a8 := e8 ▸ .windowsChanged a7 i hi
  obtain ⟨r6, m6, l6, p6⟩ := f6.ports i
  obtain ⟨r8, m8, l8, p8⟩ := f8.ports i
  let L : List PartField := [.dict, .delta, .ports, .slices, .pavs, .vint, .log, .logNext, .gate, .out, .freeCtr]
  have ho11 : Part.only L s a11 := by
    refine Part.only_trans (b := a2) ?_ ?_
    · rw [← e2, ← e1]; exact Part.only_trans (Part.only_mono (s.only_setOd _ _ _) (by decide)) (Part.only_mono (Part.only_onPort _ _ _) (by decide))
    refine Part.only_trans (Part.only_mono o3 (by decide)) (Part.only_trans (Part.only_mono o4 (by decide)) ?_)
    refine Part.only_trans (b := a5) (e5 ▸ Part.only_mono (a4.only_onPort _ _) (by decide)) ?_
    refine Part.only_trans (Part.only_mono f6.only (by decide)) ?_
    refine Part.only_trans (b := a7) (e7 ▸ Part.only_mono (a6.only_onPort _ _) (by decide)) ?_
    refine Part.only_trans (Part.only_mono f8.only (by decide)) ?_
    refine Part.only_trans (b := a9) (e9 ▸ Part.only_mono (a8.only_onPort _ _) (by decide)) ?_
    refine Part.only_trans (b := a10) (e10 ▸ Part.only_mono (a9.only_setOd _ _ _) (by decide)) ?_
    exact e11 ▸ Part.only_mono (a10.only_setOd _ _ _) (by decide)
  -- stored values after the link is lost
  let E : List Entry := [.portDState, .spdmSessions, .ringState, .sliceSaveResult, .sliceRestoreResult]
  have k411 : Part.keepsOd E a4 a11 := by
    refine Part.keepsOd_trans (b := a5) (e5 ▸ Part.keepsOd_of_only (a4.only_onPort _ _) (by decide)) ?_
    refine Part.keepsOd_trans (Part.keepsOd_mono f6.od (by decide)) ?_
    refine Part.keepsOd_trans (b := a7) (e7 ▸ Part.keepsOd_of_only (a6.only_onPort _ _) (by decide)) ?_
    refine Part.keepsOd_trans (Part.keepsOd_mono f8.od (by decide)) ?_
    refine Part.keepsOd_trans (b := a9) (e9 ▸ Part.keepsOd_of_only (a8.only_onPort _ _) (by decide)) ?_
    refine Part.keepsOd_trans (b := a10) (e10 ▸ Part.keepsOd_setOd _ _ _ hi (by decide)) ?_
    exact e11 ▸ Part.keepsOd_setOd _ _ _ hi (by decide)
  have k14 : Part.keepsOd (.portLinkSpeed :: .portLinkWidth :: .portFlitMode :: .portState :: .ingressParkedNow :: bundleEntries) a1 a4 := by
    refine Part.keepsOd_trans (b := a2) (e2 ▸ Part.keepsOd_of_only (a1.only_onPort _ _) (by decide)) ?_
    exact Part.keepsOd_trans (Part.keepsOd_mono k3 (by decide)) (Part.keepsOd_mono k4 (by decide))
  have d11 : a11.od .portDState i = 0 := by
    rw [← e11, Part.od_setOd_entry _ _ hi hi (by decide), ← e10]; simp
  have pt11 : ∃ r l, a11.port i = { s.port i with
      decoders := [], parts := parts, park := [], heldReq := 512, heldDat := 512, owedReq := 0, owedDat := 0, inL1 := false,
      bme := false, windows := [], mboxVector := 0, mboxBusy := none, policy := [0, 0, 0, 0, 0], msixMask := 0, msixPending := 0,
      pmeEn := false, spdm := 0, bars := [], rings := r, logs := l } := by
    refine ⟨r8, l8, ?_⟩
    rw [← e11, ← e10]
    simp only [Part.setOd_port]
    rw [← e9, Part.onPort_port_self, p8, ← e7, Part.onPort_port_self, p6, ← e5, Part.onPort_port_self, p4, p3, ← e2, Part.onPort_port_self, ← e1]
    rfl
  -- the end
  have fin : ∀ q, q.dict = a11.dict ∨ q = a11.setOd .ideState i 0 ∨ (q = (a11.onPort i fun t => { t with ideKeys := 0 }).setOd .ideState i 0) → Part.keepsOd [.ideState] a11 q := by
    rintro q (h | rfl | rfl)
    · intro e j _ _; simp [Part.od, h]
    · exact Part.keepsOd_setOd _ _ _ hi (by decide)
    · exact Part.keepsOd_trans (Part.keepsOd_of_only (a11.only_onPort _ _) (by decide)) (Part.keepsOd_setOd _ _ _ hi (by decide))
  have kp : Part.keepsOd [.ideState] a11 p := by
    rw [hp]; split
    · exact fin _ (.inr (.inr rfl))
    · exact fin _ (.inl rfl)
  have op : Part.only L a11 p := by
    rw [hp]
    exact Part.only_ite (Part.only_trans (Part.only_mono (a11.only_onPort _ _) (by decide)) (Part.only_mono (Part.only_setOd _ _ _ _) (by decide))) (Part.only_refl _ _)
  have pp : ∃ k, p.port i = { a11.port i with ideKeys := k } := by
    rw [hp]; split
    · exact ⟨0, by simp⟩
    · exact ⟨_, rfl⟩
  obtain ⟨r, l, e11'⟩ := pt11
  have ide11 : a11.od .ideState i = s.od .ideState i := by
    rw [k411 _ _ (by decide) hi, k14 _ _ (by decide) hi, ← e1, Part.od_setOd_entry _ _ hi hi (by decide)]
  have ide : s.od .ideState i ≠ 1 → p.od .ideState i = s.od .ideState i ∧ (p.port i).ideKeys = (s.port i).ideKeys := by
    intro hn
    have : p = a11 := by rw [hp, if_neg (by rw [ide11]; exact hn)]
    rw [this, e11']
    exact ⟨ide11, rfl⟩
  obtain ⟨kk, pp⟩ := pp
  rw [e11'] at pp
  refine ⟨by rw [pp], by rw [pp], by rw [pp]; exact hparts, by rw [pp], by rw [pp], by rw [pp], by rw [pp], by rw [pp], by rw [pp], by rw [pp], by rw [pp], ?_, ?_, ?_, ?_, ?_, ?_, ide, Part.only_trans ho11 op⟩
  · rw [kp _ _ (by decide) hi, k411 _ _ (by decide) hi, k14 _ _ (by decide) hi, ← e1, Part.od_setOd_self]; rfl
  · rw [kp _ _ (by decide) hi, k411 _ _ (by decide) hi, v4]
  · rw [kp _ _ (by decide) hi, k411 _ _ (by decide) hi, v5]
  · rw [kp _ _ (by decide) hi, k411 _ _ (by decide) hi, v6]
  · rw [kp _ _ (by decide) hi, d11]
  · intro sl hsl
    have hs : sl < 65536 := by omega
    rw [kp _ _ (by decide) hs, k411 _ _ (by decide) hs, k14 _ _ (by decide) hs, ← e1, Part.od_setOd_entry _ _ hi hs (by decide)]

/-- Outside REST a wake event is latched at most. -/
theorem Part.wakeEvent_spec (s : Part) (k : Nat) (h : s.rest.inRest = false) : Part.only [.rest] s (s.wakeEvent k) := by
  unfold Part.wakeEvent
  split
  · intro f hf; cases f <;> first | rfl | simp at hf
  · rw [if_neg (by simp [h])]; exact Part.only_refl _ _

end Sys2Proof.Machine
end

