-- ==== Sys2Proof/Laws/Store.lean ====
section
/-!
SUPPORT. What the operations over a pavilion's storage leave as they are: the entries of the cellar book, ownership, key
sets, and the plan.
-/

namespace Sys2Proof.Machine

/-- The lowest FREE extent depends on the dictionary, the layers and the ownership table only. -/
theorem Part.freeExt_congr {a b : Part} (p : Nat) (h1 : b.dict = a.dict) (h2 : b.flash = a.flash) (h3 : b.boot = a.boot)
    (h4 : (b.pav p).own = (a.pav p).own) : b.freeExt p = a.freeExt p := by
  unfold Part.freeExt Part.taken Part.layersAll Part.layerLost Part.geom Part.od
  simp only [h1, h2, h3, h4]

/-- An ownership entry depends on the dictionary, the layers and the ownership table only. -/
theorem Part.ownOf_congr {a b : Part} (p x : Nat) (h1 : b.dict = a.dict) (h2 : b.flash = a.flash) (h3 : b.boot = a.boot)
    (h4 : (b.pav p).own = (a.pav p).own) : b.ownOf p x = a.ownOf p x := by
  unfold Part.ownOf Part.layerLost Part.geom Part.od
  simp only [h1, h2, h3, h4]

/-- Where the plan's head may run, nothing of the entry before it is moving. -/
theorem Part.planHead_idle {s : Part} {p a : Nat} {e : PlanEnt} {t : Part} (h : s.planHead p a = some (e, t)) :
    (t.pav p).moves = [] ∧ (t.pav p).regionMove = none := by
  unfold Part.planHead at h
  split at h
  · cases h
  · split at h
    · split at h
      · next hc =>
        simp only [Option.some.injEq, Prod.mk.injEq] at h
        rw [← h.2, Part.onPav_pav_self]
        simp only [Bool.and_eq_true, List.isEmpty_iff, Option.isNone_iff_eq_none] at hc
        exact ⟨hc.1.2, hc.2⟩
      · cases h
    · cases h

/-- A message changes of the pavilions the inbox of its receiver at most. -/
theorem Part.send_keeps {α : Type} (g : PavState → α) (h : ∀ v l, g { v with inbox := l } = g v) (s : Part) (a c q : Nat) (m : Msg) :
    g ((s.send a c m).pav q) = g (s.pav q) := by
  unfold Part.send
  split
  · rw [Part.onPav_pav]
    split
    · next hq => subst hq; exact h _ _
    · rfl
  · split
    · rfl
    · split <;> rfl

/-- A message leaves the cellar book as it is. -/
theorem Part.cell_send (s : Part) (a c : Nat) (m : Msg) (q sl lp : Nat) : (s.send a c m).cell q sl lp = s.cell q sl lp := by
  unfold Part.cell Part.blank Part.slice
  rw [Part.send_keeps (fun v => v.cellar) fun _ _ => rfl, show (s.send a c m).slices = s.slices from s.only_send a c m .slices (by decide)]

/-- A change of a pavilion that keeps its cellar book keeps every entry. -/
theorem Part.cell_onPav (s : Part) (p sl lp k : Nat) (f : PavState → PavState) (h : ∀ v, (f v).cellar = v.cellar) :
    (s.onPav k f).cell p sl lp = s.cell p sl lp := by
  unfold Part.cell
  rw [Part.onPav_pav]
  split <;> rename_i hh
  · subst hh; rw [h]; rfl
  · rfl

/-- The charge of a request's bursts takes tokens of its slice at most. -/
theorem Part.classFor_spec (s : Part) (p sl d n : Nat) : (s.classFor p sl d n).2 = s ∨
    ∃ t, (s.classFor p sl d n).2 = s.onPav p fun v => { v with tokens := v.tokens.set 0 (sl * 2 + d) t } := by
  unfold Part.classFor
  dsimp only
  split
  · exact .inr ⟨_, rfl⟩
  · exact .inl rfl

/-- A write of one of the part's own lines changes the channel's queues, and of the pavilions the tokens of one slice at most. -/
theorem Part.putOwnLine_spec (s : Part) (p x who sl lp : Nat) : Part.only [.pavs, .chans] s (s.putOwnLine p x who sl lp) ∧
    ∀ q, ∃ k : Sparse Nat, (s.putOwnLine p x who sl lp).pav q = { s.pav q with tokens := k } := by
  unfold Part.putOwnLine
  extract_lets c k
  split
  · exact ⟨Part.only_refl _ _, fun q => ⟨(s.pav q).tokens, rfl⟩⟩
  · have hk : Part.only [.pavs, .chans] s k.2 ∧ ∀ q, ∃ t : Sparse Nat, k.2.pav q = { s.pav q with tokens := t } := by
      unfold k
      split
      · obtain e | ⟨f, e⟩ := s.classFor_spec p who 1 1
        · rw [e]; exact ⟨Part.only_refl _ _, fun q => ⟨(s.pav q).tokens, rfl⟩⟩
        rw [e]
        refine ⟨Part.only_mono (s.only_onPav _ _) (by decide), fun q => ?_⟩
        rw [Part.onPav_pav]
        split
        · next hq => subst hq; exact ⟨_, rfl⟩
        · exact ⟨_, rfl⟩
      · split <;> exact ⟨Part.only_refl _ _, fun q => ⟨(s.pav q).tokens, rfl⟩⟩
    exact ⟨Part.only_trans hk.1 (Part.only_mono (Part.only_onChan _ _ _) (by decide)), hk.2⟩

/-- A write of one of the part's own lines leaves the cellar book as it is. -/
theorem Part.cell_putOwnLine (s : Part) (p x who a b q sl lp : Nat) : (s.putOwnLine p x who a b).cell q sl lp = s.cell q sl lp := by
  obtain ⟨o, h⟩ := s.putOwnLine_spec p x who a b
  obtain ⟨t, e⟩ := h q
  unfold Part.cell Part.blank Part.slice
  rw [e, show (s.putOwnLine p x who a b).slices = s.slices from o .slices (by decide)]

/-- What the write of an entry changes: its pavilion's cellar book there, tokens, and the queues of a channel. -/
theorem Part.setCell_spec (s : Part) (p sl lp : Nat) (c : Cell) (who : Nat) : Part.only [.pavs, .chans] s (s.setCell p sl lp c who) ∧
    (s.setCell p sl lp c who).cell p sl lp = c ∧ ((s.setCell p sl lp c who).pav p).moves = (s.pav p).moves := by
  have h : (s.onPav p fun v => { v with cellar := v.cellar.set (s.blank sl lp) (pageKey sl lp) c }).cell p sl lp = c := by
    unfold Part.cell
    rw [Part.onPav_pav_self]
    show (Sparse.set _ _ _ _).get (s.blank sl lp) _ = _
    rw [Sparse.get_set, if_pos rfl]
  unfold Part.setCell
  dsimp only
  split
  · obtain ⟨o, k⟩ := Part.putOwnLine_spec (s.onPav p fun v => { v with cellar := v.cellar.set (s.blank sl lp) (pageKey sl lp) c })
      p ‹_› who sl lp
    refine ⟨Part.only_trans (Part.only_mono (s.only_onPav _ _) (by decide)) o, (Part.cell_putOwnLine _ _ _ _ _ _ _ _ _).trans h, ?_⟩
    obtain ⟨t, e⟩ := k p
    rw [e, Part.onPav_pav_self]
  · exact ⟨Part.only_mono (s.only_onPav _ _) (by decide), h, by rw [Part.onPav_pav_self]⟩

/-- A commit of the engines writes the entry and leaves the moves alone; a mirror copy goes out as a message. -/
theorem Part.commit_spec (s : Part) (p sl lp : Nat) (c : Cell) (who : Nat) :
    Part.only [.links, .pavs, .chans] s (s.commit p sl lp c who) ∧
    (s.commit p sl lp c who).cell p sl lp = c ∧ ((s.commit p sl lp c who).pav p).moves = (s.pav p).moves := by
  obtain ⟨o, h, m⟩ := s.setCell_spec p sl lp c who
  have o' := Part.only_mono o (l' := [.links, .pavs, .chans]) (by decide)
  unfold Part.commit
  dsimp only
  split
  · unfold Part.sendMirror
    refine ⟨Part.only_trans o' (Part.only_mono (Part.only_send _ _ _ _) (by decide)), ?_, ?_⟩
    · rw [Part.cell_send]; exact h
    · rw [Part.send_keeps (fun v => v.moves) fun _ _ => rfl]; exact m
  · exact ⟨o', h, m⟩

/-- An ageing flag's settling leaves the cellar book as it is. -/
theorem Part.cell_settleFlag (s : Part) (p sl lp g t : Nat) : (s.settleFlag p sl g t).cell p sl lp = s.cell p sl lp := by
  unfold Part.settleFlag
  split
  · exact Part.cell_onPav _ _ _ _ _ _ fun _ => rfl
  · rfl

/-- A heat flag leaves the cellar book as it is. -/
theorem Part.cell_heatFlag (s : Part) (p sl lp k t : Nat) : (s.heatFlag p sl k t).cell p sl lp = s.cell p sl lp := by
  unfold Part.heatFlag
  split
  · rfl
  · exact Part.cell_onPav _ _ _ _ _ _ fun _ => rfl

/-- The same change of every pavilion. -/
theorem Part.pav_iterAll (s : Part) (f : PavState → PavState) (p : Nat) (hp : p < 8) :
    (iter allPavs s fun t k => t.onPav k f).pav p = f (s.pav p) := by
  have : allPavs = [0, 1, 2, 3, 4, 5, 6, 7] := rfl
  rw [this]
  simp only [iter, List.foldl, Part.onPav_pav]
  rcases p with _ | _ | _ | _ | _ | _ | _ | _ | p <;> first | rfl | omega

/-- A fold of changes to pavilions changes nothing but pavilions. -/
theorem Part.only_iterPav {α : Type} (f : α → Nat) (g : α → PavState → PavState) (l : List α) (s : Part) :
    Part.only [.pavs] s (iter l s fun t x => t.onPav (f x) (g x)) :=
  Part.only_iter (fun _ _ => Part.only_onPav _ _ _) _ _

/-- Destroying a key set: no key, the generation up by 1 if it was live, its handle 0. -/
theorem Part.destroySet_spec (s : Part) (sl slot : Nat) (hs : sl < 65536) :
    Part.only [.dict, .pavs, .keys] s (s.destroySet sl slot) ∧
    Part.keepsOd [handleEntry slot, .keystoreUsed] s (s.destroySet sl slot) ∧
    ∀ k, (s.destroySet sl slot).keys.sets.get KeySet.zero k =
      if setIndex sl slot = k then
        ⟨false, if (s.keySet sl slot).live then ((s.keySet sl slot).gen + 1) % 256 else (s.keySet sl slot).gen, 0, 0, 0⟩
      else s.keys.sets.get KeySet.zero k := by
  unfold Part.destroySet
  extract_lets ix live sk s0 s1 s2
  have o1 : Part.only [.keys] s s1 := fun f hf => by cases f <;> first | rfl | simp at hf
  have o2 : Part.only [.pavs] s1 s2 := Part.only_iterPav (fun p => p) _ _ _
  refine ⟨?_, ?_, ?_⟩
  · exact Part.only_trans (Part.only_trans (Part.only_mono o1 (by decide)) (Part.only_mono o2 (by decide)))
      (Part.only_trans (Part.only_mono (Part.only_setOd _ _ _ _) (by decide)) (Part.only_mono (Part.only_setOd _ _ _ _) (by decide)))
  · refine Part.keepsOd_trans (Part.keepsOd_trans (Part.keepsOd_of_only o1 (by decide)) (Part.keepsOd_of_only o2 (by decide)))
      (Part.keepsOd_trans (b := s2.setOd (handleEntry slot) sl 0) ?_ ?_)
    · exact Part.keepsOd_setOd _ _ _ hs (by simp)
    · exact Part.keepsOd_setOd _ _ _ (by omega) (by simp)
  · intro k
    show s2.keys.sets.get _ k = _
    rw [show s2.keys = s1.keys from o2 .keys (by decide)]
    exact Sparse.get_modify KeySet.zero s.keys.sets ix
      (fun q => ⟨false, if live then (q.gen + 1) % 256 else q.gen, 0, 0, 0⟩) k

end Sys2Proof.Machine
end

