-- ==== Sys2Proof/Laws/Grants.lean ====
section
/-!
SUPPORT. What giving an extent back can change (spec/02 R90), said once: the storage of its pavilion, the counts of casks and of
poisoned lines, the queue of compiles; of the slices' grants only the extent's own bit, and of the ports nothing.
-/

namespace Sys2Proof.Machine

set_option Elab.async false

/-- The entries that freeing storage can change. -/
def giveEntries : List Entry := [.sliceLinesPoisoned, .codebookCasks, .casksRaw, .sliceCasksRaw, .codebookState]

/-- The fields that freeing storage can change. -/
def giveFields : List PartField := [.dict, .pavs, .vint, .slices, .chans, .links]

/-- What freeing storage leaves: every other field, every other entry, the grants of every slice, the vintage in force. -/
structure GiveFrame (a b : Part) : Prop where
  only : Part.only giveFields a b
  od : Part.keepsOd giveEntries a b
  grants : ∀ k, (b.slice k).grants = (a.slice k).grants
  force : b.vint.inForce = a.vint.inForce

theorem GiveFrame.refl (a : Part) : GiveFrame a a := ⟨Part.only_refl _ _, Part.keepsOd_refl _ _, fun _ => rfl, rfl⟩

theorem GiveFrame.trans {a b c : Part} (h : GiveFrame a b) (k : GiveFrame b c) : GiveFrame a c :=
  ⟨Part.only_trans h.only k.only, Part.keepsOd_trans h.od k.od, fun i => (k.grants i).trans (h.grants i), k.force.trans h.force⟩

theorem GiveFrame.ite {c : Prop} [Decidable c] {s a b : Part} (h : GiveFrame s a) (k : GiveFrame s b) :
    GiveFrame s (if c then a else b) := by split <;> assumption

theorem GiveFrame.iter {α : Type} {f : Part → α → Part} (xs : List α) (s : Part) (h : ∀ s a, a ∈ xs → GiveFrame s (f s a)) :
    GiveFrame s (iter xs s f) := by
  induction xs generalizing s with
  | nil => exact .refl s
  | cons x xs ih => exact (h s x (by simp)).trans (ih (f s x) fun s a ha => h s a (List.mem_cons_of_mem _ ha))

theorem GiveFrame.of_only {l : List PartField} {a b : Part} (h : Part.only l a b) (hl : ∀ f ∈ l, f ∈ giveFields)
    (hd : PartField.dict ∉ l) (hs : PartField.slices ∉ l) (hv : PartField.vint ∉ l := by decide) : GiveFrame a b :=
  ⟨Part.only_mono h hl, Part.keepsOd_of_only h hd, fun k => by
    unfold Part.slice; rw [show b.slices = a.slices from h .slices hs], congrArg VintState.inForce (h .vint hv)⟩

theorem GiveFrame.onPav (s : Part) (k : Nat) (f : PavState → PavState) : GiveFrame s (s.onPav k f) :=
  .of_only (s.only_onPav k f) (by decide) (by decide) (by decide)

theorem GiveFrame.setOd (s : Part) {e : Entry} (i v : Nat) (he : e ∈ giveEntries) : GiveFrame s (s.setOd e i v) :=
  ⟨Part.only_mono (s.only_setOd _ _ _) (by decide), Part.keepsOd_setAny _ _ _ he, fun _ => rfl, rfl⟩

theorem GiveFrame.setOwn (s : Part) (p ext : Nat) (o : Own) : GiveFrame s (s.setOwn p ext o) := .onPav _ _ _

theorem GiveFrame.setTag (s : Part) (p x : Nat) (e : TagEnt) : GiveFrame s (s.setTag p x e) :=
  (GiveFrame.onPav s p _).trans (.of_only (Part.putOwnLine_spec _ _ _ _ _ _).1 (by decide) (by decide) (by decide))

theorem GiveFrame.markUsed (s : Part) (p ext k : Nat) (on : Bool) : GiveFrame s (s.markUsed p ext k on) :=
  (GiveFrame.onPav s p _).trans (.setOwn _ _ _ _)

theorem GiveFrame.toZeroing (s : Part) (p ext : Nat) : GiveFrame s (s.toZeroing p ext) :=
  (GiveFrame.onPav s p _).trans (.setOwn _ _ _ _)

theorem GiveFrame.askCompact (s : Part) (p sl : Nat) : GiveFrame s (s.askCompact p sl) := by
  unfold Part.askCompact
  dsimp only
  refine .ite (.refl s) ⟨fun f hf => ?_, Part.keepsOd_of_only (l := giveEntries) (fs := [.vint]) (fun f hf => ?_) (by decide), fun _ => rfl, rfl⟩
  · cases f <;> first | rfl | (exfalso; revert hf; decide)
  · cases f <;> first | rfl | (exfalso; revert hf; decide)

/-- Freeing a place asks for a compile at most. -/
theorem Part.only_freePlace (s : Part) (p ext k : Nat) : Part.only [.pavs, .vint] s (s.freePlace p ext k) := by
  have mu : ∀ (u : Part) a b c d, Part.only [.pavs, .vint] u (u.markUsed a b c d) := fun u a b c d =>
    Part.only_mono (Part.only_trans (u.only_onPav _ _) (Part.only_onPav _ _ _)) (by decide)
  have tz : ∀ (u : Part) a b, Part.only [.pavs, .vint] u (u.toZeroing a b) := fun u a b =>
    Part.only_mono (Part.only_trans (u.only_onPav _ _) (Part.only_onPav _ _ _)) (by decide)
  have ask : ∀ (u : Part) a b, Part.only [.pavs, .vint] u (u.askCompact a b) := fun u a b => by
    unfold Part.askCompact
    dsimp only
    refine Part.only_ite (Part.only_refl _ _) fun f hf => ?_
    cases f <;> first | rfl | (exfalso; revert hf; decide)
  unfold Part.freePlace
  extract_lets o a b c t d
  have ha := mu s p ext k false
  have hb : Part.only [.pavs, .vint] s b := Part.only_ite (Part.only_trans ha (ask _ _ _)) ha
  have hc : Part.only [.pavs, .vint] s c := Part.only_trans hb (tz _ _ _)
  have hd : Part.only [.pavs, .vint] s d := Part.only_trans hc (mu _ _ _ _ _)
  clear_value b c d
  exact Part.only_ite (Part.only_refl _ _) (Part.only_ite hb (Part.only_ite hc (Part.only_ite (Part.only_trans hd (tz _ _ _)) hd)))

theorem GiveFrame.freePlace (s : Part) (p ext k : Nat) : GiveFrame s (s.freePlace p ext k) := by
  unfold Part.freePlace
  extract_lets o a b c t d
  have ha : GiveFrame s a := .markUsed s p ext k false
  have hb : GiveFrame s b := .ite (ha.trans (.askCompact _ _ _)) ha
  have hc : GiveFrame s c := hb.trans (.toZeroing _ _ _)
  have hd : GiveFrame s d := hc.trans (.markUsed _ _ _ _ _)
  clear_value b c d
  exact .ite (.refl s) (.ite hb (.ite hc (.ite (hd.trans (.toZeroing _ _ _)) hd)))

theorem GiveFrame.linePoisonCount (s : Part) (sl a b : Nat) : GiveFrame s (s.linePoisonCount sl a b) :=
  .setOd _ _ _ (by decide)

theorem GiveFrame.bookState (s : Part) (b : Nat) : GiveFrame s (s.bookState b) := by
  unfold Part.bookState
  dsimp only
  exact .ite (.setOd _ _ _ (by decide)) (.ite (.setOd _ _ _ (by decide)) (.ite (.setOd _ _ _ (by decide)) (.refl s)))

theorem bits_lt (x lo len : Nat) : bits x lo len < 2 ^ len := by
  unfold bits
  rw [Nat.and_two_pow_sub_one_eq_mod]
  exact Nat.mod_lt _ (by positivity)

theorem GiveFrame.caskCount (s : Part) (sl book : Nat) (raw on : Bool) : GiveFrame s (s.caskCount sl book raw on) := by
  unfold Part.caskCount
  extract_lets f a b
  have ha : GiveFrame s a := .setOd s _ _ (by decide)
  have hb : GiveFrame s b := .ite ((ha.trans (.setOd _ (e := .casksRaw) _ _ (by decide))).trans (.setOd _ (e := .sliceCasksRaw) _ _ (by decide))) ha
  exact hb.trans (.bookState _ _)

theorem GiveFrame.dropCask (s : Part) (p sl loc : Nat) : GiveFrame s (s.dropCask p sl loc) := by
  unfold Part.dropCask
  split
  · exact .refl s
  · exact (GiveFrame.caskCount s sl _ _ _).trans (.onPav _ _ _)

theorem GiveFrame.clearLines (s : Part) (p sl loc : Nat) : GiveFrame s (s.clearLines p sl loc) :=
  .iter _ _ fun s _ _ => (GiveFrame.linePoisonCount s sl _ _).trans (.setTag _ _ _ _)

theorem GiveFrame.freePage (s : Part) (p sl : Nat) (c : Cell) : GiveFrame s (s.freePage p sl c) := by
  unfold Part.freePage
  split
  · extract_lets a
    have ha : GiveFrame s a := .iter _ _ fun s _ _ => (GiveFrame.linePoisonCount s sl _ _).trans (.setTag _ _ _ _)
    exact .ite ha (ha.trans (.freePlace _ _ _ _))
  · refine .ite ?_ (.refl s)
    have ha := GiveFrame.dropCask s p sl c.loc
    exact .ite ha (ha.trans (.freePlace _ _ _ _))

theorem GiveFrame.freeDest (s : Part) (p : Nat) (m : Move) : GiveFrame s (s.freeDest p m) :=
  .ite (.refl s) (.freePage _ _ _ _)

theorem GiveFrame.freeCopy (s : Part) (p sl : Nat) (c : Cell) : GiveFrame s (s.freeCopy p sl c) := by
  unfold Part.freeCopy
  extract_lets a b
  have ha : GiveFrame s a := .ite (.onPav _ _ _) (.refl s)
  have hb : GiveFrame s b := ha.trans (.clearLines _ _ _ _)
  exact .ite (.ite hb (hb.trans (.freePlace _ _ _ _))) (.ite (ha.trans (.freePlace _ _ _ _)) ha)

theorem GiveFrame.releaseFixed (s : Part) (p ext : Nat) : GiveFrame s (s.releaseFixed p ext) := by
  unfold Part.releaseFixed
  dsimp only
  have h := (GiveFrame.toZeroing s p ext).trans (.markUsed _ p (s.ownOf p ext).tagExtent (s.ownOf p ext).tagBlock false)
  exact .ite (h.trans (.toZeroing _ _ _)) h

theorem GiveFrame.dropBlock (s : Part) (p key : Nat) : GiveFrame s (s.dropBlock p key) :=
  (GiveFrame.iter _ s fun s e _ => .toZeroing s p e).trans (.onPav _ _ _)

theorem GiveFrame.clearMoving (s : Part) (p sl region : Nat) : GiveFrame s (s.clearMoving p sl region) :=
  .iter _ _ fun s e _ => .ite (.of_only (s.commit_spec p sl _ _ _).1 (by decide) (by decide) (by decide)) (.refl s)

theorem GiveFrame.dropRegionMove (s : Part) (p : Nat) : GiveFrame s (s.dropRegionMove p) := by
  unfold Part.dropRegionMove
  split
  · exact .refl s
  · next r hr =>
    exact (GiveFrame.iter r.copied s fun s e _ => .freeCopy s _ _ _).trans ((GiveFrame.iter r.fixedNew _ fun s e _ => .releaseFixed s _ _).trans
      ((GiveFrame.dropBlock _ _ _).trans ((GiveFrame.onPav _ _ _).trans (.clearMoving _ _ _ _))))

theorem GiveFrame.onSlice (s : Part) (sl : Nat) (f : SliceState → SliceState) (h : ∀ q, (f q).grants = q.grants) :
    GiveFrame s (s.onSlice sl f) :=
  ⟨Part.only_mono (s.only_onSlice _ _) (by decide), Part.keepsOd_of_only (s.only_onSlice sl f) (by decide), fun k => by
    rw [Part.onSlice_slice]; split
    · next e => subst e; exact h _
    · rfl, rfl⟩

theorem GiveFrame.cancelMoves (s : Part) (p sl lo hi : Nat) : GiveFrame s (s.cancelMoves p sl lo hi) := by
  unfold Part.cancelMoves
  dsimp only
  exact (GiveFrame.iter _ s fun s m _ => .freeDest s p m).trans (.onPav _ _ _)

theorem GiveFrame.leaveMove (s : Part) (p sl le : Nat) : GiveFrame s (s.leaveMove p sl le) := by
  unfold Part.leaveMove
  split
  · exact .refl s
  · next r hr =>
    refine .ite (.refl s) ?_
    extract_lets a f b
    have ha : GiveFrame s a := .iter _ _ fun s e _ => .freeCopy s _ _ _
    have hb : GiveFrame s b := .ite ha (ha.trans (.releaseFixed _ _ _))
    exact hb.trans (.onPav _ _ _)

theorem GiveFrame.clearExtent (s : Part) (sl le : Nat) (frames : Bool) : GiveFrame s (s.clearExtent sl le frames) := by
  unfold Part.clearExtent
  extract_lets v p lo a cells b clear c d f
  have ha : GiveFrame s a := (GiveFrame.cancelMoves s p sl lo _).trans (.leaveMove _ _ _ _)
  have hb : GiveFrame s b := ha.trans (.iter _ _ fun s e _ => .freePage s _ _ _)
  have hc : GiveFrame s c := hb.trans (.onPav _ _ _)
  have hd : GiveFrame s d := .ite hc (hc.trans (.onPav _ _ _))
  exact .ite hd (hd.trans ((GiveFrame.releaseFixed _ _ _).trans (.onSlice _ _ _ fun _ => rfl)))

/-- Closing a region changes what giving back changes, and the grants of that region. -/
theorem Part.closeRegion_spec (s : Part) (sl region : Nat) : Part.only giveFields s (s.closeRegion sl region) ∧
    Part.keepsOd giveEntries s (s.closeRegion sl region) ∧
    ∀ k, ((s.closeRegion sl region).slice k).grants = if k = sl then (s.slice k).grants.erase region else (s.slice k).grants := by
  unfold Part.closeRegion
  extract_lets v p a b c lo d e
  have ha : GiveFrame s a := by
    show GiveFrame s (match (s.pav p).regionMove with
      | some r => if r.slice = sl && r.region = region then s.dropRegionMove p else s
      | none => s)
    split
    · exact .ite (.dropRegionMove s p) (.refl s)
    · exact .refl s
  have hb : GiveFrame s b := ha.trans (.dropBlock _ _ _)
  have hc : GiveFrame s c := .ite hb (hb.trans (.dropBlock _ _ _))
  have hd : GiveFrame s d := hc.trans (.onPav _ _ _)
  have he : GiveFrame s e := hd.trans (.iter _ _ fun s q _ => .onPav s _ _)
  clear_value e
  refine ⟨?_, ?_, ?_⟩
  · refine Part.only_trans he.only fun f hf => ?_
    cases f <;> first | rfl | (exfalso; revert hf; decide)
  · exact Part.keepsOd_trans he.od fun _ _ _ _ => rfl
  · intro k
    rw [show ∀ t : Part, (t.setPlace sl region 0).slice k = t.slice k from fun _ => rfl, Part.onSlice_slice]
    split
    · next q => subst q; rw [if_pos rfl]; show (e.slice sl).grants.erase region = _; rw [he.grants]
    · next q => rw [if_neg (Ne.symm q), he.grants]

/-- The bits of a number after one of them was set or cleared. -/
theorem testBit_setBit (x k j : Nat) (b : Bool) : (setBit x k b).testBit j = if j = k then b else x.testBit j := by
  unfold setBit
  by_cases h : x.testBit k = b
  · rw [if_pos h]
    split
    · next e => rw [e, h]
    · rfl
  · rw [if_neg h, Nat.testBit_xor, Nat.testBit_two_pow]
    split
    · next e => subst e; cases b <;> simp_all
    · next e => simp [Ne.symm e]

/-- A released extent is granted no longer, and no other extent becomes granted. -/
theorem Part.releaseExtent_spec (s : Part) (sl le : Nat) (h : sl < 65536) : Part.only giveFields s (s.releaseExtent sl le) ∧
    Part.keepsOd giveEntries s (s.releaseExtent sl le) ∧
    ∀ k x, (s.releaseExtent sl le).granted k x = if k = sl ∧ x = le then false else s.granted k x := by
  unfold Part.releaseExtent
  split
  · next hg =>
    refine ⟨Part.only_refl _ _, Part.keepsOd_refl _ _, fun k x => ?_⟩
    split
    · next e => obtain ⟨rfl, rfl⟩ := e; simpa using hg
    · rfl
  · have hc := GiveFrame.clearExtent s sl le true
    generalize s.clearExtent sl le true = c at hc
    extract_lets d0 d
    have hd : Part.only giveFields s d := Part.only_trans hc.only
      (Part.only_mono (l := [.slices]) (c.only_onSlice sl fun q => { q with grants := q.grants.modify 0 (le / 512) fun b => setBit b (le % 512) false }) (by decide))
    have ho : Part.keepsOd giveEntries s d := Part.keepsOd_trans hc.od (fun _ _ _ _ => rfl)
    have hv : ∀ k r, (d.slice k).grants.get 0 r =
        if k = sl ∧ r = le / 512 then setBit ((s.slice sl).grants.get 0 (le / 512)) (le % 512) false else (s.slice k).grants.get 0 r := by
      intro k r
      show ((c.onSlice sl _).slice k).grants.get 0 r = _
      rw [Part.onSlice_slice]
      by_cases e : sl = k
      · subst e
        rw [if_pos rfl, Sparse.get_modify, hc.grants]
        by_cases e2 : le / 512 = r
        · rw [if_pos e2, if_pos ⟨rfl, e2.symm⟩]
        · rw [if_neg e2, if_neg fun q => e2 q.2.symm]
      · rw [if_neg e, if_neg fun q => e q.1.symm, hc.grants]
    have hb : ∀ k x, bit ((d.slice k).grants.get 0 (x / 512)) (x % 512) = if k = sl ∧ x = le then false else s.granted k x := by
      intro k x
      rw [hv]
      unfold bit Part.granted
      by_cases e : k = sl ∧ x / 512 = le / 512
      · rw [if_pos e, testBit_setBit]
        by_cases e2 : x % 512 = le % 512
        · rw [if_pos e2, if_pos ⟨e.1, by omega⟩]
        · rw [if_neg e2, if_neg fun q => e2 (by rw [q.2]), e.1, e.2]; rfl
      · rw [if_neg e, if_neg fun q => e ⟨q.1, by rw [q.2]⟩]; rfl
    clear_value d
    split
    · next hz =>
      obtain ⟨k1, k2, k3⟩ := d.closeRegion_spec sl (le / 512)
      refine ⟨Part.only_trans hd k1, Part.keepsOd_trans ho k2, fun k x => ?_⟩
      rw [← hb]
      unfold Part.granted
      rw [k3]
      by_cases e : k = sl
      · subst e
        rw [if_pos rfl, Sparse.get_erase]
        by_cases e2 : le / 512 = x / 512
        · rw [if_pos e2, ← e2, hz]
        · rw [if_neg e2]
      · rw [if_neg e]
    · exact ⟨hd, ho, hb⟩

/-- Several extents released. -/
theorem Part.releaseExtents_spec (s : Part) (sl : Nat) (xs : List Nat) (h : sl < 65536) :
    Part.only giveFields s (iter xs s fun s le => s.releaseExtent sl le) ∧
    Part.keepsOd giveEntries s (iter xs s fun s le => s.releaseExtent sl le) ∧
    ∀ k x, (iter xs s fun s le => s.releaseExtent sl le).granted k x = if k = sl ∧ x ∈ xs then false else s.granted k x := by
  induction xs generalizing s with
  | nil => exact ⟨Part.only_refl _ _, Part.keepsOd_refl _ _, fun k x => by simp [iter]⟩
  | cons y ys ih =>
    obtain ⟨h1, h2, h3⟩ := s.releaseExtent_spec sl y h
    obtain ⟨i1, i2, i3⟩ := ih (s.releaseExtent sl y)
    refine ⟨Part.only_trans h1 i1, Part.keepsOd_trans h2 i2, fun k x => ?_⟩
    refine (i3 k x).trans ?_
    rw [h3]
    by_cases e : k = sl
    · by_cases e2 : x ∈ ys
      · simp [e, e2]
      · by_cases e3 : x = y <;> simp [e, e2, e3]
    · simp [e]

/-! ## The ports -/

/-- The grant operation, the releases and the background command of every port are left. -/
def Part.keepsDc (a b : Part) : Prop :=
  ∀ i, (b.port i).dcOp = (a.port i).dcOp ∧ (b.port i).releases = (a.port i).releases ∧ (b.port i).mboxBusy = (a.port i).mboxBusy

theorem Part.keepsDc_refl (a : Part) : Part.keepsDc a a := fun _ => ⟨rfl, rfl, rfl⟩

theorem Part.keepsDc_trans {a b c : Part} (h : Part.keepsDc a b) (k : Part.keepsDc b c) : Part.keepsDc a c := fun i =>
  ⟨(k i).1.trans (h i).1, (k i).2.1.trans (h i).2.1, (k i).2.2.trans (h i).2.2⟩

theorem Part.keepsDc_of_only {l : List PartField} {a b : Part} (h : Part.only l a b) (hp : PartField.ports ∉ l) : Part.keepsDc a b :=
  fun i => by unfold Part.port; rw [show b.ports = a.ports from h .ports hp]; exact ⟨rfl, rfl, rfl⟩

theorem Part.keepsDc_of_ports {a b : Part} (h : Part.keepsPorts a b) : Part.keepsDc a b := fun i => by
  obtain ⟨r, m, l, e⟩ := h i
  rw [e]
  exact ⟨rfl, rfl, rfl⟩

theorem Part.keepsDc_onPort (s : Part) (i : Nat) (f : PortState → PortState)
    (h : ∀ t, (f t).dcOp = t.dcOp ∧ (f t).releases = t.releases ∧ (f t).mboxBusy = t.mboxBusy) : Part.keepsDc s (s.onPort i f) := fun j => by
  rw [Part.onPort_port]
  split
  · next e => subst e; exact h _
  · exact ⟨rfl, rfl, rfl⟩

theorem Part.keepsDc_iter {α : Type} {f : Part → α → Part} (h : ∀ s a, Part.keepsDc s (f s a)) (xs : List α) (s : Part) :
    Part.keepsDc s (iter xs s f) := by
  induction xs generalizing s with
  | nil => exact Part.keepsDc_refl s
  | cons x xs ih => exact Part.keepsDc_trans (h s x) (ih _)

theorem Part.keepsDc_unmapRegion (s : Part) (i r : Nat) : Part.keepsDc s (s.unmapRegion i r) :=
  s.keepsDc_onPort i _ fun _ => ⟨rfl, rfl, rfl⟩

/-- Freeing empty region-map entries changes the ports alone, and of them no operation. -/
theorem Part.freeEmptyMaps_spec (s : Part) (i : Nat) (rs : List Nat) :
    Part.only [.ports] s (s.freeEmptyMaps i rs) ∧ Part.keepsDc s (s.freeEmptyMaps i rs) := by
  unfold Part.freeEmptyMaps
  refine ⟨Part.only_iter (fun s r => ?_) _ _, Part.keepsDc_iter (fun s r => ?_) _ _⟩
  · exact Part.only_ite (s.only_onPort _ _) (Part.only_refl _ _)
  · have h : ∀ c : Bool, Part.keepsDc s (if c = true then s.unmapRegion i r else s) := fun c => by
      split
      · exact s.keepsDc_unmapRegion _ _
      · exact Part.keepsDc_refl _
    exact h _

theorem Part.only_setMask (s : Part) (i x : Nat) (on : Bool) : Part.only [.ports] s (s.setMask i x on) := s.only_onPort _ _

theorem Part.keepsDc_setMask (s : Part) (i x : Nat) (on : Bool) : Part.keepsDc s (s.setMask i x on) :=
  s.keepsDc_onPort i _ fun _ => ⟨rfl, rfl, rfl⟩

theorem Part.maskBit_setMask (s : Part) (i x y : Nat) (on : Bool) :
    (s.setMask i x on).maskBit i y = if y = x then on else s.maskBit i y := by
  unfold Part.setMask Part.maskBit bit
  rw [Part.onPort_port, if_pos rfl]
  dsimp only
  rw [Sparse.get_modify]
  by_cases e : x / 512 = y / 512
  · rw [if_pos e, testBit_setBit]
    by_cases e2 : y % 512 = x % 512
    · rw [if_pos e2, if_pos (by omega)]
    · rw [if_neg e2, if_neg fun q => e2 (by rw [q]), e]
  · rw [if_neg e, if_neg fun q => e (by rw [q])]

theorem Part.only_mapRegions (i sl dc : Nat) (rs : List Nat) (s : Part) {taken : List Nat} {t : Part}
    (h : s.mapRegions i sl dc rs = some (taken, t)) : Part.only [.ports] s t := by
  induction rs generalizing s taken with
  | nil => cases h; exact Part.only_refl _ _
  | cons r rs ih =>
    unfold Part.mapRegions at h
    split at h
    · exact ih s h
    · split at h
      · cases h
      · next x a hx =>
        obtain ⟨⟨l, b⟩, hb, he⟩ := Option.map_eq_some_iff.mp h
        cases he
        refine Part.only_trans ?_ (ih a hb)
        unfold Part.mapRegion at hx
        split at hx
        · cases hx
        · cases hx; exact s.only_onPort _ _

/-- Records of dynamic capacity change the event logs alone. -/
theorem Part.dcRecords_spec (s : Part) (i kind sl : Nat) (runs : List (Nat × Nat)) :
    Part.only [.ports, .out] s (s.dcRecords i kind sl runs) ∧ Part.keepsPorts s (s.dcRecords i kind sl runs) :=
  ⟨Part.only_iter (fun s _ => s.only_eventRec _ _ _) _ _, Part.keepsPorts_iter (fun s _ => s.keepsPorts_eventRec _ _ _) _ _⟩

/-- The end of an offer: the operation is over with its result, and what was not accepted is released. -/
theorem Part.endOffer_spec (s : Part) (i : Nat) (op : DcOp) (acc : List Nat) (result : Nat) (hi : i < 65536) (hs : op.slice < 65536)
    (hr : result < 256) (hk : op.kind ≠ 4) :
    (s.endOffer i op acc result).od .dcState i = 0 ∧ (s.endOffer i op acc result).od .dcResult i = result ∧
    ((s.endOffer i op acc result).port i).dcOp = none ∧
    (∀ e j, e ∉ giveEntries → e ≠ .dcState → e ≠ .dcResult → j < 65536 → (s.endOffer i op acc result).od e j = s.od e j) ∧
    ∀ sl le, (s.endOffer i op acc result).granted sl le =
      if sl = op.slice ∧ le ∈ op.offered ∧ le ∉ acc then false else s.granted sl le := by
  unfold Part.endOffer
  extract_lets a others b rs c
  have ha : Part.only [.ports] s a := Part.only_iter (fun s le => by
    split
    · exact s.only_setMask _ _ _
    · exact Part.only_refl _ _) _ _
  have hb : b.od .dcState i = 0 ∧ b.od .dcResult i = result ∧ (b.port i).dcOp = none := by
    refine ⟨?_, Part.od_setOd_val _ _ _ _ hr, ?_⟩
    · show (Part.setOd _ _ _ _).od _ _ = _
      rw [Part.od_setOd_entry _ _ hi hi (by decide)]
      exact Part.od_setOd_val _ _ _ _ (by decide)
    · rw [show b.port i = (a.onPort i fun t => { t with dcOp := none }).port i from rfl, Part.onPort_port, if_pos rfl]
  have hbo : ∀ e j, e ≠ .dcState → e ≠ .dcResult → j < 65536 → b.od e j = s.od e j := by
    intro e j h1 h2 hj
    show (Part.setOd _ _ _ _).od _ _ = _
    rw [Part.od_setOd_entry _ _ hi hj (Ne.symm h2), Part.od_setOd_entry _ _ hi hj (Ne.symm h1)]
    exact Part.keepsOd_of_only (l := []) ha (by decide) e j (by simp) hj
  have hbg : ∀ sl le, b.granted sl le = s.granted sl le := by
    intro sl le
    unfold Part.granted Part.slice
    rw [show b.slices = s.slices from ha .slices (by decide)]
  have hm : ∀ le, le ∈ others ↔ le ∈ op.offered ∧ le ∉ acc := by
    intro le
    show le ∈ op.offered.filter _ ↔ _
    simp
  clear_value b others
  split
  · next h =>
    have he : others = [] := by simpa [hk] using h
    refine ⟨hb.1, hb.2.1, hb.2.2, fun e j _ h1 h2 hj => hbo e j h1 h2 hj, fun sl le => ?_⟩
    rw [hbg, if_neg]
    rintro ⟨_, h1, h2⟩
    have := (hm le).mpr ⟨h1, h2⟩
    rw [he] at this
    cases this
  · obtain ⟨r1, r2, r3⟩ := b.releaseExtents_spec op.slice others hs
    have r1 : Part.only giveFields b c := r1
    have r2 : Part.keepsOd giveEntries b c := r2
    have r3 : ∀ k x, c.granted k x = if k = op.slice ∧ x ∈ others then false else b.granted k x := r3
    clear_value c
    obtain ⟨f1, f2⟩ := c.freeEmptyMaps_spec i rs
    generalize c.freeEmptyMaps i rs = d at f1 f2
    have hd : Part.only [.vint] d (d.askCompile 0) := by
      unfold Part.askCompile
      dsimp only
      refine Part.only_ite (Part.only_refl _ _) fun f hf => ?_
      cases f <;> first | rfl | (exfalso; revert hf; decide)
    generalize d.askCompile 0 = e at hd
    have ho : ∀ x j, x ∉ giveEntries → j < 65536 → e.od x j = b.od x j := fun x j hx hj => by
      rw [Part.keepsOd_of_only (l := []) hd (by decide) x j (by simp) hj, Part.keepsOd_of_only (l := []) f1 (by decide) x j (by simp) hj, r2 x j hx hj]
    refine ⟨?_, ?_, ?_, ?_, ?_⟩
    · rw [ho _ _ (by decide) hi]; exact hb.1
    · rw [ho _ _ (by decide) hi]; exact hb.2.1
    · have h1 := (Part.keepsDc_of_only hd (by decide) i).1
      have h2 := (f2 i).1
      have h3 := (Part.keepsDc_of_only r1 (by decide) i).1
      rw [h1, h2, h3]; exact hb.2.2
    · intro x j hx h1 h2 hj
      rw [ho x j hx hj, hbo x j h1 h2 hj]
    · intro sl le
      have : e.granted sl le = c.granted sl le := by
        unfold Part.granted Part.slice
        rw [show e.slices = d.slices from hd .slices (by decide), show d.slices = c.slices from f1 .slices (by decide)]
      rw [this, r3, hbg]
      simp only [hm]

/-- A release of DPA extents: what they map is granted no longer. -/
theorem Part.releaseDpa_spec (s : Part) (i : Nat) (xs : List Nat) (hi : i < 65536) :
    Part.keepsDc s (s.releaseDpa i xs) ∧ Part.keepsOd (.poisonListEntries :: giveEntries) s (s.releaseDpa i xs) ∧
    (s.releaseDpa i xs).out = s.out ∧
    ∀ sl le, (s.releaseDpa i xs).granted sl le = if ∃ x ∈ xs, s.extOfDpa i x = some (sl, le) then false else s.granted sl le := by
  have key : ∀ (xs : List Nat) (s : Part), ∃ t, (iter xs s fun s x => match s.extOfDpa i x with
      | some (sl, le) => (s.poisonForget i x).releaseExtent sl le
      | none => s) = t ∧ Part.keepsDc s t ∧ Part.keepsOd (.poisonListEntries :: giveEntries) s t ∧ t.out = s.out ∧
      ∀ sl le, t.granted sl le = if ∃ x ∈ xs, s.extOfDpa i x = some (sl, le) then false else s.granted sl le := by
    intro xs
    induction xs with
    | nil => intro s; exact ⟨s, rfl, Part.keepsDc_refl _, Part.keepsOd_refl _ _, rfl, fun sl le => by simp⟩
    | cons x xs ih =>
      intro s
      rcases hx : s.extOfDpa i x with _ | ⟨sl, le⟩
      · obtain ⟨t, h1, h2, h3, h4, h5⟩ := ih s
        refine ⟨t, ?_, h2, h3, h4, fun a b => ?_⟩
        · rw [← h1]
          show iter xs _ _ = _
          dsimp only
          rw [hx]
        · rw [h5]; simp [hx]
      · have hsl : sl < 65536 := by
          unfold Part.extOfDpa at hx
          dsimp only at hx
          split at hx
          · cases hx
            exact Nat.lt_of_lt_of_le (bits_lt _ _ _) (by decide)
          · cases hx
        generalize ef : s.poisonForget i x = f
        have f1 : Part.keepsDc s f := by
          rw [← ef]
          refine Part.keepsDc_trans (s.keepsDc_onPort i (fun t => { t with poison := t.poison.filter fun e => e.dpa / 2 ^ 21 != x }) fun _ => ⟨rfl, rfl, rfl⟩) ?_
          exact Part.keepsDc_of_only (Part.only_setOd _ _ _ _) (by decide)
        have f2 : Part.keepsOd (.poisonListEntries :: giveEntries) s f := by
          rw [← ef]
          exact Part.keepsOd_setOd (s.onPort i fun t => { t with poison := t.poison.filter fun e => e.dpa / 2 ^ 21 != x }) _ _ hi (by simp)
        have f3 : f.out = s.out ∧ f.slices = s.slices := by rw [← ef]; exact ⟨rfl, rfl⟩
        have f4 : ∀ y, f.extOfDpa i y = s.extOfDpa i y := by
          intro y
          have : (f.port i).regionMap = (s.port i).regionMap := by
            rw [← ef]
            show ((s.onPort i fun t => { t with poison := t.poison.filter fun e => e.dpa / 2 ^ 21 != x }).port i).regionMap = _
            rw [Part.onPort_port, if_pos rfl]
          unfold Part.extOfDpa
          rw [this]
        obtain ⟨r1, r2, r3⟩ := f.releaseExtent_spec sl le hsl
        generalize eg : f.releaseExtent sl le = g at r1 r2 r3
        have g4 : ∀ y, g.extOfDpa i y = s.extOfDpa i y := fun y => by
          rw [← f4]
          unfold Part.extOfDpa Part.port
          rw [show g.ports = f.ports from r1 .ports (by decide)]
        obtain ⟨t, h1, h2, h3, h4, h5⟩ := ih g
        refine ⟨t, ?_, Part.keepsDc_trans f1 (Part.keepsDc_trans (Part.keepsDc_of_only r1 (by decide)) h2),
          Part.keepsOd_trans f2 (Part.keepsOd_trans (Part.keepsOd_mono r2 fun e he => List.mem_cons_of_mem _ he) h3), ?_, ?_⟩
        · rw [← h1]
          show iter xs _ _ = _
          dsimp only
          rw [hx]
          dsimp only
          rw [ef, eg]
        · rw [h4, show g.out = f.out from r1 .out (by decide), f3.1]
        · intro a b
          rw [h5, r3]
          have : f.granted a b = s.granted a b := by unfold Part.granted Part.slice; rw [f3.2]
          rw [this]
          simp only [g4, List.exists_mem_cons_iff, hx, Option.some.injEq, Prod.mk.injEq]
          by_cases e1 : ∃ y ∈ xs, s.extOfDpa i y = some (a, b)
          · simp [e1]
          · by_cases e2 : a = sl ∧ b = le
            · simp [e2]
            · have e3 : ¬(sl = a ∧ le = b) := fun q => e2 ⟨q.1.symm, q.2.symm⟩
              rw [if_neg e1, if_neg e2, if_neg (by rintro (q | q); exact e3 q; exact e1 q)]
  obtain ⟨t, h1, h2, h3, h4, h5⟩ := key xs s
  have e : s.releaseDpa i xs = t.freeEmptyMaps i (xs.map (· / 512)) := by rw [← h1]; rfl
  rw [e]
  obtain ⟨f1, f2⟩ := t.freeEmptyMaps_spec i (xs.map (· / 512))
  refine ⟨Part.keepsDc_trans h2 f2, Part.keepsOd_trans h3 (Part.keepsOd_of_only f1 (by decide)), ?_, ?_⟩
  · rw [f1 .out (by decide)]; exact h4
  · intro sl le
    rw [← h5]
    unfold Part.granted Part.slice
    rw [show (t.freeEmptyMaps i (xs.map (· / 512))).slices = t.slices from f1 .slices (by decide)]

end Sys2Proof.Machine
end

