-- ==== Sys2Proof/Laws/Links.lean ====
section
/-!
SUPPORT. What losing a link leaves as it is: every stored value but the detours, power states of pavilions that wake, parked
requests and rings.
-/

namespace Sys2Proof.Machine

/-- The values that the traffic of a lost link may change. -/
def detourEntries : List Entry := [.linkDetour, .pavilionPowerState, .packagePowerState, .ingressParkedNow, .ringState]

theorem Part.keepsOd_wakePav (s : Part) (p : Nat) (hp : p < 65536) : Part.keepsOd detourEntries s (s.wakePav p) := by
  unfold Part.wakePav
  refine Part.keepsOd_ite ?_ (Part.keepsOd_refl _ _)
  dsimp only
  exact Part.keepsOd_ite
    (Part.keepsOd_trans (b := s.setOd .pavilionPowerState p 0) (Part.keepsOd_setOd _ _ _ hp (by decide))
      (Part.keepsOd_setOd _ _ _ (by decide) (by decide)))
    (Part.keepsOd_setOd _ _ _ hp (by decide))

theorem placeHome_lt (v : Nat) : placeHome v < 8 := by
  unfold placeHome bits; rw [Nat.and_two_pow_sub_one_eq_mod]; exact Nat.mod_lt _ (by decide)

theorem Part.keepsOd_forward (s : Part) (r : Req) (st : Nat) (mark : Fwd → Fwd) : Part.keepsOd detourEntries s (s.forward r st mark) := by
  unfold Part.forward
  dsimp only
  split
  · exact Part.keepsOd_of_only (s.only_synthetic r) (by decide)
  · next home hh =>
    have h8 : home < 65536 := by
      unfold Part.homeOf at hh
      dsimp only at hh
      split at hh
      · simp only [Option.some.injEq] at hh; rw [← hh]; have := placeHome_lt (s.place r.slice (r.lpage / 262144)); omega
      · cases hh
    refine Part.keepsOd_ite (Part.keepsOd_of_only (s.only_synthetic r) (by decide)) ?_
    refine Part.keepsOd_trans ?_ (Part.keepsOd_of_only (Part.only_sendVia _ _ _ _ _) (by decide))
    refine Part.keepsOd_trans ?_ (Part.keepsOd_wakePav _ _ h8)
    exact Part.keepsOd_of_only (l := detourEntries) (Part.only_trans (Part.only_mono (l' := [.pavs, .ports]) (s.only_newTag _) (by decide))
      (Part.only_mono (Part.only_onPart _ _ _ _) (by decide))) (by decide)

theorem Part.keepsOd_unpark (s : Part) (i sl : Nat) (hi : i < 65536) : Part.keepsOd detourEntries s (s.unpark i sl) := by
  unfold Part.unpark
  dsimp only
  refine Part.keepsOd_ite (Part.keepsOd_refl _ _) ?_
  refine Part.keepsOd_trans ?_ (Part.keepsOd_of_only (Part.only_returnCredits _ _) (by decide))
  refine Part.keepsOd_trans ?_ (Part.keepsOd_setOd _ _ _ hi (by decide))
  exact Part.keepsOd_of_only (Part.only_trans (s.only_onPort _ _) (Part.only_onPart _ _ _ _)) (by decide)

theorem Part.keepsOd_synthetic50 (s : Part) (i : Nat) (f : Fwd) (hi : i < 65536) : Part.keepsOd detourEntries s (s.synthetic50 i f) := by
  unfold Part.synthetic50
  extract_lets sl st a r b c
  split
  · exact Part.keepsOd_trans (b := (s.count .slicePoisonReads sl).answerHost f.req onesLine true)
      (Part.keepsOd_of_only (Part.only_trans (Part.only_mono (l' := [.delta, .out]) (s.only_count .slicePoisonReads sl 1) (by decide))
        (Part.only_mono (Part.only_answerHost _ _ _ _) (by decide))) (by decide)) (Part.keepsOd_unpark _ _ _ hi)
  · exact Part.keepsOd_forward _ _ _ _
  · have ha : Part.keepsOd detourEntries s a := Part.keepsOd_of_only (Part.only_answerHost _ _ _ _) (by decide)
    have hb : Part.keepsOd detourEntries a b := Part.keepsOd_forward _ _ _ _
    have hc : Part.keepsOd detourEntries b c := Part.keepsOd_trans (Part.keepsOd_mono (Part.keepsOd_logEv b _ _ _ _ _) (by decide))
      (Part.keepsOd_of_only (Part.only_releaseHold _ _ _ _) (by decide))
    clear_value a b c
    exact Part.keepsOd_trans ha (Part.keepsOd_trans hb (Part.keepsOd_trans hc
      (Part.keepsOd_trans (Part.keepsOd_unpark _ _ _ hi) (Part.keepsOd_mono (Part.keepsOd_heldAlarm _ _ _) (by decide)))))

theorem Part.keepsOd_loseRequests (s : Part) (p n : Nat) (hp : p < 8) : Part.keepsOd detourEntries s (s.loseRequests p n) := by
  unfold Part.loseRequests
  refine Part.keepsOd_iter _ _ fun s i hi => Part.keepsOd_iter _ _ fun s e _ => ?_
  have : i < 65536 := by simp only [List.mem_cons, List.not_mem_nil, or_false] at hi; omega
  refine Part.keepsOd_trans (Part.keepsOd_of_only (s.only_onPart i e.1 _) (by decide)) (Part.keepsOd_iter _ _ fun s f _ => ?_)
  exact Part.keepsOd_trans (Part.keepsOd_synthetic50 _ _ _ this) (Part.keepsOd_of_only (Part.only_count _ _ _ _) (by decide))

theorem Part.only_viaFor (s : Part) (m : Msg) (p v : Nat) : Part.only [.ports] s (s.viaFor m p v) :=
  Part.only_iter (fun s _ => s.only_onPart _ _ _) _ _

theorem Part.only_flushWaiting (s : Part) (n : Nat) : Part.only [.links, .pavs, .ports] s (s.flushWaiting n) := by
  unfold Part.flushWaiting
  extract_lets l e a
  refine Part.only_ite (Part.only_refl _ _) (Part.only_trans (b := a) (Part.only_mono (s.only_onLink _ _) (by decide)) (Part.only_iter (fun s m => ?_) _ _))
  extract_lets b
  refine Part.only_trans (b := b) ?_ (Part.only_mono (Part.only_send _ _ _ _) (by decide))
  exact Part.only_ite (Part.only_mono (s.only_viaFor _ _ _) (by decide)) (Part.only_refl _ _)

theorem Part.keepsOd_chooseDetours (s : Part) : Part.keepsOd detourEntries s s.chooseDetours := by
  unfold Part.chooseDetours
  dsimp only
  refine Part.keepsOd_trans (Part.keepsOd_iter _ _ fun s n hn => ?_)
    (Part.keepsOd_iter _ _ fun s n _ => Part.keepsOd_of_only (s.only_flushWaiting n) (by decide))
  have : n < 65536 := by have := List.mem_range.mp hn; omega
  refine Part.keepsOd_ite (Part.keepsOd_refl _ _) (Part.keepsOd_ite (Part.keepsOd_setOd _ _ _ this (by decide)) ?_)
  exact Part.keepsOd_trans (Part.keepsOd_setOd _ _ _ this (by decide)) (Part.keepsOd_mono (Part.keepsOd_logEv _ _ _ _ _ _) (by decide))

theorem Part.only_linkNotices (s : Part) (n : Nat) : Part.only [.links, .pavs] s (s.linkNotices n) := by
  unfold Part.linkNotices
  refine Part.only_iter (fun s a => Part.only_ite (Part.only_refl _ _) (Part.only_iter (fun s p => s.only_send _ _ _) _ _)) _ _

theorem Part.only_loseMsg (s : Part) (n : Nat) (m : Msg) : Part.only [.links, .pavs, .ports] s (s.loseMsg n m) := by
  unfold Part.loseMsg
  exact Part.only_ite (Part.only_mono (s.only_send _ _ _) (by decide))
    (Part.only_ite (Part.only_mono (s.only_viaFor _ _ _) (by decide)) (Part.only_refl _ _))

theorem Part.keepsOd_deliver (s : Part) (n d a : Nat) (m : Msg) (ha : a < 65536) : Part.keepsOd detourEntries s (s.deliver n d a m) := by
  unfold Part.deliver
  extract_lets t
  have ht : Part.keepsOd detourEntries s t := Part.keepsOd_of_only (s.only_onLink _ _) (by decide)
  clear_value t
  refine Part.keepsOd_trans ht (Part.keepsOd_ite ?_ (Part.keepsOd_ite ?_ (Part.keepsOd_ite ?_ ?_)))
  · exact Part.keepsOd_trans (Part.keepsOd_of_only (t.only_count .linkBadMessages n 1) (by decide))
      (Part.keepsOd_mono (Part.keepsOd_logEv _ _ _ _ _ _) (by decide))
  · exact Part.keepsOd_trans (Part.keepsOd_of_only (t.only_onPav _ _) (by decide)) (Part.keepsOd_wakePav _ _ ha)
  · exact Part.keepsOd_of_only (t.only_transmit _ _ _ _) (by decide)
  · exact Part.keepsOd_of_only (t.only_loseMsg _ _) (by decide)

theorem Part.keepsOd_releasePaths (s : Part) (p : Nat) (hp : p < 65536) : Part.keepsOd detourEntries s (s.releasePaths p) := by
  unfold Part.releasePaths
  extract_lets l free t
  exact Part.keepsOd_ite (Part.keepsOd_refl _ _) (Part.keepsOd_trans (b := t) (Part.keepsOd_of_only (s.only_onPav _ _) (by decide))
    (Part.keepsOd_iter _ _ fun s h _ => Part.keepsOd_deliver _ _ _ _ _ hp))

theorem Part.keepsOd_dropTraffic (s : Part) (n : Nat) : Part.keepsOd detourEntries s (s.dropTraffic n) := by
  unfold Part.dropTraffic
  extract_lets lost a b c
  have ha : Part.keepsOd detourEntries s a := Part.keepsOd_of_only (s.only_onLink _ _) (by decide)
  have hb : Part.keepsOd detourEntries a b := Part.keepsOd_of_only (l := detourEntries) (fs := [.pavs])
    (Part.only_iter (fun s p => Part.only_ite (Part.only_refl _ _) (s.only_onPav _ _)) _ _) (by decide)
  have hc : Part.keepsOd detourEntries b c := Part.keepsOd_of_only (l := detourEntries) (Part.only_iter (fun s m => s.only_loseMsg _ _) _ _) (by decide)
  clear_value a b c
  refine Part.keepsOd_trans ha (Part.keepsOd_trans hb (Part.keepsOd_trans hc (Part.keepsOd_iter _ _ fun s p hp => ?_)))
  have h8 : allPavs = [0, 1, 2, 3, 4, 5, 6, 7] := rfl
  simp only [h8, List.mem_cons, List.not_mem_nil, or_false] at hp
  exact Part.keepsOd_releasePaths _ _ (by omega)

theorem linkEnds_lt (n : Fin 28) : (linkEnds n).1 < 8 ∧ (linkEnds n).2 < 8 := by revert n; decide

/-- A link that breaks is in RETRAINING with the cause of the break. -/
theorem Part.breakLink_spec (s : Part) (n : Fin 28) (cause e : Nat) (h : s.od .linkState n = 2) (hr : s.rest.inRest = false)
    (hc : cause < 256) :
    (s.breakLink n cause e).od .linkState n = 3 ∧ (s.breakLink n cause e).od .linkCause n = cause ∧
    ∀ (k : Entry) (i : Nat), k ∉ detourEntries → i < 65536 → ¬(k = .linkState ∧ i = n.val) → ¬(k = .linkCause ∧ i = n.val) →
      (s.breakLink n cause e).od k i = s.od k i := by
  have hn : (n : Nat) < 65536 := by omega
  unfold Part.breakLink
  rw [if_neg (by simp [h, hr])]
  dsimp only
  generalize e1 : ((s.setOd .linkState n 3).setOd .linkCause n cause).count .linkBreaks n = a
  generalize e2 : a.logEv 0x1101 n (cause ||| (e <<< 8)) = b
  have kb : Part.keepsOd [.ringState] a b := e2 ▸ Part.keepsOd_logEv _ _ _ _ _ _
  generalize e3 : (b.extendDrains n).dropTraffic n = c
  have kc : Part.keepsOd detourEntries b c := by
    rw [← e3]
    refine Part.keepsOd_trans (b := b.extendDrains n) ?_ (Part.keepsOd_dropTraffic _ _)
    unfold Part.extendDrains
    exact Part.keepsOd_of_only (Part.only_iter (l := [.slices]) (fun s e => s.only_onSlice _ _) _ _) (by decide)
  have kd : Part.keepsOd detourEntries b (((c.chooseDetours.loseRequests (linkEnds n).1 n).loseRequests (linkEnds n).2 n).linkNotices n) :=
    Part.keepsOd_trans kc (Part.keepsOd_trans (Part.keepsOd_chooseDetours c) (Part.keepsOd_trans
      (Part.keepsOd_loseRequests _ _ _ (linkEnds_lt n).1) (Part.keepsOd_trans (Part.keepsOd_loseRequests _ _ _ (linkEnds_lt n).2)
        (Part.keepsOd_of_only (Part.only_linkNotices _ _) (by decide)))))
  refine ⟨?_, ?_, ?_⟩
  · rw [kd _ _ (by decide) hn, kb _ _ (by decide) hn, ← e1, Part.count_od, Part.od_setOd_entry _ _ hn hn (by decide)]
    exact Part.od_setOd_val _ _ _ _ (by decide)
  · rw [kd _ _ (by decide) hn, kb _ _ (by decide) hn, ← e1, Part.count_od]
    exact Part.od_setOd_val _ _ _ _ hc
  · intro k i hk hi h1 h2
    rw [kd k i hk hi, kb k i (by intro q; exact hk (by simp only [List.mem_singleton] at q; rw [q]; decide)) hi, ← e1, Part.count_od,
      Part.od_setOd_other _ _ hn hi (fun q => h2 ⟨q.1.symm, q.2.symm⟩), Part.od_setOd_other _ _ hn hi (fun q => h1 ⟨q.1.symm, q.2.symm⟩)]

end Sys2Proof.Machine
end

