-- ==== Sys2Proof/Laws/Faults.lean ====
section
/-!
SUPPORT. What the loss of a pavilion does around its states: ports, requests, mirrors, pages, keys, vintages.
-/

namespace Sys2Proof.Machine

set_option Elab.async false

/-- The entries that the loss of a pavilion changes around the states of pavilions, links, channels and branches. -/
def failEntries : List Entry := [.ringState, .sliceSaveResult, .sliceRestoreResult, .ingressParkedNow, .portEpoch, .portLinkSpeed,
  .portLinkWidth, .portFlitMode, .portState, .portDState, .spdmSessions, .ideState, .linkDetour, .pavilionPowerState,
  .packagePowerState, .sliceLinesPoisoned, .codebookCasks, .casksRaw, .sliceCasksRaw, .codebookState, .sliceKeyHandle0,
  .sliceKeyHandle1, .poisonListEntries, .sliceKeyActive, .sliceKeyUses, .rekeyState, .rekeyCause]

/-- A change that leaves every entry but those. -/
structure FailFrame (a b : Part) : Prop where
  od : Part.keepsOd failEntries a b
  held : b.gate.held = a.gate.held
  boot : b.boot = a.boot
  power : b.power = a.power

theorem FailFrame.refl (a : Part) : FailFrame a a := ⟨Part.keepsOd_refl _ a, rfl, rfl, rfl⟩

theorem FailFrame.trans {a b c : Part} (h : FailFrame a b) (k : FailFrame b c) : FailFrame a c := ⟨Part.keepsOd_trans h.od k.od, k.held.trans h.held, k.boot.trans h.boot, k.power.trans h.power⟩

theorem FailFrame.of {l : List Entry} {a b : Part} (h : Part.keepsOd l a b) (hl : ∀ e ∈ l, e ∈ failEntries) (hg : b.gate.held = a.gate.held)
    (hb : b.boot = a.boot) (hw : b.power = a.power) : FailFrame a b := ⟨Part.keepsOd_mono h hl, hg, hb, hw⟩

theorem FailFrame.of_only {fs : List PartField} {a b : Part} (h : Part.only fs a b) (hd : PartField.dict ∉ fs) (hg : PartField.gate ∉ fs := by decide)
    (hb : PartField.boot ∉ fs := by decide) (hw : PartField.power ∉ fs := by decide) : FailFrame a b :=
  ⟨Part.keepsOd_of_only h hd, congrArg GateState.held (h .gate hg), h .boot hb, h .power hw⟩

theorem FailFrame.log (s : Part) (c a b : Nat) (sl : Option Nat) (pav : Nat) : FailFrame s (s.logEv c a b sl pav) :=
  .of (Part.keepsOd_logEv _ _ _ _ _ _) (by decide) (LogFrame.logEv s c a b sl pav).held ((LogFrame.logEv s c a b sl pav).only .boot (by decide))
    ((LogFrame.logEv s c a b sl pav).only .power (by decide))

theorem FailFrame.give {a b : Part} (h : GiveFrame a b) : FailFrame a b :=
  .of h.od (by decide) (congrArg GateState.held (h.only .gate (by decide))) (h.only .boot (by decide)) (h.only .power (by decide))

theorem FailFrame.bundle {a b : Part} (h : BundleFrame a b) : FailFrame a b := .of h.od (by decide) h.held (h.only .boot (by decide)) (h.only .power (by decide))

theorem FailFrame.setOd (s : Part) {e : Entry} (i v : Nat) (he : e ∈ failEntries) : FailFrame s (s.setOd e i v) :=
  ⟨Part.keepsOd_setAny s i v he, rfl, rfl, rfl⟩

theorem FailFrame.iterMem {α : Type} {f : Part → α → Part} (xs : List α) (s : Part) (h : ∀ s a, a ∈ xs → FailFrame s (f s a)) :
    FailFrame s (Machine.iter xs s f) := by
  induction xs generalizing s with
  | nil => exact .refl s
  | cons x xs ih => exact (h s x (by simp)).trans (ih (f s x) fun s a m => h s a (List.mem_cons_of_mem _ m))

theorem FailFrame.iter {α : Type} {f : Part → α → Part} (xs : List α) (s : Part) (h : ∀ s a, FailFrame s (f s a)) :
    FailFrame s (iter xs s f) := .iterMem xs s fun s a _ => h s a

theorem FailFrame.ite {c : Prop} [Decidable c] {s a b : Part} (h : FailFrame s a) (k : FailFrame s b) :
    FailFrame s (if c then a else b) := by split <;> assumption

theorem FailFrame.onPart (s : Part) (i sl : Nat) (f : Partition → Partition) : FailFrame s (s.onPart i sl f) :=
  .of_only (s.only_onPart _ _ _) (by decide)

theorem FailFrame.onPav (s : Part) (i : Nat) (f : PavState → PavState) : FailFrame s (s.onPav i f) :=
  .of_only (s.only_onPav _ _) (by decide)

theorem FailFrame.answerHost (s : Part) (r : Req) (d : Nat) (b : Bool) : FailFrame s (s.answerHost r d b) :=
  .of_only (s.only_answerHost _ _ _) (by decide)

theorem FailFrame.count (s : Part) (e : Entry) (i n : Nat) : FailFrame s (s.count e i n) :=
  .of_only (s.only_count _ _ _) (by decide)

theorem FailFrame.send (s : Part) (a c : Nat) (m : Msg) : FailFrame s (s.send a c m) :=
  .of_only (s.only_send _ _ _) (by decide)

theorem FailFrame.onPort (s : Part) (i : Nat) (f : PortState → PortState) : FailFrame s (s.onPort i f) :=
  .of_only (s.only_onPort _ _) (by decide)

theorem FailFrame.dropUnforwarded (s : Part) (i : Nat) : FailFrame s (s.dropUnforwarded i) := by
  unfold Part.dropUnforwarded
  extract_lets t waiting n gone s1 s2 s3 s4
  have o2 : FailFrame s s2 := (FailFrame.onPort s i _).trans (.iter _ _ fun s p => .iter _ _ fun s g => .of_only (s.only_onPav _ _) (by decide))
  have o3 : FailFrame s s3 := o2.trans (.setOd _ (e := .ingressParkedNow) _ _ (by decide))
  exact (FailFrame.ite o3 (o3.trans (.count _ _ _ _))).trans (.iter _ _ fun s sl => .bundle (.heldAlarm _ _ _))

theorem FailFrame.linkLost (s : Part) (i x : Nat) : FailFrame s (s.linkLost i x) := by
  unfold Part.linkLost
  extract_lets st was s1 s2
  have o1 : FailFrame s s1 := ((((FailFrame.setOd s _ _ (by decide)).trans (.setOd _ _ _ (by decide))).trans (.setOd _ _ _ (by decide))).trans
    (.setOd _ _ _ (by decide)))
  have o2 : FailFrame s s2 := o1.trans (.onPort _ _ _)
  exact .ite ((o2.trans (.count _ _ _ _)).trans (.log _ _ _ _ _ _)) o2

theorem FailFrame.unpark (s : Part) (i sl : Nat) : FailFrame s (s.unpark i sl) := by
  unfold Part.unpark
  dsimp only
  refine .ite (.refl _) (FailFrame.trans ?_ (.of_only (Part.only_returnCredits _ _) (by decide)))
  exact ((FailFrame.onPort s _ _).trans (.onPart _ _ _ _)).trans (.setOd _ _ _ (by decide))

theorem FailFrame.wakePav (s : Part) (p : Nat) : FailFrame s (s.wakePav p) := by
  unfold Part.wakePav
  refine .ite ?_ (.refl _)
  dsimp only
  exact .ite ((FailFrame.setOd s (e := .pavilionPowerState) p 0 (by decide)).trans (.setOd _ _ _ (by decide))) (.setOd _ _ _ (by decide))

theorem FailFrame.forward (s : Part) (r : Req) (st : Nat) (mark : Fwd → Fwd) : FailFrame s (s.forward r st mark) := by
  unfold Part.forward
  dsimp only
  split
  · exact .of_only (s.only_synthetic r) (by decide)
  · refine .ite (.of_only (s.only_synthetic r) (by decide)) ?_
    refine FailFrame.trans ?_ (.of_only (Part.only_sendVia _ _ _ _ _) (by decide))
    refine FailFrame.trans ?_ (.wakePav _ _)
    exact (FailFrame.of_only (s.only_newTag _) (by decide)).trans (.onPart _ _ _ _)

theorem FailFrame.synthetic50 (s : Part) (i : Nat) (f : Fwd) : FailFrame s (s.synthetic50 i f) := by
  unfold Part.synthetic50
  extract_lets sl st a r b c
  split
  · exact ((FailFrame.count s _ _ _).trans (.answerHost _ _ _ _)).trans (.unpark _ _ _)
  · exact .forward _ _ _ _
  · have ha : FailFrame s a := .answerHost _ _ _ _
    have hb : FailFrame a b := .forward _ _ _ _
    have hc : FailFrame b c := (FailFrame.log b _ _ _ _ _).trans (.of_only (Part.only_releaseHold _ _ _ _) (by decide))
    clear_value a b c
    exact ((ha.trans hb).trans hc).trans ((FailFrame.unpark _ _ _).trans (.bundle (.heldAlarm _ _ _)))

theorem FailFrame.loseRequests (s : Part) (p n : Nat) : FailFrame s (s.loseRequests p n) := by
  unfold Part.loseRequests
  refine .iter _ _ fun s i => .iter _ _ fun s e => ?_
  exact (FailFrame.onPart s i e.1 _).trans (.iter _ _ fun s f => (FailFrame.synthetic50 s _ _).trans (.count _ _ _ _))

theorem FailFrame.dropTraffic (s : Part) (n : Nat) : FailFrame s (s.dropTraffic n) := by
  unfold Part.dropTraffic
  extract_lets lost a b c
  have ha : FailFrame s a := .of_only (s.only_onLink _ _) (by decide)
  have hb : FailFrame a b := .iter _ _ fun s p => .ite (.refl _) (.onPav _ _ _)
  have hc : FailFrame b c := .iter _ _ fun s m => .of_only (s.only_loseMsg _ _) (by decide)
  clear_value a b c
  refine (ha.trans hb).trans (hc.trans (.iter _ _ fun s p => ?_))
  unfold Part.releasePaths
  extract_lets l free t
  refine .ite (.refl _) (FailFrame.trans (b := t) (.onPav _ _ _) (.iter _ _ fun s h => ?_))
  unfold Part.deliver
  extract_lets u
  have hu : FailFrame s u := .of_only (s.only_onLink _ _) (by decide)
  clear_value u
  exact hu.trans (.ite ((FailFrame.count u _ _ _).trans (.log _ _ _ _ _ _)) (.ite ((FailFrame.onPav u _ _).trans (.wakePav _ _))
    (.ite (.of_only (u.only_transmit _ _ _ _) (by decide)) (.of_only (u.only_loseMsg _ _) (by decide)))))

theorem FailFrame.chooseDetours (s : Part) : FailFrame s s.chooseDetours := by
  unfold Part.chooseDetours
  dsimp only
  refine FailFrame.trans (.iter _ _ fun s n => ?_) (.iter _ _ fun s n => .of_only (s.only_flushWaiting n) (by decide))
  have h := fun v => FailFrame.setOd s (e := .linkDetour) n v (by decide)
  exact .ite (.refl _) (.ite (h _) ((h _).trans (.log _ _ _ _ _ _)))

theorem FailFrame.portIdle (s : Part) (i : Nat) (hi : i < 65536) : FailFrame s (s.portIdle i) := by
  unfold Part.portIdle Part.conventional
  refine .ite (.refl _) ?_
  extract_lets a b c d
  have h1 : FailFrame s (s.memReset i) := by
    unfold Part.memReset
    refine FailFrame.trans ?_ (.dropUnforwarded _ _)
    exact FailFrame.trans (.setOd _ _ _ (by decide)) (.of_only (Part.only_onPort _ _ _) (by decide))
  have h2 : FailFrame s a := FailFrame.trans h1 (.linkLost _ _ _)
  have h3 : FailFrame s b := by
    have k1 : FailFrame s ((a.onPort i fun t => { t with bme := false }).busMasterStop i) :=
      h2.trans ((FailFrame.of_only (Part.only_onPort _ _ _) (by decide)).trans (.bundle (.busMasterStop _ i)))
    refine k1.trans ?_
    show FailFrame _ (Part.clearWindows _ i)
    unfold Part.clearWindows
    exact FailFrame.trans (.of_only (Part.only_onPort _ _ _) (by decide)) (.bundle (.windowsChanged _ i hi))
  have h4 : FailFrame s c := FailFrame.trans h3 (.of_only (Part.only_onPort _ _ _) (by decide))
  have h5 : FailFrame s d := FailFrame.trans h4 (FailFrame.trans (.setOd _ _ _ (by decide)) (.setOd _ _ _ (by decide)))
  exact .ite (FailFrame.trans h5 (FailFrame.trans (.of_only (Part.only_onPort _ _ _) (by decide)) (.setOd _ _ _ (by decide)))) h5

theorem FailFrame.pavPortsIdle (s : Part) (p : Nat) (hp : p < 8) : FailFrame s (s.pavPortsIdle p) :=
  FailFrame.trans (.portIdle s _ (by omega)) (.portIdle _ _ (by omega))

theorem FailFrame.completeAt (s : Part) (home : Nat) : FailFrame s (s.completeAt home) := by
  unfold Part.completeAt
  refine .iterMem _ s fun s i hi => .iter _ s fun s e => ?_
  have hi : i < 65536 := by have := List.mem_range.mp hi; omega
  extract_lets sl fs a b hs c d
  have h1 : FailFrame s a := .onPart _ _ _ _
  have h2 : FailFrame s b := FailFrame.trans h1 (.iter _ _ fun s f => .ite (.refl _)
    (.ite (FailFrame.trans (.count _ _ _ _) (.answerHost _ _ _ _)) (.answerHost _ _ _ _)))
  have h3 : FailFrame s c := FailFrame.trans h2 (.onPart _ _ _ _)
  have h4 : FailFrame s d := FailFrame.trans h3 (.iter _ _ fun s h => .ite (.refl _) (.iter _ _ fun s r => .answerHost _ _ _ _))
  exact .ite h4 (FailFrame.trans (FailFrame.trans h4 (.bundle (.heldAlarm _ _ _)))
    (.unpark _ _ _))

theorem FailFrame.answerMsg (s : Part) (p : Nat) (m : Msg) : FailFrame s (s.answerMsg p m) := .ite (.refl _) (.send _ _ _ _)

theorem FailFrame.releasePage (s : Part) (p sl lp : Nat) : FailFrame s (s.releasePage p sl lp) := by
  unfold Part.releasePage
  split
  · exact .refl _
  · exact .onPav _ _ _

theorem FailFrame.dropMirror (s : Part) (q sl region : Nat) : FailFrame s (s.dropMirror q sl region) :=
  FailFrame.trans (.give (.dropBlock _ _ _)) (.onPav _ _ _)

theorem FailFrame.loseMirrors (s : Part) (q : Nat) : FailFrame s (s.loseMirrors q) := by
  refine .iter _ s fun s e => .ite (.refl _) ?_
  extract_lets sl region a b
  have h1 : FailFrame s a := .dropMirror s _ _ _
  have h2 : FailFrame a b := ⟨fun _ _ _ _ => rfl, rfl, rfl, rfl⟩
  refine (h1.trans h2).trans ?_
  unfold Part.settleWaits
  exact FailFrame.trans (.onPav _ _ _) (.iter _ _ fun s w =>
    ((FailFrame.answerMsg s _ _).trans (.releasePage _ _ _ _)).trans (.give (.freePage _ _ _ _)))

theorem FailFrame.eventRec (s : Part) (i log : Nat) (r : EventRec) : FailFrame s (s.eventRec i log r) :=
  .of_only (s.only_eventRec _ _ _) (by decide)

theorem FailFrame.poisonAdd (s : Part) (i : Nat) (e : PoisonEnt) : FailFrame s (s.poisonAdd i e) := by
  unfold Part.poisonAdd
  exact FailFrame.trans (.ite (.of_only (Part.only_onPort _ _ _) (by decide)) (.of_only (Part.only_onPort _ _ _) (by decide)))
    (.setOd _ _ _ (by decide))

theorem FailFrame.poisonRegion (s : Part) (p sl region v : Nat) : FailFrame s (s.poisonRegion p sl region v) := by
  unfold Part.poisonRegion
  extract_lets exts q two pages old cells a b c
  have h1 : FailFrame s a := .of_only (s.only_onSlice _ _) (by decide)
  have h2 : FailFrame s b := .ite (FailFrame.trans h1 (.onPav _ _ _)) h1
  have h3 : FailFrame s c := FailFrame.trans h2 (.count _ _ _ _)
  split
  · exact h3
  · exact h3.trans (.iter _ _ fun s le => (FailFrame.eventRec s _ _ _).trans (.poisonAdd _ _ _))

theorem FailFrame.sweepBegins (s : Part) (sl slot : Nat) : FailFrame s (s.sweepBegins sl slot) := by
  unfold Part.sweepBegins
  extract_lets cause ks a b
  have ha : FailFrame s a := ⟨fun _ _ _ _ => rfl, rfl, rfl, rfl⟩
  have hb : FailFrame a b := ((FailFrame.setOd a (e := .sliceKeyActive) _ _ (by decide)).trans
    (.setOd _ (e := .sliceKeyUses) _ _ (by decide))).trans (.setOd _ (e := .rekeyState) _ _ (by decide))
  clear_value a b
  exact (ha.trans hb).trans ((FailFrame.setOd b (e := .rekeyCause) _ _ (by decide)).trans (.log _ _ _ _ _ _))

theorem FailFrame.keyLoaded (s : Part) (p ix : Nat) : FailFrame s (s.keyLoaded p ix) := by
  unfold Part.keyLoaded
  extract_lets a sl slot q b
  have ha : FailFrame s a := .onPav _ _ _
  have hb : FailFrame s b := ha.trans (.setOd _ _ _ (by unfold handleEntry; split <;> decide))
  clear_value a b
  exact .ite (.ite (hb.trans (.sweepBegins _ _ _)) hb) ha

theorem FailFrame.losePavState (s : Part) (p : Nat) : FailFrame s (s.losePavState p) := by
  unfold Part.losePavState
  extract_lets a b away lost v c
  have ha : FailFrame s a := .iter _ _ fun s e => .give (.freePage _ _ _ _)
  have hb : FailFrame a b := .iter _ _ fun s e => .give (.dropCask _ _ _ _)
  have hc : FailFrame b c := .onPav _ _ _
  clear_value a b c
  exact ((ha.trans hb).trans hc).trans (.iter _ _ fun s ix => .keyLoaded _ _ _)

theorem FailFrame.dropMovesOf (s : Part) (p : Nat) : FailFrame s (s.dropMovesOf p) := by
  refine .iter _ s fun s a => ?_
  split
  · exact .ite (.give (.dropRegionMove _ _)) (.refl _)
  · exact .refl _

theorem FailFrame.forgetPorts (s : Part) (p : Nat) : FailFrame s (s.forgetPorts p) :=
  .iter _ s fun s _ => FailFrame.trans (.of_only (s.only_onPort _ _) (by decide)) (.setOd _ _ _ (by decide))

/-- The links of a pavilion are DISABLED (spec/01 R28). -/
theorem Part.disableLinks_spec (s : Part) (p : Nat) :
    Part.keepsOd (.linkState :: failEntries) s (s.disableLinks p) ∧
    ∀ n : Link, (s.disableLinks p).od .linkState n =
      if (linkEnds n).1 = p ∨ (linkEnds n).2 = p then 5 else s.od .linkState n := by
  unfold Part.disableLinks
  extract_lets ns a b c
  have h1 : Part.keepsOd [.linkState] s a := Part.keepsOd_iter _ _ fun s n _ => Part.keepsOd_setAny _ _ _ (by simp)
  have h2 : FailFrame a b := .iter _ _ fun s n => FailFrame.trans (.dropTraffic _ _) (.of_only (Part.only_onLink _ _ _) (by decide))
  have h3 : FailFrame b c := FailFrame.trans (.chooseDetours _)
    (.iter _ _ fun s n => .of_only (Part.only_onLink _ _ _) (by decide))
  have h4 : FailFrame c (Machine.iter allPavs c fun s a => Machine.iter ns s fun s n => s.loseRequests a n) :=
    FailFrame.iter _ _ fun s a => .iter _ _ fun s n => .loseRequests _ _ _
  have h5 := ((h2.trans h3).trans h4).od
  refine ⟨Part.keepsOd_trans (Part.keepsOd_mono h1 (by decide)) (Part.keepsOd_mono h5 fun e he => List.mem_cons_of_mem _ he), fun n => ?_⟩
  rw [h5 _ _ (by decide) (by omega)]
  have key : ∀ (l : List Nat) (t : Part), (∀ k ∈ l, k < 65536) → (Machine.iter l t fun s n => s.setOd .linkState n 5).od .linkState n =
      if n.val ∈ l then 5 else t.od .linkState n := by
    intro l
    induction l with
    | nil => intro t _; simp [Machine.iter]
    | cons x l ih =>
      intro t hl
      show (Machine.iter l (t.setOd .linkState x 5) _).od _ _ = _
      rw [ih _ fun k hk => hl k (by simp [hk])]
      rw [Part.od_setOd _ _ _ _ _ _ (hl x (by simp)) (by omega)]
      by_cases h : n.val ∈ l
      · simp [h]
      · by_cases hx : x = n.val
        · simp [h, hx, EntryInfo.bytes, Entry.info]
        · simp [h, hx, Ne.symm hx]
  show a.od _ _ = _
  rw [key ns s fun k hk => by have := (List.mem_filter.mp hk).1; have := List.mem_range.mp this; omega]
  have : n.val ∈ ns ↔ ((linkEnds n).1 = p ∨ (linkEnds n).2 = p) := by
    simp [ns]
  simp only [this]

/-- Disabling links changes no frame held, no power. -/
theorem Part.disableLinks_rest (s : Part) (p : Nat) : (s.disableLinks p).gate.held = s.gate.held ∧ (s.disableLinks p).boot = s.boot ∧
    (s.disableLinks p).power = s.power := by
  unfold Part.disableLinks
  extract_lets ns a b c
  have h1 : ∀ (l : List Nat) (t : Part), (iter l t fun s n => s.setOd .linkState n 5).gate.held = t.gate.held ∧
      (iter l t fun s n => s.setOd .linkState n 5).boot = t.boot ∧ (iter l t fun s n => s.setOd .linkState n 5).power = t.power := by
    intro l
    induction l with
    | nil => intro t; exact ⟨rfl, rfl, rfl⟩
    | cons x l ih => intro t; exact ih (t.setOd .linkState x 5)
  have h2 : FailFrame a b := .iter _ _ fun s n => FailFrame.trans (.dropTraffic _ _) (.of_only (Part.only_onLink _ _ _) (by decide))
  have h3 : FailFrame b c := FailFrame.trans (.chooseDetours _) (.iter _ _ fun s n => .of_only (Part.only_onLink _ _ _) (by decide))
  have h4 : FailFrame c (iter allPavs c fun s a => iter ns s fun s n => s.loseRequests a n) := .iter _ _ fun s a => .iter _ _ fun s n => .loseRequests _ _ _
  have h5 := (h2.trans h3).trans h4
  exact ⟨h5.held.trans (h1 ns s).1, h5.boot.trans (h1 ns s).2.1, h5.power.trans (h1 ns s).2.2⟩

/-! ## Branches, and the part's failure -/

theorem Part.branchDown_spec (s : Part) (b : Nat) (hb : b < 65536) :
    Part.keepsOd [.branchState] s (s.branchDown b) ∧ (s.branchDown b).gate = s.gate ∧ (s.branchDown b).boot = s.boot ∧
    ∀ c : Branch, (s.branchDown b).od .branchState c =
      if c.val = b then (if s.od .branchState b = 4 then 4 else 0) else s.od .branchState c := by
  unfold Part.branchDown
  extract_lets _ a
  have ha : ∀ e i, a.od e i = s.od e i := fun _ _ => rfl
  rw [ha]
  split
  · next h =>
    refine ⟨fun _ _ _ _ => rfl, rfl, rfl, fun c => ?_⟩
    split
    · next e => rw [ha, e, h]
    · rfl
  · refine ⟨fun e i he _ => ?_, rfl, rfl, fun c => ?_⟩
    · rw [Part.od_setOd_ne _ _ _ _ (by rintro rfl; simp at he)]; rfl
    · rw [Part.od_setOd _ _ _ _ _ _ hb (by omega)]
      by_cases e : c.val = b
      · simp [e]
      · simp [e, Ne.symm e]; rfl

/-- A branch that is down stays so. -/
def Part.dark (s : Part) (b : Branch) : Prop := s.od .branchState b = 0 ∨ s.od .branchState b = 4

theorem Part.branchDown_dark (s : Part) (b : Branch) : (s.branchDown b).dark b := by
  unfold Part.dark
  rw [(s.branchDown_spec b (by omega)).2.2.2 b, if_pos rfl]
  split <;> simp

theorem Part.branchDown_keeps {s : Part} {b : Branch} (h : s.dark b) (c : Nat) (hc : c < 65536) : (s.branchDown c).dark b := by
  unfold Part.dark
  rw [(s.branchDown_spec c hc).2.2.2 b]
  unfold Part.dark at h
  split
  · split <;> simp
  · exact h

theorem Part.branchDown_tripped {s : Part} {b : Branch} (h : s.od .branchState b = 4) (c : Nat) (hc : c < 65536) :
    (s.branchDown c).od .branchState b = 4 := by
  rw [(s.branchDown_spec c hc).2.2.2 b]
  split
  · next e => rw [← e, if_pos h]
  · exact h

theorem FailFrame.dark {a b : Part} (h : FailFrame a b) {c : Branch} (k : a.dark c) : b.dark c := by
  unfold Part.dark
  rw [h.od .branchState c (by decide) (by omega)]
  exact k

/-- The entries that the loss of the part changes. -/
def darkEntries : List Entry := .branchState :: failEntries

/-- Every host port idle, every branch down. -/
theorem Part.darken_spec (s : Part) : Part.keepsOd darkEntries s s.darken ∧ s.darken.gate.held = s.gate.held ∧ s.darken.boot = s.boot ∧
    ∀ b : Branch, s.darken.dark b := by
  unfold Part.darken
  extract_lets a
  have ha : FailFrame s a := .iterMem _ _ fun s i hi => .portIdle s i (by have := List.mem_range.mp hi; omega)
  have key : ∀ (l : List Nat) (t : Part), (∀ k ∈ l, k < 65536) →
      Part.keepsOd [.branchState] t (iter l t Part.branchDown) ∧ (iter l t Part.branchDown).gate = t.gate ∧
      (iter l t Part.branchDown).boot = t.boot ∧ ∀ b : Branch, (t.dark b ∨ b.val ∈ l) → (iter l t Part.branchDown).dark b := by
    intro l
    induction l with
    | nil => intro t _; exact ⟨Part.keepsOd_refl _ _, rfl, rfl, fun b h => show t.dark b by simpa using h⟩
    | cons x l ih =>
      intro t hl
      obtain ⟨b1, b2, b3, _⟩ := t.branchDown_spec x (hl x (by simp))
      obtain ⟨h1, h2, h4, h3⟩ := ih (t.branchDown x) fun k hk => hl k (by simp [hk])
      refine ⟨Part.keepsOd_trans b1 h1, h2.trans b2, h4.trans b3, fun b h => h3 b ?_⟩
      rcases h with h | h
      · exact .inl (Part.branchDown_keeps h x (hl x (by simp)))
      · rcases List.mem_cons.mp h with h | h
        · exact .inl (h ▸ t.branchDown_dark b)
        · exact .inr h
  obtain ⟨k1, k2, k4, k3⟩ := key (List.range 16) a fun k hk => by have := List.mem_range.mp hk; omega
  refine ⟨Part.keepsOd_trans (Part.keepsOd_mono ha.od fun e he => List.mem_cons_of_mem _ he) (Part.keepsOd_mono k1 (by decide)), ?_, k4.trans ha.boot,
    fun b => k3 b (.inr (List.mem_range.mpr b.isLt))⟩
  rw [k2]; exact ha.held

/-- The part fails: PART_FAILED 1 with its cause, every port idle, every branch down (spec/01 R23). -/
theorem Part.failPart_spec (s : Part) (cause : Nat) (hc : cause < 256) : Part.keepsOd (.partFailed :: .partFailCause :: darkEntries) s (s.failPart cause) ∧
    (s.failPart cause).gate.held = s.gate.held ∧ (s.failPart cause).boot = s.boot ∧ (∀ b : Branch, s.dark b → (s.failPart cause).dark b) ∧
    (s.failPart cause).od .partFailed 0 = 1 ∧
    (s.od .partFailed 0 ≠ 1 → (s.failPart cause).od .partFailCause 0 = cause ∧ ∀ b : Branch, (s.failPart cause).dark b) := by
  unfold Part.failPart
  split
  · next h => exact ⟨Part.keepsOd_refl _ _, rfl, rfl, fun b h => h, h, fun k => absurd h k⟩
  · generalize e1 : (s.setOd .partFailed 0 1).setOd .partFailCause 0 cause = a
    obtain ⟨h1, h2, h4, h3⟩ := a.darken_spec
    have ka : Part.keepsOd [.partFailed, .partFailCause] s a := e1 ▸ Part.keepsOd_trans
      (Part.keepsOd_setAny (l := [.partFailed, .partFailCause]) s 0 1 (by decide)) (Part.keepsOd_setAny _ 0 cause (by decide))
    refine ⟨Part.keepsOd_trans (Part.keepsOd_mono ka (by decide)) (Part.keepsOd_mono h1 (by decide)), ?_, ?_, fun b _ => h3 b, ?_, fun _ => ⟨?_, h3⟩⟩
    · rw [h2, ← e1]; rfl
    · rw [h4, ← e1]; rfl
    · rw [h1 _ _ (by decide) (by decide), ← e1, Part.od_setOd_ne _ _ _ _ (by decide)]; exact Part.od_setOd_val _ _ _ _ (by decide)
    · rw [h1 _ _ (by decide) (by decide), ← e1]; exact Part.od_setOd_val _ _ _ _ hc

/-- A branch that is TRIPPED stays so when the part fails. -/
theorem Part.failPart_tripped (s : Part) (cause : Nat) (d : Branch) (h : s.od .branchState d = 4) : (s.failPart cause).od .branchState d = 4 := by
  have key : ∀ (l : List Nat) (t : Part), (∀ k ∈ l, k < 65536) → t.od .branchState d = 4 → (iter l t Part.branchDown).od .branchState d = 4 := by
    intro l
    induction l with
    | nil => intro t _ ht; exact ht
    | cons x l ih => intro t hl ht; exact ih _ (fun k hk => hl k (by simp [hk])) (Part.branchDown_tripped ht x (hl x (by simp)))
  unfold Part.failPart
  refine if hf : s.od0 .partFailed = 1 then by rw [if_pos hf]; exact h else ?_
  rw [if_neg hf]
  unfold Part.darken
  extract_lets x
  have hx : x.od .branchState d = 4 := by
    have : FailFrame ((s.setOd .partFailed 0 1).setOd .partFailCause 0 cause) x :=
      .iterMem _ _ fun s i hi => .portIdle s i (by have := List.mem_range.mp hi; omega)
    rw [this.od _ _ (by decide) (by omega), Part.od_setOd_ne _ _ _ _ (by decide), Part.od_setOd_ne _ _ _ _ (by decide)]
    exact h
  clear_value x
  exact key (List.range 16) x (fun k hk => by have := List.mem_range.mp hk; omega) hx

/-- Pavilion 0 is declared lost. -/
theorem Part.losePavilion0_spec (s : Part) (h : s.boot.pav0Lost = false) :
    Part.keepsOd (.mgmtLinkState :: darkEntries) s s.losePavilion0 ∧ s.losePavilion0.od .mgmtLinkState 0 = 0 ∧
    (∀ b : Branch, s.losePavilion0.dark b) ∧ s.losePavilion0.gate.held = s.gate.held ∧
    s.losePavilion0.boot = { s.boot with pav0Lost := true } := by
  unfold Part.losePavilion0
  rw [h, if_neg (by decide)]
  generalize e1 : (({ s with boot := { s.boot with pav0Lost := true } } : Part).setOd .mgmtLinkState 0 0) = a
  obtain ⟨h1, h2, h4, h3⟩ := a.darken_spec
  have ka : Part.keepsOd [.mgmtLinkState] s a := by
    rw [← e1]
    exact Part.keepsOd_trans (b := { s with boot := { s.boot with pav0Lost := true } }) (fun _ _ _ _ => rfl) (Part.keepsOd_setAny _ _ _ (by simp))
  refine ⟨Part.keepsOd_trans (Part.keepsOd_mono ka (by decide)) (Part.keepsOd_mono h1 (by decide)), ?_, h3, ?_, ?_⟩
  · rw [h1 _ _ (by decide) (by decide), ← e1]; exact Part.od_setOd_val _ _ _ _ (by decide)
  · rw [h2, ← e1]; rfl
  · rw [h4, ← e1]; rfl

/-! ## A pavilion fails (spec/01 R26, R51) -/

/-- The entries that the failure of a pavilion changes. -/
def lossEntries : List Entry := .pavilionState :: .pavilionCause :: .linkState :: .channelState :: .partFailed :: .partFailCause :: .ladderEvents :: darkEntries

/-- A pavilion that has failed: FAILED, or RETIRED already; its links DISABLED, its branches down. -/
structure Lost (p cause : Nat) (s : Part) : Prop where
  state : s.od .pavilionState p = 5 ∨ s.od .pavilionState p = 4
  cause : s.od .pavilionCause p = cause
  links : ∀ n : Link, (linkEnds n).1 = p ∨ (linkEnds n).2 = p → s.od .linkState n = 5
  dark : ∀ b : Branch, b.val / 2 = p → s.dark b

/-- A change after a failure: what it leaves, and that a failed pavilion stays one. -/
structure LossFrame (p cause : Nat) (a b : Part) : Prop where
  od : Part.keepsOd lossEntries a b
  held : b.gate.held = a.gate.held
  boot : b.boot = a.boot
  queue : a.power.branchQ = [] → b.power.branchQ = []
  lost : Lost p cause a → Lost p cause b
  trip : ∀ d : Branch, a.od .branchState d = 4 → b.od .branchState d = 4

theorem LossFrame.refl (p c : Nat) (a : Part) : LossFrame p c a a := ⟨Part.keepsOd_refl _ _, rfl, rfl, id, id, fun _ => id⟩

theorem LossFrame.trans {p c : Nat} {a b d : Part} (h : LossFrame p c a b) (k : LossFrame p c b d) : LossFrame p c a d :=
  ⟨Part.keepsOd_trans h.od k.od, k.held.trans h.held, k.boot.trans h.boot, k.queue ∘ h.queue, k.lost ∘ h.lost,
    fun d q => k.trip d (h.trip d q)⟩

theorem LossFrame.ite {p c : Nat} {q : Prop} [Decidable q] {s a b : Part} (h : LossFrame p c s a) (k : LossFrame p c s b) :
    LossFrame p c s (if q then a else b) := by split <;> assumption

/-- A change that leaves the states of the pavilion, of links and of branches. -/
theorem LossFrame.of_od {p c : Nat} {a b : Part} (hp : p < 8) (h : Part.keepsOd lossEntries a b) (hg : b.gate.held = a.gate.held) (hb : b.boot = a.boot)
    (hq : a.power.branchQ = [] → b.power.branchQ = [])
    (k : ∀ e ∈ [Entry.pavilionState, .pavilionCause, .linkState, .branchState], ∀ i < 65536, b.od e i = a.od e i) : LossFrame p c a b :=
  ⟨h, hg, hb, hq, fun l => ⟨by rw [k .pavilionState (by simp) p (by omega)]; exact l.state, by rw [k .pavilionCause (by simp) p (by omega)]; exact l.cause,
    fun n hn => by rw [k .linkState (by simp) n (by omega)]; exact l.links n hn,
    fun b' hb' => by unfold Part.dark; rw [k .branchState (by simp) b' (by omega)]; exact l.dark b' hb'⟩,
    fun d q => by rw [k .branchState (by simp) d (by omega)]; exact q⟩

theorem LossFrame.of_fail {p c : Nat} {a b : Part} (hp : p < 8) (h : FailFrame a b) : LossFrame p c a b :=
  .of_od hp (Part.keepsOd_mono h.od (by decide)) h.held h.boot (fun q => by rw [h.power]; exact q) fun e he i hi => h.od e i (by
    simp only [List.mem_cons, List.not_mem_nil, or_false] at he
    rcases he with rfl | rfl | rfl | rfl <;> decide) hi

theorem LossFrame.of_same {p c : Nat} {a b : Part} (hp : p < 8) (hd : b.dict = a.dict) (hg : b.gate.held = a.gate.held) (hb : b.boot = a.boot)
    (hw : b.power.branchQ = a.power.branchQ) : LossFrame p c a b :=
  have k : ∀ e i, b.od e i = a.od e i := fun e i => by unfold Part.od; rw [hd]
  .of_od hp (fun e i _ _ => k e i) hg hb (fun q => by rw [hw]; exact q) fun e _ i _ => k e i

theorem LossFrame.pavChannels {p c : Nat} (hp : p < 8) (s : Part) (q st : Nat) : LossFrame p c s (s.pavChannels q st) := by
  have h : ∀ (l : List Nat) (t : Part), LossFrame p c t (iter l t fun s k =>
      if s.od .channelState (q * 8 + k) = 0 then s else s.setOd .channelState (q * 8 + k) st) := by
    intro l
    induction l with
    | nil => intro t; exact .refl _ _ _
    | cons x l ih =>
      intro t
      refine LossFrame.trans (.ite (.refl _ _ _) ?_) (ih _)
      exact .of_od hp (Part.keepsOd_setAny _ _ _ (by decide)) rfl rfl id fun e he i _ => Part.od_setOd_ne _ _ _ _ (by
        simp only [List.mem_cons, List.not_mem_nil, or_false] at he
        rcases he with rfl | rfl | rfl | rfl <;> decide)
  exact h _ s

theorem LossFrame.branchDown {p c : Nat} (hp : p < 8) (s : Part) (b : Nat) (hb : b < 65536) : LossFrame p c s (s.branchDown b) := by
  obtain ⟨h1, h2, h3, h4⟩ := s.branchDown_spec b hb
  refine ⟨Part.keepsOd_mono h1 (by decide), by rw [h2], h3, fun q => ?_, fun l => ⟨?_, ?_, fun n hn => ?_, fun d hd => ?_⟩,
    fun d q => Part.branchDown_tripped q b hb⟩
  · unfold Part.branchDown
    have hq : s.power.branchQ.filter (· != b) = [] := by rw [q]; rfl
    dsimp only
    split <;> exact hq
  · rw [h1 _ _ (by decide) (by omega)]; exact l.state
  · rw [h1 _ _ (by decide) (by omega)]; exact l.cause
  · rw [h1 _ _ (by decide) (by omega)]; exact l.links n hn
  · exact Part.branchDown_keeps (l.dark d hd) b hb

theorem LossFrame.failPart {p c : Nat} (hp : p < 8) (s : Part) (cause : Nat) (hc : cause < 256) : LossFrame p c s (s.failPart cause) := by
  obtain ⟨h1, h2, h3, h4, _⟩ := s.failPart_spec cause hc
  refine ⟨Part.keepsOd_mono h1 (by decide), h2, h3, fun q => ?_, fun l => ⟨?_, ?_, fun n hn => ?_, fun d hd => h4 d (l.dark d hd)⟩, s.failPart_tripped cause⟩
  · have key : ∀ (l : List Nat) (t : Part), t.power.branchQ = [] → (iter l t Part.branchDown).power.branchQ = [] := by
      intro l
      induction l with
      | nil => intro t ht; exact ht
      | cons x l ih =>
        intro t ht
        refine ih _ ?_
        unfold Part.branchDown
        have hq : t.power.branchQ.filter (· != x) = [] := by rw [ht]; rfl
        dsimp only
        split <;> exact hq
    unfold Part.failPart
    refine if h : s.od0 .partFailed = 1 then by rw [if_pos h]; exact q else ?_
    · rw [if_neg h]
      unfold Part.darken
      extract_lets x
      have hx : x.power.branchQ = [] := by
        have : FailFrame ((s.setOd .partFailed 0 1).setOd .partFailCause 0 cause) x :=
          .iterMem _ _ fun s i hi => .portIdle s i (by have := List.mem_range.mp hi; omega)
        rw [this.power]; exact q
      clear_value x
      exact key _ x hx
  · rw [h1 _ _ (by decide) (by omega)]; exact l.state
  · rw [h1 _ _ (by decide) (by omega)]; exact l.cause
  · rw [h1 _ _ (by decide) (by omega)]; exact l.links n hn

theorem LossFrame.checkService {p c : Nat} (hp : p < 8) (s : Part) : LossFrame p c s s.checkService :=
  .ite (.failPart hp s 1 (by decide)) (.refl _ _ _)

theorem LossFrame.leaveSwap {p c : Nat} (hp : p < 8) (s : Part) (q : Nat) : LossFrame p c s (s.leaveSwap q) :=
  .ite (.refl _ _ _) (.of_same hp rfl rfl rfl rfl)

theorem LossFrame.discardVintage {p c : Nat} (hp : p < 8) (s : Part) (q : Nat) : LossFrame p c s (s.discardVintage q) := by
  unfold Part.discardVintage
  refine .ite (.refl _ _ _) ?_
  extract_lets ask _ a
  have h : LossFrame p c s a := .of_same hp rfl rfl rfl rfl
  exact h.trans (.of_fail hp ((FailFrame.count _ _ _ _).trans (.log _ _ _ _ _ _)))

theorem LossFrame.askCompile {p c : Nat} (hp : p < 8) (s : Part) (k a : Nat) : LossFrame p c s (s.askCompile k a) :=
  .ite (.refl _ _ _) (.of_same hp rfl rfl rfl rfl)

theorem LossFrame.autoRetire {p c : Nat} (hp : p < 8) (s : Part) (q : Nat) (hq : q < 8) (hn : s.pstate q = 1 ∨ s.pstate q = 2) : LossFrame p c s (s.autoRetire q) := by
  unfold Part.autoRetire
  refine .ite ?_ (.refl _ _ _)
  extract_lets _ a
  have ha : LossFrame p c s a := by
    refine .of_od hp (b := a) ?_ rfl rfl id fun e he i _ => ?_
    · exact Part.keepsOd_trans (b := { s with season := { s.season with retiring := s.season.retiring ++ [q * 2 + b2n (s.pstate q == 2)] } })
        (fun _ _ _ _ => rfl) (Part.keepsOd_setAny _ _ _ (by decide))
    · exact Part.od_setOd_ne _ _ _ _ (by
        simp only [List.mem_cons, List.not_mem_nil, or_false] at he
        rcases he with rfl | rfl | rfl | rfl <;> decide)
  refine LossFrame.trans ?_ (.askCompile hp _ _ _)
  have e1 : a.od .pavilionState q = s.pstate q := Part.od_setOd_ne _ _ _ _ (by decide)
  refine ⟨Part.keepsOd_trans ha.od (Part.keepsOd_trans (Part.keepsOd_setAny _ _ _ (by decide)) (Part.keepsOd_setAny _ _ _ (by decide))), ha.held, ha.boot, ha.queue,
    fun l => ?_, fun d q => by
      rw [Part.od_setOd_ne _ _ _ _ (by decide), Part.od_setOd_ne _ _ _ _ (by decide)]; exact ha.trip d q⟩
  have l := ha.lost l
  have ne : ¬q = p := by
    rintro rfl
    rcases l.state with h | h <;> rw [e1] at h <;> omega
  refine ⟨?_, ?_, fun n hn => ?_, fun d hd => ?_⟩
  · rw [Part.od_setOd_ne _ _ _ _ (by decide), Part.od_setOd_other _ _ (by omega) (by omega) (fun h => ne h.2)]; exact l.state
  · rw [Part.od_setOd_other _ _ (by omega) (by omega) (fun h => ne h.2), Part.od_setOd_ne _ _ _ _ (by decide)]; exact l.cause
  · rw [Part.od_setOd_ne _ _ _ _ (by decide), Part.od_setOd_ne _ _ _ _ (by decide)]; exact l.links n hn
  · unfold Part.dark
    rw [Part.od_setOd_ne _ _ _ _ (by decide), Part.od_setOd_ne _ _ _ _ (by decide)]; exact l.dark d hd

theorem LossFrame.retireNext {p c : Nat} (hp : p < 8) (s : Part) : LossFrame p c s s.retireNext := by
  unfold Part.retireNext
  refine .ite (.refl _ _ _) ?_
  have h : ∀ (l : List Nat) (t : Part), (∀ k ∈ l, k < 8) → LossFrame p c t (iter l t fun s p =>
      if s.pstate p = 1 && (s.od .dramLayers p < s.od0 .pavilionMinLayers || s.od .pavilionWorn p = 1) then s.autoRetire p else s) := by
    intro l
    induction l with
    | nil => intro t _; exact .refl _ _ _
    | cons x l ih =>
      intro t hl
      refine LossFrame.trans ?_ (ih _ fun k hk => hl k (by simp [hk]))
      dsimp only
      split
      · next hc =>
        simp only [Bool.and_eq_true, decide_eq_true_eq] at hc
        exact .autoRetire hp t x (hl x (by simp)) (.inl hc.1)
      · exact .refl _ _ _
  exact h _ s (by decide)

/-- A failed pavilion becomes RETIRED. -/
theorem LossFrame.retired {p c : Nat} (hp : p < 8) (s : Part) (h : s.pstate p = 5) : LossFrame p c s (s.retired p) := by
  have hw : s.inService p = false := by unfold Part.inService; rw [h]; rfl
  unfold Part.retired
  extract_lets was _ a b b' d e
  have e1 : b' = b := if_neg (by simp [was, hw])
  clear_value b'
  subst e1
  refine LossFrame.trans ?_ (.retireNext hp _)
  rw [show was = false from hw, if_neg (by decide)]
  have ha : LossFrame p c s a := .of_same hp rfl rfl rfl rfl
  have hb : LossFrame p c a b := by
    have h0 : LossFrame p c a (a.setOd .pavilionState p 4) :=
      ⟨Part.keepsOd_setAny _ _ _ (by decide), rfl, rfl, id, fun l => ⟨.inr (Part.od_setOd_val _ _ _ _ (by decide)),
        by rw [Part.od_setOd_ne _ _ _ _ (by decide)]; exact l.cause,
        fun n hn => by rw [Part.od_setOd_ne _ _ _ _ (by decide)]; exact l.links n hn,
        fun d hd => by unfold Part.dark; rw [Part.od_setOd_ne _ _ _ _ (by decide)]; exact l.dark d hd⟩,
        fun d q => by rw [Part.od_setOd_ne _ _ _ _ (by decide)]; exact q⟩
    exact h0.trans (.of_fail hp ((FailFrame.setOd _ _ _ (by decide)).trans (.pavPortsIdle _ p hp)))
  have hd : LossFrame p c b d := (((LossFrame.pavChannels hp b p 4).trans (.branchDown hp _ _ (by omega))).trans (.branchDown hp _ _ (by omega))).trans
    (.of_fail hp (.onPav _ _ _))
  exact ((ha.trans hb).trans hd).trans (.ite ((LossFrame.leaveSwap hp _ _).trans (.askCompile hp _ _ _)) (.refl _ _ _))

/-- A pavilion other than 0 fails outside an entry to REST. -/
theorem Part.failOther_spec (s : Part) (p cause : Nat) (hp : p < 8) (hc : cause < 256) (hr : s.rest.step = none) :
    LossFrame p cause s (s.failOther p cause) ∧ Lost p cause (s.failOther p cause) := by
  unfold Part.failOther
  rw [hr]
  simp only [Option.isSome_none, Bool.false_eq_true, if_false]
  generalize e1 : s.dropMovesOf p = a1
  have h1 : FailFrame s a1 := e1 ▸ .dropMovesOf s p
  generalize e2 : ((a1.setOd .pavilionState p 5).setOd .pavilionCause p cause).setOd .pavilionPowerState p 2 = a2
  have k2 : Part.keepsOd [.pavilionState, .pavilionCause, .pavilionPowerState] a1 a2 := by
    rw [← e2]
    exact Part.keepsOd_trans (Part.keepsOd_trans (Part.keepsOd_setAny a1 _ _ (by decide)) (Part.keepsOd_setAny _ _ _ (by decide))) (Part.keepsOd_setAny _ _ _ (by decide))
  generalize e3 : ((a2.pavPortsIdle p).forgetPorts p).completeAt p = a3
  have h3 : FailFrame a2 a3 := e3 ▸ ((FailFrame.pavPortsIdle _ p hp).trans (.forgetPorts _ _)).trans (.completeAt _ _)
  generalize e4 : a3.loseMirrors p = a4
  have h4 : FailFrame a3 a4 := e4 ▸ .loseMirrors _ _
  generalize e5 : iter (a4.regionsHomed p) a4 (fun s e => s.poisonRegion p (e.1 / 65536) (e.1 % 65536) e.2) = a5
  have h5 : FailFrame a4 a5 := e5 ▸ .iter _ _ fun s e => .poisonRegion s _ _ _ _
  generalize e6 : a5.losePavState p = a6
  have h6 : FailFrame a5 a6 := e6 ▸ .losePavState _ _
  have h36 := ((h3.trans h4).trans h5).trans h6
  obtain ⟨d1, d2⟩ := a6.disableLinks_spec p
  have dh : (a6.disableLinks p).gate.held = a6.gate.held ∧ (a6.disableLinks p).boot = a6.boot ∧ (a6.disableLinks p).power = a6.power := a6.disableLinks_rest p
  generalize a6.disableLinks p = a7 at d1 d2 dh
  have st : a7.od .pavilionState p = 5 ∧ a7.od .pavilionCause p = cause := by
    constructor
    · rw [d1 _ _ (by decide) (by omega), h36.od _ _ (by decide) (by omega), ← e2, Part.od_setOd_ne _ _ _ _ (by decide), Part.od_setOd_ne _ _ _ _ (by decide)]
      exact Part.od_setOd_val _ _ _ _ (by decide)
    · rw [d1 _ _ (by decide) (by omega), h36.od _ _ (by decide) (by omega), ← e2, Part.od_setOd_ne _ _ _ _ (by decide)]
      exact Part.od_setOd_val _ _ _ _ hc
  have k7 : Part.keepsOd lossEntries s a7 := Part.keepsOd_trans (Part.keepsOd_mono h1.od (by decide)) (Part.keepsOd_trans (Part.keepsOd_mono k2 (by decide))
    (Part.keepsOd_trans (Part.keepsOd_mono h36.od (by decide)) (Part.keepsOd_mono d1 (by decide))))
  have q7 : a7.gate.held = s.gate.held ∧ a7.boot = s.boot ∧ a7.power = s.power := by
    refine ⟨dh.1.trans (h36.held.trans ?_), dh.2.1.trans (h36.boot.trans ?_), dh.2.2.trans (h36.power.trans ?_)⟩
    · rw [← e2]; exact h1.held
    · rw [← e2]; exact h1.boot
    · rw [← e2]; exact h1.power

  generalize e8 : (a7.pavChannels p 4).pavBranchesDown p = a8
  have h8 : LossFrame p cause a7 a8 := e8 ▸ ((LossFrame.pavChannels hp a7 p 4).trans (.branchDown hp _ _ (by omega))).trans (.branchDown hp _ _ (by omega))
  have l8 : Lost p cause a8 := by
    have c8 : LossFrame p cause a7 (a7.pavChannels p 4) := .pavChannels hp a7 p 4
    have x8 : ∀ e ∈ [Entry.pavilionState, .pavilionCause, .linkState], ∀ i < 65536, a8.od e i = a7.od e i := by
      intro e he i hi
      rw [← e8]
      unfold Part.pavBranchesDown
      have n1 : e ∉ [Entry.branchState] := by
        simp only [List.mem_cons, List.not_mem_nil, or_false] at he ⊢
        rcases he with rfl | rfl | rfl <;> decide
      rw [(Part.branchDown_spec _ _ (by omega)).1 e i n1 hi, (Part.branchDown_spec _ _ (by omega)).1 e i n1 hi]
      have : Part.keepsOd [.channelState] a7 (a7.pavChannels p 4) := Part.keepsOd_iter _ _ fun s k _ => Part.keepsOd_ite (Part.keepsOd_refl _ _) (Part.keepsOd_setAny _ _ _ (by simp))
      exact this e i (by
        simp only [List.mem_cons, List.not_mem_nil, or_false] at he ⊢
        rcases he with rfl | rfl | rfl <;> decide) hi
    refine ⟨.inl ?_, ?_, fun n hn => ?_, fun b hb => ?_⟩
    · rw [x8 _ (by simp) p (by omega)]; exact st.1
    · rw [x8 _ (by simp) p (by omega)]; exact st.2
    · rw [x8 _ (by simp) n (by omega), d2, if_pos hn]
    · rw [← e8]
      unfold Part.pavBranchesDown
      have : b.val = 2 * p ∨ b.val = 2 * p + 1 := by omega
      rcases this with h | h
      · rw [← h]; exact Part.branchDown_keeps (Part.branchDown_dark _ b) _ (by omega)
      · rw [← h]; exact Part.branchDown_dark _ b
  generalize e9 : (if a8.boot.active then ((a8.leaveSwap p).discardVintage p).askCompile 1 else a8) = a9
  have h9 : LossFrame p cause a8 a9 := e9 ▸ .ite (((LossFrame.leaveSwap hp _ _).trans (.discardVintage hp _ _)).trans (.askCompile hp _ _ _)) (.refl _ _ _)
  generalize e10 : (if s.inService p then a9.checkService else a9) = a10
  have h10 : LossFrame p cause a9 a10 := e10 ▸ .ite (.checkService hp _) (.refl _ _ _)
  have h11 : LossFrame p cause a10 (a10.retireIfEmpty p) := by
    unfold Part.retireIfEmpty
    have r3 : ¬ a10.pstate p = 3 := by
      rcases (h10.lost (h9.lost l8)).state with h | h <;> (unfold Part.pstate; rw [h]; decide)
    refine .ite (.refl _ _ _) ?_
    rw [if_neg r3]
    split
    · next h => simp only [Bool.and_eq_true] at h; exact .retired hp _ (by simpa using h.1.1)
    · exact .refl _ _ _
  have hh := ((h8.trans h9).trans h10).trans h11
  exact ⟨⟨Part.keepsOd_trans k7 hh.od, hh.held.trans q7.1, hh.boot.trans q7.2.1, fun q => hh.queue (by rw [q7.2.2]; exact q), fun _ => h11.lost (h10.lost (h9.lost l8)), fun d q => hh.trip d (by
    rw [d1 _ _ (by decide) (by omega), h36.od _ _ (by decide) (by omega), k2 _ _ (by decide) (by omega), h1.od _ _ (by decide) (by omega)]; exact q)⟩,
    h11.lost (h10.lost (h9.lost l8))⟩

/-- Pavilion 0 fails. -/
theorem Part.failZero_spec (s : Part) (cause : Nat) (hc : cause < 256) :
    Part.keepsOd (.pavilionState :: .pavilionCause :: .linkState :: failEntries) s (s.failZero cause) ∧
    (s.failZero cause).gate.held = s.gate.held ∧ (s.failZero cause).boot = s.boot ∧ (s.failZero cause).power = s.power ∧
    (s.failZero cause).od .pavilionState 0 = 5 ∧ (s.failZero cause).od .pavilionCause 0 = cause ∧
    ∀ n : Link, (linkEnds n).1 = 0 ∨ (linkEnds n).2 = 0 → (s.failZero cause).od .linkState n = 5 := by
  unfold Part.failZero
  extract_lets a
  have ka : Part.keepsOd [.pavilionState, .pavilionCause, .pavilionPowerState] s a :=
    Part.keepsOd_trans (Part.keepsOd_trans (Part.keepsOd_setAny s _ _ (by decide)) (Part.keepsOd_setAny _ _ _ (by decide))) (Part.keepsOd_setAny _ _ _ (by decide))
  have hb : FailFrame a (((a.pavPortsIdle 0).forgetPorts 0).completeAt 0) := ((FailFrame.pavPortsIdle _ 0 (by decide)).trans (.forgetPorts _ _)).trans (.completeAt _ _)
  obtain ⟨d1, d2⟩ := (((a.pavPortsIdle 0).forgetPorts 0).completeAt 0).disableLinks_spec 0
  obtain ⟨r1, r2, r3⟩ := (((a.pavPortsIdle 0).forgetPorts 0).completeAt 0).disableLinks_rest 0
  refine ⟨?_, r1.trans hb.held, r2.trans hb.boot, r3.trans hb.power, ?_, ?_, fun n hn => ?_⟩
  · exact Part.keepsOd_trans (Part.keepsOd_mono ka (by decide)) (Part.keepsOd_trans (Part.keepsOd_mono hb.od (by decide)) (Part.keepsOd_mono d1 (by decide)))
  · rw [d1 _ _ (by decide) (by decide), hb.od _ _ (by decide) (by decide)]
    show (((s.setOd .pavilionState 0 5).setOd .pavilionCause 0 cause).setOd .pavilionPowerState 0 2).od _ _ = _
    rw [Part.od_setOd_ne _ _ _ _ (by decide), Part.od_setOd_ne _ _ _ _ (by decide)]
    exact Part.od_setOd_val _ _ _ _ (by decide)
  · rw [d1 _ _ (by decide) (by decide), hb.od _ _ (by decide) (by decide)]
    show (((s.setOd .pavilionState 0 5).setOd .pavilionCause 0 cause).setOd .pavilionPowerState 0 2).od _ _ = _
    rw [Part.od_setOd_ne _ _ _ _ (by decide)]
    exact Part.od_setOd_val _ _ _ _ hc
  · rw [d2 n, if_pos hn]

@[simp] theorem Part.askCompile_od (s : Part) (k a : Nat) (e : Entry) (i : Nat) : (s.askCompile k a).od e i = s.od e i := by
  unfold Part.askCompile; dsimp only; split <;> rfl

@[simp] theorem Part.askCompile_inForce (s : Part) (k a : Nat) : (s.askCompile k a).vint.inForce = s.vint.inForce := by
  unfold Part.askCompile; dsimp only; split <;> rfl

@[simp] theorem Part.leaveSwap_od (s : Part) (p : Nat) (e : Entry) (i : Nat) : (s.leaveSwap p).od e i = s.od e i := by
  unfold Part.leaveSwap; dsimp only; split <;> rfl

/-! ## Commands of a pavilion (spec/01 R26) -/

/-- A key that reads other than the value of unlisted keys is listed with what it reads. -/
theorem Sparse.mem_of_get {α : Type} {d : α} {m : Sparse α} {k : Nat} (h : m.get d k ≠ d) : (k, m.get d k) ∈ m := by
  induction m with
  | nil => exact absurd rfl h
  | cons x m ih =>
    obtain ⟨j, v⟩ := x
    rw [Sparse.get_cons] at h ⊢
    split at h
    · next e => subst e; simp
    · next e => rw [if_neg e]; exact List.mem_cons_of_mem _ (ih h)

theorem mkPlace_home (home mirror dest : Nat) (single moving : Bool) (h : home < 8) (h2 : mirror < 8) (h3 : dest < 8) :
    placeValid (mkPlace home mirror single moving dest) = true ∧ placeHome (mkPlace home mirror single moving dest) = home := by
  revert single moving
  interval_cases home <;> interval_cases mirror <;> interval_cases dest <;> decide

/-- The homes of the regions, as the placement map gives them, stay. -/
def Part.sameHomes (a b : Part) : Prop := ∀ k, placeValid (b.vint.inForce.place.get 0 k) = placeValid (a.vint.inForce.place.get 0 k) ∧
  placeHome (b.vint.inForce.place.get 0 k) = placeHome (a.vint.inForce.place.get 0 k)

theorem placeDest_lt (v : Nat) : placeDest v < 8 := by unfold placeDest; exact bits_lt _ _ _

/-- Giving up mirrors moves no home. -/
theorem Part.loseMirrors_homes (s : Part) (q : Nat) (hq : q < 8) (hs : s.vint.inForce.place.sorted = true) : s.sameHomes (s.loseMirrors q) := by
  unfold Part.loseMirrors
  have key : ∀ (l : List (Nat × Nat)) (t : Part), (∀ e ∈ l, e ∈ s.vint.inForce.place) → s.sameHomes t →
      s.sameHomes (iter l t fun s e =>
        if !placeValid e.2 || placeSingle e.2 || placeMirror e.2 != q || placeHome e.2 = q then s else
        ((s.dropMirror q (e.1 / 65536) (e.1 % 65536)).setPlace (e.1 / 65536) (e.1 % 65536)
          (mkPlace (placeHome e.2) q true (placeMoving e.2) (placeDest e.2))).settleWaits (placeHome e.2) (e.1 / 65536) (e.1 % 65536)) := by
    intro l
    induction l with
    | nil => intro t _ h; exact h
    | cons x l ih =>
      intro t hl h
      refine ih _ (fun e he => hl e (List.mem_cons_of_mem _ he)) ?_
      dsimp only
      split
      · exact h
      · next hc =>
        have hv : placeValid x.2 = true := by
          cases hx : placeValid x.2 with
          | true => rfl
          | false => exact absurd (by simp [hx]) hc
        have hx : s.vint.inForce.place.get 0 x.1 = x.2 := Sparse.get_of_mem hs (hl x (by simp))
        obtain ⟨m1, m2⟩ := mkPlace_home (placeHome x.2) q (placeDest x.2) true (placeMoving x.2) (placeHome_lt _) hq (placeDest_lt _)
        generalize mkPlace (placeHome x.2) q true (placeMoving x.2) (placeDest x.2) = v at m1 m2
        intro k
        have e1 : ∀ (b : Part) (h sl r : Nat), (b.settleWaits h sl r).vint.inForce = b.vint.inForce := by
          intro b h sl r
          unfold Part.settleWaits
          extract_lets mine ws a
          have ha : a.vint.inForce = b.vint.inForce := rfl
          refine Eq.trans ?_ ha
          clear ha
          clear_value a ws
          induction ws generalizing a with
          | nil => rfl
          | cons w ws ih =>
            refine (ih _).trans ?_
            unfold Part.commitDone
            rw [(GiveFrame.freePage _ _ _ _).force]
            have : Part.only [.links, .pavs] a ((a.answerMsg h w.answer).releasePage h sl (w.key % 2 ^ 34)) := by
              refine Part.only_trans (b := a.answerMsg h w.answer) (Part.only_ite (Part.only_refl _ _) (a.only_send _ _ _)) ?_
              unfold Part.releasePage
              split
              · exact Part.only_refl _ _
              · exact Part.only_mono (Part.only_onPav _ _ _) (by decide)
            rw [this .vint (by decide)]
        have e2 : (t.dropMirror q (x.1 / 65536) (x.1 % 65536)).vint = t.vint := by
          unfold Part.dropMirror Part.dropBlock
          have : Part.only [.pavs] t (iter ((t.pav q).blocks.get [] (blockKey (x.1 / 65536) (x.1 % 65536) true)) t fun s e => s.toZeroing q e) :=
            Part.only_iter (fun s e => Part.only_trans (s.only_onPav _ _) (Part.only_onPav _ _ _)) _ _
          exact this .vint (by decide)
        rw [e1]
        have e3 : ∀ (b : Part) sl r, (b.setPlace sl r v).vint.inForce.place = b.vint.inForce.place.set 0 (regionKey sl r) v := fun _ _ _ => rfl
        rw [e3, e2, Sparse.get_set]
        have e4 : regionKey (x.1 / 65536) (x.1 % 65536) = x.1 := by unfold regionKey; omega
        rw [e4]
        split
        · next hk =>
          rw [← hk, hx, m1, m2, hv]
          exact ⟨rfl, rfl⟩
        · exact h k
  exact key _ s (fun e he => he) fun k => ⟨rfl, rfl⟩

/-- A pavilion that homes a region, by the placement map. -/
theorem Part.regionsHomed_ne {s : Part} {p k : Nat} (hv : placeValid (s.vint.inForce.place.get 0 k) = true)
    (hh : placeHome (s.vint.inForce.place.get 0 k) = p) : s.regionsHomed p ≠ [] := by
  intro h
  have : (k, s.vint.inForce.place.get 0 k) ∈ s.regionsHomed p := by
    refine List.mem_filter.mpr ⟨Sparse.mem_of_get (fun q => ?_), by simp [hv, hh]⟩
    rw [q] at hv
    exact absurd hv (by decide)
  rw [h] at this
  cases this

theorem Part.keepsOd_pavChannels (s : Part) (p st : Nat) : Part.keepsOd [.channelState] s (s.pavChannels p st) :=
  Part.keepsOd_iter _ _ fun s _ _ => Part.keepsOd_ite (Part.keepsOd_refl _ _) (Part.keepsOd_setAny _ _ _ (by simp))

/-- The channels of a pavilion take a state; absent ones stay so. -/
theorem Part.pavChannels_od (s : Part) (p st : Nat) (hs : st < 256) (hp : p < 8) (c : Chan) : (s.pavChannels p st).od .channelState c =
    if c.val / 8 = p ∧ s.od .channelState c ≠ 0 then st else s.od .channelState c := by
  have key : ∀ (l : List Nat) (t : Part), l.Nodup → (∀ k ∈ l, k < 8) → (iter l t fun s k =>
      if s.od .channelState (p * 8 + k) = 0 then s else s.setOd .channelState (p * 8 + k) st).od .channelState c =
      if (∃ k ∈ l, c.val = p * 8 + k) ∧ t.od .channelState c ≠ 0 then st else t.od .channelState c := by
    intro l
    induction l with
    | nil => intro t _ _; simp [iter]
    | cons x l ih =>
      intro t hn hl
      have hn' := List.nodup_cons.mp hn
      show (iter l (if t.od .channelState (p * 8 + x) = 0 then t else t.setOd .channelState (p * 8 + x) st) _).od _ _ = _
      rw [ih _ hn'.2 fun k hk => hl k (by simp [hk])]
      have hx := hl x (by simp)
      by_cases hc : c.val = p * 8 + x
      · have hno : ¬ ∃ k ∈ l, c.val = p * 8 + k := by
          rintro ⟨k, hk, e⟩
          have : k = x := by omega
          exact hn'.1 (this ▸ hk)
        rw [if_neg (fun h => hno h.1)]
        have hyes : ∃ k ∈ x :: l, c.val = p * 8 + k := ⟨x, by simp, hc⟩
        by_cases h0 : t.od .channelState c = 0
        · rw [← hc, if_pos h0, if_neg (fun h => h.2 h0)]
        · rw [← hc, if_neg h0, if_pos ⟨hyes, h0⟩]
          exact Part.od_setOd_val _ _ _ _ hs
      · have h1 : (if t.od .channelState (p * 8 + x) = 0 then t else t.setOd .channelState (p * 8 + x) st).od .channelState c = t.od .channelState c := by
          split
          · rfl
          · exact Part.od_setOd_other _ _ (by omega) (by omega) fun h => hc h.2.symm
        rw [h1]
        have : (∃ k ∈ x :: l, c.val = p * 8 + k) ↔ ∃ k ∈ l, c.val = p * 8 + k := by simp [hc]
        simp only [this]
  show (iter (List.range 8) s _).od _ _ = _
  rw [key (List.range 8) s List.nodup_range fun k hk => List.mem_range.mp hk]
  have : (∃ k ∈ List.range 8, c.val = p * 8 + k) ↔ c.val / 8 = p := by
    constructor
    · rintro ⟨k, hk, e⟩; have := List.mem_range.mp hk; omega
    · intro e; exact ⟨c.val % 8, List.mem_range.mpr (by omega), by omega⟩
  simp only [this]

end Sys2Proof.Machine
end

