-- ==== Sys2Proof/Laws/Harvest.lean ====
section
/-!
SUPPORT. What writing the harvest backlog leaves as it is (spec/12 R490), and what bus mastering that begins again leaves.
-/

namespace Sys2Proof.Machine

/-- What logging leaves as it is, but that the backlog may change too. -/
def BacklogFrame (a b : Part) : Prop := LogFrame a { b with backlog := a.backlog }

theorem BacklogFrame.refl (a : Part) : BacklogFrame a a := LogFrame.refl a

theorem BacklogFrame.of_log {a b : Part} (h : LogFrame a b) : BacklogFrame a b where
  only f hf := by
    have q := h.only f hf
    cases f <;> first | exact q | rfl
  od := h.od
  port := h.port
  held := h.held
  sess := h.sess
  sent := h.sent

theorem BacklogFrame.trans {a b c : Part} (h : BacklogFrame a b) (k : BacklogFrame b c) : BacklogFrame a c where
  only f hf := by
    have p := h.only f hf
    have q := k.only f hf
    cases f <;> first | rfl | exact q.trans p
  od e i he hi := (k.od e i he hi).trans (h.od e i he hi)
  port i := by
    obtain ⟨r, m, h1⟩ := h.port i
    obtain ⟨r', m', h2⟩ := k.port i
    refine ⟨r', m', ?_⟩
    have h2 : c.port i = _ := h2
    have h1 : b.port i = _ := h1
    show c.port i = _
    rw [h2, h1]
  held := k.held.trans h.held
  sess i := by
    obtain ⟨x, y, z, h1⟩ := h.sess i
    obtain ⟨x', y', z', h2⟩ := k.sess i
    refine ⟨x', y', z', ?_⟩
    have h2 : c.sess i = _ := h2
    have h1 : b.sess i = _ := h1
    show c.sess i = _
    rw [h2, h1]
  sent := by
    obtain ⟨x, h1⟩ := h.sent
    obtain ⟨y, h2⟩ := k.sent
    have h2 : c.out = _ := h2
    have h1 : b.out = _ := h1
    exact ⟨x ++ y, show c.out = _ by rw [h2, h1, List.append_assoc]⟩

theorem BacklogFrame.setBacklog (a : Part) (l : List Nat) : BacklogFrame a { a with backlog := l } where
  only f _ := by cases f <;> rfl
  od _ _ _ _ := rfl
  port _ := ⟨_, _, rfl⟩
  held := rfl
  sess _ := ⟨_, _, _, rfl⟩
  sent := ⟨[], (List.append_nil _).symm⟩

theorem Part.harvestPort_lt {s : Part} {sl i : Nat} (h : s.harvestPort sl = some i) : i < 16 := by
  unfold Part.harvestPort at h
  dsimp only at h
  split at h <;> (repeat' split at h) <;> simp_all

theorem BacklogFrame.harvestWrite (s : Part) (i body : Nat) (host : Option (Option Nat)) (hi : i < 16) :
    BacklogFrame s (s.harvestWrite i body host).1 := by
  unfold Part.harvestWrite
  dsimp only
  have h := LogFrame.ringWrite s i 1 4 2 (harvestSeal (s.harvestTag i) body) host (by omega)
  split
  · exact .of_log (h.trans (.count _ _ _ _))
  · exact .of_log h

theorem BacklogFrame.iter {α β : Type} {f : Part × β → α → Part × β} (xs : List α) (s : Part × β)
    (h : ∀ s a, BacklogFrame s.1 (f s a).1) : BacklogFrame s.1 (iter xs s f).1 := by
  induction xs generalizing s with
  | nil => exact .refl _
  | cons x xs ih => exact (h s x).trans (ih (f s x))

theorem BacklogFrame.flushBacklog (s : Part) (host : Option (Option Nat)) : BacklogFrame s (s.flushBacklog host).1 := by
  unfold Part.flushBacklog
  dsimp only
  refine (BacklogFrame.setBacklog s []).trans (BacklogFrame.iter _ ({ s with backlog := [] }, [], []) fun q body => ?_)
  split
  · exact .setBacklog _ _
  · next i h =>
    split
    · exact .setBacklog _ _
    · split
      · exact .harvestWrite _ _ _ _ (Part.harvestPort_lt h)
      · exact (BacklogFrame.harvestWrite _ _ _ _ (Part.harvestPort_lt h)).trans (.setBacklog _ _)

theorem BacklogFrame.drainBacklog (s : Part) : BacklogFrame s s.drainBacklog := by
  unfold Part.drainBacklog
  dsimp only
  exact (BacklogFrame.flushBacklog s none).trans (.of_log (LogFrame.iter _ _ fun s i _ => .msix s i 17))

theorem LogFrame.flushMsix (s : Part) (i : Nat) : LogFrame s (s.flushMsix i) := by
  unfold Part.flushMsix
  dsimp only
  exact (LogFrame.onPort _ _ _ ⟨_, _, rfl⟩).trans (LogFrame.iter _ _ fun s v _ => .msix s i v)

/-- Bus mastering that begins again sends interrupts and writes rings and backlog. -/
theorem BacklogFrame.busMasterResume (s : Part) (i : Nat) : BacklogFrame s (s.busMasterResume i) := by
  unfold Part.busMasterResume
  split
  · exact (BacklogFrame.of_log ((LogFrame.flushMsix s i).trans (.flushNotices _))).trans (.drainBacklog _)
  · exact .refl _

end Sys2Proof.Machine
end

