-- ==== Sys2Proof/Laws/Ingress.lean ====
section
/-!
SUPPORT. What an accepted request leaves as it is before it is queued, and the partition after a request has been forwarded,
completed or resent (spec/07 R284 to R287, spec/02 R92 to R96).
-/

namespace Sys2Proof.Machine

/-! ## Partitions and park rings -/

/-- No partition and no park ring differs. -/
def Part.keepsParts (a b : Part) : Prop := ∀ i, (b.port i).parts = (a.port i).parts ∧ (b.port i).park = (a.port i).park

theorem Part.keepsParts_refl (a : Part) : Part.keepsParts a a := fun _ => ⟨rfl, rfl⟩

theorem Part.keepsParts_trans {a b c : Part} (h : Part.keepsParts a b) (k : Part.keepsParts b c) : Part.keepsParts a c :=
  fun i => ⟨(k i).1.trans (h i).1, (k i).2.trans (h i).2⟩

theorem Part.keepsParts_of_log {a b : Part} (h : LogFrame a b) : Part.keepsParts a b := fun i => by
  obtain ⟨r, m, e⟩ := h.port i
  rw [e]; exact ⟨rfl, rfl⟩

theorem Part.keepsParts_of_ports {a b : Part} (h : Part.keepsPorts a b) : Part.keepsParts a b := fun i => by
  obtain ⟨r, m, l, e⟩ := h i
  rw [e]; exact ⟨rfl, rfl⟩

theorem Part.keepsParts_of_only {fs : List PartField} {a b : Part} (h : Part.only fs a b) (hp : PartField.ports ∉ fs) :
    Part.keepsParts a b := Part.keepsParts_of_ports (Part.keepsPorts_of_only h hp)

theorem Part.keepsParts_onPort (s : Part) (i : Nat) (f : PortState → PortState)
    (h : (f (s.port i)).parts = (s.port i).parts ∧ (f (s.port i)).park = (s.port i).park) : Part.keepsParts s (s.onPort i f) := by
  intro j
  rw [Part.onPort_port]
  split
  · next e => subst e; exact h
  · exact ⟨rfl, rfl⟩

theorem Part.keepsParts_ite {c : Prop} [Decidable c] {s a b : Part} (h : Part.keepsParts s a) (k : Part.keepsParts s b) :
    Part.keepsParts s (if c then a else b) := by split <;> assumption

theorem Part.keepsParts_iter {α : Type} {f : Part → α → Part} (h : ∀ s a, Part.keepsParts s (f s a)) (xs : List α) (s : Part) :
    Part.keepsParts s (iter xs s f) := by
  induction xs generalizing s with
  | nil => exact Part.keepsParts_refl s
  | cons x xs ih => exact Part.keepsParts_trans (h s x) (ih (f s x))

theorem Part.part_of_keepsParts {a b : Part} (h : Part.keepsParts a b) (i sl : Nat) : b.part i sl = a.part i sl := by
  unfold Part.part; rw [(h i).1]

/-! ## Arms and tallies of an accepted request -/

theorem Part.only_armTrigger (s : Part) (i a v h l k sl : Nat) (hi : i < 65536) :
    Part.only logFields s (s.armTrigger i a v h l k sl) := by
  unfold Part.armTrigger
  extract_lets s1 s2 s3
  have h1 : Part.only logFields s s1 := Part.only_mono (s.only_count _ _ _) (by decide)
  have h2 : Part.only logFields s s2 := by
    dsimp only [s2]
    exact Part.only_ite (Part.only_trans h1 (Part.only_mono (Part.only_setOd _ _ _ _) (by decide))) h1
  have h3 : Part.only logFields s s3 := Part.only_trans h2 (LogFrame.ringWrite s2 i 0 2 1 _ none hi).only
  exact Part.only_trans (Part.only_trans h3 (Part.only_mono (Part.only_onPort _ _ _) (by decide)))
    (Part.only_mono (Part.only_msix _ _ _) (by decide))

theorem Part.keepsParts_msix (s : Part) (i v : Nat) : Part.keepsParts s (s.msix i v) :=
  Part.keepsParts_of_log (.msix s i v)

theorem Part.keepsParts_armTrigger (s : Part) (i a v h l k sl : Nat) (hi : i < 65536) :
    Part.keepsParts s (s.armTrigger i a v h l k sl) := by
  unfold Part.armTrigger
  extract_lets s1 s2 s3
  have h1 : Part.keepsParts s s1 := Part.keepsParts_of_only (s.only_count _ _ _) (by decide)
  have h2 : Part.keepsParts s s2 := by
    dsimp only [s2]
    exact Part.keepsParts_ite (Part.keepsParts_trans h1 (Part.keepsParts_of_only (Part.only_setOd _ _ _ _) (by decide))) h1
  have h3 : Part.keepsParts s s3 := Part.keepsParts_trans h2 (Part.keepsParts_of_log (LogFrame.ringWrite s2 i 0 2 1 _ none hi))
  exact Part.keepsParts_trans (Part.keepsParts_trans h3 (Part.keepsParts_onPort _ _ _ ⟨rfl, rfl⟩)) (Part.keepsParts_msix _ _ _)

theorem Part.only_portCount (s : Part) (i : Nat) (e : Entry) (k n h l sl : Nat) (hi : i < 65536) :
    Part.only logFields s (s.portCount i e k n h l sl) := by
  unfold Part.portCount Part.armCheck
  refine Part.only_trans (Part.only_mono (s.only_count _ _ _) (by decide)) (Part.only_iter (fun s a => ?_) _ _)
  dsimp only
  exact Part.only_ite (Part.only_refl _ _) (Part.only_ite (Part.only_armTrigger _ _ _ _ _ _ _ _ hi) (Part.only_refl _ _))

theorem Part.keepsParts_portCount (s : Part) (i : Nat) (e : Entry) (k n h l sl : Nat) (hi : i < 65536) :
    Part.keepsParts s (s.portCount i e k n h l sl) := by
  unfold Part.portCount Part.armCheck
  refine Part.keepsParts_trans (Part.keepsParts_of_only (s.only_count _ _ _) (by decide)) (Part.keepsParts_iter (fun s a => ?_) _ _)
  dsimp only
  exact Part.keepsParts_ite (Part.keepsParts_refl _)
    (Part.keepsParts_ite (Part.keepsParts_armTrigger _ _ _ _ _ _ _ _ hi) (Part.keepsParts_refl _))

theorem Part.only_countRequest (s : Part) (r : Req) (hi : r.port < 65536) : Part.only logFields s (s.countRequest r) := by
  unfold Part.countRequest
  dsimp only
  split <;> exact Part.only_trans (Part.only_portCount _ _ _ _ _ _ _ _ hi) (Part.only_portCount _ _ _ _ _ _ _ _ hi)

theorem Part.keepsParts_countRequest (s : Part) (r : Req) (hi : r.port < 65536) : Part.keepsParts s (s.countRequest r) := by
  unfold Part.countRequest
  dsimp only
  split <;> exact Part.keepsParts_trans (Part.keepsParts_portCount _ _ _ _ _ _ _ _ hi) (Part.keepsParts_portCount _ _ _ _ _ _ _ _ hi)

/-! ## Credits and the decoder -/

theorem Part.keepsParts_giveCredit (s : Part) (i : Nat) (d : Bool) : Part.keepsParts s (s.giveCredit i d) := by
  unfold Part.giveCredit
  dsimp only
  refine Part.keepsParts_ite (Part.keepsParts_onPort _ _ _ (by split <;> exact ⟨rfl, rfl⟩)) (Part.keepsParts_ite ?_ ?_)
  · exact Part.keepsParts_trans (Part.keepsParts_trans (Part.keepsParts_onPort _ _ _ (by split <;> exact ⟨rfl, rfl⟩))
      (Part.keepsParts_of_only (Part.only_count _ _ _ _) (by decide))) (Part.keepsParts_of_log (.logEv _ _ _ _ _ _))
  · exact Part.keepsParts_onPort _ _ _ (by split <;> exact ⟨rfl, rfl⟩)

theorem Part.keepsParts_maskTouch (s : Part) (i r : Nat) : Part.keepsParts s (s.maskTouch i r) := by
  unfold Part.maskTouch
  dsimp only
  exact Part.keepsParts_trans (Part.keepsParts_ite (Part.keepsParts_refl _) (Part.keepsParts_of_only (Part.only_count _ _ _ _) (by decide)))
    (Part.keepsParts_onPort _ _ _ ⟨rfl, rfl⟩)

/-! ## Forwarding -/

/-- A part after a request that its page's region places on a home in service has been forwarded. -/
theorem Part.forward_eq (s : Part) (r : Req) (st home : Nat) (hh : s.homeOf r.slice r.lpage = some home) (hs : s.pstate home ≠ 5) :
    s.forward r st = (((s.newTag (portPav r.port)).2.onPart r.port r.slice fun q => { q with forwarded := q.forwarded ++ [⟨r,
      (s.pav (portPav r.port)).nextTag, home, s.viaOf r home, false, false, false, false, 0⟩] }).wakePav home).sendVia (portPav r.port) (xbarPort r.port)
      (s.viaOf r home) (reqMsg r (s.pav (portPav r.port)).nextTag home st) := by
  unfold Part.forward
  simp only [hh, hs, if_false]
  rfl

/-- The partition after a request has been forwarded: one entry more, nothing else. -/
theorem Part.forward_part (s : Part) (r : Req) (st home : Nat) (hh : s.homeOf r.slice r.lpage = some home) (hs : s.pstate home ≠ 5)
    (i sl : Nat) :
    (s.forward r st).part i sl = if r.port = i ∧ r.slice = sl then { s.part i sl with forwarded := (s.part i sl).forwarded ++ [⟨r,
      (s.pav (portPav r.port)).nextTag, home, s.viaOf r home, false, false, false, false, 0⟩] }
      else s.part i sl := by
  rw [Part.forward_eq s r st home hh hs]
  have h1 : ∀ t : Part, ∀ a c v m, (t.sendVia a c v m).part i sl = t.part i sl := fun t a c v m =>
    Part.part_of_keepsParts (Part.keepsParts_of_only (t.only_sendVia a c v m) (by decide)) i sl
  have h2 : ∀ t : Part, (t.wakePav home).part i sl = t.part i sl := fun t =>
    Part.part_of_keepsParts (Part.keepsParts_of_only (t.only_wakePav home) (by decide)) i sl
  rw [h1, h2, Part.part_onPart]
  have e : ∀ a b, (s.newTag (portPav r.port)).2.part a b = s.part a b := fun _ _ => rfl
  simp only [e]
  split
  · next h => rw [h.1, h.2]
  · rfl

end Sys2Proof.Machine
end

