-- ==== Sys2Proof/Laws/Power.lean ====
section
/-!
SUPPORT. What a loss of the main input leaves (spec/14 R531, R537): the power-input controller's own entries and its view of the
connector.
-/

namespace Sys2Proof.Machine

/-- Reading a table from which the entries of some keys were taken out. -/
theorem Sparse.get_filter {α : Type} (d : α) (m : Sparse α) (f : Nat → Bool) (k : Nat) :
    Sparse.get d (m.filter fun e => f e.1) k = if f k then m.get d k else d := by
  induction m with
  | nil => simp [Sparse.get]
  | cons e r ih =>
    obtain ⟨j, w⟩ := e
    rw [List.filter_cons]
    by_cases h : f j = true
    · rw [if_pos h, Sparse.get_cons, Sparse.get_cons, ih]
      by_cases hj : j = k
      · subst hj; simp [h]
      · simp [hj]
    · rw [if_neg h, ih, Sparse.get_cons]
      by_cases hj : j = k
      · subst hj; simp [h]
      · simp [hj]

/-- The entries that a loss of the core supply sets itself. -/
def lostEntries : List Entry := [.packagePowerState, .bootState, .codebookState, .branchState, .pavilionState, .pavilionPowerState]

theorem keptKey_key {e : Entry} (h : e ∈ keptEntries) (i : Nat) : keptKey (e.key i) = true := by
  refine List.any_eq_true.mpr ⟨e, h, ?_⟩
  rw [beq_iff_eq]
  unfold Entry.key
  omega

@[simp] theorem Part.setCoreEn_od (s : Part) (on : Bool) (e : Entry) (i : Nat) : (s.setCoreEn on).od e i = s.od e i := by
  unfold Part.setCoreEn; split <;> rfl

theorem Part.setCoreEn_power (s : Part) (on : Bool) : (s.setCoreEn on).power = { s.power with coreEn := on } := by
  unfold Part.setCoreEn
  split
  · next h => rw [← h]
  · rfl

/-- The retired pavilions' states alone change as they stay retired. -/
theorem Part.retiredStay_spec (s : Part) : Part.only [.dict] s s.retiredStay ∧
    Part.keepsOd [.pavilionState, .pavilionPowerState] s s.retiredStay := by
  unfold Part.retiredStay
  refine ⟨Part.only_iter (fun s _ => Part.only_trans (s.only_setOd _ _ _) (Part.only_setOd _ _ _ _)) _ _,
    Part.keepsOd_iter _ _ fun s p hp => ?_⟩
  have h : p < 65536 := by
    have h8 : allPavs = [0, 1, 2, 3, 4, 5, 6, 7] := rfl
    have := (List.mem_filter.mp hp).1
    simp only [h8, List.mem_cons, List.not_mem_nil, or_false] at this
    omega
  exact Part.keepsOd_trans (Part.keepsOd_setOd _ _ _ h (by decide)) (Part.keepsOd_setOd _ _ _ h (by decide))

/-- A kept entry reads after the loss as before. -/
theorem Part.coreLost_od (s : Part) {e : Entry} {i : Nat} (hi : i < 65536) (he : e ∈ keptEntries) (hn : e ∉ lostEntries) :
    s.coreLost.od e i = s.od e i := by
  simp only [lostEntries, List.mem_cons, List.not_mem_nil, or_false, not_or] at hn
  unfold Part.coreLost
  rw [(Part.retiredStay_spec _).2 e i (by simp [hn.2.2.2.2.1, hn.2.2.2.2.2]) hi, Part.setCoreEn_od, Part.od_setOd_entry _ _ (by decide) hi (Ne.symm hn.2.2.1), Part.od_setOd_entry _ _ (by decide) hi (Ne.symm hn.2.1),
    Part.od_setOd_entry _ _ (by decide) hi (Ne.symm hn.1)]
  refine (Part.keepsOd_iter (l := [.branchState]) (List.range 16) _ (fun a b hb => Part.keepsOd_setOd a b 0 (by have := List.mem_range.mp hb; omega) (by simp)) e i
    (by simpa using hn.2.2.2.1) hi).trans ?_
  show Sparse.get _ (s.dict.filter fun x => keptKey x.1) _ = _
  rw [Sparse.get_filter, keptKey_key he _, if_pos rfl]
  rfl

/-- The branches' states alone change as the branches go off. -/
theorem Part.only_branchesOff (s : Part) : Part.only [.dict] s (iter (List.range 16) s fun s b => s.setOd .branchState b 0) :=
  Part.only_iter (fun s _ => s.only_setOd _ _ _) _ s

/-- What the power-input controller itself holds after the loss, and the time base. -/
theorem Part.coreLost_power (s : Part) : s.coreLost.power = { s.power with
    branchQ := [], branchTrips := [], limiting := s.power.limiting.filter (· == 0), corePG := false, coreEn := false } ∧
    s.coreLost.now = s.now := by
  unfold Part.coreLost
  extract_lets z z1 z2 z3 a b
  have hb : Part.only [.dict] a b := a.only_branchesOff
  have hp : b.power = a.power := hb .power (by decide)
  have hn : b.now = a.now := hb .now (by decide)
  clear_value b
  have hr := fun t : Part => (t.retiredStay_spec).1
  refine ⟨?_, ?_⟩
  · rw [show ∀ t : Part, t.retiredStay.power = t.power from fun t => hr t .power (by decide), Part.setCoreEn_power]
    show { b.power with coreEn := false } = _
    rw [hp]
  · rw [show ∀ t : Part, t.retiredStay.now = t.now from fun t => hr t .now (by decide)]
    unfold Part.setCoreEn
    split <;> exact hn

/-- The fall of MAIN_PG leaves the controller's entries. -/
theorem Part.mainOff_od (s : Part) {e : Entry} {i : Nat} (hi : i < 65536) (he : e ∈ keptEntries) (hn : e ∉ lostEntries) :
    s.mainOff.od e i = s.od e i := by
  unfold Part.mainOff
  dsimp only
  split
  · rfl
  · have hr : e ≠ .ringState := by rintro rfl; revert he; decide
    unfold Part.corePowerLost Part.setMainPG
    rw [Part.logEv_od _ _ _ _ _ _ hr hi, Part.coreLost_od _ hi he hn]
    split <;> rfl

/-- MAIN_PG is low after it fell, and the connector reads as before. -/
theorem Part.mainOff_power (s : Part) : s.mainOff.power.mainPG = false ∧ s.mainOff.power.rawPresent = s.power.rawPresent ∧
    s.mainOff.power.present = s.power.present ∧ s.mainOff.power.absence = s.power.absence ∧ s.mainOff.power.vin = s.power.vin := by
  unfold Part.mainOff
  dsimp only
  split
  · next h => exact ⟨by simpa using h, rfl, rfl, rfl, rfl⟩
  · next h =>
    unfold Part.corePowerLost Part.setMainPG
    rw [Part.logEv_power, (Part.coreLost_power _).1]
    dsimp only
    split
    · next h' => exact ⟨h', rfl, rfl, rfl, rfl⟩
    · exact ⟨rfl, rfl, rfl, rfl, rfl⟩

/-- The time base runs on. -/
theorem Part.mainOff_now (s : Part) : s.mainOff.now = s.now := by
  unfold Part.mainOff
  dsimp only
  split
  · rfl
  · unfold Part.corePowerLost Part.setMainPG
    rw [Part.logEv_now, (Part.coreLost_power _).2]
    split <;> rfl

end Sys2Proof.Machine
end

