-- ==== Sys2Proof/Laws/Slices.lean ====
section
/-!
SUPPORT. What squashing a slice's work leaves, what a slice's entries read when it is removed, dirty marks, and what forming a
bundle is done over.
-/

namespace Sys2Proof.Machine

/-- The entries that squashing can change. -/
def squashEntries : List Entry := [.sliceReads, .sliceReadBytes, .sliceWrites, .sliceWriteBytes, .ingressParkedNow,
  .sliceLinesPoisoned, .codebookCasks, .casksRaw, .sliceCasksRaw, .codebookState, .ringState]

theorem Part.uncount_spec (s : Part) (e : Entry) (i n : Nat) : Part.only [.dict, .delta] s (s.uncount e i n) ∧
    (e ∈ squashEntries → Part.keepsOd squashEntries s (s.uncount e i n)) := by
  unfold Part.uncount
  extract_lets d t
  have ht : Part.only [.delta] s t := fun f hf => by cases f <;> first | rfl | simp at hf
  have ho : ∀ e i, t.od e i = s.od e i := fun _ _ => rfl
  constructor
  · exact Part.only_ite (Part.only_mono ht (by decide)) (Part.only_trans (Part.only_mono ht (by decide)) (Part.only_mono (t.only_setOd _ _ _) (by decide)))
  · intro he
    exact Part.keepsOd_ite (fun e i _ _ => ho e i) (Part.keepsOd_trans (b := t) (fun e i _ _ => ho e i) (Part.keepsOd_setAny _ _ _ he))

/-- What squashing leaves: every entry but those, every field but these. -/
structure SquashFrame (l : List PartField) (a b : Part) : Prop where
  only : Part.only l a b
  od : Part.keepsOd squashEntries a b
  keeps : ∀ k, (b.slice k).grants = (a.slice k).grants ∧ (b.slice k).bundle = (a.slice k).bundle ∧
    ((b.slice k).drain.isSome = (a.slice k).drain.isSome)

theorem SquashFrame.refl (l : List PartField) (a : Part) : SquashFrame l a a := ⟨Part.only_refl _ _, Part.keepsOd_refl _ _, fun _ => ⟨rfl, rfl, rfl⟩⟩

theorem SquashFrame.trans {l : List PartField} {a b c : Part} (h : SquashFrame l a b) (k : SquashFrame l b c) : SquashFrame l a c :=
  ⟨Part.only_trans h.only k.only, Part.keepsOd_trans h.od k.od, fun i => by
    obtain ⟨x1, x2, x3⟩ := h.keeps i
    obtain ⟨y1, y2, y3⟩ := k.keeps i
    exact ⟨y1.trans x1, y2.trans x2, y3.trans x3⟩⟩

theorem SquashFrame.mono {l l' : List PartField} {a b : Part} (h : SquashFrame l a b) (hl : ∀ f ∈ l, f ∈ l') : SquashFrame l' a b :=
  ⟨Part.only_mono h.only hl, h.od, h.keeps⟩

theorem SquashFrame.ite {l : List PartField} {c : Prop} [Decidable c] {s a b : Part} (h : SquashFrame l s a) (k : SquashFrame l s b) :
    SquashFrame l s (if c then a else b) := by split <;> assumption

theorem SquashFrame.iter {α : Type} {l : List PartField} {f : Part → α → Part} (xs : List α) (s : Part) (h : ∀ s a, SquashFrame l s (f s a)) :
    SquashFrame l s (iter xs s f) := by
  induction xs generalizing s with
  | nil => exact .refl l s
  | cons x xs ih => exact (h s x).trans (ih (f s x))

theorem SquashFrame.of_only {l : List PartField} {a b : Part} (h : Part.only l a b) (hd : PartField.dict ∉ l) (hs : PartField.slices ∉ l) :
    SquashFrame l a b :=
  ⟨h, Part.keepsOd_of_only h hd, fun k => by
    unfold Part.slice; rw [show b.slices = a.slices from h .slices hs]; exact ⟨rfl, rfl, rfl⟩⟩

/-- The fields that squashing a request changes. -/
def squashFields : List PartField := [.dict, .delta, .slices, .out]

theorem SquashFrame.noteSquash (s : Part) (sl op n : Nat) : SquashFrame squashFields s (s.noteSquash sl op n) := by
  unfold Part.noteSquash
  extract_lets t
  have ht : SquashFrame squashFields s t := by
    refine ⟨?_, fun _ _ _ _ => rfl, fun k => ?_⟩
    · exact Part.only_trans (Part.only_mono (s.only_count _ _ _) (by decide)) (Part.only_mono (Part.only_onSlice _ _ _) (by decide))
    · simp only [t, Part.onSlice_slice]
      split
      · next h => subst h; refine ⟨rfl, rfl, ?_⟩; simp
      · exact ⟨rfl, rfl, rfl⟩
  have hu : ∀ (u : Part) (e : Entry) (i n : Nat), e ∈ squashEntries → SquashFrame squashFields u (u.uncount e i n) := fun u e i n he =>
    ⟨Part.only_mono (u.uncount_spec e i n).1 (by decide), (u.uncount_spec e i n).2 he, fun k => by
      unfold Part.slice; rw [show (u.uncount e i n).slices = u.slices from (u.uncount_spec e i n).1 .slices (by decide)]; exact ⟨rfl, rfl, rfl⟩⟩
  split
  · exact ht.trans ((hu _ .sliceReads _ _ (by decide)).trans (hu _ .sliceReadBytes _ _ (by decide)))
  · exact ht.trans ((hu _ .sliceWrites _ _ (by decide)).trans (hu _ .sliceWriteBytes _ _ (by decide)))
  · exact ht.trans ((hu _ .sliceWrites _ _ (by decide)).trans (hu _ .sliceWriteBytes _ _ (by decide)))
  · exact ht

theorem SquashFrame.squash (s : Part) (r : Req) : SquashFrame squashFields s (s.squash r) :=
  ((SquashFrame.of_only (s.only_answerHost _ _ _) (by decide) (by decide)).mono (by decide)).trans (.noteSquash _ _ _ _)

/-- The fields that squashing at the ports changes. -/
def squashPortFields : List PartField := .pavs :: .slices :: logFields

/-- An alarm leaves what squashing leaves. -/
theorem SquashFrame.heldAlarm (s : Part) (sl pav : Nat) : SquashFrame squashPortFields s (s.heldAlarm sl pav) ∧
    Part.keepsPorts s (s.heldAlarm sl pav) :=
  have h := BundleFrame.heldAlarm s sl pav
  have o := s.only_heldAlarm sl pav
  ⟨⟨Part.only_mono o (by decide), Part.keepsOd_mono (s.keepsOd_heldAlarm sl pav) (by decide), fun k => by
    unfold Part.slice; rw [show (s.heldAlarm sl pav).slices = s.slices from o .slices (by decide)]; exact ⟨rfl, rfl, rfl⟩⟩, h.ports⟩

/-- Nothing of a slice is queued or parked at a port. -/
def Part.noneWaits (s : Part) (sl i : Nat) : Prop := (s.part i sl).queue = [] ∧ ∀ r ∈ (s.port i).park, r.slice ≠ sl

theorem Part.squashPort_spec (s : Part) (sl i : Nat) : SquashFrame squashPortFields s (Part.squashPort sl s i) ∧
    ∀ j : Nat, (j = i ∨ s.noneWaits sl j) → (Part.squashPort sl s i).noneWaits sl j := by
  unfold Part.squashPort Part.noneWaits
  extract_lets q gone parked reqs a0 a b c
  have ra : Part.only [.ports] (a0.setOd .ingressParkedNow i (a0.port i).park.length) ((a0.setOd .ingressParkedNow i (a0.port i).park.length).returnCredits i) :=
    Part.only_returnCredits _ _
  have fa : SquashFrame squashPortFields s a := by
    refine .ite (.refl _ _) ?_
    refine SquashFrame.trans (b := a0.setOd .ingressParkedNow i (a0.port i).park.length) ?_ ((SquashFrame.of_only ra (by decide) (by decide)).mono (by decide))
    refine SquashFrame.trans (b := a0) ((SquashFrame.of_only (s.only_onPort _ _) (by decide) (by decide)).mono (by decide)) ?_
    exact ⟨Part.only_mono (Part.only_setOd _ _ _ _) (by decide), Part.keepsOd_setAny _ _ _ (by decide), fun _ => ⟨rfl, rfl, rfl⟩⟩
  have fb : SquashFrame squashPortFields s b :=
    .ite fa (fa.trans ((SquashFrame.of_only (a.only_onPart _ _ _) (by decide) (by decide)).mono (by decide)))
  have fc : SquashFrame squashFields b c := .iter _ _ fun s r => .squash s r
  have fd : SquashFrame squashPortFields c (if q.heldWrites = 0 then c else c.heldAlarm sl (portPav i)) ∧
      Part.keepsPorts c (if q.heldWrites = 0 then c else c.heldAlarm sl (portPav i)) := by
    split
    · exact ⟨.refl _ _, Part.keepsPorts_refl _⟩
    · exact SquashFrame.heldAlarm _ _ _
  refine ⟨(fb.trans (fc.mono (by decide))).trans fd.1, fun j hj => ?_⟩
  have e0 : ((if q.heldWrites = 0 then c else c.heldAlarm sl (portPav i)).port j).park = (b.port j).park ∧
      (if q.heldWrites = 0 then c else c.heldAlarm sl (portPav i)).part j sl = b.part j sl := by
    obtain ⟨r, m, l, e⟩ := fd.2 j
    have : c.port j = b.port j := by unfold Part.port; rw [show c.ports = b.ports from fc.only .ports (by decide)]
    unfold Part.part
    rw [e, this]
    exact ⟨rfl, rfl⟩
  rw [e0.1, e0.2]
  have rc : ∀ (v : Part) (j : Nat), ((v.returnCredits i).port j).park = (v.port j).park ∧ ((v.returnCredits i).port j).parts = (v.port j).parts := by
    intro v j
    unfold Part.returnCredits
    dsimp only
    split
    · exact ⟨rfl, rfl⟩
    · rw [Part.onPort_port]
      split
      · next h => subst h; exact ⟨rfl, rfl⟩
      · exact ⟨rfl, rfl⟩
  have pa : (a.port j).park = (if j = i then ((s.port j).park.filter (·.slice != sl)) else (s.port j).park) ∧ (a.port j).parts = (s.port j).parts := by
    simp only [a]
    split
    · next h =>
      refine ⟨?_, rfl⟩
      split
      · next hjx =>
        subst hjx
        have : (s.port j).park.filter (·.slice == sl) = [] := (by simpa using h : parked = [])
        refine (List.filter_eq_self.mpr fun r hr => ?_).symm
        have := List.filter_eq_nil_iff.mp this r hr
        simpa using this
      · rfl
    · have := rc (a0.setOd .ingressParkedNow i (a0.port i).park.length) j
      rw [this.1, this.2]
      show (a0.port j).park = _ ∧ (a0.port j).parts = _
      simp only [a0, Part.onPort_port]
      by_cases hjx : j = i
      · subst hjx; simp
      · rw [if_neg (fun h => hjx h.symm)]; simp [hjx]
  have pb : (b.port j).park = (a.port j).park := by
    simp only [b]
    split
    · rfl
    · unfold Part.onPart
      rw [Part.onPort_port]
      split
      · next h => rw [← h]
      · rfl
  have tq : s.part j sl = a.part j sl := by unfold Part.part; rw [pa.2]
  constructor
  · simp only [b]
    split
    · next h =>
      rw [← tq]
      by_cases hjx : j = i
      · subst hjx
        have : reqs = [] := by simpa using h
        simp only [reqs, List.append_eq_nil_iff] at this
        exact this.1.1.1
      · rcases hj with hj | hj
        · exact absurd hj hjx
        · exact hj.1
    · rw [Part.part_onPart]
      split
      · rfl
      · next h =>
        rw [← tq]
        rcases hj with hj | hj
        · exact absurd ⟨hj.symm, rfl⟩ h
        · exact hj.1
  · rw [pb, pa.1]
    intro r hr
    split at hr
    · have := (List.mem_filter.mp hr).2
      simpa using this
    · next hjx =>
      rcases hj with hj | hj
      · exact absurd hj hjx
      · exact hj.2 r hr

/-- What of a slice waits at the ports is gone: nothing queued, nothing parked. -/
theorem Part.squashIngress_spec (s : Part) (sl : Nat) : SquashFrame squashPortFields s (s.squashIngress sl) ∧
    ∀ i : Port, (s.squashIngress sl).noneWaits sl i := by
  show SquashFrame squashPortFields s (iter (List.range 16) s (Part.squashPort sl)) ∧ ∀ i : Port, (iter (List.range 16) s (Part.squashPort sl)).noneWaits sl i
  have key : ∀ (l : List Nat) (t : Part), SquashFrame squashPortFields t (iter l t (Part.squashPort sl)) ∧
      ∀ i : Nat, (i ∈ l ∨ t.noneWaits sl i) → (iter l t (Part.squashPort sl)).noneWaits sl i := by
    intro l
    induction l with
    | nil => intro t; exact ⟨.refl _ _, fun i h => show t.noneWaits sl i by simpa using h⟩
    | cons x l ih =>
      intro t
      obtain ⟨h1, h2⟩ := t.squashPort_spec sl x
      obtain ⟨k1, k2⟩ := ih (Part.squashPort sl t x)
      refine ⟨h1.trans k1, fun i hi => k2 i ?_⟩
      rcases hi with hi | hi
      · rcases List.mem_cons.mp hi with h | h
        · exact .inr (h2 i (.inl h))
        · exact .inl h
      · exact .inr (h2 i (.inr hi))
  obtain ⟨k1, k2⟩ := key (List.range 16) s
  exact ⟨k1, fun i => k2 i (.inl (List.mem_range.mpr i.isLt))⟩

/-- The fields that squashing a slice's work changes. -/
def sliceSquashFields : List PartField := [.dict, .delta, .slices, .out, .chans, .pavs, .links, .vint]

theorem SquashFrame.releasePage (s : Part) (p sl lp : Nat) : SquashFrame sliceSquashFields s (s.releasePage p sl lp) := by
  unfold Part.releasePage
  split
  · exact .refl _ _
  · exact (SquashFrame.of_only (Part.only_onPav _ _ _) (by decide) (by decide)).mono (by decide)

theorem SquashFrame.respond (s : Part) (m : Msg) (a b : Nat) : SquashFrame sliceSquashFields s (s.respond m a b) :=
  (SquashFrame.of_only (s.only_respond m a b) (by decide) (by decide)).mono (by decide)

theorem SquashFrame.onPav (s : Part) (p : Nat) (f : PavState → PavState) : SquashFrame sliceSquashFields s (s.onPav p f) :=
  (SquashFrame.of_only (s.only_onPav p f) (by decide) (by decide)).mono (by decide)

theorem SquashFrame.freePlace (s : Part) (p ext k : Nat) : SquashFrame sliceSquashFields s (s.freePlace p ext k) := by
  have o := s.only_freePlace p ext k
  exact (SquashFrame.of_only o (by decide) (by decide)).mono (by decide)

theorem SquashFrame.squashWithheld (s : Part) (sl : Nat) : SquashFrame sliceSquashFields s (s.squashWithheld sl) := by
  unfold Part.squashWithheld
  refine .iter _ _ fun s c => .iter _ _ fun s q => ?_
  split
  · exact .refl _ _
  · next t _ =>
    refine SquashFrame.trans (SquashFrame.trans (b := s.abortTask (c / 8) t) ?_ ((SquashFrame.noteSquash _ _ _ _).mono (by decide))) (.respond _ _ _ _)
    unfold Part.abortTask
    extract_lets mine a
    have ha : SquashFrame sliceSquashFields s a :=
      .iter _ _ fun s k => (SquashFrame.of_only (s.only_onChan _ _) (by decide) (by decide)).mono (by decide)
    have he : SquashFrame sliceSquashFields a (a.endTask (c / 8) t.id) := .onPav _ _ _
    refine (ha.trans he).trans ?_
    unfold Part.giveUp
    extract_lets d
    have hd : SquashFrame sliceSquashFields (a.endTask (c / 8) t.id) d := .ite (.refl _ _) (.freePlace _ _ _ _)
    exact .ite (.refl _ _) (hd.trans (.releasePage _ _ _ _))

theorem SquashFrame.squashFirstWrites (s : Part) (sl : Nat) : SquashFrame sliceSquashFields s (s.squashFirstWrites sl) := by
  unfold Part.squashFirstWrites
  refine .iter _ _ fun s p => ?_
  extract_lets mine ts a
  have ha : SquashFrame sliceSquashFields s a := .onPav _ _ _
  exact .ite (.refl _ _) (ha.trans (.iter _ _ fun s t => ((SquashFrame.releasePage s _ _ _).trans ((SquashFrame.noteSquash _ _ _ _).mono (by decide))).trans (.respond _ _ _ _)))

/-- RESET and REMOVE squash the slice's work at once (spec/10 R409). -/
theorem Part.squashSlice_spec (s : Part) (sl : Nat) : Part.keepsOd squashEntries s (s.squashSlice sl) ∧
    ∀ i : Port, (s.squashSlice sl).noneWaits sl i := by
  obtain ⟨h1, h2⟩ := s.squashIngress_spec sl
  have h3 : SquashFrame sliceSquashFields (s.squashIngress sl) (((s.squashIngress sl).squashWithheld sl).squashFirstWrites sl) :=
    (SquashFrame.squashWithheld _ _).trans (.squashFirstWrites _ _)
  unfold Part.squashSlice
  extract_lets a b
  have step : ∀ t p, Part.only sliceSquashFields t (Part.squashHome sl t p) ∧ Part.keepsOd squashEntries t (Part.squashHome sl t p) := by
    intro t p
    unfold Part.squashHome
    extract_lets u
    have o : Part.only [.pavs] t u := t.only_onPav _ _
    have o1 := Part.only_mono (l' := sliceSquashFields) o (by decide)
    have o2 : Part.keepsOd squashEntries t u := Part.keepsOd_of_only o (by decide)
    have g := GiveFrame.dropRegionMove u p
    clear_value u
    split
    · split
      · exact ⟨Part.only_trans o1 (Part.only_mono g.only (by decide)), Part.keepsOd_trans o2 (Part.keepsOd_mono g.od (by decide))⟩
      · exact ⟨o1, o2⟩
    · exact ⟨o1, o2⟩
  have hb : Part.only sliceSquashFields a b ∧ Part.keepsOd squashEntries a b :=
    ⟨Part.only_iter (fun t p => (step t p).1) _ _, Part.keepsOd_iter _ _ fun t p _ => (step t p).2⟩
  have fin : ∀ c : Part, Part.only sliceSquashFields b c → Part.keepsOd squashEntries b c →
      Part.keepsOd squashEntries s c ∧ ∀ i : Port, c.noneWaits sl i := by
    intro c hc kc
    refine ⟨Part.keepsOd_trans h1.od (Part.keepsOd_trans h3.od (Part.keepsOd_trans hb.2 kc)), fun i => ?_⟩
    have pp : c.ports = (s.squashIngress sl).ports :=
      ((Part.only_trans h3.only (Part.only_trans hb.1 hc)) .ports (by decide))
    have : c.port i = (s.squashIngress sl).port i := by unfold Part.port; rw [pp]
    have := this
    unfold Part.noneWaits Part.part
    rw [this]
    exact h2 i
  split
  · exact fin _ (Part.only_mono (b.only_onSlice _ _) (by decide)) (Part.keepsOd_of_only (b.only_onSlice _ _) (by decide))
  · exact fin b (Part.only_refl _ _) (Part.keepsOd_refl _ _)

theorem Part.keepsOd_disarm (s : Part) (sl : Nat) : Part.keepsOd [.sliceMigrationId] s (s.disarm sl) ∧ (s.disarm sl).od .sliceMigrationId sl = 0 ∧
    Part.only [.dict, .pavs, .slices] s (s.disarm sl) := by
  unfold Part.disarm
  have mk : ∀ (t : Part) (le : Nat) (b : Bool), Part.only [.pavs] t (t.markExt sl le b) := by
    intro t le b
    unfold Part.markExt
    split
    · exact t.only_onPav _ _
    · exact Part.only_refl _ _
  extract_lets a
  have ha : Part.only [.pavs] s a := Part.only_iter (fun s le => mk s le false) _ _
  refine ⟨?_, ?_, ?_⟩
  · exact Part.keepsOd_trans (Part.keepsOd_of_only ha (by decide)) (Part.keepsOd_trans (Part.keepsOd_setAny _ _ _ (by simp)) (Part.keepsOd_of_only (Part.only_onSlice _ _ _) (by decide)))
  · exact Part.od_setOd_val a .sliceMigrationId sl 0 (by decide)
  · exact Part.only_trans (Part.only_mono ha (by decide)) (Part.only_trans (Part.only_mono (a.only_setOd _ _ _) (by decide)) (Part.only_mono (Part.only_onSlice _ _ _) (by decide)))

/-- A list of entries of a slice goes back to its reset values. -/
theorem Part.resetList_od (l : List Entry) (s : Part) (e : Entry) (sl : Nat) (h : sl < 65536) :
    (iter l s fun s e => s.resetOd e sl).od e sl = if e ∈ l then e.info.dflt else s.od e sl := by
  induction l generalizing s with
  | nil => simp [iter]
  | cons x l ih =>
    show (iter l (s.resetOd x sl) _).od e sl = _
    rw [ih, Part.od_resetOd _ _ _ _ _ h h]
    by_cases h1 : e ∈ l
    · simp [h1]
    · by_cases h2 : x = e
      · simp [h2]
      · simp [h1, h2, Ne.symm h2]

end Sys2Proof.Machine
end

