-- ==== Sys2Proof/Laws/Swap.lean ====
section
/-!
SUPPORT. What the parts of a swap leave as they are: the vintages, and every stored value but those that follow a slice's
codebook, its service and its parked requests.
-/

namespace Sys2Proof.Machine

/-- The values that a swap sets beside the settings of its vintage. -/
def swapEntries : List Entry :=
  [.ingressParkedNow, .sliceCodebooksHeld, .codebookSlices, .codebookState, .sliceServiceState, .sliceServicePermille, .ringState,
   .vintageNumber, .vintageDigest]

/-- The vintages stay, and of the stored values all but those of `swapEntries`. -/
def SwapFrame (a b : Part) : Prop := b.vint = a.vint ∧ Part.keepsOd swapEntries a b

theorem SwapFrame.refl (a : Part) : SwapFrame a a := ⟨rfl, Part.keepsOd_refl _ _⟩

theorem SwapFrame.trans {a b c : Part} (h : SwapFrame a b) (k : SwapFrame b c) : SwapFrame a c :=
  ⟨k.1.trans h.1, Part.keepsOd_trans h.2 k.2⟩

theorem SwapFrame.ite {c : Prop} [Decidable c] {s a b : Part} (h : SwapFrame s a) (k : SwapFrame s b) :
    SwapFrame s (if c then a else b) := by split <;> assumption

theorem SwapFrame.iter {α : Type} {f : Part → α → Part} (xs : List α) (s : Part) (h : ∀ s a, a ∈ xs → SwapFrame s (f s a)) :
    SwapFrame s (iter xs s f) := by
  induction xs generalizing s with
  | nil => exact .refl s
  | cons x xs ih => exact (h s x (by simp)).trans (ih (f s x) fun s a ha => h s a (List.mem_cons_of_mem _ ha))

theorem SwapFrame.of_only {l : List PartField} {a b : Part} (h : Part.only l a b) (hd : PartField.dict ∉ l) (hv : PartField.vint ∉ l) :
    SwapFrame a b := ⟨h .vint hv, Part.keepsOd_of_only h hd⟩

theorem SwapFrame.setOd (s : Part) {e : Entry} (i v : Nat) (hi : i < 65536) (he : e ∈ swapEntries) : SwapFrame s (s.setOd e i v) :=
  ⟨rfl, Part.keepsOd_setOd s i v hi he⟩

theorem SwapFrame.of_log {a b : Part} (h : LogFrame a b) : SwapFrame a b :=
  ⟨h.only .vint (by decide), fun e i he hi => h.od e i (fun q => he (q ▸ by decide)) hi⟩

theorem SwapFrame.send (s : Part) (a c : Nat) (m : Msg) : SwapFrame s (s.send a c m) :=
  .of_only (s.only_send a c m) (by decide) (by decide)

theorem SwapFrame.onPav (s : Part) (k : Nat) (f : PavState → PavState) : SwapFrame s (s.onPav k f) :=
  .of_only (s.only_onPav k f) (by decide) (by decide)

theorem SwapFrame.onSlice (s : Part) (k : Nat) (f : SliceState → SliceState) : SwapFrame s (s.onSlice k f) :=
  .of_only (s.only_onSlice k f) (by decide) (by decide)

theorem SwapFrame.onPart (s : Part) (i sl : Nat) (f : Partition → Partition) : SwapFrame s (s.onPart i sl f) :=
  .of_only (s.only_onPart i sl f) (by decide) (by decide)

theorem SwapFrame.takeBlock {s t : Part} {p k : Nat} (h : s.takeBlock p k = some t) : SwapFrame s t := by
  unfold Part.takeBlock at h
  dsimp only at h
  split at h
  · cases h
  · split at h
    · cases h
    · simp only [Option.some.injEq] at h
      rw [← h]
      exact (SwapFrame.onPav _ _ _).trans ((SwapFrame.onPav _ _ _).trans (.onPav _ _ _))

theorem SwapFrame.rehome (s : Part) (sl r old new : Nat) : SwapFrame s (s.rehome sl r old new) := by
  unfold Part.rehome
  refine .ite (.refl s) ?_
  have key : ∀ (t : Part) (l : List Nat), SwapFrame s t → SwapFrame s
      (if t.od .sliceMigrationId sl = 0 then t else Machine.iter l t fun s le => s.markExt sl le true) := by
    intro t l h
    refine .ite h (h.trans (.iter _ _ fun s le _ => ?_))
    unfold Part.markExt
    split
    · exact .onPav _ _ _
    · exact .refl s
  dsimp only
  refine key _ _ (.ite (.onPav _ _ _) (SwapFrame.trans ?_ (.onPav _ _ _)))
  generalize hb : s.takeBlock (placeHome new) (blockKey sl r false) = b
  cases b with
  | none => exact .refl s
  | some t => exact .takeBlock hb

theorem SwapFrame.unpark (s : Part) (i sl : Nat) (hi : i < 65536) : SwapFrame s (s.unpark i sl) := by
  refine ⟨s.only_unpark i sl .vint (by decide), ?_⟩
  unfold Part.unpark
  dsimp only
  refine Part.keepsOd_ite (Part.keepsOd_refl _ _) ?_
  refine Part.keepsOd_trans ?_ (Part.keepsOd_of_only (Part.only_returnCredits _ _) (by decide))
  refine Part.keepsOd_trans ?_ (Part.keepsOd_setOd _ _ _ hi (by decide))
  exact Part.keepsOd_of_only (Part.only_trans (s.only_onPort _ _) (Part.only_onPart _ _ _ _)) (by decide)

theorem SwapFrame.swapIngress (s : Part) (v : Vintage) (h : ∀ e ∈ v.reserved, e.1 < 65536) : SwapFrame s (s.swapIngress v) := by
  unfold Part.swapIngress
  dsimp only
  refine SwapFrame.trans (SwapFrame.iter _ _ fun s i _ => .iter _ _ fun s e _ => .onPart _ _ _ _) (.iter _ _ fun s e he => ?_)
  have := h e he
  exact (SwapFrame.trans (.of_only (s.only_refillMeters _ _) (by decide) (by decide)) (.onPart _ _ _ _)).trans
    (.unpark _ _ _ (by omega))

theorem SwapFrame.bookState (s : Part) (b : Nat) (hb : b < 65536) : SwapFrame s (s.bookState b) := by
  unfold Part.bookState
  dsimp only
  exact .ite (.setOd _ _ _ hb (by decide)) (.ite (.setOd _ _ _ hb (by decide)) (.ite (.setOd _ _ _ hb (by decide)) (.refl s)))

theorem Part.allSlices_lt {s : Part} {sl : Nat} (h : sl ∈ s.allSlices) : sl < 65536 := by
  unfold Part.allSlices at h
  obtain ⟨e, he, rfl⟩ := List.mem_map.mp h
  have := (List.mem_filter.mp he).2
  simp only [Bool.and_eq_true, decide_eq_true_eq] at this
  omega

theorem SwapFrame.bindBooks (s : Part) : SwapFrame s s.bindBooks := by
  unfold Part.bindBooks
  dsimp only
  refine SwapFrame.trans (SwapFrame.iter _ _ fun s q hq => ?_) (.iter _ _ fun s b hb => ?_)
  · obtain ⟨k, hk, rfl⟩ := List.mem_map.mp hq
    exact .setOd _ _ _ (Part.allSlices_lt (List.mem_filter.mp hk).1) (by decide)
  · have : b < 65536 := by have := List.mem_range.mp hb; omega
    exact (SwapFrame.setOd _ _ _ this (by decide)).trans (.bookState _ _ this)

theorem SwapFrame.setService (s : Part) (v : Vintage) : SwapFrame s (s.setService v) := by
  unfold Part.setService
  dsimp only
  have h1 : ∀ l : List Nat, (∀ k ∈ l, k < 65536) → ∀ s : Part, SwapFrame s (Machine.iter l s fun s sl =>
      if v.permille.get 0 sl = 0 then (s.setOd .sliceServiceState sl 0).setOd .sliceServicePermille sl 1000
      else (s.setOd .sliceServiceState sl (if v.permille.get 0 sl = 1001 then 1 else 2)).setOd .sliceServicePermille sl (v.permille.get 0 sl - 1)) := by
    intro l hl s
    refine .iter _ _ fun s k hk => ?_
    have := hl k hk
    exact .ite ((SwapFrame.setOd _ _ _ this (by decide)).trans (.setOd _ _ _ this (by decide)))
      ((SwapFrame.setOd _ _ _ this (by decide)).trans (.setOd _ _ _ this (by decide)))
  have h2 := h1 s.allSlices (fun k hk => Part.allSlices_lt hk) s
  exact .ite (h2.trans (.of_log (.logEv _ _ _ _ _ _))) h2

theorem SwapFrame.capacityNotice (s : Part) (p sl : Nat) : SwapFrame s (s.capacityNotice p sl) := by
  unfold Part.capacityNotice
  exact .iter _ _ fun s _ _ => .send _ _ _ _

theorem SwapFrame.capacityNotices (s : Part) (p : Nat) : SwapFrame s (s.capacityNotices p) := by
  unfold Part.capacityNotices
  exact .iter _ _ fun s _ _ => .ite (.refl s) (.capacityNotice _ _ _)

/-- The notices of what a vintage raises leave the stored values, and of the vintages all but the commons and the shares kept for the
next. -/
theorem Part.raisedNotices_spec (s : Part) : Part.keepsOd swapEntries s s.raisedNotices ∧
    ∃ c h, s.raisedNotices.vint = { s.vint with commons := c, shares := h } := by
  unfold Part.raisedNotices
  extract_lets commons shares was s1 s2 sv
  have h1 : SwapFrame s s1 := .iter _ _ fun s _ _ => .ite (.capacityNotices _ _) (.refl s)
  have h2 : SwapFrame s1 s2 := .iter _ _ fun s _ _ => .ite (.capacityNotice _ _ _) (.refl s)
  have h := h1.trans h2
  exact ⟨h.2, commons, _, congrArg (fun v : VintState => { v with commons := commons, shares := shares.foldl (fun m (q : Nat × Nat) => Sparse.set 0 m q.1 q.2) [] }) h.1⟩

theorem SwapFrame.vendorEvent (s : Part) (i log code : Nat) (sl : Option Nat) (pav dpa la a b d : Nat) :
    SwapFrame s (s.vendorEvent i log code sl pav dpa la a b d) :=
  .of_only (s.only_vendorEvent _ _ _ _ _ _ _ _ _ _) (by decide) (by decide)

theorem SwapFrame.alarm (s : Part) (a : Alarm) (sl pav va vb : Nat) : SwapFrame s (s.alarm a sl pav va vb) := by
  unfold Part.alarm
  dsimp only
  refine SwapFrame.trans ?_ (.of_log (.logEv _ _ _ _ _ _))
  split
  · exact .vendorEvent _ _ _ _ _ _ _ _ _ _ _
  · exact .refl s

theorem SwapFrame.plotAlarm (s : Part) (p sl : Nat) : SwapFrame s (s.plotAlarm p sl) := by
  unfold Part.plotAlarm
  dsimp only
  refine .ite (.refl s) (.ite (.ite (.onPav _ _ _) (.refl s)) (.ite ?_ (.refl s)))
  exact (SwapFrame.onPav _ _ _).trans (.alarm _ _ _ _ _ _)

theorem SwapFrame.commonsAlarm (s : Part) (p : Nat) : SwapFrame s (s.commonsAlarm p) := by
  unfold Part.commonsAlarm
  dsimp only
  refine .ite (.ite (.onPav _ _ _) (.refl s)) (.ite ?_ (.refl s))
  exact ((SwapFrame.onPav _ _ _).trans (.iter _ _ fun s _ _ => .vendorEvent _ _ _ _ _ _ _ _ _ _ _)).trans (.of_log (.logEv _ _ _ _ _ _))

theorem SwapFrame.rebase (s : Part) (sl : Nat) (e : Entry) (k : Nat) : SwapFrame s (s.rebase sl e k) := by
  unfold Part.rebase
  split
  · exact .refl s
  · exact .onSlice _ _ _

theorem Part.only_sendFrame (s : Part) (t : Transport) (f : Frame) : Part.only [.ports, .out] s (s.sendFrame t f) := by
  unfold Part.sendFrame Part.mbox
  split
  · next i =>
    dsimp only
    refine Part.only_ite ?_ (Part.only_refl _ _)
    refine Part.only_trans (Part.only_mono (s.only_onPort i fun q => { q with mboxBusy := none }) (by decide)) ?_
    have h := fun (t : Part) (o : Output) => Part.only_mono (l' := [.ports, .out]) (t.only_emit o) (by decide)
    exact Part.only_ite (h _ _) (Part.only_trans (h _ _) (Part.only_msix _ _ _))
  · exact Part.only_mono (s.only_emit _) (by decide)

theorem Part.only_respondSession (s : Part) (k c p l : Nat) (f : Frame → Frame) :
    Part.only [.gate, .ports, .out] s (s.respondSession k c p l f) := by
  unfold Part.respondSession
  dsimp only
  split
  · exact Part.only_refl _ _
  · exact Part.only_trans (Part.only_mono (s.only_onSess _ _) (by decide)) (Part.only_mono (Part.only_sendFrame _ _ _) (by decide))

theorem Part.only_answerTo (s : Part) (w : Who) (c : Nat) (l : List Nat) : Part.only [.gate, .ports, .out] s (s.answerTo w c l) := by
  unfold Part.answerTo
  split
  · exact Part.only_ite (s.only_respondSession _ _ _ _ _) (Part.only_mono (s.only_emit _) (by decide))
  · exact Part.only_mono (s.only_emit _) (by decide)

/-- One setting of a vintage takes effect. -/
theorem Part.applySettings_cons (s : Part) (w : Staged) (ws : List Staged) :
    ∃ t, s.applySettings (w :: ws) = t.applySettings ws ∧ SwapFrame (s.setOd w.entry w.inst w.value) t := by
  refine ⟨_, rfl, ?_⟩
  dsimp only
  exact .ite (SwapFrame.trans (.ite (.rebase _ _ _ _) (.refl _)) (.onSlice _ _ _)) (.ite (.rebase _ _ _ _) (.refl _))

/-- The settings of a vintage: each has its value, every other stored value stays. -/
theorem Part.applySettings_spec (ws : List Staged) (s : Part) (hi : ∀ w ∈ ws, w.inst < 65536)
    (hn : ∀ w ∈ ws, w.entry ∉ swapEntries) :
    (s.applySettings ws).vint = s.vint ∧
    (∀ w ∈ ws, (∀ u ∈ ws, u.entry = w.entry → u.inst = w.inst → u = w) →
      (s.applySettings ws).od w.entry w.inst = w.value % 2 ^ (8 * w.entry.info.bytes)) ∧
    ∀ e i, e ∉ swapEntries → i < 65536 → (∀ w ∈ ws, ¬(w.entry = e ∧ w.inst = i)) → (s.applySettings ws).od e i = s.od e i := by
  induction ws generalizing s with
  | nil => exact ⟨rfl, by simp, fun _ _ _ _ _ => rfl⟩
  | cons w ws ih =>
    obtain ⟨t, ht, hf⟩ := s.applySettings_cons w ws
    obtain ⟨i1, i2, i3⟩ := ih t (fun w h => hi w (List.mem_cons_of_mem _ h)) (fun w h => hn w (List.mem_cons_of_mem _ h))
    rw [ht]
    have hw := hi w (by simp)
    refine ⟨i1.trans hf.1, ?_, ?_⟩
    · intro u hu huniq
      rcases List.mem_cons.mp hu with rfl | hu'
      · by_cases hm : u ∈ ws
        · exact i2 u hm fun x hx => huniq x (List.mem_cons_of_mem _ hx)
        · rw [i3 u.entry u.inst (hn u (by simp)) hw]
          · rw [hf.2 _ _ (hn u (by simp)) hw, Part.od_setOd_self]
          · intro x hx hc
            exact hm (huniq x (List.mem_cons_of_mem _ hx) hc.1 hc.2 ▸ hx)
      · exact i2 u hu' fun x hx => huniq x (List.mem_cons_of_mem _ hx)
    · intro e i he hii hne
      rw [i3 e i he hii fun x hx => hne x (List.mem_cons_of_mem _ hx), hf.2 _ _ he hii,
        Part.od_setOd_other _ _ hw hii (hne w (by simp))]

/-- Where no pavilion is RETIRING or FAILED none becomes RETIRED. -/
theorem Part.retireEmpty_none (s : Part) (h : ∀ p < 8, s.pstate p ≠ 3 ∧ s.pstate p ≠ 5) : s.retireEmpty = s := by
  have h1 : ∀ p < 8, s.retireIfEmpty p = s := by
    intro p hp
    unfold Part.retireIfEmpty
    simp [(h p hp).1, (h p hp).2]
  unfold Part.retireEmpty
  have : allPavs = [0, 1, 2, 3, 4, 5, 6, 7] := rfl
  rw [this]
  simp only [Machine.iter, List.foldl]
  rw [h1 0 (by decide), h1 1 (by decide), h1 2 (by decide), h1 3 (by decide), h1 4 (by decide), h1 5 (by decide), h1 6 (by decide),
    h1 7 (by decide)]

end Sys2Proof.Machine
end

