-- ==== Sys2Proof/Tests/Slice0.lean ====
section
/-!
SUPPORT. Own tests: an ill-formed command for each check of WellFormed; for each statement with hypotheses, states and
operands that meet them; the spec's worked examples.
-/

namespace Sys2Proof.Tests

open Sys2Proof Sys2Proof.Machine

/-! ## Well-formedness refuses -/

/-- A frame of zeros. -/
def frame0 : Frame := ⟨0, 0, 0, 0, 0, 0, 0, 0, 0, 0, 0, 0, 0, 0, 0, 0, 0⟩

/-- A sender: the monitor. -/
def mon : Who := .monitor

theorem test_wf_frame : (Instr.vopRead (.mctp 8) frame0).wf = true := by decide
theorem test_wf_frame_sequence : (Instr.vopRead (.mctp 8) { frame0 with sequence := 2 ^ 64 }).wf = false := by decide
theorem test_wf_frame_session : (Instr.vopOpen (.mctp 8) { frame0 with session := 2 ^ 32 }).wf = false := by decide
theorem test_wf_frame_result : (Instr.vopClose (.mctp 8) { frame0 with result := 2 ^ 32 }).wf = false := by decide
theorem test_wf_frame_offset : (Instr.vopKeepalive (.mctp 8) { frame0 with offset := 2 ^ 32 }).wf = false := by decide
theorem test_wf_frame_length : (Instr.vopWrite (.mctp 8) { frame0 with length := 2 ^ 16 }).wf = false := by decide
theorem test_wf_frame_transfer : (Instr.vopReadBegin (.mctp 8) { frame0 with transfer := 2 ^ 16 }).wf = false := by decide
theorem test_wf_frame_index : (Instr.vopReadSegment (.mctp 8) { frame0 with index := 2 ^ 16 }).wf = false := by decide
theorem test_wf_frame_subindex : (Instr.vopWriteBegin (.mctp 8) { frame0 with subindex := 256 }).wf = false := by decide
theorem test_wf_frame_opcode : (Instr.vopWriteSegment (.mctp 8) { frame0 with opcode := 256 }).wf = false := by decide
theorem test_wf_frame_kind : (Instr.vopTransferEnd (.mctp 8) { frame0 with kind := 16 }).wf = false := by decide
theorem test_wf_frame_role : (Instr.vopCatalogueRead (.mctp 8) { frame0 with role := 16 }).wf = false := by decide
theorem test_wf_frame_flags : (Instr.vopSubscribe (.mctp 8) { frame0 with flags := 256 }).wf = false := by decide
theorem test_wf_frame_magic : (Instr.vopNotifyAck (.mctp 8) { frame0 with magic := 256 }).wf = false := by decide
theorem test_wf_frame_format : (Instr.vopNotifyPoll (.mctp 8) { frame0 with format := 256 }).wf = false := by decide
theorem test_wf_frame_payload : (Instr.vopClaim (.mctp 8) { frame0 with payload := 1 }).wf = false := by decide
theorem test_wf_frame_auth : (Instr.vopWakeFrame (.mctp 8) { frame0 with auth := 2 ^ 256 }).wf = false := by decide
theorem test_wf_mbox_frame : (Instr.mboxVopTransport 0 { frame0 with payloadLen := 1, payload := 256 }).wf = false := by decide
theorem test_wf_page : (Instr.stallTimerExpiry 0 0 (2 ^ 34)).wf = false := by decide
theorem test_wf_cellar_page : (Instr.channelReadData 0 (.cellarLine 0 (2 ^ 34) false false)).wf = false := by decide
theorem test_wf_tag_frame : (Instr.channelReadData 0 (.tagLine 0 512 0)).wf = false := by decide
theorem test_wf_tag_line : (Instr.channelReadData 0 (.tagLine 0 511 16)).wf = false := by decide
theorem test_wf_key_blob : (Instr.sliceKeyImport mon 0 (256 ^ 112)).wf = false := by decide
theorem test_wf_wrap_slot : (Instr.wrapPeerPublicWrite mon 0 0).wf = false := by decide
theorem test_wf_wrap_point : (Instr.wrapPeerPublicWrite mon 1 (256 ^ 97)).wf = false := by decide
theorem test_wf_wrap_destroy : (Instr.wrapKeyDestroy mon 0).wf = false := by decide
theorem test_wf_role : (Instr.rolePeerPublicWrite mon 0 0).wf = false := by decide
theorem test_wf_role_point : (Instr.rolePeerPublicWrite mon 1 (256 ^ 97)).wf = false := by decide
theorem test_wf_role_destroy : (Instr.roleDestroy mon 0).wf = false := by decide
theorem test_wf_ide_keys : (Instr.ideKmRequest 0 0 (2 ^ 256)).wf = false := by decide
theorem test_wf_policy_length : (Instr.mboxSetEventIntPolicy 0 [0, 0, 0, 0]).wf = false := by decide
theorem test_wf_policy_vector : (Instr.mboxSetEventIntPolicy 0 [0, 0, 17, 0, 0]).wf = false := by decide
theorem test_wf_bundle : (Instr.restoreBundleRead 0 256 1).wf = false := by decide
theorem test_wf_snap_set : (Instr.snapSetWrite mon 0 (256 ^ 1024)).wf = false := by decide +kernel
theorem test_wf_training_channels : (Instr.dramTrainingDone 0 ⟨0, []⟩).wf = false := by decide
theorem test_wf_training_ranks :
    (Instr.dramTrainingDone 0 ⟨0, List.replicate 8 ⟨0, 0, 0, 0, true, true, true, true, 0, 0, []⟩⟩).wf = false := by decide
theorem test_wf_training_lanes : (Instr.dramTrainingDone 0 ⟨0, List.replicate 8 ⟨0, 0, 0, 0, true, true, true, true, 0, 0,
    List.replicate 4 ⟨true, List.replicate 81 [], [], true⟩⟩⟩).wf = false := by decide +kernel
theorem test_wf_training_steps : (Instr.dramTrainingDone 0 ⟨0, List.replicate 8 ⟨0, 0, 0, 0, true, true, true, true, 0, 0,
    List.replicate 4 ⟨true, [], [List.replicate 127 0], true⟩⟩⟩).wf = false := by decide +kernel
theorem test_wf_training_delays : (Instr.dramTrainingDone 0 ⟨0, List.replicate 8 ⟨0, 0, 0, 0, true, true, true, true, 0, 0,
    List.replicate 4 ⟨true, [[2 ^ 128]], [], true⟩⟩⟩).wf = false := by decide +kernel
theorem test_wf_retrain_lanes : (Instr.quickRetrainRankDone 0 []).wf = false := by decide
theorem test_wf_retrain_reads : (Instr.quickRetrainRankDone 0 (List.replicate 80 ⟨2 ^ 17, 0, 0⟩)).wf = false := by decide +kernel
theorem test_wf_retrain_writes : (Instr.quickRetrainRankDone 0 (List.replicate 80 ⟨0, 2 ^ 17, 0⟩)).wf = false := by decide +kernel
theorem test_wf_retrain_eyes : (Instr.quickRetrainRankDone 0 (List.replicate 80 ⟨0, 0, 2 ^ 32⟩)).wf = false := by decide +kernel
theorem test_wf_rebuild_burst : (Instr.rankRebuildExtent ⟨0, [(32768, 0)]⟩).wf = false := by decide
theorem test_wf_rebuild_errors : (Instr.rankRebuildExtent ⟨0, [(0, 2 ^ 640)]⟩).wf = false := by decide +kernel
theorem test_wf_cellar_cache : (Instr.channelReadData 0 (.cellarCacheError 0 (2 ^ 34))).wf = false := by decide
theorem test_wf_heat_line : (Instr.channelReadData 0 (.heatLine 0 (2 ^ 28))).wf = false := by decide
theorem test_wf_branches : (Instr.powerSample 0 0 0 []).wf = false := by decide
theorem test_wf_temperatures : (Instr.ageIntegrate []).wf = false := by decide
theorem test_wf_image_length : (Instr.fwUpdateData mon 0 65537).wf = false := by decide
theorem test_wf_image_data : (Instr.fwUpdateData mon 256 1).wf = false := by decide
theorem test_wf_token : (Instr.debugUnlock mon (256 ^ 136)).wf = false := by decide
theorem test_wf_monitor_role : (Instr.monitorLogin 0 0).wf = false := by decide
theorem test_wf_monitor_answer : (Instr.monitorLogin 1 (2 ^ 128)).wf = false := by decide
theorem test_wf_monitor_value : (Instr.monitorOdWrite 0 0 256 1).wf = false := by decide
theorem test_wf_peek_length : (Instr.monitorPeek 0 0 257).wf = false := by decide
theorem test_wf_peek_across : (Instr.monitorPeek 0 0x7FFFFFFFFF8 9).wf = false := by decide

/-! The checks below are long for their number: one after the other, so that the compiler's waiting threads stay few. -/

set_option Elab.async false

/-! ## Witnesses: for each statement of Obligations.lean with hypotheses, a state and operands that meet them -/

/-- The state after reset with some dictionary entries set and its part changed. -/
def st (l : List (Entry × Nat × Nat)) (f : Part → Part := id) : State :=
  ⟨[], f (l.foldl (fun s x => s.setOd x.1 x.2.1 x.2.2) Part.reset)⟩

/-- A state with its part changed. -/
def but (s : State) (f : Part → Part) : State := { s with part := f s.part }

theorem witness_StepKeepsQueueWellFormed :
    ∃ s t : State, s.pending ≠ [] ∧ s.pending.all Instr.wf = true ∧ step s = .next t :=
  ⟨{ State.reset with pending := [.wakeEvent 15] }, _, by decide, by decide, rfl⟩

theorem witness_EmptyQueueStepAdvancesTime : ∃ s : State, s.pending = [] ∧ s.part.power.vaux = true :=
  ⟨State.reset, by decide⟩

theorem witness_LoggingARecord : ∃ p : Part, (∀ k < 32, (p.sess k).isOpen = false) ∧
    (∀ i < 16, ((p.port i).rings.get Ring.zero 2).enabled = false ∧ ((p.port i).rings.get Ring.zero 2).pending = []) :=
  ⟨Part.reset, by decide⟩

theorem witness_MailboxCommands : ∃ (s : State) (i : Port) (op : BitVec 16) (policy : List Nat) (dpa : U64) (sl logical : Nat),
    (s.part.port i).mboxVector = 0 ∧ (∀ e ∈ mboxEffects, e.1 ≠ op.toNat) ∧ policy.length = 5 ∧ (∀ v ∈ policy, v ≤ 16) ∧
    s.part.ofDpa i dpa.toNat = some (sl, logical) :=
  ⟨st [(.sliceState, 4095, 2), (.slicePort, 4095, 15)] fun s => s.onPort 15 fun t =>
      { t with regionMap := [(0, 2 ^ 31 + 4095 * 2 ^ 16)], masks := [(0, 2)] },
    15, 0xFFFF, [0, 1, 15, 16, 16], 0x200040, 4095, 0x200040, by decide +kernel⟩

theorem witness_MailboxCommands_log : ∃ offset len, 0 < len ∧ offset + len = 4 * mboxEffects.length :=
  ⟨4 * mboxEffects.length - 1, 1, by decide⟩

theorem witness_MailboxTimestamp : ∃ (s t : State) (i : Port),
    (¬(s.part.od0 .timeSource = 2 ∧ s.part.od0 .timeHostPort = i.val)) ∧ t.part.od0 .timeSource = 2 ∧ t.part.od0 .timeHostPort = i.val :=
  ⟨st [], st [(.timeSource, 0, 2), (.timeHostPort, 0, 15)], 15, by decide +kernel⟩

theorem witness_DataObjectsAndLinkKeys : ∃ (s t : State) (i : Port) (k : Fin 2),
    s.part.flash.trust.cert = some 0 ∧ bit (s.part.port i).spdm 0 = false ∧ s.part.measurement 3 = some [0, 0] ∧
    bit (t.part.port i).spdm 0 = true ∧ bit (t.part.port i).spdm 1 = true ∧ bit (t.part.port i).spdm k = true :=
  ⟨st [], st [] fun s => s.onPort 15 fun t => { t with spdm := 3 }, 15, 1, by decide +kernel⟩

theorem witness_PortResets : ∃ (s : State) (i : Port), s.part.od .portState i ≠ 0 ∧ s.part.rest.inRest = false :=
  ⟨st [(.portState, 15, 4)], 15, by decide +kernel⟩

theorem witness_BusMasterAndWindows : ∃ (s : State) (i : Port), s.part.od .portDState i ≠ 0 :=
  ⟨st [(.portDState, 15, 1)], 15, by decide +kernel⟩

theorem witness_PortLinkAndDStates : ∃ (s t u v : State) (i : Port),
    s.part.rest.inRest = false ∧ s.part.rest.step = none ∧ s.part.od .portState i = 1 ∧
    (t.part.od .portState i = 2 ∧ (t.part.port i).perst = false ∧ t.part.od .pavilionPowerState (i / 2) ≠ 1 ∧
      32 ≤ t.part.od .portSpeedLimit i ∧ 8 ≤ t.part.od .portWidthLimit i) ∧
    u.part.od .portState i = 4 ∧ (v.part.od .portState i = 5 ∧ v.part.od .pavilionPowerState (i / 2) ≠ 1) ∧
    (s.part.od .portDState i = 0 ∧ (s.part.port i).bme = false) :=
  ⟨st [(.portState, 15, 1)], st [(.portState, 15, 2)] fun s => s.onPort 15 fun t => { t with perst := false },
    st [(.portState, 15, 4)], st [(.portState, 15, 5)], 15, by decide +kernel⟩

theorem witness_PortLinkAndDStates_choice : ∃ speed width v n : Nat, ∃ flit256 : Bool,
    v ∈ [8, 16, 32, 64] ∧ v ≤ speed ∧ (flit256 = false → v ≤ 32) ∧ v ≤ 64 ∧
    (∀ u ∈ [8, 16, 32, 64], u ≤ speed → (flit256 = false → u ≤ 32) → u ≤ 64 → u ≤ v) ∧
    n ∈ [4, 8, 16] ∧ n ≤ width ∧ n ≤ 16 ∧ (∀ u ∈ [4, 8, 16], u ≤ width → u ≤ 16 → u ≤ n) :=
  ⟨64, 8, 32, 8, false, by decide⟩

theorem witness_DecodersSecurityAndTimeout : ∃ (s : State) (i : Port) (r : Fin 4) (ways granularity position : Nat) (size : U64),
    ways ∈ [1, 2, 3, 4, 6, 8, 12, 16] ∧ granularity ∈ [256, 512, 1024, 2048, 4096, 8192, 16384] ∧ position < ways ∧ size ≠ 0 ∧
    s.part.od .ideState i = 1 ∧ s.part.od .portState i ≠ 0 ∧
    r.val < 3 ∧ ((s.part.port i).rings.get Ring.zero r).enabled = true ∧ ((s.part.port i).rings.get Ring.zero r).faulted = false :=
  ⟨st [(.ideState, 15, 1), (.portState, 15, 4)] fun s => s.onPort 15 fun t => { t with rings := [(2, { Ring.zero with enabled := true })] },
    15, 2, 16, 16384, 15, 1, by decide +kernel⟩

/-- Slice 4095 RUNNING on port 15, 256 MiB of its first DPA GiB accepted, a decoder of 256 MiB at 0. -/
def stHost (f : PortState → PortState := id) : State :=
  st [(.sliceState, 4095, 2), (.slicePort, 4095, 15), (.portState, 15, 4)] fun s => s.onPort 15 fun t => f { t with
    regionMap := [(0, 2 ^ 31 + 4095 * 2 ^ 16)], masks := [(0, 2 ^ 128 - 1)],
    decoders := [(7, ⟨true, 0, 2 ^ 28, 1, 256, 0, 0⟩)] }

theorem witness_HostRequestIsQueued : ∃ (s : State) (i : Port) (hpa m : U64) (sl : Nat) (d : Decoder),
    (s.part.port i).heldReq ≠ 0 ∧ (s.part.port i).heldDat ≠ 0 ∧ m ≠ 0 ∧
    s.part.od .ideState i ≠ 2 ∧ (s.part.port i).decoderOf hpa.toNat = some d ∧
    bit ((s.part.port i).regionMap.get 0 (d.dpa hpa.toNat / 2 ^ 30)) 31 = true ∧
    bits ((s.part.port i).regionMap.get 0 (d.dpa hpa.toNat / 2 ^ 30)) 16 12 = sl ∧
    bit ((s.part.port i).masks.get 0 (d.dpa hpa.toNat / 2 ^ 30)) (d.dpa hpa.toNat % 2 ^ 30 / 2 ^ 21) = true ∧
    s.part.od .slicePort sl = i ∧ s.part.od .sliceState sl = 2 :=
  ⟨stHost, 15, 0x0FFFFFC0, 1, 4095, ⟨true, 0, 2 ^ 28, 1, 256, 0, 0⟩, by decide +kernel⟩

theorem witness_MessagesWithoutAccess : ∃ (s : State) (i : Port), (s.part.port i).heldReq ≠ 0 ∧ (s.part.port i).heldDat ≠ 0 ∧
    (s.part.port i).heldReq + (s.part.port i).heldDat + (s.part.port i).park.length ≤ 65536 :=
  ⟨stHost, 15, by decide +kernel⟩

/-- A read of slice 4095 from port 15. -/
def rq : Req := ⟨.read, 15, 1, 64, 64, 4095, 64, 0, 0, 0, 0, true⟩

/-- The partition of slice 4095 on port 15 with a queue, forwarded requests and a hold list; region 0 at home on pavilion 7. -/
def stPart (q : Partition) (inbox : List Msg := []) : State :=
  but (stHost fun t => { t with parts := [(4095, q)] }) fun s =>
    (s.setPlace 4095 0 (mkPlace 7 6 false false 0)).onPav 7 fun v => { v with inbox := inbox }

theorem witness_PartitionHeadIsForwarded : ∃ (s : State) (i : Port) (sl : Slice) (r : Req) (rest : List Req) (home : Nat),
    (s.part.part i sl).queue = r :: rest ∧ r.port = i ∧ r.slice = sl ∧ (s.part.part i sl).free r = true ∧
    (s.part.part i sl).hold.length < 16 ∧ (s.part.part i sl).hold.any (·.lpage == r.lpage) = false ∧
    s.part.parked (0x0200 + i) = false ∧ s.part.od .sliceCeilingRead sl = 0 ∧ s.part.od .sliceCeilingWrite sl = 0 ∧
    s.part.homeOf sl r.lpage = some home ∧ s.part.pstate home ≠ 5 :=
  ⟨stPart { Partition.none with queue := [rq] }, 15, 4095, rq, [], 7, by decide +kernel⟩

theorem witness_ResponsesAnswerTheHost_read : ∃ (s : State) (q : Pav) (m : Msg) (t : Part) (i : Nat) (f : Fwd),
    s.part.takeMsg q 5 = some (m, t) ∧ t.findFwd q m = some (i, f) ∧ f.req.epoch = s.part.od .portEpoch i ∧ m.status = 0 ∧
    t.squashing m.slice = false ∧ f.req.kind = .read ∧ f.req.answer = true :=
  ⟨stPart { Partition.none with forwarded := [⟨rq, 9, 0, 0, false, false, false, false, 0⟩] } [{ Msg.zero with opcode := 5, tag := 9, label := 4095 }],
    7, _, _, 15, ⟨rq, 9, 0, 0, false, false, false, false, 0⟩, rfl, by decide +kernel⟩

theorem witness_ResponsesAnswerTheHost_write : ∃ (s : State) (q : Pav) (m : Msg) (t : Part) (i : Nat) (f : Fwd),
    s.part.takeMsg q 6 = some (m, t) ∧ t.findFwd q m = some (i, f) ∧ f.req.epoch = s.part.od .portEpoch i ∧ m.status = 0 ∧
    t.squashing m.slice = false ∧ f.req.kind = .write ∧ f.req.answer = true ∧ s.part.heldWrites m.slice = 0 :=
  ⟨stPart { Partition.none with forwarded := [⟨{ rq with kind := .write }, 9, 0, 0, false, false, false, false, 0⟩] }
      [{ Msg.zero with opcode := 6, tag := 9, label := 4095 }],
    7, _, _, 15, ⟨{ rq with kind := .write }, 9, 0, 0, false, false, false, false, 0⟩, rfl, by decide +kernel⟩

theorem witness_ResponsesAnswerTheHost_stale : ∃ (s : State) (q : Pav) (m : Msg) (t : Part) (i : Nat) (f : Fwd),
    s.part.takeMsg q 5 = some (m, t) ∧ t.findFwd q m = some (i, f) ∧ f.req.epoch ≠ s.part.od .portEpoch i :=
  ⟨stPart { Partition.none with forwarded := [⟨{ rq with epoch := 1 }, 9, 0, 0, false, false, false, false, 0⟩] }
      [{ Msg.zero with opcode := 5, tag := 9, label := 4095 }],
    7, _, _, 15, ⟨{ rq with epoch := 1 }, 9, 0, 0, false, false, false, false, 0⟩, rfl, by decide +kernel⟩

theorem witness_HeldWritesAreResent : ∃ (s s2 s3 : State) (i : Port) (q : Pav) (sl : Slice) (lp home : Nat) (r : Req) (src : Nat) (m : Msg) (t : Part),
    q.val = i.val / 2 ∧ r.port = i ∧ r.slice = sl ∧ r.lpage = lp ∧ s.part.homeOf sl lp = some home ∧ s.part.pstate home ≠ 5 ∧
    (s.part.part i sl).hold = [⟨lp, [r], src, false, true, 0⟩] ∧ s.part.takeMsg q 7 = some (m, t) ∧ m.addr = sl ∧ m.src = src ∧
    (s.part.part i sl).forwarded = [] ∧ (∀ j, j ≠ i.val → s.part.part j sl = Partition.none) ∧
    (s2.part.part i sl).hold = [⟨lp, [r], src, false, false, 0⟩] ∧ (s3.part.part i sl).hold = [⟨lp, [r], src, true, false, 0⟩] :=
  ⟨stPart { Partition.none with hold := [⟨0, [rq], 7, false, true, 0⟩] } [{ Msg.zero with opcode := 7, addr := 4095, src := 7 }],
    stPart { Partition.none with hold := [⟨0, [rq], 7, false, false, 0⟩] }, stPart { Partition.none with hold := [⟨0, [rq], 7, true, false, 0⟩] },
    15, 7, 4095, 0, 7, rq, 7, { Msg.zero with opcode := 7, addr := 4095, src := 7 }, _, by decide, by decide, by decide, by decide,
    by decide +kernel, by decide +kernel, by decide +kernel, rfl, by decide, by decide, by decide +kernel,
    fun j h => by
      have h' : ¬15 = j := fun e => h e.symm
      simp [stPart, stHost, st, but, Part.part, Part.port, Part.setPlace, Part.onPav, Part.onPort, Part.setOd, Part.reset, Sparse.modify, Sparse.get,
        Sparse.set, Sparse.put, PortState.zero, h'],
    by decide +kernel, by decide +kernel⟩

theorem witness_ManagementMessages : ∃ (s : State) (q : Pav) (m n : Msg) (t u : Part),
    s.part.takeMsg q 10 = some (m, t) ∧ s.part.takeMsg q 11 = some (n, u) :=
  ⟨but (st []) fun s => s.onPav 7 fun v => { v with inbox := [{ Msg.zero with opcode := 11 }, { Msg.zero with opcode := 10 }] },
    7, _, _, _, _, rfl, rfl⟩

/-- Slice 4095 RUNNING, its region 65535 at home on pavilion 7, whose last page, in the extent 5 with
its tag-region entries in the extent 4, has an entry and whose inbox is given. -/
def stHome (c : Cell) (kind : Nat) (inbox : List Msg) : State :=
  but (st [(.sliceState, 4095, 2)]) fun s => (s.setPlace 4095 65535 (mkPlace 7 6 false false 0)).onPav 7 fun v =>
    { v with inbox := inbox, cellar := [(pageKey 4095 (2 ^ 34 - 1), c)], own := [(4, { Own.free with kind := kindTag, owner := 4095 }), (5, { Own.free with kind := kind, owner := 4095, tagExtent := 4 })] }

/-- A request for the last line of the last page of slice 4095, from pavilion 6. -/
def rqMsg (op data : Nat) : Msg := { Msg.zero with opcode := op, src := 6, dst := 7, label := 4095, addr := 2 ^ 40 - 1, data := data }

/-- An entry of a page in extent 5. -/
def inExt5 (tier cls : Nat) : Cell := { Cell.zero with tier := tier, slotClass := cls, loc := 5 * 4096 }

theorem witness_ReadsOnTheirHome : ∃ (s s2 s3 : State) (p : Pav) (m : Msg) (t t2 t3 : Part),
    (s.part.takeReq p 0 = some (m, t) ∧ t.squashing m.slice = false ∧
      t.regionHeld p m = false ∧ t.homeOf m.slice m.lpage = some p.val ∧ t.isHeld p m.slice m.lpage = false ∧
      t.bounced p m = false ∧ (t.needSlots (t.cell p m.slice m.lpage) m.slice).any (t.keyAway p m.slice) = false ∧
      (t.cell p m.slice m.lpage).tier = tierZero) ∧
    (s2.part.takeReq p 0 = some (m, t2) ∧ t2.squashing m.slice = false ∧
      t2.regionHeld p m = false ∧ t2.homeOf m.slice m.lpage = some p.val ∧ t2.isHeld p m.slice m.lpage = false ∧
      t2.bounced p m = false ∧ (t2.needSlots (t2.cell p m.slice m.lpage) m.slice).any (t2.keyAway p m.slice) = false ∧
      (t2.cell p m.slice m.lpage).tier = tierHot ∧ t2.ownerOk p m.slice (t2.cell p m.slice m.lpage) = true) ∧
    (s3.part.takeReq p 0 = some (m, t3) ∧ t3.squashing m.slice = false ∧
      t3.regionHeld p m = false ∧ t3.homeOf m.slice m.lpage = some p.val ∧ t3.isHeld p m.slice m.lpage = false ∧
      t3.bounced p m = false ∧ (t3.needSlots (t3.cell p m.slice m.lpage) m.slice).any (t3.keyAway p m.slice) = false ∧
      (t3.cell p m.slice m.lpage).tier = tierWarm ∧ t3.ownerOk p m.slice (t3.cell p m.slice m.lpage) = true) :=
  ⟨stHome Cell.zero 0 [rqMsg 0 0], stHome (inExt5 tierHot 0) kindHot [rqMsg 0 0], stHome (inExt5 tierWarm 7) kindCask [rqMsg 0 0], 7, rqMsg 0 0,
    _, _, _, ⟨rfl, by decide +kernel⟩, ⟨rfl, by decide +kernel⟩, ⟨rfl, by decide +kernel⟩⟩

theorem witness_WritesOnTheirHome : ∃ (s s2 s3 s4 : State) (p : Pav) (m m2 m3 m4 : Msg) (t t2 t3 t4 : Part),
    (∀ x ∈ [(s, 1, m, t), (s2, 2, m2, t2), (s3, 3, m3, t3), (s4, 1, m4, t4)],
      x.2.2.1.opcode = x.2.1 ∧ x.2.2.2.squashing x.2.2.1.slice = false ∧ x.2.2.1.status ≠ 7 ∧
      x.2.2.2.regionHeld p x.2.2.1 = false ∧ x.2.2.2.homeOf x.2.2.1.slice x.2.2.1.lpage = some p.val ∧
      x.2.2.2.isHeld p x.2.2.1.slice x.2.2.1.lpage = false ∧ x.2.2.2.bounced p x.2.2.1 = false ∧
      (x.2.2.2.needSlots (x.2.2.2.cell p x.2.2.1.slice x.2.2.1.lpage) x.2.2.1.slice).any (x.2.2.2.keyAway p x.2.2.1.slice) = false ∧
      (x.2.2.2.cell p x.2.2.1.slice x.2.2.1.lpage).moving = false ∧
      x.2.2.2.ownerOk p x.2.2.1.slice (x.2.2.2.cell p x.2.2.1.slice x.2.2.1.lpage) = true) ∧
    s.part.takeReq p 1 = some (m, t) ∧ (t.cell p m.slice m.lpage).tier = tierHot ∧
    s2.part.takeReq p 2 = some (m2, t2) ∧ (t2.cell p m2.slice m2.lpage).tier = tierHot ∧
    s3.part.takeReq p 3 = some (m3, t3) ∧ (t3.cell p m3.slice m3.lpage).tier = tierHot ∧
      metaPoisoned (t3.lineEnt p m3.slice (burstOf (t3.cell p m3.slice m3.lpage).loc + m3.line)).info = false ∧
    s4.part.takeReq p 1 = some (m4, t4) ∧ (t4.cell p m4.slice m4.lpage).tier = tierZero ∧ (t4.cell p m4.slice m4.lpage).poison = false ∧
      m4.data % 2 ^ 512 = 0 :=
  ⟨stHome (inExt5 tierHot 0) kindHot [rqMsg 1 5], stHome (inExt5 tierHot 0) kindHot [rqMsg 2 5], stHome (inExt5 tierHot 0) kindHot [rqMsg 3 5],
    stHome Cell.zero 0 [rqMsg 1 0], 7, rqMsg 1 5, rqMsg 2 5, rqMsg 3 5, rqMsg 1 0, _, _, _, _,
    by decide +kernel, rfl, by decide +kernel, rfl, by decide +kernel, rfl, by decide +kernel, by decide +kernel, rfl, by decide +kernel⟩

theorem witness_LineIsStored : ∃ (s : Part) (p sl x : Nat), s.inline sl = false ∧ s.burstLost p x = false ∧ p < 8 ∧ sl < 4096 ∧
    (s.placeOf p x).chan p * 4 + s.rankAt ((s.placeOf p x).chan p) (s.placeOf p x).layer x < 256 :=
  ⟨(st []).part, 7, 4095, 5 * 32768 + 63, by decide +kernel⟩

theorem witness_MirrorTakesTheChange : ∃ (s : State) (p : Pav) (m : Msg) (t : Part) (w : MirrorWait) (rest : List MirrorWait),
    s.part.takeMsg p 4 = some (m, t) ∧ t.mirrorOf (m.addr / 2 ^ 34) (m.addr % 2 ^ 34) = some p.val ∧
    (t.pav m.src).mirrorWait = w :: rest ∧ w.key = m.addr :=
  ⟨but (stHome Cell.zero 0 []) fun s => (s.onPav 6 fun v => { v with inbox := [{ rqMsg 4 1 with src := 7, addr := pageKey 4095 (2 ^ 34 - 1) }] }).onPav 7
      fun v => { v with mirrorWait := [⟨pageKey 4095 (2 ^ 34 - 1), Msg.zero, Cell.zero⟩] },
    6, { rqMsg 4 1 with src := 7, addr := pageKey 4095 (2 ^ 34 - 1) }, _, ⟨pageKey 4095 (2 ^ 34 - 1), Msg.zero, Cell.zero⟩, [], rfl, by decide +kernel⟩

/-- Channel 63 IN_SERVICE with an IN_SERVICE rank 3 at 8,000 MT/s and its state given. -/
def stChan (v : ChanState) (l : List (Entry × Nat × Nat) := []) : State :=
  but (st (l ++ [(.channelState, 63, 2), (.rankState, 255, 2), (.dramSpeed, 7, 8000)])) fun s => s.onChan 63 fun _ => v

/-- A burst of subchannel 1, bank group 7, rank 3. -/
def qe (write : Bool) (label : Nat) : QEnt := ⟨1, 7, 15, 9, write, 4095, label, false, 4095, 0, 5 * 32768, 8, 0, 0, 0, false, false, false⟩

theorem witness_SlotServesTheQueue : ∃ (s s2 s3 : State) (c : Chan) (u : Sub) (k : Fin 1024) (busy guard : BitVec 16) (q q2 : QEnt),
    (∀ x ∈ [(s, q), (s2, q2)], x.1.part.od .channelState c = 2 ∧ (x.1.part.chan c).retrain = [] ∧ (x.1.part.chan c).throttled = [] ∧
      (x.1.part.chan c).rfmDue = [] ∧ (x.1.part.addDebt c u).refreshDue c u (postponeLimit * x.1.part.refreshUnit c) = none ∧
      x.1.part.atWatermark c x.2 = false ∧ x.2.line = false ∧
      bits (x.1.part.descriptor c k) 10 5 = ownOpen ∧ bit (x.1.part.descriptor c k) 15 = x.2.write ∧ (x.1.part.chan c).queue = [x.2] ∧
      x.2.sub = u ∧ x.2.group = (k + (x.1.part.pav (c / 8)).frame) % 8 ∧ x.2.label = ownOpen ∧ x.2.owner < 4096 ∧
      busy.toNat.testBit x.2.bank = false ∧ guard.toNat.testBit x.2.bank = false ∧ (x.1.part.chan c).rowOpen x.2 = true ∧
      x.1.part.od .flipStatus c ≠ 1 ∧ x.1.part.openSize (c / 8) x.2.write ≠ 0) ∧ q.write = false ∧ q2.write = true ∧
    (s3.part.od .channelState c ≠ 2 ∨ (s3.part.chan c).retrain ≠ []) :=
  ⟨stChan { ChanState.zero with queue := [qe false ownOpen], openRows := [((qe false ownOpen).key, 10)] },
    but (stChan { ChanState.zero with queue := [qe true ownOpen], openRows := [((qe true ownOpen).key, 10)] }) fun s => { s with
      vint := { s.vint with inForce := { s.vint.inForce with tables := [(7, { PavTables.zero with slots := [(7, 2 ^ 127)] })] } } },
    stChan { ChanState.zero with retrain := [3] }, 63, 1, 7, 0x7FFF, 0x7FFF, qe false ownOpen, qe true ownOpen, by decide +kernel⟩

theorem witness_ReadDataReturns : ∃ (s s2 s3 : State) (c : Chan) (u : Sub) (g : Fin 8) (q q2 : QEnt) (t : Task) (e : BitVec 640) (v : Nat) (sl : Slice)
      (lp n : Nat),
    ((s.part.chan c).inflight = [q] ∧ q.sub = u.val ∧ q.label ≠ ownScrub ∧ q.label ≠ ownConfirm ∧ (s.part.pav (c / 8)).tasks = [t] ∧ t.id = q.task ∧
      t.got.length + 1 ≠ t.bursts.length) ∧
    ((s2.part.chan c).inflight = [q2] ∧ q2.sub = u.val ∧ q2.group = g.val ∧ q2.label = ownScrub ∧
      checkBurst (!decide (spareBase ≤ q2.burst) && s2.part.inlineAt (c / 8) q2.burst) (q2.value ^^^ e.toNat) = .clean v) ∧
    (s3.part.mirrorOf sl lp = some n ∧ n ≠ c / 8) ∧ 2 ^ 28 - 1 < 2 ^ 28 ∧ 0 < (s2.part.pav (c / 8)).plan.length :=
  ⟨but (stChan { ChanState.zero with inflight := [qe false ownOpen] }) fun s => s.onPav 7 fun v => { v with
      tasks := [⟨8, .readCask, Msg.zero, 4095, 0, 0, [5 * 32768, 5 * 32768 + 1], [], false, 0⟩] },
    but (stChan { ChanState.zero with inflight := [{ qe false ownScrub with value := zeroBurst }] }) fun s => s.onPav 7 fun v => { v with
      plan := [⟨0, 4095, 0, 0, 0⟩] }, stHome Cell.zero 0 [],
    63, 1, 7, qe false ownOpen, { qe false ownScrub with value := zeroBurst }, ⟨8, .readCask, Msg.zero, 4095, 0, 0, [5 * 32768, 5 * 32768 + 1], [], false, 0⟩,
    0, zeroBurst, 4095, 2 ^ 34 - 1, 6, by decide +kernel⟩

theorem witness_ChannelEvents : ∃ (s s2 : State) (c : Chan) (r : Rank) (t0 t1 : Int) (t : Nat),
    (s.part.chan c).passStart = 0 ∧ s.part.parked (0x0500 + c) = false ∧
    s.part.rankRuns c r = true ∧ r.val ∉ (s.part.chan c).powerDown ∧ (∀ q ∈ (s.part.chan c).queue, q.bank / 4 ≠ r.val) ∧
    s.part.rest.inRest = false ∧ t0 ≤ 95 ∧ t1 ≤ 95 ∧ 85 < t0 ∧ (s.part.chan c).parityTime.getD r none = none ∧
    (s2.part.chan c).parityTime.getD r none = some t ∧ s2.part.now ≤ t + nsPerMs :=
  ⟨stChan { ChanState.zero with queue := [{ qe false 0 with bank := 11 }] }, stChan { ChanState.zero with parityTime := [none, none, none, some 0] },
    63, 3, 86, 95, 0, by decide +kernel⟩

theorem witness_RetrainAndRebuild : ∃ (s s2 s3 s4 : State) (c : Chan) (b b2 : Rebuild) (lanes : List LaneRetrain) (j : Nat) (l : LaneRetrain),
    j = 79 ∧ lanes[j]? = some l ∧ laneMisses l = false ∧ (s.part.chan c).retrain = [3, 2] ∧ (s2.part.chan c).retrain = [3] ∧ s2.part.od0 .maintState ≠ 2 ∧
    (s3.part.chan c).rebuild = some b ∧ (s3.part.pav (c / 8)).dram = [] ∧ b.failed < 4 ∧
    b.watermark % (s3.part.geom (c / 8)).layerExts + 1 < (s3.part.geom (c / 8)).layerExts ∧
    (s4.part.chan c).rebuild = some b2 ∧ (s4.part.pav (c / 8)).dram = [] ∧ b2.failed < 4 ∧
    b2.watermark % (s4.part.geom (c / 8)).layerExts + 1 = (s4.part.geom (c / 8)).layerExts :=
  ⟨stChan { ChanState.zero with retrain := [3, 2] }, stChan { ChanState.zero with retrain := [3] },
    stChan { ChanState.zero with rebuild := some ⟨3, 0, ((st []).part.geom 7).layerExts - 2⟩ },
    stChan { ChanState.zero with rebuild := some ⟨3, 0, ((st []).part.geom 7).layerExts - 1⟩ }, 63,
    ⟨3, 0, ((st []).part.geom 7).layerExts - 2⟩, ⟨3, 0, ((st []).part.geom 7).layerExts - 1⟩, List.replicate 80 ⟨2 ^ 16 - 2, 2 ^ 10, 0⟩, 79, _, rfl, rfl,
    by decide +kernel⟩

theorem witness_ChannelCommands : ∃ (s s2 s3 : State) (w : Who) (c : Chan) (x v : Nat),
    s.part.mayWrite w .channelCommand ∧ s.part.od .channelState c = 2 ∧ (s.part.chan c).retrain = [] ∧
    s.part.mayWrite w .flipCommand ∧ s.part.od .flipStatus c ≠ 3 ∧ s.part.roleOf w = roleVendor ∧
    s2.part.mayWrite w .flipCommand ∧ s2.part.od .flipStatus c ≠ 3 ∧ s2.part.roleOf w ≠ roleVendor ∧
    s.part.flipBurst c (s.part.od .flipAddress c) = some x ∧ s.part.ownOf (c / 8) (x / extBursts) = Own.free ∧ s.part.burstLost (c / 8) x = false ∧ x < spareBase ∧
    s3.part.mayWrite w .flipCommand ∧ s3.part.od .flipStatus c = 3 ∧ s3.part.flipBurst c (s3.part.od .flipLast c) = some x ∧
    sddcCheck (s3.part.dramAt (c / 8) x) = .clean v ∧ s.part.mayWrite w .ceTableCommand :=
  ⟨stChan ChanState.zero [(.monitorRole, 0, 4), (.rankLayer, 255, 3), (.flipAddress, 63, 63 * 2 ^ 37 + 3 * 2 ^ 34)],
    stChan ChanState.zero [(.monitorRole, 0, 2)],
    stChan ChanState.zero [(.monitorRole, 0, 4), (.rankLayer, 255, 3), (.flipAddress, 63, 63 * 2 ^ 37 + 3 * 2 ^ 34), (.flipLast, 63, 63 * 2 ^ 37 + 3 * 2 ^ 34),
      (.flipStatus, 63, 3)],
    .monitor, 63, _, zeroBurst, ⟨by decide, by decide⟩, by decide +kernel, by decide +kernel, ⟨by decide, by decide⟩, by decide +kernel,
    by decide +kernel, ⟨by decide, by decide⟩, by decide +kernel, by decide +kernel, rfl, by decide +kernel, by decide +kernel, by decide +kernel,
    ⟨by decide, by decide⟩, by decide +kernel, by decide +kernel, by decide +kernel, ⟨by decide, by decide⟩⟩

/-- As `stHome`, with a plan on pavilion 7. -/
def stPlan (c : Cell) (kind : Nat) (e : PlanEnt) : State := but (stHome c kind []) fun s => s.onPav 7 fun v => { v with plan := [e] }

theorem witness_PlanEntriesRun_pages : ∃ (s s2 s3 : State) (p : Pav) (e e2 e3 : PlanEnt) (t t2 t3 : Part) (lp : Nat),
    (s.part.planHead p 0 = some (e, t) ∧ t.groupPages p e.slice e.target tierWarm = [lp] ∧ t.inUse p e.slice lp = false) ∧
    (s2.part.planHead p 1 = some (e2, t2) ∧ t2.groupPages p e2.slice e2.target tierHot = [lp] ∧ t2.inUse p e2.slice lp = false) ∧
    (s3.part.planHead p 3 = some (e3, t3) ∧ t3.pagesWhere p e3.slice (e3.target * 64) (e3.target * 64 + 64)
        (fun c => c.tier != tierZero && c.keySel != t3.od .sliceKeyActive e3.slice) = [lp] ∧ t3.inUse p e3.slice lp = false) :=
  ⟨stPlan (inExt5 tierWarm 0) kindCask ⟨0, 4095, 2 ^ 28 - 1, 0, 0⟩, stPlan (inExt5 tierHot 0) kindHot ⟨1, 4095, 2 ^ 28 - 1, 0, 0⟩,
    stPlan { inExt5 tierHot 0 with keySel := 1 } kindHot ⟨3, 4095, 2 ^ 28 - 1, 0, 0⟩, 7, _, _, _, _, _, _, 2 ^ 34 - 1,
    ⟨rfl, by decide +kernel⟩, ⟨rfl, by decide +kernel⟩, ⟨rfl, by decide +kernel⟩⟩

theorem witness_PlanEntriesRun_compact : ∃ (s : State) (p : Pav) (e : PlanEnt) (t : Part) (k x : Nat) (exts : List Nat),
    s.part.planHead p 2 = some (e, t) ∧ (t.ownOf p e.target).kind = kindCellar ∧
    (t.pav p).blocks.find? (fun b => b.2.contains e.target) = some (k, exts) ∧ k % 2 = 1 ∧ t.freeExt p = some x ∧ x ≠ e.target :=
  ⟨but (stPlan Cell.zero kindCellar ⟨2, 0, 5, 0, 0⟩) fun s => (s.setOd .dramLayers 7 4).onPav 7 fun v => { v with blocks := [(1, [5, 6])] },
    7, _, _, 1, 0, [5, 6], rfl, by decide +kernel⟩

theorem witness_PlanEntriesRun_regions : ∃ (s s2 s3 : State) (p : Pav) (e e2 : PlanEnt) (t t2 t3 u u3 : Part),
    (s.part.planHead p 5 = some (e, t) ∧ placeValid (t.place e.slice e.target) = true ∧ placeHome (t.place e.slice e.target) = p.val ∧
      e.pav ≠ p.val ∧ t.pstate e.pav = 1 ∧ placeMirror (t.place e.slice e.target) = p.val ∧
      t.takeBlock e.pav (blockKey e.slice e.target true) = some u) ∧
    (s2.part.planHead p 4 = some (e2, t2) ∧ placeValid (t2.place e2.slice e2.target) = true ∧ placeHome (t2.place e2.slice e2.target) = p.val ∧
      e2.pav ≠ p.val ∧ t2.pstate e2.pav = 1 ∧ t2.od .sliceCapacityMode e2.slice ≠ 0 ∧
      t2.takeBlock e2.pav (blockKey e2.slice e2.target false) = none) ∧
    (s3.part.planHead p 4 = some (e2, t3) ∧ placeValid (t3.place e2.slice e2.target) = true ∧ placeHome (t3.place e2.slice e2.target) = p.val ∧
      e2.pav ≠ p.val ∧ t3.pstate e2.pav = 1 ∧ t3.od .sliceCapacityMode e2.slice ≠ 0 ∧
      t3.takeBlock e2.pav (blockKey e2.slice e2.target false) = some u3) :=
  ⟨but (stPlan Cell.zero 0 ⟨5, 4095, 65535, 6, 0⟩) fun s => ((s.setPlace 4095 65535 (mkPlace 7 7 true false 0)).setOd .pavilionState 6 1).setOd .dramLayers 6 4,
    but (stPlan Cell.zero 0 ⟨4, 4095, 65535, 6, 0⟩) fun s => (s.setOd .sliceCapacityMode 4095 1).setOd .pavilionState 6 1,
    but (stPlan Cell.zero 0 ⟨4, 4095, 65535, 6, 0⟩) fun s => ((s.setOd .sliceCapacityMode 4095 1).setOd .pavilionState 6 1).setOd .dramLayers 6 4,
    7, _, _, _, _, _, _, _, ⟨rfl, by decide +kernel, by decide +kernel, by decide +kernel, by decide +kernel, by decide +kernel, rfl⟩,
    ⟨rfl, by decide +kernel⟩, ⟨rfl, by decide +kernel, by decide +kernel, by decide +kernel, by decide +kernel, by decide +kernel, rfl⟩⟩

/-- A region move of pavilion 6's region 65535 of slice 4095 to pavilion 7. -/
def rmove : RegionMove := ⟨4095, 65535, 7, 0, [], [(2 ^ 34 - 1, inExt5 tierHot 0)], [], true, false, []⟩

/-- A state with that move on pavilion 6 and a message for pavilion 7. -/
def stMove (r : RegionMove) (inbox : List Msg) : State :=
  but (stHome Cell.zero 0 inbox) fun s => s.onPav 6 fun v => { v with regionMove := some r }

theorem witness_MovesAndSweepsEnd_pages : ∃ (s s2 : State) (p : Pav) (m m2 : Move),
    ((s.part.pav p).moves.find? (fun m => m.ready && !s.part.inUse p m.slice m.lpage) = some m ∧ (s.part.cell p m.slice m.lpage).moving = true) ∧
    ((s2.part.pav p).moves.find? (fun m => m.ready && !s2.part.inUse p m.slice m.lpage) = some m2 ∧
      (s2.part.cell p m2.slice m2.lpage).moving = false ∧ m2.new.tier = tierZero ∧ (s2.part.pav p).moves = [m2]) :=
  ⟨but (stHome { inExt5 tierHot 0 with moving := true } kindHot []) fun s => s.onPav 7 fun v => { v with
      moves := [⟨1, 4095, 2 ^ 34 - 1, inExt5 tierHot 0, Cell.zero, true, 0⟩] },
    but (stHome (inExt5 tierHot 0) kindHot []) fun s => s.onPav 7 fun v => { v with moves := [⟨1, 4095, 2 ^ 34 - 1, inExt5 tierHot 0, Cell.zero, true, 0⟩] },
    7, ⟨1, 4095, 2 ^ 34 - 1, inExt5 tierHot 0, Cell.zero, true, 0⟩, ⟨1, 4095, 2 ^ 34 - 1, inExt5 tierHot 0, Cell.zero, true, 0⟩, by decide +kernel⟩

theorem witness_MovesAndSweepsEnd_regions : ∃ (s s2 s3 : State) (p : Pav) (m m2 : Msg) (t t2 : Part) (r r2 : RegionMove),
    (s.part.takeMsg p 8 = some (m, t) ∧ (t.pav m.src).regionMove = some r ∧ r.slice = m.slice ∧ r.dest = p ∧
      (r.copied.get Cell.zero (m.data / 2 ^ 640)).tier = tierHot ∧ burstOf (r.copied.get Cell.zero (m.data / 2 ^ 640)).loc ≤ m.addr ∧
      m.addr < burstOf (r.copied.get Cell.zero (m.data / 2 ^ 640)).loc + 64) ∧
    (s2.part.takeMsg p 9 = some (m2, t2) ∧ (t2.pav m2.src).regionMove = some r ∧ r.slice = m2.slice ∧ r.region = m2.addr ∧ r.left.length ≤ 64) ∧
    ((s3.part.pav 6).regionMove = some r ∧ r.hold = false ∧ r.arrived = true ∧ r.left = [] ∧ s3.part.regionInUse 6 r.slice r.region = false) ∧
    r2 = { r with hold := true } :=
  ⟨stMove rmove [{ Msg.zero with opcode := 8, src := 6, label := 4095, addr := burstOf (5 * 4096) + 63, data := (2 ^ 34 - 1) <<< 640 }],
    stMove rmove [{ Msg.zero with opcode := 9, src := 6, label := 4095, addr := 65535 }], stMove rmove [], 7,
    { Msg.zero with opcode := 8, src := 6, label := 4095, addr := burstOf (5 * 4096) + 63, data := (2 ^ 34 - 1) <<< 640 },
    { Msg.zero with opcode := 9, src := 6, label := 4095, addr := 65535 }, _, _, rmove, _, ⟨rfl, by decide +kernel⟩, ⟨rfl, by decide +kernel⟩,
    by decide +kernel, rfl⟩

theorem witness_MovesAndSweepsEnd_ends : ∃ (s s2 s3 : State) (p : Pav) (sl : Slice) (ext : Nat),
    (s.part.od .rekeyState sl = 1 ∧ s.part.rekeyLeft sl = 0 ∧ s.part.od .sliceKeyActive sl = 0 ∧ (s.part.slice sl).rekeyWait = []) ∧
    ((s2.part.ownOf p ext).kind = kindZeroing ∧ (s2.part.pav p).zeroing.get 0 ext = 0 ∧ ext ∉ (s2.part.pav p).retire ∧
      s2.part.layerLost p (ext / (s2.part.geom p).layerExts) = false) ∧
    ((s3.part.pav p).rescue = [(ext, 0)] ∧ (s3.part.ownOf p ext).kind ≠ kindCask) :=
  ⟨st [(.rekeyState, 4095, 1)], stHome Cell.zero kindZeroing [], but (stHome Cell.zero kindHot []) fun s => s.onPav 7 fun v => { v with rescue := [(5, 0)] },
    7, 4095, 5, by decide +kernel⟩

/-- A cask of 72 bytes in a slot of 512 bytes. -/
def cask0 : Nat := caskBytes 0 1 8 (cwSeal (ClearWord.mk 1 false false 8 1 0 0).encode)

/-- It stands in slot 4095 of extent 5, and its rescue is due. -/
def stCask : State := but (stHome { inExt5 tierWarm 0 with loc := 5 * 4096 + 4095 } kindCask []) fun s => s.onPav 7 fun v => { v with
  rescue := [(5, 4095)], used := [(5, 2 ^ 4095)],
  dram := (slotBursts 0 (5 * 4096 + 4095)).zipIdx.foldl (fun m q => m.set zeroBurst q.1 (sddcEncode (bits cask0 (512 * q.2) 512))) [] }

theorem pair_of {α β : Type} (x : α × β) (b : β) (h : x.2 = b) : x = (x.1, b) := by rw [← h]

theorem witness_MovesAndSweepsEnd_rescue : ∃ (s : State) (p : Pav) (ext k lp : Nat) (w : ClearWord) (y : Nat) (t r u : Part) (xs : List Nat) (o : Own),
    (s.part.pav p).rescue = [(ext, k)] ∧ t = (s.part.onPav p fun v => { v with rescue := [] }) ∧ o = t.ownOf p ext ∧ o.kind = kindCask ∧
    ((t.pav p).used.get 0 ext).testBit k = true ∧ xs = slotBursts o.cls (ext * extUnits + (if o.cls = 7 then 8 else o.cls + 1) * k) ∧
    r = iter xs t (fun s x => s.engineRead p x byMigration) ∧ t.pageAt p o.owner (ext * extUnits + (if o.cls = 7 then 8 else o.cls + 1) * k) tierWarm = some lp ∧
    r.restoreCask p o.owner lp o.cls (ext * extUnits + (if o.cls = 7 then 8 else o.cls + 1) * k) (xs.map fun x => (x, r.burstNow p x)) srcMigration
      false = (u, some (w, y)) :=
  ⟨stCask, 7, 5, 4095, 2 ^ 34 - 1, ClearWord.mk 1 false false 8 1 0 0, cask0, _, _, _, _, _, by decide +kernel, rfl, rfl, by decide +kernel,
    by decide +kernel, rfl, rfl, by decide +kernel, pair_of _ _ (by decide +kernel)⟩

theorem witness_CodebookCommands : ∃ (s s2 s3 s4 s5 : State) (w : Who) (b : Book) (image bad : Line),
    (s.part.mayWrite w .codebookCommand ∧ s.part.od .codebookState b = 2 ∧ s.part.od .codebookSlices b = 0 ∧ (∀ e ∈ s.part.slices, e.1 < 4096) ∧ s.part.codec.loading = none) ∧ s5.part.codec.loading.isSome = true ∧
    (s2.part.mayWrite w .codebookCommand ∧ b.val ≠ 0 ∧ s2.part.od .codebookState b = 1) ∧
    (s2.part.mayWrite w .codebookImage ∧ s2.part.codec.loading = none ∧ imageReason image.toNat = 0 ∧ s2.part.od .codebookState b < 2 ∧
      s2.part.od .codebookCasks b = 0 ∧ s2.part.od .codebookSlices b = 0 ∧ s2.part.bookPending b = false) ∧ imageReason bad.toNat ≠ 0 ∧
    (s3.part.mayWrite w .codebookBuildCommand ∧ s3.part.codec.loading = none ∧ s3.part.building = false ∧ s3.part.od .sliceSamplingAllowed (s3.part.od0 .buildSourceSlice) = 1 ∧
      s3.part.od .sliceState (s3.part.od0 .buildSourceSlice) = 2 ∧ s3.part.od .codebookState (s3.part.od0 .buildTargetSlot) < 2 ∧
      s3.part.od .codebookCasks (s3.part.od0 .buildTargetSlot) = 0 ∧ s3.part.od .codebookSlices (s3.part.od0 .buildTargetSlot) = 0) ∧
    (s4.part.mayWrite w .codebookBuildCommand ∧ (∀ q, s4.part.codec.loading = some q → q.2.2 = none) ∧ s4.part.building = true) :=
  ⟨st [(.monitorRole, 0, 2), (.codebookState, 15, 2)], st [(.monitorRole, 0, 2), (.codebookState, 15, 1)],
    st [(.monitorRole, 0, 2), (.buildSourceSlice, 0, 4095), (.buildTargetSlot, 0, 15), (.sliceSamplingAllowed, 4095, 1), (.sliceState, 4095, 2)],
    but (st [(.monitorRole, 0, 2), (.buildState, 0, 2)]) fun s => { s with codec := { s.codec with loading := some (15, 0, none) } },
    but (st []) fun s => { s with codec := { s.codec with loading := some (15, 0, some .monitor) } }, .monitor, 15, BitVec.ofNat 512 (makeImage neutralLengths 100), 0,
    ⟨⟨by decide, by decide⟩, by decide +kernel⟩, rfl, ⟨⟨by decide, by decide⟩, by decide +kernel⟩, ⟨⟨by decide, by decide⟩, by decide +kernel⟩,
    by decide +kernel, ⟨⟨by decide, by decide⟩, by decide +kernel⟩, ⟨by decide, by decide⟩, fun q h => by cases h; rfl, by decide +kernel⟩

theorem witness_CodecWorks_builds : ∃ (s s2 s3 s4 : State) (b : Book) (l : List Nat) (image : Nat),
    (s.part.od0 .buildState = 1 ∧ (∀ k : Pav, ∀ t ∈ (s.part.pav k).codecQ, t.use ≠ .build) ∧ s.part.od0 .buildPagesSampled = 63) ∧
    (s2.part.od0 .buildState = 1 ∧ (∀ k : Pav, ∀ t ∈ (s2.part.pav k).codecQ, t.use ≠ .build) ∧ s2.part.od0 .buildPagesSampled = 64 ∧
      l = boundedLengths 64 ((List.range 67).map fun k => s2.part.codec.counts.getD k 0 + 1) ∧
      image = makeImage l (min 65535 (s2.part.od0 .buildPagesSampled * 4096 * 8 * 100 /
        max 1 (codedBits l (s2.part.od0 .buildPagesSampled) s2.part.codec.counts))) ∧
      s2.part.imageRefusal (s2.part.od0 .buildTargetSlot) image = 0 ∧ s2.part.od0 .buildTargetSlot < 16 ∧ s2.part.codec.loading = none) ∧
    (s3.part.codec.loading = some (b.val, image, none) ∧ s3.part.codec.waiting = [] ∧ s3.part.gate.held = [] ∧ image < 2 ^ 512) ∧
    (s4.part.codec.loading = some (b.val, image, some .monitor) ∧ s4.part.codec.waiting = [] ∧ s4.part.gate.held = [] ∧ image < 2 ^ 512) :=
  let l := boundedLengths 64 ((List.range 67).map fun _ => 1)
  let image := makeImage l (min 65535 (64 * 4096 * 8 * 100 / max 1 (codedBits l 64 [])))
  ⟨st [(.buildState, 0, 1), (.buildPagesSampled, 0, 63)], st [(.buildState, 0, 1), (.buildPagesSampled, 0, 64), (.buildTargetSlot, 0, 15)],
    but (st []) fun s => { s with codec := { s.codec with loading := some (15, image, none) } },
    but (st []) fun s => { s with codec := { s.codec with loading := some (15, image, some .monitor) } }, 15, l, image, by decide +kernel⟩

/-- A raw cask whose first line holds 5. -/
def rawCask : Nat := (ClearWord.mk 1 true true 72 4096 0 0).encode ||| (sealedHeader 0 [1024, 1024, 1024, 1024] <<< 64) ||| (5 <<< 256)

/-- A codec task of pavilion 7. -/
def stTask (use : CodecUse) (page : Nat) (tier kind : Nat) : State := but (stHome (inExt5 tier 0) kind []) fun s => s.onPav 7 fun v => { v with
  codecQ := [⟨use, 4095, 2 ^ 34 - 1, 0, rqMsg 0 0, page, 0, false, 0⟩], moves := [⟨1, 4095, 2 ^ 34 - 1, inExt5 tierHot 0, Cell.zero, false, 0⟩] }

theorem witness_CodecWorks_lanes : ∃ (s s2 s3 : State) (p : Pav) (t t2 t3 : CodecTask) (u u2 u3 v v3 : Part) (line : Nat) (k : Fin 6) (m : Move),
    (s.part.parked (0x0300 + p) = false ∧ s.part.nextCodec p = some (t, u) ∧ t.use = .warmRead ∧ t.again = false ∧
      v = u.onPav p (fun k => { k with laneGated := (u.lanesOf p t).foldl (fun g j => setBit g j false) k.laneGated }) ∧
      (v.cell p t.slice t.lpage).tier = tierWarm ∧ (v.pav p).cbInvalid = false ∧ v.decodeTask t = .ok line ∧
      k.val ≠ 0 ∧ (v.logFault p t (laneFault t k)).decodeTask t = .ok line) ∧
    (s2.part.parked (0x0300 + p) = false ∧ s2.part.nextCodec p = some (t2, u2) ∧ t2.use = .firstWrite) ∧
    (s3.part.parked (0x0300 + p) = false ∧ s3.part.nextCodec p = some (t3, u3) ∧ t3.use = .demotion ∧ t3.page = 0 ∧
      v3 = u3.onPav p (fun k => { k with laneGated := (u3.lanesOf p t3).foldl (fun g j => setBit g j false) k.laneGated }) ∧
      (v3.pav p).moves.find? (fun m => m.slice == t3.slice && m.lpage == t3.lpage) = some m ∧ (v3.cell p t3.slice t3.lpage).fixed = false) :=
  ⟨stTask .warmRead rawCask tierWarm kindCask, stTask .firstWrite 0 tierHot kindHot, stTask .demotion 0 tierHot kindHot, 7, _, _, _, _, _, _, _, _, 5, 5,
    ⟨1, 4095, 2 ^ 34 - 1, inExt5 tierHot 0, Cell.zero, false, 0⟩,
    ⟨by decide +kernel, rfl, by decide +kernel, by decide +kernel, rfl, by decide +kernel, by decide +kernel, by decide +kernel, by decide +kernel,
      by decide +kernel⟩,
    ⟨by decide +kernel, rfl, by decide +kernel⟩,
    ⟨by decide +kernel, rfl, by decide +kernel, by decide +kernel, rfl, by decide +kernel, by decide +kernel⟩⟩

/-- A state with its vintages changed. -/
def stVint (f : VintState → VintState) (l : List (Entry × Nat × Nat) := []) : State := but (st l) fun s => { s with vint := f s.vint }

theorem witness_BatchesAndCompiles_batch : ∃ (s s2 : State) (w : Who) (a : CompileAsk),
    (s.part.mayWrite w .vintageCommand ∧ s.part.od0 .vintageBatchState = 0) ∧
    (s2.part.mayWrite w .vintageCommand ∧ s2.part.od0 .vintageBatchState = 1 ∧ s2.part.vint.batch = some w ∧ s2.part.batchUsed = false) ∧
    (s.part.vint.running = none ∧ s.part.vint.shadow = none ∧ s.part.codec.loading = none ∧ s.part.gateParked = false ∧
      s.part.gateAlive = true ∧ s.part.vint.queue = [a] ∧ s.part.season.retiring = []) :=
  ⟨stVint (fun v => { v with queue := [⟨2, [], none, .plain, 0⟩] }) [(.monitorRole, 0, 2)],
    stVint (fun v => { v with batch := some .monitor }) [(.monitorRole, 0, 2), (.vintageBatchState, 0, 1)], .monitor, ⟨2, [], none, .plain, 0⟩,
    ⟨⟨by decide, by decide⟩, by decide +kernel⟩, ⟨⟨by decide, by decide⟩, by decide +kernel⟩, by decide +kernel⟩

theorem witness_BatchesAndCompiles_compile : ∃ (s s2 s3 : State) (a a2 a3 : CompileAsk) (v : Vintage) (e : Refuse) (x : Option Refuse),
    (s.part.season.retiring = [] ∧ s.part.vint.running = some a ∧ s.part.vint.shadow = none ∧ a.kind ≤ 2 ∧ s.part.oldStamps = false ∧
      s.part.compileAsk a = (.ok v, none)) ∧
    (s2.part.season.retiring = [] ∧ s2.part.vint.running = some a2 ∧ s2.part.vint.shadow = none ∧ a2.kind ≤ 2 ∧ s2.part.oldStamps = false ∧
      s2.part.compileAsk a2 = (.error e, x) ∧ a2.goal = .writes ∧ a2.who = some .monitor) ∧
    (s3.part.season.retiring = [] ∧ s3.part.vint.running = some a3 ∧ s3.part.vint.shadow = none ∧ a3.kind = 4) :=
  ⟨stVint (fun v => { v with running := some ⟨2, [], none, .plain, 0⟩ }) [(.pavilionState, 7, 1)],
    stVint (fun v => { v with running := some ⟨0, [⟨.commonsReserveSetting, 0, 1023⟩], some .monitor, .writes, 0⟩ }),
    stVint (fun v => { v with running := some ⟨4, [], none, .plain, 7⟩ }), ⟨2, [], none, .plain, 0⟩,
    ⟨0, [⟨.commonsReserveSetting, 0, 1023⟩], some .monitor, .writes, 0⟩, ⟨4, [], none, .plain, 7⟩, _, ⟨2, 0xFFFFFFFF⟩, none,
    ⟨rfl, rfl, rfl, by decide, by decide +kernel, rfl⟩,
    ⟨rfl, rfl, rfl, by decide, by decide +kernel, by decide +kernel, rfl, rfl⟩, rfl, rfl, rfl, rfl⟩

/-- A vintage as its compile leaves it. -/
def vintOne : Vintage := Vintage.sealed_ { Vintage.none with number := 1 }

theorem check_pavilions (s : Part) (p : Nat) (h : s.serving = [p]) (hn : s.vint.inForce.number = 0) : s.checkVintage vintOne = some (2, p) := by
  have hw : (vintOne.digest != vintOne.sealed_.digest) = false := bne_self_eq_false _
  have h2 : ([p].foldl (fun b p => setBit b p true) 0 : Nat) ≠ 0 := by
    show setBit 0 p true ≠ 0
    intro e
    have := congrArg (fun x => Nat.testBit x p) e
    simp [setBit] at this
  unfold Part.checkVintage
  rw [h]
  simp only [List.findSome?_cons, hw, hn, show vintOne.format = 1 from rfl, show vintOne.number = 1 from rfl, show vintOne.pavilions = 0 from rfl]
  rw [if_neg (show ¬(false || (1 : Nat) != 1 || (1 : Nat) != 0 + 1) = true by decide), if_pos (bne_iff_ne.mpr (Ne.symm h2))]
  rfl

theorem witness_BatchesAndCompiles_check : ∃ (s s2 : State) (a : CompileAsk) (v : Vintage) (n p : Nat),
    (s.part.vint.shadow = some v ∧ s.part.vint.running = some a ∧ s.part.vint.checking = true ∧ s.part.checkVintage v = none) ∧
    (s2.part.vint.shadow = some v ∧ s2.part.vint.running = some a ∧ s2.part.vint.checking = true ∧ s2.part.checkVintage v = some (n, p)) :=
  let f := fun (v : VintState) => { v with shadow := some vintOne, running := some ⟨2, [], none, .plain, 0⟩, checking := true }
  ⟨stVint f, stVint f [(.pavilionState, 7, 1)], ⟨2, [], none, .plain, 0⟩, vintOne, 2, 7, ⟨rfl, rfl, rfl, rfl⟩, rfl, rfl, rfl,
    check_pavilions _ _ (by decide +kernel) rfl⟩

/-- A vintage that carries two settings. -/
def vint2 : Vintage := { Vintage.none with number := 1, settings := [⟨.promoteThreshold, 0, 9⟩, ⟨.sliceServiceClass, 4095, 1⟩] }

theorem witness_VintageTakesEffect_swap : ∃ (s s2 s3 s4 : State) (v : Vintage) (a : CompileAsk) (p : Pav),
    (s.part.vint.shadow = some v ∧ s.part.vint.armed = true ∧ s.part.vint.running = some a ∧ a.goal = .writes ∧ (∀ e ∈ v.reserved, e.1 < 65536) ∧
      (∀ w ∈ v.settings, w.entry.info.vintage = true ∧ w.inst < 65536) ∧ (∀ p < 8, s.part.pstate p ≠ 3 ∧ s.part.pstate p ≠ 5) ∧
      (∀ w ∈ v.settings, ∀ u ∈ v.settings, u.entry = w.entry → u.inst = w.inst → u = w)) ∧
    (s2.part.inService p = true ∧ s2.part.rest.inRest = false ∧ s2.part.vint.swapping.contains p.val = false) ∧
    (s3.part.inService p = true ∧ s3.part.rest.inRest = false ∧ s3.part.vint.swapping.contains p.val = true ∧ s3.part.vint.shadow = some v ∧
      ∃ x ∈ s3.part.vint.swapping, x ≠ p.val) ∧
    (s4.part.inService p = true ∧ s4.part.rest.inRest = false ∧ s4.part.vint.swapping = [p.val] ∧ s4.part.vint.shadow = some v ∧
      s4.part.vint.running = some a ∧ a.who = some .monitor) :=
  ⟨stVint fun v => { v with shadow := some vint2, running := some ⟨0, [], some .monitor, .writes, 0⟩, armed := true },
    st [(.pavilionState, 7, 1)], stVint (fun v => { v with shadow := some vint2, swapping := [0, 7] }) [(.pavilionState, 7, 1)],
    stVint (fun v => { v with shadow := some vint2, swapping := [7], running := some ⟨0, [], some .monitor, .writes, 0⟩ }) [(.pavilionState, 7, 1)],
    vint2, ⟨0, [], some .monitor, .writes, 0⟩, 7, by decide +kernel⟩

theorem witness_VintageTakesEffect_windows : ∃ (s s2 : State) (sl : Slice) (p owed got : Nat),
    (s.part.gateParked = false ∧ s.part.rest.inRest = false ∧ s.part.guarantee sl 0 = 0 ∧ s.part.guarantee sl 1 = 0) ∧
    (s2.part.rest.inRest = false ∧ s2.part.serving = [p] ∧ s2.part.guarantee sl 0 ≠ 0 ∧ s2.part.guarantee sl 1 = 0 ∧ s2.part.boundPort sl = none ∧
      (s2.part.pav p).owed.get 0 (sl.val * 2) = owed ∧ (s2.part.pav p).delivered.get 0 (sl.val * 2) = got ∧
      got * 1000 < owed * (1000 - s2.part.od .sliceShortfallTolerance sl)) :=
  ⟨st [], but (st [(.pavilionState, 7, 1), (.sliceGuaranteeRead, 4095, 1)]) fun s => s.onPav 7 fun v => { v with owed := [(8190, 1000)] },
    4095, 7, 1000, 0, by decide +kernel⟩

/-- A state with a key store. -/
def stKeys (k : KeyState) (l : List (Entry × Nat × Nat)) : State := but (st l) fun s => { s with keys := k }

theorem witness_KeySetsOfSlices : ∃ (s s2 : State) (w : Who) (sl : Slice) (c : Nat),
    (s.part.mayWrite w .sliceKeyCommand ∧ s.part.roleOf w ≠ roleOperator ∧ s.part.od .sliceState sl = 1 ∧ s.part.noKeys sl = true ∧
      s.part.rngOk = true) ∧
    (s2.part.mayWrite w .sliceKeyCommand ∧ s2.part.od .sliceState sl ≠ 4 ∧ s2.part.od .sliceState sl ≠ 0 ∧ s2.part.od .rekeyState sl ≠ 1 ∧
      s2.part.sweepComing sl = false ∧ s2.part.noKeys sl = false ∧ s2.part.od .sliceMigrationId sl = 0 ∧ s2.part.rngOk = true ∧ s2.part.od .sliceKeyActive sl < 2) ∧
    (s.part.mayWrite w .sliceKeyImport ∧ s.part.readImport sl 0 = (c, none)) :=
  ⟨st [(.monitorRole, 0, 3), (.sliceState, 4095, 1)],
    stKeys ⟨[(8191, ⟨true, 0, 1, 2, 3⟩)], [], [], 0, []⟩ [(.monitorRole, 0, 3), (.sliceState, 4095, 3), (.sliceKeyActive, 4095, 1)], .monitor, 4095, rKey,
    ⟨⟨by decide, by decide⟩, by decide +kernel⟩, ⟨⟨by decide, by decide⟩, by decide +kernel⟩, ⟨by decide, by decide⟩, by decide +kernel⟩

/-- The keys 1, 2 and 3 wrapped under the wrapping key 0. -/
def wrapped1 : Nat :=
  0x4FEF414D122B6FCFF086771CC56586BBAF406E858E150156BE9E4F397181FCCB3FC0D100E81A115467766D7D6A1EE0F18456702805BB6B0565669E67018850B180B534FDF8FBAFCCC969029D3A384797928CC1AB7AC46663D3BE19A4A0194A93552FE5538353895B

/-- Registers of the unwrapping, as two numbers: the first, and the twelve others. -/
def unwrapState (a r : Nat) : List Nat × List (List Nat) := (toBytes 8 a, blocksOf 8 12 (toBytes 96 r))

/-- One round of the unwrapping under the key 0, from one pair of numbers to the next. -/
def UnwrapRound (t a r b q : Nat) : Prop :=
  kwRound (aesKeys (toBytes 32 0)) t (unwrapState a r).2.reverse (unwrapState a r).1 [] = unwrapState b q

theorem test_unwrap_6 : UnwrapRound 72 0x552fe5538353895b 0x4fef414d122b6fcff086771cc56586bbaf406e858e150156be9e4f397181fccb3fc0d100e81a115467766d7d6a1ee0f18456702805bb6b0565669e67018850b180b534fdf8fbafccc969029d3a384797928cc1ab7ac46663d3be19a4a0194a93 0x1b1dbcb197c07064 0x77d70a830359938063fdcf6a7b4a337667bd421478e64a8b9a48a91b381bc43f08ab872e37e97fb79f9f3ed70c4b668df82f5e01a3f4fe2b5b60a7176c0f6403493ce7a01291851ed67c1caf670d53d8cd83a7e78ca75e03eb1bebed13ac56e6 := by
  unfold UnwrapRound; decide +kernel

theorem test_unwrap_5 : UnwrapRound 60 0x1b1dbcb197c07064 0x77d70a830359938063fdcf6a7b4a337667bd421478e64a8b9a48a91b381bc43f08ab872e37e97fb79f9f3ed70c4b668df82f5e01a3f4fe2b5b60a7176c0f6403493ce7a01291851ed67c1caf670d53d8cd83a7e78ca75e03eb1bebed13ac56e6 0xe58fe41515e89df2 0x94601879ce0d057bd40be19bf037f6e0263f06fc5974393f5a711aeb23add1ffa51b207e56c709ad0e05e321401dc1768c3243d3235d435469296bd2dc3422abaa53164183d3e2e1f39bba7f5e00baa3b435430377796dc3ec79a22cdd7c695d := by
  unfold UnwrapRound; decide +kernel

theorem test_unwrap_4 : UnwrapRound 48 0xe58fe41515e89df2 0x94601879ce0d057bd40be19bf037f6e0263f06fc5974393f5a711aeb23add1ffa51b207e56c709ad0e05e321401dc1768c3243d3235d435469296bd2dc3422abaa53164183d3e2e1f39bba7f5e00baa3b435430377796dc3ec79a22cdd7c695d 0xdabd4e1bac41227e 0xed374d9c805649cf730d762187abcb6f8892705bfeffc5740e90513473c7defe03c82234306652330122411fb16639aef5c9641570919f0aea00cd55cd3cb7bcbfd47b71cdbf6901bed950a74acbbc6ba3087134d5264cd1bf622552d1d49004 := by
  unfold UnwrapRound; decide +kernel

theorem test_unwrap_3 : UnwrapRound 36 0xdabd4e1bac41227e 0xed374d9c805649cf730d762187abcb6f8892705bfeffc5740e90513473c7defe03c82234306652330122411fb16639aef5c9641570919f0aea00cd55cd3cb7bcbfd47b71cdbf6901bed950a74acbbc6ba3087134d5264cd1bf622552d1d49004 0x7d99f65f62beff98 0xf737cd8e869518f16c4577e98025cca064ffb2dd7a46b22163ef47525033160f00aca69186d7722ae85e430d290f6f6dd8a37c4b0a23c381ed76268cb5a7589b7980a2e9302d20767b022cc675facb28dc3901ad35aa6add1e1622928c7f2a49 := by
  unfold UnwrapRound; decide +kernel

theorem test_unwrap_2 : UnwrapRound 24 0x7d99f65f62beff98 0xf737cd8e869518f16c4577e98025cca064ffb2dd7a46b22163ef47525033160f00aca69186d7722ae85e430d290f6f6dd8a37c4b0a23c381ed76268cb5a7589b7980a2e9302d20767b022cc675facb28dc3901ad35aa6add1e1622928c7f2a49 0x3a030fe2475ff5cf 0x68f0d07c5387bc94c3df98a8e6302507a8e57f0da29ce2889e7d3fc0393b3a1811e4dd705ccb5612de3bcb905b282cc33f78bf1bb794deb82355c7d6ed0d2b7e2c7688e7e432063ed487ff7ce3df2a1351cf2f4a2aa2321ef9097d31a1fc0d00 := by
  unfold UnwrapRound; decide +kernel

theorem test_unwrap_1 : UnwrapRound 12 0x3a030fe2475ff5cf 0x68f0d07c5387bc94c3df98a8e6302507a8e57f0da29ce2889e7d3fc0393b3a1811e4dd705ccb5612de3bcb905b282cc33f78bf1bb794deb82355c7d6ed0d2b7e2c7688e7e432063ed487ff7ce3df2a1351cf2f4a2aa2321ef9097d31a1fc0d00 0x60000000a65959a6 0x300000000000000000000000000000000000000000000000000000000000000020000000000000000000000000000000000000000000000000000000000000001 := by
  unfold UnwrapRound; decide +kernel

theorem unwrap_next (n a r b q : Nat) (h : UnwrapRound (12 * (n + 1)) a r b q) (z : List Nat × List (List Nat))
    (hz : kwRounds (aesKeys (toBytes 32 0)) 12 n (unwrapState b q).1 (unwrapState b q).2 = z) :
    kwRounds (aesKeys (toBytes 32 0)) 12 (n + 1) (unwrapState a r).1 (unwrapState a r).2 = z := by
  unfold UnwrapRound at h
  rw [kwRounds, h]
  exact hz

theorem test_unwrap_rounds : kwRounds (aesKeys (toBytes 32 0)) 12 6 (unwrapState 0x552fe5538353895b 0x4fef414d122b6fcff086771cc56586bbaf406e858e150156be9e4f397181fccb3fc0d100e81a115467766d7d6a1ee0f18456702805bb6b0565669e67018850b180b534fdf8fbafccc969029d3a384797928cc1ab7ac46663d3be19a4a0194a93).1 (unwrapState 0x552fe5538353895b 0x4fef414d122b6fcff086771cc56586bbaf406e858e150156be9e4f397181fccb3fc0d100e81a115467766d7d6a1ee0f18456702805bb6b0565669e67018850b180b534fdf8fbafccc969029d3a384797928cc1ab7ac46663d3be19a4a0194a93).2 =
    unwrapState 0x60000000a65959a6 0x300000000000000000000000000000000000000000000000000000000000000020000000000000000000000000000000000000000000000000000000000000001 :=
  unwrap_next 5 _ _ _ _ test_unwrap_6 _ (unwrap_next 4 _ _ _ _ test_unwrap_5 _ (unwrap_next 3 _ _ _ _ test_unwrap_4 _ (unwrap_next 2 _ _ _ _ test_unwrap_3 _ (unwrap_next 1 _ _ _ _ test_unwrap_2 _ (unwrap_next 0 _ _ _ _ test_unwrap_1 _ rfl)))))

theorem unwrap_of_rounds (c : List Nat) (q : List Nat × List (List Nat)) (x y : Nat) (hn : c.length / 8 - 1 = 12)
    (h : kwRounds (aesKeys (toBytes 32 0)) 12 6 (unwrapState x y).1 (unwrapState x y).2 = q) (h1 : c.take 8 = (unwrapState x y).1)
    (h2 : blocksOf 8 12 (c.drop 8) = (unwrapState x y).2) : kwpUnwrap 0 c =
      if q.1.take 4 = [0xA6, 0x59, 0x59, 0xA6] && decide (ofBytesBE (q.1.drop 4) ≤ 96) && decide (88 < ofBytesBE (q.1.drop 4))
        && (q.2.flatten.drop (ofBytesBE (q.1.drop 4))).all (· == 0) then some (q.2.flatten.take (ofBytesBE (q.1.drop 4))) else none := by
  unfold kwpUnwrap
  simp only [hn, h1, h2, h]

theorem test_unwrap : kwpUnwrap 0 (toBytes 104 wrapped1) = some (toBytes 32 1 ++ toBytes 32 2 ++ toBytes 32 3) := by
  rw [unwrap_of_rounds _ _ _ _ (by decide +kernel) test_unwrap_rounds (by decide +kernel) (by decide +kernel)]
  decide +kernel

/-- An import blob for slice 4095 under wrapping key 16: format, index, slice, the three wrapped keys. -/
def blob1 : Nat := 1 ||| (16 <<< 8) ||| (4095 <<< 16) ||| (wrapped1 <<< 64)

theorem readImport_unwrapped (s : Part) (sl blob : Nat) (k : OneKey) (w : Nat) (b : List Nat) (h1 : (bits blob 0 8 != 1 || bits blob 16 12 != sl) = false)
    (h2 : s.keys.wraps.get OneKey.zero (bits blob 8 8) = k) (h3 : k.live = true) (hw : bits blob 64 832 = w)
    (h4 : kwpUnwrap k.key (toBytes 104 w) = some b)
    (h5 : (b.length != 96 || decide (ofBytes (b.take 32) = ofBytes ((b.drop 32).take 32))) = false) :
    s.readImport sl blob = (rOk, some (ofBytes (b.take 32), ofBytes ((b.drop 32).take 32), ofBytes ((b.drop 64).take 32))) := by
  unfold Part.readImport
  simp only [h1, h2, h3, hw, h4, h5, Bool.not_true, Bool.false_eq_true, if_false]

theorem witness_KeySetsOfSlices_import : ∃ (s : State) (sl : Slice) (c : Nat) (k : Nat × Nat × Nat),
    s.part.od .sliceState sl = 1 ∧ s.part.noKeys sl = true ∧ s.part.readImport sl blob1 = (c, some k) :=
  ⟨stKeys ⟨[], [(16, ⟨true, 0, 0⟩)], [], 0, []⟩ [(.sliceState, 4095, 1)], 4095, _, _, by decide +kernel, by decide +kernel,
    readImport_unwrapped _ _ _ ⟨true, 0, 0⟩ wrapped1 _ (by decide +kernel) (by decide +kernel) rfl (by decide +kernel) test_unwrap (by decide +kernel)⟩

theorem witness_WrapKeysAndKeyCaches : ∃ (s s2 s3 : State) (w : Who) (k : Fin 17) (point key : Nat) (p : Pav) (m : Msg) (t : Part) (ix : Nat),
    (k.val ≠ 0 ∧ s.part.mayWrite w .wrapPeerPublic ∧ s.part.agree point (asciiBytes "GZ8-WRAP" ++ [k.val]) 32 = some key) ∧
    (s.part.mayWrite w .wrapKeyCommand ∧ (s.part.keys.wraps.get OneKey.zero k).live = true) ∧
    (ix < 8192 ∧ s2.part.takeMsg p 12 = some (m, t) ∧ m.addr = ix ∧ (s2.part.pav p).keyInvalid = [ix] ∧
      (t.keySet (ix / 2) (ix % 2)).live = true ∧ (∀ k ∈ t.serving, k = p.val ∨ ix ∉ (t.pav k).keyInvalid) ∧ t.sweepComing (ix / 2) = false) ∧
    ((s3.part.pav p).keyInvalid = [ix] ∧ (s3.part.keySet (ix / 2) (ix % 2)).live = true ∧
      (∀ k ∈ s3.part.serving, k = p.val ∨ ix ∉ (s3.part.pav k).keyInvalid) ∧ s3.part.sweepComing (ix / 2) = true ∧
      ix % 2 ≠ s3.part.od .sliceKeyActive (ix / 2)) := by
  have h : ((stKeys ⟨[], [(16, ⟨true, 0, 0⟩)], [], 0, []⟩ [(.monitorRole, 0, 3)]).part.agree (ecBytes (some p384G)) (asciiBytes "GZ8-WRAP" ++ [16]) 32).isSome = true := by
    rw [Part.agree, Option.isSome_map]; decide +kernel
  obtain ⟨key, h⟩ := Option.isSome_iff_exists.mp h
  exact ⟨stKeys ⟨[], [(16, ⟨true, 0, 0⟩)], [], 0, []⟩ [(.monitorRole, 0, 3)],
    but (stKeys ⟨[(8191, ⟨true, 0, 1, 2, 3⟩)], [], [], 0, []⟩ [(.pavilionState, 7, 1)]) fun s => s.onPav 7 fun v => { v with
      keyInvalid := [8191], inbox := [{ Msg.zero with opcode := 12, addr := 8191 }] },
    but (stKeys ⟨[(8191, ⟨true, 0, 1, 2, 3⟩)], [], [], 0, [(4095, 1)]⟩ [(.pavilionState, 7, 1)]) fun s => s.onPav 7 fun v => { v with keyInvalid := [8191] },
    .monitor, 16, ecBytes (some p384G), key, 7, _, _, 8191, ⟨by decide, ⟨by decide, by decide⟩, h⟩, ⟨⟨by decide, by decide⟩, by decide +kernel⟩,
    ⟨by decide, rfl, by decide +kernel⟩, by decide +kernel⟩

/-- A link UP in direction 1, whose state is given. -/
def stLink (v : LinkDir) (x : Nat := 2) (l : List (Entry × Nat × Nat) := []) : State :=
  but (st (l ++ [(.linkState, 27, x)])) fun s => s.onLink 27 fun t => { t with down := v }

/-- A response from pavilion 7 to pavilion 6. -/
def lmsg : Msg := { Msg.zero with cls := 1, opcode := 5, src := 7, dst := 6, units := 1 }

theorem witness_FlitsAreSentAndReceived : ∃ (s s2 s3 s4 s5 : State) (n : Link) (d : Dir) (f f3 f4 : Flit) (t : TxEnt) (m : Msg),
    (s.part.od .linkState n = 2 ∧ s.part.rest.inRest = false ∧ ((s.part.link n).dir d).resend = [f]) ∧
    (s2.part.od .linkState n = 2 ∧ s2.part.rest.inRest = false ∧ ((s2.part.link n).dir d).resend = [] ∧ s2.part.parked (0x0400 + n) = false ∧
      ((s2.part.link n).dir d).replay.length < 512 ∧ ((s2.part.link n).dir d).tx = [t] ∧ t.msg.size ≤ 15 ∧
      ((s2.part.link n).dir d).mayPlace t.msg = true) ∧
    (s3.part.od .linkState n = 2 ∧ ((s3.part.link n).dir d).wire = [f3] ∧ f3.isData = true ∧ f3.seq = ((s3.part.link n).dir d).expected ∧
      f3.msgs = [m] ∧ opcodeClass m.opcode = m.cls ∧ m.dst = (dirEnds n d).2 ∧ (∀ p : Pav, (s3.part.pav p).newPath = []) ∧
      s3.part.oldPathBusy n m.src m.dst m.cls = false) ∧
    (((s5.part.link n).dir d).wire = [f3] ∧ (∀ p : Pav, (s5.part.pav p).newPath = []) ∧ s5.part.oldPathBusy n m.src (dirEnds n d).2 m.cls = true) ∧
    (s4.part.od .linkState n = 2 ∧ ((s4.part.link n).dir d).wire = [f4] ∧ f4.isData = true ∧ f4.seq ≠ ((s4.part.link n).dir d).expected ∧
      ahead 12 ((s4.part.link n).dir d).expected f4.seq = true) :=
  ⟨stLink { LinkDir.zero with resend := [⟨true, 0xFFF, 0, 0, 0, [lmsg]⟩] }, stLink { LinkDir.zero with tx := [⟨0, lmsg⟩] },
    stLink { LinkDir.zero with wire := [⟨true, 0, 0, 0, 0, [lmsg]⟩] }, stLink { LinkDir.zero with wire := [⟨true, 0xFFF, 0, 0, 0, [lmsg]⟩] },
    but (stLink { LinkDir.zero with wire := [⟨true, 0, 0, 0, 0, [lmsg]⟩] }) fun s => s.onLink 26 fun t => { t with up := { LinkDir.zero with tx := [⟨0, lmsg⟩] } },
    27, 1,
    ⟨true, 0xFFF, 0, 0, 0, [lmsg]⟩, ⟨true, 0, 0, 0, 0, [lmsg]⟩, ⟨true, 0xFFF, 0, 0, 0, [lmsg]⟩, ⟨0, lmsg⟩, lmsg, by decide +kernel⟩

theorem witness_LinksBreakAndTrain_breaks : ∃ (s s2 s3 s4 : State) (n : Link) (d : Dir) (w : Who),
    (s.part.od .linkState n = 2 ∧ s.part.rest.inRest = false ∧ ((s.part.link n).dir d).starved s.part.now = true ∧
      ((s.part.link n).dir (otherDir d)).heardAt ≠ s.part.now + 1 ∧
      s.part.mayWrite w .linkCommand) ∧
    (s2.part.od .linkState n = 2 ∧ s2.part.rest.inRest = false ∧ ((s2.part.link n).dir d).replay ≠ [] ∧
      ((s2.part.link n).dir d).ackAt ≠ s2.part.now + 1) ∧
    (s3.part.od .linkState n = 2 ∧ s3.part.rest.inRest = false ∧ ((s3.part.link n).dir d).nakWire = true ∧ 15 ≤ ((s3.part.link n).dir d).naks) ∧
    (s4.part.od .linkState n = 2 ∧ s4.part.rest.inRest = false ∧ ((s4.part.link n).dir d).nakWire = true ∧ ((s4.part.link n).dir d).naks < 15) :=
  ⟨stLink { LinkDir.zero with tx := [⟨0, lmsg⟩], charged := [0, 0, 512, 0, 0, 0, 0, 0] } 2 [(.monitorRole, 0, 2)],
    stLink { LinkDir.zero with replay := [⟨true, 0, 0, 0, 0, [lmsg]⟩] }, stLink { LinkDir.zero with nakWire := true, naks := 15 },
    stLink { LinkDir.zero with nakWire := true, naks := 14 }, 27, 1, .monitor,
    ⟨by decide +kernel, by decide +kernel, by decide +kernel, by decide +kernel, ⟨by decide, by decide⟩⟩, by decide +kernel⟩

theorem witness_LinksBreakAndTrain_trains : ∃ (s s2 s3 : State) (n : Link) (w : Who) (p : Pav) (m : Msg) (t : Part),
    s.part.od .linkState n = 3 ∧ (s2.part.mayWrite w .linkCommand ∧ s2.part.od .linkState n = 4) ∧ s3.part.takeMsg p 13 = some (m, t) :=
  ⟨stLink LinkDir.zero 3, stLink LinkDir.zero 4 [(.monitorRole, 0, 2)],
    but (st []) fun s => s.onPav 7 fun v => { v with inbox := [{ Msg.zero with opcode := 13, addr := 91 }] }, 27, .monitor, 7, _, _,
    by decide +kernel, ⟨⟨by decide, by decide⟩, by decide +kernel⟩, rfl⟩

theorem witness_LinkEventsComplete : ∃ (s s2 s3 s4 : State) (n : Link) (p : Pav) (m : Msg) (t : Part),
    (s.part.od .linkState n ∈ [1, 3] ∧ s.part.gate.held = [] ∧ (s.part.link n).attempts + 1 < s.part.od .linkRetrainAttempts n) ∧
    (s2.part.od .linkState n ∈ [1, 3] ∧ s2.part.gate.held = [] ∧ s2.part.od .linkRetrainAttempts n ≤ (s2.part.link n).attempts + 1 ∧
      (s2.part.setOd .linkState n 4).pathless = []) ∧
    (s3.part.od .linkState n ∈ [0, 1, 3, 4]) ∧ s4.part.takeMsg p 13 = some (m, t) ∧ m.addr / 32 = 2 :=
  ⟨stLink LinkDir.zero 1 [(.linkRetrainAttempts, 27, 2)], stLink LinkDir.zero 3 [(.linkRetrainAttempts, 27, 1), (.pavilionState, 0, 1)], stLink LinkDir.zero 4,
    but (st []) fun s => s.onPav 7 fun v => { v with inbox := [{ Msg.zero with opcode := 13, addr := 91 }] }, 27, 7, _, _, by decide +kernel,
    by decide +kernel, by decide +kernel, rfl, by decide +kernel⟩

theorem witness_EndpointViews : ∃ (s s2 : State) (i : Port) (sl : Slice) (a : Nat) (b : Bar) (off : Nat),
    (s.part.tenantLive i sl = true ∧ s.part.barDecode i a = some (b, off)) ∧ s2.part.tenantLive i sl = false :=
  ⟨but (st [(.sliceState, 4095, 2), (.slicePort, 4095, 15)]) fun s => (s.barWrite 15 2 (2 ^ 31)).barWrite 15 3 1, st [], 15, 4095, 2 ^ 32 + 2 ^ 31 + 2 ^ 24 - 1,
    .tenants, 2 ^ 24 - 1, by decide +kernel⟩

/-- A state with its power inputs changed. -/
def stPower (f : PowerState → PowerState) (l : List (Entry × Nat × Nat)) : State := but (st l) fun s => { s with power := f s.power }

theorem witness_MainInputSequence : ∃ s s1 s2 s3 s4 s5 : State,
    (s.part.rest.step = none ∧ s.part.rest.inRest = false ∧ s.part.od .mainState 0 = 0) ∧
    (s5.part.rest.step = none ∧ s5.part.rest.inRest = false ∧ s5.part.power.rawPresent = false ∧ s5.part.od .mainState 0 = 5 ∧
      s5.part.power.absence = true) ∧
    (s1.part.od .mainState 0 = 1 ∧ s1.part.power.rawPresent = true) ∧
    (s2.part.od .mainState 0 = 2 ∧ s2.part.od .partFailed 0 ≠ 1 ∧ s2.part.boot.pav0Lost = false ∧ s2.part.power.thermtrip = true ∧ s2.part.power.coreFails < 3 ∧ s2.part.od .mainRetryCount 0 < 255 ∧
      0 ∈ s2.part.power.limiting ∧ s2.part.rest.step = none ∧ s2.part.rest.inRest = false) ∧
    s3.part.od .mainState 0 = 3 ∧ (s4.part.od .mainState 0 = 4 ∧ s4.part.power.rawPresent = true) :=
  ⟨st [], stPower (fun v => { v with rawPresent := true }) [(.mainState, 0, 1)],
    stPower (fun v => { v with limiting := [0], coreFails := 2 }) [(.mainState, 0, 2), (.mainRetryCount, 0, 254)], st [(.mainState, 0, 3)],
    stPower (fun v => { v with rawPresent := true }) [(.mainState, 0, 4)], stPower (fun v => { v with absence := true }) [(.mainState, 0, 5)],
    by decide +kernel⟩

theorem witness_BranchesAndSamples : ∃ (s s2 s3 s4 s5 : State) (b c : Branch) (w : Who) (k : Fin 17),
    (s.part.mayWrite w .branchCommand ∧ s.part.od .branchState b = 0 ∧ s.part.od .mainState 0 = 3 ∧ s.part.pstate (b / 2) = 0 ∧
      ¬ b.val ∈ s.part.power.branchQ ∧ s.part.ramping = true) ∧
    (s2.part.mayWrite w .branchCommand ∧ s2.part.od .branchState b = 0 ∧ s2.part.od .mainState 0 = 3 ∧ s2.part.pstate (b / 2) = 0 ∧
      ¬ b.val ∈ s2.part.power.branchQ ∧ s2.part.ramping = false ∧ s2.part.power.branchQ = []) ∧
    (s3.part.mayWrite w .branchCommand ∧ s3.part.od .branchState b ≠ 4 ∧ s3.part.pstate (b / 2) ∈ [4, 5] ∧ s3.part.power.branchQ = []) ∧
    (s4.part.od .branchState b = 1 ∧ s4.part.power.branchQ = [c.val] ∧ c ≠ b ∧ (∀ d : Branch, d ≠ b → s4.part.od .branchState d ≠ 1) ∧
      s4.part.fetDriven k = true ∧ ¬ k.val ∈ s4.part.power.limiting ∧ s4.part.rest.step = none ∧ s4.part.rest.inRest = false) ∧
    (s5.part.od .branchState b = 3 ∧ s5.part.pstate (b / 2) = 0 ∧ s5.part.ramping = false ∧ s5.part.power.branchQ = []) :=
  ⟨st [(.monitorRole, 0, 2), (.mainState, 0, 3), (.branchState, 0, 1)], st [(.monitorRole, 0, 2), (.mainState, 0, 3)],
    st [(.monitorRole, 0, 2), (.pavilionState, 7, 4)], stPower (fun v => { v with branchQ := [0] }) [(.branchState, 15, 1)],
    st [(.branchState, 15, 3)], 15, 0, .monitor, 16, ⟨⟨by decide, by decide⟩, by decide +kernel⟩, ⟨⟨by decide, by decide⟩, by decide +kernel⟩,
    ⟨⟨by decide, by decide⟩, by decide +kernel⟩, by decide +kernel⟩

/-- The monitor enabled, firmware running, a session of a role. -/
def stMon (r : Nat) (locked : Bool := false) : State :=
  but (st [(.bootState, 0, 13), (.monitorEnable, 0, 1), (.monitorRole, 0, r)]) fun s => { s with
    mon := ⟨2, locked, [(0, 5)], 0⟩, keys := { s.keys with roles := [(4, ⟨true, 0, 9⟩)] }, logNext := 65536 }

theorem witness_MonitorCommands_login : ∃ (s s2 s3 s4 : State) (r : Role) (key good bad : Nat),
    (s.part.monServes = true ∧ s.part.monEnabled = false ∧ s.part.mon.usedAt ≠ s.part.now + 1) ∧
    (s4.part.monServes = true ∧ s4.part.mon.usedAt = s4.part.now + 1) ∧
    (s2.part.monServes = true ∧ s2.part.monEnabled = true ∧ s2.part.monKey r = some key ∧ s2.part.od .monitorRole 0 = 0 ∧ s2.part.mon.locked = false) ∧
    (good = s2.part.monAnswer key (s2.part.free.1 % 2 ^ 128) ∧ bad ≠ s2.part.monAnswer key (s2.part.free.1 % 2 ^ 128)) ∧
    (s3.part.monServes = true ∧ s3.part.monEnabled = true ∧ s3.part.monKey r = some key ∧ s3.part.od .monitorRole 0 = 0 ∧ s3.part.mon.locked = true) := by
  have h : ∀ x : Nat, ∃ good bad, good = x ∧ bad ≠ x := fun x => ⟨x, x + 1, rfl, Nat.succ_ne_self x⟩
  obtain ⟨good, bad, h⟩ := h ((stMon 0).part.monAnswer 9 ((stMon 0).part.free.1 % 2 ^ 128))
  exact ⟨st [(.bootState, 0, 3)], stMon 0, stMon 0 true, but (stMon 0) fun s => { s with mon := { s.mon with usedAt := s.now + 1 } }, 4, 9, good, bad,
    by decide +kernel, by decide +kernel, by decide +kernel, h, by decide +kernel⟩

theorem witness_MonitorCommands_session : ∃ (s : State) (n v v2 n2 e i : Nat) (index index2 index3 : BitVec 16) (sub : BitVec 8) (addr low : U64),
    s.part.monServes = true ∧ s.part.monEnabled = true ∧ 4 ≤ s.part.od .monitorRole 0 ∧ s.part.romOnly = false ∧ n ≤ s.part.logNext ∧ n ≤ 65536 ∧
    s.part.dictRead index.toNat sub.toNat = .ok (v2, n2) ∧ Entry.find index2.toNat sub.toNat = none ∧
    (Entry.find index3.toNat sub.toNat).map (fun q => (q.1.info.index, q.2)) = some (e, i) ∧
    gateMemory ≤ addr.toNat ∧ addr.toNat % 8 = 0 ∧ v < 2 ^ 64 ∧ s.part.mon.memory.lookup (addr.toNat / 8 - gateMemory / 8) = some v ∧
    low.toNat < gateMemory ∧ low.toNat % 8 = 0 :=
  ⟨stMon 4, 65536, 5, 0, 1, 0x1000, 0, BitVec.ofNat 16 Entry.partFailed.info.index, 0xFFFF, 0x1000, BitVec.ofNat 8 Entry.partFailed.info.sub,
    2 ^ 43, 2 ^ 43 - 8, by decide +kernel⟩

/-- A token for a part with serial number 0 and challenge 0 whose vendor key is the point below. -/
def token1 : Nat := 0x95634a0076aea65e372e2ed458c2f970e23f65974862d459582a9cfa36fb37e0fdfdb97e83b4903cd6945122798b3d5695634a0076aea65e372e2ed458c2f970e23f65974862d459582a9cfa36fb37e0fdfdb97e83b4903cd6945122798b3d5600000000000000000000000000000000000000000000000000000000000000000000000000000000
/-- The vendor's public point. -/
def point1 : Nat := 0xc3057bf0bf7b25f181d6e2d26b4d204a76e7d08ed5bb9c8cad293b5bb4abfe0f32dc521dcfaa1a07505a04edea81cd01f5c13c098bddcc575e139d1cc3b8c99460569868438b93a5f837352a437af0e466bcdd9018974e9e815e258bd078328204

/-- The header of an image of 64 B under key 3 with a security version number. -/
def imgHead (svn : Nat) : BitVec 2048 := BitVec.ofNat 2048 (1 ||| (3 <<< 24) ||| (svn <<< 32) ||| (64 <<< 64) ||| (0x46385A47 <<< 96))

theorem witness_FirmwareAndFuses : ∃ (s s2 s3 s4 : State) (w : Who) (img : ImageCheck) (v : BitVec 8) (p : Pav) (addr : U64),
    (s.part.firmwareRuns = true ∧ s.part.flash.config ≠ s.part.configNow ∧ s.part.flash.trust ≠ s.part.trustNow) ∧
    (s.part.mayWrite w .fwUpdateCommand ∧ s.part.od .fwUpdateState 0 = 1 ∧ s.part.mayWrite w .fwUpdateData) ∧
    (s2.part.mayWrite w .fwUpdateCommand ∧ s2.part.od .fwUpdateState 0 ≠ 1) ∧
    (s2.part.od .fwUpdateState 0 = 2 ∧ s2.part.slotCheck (1 - s2.part.od .bootSlotActive 0) img = 0) ∧
    (s3.part.mayWrite w .fwSvnCommit ∧ s3.part.flash.svnFuse ≤ v.toNat ∧ v.toNat ≤ s3.part.od .fwSvnImage 0) ∧
    (s3.part.mayWrite w .fwKeyRevoke ∧ v.toNat ≤ 3 ∧ v.toNat ≠ s3.part.od .fwKeyIndex 0 ∧
      (∃ j < 4, j ≠ v.toNat ∧ bit s3.part.flash.revoked j = false)) ∧
    (s4.part.mayWrite w .debugUnlock ∧ s4.part.tokenOk token1 = true ∧ s4.part.tokenOk 0 = false) ∧
    (s3.part.od .debugState 0 = 0 ∧ s2.part.od .debugState 0 ≠ 0 ∧ s2.part.filterAllows p addr.toNat false = true ∧
      (s2.part.ownOf p (addr.toNat / 2 ^ 21)).kind ≠ kindSystem) :=
  ⟨st [(.bootState, 0, 13), (.monitorRole, 0, 2), (.fwUpdateState, 0, 1), (.promoteThreshold, 0, 9)],
    st [(.monitorRole, 0, 2), (.fwUpdateState, 0, 2), (.debugState, 0, 1)],
    but (st [(.monitorRole, 0, 3), (.fwSvnImage, 0, 3)]) fun s => { s with flash := { s.flash with svnFuse := 3 } },
    but (st [(.monitorRole, 0, 4)]) fun s => { s with flash := { s.flash with vendorPoint := point1 } },
    .monitor, ⟨imgHead 0, true, true, true, true, 0, 0, 0⟩, 3, 7, 2 ^ 43 - 8,
    by decide +kernel, ⟨⟨by decide, by decide⟩, by decide +kernel, ⟨by decide, by decide⟩⟩, ⟨⟨by decide, by decide⟩, by decide +kernel⟩,
    by decide +kernel, ⟨⟨by decide, by decide⟩, by decide +kernel⟩, ⟨⟨by decide, by decide⟩, by decide +kernel⟩,
    ⟨⟨by decide, by decide⟩, by decide +kernel⟩, by decide +kernel⟩

theorem witness_NetworkAndMctp : ∃ (s s2 s3 s4 : State) (a : BitVec 32) (b : BitVec 128) (w : Who) (m : Sparse Nat),
    (s.part.boot.pav0Lost = false ∧ s.part.power.vaux = true ∧ s.part.od .mgmtLinkState 0 = 1 ∧ s.part.ownsV4 a.toNat = true ∧
      s.part.ownsV4 0 = false ∧ s.part.ownsV6 b.toNat = true ∧ s.part.ownsV6 0 = false ∧ s.part.listens = true ∧ s.part.rest.step = none) ∧
    (s2.part.od .mgmtLinkState 0 = 1 ∧ s2.part.listens = true ∧ s2.part.od .mgmtIpv4Mode 0 = 1) ∧
    (s3.part.od .mgmtLinkState 0 = 1 ∧ s3.part.rest.inRest = true ∧ s3.part.gate.netOld = some m) ∧
    (s4.part.mayWrite w .mgmtCommand ∧ s4.part.overEthernet w = true) :=
  ⟨st [(.bootState, 0, 13), (.mgmtLinkState, 0, 1), (.mgmtIpv4Address, 0, 0xFFFFFFFF), (.mgmtIpv4Mode, 0, 0), (.mgmtIpv6Address, 0, 1)],
    st [(.bootState, 0, 7), (.mgmtLinkState, 0, 1), (.mgmtIpv4Mode, 0, 1)],
    but (st [(.mgmtLinkState, 0, 1)]) fun s => { s with rest := { s.rest with inRest := true }, gate := { s.gate with netOld := some [(Entry.mgmtVlan.key 0, 5)] } },
    but (st [(.sessionRole, 31, 2)]) fun s => s.onSess 31 fun q => { q with isOpen := true, origin := .ethernet 1 2 },
    0xFFFFFFFF, BitVec.ofNat 128 (2 ^ 120), .session 31, _, by decide +kernel, by decide +kernel,
    ⟨by decide +kernel, by decide +kernel, rfl⟩, ⟨by decide, by decide⟩, by decide +kernel⟩

/-- Slice 4095 STOPPED on port 15 with its last extent granted or not, and the port's state. -/
def stDc (granted : Bool) (f : PortState → PortState) (l : List (Entry × Nat × Nat) := []) : State :=
  but (st (l ++ [(.monitorRole, 0, 2), (.sliceState, 4095, 1), (.slicePort, 4095, 15)])) fun s =>
    (s.onSlice 4095 fun q => { q with grants := if granted then [(65535, 2 ^ 511)] else [] }).onPort 15 f

/-- A request for the last extent of slice 4095. -/
def dcx : BitVec 128 := BitVec.ofNat 128 (4095 * 2 ^ 24 + 7 * 2 ^ 36 + (2 ^ 25 - 1) * 2 ^ 39 + 2 ^ 64)

theorem witness_DynamicCapacity_requests : ∃ (s s2 : State) (i : Port) (w : Who) (x : BitVec 128) (r r2 r3 : DcReq) (taken : List Nat) (t : Part),
    (s.part.mayWrite w .dcRequest ∧ 0 < r.count ∧ r.count ≤ 65536 ∧ r.first + r.count ≤ 2 ^ 25 ∧ s.part.boundPort r.slice = some i.val ∧
      s.part.od .dcState i = 0 ∧ r = DcReq.decode (setBits x.toNat 0 8 1) ∧ (∀ k < r.count, s.part.granted r.slice (r.first + k) = false) ∧
      s.part.mapRegions i r.slice r.dc (((List.range r.count).map fun k => (r.first + k) / 512).eraseDups) = some (taken, t)) ∧
    (s2.part.mayWrite w .dcRequest ∧ 0 < r2.count ∧ r2.count ≤ 65536 ∧ r2.first + r2.count ≤ 2 ^ 25 ∧ s2.part.boundPort r2.slice = some i.val ∧
      s2.part.od .dcState i = 0 ∧ r2 = DcReq.decode (setBits x.toNat 0 8 2) ∧ (∀ k < r2.count, s2.part.granted r2.slice (r2.first + k) = true)) ∧
    (0 < r3.count ∧ r3.count ≤ 65536 ∧ r3.first + r3.count ≤ 2 ^ 25 ∧ s2.part.boundPort r3.slice = some i.val ∧
      r3 = DcReq.decode (setBits x.toNat 0 8 3) ∧ (∀ k < r3.count, s2.part.granted r3.slice (r3.first + k) = true) ∧
      (∀ k < r3.count, s2.part.regionEntry i r3.slice ((r3.first + k) / 512) = none) ∧ (s2.part.port i).releases = [] ∧
      (∀ p < 8, s2.part.pstate p ≠ 3 ∧ s2.part.pstate p ≠ 5)) :=
  ⟨stDc false id, stDc true id, 15, .monitor, dcx, _, _, _, _, _,
    ⟨⟨by decide, by decide⟩, by decide +kernel, by decide +kernel, by decide +kernel, by decide +kernel, by decide +kernel, rfl, by decide +kernel, rfl⟩,
    ⟨⟨by decide, by decide⟩, by decide +kernel, by decide +kernel, by decide +kernel, by decide +kernel, by decide +kernel, rfl, by decide +kernel⟩,
    by decide +kernel, by decide +kernel, by decide +kernel, by decide +kernel, rfl, by decide +kernel, by decide +kernel, by decide +kernel,
    by decide +kernel⟩

/-- The port with its last DPA region mapped to the last region of slice 4095. -/
def dcMapped (t : PortState) : PortState := { t with regionMap := [(262143, 2 ^ 31 + 4095 * 2 ^ 16 + 65535)], masks := [(262143, 2 ^ 511)] }

theorem witness_DynamicCapacity_answers : ∃ (s s2 s3 : State) (i : Port) (w : Who) (op : DcOp) (runs : List (Nat × Nat)) (xs : List Nat) (r : Release),
    (s.part.mayWrite w .dcRequest ∧ s.part.od .dcState i ∈ [1, 2] ∧ (s.part.port i).dcOp = some op ∧ op.slice < 4096 ∧ s.part.od .dcState i = 2 ∧
      op.kind ≠ 4 ∧ (∀ p < 8, s.part.pstate p ≠ 3 ∧ s.part.pstate p ≠ 5) ∧ dpaExts runs = some xs ∧
      (∀ x ∈ xs, ∃ le ∈ op.offered, s.part.extOfDpa i x = some (op.slice, le))) ∧
    ((s2.part.port i).mboxBusy = none ∧ dpaExts runs = some xs ∧ xs ≠ [] ∧ (∀ x ∈ xs, s2.part.maskBit i x = true)) ∧
    ((s3.part.port i).releases = [r] ∧ r.forced = false ∧ s3.part.decodedInto i r.extents = false ∧ (s3.part.port i).mboxBusy = some 0x4803 ∧
      (s3.part.port i).dcOp = none ∧ (∀ p < 8, s3.part.pstate p ≠ 3 ∧ s3.part.pstate p ≠ 5)) :=
  ⟨stDc true (fun t => dcMapped { t with dcOp := some ⟨4095, 2 ^ 25 - 1, 1, [], [(2 ^ 25 - 1, 1)], 1⟩ }) [(.dcState, 15, 2)], stDc true dcMapped,
    stDc true fun t => dcMapped { t with releases := [⟨[262143 * 512 + 511], false, false⟩], mboxBusy := some 0x4803 },
    15, .monitor, ⟨4095, 2 ^ 25 - 1, 1, [], [(2 ^ 25 - 1, 1)], 1⟩, [((262143 * 512 + 511) * 2 ^ 21, 2 ^ 21)], [262143 * 512 + 511],
    ⟨[262143 * 512 + 511], false, false⟩, ⟨⟨by decide, by decide⟩, by decide +kernel⟩, by decide +kernel⟩

theorem witness_PavilionCommands : ∃ (s s2 s3 s4 s5 : State) (w : Who) (p : Pav),
    (s.part.mayWrite w .pavilionCommand ∧ s.part.pstate p = 1 ∧ p.val ≠ 0 ∧ s.part.regionsHomed p = [] ∧ s.part.portsBusy p = false ∧
      2 ≤ (s.part.serving.filter (· != p.val)).length) ∧
    (s2.part.mayWrite w .pavilionCommand ∧ s2.part.pstate p = 2) ∧
    (s3.part.mayWrite w .pavilionCommand ∧ s3.part.pstate p ∈ [1, 2] ∧ p.val ≠ 0 ∧ (∀ r : Pav, s3.part.pstate r ≠ 3) ∧
      2 ≤ (s3.part.inServiceState.filter (· != p.val)).length ∧ s3.part.vint.inForce.place.sorted = true ∧
      (∃ k, placeValid (s3.part.vint.inForce.place.get 0 k) = true ∧ placeHome (s3.part.vint.inForce.place.get 0 k) = p)) ∧
    (s4.part.mayWrite w .pavilionCommand ∧ s4.part.pstate p = 4 ∧ s4.part.roleOf w = roleVendor) ∧
    (s5.part.mayWrite w .pavilionCommand ∧ s5.part.pstate p ∉ [1, 2]) :=
  ⟨st [(.monitorRole, 0, 2), (.pavilionState, 7, 1), (.pavilionState, 0, 1), (.pavilionState, 1, 1)], st [(.monitorRole, 0, 2), (.pavilionState, 7, 2)],
    but (st [(.monitorRole, 0, 2), (.pavilionState, 7, 1), (.pavilionState, 0, 1), (.pavilionState, 1, 1)]) fun s =>
      s.setPlace 4095 65535 (mkPlace 7 6 false false 0), st [(.monitorRole, 0, 4), (.pavilionState, 7, 4)],
    st [(.monitorRole, 0, 2), (.pavilionState, 7, 5)], .monitor, 7, ⟨⟨by decide, by decide⟩, by decide +kernel⟩, ⟨⟨by decide, by decide⟩, by decide +kernel⟩,
    ⟨⟨by decide, by decide⟩, by decide +kernel, by decide +kernel, by decide +kernel, by decide +kernel, by decide +kernel, regionKey 4095 65535,
      by decide +kernel⟩, ⟨⟨by decide, by decide⟩, by decide +kernel⟩, ⟨by decide, by decide⟩, by decide +kernel⟩

theorem witness_FaultsAndLoss_pavilions : ∃ (s s2 s3 s4 s5 : State) (p : Pav) (n : Link) (b : Branch),
    (s.part.pstate 0 ≠ 5 ∧ s.part.boot.pav0Lost = false ∧ s.part.rest.inRest = false ∧ s.part.pstate p < 4 ∧ s.part.rest.step = none ∧
      s.part.gate.held = [] ∧ s.part.od .pllLocked p ≠ 0) ∧
    (s2.part.od .linkState n ∈ [1, 3] ∧ s2.part.gate.held = [] ∧ (s2.part.link n).attempts + 1 < s2.part.od .linkRetrainAttempts n) ∧
    (s3.part.od .linkState n ∈ [1, 3] ∧ s3.part.gate.held = [] ∧ s3.part.od .linkRetrainAttempts n ≤ (s3.part.link n).attempts + 1 ∧
      (s3.part.setOd .linkState n 4).pathless = []) ∧
    (s4.part.gate.held = [] ∧ s4.part.power.branchQ = [] ∧ s4.part.od .branchState b = 1 ∧ b.val + 1 ∈ s4.part.power.limiting ∧
      s4.part.pstate (b / 2) = 0 ∧ s4.part.power.branchTrips.get 0 b + 1 ≤ s4.part.od .branchRetries b) ∧
    (s5.part.gate.held = [] ∧ s5.part.power.branchQ = [] ∧ s5.part.od .branchState b = 1 ∧ b.val + 1 ∈ s5.part.power.limiting ∧
      s5.part.pstate (b / 2) ∈ [1, 2, 3] ∧ b.val / 2 ≠ 0 ∧ s5.part.rest.step = none ∧ s5.part.rest.inRest = false) :=
  ⟨st [(.pavilionState, 7, 3), (.pllLocked, 7, 1)], st [(.linkState, 27, 1), (.linkRetrainAttempts, 27, 2)],
    st [(.linkState, 27, 3), (.linkRetrainAttempts, 27, 1), (.pavilionState, 0, 1)],
    stPower (fun v => { v with limiting := [16] }) [(.branchState, 15, 1), (.branchRetries, 15, 1)],
    stPower (fun v => { v with limiting := [16] }) [(.branchState, 15, 1), (.pavilionState, 7, 2)], 7, 27, 15, by decide +kernel⟩

/-- A state with an attempt at REST in a step. -/
def stRest (f : RestState → RestState) (l : List (Entry × Nat × Nat) := []) : State := but (st l) fun s => { s with rest := f s.rest }

theorem witness_FaultsAndLoss_rest : ∃ s s2 s3 s4 : State,
    (s.part.gate.held = [] ∧ s.part.rest.step = some 1 ∧ s.part.rest.wake = none) ∧
    (s2.part.gate.held = [] ∧ s2.part.rest.step = some 2 ∧ s2.part.rest.agreed = [] ∧ s2.part.gateRefuses = 0) ∧
    (s3.part.gate.held = [] ∧ s3.part.rest.step = some 2 ∧ s3.part.rest.agreed = [] ∧ s3.part.gateRefuses ≠ 0 ∧ s3.part.gateRefuses < 256) ∧
    (s4.part.gate.held = [] ∧ s4.part.rest.step = some 7 ∧ s4.part.rest.wake = none ∧
      (∀ k < 7, 0x0601 + k ∈ s4.part.rest.agreed.map (· % 0x10000)) ∧ ¬ 0x0600 ∈ s4.part.rest.agreed.map (· % 0x10000)) :=
  ⟨stRest fun r => { r with step := some 1 },
    stRest (fun r => { r with step := some 2 }) ((List.range 8).map fun p => (.pavilionState, p, 1)),
    stRest fun r => { r with step := some 2 }, stRest fun r => { r with step := some 7, agreed := (List.range 7).map (0x0601 + ·) }, by decide +kernel⟩

/-- Slice 4095 on port 15 with its state given. -/
def stSlice (x : Nat) (q : SliceState) (l : List (Entry × Nat × Nat) := []) : State :=
  but (st (l ++ [(.sliceState, 4095, x), (.slicePort, 4095, 15), (.pavilionState, 7, 1)])) fun s => s.onSlice 4095 fun _ => q

theorem witness_SliceLifecycle_states : ∃ (s s2 s3 s4 s5 : State) (w : Who) (sl : Slice),
    (s.part.mayWrite w .sliceCommand ∧ s.part.od .sliceState sl = 0 ∧ s.part.od .slicePort sl < 16 ∧
      s.part.pstate (portPav (s.part.od .slicePort sl)) = 1 ∧ s.part.od .sliceClearing sl ≠ 1) ∧
    (s2.part.mayWrite w .sliceCommand ∧ s2.part.od .sliceState sl = 1 ∧ s2.part.hasKey sl = true ∧ s2.part.od .sliceClearing sl ≠ 1 ∧
      (s2.part.slice sl).rebound = false ∧ s2.part.starting sl = false ∧ (s2.part.slice sl).changed = true) ∧
    (s3.part.mayWrite w .sliceCommand ∧ s3.part.od .sliceState sl = 1 ∧ s3.part.hasKey sl = true ∧ s3.part.od .sliceClearing sl ≠ 1 ∧
      (s3.part.slice sl).rebound = false ∧ s3.part.starting sl = false ∧ (s3.part.slice sl).changed = false) ∧
    (s4.part.mayWrite w .sliceCommand ∧ s4.part.od .sliceState sl = 3 ∧ (s4.part.slice sl).bundle = none ∧ s4.part.building = false ∧
      s4.part.od .sliceState sl ∈ [1, 2, 3]) ∧
    (s5.part.mayWrite w .sliceCommand ∧ (s5.part.slice sl).bundle = none ∧ s5.part.building = false ∧ s5.part.od .sliceState sl = 2 ∧
      s5.part.od .sliceMigrationId sl = 0) :=
  let keys := fun (s : Part) => { s with keys := ⟨[(8191, ⟨true, 0, 1, 2, 3⟩)], [], [], 0, []⟩ }
  ⟨stSlice 0 SliceState.zero [(.monitorRole, 0, 2)], but (stSlice 1 { SliceState.zero with changed := true } [(.monitorRole, 0, 2)]) keys,
    but (stSlice 1 SliceState.zero [(.monitorRole, 0, 2)]) keys, stSlice 3 SliceState.zero [(.monitorRole, 0, 2)],
    stSlice 2 SliceState.zero [(.monitorRole, 0, 2)], .monitor, 4095, ⟨⟨by decide, by decide⟩, by decide +kernel⟩,
    ⟨⟨by decide, by decide⟩, by decide +kernel⟩, ⟨⟨by decide, by decide⟩, by decide +kernel⟩, ⟨⟨by decide, by decide⟩, by decide +kernel⟩,
    ⟨by decide, by decide⟩, by decide +kernel⟩

theorem witness_SliceLifecycle_binding : ∃ (s s2 s3 s4 s5 s6 : State) (w : Who) (sl : Slice) (b : Bundle) (i : Port) (v : BitVec 8) (t : Part),
    (s.part.mayWrite w .sliceCommand ∧ s.part.od .sliceState sl ∈ [1, 2, 3] ∧ (s.part.slice sl).bundle = some b ∧ b.restore = false ∧
      s.part.vint.shadow = none) ∧
    (s2.part.mayWrite w .sliceCommand ∧ s2.part.od .sliceState sl = 1 ∧ s2.part.dcBusy sl = false ∧ s2.part.unmappedExts sl = []) ∧
    (s3.part.mayWrite w .sliceCommand ∧ s3.part.od .sliceState sl = 1 ∧ s3.part.dcBusy sl = false ∧ s3.part.od .slicePort sl = i ∧
      (∃ le ∈ s3.part.unmappedExts sl, (s3.part.dpaExt i sl le).isSome = true)) ∧
    (s4.part.mayWrite w .sliceCommand ∧ s4.part.od .sliceState sl = 4) ∧
    (writeChecks Entry.slicePort.info (s5.part.roleOf w) v.toNat 1 (s5.part.sliceStopped sl) = none ∧ s5.part.od .partFailed 0 = 0 ∧
      s5.part.od .sliceState sl = 0) ∧
    (writeChecks Entry.slicePort.info (s6.part.roleOf w) v.toNat 1 (s6.part.sliceStopped sl) = none ∧ s6.part.od .partFailed 0 = 0 ∧
      s6.part.od .sliceState sl ≠ 0 ∧ 16 ≤ s6.part.od .slicePort sl ∧ v.toNat < 16 ∧
      s6.part.mapSlice v.toNat sl ((s6.part.slice sl).grants.map (·.1)) = some t) :=
  ⟨stSlice 3 { SliceState.zero with bundle := some ⟨false, false, 0, [], 0, false⟩ } [(.monitorRole, 0, 2)], stSlice 1 SliceState.zero [(.monitorRole, 0, 2)],
    stDc true fun t => { dcMapped t with masks := [] }, stSlice 4 SliceState.zero [(.monitorRole, 0, 2)], stSlice 0 SliceState.zero [(.monitorRole, 0, 2)],
    but (stSlice 1 { SliceState.zero with grants := [(65535, 2 ^ 511)] } [(.monitorRole, 0, 2)]) fun s => s.setOd .slicePort 4095 255, .monitor, 4095,
    ⟨false, false, 0, [], 0, false⟩, 15, 15, _, ⟨⟨by decide, by decide⟩, by decide +kernel⟩, ⟨⟨by decide, by decide⟩, by decide +kernel⟩,
    ⟨⟨by decide, by decide⟩, by decide +kernel, by decide +kernel, by decide +kernel, by decide +kernel⟩, ⟨⟨by decide, by decide⟩, by decide +kernel⟩,
    by decide +kernel, by decide +kernel, by decide +kernel, by decide +kernel, by decide +kernel, by decide +kernel, rfl⟩

theorem witness_SliceLifecycle_ends : ∃ (s s2 s3 : State) (sl : Slice) (d : Drain),
    ((s.part.slice sl).drain = some d ∧ s.part.outstanding sl = false ∧ d.kind = 4) ∧
    (s2.part.od .sliceClearing sl = 1 ∧ (∀ p : Pav, s2.part.pstate p ≠ 3 ∧ s2.part.pstate p ≠ 5) ∧ s2.part.od .sliceState sl = 0) ∧
    (s3.part.od .sliceClearing sl = 1 ∧ (∀ p : Pav, s3.part.pstate p ≠ 3 ∧ s3.part.pstate p ≠ 5) ∧ s3.part.od .sliceState sl ≠ 0) :=
  ⟨stSlice 4 { SliceState.zero with drain := some ⟨4, 0, 0, false⟩ }, stSlice 0 SliceState.zero [(.sliceClearing, 4095, 1)],
    stSlice 1 SliceState.zero [(.sliceClearing, 4095, 1)], 4095, ⟨4, 0, 0, false⟩, by decide +kernel⟩

/-- Slice 4095 armed, on port 15 whose window is whole and whose bus mastering is on. -/
def stArmed (x : Nat) (q : SliceState) (l : List (Entry × Nat × Nat) := []) : State :=
  but (stSlice x q (l ++ [(.sliceMigrationId, 4095, 1), (.sliceWrapIndex, 4095, 16), (.sliceBundleLen, 4095, 1), (.slicePasidEn, 4095, 1),
      (.slicePasid, 4095, 0xFFFFF), (.sliceDoorbellOps, 4095, 7)])) fun s => { s.onPort 15 fun t => { t with
    bme := true, windows := [(15, ⟨0, 0xFFFFF000, 0xFFFFF, true, true⟩)] } with keys := ⟨[], [(16, ⟨true, 0, 0⟩)], [], 0, []⟩ }

theorem witness_MigrationAndDoorbells_commands : ∃ (s s2 s3 : State) (w : Who) (sl : Slice) (v : U64),
    (s.part.mayWrite w .sliceMigrationId ∧ s.part.od .sliceState sl ∈ [1, 2, 3] ∧ s.part.od .rekeyState sl ≠ 1 ∧ s.part.sweepComing sl = false ∧ v.toNat ≠ 0 ∧
      (s.part.slice sl).rekeyWait = []) ∧
    (s2.part.mayWrite w .sliceCommand ∧ s2.part.od .sliceMigrationId sl ≠ 0 ∧ (s2.part.slice sl).bundle = none ∧ s2.part.od .sliceState sl ∈ [2, 3] ∧
      (s2.part.wrapKey (s2.part.od .sliceWrapIndex sl)).live = true) ∧
    (s3.part.mayWrite w .sliceCommand ∧ s3.part.od .sliceMigrationId sl ≠ 0 ∧ (s3.part.slice sl).bundle = none ∧ s3.part.od .sliceState sl = 1 ∧
      s3.part.od .sliceClearing sl ≠ 1 ∧ s3.part.bmActive (s3.part.trafficPort sl) = true ∧
      covered (s3.part.sliceWindows (s3.part.trafficPort sl) sl) 17 (s3.part.od .sliceBundleAddress sl) (s3.part.od .sliceBundleAddress sl + 64) = true) :=
  ⟨stSlice 3 SliceState.zero [(.monitorRole, 0, 3)], stArmed 3 SliceState.zero [(.monitorRole, 0, 2)],
    stArmed 1 SliceState.zero [(.monitorRole, 0, 2), (.sliceBundleAddress, 4095, 0xFFFFFFC0)], .monitor, 4095, 1,
    ⟨⟨by decide, by decide⟩, by decide +kernel⟩, ⟨⟨by decide, by decide⟩, by decide +kernel⟩, ⟨by decide, by decide⟩, by decide +kernel⟩

/-- A doorbell write with the prefix of slice 4095's PASID. -/
def door : BitVec 32 := 0x3FFFFFFF

theorem witness_MigrationAndDoorbells_doorbells : ∃ (s s2 : State) (i : Port) (sl : Slice) (b : Bundle),
    (s.part.boundPort sl = some i.val ∧ (DoorWrite.decode door).wide = true ∧ s.part.doorRefusal sl 1 (DoorWrite.decode door) = 0 ∧
      s.part.doorRefusal sl 2 (DoorWrite.decode door) = 0 ∧ s.part.od .sliceMigrationId sl ≠ 0 ∧
      (s.part.wrapKey (s.part.od .sliceWrapIndex sl)).live = true ∧ (s.part.slice sl).bundle = none) ∧
    (s2.part.boundPort sl = some i.val ∧ s2.part.doorRefusal sl 3 (DoorWrite.decode door) = 0 ∧ s2.part.od .sliceMigrationId sl ≠ 0 ∧
      s2.part.od .sliceClearing sl ≠ 1 ∧ (s2.part.slice sl).bundle = none ∧ s2.part.bmActive (s2.part.trafficPort sl) = true ∧
      covered (s2.part.sliceWindows (s2.part.trafficPort sl) sl) 17 (s2.part.od .sliceBundleAddress sl) (s2.part.od .sliceBundleAddress sl + 64) = true) ∧
    ((stArmed 3 { SliceState.zero with bundle := some b }).part.slice sl).bundle = some b ∧ b.restore = false ∧
      (stArmed 3 { SliceState.zero with bundle := some b }).part.bmActive ((stArmed 3 { SliceState.zero with bundle := some b }).part.trafficPort sl) = true ∧
      (∀ q ∈ [(64, b.size - 64), (0, 64)], covered ((stArmed 3 { SliceState.zero with bundle := some b }).part.sliceWindows 15 sl) 17 q.1 (q.1 + q.2) = true) :=
  ⟨stArmed 3 SliceState.zero, stArmed 1 SliceState.zero, 15, 4095, ⟨false, false, 176, [], 0, false⟩, by decide +kernel⟩

/-- A bundle of slice 5 of the part with serial number 9 that holds key set 1, 2, 3 and no page; the flag makes it the final one. -/
def bundle1 (final : Bool) : Nat :=
  (if final then 0xAF84A013DD7D967A327225D7ACA91C700000000000000001000000000000000900000000000000B0000000000000000000510100000000000000000000000001
   else 0xCF8CC4302902158890A888BD42A7B1140000000000000001000000000000000900000000000000B0000000000000000000510000000000000000000000000001) ||| (wrapped1 <<< 512)

/-- What it holds. -/
def read1 (final : Bool) : BundleRead := ⟨BundleHead.decode (bundle1 final % 2 ^ 512), some (keysOf (toBytes 32 1 ++ toBytes 32 2 ++ toBytes 32 3)),
  [], [], []⟩

theorem readBundle_unwrapped (s : Part) (x w : Nat) (h : BundleHead) (k : OneKey) (b : List Nat) (h1 : BundleHead.decode (x % 2 ^ 512) = h)
    (h2 : h.length = 176) (h3 : h.pages = 0) (h4 : h.grants = 0) (h5 : s.wrapKey h.wrap = k) (hw : bits x 512 832 = w)
    (h6 : kwpUnwrap k.key (toBytes 104 w) = some b) : s.readBundle x 176 = some ⟨h, some (keysOf b), [], [], []⟩ := by
  unfold Part.readBundle
  simp only [h1, h2, h3, h4, h5, hw, h6]
  simp [readPages, bundleFixed]

theorem witness_readBundle (q : SliceState) (f : Bool) : (stArmed 1 q).part.readBundle (bundle1 f) 176 = some (read1 f) :=
  readBundle_unwrapped _ _ wrapped1 _ ⟨true, 0, 0⟩ _ rfl (by revert f; decide +kernel) (by revert f; decide +kernel) (by revert f; decide +kernel)
    (by
      have e : (BundleHead.decode (bundle1 f % 2 ^ 512)).wrap = 16 := by revert f; decide +kernel
      rw [e]; rfl)
    (by revert f; decide +kernel) test_unwrap

theorem witness_MigrationAndDoorbells_restore : ∀ f : Bool, ∃ (s : State) (sl : Slice) (b : Bundle) (x len : Nat) (h : BundleHead) (r : BundleRead) (t : Part),
    (s.part.slice sl).bundle = some b ∧ b.restore = true ∧ b.size = 0 ∧
    h = BundleHead.decode (x % 2 ^ 512) ∧ h.final = f ∧ h.format = 1 ∧ h.length ≤ s.part.od .sliceBundleLen sl * 1024 ∧
    s.part.bmActive (s.part.trafficPort sl) = true ∧
    covered (s.part.sliceWindows (s.part.trafficPort sl) sl) 17 (s.part.od .sliceBundleAddress sl) (s.part.od .sliceBundleAddress sl + h.length) = true ∧
    s.part.readBundle x len = some r ∧ s.part.bundleRefusal sl x len r = none ∧
    Part.restorePages sl h.slice r.pages ((s.part.restoreKeys sl h.sequence h.serial r.keys).onSlice sl fun q =>
      { q with bundle := some { b with size := len } }) = (t, true) ∧ (f = false → (t.slice sl).bundle = some { b with size := len }) := by
  intro f
  refine ⟨stArmed 1 { SliceState.zero with bundle := some ⟨true, false, 0, [], 0, false⟩ }, 4095, ⟨true, false, 0, [], 0, false⟩, bundle1 f, 176, _, read1 f, _,
    by decide +kernel, rfl, rfl, rfl, by revert f; decide +kernel, by revert f; decide +kernel, by revert f; decide +kernel, by decide +kernel,
    by revert f; decide +kernel, witness_readBundle _ f, by revert f; decide +kernel, rfl, by revert f; decide +kernel⟩

/-- A part whose gatehouse listens, over every transport. -/
def listening : Part :=
  (st [(.bootState, 0, 13), (.mgmtLinkState, 0, 1), (.mailboxVopPorts, 0, 0x8000), (.sessionId, 31, 63), (.sessionRole, 31, 2)]).part

/-- On it a session of role 2 is open in slot 31, its key 9, with a transfer of a kind and length. -/
def stSess (op len : Nat) : State := ⟨[], listening.onSess 31 fun q => { q with
  isOpen := true, key := 9, peer := .ethernet 1 2, transfer := 5, transferOp := op, transferLen := len, transferIx := 0x210003,
  notices := [⟨1, 0x1401, 1, false⟩] }⟩

/-- A request of that session, without its authenticator. -/
def req (op len paylen : Nat) : Frame :=
  { frame0 with opcode := op, session := 63, sequence := 2 ^ 64 - 2, magic := 0x56, format := 1, index := 0x2100, subindex := 3, transfer := 5,
                offset := if op = 0x14 then 1 else 0, length := len, payloadLen := paylen, payload := if paylen = 0 then 0 else 1 }

theorem frameMac_sign (g : Frame) (k : Nat) : frameMac (frameSign g k) k = frameMac g k := rfl

theorem listening_is : listening.listens = true ∧ listening.gateHolds = false ∧ listening.mgmtUp = true ∧
    bit (listening.od0 .mailboxVopPorts) 15 = true ∧ (listening.port 15).mboxBusy = none ∧ listening.od .sessionId 31 = 63 ∧
    listening.od .sessionLastSequence 31 = 0 := by decide +kernel

theorem newTo_sign (op len : Nat) (g : Frame) (h : g.session = 63) (h1 : 0 < g.sequence) (h2 : g.sequence < 2 ^ 64 - 1) (h3 : formRefusal g = none) :
    (stSess op len).part.newTo 31 (frameSign g 9) :=
  ⟨by show g.session ≠ 0; omega, by show g.session % 32 = 31; omega, rfl,
    by show listening.od .sessionId 31 = g.session; rw [h]; exact listening_is.2.2.2.2.2.1, rfl,
    by show listening.od .sessionLastSequence 31 < g.sequence; rw [listening_is.2.2.2.2.2.2]; exact h1, h2, rfl, h3⟩

theorem hears_sign (op len : Nat) (t : Transport) (ht : t ∈ [.ethernet 1 2, .mctp 8, .mailbox 15]) (g : Frame) (h : g.payloadLen ≤ 1024) :
    (stSess op len).part.hears t (frameSign g 9) := by
  simp only [List.mem_cons, List.mem_nil_iff, or_false] at ht
  obtain ⟨h1, h2, h3, h4, h5, -, -⟩ := listening_is
  rcases ht with rfl | rfl | rfl
  · exact ⟨h1, h2, by show g.payloadLen + 64 ≤ 1440; omega, h3⟩
  · exact ⟨h1, h2, by show g.payloadLen + 64 ≤ 1088; omega, trivial⟩
  · exact ⟨h1, h2, by show g.payloadLen + 64 ≤ 8184; omega, h4, h5⟩

theorem witness_SessionRequests : ∀ t ∈ [Transport.ethernet 1 2, .mctp 8, .mailbox 15],
    ∀ g ∈ [req 0x02 0 0, req 0x03 0 0, req 0x10 0 0, req 0x11 1 1, req 0x12 0 0, req 0x13 1 0, req 0x14 0 0, req 0x15 1 1, req 0x16 0 0, req 0x18 8 0,
      req 0x20 32 32, req 0x21 8 8, req 0x22 0 0],
    (stSess 1 1).part.hears t (frameSign g 9) ∧ (stSess 1 1).part.newTo 31 (frameSign g 9) ∧
      (stSess 2 1).part.hears t (frameSign g 9) ∧ (stSess 2 1).part.newTo 31 (frameSign g 9) := fun t ht g hg => by
  have h : ∀ g ∈ [req 0x02 0 0, req 0x03 0 0, req 0x10 0 0, req 0x11 1 1, req 0x12 0 0, req 0x13 1 0, req 0x14 0 0, req 0x15 1 1, req 0x16 0 0,
      req 0x18 8 0, req 0x20 32 32, req 0x21 8 8, req 0x22 0 0],
      g.session = 63 ∧ 0 < g.sequence ∧ g.sequence < 2 ^ 64 - 1 ∧ formRefusal g = none ∧ g.payloadLen ≤ 1024 := by decide +kernel
  obtain ⟨h1, h2, h3, h4, h5⟩ := h g hg
  exact ⟨hears_sign 1 1 t ht g h5, newTo_sign 1 1 g h1 h2 h3 h4, hears_sign 2 1 t ht g h5, newTo_sign 2 1 g h1 h2 h3 h4⟩

theorem witness_SessionRequests_reads : ∃ (f f13 f18 : Frame) (x : Part) (v n : Nat), f = frameSign (req 0x10 0 0) 9 ∧
    x = (stSess 1 1).part.takes (.mctp 8) 31 f ∧ x.dictRead f.index f.subindex = .ok (v, n) ∧
    (f13 = frameSign (req 0x13 1 0) 9 ∧ ((stSess 1 1).part.sess 31).names f13 1 = true ∧ f13.length ≤ segmentLimit (.mctp 8) ∧
      f13.offset + f13.length = ((stSess 1 1).part.sess 31).transferLen) ∧
    (f18 = frameSign (req 0x18 8 0) 9 ∧ f18.length ≤ segmentLimit (.mctp 8) ∧ f18.offset + f18.length ≤ catalogueLength) ∧
    ((stSess 1 1).part.sess 31).transfer ≠ 0 ∧ f.transfer = ((stSess 1 1).part.sess 31).transfer :=
  ⟨_, _, _, _, 0, 1, rfl, rfl, by decide +kernel, ⟨rfl, by decide +kernel⟩, ⟨rfl, by decide +kernel⟩, by decide +kernel⟩

theorem restAuto_write (x : Part) (w : Who) (v : Nat) (h : writeRight Entry.restAuto.info (x.roleOf w) = none) (hv : v ≤ 1) :
    x.dictWrite w .restAuto 0 v 1 = (x.setOd .restAuto 0 v).ok := by
  have e : writeChecks Entry.restAuto.info (x.roleOf w) v 1 (x.functionStopped .restAuto 0) = none := by
    unfold writeChecks; rw [h]
    have : v = 0 ∨ v = 1 := by omega
    rcases this with rfl | rfl <;> rfl
  show x.settingWrite w .restAuto 0 v 1 = _
  unfold Part.settingWrite
  rw [e]
  rfl

theorem witness_SessionRequests_writes : ∃ (f f14 f15 : Frame) (x : Part) (e : Entry) (i : Nat) (p : Part), f = frameSign (req 0x11 1 1) 9 ∧
    x = (stSess 2 1).part.takes (.mctp 8) 31 f ∧ Entry.find f.index f.subindex = some (e, i) ∧
    writeRight e.info (x.roleOf (sessionWho 31)) = none ∧ e ≠ .mgmtCommand ∧ e ≠ .sessionCommand ∧ f.payloadLen ≤ 1024 ∧
    x.dictWrite (sessionWho 31) e i (f.payload % 256 ^ f.payloadLen) f.payloadLen = p.ok ∧ Part.only [.dict, .slices] x p ∧
    (f14 = frameSign (req 0x14 0 0) 9 ∧ f14.offset ≤ 65536 ∧ segmentedLength e f14.offset = none) ∧
    (f15 = frameSign (req 0x15 1 1) 9 ∧ ((stSess 2 1).part.sess 31).names f15 2 = true ∧ f15.offset = ((stSess 2 1).part.sess 31).transferGot ∧
      f15.offset + f15.payloadLen = ((stSess 2 1).part.sess 31).transferLen ∧ f15.offset + f15.payloadLen ≠ ((stSess 2 2).part.sess 31).transferLen ∧
      entryOf ((stSess 2 1).part.sess 31).transferIx = some (e, i)) := by
  exact ⟨_, _, _, _, .restAuto, 0, _, rfl, rfl, by decide +kernel, by decide +kernel, by decide, by decide, by decide +kernel,
    restAuto_write _ _ 1 (by decide +kernel) (by decide), Part.only_mono (Part.only_setOd _ _ _ _) (by decide), ⟨rfl, by decide +kernel⟩,
    rfl, by decide +kernel⟩

theorem witness_SessionRequests_segment : ∃ (f : Frame) (x p : Part), f = frameSign (req 0x15 1 1) 9 ∧
    x = (stSess 2 1).part.takes (.mctp 8) 31 f ∧ (x.endTransfer 31).dictWrite (sessionWho 31) .restAuto 0 1 1 = p.ok ∧
    Part.only [.dict, .slices] (x.endTransfer 31) p :=
  ⟨_, _, _, rfl, rfl, restAuto_write _ _ 1 (by decide +kernel) (by decide), Part.only_mono (Part.only_setOd _ _ _ _) (by decide)⟩

/-- A part whose gatehouse listens, the slots 0 to 30 open, the key of role 3 known. -/
def stOpen : State := ⟨[], iter (List.range 31) { listening.onSess 31 id with keys := ⟨[], [], [(3, ⟨true, 0, 9⟩)], 0, []⟩ } fun s k =>
  (s.onSess k fun q => { q with isOpen := true }).setOd .sessionId k (32 + k)⟩

/-- An OPEN request of role 3, without its authenticator. -/
def openReq : Frame := { frame0 with opcode := 1, role := 3, sequence := 2 ^ 64 - 1, magic := 0x56, format := 1, length := 32, payloadLen := 32 }

theorem frameSign_auth (g : Frame) (k : Nat) : (frameSign g k).auth = frameMac (frameSign g k) k := rfl

theorem witness_SessionsAndRoles_open : ∃ (s : State) (f : Frame) (key k : Nat), ∀ t ∈ [Transport.ethernet 1 2, .mctp 8, .mailbox 15],
    s.part.hears t f ∧ f.kind = 0 ∧ f.opcode = 1 ∧ s.part.roleKey f.role = some key ∧ f.auth = frameMac f key ∧
      s.part.od .roleOpenSequence f.role < f.sequence ∧ f.sequence < 2 ^ 64 ∧ f.format = 1 ∧ f.magic = 0x56 ∧ f.session = 0 ∧ f.length = 32 ∧
      f.payloadLen = 32 ∧ s.part.freeSlot = some k ∧ (s.part.openSessions.filter fun j => s.part.od .sessionRole j == f.role).length < 8 ∧
      bit (s.part.od0 (transportRoles t)) (f.role - 1) = true := by
  have h : ∀ t ∈ [Transport.ethernet 1 2, .mctp 8, .mailbox 15], stOpen.part.listens = true ∧ stOpen.part.gateHolds = false ∧
      openReq.payloadLen + 64 ≤ frameLimit t ∧ stOpen.part.mgmtUp = true ∧ bit (stOpen.part.od0 .mailboxVopPorts) 15 = true ∧
      (stOpen.part.port 15).mboxBusy = none ∧ bit (stOpen.part.od0 (transportRoles t)) (openReq.role - 1) = true := by decide +kernel
  refine ⟨stOpen, frameSign openReq 9, 9, 31, fun t ht => ?_⟩
  obtain ⟨h1, h2, h3, h4, h5, h6, h7⟩ := h t ht
  refine ⟨?_, rfl, rfl, by decide +kernel, frameSign_auth openReq 9, by decide +kernel, by decide +kernel, by decide +kernel, by decide +kernel,
    by decide +kernel, by decide +kernel, by decide +kernel, by decide +kernel, by decide +kernel, h7⟩
  simp only [List.mem_cons, List.mem_nil_iff, or_false] at ht
  rcases ht with rfl | rfl | rfl
  · exact ⟨h1, h2, h3, h4⟩
  · exact ⟨h1, h2, h3, trivial⟩
  · exact ⟨h1, h2, h3, h5, h6⟩

/-- A CLAIM request with the base point. -/
def claimReq : Frame := { frame0 with kind := 4, format := 1, magic := 0x56, length := 97, payloadLen := 97, payload := ecBytes (some p384G) }

theorem witness_SessionsAndRoles_claim : ∃ (s : State) (f : Frame) (key : Nat), ∀ t ∈ [Transport.mctp 8, .mailbox 15],
    s.part.hears t f ∧ transportCode t ≠ 1 ∧ s.part.roleLive roleCustodian = false ∧ f.kind = 4 ∧ f.auth = 0 ∧ f.format = 1 ∧ f.magic = 0x56 ∧
      f.opcode = 0 ∧ f.session = 0 ∧ f.length = 97 ∧ f.payloadLen = 97 ∧ s.part.roleKeyOf roleCustodian f.payload = some key ∧ s.part.rngOk = true := by
  have h : ((stSess 1 1).part.roleKeyOf roleCustodian claimReq.payload).isSome = true := by
    rw [Part.roleKeyOf, Part.agree, Option.isSome_map]; decide +kernel
  obtain ⟨key, h⟩ := Option.isSome_iff_exists.mp h
  have h0 : ∀ t ∈ [Transport.mctp 8, .mailbox 15], claimReq.payloadLen + 64 ≤ frameLimit t ∧ transportCode t ≠ 1 := by decide +kernel
  obtain ⟨h1, h2, -, h4, h5, -, -⟩ := listening_is
  refine ⟨stSess 1 1, claimReq, key, fun t ht => ?_⟩
  obtain ⟨h6, h7⟩ := h0 t ht
  refine ⟨?_, h7, by decide +kernel, rfl, rfl, rfl, rfl, rfl, rfl, rfl, rfl, h, by decide +kernel⟩
  simp only [List.mem_cons, List.mem_nil_iff, or_false] at ht
  rcases ht with rfl | rfl
  · exact ⟨h1, h2, h6, trivial⟩
  · exact ⟨h1, h2, h6, h4, h5⟩

theorem wakeOk_sign (s : Part) (f : Frame) (k : Nat) (h : s.roleKey f.role = some k) (h1 : (f.format == 1 && f.magic == 0x56 && f.kind == 3 &&
    f.session == 0 && f.opcode == 0 && f.length == 0 && f.payloadLen == 0) = true) (h2 : s.od .wakeLastSequence f.role < f.sequence) :
    s.wakeOk (frameSign f k) = true := by
  simp only [Bool.and_eq_true] at h1
  simp only [Part.wakeOk, frameSign, frameMac, frameHeader, h, Bool.and_eq_true, decide_eq_true_eq, beq_self_eq_true, and_true, h2, h1]

theorem witness_SessionsAndRoles_wake : ∃ (s : State) (f f2 : Frame), s.part.mgmtUp = true ∧ (f.kind = 3 ∧ s.part.wakeOk f = true) ∧
    (f2.kind = 3 ∧ s.part.wakeOk f2 = false) :=
  ⟨stOpen, frameSign { frame0 with kind := 3, role := 3, sequence := 1, magic := 0x56, format := 1 } 9, { frame0 with kind := 3, role := 4 },
    by decide +kernel, ⟨rfl, wakeOk_sign _ _ _ (by decide +kernel) (by decide) (by decide +kernel)⟩, rfl, by decide +kernel⟩

theorem witness_SessionsAndRoles_slots : ∃ (s s2 : State) (k : Slot) (i : Port) (w : Who) (cause : Nat),
    ((s.part.sess k).isOpen = true ∧ (s.part.sess k).executing = false ∧ s.part.rest.inRest = false ∧ (s.part.sess k).transfer ≠ 0 ∧
      (s.part.sess k).usedAt ≠ s.part.now + 1 ∧ s.part.segmentNow k = false ∧
      s.part.listens = true ∧ transportPushes (s.part.sess k).peer = true ∧ cause = 4 ∧ s.part.od .sessionRole k = 2 ∧
      ∀ j : Slot, (s.part.sess j).executing = false) ∧
    (s.part.listens = true ∧ bit (s.part.od0 .mailboxVopPorts) 14 = false) ∧
    (s2.part.listens = true ∧ bit (s2.part.od0 .mailboxVopPorts) i = true ∧ (s2.part.port i).mboxBusy.isSome = true ∧
      s2.part.mayWrite w .sessionCommand) :=
  ⟨stSess 1 1, but (stSess 1 1) fun s => (s.onPort 15 fun t => { t with mboxBusy := some 0x4803 }).setOd .monitorRole 0 3, 31, 15, .monitor, 4,
    by decide +kernel, by decide +kernel, by decide +kernel, by decide +kernel, by decide +kernel, ⟨by decide +kernel, by decide +kernel⟩⟩

theorem witness_SessionsAndRoles_roles : ∃ (s : State) (w : Who) (r c : Role) (point key : Nat), r ≠ 0 ∧ c ≠ 0 ∧
    (s.part.mayWrite w .rolePeerPublic ∧ s.part.roleKeyOf r point = some key) ∧
    (s.part.mayWrite w .roleCommand ∧ r.val ≠ roleCustodian ∧ c.val = roleCustodian) := by
  have h : ((st [(.monitorRole, 0, 3)]).part.roleKeyOf 4 claimReq.payload).isSome = true := by
    rw [Part.roleKeyOf, Part.agree, Option.isSome_map]; decide +kernel
  obtain ⟨key, h⟩ := Option.isSome_iff_exists.mp h
  exact ⟨st [(.monitorRole, 0, 3)], .monitor, 4, 3, claimReq.payload, key, by decide, by decide, ⟨⟨by decide, by decide⟩, h⟩,
    ⟨by decide, by decide⟩, by decide, by decide⟩

theorem witness_CountersGatherAndReset_commands : ∃ (s : State) (w : Who) (v : BitVec 32) (e : Entry) (i : Nat) (sl : Slice),
    (s.part.mayWrite w .counterReset ∧ entryOf v.toNat = some (e, i) ∧ e.isTally = true ∧ i < 65536) ∧ s.part.mayWrite w .sliceCounterCommand ∧
    s.part.gateRuns = true ∧ (s.part.delta.sorted = true ∧ s.part.delta.get 0 (e.key i) ≠ 0) ∧ sl.val = i :=
  ⟨but (st [(.monitorRole, 0, 2)]) fun s => { s with delta := [(Entry.sliceReads.key 4095, 2 ^ 64 - 1)] }, .monitor, 0x6FFF72, .sliceReads, 4095, 4095,
    ⟨⟨by decide, by decide⟩, by decide +kernel⟩, ⟨by decide, by decide⟩, by decide +kernel⟩

theorem witness_CountersGatherAndReset_store : ∃ (ix : BitVec 16) (sub : BitVec 8) (e : Entry) (i : Nat),
    Entry.find ix.toNat sub.toNat = some (e, i) ∧ e.info.count ≠ .notCounted ∧ i < 65536 ∧ e.isTally = true :=
  ⟨0x6FFF, 0x72, .sliceReads, 4095, by decide +kernel⟩

theorem witness_CountersGatherAndReset_harvest : ∃ (s : State) (sl : Slice),
    s.part.slices.sorted = true ∧ s.part.gateAlive = true ∧ s.part.rest.inRest = false ∧ (∃ k ∈ s.part.allSlices, s.part.od .sliceTenantCounters k ≠ 1) ∧
    s.part.gateRuns = true ∧ (∀ sl, (s.part.slice sl).minute.active = true → sl < 4096) ∧
    (s.part.slice sl).minute.active = true ∧ (s.part.slice sl).created = true := by
  refine ⟨stSlice 2 { SliceState.zero with created := true, minute := { Minute.zero with active := true } }, 4095, by decide +kernel, by decide +kernel,
    by decide +kernel, ⟨4095, by decide +kernel⟩, by decide +kernel, fun sl h => ?_, by decide +kernel, by decide +kernel⟩
  by_cases e : 4095 = sl
  · omega
  · exact absurd h (by show ¬((if 4095 = sl then _ else SliceState.zero : SliceState)).minute.active = true; rw [if_neg e]; decide)

theorem witness_CountersGatherAndReset_dump : ∃ (s : State) (i : Port) (sl : Slice),
    (s.part.gateRuns = true ∧ ((s.part.port i).rings.get Ring.zero 0).enabled = true) ∧
    ((s.part.slice sl).doorRun = 1 ∧ s.part.boundPort sl = some i.val) ∧
    (s.part.bmActive i = true ∧ (∀ a n, (a, n) ∈ [(8, 1208), (0, 8)] → covered (s.part.sliceWindows i sl) 17
          (s.part.od .sliceDumpAddress sl + a) (s.part.od .sliceDumpAddress sl + a + n) = true)) :=
  ⟨but (stSlice 2 { SliceState.zero with doorRun := 1 } [(.sliceDumpAddress, 4095, 8192 - 1216)]) fun s => s.onPort 15 fun t => { t with
      bme := true, windows := [(15, ⟨4096, 8192, 0, false, true⟩)], rings := [(0, { Ring.zero with enabled := true })] }, 15, 4095, by decide +kernel,
    by decide +kernel, by decide +kernel, fun a n h => by
      simp only [List.mem_cons, Prod.mk.injEq, List.mem_nil_iff, or_false] at h
      rcases h with ⟨rfl, rfl⟩ | ⟨rfl, rfl⟩ <;> decide +kernel⟩

theorem witness_RingsAndTimeBase_writes : ∃ (s : State) (w : Who) (i : Port) (v v2 : BitVec 8) (x x2 : BitVec 32) (e e2 : Entry) (k k2 : Nat),
    (s.part.mayWrite w .ringEnable ∧ v.toNat < 8 ∧
      ∃ r ∈ (List.range 3).filter (fun r => bit v.toNat r && !bit (s.part.od .ringEnable i) r), s.part.ringFit i r = false) ∧
    (v2.toNat < 8 ∧ (∀ r ∈ (List.range 3).filter (fun r => bit v2.toNat r && !bit (s.part.od .ringEnable i) r), s.part.ringFit i r = true) ∧
      2 ∈ (List.range 3).filter (fun r => bit v2.toNat r && !bit (s.part.od .ringEnable i) r)) ∧
    (s.part.mayWrite w .armCounter ∧ x.toNat ≠ 0 ∧ entryOf x.toNat = some (e, k) ∧ s.part.armable i e k = true) ∧
    (x2.toNat ≠ 0 ∧ entryOf x2.toNat = some (e2, k2) ∧ s.part.armable i e2 k2 = false) :=
  ⟨but (stSlice 2 SliceState.zero [(.monitorRole, 0, 2), (.noticeRingUnits, 15, 4), (.noticeRingBase, 15, 4096)]) fun s => s.onPort 15 fun t => { t with
      windows := [(15, ⟨4096, 8192 + 256, 0, false, true⟩)] }, .monitor, 15, 7, 4, 0x6FFF72, 0x204906, .sliceReads, .movesDone, 4095, 0,
    ⟨⟨by decide, by decide⟩, by decide +kernel⟩, by decide +kernel, ⟨⟨by decide, by decide⟩, by decide +kernel⟩, by decide +kernel⟩

theorem witness_RingsAndTimeBase_snap : ∃ (s : State) (w : Who) (i : Port) (l l2 : List Nat) (c : Nat), s.part.mayWrite w .snapSet ∧
    (l = ((List.range 256).map fun k => bits (2 ^ 32 * 0x6FFF72 + 0x204906) (32 * k) 32).takeWhile (· != 0) ∧ l ≠ [] ∧ ∀ n ∈ l, s.part.snapRefusal i n = none) ∧
    (l2 = ((List.range 256).map fun k => bits (2 ^ 32 * 0x6FFE72 + 0x6FFF72) (32 * k) 32).takeWhile (· != 0) ∧
      l2.findSome? (s.part.snapRefusal i) = some c) :=
  ⟨stSlice 2 SliceState.zero [(.monitorRole, 0, 2)], .monitor, 15, [0x204906, 0x6FFF72], [0x6FFF72, 0x6FFE72], rCondition, ⟨by decide, by decide⟩,
    ⟨by decide +kernel, by decide, by decide +kernel⟩, by decide +kernel, by decide +kernel⟩

theorem witness_RingsAndTimeBase_time : ∃ (s s2 : State) (w : Who) (offset : Int) (domain v v2 : BitVec 8),
    (s.part.od0 .timeSource = 1 ∧ domain.toNat = s.part.od0 .timePtpDomain ∧ s.part.rest.inRest = false ∧ s.part.gateAlive = true ∧
      s.part.ptpLock = true ∧ s.part.od0 .timeState = 3 ∧ s.part.gate.ptpAt ≠ s.part.now + 1 ∧ offset.natAbs ≤ s.part.od0 .timeStepThreshold * 1000 ∧ s.part.mayWrite w .timeSource ∧
      v.toNat ≤ 1 ∧ v.toNat = s.part.od0 .timeSource ∧ v2.toNat ≤ 1 ∧ v2.toNat ≠ s.part.od0 .timeSource) ∧
    (s2.part.od0 .timeSource = 1 ∧ domain.toNat = s2.part.od0 .timePtpDomain ∧ s2.part.rest.inRest = false ∧ s2.part.gateAlive = true ∧
      s2.part.ptpLock = false ∧ s2.part.od0 .timeState ≠ 3) :=
  ⟨but (st [(.monitorRole, 0, 2), (.timeState, 0, 3), (.timeSource, 0, 1)]) fun s => { s with ptpLock := true },
    st [(.timeState, 0, 2), (.timeSource, 0, 1)], .monitor,
    -((st []).part.od0 .timeStepThreshold * 1000 : Nat), BitVec.ofNat 8 ((st []).part.od0 .timePtpDomain), 1, 0,
    ⟨by decide +kernel, by decide +kernel, by decide +kernel, by decide +kernel, by decide +kernel, by decide +kernel, by decide +kernel, by decide +kernel,
      ⟨by decide, by decide⟩, by decide +kernel⟩, by decide +kernel⟩

theorem witness_RestEntryAndExit_entry : ∃ (s s2 s3 : State) (p : Pav) (w : Who),
    (s.part.od .pavilionPowerState p = 0 ∧ s.part.inService p = true ∧ (s.part.pav p).codecQ = [] ∧ (s.part.pav p).tasks = [] ∧
      s.part.pavBusy p = false ∧ s.part.od .packagePowerState 0 = 1 ∧
      (∀ k ∈ s.part.serving, k ≠ p.val → s.part.od .pavilionPowerState k = 1) ∧ ∃ k ∈ s.part.serving, k ≠ p.val) ∧
    (s.part.mayWrite w .powerCommand ∧ s.part.od .packagePowerState 0 ∈ [1, 2]) ∧
    (s2.part.mayWrite w .powerCommand ∧ s2.part.od .packagePowerState 0 = 0) ∧
    (s3.part.mayWrite w .powerCommand ∧ s3.part.od .packagePowerState 0 ∈ [3, 4, 5]) ∧
    (s.part.od .restAuto 0 = 1 ∧ s.part.od .partFailed 0 = 0 ∧ ∀ i : Port, s.part.portInactive i = true) :=
  ⟨st [(.monitorRole, 0, 2), (.pavilionState, 7, 1), (.pavilionState, 0, 1), (.pavilionPowerState, 0, 1), (.packagePowerState, 0, 1), (.restAuto, 0, 1)],
    st [(.monitorRole, 0, 2)], st [(.monitorRole, 0, 2), (.packagePowerState, 0, 5)], 7, .monitor, by decide +kernel,
    ⟨⟨by decide, by decide⟩, by decide +kernel⟩, ⟨⟨by decide, by decide⟩, by decide +kernel⟩, ⟨⟨by decide, by decide⟩, by decide +kernel⟩, by decide +kernel⟩

theorem witness_RestEntryAndExit_exit : ∃ (s s2 s3 s4 : State) (p : Pav) (plls : BitVec 8) (ok : BitVec 256) (good bad : BitVec 384),
    (s.part.rest.inRest = true ∧ s.part.rest.exiting = true ∧ s.part.rest.coreUp = false ∧ p.val ∈ s.part.leaving ∧ s.part.rest.dark = [] ∧
      (∀ k ∈ s.part.leaving, bit plls.toNat k = true) ∧ (∀ k < 256, s.part.od .channelState (k / 4) = 3 → bit ok.toNat k = true) ∧
      s.part.od .channelState 63 = 3) ∧
    (s2.part.rest.inRest = true ∧ s2.part.rest.exiting = true ∧ s2.part.rest.coreUp = true ∧ p.val ∈ s2.part.leaving ∧ ¬ p.val ∈ s2.part.rest.restored ∧
      ∃ k ∈ s2.part.leaving, k ≠ p.val ∧ ¬ k ∈ s2.part.rest.restored) ∧
    (s3.part.rest.inRest = true ∧ s3.part.rest.exiting = true ∧ s3.part.rest.coreUp = true ∧ p.val ∈ s3.part.leaving ∧ ¬ p.val ∈ s3.part.rest.restored ∧
      (∀ k ∈ s3.part.leaving, k ≠ p.val → k ∈ s3.part.rest.restored) ∧ s3.part.rest.perst = []) ∧
    (s4.part.rest.inRest = true ∧ s4.part.rest.exiting = true ∧ s4.part.rest.coreUp = true ∧ (∀ k ∈ s4.part.leaving, k ∈ s4.part.rest.restored) ∧
      (∀ n : Link, s4.part.od .linkState n ≠ 1) ∧ good.toNat = s4.part.boot.measured ∧ bad.toNat ≠ s4.part.boot.measured ∧
      s4.part.power.mainPG = true ∧ s4.part.power.thermtrip = true ∧ s4.part.power.coreFails < 3 ∧ s4.part.od .partFailed 0 ≠ 1 ∧
      s4.part.boot.pav0Lost = false) :=
  ⟨stRest (fun r => { r with inRest := true, exiting := true }) [(.pavilionState, 7, 2), (.channelState, 63, 3)],
    stRest (fun r => { r with inRest := true, exiting := true, coreUp := true }) [(.pavilionState, 7, 2), (.pavilionState, 0, 1)],
    stRest (fun r => { r with inRest := true, exiting := true, coreUp := true, restored := [0] }) [(.pavilionState, 7, 2), (.pavilionState, 0, 1)],
    but (stRest (fun r => { r with inRest := true, exiting := true, coreUp := true, restored := [7] }) [(.pavilionState, 7, 2)]) fun s => { s with
      power := { s.power with mainPG := true, coreFails := 2 }, boot := { s.boot with measured := 2 ^ 383 } },
    7, 0x80, 2 ^ 255 + 2 ^ 254 + 2 ^ 253 + 2 ^ 252, 2 ^ 383, 0, by decide +kernel⟩

theorem witness_RestExitTimeout : ∃ (s : State), s.part.rest.inRest = true ∧ s.part.rest.exiting = true ∧ s.part.rest.coreUp = false ∧
    s.part.rest.step = none :=
  ⟨stRest fun r => { r with inRest := true, exiting := true }, by decide +kernel⟩

theorem witness_PowerUpAndImages_supply : ∃ s s2 s3 : State, (s.part.power.vaux = true ∧ s.part.ports.sorted = true ∧ s.part.ports ≠ []) ∧
    (s2.part.power.vaux = false ∧ s2.part.od .bootState 0 ≠ 1) ∧ (s3.part.power.vaux = true ∧ s3.part.od .bootState 0 = 1) :=
  ⟨but State.reset fun s => s.onPort 15 fun t => { t with perst := false },
    stPower (fun v => { v with vaux := false }) [(.bootState, 0, 0)], State.reset, by decide +kernel⟩

/-- A state in a boot stage with the core supply up and its self-tests as given. -/
def stBoot (x : Nat) (f : BootState → BootState) (l : List (Entry × Nat × Nat) := []) : State :=
  but (st ((.bootState, 0, x) :: l)) fun s => { s with power := { s.power with coreEn := true, corePG := true }, boot := f s.boot }

theorem witness_PowerUpAndImages_tests : ∃ (s s2 s3 : State) (p z : Pav),
    (s.part.booting 3 = true ∧ s.part.power.corePG = true ∧ ¬ p.val ∈ s.part.boot.tested ∧ (∃ k < 8, k ≠ p.val ∧ ¬ k ∈ s.part.boot.tested) ∧
      p.val ≠ 0 ∧ s.part.pstate p < 4 ∧ s.part.rest.step = none ∧ s.part.gate.held = []) ∧
    (s2.part.booting 3 = true ∧ s2.part.power.corePG = true ∧ ¬ p.val ∈ s2.part.boot.tested ∧ ∀ k < 8, k ≠ p.val → k ∈ s2.part.boot.tested) ∧
    (s3.part.booting 3 = true ∧ s3.part.power.corePG = true ∧ ¬ z.val ∈ s3.part.boot.tested ∧ z.val = 0 ∧ s3.part.pstate 0 < 4) :=
  ⟨stBoot 3 id, stBoot 3 fun v => { v with tested := List.range 7 }, stBoot 3 id, 7, 0, by decide +kernel⟩

theorem witness_PowerUpAndImages_images : ∃ (s s2 s3 s4 : State) (img : ImageCheck) (i : Port) (config trust : Fin 4) (wear : Fin 3) (p : Pav),
    (s.part.booting 4 = true ∧ s.part.slotCheck s.part.slotNow img = 0 ∧ s.part.pstate (portPav i) = 0 ∧ s.part.od .portState i = 0) ∧
    (s2.part.booting 4 = true ∧ s2.part.slotCheck s2.part.slotNow img ≠ 0 ∧ s2.part.boot.second = false) ∧
    (s3.part.booting 4 = true ∧ s3.part.slotCheck s3.part.slotNow img ≠ 0 ∧ s3.part.boot.second = true) ∧
    (s4.part.booting 6 = true ∧ (∀ t ∈ [s4.part.flash.config, s4.part.flash.config2, s4.part.flash.trust.settings, s4.part.flash.trust2.settings],
        ∀ x ∈ t, ∀ e ∈ [Entry.configStoreState, .trustAreaState, .pavilionState, .portState], ∀ i, x.1 ≠ e.key i) ∧
      config.val = 3 ∧ trust.val = 3 ∧ wear.val ≠ 2 ∧ s4.part.pstate p ≠ 5 ∧ bit s4.part.flash.retired p = true)  := by
  let svn := fun (s : Part) => { s with flash := { s.flash with svnFuse := 4, slotNext := 1 } }
  refine ⟨stBoot 4 id, but (stBoot 4 id) svn, but (stBoot 4 fun v => { v with second := true }) svn,
    but (stBoot 6 id) fun s => { s with flash := { s.flash with retired := 128 } },
    ⟨imgHead 3, true, true, true, true, 0, 2 ^ 383, 0⟩, 15, 3, 3, 1, 7, by decide +kernel, by decide +kernel, by decide +kernel,
    ⟨by decide +kernel, ?_, by decide +kernel⟩⟩
  have h0 : ∀ t ∈ [Flash.fresh.config, Flash.fresh.config2, Flash.fresh.trust.settings, Flash.fresh.trust2.settings], t = [] := by decide
  intro t h x hx
  rw [h0 t h] at hx
  exact nomatch hx

theorem witness_DramBootAndCoreSupply_supply : ∃ (s s2 s3 s4 s5 : State) (locked : BitVec 8),
    (s.part.booting 3 = true ∧ s.part.power.coreEn = true ∧ s.part.power.corePG = false ∧ s.part.flash.retired = 0 ∧ ∀ p : Pav, bit locked.toNat p = true) ∧
    (s5.part.booting 3 = true ∧ s5.part.power.coreEn = true ∧ s5.part.power.corePG = false ∧ bit s5.part.flash.retired (7 : Pav) = true) ∧
    (s2.part.power.coreWait = true ∧ s2.part.power.mainPG = true ∧ s2.part.power.thermtrip = true ∧ s2.part.od .bootState 0 = 3) ∧
    (s3.part.power.coreWait = true ∧ s3.part.power.mainPG = true ∧ s3.part.power.thermtrip = true ∧ s3.part.od .bootState 0 ≠ 3 ∧
      s3.part.power.coreFails < 3 ∧ s3.part.od .partFailed 0 ≠ 1 ∧ s3.part.boot.pav0Lost = false) ∧
    (s4.part.power.corePG = true ∧ s4.part.power.coreEn = true ∧ s4.part.power.mainPG = true ∧ s4.part.power.thermtrip = true) :=
  ⟨stPower (fun v => { v with coreEn := true, coreFails := 2 }) [(.bootState, 0, 3)],
    stPower (fun v => { v with coreWait := true, mainPG := true }) [(.bootState, 0, 3)],
    stPower (fun v => { v with coreWait := true, mainPG := true, coreFails := 2 }) [(.bootState, 0, 2)],
    stPower (fun v => { v with coreEn := true, mainPG := true, corePG := true }) [],
    but (stPower (fun v => { v with coreEn := true }) [(.bootState, 0, 3)]) fun s => { s with flash := { s.flash with retired := 128 } }, 0xFF, by decide +kernel⟩

/-- Training of channels with two DIMMs of one rank each: rank 1 is absent. Each of its lanes passes at sixteen delay steps of eight reference steps. -/
def train2 : TrainResult :=
  let sweeps := List.replicate 80 (List.replicate 8 (2 ^ 32 - 2 ^ 16))
  ⟨7200, List.replicate 8 ⟨2, 1, 3, 4, true, true, true, true, 1, 2, List.replicate 4 ⟨true, sweeps, sweeps, true⟩⟩⟩

/-- Pavilion 7 in its DRAM boot. -/
def stDram (f : BootState → BootState) (l : List (Entry × Nat × Nat) := []) : State :=
  stBoot 10 f ([(.pavilionState, 7, 0), (.branchState, 14, 2), (.branchState, 15, 2), (.dramSpareMode, 7, 1)] ++ l)

theorem witness_DramBootAndCoreSupply_training : ∃ (s : State) (p : Pav) (t t2 : TrainResult) (c : ChanTraining),
    (s.part.bootDram p = true ∧ ¬ p.val ∈ s.part.boot.trained ∧ trainUniform t = true ∧ t.chans.length = 8 ∧ t.chans.head? = some c ∧
      trainAccepted c = true ∧ (∀ k < 4, s.part.layerLost p k = false) ∧ presentRanks c = [0, 2] ∧
      (∀ d ∈ t.chans, ∀ r ∈ presentRanks c, ∃ q, d.ranks[r]? = some q ∧
        (rankOutcome (if r / 2 = 0 then d.spdOk0 else d.spdOk1) (if r / 2 = 0 then d.rcdOk0 else d.rcdOk1) q).failed = 0) ∧
      stepDown [4800, 5600, 6400, 7200, 8000] (min (s.part.od .dramSpeedLimit p) t.rate) (if c.dimms = 2 then 6400 else 8000) ≠ 0) ∧
    (p.val ≠ 0 ∧ s.part.rest.step = none ∧ s.part.gate.held = [] ∧ trainUniform t2 = false) := by
  refine ⟨stDram id, 7, train2, ⟨7200, [⟨2, 2, 3, 4, true, true, true, true, 1, 2, []⟩, ⟨1, 2, 3, 4, true, true, true, true, 1, 2, []⟩]⟩, _,
    ⟨by decide +kernel, by decide +kernel, by decide +kernel, by decide +kernel, rfl, by decide +kernel, by decide +kernel, by decide +kernel,
      fun d h => ?_, by decide +kernel⟩, by decide +kernel⟩
  rw [List.eq_of_mem_replicate h]
  intro r h
  replace h : r ∈ [0, 2] := h
  simp only [List.mem_cons, List.mem_nil_iff, or_false] at h
  rcases h with rfl | rfl <;> exact ⟨_, rfl, by decide +kernel⟩

/-- spec/06 R248: of two reference steps the one nearer the middle wins, and the delay is the middle of the passing run. -/
theorem test_lane : chooseLane [2 ^ 20 - 2 ^ 4, 2 ^ 36 - 2 ^ 20, 0] = ⟨⟨1, 27⟩, 16, 1⟩ ∧ (chooseLane (List.replicate 8 (2 ^ 32 - 2 ^ 16))).ok = true ∧
    (chooseLane (List.replicate 7 (2 ^ 32 - 2 ^ 16))).ok = false := by decide +kernel

theorem witness_DramBootAndCoreSupply_fill : ∃ (s s2 : State) (p : Pav) (r : WeakRow),
    (s.part.bootDram p = true ∧ p.val ∈ s.part.boot.trained ∧ ¬ p.val ∈ s.part.boot.filled ∧ ¬ p.val ∈ s.part.boot.repaired ∧
      r ∈ s.part.flash.weakRows ∧ r.chan / 8 = p.val) ∧
    (s2.part.bootDram p = true ∧ p.val ∈ s2.part.boot.trained ∧ ¬ p.val ∈ s2.part.boot.filled ∧ s2.part.od .dramLayers p ≠ 0 ∧
      (∃ k < 8, ∃ r < 4, s2.part.od .rankState ((p * 8 + k) * 4 + r) = 1)) :=
  ⟨but (stDram fun v => { v with trained := [7] }) fun s => { s with flash := { s.flash with weakRows := [⟨63, 1, 3, 3, 7, 3, 3, 262143, 2 ^ 31⟩] } },
    stDram (fun v => { v with trained := [7] }) [(.dramLayers, 7, 4), (.rankState, 255, 1)], 7, ⟨63, 1, 3, 3, 7, 3, 3, 262143, 2 ^ 31⟩, by decide +kernel,
    by decide +kernel, by decide +kernel, by decide +kernel, by decide +kernel, 7, by decide, 3, by decide, by decide +kernel⟩

theorem witness_DramBootAndCoreSupply_active : ∃ (s s2 : State),
    (s.part.booting 11 = true ∧ (∀ p ∈ s.part.startingPavs, p ∈ s.part.boot.filled) ∧ 2 ≤ s.part.startingPavs.length ∧
      ∀ k < 8, s.part.pstate k ≠ 3 ∧ s.part.pstate k ≠ 5) ∧
    (s2.part.booting 11 = true ∧ (∀ p ∈ s2.part.startingPavs, p ∈ s2.part.boot.filled) ∧ s2.part.startingPavs.length < 2 ∧
      s2.part.od .partFailed 0 = 0) :=
  ⟨stBoot 11 (fun v => { v with filled := [0, 7] }) ((List.range 6).map fun k => (.pavilionState, k + 1, 4)),
    stBoot 11 (fun v => { v with filled := [0] }) ((List.range 7).map fun k => (.pavilionState, k + 1, 5)), by decide +kernel⟩

/-- Firmware runs, pavilion 7 is in service. -/
def stAge (f : Part → Part) (l : List (Entry × Nat × Nat) := []) : State :=
  but (st ([(.bootState, 0, 13), (.packagePowerState, 0, 1), (.pavilionState, 7, 1), (.monitorRole, 0, 2)] ++ l)) f

theorem witness_SeasonsAndWindows_samples : ∃ (s : State) (p : Pav) (slack : Int), s.part.od .packagePowerState 0 ≠ 0 ∧ s.part.rest.inRest = false ∧
    s.part.pstate p < 4 ∧ slack < 0 ∧ s.part.flash.vddLimit < 65536 ∧ s.part.slackMin p = some (slack - 1) ∧ s.part.firmwareRuns = true ∧
    s.part.od .maintState 0 ≠ 2 :=
  ⟨stAge fun s => { s with season := { s.season with slack := [(7, 2 ^ 32 - 2 + 1)] } }, 7, -1, by decide +kernel⟩

theorem witness_SeasonsAndWindows_windows : ∃ (s s2 : State) (c : Nat) (w : Who),
    (s.part.firmwareRuns = true ∧ c < 64 ∧ 4 ∈ s.part.season.pending ∧ s.part.od .maintState 0 ≠ 2 ∧ s.part.od .channelState c = 2 ∧
      (s.part.chan c).retrain = [] ∧ (∃ r < 4, s.part.rankRuns c r = true) ∧
      (∀ n : Link, s.part.od .linkState n = 2 → marginLow (s.part.od .linkEyeMargin n) = false) ∧ s.part.od .linkState 27 = 2 ∧
      s.part.mayWrite w .maintCommand) ∧
    (s2.part.od .maintState 0 = 2 ∧ s2.part.season.pending = [5, 24] ∧ s2.part.mayWrite w .maintCommand) :=
  ⟨stAge (fun s => { s with season := { s.season with pending := [4, 5] } })
      [(.maintState, 0, 1), (.channelState, 63, 2), (.rankState, 255, 2), (.linkState, 27, 2), (.linkEyeMargin, 27, 0x08080808)],
    stAge (fun s => { s with season := { s.season with pending := [5, 24] } }) [(.maintState, 0, 2)], 63, .monitor,
    ⟨by decide +kernel, by decide +kernel, by decide +kernel, by decide +kernel, by decide +kernel, by decide +kernel, ⟨3, by decide +kernel⟩,
      by decide +kernel, by decide +kernel, by decide, by decide⟩, by decide +kernel, rfl, by decide, by decide⟩

/-- The last burst of channel 63. -/
def burst63 : Nat := 2 ^ 43 - 1

theorem witness_SeasonsAndWindows_table : ∃ (s s2 : State) (p : Pav) (e : CeEnt) (l l2 : List Nat) (r : WeakRow),
    (s.part.firmwareRuns = true ∧ p.val ∈ s.part.serving ∧ (∀ k ∈ s.part.serving, k ≠ p.val → (s.part.pav k).ceTable = []) ∧
      (s.part.pav p).ceTable = [e] ∧ l = (watchAdd (s.part.pav p).watch e.burst (e.device % 32)).get [] (rowKey e.burst) ∧
      l.length < s.part.od .weakRowThreshold 0) ∧
    (s2.part.firmwareRuns = true ∧ p.val ∈ s2.part.serving ∧ (∀ k ∈ s2.part.serving, k ≠ p.val → (s2.part.pav k).ceTable = []) ∧
      (s2.part.pav p).ceTable = [e] ∧ l2 = (watchAdd (s2.part.pav p).watch e.burst (e.device % 32)).get [] (rowKey e.burst) ∧
      s2.part.od .weakRowThreshold 0 ≤ l2.length ∧
      r = weakRowOf e.burst (s2.part.od .rankLayer (bits e.burst 37 6 * 4 + bits e.burst 34 2)) (l2.foldl (fun b x => b ||| 2 ^ (x / 2 ^ 43)) 0) ∧
      s2.part.flash.weakRows.any r.same = false) :=
  let tab := fun (w : Sparse (List Nat)) (s : Part) => s.onPav 7 fun v => { v with ceTable := [⟨burst63, 1, 31, 0⟩], watch := w }
  ⟨stAge (tab []) [(.weakRowThreshold, 0, 2)], stAge (tab [(rowKey burst63, [burst63 - 4])]) [(.weakRowThreshold, 0, 2)], 7, ⟨burst63, 1, 31, 0⟩, _, _, _,
    ⟨by decide +kernel, by decide +kernel, by decide +kernel, by decide +kernel, rfl, by decide +kernel⟩,
    by decide +kernel, by decide +kernel, by decide +kernel, by decide +kernel, rfl, by decide +kernel, rfl, by decide +kernel⟩

/-- Slice 4095 with its last extent at home on pavilion 7, which has no capacity; a move that ended before is still remembered. -/
def stCap : State :=
  stAge (fun s => { ((s.setPlace 4095 65535 (mkPlace 7 6 false false 0)).onSlice 4095 fun q => { q with
    created := true, grants := [(65535, 2 ^ 511)] }) with season := { s.season with moves := [8 * 5 + 7] } })
    [(.commonsReserveSetting, 0, 0), (.sliceState, 4095, 1)]

theorem witness_SeasonsAndWindows_capacity : ∃ (s : State) (p : Pav) (x y : Part) (sl le : Nat) (rest more : List Nat),
    s.part.firmwareRuns = true ∧ s.part.inService p = true ∧
    x = { s.part with season := { s.part.season with
      moves := s.part.season.moves.filter fun k => placeHome (s.part.vint.inForce.place.get 0 (k / 8)) == k % 8 } } ∧
    x.planMoves p = x ∧ x.leftExt p = none ∧ 0 < x.deficit p ∧ x.withdrawOrder p = sl :: rest ∧ x.homedGranted sl p = le :: more ∧
    x.leftPages p sl le = [] ∧ y = x.withdraw p sl le ∧ y.leftExt p = none ∧ y.deficit p ≤ 0 :=
  ⟨stCap, 7, _, _, 4095, 65535 * 512 + 511, [], [], by decide +kernel, by decide +kernel, rfl, by decide +kernel, by decide +kernel, by decide +kernel,
    by decide +kernel, by decide +kernel, by decide +kernel, rfl, by decide +kernel, by decide +kernel⟩

/-! ## The spec's worked examples: what the examples give, on the model's own functions and by single steps -/

/-- spec/00, worked example: the unit numbers. -/
theorem test_example_units : portPav 13 = 6 ∧ linkOf 2 6 = 16 ∧ linkOf 3 5 = 19 ∧ Entry.find 0x612C 0x72 = some (.sliceReads, 300) := by
  decide +kernel

/-- spec/02, worked example: the plot shares of slices A, B and C. -/
theorem test_example_plots : plotFormula 0 0 100 0 102400 200 800 = 128000 ∧ plotFormula 1 0 250 0 512000 1000 4000 = 256010 ∧
    plotFormula 1 1 400 0 1280000 2500 10000 = 360010 := by decide

/-- The words of the example page of spec/03: 128 pointers, then zeros. -/
def examplePage : Nat := ((List.range 128).map fun i => (0x7F000000 + 64 * i) * 2 ^ (64 * i)).sum

/-- spec/03, worked example: the first segment costs 61 bits under selector 2 and 62 under selector 3, and selector 2 is taken. -/
theorem test_example_segment : (codeSegment neutralLengths ((pageWords examplePage).take 32)).1 = 2 ∧
    segCost neutralLengths (segTokens neutralLengths 2 ((pageWords examplePage).take 32)) = 61 ∧
    segCost neutralLengths (segTokens neutralLengths 3 ((pageWords examplePage).take 32)) = 62 ∧
    segCost neutralLengths (segTokens neutralLengths 6 ((pageWords examplePage).take 32)) = 1187 := by decide +kernel

/-- spec/03, worked example: the lengths of the sub-blocks and the bytes of the first two. -/
theorem test_example_payload : (codePage neutralLengths examplePage).subs.map (·.1) = [31, 6, 6, 6] ∧
    toBytes 8 ((codePage neutralLengths examplePage).subs.getD 0 (0, 0)).2 = [0x2A, 0x01, 0x00, 0x00, 0xFC, 0x2E, 0x40, 0x5C] ∧
    toBytes 6 ((codePage neutralLengths examplePage).subs.getD 1 (0, 0)).2 = [0x90, 0x87, 0x3C, 0xE4, 0x21, 0x0F] := by decide +kernel

/-- Slot 0 reads as an image of the neutral lengths that the checks of spec/03 R113 accept. -/
theorem test_neutral_image : imageReason neutralImage = 0 ∧ imageLengths neutralImage = neutralLengths ∧
    State.reset.part.odRead .codebookImage 0 = neutralImage := by decide +kernel

/-- spec/03, worked example: the cask's slot class and its clear word. -/
theorem test_example_cask : (makeCask neutralLengths 0 0 0 examplePage).cls = 0 ∧
    (makeCask neutralLengths 0 0 0 examplePage).clear = ⟨1, false, true, 128, 49, 0, 0⟩ := by decide +kernel

/-- spec/04, worked example: the line tweak, the page tweak and the tag header block. -/
theorem test_example_tweaks : lineNumber 0x1234 5 = 0x48D05 ∧
    toBytes 16 (tweak 300 1 0x48D05) = [0x05, 0x8D, 0x04, 0, 0, 0, 0, 0, 0, 0, 0, 0, 0, 0, 0xC1, 0x12] ∧
    toBytes 16 (tweak 300 2 0x1234) = [0x34, 0x12, 0, 0, 0, 0, 0, 0, 0, 0, 0, 0, 0, 0, 0xC2, 0x12] ∧
    toBytes 16 (tagHeader 42 300 1 0x48D05) = [0x05, 0x8D, 0x04, 0, 0, 0, 0xC1, 0x12, 0x2A, 0, 0, 0, 0, 0, 0, 0] := by decide +kernel

/-- spec/05, worked example: the erasures of burst 1 at strength 128, and of bursts 1, 2 and 3 at strength 16. -/
theorem test_example_erasures : (erasures 0 49 128 [1]).length = 44 ∧ (erasures 0 49 16 [1]).length = 44 ∧
    (erasures 0 49 16 [2]).length = 11 ∧ (erasures 0 49 16 [3]).length = 0 := by decide +kernel

/-- spec/06, worked example: the place of line 5 of the page at 0x12345678, its burst address, and that of line 6. -/
theorem test_example_hash : (geometry 1 4).place 0x91A2B3C5 = ⟨3, 1, 0, 6, 1, 0x91A2, 0x580⟩ ∧
    burstAddress 19 1 0 6 1 0x91A2 0x580 = 0x273248D1580 ∧ (geometry 1 4).unplace ⟨3, 1, 0, 6, 1, 0x91A2, 0x580⟩ = 0x91A2B3C5 ∧
    ((geometry 1 4).place 0x91A2B3C6).local_ = 2 ∧ ((geometry 1 4).place 0x91A2B3C6).sub = 0 ∧ ((geometry 1 4).place 0x91A2B3C6).row = 0x91A2 := by
  decide +kernel

/-- spec/09, worked example: the DPA of the address, and the logical address it decodes to. -/
theorem test_example_decoder : (Decoder.mk true 0x10000000000 0x80000000 2 4096 1 0x2000C0000000).dpa 0x10001235040 = 0x2000C091A040 ∧
    (Decoder.mk true 0x10000000000 0x80000000 2 4096 1 0x2000C0000000).holds 0x10001235040 = true ∧
    ((but (st [(.sliceState, 300, 2), (.slicePort, 300, 6)]) fun s => s.onPort 6 fun t => { t with
      decoders := [(0, ⟨true, 0x10000000000, 0x80000000, 2, 4096, 1, 0x2000C0000000⟩)],
      regionMap := [(0x8003, 0x812C0012)], masks := [(0x8003, 16)] }).part.decode 6 0x10001235040).2 = .found 300 0x48091A040 0x2000C091A040 ∧
    lineNumber 0x48091A 1 = 0x12024681 := by decide +kernel

/-- spec/11, worked example: the header of the write of SLICE_GUARANTEE_READ of slice 10. -/
theorem test_example_header : toBytes 32 (frameHeader { frame0 with
      format := 1, magic := 0x56, role := 2, opcode := 0x11, subindex := 0x61, index := 0x600A, length := 4, session := 0x23, sequence := 42 }) =
    [0x01, 0x56, 0x00, 0x02, 0x11, 0x61, 0x0A, 0x60, 0, 0, 4, 0, 0, 0, 0, 0, 0, 0, 0, 0, 0x23, 0, 0, 0, 0x2A, 0, 0, 0, 0, 0, 0, 0] ∧
    Entry.find 0x600A 0x61 = some (.sliceGuaranteeRead, 10) ∧ sessionNumber 3 0 = 0x23 := by decide +kernel

/-- spec/12, worked example: the entry that COUNTER_RESET 0x00612C71 names. -/
theorem test_example_counter : entryOf 0x00612C71 = some (.sliceWriteBytes, 300) := by decide +kernel

/-- The main input on its last ramp of spec/14's worked example: three trips before, the FET in limiting. -/
def exampleInput (n : Nat) : State := stPower (fun v => { v with limiting := [0] }) [(.mainState, 0, 2), (.mainRetryCount, 0, n), (.mainRetries, 0, 3)]

/-- spec/14, worked example: the third trip still waits, the fourth leaves the input LATCHED. -/
theorem test_example_trips : (∃ t, exec .mainSoaTimerExpiry (exampleInput 2) = .next t ∧ t.part.od .mainRetryCount 0 = 3 ∧ t.part.od .mainState 0 = 4) ∧
    ∃ t, exec .mainSoaTimerExpiry (exampleInput 3) = .next t ∧ t.part.od .mainRetryCount 0 = 4 ∧ t.part.od .mainState 0 = 5 :=
  ⟨⟨_, rfl, by decide +kernel⟩, ⟨_, rfl, by decide +kernel⟩⟩

/-- spec/15, worked example: the extents of the weak row. -/
theorem test_example_row : (st [(.dramDevice, 2, 1), (.dramStack, 2, 4)]).part.rowExts ⟨19, 1, 0, 0, 6, 1, 0, 0x91A2, 2 ^ 15⟩ = [0x12344, 0x12345] := by
  decide +kernel

end Sys2Proof.Tests
end

section
/-!
SUPPORT. What serving a request does before it comes to the page's storage: the lookups in the caches of the cellar book and the tag region, with
the DRAM commands of their misses, the heat sample and the dirty mark (spec/02 R61, R76, R77, spec/04 R166).
-/

namespace Sys2Proof.Machine

/-! ## Stored values -/

/-- The number of a value counts modulo 2^16. -/
theorem Part.od_mod (s : Part) (e : Entry) (i : Nat) : s.od e (i % 65536) = s.od e i := by
  unfold Part.od Entry.key
  rw [Nat.mod_mod]

/-- A frame of the dictionary holds for every number. -/
theorem Part.keepsOd.od_eq {l : List Entry} {a b : Part} (h : Part.keepsOd l a b) {e : Entry} (he : e ∉ l) (i : Nat) :
    b.od e i = a.od e i := by
  rw [← b.od_mod, ← a.od_mod]
  exact h e _ he (Nat.mod_lt _ (by decide))

/-! ## What a lookup leaves -/

/-- What a pavilion stores: its cellar book, its DRAM, its tag region and its ownership table. -/
def PavState.stored (v : PavState) : Sparse Cell × Sparse Nat × Sparse TagEnt × Sparse Own := (v.cellar, v.dram, v.tags, v.own)

/-- What the value of a burst depends on in a channel: the writes that wait, and which rank serves a layer. -/
def ChanState.waits (v : ChanState) : List QEnt × List QEnt × List Nat × Option Rebuild := (v.queue, v.withheld, v.rankMap, v.rebuild)

/-- The fields that a lookup may change. -/
def lookFields : List PartField := .pavs :: .chans :: logFields

/-- What looking up a line of the part's own tables leaves as it is: what the pavilions store, the writes that wait in the channels, and every
stored value but RING_STATE. -/
structure LookFrame (a b : Part) : Prop where
  only : Part.only lookFields a b
  od : Part.keepsOd [.ringState] a b
  pav : ∀ q, (b.pav q).stored = (a.pav q).stored
  chan : ∀ c, (b.chan c).waits = (a.chan c).waits

namespace LookFrame

theorem refl (a : Part) : LookFrame a a := ⟨Part.only_refl _ _, Part.keepsOd_refl _ _, fun _ => rfl, fun _ => rfl⟩

theorem trans {a b c : Part} (h : LookFrame a b) (k : LookFrame b c) : LookFrame a c :=
  ⟨Part.only_trans h.only k.only, Part.keepsOd_trans h.od k.od, fun q => (k.pav q).trans (h.pav q), fun c => (k.chan c).trans (h.chan c)⟩

theorem ite {c : Prop} [Decidable c] {s a b : Part} (h : LookFrame s a) (k : LookFrame s b) : LookFrame s (if c then a else b) := by
  split <;> assumption

theorem iter {α : Type} {f : Part → α → Part} (h : ∀ s x, LookFrame s (f s x)) (xs : List α) (s : Part) :
    LookFrame s (Machine.iter xs s f) := by
  induction xs generalizing s with
  | nil => exact .refl s
  | cons x xs ih => exact (h s x).trans (ih (f s x))

theorem of_only {l : List PartField} {a b : Part} (h : Part.only l a b) (hl : ∀ f ∈ l, f ∈ lookFields := by decide)
    (hd : PartField.dict ∉ l := by decide) (hp : PartField.pavs ∉ l := by decide) (hc : PartField.chans ∉ l := by decide) : LookFrame a b :=
  ⟨Part.only_mono h hl, Part.keepsOd_of_only h hd, fun q => by unfold Part.pav; rw [show b.pavs = a.pavs from h .pavs hp],
    fun c => by unfold Part.chan; rw [show b.chans = a.chans from h .chans hc]⟩

theorem of_log {a b : Part} (h : LogFrame a b) : LookFrame a b :=
  ⟨Part.only_mono h.only (by decide), fun e i he hi => h.od e i (by simpa using he) hi,
    fun q => by unfold Part.pav; rw [show b.pavs = a.pavs from h.only .pavs (by decide)],
    fun c => by unfold Part.chan; rw [show b.chans = a.chans from h.only .chans (by decide)]⟩

theorem onPav (s : Part) (p : Nat) (f : PavState → PavState) (h : ∀ v, (f v).stored = v.stored) : LookFrame s (s.onPav p f) :=
  ⟨Part.only_mono (s.only_onPav p f) (by decide), fun _ _ _ _ => rfl, fun q => by
    rw [Part.onPav_pav]
    split
    · next e => rw [h, e]
    · rfl, fun _ => rfl⟩

theorem onChan (s : Part) (c : Nat) (f : ChanState → ChanState) (h : ∀ v, (f v).waits = v.waits) : LookFrame s (s.onChan c f) :=
  ⟨Part.only_mono (s.only_onChan c f) (by decide), fun _ _ _ _ => rfl, fun _ => rfl, fun d => by
    rw [Part.onChan_chan]
    split
    · next e => rw [h, e]
    · rfl⟩

theorem count (s : Part) (e : Entry) (i n : Nat) : LookFrame s (s.count e i n) := .of_log (.count s e i n)

/-! ## The commands of a read -/

theorem throttle (s : Part) (c : Nat) (q : QEnt) : LookFrame s (s.throttle c q) := by
  unfold Part.throttle
  extract_lets who s1 s2 a s3
  have h1 : LookFrame s s1 := .onChan s c _ fun _ => rfl
  have h2 : LookFrame s s2 := h1.trans (.count _ _ _ _)
  refine LookFrame.trans (b := s3) ?_ (.of_log (.logEv _ _ _ _ _ _))
  unfold s3
  clear s3
  clear_value who s2
  cases who with
  | none => exact h2
  | some sl =>
    dsimp only
    split
    · exact h2.trans (.count _ _ _ _)
    · exact (h2.trans (.count _ _ _ _)).trans (.of_only (Part.only_vendorEvent _ _ _ _ _ _ _ _ _ _ _))

theorem askRfm (s : Part) (c k : Nat) : LookFrame s (s.onChan c fun v => v.askRfm k) :=
  .onChan s c _ fun v => by unfold ChanState.askRfm; split <;> rfl

theorem note (s : Part) (c : Nat) (m : DramCmd) : LookFrame s (s.onChan c fun v => v.note m) := .onChan s c _ fun _ => rfl

theorem activate (s : Part) (c : Nat) (q : QEnt) : LookFrame s (s.activate c q) := by
  unfold Part.activate
  extract_lets k t s1 s2 s3
  have h1 : LookFrame s s1 := .onChan s c _ fun _ => rfl
  have h2 : LookFrame s s2 := .ite (h1.trans (.askRfm _ _ _)) h1
  have h3 : LookFrame s s3 := .ite (h2.trans (.askRfm _ _ _)) h2
  exact .ite (h3.trans (.throttle _ _ _)) h3

theorem commandsOf (s : Part) (c : Nat) (q : QEnt) : LookFrame s (s.commandsOf c q) := by
  unfold Part.commandsOf
  refine LookFrame.trans (.ite (.refl s) ?_) (.onChan _ _ _ fun _ => rfl)
  exact (LookFrame.ite (.refl s) (.note _ _ _)).trans ((LookFrame.activate _ _ _).trans (.note _ _ _))

theorem engineRead (s : Part) (p x who : Nat) : LookFrame s (s.engineRead p x who) := by
  unfold Part.engineRead
  exact .ite (.refl s) (.commandsOf _ _ _)

/-! ## The steps before the storage -/

theorem lookCell (s : Part) (p who sl lp : Nat) : LookFrame s (s.lookCell p who sl lp) := by
  unfold Part.lookCell
  dsimp only
  have h := LookFrame.onPav s p (fun v => { v with cellarCache := (cacheLook cellarSets (pageKey sl lp / 4) (s.pav p).cellarCache).1 }) fun _ => rfl
  exact .ite h (h.trans (.iter (fun s x => .engineRead s p x who) _ _))

theorem lookTag (s : Part) (p who x : Nat) : LookFrame s (s.lookTag p who x) := by
  unfold Part.lookTag
  extract_lets b q s1
  have h : LookFrame s s1 := .onPav s p _ fun _ => rfl
  exact .ite h (h.trans (.engineRead _ _ _ _))

end LookFrame

/-- A hit in the cellar-book cache moves the line to the front of its set and does nothing else. -/
theorem Part.only_lookCell_cached {s : Part} {p sl lp : Nat} (h : s.cellCached p sl lp = true) (who : Nat) :
    Part.only [.pavs] s (s.lookCell p who sl lp) := by
  unfold Part.lookCell
  dsimp only
  rw [if_pos (show (cacheLook cellarSets (pageKey sl lp / 4) (s.pav p).cellarCache).2 = true from h)]
  exact s.only_onPav _ _

end Sys2Proof.Machine
end

section
/-!
O21 and O22: reads and writes on their home pavilion (spec/01 R32, R34, spec/02 R56, R70, R76, spec/04 R162, R172, R626).
-/

namespace Sys2Proof.Machine

/-! ## What a page reads as after a lookup -/

namespace LookFrame
variable {a b : Part}

theorem od_eq (h : LookFrame a b) {e : Entry} (he : e ≠ .ringState) (i : Nat) : b.od e i = a.od e i := h.od.od_eq (by simpa using he) i

theorem pav_own (h : LookFrame a b) (q : Nat) : (b.pav q).own = (a.pav q).own := congrArg (·.2.2.2) (h.pav q)

theorem pav_storage (h : LookFrame a b) (q : Nat) :
    (b.pav q).cellar = (a.pav q).cellar ∧ (b.pav q).dram = (a.pav q).dram ∧ (b.pav q).tags = (a.pav q).tags :=
  ⟨congrArg (·.1) (h.pav q), congrArg (·.2.1) (h.pav q), congrArg (·.2.2.1) (h.pav q)⟩

theorem cell (h : LookFrame a b) (p sl lp : Nat) : b.cell p sl lp = a.cell p sl lp := by
  unfold Part.cell Part.blank Part.slice
  rw [(h.pav_storage p).1, show b.slices = a.slices from h.only .slices (by decide)]

theorem geom (h : LookFrame a b) (p : Nat) : b.geom p = a.geom p := by
  unfold Part.geom
  rw [h.od_eq (by decide), h.od_eq (by decide)]

theorem ownOf (h : LookFrame a b) (p x : Nat) : b.ownOf p x = a.ownOf p x := by
  unfold Part.ownOf Part.layerLost
  rw [h.pav_own, h.geom, show b.flash = a.flash from h.only .flash (by decide), show b.boot = a.boot from h.only .boot (by decide)]

theorem ownerOk (h : LookFrame a b) (p sl : Nat) (c : Cell) : b.ownerOk p sl c = a.ownerOk p sl c := by
  unfold Part.ownerOk Part.foreignExt
  simp only [h.ownOf]

theorem placeOf (h : LookFrame a b) (p x : Nat) : b.placeOf p x = a.placeOf p x := by
  unfold Part.placeOf
  rw [h.geom]

theorem rankAt (h : LookFrame a b) (c layer x : Nat) : b.rankAt c layer x = a.rankAt c layer x := by
  unfold Part.rankAt Part.rankOf
  rw [show (b.chan c).rankMap = (a.chan c).rankMap from congrArg (·.2.2.1) (h.chan c),
    show (b.chan c).rebuild = (a.chan c).rebuild from congrArg (·.2.2.2) (h.chan c)]

theorem burstLost (h : LookFrame a b) (p x : Nat) : b.burstLost p x = a.burstLost p x := by
  unfold Part.burstLost Part.rankState
  simp only [h.placeOf, h.rankAt, h.od_eq (show Entry.rankState ≠ .ringState by decide)]

theorem queued (h : LookFrame a b) (p x : Nat) : b.queued p x = a.queued p x := by
  unfold Part.queued
  simp only [h.placeOf, show ∀ c, (b.chan c).queue = (a.chan c).queue from fun c => congrArg (·.1) (h.chan c),
    show ∀ c, (b.chan c).withheld = (a.chan c).withheld from fun c => congrArg (·.2.1) (h.chan c)]

theorem burstNow (h : LookFrame a b) (p x : Nat) : b.burstNow p x = a.burstNow p x := by
  unfold Part.burstNow Part.dramAt
  rw [h.queued, h.burstLost, (h.pav_storage p).2.1]

theorem lineEnt (h : LookFrame a b) (p sl x : Nat) : b.lineEnt p sl x = a.lineEnt p sl x := by
  unfold Part.lineEnt Part.inline Part.tagEnt
  rw [h.burstNow, (h.pav_storage p).2.2, h.od_eq (by decide)]

end LookFrame

/-! ## Entering: what comes before the lookup of the page's entry -/

/-- What entering a request keeps of a pavilion: what it stores, the keys its cache lacks, and its cellar-book cache. -/
def PavState.settled (v : PavState) : (Sparse Cell × Sparse Nat × Sparse TagEnt × Sparse Own) × List Nat × Sparse (List Nat) :=
  (v.stored, v.keyInvalid, v.cellarCache)

/-- What taking, counting and marking a request leaves as it is: everything but tallies and the pavilions, of which it keeps what is settled. -/
structure EnterFrame (a b : Part) : Prop where
  only : Part.only [.pavs, .delta] a b
  pav : ∀ q, (b.pav q).settled = (a.pav q).settled

namespace EnterFrame

theorem refl (a : Part) : EnterFrame a a := ⟨Part.only_refl _ _, fun _ => rfl⟩

theorem trans {a b c : Part} (h : EnterFrame a b) (k : EnterFrame b c) : EnterFrame a c :=
  ⟨Part.only_trans h.only k.only, fun q => (k.pav q).trans (h.pav q)⟩

theorem ite {c : Prop} [Decidable c] {s a b : Part} (h : EnterFrame s a) (k : EnterFrame s b) : EnterFrame s (if c then a else b) := by
  split <;> assumption

theorem onPav (s : Part) (p : Nat) (f : PavState → PavState) (h : ∀ v, (f v).settled = v.settled) : EnterFrame s (s.onPav p f) :=
  ⟨Part.only_mono (s.only_onPav p f) (by decide), fun q => by
    rw [Part.onPav_pav]
    split
    · next e => rw [h, e]
    · rfl⟩

theorem count (s : Part) (e : Entry) (i n : Nat) : EnterFrame s (s.count e i n) :=
  ⟨Part.only_mono (s.only_count e i n) (by decide), fun _ => rfl⟩

theorem takeReq {s t : Part} {p op : Nat} {m : Msg} (h : s.takeReq p op = some (m, t)) : EnterFrame s t := by
  obtain ⟨q, -, e⟩ := Option.map_eq_some_iff.mp h
  obtain rfl : _ = t := congrArg Prod.snd e
  exact .onPav _ _ _ fun _ => rfl

theorem unbounce (s : Part) (p : Nat) (m : Msg) : EnterFrame s (s.unbounce p m) := .onPav _ _ _ fun _ => rfl

theorem heatSample (s : Part) (p sl lp : Nat) : EnterFrame s (s.heatSample p sl lp) := by
  unfold Part.heatSample
  extract_lets n s1 buf k
  have h1 : EnterFrame s s1 := .onPav _ _ _ fun _ => rfl
  refine .ite h1 (.ite (h1.trans (.onPav _ _ _ fun _ => rfl)) ?_)
  clear_value buf
  split
  · exact h1
  · refine h1.trans (EnterFrame.trans ?_ (.count _ _ _ _))
    exact .onPav _ _ _ fun _ => rfl

theorem dirtyMark (s : Part) (p sl lp : Nat) : EnterFrame s (s.dirtyMark p sl lp) := by
  unfold Part.dirtyMark
  have h : EnterFrame s (s.moveAgain p sl lp) := .onPav _ _ _ fun _ => rfl
  exact .ite h (h.trans (.onPav _ _ _ fun _ => rfl))

variable {a b : Part}

theorem look (h : EnterFrame a b) : LookFrame a b :=
  ⟨Part.only_mono h.only (by decide), Part.keepsOd_of_only h.only (by decide), fun q => congrArg (·.1) (h.pav q),
    fun c => by unfold Part.chan; rw [show b.chans = a.chans from h.only .chans (by decide)]⟩

theorem keyAway (h : EnterFrame a b) (p sl : Nat) : b.keyAway p sl = a.keyAway p sl := by
  funext slot
  unfold Part.keyAway
  rw [show (b.pav p).keyInvalid = (a.pav p).keyInvalid from congrArg (·.2.1) (h.pav p)]

theorem needSlots (h : EnterFrame a b) (c : Cell) (sl : Nat) : b.needSlots c sl = a.needSlots c sl := by
  unfold Part.needSlots
  rw [h.look.od_eq (by decide)]

theorem cellCached (h : EnterFrame a b) (p sl lp : Nat) : b.cellCached p sl lp = a.cellCached p sl lp := by
  unfold Part.cellCached
  rw [show (b.pav p).cellarCache = (a.pav p).cellarCache from congrArg (·.2.2) (h.pav p)]

end EnterFrame

/-! ## Serving a request whose page and keys are there -/

/-- A request that runs leaves its mark of an earlier refusal, and is counted in the heat of its page. -/
def Part.counted (s : Part) (p : Nat) (m : Msg) : Part := (if 6 ≤ m.status then s.unbounce p m else s).heatSample p m.slice m.lpage

/-- The page's entry is looked up for a read. -/
def Part.readLooked (s : Part) (p : Nat) (m : Msg) : Part := (s.counted p m).lookCell p m.slice m.slice m.lpage

/-- The page's entry is looked up for a write, after the dirty mark. -/
def Part.writeLooked (s : Part) (p : Nat) (m : Msg) : Part :=
  ((s.counted p m).dirtyMark p m.slice m.lpage).lookCell p m.slice m.slice m.lpage

theorem EnterFrame.counted (s : Part) (p : Nat) (m : Msg) : EnterFrame s (s.counted p m) :=
  (EnterFrame.ite (.unbounce s p m) (.refl s)).trans (.heatSample _ _ _ _)

theorem LookFrame.readLooked (s : Part) (p : Nat) (m : Msg) : LookFrame s (s.readLooked p m) :=
  (EnterFrame.counted s p m).look.trans (.lookCell _ _ _ _ _)

theorem LookFrame.writeLooked (s : Part) (p : Nat) (m : Msg) : LookFrame s (s.writeLooked p m) :=
  ((EnterFrame.counted s p m).trans (.dirtyMark _ _ _ _)).look.trans (.lookCell _ _ _ _ _)

/-- Where the cellar-book cache holds the page's entry a lookup after entering leaves the dictionary and the channels. -/
theorem EnterFrame.lookCell_cached {s t v : Part} {p sl lp : Nat} (hs : EnterFrame s t) (h : EnterFrame t v) (hc : t.cellCached p sl lp = true)
    (who : Nat) : (v.lookCell p who sl lp).dict = s.dict ∧ (v.lookCell p who sl lp).chans = s.chans := by
  have o := Part.only_trans (hs.trans h).only
    (Part.only_mono (Part.only_lookCell_cached ((h.cellCached p sl lp).trans hc) who) (l' := [.pavs, .delta]) (by decide))
  exact ⟨o .dict (by decide), o .chans (by decide)⟩

/-- An entry whose TIER is sound is served as it was found before the request entered. -/
theorem EnterFrame.soundCell {t v : Part} (h : EnterFrame t v) {p sl lp : Nat} (h3 : (t.cell p sl lp).tier ≠ 3) :
    v.soundCell p sl lp = (v.lookCell p sl sl lp, t.cell p sl lp) := by
  unfold Part.soundCell
  simp only [(LookFrame.lookCell v p sl sl lp).cell, h.look.cell]
  rw [if_pos (by simpa using h3)]

/-- A request with its keys at hand goes on. -/
theorem Part.keyGate_passes {s : Part} {p : Nat} {m : Msg}
    (h : (s.needSlots (s.cell p m.slice m.lpage) m.slice).any (s.keyAway p m.slice) = false) : s.keyGate p m false = (s, true) := by
  unfold Part.keyGate
  simp [h]

/-- A request of a page that is not held, in a region homed here, is served. -/
theorem Part.serve_here {s t : Part} {p op : Nat} {m : Msg} (err : Bool) (h : s.takeReq p op = some (m, t)) (hq : t.squashing m.slice = false)
    (hr : t.regionHeld p m = false) (hh : t.homeOf m.slice m.lpage = some p) (hp : t.isHeld p m.slice m.lpage = false) :
    s.serve p op err = if op = 0 then t.serveRead p m err else t.serveWrite p m err := by
  have hin : t.takeIn p m = (t, true) := by
    unfold Part.takeIn
    simp [hr, hh, hp]
  unfold Part.serve
  simp [h, hq, hin]

/-- The keys of a request are at hand after the mark of an earlier refusal was taken away too. -/
theorem Part.keyGate_unbounced {t : Part} {p : Nat} {m : Msg}
    (hk : (t.needSlots (t.cell p m.slice m.lpage) m.slice).any (t.keyAway p m.slice) = false) :
    (if 6 ≤ m.status then t.unbounce p m else t).keyGate p m false = (if 6 ≤ m.status then t.unbounce p m else t, true) := by
  have h : EnterFrame t (if 6 ≤ m.status then t.unbounce p m else t) := .ite (.unbounce t p m) (.refl t)
  refine Part.keyGate_passes ?_
  rw [h.look.cell, h.needSlots, h.keyAway]
  exact hk

/-- A read that is not bounced, with its keys at hand and a sound entry, goes by the page's tier. -/
theorem Part.serveRead_eq {t : Part} {p : Nat} {m : Msg} (hb : t.bounced p m = false)
    (hk : (t.needSlots (t.cell p m.slice m.lpage) m.slice).any (t.keyAway p m.slice) = false) (h3 : (t.cell p m.slice m.lpage).tier ≠ 3) :
    t.serveRead p m false =
      if (t.cell p m.slice m.lpage).tier = tierZero then (t.readLooked p m).respond m (b2n (t.cell p m.slice m.lpage).poison) 0
      else if !t.ownerOk p m.slice (t.cell p m.slice m.lpage) then ((t.readLooked p m).ownerMismatch p m.slice m.lpage).respond m 1 0
      else if (t.cell p m.slice m.lpage).tier = tierHot then
        ((t.readLooked p m).lookTag p m.slice (burstOf (t.cell p m.slice m.lpage).loc + m.line)).newTask p .readLine m
          [burstOf (t.cell p m.slice m.lpage).loc + m.line] 0
      else (t.readLooked p m).newTask p .readCask m (slotBursts (t.cell p m.slice m.lpage).slotClass (t.cell p m.slice m.lpage).loc) 0 := by
  have hs : ((if 6 ≤ m.status then t.unbounce p m else t).heatSample p m.slice m.lpage).soundCell p m.slice m.lpage =
      (t.readLooked p m, t.cell p m.slice m.lpage) := (EnterFrame.counted t p m).soundCell h3
  unfold Part.serveRead
  simp only [hb, Bool.false_eq_true, if_false, Part.keyGate_unbounced hk, Bool.not_true, hs, (LookFrame.readLooked t p m).ownerOk]

/-- Settles O21: before the page's tier is looked at, a read leaves the pavilions' storage and the links. -/
theorem readsOnTheirHome : Obligations.ReadsOnTheirHome := by
  intro s p m t htake hq hr hh hp hb hk
  have ht := EnterFrame.takeReq htake
  have hu := ht.look.trans (LookFrame.readLooked t p m)
  have run : exec (.promRead p false) s = .next (s.withPart (t.serveRead p m false)) := by
    rw [exec_promRead, execPromRead, State.run_eq, Part.serve_here false htake hq hr hh hp, if_pos rfl]
  refine ⟨t.readLooked p m, hu.only .links (by decide), fun hc => ht.lookCell_cached (.counted t p m) hc _, hu.pav_storage,
    fun hz => ?_, fun hhot ho => ?_, fun hw ho => ?_⟩
  · rw [run, Part.serveRead_eq hb hk (by rw [hz]; decide), if_pos hz]
  · rw [run, Part.serveRead_eq hb hk (by rw [hhot]; decide), if_neg (by rw [hhot]; decide), if_neg (by simp [ho]), if_pos hhot]
  · rw [run, Part.serveRead_eq hb hk (by rw [hw]; decide), if_neg (by rw [hw]; decide), if_neg (by simp [ho]), if_neg (by rw [hw]; decide)]

/-- A write that moves nothing touches its page by the dirty mark alone. -/
theorem Part.touch_still {s : Part} {p sl lp : Nat} (h : (s.cell p sl lp).moving = false) : s.touch p sl lp = s.dirtyMark p sl lp := by
  unfold Part.touch
  dsimp only
  rw [h, if_neg (by decide)]

/-- What a write of one line to a HOT page does after its tag-region entry `e` was looked up, by its opcode. -/
def Part.hotWritten (s : Part) (p : Nat) (m : Msg) (c : Cell) (e : TagEnt) : Part :=
  let x := burstOf c.loc + m.line
  if m.opcode = 1 then
    ((s.classFor p m.slice 1 1).2.storeLine p m.slice m.lpage m.line c.loc c.keySel (m.data % 2 ^ 512) (e.version + 1) 0 e.info
      m.slice (s.classFor p m.slice 1 1).1).respond m 0 0
  else if m.opcode = 2 then s.newTask p .mergeLine m [x] 0
  else if metaPoisoned e.info then s.respond m 0 0
  else (s.poisonLine p m.slice m.lpage m.line c (s.burstNow p x) causeLinkLoss).respond m 0 0

/-- The entry of a page that no move copies, as a write finds it after the touch. -/
theorem Part.soundCell_touched {t : Part} {p : Nat} {m : Msg} (hm : (t.cell p m.slice m.lpage).moving = false)
    (h3 : (t.cell p m.slice m.lpage).tier ≠ 3) :
    (((if 6 ≤ m.status then t.unbounce p m else t).heatSample p m.slice m.lpage).touch p m.slice m.lpage).soundCell p m.slice m.lpage =
      (t.writeLooked p m, t.cell p m.slice m.lpage) := by
  have ht : ((if 6 ≤ m.status then t.unbounce p m else t).heatSample p m.slice m.lpage).touch p m.slice m.lpage =
      (t.counted p m).dirtyMark p m.slice m.lpage :=
    Part.touch_still (s := t.counted p m) (by rw [(EnterFrame.counted t p m).look.cell, hm])
  rw [ht]
  exact ((EnterFrame.counted t p m).trans (.dirtyMark _ _ _ _)).soundCell h3

section
variable {t : Part} {p : Nat} {m : Msg} (hb : t.bounced p m = false)
  (hk : (t.needSlots (t.cell p m.slice m.lpage) m.slice).any (t.keyAway p m.slice) = false) (h7 : m.status ≠ 7)
  (hm : (t.cell p m.slice m.lpage).moving = false) (ho : t.ownerOk p m.slice (t.cell p m.slice m.lpage) = true)
include hb hk h7 hm ho

/-- A write to a HOT page looks its line's tag-region entry up, then goes by its opcode. -/
theorem Part.serveWrite_hot (hhot : (t.cell p m.slice m.lpage).tier = tierHot) :
    t.serveWrite p m false =
      ((t.writeLooked p m).lookTag p m.slice (burstOf (t.cell p m.slice m.lpage).loc + m.line)).hotWritten p m (t.cell p m.slice m.lpage)
        (t.lineEnt p m.slice (burstOf (t.cell p m.slice m.lpage).loc + m.line)) := by
  have hl := fun x => ((LookFrame.writeLooked t p m).trans (.lookTag _ p m.slice x)).lineEnt p m.slice x
  unfold Part.serveWrite Part.hotWritten
  simp only [hb, Bool.false_eq_true, if_false, Part.keyGate_unbounced hk, Bool.not_true, h7, Part.soundCell_touched hm (by rw [hhot]; decide),
    (LookFrame.writeLooked t p m).ownerOk, ho, hhot, if_true, hl]
  split
  · next h => rw [if_pos h]
  · next h => rw [if_neg (by omega), if_pos h]
  · next h1 h2 => rw [if_neg h1, if_neg h2]

/-- A full write of zeros to a ZERO page that is not poisoned completes. -/
theorem Part.serveWrite_zero (hz : (t.cell p m.slice m.lpage).tier = tierZero) (hc : (t.cell p m.slice m.lpage).poison = false)
    (h1 : m.opcode = 1) (hd : m.data % 2 ^ 512 = 0) : t.serveWrite p m false = (t.writeLooked p m).respond m 0 0 := by
  have ha : m.apply 0 = 0 := by
    unfold Msg.apply
    rw [h1]
    exact hd
  unfold Part.serveWrite
  simp only [hb, Bool.false_eq_true, if_false, Part.keyGate_unbounced hk, Bool.not_true, h7, Part.soundCell_touched hm (by rw [hz]; decide),
    (LookFrame.writeLooked t p m).ownerOk, ho, hz, if_neg (show tierZero ≠ tierHot by decide), hc, h1, ha]
  exact if_pos (by decide)

end

/-- Settles O22: before the page's tier is looked at, a write leaves the pavilions' storage and the links. -/
theorem writesOnTheirHome : Obligations.WritesOnTheirHome := by
  intro s p op m t htake hop hq h7 hr hh hp hb hk hm ho c x e
  have ht := EnterFrame.takeReq htake
  have hu := ht.look.trans (LookFrame.writeLooked t p m)
  have run : ∀ b, op ≠ 0 → s.part.serve p op b = t.serveWrite p m b := fun b h0 => by
    rw [Part.serve_here b htake hq hr hh hp, if_neg h0]
  refine ⟨t.writeLooked p m, hu.only .links (by decide),
    fun hc => ht.lookCell_cached ((EnterFrame.counted t p m).trans (.dirtyMark _ _ _ _)) hc _, hu.pav_storage,
    fun h1 hhot => ?_, fun h2 hhot => ?_, fun h3 hhot he => ?_, fun h1 hz hc hd => ?_⟩
  · subst h1
    rw [exec_promWrite, execPromWrite, State.run_eq, run _ (by decide), Part.serveWrite_hot hb hk h7 hm ho hhot, Part.hotWritten, if_pos hop]
  · subst h2
    rw [exec_promWritePartial, execPromWritePartial, State.run_eq, run _ (by decide), Part.serveWrite_hot hb hk h7 hm ho hhot, Part.hotWritten,
      if_neg (by omega), if_pos hop]
  · subst h3
    rw [exec_promPoisonLine, execPromPoisonLine, State.run_eq, run _ (by decide), Part.serveWrite_hot hb hk h7 hm ho hhot, Part.hotWritten,
      if_neg (by omega), if_neg (by omega), if_neg (by simpa using he)]
  · subst h1
    rw [exec_promWrite, execPromWrite, State.run_eq, run _ (by decide), Part.serveWrite_zero hb hk h7 hm ho hz hc hop hd]

end Sys2Proof.Machine
end

section
/-!
O48: the commands of a pavilion (spec/01 R26, R29, spec/15 R565).
-/

namespace Sys2Proof.Machine

/-! ## What the commands do, once they are let through -/

/-- A pavilion takes a state with its cause and its power state. -/
def Part.toState (s : Part) (p v cause power : Nat) : Part :=
  ((s.setOd .pavilionState p v).setOd .pavilionCause p cause).setOd .pavilionPowerState p power

/-- The effects of STOP. -/
def Part.stopPav (s : Part) (p : Nat) : Part :=
  ((((((s.toState p 2 1 2).pavPortsIdle p).loseMirrors p).pavChannels p 3).leaveSwap p).askCompile 0).checkService

/-- The effects of START. -/
def Part.startPav (s : Part) (p : Nat) : Part :=
  ((((s.toState p 1 0 0).pavPortsOn p).pavChannels p 2).reloadKeys p).askCompile 0

/-- The effects of RETIRE on the pavilion itself. -/
def Part.retirePav (s : Part) (p : Nat) : Part :=
  if s.pstate p = 2 then ((s.toState p 3 1 0).pavPortsOn p).pavChannels p 2 else s.toState p 3 1 0

section
variable {s : Part} {w : Who} {p : Nat} (hw : s.mayWrite w .pavilionCommand)
include hw

theorem Part.pavilionCommand_stop (h1 : s.pstate p = 1) (h0 : p ≠ 0) (hr : s.regionsHomed p = []) (hb : s.portsBusy p = false) :
    s.pavilionCommand w p 1 = (s.stopPav p).ok := by
  unfold Part.pavilionCommand
  rw [Part.command_eq _ _ _ hw (by decide) (by simp)]
  simp only [h1, h0, hr, hb]
  rfl

theorem Part.pavilionCommand_start (h2 : s.pstate p = 2) : s.pavilionCommand w p 2 = (s.startPav p).ok := by
  unfold Part.pavilionCommand
  rw [Part.command_eq _ _ _ hw (by decide) (by simp)]
  simp only [h2]
  rfl

theorem Part.pavilionCommand_retire (h12 : s.pstate p ∈ [1, 2]) (h0 : p ≠ 0) (h3 : ∀ q ∈ allPavs, s.pstate q ≠ 3)
    (hn : 2 ≤ (s.inServiceState.filter (· != p)).length) :
    s.pavilionCommand w p 3 = ((((s.retirePav p).loseMirrors p).askCompile 0).retireIfEmpty p).ok := by
  have hst : (s.pstate p != 1 && s.pstate p != 2) = false := by
    rcases List.mem_pair.mp h12 with h | h <;> rw [h] <;> rfl
  have hno : (allPavs.any fun q => s.pstate q == 3) = false := by
    simpa using h3
  unfold Part.pavilionCommand
  rw [Part.command_eq _ _ _ hw (by decide) (by simp)]
  simp only [hst, hno, h0, Nat.not_lt.mpr hn]
  rfl

theorem Part.pavilionCommand_return (h4 : s.pstate p = 4) (hv : s.roleOf w = roleVendor) :
    s.pavilionCommand w p 4 =
      (({ s with flash := { s.flash with retired := setBit s.flash.retired p false } } : Part).setOd .pavilionReturnPending p 1).ok := by
  unfold Part.pavilionCommand
  rw [Part.command_eq _ _ _ hw (by decide) fun _ => hv]
  simp only [h4]
  rfl

/-- STOP, START and RETIRE are refused in a state that is none of theirs. -/
theorem Part.pavilionCommand_wrongState {v : Nat} {l : List Nat} (hv : (v, l) ∈ [(1, [1]), (2, [2]), (3, [1, 2])]) (hs : s.pstate p ∉ l) :
    s.pavilionCommand w p v = s.refuse rState := by
  simp only [List.mem_cons, Prod.mk.injEq, List.not_mem_nil, or_false] at hv
  unfold Part.pavilionCommand
  rcases hv with ⟨rfl, rfl⟩ | ⟨rfl, rfl⟩ | ⟨rfl, rfl⟩ <;> rw [Part.command_eq _ _ _ hw (by decide) (by simp)]
  · have : (s.pstate p != 1) = true := by simpa using hs
    simp only [this, if_true]
  · have : (s.pstate p != 2) = true := by simpa using hs
    simp only [this, if_true]
  · have : (s.pstate p != 1 && s.pstate p != 2) = true := by simpa using hs
    simp only [this, if_true]

end

/-! ## What the steps of the commands leave -/

theorem Part.keepsOd_pavPortsOn (s : Part) (p : Nat) : Part.keepsOd [.portState] s (s.pavPortsOn p) :=
  Part.keepsOd_iter _ _ fun _ _ _ => Part.keepsOd_ite (Part.keepsOd_setAny _ _ _ (by simp)) (Part.keepsOd_refl _ _)

/-- A port in state 0 is DISABLED while PERST# is asserted and trains otherwise. -/
theorem Part.portOn_od (s : Part) (k : Nat) (hk : k < 16) (i : Port) :
    (if s.od .portState k = 0 then s.setOd .portState k (if (s.port k).perst then 1 else 2) else s).od .portState i =
      if i.val = k ∧ s.od .portState i = 0 then (if (s.port i).perst then 1 else 2) else s.od .portState i := by
  by_cases hik : i.val = k
  · subst hik
    by_cases h0 : s.od .portState i = 0
    · simp only [h0, if_true, and_self]
      exact Part.od_setOd_val _ _ _ _ (by split <;> decide)
    · simp only [h0, if_false, and_false]
  · simp only [hik, false_and, if_false]
    split
    · exact Part.od_setOd_other _ _ (by omega) (by omega) fun h => hik h.2.symm
    · rfl

/-- The ports of a pavilion that comes into service leave state 0. -/
theorem Part.pavPortsOn_od (s : Part) (p : Nat) (hp : p < 8) (i : Port) : (s.pavPortsOn p).od .portState i =
    if i.val / 2 = p ∧ s.od .portState i = 0 then (if (s.port i).perst then 1 else 2) else s.od .portState i := by
  unfold Part.pavPortsOn
  simp only [iter, List.foldl_cons, List.foldl_nil]
  have hport : (if s.od .portState (2 * p) = 0 then s.setOd .portState (2 * p) (if (s.port (2 * p)).perst then 1 else 2) else s).port i =
    s.port i := by split <;> rfl
  rw [Part.portOn_od _ _ (by omega), Part.portOn_od _ _ (by omega), hport]
  by_cases h0 : i.val = 2 * p
  · simp only [eq_true h0, eq_false (show ¬ i.val = 2 * p + 1 by omega), eq_true (show i.val / 2 = p by omega), true_and, false_and, if_false]
  · simp only [eq_false h0, show (i.val / 2 = p) = (i.val = 2 * p + 1) from propext (by omega), false_and, if_false]

theorem Part.reloadKeys_od (s : Part) (p : Nat) (e : Entry) (i : Nat) : (s.reloadKeys p).od e i = s.od e i := by
  have h : Part.only [.pavs, .links] s (s.reloadKeys p) :=
    Part.only_iter (fun s _ => Part.only_trans (Part.only_mono (s.only_onPav _ _) (by decide)) (Part.only_mono (Part.only_send _ _ _ _) (by decide))) _ _
  unfold Part.od
  rw [show (s.reloadKeys p).dict = s.dict from h .dict (by decide)]

/-- A pavilion that takes a state: its own entries, and every other pavilion's. -/
theorem Part.toState_od (s : Part) (p v cause power : Nat) (hp : p < 8) (hv : v < 256) (hc : cause < 256) (hw : power < 256) :
    (∀ r < 8, (s.toState p v cause power).od .pavilionState r = if r = p then v else s.od .pavilionState r) ∧
    (s.toState p v cause power).od .pavilionCause p = cause ∧ (s.toState p v cause power).od .pavilionPowerState p = power ∧
    Part.keepsOd [.pavilionState, .pavilionCause, .pavilionPowerState] s (s.toState p v cause power) := by
  unfold Part.toState
  refine ⟨fun r hr => ?_, ?_, Part.od_setOd_val _ _ _ _ hw, ?_⟩
  · rw [Part.od_setOd_ne _ _ _ _ (by decide), Part.od_setOd_ne _ _ _ _ (by decide)]
    by_cases h : r = p
    · rw [if_pos h, h]
      exact Part.od_setOd_val _ _ _ _ hv
    · rw [if_neg h]
      exact Part.od_setOd_other _ _ (by omega) (by omega) fun e => h e.2.symm
  · rw [Part.od_setOd_ne _ _ _ _ (by decide)]
    exact Part.od_setOd_val _ _ _ _ hc
  · exact Part.keepsOd_trans (Part.keepsOd_trans (Part.keepsOd_setAny s _ _ (by decide)) (Part.keepsOd_setAny _ _ _ (by decide)))
      (Part.keepsOd_setAny _ _ _ (by decide))

/-- The pavilions in service, after one of them went to a state out of service. -/
theorem Part.serving_without {s t : Part} {p v : Nat} (h : ∀ r < 8, t.od .pavilionState r = if r = p then v else s.od .pavilionState r)
    (hv : v ≠ 1 ∧ v ≠ 3) : t.serving = s.serving.filter (· != p) := by
  unfold Part.serving
  rw [List.filter_filter]
  refine List.filter_congr fun r hr => ?_
  unfold Part.inService Part.pstate
  rw [h r (List.mem_range.mp hr)]
  by_cases e : r = p
  · simp [e, hv.1, hv.2]
  · simp [e]

/-! ## The commands -/

/-- What STOP leaves: the pavilion STOPPED by the operator, its channels withdrawn, every other pavilion as it was. -/
theorem Part.stopPav_od (s : Part) (p : Nat) (hp : p < 8) (hn : 2 ≤ (s.serving.filter (· != p)).length) :
    (∀ r < 8, (s.stopPav p).od .pavilionState r = if r = p then 2 else s.od .pavilionState r) ∧ (s.stopPav p).od .pavilionCause p = 1 ∧
    ∀ c : Chan, (s.stopPav p).od .channelState c = if c.val / 8 = p ∧ s.od .channelState c ≠ 0 then 3 else s.od .channelState c := by
  obtain ⟨st, cs, -, keep⟩ := s.toState_od p 2 1 2 hp (by decide) (by decide) (by decide)
  generalize ea : ((s.toState p 2 1 2).pavPortsIdle p).loseMirrors p = a
  have ha : FailFrame (s.toState p 2 1 2) a := ea ▸ (FailFrame.pavPortsIdle _ p hp).trans (.loseMirrors _ p)
  generalize eb : ((a.pavChannels p 3).leaveSwap p).askCompile 0 = b
  have hb : ∀ e i, b.od e i = (a.pavChannels p 3).od e i := fun e i => by rw [← eb]; simp
  have hs : ∀ r < 8, b.od .pavilionState r = if r = p then 2 else s.od .pavilionState r := fun r hr => by
    rw [hb, (a.keepsOd_pavChannels p 3).od_eq (by decide), ha.od.od_eq (by decide), st r hr]
  have e : s.stopPav p = b := by
    unfold Part.stopPav Part.checkService
    rw [ea, eb, Part.serving_without hs (by decide), if_neg (by omega)]
  rw [e]
  refine ⟨hs, ?_, fun c => ?_⟩
  · rw [hb, (a.keepsOd_pavChannels p 3).od_eq (by decide), ha.od.od_eq (by decide), cs]
  · rw [hb, Part.pavChannels_od a p 3 (by decide) hp c, ha.od.od_eq (by decide), keep.od_eq (by decide)]

/-- What START leaves: the pavilion in service with its ports and channels. -/
theorem Part.startPav_od (s : Part) (p : Nat) (hp : p < 8) :
    (s.startPav p).od .pavilionState p = 1 ∧ (s.startPav p).od .pavilionCause p = 0 ∧ (s.startPav p).od .pavilionPowerState p = 0 ∧
    (∀ c : Chan, (s.startPav p).od .channelState c = if c.val / 8 = p ∧ s.od .channelState c ≠ 0 then 2 else s.od .channelState c) ∧
    ∀ i : Port, (s.startPav p).od .portState i = if i.val / 2 = p ∧ s.od .portState i = 0 then (if (s.port i).perst then 1 else 2)
      else s.od .portState i := by
  obtain ⟨st, cs, ps, keep⟩ := s.toState_od p 1 0 0 hp (by decide) (by decide) (by decide)
  have kp := (s.toState p 1 0 0).keepsOd_pavPortsOn p
  have kc := ((s.toState p 1 0 0).pavPortsOn p).keepsOd_pavChannels p 2
  have h : ∀ e i, (s.startPav p).od e i = (((s.toState p 1 0 0).pavPortsOn p).pavChannels p 2).od e i := fun e i => by
    unfold Part.startPav
    rw [Part.askCompile_od, Part.reloadKeys_od]
  refine ⟨?_, ?_, ?_, fun c => ?_, fun i => ?_⟩
  · rw [h, kc.od_eq (by decide), kp.od_eq (by decide), st p hp, if_pos rfl]
  · rw [h, kc.od_eq (by decide), kp.od_eq (by decide), cs]
  · rw [h, kc.od_eq (by decide), kp.od_eq (by decide), ps]
  · rw [h, Part.pavChannels_od _ p 2 (by decide) hp c, kp.od_eq (by decide), keep.od_eq (by decide)]
  · rw [h, kc.od_eq (by decide), Part.pavPortsOn_od _ p hp, keep.od_eq (by decide)]
    rfl

/-- What RETIRE does to the pavilion itself: RETIRING by the operator, the placement map as it was. -/
theorem Part.retirePav_od (s : Part) (p : Nat) (hp : p < 8) :
    (∀ r < 8, (s.retirePav p).od .pavilionState r = if r = p then 3 else s.od .pavilionState r) ∧ (s.retirePav p).od .pavilionCause p = 1 ∧
    (s.retirePav p).vint = s.vint := by
  obtain ⟨st, cs, -, -⟩ := s.toState_od p 3 1 0 hp (by decide) (by decide) (by decide)
  have kp := (s.toState p 3 1 0).keepsOd_pavPortsOn p
  have kc := ((s.toState p 3 1 0).pavPortsOn p).keepsOd_pavChannels p 2
  unfold Part.retirePav
  split
  · refine ⟨fun r hr => ?_, ?_, ?_⟩
    · rw [kc.od_eq (by decide), kp.od_eq (by decide), st r hr]
    · rw [kc.od_eq (by decide), kp.od_eq (by decide), cs]
    · have op : Part.only [.dict] (s.toState p 3 1 0) ((s.toState p 3 1 0).pavPortsOn p) :=
        Part.only_iter (fun s _ => Part.only_ite (s.only_setOd _ _ _) (Part.only_refl _ _)) _ _
      have oc : Part.only [.dict] ((s.toState p 3 1 0).pavPortsOn p) (((s.toState p 3 1 0).pavPortsOn p).pavChannels p 2) :=
        Part.only_iter (fun s _ => Part.only_ite (Part.only_refl _ _) (s.only_setOd _ _ _)) _ _
      exact (Part.only_trans op oc) .vint (by decide)
  · exact ⟨st, cs, rfl⟩

/-- What RETIRE leaves of a pavilion that homes a region: it stays RETIRING. -/
theorem Part.retired_od (s : Part) (p : Nat) (hp : p < 8) (hs : s.vint.inForce.place.sorted = true)
    (hk : ∃ k, placeValid (s.vint.inForce.place.get 0 k) = true ∧ placeHome (s.vint.inForce.place.get 0 k) = p) :
    let q := (((s.retirePav p).loseMirrors p).askCompile 0).retireIfEmpty p
    (∀ r < 8, q.od .pavilionState r = if r = p then 3 else s.od .pavilionState r) ∧ q.od .pavilionCause p = 1 := by
  obtain ⟨st, cs, hv⟩ := s.retirePav_od p hp
  have hl : FailFrame (s.retirePav p) ((s.retirePav p).loseMirrors p) := .loseMirrors _ p
  have homes : (s.retirePav p).sameHomes ((s.retirePav p).loseMirrors p) := Part.loseMirrors_homes _ p hp (by rw [hv]; exact hs)
  obtain ⟨k, kv, kh⟩ := hk
  have hne : (((s.retirePav p).loseMirrors p).askCompile 0).regionsHomed p ≠ [] := by
    refine Part.regionsHomed_ne (k := k) ?_ ?_
    · rw [Part.askCompile_inForce, (homes k).1, hv, kv]
    · rw [Part.askCompile_inForce, (homes k).2, hv, kh]
  intro q
  have e : q = ((s.retirePav p).loseMirrors p).askCompile 0 := by
    unfold q Part.retireIfEmpty
    rw [if_pos (by simpa using hne)]
  rw [e]
  refine ⟨fun r hr => ?_, ?_⟩
  · rw [Part.askCompile_od, hl.od.od_eq (by decide), st r hr]
  · rw [Part.askCompile_od, hl.od.od_eq (by decide), cs]

/-- An answer is among what is sent. -/
theorem Part.mem_emit (s : Part) (o : Output) : o ∈ (s.emit o).out := List.mem_append_right _ (List.mem_singleton_self o)

/-- Settles O48: each command by what its effects leave. -/
theorem pavilionCommands : Obligations.PavilionCommands := by
  intro s w p hw
  refine ⟨fun h1 h0 hr hb hn => ?_, fun h2 => ?_, fun h12 h0 h3 hn hs hk => ?_, fun h4 hv => ?_, fun c hc hst => ?_⟩
  · have run : exec (.pavilionStop w p) s = .next (s.withPart ((s.part.stopPav p).emit (.answer w rOk []))) := by
      rw [exec_pavilionStop, execPavilionStop, State.run_eq, Part.pavilionCommand_stop hw h1 h0 hr hb, Reply.answer_ok]
    obtain ⟨st, cs, ch⟩ := s.part.stopPav_od p p.isLt hn
    generalize s.part.stopPav p = q at run st cs ch
    exact ⟨_, run, (st p p.isLt).trans (if_pos rfl), cs, ch, fun r hne => (st r r.isLt).trans (if_neg fun e => hne (Fin.ext e)), q.mem_emit _⟩
  · have run : exec (.pavilionStart w p) s = .next (s.withPart ((s.part.startPav p).emit (.answer w rOk []))) := by
      rw [exec_pavilionStart, execPavilionStart, State.run_eq, Part.pavilionCommand_start hw h2, Reply.answer_ok]
    obtain ⟨st, cs, ps, ch, po⟩ := s.part.startPav_od p p.isLt
    generalize s.part.startPav p = q at run st cs ps ch po
    exact ⟨_, run, st, cs, ps, ch, po, q.mem_emit _⟩
  · have run : exec (.pavilionRetire w p) s =
        .next (s.withPart (((((s.part.retirePav p).loseMirrors p).askCompile 0).retireIfEmpty p).emit (.answer w rOk []))) := by
      rw [exec_pavilionRetire, execPavilionRetire, State.run_eq,
        Part.pavilionCommand_retire hw h12 h0 (fun q hq => h3 ⟨q, List.mem_range.mp hq⟩) hn, Reply.answer_ok]
    obtain ⟨st, cs⟩ := s.part.retired_od p p.isLt hs hk
    generalize (((s.part.retirePav p).loseMirrors p).askCompile 0).retireIfEmpty p = q at run st cs
    exact ⟨_, run, (st p p.isLt).trans (if_pos rfl), cs, fun r hne => (st r r.isLt).trans (if_neg fun e => hne (Fin.ext e)), q.mem_emit _⟩
  · rw [exec_pavilionReturn, execPavilionReturn, State.run_eq, Part.pavilionCommand_return hw h4 hv, Reply.answer_ok]
  · simp only [List.mem_cons, List.not_mem_nil, or_false] at hc
    rcases hc with rfl | rfl | rfl
    · rw [exec_pavilionStop, execPavilionStop, State.run_eq, Part.pavilionCommand_wrongState hw (by simp) hst, Reply.answer_refuse]
    · rw [exec_pavilionStart, execPavilionStart, State.run_eq, Part.pavilionCommand_wrongState hw (by simp) hst, Reply.answer_refuse]
    · rw [exec_pavilionRetire, execPavilionRetire, State.run_eq, Part.pavilionCommand_wrongState hw (by simp) hst, Reply.answer_refuse]

end Sys2Proof.Machine
end

section
/-!
O49: faults of pavilions, links and branches, and what is lost with them (spec/01 R24, R26, spec/08 R327, R334, spec/13 R499, R507, spec/14 R528,
R539, R541).
-/

namespace Sys2Proof.Machine

/-- With no frame held nothing is settled. -/
theorem Part.settleHeld_none {s : Part} (h : s.gate.held = []) : s.settleHeld = s := by
  unfold Part.settleHeld
  simp [h]

/-! ## A pavilion fails -/

/-- What the failure of a pavilion comes to. -/
theorem Part.failPavilion_spec {s : Part} {p cause : Nat} (hp : p < 8) (hc : cause < 256) (h4 : s.pstate p < 4) (hr : s.rest.step = none) :
    Part.keepsOd lossEntries s (s.failPavilion p cause) ∧ (s.failPavilion p cause).gate.held = s.gate.held ∧
    ((s.failPavilion p cause).od .pavilionState p = 5 ∨ p ≠ 0 ∧ (s.failPavilion p cause).od .pavilionState p = 4) ∧
    (s.failPavilion p cause).od .pavilionCause p = cause ∧
    (∀ n : Link, (linkEnds n).1 = p ∨ (linkEnds n).2 = p → (s.failPavilion p cause).od .linkState n = 5) ∧
    (p ≠ 0 → ∀ b : Branch, b.val / 2 = p → (s.failPavilion p cause).dark b) := by
  unfold Part.failPavilion
  rw [if_neg (by omega)]
  by_cases h0 : p = 0
  · subst h0
    rw [if_pos rfl]
    obtain ⟨keep, held, -, -, st, cs, links⟩ := s.failZero_spec cause hc
    exact ⟨Part.keepsOd_mono keep (by decide), held, .inl st, cs, links, fun h => absurd rfl h⟩
  · rw [if_neg h0]
    obtain ⟨frame, lost⟩ := s.failOther_spec p cause hp hc hr
    exact ⟨frame.od, frame.held, lost.state.imp id fun h => ⟨h0, h⟩, lost.cause, lost.links, fun _ => lost.dark⟩

/-- The loss of pavilion 0 leaves every entry but those of the management link, of branches and around the ports. -/
theorem Part.losePavilion0_keeps (s : Part) :
    Part.keepsOd (.mgmtLinkState :: darkEntries) s s.losePavilion0 ∧ s.losePavilion0.gate.held = s.gate.held := by
  by_cases h : s.boot.pav0Lost = true
  · unfold Part.losePavilion0
    rw [if_pos h]
    exact ⟨Part.keepsOd_refl _ _, rfl⟩
  · obtain ⟨keep, -, -, held, -⟩ := s.losePavilion0_spec (by simpa using h)
    exact ⟨keep, held⟩

/-- A pavilion whose root PLL loses its lock fails like one with a fault. -/
theorem Part.pllLost_spec {s : Part} {p : Nat} (hp : p < 8) (h4 : s.pstate p < 4) (hr : s.rest.step = none) (hi : s.rest.inRest = false)
    (hl : s.od .pllLocked p ≠ 0) :
    (s.pllLost p).gate.held = s.gate.held ∧ ((s.pllLost p).od .pavilionState p = 5 ∨ p ≠ 0 ∧ (s.pllLost p).od .pavilionState p = 4) ∧
    (s.pllLost p).od .pavilionCause p = 3 ∧ (∀ n : Link, (linkEnds n).1 = p ∨ (linkEnds n).2 = p → (s.pllLost p).od .linkState n = 5) ∧
    (p ≠ 0 → ∀ b : Branch, b.val / 2 = p → (s.pllLost p).dark b) ∧ (s.pllLost p).od .pllLocked p = 0 := by
  unfold Part.pllLost
  rw [if_neg (by simp [hi, hl])]
  generalize ea : (s.setOd .pllLocked p 0).count .pllLockLosses p = a
  have h4a : a.pstate p < 4 := by
    rw [← ea]
    exact lt_of_eq_of_lt (Part.od_setOd_ne s (e := .pllLocked) (f := .pavilionState) p p 0 (by decide)) h4
  have hla : a.od .pllLocked p = 0 := ea ▸ Part.od_setOd_val s .pllLocked p 0 (by decide)
  have hra : a.rest.step = none := ea ▸ hr
  have hga : a.gate.held = s.gate.held := ea ▸ rfl
  obtain ⟨keep, held, st, cs, links, dark⟩ := Part.failPavilion_spec hp (show 3 < 256 by decide) h4a hra
  generalize a.failPavilion p 3 = b at keep held st cs links dark
  have hlb : b.od .pllLocked p = 0 := by rw [keep.od_eq (by decide), hla]
  dsimp only
  split
  · next h0 =>
    obtain ⟨k0, g0⟩ := b.losePavilion0_keeps
    refine ⟨g0.trans (held.trans hga), ?_, ?_, fun n hn => ?_, fun h => absurd h0 h, ?_⟩
    · rw [k0.od_eq (by decide)]; exact st
    · rw [k0.od_eq (by decide)]; exact cs
    · rw [k0.od_eq (by decide)]; exact links n hn
    · rw [k0.od_eq (by decide)]; exact hlb
  · exact ⟨held.trans hga, st, cs, links, dark, hlb⟩

/-! ## A link fails -/

/-- Which pavilions have no path depends on the states of pavilions and links only. -/
theorem Part.pathless_congr {a b : Part} (hp : ∀ p, b.od .pavilionState p = a.od .pavilionState p)
    (hl : ∀ n, b.od .linkState n = a.od .linkState n) : b.pathless = a.pathless := by
  have hc : b.carries = a.carries := by
    funext c
    unfold Part.carries Part.pstate
    rw [hp]
  have hh : b.pathPossible = a.pathPossible := by
    funext x y
    unfold Part.pathPossible Part.linkGone
    simp only [hl, hc]
  unfold Part.pathless
  rw [hc, hh]

/-- Where no pavilion is without a path none is taken out. -/
theorem Part.losePathless_none {s : Part} (h : s.pathless = []) (fuel n : Nat) : s.losePathless fuel n = s := by
  cases fuel with
  | zero => rfl
  | succ k => rw [Part.losePathless, h]

/-- A link that trains is neither FAILED nor idle. -/
theorem training_state {st : Nat} (h : st ∈ [1, 3]) : ¬ st = 4 ∧ ¬ (st != 1 && st != 3) = true := by
  rcases List.mem_pair.mp h with rfl | rfl <;> decide

/-- An attempt that leaves another one is counted. -/
theorem Part.trainingFails_again {s : Part} {n : Nat} (hs : s.od .linkState n ∈ [1, 3]) (ha : (s.link n).attempts + 1 < s.od .linkRetrainAttempts n) :
    s.trainingFails n = s.onLink n fun l => { l with attempts := (s.link n).attempts + 1, trainings := (l.trainings + 1) % 65536 } := by
  obtain ⟨h4, h13⟩ := training_state hs
  unfold Part.trainingFails
  dsimp only
  rw [if_neg h4, if_neg h13, if_pos ha]

/-- The last attempt makes the link FAILED; where every pavilion keeps a path nothing else of a pavilion or a link changes. -/
theorem Part.trainingFails_last {s : Part} {n : Nat} (hn : n < 28) (hs : s.od .linkState n ∈ [1, 3])
    (ha : s.od .linkRetrainAttempts n ≤ (s.link n).attempts + 1) (hp : (s.setOd .linkState n 4).pathless = []) :
    (s.trainingFails n).gate.held = s.gate.held ∧ ∀ m : Link, (s.trainingFails n).od .linkState m = if m.val = n then 4 else s.od .linkState m := by
  obtain ⟨h4, h13⟩ := training_state hs
  unfold Part.trainingFails
  dsimp only
  rw [if_neg h4, if_neg h13, if_neg (by omega)]
  generalize ea : (s.onLink n fun l => { l with attempts := 0 }).setOd .linkState n 4 = a
  have hod : ∀ e i, a.od e i = (s.setOd .linkState n 4).od e i := fun e i => by rw [← ea]; rfl
  generalize eb : ((a.logEv 0x1103 n 0).chooseDetours).linkNotices n = b
  have hb : FailFrame a b := eb ▸ ((FailFrame.log a _ _ _ _ _).trans (.chooseDetours _)).trans (.of_only (Part.only_linkNotices _ _) (by decide))
  have hpath : b.pathless = [] := by
    rw [Part.pathless_congr (a := s.setOd .linkState n 4) (fun p => ?_) fun m => ?_, hp]
    · rw [hb.od.od_eq (by decide), hod]
    · rw [hb.od.od_eq (by decide), hod]
  rw [Part.losePathless_none hpath]
  refine ⟨hb.held.trans (ea ▸ rfl), fun m => ?_⟩
  rw [hb.od.od_eq (by decide), hod]
  by_cases h : m.val = n
  · rw [if_pos h, h]
    exact Part.od_setOd_val _ _ _ _ (by decide)
  · rw [if_neg h]
    exact Part.od_setOd_other _ _ (by omega) (by omega) fun q => h q.2.symm

/-! ## A branch trips -/

/-- With no branch waiting none begins its ramp. -/
theorem Part.nextRamp_none {s : Part} (h : s.power.branchQ = []) : s.nextRamp = s := by
  unfold Part.nextRamp
  rw [h]
  split <;> rfl

theorem Part.stageEnd_keeps (s : Part) (k next : Nat) : Part.only [.dict] s (s.stageEnd k next) ∧
    Part.keepsOd [.bootStageTimes, .bootState] s (s.stageEnd k next) :=
  ⟨Part.only_trans (s.only_setOd _ _ _) (Part.only_setOd _ _ _ _),
    Part.keepsOd_trans (Part.keepsOd_setAny s _ _ (by decide)) (Part.keepsOd_setAny _ _ _ (by decide))⟩

/-- The boot's progress changes the stage and its times only. -/
theorem Part.bootProgress_keeps (s : Part) : Part.only [.dict] s s.bootProgress ∧ Part.keepsOd [.bootStageTimes, .bootState] s s.bootProgress := by
  have step : ∀ (t : Part) (c : Prop) [Decidable c] (k n : Nat),
      Part.only [.dict] s t ∧ Part.keepsOd [.bootStageTimes, .bootState] s t →
      Part.only [.dict] s (if c then t.stageEnd k n else t) ∧ Part.keepsOd [.bootStageTimes, .bootState] s (if c then t.stageEnd k n else t) := by
    intro t c _ k n h
    split
    · exact ⟨Part.only_trans h.1 (t.stageEnd_keeps k n).1, Part.keepsOd_trans h.2 (t.stageEnd_keeps k n).2⟩
    · exact h
  unfold Part.bootProgress
  dsimp only
  exact step _ _ _ _ (step _ _ _ _ (step _ _ _ _ (step _ _ _ _ ⟨Part.only_refl _ _, Part.keepsOd_refl _ _⟩)))

/-- A trip as it is noted: the driver regulates no more, the trip is counted and logged with its cause. -/
def Part.tripNoted (s : Part) (b cause : Nat) : Part :=
  ((({ s with power := { s.power with limiting := s.power.limiting.filter (· != b + 1) } } : Part).modOd .branchTrips b (· + 1)).setOd
    .branchLastTrip b cause).logEv 0x1710 b cause none (b / 2)

theorem Part.tripNoted_spec (s : Part) (b cause : Nat) (hc : cause < 256) :
    Part.keepsOd [.branchTrips, .branchLastTrip, .ringState] s (s.tripNoted b cause) ∧
    (s.tripNoted b cause).od .branchTrips b = (s.od .branchTrips b + 1) % 2 ^ 32 ∧ (s.tripNoted b cause).od .branchLastTrip b = cause ∧
    (s.tripNoted b cause).gate.held = s.gate.held ∧ (s.tripNoted b cause).rest = s.rest ∧
    (s.tripNoted b cause).power = { s.power with limiting := s.power.limiting.filter (· != b + 1) } := by
  unfold Part.tripNoted
  generalize ea : ({ s with power := { s.power with limiting := s.power.limiting.filter (· != b + 1) } } : Part) = a
  have hod : ∀ e i, a.od e i = s.od e i := fun e i => by rw [← ea]; rfl
  have hlog := LogFrame.logEv ((a.modOd .branchTrips b (· + 1)).setOd .branchLastTrip b cause) 0x1710 b cause none (b / 2)
  have klog : Part.keepsOd [.ringState] ((a.modOd .branchTrips b (· + 1)).setOd .branchLastTrip b cause) _ :=
    Part.keepsOd_logEv _ 0x1710 b cause none (b / 2)
  refine ⟨fun e i he hi => ?_, ?_, ?_, hlog.held.trans (ea ▸ rfl), ?_, ?_⟩
  · simp only [List.mem_cons, List.not_mem_nil, or_false, not_or] at he
    rw [klog.od_eq (by simpa using he.2.2), Part.od_setOd_ne _ _ _ _ (Ne.symm he.2.1), Part.modOd_eq, Part.od_setOd_ne _ _ _ _ (Ne.symm he.1), hod]
  · rw [klog.od_eq (by decide), Part.od_setOd_ne _ _ _ _ (by decide), Part.modOd_eq, Part.od_setOd_self, hod]
    rfl
  · rw [klog.od_eq (by decide)]
    exact Part.od_setOd_val _ _ _ _ hc
  · rw [Part.logEv_rest, ← ea]
    rfl
  · rw [Part.logEv_power, ← ea]
    rfl

/-- The end of a trip that does not take pavilion 0, with no branch waiting to ramp. -/
theorem Part.branchTrip_end {s t : Part} {b cause : Nat} (ht : (s.tripNoted b cause).tripFollows b = t) (h0 : b / 2 = 0 → t.pstate 0 ≠ 5)
    (hq : t.power.branchQ = []) : s.branchTrip b cause = t.bootProgress := by
  have e : s.branchTrip b cause =
      (if b / 2 = 0 && t.pstate 0 = 5 then t.losePavilion0 else t).nextRamp.bootProgress := by
    rw [← ht]
    rfl
  rw [e, if_neg (by simpa using h0), Part.nextRamp_none hq]

/-- What a trip leaves: the count, the cause, no frame handled. -/
structure Tripped (s q : Part) (b cause state : Nat) : Prop where
  state : q.od .branchState b = state
  last : q.od .branchLastTrip b = cause
  trips : q.od .branchTrips b = (s.od .branchTrips b + 1) % 2 ^ 32
  held : q.gate.held = s.gate.held

/-- A trip while the pavilion is STARTING waits to ramp again within its retries. -/
theorem Part.branchTrip_starting {s : Part} {b cause : Nat} (hc : cause < 256) (h0 : s.pstate (b / 2) = 0)
    (hn : s.power.branchTrips.get 0 b + 1 ≤ s.od .branchRetries b) (hq : s.power.branchQ = []) :
    Tripped s (s.branchTrip b cause) b cause 3 ∧ (s.branchTrip b cause).power.branchTrips.get 0 b = s.power.branchTrips.get 0 b + 1 := by
  obtain ⟨keep, trips, last, held, -, power⟩ := s.tripNoted_spec b cause hc
  generalize ea : s.tripNoted b cause = a at keep trips last held power
  have hp : ∀ p, a.pstate p = s.pstate p := fun p => keep.od_eq (by decide) p
  have hb : a.power.branchTrips = s.power.branchTrips := by rw [power]
  generalize et : (({ a with power := { a.power with branchTrips := a.power.branchTrips.put b (a.power.branchTrips.get 0 b + 1) } } : Part).setOd
    .branchState b 3) = t
  have ht : (s.tripNoted b cause).tripFollows b = t := by
    rw [ea, ← et, Part.tripFollows, if_pos (by rw [hp, h0]), Part.tripStarting]
    exact if_neg (by
      show ¬ a.od .branchRetries b < a.power.branchTrips.get 0 b + 1
      rw [keep.od_eq (by decide), hb]
      omega)
  have hte : ∀ e i, e ≠ .branchState → t.od e i = a.od e i := fun e i he => by
    rw [← et]
    exact Part.od_setOd_ne _ _ _ _ (Ne.symm he)
  have htp : t.pstate 0 = s.pstate 0 := (hte _ _ (by decide)).trans (hp 0)
  rw [Part.branchTrip_end ht (fun h => by rw [htp, ← h, h0]; decide) (by rw [← et]; show a.power.branchQ = []; rw [power]; exact hq)]
  obtain ⟨only, k⟩ := t.bootProgress_keeps
  refine ⟨⟨?_, ?_, ?_, ?_⟩, ?_⟩
  · rw [k.od_eq (by decide), ← et]
    exact Part.od_setOd_val _ _ _ _ (by decide)
  · rw [k.od_eq (by decide), hte _ _ (by decide), last]
  · rw [k.od_eq (by decide), hte _ _ (by decide), trips]
  · rw [show t.bootProgress.gate = t.gate from only .gate (by decide), ← et]
    exact held
  · rw [show t.bootProgress.power = t.power from only .power (by decide), ← et]
    show Sparse.get 0 (a.power.branchTrips.put b (a.power.branchTrips.get 0 b + 1)) b = _
    rw [Sparse.get_put, if_pos rfl, hb]

/-- A trip while the pavilion, other than 0, serves or is STOPPED: the branch is TRIPPED and the pavilion fails. -/
theorem Part.branchTrip_serving {s : Part} {b cause : Nat} (hb : b < 16) (hc : cause < 256) (h1 : s.pstate (b / 2) ∈ [1, 2, 3]) (h0 : b / 2 ≠ 0)
    (hr : s.rest.step = none) (hi : s.rest.inRest = false) (hq : s.power.branchQ = []) :
    Tripped s (s.branchTrip b cause) b cause 4 ∧ (s.branchTrip b cause).od .pavilionCause (b / 2) = 3 ∧
    ((s.branchTrip b cause).od .pavilionState (b / 2) = 5 ∨ (s.branchTrip b cause).od .pavilionState (b / 2) = 4) := by
  obtain ⟨keep, trips, last, held, rest, power⟩ := s.tripNoted_spec b cause hc
  generalize ea : s.tripNoted b cause = a at keep trips last held rest power
  have hp : a.pstate (b / 2) = s.pstate (b / 2) := keep.od_eq (by decide) _
  have h123 : s.pstate (b / 2) = 1 ∨ s.pstate (b / 2) = 2 ∨ s.pstate (b / 2) = 3 := by simpa using h1
  generalize ex : a.setOd .branchState b 4 = x
  have hxe : ∀ e i, e ≠ .branchState → x.od e i = a.od e i := fun e i he => by
    rw [← ex]
    exact Part.od_setOd_ne _ _ _ _ (Ne.symm he)
  have hx4 : x.od .branchState b = 4 := ex ▸ Part.od_setOd_val a .branchState b 4 (by decide)
  obtain ⟨frame, lost⟩ := x.failOther_spec (b / 2) 3 (by omega) (by decide) (by rw [← ex]; exact (congrArg RestState.step rest).trans hr)
  generalize et : x.failOther (b / 2) 3 = t at frame lost
  have ht : (s.tripNoted b cause).tripFollows b = t := by
    have hpx : x.pstate (b / 2) = s.pstate (b / 2) := (hxe _ _ (by decide)).trans hp
    rw [ea, Part.tripFollows, if_neg (by rw [hp]; omega), if_neg (by rw [rest, hi]; decide), ex, Part.failPavilion, if_neg (by omega), if_neg h0, et]
  rw [Part.branchTrip_end ht (fun h => absurd h h0) (frame.queue (by rw [← ex]; show a.power.branchQ = []; rw [power]; exact hq))]
  obtain ⟨only, k⟩ := t.bootProgress_keeps
  refine ⟨⟨?_, ?_, ?_, ?_⟩, ?_, ?_⟩
  · rw [k.od_eq (by decide)]
    exact frame.trip ⟨b, hb⟩ hx4
  · rw [k.od_eq (by decide), frame.od.od_eq (by decide), hxe _ _ (by decide), last]
  · rw [k.od_eq (by decide), frame.od.od_eq (by decide), hxe _ _ (by decide), trips]
  · rw [show t.bootProgress.gate = t.gate from only .gate (by decide), frame.held, ← ex]
    exact held
  · rw [k.od_eq (by decide)]
    exact lost.cause
  · rw [k.od_eq (by decide)]
    exact lost.state

/-! ## The agents of an entry to REST -/

/-- The agents of a step that have not agreed yet, in the order they are asked. -/
def Part.toAsk (s : Part) (step : Nat) : List Nat := (restAgents step).filter fun a => !(s.rest.agreed.any fun b => b % 0x10000 == a)

/-- In the second step, where none has agreed yet, the gatehouse is asked, then the power input. -/
theorem Part.toAsk_second {s : Part} (h : s.rest.agreed = []) : s.toAsk 2 = [0x0100, 0x0700] := by
  unfold Part.toAsk
  rw [h]
  rfl

/-- A step that has asked every agent is passed. -/
theorem Part.askAgent_all {s : Part} {step : Nat} (h : s.toAsk step = []) : s.askAgent step = s.stepPassed step := by
  unfold Part.askAgent
  dsimp only
  rw [show List.filter _ (restAgents step) = [] from h]

/-- The next agent refuses with its reason. -/
theorem Part.askAgent_refuses {s : Part} {step a : Nat} {l : List Nat} (h : s.toAsk step = a :: l) (hr : s.agentRefuses a ≠ 0) :
    s.askAgent step = s.restRefuse a (s.agentRefuses a) := by
  unfold Part.askAgent
  dsimp only
  rw [show List.filter _ (restAgents step) = a :: l from h]
  exact if_pos (by simpa using hr)

/-- The next agent agrees; after the last one the step is passed. -/
theorem Part.askAgent_agrees {s : Part} {step a : Nat} {l : List Nat} (h : s.toAsk step = a :: l) (hr : s.agentRefuses a = 0)
    (hw : s.agentWaits a = false) :
    s.askAgent step =
      (let t : Part := { s.agentParks a with rest := { (s.agentParks a).rest with agreed := s.agreedAs a :: (s.agentParks a).rest.agreed } }
       if l.isEmpty then t.stepPassed step else t) := by
  unfold Part.askAgent
  dsimp only
  rw [show List.filter _ (restAgents step) = a :: l from h]
  simp only [hr, hw]
  rfl

/-- The gatehouse agrees where nothing makes it refuse. -/
theorem Part.askAgent_gatehouse {s : Part} (h : s.rest.agreed = []) (hr : s.gateRefuses = 0) :
    s.askAgent 2 = { s with rest := { s.rest with agreed := [0x0100] } } := by
  have hp : s.agentParks 0x0100 = s := rfl
  have hb : s.agreedAs 0x0100 = 0x0100 := rfl
  rw [Part.askAgent_agrees (Part.toAsk_second h) hr rfl, hp, hb, h]
  exact if_neg (by decide)

/-- The gatehouse refuses with its reason. -/
theorem Part.askAgent_gatehouse_refuses {s : Part} (h : s.rest.agreed = []) (hr : s.gateRefuses ≠ 0) :
    s.askAgent 2 = s.restRefuse 0x0100 s.gateRefuses := by
  have e : s.agentRefuses 0x0100 = s.gateRefuses := rfl
  rw [Part.askAgent_refuses (Part.toAsk_second h) (by rwa [e]), e]

/-- An attempt in which none has agreed ends with the agent that refuses and its reason. -/
theorem Part.restRefuse_spec {s : Part} (code reason : Nat) (h : s.rest.agreed = []) (hc : code < 2 ^ 16) (hr : reason < 256) :
    (s.restRefuse code reason).rest.step = none ∧ (s.restRefuse code reason).rest.agreed = [] ∧
    (s.restRefuse code reason).od .restLastRefuser 0 = code ∧ (s.restRefuse code reason).od .restLastRefusalReason 0 = reason ∧
    (s.restRefuse code reason).gate.held = s.gate.held := by
  unfold Part.restRefuse
  extract_lets kind a b c
  have hb : b.rest = s.rest := rfl
  have hc' : c = { b with rest := { b.rest with step := none, agreed := [], wake := none } } := by
    unfold c Part.restRestart
    rw [show b.rest.agreed = [] from h]
    rfl
  have hod : ∀ e, e ≠ .ringState → e ≠ .packagePowerState →
      ((c.setOd .packagePowerState 0 c.packageNow).logEv 0x1602 code reason).od e 0 = b.od e 0 := fun e h1 h2 => by
    rw [Part.logEv_od _ _ _ _ _ _ h1 (by decide), Part.od_setOd_ne _ _ _ _ (Ne.symm h2), hc']
    rfl
  refine ⟨?_, ?_, ?_, ?_, ?_⟩
  · rw [Part.logEv_rest, Part.setOd_rest, hc']
  · rw [Part.logEv_rest, Part.setOd_rest, hc']
  · rw [hod _ (by decide) (by decide)]
    exact (Part.od_setOd_ne _ _ _ _ (by decide)).trans (Part.od_setOd_val _ _ _ _ hc)
  · rw [hod _ (by decide) (by decide)]
    exact Part.od_setOd_val _ _ _ _ hr
  · rw [(LogFrame.logEv _ _ _ _ _ _).held, hc']
    rfl

/-- Entering REST: the core supply is off and no frame is held. -/
theorem Part.enterRest_spec (s : Part) : s.enterRest.rest.inRest = true ∧ s.enterRest.rest.step = none ∧
    s.enterRest.od .packagePowerState 0 = 3 ∧ s.enterRest.power.coreEn = false ∧ s.enterRest.power.corePG = false ∧ s.enterRest.gate.held = [] := by
  unfold Part.enterRest
  extract_lets first a n b g w r c d
  have ha : a.power.coreEn = false := congrArg PowerState.coreEn (Part.setCoreEn_power _ false)
  have hb : b.power = a.power := by
    unfold b
    split <;> rfl
  have hd : d.rest = c.rest ∧ d.power = c.power ∧ d.gate = c.gate := by
    unfold d
    split <;> exact ⟨rfl, rfl, rfl⟩
  obtain ⟨h1, h2, h3⟩ := hd
  refine ⟨?_, ?_, ?_, ?_, ?_, ?_⟩
  · rw [Part.logEv_rest, Part.setOd_rest, h1]
  · rw [Part.logEv_rest, Part.setOd_rest, h1]
  · rw [Part.logEv_od _ _ _ _ _ _ (by decide) (by decide)]
    exact Part.od_setOd_val _ _ _ _ (by decide)
  · rw [Part.logEv_power, Part.setOd_power, h2]
    exact (congrArg PowerState.coreEn hb).trans ha
  · rw [Part.logEv_power, Part.setOd_power, h2]
  · rw [(LogFrame.logEv _ _ _ _ _ _).held, Part.setOd_gate, h3]

/-- The abort point after a step is passed without a wake: the next step is asked. -/
theorem Part.stepPassed_next {s : Part} {step : Nat} (hw : s.rest.wake = none) (h7 : step ≠ 7) :
    s.stepPassed step = { s with rest := { s.rest with step := some (step + 1) } } := by
  unfold Part.stepPassed
  rw [hw]
  cases restPoint step with
  | none => exact if_neg h7
  | some k => exact if_neg h7

/-- After the last abort point without a wake the part enters REST. -/
theorem Part.stepPassed_last {s : Part} (hw : s.rest.wake = none) : s.stepPassed 7 = s.enterRest := by
  unfold Part.stepPassed
  rw [hw]
  exact if_pos rfl

/-- Where only pavilion 0 is left to ask in the last step, it agrees and the part is in REST. -/
theorem Part.askAgent_last {s : Part} (h : s.toAsk 7 = [0x0600]) (hw : s.rest.wake = none) : ∃ t : Part, s.askAgent 7 = t.enterRest := by
  have hk : s.agentParks 0x0600 = if 4 ≤ s.pstate 0 then s else (s.setOd .pavilionPowerState 0 3).setOd .pllLocked 0 0 := rfl
  have hp : (s.agentParks 0x0600).rest = s.rest := by
    rw [hk]
    split <;> rfl
  rw [Part.askAgent_agrees h rfl rfl]
  exact ⟨_, Part.stepPassed_last ((congrArg RestState.wake hp).trans hw)⟩

/-- The pavilions other than 0 have agreed: pavilion 0 is left. -/
theorem Part.toAsk_last {s : Part} (h1 : ∀ k < 7, 0x0601 + k ∈ s.rest.agreed.map (· % 0x10000)) (h0 : ¬ 0x0600 ∈ s.rest.agreed.map (· % 0x10000)) :
    s.toAsk 7 = [0x0600] := by
  have mem : ∀ a, (s.rest.agreed.any fun b => b % 0x10000 == a) = decide (a ∈ s.rest.agreed.map (· % 0x10000)) := fun a => by
    rw [Bool.eq_iff_iff]
    simp
  have all : restAgents 7 = [0x0601 + 6, 0x0601 + 5, 0x0601 + 4, 0x0601 + 3, 0x0601 + 2, 0x0601 + 1, 0x0601 + 0, 0x0600] := rfl
  unfold Part.toAsk
  rw [all]
  simp only [mem, List.filter_cons, List.filter_nil, decide_eq_true (h1 _ (show 0 < 7 by decide)), decide_eq_true (h1 _ (show 1 < 7 by decide)),
    decide_eq_true (h1 _ (show 2 < 7 by decide)), decide_eq_true (h1 _ (show 3 < 7 by decide)), decide_eq_true (h1 _ (show 4 < 7 by decide)),
    decide_eq_true (h1 _ (show 5 < 7 by decide)), decide_eq_true (h1 _ (show 6 < 7 by decide)), decide_eq_false h0]
  rfl

/-! ## The obligation -/

/-- The three trips of a branch act where its gate is driven. -/
theorem exec_branchTrip {s : State} {b : Branch} {c : Instr} {cause : Nat}
    (h : c = .branchRampTimeout b ∧ cause = 3 ∧ s.part.od .branchState b = 1 ∨
      c = .branchFastTrip b ∧ cause = 1 ∧ s.part.od .branchState b ∈ [1, 2] ∨
      c = .branchSoaTimerExpiry b ∧ cause = 2 ∧ s.part.od .branchState b ∈ [1, 2] ∧ b.val + 1 ∈ s.part.power.limiting) :
    cause < 256 ∧ exec c s = .next (s.withPart (s.part.branchTrip b cause).settleHeld) := by
  have driven : s.part.od .branchState b ∈ [1, 2] → s.part.branchDriven b = true := fun h => by
    unfold Part.branchDriven
    rcases List.mem_pair.mp h with h | h <;> rw [h] <;> rfl
  rcases h with ⟨rfl, rfl, h⟩ | ⟨rfl, rfl, h⟩ | ⟨rfl, rfl, h, hl⟩
  · exact ⟨by decide, by rw [exec_branchRampTimeout, execBranchRampTimeout, State.run_eq, if_pos h]⟩
  · exact ⟨by decide, by rw [exec_branchFastTrip, execBranchFastTrip, State.run_eq, if_pos (driven h)]⟩
  · exact ⟨by decide, by rw [exec_branchSoaTimerExpiry, execBranchSoaTimerExpiry, State.run_eq, if_pos (by simp [driven h, hl])]⟩

/-- What asking the next agent comes to, where no frame is held after it. -/
theorem exec_restAgentAgree_of {s : State} {k : Nat} {q : Part} (h : s.part.rest.step = some k) (hq : s.part.askAgent k = q)
    (hg : q.gate.held = []) : exec .restAgentAgree s = .next (s.withPart q) := by
  rw [exec_restAgentAgree, execRestAgentAgree, State.run_eq, Part.restAgree, h]
  dsimp only
  rw [hq, Part.settleHeld_none hg]

/-- Settles O49: each fault by what its effect leaves. -/
theorem faultsAndLoss : Obligations.FaultsAndLoss := by
  intro s
  refine ⟨fun h5 hl => ?_, fun hl => ⟨fun hi hb => ?_, ?_⟩, fun p h4 hr hg c hc => ?_, fun n hs hg => ⟨fun ha => ?_, fun ha hp => ?_⟩,
    fun b c cause hg hq hc => ⟨fun h0 hn => ?_, fun h1 h0 hr hi => ?_⟩, fun hg => ⟨fun h1 hw => ?_, fun h2 ha hr => ?_, fun h2 ha hr hlt => ?_,
      fun h7 hw hall h0 => ?_⟩⟩
  -- the heartbeat and its loss, the always-on clock
  · rw [exec_gatehouseHeartbeat, execGatehouseHeartbeat, State.run_eq, if_pos (by simp [Part.gateAlive, h5, hl])]
  · obtain ⟨-, mgmt, dark, -, boot⟩ := s.part.losePavilion0_spec hl
    exact ⟨s.part.losePavilion0, by rw [exec_heartbeatTimeout, execHeartbeatTimeout, State.run_eq, if_neg (by simp [hi, hb])],
      by rw [boot], mgmt, dark⟩
  · obtain ⟨keep, mgmt, dark, -, boot⟩ := (s.part.setOd .aonPllLocked 0 0).losePavilion0_spec hl
    refine ⟨(s.part.setOd .aonPllLocked 0 0).losePavilion0, by rw [exec_aonPllLockLoss, execAonPllLockLoss, State.run_eq], by rw [boot], ?_, mgmt, dark⟩
    rw [keep.od_eq (by decide)]
    exact Part.od_setOd_val _ _ _ _ (by decide)
  -- a fault of a pavilion, the loss of its root clock
  · rcases hc with rfl | ⟨rfl, hi, hpl⟩
    · obtain ⟨-, held, st, cs, links, dark⟩ := Part.failPavilion_spec p.isLt (show 3 < 256 by decide) h4 hr
      exact ⟨s.part.failPavilion p 3, by rw [exec_pavilionFault, execPavilionFault, State.run_eq, Part.settleHeld_none (held.trans hg)],
        st, cs, links, dark, fun h => by cases h⟩
    · obtain ⟨held, st, cs, links, dark, pll⟩ := Part.pllLost_spec p.isLt h4 hr hi hpl
      exact ⟨s.part.pllLost p, by rw [exec_rootPllLockLoss, execRootPllLockLoss, State.run_eq, Part.settleHeld_none (held.trans hg)],
        st, cs, links, dark, fun _ => pll⟩
  -- a training attempt that fails: one more, or the last
  · refine ⟨s.part.trainingFails n, ?_, ?_, ?_⟩
    · rw [exec_linkTrainingFail, execLinkTrainingFail, State.run_eq, Part.settleHeld_none (by rw [Part.trainingFails_again hs ha]; exact hg)]
    · rw [Part.trainingFails_again hs ha, Part.onLink_link_self]
    · rw [Part.trainingFails_again hs ha]
      exact Part.only_onLink _ _ _
  · obtain ⟨held, st⟩ := Part.trainingFails_last n.isLt hs ha hp
    exact ⟨s.part.trainingFails n, by rw [exec_linkTrainingFail, execLinkTrainingFail, State.run_eq, Part.settleHeld_none (held.trans hg)],
      (st n).trans (if_pos rfl), fun m hm => (st m).trans (if_neg fun e => hm (Fin.ext e))⟩
  -- a trip of a branch: while its pavilion is STARTING, and while it serves
  · obtain ⟨hcause, run⟩ := exec_branchTrip hc
    obtain ⟨⟨state, last, trips, held⟩, count⟩ := Part.branchTrip_starting hcause h0 hn hq
    exact ⟨s.part.branchTrip b cause, by rw [run, Part.settleHeld_none (held.trans hg)], state, last, trips, count⟩
  · obtain ⟨hcause, run⟩ := exec_branchTrip hc
    obtain ⟨⟨state, last, trips, held⟩, cs, st⟩ := Part.branchTrip_serving b.isLt hcause h1 h0 hr hi hq
    exact ⟨s.part.branchTrip b cause, by rw [run, Part.settleHeld_none (held.trans hg)], state, last, trips, cs, st⟩
  -- the agents of a REST entry: step 1, the gatehouse's two answers, the last agent
  · exact exec_restAgentAgree_of h1 ((Part.askAgent_all rfl).trans (Part.stepPassed_next hw (by decide))) hg
  · exact exec_restAgentAgree_of h2 (Part.askAgent_gatehouse ha hr) hg
  · obtain ⟨step, agreed, who, why, held⟩ := Part.restRefuse_spec 0x0100 s.part.gateRefuses ha (by decide) hlt
    exact ⟨_, exec_restAgentAgree_of h2 (Part.askAgent_gatehouse_refuses ha hr) (held.trans hg), step, agreed, who, why⟩
  · obtain ⟨t, e⟩ := Part.askAgent_last (Part.toAsk_last hall h0) hw
    obtain ⟨inRest, step, pkg, coreEn, corePG, held⟩ := t.enterRest_spec
    exact ⟨_, exec_restAgentAgree_of h7 e held, inRest, step, pkg, coreEn, corePG⟩

end Sys2Proof.Machine
end

section
/-!
O19: held writes are resent when their page has room again or their timer runs out (spec/02 R94 to R96).
-/

namespace Sys2Proof.Machine

/-- Taking a message leaves a shorter inbox and nothing else different. -/
theorem Part.takeMsg_inbox {s t : Part} {p op : Nat} {m : Msg} (h : s.takeMsg p op = some (m, t)) :
    ∃ l, t = s.onPav p fun v => { v with inbox := l } := by
  obtain ⟨q, -, e⟩ := Option.map_eq_some_iff.mp h
  exact ⟨q.2, (congrArg Prod.snd e).symm⟩

/-- The partitions after a request has been forwarded with marks: one marked entry more in its own, nothing else. -/
theorem Part.forward_marked_part {s : Part} {r : Req} {home : Nat} (mark : Fwd → Fwd) (st : Nat) (hh : s.homeOf r.slice r.lpage = some home)
    (hs : s.pstate home ≠ 5) : ∃ via, ∀ j k, (s.forward r st mark).part j k = if r.port = j ∧ r.slice = k then
      { s.part r.port r.slice with forwarded := (s.part r.port r.slice).forwarded ++
        [mark ⟨r, (s.pav (portPav r.port)).nextTag, home, via, false, false, false, false, 0⟩] } else s.part j k := by
  refine ⟨(s.newTag (portPav r.port)).2.viaOf r home, fun j k => ?_⟩
  unfold Part.forward
  simp only [hh, hs, if_false]
  rw [Part.part_of_keepsParts (Part.keepsParts_of_only (Part.only_sendVia _ _ _ _ _) (by decide)),
    Part.part_of_keepsParts (Part.keepsParts_of_only (Part.only_wakePav _ _) (by decide)), Part.part_onPart]
  rfl

/-- A held write as it is resent: with the stamp of the bank in force. -/
def Part.restamped (s : Part) (r : Req) : Req := { r with stamp := s.vint.bank }

/-- The partitions after the one held page of a partition is resent: the write keeps its place in the hold list and has an entry on its way. -/
theorem Part.resendHold_part {s : Part} {i sl lp home src n : Nat} {sent x : Bool} {r : Req} {more : List Req} (st : Nat) (hp : r.port = i)
    (hsl : r.slice = sl) (hlp : r.lpage = lp) (hh : s.homeOf sl lp = some home) (hs : s.pstate home ≠ 5)
    (hold : (s.part i sl).hold = [⟨lp, r :: more, src, sent, x, n⟩]) :
    ∃ via, ∀ j k, (s.resendHold i sl lp st).part j k = if i = j ∧ sl = k then
      { s.part i sl with
        hold := [⟨lp, s.restamped r :: more, src, true, x, n⟩]
        forwarded := (s.part i sl).forwarded ++
          [⟨s.restamped r, (s.pav (portPav i)).nextTag, home, via, false, false, false, true, 0⟩] } else s.part j k := by
  subst hp hsl hlp
  generalize ha : (s.onPart r.port r.slice fun q => { q with
    hold := q.hold.map fun g => if g.lpage == r.lpage then { g with sent := true, reqs := s.restamped r :: g.reqs.tail } else g }) = a
  have run : s.resendHold r.port r.slice r.lpage st = a.forward (s.restamped r) st fun g => { g with sent := true } := by
    rw [← ha]
    unfold Part.resendHold
    simp only [hold, List.find?_cons, beq_self_eq_true]
    rfl
  have parts : ∀ j k, a.part j k = if r.port = j ∧ r.slice = k then
      { s.part r.port r.slice with hold := [⟨r.lpage, s.restamped r :: more, src, true, x, n⟩] } else s.part j k := fun j k => by
    rw [← ha, Part.part_onPart]
    simp [hold]
  have hav : a.pav = s.pav := by rw [← ha]; rfl
  obtain ⟨via, h⟩ := Part.forward_marked_part (s := a) (r := s.restamped r) (fun g => { g with sent := true }) st (by rw [← ha]; exact hh)
    (by rw [← ha]; exact hs)
  refine ⟨via, fun j k => ?_⟩
  rw [run, h, show (s.restamped r).port = r.port from rfl, show (s.restamped r).slice = r.slice from rfl, parts, parts, hav]
  by_cases e : r.port = j ∧ r.slice = k
  · simp [e]
  · simp [e]

/-- What a capacity notice of a home does at one port: the slice's held writes for that home are resent, oldest first. -/
def Part.resendFor (s : Part) (src sl i : Nat) : Part := iter ((s.part i sl).due src) s fun s n => s.resendDue i sl 6 n

/-- A port without a partition of the slice resends nothing. -/
theorem Part.resendFor_none {s : Part} {src sl i : Nat} (h : s.part i sl = Partition.none) : s.resendFor src sl i = s := by
  unfold Part.resendFor
  rw [h]
  rfl

/-- A port with one held page for the home resends that one. -/
theorem Part.resendFor_one {s : Part} {src sl i lp n : Nat} {x : Bool} {rs : List Req}
    (hold : (s.part i sl).hold = [⟨lp, rs, src, false, x, n⟩]) (hf : (s.part i sl).forwarded = []) :
    s.resendFor src sl i = s.resendHold i sl lp 6 := by
  have hd : (s.part i sl).due src = [n] := by simp [Partition.due, hold, hf, insertUp]
  unfold Part.resendFor
  rw [hd]
  show s.resendDue i sl 6 n = _
  unfold Part.resendDue
  simp [hold]

/-- Of the two ports of a pavilion only one holds writes of the slice: the notice resends there. -/
theorem exec_promCapacityNotice_one {s : State} {q : Pav} {i : Port} {m : Msg} {t : Part} {sl lp n : Nat} {x : Bool} {rs : List Req}
    (hq : q.val = i.val / 2) (htake : s.part.takeMsg q 7 = some (m, t)) (hm : m.addr = sl)
    (hold : (t.part i sl).hold = [⟨lp, rs, m.src, false, x, n⟩]) (hf : (t.part i sl).forwarded = [])
    (hj : ∀ j, j ≠ i.val → t.part j sl = Partition.none)
    (hu : ∀ j, j ≠ i.val → (t.resendHold i sl lp 6).part j sl = t.part j sl) :
    exec (.promCapacityNotice q) s = .next (s.withPart (t.resendHold i sl lp 6)) := by
  have run : exec (.promCapacityNotice q) s =
      .next (s.withPart ((t.resendFor m.src sl (2 * q.val)).resendFor m.src sl (2 * q.val + 1))) := by
    rw [exec_promCapacityNotice, execPromCapacityNotice, State.run_eq]
    simp only [htake, hm]
    rfl
  rw [run]
  rcases (show i.val = 2 * q.val ∨ i.val = 2 * q.val + 1 by omega) with e | e
  · rw [← e, Part.resendFor_one hold hf, Part.resendFor_none ((hu _ (by omega)).trans (hj _ (by omega)))]
  · rw [Part.resendFor_none (hj (2 * q.val) (by omega)), ← e, Part.resendFor_one hold hf]

/-- Settles O19: a resend keeps the hold entry and forwards its first write (log entry 69); a timer that finds the write on its way marks it. -/
theorem heldWritesAreResent : Obligations.HeldWritesAreResent := by
  intro s i q sl lp home r more hq hp hsl hlp hh hs
  refine ⟨fun src n x m t hold htake hm hsrc hf hj => ?_, fun src n hold => ?_, fun src n hold => ?_⟩
  · obtain ⟨l, rfl⟩ := Part.takeMsg_inbox htake
    subst hsrc
    obtain ⟨via, h⟩ := Part.resendHold_part (s := s.part.onPav q _) 6 hp hsl hlp hh hs hold
    refine ⟨_, via, exec_promCapacityNotice_one hq htake hm hold hf hj fun j hne => ?_, ?_⟩
    · rw [h, if_neg fun e => hne e.1.symm]
    · rw [h, if_pos ⟨rfl, rfl⟩]
      exact ⟨rfl, congrArg (· ++ _) hf⟩
  · obtain ⟨via, h⟩ := Part.resendHold_part 7 hp hsl hlp hh hs hold
    refine ⟨s.part.resendHold i sl lp 7, via, ?_, ?_⟩
    · rw [exec_stallTimerExpiry, execStallTimerExpiry, State.run_eq]
      simp [hold]
    · rw [h, if_pos ⟨rfl, rfl⟩]
      exact ⟨rfl, rfl⟩
  · refine ⟨s.part.onPart i sl fun v => { v with hold := v.hold.map fun g => if g.lpage == lp then { g with expired := true } else g }, ?_, ?_⟩
    · rw [exec_stallTimerExpiry, execStallTimerExpiry, State.run_eq]
      simp [hold]
    · rw [Part.part_onPart, if_pos ⟨rfl, rfl⟩]
      simp [hold]

end Sys2Proof.Machine
end

section
/-!
O24: the mirror copy takes a change of its home (spec/02 R60, spec/08 R310).
-/

namespace Sys2Proof.Machine

/-- A page's key is its slice above 34 bits of page number (log entry 74). -/
theorem pageKey_split (a : Nat) : pageKey (a / 2 ^ 34) (a % 2 ^ 34) = a := by
  unfold pageKey
  omega

/-- The write of a mirror copy: the entry there, every other key as before, and of any pavilion nothing else but tokens. -/
theorem Part.setMirror_spec (s : Part) (q sl lp : Nat) (c : Cell) : Part.only [.pavs, .chans] s (s.setMirror q sl lp c) ∧
    ((s.setMirror q sl lp c).pav q).mirror = (s.pav q).mirror.set (s.blank sl lp) (pageKey sl lp) c ∧
    ∀ p, ((s.setMirror q sl lp c).pav p).mirrorWait = (s.pav p).mirrorWait := by
  generalize ha : (s.onPav q fun v => { v with mirror := v.mirror.set (s.blank sl lp) (pageKey sl lp) c }) = a
  have only : Part.only [.pavs, .chans] s a := ha ▸ Part.only_mono (s.only_onPav _ _) (by decide)
  have mirror : (a.pav q).mirror = (s.pav q).mirror.set (s.blank sl lp) (pageKey sl lp) c := by rw [← ha, Part.onPav_pav_self]
  have wait : ∀ p, (a.pav p).mirrorWait = (s.pav p).mirrorWait := fun p => by
    rw [← ha, Part.onPav_pav]
    split
    · next h => rw [h]
    · rfl
  unfold Part.setMirror
  dsimp only
  rw [ha]
  split
  · obtain ⟨o, h⟩ := a.putOwnLine_spec q ‹_› sl sl lp
    refine ⟨Part.only_trans only o, ?_, fun p => ?_⟩
    · obtain ⟨k, e⟩ := h q
      rw [e]; exact mirror
    · obtain ⟨k, e⟩ := h p
      rw [e]; exact wait p
  · exact ⟨only, mirror, wait⟩

/-- The mirror has an entry and the home's first wait is over: what is left before the last step of the commit. -/
def Part.mirrored (s : Part) (p src sl lp : Nat) (c : Cell) (rest : List MirrorWait) : Part :=
  (s.setMirror p sl lp c).onPav src fun v => { v with mirrorWait := rest }

theorem Part.mirrored_spec (s : Part) (p src sl lp : Nat) (c : Cell) (rest : List MirrorWait) :
    Part.only [.pavs, .chans] s (s.mirrored p src sl lp c rest) ∧ (s.mirrored p src sl lp c rest).mirrorCell p sl lp = c ∧
    ((s.mirrored p src sl lp c rest).pav src).mirrorWait = rest ∧
    ∀ k, k ≠ pageKey sl lp → ∀ d, ((s.mirrored p src sl lp c rest).pav p).mirror.get d k = (s.pav p).mirror.get d k := by
  obtain ⟨o, table, -⟩ := s.setMirror_spec p sl lp c
  have only : Part.only [.pavs, .chans] s (s.mirrored p src sl lp c rest) :=
    Part.only_trans o (Part.only_mono (Part.only_onPav _ _ _) (by decide))
  have mirror : ((s.mirrored p src sl lp c rest).pav p).mirror = (s.pav p).mirror.set (s.blank sl lp) (pageKey sl lp) c := by
    unfold Part.mirrored
    rw [Part.onPav_pav]
    split
    · next h => subst h; exact table
    · exact table
  have blank : (s.mirrored p src sl lp c rest).blank sl lp = s.blank sl lp := by
    unfold Part.blank Part.slice
    rw [show (s.mirrored p src sl lp c rest).slices = s.slices from only .slices (by decide)]
  refine ⟨only, ?_, ?_, fun k hk d => ?_⟩
  · unfold Part.mirrorCell
    rw [mirror, blank, Sparse.get_set, if_pos rfl]
  · unfold Part.mirrored
    rw [Part.onPav_pav_self]
  · rw [mirror, Sparse.get_set_other _ _ _ _ hk.symm]

/-- Settles O24: the mirror's table takes the entry under the page's key, and the home's commit does its last step. -/
theorem mirrorTakesTheChange : Obligations.MirrorTakesTheChange := by
  intro s p m t w rest htake hmir hwait hkey
  obtain ⟨only, cell, wait, others⟩ := t.mirrored_spec p m.src (m.addr / 2 ^ 34) (m.addr % 2 ^ 34) (Cell.decode m.data) rest
  rw [pageKey_split] at others
  obtain ⟨-, -, keep⟩ := t.setMirror_spec p (m.addr / 2 ^ 34) (m.addr % 2 ^ 34) (Cell.decode m.data)
  refine ⟨_, ?_, cell, wait, others, ?_⟩
  · rw [exec_promMirrorWrite, execPromMirrorWrite, State.run_eq]
    simp only [htake, hmir, if_true, keep, hwait, takeFirst, hkey, beq_self_eq_true]
    rfl
  · obtain ⟨l, rfl⟩ := Part.takeMsg_inbox htake
    exact Part.only_trans (Part.only_mono (Part.only_onPav _ _ _) (by decide)) only

end Sys2Proof.Machine
end

section
/-!
O30: the entries of a plan (spec/02 R59, R81 to R83, spec/04 R176, spec/15 R566).
-/

namespace Sys2Proof.Machine

/-! ## Entries over the pages of a group -/

/-- Of one page that nothing uses an entry takes that page, so none is left to keep the entry for. -/
theorem filter_not_inUse {s : Part} {p sl lp : Nat} (h : s.inUse p sl lp = false) : [lp].filter (fun q => !s.inUse p sl q) = [lp] := by
  simp [h]

/-! ## COMPACT of an extent of the cellar book -/

/-- The drains settle in the codec's state and the dictionary. -/
theorem Part.only_settleDrains (s : Part) : Part.only [.dict, .codec] s s.settleDrains := by
  unfold Part.settleDrains
  refine Part.only_iter (fun s e => ?_) _ _
  have hc : ∀ d, Part.only [.dict, .codec] s { s with codec := { s.codec with drains := d } } := fun d f hf => by
    cases f <;> first | rfl | simp at hf
  exact Part.only_ite (Part.only_trans (hc _) (Part.only_mono (Part.only_setOd _ _ _ _) (by decide))) (hc _)

theorem Part.settleDrains_pav (s : Part) (p : Nat) : s.settleDrains.pav p = s.pav p := by
  unfold Part.pav
  rw [s.only_settleDrains .pavs (by decide)]

/-- The ownership entries of a pavilion after one was written. -/
theorem Part.setOwn_own (s : Part) (p ext : Nat) (o : Own) (y : Nat) :
    ((s.setOwn p ext o).pav p).own.get Own.free y = if ext = y then o else (s.pav p).own.get Own.free y := by
  unfold Part.setOwn
  rw [Part.onPav_pav_self]
  exact Sparse.get_set Own.free _ ext o y

/-- An extent that begins ZEROING: its own entry, and no other; the region blocks stay. -/
theorem Part.toZeroing_spec (s : Part) (p ext : Nat) : ((s.toZeroing p ext).pav p).blocks = (s.pav p).blocks ∧
    ∀ y, ((s.toZeroing p ext).pav p).own.get Own.free y =
      if ext = y then { Own.free with kind := kindZeroing, owner := (s.ownOf p ext).owner } else (s.pav p).own.get Own.free y := by
  unfold Part.toZeroing
  refine ⟨?_, fun y => ?_⟩
  · unfold Part.setOwn
    rw [Part.onPav_pav_self, Part.onPav_pav_self]
  · rw [Part.setOwn_own, Part.onPav_pav_self]

/-- What compaction of an extent of the cellar book comes to: its block names the FREE extent in its place, which is CELLAR, and it is ZEROING. -/
theorem Part.compactCellar_spec {s : Part} {p ext k x : Nat} {exts : List Nat}
    (hb : (s.pav p).blocks.find? (fun b => b.2.contains ext) = some (k, exts)) (hx : s.freeExt p = some x) (hne : x ≠ ext) :
    ((s.compactCellar p ext).pav p).blocks.get [] k = exts.map (fun y => if y = ext then x else y) ∧
    (((s.compactCellar p ext).pav p).own.get Own.free x).kind = kindCellar ∧
    (((s.compactCellar p ext).pav p).own.get Own.free ext).kind = kindZeroing := by
  unfold Part.compactCellar
  simp only [hb, hx]
  generalize iter _ s _ = a
  obtain ⟨blocks, own⟩ := Part.toZeroing_spec ((a.setOwn p x { Own.free with kind := kindCellar, live := 1 }).onPav p fun v =>
    { v with blocks := v.blocks.put k (exts.map fun y => if y = ext then x else y) }) p ext
  refine ⟨?_, ?_, ?_⟩
  · rw [blocks, Part.onPav_pav_self]
    exact (Sparse.get_put _ _ _ _ _).trans (if_pos rfl)
  · rw [own, if_neg hne.symm, Part.onPav_pav_self]
    exact congrArg Own.kind ((a.setOwn_own p x _ x).trans (if_pos rfl))
  · rw [own, if_pos rfl]

/-- An extent is being emptied while its entry runs; nothing else depends on the mark. -/
def Part.emptying (s : Part) (p : Nat) (l : List Nat) : Part := s.onPav p fun v => { v with emptying := l }

theorem Part.emptying_pav (s : Part) (p : Nat) (l : List Nat) : (s.emptying p l).pav p = { s.pav p with emptying := l } := s.onPav_pav_self _ _

theorem Part.emptying_ownOf (s : Part) (p : Nat) (l : List Nat) (x : Nat) : (s.emptying p l).ownOf p x = s.ownOf p x :=
  Part.ownOf_congr p x rfl rfl rfl (by rw [Part.emptying_pav])

theorem Part.emptying_freeExt (s : Part) (p : Nat) (l : List Nat) : (s.emptying p l).freeExt p = s.freeExt p :=
  Part.freeExt_congr p rfl rfl rfl (by rw [Part.emptying_pav])

/-- The end of a COMPACT: with no move left the mark goes, then the drains settle. -/
def Part.compacted (s : Part) (p : Nat) : Part := (if (s.pav p).moves.isEmpty then s.emptying p [] else s).settleDrains

theorem Part.compacted_pav (s : Part) (p : Nat) : ∃ l, (s.compacted p).pav p = { s.pav p with emptying := l } := by
  unfold Part.compacted
  rw [Part.settleDrains_pav]
  split
  · exact ⟨[], s.emptying_pav p []⟩
  · exact ⟨(s.pav p).emptying, rfl⟩

/-- COMPACT of an extent of the cellar book runs for no slice: it is `compactCellar` between the mark's beginning and end. -/
theorem exec_planEntryCompact_cellar {s : State} {p : Pav} {e : PlanEnt} {t : Part} (h : s.part.planHead p 2 = some (e, t))
    (hk : (t.ownOf p e.target).kind = kindCellar) :
    exec (.planEntryCompact p) s = .next (s.withPart (((t.emptying p [e.target]).compactCellar p e.target).compacted p)) := by
  rw [exec_planEntryCompact, execPlanEntryCompact, State.run_eq]
  simp only [h, hk, if_neg (show kindCellar ≠ kindTag by decide), if_true]
  rfl

/-! ## MIRROR and MOVE_REGION -/

@[simp] theorem Part.place_setPlace (s : Part) (sl region v : Nat) : (s.setPlace sl region v).place sl region = v :=
  (Sparse.get_set _ _ _ _ _).trans (if_pos rfl)

/-- A region's entries of its home's cellar book are copied to a mirror pavilion. -/
def Part.copiedTo (s : Part) (p d sl region : Nat) : Part :=
  s.onPav d fun v => { v with mirror := (regionCells sl region (s.pav p).cellar).foldl (fun m c => m.put c.1 c.2) v.mirror }

/-- The conditions of a region's entry: the region is homed here, and the other pavilion is in service. -/
theorem regionEntry_runs {v p d st : Nat} (hv : placeValid v = true) (hh : placeHome v = p) (hd : d ≠ p) (hs : st = 1) :
    (!placeValid v || placeHome v != p || decide (d = p) || st != 1) = false := by
  simp [hv, hh, hd, hs]

/-- Settles O30: each entry by its own branch; COMPACT by what `compactCellar` writes last. -/
theorem planEntriesRun : Obligations.PlanEntriesRun := by
  intro s p e t lp
  refine ⟨fun h hg hu => ?_, fun h hg hu => ?_, fun h hg hu => ?_, fun k x exts h hk hb _ hx hne => ?_, fun u h hv hh hd hs hm hu => ?_,
    fun h hv hh hd hs hc => ⟨fun hu => ?_, fun u hu => ?_⟩⟩
  · rw [exec_planEntryPromote, execPlanEntryPromote, State.run_eq]
    simp only [h, hg, filter_not_inUse hu, List.length_singleton, lt_irrefl, if_false]
    rfl
  · rw [exec_planEntryDemote, execPlanEntryDemote, State.run_eq]
    simp only [h, hg, filter_not_inUse hu, List.length_singleton, lt_irrefl, if_false]
    rfl
  · rw [exec_planEntryRekey, execPlanEntryRekey, State.run_eq]
    simp only [h, hg, filter_not_inUse hu, List.length_singleton, lt_irrefl, if_false]
    rfl
  · obtain ⟨blocks, new, old⟩ := Part.compactCellar_spec (s := t.emptying p [e.target]) (by rw [Part.emptying_pav]; exact hb)
      (by rw [Part.emptying_freeExt]; exact hx) hne
    obtain ⟨l, hl⟩ := ((t.emptying p [e.target]).compactCellar p e.target).compacted_pav p
    refine ⟨_, exec_planEntryCompact_cellar h hk, ?_⟩
    rw [hl]
    exact ⟨blocks, new, old⟩
  · refine ⟨(u.copiedTo p e.pav e.slice e.target).setPlace e.slice e.target _, ?_, Part.place_setPlace _ _ _ _, ?_⟩
    · rw [exec_planEntryMirror, execPlanEntryMirror, State.run_eq]
      simp only [h, regionEntry_runs hv hh hd hs, Bool.false_eq_true, if_false, hm, if_true, hu]
      rfl
    · show ((u.copiedTo p e.pav e.slice e.target).pav e.pav).mirror = _
      unfold Part.copiedTo
      rw [Part.onPav_pav_self]
  · rw [exec_planEntryMoveRegion, execPlanEntryMoveRegion, State.run_eq]
    simp only [h, regionEntry_runs hv hh hd hs, Bool.false_eq_true, if_false, hc, Part.fixedOn, Option.bind_some, hu, Option.map_none]
  · rw [exec_planEntryMoveRegion, execPlanEntryMoveRegion, State.run_eq]
    simp only [h, regionEntry_runs hv hh hd hs, Bool.false_eq_true, if_false, hc, Part.fixedOn, Option.bind_some, hu, Option.map_some]

end Sys2Proof.Machine
end

section
/-!
O31: how page moves, region moves, sweeps, zeroing and rescues end (spec/02 R66, R71, R81, spec/04 R177, R178, spec/05 R206, spec/08 R310,
spec/15 R566).
-/

namespace Sys2Proof.Machine

/-! ## What leaves the entries of the cellar book -/

/-- No entry of any home's cellar book differs. -/
def Part.sameCells (a b : Part) : Prop := ∀ p sl lp, b.cell p sl lp = a.cell p sl lp

namespace Part.sameCells

theorem refl (a : Part) : Part.sameCells a a := fun _ _ _ => rfl

theorem trans {a b c : Part} (h : Part.sameCells a b) (k : Part.sameCells b c) : Part.sameCells a c :=
  fun p sl lp => (k p sl lp).trans (h p sl lp)

theorem ite {c : Prop} [Decidable c] {s a b : Part} (h : Part.sameCells s a) (k : Part.sameCells s b) :
    Part.sameCells s (if c then a else b) := by split <;> assumption

theorem iter {α : Type} {f : Part → α → Part} (h : ∀ s x, Part.sameCells s (f s x)) (xs : List α) (s : Part) :
    Part.sameCells s (Machine.iter xs s f) := by
  induction xs generalizing s with
  | nil => exact .refl s
  | cons x xs ih => exact (h s x).trans (ih (f s x))

theorem of_only {l : List PartField} {a b : Part} (h : Part.only l a b) (hp : PartField.pavs ∉ l := by decide)
    (hs : PartField.slices ∉ l := by decide) : Part.sameCells a b := fun p sl lp => by
  unfold Part.cell Part.blank Part.slice Part.pav
  rw [show b.pavs = a.pavs from h .pavs hp, show b.slices = a.slices from h .slices hs]

theorem onPav (s : Part) (k : Nat) (f : PavState → PavState) (h : ∀ v, (f v).cellar = v.cellar := by intro v; rfl) : Part.sameCells s (s.onPav k f) :=
  fun p sl lp => s.cell_onPav p sl lp k f h

theorem setTag (s : Part) (p x : Nat) (e : TagEnt) : Part.sameCells s (s.setTag p x e) :=
  (Part.sameCells.onPav s p _).trans fun _ _ _ => Part.cell_putOwnLine _ _ _ _ _ _ _ _ _

theorem markUsed (s : Part) (p ext k : Nat) (on : Bool) : Part.sameCells s (s.markUsed p ext k on) :=
  (Part.sameCells.onPav s p _).trans (.onPav _ _ _)

theorem toZeroing (s : Part) (p ext : Nat) : Part.sameCells s (s.toZeroing p ext) :=
  (Part.sameCells.onPav s p _).trans (.onPav _ _ _)

theorem askCompact (s : Part) (p sl : Nat) : Part.sameCells s (s.askCompact p sl) := .ite (.refl s) fun _ _ _ => rfl

theorem freePlace (s : Part) (p ext k : Nat) : Part.sameCells s (s.freePlace p ext k) := by
  unfold Part.freePlace
  extract_lets o a b c t d
  have ha : Part.sameCells s a := .markUsed s p ext k false
  have hb : Part.sameCells s b := .ite (ha.trans (.askCompact _ _ _)) ha
  have hc : Part.sameCells s c := hb.trans (.toZeroing _ _ _)
  have hd : Part.sameCells s d := hc.trans (.markUsed _ _ _ _ _)
  clear_value b c d
  exact .ite (.refl s) (.ite hb (.ite hc (.ite (hd.trans (.toZeroing _ _ _)) hd)))

theorem setOd (s : Part) (e : Entry) (i v : Nat) : Part.sameCells s (s.setOd e i v) := fun _ _ _ => rfl

theorem bookState (s : Part) (b : Nat) : Part.sameCells s (s.bookState b) :=
  .ite (.setOd _ _ _ _) (.ite (.setOd _ _ _ _) (.ite (.setOd _ _ _ _) (.refl s)))

theorem caskCount (s : Part) (sl book : Nat) (raw on : Bool) : Part.sameCells s (s.caskCount sl book raw on) := by
  unfold Part.caskCount
  dsimp only
  refine Part.sameCells.trans (.ite ?_ (.setOd _ _ _ _)) (.bookState _ _)
  exact ((Part.sameCells.setOd s _ _ _).trans (.setOd _ _ _ _)).trans (.setOd _ _ _ _)

theorem dropCask (s : Part) (p sl loc : Nat) : Part.sameCells s (s.dropCask p sl loc) := by
  unfold Part.dropCask
  split
  · exact .refl s
  · exact (Part.sameCells.caskCount s sl _ _ _).trans (.onPav _ _ _)

theorem freePage (s : Part) (p sl : Nat) (c : Cell) : Part.sameCells s (s.freePage p sl c) := by
  unfold Part.freePage
  extract_lets a b
  have ha : Part.sameCells s a := .iter (fun s _ => (Part.sameCells.setOd s _ _ _).trans (.setTag _ _ _ _)) _ _
  have hb : Part.sameCells s b := .dropCask s p sl c.loc
  clear_value a b
  exact .ite (.ite ha (ha.trans (.freePlace _ _ _ _))) (.ite (.ite hb (hb.trans (.freePlace _ _ _ _))) (.refl s))

theorem count (s : Part) (e : Entry) (i n : Nat) : Part.sameCells s (s.count e i n) := .of_only (s.only_count e i n)

theorem settleDrains (s : Part) : Part.sameCells s s.settleDrains := .of_only s.only_settleDrains

end Part.sameCells

/-! ## Page moves -/

/-- A move whose page's MOVING is set commits its entry, whatever its source and destination are. -/
theorem Part.endMove_commits {s : Part} {p : Nat} {m : Move} (hm : (s.cell p m.slice m.lpage).moving = true) :
    (s.endMove p m).cell p m.slice m.lpage = { m.new with moving := false } := by
  unfold Part.endMove
  extract_lets sl lp a c b n d f g
  have hc : c = s.cell p sl lp := Part.cell_onPav s p sl lp p _ fun _ => rfl
  rw [if_neg (by rw [hc, hm]; decide)]
  have hd : d.cell p sl lp = { m.new with moving := false } :=
    (Part.sameCells.count _ _ _ _ p sl lp).trans (b.commit_spec p sl lp { m.new with moving := false } byMigration).2.1
  have hf : Part.sameCells d f := .ite (.refl d) (.freePage d p sl m.old)
  have hg : g.cell p sl lp = { m.new with moving := false } :=
    ((Part.cell_heatFlag f p sl lp lp m.new.tier).trans (hf p sl lp)).trans hd
  split
  · exact (Part.cell_settleFlag _ _ _ _ _ _).trans hg
  · split
    · exact (Part.cell_settleFlag _ _ _ _ _ _).trans hg
    · exact hg

/-- A move whose page's MOVING was cleared is cancelled; a new entry without storage has nothing to free. -/
theorem Part.endMove_cancelled {s : Part} {p : Nat} {m : Move} (hm : (s.cell p m.slice m.lpage).moving = false) (hz : m.new.tier = tierZero) :
    s.endMove p m = (s.onPav p fun v => { v with moves := v.moves.filter fun q => !(q.slice == m.slice && q.lpage == m.lpage) }).count
      .movesCancelled 0 := by
  unfold Part.endMove
  extract_lets sl lp a c
  have hc : c = s.cell p sl lp := Part.cell_onPav s p sl lp p _ fun _ => rfl
  rw [if_pos (by rw [hc, hm]; decide)]
  unfold Part.freeDest
  rw [if_pos (by simp [hz])]

/-- After a move has ended the drains settle; with no move left no extent is being emptied. -/
def Part.moveSettled (s : Part) (p : Nat) : Part :=
  if (s.settleDrains.pav p).moves.isEmpty then s.settleDrains.emptying p [] else s.settleDrains

theorem exec_pageMoveCommit_found {s : State} {p : Pav} {m : Move}
    (h : (s.part.pav p).moves.find? (fun m => m.ready && !s.part.inUse p m.slice m.lpage) = some m) :
    exec (.pageMoveCommit p) s = .next (s.withPart ((s.part.endMove p m).moveSettled p)) := by
  rw [exec_pageMoveCommit, execPageMoveCommit, State.run_eq]
  simp only [h]
  rfl

theorem Part.moveSettled_cells (s : Part) (p : Nat) : Part.sameCells s (s.moveSettled p) :=
  .ite ((Part.sameCells.settleDrains s).trans (.onPav _ _ _)) (.settleDrains s)

theorem Part.moveSettled_pav (s : Part) (p : Nat) : ∃ l, (s.moveSettled p).pav p = { s.pav p with emptying := l } := by
  unfold Part.moveSettled
  split
  · exact ⟨[], by rw [Part.emptying_pav, Part.settleDrains_pav]⟩
  · exact ⟨(s.pav p).emptying, s.settleDrains_pav p⟩

theorem Part.only_moveSettled (s : Part) (p : Nat) : Part.only [.dict, .codec, .pavs] s (s.moveSettled p) := by
  have h := Part.only_mono s.only_settleDrains (l' := [.dict, .codec, .pavs]) (by decide)
  exact Part.only_ite (Part.only_trans h (Part.only_mono (Part.only_onPav _ _ _) (by decide))) h

/-- Without a drain nothing settles but the mark of the extent being emptied. -/
theorem Part.only_moveSettled_idle {s : Part} (h : s.codec.drains = []) (p : Nat) : Part.only [.pavs] s (s.moveSettled p) := by
  have e : s.settleDrains = s := by
    unfold Part.settleDrains
    rw [h]
    rfl
  unfold Part.moveSettled
  rw [e]
  exact Part.only_ite (s.only_onPav _ _) (Part.only_refl _ _)

/-- A cancelled move that was the only one: the entries and the ownership stay, no move is left, and but for drains nothing else changes. -/
theorem Part.cancelledMove_spec {s : Part} {p : Nat} {m : Move} (hm : (s.cell p m.slice m.lpage).moving = false) (hz : m.new.tier = tierZero)
    (hone : (s.pav p).moves = [m]) : Part.sameCells s ((s.endMove p m).moveSettled p) ∧ (((s.endMove p m).moveSettled p).pav p).moves = [] ∧
    (((s.endMove p m).moveSettled p).pav p).own = (s.pav p).own ∧ Part.only [.dict, .codec, .pavs, .delta] s ((s.endMove p m).moveSettled p) ∧
    (s.codec.drains = [] → Part.only [.pavs, .delta] s ((s.endMove p m).moveSettled p)) := by
  rw [Part.endMove_cancelled hm hz]
  generalize ha : (s.onPav p fun v => { v with moves := v.moves.filter fun q => !(q.slice == m.slice && q.lpage == m.lpage) }).count
    .movesCancelled 0 = a
  have only : Part.only [.pavs, .delta] s a := ha ▸ Part.only_trans (Part.only_mono (s.only_onPav _ _) (by decide))
    (Part.only_mono (Part.only_count _ _ _ _) (by decide))
  have cells : Part.sameCells s a := ha ▸ (Part.sameCells.onPav s p _).trans (.count _ _ _ _)
  have pav : a.pav p = { s.pav p with moves := [] } := by
    rw [← ha, Part.count_pav, Part.onPav_pav_self]
    simp [hone]
  obtain ⟨l, settled⟩ := a.moveSettled_pav p
  rw [pav] at settled
  refine ⟨cells.trans (a.moveSettled_cells p), by rw [settled], by rw [settled],
    Part.only_trans (Part.only_mono only (by decide)) (Part.only_mono (a.only_moveSettled p) (by decide)), fun hidle => ?_⟩
  have codec : a.codec = s.codec := only .codec (by decide)
  exact Part.only_trans only (Part.only_mono (Part.only_moveSettled_idle (by rw [codec, hidle]) p) (by decide))

/-! ## Re-key sweeps -/

/-- With no cause recorded no sweep follows. -/
theorem Part.nextSweep_none {s : Part} {sl : Nat} (h : (s.slice sl).rekeyWait = []) :
    s.nextSweep sl = s.onSlice sl fun q => { q with rekeyWait := [] } := by
  unfold Part.nextSweep
  simp [h]

/-- A sweep's end on the part: its old key set is destroyed, it is counted and logged. -/
def Part.swept (s : Part) (sl old : Nat) : Part :=
  (((s.destroySet sl old).setOd .rekeyState sl 0).modOd .sliceRekeys sl (· + 1)).logEv 0x0D07 0 0 (some sl)

theorem Part.swept_spec (s : Part) (sl old : Nat) (hs : sl < 65536) : (s.swept sl old).od .rekeyState sl = 0 ∧
    (s.swept sl old).slices = s.slices ∧ (s.swept sl old).keys = (s.destroySet sl old).keys := by
  unfold Part.swept
  refine ⟨?_, ?_, by simp⟩
  · rw [Part.logEv_od _ _ _ _ _ _ (by decide) hs, Part.modOd_eq, Part.od_setOd_ne _ _ _ _ (by decide), Part.od_setOd_self, Nat.zero_mod]
  · rw [Part.logEv_slices, Part.modOd_eq, Part.setOd_slices, Part.setOd_slices]
    exact (s.destroySet_spec sl old hs).1 .slices (by decide)

/-- A sweep without a page left, under the key set 0 and with no cause recorded since, ends and none follows. -/
theorem exec_rekeySweepEnd_last {s : State} {sl : Slice} (hk : s.part.od .rekeyState sl = 1) (hn : s.part.rekeyLeft sl = 0)
    (ha : s.part.od .sliceKeyActive sl = 0) (hw : (s.part.slice sl).rekeyWait = []) :
    exec (.rekeySweepEnd sl) s = .next (s.withPart ((s.part.swept sl 1).onSlice sl fun q => { q with rekeyWait := [] })) := by
  have wait : ((s.part.swept sl 1).slice sl).rekeyWait = [] := by
    unfold Part.slice
    rw [(s.part.swept_spec sl 1 (by omega)).2.1]
    exact hw
  rw [← Part.nextSweep_none wait, exec_rekeySweepEnd, execRekeySweepEnd, State.run_eq]
  simp only [hk, hn, ha, bne_self_eq_false, Bool.or_self, Bool.false_eq_true, if_false]
  rfl

/-! ## Zeroing -/

/-- What a channel still holds of an extent is dropped. -/
def ChanState.forgetExt (ext : Nat) (v : ChanState) : ChanState :=
  { v with
    queue := v.queue.filter fun q => !(q.write && q.burst / extBursts == ext && q.burst < spareBase)
    withheld := v.withheld.filter fun q => !(q.write && q.burst / extBursts == ext && q.burst < spareBase)
    repairQ := v.repairQ.filter fun q => q.burst / extBursts != ext }

/-- An extent holds zero data and has an ownership entry. -/
def Part.zeroed (s : Part) (p ext : Nat) (o : Own) : Part :=
  (iter (List.range 8) ((s.onPav p fun v => { v with
    tags := v.tags.eraseRange (ext * extBursts) (ext * extBursts + extBursts), zeroing := v.zeroing.erase ext }).zeroBursts p ext)
      fun s k => s.onChan (p * 8 + k) (ChanState.forgetExt ext)).setOwn p ext o

theorem Part.only_zeroed (s : Part) (p ext : Nat) (o : Own) : Part.only [.pavs, .chans] s (s.zeroed p ext o) := by
  refine Part.only_trans (Part.only_trans ?_ (Part.only_mono (Part.only_iter (fun s _ => s.only_onChan _ _) _ _) (by decide)))
    (Part.only_mono (Part.only_onPav _ _ _) (by decide))
  exact Part.only_mono (Part.only_trans (Part.only_onPav _ _ _) (Part.only_onPav _ _ _)) (by decide)

/-- What a pavilion stores after the zeroing of an extent. -/
theorem Part.zeroed_pav (s : Part) (p ext : Nat) (o : Own) : ((s.zeroed p ext o).pav p).retire = (s.pav p).retire ∧
    ((s.zeroed p ext o).pav p).own = (s.pav p).own.set Own.free ext o ∧
    ((s.zeroed p ext o).pav p).dram = (s.pav p).dram.eraseRange (ext * extBursts) (ext * extBursts + extBursts) ∧
    ((s.zeroed p ext o).pav p).tags = (s.pav p).tags.eraseRange (ext * extBursts) (ext * extBursts + extBursts) := by
  have keep : ∀ (a : Part) (f : Part → Nat → Part), (∀ t k, Part.only [.chans] t (f t k)) → (iter (List.range 8) a f).pav p = a.pav p :=
    fun a f hf => by
      unfold Part.pav
      rw [Part.only_iter hf _ a .pavs (by decide)]
  unfold Part.zeroed Part.zeroBursts Part.setOwn
  dsimp only
  rw [Part.onPav_pav_self, keep _ _ fun t _ => t.only_onChan _ _, Part.onPav_pav_self, Part.onPav_pav_self]
  exact ⟨rfl, rfl, rfl, rfl⟩

/-- The zeroing of an extent that belongs to no slice's plot and is not retired. -/
theorem exec_zeroingComplete_free {s : State} {p : Pav} {ext : Nat} (hk : (s.part.ownOf p ext).kind = kindZeroing)
    (hz : (s.part.pav p).zeroing.get 0 ext = 0) (hr : ext ∉ (s.part.pav p).retire)
    (hl : s.part.layerLost p (ext / (s.part.geom p).layerExts) = false) :
    exec (.zeroingComplete p ext) s = .next (s.withPart
      (((s.part.zeroed p ext { s.part.ownOf p ext with kind := kindFree }).commonsAlarm p).capacityNotices p)) := by
  generalize ho : ({ s.part.ownOf p ext with kind := kindFree } : Own) = o
  have only := s.part.only_zeroed p ext o
  have stays : (((s.part.zeroed p ext o).pav p).retire.contains ext ||
      (s.part.zeroed p ext o).layerLost p (ext / ((s.part.zeroed p ext o).geom p).layerExts)) = false := by
    have lost : (s.part.zeroed p ext o).layerLost p (ext / ((s.part.zeroed p ext o).geom p).layerExts) =
        s.part.layerLost p (ext / (s.part.geom p).layerExts) := by
      unfold Part.layerLost Part.geom Part.od
      rw [only .flash (by decide), only .boot (by decide), only .dict (by decide)]
    rw [(s.part.zeroed_pav p ext o).1, lost, hl]
    simpa using hr
  have run : exec (.zeroingComplete p ext) s = .next (s.withPart
      ((if (((s.part.zeroed p ext o).pav p).retire.contains ext ||
          (s.part.zeroed p ext o).layerLost p (ext / ((s.part.zeroed p ext o).geom p).layerExts)) = true
        then (s.part.zeroed p ext o).retireExtent p ext else s.part.zeroed p ext o).commonsAlarm p |>.capacityNotices p)) := by
    rw [exec_zeroingComplete, execZeroingComplete, State.run_eq]
    simp only [hk, hz, bne_self_eq_false, Bool.false_eq_true, if_false, if_true, ← ho]
    rfl
  rw [run, stays, if_neg (by decide)]

/-! ## The obligation -/

/-- Settles O31: each end by its own branch; the layout of MOVE_DATA and MOVE_DONE is that of log entry 26. -/
theorem movesAndSweepsEnd : Obligations.MovesAndSweepsEnd := by
  intro s p
  refine ⟨fun m hf => ⟨fun hm => ?_, fun hm hz hone => ?_⟩, fun m t r htake hr hsl hd => ⟨fun hhot hlo hhi => ?_, fun hz => ?_⟩,
    fun m t r htake hr hsl hreg hd hn => ?_, fun r hr hh ha hl hu => ?_, fun r hr hh ha => ?_, fun sl hk hn ha hw => ?_,
    fun ext hk hz hr hl => ?_, fun ext k rest hr hk => ?_, fun ext k rest lp w y t u hr ht hk hu => ?_⟩
  · exact ⟨_, exec_pageMoveCommit_found hf, (Part.moveSettled_cells _ p p _ _).trans (Part.endMove_commits hm)⟩
  · obtain ⟨cells, moves, own, only, idle⟩ := Part.cancelledMove_spec hm hz hone
    exact ⟨_, exec_pageMoveCommit_found hf, cells p _ _, moves, own, only, idle⟩
  · rw [exec_promMoveData, execPromMoveData, State.run_eq]
    simp only [htake, hr, hsl, hd, decide_true, Bool.and_self, if_true, hhot, hlo, hhi]
  · rw [exec_promMoveData, execPromMoveData, State.run_eq]
    simp only [htake, hr, hsl, hd, decide_true, Bool.and_self, if_true, hz, show ¬ tierZero = tierHot by decide,
      show ¬ tierZero = tierWarm by decide, decide_false, Bool.false_and, Bool.false_eq_true, if_false]
  · rw [exec_promMoveDone, execPromMoveDone, State.run_eq]
    simp [htake, hr, hsl, hreg, hd, hn]
  · rw [exec_regionMoveHold, execRegionMoveHold, State.run_eq]
    simp [hr, hh, ha, hl, hu]
  · rw [exec_regionMoveCommit, execRegionMoveCommit, State.run_eq]
    simp [hr, hh, ha]
  · obtain ⟨st, -, ks⟩ := s.part.swept_spec sl 1 (by omega)
    obtain ⟨-, -, sets⟩ := s.part.destroySet_spec sl 1 (by omega)
    refine ⟨_, exec_rekeySweepEnd_last hk hn ha hw, (Part.onSlice_od _ _ _ _ _).trans st, ?_, ?_⟩
    · unfold Part.keySet
      rw [Part.onSlice_keys, ks, sets, if_pos rfl]
    · unfold Part.keySet
      rw [Part.onSlice_keys, ks, sets, if_neg (by unfold setIndex; omega)]
  · obtain ⟨-, own, dram, tags⟩ := s.part.zeroed_pav p ext { s.part.ownOf p ext with kind := kindFree }
    refine ⟨_, exec_zeroingComplete_free hk hz hr hl, ?_, fun x hlo hhi => ⟨?_, ?_⟩, fun x hx => ?_⟩
    · rw [own, Sparse.get_set, if_pos rfl]
    · rw [dram, Sparse.get_eraseRange, if_pos ⟨hlo, hhi⟩]
    · rw [tags, Sparse.get_eraseRange, if_pos ⟨hlo, hhi⟩]
    · rw [dram, Sparse.get_eraseRange, if_neg (by omega)]
  · have own : (s.part.onPav p fun v => { v with rescue := rest }).ownOf p ext = s.part.ownOf p ext :=
      Part.ownOf_congr p ext rfl rfl rfl (by rw [Part.onPav_pav_self])
    rw [exec_rescueCask, execRescueCask, State.run_eq]
    simp [hr, own, hk]
  · intro o loc xs r hp hc
    rw [exec_rescueCask, execRescueCask, State.run_eq]
    dsimp only [o, loc, xs, r] at hp hc
    simp only [hr, ← ht, hk, hu, bne_self_eq_false, Bool.not_true, Bool.or_self, Bool.false_eq_true, if_false, hp, hc]
    rfl

end Sys2Proof.Machine
end

section
/-!
O32: the commands of codebook slots and of builds, and what waits for a load (spec/03 R113, R114, R121, R123, R124).
-/

namespace Sys2Proof.Machine

/-! ## A change of the codec's state -/

/-- The part with another state of its codec. -/
def Part.putCodec (s : Part) (c : CodecState) : Part := { s with codec := c }

@[simp] theorem Part.putCodec_od (s : Part) (c : CodecState) (e : Entry) (i : Nat) : (s.putCodec c).od e i = s.od e i := rfl
@[simp] theorem Part.putCodec_codec (s : Part) (c : CodecState) : (s.putCodec c).codec = c := rfl

theorem Part.only_putCodec (s : Part) (c : CodecState) : Part.only [.codec] s (s.putCodec c) := fun f hf => by
  cases f <;> first | rfl | simp at hf

theorem Part.beginLoad_eq (s : Part) (b image : Nat) (w : Option Who) :
    s.beginLoad b image w = s.putCodec { s.codec with loading := some (b, image, w) } := rfl

/-- A write of an entry, where the dictionary may change. -/
theorem Part.only_setOd_of_mem {l : List PartField} (s : Part) (e : Entry) (i v : Nat) (h : PartField.dict ∈ l := by decide) :
    Part.only l s (s.setOd e i v) := Part.only_mono (s.only_setOd e i v) (by simpa using h)

/-- Another state of the codec, where the codec may change. -/
theorem Part.only_putCodec_of_mem {l : List PartField} (s : Part) (c : CodecState) (h : PartField.codec ∈ l := by decide) :
    Part.only l s (s.putCodec c) := Part.only_mono (s.only_putCodec c) (by simpa using h)

/-! ## What waits for a load -/

theorem Part.imageWrite_waits {s : Part} (h : s.codec.loading.isSome = true) (w : Who) (b image len : Nat) :
    s.imageWrite w b image len = (s.bookWait (.image w b image len)).later := if_pos h

theorem Part.codebookCommand_waits {s : Part} (h : s.codec.loading.isSome = true) (w : Who) (b v : Nat) :
    s.codebookCommand w b v = (s.bookWait (.command w b v)).later := if_pos h

/-! ## DRAIN and UNLOAD -/

/-- DRAIN of a slot: of the dictionary its state and the slices' bits for it, and of the codec the drains. -/
theorem Part.beginDrainBook_spec (s : Part) (b : Nat) :
    (s.beginDrainBook b).od .codebookState b = (if s.od .codebookCasks b = 0 then 1 else 3) ∧
    Part.keepsOd [.codebookState, .sliceCodebooksHeld] s (s.beginDrainBook b) ∧ Part.only [.dict, .codec] s (s.beginDrainBook b) := by
  unfold Part.beginDrainBook
  extract_lets a held c
  have hc : Part.keepsOd [.sliceCodebooksHeld] a c := Part.keepsOd_iter _ _ fun s sl _ => by
    split
    · exact Part.keepsOd_setAny _ _ _ (by decide)
    · exact Part.keepsOd_refl _ _
  have oc : Part.only [.dict, .codec] a c := Part.only_iter (fun s sl => by
    split
    · exact Part.only_setOd_of_mem _ _ _ _
    · exact Part.only_putCodec_of_mem _ _) _ _
  have ha : Part.keepsOd [.codebookState, .sliceCodebooksHeld] s a := Part.keepsOd_setAny s b 3 (by decide)
  have oa : Part.only [.dict, .codec] s a := Part.only_setOd_of_mem _ _ _ _
  have hac := Part.keepsOd_trans ha (Part.keepsOd_mono hc (by decide))
  have state : c.od .codebookState b = 3 := (hc.od_eq (by decide) b).trans (Part.od_setOd_self _ _ _ _)
  refine ⟨?_, Part.keepsOd_ite (Part.keepsOd_trans hac (Part.keepsOd_setAny _ _ _ (by decide))) hac,
    Part.only_ite (Part.only_trans (Part.only_trans oa oc) (Part.only_setOd_of_mem _ _ _ _)) (Part.only_trans oa oc)⟩
  rw [hac.od_eq (by decide) b]
  split
  · exact Part.od_setOd_self _ _ _ _
  · exact state

section
variable {s : Part} {w : Who} {b : Nat} (hw : s.mayWrite w .codebookCommand) (hl : s.codec.loading = none)
include hw hl

theorem Part.codebookCommand_drain (h2 : s.od .codebookState b = 2) (h0 : s.od .codebookSlices b = 0) :
    s.codebookCommand w b 1 = (s.beginDrainBook b).ok := by
  unfold Part.codebookCommand
  rw [Part.command_eq _ _ _ hw (by decide) (by simp)]
  simp [hl, h2, h0]

theorem Part.codebookCommand_unload (hb : b ≠ 0) (h1 : s.od .codebookState b = 1) :
    s.codebookCommand w b 2 = ((s.setOd .codebookState b 0).resetOd .codebookImage b).ok := by
  unfold Part.codebookCommand
  rw [Part.command_eq _ _ _ hw (by decide) (by simp)]
  simp [hl, hb, h1]

end

/-! ## Writes of an image -/

/-- The reasons that an image itself gives fit an ENUM. -/
theorem imageReason_lt (image : Nat) : imageReason image < 256 := by
  unfold imageReason
  repeat' split
  all_goals decide

/-- An image with a fault of its own is refused for that fault. -/
theorem Part.imageRefusal_reason {image : Nat} (h : imageReason image ≠ 0) (s : Part) (b : Nat) : s.imageRefusal b image = imageReason image := by
  simp [Part.imageRefusal, h]

/-- A sound image is accepted for a slot other than 0 that is EMPTY or LOADED and that nothing uses or names. -/
theorem Part.imageRefusal_none {s : Part} {b image : Nat} (h : imageReason image = 0) (hb : b ≠ 0) (hs : s.od .codebookState b < 2)
    (hc : s.od .codebookCasks b = 0) (hsl : s.od .codebookSlices b = 0) (hp : s.bookPending b = false) : s.imageRefusal b image = 0 := by
  simp [Part.imageRefusal, h, hb, hc, hsl, hp, Nat.not_le.mpr hs]

section
variable {s : Part} {w : Who} {b image : Nat} (hw : s.mayWrite w .codebookImage) (hl : s.codec.loading = none)
include hw hl

theorem Part.imageWrite_accepted (h : s.imageRefusal b image = 0) :
    s.imageWrite w b image 64 = ((s.setOd .codebookLoadResult b 0).beginLoad b image (some w)).later := by
  unfold Part.imageWrite
  rw [writeChecks_takes hw.1 (by rfl) fun _ => rfl]
  simp [hl, h]

theorem Part.imageWrite_refused (h : s.imageRefusal b image ≠ 0) :
    s.imageWrite w b image 64 = ⟨s.setOd .codebookLoadResult b (s.imageRefusal b image), some rCodebook, [s.imageRefusal b image]⟩ := by
  unfold Part.imageWrite
  rw [writeChecks_takes hw.1 (by rfl) fun _ => rfl]
  simp [hl, h]

end

/-! ## Builds -/

/-- A build comes to a state and a result. -/
def Part.setBuild (s : Part) (state result : Nat) : Part := (s.setOd .buildState 0 state).setOd .buildResult 0 result

theorem Part.setBuild_spec (s : Part) {state result : Nat} (hs : state < 256) (hr : result < 256) :
    (s.setBuild state result).od0 .buildState = state ∧ (s.setBuild state result).od0 .buildResult = result ∧
    Part.keepsOd [.buildState, .buildResult] s (s.setBuild state result) ∧ Part.only [.dict] s (s.setBuild state result) := by
  unfold Part.setBuild Part.od0
  refine ⟨?_, Part.od_setOd_val _ _ _ _ hr, Part.keepsOd_trans (Part.keepsOd_setAny _ _ _ (by decide)) (Part.keepsOd_setAny _ _ _ (by decide)),
    Part.only_trans (Part.only_setOd _ _ _ _) (Part.only_setOd _ _ _ _)⟩
  rw [Part.od_setOd_ne _ _ _ _ (by decide)]
  exact Part.od_setOd_val _ _ _ _ hs

/-- A build begins to count: SAMPLING, no result, no page, no symbol. -/
def Part.zeroCounts (s : Part) : Part :=
  ((s.setBuild 1 0).setOd .buildPagesSampled 0 0).putCodec { s.codec with counts := [], coded := 0 }

/-- A sample page of a build waits for a codec lane of its home. -/
def Part.queueSample (sl : Nat) (s : Part) (lp : Nat) : Part :=
  match s.homeOf sl lp with
  | some p => s.engineTask p .build sl lp 0 0
  | none => s

/-- A build of a slice's codebook begins: its counts are zero and its sample pages wait. -/
def Part.startBuild (s : Part) (sl : Nat) : Part :=
  iter (s.zeroCounts.samplePages sl (s.zeroCounts.od0 .buildPages)) s.zeroCounts (Part.queueSample sl)

theorem Part.zeroCounts_spec (s : Part) : s.zeroCounts.od0 .buildState = 1 ∧ s.zeroCounts.od0 .buildResult = 0 ∧
    s.zeroCounts.od0 .buildPagesSampled = 0 ∧ s.zeroCounts.codec.counts = [] ∧ s.zeroCounts.codec.coded = 0 ∧
    Part.only [.dict, .codec] s s.zeroCounts := by
  obtain ⟨state, result, -, only⟩ := s.setBuild_spec (state := 1) (result := 0) (by decide) (by decide)
  unfold Part.zeroCounts Part.od0
  simp only [Part.putCodec_od]
  exact ⟨(Part.od_setOd_ne _ _ _ _ (by decide)).trans state, (Part.od_setOd_ne _ _ _ _ (by decide)).trans result, Part.od_setOd_self _ _ _ _,
    rfl, rfl, Part.only_trans (Part.only_mono only (by decide)) (Part.only_trans (Part.only_setOd_of_mem _ _ _ _) (Part.only_putCodec_of_mem _ _))⟩

/-- The queueing of sample pages changes nothing but the pavilions' queues. -/
theorem Part.only_queueSamples (s : Part) (sl : Nat) (l : List Nat) : Part.only [.pavs] s (iter l s (Part.queueSample sl)) :=
  Part.only_iter (fun s lp => by
    unfold Part.queueSample
    split
    · exact Part.only_onPav _ _ _
    · exact Part.only_refl _ _) l s

theorem Part.startBuild_spec (s : Part) (sl : Nat) : (s.startBuild sl).od0 .buildState = 1 ∧ (s.startBuild sl).od0 .buildResult = 0 ∧
    (s.startBuild sl).od0 .buildPagesSampled = 0 ∧ (s.startBuild sl).codec.counts = [] ∧ (s.startBuild sl).codec.coded = 0 ∧
    Part.only [.dict, .codec, .pavs] s (s.startBuild sl) := by
  have queued : Part.only [.pavs] s.zeroCounts (s.startBuild sl) := s.zeroCounts.only_queueSamples sl _
  have hod : ∀ e, (s.startBuild sl).od0 e = s.zeroCounts.od0 e := fun e =>
    (Part.keepsOd_of_only (l := []) queued (by decide)).od_eq (by simp) 0
  have hcodec : (s.startBuild sl).codec = s.zeroCounts.codec := queued .codec (by decide)
  obtain ⟨state, result, pages, counts, coded, only⟩ := s.zeroCounts_spec
  rw [hod, hod, hod, hcodec]
  exact ⟨state, result, pages, counts, coded, Part.only_trans (Part.only_mono only (by decide)) (Part.only_mono queued (by decide))⟩

/-- CANCEL: the build's tasks leave every queue, what it loads or waits to load is dropped, and it ends CANCELLED. -/
theorem Part.cancelBuild_spec (s : Part) : s.cancelBuild.od0 .buildState = 4 ∧ s.cancelBuild.od0 .buildResult = 5 ∧
    (∀ p : Pav, ∀ t ∈ (s.cancelBuild.pav p).codecQ, t.use ≠ .build) ∧ Part.only [.dict, .codec, .pavs] s s.cancelBuild := by
  unfold Part.cancelBuild
  extract_lets a codecA b codecB c
  have queues : ∀ p : Pav, ∀ t ∈ (a.pav p).codecQ, t.use ≠ .build := fun p t ht => by
    rw [Part.pav_iterAll s _ p p.isLt] at ht
    simpa using (List.mem_filter.mp ht).2
  have oa : Part.only [.dict, .codec, .pavs] s a := Part.only_mono (Part.only_iterPav _ _ _ _) (by decide)
  have ob : Part.only [.codec] a b := by
    dsimp only [b]
    split
    · exact a.only_putCodec _
    · exact Part.only_refl _ _
  have oc : Part.only [.codec] a c := Part.only_trans ob (b.only_putCodec _)
  obtain ⟨state, result, -, oq⟩ := c.setBuild_spec (state := 4) (result := 5) (by decide) (by decide)
  refine ⟨state, result, fun p => ?_, Part.only_trans oa (Part.only_trans (Part.only_mono oc (by decide)) (Part.only_mono oq (by decide)))⟩
  rw [Part.setOd_pav, Part.setOd_pav, show c.pav p = a.pav p by unfold Part.pav; rw [oc .pavs (by decide)]]
  exact queues p

section
variable {s : Part} {w : Who} (hw : s.mayWrite w .codebookBuildCommand)
include hw

theorem Part.buildCommand_start (hl : s.codec.loading = none) (hb : s.building = false)
    (ha : s.od .sliceSamplingAllowed (s.od0 .buildSourceSlice) = 1)
    (hr : s.od .sliceState (s.od0 .buildSourceSlice) = 2) (hs : s.od .codebookState (s.od0 .buildTargetSlot) < 2)
    (hc : s.od .codebookCasks (s.od0 .buildTargetSlot) = 0) (hsl : s.od .codebookSlices (s.od0 .buildTargetSlot) = 0) :
    s.buildCommand w 1 = (s.startBuild (s.od0 .buildSourceSlice)).ok := by
  unfold Part.buildCommand
  rw [Part.command_eq _ _ _ hw (by decide) (by simp)]
  simp only [hl, hb, ha, hr, hc, hsl, Nat.not_le.mpr hs, Option.any_none, bne_self_eq_false, decide_false, Bool.or_self, Bool.false_eq_true,
    if_false, if_true]
  rfl

theorem Part.buildCommand_cancel (hl : ∀ q, s.codec.loading = some q → q.2.2 = none) (hb : s.building = true) :
    s.buildCommand w 2 = s.cancelBuild.ok := by
  have own : (s.codec.loading.any fun q => q.2.2.isSome) = false := by
    rw [Option.any_eq_false_iff_get]
    exact fun h => by rw [hl _ (Option.some_get h).symm]; rfl
  unfold Part.buildCommand
  rw [Part.command_eq _ _ _ hw (by decide) (by simp)]
  simp [own, hb]

end

/-! ## The obligation -/

/-- Settles O32: each command by what it comes to where its conditions hold. -/
theorem codebookCommands : Obligations.CodebookCommands := by
  intro s w b
  refine ⟨fun hl => ⟨fun image => ?_, ?_, ?_⟩, fun hw hl h2 h0 _ => ?_, fun hw hl hb h1 => ?_, fun image hw hl hi hb hs hc hsl hp => ?_,
    fun image hw hl hi => ?_, fun hw hl hb ha hr hs hc hsl => ?_, fun hw hl hb => ?_⟩
  · rw [exec_codebookImageWrite, execCodebookImageWrite, State.run_eq, Part.imageWrite_waits hl, Reply.answer_later]
  · rw [exec_codebookDrain, execCodebookDrain, State.run_eq, Part.codebookCommand_waits hl, Reply.answer_later]
  · rw [exec_codebookUnload, execCodebookUnload, State.run_eq, Part.codebookCommand_waits hl, Reply.answer_later]
  · obtain ⟨state, keeps, only⟩ := s.part.beginDrainBook_spec b
    exact ⟨_, by rw [exec_codebookDrain, execCodebookDrain, State.run_eq, Part.codebookCommand_drain hw hl h2 h0, Reply.answer_ok], state,
      keeps.od_eq (by decide) b, keeps.od_eq (by decide) b, only⟩
  · have hb' : b.val < 65536 := by omega
    refine ⟨_, by rw [exec_codebookUnload, execCodebookUnload, State.run_eq, Part.codebookCommand_unload hw hl hb h1, Reply.answer_ok], ?_, ?_,
      Part.only_trans (Part.only_setOd _ _ _ _) (Part.only_resetOd _ _ _)⟩
    · rw [Part.od_resetOd _ _ _ _ _ hb' hb', if_neg (by simp), Part.od_setOd_self]
      rfl
    · rw [Part.od_resetOd _ _ _ _ _ hb' hb', if_pos ⟨rfl, rfl⟩]
  · have ok := Part.imageRefusal_none hi hb hs hc hsl hp
    refine ⟨_, by rw [exec_codebookImageWrite, execCodebookImageWrite, State.run_eq, Part.imageWrite_accepted hw hl ok, Reply.answer_later],
      rfl, ?_, ?_⟩
    · rw [Part.beginLoad_eq, Part.putCodec_od, Part.od_setOd_self]
      rfl
    · exact Part.only_trans (Part.only_setOd_of_mem _ _ _ _) (Part.only_putCodec_of_mem _ _)
  · have no := Part.imageRefusal_reason hi s.part b
    refine ⟨_, by rw [exec_codebookImageWrite, execCodebookImageWrite, State.run_eq, Part.imageWrite_refused hw hl (no ▸ hi), no]; rfl, ?_,
      Part.only_setOd _ _ _ _⟩
    exact Part.od_setOd_val _ _ _ _ (imageReason_lt _)
  · have run := Part.buildCommand_start hw hl hb ha hr hs hc hsl
    exact ⟨_, by rw [exec_codebookBuildStart, execCodebookBuildStart, State.run_eq, run, Reply.answer_ok], s.part.startBuild_spec _⟩
  · exact ⟨_, by rw [exec_codebookBuildCancel, execCodebookBuildCancel, State.run_eq, Part.buildCommand_cancel hw hl hb, Reply.answer_ok],
      s.part.cancelBuild_spec⟩

end Sys2Proof.Machine
end

section
/-!
O33: how codebook builds and loads end, and what the codec's lanes do with a task (spec/03 R114, R122, R124, R125, R133, R137 to R142, spec/05 R211).
-/

namespace Sys2Proof.Machine

/-! ## The end of a build's sampling -/

/-- What an image for a slot is refused for does not depend on the build's state. -/
theorem Part.imageRefusal_setBuildState (s : Part) (v b image : Nat) : (s.setOd .buildState 0 v).imageRefusal b image = s.imageRefusal b image := by
  have od (e : Entry) (h : Entry.buildState ≠ e) : (s.setOd .buildState 0 v).od e b = s.od e b := Part.od_setOd_ne s _ _ _ h
  unfold Part.imageRefusal
  rw [od _ (by decide), od _ (by decide), od _ (by decide)]
  rfl

/-- A build's image that is accepted begins its load. -/
theorem Part.loadBuilt_accepted {s : Part} {b image : Nat} (hl : s.codec.loading = none) (h : s.imageRefusal b image = 0) :
    s.loadBuilt b image = (s.setOd .codebookLoadResult b 0).beginLoad b image none := by
  simp [Part.loadBuilt, hl, h]

section
variable {s : State} (hb : s.part.od0 .buildState = 1) (hq : ∀ k : Pav, ∀ t ∈ (s.part.pav k).codecQ, t.use ≠ .build)
include hb hq

/-- With no sample left in a queue the sampling of a build is done. -/
theorem noSampleLeft :
    (s.part.od0 .buildState != 1 || (allPavs.any fun p => (s.part.pav p).codecQ.any fun t => t.use == .build)) = false := by
  have none : (allPavs.any fun p => (s.part.pav p).codecQ.any fun t => t.use == .build) = false := by
    rw [List.any_eq_false]
    exact fun p hp => by simpa using hq ⟨p, List.mem_range.mp hp⟩
  rw [hb, none]
  rfl

theorem exec_buildSamplingDone_few (hn : s.part.od0 .buildPagesSampled < 64) :
    exec .buildSamplingDone s = .next (s.withPart (s.part.setBuild 4 3)) := by
  rw [exec_buildSamplingDone, execBuildSamplingDone, State.run_eq]
  simp only [noSampleLeft hb hq, hn, if_true, Bool.false_eq_true, if_false]
  rfl

/-- The image of a build, with the code lengths that its counts give and the ratio they reach. -/
theorem exec_buildSamplingDone_loads (hn : 64 ≤ s.part.od0 .buildPagesSampled) {l : List Nat} {image : Nat}
    (hl : l = boundedLengths 64 ((List.range 67).map fun k => s.part.codec.counts.getD k 0 + 1))
    (hi : image = makeImage l (min 65535 (s.part.od0 .buildPagesSampled * 4096 * 8 * 100 /
      max 1 (codedBits l (s.part.od0 .buildPagesSampled) s.part.codec.counts)))) :
    exec .buildSamplingDone s = .next (s.withPart ((s.part.setOd .buildState 0 2).loadBuilt (s.part.od0 .buildTargetSlot) image)) := by
  rw [exec_buildSamplingDone, execBuildSamplingDone, State.run_eq]
  simp only [noSampleLeft hb hq, Nat.not_lt.mpr hn, Bool.false_eq_true, if_false, ← hl, ← hi]

end

/-! ## The end of a load -/

/-- A field written within a width keeps a number within it. -/
theorem setBits_lt {n x lo len v : Nat} (hx : x < 2 ^ n) (hn : lo + len ≤ n) : setBits x lo len v < 2 ^ n := by
  have field : ∀ y < 2 ^ len, y <<< lo < 2 ^ n := fun y hy =>
    (Nat.shiftLeft_lt hy).trans_le (Nat.pow_le_pow_right (by decide) (by omega))
  have hv : v &&& (2 ^ len - 1) < 2 ^ len := by
    rw [Nat.and_two_pow_sub_one_eq_mod]
    exact Nat.mod_lt _ (Nat.two_pow_pos _)
  exact Nat.or_lt_two_pow (Nat.xor_lt_two_pow hx (field _ (bits_lt _ _ _))) (field _ hv)

/-- An image as it is stored fits its entry. -/
theorem imageStored_lt {image : Nat} (h : image < 2 ^ 512) : imageStored image < 2 ^ 512 :=
  setBits_lt (setBits_lt h (by decide)) (by decide)

/-- The slot of a load that ended: its image, LOADED, its next generation; no load runs. -/
def Part.loaded (s : Part) (b image : Nat) : Part :=
  (((s.putCodec { s.codec with loading := none }).setOd .codebookImage b (imageStored image)).setOd .codebookState b 1).modOd
    .codebookGeneration b fun g => (g + 1) % 256

theorem Part.loaded_spec (s : Part) (b : Nat) {image : Nat} (hi : image < 2 ^ 512) :
    (s.loaded b image).od .codebookImage b = imageStored image ∧ (s.loaded b image).od .codebookState b = 1 ∧
    (s.loaded b image).od .codebookGeneration b = (s.od .codebookGeneration b + 1) % 256 ∧ Part.only [.dict, .codec] s (s.loaded b image) := by
  unfold Part.loaded
  rw [Part.modOd_eq]
  refine ⟨?_, ?_, ?_, ?_⟩
  · rw [Part.od_setOd_ne _ _ _ _ (by decide), Part.od_setOd_ne _ _ _ _ (by decide)]
    exact Part.od_setOd_val _ _ _ _ (by rw [show 8 * Entry.codebookImage.info.bytes = 512 from rfl]; exact imageStored_lt hi)
  · rw [Part.od_setOd_ne _ _ _ _ (by decide)]
    exact Part.od_setOd_self _ _ _ _
  · rw [Part.od_setOd_val _ _ _ _ (by exact Nat.mod_lt _ (by decide)), Part.od_setOd_ne _ _ _ _ (by decide), Part.od_setOd_ne _ _ _ _ (by decide),
      Part.putCodec_od]
  · exact Part.only_trans (Part.only_putCodec_of_mem _ _) (Part.only_trans (Part.only_setOd_of_mem _ _ _ _)
      (Part.only_trans (Part.only_setOd_of_mem _ _ _ _) (Part.only_setOd_of_mem _ _ _ _)))

/-- With nothing waiting for the end of a load nothing is handled. -/
theorem Part.bookNext_none {s : Part} (h : s.codec.waiting = []) : s.bookNext s.codec.waiting.length = s := by
  rw [h]
  rfl

section
variable {s : Part} {b image : Nat} (hq : s.codec.waiting = [])
include hq

theorem Part.loadDone_built (hl : s.codec.loading = some (b, image, none)) :
    s.loadDone = (s.loaded b image).setBuild 3 1 := by
  unfold Part.loadDone
  rw [hl]
  exact Part.bookNext_none (s := (s.loaded b image).setBuild 3 1) hq

theorem Part.loadDone_written (hl : s.codec.loading = some (b, image, some .monitor)) :
    s.loadDone = (s.loaded b image).emit (.answer .monitor rOk []) := by
  unfold Part.loadDone
  rw [hl]
  exact Part.bookNext_none (s := (s.loaded b image).emit (.answer .monitor rOk [])) hq

end

/-! ## What a lane does with a task -/

/-- A task begins on its lanes, which wake. -/
def Part.lanesWoken (s : Part) (p : Nat) (t : CodecTask) : Part :=
  s.onPav p fun k => { k with laneGated := (s.lanesOf p t).foldl (fun g j => setBit g j false) k.laneGated }

/-- What the lanes do with a task other than a build's sample. -/
def Part.laneRuns (s : Part) (p : Nat) (t : CodecTask) (fault : Nat) : Part :=
  if t.decodes then s.decodeLaneTask p t fault
  else if t.use = .firstWrite then s.endFirstWrite p t
  else s.endCompress p t.slice t.lpage t.page (t.use = .recode)

theorem exec_codecLaneDispatch_task {s : State} {p : Pav} {t : CodecTask} {u r : Part} {fault : Fin 6} (hp : s.part.parked (0x0300 + p) = false)
    (hn : s.part.nextCodec p = some (t, u)) (hb : t.use ≠ .build) (hr : (u.lanesWoken p t).laneRuns p t fault = r) :
    exec (.codecLaneDispatch p fault) s = .next (s.withPart r) := by
  rw [← hr, exec_codecLaneDispatch, execCodecLaneDispatch, State.run_eq]
  simp only [hp, hn, hb, Bool.false_eq_true, if_false]
  rfl

section
variable {s : Part} {p : Nat} {t : CodecTask}

/-- A decode that succeeds at once. -/
theorem Part.decodeTwice_clean {v : Nat} (ha : t.again = false) (hc : (s.pav p).cbInvalid = false) (hd : s.decodeTask t = .ok v) :
    s.decodeTwice p t 0 = .good s v := by
  simp [Part.decodeTwice, ha, hc, hd]

/-- A lane that faults once: the fault is logged, and the repeat on another lane is counted. -/
theorem Part.decodeTwice_repeated {v k : Nat} (ha : t.again = false) (hc : (s.pav p).cbInvalid = false) (hk : k ≠ 0)
    (hd : (s.logFault p t (laneFault t k)).decodeTask t = .ok v) :
    s.decodeTwice p t k = .good ((s.logFault p t (laneFault t k)).count .codecRetryOk 0) v := by
  simp [Part.decodeTwice, ha, hc, hk, hd]

/-- A warm read whose page is still WARM is answered with the line that its decode gives. -/
theorem Part.laneRuns_warmRead {r : Part} {v k : Nat} (hu : t.use = .warmRead) (hw : (s.cell p t.slice t.lpage).tier = tierWarm)
    (hd : s.decodeTwice p t k = .good r v) : s.laneRuns p t k = r.respond t.msg 0 v := by
  simp [Part.laneRuns, CodecTask.decodes, Part.decodeLaneTask, hu, hw, hd]

theorem Part.laneRuns_firstWrite (hu : t.use = .firstWrite) (k : Nat) : s.laneRuns p t k = s.endFirstWrite p t := by
  simp [Part.laneRuns, CodecTask.decodes, hu]

/-- A demotion of a page of zeros outside a fixed frame is ready as ZERO. -/
theorem Part.laneRuns_demoteZero {m : Move} (hu : t.use = .demotion) (hz : t.page = 0)
    (hm : (s.pav p).moves.find? (fun m => m.slice == t.slice && m.lpage == t.lpage) = some m) (hf : (s.cell p t.slice t.lpage).fixed = false)
    (k : Nat) : s.laneRuns p t k = (s.versionCheck t.slice m.new.version).readyMove p t.slice t.lpage
      { s.cell p t.slice t.lpage with tier := tierZero, slotClass := 0, version := m.new.version, loc := 0 } 0 := by
  simp [Part.laneRuns, CodecTask.decodes, Part.endCompress, hu, hz, hm, hf]

end

/-! ## The obligation -/

/-- Settles O33: the ends of a build and of a load by what they store, the lanes by the task's use. The code lengths of a build are those of log
entry 28, and the order of the tasks that of log entry 73. -/
theorem codecWorks : Obligations.CodecWorks := by
  intro s p
  refine ⟨fun hb hq hn => ?_, fun l image hl hi hb hq hn hr _ hload => ?_, fun b image hl hq hg hi => ?_, fun b image hl hq hg hi => ?_, ?_,
    fun t u v hp hn hv => ⟨fun hu ha hw => ⟨fun line hc hd => ?_, fun line k hc hk hd => ?_⟩, fun hu => ?_, fun m hu hz hm hf => ?_⟩⟩
  · obtain ⟨state, result, -, only⟩ := s.part.setBuild_spec (state := 4) (result := 3) (by decide) (by decide)
    exact ⟨_, exec_buildSamplingDone_few hb hq hn, state, result, only⟩
  · have run := exec_buildSamplingDone_loads hb hq hn hl hi
    rw [Part.loadBuilt_accepted (by exact hload) ((s.part.imageRefusal_setBuildState _ _ _).trans hr), Part.beginLoad_eq] at run
    refine ⟨_, run, ?_, rfl, Part.only_trans (Part.only_setOd_of_mem _ _ _ _)
      (Part.only_trans (Part.only_setOd_of_mem _ _ _ _) (Part.only_putCodec_of_mem _ _))⟩
    rw [Part.od0, Part.putCodec_od, Part.od_setOd_ne _ _ _ _ (by decide)]
    exact Part.od_setOd_self _ _ _ _
  · obtain ⟨stored, state, gen, only⟩ := s.part.loaded_spec b hi
    obtain ⟨done, success, keeps, built⟩ := (s.part.loaded b image).setBuild_spec (state := 3) (result := 1) (by decide) (by decide)
    exact ⟨_, by rw [exec_codebookLoadDone, execCodebookLoadDone, State.run_eq, Part.loadDone_built hq hl, Part.settleHeld_none (by exact hg)],
      rfl, (keeps.od_eq (by decide) _).trans stored, (keeps.od_eq (by decide) _).trans state, (keeps.od_eq (by decide) _).trans gen, done, success,
      Part.only_trans only (Part.only_mono built (by decide))⟩
  · obtain ⟨stored, state, gen, only⟩ := s.part.loaded_spec b hi
    exact ⟨_, by rw [exec_codebookLoadDone, execCodebookLoadDone, State.run_eq, Part.loadDone_written hq hl, Part.settleHeld_none (by exact hg)],
      rfl, stored, state, gen, only⟩
  · rw [exec_codebookTableReloadDone, execCodebookTableReloadDone, State.run_eq]
  · obtain rfl : v = u.lanesWoken p t := hv
    exact exec_codecLaneDispatch_task hp hn (by simp [hu]) (Part.laneRuns_warmRead hu hw (Part.decodeTwice_clean ha hc hd))
  · obtain rfl : v = u.lanesWoken p t := hv
    exact exec_codecLaneDispatch_task hp hn (by simp [hu]) (Part.laneRuns_warmRead hu hw (Part.decodeTwice_repeated ha hc hk hd))
  · obtain rfl : v = u.lanesWoken p t := hv
    exact exec_codecLaneDispatch_task hp hn (by simp [hu]) (Part.laneRuns_firstWrite hu _)
  · obtain rfl : v = u.lanesWoken p t := hv
    exact exec_codecLaneDispatch_task hp hn (by simp [hu]) (Part.laneRuns_demoteZero hu hz hm hf _)

end Sys2Proof.Machine
end

section
/-!
O23: a line of a TAG-SPLIT slice is stored: its tag-region entry and its ciphertext in the write queue (spec/04 R160, R162, R164).
-/

namespace Sys2Proof.Machine

/-! ## The count of poisoned lines -/

theorem Part.keepsOd_linePoisonCount (s : Part) (sl old new : Nat) :
    Part.keepsOd [.sliceLinesPoisoned] s (s.linePoisonCount sl old new) := Part.keepsOd_setAny _ _ _ (by simp)

theorem Part.only_linePoisonCount (s : Part) (sl old new : Nat) : Part.only [.dict] s (s.linePoisonCount sl old new) :=
  s.only_setOd _ _ _

theorem Part.inline_linePoisonCount (s : Part) (a old new sl : Nat) : (s.linePoisonCount a old new).inline sl = s.inline sl := by
  unfold Part.inline
  rw [(s.keepsOd_linePoisonCount a old new).od_eq (by decide)]

theorem Part.burstLost_linePoisonCount (s : Part) (sl old new p x : Nat) :
    (s.linePoisonCount sl old new).burstLost p x = s.burstLost p x := by
  have od {e : Entry} (he : e ∉ [Entry.sliceLinesPoisoned]) (i : Nat) : (s.linePoisonCount sl old new).od e i = s.od e i :=
    (s.keepsOd_linePoisonCount sl old new).od_eq he i
  unfold Part.burstLost Part.rankState Part.placeOf Part.geom
  simp only [od (show Entry.dramDevice ∉ _ by decide), od (show Entry.dramStack ∉ _ by decide), od (show Entry.rankState ∉ _ by decide)]
  rfl

/-! ## The writes that wait for a burst -/

/-- The entry is a write of a burst. -/
def QEnt.writes (q : QEnt) (x : Nat) : Bool := q.write && q.burst == x

/-- Where a burst lies depends on the dictionary only. -/
theorem Part.placeOf_congr {a b : Part} (h : b.dict = a.dict) (p x : Nat) : b.placeOf p x = a.placeOf p x := by
  unfold Part.placeOf Part.geom Part.od
  rw [h]

theorem Part.queued_eq (s : Part) (p x : Nat) : s.queued p x =
    (((s.chan ((s.placeOf p x).chan p)).withheld ++ (s.chan ((s.placeOf p x).chan p)).queue).filter fun q => q.writes x).getLast?.map (·.value) :=
  rfl

/-- The burst of a rank that is not LOST: its write goes to the end of its channel's queue. -/
theorem Part.writeBurst_spec {s : Part} {p x : Nat} (h : s.burstLost p x = false) (value who label sl lp : Nat) :
    Part.only [.delta, .chans] s (s.writeBurst p x value who label sl lp) ∧
    ∃ q : QEnt, q.writes x = true ∧ q.value = value ∧
      ((s.writeBurst p x value who label sl lp).chan ((s.placeOf p x).chan p)).queue = (s.chan ((s.placeOf p x).chan p)).queue ++ [q] := by
  unfold Part.writeBurst
  rw [if_neg (by simp [h])]
  extract_lets pl c mine gone u q
  have hu : Part.only [.delta] s u := Part.only_iter (fun s r => s.only_count _ _ _) _ _
  refine ⟨Part.only_trans (Part.only_mono hu (by decide)) (Part.only_mono (Part.only_onChan _ _ _) (by decide)), q, ?_, rfl, ?_⟩
  · simp [q, QEnt.writes, Part.qEntry]
  · rw [show (s.placeOf p x).chan p = c from rfl, Part.onChan_chan_self]
    unfold Part.chan
    rw [show u.chans = s.chans from hu .chans (by decide)]

/-- The queue of a channel after a write of one of the part's own lines: as it was, or with that write at its end where none waited. -/
theorem Part.putOwnLine_queue (s : Part) (p b who sl lp c : Nat) :
    ((s.putOwnLine p b who sl lp).chan c).withheld = (s.chan c).withheld ∧
    (((s.putOwnLine p b who sl lp).chan c).queue = (s.chan c).queue ∨
      ((s.chan c).queue.any fun q => q.writes b) = false ∧
        ∃ q : QEnt, q.burst = b ∧ ((s.putOwnLine p b who sl lp).chan c).queue = (s.chan c).queue ++ [q]) := by
  unfold Part.putOwnLine
  extract_lets d k
  split
  · exact ⟨rfl, .inl rfl⟩
  next h =>
  have hk : k.2.chan = s.chan := by
    unfold k
    split
    · obtain e | ⟨t, e⟩ := s.classFor_spec p who 1 1
      · rw [e]
      · rw [e]; rfl
    · rfl
  rw [Part.onChan_chan, hk]
  split
  next hd =>
    subst hd
    refine ⟨rfl, .inr ⟨?_, _, rfl, rfl⟩⟩
    simp only [Bool.or_eq_true, not_or, Bool.not_eq_true] at h
    exact h.2
  next => exact ⟨rfl, .inl rfl⟩

/-- Where a write of a burst waits in its queue, a write of one of the part's own lines is not the newest write of that burst. -/
theorem Part.queued_putOwnLine {s : Part} {p x : Nat} (h : ((s.chan ((s.placeOf p x).chan p)).queue.any fun q => q.writes x) = true)
    (b who sl lp : Nat) : (s.putOwnLine p b who sl lp).queued p x = s.queued p x := by
  rw [Part.queued_eq, Part.queued_eq, Part.placeOf_congr ((s.putOwnLine_spec p b who sl lp).1 .dict (by decide))]
  obtain ⟨withheld, same | ⟨absent, q, hq, more⟩⟩ := s.putOwnLine_queue p b who sl lp ((s.placeOf p x).chan p)
  · rw [withheld, same]
  · have other : q.writes x = false := by
      have : b ≠ x := fun e => by subst e; rw [h] at absent; cases absent
      simp [QEnt.writes, hq, this]
    rw [withheld, more, ← List.append_assoc, List.filter_append]
    simp [other]

/-! ## The tag-region entry -/

theorem Part.tagEnt_setTag (s : Part) (p x : Nat) (e : TagEnt) (y : Nat) :
    (s.setTag p x e).tagEnt p y = if x = y then e else s.tagEnt p y := by
  unfold Part.setTag
  extract_lets o
  obtain ⟨-, keeps⟩ := Part.putOwnLine_spec (s.onPav p fun v => { v with tags := v.tags.set TagEnt.zero x e }) p
    (s.tagBurst p (x / extBursts) (x % extBursts)) o.owner o.owner 0
  obtain ⟨t, h⟩ := keeps p
  unfold Part.tagEnt
  rw [h, Part.onPav_pav_self]
  exact Sparse.get_set _ _ _ _ _

theorem Part.only_setTag (s : Part) (p x : Nat) (e : TagEnt) : Part.only [.pavs, .chans] s (s.setTag p x e) :=
  Part.only_trans (Part.only_mono (s.only_onPav _ _) (by decide)) (Part.putOwnLine_spec _ _ _ _ _ _).1

/-- Where a write of a burst waits in its queue, a tag-region entry leaves what waits for that burst. -/
theorem Part.queued_setTag {s : Part} {p x : Nat} (h : ((s.chan ((s.placeOf p x).chan p)).queue.any fun q => q.writes x) = true)
    (y : Nat) (e : TagEnt) : (s.setTag p y e).queued p x = s.queued p x :=
  Part.queued_putOwnLine (s := s.onPav p fun v => { v with tags := v.tags.set TagEnt.zero y e }) h _ _ _ _

/-! ## The obligation -/

/-- A line of a TAG-SPLIT slice goes into the queue under SDDC, and its version, tag and META into the tag region. -/
theorem Part.putLine_split {s : Part} {sl : Nat} (h : s.inline sl = false) (p lp x cipher version tag mt old who label : Nat) :
    s.putLine p sl lp x cipher version tag mt old who label =
      ((s.linePoisonCount sl old mt).writeBurst p x (sddcEncode cipher) who label sl lp).setTag p x ⟨version, tag, mt⟩ := by
  unfold Part.putLine
  dsimp only
  rw [s.inline_linePoisonCount, if_neg (by simp [h])]

/-- Settles O23: the write of the line is the last of its queue, and the write of its tag-region line, which follows it, is either of another
burst or merges with it. -/
theorem lineIsStored : Obligations.LineIsStored := by
  intro s p sl lp x cipher version tag mt old who label hi hl _ _ _ t
  obtain ⟨wrote, q, hq, hv, hqueue⟩ := Part.writeBurst_spec (s := s.linePoisonCount sl old mt) (p := p) (x := x)
    (by rw [s.burstLost_linePoisonCount, hl]) (sddcEncode cipher) who label sl lp
  have ht : t = _ := Part.putLine_split hi p lp x cipher version tag mt old who label
  generalize (s.linePoisonCount sl old mt).writeBurst p x (sddcEncode cipher) who label sl lp = u at wrote hqueue ht
  rw [← Part.placeOf_congr (wrote .dict (by decide)) p x] at hqueue
  have written : Part.only [.dict, .delta, .chans] s u :=
    Part.only_trans (Part.only_mono (s.only_linePoisonCount sl old mt) (by decide)) (Part.only_mono wrote (by decide))
  have only : Part.only [.dict, .delta, .chans, .pavs] s t := by
    rw [ht]
    exact Part.only_trans (Part.only_mono written (by decide)) (Part.only_mono (u.only_setTag _ _ _) (by decide))
  refine ⟨?_, ?_, fun y hy => ?_, only .links (by decide), only .ports (by decide)⟩
  · rw [ht, Part.tagEnt_setTag, if_pos rfl]
  · rw [ht, Part.queued_setTag (by simp [hqueue, hq]), Part.queued_eq, hqueue]
    simp [hq, hv]
  · rw [ht, Part.tagEnt_setTag, if_neg hy.symm]
    unfold Part.tagEnt Part.pav
    rw [show u.pavs = s.pavs from written .pavs (by decide)]

end Sys2Proof.Machine
end

section
/-!
O36: the key sets of slices are generated, imported and re-keyed (spec/04 R153, R156, R157, R174, R175, R178).
-/

namespace Sys2Proof.Machine

/-! ## Drawing a set -/

theorem Part.only_free (s : Part) : Part.only [.freeCtr] s s.free.2 := fun f hf => by cases f <;> first | rfl | simp at hf

/-- A drawn set has a data key other than its tweak key, and drawing uses up free values only. -/
theorem Part.drawSet_spec (s : Part) (n : Nat) :
    (s.drawSet n).2.1 ≠ (s.drawSet n).2.2.1 ∧ Part.only [.freeCtr] s (s.drawSet n).1 := by
  induction n generalizing s with
  | zero => exact ⟨Nat.zero_ne_one, Part.only_refl _ _⟩
  | succ n ih =>
    unfold Part.drawSet
    extract_lets a b c k
    have drawn : Part.only [.freeCtr] s c.2 := Part.only_trans (Part.only_trans s.only_free a.2.only_free) b.2.only_free
    split
    · exact ⟨(ih c.2).1, Part.only_trans drawn (ih c.2).2⟩
    next h => exact ⟨h, drawn⟩

/-! ## Sending a set to the key caches -/

/-- A key set is on its way to a pavilion's key cache, which cannot serve it until then (spec/04 R152). -/
def Part.tellKey (ix : Nat) (s : Part) (p : Nat) : Part :=
  (s.onPav p fun v => { v with keyInvalid := v.keyInvalid ++ [ix] }).send 0 9
    { Msg.zero with cls := clsManagement, opcode := 12, src := 0, dst := p, units := 4, addr := ix }

theorem Part.only_tellKey (ix : Nat) (s : Part) (p : Nat) : Part.only [.pavs, .links] s (Part.tellKey ix s p) :=
  Part.only_trans (Part.only_mono (s.only_onPav _ _) (by decide)) (Part.only_mono (Part.only_send _ _ _ _) (by decide))

theorem Part.tellKey_keyInvalid (ix : Nat) (s : Part) (p q : Nat) :
    ((Part.tellKey ix s p).pav q).keyInvalid = if p = q then (s.pav q).keyInvalid ++ [ix] else (s.pav q).keyInvalid := by
  unfold Part.tellKey
  rw [Part.send_keeps (fun v => v.keyInvalid) fun _ _ => rfl, Part.onPav_pav]
  split
  · next h => rw [h]
  · rfl

/-- Every pavilion that is told of a set waits for it. -/
theorem Part.mem_keyInvalid_tellKeys (ix : Nat) (l : List Nat) (s : Part) (q : Nat) (h : q ∈ l ∨ ix ∈ (s.pav q).keyInvalid) :
    ix ∈ ((iter l s (Part.tellKey ix)).pav q).keyInvalid := by
  induction l generalizing s with
  | nil => exact h.resolve_left List.not_mem_nil
  | cons p l ih =>
    refine ih _ ?_
    rw [Part.tellKey_keyInvalid]
    rcases h with h | h
    · rcases List.mem_cons.mp h with rfl | h
      · exact .inr (by simp)
      · exact .inl h
    · exact .inr (by split <;> simp [h])

/-! ## Installing a set -/

/-- Another state of the key store, where the keys may change. -/
theorem Part.only_keys_of_mem {l : List PartField} (s : Part) (k : KeyState) (h : PartField.keys ∈ l := by decide) :
    Part.only l s { s with keys := k } := fun f hf => by cases f <;> first | rfl | exact absurd h hf

/-- The pavilions in service depend on PAVILION_STATE only. -/
theorem Part.serving_congr {a b : Part} (h : ∀ p, b.od .pavilionState p = a.od .pavilionState p) : b.serving = a.serving := by
  unfold Part.serving Part.inService Part.pstate
  simp only [h]

/-- From `a` to `b` a key set goes into a slot and is sent to the key caches of the pavilions in service: no other set and no sweep changes, and
of the dictionary KEYSTORE_USED at most. -/
structure KeyInstalled (sl slot : Nat) (k : Nat × Nat × Nat) (a b : Part) : Prop where
  only : Part.only [.dict, .keys, .pavs, .links] a b
  od : Part.keepsOd [.keystoreUsed] a b
  here : b.keySet sl slot = ⟨true, (a.keySet sl slot).gen, k.1, k.2.1, k.2.2⟩
  other : ∀ i j, setIndex i j ≠ setIndex sl slot → b.keySet i j = a.keySet i j
  sweeps : b.keys.sweeps = a.keys.sweeps
  sent : ∀ p ∈ a.serving, setIndex sl slot ∈ (b.pav p).keyInvalid

theorem KeyInstalled.installSet (s : Part) (sl slot : Nat) (k : Nat × Nat × Nat) : KeyInstalled sl slot k s (s.installSet sl slot k) := by
  unfold Part.installSet
  extract_lets ix u
  change KeyInstalled sl slot k s (iter u.serving u (Part.tellKey ix))
  have stored : Part.only [.dict, .keys] s u := Part.only_trans (s.only_keys_of_mem _) (Part.only_setOd_of_mem _ _ _ _)
  have counted : Part.keepsOd [.keystoreUsed] s u := Part.keepsOd_setAny _ _ _ (by decide)
  have told : Part.only [.pavs, .links] u (iter u.serving u (Part.tellKey ix)) := Part.only_iter (Part.only_tellKey ix) _ _
  have keys : (iter u.serving u (Part.tellKey ix)).keys = u.keys := told .keys (by decide)
  have sets (i j : Nat) : (iter u.serving u (Part.tellKey ix)).keySet i j =
      if setIndex sl slot = setIndex i j then ⟨true, (s.keySet sl slot).gen, k.1, k.2.1, k.2.2⟩ else s.keySet i j := by
    unfold Part.keySet
    rw [keys]
    exact Sparse.get_modify KeySet.zero s.keys.sets ix (fun q => { q with live := true, data := k.1, tweak := k.2.1, mac := k.2.2 }) (setIndex i j)
  exact {
    only := Part.only_trans (Part.only_mono stored (by decide)) (Part.only_mono told (by decide))
    od := Part.keepsOd_trans counted (Part.keepsOd_of_only told (by decide))
    here := by rw [sets, if_pos rfl]
    other := fun i j h => by rw [sets, if_neg h.symm]
    sweeps := by rw [keys]; rfl
    sent := fun p hp => Part.mem_keyInvalid_tellKeys ix _ _ _ <| .inl <| by
      rwa [Part.serving_congr fun p => counted.od_eq (by decide) p] }

/-- Different slots have different indexes in the key store. -/
theorem setIndex_ne {a c : Slice} {b d : Fin 2} (h : (a, b) ≠ (c, d)) : setIndex a b ≠ setIndex c d := fun e => by
  unfold setIndex at e
  exact h (Prod.ext (Fin.ext (by dsimp only; omega)) (Fin.ext (by dsimp only; omega)))

theorem Part.keySet_congr {a b : Part} (h : b.keys = a.keys) (i j : Nat) : b.keySet i j = a.keySet i j := by
  unfold Part.keySet
  rw [h]

/-- A set goes into slot 0 of a slice, which is then its active slot, without uses. -/
theorem Part.fillSlot0_spec (s : Part) (sl : Nat) (k : Nat × Nat × Nat) :
    (s.fillSlot0 sl k).keySet sl 0 = ⟨true, (s.keySet sl 0).gen, k.1, k.2.1, k.2.2⟩ ∧
    (s.fillSlot0 sl k).od .sliceKeyActive sl = 0 ∧ (s.fillSlot0 sl k).od .sliceKeyUses sl = 0 ∧
    (∀ i j, setIndex i j ≠ setIndex sl 0 → (s.fillSlot0 sl k).keySet i j = s.keySet i j) ∧
    Part.only [.dict, .keys, .pavs, .links] s (s.fillSlot0 sl k) := by
  have h := KeyInstalled.installSet s sl 0 k
  unfold Part.fillSlot0
  refine ⟨h.here, ?_, Part.od_setOd_val _ _ _ _ (by decide), h.other,
    Part.only_trans h.only (Part.only_trans (Part.only_setOd_of_mem _ _ _ _) (Part.only_setOd_of_mem _ _ _ _))⟩
  rw [Part.od_setOd_ne _ _ _ _ (by decide)]
  exact Part.od_setOd_val _ _ _ _ (by decide)

/-! ## The start of a sweep -/

/-- A sweep of a slice waits for its new key set, with its cause. -/
def Part.markSweep (s : Part) (sl cause : Nat) : Part := { s with keys := { s.keys with sweeps := s.keys.sweeps.put sl cause } }

/-- A sweep that nothing delays draws a set into the slot that is not active. -/
theorem Part.startSweep_draws {s : Part} {sl : Nat} (h1 : s.od .rekeyState sl ≠ 1) (hc : s.sweepComing sl = false)
    (hm : s.od .sliceMigrationId sl = 0) (hr : s.rngOk = true) (cause : Nat) :
    s.startSweep sl cause = ((s.drawSet 64).1.markSweep sl cause).installSet sl (1 - s.od .sliceKeyActive sl) (s.drawSet 64).2 := by
  unfold Part.startSweep
  simp only [h1, hc, hm, hr, decide_false, bne_self_eq_false, Bool.or_self, Bool.not_true, Bool.false_eq_true, if_false]
  rfl

/-! ## The commands -/

section
variable {s : Part} {w : Who} {sl : Nat}

theorem Part.keyRefusal_none (h1 : s.od .sliceState sl = 1) (hn : s.noKeys sl = true) : s.keyRefusal sl = none := by
  simp [Part.keyRefusal, h1, hn]

theorem Part.keyCommand_generate (hw : s.mayWrite w .sliceKeyCommand) (ho : s.roleOf w ≠ roleOperator) (h1 : s.od .sliceState sl = 1)
    (hn : s.noKeys sl = true) (hr : s.rngOk = true) :
    s.keyCommand w sl 1 = ((s.drawSet 64).1.fillSlot0 sl (s.drawSet 64).2).ok := by
  unfold Part.keyCommand
  rw [if_neg (by simp [ho]), Part.command_eq _ _ _ hw (by decide) (by simp)]
  simp [Part.keyRefusal_none h1 hn, hr]

theorem Part.keyCommand_rekey (hw : s.mayWrite w .sliceKeyCommand) (h4 : s.od .sliceState sl ≠ 4) (h0 : s.od .sliceState sl ≠ 0)
    (h1 : s.od .rekeyState sl ≠ 1) (hc : s.sweepComing sl = false) (hn : s.noKeys sl = false) (hm : s.od .sliceMigrationId sl = 0)
    (hr : s.rngOk = true) : s.keyCommand w sl 2 = (s.startSweep sl 1).ok := by
  unfold Part.keyCommand
  rw [if_neg (by simp), Part.command_eq _ _ _ hw (by decide) (by simp)]
  simp [h4, h0, h1, hc, hn, hm, hr]

section
variable {blob : Nat} (hw : s.mayWrite w .sliceKeyImport) (h1 : s.od .sliceState sl = 1) (hn : s.noKeys sl = true)
include hw h1 hn

theorem Part.keyImport_unwrapped {c : Nat} {k : Nat × Nat × Nat} (h : s.readImport sl blob = (c, some k)) :
    s.keyImport w sl blob 112 = (s.fillSlot0 sl k).ok := by
  unfold Part.keyImport
  rw [Part.written_eq _ _ _ hw (by rfl)]
  simp [Part.keyRefusal_none h1 hn, h]

theorem Part.keyImport_refused {c : Nat} (h : s.readImport sl blob = (c, none)) :
    s.keyImport w sl blob 112 = (s.count .keyImportRefused 0).refuse c := by
  unfold Part.keyImport
  rw [Part.written_eq _ _ _ hw (by rfl)]
  simp [Part.keyRefusal_none h1 hn, h]

end

end

/-! ## The obligation -/

/-- Settles O36: a set is drawn, then goes into its slot, and every other index of the key store keeps its set. The sweep of REKEY has cause 1 of
R174, and waits for the caches with the old set active (log entry 205); the refusals of an import that are counted are those of log entry 206. -/
theorem keySetsOfSlices : Obligations.KeySetsOfSlices := by
  intro s w sl
  obtain ⟨differ, drawn⟩ := s.part.drawSet_spec 64
  have keys (i j : Nat) : (s.part.drawSet 64).1.keySet i j = s.part.keySet i j := Part.keySet_congr (drawn .keys (by decide)) i j
  refine ⟨fun hw ho h1 hn hr => ?_, fun hw h4 h0 h1 hc hn hm hr ha => ?_, fun blob hw h1 hn => ⟨fun c k h => ?_, fun c h => ?_⟩⟩
  · obtain ⟨here, active, uses, other, only⟩ := (s.part.drawSet 64).1.fillSlot0_spec sl (s.part.drawSet 64).2
    refine ⟨_, by rw [exec_sliceKeyGenerate, execSliceKeyGenerate, State.run_eq, Part.keyCommand_generate hw ho h1 hn hr, Reply.answer_ok],
      by rw [here], by rw [here, keys], by rw [here]; exact differ, active, uses, fun a b h => ?_,
      Part.only_trans (Part.only_mono drawn (by decide)) (Part.only_mono only (by decide))⟩
    rw [other _ _ (setIndex_ne h), keys]
  · have marked : Part.only [.keys, .freeCtr] s.part ((s.part.drawSet 64).1.markSweep sl 1) :=
      Part.only_trans (Part.only_mono drawn (by decide)) (Part.only_keys_of_mem _ _)
    have put := KeyInstalled.installSet ((s.part.drawSet 64).1.markSweep sl 1) sl (1 - s.part.od .sliceKeyActive sl) (s.part.drawSet 64).2
    refine ⟨_, by rw [exec_sliceKeyRekey, execSliceKeyRekey, State.run_eq, Part.keyCommand_rekey hw h4 h0 h1 hc hn hm hr, Reply.answer_ok,
      Part.startSweep_draws h1 hc hm hr], ?_, ?_, fun p hp => ?_, Part.only_trans (Part.only_mono marked (by decide)) (Part.only_mono put.only (by decide)),
      by rw [put.here], by rw [put.here]; exact differ, ?_⟩
    · rw [put.sweeps]
      exact (Sparse.get_put _ _ _ _ _).trans (if_pos rfl)
    · rw [put.od.od_eq (by decide)]
      exact (Part.keepsOd_of_only (l := []) marked (by decide)).od_eq (by decide) _
    · refine put.sent p ?_
      rwa [Part.serving_congr fun p => (Part.keepsOd_of_only (l := []) marked (by decide)).od_eq (by decide) p]
    · rw [put.other _ _ (by unfold setIndex; omega)]
      exact keys _ _
  · obtain ⟨here, active, uses, other, -⟩ := s.part.fillSlot0_spec sl k
    refine ⟨_, by rw [exec_sliceKeyImport, execSliceKeyImport, State.run_eq, Part.keyImport_unwrapped hw h1 hn h, Reply.answer_ok],
      here, active, uses, fun a b h => other _ _ (setIndex_ne h)⟩
  · rw [exec_sliceKeyImport, execSliceKeyImport, State.run_eq, Part.keyImport_refused hw h1 hn h, Reply.answer_refuse]

end Sys2Proof.Machine
end

section
/-!
O37: wrapping keys, the generator's health, and key sets that reach the key caches (spec/01 R21, spec/04 R149, R152, R154, R155, R175).
-/

namespace Sys2Proof.Machine

/-! ## Wrapping keys -/

/-- A wrapping key changes and reports a state. -/
def Part.putWrap (s : Part) (k : Nat) (f : OneKey → OneKey) (state : Nat) : Part :=
  { s with keys := { s.keys with wraps := s.keys.wraps.modify OneKey.zero k f } }.setOd .wrapKeyState k state

theorem Part.putWrap_spec (s : Part) (k : Nat) (f : OneKey → OneKey) {state : Nat} (h : state < 256) :
    (s.putWrap k f state).keys.wraps.get OneKey.zero k = f (s.keys.wraps.get OneKey.zero k) ∧
    (∀ j, j ≠ k → (s.putWrap k f state).keys.wraps.get OneKey.zero j = s.keys.wraps.get OneKey.zero j) ∧
    (s.putWrap k f state).od .wrapKeyState k = state ∧ (s.putWrap k f state).keys.sets = s.keys.sets ∧
    Part.only [.dict, .keys] s (s.putWrap k f state) := by
  refine ⟨?_, fun j hj => ?_, Part.od_setOd_val _ _ _ _ h, rfl,
    Part.only_trans (s.only_keys_of_mem _) (Part.only_setOd_of_mem _ _ _ _)⟩
  · exact (Sparse.get_modify _ _ _ _ _).trans (if_pos rfl)
  · exact (Sparse.get_modify _ _ _ _ _).trans (if_neg hj.symm)

section
variable {s : Part} {w : Who} {k : Nat} (hk : k ≠ 0)
include hk

/-- A point on its curve makes a wrapping key of the agreement; the key before it, where one was live, ends its generation. -/
theorem Part.wrapPoint_agreed {point key : Nat} (hw : s.mayWrite w .wrapPeerPublic)
    (h : s.agree point (asciiBytes "GZ8-WRAP" ++ [k]) 32 = some key) :
    s.wrapPoint w k point 97 = (s.putWrap k (fun q => ⟨true, if q.live then (q.gen + 1) % 256 else q.gen, key⟩) 1).ok := by
  unfold Part.wrapPoint
  rw [if_neg hk, Part.written_eq _ _ _ hw (by rfl)]
  simp only [h]
  rfl

theorem Part.wrapCommand_destroys (hw : s.mayWrite w .wrapKeyCommand) (h : (s.keys.wraps.get OneKey.zero k).live = true) :
    s.wrapCommand w k 1 = (s.putWrap k (fun q => ⟨false, (q.gen + 1) % 256, 0⟩) 0).ok := by
  unfold Part.wrapCommand
  rw [if_neg hk, Part.command_eq _ _ _ hw (by decide) (by simp)]
  simp only [h, Bool.not_true, Bool.false_eq_true, if_false]
  rfl

end

/-! ## The start of a sweep whose set is held -/

/-- What the start of a sweep stores: the active slot without uses, and REKEY_STATE and REKEY_CAUSE. It waits no more, and the pavilions stay. -/
theorem Part.sweepBegins_spec (s : Part) (sl : Nat) {slot : Nat} (h : slot < 256) :
    (s.sweepBegins sl slot).od .sliceKeyActive sl = slot ∧ (s.sweepBegins sl slot).od .sliceKeyUses sl = 0 ∧
    (s.sweepBegins sl slot).od .rekeyState sl = 1 ∧
    (s.sweepBegins sl slot).od .rekeyCause sl = s.keys.sweeps.get 0 sl % 2 ^ (8 * Entry.rekeyCause.info.bytes) ∧
    (s.sweepBegins sl slot).sweepComing sl = false ∧ (s.sweepBegins sl slot).pavs = s.pavs ∧
    Part.keepsOd [.sliceKeyActive, .sliceKeyUses, .rekeyState, .rekeyCause, .ringState] s (s.sweepBegins sl slot) := by
  unfold Part.sweepBegins
  extract_lets cause ks a b
  have logged : Part.keepsOd [.ringState] (b.setOd .rekeyCause sl cause) ((b.setOd .rekeyCause sl cause).logEv 0x0D06 cause 0 (some sl)) :=
    Part.keepsOd_logEv _ _ _ _ _ _
  refine ⟨?_, ?_, ?_, ?_, ?_, Part.logEv_pavs _ _ _ _ _ _, ?_⟩
  · rw [logged.od_eq (by decide), Part.od_setOd_ne _ _ _ _ (by decide), Part.od_setOd_ne _ _ _ _ (by decide), Part.od_setOd_ne _ _ _ _ (by decide)]
    exact Part.od_setOd_val _ _ _ _ h
  · rw [logged.od_eq (by decide), Part.od_setOd_ne _ _ _ _ (by decide), Part.od_setOd_ne _ _ _ _ (by decide)]
    exact Part.od_setOd_val _ _ _ _ (by decide)
  · rw [logged.od_eq (by decide), Part.od_setOd_ne _ _ _ _ (by decide)]
    exact Part.od_setOd_val _ _ _ _ (by decide)
  · rw [logged.od_eq (by decide)]
    exact Part.od_setOd_self _ _ _ _
  · have erased : a.keys.sweeps.get 0 sl = 0 := (Sparse.get_erase _ _ _ _).trans (if_pos rfl)
    unfold Part.sweepComing
    rw [Part.logEv_keys]
    change (a.keys.sweeps.get 0 sl != 0) = false
    rw [erased]
    rfl
  · have ha : Part.keepsOd [.sliceKeyActive, .sliceKeyUses, .rekeyState, .rekeyCause, .ringState] s a := fun _ _ _ _ => rfl
    exact Part.keepsOd_trans (Part.keepsOd_trans ha <| Part.keepsOd_trans (Part.keepsOd_setAny _ _ _ (by decide)) <|
      Part.keepsOd_trans (Part.keepsOd_setAny _ _ _ (by decide)) (Part.keepsOd_setAny _ _ _ (by decide)))
      (Part.keepsOd_trans (Part.keepsOd_setAny _ _ _ (by decide)) (Part.keepsOd_mono logged (by decide)))

/-! ## Key sets that reach a cache -/

/-- A key set is valid in a pavilion's key cache. -/
def Part.heldBy (s : Part) (p ix : Nat) : Part := s.onPav p fun v => { v with keyInvalid := v.keyInvalid.filter (· != ix) }

/-- Every pavilion in service holds a key set. -/
def Part.heldByAll (s : Part) (ix : Nat) : Bool := s.serving.all fun p => !(s.pav p).keyInvalid.contains ix

/-- A key set that a pavilion's cache takes, with its handle reported. -/
def Part.heldReported (s : Part) (p ix : Nat) : Part :=
  (s.heldBy p ix).setOd (handleEntry (ix % 2)) (ix / 2) (keyHandle 1 (s.keySet (ix / 2) (ix % 2)).gen ix)

/-- The sweep of a key set's slice waits for that set. -/
def Part.sweepAwaits (s : Part) (ix : Nat) : Bool := s.sweepComing (ix / 2) && ix % 2 != s.od .sliceKeyActive (ix / 2)

theorem handleEntry_mem (slot : Nat) : handleEntry slot ∈ [Entry.sliceKeyHandle0, .sliceKeyHandle1] := by
  unfold handleEntry
  split <;> decide

/-- A set that a cache takes leaves what the sweep of its slice waits for. -/
theorem Part.heldReported_awaits (s : Part) (p ix : Nat) : (s.heldReported p ix).sweepAwaits ix = s.sweepAwaits ix := by
  have active : (s.heldReported p ix).od .sliceKeyActive (ix / 2) = s.od .sliceKeyActive (ix / 2) :=
    Part.od_setOd_ne _ _ _ _ fun e => absurd (e ▸ handleEntry_mem (ix % 2)) (by decide)
  unfold Part.sweepAwaits
  rw [active]
  rfl

theorem Part.keyLoaded_eq (s : Part) (p ix : Nat) : s.keyLoaded p ix =
    if (s.keySet (ix / 2) (ix % 2)).live && (s.heldBy p ix).heldByAll ix then
      if s.sweepAwaits ix then (s.heldReported p ix).sweepBegins (ix / 2) (ix % 2) else s.heldReported p ix
    else s.heldBy p ix := by
  rw [← s.heldReported_awaits p ix]
  rfl

/-- Where every other pavilion in service holds a set, all do once this one takes it. -/
theorem Part.heldBy_all {s : Part} {p ix : Nat} (h : ∀ k ∈ s.serving, k = p ∨ ix ∉ (s.pav k).keyInvalid) : (s.heldBy p ix).heldByAll ix = true := by
  refine List.all_eq_true.mpr fun k hk => ?_
  unfold Part.heldBy
  rw [Part.onPav_pav]
  split
  · simp
  next hp => simpa using (h k hk).resolve_left (Ne.symm hp)

/-- A set that reaches a cache changes of the pavilions that cache alone. -/
theorem Part.keyLoaded_pavs (s : Part) (p ix : Nat) : (s.keyLoaded p ix).pavs = (s.heldBy p ix).pavs := by
  rw [Part.keyLoaded_eq]
  split
  · split
    · obtain ⟨-, -, -, -, -, pavs, -⟩ := (s.heldReported p ix).sweepBegins_spec (ix / 2) (show ix % 2 < 256 by omega)
      exact pavs
    · rfl
  · rfl

theorem Part.only_keyLoaded {s : Part} {p ix : Nat} (h : s.sweepComing (ix / 2) = false) : Part.only [.dict, .pavs] s (s.keyLoaded p ix) := by
  have held : Part.only [.dict, .pavs] s (s.heldBy p ix) := Part.only_mono (s.only_onPav _ _) (by decide)
  rw [Part.keyLoaded_eq, if_neg (c := s.sweepAwaits ix = true) (by simp [Part.sweepAwaits, h])]
  exact Part.only_ite (Part.only_trans held (Part.only_setOd_of_mem _ _ _ _)) held

section
variable {s : Part} {p ix : Nat} (hl : (s.keySet (ix / 2) (ix % 2)).live = true) (h : ∀ k ∈ s.serving, k = p ∨ ix ∉ (s.pav k).keyInvalid)
include hl h

/-- The handle of a live set that every pavilion in service holds now. -/
theorem Part.keyLoaded_handle : (s.keyLoaded p ix).od (handleEntry (ix % 2)) (ix / 2) =
    keyHandle 1 (s.keySet (ix / 2) (ix % 2)).gen ix % 2 ^ (8 * (handleEntry (ix % 2)).info.bytes) := by
  have reported : (s.heldReported p ix).od (handleEntry (ix % 2)) (ix / 2) = _ := Part.od_setOd_self _ _ _ _
  rw [Part.keyLoaded_eq, hl, Part.heldBy_all h, Bool.and_self, if_pos rfl]
  split
  · obtain ⟨-, -, -, -, -, -, keeps⟩ := (s.heldReported p ix).sweepBegins_spec (ix / 2) (show ix % 2 < 256 by omega)
    have other : ∀ e ∈ [Entry.sliceKeyHandle0, .sliceKeyHandle1],
        e ∉ [Entry.sliceKeyActive, .sliceKeyUses, .rekeyState, .rekeyCause, .ringState] := by decide
    rw [keeps.od_eq (other _ (handleEntry_mem _)), reported]
  · exact reported

/-- The sweep that waits for such a set starts. -/
theorem Part.keyLoaded_sweeps (hs : s.sweepComing (ix / 2) = true) (ha : ix % 2 ≠ s.od .sliceKeyActive (ix / 2)) :
    s.keyLoaded p ix = (s.heldReported p ix).sweepBegins (ix / 2) (ix % 2) := by
  rw [Part.keyLoaded_eq, hl, Part.heldBy_all h, Bool.and_self, if_pos rfl, if_pos (by simp [Part.sweepAwaits, hs, ha])]

end

/-! ## The commands -/

theorem exec_promKeyLoad_taken {s : State} {p : Pav} {m : Msg} {t : Part} (h : s.part.takeMsg p 12 = some (m, t)) :
    exec (.promKeyLoad p) s = .next (s.withPart (t.cacheLoaded p m.addr)) := by
  rw [exec_promKeyLoad, execPromKeyLoad, State.run_eq]
  simp only [h]

theorem exec_keyCacheReloadDone_oldest {s : State} {p : Pav} {ix : Nat} {rest : List Nat} (h : (s.part.pav p).keyInvalid = ix :: rest) :
    exec (.keyCacheReloadDone p) s = .next (s.withPart (s.part.cacheLoaded p ix)) := by
  rw [exec_keyCacheReloadDone, execKeyCacheReloadDone, State.run_eq]
  simp only [h]

/-- The cache of a pavilion that has a set again, and what waited for it. -/
theorem Part.cacheLoaded_pav (s : Part) (p ix : Nat) : (s.cacheLoaded p ix).pav p =
    { s.pav p with keyInvalid := (s.pav p).keyInvalid.filter (· != ix), inbox := (s.pav p).keyWaiting ++ (s.pav p).inbox, keyWaiting := [] } := by
  have loaded : (s.keyLoaded p ix).pav p = { s.pav p with keyInvalid := (s.pav p).keyInvalid.filter (· != ix) } := by
    unfold Part.pav
    rw [Part.keyLoaded_pavs]
    exact Part.onPav_pav_self _ _ _
  unfold Part.cacheLoaded
  rw [Part.onPav_pav_self, loaded]

/-! ## The obligation -/

/-- Settles O37: a wrapping key changes by its own index, and a set that reaches a cache by whether it is held everywhere then. That a waiting sweep
starts once the caches hold its set is log entry 205, and that a failed generator stops no wrapping key log entry 112. -/
theorem wrapKeysAndKeyCaches : Obligations.WrapKeysAndKeyCaches := by
  intro s w
  refine ⟨fun k point key hk hw h => ?_, fun k hk hw h => ?_, ?_, fun p c ix t _ hc => ?_⟩
  · refine ⟨_, ?_, s.part.putWrap_spec k (fun q => ⟨true, if q.live then (q.gen + 1) % 256 else q.gen, key⟩) (state := 1) (by decide)⟩
    rw [exec_wrapPeerPublicWrite, execWrapPeerPublicWrite, State.run_eq, Part.wrapPoint_agreed hk hw h, Reply.answer_ok]
  · refine ⟨_, ?_, s.part.putWrap_spec k (fun q => ⟨false, (q.gen + 1) % 256, 0⟩) (state := 0) (by decide)⟩
    rw [exec_wrapKeyDestroy, execWrapKeyDestroy, State.run_eq, Part.wrapCommand_destroys hk hw h, Reply.answer_ok]
  · refine ⟨_, by rw [exec_rngHealthFail, execRngHealthFail, State.run_eq], ?_, s.part.only_setOd _ _ _⟩
    unfold Part.rngOk Part.od0
    rw [Part.od_setOd_val _ _ _ _ (by decide)]
    rfl
  · have run : exec c s = .next (s.withPart (t.cacheLoaded p ix)) := by
      rcases hc with ⟨rfl, m, htake, rfl⟩ | ⟨rfl, rfl, rest, hold⟩
      · exact exec_promKeyLoad_taken htake
      · exact exec_keyCacheReloadDone_oldest hold
    have pav := t.cacheLoaded_pav p ix
    refine ⟨_, run, by rw [pav], by rw [pav], by rw [pav], fun hl h => Part.keyLoaded_handle hl h,
      fun hs => Part.only_trans (Part.only_keyLoaded hs) (Part.only_mono (Part.only_onPav _ _ _) (by decide)), fun hl h hs ha => ?_⟩
    obtain ⟨active, uses, state, cause, coming, -, -⟩ := (t.heldReported p ix).sweepBegins_spec (ix / 2) (show ix % 2 < 256 by omega)
    rw [← Part.keyLoaded_sweeps hl h hs ha] at active uses state cause coming
    exact ⟨active, uses, state, cause, coming⟩

end Sys2Proof.Machine
end

section
/-!
O26: what returns on a channel (spec/05 R194, R205, R211, spec/02 R58, R63, R65).
-/

namespace Sys2Proof.Machine

/-! ## Units that a change leaves alone -/

theorem Part.pav_of_only {l : List PartField} {a b : Part} (h : Part.only l a b) (hp : PartField.pavs ∉ l := by decide) (q : Nat) :
    b.pav q = a.pav q := by
  unfold Part.pav
  rw [show b.pavs = a.pavs from h .pavs hp]

theorem Part.chan_of_only {l : List PartField} {a b : Part} (h : Part.only l a b) (hc : PartField.chans ∉ l := by decide) (c : Nat) :
    b.chan c = a.chan c := by
  unfold Part.chan
  rw [show b.chans = a.chans from h .chans hc]

theorem Part.blank_of_only {l : List PartField} {a b : Part} (h : Part.only l a b) (hs : PartField.slices ∉ l := by decide) (sl lp : Nat) :
    b.blank sl lp = a.blank sl lp := by
  unfold Part.blank Part.slice
  rw [show b.slices = a.slices from h .slices hs]

/-! ## Reads in flight -/

/-- The oldest read in flight is the one taken, when the test accepts it. -/
theorem Part.takeFlight_head {s : Part} {c : Nat} {t : QEnt → Bool} {q : QEnt} {rest : List QEnt} (h : (s.chan c).inflight = q :: rest)
    (ht : t q = true) : s.takeFlight c t = some (q, s.onChan c fun v => { v with inflight := rest }) := by
  unfold Part.takeFlight
  rw [h, takeFirst, if_pos ht]
  rfl

/-- A burst that does not complete its task stands last among those that came for it. -/
theorem Part.taskBurst_waits {s : Part} {p : Nat} {q : QEnt} {t : Task} {more : List Task} (value : Nat) (h : (s.pav p).tasks = t :: more)
    (hid : t.id = q.task) (hlen : t.got.length + 1 ≠ t.bursts.length) :
    s.taskBurst p q value = s.onPav p fun v => { v with
      tasks := v.tasks.map fun e => if e.id == t.id then { t with got := t.got ++ [⟨q.burst, value, q.stale⟩] } else e } := by
  have found : (s.pav p).tasks.find? (fun t => t.id == q.task) = some t := by
    rw [h, List.find?_cons_of_pos (by simpa using hid)]
  have waits : Task.full { t with got := t.got ++ [⟨q.burst, value, q.stale⟩] } = false := by
    unfold Task.full
    simpa using hlen
  unfold Part.taskBurst
  simp only [found, waits, Bool.not_false, if_true]

/-- A change of one task by its number leaves the tasks of other numbers as they are. -/
theorem map_task_head {t u : Task} {more : List Task} (h : ∀ m ∈ more, m.id ≠ t.id) :
    ((t :: more).map fun e => if e.id == t.id then u else e) = u :: more := by
  have others : (more.map fun e => if e.id == t.id then u else e) = more := by
    rw [List.map_congr_left (g := id) fun m hm => by rw [if_neg (by simpa using h m hm)]; rfl, List.map_id]
  rw [List.map_cons, others, if_pos (beq_self_eq_true _)]

/-- A clean scrub read changes nothing. -/
theorem Part.scrubBack_clean {s : Part} {c : Nat} {q : QEnt} {value v : Nat}
    (h : checkBurst (!decide (spareBase ≤ q.burst) && s.inlineAt (c / 8) q.burst) value = .clean v) : s.scrubBack c q value = s := by
  unfold Part.scrubBack
  simp only [h]

/-! ## Uncorrectable bursts of the part's own structures -/

/-- An uncorrectable burst of the part's own structures is counted and asks for a confirming read, and changes no table. -/
theorem Part.only_structBad (s : Part) (p x : Nat) : Part.only [.chans, .delta] s (s.structBad p x) := by
  unfold Part.structBad Part.uncorrectable Part.suspect
  dsimp only
  have counted := Part.only_trans (Part.only_count s .ueChannel ((s.placeOf p x).chan p) 1)
    (Part.only_count _ .ueRank ((s.placeOf p x).chan p * 4 + s.rankAt ((s.placeOf p x).chan p) (s.placeOf p x).layer x) 1)
  refine Part.only_trans (Part.only_mono counted (by decide)) (Part.only_ite (Part.only_refl _ _) ?_)
  exact Part.only_mono (Part.only_onChan _ _ _) (by decide)

theorem Part.only_structBads (s : Part) (p : Nat) (xs : List Nat) :
    Part.only [.chans, .delta] s (iter xs s fun s x => s.structBad p x) :=
  Part.only_iter (fun s x => s.only_structBad p x) xs s

/-! ## A line of the cellar book from its mirror -/

/-- The mirror copies stay as they are when a home copy is written. -/
theorem Part.mirrorCell_setCell (s : Part) (p sl lp : Nat) (c : Cell) (who q sl' lp' : Nat) :
    (s.setCell p sl lp c who).mirrorCell q sl' lp' = s.mirrorCell q sl' lp' := by
  have table : ((s.setCell p sl lp c who).pav q).mirror = (s.pav q).mirror := by
    have home : ((s.onPav p fun v => { v with cellar := v.cellar.set (s.blank sl lp) (pageKey sl lp) c }).pav q).mirror = (s.pav q).mirror := by
      rw [Part.onPav_pav]
      split
      · next h => rw [h]
      · rfl
    unfold Part.setCell
    dsimp only
    split
    · obtain ⟨-, h⟩ := Part.putOwnLine_spec (s.onPav p fun v => { v with cellar := v.cellar.set (s.blank sl lp) (pageKey sl lp) c }) p ‹_› who sl lp
      obtain ⟨k, e⟩ := h q
      rw [e]; exact home
    · exact home
  unfold Part.mirrorCell
  rw [table, Part.blank_of_only (s.setCell_spec p sl lp c who).1]

/-- The write of a home copy leaves the other pages of the slice as they are. -/
theorem Part.cell_setCell_other (s : Part) (p sl lp : Nat) (c : Cell) (who : Nat) {lp' : Nat} (h : lp ≠ lp') :
    (s.setCell p sl lp c who).cell p sl lp' = s.cell p sl lp' := by
  have home : (s.onPav p fun v => { v with cellar := v.cellar.set (s.blank sl lp) (pageKey sl lp) c }).cell p sl lp' = s.cell p sl lp' := by
    unfold Part.cell
    rw [Part.onPav_pav_self]
    exact Sparse.get_set_other _ _ _ _ (by unfold pageKey; omega)
  unfold Part.setCell
  dsimp only
  split
  · rw [Part.cell_putOwnLine]; exact home
  · exact home

/-- The first `n` entries from `base` are written again from their copies on `q`. -/
def Part.fromMirror (s : Part) (p q sl base n : Nat) : Part :=
  iter (List.range n) s fun s k => s.setCell p sl (base + k) (s.mirrorCell q sl (base + k))

theorem Part.fromMirror_succ (s : Part) (p q sl base n : Nat) : s.fromMirror p q sl base (n + 1) =
    (s.fromMirror p q sl base n).setCell p sl (base + n) ((s.fromMirror p q sl base n).mirrorCell q sl (base + n)) := by
  unfold Part.fromMirror iter
  rw [List.range_succ, List.foldl_append]
  rfl

theorem Part.fromMirror_spec (s : Part) (p q sl base n : Nat) : Part.only [.pavs, .chans] s (s.fromMirror p q sl base n) ∧
    (∀ lp, (s.fromMirror p q sl base n).mirrorCell q sl lp = s.mirrorCell q sl lp) ∧
    ∀ k < n, (s.fromMirror p q sl base n).cell p sl (base + k) = s.mirrorCell q sl (base + k) := by
  induction n with
  | zero => exact ⟨Part.only_refl _ _, fun _ => rfl, fun k hk => absurd hk (Nat.not_lt_zero k)⟩
  | succ n ih =>
    obtain ⟨only, mirror, cells⟩ := ih
    rw [Part.fromMirror_succ, mirror]
    obtain ⟨only', written, -⟩ := (s.fromMirror p q sl base n).setCell_spec p sl (base + n) (s.mirrorCell q sl (base + n)) sl
    refine ⟨Part.only_trans only only', fun lp => by rw [Part.mirrorCell_setCell, mirror], fun k hk => ?_⟩
    obtain hk | rfl := Nat.lt_succ_iff_lt_or_eq.mp hk
    · rw [Part.cell_setCell_other _ _ _ _ _ _ (by omega), cells k hk]
    · exact written

theorem Part.cellarLine_mirrored {s : Part} {sl lp q : Nat} (h : s.mirrorOf sl lp = some q) (p : Nat) :
    s.cellarLine p sl lp true false = (s.fromMirror p q sl (lp / 4 * 4) 4).count .cellarMirrorRepairs 0 := by
  unfold Part.cellarLine
  simp only [h]
  rfl

theorem Part.mirrorOf_congr {a b : Part} (h : b.vint = a.vint) (sl lp : Nat) : b.mirrorOf sl lp = a.mirrorOf sl lp := by
  unfold Part.mirrorOf Part.place
  rw [h]

/-! ## The ownership table -/

/-- One lost copy of an entry is written again from the other. -/
theorem Part.ownerEntry_firstLost (s : Part) (p ext : Nat) : s.ownerEntry p ext true false =
    s.onPav p fun v => { v with own := v.own.set Own.free ext (v.own2.get Own.free ext) } := rfl

theorem Part.ownerEntry_secondLost (s : Part) (p ext : Nat) : s.ownerEntry p ext false true =
    s.onPav p fun v => { v with own2 := v.own2.set Own.free ext (v.own.get Own.free ext) } := rfl

/-! ## The heat table -/

/-- A lost line of the heat table counts from 0; every other count stays. -/
theorem Part.heatBad_heat (s : Part) (p sl group k : Nat) : ((s.heatBad p sl group).pav p).heat.get 0 k =
    if k / 64 = (sl * 2 ^ 28 + group) / 64 then 0 else (s.pav p).heat.get 0 k := by
  have line : (sl * 2 ^ 28 + group / 64 * 64 ≤ k ∧ k < sl * 2 ^ 28 + group / 64 * 64 + 64) ↔ k / 64 = (sl * 2 ^ 28 + group) / 64 := by omega
  unfold Part.heatBad
  rw [Part.onPav_pav_self]
  simp only [Sparse.get_eraseRange, line]

theorem Part.only_heatBad (s : Part) (p sl group : Nat) : Part.only [.pavs] s (s.heatBad p sl group) := by
  unfold Part.heatBad
  exact s.only_onPav _ _

/-! ## The obligation -/

section
variable {s : State} {c : Chan} {q : QEnt} {rest : List QEnt} {u : Sub}

theorem exec_channelReadData_burst {e : BitVec 640} (h : (s.part.chan c).inflight = q :: rest) (hu : q.sub = u.val) (hs : q.label ≠ ownScrub)
    (hc : q.label ≠ ownConfirm) : exec (.channelReadData c (.burst u e)) s =
      .next (s.withPart ((s.part.onChan c fun v => { v with inflight := rest }).taskBurst (c / 8) q (q.value ^^^ e.toNat))) := by
  rw [exec_channelReadData, execChannelReadData, State.run_eq]
  simp only [Part.takeFlight_head h (t := fun q => q.sub == u.val && q.label != ownScrub && q.label != ownConfirm) (by simp [hu, hs, hc])]

theorem exec_channelReadData_scrub {g : Fin 8} {e : BitVec 640} (h : (s.part.chan c).inflight = q :: rest) (hu : q.sub = u.val)
    (hg : q.group = g.val) (hs : q.label = ownScrub) : exec (.channelReadData c (.scrub u g e)) s =
      .next (s.withPart ((s.part.onChan c fun v => { v with inflight := rest }).scrubBack c q (q.value ^^^ e.toNat))) := by
  rw [exec_channelReadData, execChannelReadData, State.run_eq]
  simp only [Part.takeFlight_head h (t := fun q => q.sub == u.val && q.group == g.val && q.label == ownScrub) (by simp [hu, hg, hs])]

end

/-- A lost line of the cellar book: its burst is counted first. -/
theorem exec_channelReadData_cellarLine (s : State) (c : Chan) (sl : Slice) (lp : Nat) :
    ∃ t : Part, exec (.channelReadData c (.cellarLine sl lp true false)) s = .next (s.withPart (t.cellarLine (c / 8) sl lp true false)) ∧
      Part.only [.chans, .delta] s.part t := by
  refine ⟨_, ?_, s.part.only_structBads (c / 8) (s.part.cellarBurst (c / 8) sl lp true).toList⟩
  rw [exec_channelReadData, execChannelReadData, State.run_eq]
  simp only [if_true, Bool.and_false, Bool.false_eq_true, if_false]
  split <;> rfl

/-- A read of an ownership entry: the bursts of its lost copies are counted first. -/
theorem exec_channelReadData_ownerEntry (s : State) (c : Chan) (ext : Nat) (a b : Bool) :
    ∃ t : Part, exec (.channelReadData c (.ownerEntry ext a b)) s = .next (s.withPart (t.ownerEntry (c / 8) ext a b)) ∧
      Part.only [.chans, .delta] s.part t :=
  ⟨_, rfl, Part.only_trans (Part.only_ite (Part.only_structBads _ _ _) (Part.only_refl _ _))
    (Part.only_ite (Part.only_structBads _ _ _) (Part.only_refl _ _))⟩

theorem exec_channelReadData_planEntry {s : State} {c : Chan} {n : Nat} (h : n < (s.part.pav (c / 8)).plan.length) :
    exec (.channelReadData c (.planEntry n)) s = .next (s.withPart
      ((s.part.onPav (c / 8) fun v => { v with plan := v.plan.eraseIdx n }).count .planEntriesUndone 0)) := by
  rw [exec_channelReadData, execChannelReadData, State.run_eq]
  simp only [if_pos h]

/-- Settles O26: each return by what its own step changes. That a burst is the oldest read in flight of its subchannel is log entry 106, and
that the operands name a lost line or entry is log entry 107. -/
theorem readDataReturns : Obligations.ReadDataReturns := by
  intro s c q rest
  refine ⟨fun u e t more h hu hs hc ht hid hmore hlen => ?_, fun u g e v h hu hg hs hclean => ?_, fun ext => ?_, fun ext => ?_,
    fun sl lp n hn _ => ?_, fun sl group _ => ?_, fun n hn => ?_, rfl⟩
  case refine_1 =>
    refine ⟨_, exec_channelReadData_burst h hu hs hc, ?_⟩
    rw [Part.taskBurst_waits _ (by rw [Part.onChan_pav]; exact ht) hid hlen]
    refine ⟨by rw [Part.onPav_chan, Part.onChan_chan_self], ?_,
      Part.only_trans (Part.only_mono (Part.only_onChan _ _ _) (by decide)) (Part.only_mono (Part.only_onPav _ _ _) (by decide))⟩
    rw [Part.onPav_pav_self, Part.onChan_pav, ht]
    exact map_task_head hmore
  case refine_2 =>
    rw [exec_channelReadData_scrub h hu hg hs, Part.scrubBack_clean (s := s.part.onChan c fun v => { v with inflight := rest }) hclean]
  case refine_3 =>
    obtain ⟨t, run, only⟩ := exec_channelReadData_ownerEntry s c ext true false
    have pav := Part.pav_of_only only (q := c / 8)
    refine ⟨_, run, fun x => ?_, ?_, Part.only_trans (Part.only_mono only (by decide)) (Part.only_mono (Part.only_onPav _ _ _) (by decide))⟩
    · rw [Part.ownerEntry_firstLost, Part.onPav_pav_self, pav, Sparse.get_set]
      exact if_congr eq_comm rfl rfl
    · rw [Part.ownerEntry_firstLost, Part.onPav_pav_self, pav]
  case refine_4 =>
    obtain ⟨t, run, only⟩ := exec_channelReadData_ownerEntry s c ext false true
    have pav := Part.pav_of_only only (q := c / 8)
    refine ⟨_, run, fun x => ?_, ?_, Part.only_trans (Part.only_mono only (by decide)) (Part.only_mono (Part.only_onPav _ _ _) (by decide))⟩
    · rw [Part.ownerEntry_secondLost, Part.onPav_pav_self, pav, Sparse.get_set]
      exact if_congr eq_comm rfl rfl
    · rw [Part.ownerEntry_secondLost, Part.onPav_pav_self, pav]
  case refine_5 =>
    obtain ⟨t, run, only⟩ := exec_channelReadData_cellarLine s c sl lp
    have mirror : t.mirrorOf sl lp = some n := by rw [Part.mirrorOf_congr (only .vint (by decide)), hn]
    rw [Part.cellarLine_mirrored mirror] at run
    obtain ⟨written, -, cells⟩ := t.fromMirror_spec (c / 8) n sl (lp / 4 * 4) 4
    refine ⟨_, run, fun k hk => ?_, Part.only_trans (Part.only_mono only (by decide))
      (Part.only_trans (Part.only_mono written (by decide)) (Part.only_mono (Part.only_count _ _ _ _) (by decide)))⟩
    rw [Part.sameCells.count, cells k hk]
    unfold Part.mirrorCell
    rw [Part.pav_of_only only, Part.blank_of_only only]
  case refine_6 =>
    refine ⟨s.part.heatBad (c / 8) sl group, ?_, s.part.heatBad_heat (c / 8) sl group, s.part.only_heatBad (c / 8) sl group⟩
    rw [exec_channelReadData, execChannelReadData, State.run_eq]
  case refine_7 =>
    refine ⟨_, exec_channelReadData_planEntry hn, ?_, ?_,
      Part.only_trans (Part.only_mono (Part.only_onPav _ _ _) (by decide)) (Part.only_mono (Part.only_count _ _ _ _) (by decide))⟩
    · rw [Part.count_pav, Part.onPav_pav_self]
    · rw [Part.count_tallyNow]
      rfl

end Sys2Proof.Machine
end

section
/-!
O27: the timed events of a channel and its CA-parity errors (spec/05 R205, spec/06 R232, R234, R241, R253, R261).
-/

namespace Sys2Proof.Machine

/-! ## Hammer windows -/

/-- The channel's part of a new hammer window: no row counted, no requester throttled, the withheld requests before the others. -/
def ChanState.newWindow (now : Nat) (v : ChanState) : ChanState :=
  { v with tracker := [], throttled := [], windowStart := now, queue := v.withheld ++ v.queue, withheld := [] }

/-- The ports send again the requests that a pavilion withheld and returned to them (spec/06 R245). -/
def Part.resendWithheld (s : Part) (p : Nat) : Part :=
  iter (List.range 16) s fun s i =>
    iter (s.port i).parts s fun s e =>
      iter (e.2.forwarded.filter fun f => f.withheld && f.home == p) s fun s f =>
        (s.onPart i e.1 fun q => { q with forwarded := q.forwarded.filter (·.tag != f.tag) }).forward
          { f.req with stamp := s.vint.bank } 6 fun g => { g with sent := true }

theorem Part.only_resendWithheld (s : Part) (p : Nat) : Part.only forwardFields s (s.resendWithheld p) :=
  Part.only_iter (fun _ _ => Part.only_iter (fun _ _ => Part.only_iter (fun _ _ =>
    Part.only_trans (Part.only_mono (Part.only_onPart _ _ _ _) (by decide)) (Part.only_forward _ _ _ _)) _ _) _ _) _ _

theorem Part.hammerWindow_eq (s : Part) (c : Nat) :
    s.hammerWindow c = (s.onChan c (ChanState.newWindow s.now)).resendWithheld (c / 8) := rfl

/-- What the ports send again at the start of a window changes no channel. -/
theorem Part.hammerWindow_chan (s : Part) (c : Nat) : (s.hammerWindow c).chan c = (s.chan c).newWindow s.now := by
  rw [Part.hammerWindow_eq, Part.chan_of_only (Part.only_resendWithheld _ _), Part.onChan_chan_self]

/-! ## Open rows and power-down -/

/-- The row of a bank is closed, where one is open, and the precharge is among the channel's last commands. -/
def Part.closeRow (s : Part) (c k : Nat) : Part :=
  if (s.chan c).openRows.get 0 k = 0 then s else s.onChan c fun v => { v with openRows := v.openRows.erase k }.note (.precharge k)

theorem Part.closeRow_openRows (s : Part) (c k j : Nat) : ((s.closeRow c k).chan c).openRows.get 0 j =
    if j = k then 0 else (s.chan c).openRows.get 0 j := by
  unfold Part.closeRow
  split
  · next closed =>
    split
    · next h => rw [h, closed]
    · rfl
  · rw [Part.onChan_chan_self]
    exact (Sparse.get_erase _ _ _ _).trans (if_congr eq_comm rfl rfl)

theorem Part.only_closeRow (s : Part) (c k : Nat) : Part.only [.chans] s (s.closeRow c k) :=
  Part.only_ite (Part.only_refl _ _) (Part.only_onChan _ _ _)

theorem Part.closeRow_other (s : Part) (c k : Nat) {j : Nat} (h : j ≠ c) : (s.closeRow c k).chan j = s.chan j := by
  unfold Part.closeRow
  split
  · rfl
  · exact Part.onChan_chan_other _ _ _ h.symm

theorem exec_rankPowerdownEntry_idle {s : State} {c : Chan} {r : Rank} (hr : s.part.rankRuns c r = true) (hp : r.val ∉ (s.part.chan c).powerDown)
    (hq : ∀ q ∈ (s.part.chan c).queue, q.bank / 4 ≠ r.val) : exec (.rankPowerdownEntry c r) s = .next (s.withPart (s.part.onChan c fun v => { v with
      powerDown := v.powerDown ++ [r.val]
      openRows := v.openRows.filter fun e => e.1 % 16 / 4 != r.val })) := by
  have awake : (s.part.chan c).powerDown.contains r.val = false := by simpa using hp
  have idle : ((s.part.chan c).queue.any fun q => q.bank / 4 == r.val) = false := by simpa using hq
  rw [exec_rankPowerdownEntry, execRankPowerdownEntry, State.run_eq]
  simp only [hr, awake, idle, Bool.not_true, Bool.or_self, Bool.false_eq_true, if_false]

/-! ## The DIMM sensors -/

/-- A channel's sensors are read. -/
def Part.sensed (s : Part) (c : Nat) (t0 t1 : Int) : Part := (s.setOd .dimmTemp0 c (ofInt 32 t0)).setOd .dimmTemp1 c (ofInt 32 t1)

/-- The refresh rate follows the sensors (spec/06 R234). -/
def Part.rated (s : Part) (c : Nat) (t0 t1 : Int) : Part :=
  if 85 < t0 ∨ 85 < t1 then s.setOd .refreshRate c 1
  else if t0 < 83 ∧ t1 < 83 then s.setOd .refreshRate c (s.od .refreshFloor c) else s

theorem exec_dimmTempPoll_cool {s : State} {c : Chan} {t0 t1 : Int} (hr : s.part.rest.inRest = false) (h0 : t0 ≤ 95) (h1 : t1 ≤ 95) :
    exec (.dimmTempPoll c t0 t1) s = .next (s.withPart ((s.part.sensed c t0 t1).rated c t0 t1)) := by
  have cool : ¬ (95 < t0 ∨ 95 < t1) := by omega
  rw [exec_dimmTempPoll, execDimmTempPoll, State.run_eq]
  simp only [hr, Bool.false_eq_true, if_false, Bool.or_eq_true, Bool.and_eq_true, decide_eq_true_eq, cool]
  rfl

theorem ofInt_lt (w : Nat) (x : Int) : ofInt w x < 2 ^ w := by
  unfold ofInt
  have h := Int.emod_lt_of_pos x (show (0 : Int) < 2 ^ w by positivity)
  have := Int.emod_nonneg x (show (2 : Int) ^ w ≠ 0 by positivity)
  zify
  omega

theorem Part.rated_od_other (s : Part) (c : Nat) (t0 t1 : Int) {e : Entry} (he : e ≠ .refreshRate) (i : Nat) :
    (s.rated c t0 t1).od e i = s.od e i := by
  unfold Part.rated
  split
  · exact Part.od_setOd_ne _ _ _ _ he.symm
  · split
    · exact Part.od_setOd_ne _ _ _ _ he.symm
    · rfl

theorem Part.rated_od (s : Part) (c : Nat) (t0 t1 : Int) : (s.rated c t0 t1).od .refreshRate c =
    if 85 < t0 ∨ 85 < t1 then 1 else if t0 < 83 ∧ t1 < 83 then s.od .refreshFloor c % 256 else s.od .refreshRate c := by
  unfold Part.rated
  split
  · exact Part.od_setOd_self _ _ _ _
  · split
    · exact Part.od_setOd_self _ _ _ _
    · rfl

theorem Part.sensed_od (s : Part) (c : Nat) (t0 t1 : Int) : (s.sensed c t0 t1).od .dimmTemp0 c = ofInt 32 t0 ∧
    (s.sensed c t0 t1).od .dimmTemp1 c = ofInt 32 t1 := by
  unfold Part.sensed
  refine ⟨?_, Part.od_setOd_val _ _ _ _ (ofInt_lt 32 t1)⟩
  rw [Part.od_setOd_ne _ _ _ _ (by decide), Part.od_setOd_val _ _ _ _ (ofInt_lt 32 t0)]

theorem Part.sensed_od_other (s : Part) (c : Nat) (t0 t1 : Int) {e : Entry} (h0 : e ≠ .dimmTemp0) (h1 : e ≠ .dimmTemp1) (i : Nat) :
    (s.sensed c t0 t1).od e i = s.od e i := by
  unfold Part.sensed
  rw [Part.od_setOd_ne _ _ _ _ h1.symm, Part.od_setOd_ne _ _ _ _ h0.symm]

theorem Part.odOnly_polled (s : Part) {c : Nat} (hc : c < 65536) (t0 t1 : Int) :
    Part.odOnly [(.refreshRate, c), (.dimmTemp0, c), (.dimmTemp1, c)] s ((s.sensed c t0 t1).rated c t0 t1) := by
  have sensed : Part.odOnly [(.refreshRate, c), (.dimmTemp0, c), (.dimmTemp1, c)] s (s.sensed c t0 t1) :=
    Part.odOnly_trans (Part.odOnly_setOd _ _ _ _ hc (by simp)) (Part.odOnly_setOd _ _ _ _ hc (by simp))
  refine Part.odOnly_trans sensed ?_
  unfold Part.rated
  split
  · exact Part.odOnly_setOd _ _ _ _ hc (by simp)
  · split
    · exact Part.odOnly_setOd _ _ _ _ hc (by simp)
    · exact Part.odOnly_refl _ _

/-! ## CA-parity errors -/

/-- A CA-parity error is counted and logged with its time, and the commands from the failed one on are issued again (spec/06 R253). -/
def Part.parityRecovers (s : Part) (c r back : Nat) : Part :=
  let last := (s.chan c).lastCmds
  iter (last.drop (last.length - back))
    (((s.count .caParityErrors c).logEv 0x0F05 (c * 4 + r) 0 none (c / 8)).onChan c fun v => { v with parityTime := v.parityTime.set r (some s.now) })
    fun s m => s.reissue c m

/-- The rank had a CA-parity error at most 1 ms ago. -/
def Part.parityAgain (s : Part) (c r : Nat) : Bool :=
  match (s.chan c).parityTime.getD r none with
  | some t => decide (s.now ≤ t + nsPerMs)
  | none => false

theorem exec_caParityAlert_eq (s : State) (c : Chan) (r : Rank) (back : Fin 65) : exec (.caParityAlert c ⟨r, back⟩) s = .next (s.withPart
    (if s.part.parityAgain c r then (s.part.parityRecovers c r back).rankLeaves c r 2 else s.part.parityRecovers c r back)) := by
  rw [exec_caParityAlert, execCaParityAlert, State.run_eq]
  simp only [Part.onChan_chan_self, Part.logEv_chan, Part.count_chan, Part.logEv_now, Part.count_now]
  rfl

/-! ## The obligation -/

/-- Settles O27: each event by what its own step changes. Which commands are issued again after a parity error is log entry 215. -/
theorem channelEvents : Obligations.ChannelEvents := by
  intro s c r back last u
  refine ⟨fun hs hp => ?_, ?_, fun x bank => ?_, fun hr hp hq => ?_, fun t0 t1 hr h0 h1 => ?_, fun hn => ?_, fun t ht hl => ?_⟩
  case refine_1 =>
    rw [exec_scrubPassStart, execScrubPassStart, State.run_eq]
    simp only [ChanState.scrubbing, hs, hp, bne_self_eq_false, Bool.or_self, Bool.false_eq_true, if_false]
    rfl
  case refine_2 =>
    refine ⟨s.part.hammerWindow c, by rw [exec_hammerWindowStart, execHammerWindowStart, State.run_eq], ?_⟩
    rw [Part.hammerWindow_chan]
    exact ⟨rfl, rfl, rfl, rfl, rfl⟩
  case refine_3 =>
    refine ⟨s.part.closeRow c (bankKey x (bank.bank / 16) (bank.bank % 16) bank.chip), ?_, s.part.closeRow_openRows _ _,
      fun k hk => s.part.closeRow_other _ _ hk, s.part.only_closeRow _ _⟩
    rw [exec_pageOpenLimitExpiry, execPageOpenLimitExpiry, State.run_eq]
    rfl
  case refine_4 =>
    refine ⟨_, exec_rankPowerdownEntry_idle hr hp hq, ?_, ?_, Part.only_onChan _ _ _⟩
    · rw [Part.onChan_chan_self]
    · rw [Part.onChan_chan_self]
      intro e he
      simpa using (List.mem_filter.mp he).2
  case refine_5 =>
    obtain ⟨temp0, temp1⟩ := s.part.sensed_od c t0 t1
    refine ⟨_, exec_dimmTempPoll_cool hr h0 h1, ?_, ?_, ?_, s.part.odOnly_polled (by omega) t0 t1⟩
    · rw [Part.rated_od, Part.sensed_od_other _ _ _ _ (by decide) (by decide), Part.sensed_od_other _ _ _ _ (by decide) (by decide)]
    · rw [Part.rated_od_other _ _ _ _ (by decide), temp1]
    · rw [Part.rated_od_other _ _ _ _ (by decide), temp0]
  case refine_6 =>
    have first : s.part.parityAgain c r = false := by unfold Part.parityAgain; simp only [hn]
    rw [exec_caParityAlert_eq, first, if_neg (by decide)]
    rfl
  case refine_7 =>
    have again : s.part.parityAgain c r = true := by unfold Part.parityAgain; simp only [ht, hl, decide_true]
    rw [exec_caParityAlert_eq, again, if_pos rfl]
    rfl

end Sys2Proof.Machine
end

section
/-!
O28: quick retrains and the rebuild of a rank (spec/06 R248, R249, R251, R256).
-/

namespace Sys2Proof.Machine

set_option Elab.async false

/-! ## The settings of the lanes -/

/-- What a quick retrain makes of a lane's setting in a direction (0 read, 1 write): a lane that misses in either direction keeps it. -/
def setAfter (q : LaneRetrain) (dir : Nat) (v : LaneSet) : LaneSet :=
  if laneMisses q then v else v.recentre (if dir = 0 then q.read else q.write)

/-- One lane of a rank is set. -/
def ChanState.laneRetrained (r : Nat) (v : ChanState) (q : LaneRetrain × Nat) : ChanState :=
  if laneMisses q.1 then v else
  { v with
    lanes := (v.lanes.modify ⟨0, 0⟩ (laneKey r 0 q.2) fun l => l.recentre q.1.read).modify ⟨0, 0⟩ (laneKey r 1 q.2) fun l => l.recentre q.1.write }

theorem ChanState.retrained_eq (v : ChanState) (r : Nat) (lanes : List LaneRetrain) :
    v.retrained r lanes = iter lanes.zipIdx v (ChanState.laneRetrained r) := rfl

/-- The setting of a lane in a direction. -/
def ChanState.laneSet (v : ChanState) (r dir j : Nat) : LaneSet := v.lanes.get ⟨0, 0⟩ (laneKey r dir j)

theorem laneKey_inj {r d e i j : Nat} (hi : i < 80) (hj : j < 80) : laneKey r d i = laneKey r e j ↔ d = e ∧ i = j := by
  unfold laneKey
  omega

/-- Setting a lane changes its own two settings only. -/
theorem ChanState.laneRetrained_laneSet (v : ChanState) (r : Nat) (q : LaneRetrain) {i j d : Nat} (hi : i < 80) (hj : j < 80) (hd : d < 2) :
    (v.laneRetrained r (q, i)).laneSet r d j = if i = j then setAfter q d (v.laneSet r d j) else v.laneSet r d j := by
  unfold ChanState.laneRetrained setAfter ChanState.laneSet
  split
  · exact (ite_self _).symm
  · simp only [Sparse.get_modify, laneKey_inj hi hj]
    obtain rfl | rfl : d = 0 ∨ d = 1 := by omega
    · by_cases h : i = j <;> simp [h]
    · by_cases h : i = j <;> simp [h, laneKey_inj hj hj]

/-- Each lane of a rank takes the outcome of its own sweep; a lane without one keeps its setting. -/
theorem ChanState.retrained_laneSet (v : ChanState) (r : Nat) {lanes : List LaneRetrain} (hl : lanes.length ≤ 80) {j d : Nat} (hj : j < 80)
    (hd : d < 2) : (v.retrained r lanes).laneSet r d j = (lanes[j]?).elim (v.laneSet r d j) fun q => setAfter q d (v.laneSet r d j) := by
  rw [ChanState.retrained_eq]
  induction lanes using List.reverseRecOn with
  | nil => rfl
  | append_singleton lanes q ih =>
    rw [List.length_append, List.length_singleton] at hl
    have last : iter (lanes ++ [q]).zipIdx v (ChanState.laneRetrained r) =
        (iter lanes.zipIdx v (ChanState.laneRetrained r)).laneRetrained r (q, lanes.length) := by
      simp [iter, List.zipIdx_append]
    rw [last, ChanState.laneRetrained_laneSet _ _ _ (by omega) hj hd, ih (by omega)]
    by_cases h : lanes.length = j
    · subst h
      simp
    · rw [if_neg h, List.getElem?_append]
      split
      · rfl
      · rw [List.getElem?_eq_none (by omega), List.getElem?_eq_none (by simp; omega)]

/-! ## The ranks of a quick retrain -/

/-- The eyes and the misses of a rank's lanes are recorded (spec/06 R249). -/
def Part.eyesNoted (s : Part) (c r : Nat) (lanes : List LaneRetrain) : Part :=
  ((s.setOd .trainEyes (c * 4 + r) (lanes.zipIdx.foldl (fun v e => setBits v (32 * e.2) 32 (bits e.1.eye 0 32))
    (s.od .trainEyes (c * 4 + r)))).eyesMin c).modOd .quickRetrainMisses c (· + (lanes.filter laneMisses).length)

/-- A rank is retrained and no longer held. -/
def Part.rankRetrained (s : Part) (c r : Nat) (rest : List Nat) (lanes : List LaneRetrain) : Part :=
  (s.eyesNoted c r lanes).onChan c fun v => { v.retrained r lanes with retrain := rest }

/-- QUICK_RETRAINS counts a retrain. -/
def Part.retrainCounted (s : Part) (c : Nat) : Part := s.modOd .quickRetrains c (· + 1)

section
variable {s : State} {c : Chan} {r : Nat} (lanes : List LaneRetrain)

/-- With ranks left to retrain nothing is counted. -/
theorem exec_quickRetrainRankDone_more {k : Nat} {rest : List Nat} (h : (s.part.chan c).retrain = r :: k :: rest) :
    exec (.quickRetrainRankDone c lanes) s = .next (s.withPart (s.part.rankRetrained c r (k :: rest) (lanes.take 80))) := by
  rw [exec_quickRetrainRankDone, execQuickRetrainRankDone, State.run_eq]
  simp only [h]
  rfl

/-- The last rank's retrain is counted, and may end a maintenance window. -/
theorem exec_quickRetrainRankDone_last (h : (s.part.chan c).retrain = [r]) :
    exec (.quickRetrainRankDone c lanes) s = .next (s.withPart ((s.part.rankRetrained c r [] (lanes.take 80)).retrainCounted c).retrainsDone) := by
  rw [exec_quickRetrainRankDone, execQuickRetrainRankDone, State.run_eq]
  simp only [h]
  rfl

end

theorem Part.only_eyesNoted (s : Part) (c r : Nat) (lanes : List LaneRetrain) : Part.only [.dict] s (s.eyesNoted c r lanes) :=
  Part.only_trans (Part.only_trans (s.only_setOd _ _ _) (Part.only_setOd _ _ _ _)) (Part.only_setOd _ _ _ _)

theorem Part.eyesNoted_od (s : Part) (c r : Nat) (lanes : List LaneRetrain) {e : Entry}
    (he : e ∉ [.trainEyes, .eyeWidthMin, .quickRetrainMisses]) (i : Nat) : (s.eyesNoted c r lanes).od e i = s.od e i := by
  simp only [List.mem_cons, List.not_mem_nil, or_false, not_or] at he
  obtain ⟨h1, h2, h3⟩ := he
  rw [Part.eyesNoted, Part.modOd_eq, Part.od_setOd_ne _ _ _ _ (Ne.symm h3), Part.eyesMin, Part.od_setOd_ne _ _ _ _ (Ne.symm h2),
    Part.od_setOd_ne _ _ _ _ (Ne.symm h1)]

theorem Part.only_rankRetrained (s : Part) (c r : Nat) (rest : List Nat) (lanes : List LaneRetrain) :
    Part.only [.dict, .chans] s (s.rankRetrained c r rest lanes) :=
  Part.only_trans (Part.only_mono (s.only_eyesNoted c r lanes) (by decide)) (Part.only_mono (Part.only_onChan _ _ _) (by decide))

theorem Part.rankRetrained_chan (s : Part) (c r : Nat) (rest : List Nat) (lanes : List LaneRetrain) :
    (s.rankRetrained c r rest lanes).chan c = { (s.chan c).retrained r lanes with retrain := rest } := by
  rw [Part.rankRetrained, Part.onChan_chan_self, Part.chan_of_only (s.only_eyesNoted c r lanes)]

theorem Part.rankRetrained_od (s : Part) (c r : Nat) (rest : List Nat) (lanes : List LaneRetrain) {e : Entry}
    (he : e ∉ [.trainEyes, .eyeWidthMin, .quickRetrainMisses]) (i : Nat) : (s.rankRetrained c r rest lanes).od e i = s.od e i :=
  s.eyesNoted_od c r lanes he i

theorem Part.rankRetrained_laneSet (s : Part) (c r : Nat) (rest : List Nat) (lanes : List LaneRetrain) (d j : Nat) :
    ((s.rankRetrained c r rest lanes).chan c).laneSet r d j = ((s.chan c).retrained r lanes).laneSet r d j := by
  unfold ChanState.laneSet
  rw [Part.rankRetrained_chan]

/-- Each channel of a list lets go of the ranks that are not yet held. -/
def Part.unqueued (s : Part) (cs : List Nat) : Part := iter cs s fun s k => s.onChan k fun v => { v with retrain := v.retrain.take 1 }

theorem Part.unqueued_laneSet (s : Part) (cs : List Nat) (c r dir j : Nat) :
    ((s.unqueued cs).chan c).laneSet r dir j = (s.chan c).laneSet r dir j := by
  induction cs generalizing s with
  | nil => rfl
  | cons k cs ih =>
    refine (ih _).trans ?_
    rw [Part.onChan_chan]
    split
    · next h => rw [← h]; rfl
    · rfl

theorem Part.closeWindow_chans (s : Part) : s.closeWindow.chans = (s.unqueued (List.range 64)).chans := by
  unfold Part.closeWindow Part.unqueued
  dsimp only
  rw [Part.setOd_chans]

/-- Closing the maintenance window changes no lane. -/
theorem Part.closeWindow_laneSet (s : Part) (c r dir j : Nat) : (s.closeWindow.chan c).laneSet r dir j = (s.chan c).laneSet r dir j := by
  rw [← s.unqueued_laneSet (List.range 64)]
  unfold Part.chan
  rw [Part.closeWindow_chans]

theorem Part.retrainsDone_laneSet (s : Part) (c r dir j : Nat) : (s.retrainsDone.chan c).laneSet r dir j = (s.chan c).laneSet r dir j := by
  unfold Part.retrainsDone
  split
  · rfl
  · exact Part.closeWindow_laneSet _ c r dir j

/-- Outside a maintenance window the end of a retrain closes none. -/
theorem Part.retrainsDone_idle {s : Part} (h : s.od0 .maintState ≠ 2) : s.retrainsDone = s := by
  unfold Part.retrainsDone
  simp [h]

/-- Whatever rank comes next, the lanes of the rank that is done take the outcomes of their sweeps. -/
theorem exec_quickRetrainRankDone_laneSet {s : State} {c : Chan} {r : Nat} {rest : List Nat} (lanes : List LaneRetrain)
    (h : (s.part.chan c).retrain = r :: rest) : ∃ p, exec (.quickRetrainRankDone c lanes) s = .next (s.withPart p) ∧
      ∀ d j, (p.chan c).laneSet r d j = ((s.part.chan c).retrained r (lanes.take 80)).laneSet r d j := by
  cases rest with
  | nil =>
    refine ⟨_, exec_quickRetrainRankDone_last lanes h, fun d j => ?_⟩
    rw [Part.retrainsDone_laneSet, Part.retrainCounted, Part.modOd_eq, Part.setOd_chan, Part.rankRetrained_laneSet]
  | cons k rest => exact ⟨_, exec_quickRetrainRankDone_more lanes h, Part.rankRetrained_laneSet _ _ _ _ _⟩

/-! ## The rebuild of a rank -/

/-- The bursts of the extent at the watermark that lie on the channel are copied (spec/06 R256). -/
def Part.extentCopied (s : Part) (c : Nat) (b : Rebuild) (errors : List (Nat × Nat)) : Part :=
  iter (((List.range extBursts).map (b.watermark * extBursts + ·)).filter fun x => (s.placeOf (c / 8) x).chan (c / 8) == c) s
    fun t x => t.rebuildBurst c b.spare (s.ownOf (c / 8) b.watermark) errors x

/-- The rebuild of a channel stands at a new place, or is over, with its progress in percent. -/
def Part.rebuildAt (s : Part) (c : Nat) (b : Option Rebuild) (progress : Nat) : Part :=
  ((s.onChan c fun v => { v with rebuild := b }).rerank c).setOd .rebuildProgress c progress

/-- A failed rank is FAILED and its rebuild is logged. -/
def Part.rankFailed (s : Part) (c : Nat) (b : Rebuild) : Part :=
  (s.setOd .rankState (c * 4 + b.failed) 5).logEv 0x0F04 (c * 4 + b.failed) (c * 4 + b.spare) none (c / 8)

theorem Part.rebuildAt_rebuild (s : Part) (c : Nat) (b : Option Rebuild) (progress : Nat) : ((s.rebuildAt c b progress).chan c).rebuild = b := by
  unfold Part.rebuildAt Part.rerank
  rw [Part.setOd_chan, Part.onChan_chan_self, Part.onChan_chan_self]

theorem Part.rebuildAt_progress (s : Part) (c : Nat) (b : Option Rebuild) {progress : Nat} (h : progress < 256) :
    (s.rebuildAt c b progress).od .rebuildProgress c = progress := Part.od_setOd_val _ _ _ _ h

section
variable {s : State} {c : Chan} {b : Rebuild} (errors : List (Nat × Nat)) (h : (s.part.chan c).rebuild = some b)
include h

/-- Before the last extent of the layer the watermark moves on. -/
theorem exec_rankRebuildExtent_next (hn : b.watermark % (s.part.geom (c / 8)).layerExts + 1 < (s.part.geom (c / 8)).layerExts) :
    exec (.rankRebuildExtent ⟨c, errors⟩) s = .next (s.withPart ((s.part.extentCopied c b errors).rebuildAt c
      (some { b with watermark := b.watermark + 1 })
      ((b.watermark % (s.part.geom (c / 8)).layerExts + 1) * 100 / (s.part.geom (c / 8)).layerExts))) := by
  rw [exec_rankRebuildExtent, execRankRebuildExtent, State.run_eq]
  simp only [h]
  generalize (s.part.geom (c / 8)).layerExts = le at *
  have split := Nat.div_add_mod b.watermark le
  have within : b.watermark + 1 < (b.watermark / le + 1) * le := by rw [Nat.succ_mul, Nat.mul_comm]; omega
  have done : b.watermark + 1 - b.watermark / le * le = b.watermark % le + 1 := by rw [Nat.mul_comm]; omega
  rw [if_pos within, done]
  rfl

/-- After the last extent of the layer the rebuild is over. -/
theorem exec_rankRebuildExtent_last (hn : b.watermark % (s.part.geom (c / 8)).layerExts + 1 = (s.part.geom (c / 8)).layerExts) :
    exec (.rankRebuildExtent ⟨c, errors⟩) s =
      .next (s.withPart (((s.part.extentCopied c b errors).rebuildAt c none 0).rankFailed c b)) := by
  rw [exec_rankRebuildExtent, execRankRebuildExtent, State.run_eq]
  simp only [h]
  generalize (s.part.geom (c / 8)).layerExts = le at *
  have split := Nat.div_add_mod b.watermark le
  have past : ¬ b.watermark + 1 < (b.watermark / le + 1) * le := by rw [Nat.succ_mul, Nat.mul_comm]; omega
  rw [if_neg past]
  rfl

end

/-- The failed rank's state, the rebuild and its progress after the last extent. -/
theorem Part.rankFailed_spec (s : Part) {c : Nat} {b : Rebuild} (hc : c < 64) (hb : b.failed < 4) : (s.rankFailed c b).chan c = s.chan c ∧
    (s.rankFailed c b).od .rankState (c * 4 + b.failed) = 5 ∧ (s.rankFailed c b).od .rebuildProgress c = s.od .rebuildProgress c := by
  unfold Part.rankFailed
  refine ⟨Part.logEv_chan _ _ _ _ _ _ _, ?_, ?_⟩
  · rw [Part.logEv_od _ _ _ _ _ _ (by decide) (by omega), Part.od_setOd_val _ _ _ _ (by decide)]
  · rw [Part.logEv_od _ _ _ _ _ _ (by decide) (by omega), Part.od_setOd_ne _ _ _ _ (by decide)]

/-- Settles O28: a lane takes the outcome of its own sweep alone; a miss keeps its setting (log entry 200), ranks go one by one (log entry 108). -/
theorem retrainAndRebuild : Obligations.RetrainAndRebuild := by
  intro s c
  refine ⟨fun lanes r k rest h _ => ?_, fun lanes r rest j l h _ hj hl => ?_, fun lanes r h _ hm => ?_,
    fun b errors h hb => ⟨fun hn => ?_, fun hn => ?_⟩⟩
  · refine ⟨_, exec_quickRetrainRankDone_more lanes h, ?_, ?_, Part.only_rankRetrained _ _ _ _ _⟩
    · rw [Part.rankRetrained_chan]
    · exact Part.rankRetrained_od _ _ _ _ _ (by decide) _
  · obtain ⟨p, run, set⟩ := exec_quickRetrainRankDone_laneSet lanes h
    have own : ∀ d < 2, (p.chan c).laneSet r d j = setAfter l d ((s.part.chan c).laneSet r d j) := fun d hd => by
      rw [set, ChanState.retrained_laneSet _ _ (List.length_take_le _ _) hj hd, List.getElem?_take_of_lt hj, hl]
      rfl
    exact ⟨p, run, own 0 (by decide), own 1 (by decide)⟩
  · have idle : ((s.part.rankRetrained c r [] (lanes.take 80)).retrainCounted c).od0 .maintState ≠ 2 := by
      rwa [Part.od0, Part.retrainCounted, Part.modOd_eq, Part.od_setOd_ne _ _ _ _ (by decide), Part.rankRetrained_od _ _ _ _ _ (by decide)]
    have run := exec_quickRetrainRankDone_last lanes h
    rw [Part.retrainsDone_idle idle] at run
    refine ⟨_, run, ?_, ?_, Part.only_trans (Part.only_rankRetrained _ _ _ _ _) (Part.only_setOd_of_mem _ _ _ _)⟩
    · rw [Part.retrainCounted, Part.modOd_eq, Part.setOd_chan, Part.rankRetrained_chan]
    · rw [Part.retrainCounted, Part.modOd_eq, Part.od_setOd_self, Part.rankRetrained_od _ _ _ _ _ (by decide)]
      rfl
  · have percent : (b.watermark % (s.part.geom (c / 8)).layerExts + 1) * 100 / (s.part.geom (c / 8)).layerExts < 256 :=
      (Nat.div_lt_iff_lt_mul (by omega)).mpr (by omega)
    exact ⟨_, exec_rankRebuildExtent_next errors h hn, Part.rebuildAt_rebuild _ _ _ _, Part.rebuildAt_progress _ _ _ percent⟩
  · obtain ⟨chan, failed, progress⟩ := ((s.part.extentCopied c b errors).rebuildAt c none 0).rankFailed_spec c.isLt hb
    refine ⟨_, exec_rankRebuildExtent_last errors h hn, ?_, failed, ?_⟩
    · rw [chan, Part.rebuildAt_rebuild]
    · rw [progress, Part.rebuildAt_progress _ _ _ (by decide)]

end Sys2Proof.Machine
end

section
/-!
O29: the commands of a channel, the flip mask and the address table (spec/05 R209, R219, R220, spec/06 R251).
-/

namespace Sys2Proof.Machine

set_option Elab.async false

/-- A value kept for the vendor service role is refused to every other (spec/11 R434). -/
theorem Part.command_vendorOnly {s : Part} {w : Who} {e : Entry} (v : Nat) (f : Part → Reply) (h : s.mayWrite w e)
    (ht : e.info.takes v e.info.bytes = true) (hv : s.roleOf w ≠ roleVendor) : s.command w e v true f = s.refuse rRole := by
  obtain ⟨role, -⟩ := h
  unfold Part.command
  rw [writeChecks_takes role ht fun _ => rfl]
  simp [hv]

/-! ## The burst of TEST_WRITE -/

/-- A burst of a rank that answers is written (spec/06 R259). -/
theorem Part.putDram_stored {s : Part} {p x : Nat} (h : s.burstLost p x = false) (v : Nat) : s.putDram p x v = s.onPav p fun q =>
    { q with dram := q.dram.set zeroBurst x (v % 2 ^ 640), inlined := q.inlined.set 0 x (b2n false) } := by
  have answers : s.unstored p x = false := by rw [Part.unstored, h, Bool.and_false]
  rw [Part.putDram, answers, if_neg Bool.false_ne_true]

/-- An extent becomes SYSTEM and holds zero data. -/
def Part.testExtent (s : Part) (p ext : Nat) : Part := (s.setOwn p ext { Own.free with kind := kindSystem }).zeroBursts p ext

/-- The masked zero burst is written into the extent (spec/05 R220). -/
def Part.testBurst (s : Part) (p x mask : Nat) : Part := (s.testExtent p (x / extBursts)).putDram p x (zeroBurst ^^^ mask)

theorem Part.testBurst_spec {s : Part} {p x : Nat} (h : s.burstLost p x = false) (mask : Nat) :
    ((s.testBurst p x mask).pav p).dram.get zeroBurst x = (zeroBurst ^^^ mask) % 2 ^ 640 ∧
    ((s.testBurst p x mask).pav p).own.get Own.free (x / extBursts) = { Own.free with kind := kindSystem } := by
  have stands : (s.testExtent p (x / extBursts)).burstLost p x = false := h
  rw [Part.testBurst, Part.putDram_stored stands, Part.onPav_pav_self]
  refine ⟨by rw [Sparse.get_set, if_pos rfl], ?_⟩
  unfold Part.testExtent Part.zeroBursts
  rw [Part.onPav_pav_self, Part.setOwn_own, if_pos rfl]

/-- FLIP_STATUS and FLIP_LAST show the test burst. -/
def Part.testShown (s : Part) (c x : Nat) : Part := (s.setOd .flipStatus c 3).setOd .flipLast c (s.addressOf (c / 8) x)

/-- A record logs the test burst. -/
def Part.testLogged (s : Part) (c x : Nat) : Part := s.logEv 0x0E08 (s.addressOf (c / 8) x) 0 none (c / 8)

/-- What TEST_WRITE does: the burst with the mask of the channel, shown and logged. -/
def Part.testWritten (s : Part) (c x : Nat) : Part :=
  ((s.testBurst (c / 8) x ((s.testExtent (c / 8) (x / extBursts)).flipMask c)).testShown c x).testLogged c x

theorem Part.testWritten_status (s : Part) {c : Nat} (hc : c < 64) (x : Nat) : (s.testWritten c x).od .flipStatus c = 3 := by
  rw [Part.testWritten, Part.testLogged, Part.logEv_od _ _ _ _ _ _ (by decide) (by omega), Part.testShown,
    Part.od_setOd_ne _ _ _ _ (by decide), Part.od_setOd_val _ _ _ _ (by decide)]

theorem Part.testWritten_pav (s : Part) (c x p : Nat) : (s.testWritten c x).pav p = (s.testBurst (c / 8) x (s.flipMask c)).pav p := by
  have mask : (s.testExtent (c / 8) (x / extBursts)).flipMask c = s.flipMask c := rfl
  rw [Part.testWritten, mask, Part.testLogged, Part.logEv_pav, Part.testShown, Part.setOd_pav, Part.setOd_pav]

/-! ## The result of TEST_READ -/

/-- A clean test read: the result, no device, the mask disarmed. -/
def Part.testClean (s : Part) (c : Nat) : Part := ((s.setOd .flipTestResult c 1).setOd .flipTestDevice c 31).setOd .flipStatus c 0

/-- The extent of the test burst is given back. -/
def Part.testFreed (s : Part) (p ext : Nat) : Part := if (s.ownOf p ext).kind = kindSystem then s.toZeroing p ext else s

theorem Part.testFreed_od (s : Part) (p ext : Nat) (e : Entry) (i : Nat) : (s.testFreed p ext).od e i = s.od e i := by
  unfold Part.testFreed
  split <;> rfl

theorem Part.testClean_od (s : Part) (c : Nat) : (s.testClean c).od .flipStatus c = 0 ∧ (s.testClean c).od .flipTestResult c = 1 ∧
    (s.testClean c).od .flipTestDevice c = 31 := by
  unfold Part.testClean
  refine ⟨Part.od_setOd_val _ _ _ _ (by decide), ?_, ?_⟩
  · rw [Part.od_setOd_ne _ _ _ _ (by decide), Part.od_setOd_ne _ _ _ _ (by decide), Part.od_setOd_val _ _ _ _ (by decide)]
  · rw [Part.od_setOd_ne _ _ _ _ (by decide), Part.od_setOd_val _ _ _ _ (by decide)]

/-! ## FLIP_COMMAND -/

section
variable {s : Part} {w : Who} {c : Nat} (hw : s.mayWrite w .flipCommand)
include hw

theorem Part.flipCommand_arm (h3 : s.od .flipStatus c ≠ 3) (hv : s.roleOf w = roleVendor) :
    s.flipCommand w c 1 = (s.setOd .flipStatus c 1).ok := by
  rw [Part.flipCommand, Part.command_eq 1 _ _ hw (by decide) fun _ => hv]
  simp only [if_neg h3]

theorem Part.flipCommand_arm_refused (hv : s.roleOf w ≠ roleVendor) : s.flipCommand w c 1 = s.refuse rRole :=
  Part.command_vendorOnly 1 _ hw (by decide) hv

theorem Part.flipCommand_disarm : s.flipCommand w c 2 = (s.setOd .flipStatus c 0).ok := by
  rw [Part.flipCommand, Part.command_eq 2 _ _ hw (by decide) (by simp)]
  rfl

theorem Part.flipCommand_testWrite {x : Nat} (h3 : s.od .flipStatus c ≠ 3) (hx : s.flipBurst c (s.od .flipAddress c) = some x)
    (hf : s.ownOf (c / 8) (x / extBursts) = Own.free) : s.flipCommand w c 3 = (s.testWritten c x).ok := by
  rw [Part.flipCommand, Part.command_eq 3 _ _ hw (by decide) (by simp)]
  simp only [hx, hf, bne_self_eq_false, Bool.false_eq_true, if_false, h3]
  rfl

theorem Part.flipCommand_testRead_refused (h3 : s.od .flipStatus c ≠ 3) : s.flipCommand w c 4 = s.refuse rState := by
  rw [Part.flipCommand, Part.command_eq 4 _ _ hw (by decide) (by simp)]
  simp only [bne_iff_ne.mpr h3, if_true]

theorem Part.flipCommand_testRead_clean {x v : Nat} (h3 : s.od .flipStatus c = 3) (hx : s.flipBurst c (s.od .flipLast c) = some x)
    (hk : sddcCheck (s.dramAt (c / 8) x) = .clean v) :
    s.flipCommand w c 4 = ((s.testClean c).testFreed (c / 8) (x / extBursts)).ok := by
  rw [Part.flipCommand, Part.command_eq 4 _ _ hw (by decide) (by simp)]
  simp only [h3, bne_self_eq_false, Bool.false_eq_true, if_false, hx, hk]
  rfl

end

/-- Settles O29: each command past its checks is one change of the part; the test burst stands in the extent that TEST_WRITE takes. -/
theorem channelCommands : Obligations.ChannelCommands := by
  intro s w c
  refine ⟨fun hw h2 hr => ?_, fun hw => ?_, fun hw h3 => ⟨fun hv => ?_, fun hv => ?_, ?_, fun x hx hf hl _ => ?_⟩,
    fun hw h3 x v hx hk => ?_, fun q hw => ?_⟩
  case refine_1 =>
    rw [exec_channelQuickRetrain, execChannelQuickRetrain, State.run_eq, Part.channelCommand,
      Part.command_eq 1 _ _ hw (by decide) (by simp)]
    simp only [h2, hr, bne_self_eq_false, List.isEmpty_nil, Bool.not_true, Bool.false_eq_true, if_false]
    rfl
  case refine_2 =>
    rw [exec_flipDisarm, execFlipDisarm, State.run_eq, Part.flipCommand_disarm hw, Reply.answer_ok]
  case refine_3 =>
    rw [exec_flipArm, execFlipArm, State.run_eq, Part.flipCommand_arm hw h3 hv, Reply.answer_ok]
  case refine_4 =>
    rw [exec_flipArm, execFlipArm, State.run_eq, Part.flipCommand_arm_refused hw hv, Reply.answer_refuse]
  case refine_5 =>
    rw [exec_flipTestRead, execFlipTestRead, State.run_eq, Part.flipCommand_testRead_refused hw h3, Reply.answer_refuse]
  case refine_6 =>
    obtain ⟨burst, owner⟩ := Part.testBurst_spec hl (s.part.flipMask c)
    refine ⟨(s.part.testWritten c x).emit (.answer w rOk []), ?_, ?_, ?_, ?_, _, Part.emit_out _ _⟩
    · rw [exec_flipTestWrite, execFlipTestWrite, State.run_eq, Part.flipCommand_testWrite hw h3 hx hf, Reply.answer_ok]
    · rw [Part.emit_od, Part.testWritten_status _ c.isLt]
    · rw [Part.emit_pav, Part.testWritten_pav, burst]
    · rw [Part.emit_pav, Part.testWritten_pav, owner]
  case refine_7 =>
    obtain ⟨status, result, device⟩ := s.part.testClean_od c
    refine ⟨((s.part.testClean c).testFreed (c / 8) (x / extBursts)).emit (.answer w rOk []), ?_, ?_, ?_, ?_, _, Part.emit_out _ _⟩
    · rw [exec_flipTestRead, execFlipTestRead, State.run_eq, Part.flipCommand_testRead_clean hw h3 hx hk, Reply.answer_ok]
    · rw [Part.emit_od, Part.testFreed_od, status]
    · rw [Part.emit_od, Part.testFreed_od, result]
    · rw [Part.emit_od, Part.testFreed_od, device]
  case refine_8 =>
    rw [exec_ceTableClear, execCeTableClear, State.run_eq, Part.ceTableCommand, Part.command_eq 1 _ _ hw (by decide) (by simp),
      Reply.answer_ok]

end Sys2Proof.Machine
end

section
/-!
O17: the head of an ingress partition is forwarded (spec/07 R287, spec/01 R36, spec/08 R310).
-/

namespace Sys2Proof.Machine

/-- A slice without a ceiling in either direction: its meters are brought up to now and take nothing. -/
theorem Part.passMeter_uncapped {s : Part} {sl : Nat} (hr : s.od .sliceCeilingRead sl = 0) (hw : s.od .sliceCeilingWrite sl = 0)
    (i : Nat) (read : Bool) : s.passMeter i sl read = some (s.refillMeters i sl) := by
  unfold Part.passMeter
  cases read
  · exact if_pos hw
  · exact if_pos hr

/-- The head has left a partition's queue, its meters being brought up to now. -/
def Part.headTaken (s : Part) (i sl : Nat) (rest : List Req) : Part := (s.refillMeters i sl).onPart i sl fun q => { q with queue := rest }

theorem Part.only_headTaken (s : Part) (i sl : Nat) (rest : List Req) : Part.only [.ports] s (s.headTaken i sl rest) :=
  Part.only_trans (s.only_refillMeters i sl) (Part.only_onPart _ _ _ _)

/-- The partition without its head: what it has forwarded and what it holds stay. -/
theorem Part.headTaken_part (s : Part) (i sl : Nat) (rest : List Req) : ((s.headTaken i sl rest).part i sl).queue = rest ∧
    ((s.headTaken i sl rest).part i sl).forwarded = (s.part i sl).forwarded ∧
    ((s.headTaken i sl rest).part i sl).hold = (s.part i sl).hold := by
  unfold Part.headTaken Part.refillMeters
  simp [Part.part_onPart]

/-- The command forwards the head where the partition is not stopped, the page not held and no ceiling set. -/
theorem exec_ingressForward_head {s : State} {i : Port} {sl : Slice} {r : Req} {rest : List Req}
    (hq : (s.part.part i sl).queue = r :: rest) (hfree : (s.part.part i sl).free r = true) (hn : (s.part.part i sl).hold.length < 16)
    (hh : (s.part.part i sl).hold.any (·.lpage == r.lpage) = false) (hp : s.part.parked (0x0200 + i) = false)
    (hr : s.part.od .sliceCeilingRead sl = 0) (hw : s.part.od .sliceCeilingWrite sl = 0) :
    exec (.ingressForward i sl) s = .next (s.withPart ((s.part.headTaken i sl rest).forward r 0)) := by
  have hgo : (decide (16 ≤ (s.part.part i sl).hold.length) || s.part.parked (0x0200 + i)) = false := by simp [hp, hn]
  rw [exec_ingressForward, execIngressForward, State.run_eq]
  simp only [hgo, hq, takeFirst, hfree, hh, Part.passMeter_uncapped hr hw, Bool.false_eq_true, if_false, if_true]
  rfl

/-- Settles O17: no ceiling is the form treated; the request's entry is the last of those its partition has forwarded. -/
theorem partitionHeadIsForwarded : Obligations.PartitionHeadIsForwarded := by
  intro s i sl r rest home hq hi hsl hfree hn hh hp hr hw hhome h5
  obtain ⟨queue, forwarded, hold⟩ := s.part.headTaken_part i sl rest
  have hkeep : Part.only forwardFields s.part ((s.part.headTaken i sl rest).forward r 0) :=
    Part.only_trans (Part.only_mono (s.part.only_headTaken i sl rest) (by decide)) (Part.only_forward _ _ _ _)
  obtain ⟨via, h⟩ := Part.forward_marked_part (s := s.part.headTaken i sl rest) (r := r) id 0 (by rw [hsl]; exact hhome) h5
  have hpart := h i sl
  rw [if_pos ⟨hi, hsl⟩, hi, hsl] at hpart
  refine ⟨_, via, exec_ingressForward_head hq hfree hn hh hp hr hw, ?_, ?_, ?_, hkeep .chans (by decide), hkeep .slices (by decide)⟩
  · rw [hpart]
    exact queue
  · rw [hpart]
    exact congrArg (· ++ _) forwarded
  · rw [hpart]
    exact hold

end Sys2Proof.Machine
end

section
/-!
O34: batches of settings, and the compile of a vintage up to its check (spec/07 R288, R294, R295, R298 to R300).
-/

namespace Sys2Proof.Machine

/-! ## Batches -/

section
variable {s : Part} {w : Who}

theorem Part.vintageCommand_begin (hw : s.mayWrite w .vintageCommand) (h0 : s.od0 .vintageBatchState = 0) : s.vintageCommand w 1 =
    (({ s with vint := { s.vint with batch := some w, staged := [] } } : Part).setOd .vintageBatchState 0 1).ok := by
  rw [Part.vintageCommand, Part.command_eq 1 _ _ hw (by decide) (by simp)]
  simp [h0]

section
variable (hw : s.mayWrite w .vintageCommand) (h1 : s.od0 .vintageBatchState = 1) (hb : s.vint.batch = some w)
include hw h1 hb

theorem Part.vintageCommand_commit :
    s.vintageCommand w 2 = ((s.ask ⟨0, s.vint.staged, some w, .batch, 0⟩).setOd .vintageBatchState 0 2).later := by
  rw [Part.vintageCommand, Part.command_eq 2 _ _ hw (by decide) (by simp)]
  simp [h1, hb]

theorem Part.vintageCommand_abort : s.vintageCommand w 3 = s.endBatch.ok := by
  rw [Part.vintageCommand, Part.command_eq 3 _ _ hw (by decide) (by simp)]
  simp [h1, hb]

end

end

/-! ## The end of a compile -/

/-- With no retirement of the sparing ladder waiting none is settled. -/
theorem Part.settleRetiring_none {s : Part} (h : s.season.retiring = []) : s.settleRetiring = s := by
  unfold Part.settleRetiring
  dsimp only
  rw [h]
  show ({ s with season := { s.season with retiring := [] } } : Part) = s
  rw [← h]

theorem Part.only_mgmtReach (s : Part) (p a d : Nat) : Part.only [.links, .pavs] s (s.mgmtReach p a d) :=
  Part.only_ite (Part.only_refl _ _) (s.only_send _ _ _)

theorem Part.mgmtReach_lists (s : Part) (p a d q : Nat) : ((s.mgmtReach p a d).pav q).promote = (s.pav q).promote ∧
    ((s.mgmtReach p a d).pav q).demote = (s.pav q).demote := by
  unfold Part.mgmtReach
  split
  · exact ⟨rfl, rfl⟩
  · exact ⟨Part.send_keeps (·.promote) (fun _ _ => rfl) _ _ _ _ _, Part.send_keeps (·.demote) (fun _ _ => rfl) _ _ _ _ _⟩

/-- The gatehouse's writes to pavilions leave their lists for the next plan. -/
theorem Part.mgmtReaches_lists (l : List Nat) (s : Part) (a d q : Nat) :
    ((iter l s fun s p => s.mgmtReach p a d).pav q).promote = (s.pav q).promote ∧
    ((iter l s fun s p => s.mgmtReach p a d).pav q).demote = (s.pav q).demote := by
  induction l generalizing s with
  | nil => exact ⟨rfl, rfl⟩
  | cons p l ih =>
    obtain ⟨promote, demote⟩ := s.mgmtReach_lists p a d q
    exact ⟨(ih _).1.trans promote, (ih _).2.trans demote⟩

/-- A vintage stands in the shadow bank. -/
def VintState.shadowed (t : VintState) (a : CompileAsk) (v : Vintage) : VintState :=
  { t with shadow := some v, checking := true, armed := false, running := some a, intervalEnded := false }

/-- Loading a vintage into the shadow bank starts its check and uses up the lists of an interval's end. -/
theorem Part.loadShadow_spec (s : Part) (a : CompileAsk) (v : Vintage) : (s.loadShadow a v).vint = s.vint.shadowed a v ∧
    (∀ p < 8, ((s.loadShadow a v).pav p).promote = [] ∧ ((s.loadShadow a v).pav p).demote = []) ∧
    Part.only [.vint, .pavs, .links, .delta] s (s.loadShadow a v) := by
  unfold Part.loadShadow
  extract_lets _ s1 s2 s3
  have only1 : Part.only [.vint] s s1 := fun f hf => by cases f <;> first | rfl | simp at hf
  have only2 : Part.only [.pavs] s1 s2 := Part.only_iterPav _ _ _ _
  have only3 : Part.only [.links, .pavs] s2 s3 := Part.only_iter (fun s p => s.only_mgmtReach p 0 v.number) _ _
  have only4 : Part.only [.delta] s3 (if v.forced then s3.count .vintageForced 0 else s3) :=
    Part.only_ite (s3.only_count _ _ _) (Part.only_refl _ _)
  have lists : ∀ p < 8, (s3.pav p).promote = [] ∧ (s3.pav p).demote = [] := fun p hp => by
    obtain ⟨promote, demote⟩ := Part.mgmtReaches_lists s2.serving s2 0 v.number p
    have used : s2.pav p = _ := s1.pav_iterAll _ p hp
    exact ⟨promote.trans (by rw [used]), demote.trans (by rw [used])⟩
  refine ⟨?_, fun p hp => ?_, ?_⟩
  · rw [show (if v.forced then s3.count .vintageForced 0 else s3).vint = s3.vint from only4 .vint (by decide),
      show s3.vint = s2.vint from only3 .vint (by decide), show s2.vint = s1.vint from only2 .vint (by decide)]
    rfl
  · rw [Part.pav_of_only only4]
    exact lists p hp
  · exact Part.only_trans (Part.only_trans (Part.only_mono only1 (by decide)) (Part.only_mono only2 (by decide)))
      (Part.only_trans (Part.only_mono only3 (by decide)) (Part.only_mono only4 (by decide)))

/-- Another state of the vintages changes no stored value. -/
theorem Part.keepsOd_vint {l : List Entry} {s t : Part} (h : Part.keepsOd l s t) (v : VintState) : Part.keepsOd l s { t with vint := v } := h

/-- No compile runs and no vintage is on its way. -/
def VintState.idle (t : VintState) : VintState := { t with running := none, shadow := none, checking := false }

/-- A refusal of a compile is recorded, counted and logged, and no compile runs; who waited is not told yet. -/
def Part.refusalNoted (s : Part) (e : Refuse) : Part :=
  let t := (((s.setOd .vintageLastRefusal 0 e.reason).setOd .vintageRefusalDetail 0 e.detail).count .vintageRefusals 0).logEv 0x1002 e.reason e.detail
  { t with vint := t.vint.idle }

/-- A refused compile of one write answers who asked for it. -/
theorem Part.compileRefused_writes {s : Part} {a : CompileAsk} {w : Who} (hg : a.goal = .writes) (hw : a.who = some w) (e : Refuse) :
    s.compileRefused a e = (s.refusalNoted e).answerTo w rVintage [e.reason, e.detail] := by
  unfold Part.compileRefused Part.goalFailed
  simp only [hg, hw]
  rfl

/-- Of the stored values a refusal changes its own two, and RING_STATE by its record. -/
theorem Part.refusalNoted_spec (s : Part) (e : Refuse) : (s.refusalNoted e).vint = s.vint.idle ∧
    Part.keepsOd [.vintageLastRefusal, .vintageRefusalDetail, .ringState] s (s.refusalNoted e) := by
  refine ⟨congrArg VintState.idle (Part.logEv_vint _ _ _ _ _ _), Part.keepsOd_vint ?_ _⟩
  exact Part.keepsOd_trans (Part.keepsOd_trans (Part.keepsOd_setAny _ _ _ (by decide)) (Part.keepsOd_setAny _ _ _ (by decide)))
    (Part.keepsOd_trans (Part.keepsOd_of_only (Part.only_count _ _ _ _) (by decide)) (Part.keepsOd_mono (Part.keepsOd_logEv _ _ _ _ _ _) (by decide)))

section
variable {s : State} {a : CompileAsk} (hr : s.part.season.retiring = []) (ha : s.part.vint.running = some a) (hs : s.part.vint.shadow = none)
include hr ha hs

section
variable (hk : a.kind ≤ 2) (ho : s.part.oldStamps = false)
include hk ho

/-- A full, forced or plan compile that gives a vintage loads it. -/
theorem exec_vintageCompileDone_loads {v : Vintage} (hv : s.part.compileAsk a = (.ok v, none)) :
    exec .vintageCompileDone s = .next (s.withPart (s.part.loadShadow a v)) := by
  have h3 : a.kind ≠ 3 := by omega
  have h4 : a.kind ≠ 4 := by omega
  rw [exec_vintageCompileDone, execVintageCompileDone, State.run_eq]
  simp only [Part.settleRetiring_none hr, ha, hs, Option.isSome_none, Bool.false_eq_true, if_false, h3, h4, ho, hv]

/-- A full, forced or plan compile that gives none is refused. -/
theorem exec_vintageCompileDone_refused {e : Refuse} {x : Option Refuse} (he : s.part.compileAsk a = (.error e, x)) :
    exec .vintageCompileDone s = .next (s.withPart (s.part.compileRefused a e)) := by
  have h3 : a.kind ≠ 3 := by omega
  have h4 : a.kind ≠ 4 := by omega
  rw [exec_vintageCompileDone, execVintageCompileDone, State.run_eq]
  simp only [Part.settleRetiring_none hr, ha, hs, Option.isSome_none, Bool.false_eq_true, if_false, h3, h4, ho, he]

end

theorem exec_vintageCompileDone_retireList (hk : a.kind = 4) :
    exec .vintageCompileDone s = .next (s.withPart (s.part.appendPlan a.arg (s.part.retireEnts a.arg))) := by
  rw [exec_vintageCompileDone, execVintageCompileDone, State.run_eq]
  simp only [Part.settleRetiring_none hr, ha, hs, Option.isSome_none, Bool.false_eq_true, if_false, hk]
  rfl

end

/-! ## The obligation -/

/-- Settles O34: each command by its own branch; a compile's end by the shadow bank's load or by the record of its refusal. -/
theorem batchesAndCompiles : Obligations.BatchesAndCompiles := by
  intro s w
  refine ⟨fun hw h0 => ?_, fun hw h1 hb => ⟨?_, ?_⟩, fun h1 hu => ?_, fun a rest hrun hsh hl hp hg hq hr => ?_,
    fun a hr ha hs => ⟨fun v hk ho hv => ?_, fun e x by_ hk ho he hgoal hwho => ?_, fun hk => ?_⟩,
    fun a v hs ha hc => ⟨fun hv => ?_, fun n p hv => ?_⟩⟩
  case refine_1 =>
    rw [exec_vintageBeginBatch, execVintageBeginBatch, State.run_eq, Part.vintageCommand_begin hw h0, Reply.answer_ok]
  case refine_2 =>
    rw [exec_vintageCommitBatch, execVintageCommitBatch, State.run_eq, Part.vintageCommand_commit hw h1 hb, Reply.answer_later]
    rfl
  case refine_3 =>
    rw [exec_vintageAbortBatch, execVintageAbortBatch, State.run_eq, Part.vintageCommand_abort hw h1 hb, Reply.answer_ok]
    rfl
  case refine_4 =>
    rw [exec_vintageBatchTimeout, execVintageBatchTimeout, State.run_eq, if_pos (by simp [h1, hu])]
    rfl
  case refine_5 =>
    rw [exec_vintageCompileStart, execVintageCompileStart, State.run_eq]
    simp only [hrun, hsh, hl, hp, hg, hq, Option.isSome_none, Bool.not_true, Bool.or_self, Bool.false_eq_true, if_false]
    exact congrArg (fun q => Host.Outcome.next (s.withPart q)) (Part.settleRetiring_none hr)
  case refine_6 =>
    obtain ⟨vint, lists, only⟩ := s.part.loadShadow_spec a v
    refine ⟨s.part.loadShadow a v, exec_vintageCompileDone_loads hr ha hs hk ho hv, ?_, ?_, ?_, fun p => lists p p.isLt, only⟩
    all_goals rw [vint]; rfl
  case refine_7 =>
    obtain ⟨vint, od⟩ := s.part.refusalNoted_spec e
    refine ⟨s.part.refusalNoted e, ?_, by rw [vint]; rfl, by rw [vint]; rfl, od⟩
    rw [exec_vintageCompileDone_refused hr ha hs hk ho he, Part.compileRefused_writes hgoal hwho]
  case refine_8 => exact exec_vintageCompileDone_retireList hr ha hs hk
  case refine_9 =>
    rw [exec_vintageCheckerDone, execVintageCheckerDone, State.run_eq]
    simp only [hs, ha, hc, hv, Bool.not_true, Bool.false_eq_true, if_false]
  case refine_10 =>
    rw [exec_vintageCheckerDone, execVintageCheckerDone, State.run_eq]
    simp only [hs, ha, hc, hv, Bool.not_true, Bool.false_eq_true, if_false]

end Sys2Proof.Machine
end

section
/-!
O25: a slot serves the open partition (spec/06 R230, R238, R251, spec/07 R268 to R276).
-/

namespace Sys2Proof.Machine

/-! ## What comes before the choice of a request: the place of the scrubber -/

/-- The values that the end of a scrub pass sets (spec/05 R205). -/
def scrubEntries : List Entry := [.scrubPasses, .scrubLastPass, .scrubPassesLate]

/-- A channel without the place of its scrub pass. -/
def ChanState.unscrubbed (v : ChanState) : ChanState := { v with scrubPtr := [], scrubDone := [], passStart := 0 }

/-- From `a` to `b` nothing changes but how far the scrub passes are. -/
structure ScrubFrame (a b : Part) : Prop where
  only : Part.only [.dict, .chans] a b
  od : Part.keepsOd scrubEntries a b
  chan : ∀ k, (b.chan k).unscrubbed = (a.chan k).unscrubbed

namespace ScrubFrame

theorem refl (a : Part) : ScrubFrame a a := ⟨Part.only_refl _ _, Part.keepsOd_refl _ _, fun _ => rfl⟩

theorem trans {a b c : Part} (h : ScrubFrame a b) (k : ScrubFrame b c) : ScrubFrame a c :=
  ⟨Part.only_trans h.only k.only, Part.keepsOd_trans h.od k.od, fun n => (k.chan n).trans (h.chan n)⟩

theorem ite {c : Prop} [Decidable c] {s a b : Part} (h : ScrubFrame s a) (k : ScrubFrame s b) : ScrubFrame s (if c then a else b) := by
  split <;> assumption

theorem onChan (s : Part) (c : Nat) (f : ChanState → ChanState) (h : (f (s.chan c)).unscrubbed = (s.chan c).unscrubbed) :
    ScrubFrame s (s.onChan c f) :=
  ⟨Part.only_mono (s.only_onChan c f) (by decide), fun _ _ _ _ => rfl, fun k => by
    rw [Part.onChan_chan]
    split
    · next e => rw [h, e]
    · rfl⟩

theorem setOd (s : Part) {e : Entry} (i v : Nat) (he : e ∈ scrubEntries) : ScrubFrame s (s.setOd e i v) :=
  ⟨Part.only_mono (s.only_setOd e i v) (by decide), Part.keepsOd_setAny s i v he, fun _ => rfl⟩

theorem endPass (s : Part) (c : Nat) : ScrubFrame s (s.endPass c) := by
  unfold Part.endPass
  extract_lets len s1
  have h : ScrubFrame s s1 := (ScrubFrame.setOd s _ _ (by decide)).trans (.setOd _ _ _ (by decide))
  exact .ite ((h.trans (.setOd _ _ _ (by decide))).trans (.onChan _ _ _ rfl)) (h.trans (.onChan _ _ _ rfl))

theorem scrubStep (s : Part) (c u g : Nat) : ScrubFrame s (s.scrubStep c u g) := by
  unfold Part.scrubStep
  extract_lets k n s1
  have h : ScrubFrame s s1 := .onChan _ _ _ rfl
  exact .ite (.onChan _ _ _ rfl) (.ite (h.trans (.endPass _ _)) h)

theorem scrubSettle (s : Part) (c u g : Nat) : ScrubFrame s (s.scrubSettle c u g) := by
  unfold Part.scrubSettle
  exact .ite (.scrubStep _ _ _ _) (.refl _)

/-- Requests that are of no class wait for no bound. -/
theorem waitSlot {s : Part} {c : Nat} (h : ∀ q ∈ (s.chan c).queue, q.label = ownOpen) (u : Nat) : ScrubFrame s (s.waitSlot c u) := by
  unfold Part.waitSlot
  extract_lets v isHead late s1
  have noHead : ∀ q ∈ v.queue, isHead q = false := fun q hq => by
    have : q.label = 0 := h q hq
    simp [isHead, this]
  have noLate : late = [] := List.filter_eq_nil_iff.mpr fun q hq => by simp [noHead q hq]
  have same : v.queue.map (fun q => if isHead q then { q with waits := q.waits + 1 } else q) = v.queue := by
    rw [List.map_congr_left (g := id) fun q hq => by rw [noHead q hq]; rfl, List.map_id]
  rw [noLate]
  exact .onChan _ _ _ (congrArg (fun l => ChanState.unscrubbed { v with queue := l }) same)

variable {a b : Part}

theorem od_eq (h : ScrubFrame a b) {e : Entry} (he : e ∉ scrubEntries) (i : Nat) : b.od e i = a.od e i := h.od.od_eq he i

end ScrubFrame

/-- Where no requester is throttled no request steps aside. -/
theorem Part.withhold_none {s : Part} {c : Nat} (h : (s.chan c).throttled = []) (u : Nat) : s.withhold c u = s := by
  have none : ((s.chan c).queue.filter fun q => q.sub == u && (s.chan c).isThrottled q) = [] :=
    List.filter_eq_nil_iff.mpr fun q _ => by simp [ChanState.isThrottled, h]
  unfold Part.withhold
  rw [none]
  rfl

/-! ## The slot -/

/-- An open slot of a subchannel finds one request on its channel, and nothing comes before it: no refresh at its limit, no RFM command, no
throttled requester; its row is open and no rebuild copies its extent. -/
structure OpenSlot (s : Part) (c u k : Nat) (q : QEnt) : Prop where
  refresh : s.refreshDue c u (postponeLimit * s.refreshUnit c) = none
  rfm : (s.chan c).rfmDue = []
  throttled : (s.chan c).throttled = []
  owner : bits (s.descriptor c k) 10 5 = ownOpen
  dir : bit (s.descriptor c k) 15 = q.write
  size : s.openSize (c / 8) q.write ≠ 0
  queue : (s.chan c).queue = [q]
  sub : q.sub = u
  group : q.group = (k + (s.pav (c / 8)).frame) % 8
  label : q.label = ownOpen
  row : (s.chan c).rowOpen q = true
  copied : s.atWatermark c q = false

/-- The progress of the scrubber changes nothing that a slot looks at for its request. -/
theorem OpenSlot.of_scrub {a b : Part} {c u k : Nat} {q : QEnt} (h : OpenSlot a c u k q) (f : ScrubFrame a b) : OpenSlot b c u k q := by
  have chan {α : Type} (g : ChanState → α) : g (b.chan c).unscrubbed = g (a.chan c).unscrubbed := congrArg g (f.chan c)
  have vint : b.vint = a.vint := f.only .vint (by decide)
  have runs : b.rankRuns c = a.rankRuns c := by
    funext r
    unfold Part.rankRuns Part.rankState
    rw [f.od_eq (by decide)]
  have due : b.refreshDue c u = a.refreshDue c u := by
    funext limit
    unfold Part.refreshDue
    rw [runs, show (b.chan c).debt = (a.chan c).debt from chan (·.debt)]
  exact {
    refresh := by
      rw [due, show b.refreshUnit c = a.refreshUnit c from congrArg (390 * ·) (f.od_eq (by decide) _)]
      exact h.refresh
    rfm := (chan (·.rfmDue)).trans h.rfm
    throttled := (chan (·.throttled)).trans h.throttled
    owner := by
      unfold Part.descriptor Part.tables
      rw [vint]
      exact h.owner
    dir := by
      unfold Part.descriptor Part.tables
      rw [vint]
      exact h.dir
    size := by
      unfold Part.openSize Part.tables
      rw [vint]
      exact h.size
    queue := (chan (·.queue)).trans h.queue
    sub := h.sub
    group := by
      rw [Part.pav_of_only f.only]
      exact h.group
    label := h.label
    row := (chan (·.rowOpen q)).trans h.row
    copied := by
      unfold Part.atWatermark
      rw [show (b.chan c).rebuild = (a.chan c).rebuild from chan (·.rebuild)]
      exact h.copied }

/-- The open order offers the one request of the open partition. -/
theorem OpenSlot.openOrder {s : Part} {c u k : Nat} {q : QEnt} (h : OpenSlot s c u k q) :
    s.openOrder c u ((k + (s.pav (c / 8)).frame) % 8) q.write = [q] := by
  have part (o : Nat) : (s.chan c).partition u ((k + (s.pav (c / 8)).frame) % 8) q.write o = if o = ownOpen then [q] else [] := by
    unfold ChanState.partition
    rw [h.queue]
    by_cases ho : o = ownOpen
    · subst ho
      simp [h.sub, h.group, h.label, ChanState.isThrottled, h.throttled]
    · simp [h.label, Ne.symm ho, ho]
  obtain ⟨n, hn⟩ := Nat.exists_eq_succ_of_ne_zero h.size
  unfold Part.openOrder
  simp [part, hn, ownOpen, ownSystem, ownMigration, ownCodec]

/-- The slot serves the request whose bank is ready and which the guard does not hold. -/
theorem OpenSlot.slot_eq {s : Part} {c u k : Nat} {q : QEnt} (h : OpenSlot s c u k q) {busy guard : Nat} (hb : busy.testBit q.bank = false)
    (hg : guard.testBit q.bank = false) : s.slot c u k busy guard = s.serveEntry c q := by
  unfold Part.slot
  simp [h.refresh, h.rfm, h.owner, h.dir, h.openOrder, h.row, h.copied, hb, hg, ownOpen, ownScrub]

/-! ## The request that is served -/

/-- From `a` to `b` the stored bursts stay, and which rank serves each of them. -/
structure DramFrame (a b : Part) : Prop where
  od : ∀ e ∈ [Entry.dramDevice, .dramStack, .rankState], ∀ i, b.od e i = a.od e i
  rank : ∀ k, (b.chan k).rankMap = (a.chan k).rankMap ∧ (b.chan k).rebuild = (a.chan k).rebuild
  dram : ∀ p, (b.pav p).dram = (a.pav p).dram

namespace DramFrame

theorem refl (a : Part) : DramFrame a a := ⟨fun _ _ _ => rfl, fun _ => ⟨rfl, rfl⟩, fun _ => rfl⟩

theorem count (s : Part) (e : Entry) (i n : Nat) : DramFrame s (s.count e i n) := ⟨fun _ _ _ => rfl, fun _ => ⟨rfl, rfl⟩, fun _ => rfl⟩

theorem trans {a b c : Part} (h : DramFrame a b) (k : DramFrame b c) : DramFrame a c :=
  ⟨fun e he i => (k.od e he i).trans (h.od e he i), fun n => ⟨(k.rank n).1.trans (h.rank n).1, (k.rank n).2.trans (h.rank n).2⟩,
    fun p => (k.dram p).trans (h.dram p)⟩

theorem onChan (s : Part) (c : Nat) (f : ChanState → ChanState) (h : ∀ v, (f v).rankMap = v.rankMap ∧ (f v).rebuild = v.rebuild) :
    DramFrame s (s.onChan c f) :=
  ⟨fun _ _ _ => rfl, fun k => by
    rw [Part.onChan_chan]
    split
    · next e => rw [← e]; exact h _
    · exact ⟨rfl, rfl⟩, fun _ => rfl⟩

theorem onPav (s : Part) (p : Nat) (f : PavState → PavState) (h : ∀ v, (f v).dram = v.dram) : DramFrame s (s.onPav p f) :=
  ⟨fun _ _ _ => rfl, fun _ => ⟨rfl, rfl⟩, fun q => by
    rw [Part.onPav_pav]
    split
    · next e => rw [h, e]
    · rfl⟩

theorem scrub {a b : Part} (h : ScrubFrame a b) : DramFrame a b :=
  ⟨fun e he i => h.od_eq (by revert e; decide) i,
    fun k => ⟨congrArg (·.rankMap) (h.chan k), congrArg (·.rebuild) (h.chan k)⟩,
    fun p => congrArg (·.dram) (Part.pav_of_only h.only (by decide) p)⟩

variable {a b : Part}

theorem burstLost (h : DramFrame a b) (p x : Nat) : b.burstLost p x = a.burstLost p x := by
  unfold Part.burstLost Part.rankState Part.rankAt Part.rankOf Part.placeOf Part.geom
  simp only [h.od .dramDevice (by decide), h.od .dramStack (by decide), h.od .rankState (by decide), (h.rank _).1, (h.rank _).2]

theorem unstored (h : DramFrame a b) (p x : Nat) : b.unstored p x = a.unstored p x := by
  unfold Part.unstored
  rw [h.burstLost]

theorem getDram (h : DramFrame a b) (p x : Nat) : b.getDram p x = a.getDram p x := by
  unfold Part.getDram Part.dramAt
  rw [h.burstLost, h.dram]

end DramFrame

/-- A request has left its queue, its commands have gone out, and its burst is counted. -/
def Part.issued (s : Part) (c : Nat) (q : QEnt) : Part :=
  ((s.onChan c fun v => { v with queue := v.queue.erase q }).commandsOf c q).countBurst c q

theorem Part.serveEntry_open {q : QEnt} (h : q.label = ownOpen) (s : Part) (c : Nat) : s.serveEntry c q =
    if q.write then (s.issued c q).writeNow c q
    else (s.issued c q).onChan c fun v => { v with inflight := v.inflight ++ [{ q with value := (s.issued c q).getDram (c / 8) q.burst }] } := by
  have unclassed : decide (0 < q.label) = false := by rw [h]; rfl
  unfold Part.serveEntry
  simp only [unclassed, Bool.false_and, Bool.false_eq_true, if_false]
  rfl

/-- The command of a burst to an open row: what it leaves of the row, its rank awake, the command among the channel's last ones. -/
def ChanState.burstSent (q : QEnt) (v : ChanState) : ChanState :=
  { v with
    openRows := if q.hint then v.openRows.set 0 q.key (q.row + 1) else v.openRows.erase q.key
    powerDown := v.powerDown.filter (· != q.bank / 4) }.note (if q.write then .write q else .read q)

/-- A burst whose row is open goes out with one command. -/
theorem Part.commandsOf_open {s : Part} {c : Nat} {q : QEnt} (h : (s.chan c).rowOpen q = true) :
    s.commandsOf c q = s.onChan c (ChanState.burstSent q) := by
  unfold Part.commandsOf
  dsimp only
  rw [if_pos h]
  rfl

theorem Part.only_countBurst (s : Part) (c : Nat) (q : QEnt) : Part.only [.pavs, .delta] s (s.countBurst c q) :=
  Part.only_ite (Part.only_refl _ _)
    (Part.only_trans (Part.only_mono (s.only_count _ _ _) (by decide)) (Part.only_mono (Part.only_onPav _ _ _) (by decide)))

theorem DramFrame.countBurst (s : Part) (c : Nat) (q : QEnt) : DramFrame s (s.countBurst c q) := by
  unfold Part.countBurst
  split
  · exact .refl s
  · refine (DramFrame.count s _ _ _).trans (.onPav _ _ _ ?_)
    exact fun _ => rfl

/-- What issuing a request whose row is open leaves: DRAM and the reads in flight; its queue is without it. -/
theorem Part.issued_spec {s : Part} {c : Nat} {q : QEnt} (h : (s.chan c).rowOpen q = true) : DramFrame s (s.issued c q) ∧
    Part.only [.chans, .pavs, .delta] s (s.issued c q) ∧ ((s.issued c q).chan c).queue = (s.chan c).queue.erase q ∧
    ((s.issued c q).chan c).inflight = (s.chan c).inflight := by
  generalize ha : (s.onChan c fun v => { v with queue := v.queue.erase q }) = a
  have chan : a.chan c = { s.chan c with queue := (s.chan c).queue.erase q } := by rw [← ha, Part.onChan_chan_self]
  have only : Part.only [.chans] s a := by
    rw [← ha]
    exact s.only_onChan _ _
  have taken : DramFrame s a := by
    rw [← ha]
    refine .onChan _ _ _ ?_
    exact fun _ => ⟨rfl, rfl⟩
  have sent : DramFrame a (a.onChan c (ChanState.burstSent q)) := .onChan _ _ _ fun _ => ⟨rfl, rfl⟩
  have run : s.issued c q = (a.onChan c (ChanState.burstSent q)).countBurst c q := by
    rw [Part.issued, ha, Part.commandsOf_open (by rw [chan]; exact h)]
  rw [run, Part.chan_of_only (Part.only_countBurst _ _ _), Part.onChan_chan_self]
  refine ⟨(taken.trans sent).trans (.countBurst _ _ _), Part.only_trans (Part.only_trans (Part.only_mono only (by decide))
    (Part.only_mono (a.only_onChan _ _) (by decide))) (Part.only_mono (Part.only_countBurst _ _ _) (by decide)), ?_, ?_⟩
  · show (a.chan c).queue = _
    rw [chan]
  · show (a.chan c).inflight = _
    rw [chan]

/-- A write that no armed flip mask matches goes into DRAM as it is. -/
theorem Part.writeNow_plain {s : Part} {c : Nat} {q : QEnt} (hl : q.line = false) (hf : s.od .flipStatus c ≠ 1) :
    s.writeNow c q = (s.overtake c q.burst).putDram (c / 8) q.burst q.value q.inl := by
  have stored : s.stored c q = q.value := by
    unfold Part.stored
    rw [hl]
    rfl
  have flip : (s.overtake c q.burst).flipMatches c q = false := by
    have idle : ((s.overtake c q.burst).od .flipStatus c == 1) = false := beq_eq_false_iff_ne.mpr hf
    unfold Part.flipMatches
    rw [idle]
    rfl
  unfold Part.writeNow
  dsimp only
  rw [stored, if_neg (by rw [flip]; decide)]

theorem Part.only_putDram (s : Part) (p x v : Nat) (inl : Bool) : Part.only [.pavs] s (s.putDram p x v inl) :=
  Part.only_ite (Part.only_refl _ _) (s.only_onPav _ _)

/-- DRAM after the write of a burst: nothing is stored on a LOST rank. -/
theorem Part.putDram_dram (s : Part) (p x v : Nat) (inl : Bool) : ((s.putDram p x v inl).pav p).dram =
    if s.unstored p x then (s.pav p).dram else (s.pav p).dram.set zeroBurst x (v % 2 ^ 640) := by
  unfold Part.putDram
  split
  · rfl
  · rw [Part.onPav_pav_self]

/-- Overtaking a read of a burst marks what is in flight or has come for it, and changes nothing stored. -/
theorem DramFrame.overtake (s : Part) (c x : Nat) : DramFrame s (s.overtake c x) := by
  unfold Part.overtake
  refine (DramFrame.onChan s c _ ?_).trans (.onPav _ _ _ ?_)
  · exact fun _ => ⟨rfl, rfl⟩
  · exact fun _ => rfl

theorem Part.only_overtake (s : Part) (c x : Nat) : Part.only [.chans, .pavs] s (s.overtake c x) :=
  Part.only_trans (Part.only_mono (s.only_onChan _ _) (by decide)) (Part.only_mono (Part.only_onPav _ _ _) (by decide))

theorem Part.overtake_chan (s : Part) (c x : Nat) : (s.overtake c x).chan c =
    { s.chan c with inflight := (s.chan c).inflight.map fun r => if r.burst == x then { r with stale := true } else r } := by
  unfold Part.overtake
  dsimp only
  rw [Part.onPav_chan, Part.onChan_chan_self]

section
variable {s : Part} {c : Nat} {q : QEnt} (hl : q.label = ownOpen) (hr : (s.chan c).rowOpen q = true) (hq : (s.chan c).queue = [q])
include hl hr hq

/-- A read of the open partition is in flight with what DRAM holds. -/
theorem Part.serveEntry_read (hw : q.write = false) : ((s.serveEntry c q).chan c).queue = [] ∧
    ((s.serveEntry c q).chan c).inflight = (s.chan c).inflight ++ [{ q with value := s.getDram (c / 8) q.burst }] ∧
    ((s.serveEntry c q).pav (c / 8)).dram = (s.pav (c / 8)).dram ∧ Part.only [.chans, .pavs, .delta] s (s.serveEntry c q) := by
  obtain ⟨frame, only, queue, inflight⟩ := Part.issued_spec hr
  rw [Part.serveEntry_open hl, if_neg (by rw [hw]; decide), Part.onChan_chan_self, frame.getDram]
  refine ⟨by rw [queue, hq, List.erase_cons_head], by rw [inflight], frame.dram _,
    Part.only_trans only (Part.only_mono (Part.only_onChan _ _ _) (by decide))⟩

/-- A write of the open partition is in DRAM, and a read of its burst in flight is old. -/
theorem Part.serveEntry_write (hw : q.write = true) (hline : q.line = false) (hf : s.od .flipStatus c ≠ 1) :
    ((s.serveEntry c q).chan c).queue = [] ∧
    ((s.serveEntry c q).chan c).inflight = (s.chan c).inflight.map (fun r => if r.burst = q.burst then { r with stale := true } else r) ∧
    ((s.serveEntry c q).pav (c / 8)).dram = (if s.unstored (c / 8) q.burst then (s.pav (c / 8)).dram
      else (s.pav (c / 8)).dram.set zeroBurst q.burst (q.value % 2 ^ 640)) ∧ Part.only [.chans, .pavs, .delta] s (s.serveEntry c q) := by
  obtain ⟨frame, only, queue, inflight⟩ := Part.issued_spec hr
  have marked := frame.trans (.overtake _ c q.burst)
  have flip : (s.issued c q).od .flipStatus c ≠ 1 := by
    rw [(Part.keepsOd_of_only (l := []) only (by decide)).od_eq (by decide)]
    exact hf
  rw [Part.serveEntry_open hl, if_pos hw, Part.writeNow_plain hline flip, Part.putDram_dram, Part.chan_of_only (Part.only_putDram _ _ _ _ _),
    Part.overtake_chan, marked.unstored, marked.dram]
  refine ⟨queue.trans (by rw [hq, List.erase_cons_head]), ?_, rfl,
    Part.only_trans (Part.only_trans only (Part.only_mono (Part.only_overtake _ _ _) (by decide))) (Part.only_mono (Part.only_putDram _ _ _ _ _) (by decide))⟩
  rw [inflight]
  simp only [beq_iff_eq]

end

/-! ## The command -/

theorem exec_slotServe_off {s : State} {c : Chan} (h : s.part.od .channelState c ≠ 2) (u : Sub) (k : Fin 1024) (busy guard : BitVec 16) :
    exec (.slotServe c u k busy guard) s = .next s := by
  rw [exec_slotServe, execSlotServe, State.run_eq, if_pos (by simpa using h)]
  rfl

/-- What a slot does to a channel that holds its requests: its time passes, and a rank at its limit is refreshed (spec/06 R251, R235). -/
def Part.heldSlot (s : Part) (c u : Nat) : Part :=
  match s.refreshDue c u (postponeLimit * s.refreshUnit c) with
  | some r => s.refresh c u r
  | none => s

theorem Part.heldSlot_spec (s : Part) (c u : Nat) : Part.only [.chans] s (s.heldSlot c u) ∧
    ((s.heldSlot c u).chan c).queue = (s.chan c).queue ∧ ((s.heldSlot c u).chan c).inflight = (s.chan c).inflight ∧
    ((s.heldSlot c u).chan c).withheld = (s.chan c).withheld := by
  unfold Part.heldSlot
  split
  · unfold Part.refresh
    dsimp only
    rw [Part.onChan_chan_self]
    exact ⟨Part.only_onChan _ _ _, rfl, rfl, rfl⟩
  · exact ⟨Part.only_refl _ _, rfl, rfl, rfl⟩

theorem exec_slotServe_held {s : State} {c : Chan} (h2 : s.part.od .channelState c = 2) (h : (s.part.chan c).retrain ≠ []) (u : Sub)
    (k : Fin 1024) (busy guard : BitVec 16) :
    exec (.slotServe c u k busy guard) s = .next (s.withPart ((s.part.addDebt c u).heldSlot c u)) := by
  have held : (!((s.part.addDebt c u).chan c).retrain.isEmpty) = true := by
    rw [Part.addDebt, Part.onChan_chan_self]
    simpa using h
  rw [exec_slotServe, execSlotServe, State.run_eq, if_neg (by simp [h2])]
  dsimp only
  rw [if_pos held]
  rfl

/-- The slot on a channel in service: its time passes, the scrub pointers settle, and the slot rule decides. -/
theorem exec_slotServe_open {s : State} {c : Chan} {u : Sub} {k : Fin 1024} {busy guard : BitVec 16} {q : QEnt}
    (h2 : s.part.od .channelState c = 2) (hr : (s.part.chan c).retrain = []) (h : OpenSlot (s.part.addDebt c u) c u k q)
    (hb : busy.toNat.testBit q.bank = false) (hg : guard.toNat.testBit q.bank = false) :
    ∃ t, ScrubFrame (s.part.addDebt c u) t ∧ OpenSlot t c u k q ∧ exec (.slotServe c u k busy guard) s = .next (s.withPart (t.serveEntry c q)) := by
  generalize ha : s.part.addDebt c u = a at h
  have runs : (a.chan c).retrain = [] := by
    rw [← ha, Part.addDebt, Part.onChan_chan_self]
    exact hr
  have settled := ScrubFrame.scrubSettle a c u ((k + (a.pav (c / 8)).frame) % 8)
  have noneHeld := Part.withhold_none (h.of_scrub settled).throttled u
  have waited := settled.trans (.waitSlot (fun q hq => by
    rw [(h.of_scrub settled).queue, List.mem_singleton] at hq
    rw [hq, h.label]) u)
  refine ⟨_, waited, h.of_scrub waited, ?_⟩
  rw [← (h.of_scrub waited).slot_eq hb hg, exec_slotServe, execSlotServe, State.run_eq, if_neg (by simp [h2])]
  dsimp only
  rw [ha, if_neg (by simp [runs]), noneHeld]

/-! ## The obligation -/

/-- Settles O25: what comes before the request changes no queue and no burst, and the request is served by its direction. -/
theorem slotServesTheQueue : Obligations.SlotServesTheQueue := by
  intro s c u k busy guard q
  refine ⟨fun h => exec_slotServe_off h u k busy guard, fun h => ?_,
    fun h2 hr ht hrfm hd hm hline ho hdir hq hsub hgroup hlabel _ hb hg hrow hf hsize => ?_⟩
  · by_cases h2 : s.part.od .channelState c = 2
    · obtain ⟨only, queue, inflight, withheld⟩ := (s.part.addDebt c u).heldSlot_spec c u
      rw [Part.addDebt, Part.onChan_chan_self] at queue inflight withheld
      exact ⟨_, exec_slotServe_held h2 h u k busy guard, queue, inflight, withheld, Part.only_trans (s.part.only_onChan _ _) only⟩
    · exact ⟨s.part, exec_slotServe_off h2 u k busy guard, rfl, rfl, rfl, Part.only_refl _ _⟩
  · have debt : (s.part.addDebt c u).chan c = { s.part.chan c with debt := ((s.part.addDebt c u).chan c).debt } := by
      rw [Part.addDebt, Part.onChan_chan_self]
    have slot : OpenSlot (s.part.addDebt c u) c u k q := {
      refresh := hd, rfm := by rw [debt]; exact hrfm, throttled := by rw [debt]; exact ht, owner := ho, dir := hdir, size := hsize
      queue := by rw [debt]; exact hq, sub := hsub, group := hgroup, label := hlabel, row := by rw [debt]; exact hrow
      copied := by unfold Part.atWatermark; rw [debt]; exact hm }
    obtain ⟨t, scrub, slot, run⟩ := exec_slotServe_open h2 hr slot hb hg
    have passed : DramFrame s.part (s.part.addDebt c u) := by
      unfold Part.addDebt
      refine .onChan _ _ _ ?_
      exact fun _ => ⟨rfl, rfl⟩
    have frame : DramFrame s.part t := passed.trans (.scrub scrub)
    have kept : Part.only [.dict, .chans] s.part t := Part.only_trans (Part.only_mono (s.part.only_onChan _ _) (by decide)) scrub.only
    have inflight : (t.chan c).inflight = (s.part.chan c).inflight := by
      rw [show (t.chan c).inflight = _ from congrArg (·.inflight) (scrub.chan c)]
      exact congrArg (·.inflight) debt
    have flip : t.od .flipStatus c ≠ 1 := by
      rw [scrub.od_eq (by decide)]
      exact hf
    refine ⟨t.serveEntry c q, run, ?_⟩
    rw [← inflight, ← frame.dram, ← frame.unstored, ← frame.getDram]
    rcases Bool.eq_false_or_eq_true q.write with hw | hw
    · obtain ⟨queue, stale, dram, only⟩ := Part.serveEntry_write slot.label slot.row slot.queue hw hline flip
      exact ⟨queue, fun _ => ⟨stale, dram⟩, fun h => absurd (hw.symm.trans h) (by decide), (only .ports (by decide)).trans (kept .ports (by decide)),
        (only .links (by decide)).trans (kept .links (by decide))⟩
    · obtain ⟨queue, flight, dram, only⟩ := Part.serveEntry_read slot.label slot.row slot.queue hw
      exact ⟨queue, fun h => absurd (hw.symm.trans h) (by decide), fun _ => ⟨flight, dram⟩, (only .ports (by decide)).trans (kept .ports (by decide)),
        (only .links (by decide)).trans (kept .links (by decide))⟩

end Sys2Proof.Machine
end

section
/-!
O35: a vintage takes effect; the ends of frames, planning intervals and check windows (spec/02 R78, R80, spec/07 R280, R295, R297 to R301).
-/

namespace Sys2Proof.Machine

/-! ## A vintage in force in all its parts -/

/-- VINTAGE_NUMBER and VINTAGE_DIGEST name the vintage in force, and the shadow bank and the compiler are free. -/
def Part.vintageNamed (s : Part) : Part :=
  let t := ((s.setOd .vintageNumber 0 s.vint.inForce.number).setOd .vintageDigest 0 s.vint.inForce.digest).count .vintageCompiles 0
  { t with vint := { t.vint with shadow := none, running := none } }

theorem Part.vintageNamed_keeps (s : Part) : Part.keepsOd swapEntries s s.vintageNamed :=
  Part.keepsOd_trans (Part.keepsOd_setAny s _ _ (by decide)) (Part.keepsOd_setAny _ _ _ (by decide))

theorem Part.vintageNamed_od (s : Part) :
    s.vintageNamed.od0 .vintageNumber = s.vint.inForce.number % 2 ^ (8 * Entry.vintageNumber.info.bytes) ∧
    s.vintageNamed.od0 .vintageDigest = s.vint.inForce.digest % 2 ^ (8 * Entry.vintageDigest.info.bytes) := by
  refine ⟨?_, Part.od_setOd_self _ _ _ _⟩
  show ((s.setOd .vintageNumber 0 _).setOd .vintageDigest 0 _).od .vintageNumber 0 = _
  rw [Part.od_setOd_ne _ _ _ _ (by decide), Part.od_setOd_self]

/-- Who asked for the compile of one write is answered when its vintage is in force. -/
theorem Part.vintageInForce_writes {s : Part} {a : CompileAsk} (ha : s.vint.running = some a) (hg : a.goal = .writes) :
    s.vintageInForce = a.who.elim s.vintageNamed fun w => s.vintageNamed.answerTo w rOk [] := by
  unfold Part.vintageInForce
  simp only [ha, hg, reduceCtorEq, if_false, Part.count_vint, Part.setOd_vint]
  cases a.who <;> rfl

theorem Part.vintageInForce_spec {s : Part} {a : CompileAsk} (ha : s.vint.running = some a) (hg : a.goal = .writes) :
    s.vintageInForce.vint = { s.vint with shadow := none, running := none } ∧ Part.keepsOd swapEntries s s.vintageInForce := by
  rw [Part.vintageInForce_writes ha hg]
  cases a.who with
  | none => exact ⟨rfl, s.vintageNamed_keeps⟩
  | some w =>
    have told := s.vintageNamed.only_answerTo w rOk []
    exact ⟨told .vint (by decide), Part.keepsOd_trans s.vintageNamed_keeps (Part.keepsOd_of_only told (by decide))⟩

/-! ## VINTAGE_SWAP_TIME -/

/-- The settings of a vintage are in force, its regions have their homes, and its ingress table is in force. -/
def Part.vintagePlaced (s : Part) (v : Vintage) : Part :=
  (iter v.place (s.applySettings v.settings) fun t e =>
    t.rehome (e.1 / 65536) (e.1 % 65536) (s.vint.inForce.place.get 0 e.1) e.2).swapIngress v

/-- The vintages after a swap: the tables, rates and plans wait for frame boundaries (log entry 95). -/
def VintState.swapped (t : VintState) (was v : Vintage) (serving : List Nat) : VintState :=
  { t with
    inForce := { v with tables := was.tables, rates := was.rates, plans := was.plans }
    armed := false, bank := 1 - t.bank, swapping := serving }

/-- The part with its vintages in another state. -/
def Part.putVint (s : Part) (t : VintState) : Part := { s with vint := t }

/-- The bank of a vintage is in force, and so are its codebooks and its service. -/
def Part.bankSwapped (s : Part) (v : Vintage) : Part :=
  let t := s.vintagePlaced v
  (t.putVint (t.vint.swapped s.vint.inForce v t.serving)).bindBooks.setService v

/-- What is told after a swap: capacity notices and the alarms of plots and commons. -/
def Part.swapTold (s : Part) : Part :=
  let t := s.raisedNotices
  let t := iter t.serving t fun s p => iter s.allSlices s fun s sl => s.plotAlarm p sl
  iter t.serving t fun s p => s.commonsAlarm p

/-- With no pavilion left to swap the vintage is in force in all its parts. -/
def Part.swapChecked (s : Part) : Part := if s.vint.swapping.isEmpty then s.vintageInForce else s

/-- An entry that a vintage carries is none of those that a swap sets itself. -/
theorem not_mem_swapEntries {e : Entry} (h : e.info.vintage = true) : e ∉ swapEntries := by
  have none : ∀ e ∈ swapEntries, e.info.vintage = false := by decide
  exact fun he => by simp [none e he] at h

section
variable {s : Part} {v : Vintage} (hr : ∀ e ∈ v.reserved, e.1 < 65536) (hw : ∀ w ∈ v.settings, w.entry.info.vintage = true ∧ w.inst < 65536)
include hr hw

theorem Part.vintagePlaced_spec : (s.vintagePlaced v).vint = s.vint ∧
    (∀ w ∈ v.settings, (∀ u ∈ v.settings, u.entry = w.entry → u.inst = w.inst → u = w) →
      (s.vintagePlaced v).od w.entry w.inst = w.value % 2 ^ (8 * w.entry.info.bytes)) ∧
    ∀ p, (s.vintagePlaced v).pstate p = s.pstate p := by
  obtain ⟨vint, set, rest⟩ := Part.applySettings_spec v.settings s (fun w h => (hw w h).2) fun w h => not_mem_swapEntries (hw w h).1
  have frame : SwapFrame (s.applySettings v.settings) (s.vintagePlaced v) :=
    .trans (.iter _ _ fun t e _ => .rehome _ _ _ _ _) (.swapIngress _ _ hr)
  refine ⟨frame.1.trans vint, fun w h unique => ?_, fun p => ?_⟩
  · rw [frame.2.od_eq (not_mem_swapEntries (hw w h).1)]
    exact set w h unique
  · unfold Part.pstate
    rw [frame.2.od_eq (by decide), ← Part.od_mod, ← s.od_mod]
    exact rest _ _ (by decide) (Nat.mod_lt _ (by decide)) fun w h e => by
      have := (hw w h).1
      rw [e.1] at this
      exact absurd this (by decide)

theorem Part.bankSwapped_spec : (s.bankSwapped v).vint = s.vint.swapped s.vint.inForce v s.serving ∧
    (∀ w ∈ v.settings, (∀ u ∈ v.settings, u.entry = w.entry → u.inst = w.inst → u = w) →
      (s.bankSwapped v).od w.entry w.inst = w.value % 2 ^ (8 * w.entry.info.bytes)) ∧
    ∀ p, (s.bankSwapped v).pstate p = s.pstate p := by
  obtain ⟨vint, set, pstate⟩ := Part.vintagePlaced_spec (s := s) hr hw
  unfold Part.bankSwapped
  generalize s.vintagePlaced v = t at vint set pstate
  have frame : SwapFrame (t.putVint (t.vint.swapped s.vint.inForce v t.serving))
      ((t.putVint (t.vint.swapped s.vint.inForce v t.serving)).bindBooks.setService v) := .trans (.bindBooks _) (.setService _ v)
  refine ⟨?_, fun w h unique => ?_, fun p => ?_⟩
  · rw [frame.1, vint, Part.serving_congr pstate]
    rfl
  · rw [frame.2.od_eq (not_mem_swapEntries (hw w h).1)]
    exact set w h unique
  · rw [Part.pstate, frame.2.od_eq (by decide)]
    exact pstate p

end

theorem Part.swapTold_spec (s : Part) : Part.keepsOd swapEntries s s.swapTold ∧
    ∃ c h, s.swapTold.vint = { s.vint with commons := c, shares := h } := by
  obtain ⟨od, c, h, vint⟩ := s.raisedNotices_spec
  have frame : SwapFrame s.raisedNotices s.swapTold :=
    .trans (.iter _ _ fun t p _ => .iter _ _ fun _ _ _ => .plotAlarm _ _ _) (.iter _ _ fun _ _ _ => .commonsAlarm _ _)
  exact ⟨Part.keepsOd_trans od frame.2, c, h, frame.1.trans vint⟩

/-- The swap of an armed vintage that carries one write: its compile is for the vintage alone. -/
theorem exec_vintageSwapTime_writes {s : State} {v : Vintage} {a : CompileAsk} (hs : s.part.vint.shadow = some v)
    (h : s.part.vint.armed = true) (ha : (s.part.bankSwapped v).vint.running = some a) (hg : a.goal = .writes) :
    exec .vintageSwapTime s = .next (s.withPart (s.part.bankSwapped v).swapTold.retireEmpty.swapChecked) := by
  rw [exec_vintageSwapTime, execVintageSwapTime, State.run_eq, hs]
  show Host.Outcome.next (s.withPart (if !s.part.vint.armed then s.part else _)) = _
  rw [if_neg (by simp [h])]
  extract_lets _ _ _ _ _ _ swapped reached _ _ _ ended
  have ready : swapped = s.part.bankSwapped v := rfl
  have alone : reached = s.part.bankSwapped v := by
    simp only [reached, ready, ha]
    unfold Part.goalReached
    rw [hg]
  have told : ended = reached.swapTold.retireEmpty := rfl
  rw [told, alone]
  rfl

/-! ## Frames -/

/-- A frame of a pavilion has ended: its meters are refilled and the next of 8 frames begins (spec/07 R280). -/
def Part.frameEnded (s : Part) (p : Nat) : Part := (s.refillTokens p).onPav p fun v => { v with frame := (v.frame + 1) % 8 }

theorem Part.only_refillTokens (s : Part) (p : Nat) : Part.only [.pavs] s (s.refillTokens p) :=
  Part.only_iter (fun _ _ => Part.only_onPav _ _ _) _ _

theorem Part.only_frameEnded (s : Part) (p : Nat) : Part.only [.pavs] s (s.frameEnded p) :=
  Part.only_trans (s.only_refillTokens p) (Part.only_onPav _ _ _)

/-- Refilling the meters leaves what does not depend on tokens and what is owed. -/
theorem Part.refillTokens_keeps {α : Type} (g : PavState → α) (h : ∀ v t o, g { v with tokens := t, owed := o } = g v) (s : Part) (p q : Nat) :
    g ((s.refillTokens p).pav q) = g (s.pav q) := by
  unfold Part.refillTokens
  generalize s.ratesAt p = l
  induction l generalizing s with
  | nil => rfl
  | cons e l ih =>
    refine (ih _).trans ?_
    rw [Part.onPav_pav]
    split
    · next e => rw [h, e]
    · rfl

theorem Part.frameEnded_pav (s : Part) (p : Nat) : ((s.frameEnded p).pav p).plan = (s.pav p).plan ∧
    ((s.frameEnded p).pav p).frame = ((s.pav p).frame + 1) % 8 := by
  rw [Part.frameEnded, Part.onPav_pav_self]
  exact ⟨s.refillTokens_keeps (·.plan) (fun _ _ _ => rfl) p p,
    congrArg (fun n => (n + 1) % 8) (s.refillTokens_keeps (·.frame) (fun _ _ _ => rfl) p p)⟩

/-- The end of a frame of a pavilion in service: the swap of its part of a vintage comes after the refill. -/
theorem exec_frameEnd_serving {s : State} {p : Pav} (hi : s.part.inService p = true) (hr : s.part.rest.inRest = false) :
    exec (.frameEnd p) s = .next (s.withPart
      (if s.part.vint.swapping.contains p.val then (s.part.frameEnded p).swapFrame p else s.part.frameEnded p)) := by
  have vint : (s.part.frameEnded p).vint = s.part.vint := s.part.only_frameEnded p .vint (by decide)
  rw [exec_frameEnd, execFrameEnd, State.run_eq, if_neg (by simp [hi, hr]), ← vint]
  rfl

/-- The plan of a pavilion after a swap: the vintage's, without the carried entries that have begun meanwhile. -/
theorem Part.swapPlan_spec (s : Part) (p : Nat) (v : Vintage) : Part.only [.pavs, .delta] s (s.swapPlan p v) ∧
    (s.swapPlan p v).pav p = { s.pav p with
      plan := (v.plans.get [] p).filter fun e => !(v.carried.get [] p).contains e || (s.pav p).plan.contains e } := by
  unfold Part.swapPlan
  extract_lets old carried plan undone t
  have only : Part.only [.pavs, .delta] s t := Part.only_mono (s.only_onPav _ _) (by decide)
  have pav : t.pav p = { s.pav p with plan := plan } := s.onPav_pav_self _ _
  split
  · exact ⟨only, pav⟩
  · exact ⟨Part.only_trans only (Part.only_mono (t.only_count _ _ _) (by decide)), pav⟩

/-- A pavilion has the tables, meters, plan and classes of a vintage. -/
def Part.frameLoaded (s : Part) (p : Nat) (v : Vintage) : Part :=
  let t := s.swapTables p v
  let t := t.onPav p fun w => { w with tokens := swapTokens (s.ratesAt p) (t.pav p).tokens (v.rates.range (p * 8192) (p * 8192 + 8192)) }
  (t.swapPlan p v).setOd .classesActive p (v.tables.get PavTables.zero p).classes

/-- The bursts whose classes own no slot in the new tables are counted (spec/07 R297). -/
def Part.carryCounted (s : Part) (p : Nat) : Part := if s.carryover p = 0 then s else s.count .swapCarryover 0 (s.carryover p)

/-- A pavilion no longer waits for its swap. -/
def VintState.leave (t : VintState) (p : Nat) : VintState := { t with swapping := t.swapping.filter (· != p) }

/-- A pavilion has swapped. -/
def Part.swapDone (s : Part) (p : Nat) : Part := s.putVint (s.vint.leave p)

/-- A pavilion takes its own part of a vintage. -/
def Part.frameSwapped (s : Part) (p : Nat) (v : Vintage) : Part := ((s.frameLoaded p v).carryCounted p).swapDone p

theorem Part.swapFrame_eq {s : Part} {v : Vintage} (h : s.vint.shadow = some v) (p : Nat) :
    s.swapFrame p = (s.frameSwapped p v).swapChecked := by
  unfold Part.swapFrame Part.swapChecked Part.frameSwapped Part.swapDone Part.carryCounted Part.frameLoaded Part.putVint VintState.leave
  simp only [h]

/-- The tables in force after a pavilion's swap are the vintage's there; the vintage's number, the shadow bank and the compiler stay. -/
theorem Part.swapTables_spec (s : Part) (p : Nat) (v : Vintage) :
    (s.swapTables p v).vint.inForce.tables.get PavTables.zero p = v.tables.get PavTables.zero p ∧
    (∃ r t, (s.swapTables p v).vint = { s.vint with inForce := { s.vint.inForce with rates := r, tables := t } }) ∧
    Part.only [.vint] s (s.swapTables p v) :=
  ⟨(Sparse.get_set _ _ _ _ _).trans (if_pos rfl), ⟨_, _, rfl⟩, fun f hf => by cases f <;> first | rfl | simp at hf⟩

theorem Part.frameLoaded_spec (s : Part) (p : Nat) (v : Vintage) : (s.frameLoaded p v).vint = (s.swapTables p v).vint ∧
    (s.frameLoaded p v).od .classesActive p = (v.tables.get PavTables.zero p).classes % 2 ^ (8 * Entry.classesActive.info.bytes) ∧
    ((s.frameLoaded p v).pav p).frame = (s.pav p).frame ∧
    ((s.frameLoaded p v).pav p).plan =
      (v.plans.get [] p).filter fun e => !(v.carried.get [] p).contains e || (s.pav p).plan.contains e := by
  obtain ⟨-, -, tables⟩ := s.swapTables_spec p v
  have same : (s.swapTables p v).pav p = s.pav p := Part.pav_of_only tables (by decide) p
  unfold Part.frameLoaded
  dsimp only
  generalize s.swapTables p v = t at same ⊢
  generalize hu : (t.onPav p fun w => { w with
    tokens := swapTokens (s.ratesAt p) (t.pav p).tokens (v.rates.range (p * 8192) (p * 8192 + 8192)) }) = u
  have pavU : (u.pav p).frame = (s.pav p).frame ∧ (u.pav p).plan = (s.pav p).plan := by
    rw [← hu, Part.onPav_pav_self, ← same]
    exact ⟨rfl, rfl⟩
  have vintU : u.vint = t.vint := by rw [← hu, Part.onPav_vint]
  obtain ⟨only, pav⟩ := u.swapPlan_spec p v
  refine ⟨(only .vint (by decide)).trans vintU, Part.od_setOd_self _ _ _ _, ?_, ?_⟩
  · rw [Part.setOd_pav, pav]
    exact pavU.1
  · rw [Part.setOd_pav, pav, pavU.2]

/-- What a pavilion's swap changes in its own part of the vintage. -/
theorem Part.frameSwapped_spec (s : Part) (p : Nat) (v : Vintage) : (s.frameSwapped p v).vint = (s.swapTables p v).vint.leave p ∧
    (s.frameSwapped p v).od .classesActive p = (v.tables.get PavTables.zero p).classes % 2 ^ (8 * Entry.classesActive.info.bytes) ∧
    ((s.frameSwapped p v).pav p).frame = (s.pav p).frame ∧
    ((s.frameSwapped p v).pav p).plan =
      (v.plans.get [] p).filter fun e => !(v.carried.get [] p).contains e || (s.pav p).plan.contains e := by
  obtain ⟨vint, classes, frame, plan⟩ := s.frameLoaded_spec p v
  unfold Part.frameSwapped
  generalize s.frameLoaded p v = t at vint classes frame plan
  have counted : Part.only [.delta] t (t.carryCounted p) := Part.only_ite (Part.only_refl _ _) (t.only_count _ _ _)
  generalize t.carryCounted p = u at counted
  have pav : u.pav p = t.pav p := Part.pav_of_only counted (by decide) p
  have od : u.od .classesActive p = t.od .classesActive p := (Part.keepsOd_of_only (l := []) counted (by decide)).od_eq (by decide) p
  refine ⟨congrArg (·.leave p) ((counted .vint (by decide)).trans vint), od.trans classes, ?_, ?_⟩
  · show (u.pav p).frame = _
    rw [pav, frame]
  · show (u.pav p).plan = _
    rw [pav, plan]

/-- From `s` to `u` a pavilion ends a frame and swaps its part of a vintage. -/
structure BoundarySwap (p : Nat) (v : Vintage) (s u : Part) : Prop where
  table : u.vint.inForce.tables.get PavTables.zero p = v.tables.get PavTables.zero p
  plan : (u.pav p).plan = (v.plans.get [] p).filter fun e => !(v.carried.get [] p).contains e || (s.pav p).plan.contains e
  frame : (u.pav p).frame = ((s.pav p).frame + 1) % 8
  classes : u.od .classesActive p = (v.tables.get PavTables.zero p).classes % 2 ^ (8 * Entry.classesActive.info.bytes)
  waiting : u.vint.swapping = s.vint.swapping.filter (· != p)
  shadow : u.vint.shadow = s.vint.shadow
  running : u.vint.running = s.vint.running
  number : u.vint.inForce.number = s.vint.inForce.number
  digest : u.vint.inForce.digest = s.vint.inForce.digest

theorem Part.boundarySwap (s : Part) (p : Nat) (v : Vintage) : BoundarySwap p v s ((s.frameEnded p).frameSwapped p v) := by
  obtain ⟨plan0, frame0⟩ := s.frameEnded_pav p
  have vint0 : (s.frameEnded p).vint = s.vint := s.only_frameEnded p .vint (by decide)
  obtain ⟨table, ⟨r, t, tables⟩, -⟩ := (s.frameEnded p).swapTables_spec p v
  obtain ⟨vint, classes, frame, plan⟩ := (s.frameEnded p).frameSwapped_spec p v
  have left : ((s.frameEnded p).frameSwapped p v).vint = VintState.leave { s.vint with inForce := { s.vint.inForce with rates := r, tables := t } } p := by
    rw [vint, tables, vint0]
  exact {
    table := by rw [vint]; exact table
    plan := by rw [plan, plan0]
    frame := by rw [frame, frame0]
    classes := classes
    waiting := by rw [left]; rfl
    shadow := by rw [left]; rfl
    running := by rw [left]; rfl
    number := by rw [left]; rfl
    digest := by rw [left]; rfl }

/-- The end of a frame of a pavilion that waits for its swap. -/
theorem exec_frameEnd_swaps {s : State} {p : Pav} {v : Vintage} (hi : s.part.inService p = true) (hr : s.part.rest.inRest = false)
    (hsw : s.part.vint.swapping.contains p.val = true) (hs : s.part.vint.shadow = some v) :
    exec (.frameEnd p) s = .next (s.withPart ((s.part.frameEnded p).frameSwapped p v).swapChecked) := by
  have shadow : (s.part.frameEnded p).vint.shadow = some v := by
    rw [show (s.part.frameEnded p).vint = s.part.vint from s.part.only_frameEnded p .vint (by decide)]
    exact hs
  rw [exec_frameEnd_serving hi hr, if_pos hsw, Part.swapFrame_eq shadow]

/-! ## Check windows -/

/-- A slice's check window on a pavilion starts anew. -/
def Part.windowAnew (sl : Nat) (s : Part) (p : Nat) : Part := s.onPav p fun v => { v with
  owed := (v.owed.erase (sl * 2)).erase (sl * 2 + 1)
  delivered := (v.delivered.erase (sl * 2)).erase (sl * 2 + 1)
  latency := v.latency.erase sl }

/-- A direction without a guarantee has no shortfall. -/
theorem Part.checkWindow_none {s : Part} {sl dir : Nat} (h : s.guarantee sl dir = 0) (p : Nat) : s.checkWindow sl p dir = s := by
  unfold Part.checkWindow
  simp [h]

/-- Check windows of a slice without guarantees start anew and nothing else. -/
theorem Part.windowsAnew_free {sl : Nat} (l : List Nat) {s : Part} (h0 : s.guarantee sl 0 = 0) (h1 : s.guarantee sl 1 = 0) :
    (iter l s fun s p => Part.windowAnew sl ((s.checkWindow sl p 0).checkWindow sl p 1) p) = iter l s (Part.windowAnew sl) := by
  induction l generalizing s with
  | nil => rfl
  | cons p l ih =>
    show iter l (Part.windowAnew sl ((s.checkWindow sl p 0).checkWindow sl p 1) p) _ = iter l (Part.windowAnew sl s p) _
    rw [Part.checkWindow_none h0, Part.checkWindow_none h1]
    exact ih h0 h1

theorem Part.guarantee_logEv (s : Part) (c a b : Nat) (o : Option Nat) (pav sl dir : Nat) :
    (s.logEv c a b o pav).guarantee sl dir = s.guarantee sl dir := by
  have od (e : Entry) (he : e ≠ .ringState) := (s.keepsOd_logEv c a b o pav).od_eq (e := e) (by simpa using he)
  unfold Part.guarantee
  rw [od _ (by decide), od _ (by decide)]

theorem Part.boundPort_logEv (s : Part) (c a b : Nat) (o : Option Nat) (pav sl : Nat) : (s.logEv c a b o pav).boundPort sl = s.boundPort sl := by
  have od (e : Entry) (he : e ≠ .ringState) := (s.keepsOd_logEv c a b o pav).od_eq (e := e) (by simpa using he)
  unfold Part.boundPort
  rw [od _ (by decide), od _ (by decide)]

/-- A shortfall of a slice that is bound to no port is counted and logged. -/
theorem Part.checkWindow_short {s : Part} {sl p dir : Nat} (hg : s.guarantee sl dir ≠ 0) (hb : s.boundPort sl = none)
    (h : (s.pav p).delivered.get 0 (sl * 2 + dir) * 1000 < (s.pav p).owed.get 0 (sl * 2 + dir) * (1000 - s.od .sliceShortfallTolerance sl)) :
    s.checkWindow sl p dir = (s.count .sliceShortfalls sl).logEv 0x1004 ((s.pav p).owed.get 0 (sl * 2 + dir))
      ((s.pav p).delivered.get 0 (sl * 2 + dir)) (some sl) p := by
  unfold Part.checkWindow
  simp only [hg, h, decide_false, decide_true, Bool.not_true, Bool.or_self, Bool.false_eq_true, if_false, Part.boundPort_logEv]
  rw [show (s.count .sliceShortfalls sl).boundPort sl = none from hb]

theorem exec_sliceCheckWindowEnd_awake {s : State} (h : s.part.rest.inRest = false) (sl : Slice) :
    exec (.sliceCheckWindowEnd sl) s = .next (s.withPart
      (iter s.part.serving s.part fun s p => Part.windowAnew sl ((s.checkWindow sl p 0).checkWindow sl p 1) p)) := by
  rw [exec_sliceCheckWindowEnd, execSliceCheckWindowEnd, State.run_eq, if_neg (by simp [h])]
  rfl

/-! ## The obligation -/

/-- Settles O35: what comes after the bank's change keeps the settings and the vintage; a pavilion's swap changes its own part. That the settings
and the placement are in force at VINTAGE_SWAP_TIME is log entry 95. -/
theorem vintageTakesEffect : Obligations.VintageTakesEffect := by
  intro s
  refine ⟨fun v a hs harm ha hg hres hset hp => ?_, fun p hi hr hno => ?_, fun p v hi hr hsw hs => ⟨fun x hx hne => ?_, fun a hsw1 ha hg hwho => ?_⟩,
    fun hg => ?_, fun sl hr => ⟨fun h0 h1 => ?_, fun p owed got hserv hg0 hg1 hb howed hgot hshort => ?_⟩⟩
  case refine_1 =>
    obtain ⟨vint, settings, pstate⟩ := Part.bankSwapped_spec (s := s.part) hres hset
    obtain ⟨od, c, h, told⟩ := (s.part.bankSwapped v).swapTold_spec
    have run := exec_vintageSwapTime_writes hs harm (by rw [vint]; exact ha) hg
    generalize (s.part.bankSwapped v).swapTold = q at od told run
    rw [vint] at told
    have stays : q.retireEmpty = q := q.retireEmpty_none fun p hp8 => by
      rw [show q.pstate p = s.part.pstate p from (od.od_eq (by decide) p).trans (pstate p)]
      exact hp p hp8
    rw [stays] at run
    have set : ∀ w ∈ v.settings, (∀ u ∈ v.settings, u.entry = w.entry → u.inst = w.inst → u = w) →
        q.od w.entry w.inst = w.value % 2 ^ (8 * w.entry.info.bytes) := fun w hw unique => by
      rw [od.od_eq (not_mem_swapEntries (hset w hw).1)]
      exact settings w hw unique
    refine ⟨q.swapChecked, run, ?_⟩
    unfold Part.swapChecked
    split
    · obtain ⟨vintF, odF⟩ := Part.vintageInForce_spec (s := q) (by rw [told]; exact ha) hg
      rw [vintF, told]
      exact ⟨rfl, rfl, rfl, fun w hw unique => (odF.od_eq (not_mem_swapEntries (hset w hw).1) _).trans (set w hw unique)⟩
    · rw [told]
      exact ⟨rfl, rfl, rfl, set⟩
  case refine_2 =>
    rw [exec_frameEnd_serving hi hr, if_neg (by rw [hno]; decide)]
    rfl
  case refine_3 =>
    have run := exec_frameEnd_swaps hi hr hsw hs
    have swap := s.part.boundarySwap p v
    generalize (s.part.frameEnded p).frameSwapped p v = q at run swap
    have others : q.vint.swapping.isEmpty = false := by
      rw [swap.waiting, List.isEmpty_eq_false_iff]
      exact List.ne_nil_of_mem (List.mem_filter.mpr ⟨hx, by simpa using hne⟩)
    rw [Part.swapChecked, if_neg (by rw [others]; decide)] at run
    exact ⟨q, run, swap.table, swap.shadow.trans hs, swap.waiting, swap.plan, swap.frame, swap.classes⟩
  case refine_4 =>
    have run := exec_frameEnd_swaps hi hr hsw hs
    have swap := s.part.boundarySwap p v
    generalize (s.part.frameEnded p).frameSwapped p v = q at run swap
    have last : q.vint.swapping.isEmpty = true := by
      rw [swap.waiting, hsw1]
      simp
    obtain ⟨number, digest⟩ := q.vintageNamed_od
    rw [Part.swapChecked, if_pos last, Part.vintageInForce_writes (swap.running.trans ha) hg, hwho] at run
    refine ⟨q.vintageNamed, run, swap.table, swap.plan, rfl, rfl, ?_, ?_⟩
    · rw [number, swap.number]
    · rw [digest, swap.digest]
  case refine_5 =>
    rw [exec_planningIntervalEnd, execPlanningIntervalEnd, State.run_eq, if_neg (by rw [hg]; decide)]
  case refine_6 =>
    rw [exec_sliceCheckWindowEnd_awake hr, Part.windowsAnew_free _ h0 h1]
    rfl
  case refine_7 =>
    subst howed hgot
    have short := Part.checkWindow_short (p := p) hg0 hb hshort
    rw [exec_sliceCheckWindowEnd_awake hr, hserv]
    show Host.Outcome.next (s.withPart (Part.windowAnew sl ((s.part.checkWindow sl p 0).checkWindow sl p 1) p)) = _
    rw [short, Part.checkWindow_none (by rw [Part.guarantee_logEv]; exact hg1)]
    rfl

end Sys2Proof.Machine
end

section
/-!
O20: management messages over the promenade (spec/08 R310, log entry 208).
-/

namespace Sys2Proof.Machine

set_option Elab.async false

/-- Settles O20: a request goes back as a response with source and destination exchanged, a response is taken and nothing else. -/
theorem managementMessages : Obligations.ManagementMessages := by
  intro s q m t
  refine ⟨fun htake => ?_, fun htake => ?_⟩
  · rw [exec_promMgmtRequest, execPromMgmtRequest, State.run_eq, htake]
  · rw [exec_promMgmtResponse, execPromMgmtResponse, State.run_eq, htake]

end Sys2Proof.Machine
end

section
/-!
O18: responses that reach the ingress pavilion (spec/08 R310, R311, spec/09 R351, R383).
-/

namespace Sys2Proof.Machine

set_option Elab.async false

/-! ## The entry that a response answers -/

/-- Parked requests return to the queues; what a partition has forwarded and what it holds stay. -/
theorem Part.unpark_part (s : Part) (i sl j k : Nat) : ∃ l, (s.unpark i sl).part j k = { s.part j k with queue := l } := by
  unfold Part.unpark
  extract_lets t q mine n others a b
  have unparked : a.part j k = s.part j k := by
    show Sparse.get _ ((s.onPort i _).port j).parts k = _
    rw [Part.onPort_port]
    split
    · next e => subst e; rfl
    · rfl
  have returned : ((b.setOd .ingressParkedNow i others.length).returnCredits i).part j k = b.part j k :=
    Part.part_of_keepsParts (Part.keepsParts_ite (Part.keepsParts_refl _) (Part.keepsParts_onPort _ _ _ ⟨rfl, rfl⟩)) j k
  split
  · exact ⟨_, rfl⟩
  · rw [returned, Part.part_onPart]
    split
    · next e =>
      obtain ⟨rfl, rfl⟩ := e
      exact ⟨_, by rw [unparked]⟩
    · exact ⟨_, unparked⟩

/-- An entry has left what its partition forwarded; what a partition holds and what the others forwarded stay. -/
theorem Part.dropFwd_part (s : Part) (i sl tag j k : Nat) : ((s.dropFwd i sl tag).part j k).hold = (s.part j k).hold ∧
    ((s.dropFwd i sl tag).part j k).forwarded =
      if i = j ∧ sl = k then (s.part j k).forwarded.filter (·.tag != tag) else (s.part j k).forwarded := by
  unfold Part.dropFwd
  obtain ⟨l, h⟩ := (s.onPart i sl fun q => { q with forwarded := q.forwarded.filter (·.tag != tag) }).unpark_part i sl j k
  rw [h, Part.part_onPart]
  split
  · next e =>
    obtain ⟨rfl, rfl⟩ := e
    exact ⟨rfl, rfl⟩
  · exact ⟨rfl, rfl⟩

/-- The request that was answered has no entry. -/
theorem Part.dropFwd_gone (s : Part) (i sl tag : Nat) : ∀ g ∈ ((s.dropFwd i sl tag).part i sl).forwarded, g.tag ≠ tag := by
  rw [(s.dropFwd_part i sl tag i sl).2, if_pos ⟨rfl, rfl⟩]
  intro g hg
  simpa using (List.mem_filter.mp hg).2

/-- A response is of a request of one of its pavilion's two ports. -/
theorem Part.findFwd_port {s : Part} {q : Pav} {m : Msg} {i : Nat} {f : Fwd} (h : s.findFwd q m = some (i, f)) : i < 16 := by
  obtain ⟨k, hk, e⟩ := List.exists_of_findSome?_eq_some h
  obtain ⟨g, -, e⟩ := Option.map_eq_some_iff.mp e
  obtain rfl : k = i := congrArg Prod.fst e
  simp only [List.mem_cons, List.not_mem_nil, or_false] at hk
  omega

/-! ## What the host is sent -/

theorem Part.answerHost_read {s : Part} {r : Req} (ha : r.answer = true) (hk : r.kind = .read) (d : Nat) (x : Bool) :
    s.answerHost r d x = s.emit (.memData r.port r.hostTag d x) := by
  unfold Part.answerHost
  simp [ha, hk]

theorem Part.answerHost_write {s : Part} {r : Req} (ha : r.answer = true) (hk : r.kind = .write) (d : Nat) (x : Bool) :
    s.answerHost r d x = s.emit (.cmp r.port r.hostTag) := by
  unfold Part.answerHost
  simp [ha, hk]

/-! ## Held writes -/

/-- A slice has no held write where none of its partitions has one. -/
theorem Part.heldWrites_eq_zero (s : Part) (sl : Nat) : s.heldWrites sl = 0 ↔ ∀ i < 16, (s.part i sl).heldWrites = 0 := by
  unfold Part.heldWrites
  simp [List.sum_eq_zero_iff]

/-- An entry that leaves takes no held write in. -/
theorem Part.dropFwd_noneHeld {s : Part} {sl : Nat} (h : s.heldWrites sl = 0) (i k tag : Nat) : (s.dropFwd i k tag).heldWrites sl = 0 := by
  rw [Part.heldWrites_eq_zero] at h ⊢
  intro j hj
  obtain ⟨hold, forwarded⟩ := s.dropFwd_part i k tag j sl
  have fewer : ((s.dropFwd i k tag).part j sl).forwarded.Sublist (s.part j sl).forwarded := by
    rw [forwarded]
    split
    · exact List.filter_sublist
    · exact List.Sublist.refl _
  have none := h j hj
  have le := (fewer.filter (·.held)).length_le
  unfold Partition.heldWrites at none ⊢
  rw [hold]
  omega

/-- With nothing held a page is released from no hold list. -/
theorem Part.releaseHold_none {s : Part} {i sl : Nat} (h : (s.part i sl).heldWrites = 0) (lp : Nat) : s.releaseHold i sl lp = s := by
  have hold : (s.part i sl).hold = [] := List.eq_nil_of_length_eq_zero (by unfold Partition.heldWrites at h; omega)
  unfold Part.releaseHold
  rw [hold]
  rfl

/-- With nothing held the alarm is cleared (spec/02 R91), and nothing is logged. -/
theorem Part.only_heldAlarm_none {s : Part} {sl : Nat} (h : s.heldWrites sl = 0) (pav : Nat) : Part.only [.pavs] s (s.heldAlarm sl pav) := by
  unfold Part.heldAlarm
  dsimp only
  rw [if_pos h]
  exact s.only_onPav _ _

/-! ## The commands -/

section
variable {s : State} {q : Pav} {m : Msg} {t : Part} {i : Nat} {f : Fwd}

/-- A response of the right epoch is not stale: taking it changed no stored value. -/
theorem Part.stale_taken {op : Nat} (htake : s.part.takeMsg q op = some (m, t)) (i : Nat) (f : Fwd) :
    t.stale i f = (f.req.epoch != s.part.od .portEpoch i) := by
  obtain ⟨l, rfl⟩ := Part.takeMsg_inbox htake
  rfl

/-- What is left of the part after a message was taken and something sent to the host. -/
theorem Part.sent_of_only {a p : Part} {op : Nat} {o : Output} (htake : a.takeMsg q op = some (m, t))
    (h : Part.only [.pavs, .ports, .dict] (t.emit o) p) : p.out = a.out ++ [o] ∧ p.chans = a.chans ∧ p.links = a.links := by
  obtain ⟨l, rfl⟩ := Part.takeMsg_inbox htake
  exact ⟨h .out (by decide), h .chans (by decide), h .links (by decide)⟩

theorem exec_promReadData_answers (htake : s.part.takeMsg q 5 = some (m, t)) (hf : t.findFwd q m = some (i, f))
    (he : f.req.epoch = s.part.od .portEpoch i) (h0 : m.status = 0) :
    exec (.promReadData q) s = .next (s.withPart ((t.answerHost f.req m.data false).dropFwd i m.slice m.tag)) := by
  rw [exec_promReadData, execPromReadData, State.run_eq]
  simp [htake, hf, Part.stale_taken htake, he, h0]

theorem exec_promCompletion_completes (htake : s.part.takeMsg q 6 = some (m, t)) (hf : t.findFwd q m = some (i, f))
    (he : f.req.epoch = s.part.od .portEpoch i) (h0 : m.status = 0) :
    exec (.promCompletion q) s = .next (s.withPart
      ((((t.answerHost f.req 0 false).releaseHold i m.slice f.req.lpage).dropFwd i m.slice m.tag).heldAlarm m.slice f.home)) := by
  rw [exec_promCompletion, execPromCompletion, State.run_eq]
  simp [htake, hf, Part.stale_taken htake, he, h0]

theorem Part.only_staleBack (s : Part) (p : Nat) (m : Msg) (f : Fwd) : Part.only [.pavs] s (s.staleBack p m f) :=
  Part.only_ite (s.only_onPav _ _) (Part.only_refl _ _)

/-- A response of another epoch sends nothing and touches no channel and no link. -/
theorem exec_response_stale {op : Nat} {c : Instr} (hc : op = 5 ∧ c = .promReadData q ∨ op = 6 ∧ c = .promCompletion q)
    (htake : s.part.takeMsg q op = some (m, t)) (hf : t.findFwd q m = some (i, f)) (he : f.req.epoch ≠ s.part.od .portEpoch i) :
    ∃ p, exec c s = .next (s.withPart p) ∧ Part.only [.pavs, .ports, .dict, .delta] s.part p := by
  have stale : t.stale i f = true := by rw [Part.stale_taken htake]; simpa using he
  have taken : Part.only [.pavs, .ports, .dict, .delta] s.part t := by
    obtain ⟨l, rfl⟩ := Part.takeMsg_inbox htake
    exact Part.only_mono (Part.only_onPav _ _ _) (by decide)
  have dropped : Part.only [.pavs, .ports, .dict, .delta] s.part ((t.staleBack q m f).dropFwd i m.slice m.tag) :=
    Part.only_trans taken (Part.only_trans (Part.only_mono (t.only_staleBack _ _ _) (by decide))
      (Part.only_mono (Part.only_dropFwd _ _ _ _) (by decide)))
  rcases hc with ⟨rfl, rfl⟩ | ⟨rfl, rfl⟩
  · refine ⟨((t.staleBack q m f).dropFwd i m.slice m.tag).count .portStaleResponses i, ?_,
      Part.only_trans dropped (Part.only_mono (Part.only_count _ _ _ _) (by decide))⟩
    rw [exec_promReadData, execPromReadData, State.run_eq]
    simp only [htake, hf, stale, if_true]
  · refine ⟨(((t.staleBack q m f).dropFwd i m.slice m.tag).releaseHold i m.slice f.req.lpage).count .portStaleResponses i, ?_,
      Part.only_trans dropped (Part.only_trans (Part.only_mono (Part.only_releaseHold _ _ _ _) (by decide))
        (Part.only_mono (Part.only_count _ _ _ _) (by decide)))⟩
    rw [exec_promCompletion, execPromCompletion, State.run_eq]
    simp only [htake, hf, stale, if_true]

end

/-! ## The obligation -/

/-- Settles O18: the answer goes out before the request's entry leaves; a write that completes where none is held raises no alarm. -/
theorem responsesAnswerTheHost : Obligations.ResponsesAnswerTheHost := by
  intro s q m t i f
  refine ⟨fun htake hf he h0 _ hk ha => ?_, fun htake hf he h0 _ hk ha hheld => ?_, fun op c hc htake hf he => ?_⟩
  · have run := exec_promReadData_answers htake hf he h0
    rw [Part.answerHost_read ha hk] at run
    obtain ⟨out, chans, links⟩ := Part.sent_of_only htake (Part.only_mono (Part.only_dropFwd _ i m.slice m.tag) (by decide))
    exact ⟨_, run, out, Part.dropFwd_gone _ _ _ _, chans, links⟩
  · have run := exec_promCompletion_completes htake hf he h0
    have none : (t.emit (.cmp f.req.port f.req.hostTag)).heldWrites m.slice = 0 := by
      obtain ⟨l, rfl⟩ := Part.takeMsg_inbox htake
      exact hheld
    rw [Part.answerHost_write ha hk, Part.releaseHold_none ((Part.heldWrites_eq_zero _ _).mp none i (Part.findFwd_port hf))] at run
    have quiet := Part.only_heldAlarm_none (Part.dropFwd_noneHeld none i m.slice m.tag) f.home
    obtain ⟨out, chans, links⟩ := Part.sent_of_only htake
      (Part.only_trans (Part.only_mono (Part.only_dropFwd _ i m.slice m.tag) (by decide)) (Part.only_mono quiet (by decide)))
    refine ⟨_, run, out, ?_, chans, links⟩
    rw [Part.part_of_keepsParts (Part.keepsParts_of_only quiet (by decide))]
    exact Part.dropFwd_gone _ _ _ _
  · obtain ⟨p, run, keeps⟩ := exec_response_stale hc htake hf he
    exact ⟨p, run, keeps .out (by decide), keeps .chans (by decide), keeps .links (by decide)⟩

end Sys2Proof.Machine
end

section
/-!
SUPPORT. What losing a link leaves of the tallies: the records and the requests that are lost with it count in tallies of their own (spec/08 R324,
R328 to R330, spec/11 R459 to R461, spec/12 R465).
-/

namespace Sys2Proof.Machine

set_option Elab.async false

/-- The tallies that traffic lost with a link, and what is logged of it, may raise. -/
def lossTallies : List Entry := [.linkBadMessages, .slicePoisonReads, .linkSyntheticCompletions, .sessionNotifyLost, .portBmBlocked, .dumpLost,
  .noticeLost]

/-- No tally counts but those. -/
def Part.keepsTallies (a b : Part) : Prop := ∀ e i, e ∉ lossTallies → b.delta.get 0 (e.key i) = a.delta.get 0 (e.key i)

namespace Part.keepsTallies

theorem refl (a : Part) : a.keepsTallies a := fun _ _ _ => rfl

theorem trans {a b c : Part} (h : a.keepsTallies b) (k : b.keepsTallies c) : a.keepsTallies c := fun e i he => (k e i he).trans (h e i he)

theorem ite {c : Prop} [Decidable c] {s a b : Part} (h : s.keepsTallies a) (k : s.keepsTallies b) : s.keepsTallies (if c then a else b) := by
  split <;> assumption

theorem iter {α : Type} {f : Part → α → Part} (xs : List α) (s : Part) (h : ∀ (s : Part) a, s.keepsTallies (f s a)) :
    s.keepsTallies (Machine.iter xs s f) := by
  induction xs generalizing s with
  | nil => exact .refl s
  | cons x xs ih => exact (h s x).trans (ih (f s x))

theorem of_only {l : List PartField} {a b : Part} (h : Part.only l a b) (hd : PartField.delta ∉ l := by decide) : a.keepsTallies b :=
  fun e i _ => by rw [show b.delta = a.delta from h .delta hd]

theorem count (s : Part) {e : Entry} (i n : Nat) (he : e ∈ lossTallies := by decide) : s.keepsTallies (s.count e i n) := fun f j hf => by
  rw [Part.count_delta_get, if_neg (Entry.key_ne (fun h : e = f => hf (h ▸ he)) i j)]

/-! ## Records -/

theorem onRing (s : Part) (i r : Nat) (f : Ring → Ring) : s.keepsTallies (s.onRing i r f) := of_only (s.only_onPort _ _)

theorem pushLog (s : Part) (c a b : Nat) (sl : Option Nat) (pav : Nat) : s.keepsTallies (s.pushLog c a b sl pav) := by
  unfold Part.pushLog
  extract_lets r n t
  exact trans (b := t) (fun _ _ _ => rfl) (.iter _ _ fun s i => .ite (.of_only (s.only_onPort _ _)) (.refl _))

theorem pushNotice (s : Part) (k : Nat) (n : Notify) : s.keepsTallies (s.pushNotice k n) :=
  .ite (.of_only (s.only_emit _)) (.refl _)

theorem notifyAll (s : Part) (n : Nat) : s.keepsTallies (s.notifyAll n) := by
  unfold Part.notifyAll
  refine .iter _ _ fun s k => .ite (.refl _) ?_
  extract_lets q a b r m c
  have ha : s.keepsTallies a := .count _ _ _
  have hb : a.keepsTallies b := .ite (.refl _) (.pushLog _ _ _ _ _ _)
  have hc : s.keepsTallies c := .of_only (s.only_onSess _ _)
  exact .ite ((ha.trans hb).trans (.of_only (Part.only_onSess _ _ _))) (hc.trans (.pushNotice _ _ _))

theorem logQuiet (s : Part) (c a b : Nat) (sl : Option Nat) (pav : Nat) : s.keepsTallies (s.logQuiet c a b sl pav) :=
  (pushLog s c a b sl pav).trans (.notifyAll _ _)

theorem ringFault (s : Part) (i r : Nat) : s.keepsTallies (s.ringFault i r) := by
  unfold Part.ringFault
  extract_lets a b
  have ha : s.keepsTallies a := .onRing _ _ _ _
  have hb : a.keepsTallies b := .of_only (a.only_setOd _ _ _)
  exact (ha.trans hb).trans ((of_only (b.only_msix _ _)).trans (.logQuiet _ _ _ _ _ _))

theorem bmBlocked (s : Part) (i addr : Nat) : s.keepsTallies (s.bmBlocked i addr) := by
  unfold Part.bmBlocked
  exact (count s _ _).trans (.logQuiet _ _ _ _ _ _)

theorem hostWrite (s : Part) (i addr len data : Nat) : s.keepsTallies (s.hostWrite i addr len data).1 := by
  unfold Part.hostWrite
  split
  · exact .refl s
  · split
    · dsimp only
      exact .bmBlocked s i addr
    · exact .of_only (s.only_emit _)

theorem ringDrop (s : Part) (i r : Nat) : s.keepsTallies (s.ringDrop i r) := by
  unfold Part.ringDrop
  split
  · exact (count s _ _).trans (.onRing _ _ _ _)
  · exact .refl s
  · exact (count s _ _).trans (.onRing _ _ _ _)

theorem readConsumer (s : Part) (i r : Nat) (h : Option (Option Nat)) : s.keepsTallies (s.readConsumer i r h).1 := by
  cases h <;> exact fun _ _ _ => rfl

theorem ringWrite (s : Part) (i r kind units body : Nat) (h : Option (Option Nat)) :
    s.keepsTallies (s.ringWrite i r kind units body h).1 := by
  unfold Part.ringWrite
  extract_lets g size at_ pad q pos
  have hq : s.keepsTallies q.1 := by
    dsimp only [q]
    split
    · exact .refl s
    · exact .readConsumer s i r h
  split
  · exact .ringDrop s i r
  · split
    · exact (hq.trans (.ringFault _ i r)).trans (.ringDrop _ i r)
    · next c _ =>
      extract_lets s1 g1 base w0 w1 s2 g2 head
      have h1 : s.keepsTallies s1 := hq.trans (.onRing _ i r _)
      have h2 : s1.keepsTallies w0.1 := by
        dsimp only [w0]
        split
        · exact .refl _
        · exact .hostWrite _ _ _ _ _
      have h3 : w0.1.keepsTallies w1.1 := by
        dsimp only [w1]
        split
        · exact .hostWrite _ _ _ _ _
        · exact .refl _
      have written := (h1.trans h2).trans h3
      split
      · exact h1.trans (.ringDrop _ i r)
      · split
        · exact written.trans ((ringFault _ i r).trans (.ringDrop _ i r))
        · exact written.trans ((onRing _ i r _).trans (.hostWrite _ _ _ _ _))

theorem flushNotices (s : Part) : s.keepsTallies s.flushNotices := by
  unfold Part.flushNotices
  refine .ite (.refl _) (.iter _ _ fun s i => ?_)
  extract_lets g t
  have ht : s.keepsTallies t := .ite (.refl _) (.onRing _ _ _ _)
  refine ht.trans (.iter _ _ fun s n => ?_)
  extract_lets r w
  have hw : s.keepsTallies w.1 := .ringWrite s i 2 5 1 _ none
  exact .ite (hw.trans (.of_only (Part.only_msix _ _ _))) hw

/-- A record counts only what could not take it. -/
theorem logEv (s : Part) (c a b : Nat) (sl : Option Nat) (pav : Nat) : s.keepsTallies (s.logEv c a b sl pav) :=
  (logQuiet s c a b sl pav).trans (.flushNotices _)

/-! ## Lost requests -/

theorem alarm (s : Part) (a : Alarm) (sl pav va vb : Nat) : s.keepsTallies (s.alarm a sl pav va vb) := by
  unfold Part.alarm
  extract_lets b
  refine trans (b := b) ?_ (.logEv _ _ _ _ _ _)
  dsimp only [b]
  split
  · exact .of_only (Part.only_vendorEvent _ _ _ _ _ _ _ _ _ _ _)
  · exact .refl _

theorem heldAlarm (s : Part) (sl pav : Nat) : s.keepsTallies (s.heldAlarm sl pav) := by
  unfold Part.heldAlarm
  extract_lets key on n
  exact .ite (.of_only (s.only_onPav _ _)) (.ite (.trans (.of_only (s.only_onPav _ _)) (.alarm _ _ _ _ _ _)) (.refl _))

theorem synthetic (s : Part) (r : Req) : s.keepsTallies (s.synthetic r) := by
  unfold Part.synthetic
  extract_lets a
  have ha : s.keepsTallies a := .ite (.count _ _ _) (.refl _)
  exact ha.trans (.of_only (Part.only_answerHost _ _ _ _))

theorem forward (s : Part) (r : Req) (st : Nat) (mark : Fwd → Fwd) : s.keepsTallies (s.forward r st mark) := by
  unfold Part.forward
  dsimp only
  split
  · exact .synthetic s r
  · refine .ite (.synthetic s r) (trans ?_ (.of_only (Part.only_sendVia _ _ _ _ _)))
    exact ((of_only (s.only_newTag _)).trans (.of_only (Part.only_onPart _ _ _ _))).trans (.of_only (Part.only_wakePav _ _))

theorem synthetic50 (s : Part) (i : Nat) (f : Fwd) : s.keepsTallies (s.synthetic50 i f) := by
  unfold Part.synthetic50
  extract_lets sl st a r b c
  split
  · exact ((count s _ _).trans (.of_only (Part.only_answerHost _ _ _ _))).trans (.of_only (Part.only_unpark _ _ _))
  · exact .forward _ _ _ _
  · have ha : s.keepsTallies a := .of_only (s.only_answerHost _ _ _)
    have hb : a.keepsTallies b := .forward _ _ _ _
    have hc : b.keepsTallies c := (logEv b _ _ _ _ _).trans (.of_only (Part.only_releaseHold _ _ _ _))
    clear_value a b c
    exact ((ha.trans hb).trans hc).trans ((of_only (c.only_unpark _ _)).trans (.heldAlarm _ _ _))

theorem loseRequests (s : Part) (p n : Nat) : s.keepsTallies (s.loseRequests p n) := by
  unfold Part.loseRequests
  refine .iter _ _ fun s i => .iter _ _ fun s e => ?_
  exact (of_only (s.only_onPart i e.1 _)).trans (.iter _ _ fun s f => (synthetic50 s _ _).trans (.count _ _ _))

/-! ## Lost messages -/

theorem deliver (s : Part) (n d a : Nat) (m : Msg) : s.keepsTallies (s.deliver n d a m) := by
  unfold Part.deliver
  extract_lets t
  have ht : s.keepsTallies t := .of_only (s.only_onLink _ _)
  clear_value t
  refine ht.trans (.ite ((count t _ _).trans (.logEv _ _ _ _ _ _)) (.ite ?_ (.ite ?_ ?_)))
  · exact (of_only (t.only_onPav _ _)).trans (.of_only (Part.only_wakePav _ _))
  · exact .of_only (t.only_transmit _ _ _ _)
  · exact .of_only (t.only_loseMsg _ _)

theorem releasePaths (s : Part) (p : Nat) : s.keepsTallies (s.releasePaths p) := by
  unfold Part.releasePaths
  extract_lets l free t
  exact .ite (.refl _) (trans (b := t) (.of_only (s.only_onPav _ _)) (.iter _ _ fun s h => .deliver _ _ _ _ _))

theorem dropTraffic (s : Part) (n : Nat) : s.keepsTallies (s.dropTraffic n) := by
  unfold Part.dropTraffic
  extract_lets lost a b c
  have ha : s.keepsTallies a := .of_only (s.only_onLink _ _)
  have hb : a.keepsTallies b := .iter _ _ fun s p => .ite (.refl _) (.of_only (s.only_onPav _ _))
  have hc : b.keepsTallies c := .iter _ _ fun s m => .of_only (s.only_loseMsg _ _)
  clear_value a b c
  exact ((ha.trans hb).trans hc).trans (.iter _ _ fun s p => .releasePaths _ _)

theorem chooseDetours (s : Part) : s.keepsTallies s.chooseDetours := by
  unfold Part.chooseDetours
  dsimp only
  refine trans (.iter _ _ fun s n => .ite (.refl _) ?_) (.iter _ _ fun s n => .of_only (s.only_flushWaiting n))
  exact .ite (.of_only (s.only_setOd _ _ _)) ((of_only (s.only_setOd _ _ _)).trans (.logEv _ _ _ _ _ _))

end Part.keepsTallies

/-! ## A link breaks -/

/-- A part in which a link that was UP has broken. -/
structure LinkBroken (n : Link) (cause : Nat) (a b : Part) : Prop where
  state : b.od .linkState n = 3
  why : b.od .linkCause n = cause
  others : ∀ k : Link, k ≠ n → b.od .linkState k = a.od .linkState k
  breaks : b.tallyNow .linkBreaks n = a.tallyNow .linkBreaks n + 1

/-- A link that breaks raises its own count of breaks, whatever is lost with it. -/
theorem Part.breakLink_delta {s : Part} {n : Link} (h : s.od .linkState n = 2) (hr : s.rest.inRest = false) (cause e : Nat) :
    (s.breakLink n cause e).delta.get 0 (Entry.linkBreaks.key n) = s.delta.get 0 (Entry.linkBreaks.key n) + 1 := by
  unfold Part.breakLink
  rw [if_neg (by simp [h, hr])]
  extract_lets ends a b c d f
  have counted : a.delta.get 0 (Entry.linkBreaks.key n) = s.delta.get 0 (Entry.linkBreaks.key n) + 1 := by
    rw [Part.count_delta_get, if_pos rfl]
    rfl
  have logged : a.keepsTallies b := .logEv _ _ _ _ _ _
  have lost : b.keepsTallies c := by
    refine .trans (.trans (b := b.extendDrains n) ?_ (.dropTraffic _ _)) (.chooseDetours _)
    exact .of_only (Part.only_iter (l := [.slices]) (fun s e => s.only_onSlice _ _) _ _)
  have rest : c.keepsTallies (f.linkNotices n) :=
    ((Part.keepsTallies.loseRequests c _ _).trans (.loseRequests _ _ _)).trans (.of_only (Part.only_linkNotices _ _))
  rw [(logged.trans (lost.trans rest)) .linkBreaks n (by decide), counted]

theorem Part.breakLink_broken {s : Part} {n : Link} (h : s.od .linkState n = 2) (hr : s.rest.inRest = false) {cause : Nat}
    (hc : cause < 256) (e : Nat) : LinkBroken n cause s (s.breakLink n cause e) := by
  obtain ⟨state, why, keep⟩ := s.breakLink_spec n cause e h hr hc
  refine ⟨state, why, fun k hk => ?_, ?_⟩
  · exact keep _ _ (by decide) (by omega) (fun q => hk (Fin.ext q.2)) (fun q => by cases q.1)
  · unfold Part.tallyNow
    rw [Part.breakLink_delta h hr, keep .linkBreaks n (by decide) (by omega) (fun q => by cases q.1) (fun q => by cases q.1), Nat.add_assoc]

end Sys2Proof.Machine
end

section
/-!
O39, O40: the events of a link (spec/08 R314, R324 to R327, R330, R337).
-/

namespace Sys2Proof.Machine

set_option Elab.async false

/-! ## One direction of a link -/

/-- A direction after a change of it. -/
theorem LinkState.dir_onDir (l : LinkState) (d : Nat) (f : LinkDir → LinkDir) : (l.onDir d f).dir d = f (l.dir d) := by
  unfold LinkState.onDir LinkState.dir
  split <;> rfl

/-- A NAK is taken and counted: every kept flit goes again, oldest first. -/
def Part.nakTaken (s : Part) (n d : Nat) : Part :=
  (s.onLink n fun l => l.onDir d fun q => { q with nakWire := false, resend := q.replay, naks := q.naks + 1 }).count .linkReplays n

/-- The direction after a NAK. -/
theorem Part.nakTaken_dir (s : Part) (n d : Nat) : ((s.nakTaken n d).link n).dir d =
    { (s.link n).dir d with nakWire := false, resend := ((s.link n).dir d).replay, naks := ((s.link n).dir d).naks + 1 } := by
  rw [Part.nakTaken, Part.count_link, Part.onLink_link_self, LinkState.dir_onDir]

theorem Part.only_nakTaken (s : Part) (n d : Nat) : Part.only [.links, .delta] s (s.nakTaken n d) :=
  Part.only_trans (Part.only_mono (s.only_onLink _ _) (by decide)) (Part.only_mono (Part.only_count _ _ _ _) (by decide))

/-- A NAK counts in LINK_REPLAYS and in no other tally. -/
theorem Part.nakTaken_tally (s : Part) (n d : Nat) : (s.nakTaken n d).tallyNow .linkReplays n = s.tallyNow .linkReplays n + 1 ∧
    (s.nakTaken n d).tallyNow .linkBreaks n = s.tallyNow .linkBreaks n := by
  refine ⟨Part.count_tallyNow _ _ _ _, ?_⟩
  unfold Part.tallyNow Part.nakTaken
  rw [Part.count_delta_get, if_neg (Entry.key_ne (by decide) _ _)]
  rfl

/-! ## Events that break a link -/

section
variable {s : State} {n : Link}

/-- The NAKs before the sixteenth break nothing (spec/08 R314). -/
theorem exec_nakReceive_resends {d : Dir} (h2 : s.part.od .linkState n = 2) (hw : ((s.part.link n).dir d).nakWire = true)
    (hn : ((s.part.link n).dir d).naks < 15) : exec (.nakReceive n d) s = .next (s.withPart (s.part.nakTaken n d)) := by
  have few : ¬ 16 ≤ (((s.part.nakTaken n d).link n).dir d).naks := by
    rw [Part.nakTaken_dir]
    show ¬ 16 ≤ _ + 1
    omega
  rw [exec_nakReceive, execNakReceive, State.run_eq, if_neg (by simp [h2, hw])]
  exact congrArg (fun p => Host.Outcome.next (s.withPart p)) (if_neg few)

section
variable (h2 : s.part.od .linkState n = 2) (hr : s.part.rest.inRest = false)
include h2 hr

theorem exec_linkPhyLost_breaks (d : Dir) (peer : Bool) :
    ∃ q, exec (.linkPhyLost n d peer) s = .next (s.withPart q) ∧ LinkBroken n (if peer then 7 else 4) s.part q :=
  ⟨_, rfl, Part.breakLink_broken h2 hr (by cases peer <;> decide) _⟩

theorem exec_linkCreditTimeout_breaks {d : Dir} (hs : ((s.part.link n).dir d).starved s.part.now = true)
    (hh : ((s.part.link n).dir (otherDir d)).heardAt ≠ s.part.now + 1) :
    ∃ q, exec (.linkCreditTimeout n d) s = .next (s.withPart q) ∧ LinkBroken n 1 s.part q := by
  refine ⟨s.part.breakLink n 1 (dirEnds n d).1, ?_, Part.breakLink_broken h2 hr (by decide) _⟩
  rw [exec_linkCreditTimeout, execLinkCreditTimeout, State.run_eq]
  simp [hs, hh]

theorem exec_linkAckTimeout_breaks {d : Dir} (hp : ((s.part.link n).dir d).replay ≠ [])
    (ha : ((s.part.link n).dir d).ackAt ≠ s.part.now + 1) :
    ∃ q, exec (.linkAckTimeout n d) s = .next (s.withPart q) ∧ LinkBroken n 2 s.part q := by
  refine ⟨s.part.breakLink n 2 (dirEnds n d).1, ?_, Part.breakLink_broken h2 hr (by decide) _⟩
  rw [exec_linkAckTimeout, execLinkAckTimeout, State.run_eq]
  simp [hp, ha]

/-- The sixteenth NAK without progress breaks the link (spec/08 R324). -/
theorem exec_nakReceive_breaks {d : Dir} (hw : ((s.part.link n).dir d).nakWire = true) (hn : 15 ≤ ((s.part.link n).dir d).naks) :
    ∃ q, exec (.nakReceive n d) s = .next (s.withPart q) ∧ LinkBroken n 3 s.part q := by
  have many : 16 ≤ (((s.part.nakTaken n d).link n).dir d).naks := by
    rw [Part.nakTaken_dir]
    exact Nat.succ_le_succ hn
  obtain ⟨state, why, others, breaks⟩ := Part.breakLink_broken (s := s.part.nakTaken n d) h2 hr (show 3 < 256 by decide) (dirEnds n d).1
  refine ⟨(s.part.nakTaken n d).breakLink n 3 (dirEnds n d).1, ?_, state, why, others, ?_⟩
  · rw [exec_nakReceive, execNakReceive, State.run_eq, if_neg (by simp [h2, hw])]
    exact congrArg (fun p => Host.Outcome.next (s.withPart p)) (if_pos many)
  · rw [breaks, (s.part.nakTaken_tally n d).2]

/-- RETRAIN of an UP link breaks it and answers (spec/08 R337). -/
theorem exec_linkRetrain_breaks {w : Who} (hw : s.part.mayWrite w .linkCommand) :
    ∃ q, exec (.linkRetrain w n) s = .next (s.withPart q) ∧ LinkBroken n 6 s.part q := by
  obtain ⟨state, why, others, breaks⟩ := Part.breakLink_broken h2 hr (show 6 < 256 by decide) (linkEnds n).1
  refine ⟨(s.part.breakLink n 6 (linkEnds n).1).emit (.answer w rOk []), ?_, state, why, others, breaks⟩
  rw [exec_linkRetrain, execLinkRetrain, State.run_eq, Part.linkCommand, Part.command_eq 1 _ _ hw (by decide) (by simp)]
  dsimp only
  rw [if_pos h2, Reply.answer_ok]

end

/-! ## Events off service -/

/-- RETRAIN of a FAILED link starts one attempt and answers (spec/08 R337). -/
theorem exec_linkRetrain_failed {w : Who} (h4 : s.part.od .linkState n = 4) (hw : s.part.mayWrite w .linkCommand) :
    exec (.linkRetrain w n) s = .next (s.withPart
      ((s.part.onLink n fun l => { l with trainings := (l.trainings + 1) % 65536, attempts := 255 }).emit (.answer w rOk []))) := by
  rw [exec_linkRetrain, execLinkRetrain, State.run_eq, Part.linkCommand, Part.command_eq 1 _ _ hw (by decide) (by simp)]
  dsimp only
  rw [if_neg (by rw [h4]; decide), if_pos h4, Reply.answer_ok]

theorem exec_linkIdleEnd_trains (h3 : s.part.od .linkState n = 3) : exec (.linkIdleEnd n) s = .next (s.withPart
    (s.part.onLink n fun l => { l with trainings := (l.trainings + 1) % 65536 })) := by
  rw [exec_linkIdleEnd, execLinkIdleEnd, State.run_eq, if_pos h3]

/-- A link off service may train. -/
theorem off_service {st : Nat} (h : st ∈ [0, 1, 3, 4]) : ¬ (st != 0 && st != 1 && st != 3 && st != 4) = true := by
  simp only [List.mem_cons, List.not_mem_nil, or_false] at h
  rcases h with rfl | rfl | rfl | rfl <;> decide

theorem exec_linkTrainingDone_initError (hs : s.part.od .linkState n ∈ [0, 1, 3, 4]) (eye : BitVec 32) :
    exec (.linkTrainingDone n eye false) s = .next (s.withPart (s.part.setOd .linkCause n 5)) := by
  rw [exec_linkTrainingDone, execLinkTrainingDone, State.run_eq]
  dsimp only
  rw [if_neg (off_service hs), if_pos (by decide)]

/-- A link that has trained: every counter of its directions anew, the link UP with its eye margin (spec/08 R326). -/
def Part.linkTrained (s : Part) (n eye : Nat) : Part :=
  ((s.onLink n fun l => { l with up := { LinkDir.zero with tx := l.up.tx }, down := { LinkDir.zero with tx := l.down.tx }, attempts := 0 }).setOd
    .linkState n 2).setOd .linkEyeMargin n eye

theorem Part.linkTrained_od (s : Part) (n : Link) (eye : BitVec 32) : (s.linkTrained n eye.toNat).od .linkState n = 2 ∧
    (s.linkTrained n eye.toNat).od .linkEyeMargin n = eye.toNat ∧
    ∀ k : Link, k ≠ n → (s.linkTrained n eye.toNat).od .linkState k = s.od .linkState k := by
  unfold Part.linkTrained
  refine ⟨?_, Part.od_setOd_val _ _ _ _ eye.isLt, fun k hk => ?_⟩
  · rw [Part.od_setOd_ne _ _ _ _ (by decide)]
    exact Part.od_setOd_val _ _ _ _ (by decide)
  · rw [Part.od_setOd_ne _ _ _ _ (by decide), Part.od_setOd_other _ _ (by omega) (by omega) (fun e => hk (Fin.ext e.2.symm)), Part.onLink_od]

/-- What follows a training leaves the states of the links and their eye margins (spec/08 R326, R328, R331, R334). -/
theorem exec_linkTrainingDone_up (hs : s.part.od .linkState n ∈ [0, 1, 3, 4]) (eye : BitVec 32) :
    ∃ q : Part, exec (.linkTrainingDone n eye true) s = .next (s.withPart q) ∧ q.od .linkState n = 2 ∧ q.od .linkEyeMargin n = eye.toNat ∧
      ∀ k : Link, k ≠ n → q.od .linkState k = s.part.od .linkState k := by
  have run : exec (.linkTrainingDone n eye true) s = .next (s.withPart
      (((if s.part.od .linkState n = 3 || s.part.od .linkState n = 4 then (s.part.linkTrained n eye.toNat).logEv 0x1102 n 0
        else s.part.linkTrained n eye.toNat).chooseDetours.linkNotices n).flushWaiting n)) := by
    rw [exec_linkTrainingDone, execLinkTrainingDone, State.run_eq]
    dsimp only
    rw [if_neg (off_service hs), if_neg (by decide)]
    rfl
  obtain ⟨state, margin, others⟩ := s.part.linkTrained_od n eye
  generalize s.part.linkTrained n eye.toNat = a at run state margin others
  generalize hb : (if s.part.od .linkState n = 3 || s.part.od .linkState n = 4 then a.logEv 0x1102 n 0 else a) = b at run
  have later : FailFrame a ((b.chooseDetours.linkNotices n).flushWaiting n) := by
    have logged : FailFrame a b := hb ▸ .ite (.log _ _ _ _ _ _) (.refl _)
    exact logged.trans ((FailFrame.chooseDetours b).trans
      ((FailFrame.of_only (Part.only_linkNotices _ _) (by decide)).trans (.of_only (Part.only_flushWaiting _ _) (by decide))))
  refine ⟨_, run, ?_, ?_, fun k hk => ?_⟩
  all_goals rw [later.od.od_eq (by decide)]
  · exact state
  · exact margin
  · exact others k hk

/-- A notice that a link is UP is taken and chooses the detours again (spec/08 R330). -/
theorem exec_promLinkNotice_taken {p : Pav} {m : Msg} {t : Part} (h : s.part.takeMsg p 13 = some (m, t)) :
    exec (.promLinkNotice p) s = .next (s.withPart
      (if m.addr / 32 = 2 then t.chooseDetours else (t.loseRequests p (m.addr % 32)).chooseDetours)) := by
  rw [exec_promLinkNotice, execPromLinkNotice, State.run_eq, h]

end

/-! ## The obligations -/

/-- Settles O39: each event that breaks a link by its own premise, each other event by the one change it makes. -/
theorem linksBreakAndTrain : Obligations.LinksBreakAndTrain := by
  intro s n d
  refine ⟨fun h2 hr => ⟨fun c cause hc => ?_, fun hw hn => exec_nakReceive_resends h2 hw hn⟩, exec_linkIdleEnd_trains,
    fun eye hs => ⟨exec_linkTrainingDone_up hs eye, exec_linkTrainingDone_initError hs eye⟩, fun w hw h4 => exec_linkRetrain_failed h4 hw,
    fun p m t => exec_promLinkNotice_taken⟩
  have broken : ∃ q, exec c s = .next (s.withPart q) ∧ LinkBroken n cause s.part q := by
    rcases hc with ⟨rfl, rfl, hs, hh⟩ | ⟨rfl, rfl, hp, ha⟩ | ⟨rfl, rfl, hw, hn⟩ | ⟨rfl, rfl⟩ | ⟨rfl, rfl⟩ | ⟨w, rfl, rfl, hw⟩
    · exact exec_linkCreditTimeout_breaks h2 hr hs hh
    · exact exec_linkAckTimeout_breaks h2 hr hp ha
    · exact exec_nakReceive_breaks h2 hr hw hn
    · exact exec_linkPhyLost_breaks h2 hr d false
    · exact exec_linkPhyLost_breaks h2 hr d true
    · exact exec_linkRetrain_breaks h2 hr hw
  obtain ⟨q, run, b⟩ := broken
  exact ⟨q, run, b.state, b.why, b.others⟩

/-- What O40 says of a link that has broken. -/
theorem LinkBroken.completed {s : State} {n : Link} {c : Instr} {cause : Nat}
    (h : ∃ q, exec c s = .next (s.withPart q) ∧ LinkBroken n cause s.part q) : ∃ q : Part, exec c s = .next (s.withPart q) ∧
      q.od .linkState n = 3 ∧ q.od .linkCause n = cause ∧ q.tallyNow .linkBreaks n = s.part.tallyNow .linkBreaks n + 1 := by
  obtain ⟨q, run, b⟩ := h
  exact ⟨q, run, b.state, b.why, b.breaks⟩

/-- Settles O40: the events of an UP link by what a break leaves, a training that fails by whether an attempt is left. -/
theorem linkEventsComplete : Obligations.LinkEventsComplete := by
  intro s n d
  refine ⟨fun h2 hr => ⟨fun peer => LinkBroken.completed (exec_linkPhyLost_breaks h2 hr d peer),
      fun hs hh => LinkBroken.completed (exec_linkCreditTimeout_breaks h2 hr hs hh),
      fun hp ha => LinkBroken.completed (exec_linkAckTimeout_breaks h2 hr hp ha),
      fun hw => ⟨fun hn => LinkBroken.completed (exec_nakReceive_breaks h2 hr hw hn), fun hn => ?nak⟩,
      fun w hw => LinkBroken.completed (exec_linkRetrain_breaks h2 hr hw)⟩,
    fun h4 w hw => ?retrain, fun h3 => ?idle, fun hs eye => ⟨?up, ?initError⟩, fun hs hg => ⟨fun ha => ?again, fun ha hp => ?last⟩,
    fun p m t h ht => ⟨t.chooseDetours, ?notice, rfl⟩⟩
  case nak =>
    refine ⟨_, exec_nakReceive_resends h2 hw hn, ?_, ?_, ?_, h2, (s.part.nakTaken_tally n d).1, s.part.only_nakTaken n d⟩
    all_goals rw [Part.nakTaken_dir]
  case retrain =>
    refine ⟨_, exec_linkRetrain_failed h4 hw, ?_, ?_, rfl,
      Part.only_trans (Part.only_mono (Part.only_onLink _ _ _) (by decide)) (Part.only_mono (Part.only_emit _ _) (by decide))⟩
    all_goals rw [Part.emit_link, Part.onLink_link_self]
  case idle => exact ⟨_, exec_linkIdleEnd_trains h3, by rw [Part.onLink_link_self], Part.only_onLink _ _ _⟩
  case up =>
    obtain ⟨q, run, state, margin, -⟩ := exec_linkTrainingDone_up hs eye
    exact ⟨q, run, state, margin⟩
  case initError =>
    exact ⟨_, exec_linkTrainingDone_initError hs eye, Part.od_setOd_val _ _ _ _ (by decide), Part.od_setOd_ne _ _ _ _ (by decide),
      Part.only_setOd _ _ _ _⟩
  case again =>
    have fails := Part.trainingFails_again hs ha
    refine ⟨s.part.trainingFails n, ?_, ?_, ?_⟩
    · rw [exec_linkTrainingFail, execLinkTrainingFail, State.run_eq, Part.settleHeld_none (by rw [fails]; exact hg)]
    · rw [fails, Part.onLink_link_self]
    · rw [fails, Part.onLink_od]
  case last =>
    obtain ⟨held, state⟩ := Part.trainingFails_last n.isLt hs ha hp
    refine ⟨s.part.trainingFails n, ?_, (state n).trans (if_pos rfl)⟩
    rw [exec_linkTrainingFail, execLinkTrainingFail, State.run_eq, Part.settleHeld_none (held.trans hg)]
  case notice => rw [exec_promLinkNotice_taken h, if_pos ht]

end Sys2Proof.Machine
end

section
/-!
O12: Bus Master Enable and the bus-master windows of a port (spec/09 R358, R359, R385).
-/

namespace Sys2Proof.Machine

set_option Elab.async false

theorem Part.keepsPorts_of_backlog {a b : Part} (h : BacklogFrame a b) : Part.keepsPorts a b := fun i => by
  obtain ⟨r, m, e⟩ := h.port i
  exact ⟨r, m, (a.port i).logs, e⟩

/-- What the host sees of a port beside its rings, vectors and logs stays as it is. -/
theorem Part.keepsPorts.views {a b : Part} (h : Part.keepsPorts a b) (i : Nat) : (b.port i).bme = (a.port i).bme ∧
    (b.port i).windows = (a.port i).windows ∧ (b.port i).decoders = (a.port i).decoders ∧ (b.port i).parts = (a.port i).parts := by
  obtain ⟨r, m, l, e⟩ := h i
  rw [e]
  exact ⟨rfl, rfl, rfl, rfl⟩

/-- Where the port is not in D0, or masters no bus, nothing resumes. -/
theorem Part.busMasterResume_off {s : Part} {i : Nat} (h : s.bmActive i = false) : s.busMasterResume i = s := by
  rw [Part.busMasterResume, h, if_neg Bool.false_ne_true]

/-- A window after a write of its register block, and every other window. -/
theorem Part.windows_written (s : Part) (i k x j : Nat) :
    (((s.onPort i fun t => { t with windows := t.windows.modify Window.zero k fun w => w.write x }).port i).windows.get Window.zero j) =
      if j = k then ((s.port i).windows.get Window.zero j).write x else (s.port i).windows.get Window.zero j := by
  rw [Part.onPort_port_self, Sparse.get_modify]
  by_cases h : k = j
  · rw [if_pos h, if_pos h.symm, h]
  · rw [if_neg h, if_neg (Ne.symm h)]

/-- Settles O12: what stopping, resuming and a closed window do leaves the port's registers, so the write itself is what changes. -/
theorem busMasterAndWindows : Obligations.BusMasterAndWindows := by
  intro s i
  refine ⟨⟨_, exec_busMasterEnableClear i s, ?clear⟩, ⟨_, exec_busMasterEnableSet i s, ?set⟩, fun hd => ?off,
    fun k value => ⟨_, exec_bmWindowWrite i k value s, ?window⟩⟩
  case clear =>
    obtain ⟨bme, windows, decoders, parts⟩ := (BundleFrame.busMasterStop (s.part.onPort i fun t => { t with bme := false }) i).ports.views i
    rw [bme, windows, decoders, parts, Part.onPort_port_self]
    exact ⟨rfl, rfl, rfl, rfl⟩
  case set =>
    obtain ⟨bme, windows, decoders, parts⟩ :=
      (Part.keepsPorts_of_backlog (.busMasterResume (s.part.onPort i fun t => { t with bme := true }) i)).views i
    rw [bme, windows, decoders, parts, Part.onPort_port_self]
    exact ⟨rfl, rfl, rfl, rfl⟩
  case off =>
    rw [exec_busMasterEnableSet, execBusMasterEnableSet, State.run_eq, Part.busMasterResume_off]
    simp [Part.bmActive, hd]
  case window =>
    obtain ⟨bme, windows, decoders, parts⟩ := (BundleFrame.windowsChanged (s.part.onPort i fun t =>
      { t with windows := t.windows.modify Window.zero k fun w => w.write value.toNat }) i (by omega)).ports.views i
    refine ⟨fun j => ?_, ?_⟩
    · rw [windows, Part.windows_written]
      rfl
    · rw [bme, decoders, parts, Part.onPort_port_self]
      exact ⟨rfl, rfl, rfl⟩

end Sys2Proof.Machine
end

section
/-!
O13: a port's link trains, enters and leaves L1, and the port changes its D state (spec/09 R339, R340, R354, R387, R388, spec/13 R502).
-/

namespace Sys2Proof.Machine

set_option Elab.async false

/-! ## The speed and the width -/

theorem foldl_max_eq {l : List Nat} {v : Nat} (hv : v ∈ l) (h : ∀ u ∈ l, u ≤ v) : l.foldl max 0 = v := by
  rw [List.foldl_eq_foldr]
  exact le_antisymm (List.max_le_of_forall_le l v h) (List.le_max_of_le hv le_rfl)

/-- The step that both bounds allow and that no other allowed one exceeds. -/
theorem stepDown_eq {steps : List Nat} {a b v : Nat} (hv : v ∈ steps) (ha : v ≤ a) (hb : v ≤ b)
    (h : ∀ u ∈ steps, u ≤ a → u ≤ b → u ≤ v) : stepDown steps a b = v := by
  refine foldl_max_eq (List.mem_filter.mpr ⟨hv, by simp [ha, hb]⟩) fun u hu => ?_
  obtain ⟨hs, hab⟩ := List.mem_filter.mp hu
  simp only [Bool.and_eq_true, decide_eq_true_eq] at hab
  exact h u hs hab.1 hab.2

/-- Without 256 B flits the link runs at 32 GT/s at most (spec/09 R340). -/
theorem le_offeredSpeed {u speed : Nat} {flit256 : Bool} :
    u ≤ (if flit256 then speed else min speed 32) ↔ u ≤ speed ∧ (flit256 = false → u ≤ 32) := by
  cases flit256 <;> simp

/-! ## What wakes and what does not -/

/-- Outside REST and its entry a wake event changes nothing (spec/13 R510, R516). -/
theorem Part.wakeEvent_awake {s : Part} (h : s.rest.inRest = false) (hs : s.rest.step = none) (k : Nat) : s.wakeEvent k = s := by
  simp [Part.wakeEvent, h, hs]

/-- A pavilion that does not sleep is not woken. -/
theorem Part.wakePav_awake {s : Part} {p : Nat} (h : s.od .pavilionPowerState p ≠ 1) : s.wakePav p = s := if_neg h

/-! ## The commands -/

section
variable {s : State} {i : Port}

theorem exec_perstDeassert_trains (h : s.part.rest.inRest = false) (hs : s.part.rest.step = none) (h1 : s.part.od .portState i = 1) :
    exec (.perstDeassert i) s = .next (s.withPart ((s.part.onPort i fun t => { t with perst := false }).setOd .portState i 2)) := by
  have awake := Part.wakeEvent_awake (s := s.part.onPort i fun t => { t with perst := false }) h hs 1
  have rest : (s.part.onPort i fun t => { t with perst := false }).rest = s.part.rest := rfl
  rw [exec_perstDeassert, execPerstDeassert, State.run_eq]
  simp only [awake, rest, h, Bool.false_eq_true, if_false, Part.onPort_od, h1, if_true]

theorem exec_portLinkTrained_at {speed width v n : Nat} {flit256 : Bool} (h2 : s.part.od .portState i = 2)
    (hp : (s.part.port i).perst = false) (hw : s.part.od .pavilionPowerState (portPav i) ≠ 1)
    (hv : stepDown [8, 16, 32, 64] (if flit256 then speed else min speed 32) (s.part.od .portSpeedLimit i) = v) (hv0 : v ≠ 0)
    (hn : stepDown [4, 8, 16] width (s.part.od .portWidthLimit i) = n) (hn0 : n ≠ 0) :
    exec (.portLinkTrained i speed width flit256) s = .next (s.withPart
      ((((s.part.setOd .portLinkSpeed i v).setOd .portLinkWidth i n).setOd .portFlitMode i (if flit256 then 2 else 1)).setOd
        .portState i (if s.part.od0 .bootState < 7 then 3 else 4))) := by
  have other : ∀ e j, e ≠ .portLinkSpeed → e ≠ .portLinkWidth → e ≠ .portFlitMode →
      (((s.part.setOd .portLinkSpeed i v).setOd .portLinkWidth i n).setOd .portFlitMode i (if flit256 then 2 else 1)).od e j = s.part.od e j :=
    fun e j h1 h2 h3 => by
      rw [Part.od_setOd_ne _ _ _ _ h3.symm, Part.od_setOd_ne _ _ _ _ h2.symm, Part.od_setOd_ne _ _ _ _ h1.symm]
  rw [exec_portLinkTrained, execPortLinkTrained, State.run_eq]
  simp only [h2, hp, hv, hn, hv0, hn0, Nat.reduceBNe, bne_self_eq_false, Bool.and_false, Bool.or_self, decide_false, Bool.false_eq_true,
    if_false]
  rw [Part.wakePav_awake (by rw [other _ _ (by decide) (by decide) (by decide)]; exact hw), Part.od0,
    other _ _ (by decide) (by decide) (by decide)]
  rfl

theorem exec_aspmL1Transition_enters (h4 : s.part.od .portState i = 4) : exec (.aspmL1Transition i true) s = .next (s.withPart
    ((s.part.onPort i fun t => { t with inL1 := true }).setOd .portState i 5)) := by
  rw [exec_aspmL1Transition, execAspmL1Transition, State.run_eq]
  simp [h4]

theorem exec_aspmL1Transition_leaves (h5 : s.part.od .portState i = 5) (hw : s.part.od .pavilionPowerState (portPav i) ≠ 1) :
    exec (.aspmL1Transition i false) s = .next (s.withPart
      ((s.part.onPort i fun t => { t with inL1 := false }).setOd .portState i 4)) := by
  rw [exec_aspmL1Transition, execAspmL1Transition, State.run_eq]
  simp [h5, Part.wakePav_awake hw]

end

/-! ## D states -/

/-- The port's D state and PME_En as the host writes them. -/
def Part.dStateWritten (s : Part) (i d : Nat) (pme : Bool) : Part := (s.onPort i fun t => { t with pmeEn := pme }).setOd .portDState i d

theorem Part.dStateWritten_spec (s : Part) (i d : Nat) (pme : Bool) (hd : d < 256) : (s.dStateWritten i d pme).od .portDState i = d ∧
    (s.dStateWritten i d pme).port i = { s.port i with pmeEn := pme } :=
  ⟨Part.od_setOd_val _ _ _ _ hd, by rw [Part.dStateWritten, Part.setOd_port, Part.onPort_port_self]⟩

/-- Leaving D0 stops bus mastering; entering it resumes none while Bus Master Enable is clear. -/
theorem exec_pmDStateChange_frame (s : State) (i : Port) (d : Fin 3) (pme : Bool)
    (h : s.part.od .portDState i = 0 ∨ d.val ≠ 0 ∨ (s.part.port i).bme = false) :
    ∃ p, exec (.pmDStateChange i d pme) s = .next (s.withPart p) ∧ BundleFrame (s.part.dStateWritten i d pme) p := by
  have written : (s.part.dStateWritten i d pme).port i = { s.part.port i with pmeEn := pme } :=
    (s.part.dStateWritten_spec i d pme (by omega)).2
  refine ⟨_, exec_pmDStateChange i d pme s, ?_⟩
  show BundleFrame (s.part.dStateWritten i d pme) (if s.part.od .portDState i = 0 && d.val != 0 then
      (s.part.dStateWritten i d pme).busMasterStop i else if s.part.od .portDState i != 0 && d.val = 0 then
      (s.part.dStateWritten i d pme).busMasterResume i else s.part.dStateWritten i d pme)
  split
  · exact .busMasterStop _ _
  · split
    · next resumes =>
      have off : (s.part.port i).bme = false := by simpa [show ¬ s.part.od .portDState i = 0 ∧ d.val = 0 by simpa using resumes] using h
      rw [Part.busMasterResume_off (by rw [Part.bmActive, written]; simp [off])]
      exact .refl _
    · exact .refl _

/-- Settles O13: training by the highest allowed step, a change of D state by what stopping a bundle leaves. -/
theorem portLinkAndDStates : Obligations.PortLinkAndDStates := by
  refine ⟨fun s i => ⟨fun h hs h1 => exec_perstDeassert_trains h hs h1, fun speed width flit256 v n h2 hp hw hv hvs hvf hvl hvm hn hnw hnl hnm => ?_,
    fun h4 => exec_aspmL1Transition_enters h4, fun h5 hw => exec_aspmL1Transition_leaves h5 hw⟩, fun s i d pme h => ?_⟩
  · have speedIs := stepDown_eq hv (le_offeredSpeed.mpr ⟨hvs, hvf⟩) hvl fun u hu hus hul =>
      hvm u hu (le_offeredSpeed.mp hus).1 (le_offeredSpeed.mp hus).2 hul
    exact exec_portLinkTrained_at h2 hp hw speedIs (by rintro rfl; simp at hv) (stepDown_eq hn hnw hnl hnm) (by rintro rfl; simp at hn)
  · obtain ⟨p, run, frame⟩ := exec_pmDStateChange_frame s i d pme h
    obtain ⟨dState, port⟩ := s.part.dStateWritten_spec i d pme (by omega)
    obtain ⟨r, m, l, e⟩ := frame.ports i
    rw [port] at e
    exact ⟨p, run, (frame.od _ _ (by decide) (by omega)).trans dState, by rw [e], by rw [e], by rw [e], by rw [e]⟩

end Sys2Proof.Machine
end

section
/-!
O14: decoders, link security and a Completion Timeout of a port (spec/09 R339, R348, R390, R393).
-/

namespace Sys2Proof.Machine

set_option Elab.async false

/-! ## Decoders -/

theorem Decoder.valid_iff (d : Decoder) : d.valid = true ↔ d.ways ∈ [1, 2, 3, 4, 6, 8, 12, 16] ∧
    d.granularity ∈ [256, 512, 1024, 2048, 4096, 8192, 16384] ∧ d.position < d.ways ∧ d.size ≠ 0 := by
  simp only [Decoder.valid, Bool.and_eq_true, List.contains_iff_mem, decide_eq_true_eq, bne_iff_ne, and_assoc]

section
variable {s : State} {i : Port} {k : Fin 8} {base size skip : U64} {ways granularity position : Nat}

theorem exec_hdmDecoderCommit_commits (hv : (Decoder.mk true base.toNat size.toNat ways granularity position skip.toNat).valid = true) :
    exec (.hdmDecoderCommit i k true base size ways granularity position skip) s = .next (s.withPart (s.part.onPort i fun t => { t with
      decoders := t.decoders.set Decoder.zero k ⟨true, base.toNat, size.toNat, ways, granularity, position, skip.toNat⟩ })) := by
  rw [exec_hdmDecoderCommit, execHdmDecoderCommit, State.run_eq]
  simp only [Bool.not_true, Bool.false_eq_true, if_false, hv, if_true]

theorem exec_hdmDecoderCommit_invalid
    (hv : ¬ (Decoder.mk true base.toNat size.toNat ways granularity position skip.toNat).valid = true) :
    exec (.hdmDecoderCommit i k true base size ways granularity position skip) s = .next s := by
  rw [exec_hdmDecoderCommit, execHdmDecoderCommit, State.run_eq]
  simp only [Bool.not_true, Bool.false_eq_true, if_false, hv]
  rfl

end

/-! ## Link security -/

/-- The port is INSECURE, its keys gone and the failure reported, before its link goes down (spec/09 R393). -/
def Part.madeInsecure (s : Part) (i : Nat) : Part :=
  ((((((s.modOd .rasUeStatus i fun v => setBit v 16 true).count .ideFailures i).setOd .ideState i 2).onPort i fun t =>
    { t with ideKeys := 0 }).vendorEvent i logFailure 0x1205 none (portPav i) ones64 ones64 i 0).logEv 0x1205 i 0 none (portPav i))

theorem Part.madeInsecure_spec (s : Part) (i : Port) : (s.madeInsecure i).od .ideState i = 2 ∧
    (s.madeInsecure i).od .portState i = s.od .portState i ∧ ((s.madeInsecure i).port i).ideKeys = 0 := by
  have frame : ∀ t : Part, Part.keepsOd [.ringState] t ((t.vendorEvent i logFailure 0x1205 none (portPav i) ones64 ones64 i 0).logEv
      0x1205 i 0 none (portPav i)) ∧ Part.keepsPorts t ((t.vendorEvent i logFailure 0x1205 none (portPav i) ones64 ones64 i 0).logEv
      0x1205 i 0 none (portPav i)) := fun t =>
    ⟨Part.keepsOd_trans (Part.keepsOd_of_only (t.only_vendorEvent _ _ _ _ _ _ _ _ _ _) (by decide)) (Part.keepsOd_logEv _ _ _ _ _ _),
      Part.keepsPorts_trans (t.keepsPorts_eventRec _ _ _) (BundleFrame.of_log (.logEv _ _ _ _ _ _)).ports⟩
  unfold Part.madeInsecure
  refine ⟨?_, ?_, ?_⟩
  · rw [(frame _).1.od_eq (by decide), Part.onPort_od, Part.od_setOd_val _ _ _ _ (by decide)]
  · rw [(frame _).1.od_eq (by decide), Part.onPort_od, Part.od_setOd_ne _ _ _ _ (by decide)]
    exact Part.od_setOd_ne _ _ _ _ (by decide)
  · obtain ⟨r, m, l, e⟩ := (frame _).2 i
    rw [e, Part.onPort_port_self]

theorem exec_ideMacFailure_secured {s : State} {i : Port} (h : s.part.od .ideState i = 1) :
    exec (.ideMacFailure i) s = .next (s.withPart ((s.part.madeInsecure i).conventional i 1)) := by
  rw [exec_ideMacFailure, execIdeMacFailure, State.run_eq]
  simp only [h, bne_self_eq_false, Bool.false_eq_true, if_false]
  rfl

/-! ## A Completion Timeout -/

theorem exec_completionTimeout_ring {s : State} {i : Port} {r : Fin 4} (h3 : r.val < 3)
    (he : ((s.part.port i).rings.get Ring.zero r).enabled = true) (hf : ((s.part.port i).rings.get Ring.zero r).faulted = false) :
    exec (.completionTimeout i r) s = .next (s.withPart
      ((s.part.setOd .aerUeStatus i (setBit (s.part.od .aerUeStatus i) 14 true)).ringFault i r)) := by
  rw [exec_completionTimeout, execCompletionTimeout, State.run_eq]
  simp only [h3, if_true, Part.modOd_eq, Part.setOd_port, he, hf, Bool.not_false, Bool.and_self]

/-- Settles O14: a decoder by whether its kind is supported; an INSECURE port by what a conventional reset leaves of link IDE. -/
theorem decodersSecurityAndTimeout : Obligations.DecodersSecurityAndTimeout := by
  refine ⟨fun s i k base size skip ways granularity position => ⟨fun hw hg hp hs => ?_, rfl, fun hbad => ?_⟩, fun s i => ⟨fun h1 h0 => ?_,
    fun r h3 he hf => exec_completionTimeout_ring h3 he hf⟩⟩
  · refine exec_hdmDecoderCommit_commits ((Decoder.valid_iff _).mpr ⟨hw, hg, hp, fun h => hs (BitVec.eq_of_toNat_eq h)⟩)
  · refine exec_hdmDecoderCommit_invalid fun hv => ?_
    obtain ⟨hw, hg, hp, hs⟩ := (Decoder.valid_iff _).mp hv
    rcases hbad with h | h | h | rfl
    · exact h hw
    · exact h hg
    · exact absurd hp (Nat.not_lt.mpr h)
    · exact hs rfl
  · obtain ⟨insecure, state, noKeys⟩ := s.part.madeInsecure_spec i
    obtain ⟨decoders, -, -, -, -, -, -, -, -, -, -, -, down, -, -, -, -, ide, -⟩ :=
      Part.conventional_spec (s.part.madeInsecure i) i 1 (by decide) (by rw [state]; exact h0) _ rfl
    obtain ⟨ideState, keys⟩ := ide (by rw [insecure]; decide)
    exact ⟨_, exec_ideMacFailure_secured h1, ideState.trans insecure, keys.trans noKeys, down, decoders⟩

end Sys2Proof.Machine
end

section
/-!
O15 and O16: what a CXL.mem message does at its port (spec/09 R343, R347, R348, R391, spec/07 R283 to R286).
-/

namespace Sys2Proof.Machine

set_option Elab.async false

/-! ## Credits -/

/-- The link credits of one kind that the host holds. -/
def PortState.held (t : PortState) (data : Bool) : Nat := if data then t.heldDat else t.heldReq

/-- The host holds as many more or fewer link credits of one kind. -/
def PortState.setHeld (t : PortState) (data : Bool) (n : Nat) : PortState := if data then { t with heldDat := n } else { t with heldReq := n }

theorem Part.spendCredit_held {s : Part} {i : Nat} {data : Bool} (h : (s.port i).held data ≠ 0) :
    s.spendCredit i data = (s.onPort i fun t => t.setHeld data (t.held data - 1), true) := by
  cases data
  · exact if_neg h
  · exact if_neg h

/-- The credit of a message that is taken off at once returns, unless the park ring withholds it. -/
theorem Part.creditBack_spec {s : Part} {i : Nat} {data : Bool} (h : (s.port i).held data ≠ 0)
    (hroom : (s.port i).heldReq + (s.port i).heldDat + (s.port i).park.length ≤ 65536) :
    ((s.spendCredit i data).1.giveCredit i data).port i = s.port i ∧ Part.only [.ports] s ((s.spendCredit i data).1.giveCredit i data) := by
  have room : ((s.onPort i fun t => t.setHeld data (t.held data - 1)).port i).heldReq +
      ((s.onPort i fun t => t.setHeld data (t.held data - 1)).port i).heldDat <
      parkSize - ((s.onPort i fun t => t.setHeld data (t.held data - 1)).port i).park.length := by
    rw [Part.onPort_port_self, parkSize]
    cases data <;> simp only [PortState.held, PortState.setHeld, Bool.false_eq_true, if_false, if_true] at h ⊢ <;> omega
  rw [Part.spendCredit_held h, Part.giveCredit, if_pos room]
  refine ⟨?_, Part.only_trans (s.only_onPort _ _) (Part.only_onPort _ _ _)⟩
  rw [Part.onPort_port_self, Part.onPort_port_self]
  cases data <;> simp only [PortState.held, PortState.setHeld, Bool.false_eq_true, if_false, if_true] at h ⊢ <;>
    simp only [Nat.sub_one_add_one h]

/-- A message without access is answered with Cmp once its credit has returned. -/
theorem Part.credited_cmp {s : Part} {i : Nat} {data : Bool} (tag : Nat) (h : (s.port i).held data ≠ 0)
    (hroom : (s.port i).heldReq + (s.port i).heldDat + (s.port i).park.length ≤ 65536) {t : Part}
    (ht : t = ((s.spendCredit i data).1.giveCredit i data).emit (.cmp i tag)) :
    t.port i = s.port i ∧ t.out = s.out ++ [.cmp i tag] ∧ Part.only [.ports, .out] s t := by
  obtain ⟨port, only⟩ := Part.creditBack_spec h hroom
  subst ht
  refine ⟨?_, ?_, Part.only_trans (Part.only_mono only (by decide)) (Part.only_mono (Part.only_emit _ _) (by decide))⟩
  · rw [Part.emit_port, port]
  · rw [Part.emit_out, (only .out (by decide) : ((s.spendCredit i data).1.giveCredit i data).out = s.out)]

/-- Settles O16: the credit spent returns, and the answer is all that is sent. -/
theorem messagesWithoutAccess : Obligations.MessagesWithoutAccess := by
  intro s i hpa tag l
  have spent : ∀ data, (s.part.port i).held data ≠ 0 → (s.part.spendCredit i data).2 = true := fun data h => by
    rw [Part.spendCredit_held h]
  refine ⟨fun h hroom => ⟨⟨_, ?_, Part.creditBack_spec (data := false) h hroom⟩, _, ?_, Part.credited_cmp (data := false) tag h hroom rfl⟩,
    fun h hroom => ⟨_, ?_, Part.credited_cmp (data := true) tag h hroom rfl⟩, fun credit => ?_⟩
  · rw [exec_memSpecRd, execMemSpecRd, State.run_eq]
    simp only [spent false h, if_true]
  · rw [exec_memInv, execMemInv, State.run_eq]
    simp only [spent false h, if_true]
  · rw [exec_memWrPtl, execMemWrPtl, State.run_eq]
    simp only [spent true h, if_true]
  · rw [exec_m2sUnsupportedMessage, execM2sUnsupportedMessage, State.run_eq, Part.modOd_eq]

/-! ## What a request finds at its port -/

/-- What decides of a port where a request goes: the decoders, the region map and its masks, the partitions and the park ring. -/
def PortState.routing (t : PortState) : Sparse Decoder × Sparse Nat × Sparse Nat × Sparse Partition × List Req :=
  (t.decoders, t.regionMap, t.masks, t.parts, t.park)

/-- What taking a message and its credit leaves: the routing of every port, and every stored value but those that wake a pavilion. -/
structure AcceptFrame (a b : Part) : Prop where
  only : Part.only logFields a b
  od : Part.keepsOd detourEntries a b
  routing : ∀ i, (b.port i).routing = (a.port i).routing

namespace AcceptFrame

theorem refl (a : Part) : AcceptFrame a a := ⟨Part.only_refl _ _, Part.keepsOd_refl _ _, fun _ => rfl⟩

theorem trans {a b c : Part} (h : AcceptFrame a b) (k : AcceptFrame b c) : AcceptFrame a c :=
  ⟨Part.only_trans h.only k.only, Part.keepsOd_trans h.od k.od, fun i => (k.routing i).trans (h.routing i)⟩

theorem ite {c : Prop} [Decidable c] {s a b : Part} (h : AcceptFrame s a) (k : AcceptFrame s b) : AcceptFrame s (if c then a else b) := by
  split <;> assumption

theorem of_log {a b : Part} (h : LogFrame a b) : AcceptFrame a b :=
  ⟨h.only, fun e i he hi => h.od e i (fun q => he (q ▸ by decide)) hi, fun i => by obtain ⟨r, m, e⟩ := h.port i; rw [e]; rfl⟩

theorem onPort (s : Part) (i : Nat) (f : PortState → PortState) (h : ∀ t, (f t).routing = t.routing) : AcceptFrame s (s.onPort i f) :=
  ⟨Part.only_mono (s.only_onPort i f) (by decide), fun _ _ _ _ => rfl, fun j => by
    rw [Part.onPort_port]
    split
    · next e => subst e; exact h _
    · rfl⟩

theorem setHeld (s : Part) (i : Nat) (data : Bool) : AcceptFrame s (s.onPort i fun t => t.setHeld data (t.held data - 1)) :=
  .onPort s i _ fun _ => by cases data <;> rfl

theorem giveCredit (s : Part) (i : Nat) (data : Bool) : AcceptFrame s (s.giveCredit i data) := by
  unfold Part.giveCredit
  have owed : AcceptFrame s (s.onPort i fun t => if data then { t with owedDat := t.owedDat + 1 } else { t with owedReq := t.owedReq + 1 }) :=
    .onPort s i _ fun _ => by cases data <;> rfl
  exact .ite (.onPort s i _ fun _ => by cases data <;> rfl)
    (.ite (owed.trans (.of_log ((LogFrame.count _ _ _ _).trans (.logEv _ _ _ _ _ _)))) owed)

theorem wakePav (s : Part) (p : Nat) (hp : p < 65536) : AcceptFrame s (s.wakePav p) :=
  ⟨Part.only_mono (s.only_wakePav p) (by decide), s.keepsOd_wakePav p hp, fun i => by
    rw [Part.port, (s.only_wakePav p .ports (by decide) : (s.wakePav p).ports = s.ports)]; rfl⟩

theorem maskTouch (s : Part) (i region : Nat) : AcceptFrame s (s.maskTouch i region) := by
  unfold Part.maskTouch
  dsimp only
  exact (AcceptFrame.ite (.refl s) (.of_log (.count s _ _ _))).trans (.onPort _ i _ fun _ => rfl)

variable {a b : Part} (h : AcceptFrame a b)
include h

theorem od_eq {e : Entry} (he : e ∉ detourEntries) (i : Nat) : b.od e i = a.od e i := h.od.od_eq he i

theorem bank : b.vint.bank = a.vint.bank := congrArg VintState.bank (h.only .vint (by decide))

theorem decoderOf (i hpa : Nat) : (b.port i).decoderOf hpa = (a.port i).decoderOf hpa := by
  have decoders : (b.port i).decoders = (a.port i).decoders := congrArg (·.1) (h.routing i)
  rw [PortState.decoderOf, decoders]
  rfl

theorem regionMap (i : Nat) : (b.port i).regionMap = (a.port i).regionMap := congrArg (·.2.1) (h.routing i)

theorem masks (i : Nat) : (b.port i).masks = (a.port i).masks := congrArg (·.2.2.1) (h.routing i)

theorem park (i : Nat) : (b.port i).park = (a.port i).park := congrArg (·.2.2.2.2) (h.routing i)

theorem part (i sl : Nat) : b.part i sl = a.part i sl := by
  have parts : (b.port i).parts = (a.port i).parts := congrArg (·.2.2.2.1) (h.routing i)
  rw [Part.part, parts]
  rfl

end AcceptFrame

theorem AcceptFrame.decode (s : Part) (i hpa : Nat) : AcceptFrame s (s.decode i hpa).1 := by
  unfold Part.decode
  split
  · exact .refl s
  · dsimp only
    split
    · exact .refl s
    · split
      · exact .maskTouch s _ _
      · exact .maskTouch s _ _

/-! ## Where the slice decoder finds a slice -/

/-- The region-map entry of an HPA under a decoder. -/
def PortState.mapEntry (t : PortState) (d : Decoder) (hpa : Nat) : Nat := t.regionMap.get 0 (d.dpa hpa / 2 ^ 30)

/-- The slice decoder finds a slice bound to the port through a valid entry whose extent is mapped (spec/09 R348). -/
structure Decodes (s : Part) (i hpa : Nat) (d : Decoder) (sl : Nat) : Prop where
  decoder : (s.port i).decoderOf hpa = some d
  valid : bit ((s.port i).mapEntry d hpa) 31 = true
  slice : bits ((s.port i).mapEntry d hpa) 16 12 = sl
  mapped : bit ((s.port i).masks.get 0 (d.dpa hpa / 2 ^ 30)) (d.dpa hpa % 2 ^ 30 / 2 ^ 21) = true
  bound : s.boundPort sl = some i

theorem Decodes.accept {a b : Part} {i hpa sl : Nat} {d : Decoder} (h : Decodes a i hpa d sl) (f : AcceptFrame a b) :
    Decodes b i hpa d sl where
  decoder := (f.decoderOf i hpa).trans h.decoder
  valid := by rw [PortState.mapEntry, f.regionMap]; exact h.valid
  slice := by rw [PortState.mapEntry, f.regionMap]; exact h.slice
  mapped := by rw [f.masks]; exact h.mapped
  bound := by
    rw [Part.boundPort, f.od_eq (by decide), f.od_eq (by decide)]
    exact h.bound

theorem Decodes.found {s : Part} {i hpa sl : Nat} {d : Decoder} (h : Decodes s i hpa d sl) : (s.decode i hpa).2 =
    .found sl (bits ((s.port i).mapEntry d hpa) 0 16 * 2 ^ 30 + d.dpa hpa % 2 ^ 30) (d.dpa hpa) := by
  obtain ⟨decoder, valid, slice, mapped, bound⟩ := h
  unfold PortState.mapEntry at valid slice
  have touched : ((s.maskTouch i (d.dpa hpa / 2 ^ 30)).port i).masks = (s.port i).masks := (AcceptFrame.maskTouch s i _).masks i
  simp only [Part.decode, decoder, valid, slice, bound, touched, mapped, Bool.not_true, bne_self_eq_false, Bool.or_self, Bool.false_eq_true,
    if_false]
  rfl

/-! ## Queueing -/

/-- The slice's partition on the port is full, or the slice has parked requests (spec/07 R285). -/
def Part.partitionFull (s : Part) (i sl : Nat) : Bool :=
  (s.port i).park.any (·.slice == sl) || decide ((s.part i sl).reserved ≤ (s.part i sl).inUse)

theorem Part.enqueue_room {s : Part} {r : Req} (h : s.partitionFull r.port r.slice = false) :
    s.enqueue r = s.onPart r.port r.slice fun q => { q with queue := q.queue ++ [r] } := by
  unfold Part.partitionFull at h
  rw [Part.enqueue]
  simp only [h, Bool.false_eq_true, if_false]

theorem Part.enqueue_full {s : Part} {r : Req} (h : s.partitionFull r.port r.slice = true) :
    s.enqueue r = ((s.onPort r.port fun t => { t with park := t.park ++ [r] }).count .ingressParked r.port).setOd .ingressParkedNow r.port
      ((s.port r.port).park ++ [r]).length := by
  unfold Part.partitionFull at h
  rw [Part.enqueue]
  simp only [h, if_true, Part.onPort_port_self]

/-- A request goes to the end of the park ring or of its partition, and of the other nothing changes. -/
theorem Part.enqueue_spec (s : Part) (r : Req) :
    ((s.enqueue r).port r.port).park = (s.port r.port).park ++ (if s.partitionFull r.port r.slice then [r] else []) ∧
    ((s.enqueue r).part r.port r.slice).queue =
      (s.part r.port r.slice).queue ++ (if s.partitionFull r.port r.slice then [] else [r]) := by
  cases h : s.partitionFull r.port r.slice
  · rw [Part.enqueue_room h]
    refine ⟨?_, ?_⟩
    · rw [Part.onPart, Part.onPort_port_self]
      simp
    · rw [Part.part_onPart]
      simp
  · rw [Part.enqueue_full h, Part.setOd_port, Part.count_port, Part.onPort_port_self]
    refine ⟨rfl, ?_⟩
    rw [Part.part, Part.setOd_port, Part.count_port, Part.onPort_port_self]
    exact (List.append_nil _).symm

/-- A request as it is queued: decoded, with the port's epoch and the bank's stamp. -/
def Part.stamped (s : Part) (r : Req) (d : Decoder) (sl : Nat) : Req :=
  { r with
    slice := sl, dpa := d.dpa r.hpa, epoch := s.od .portEpoch r.port, stamp := s.vint.bank
    logical := bits ((s.port r.port).mapEntry d r.hpa) 0 16 * 2 ^ 30 + d.dpa r.hpa % 2 ^ 30 }

/-- A clean request of a running slice is counted and queued once its credit is taken. -/
theorem Part.receive_found {s : Part} {r : Req} {d : Decoder} {sl : Nat} (hdeaf : s.portDeaf r.port = false)
    (hcredit : (s.port r.port).held (r.kind != .read) ≠ 0) (hport : r.port < 16) (hd : Decodes s r.port r.hpa d sl)
    (hrun : s.od .sliceState sl = 2) :
    ∃ t, AcceptFrame s t ∧ s.receive r false = (t.countRequest (s.stamped r d sl)).enqueue (s.stamped r d sl) := by
  have hp : portPav r.port < 65536 := by rw [portPav]; omega
  have spent : AcceptFrame s (s.spendCredit r.port (r.kind != .read)).1 := by rw [Part.spendCredit_held hcredit]; exact .setHeld _ _ _
  have taken := spent.trans ((AcceptFrame.giveCredit (s.spendCredit r.port (r.kind != .read)).1 r.port (r.kind != .read)).trans
    (.wakePav _ (portPav r.port) hp))
  generalize ht : (((s.spendCredit r.port (r.kind != .read)).1.giveCredit r.port (r.kind != .read)).wakePav (portPav r.port)) = t at taken
  have decoded := taken.trans (.decode t r.port r.hpa)
  refine ⟨(t.decode r.port r.hpa).1, decoded, ?_⟩
  have paid : (s.spendCredit r.port (r.kind != .read)).2 = true := by rw [Part.spendCredit_held hcredit]
  have entry : (t.port r.port).mapEntry d r.hpa = (s.port r.port).mapEntry d r.hpa := by
    rw [PortState.mapEntry, taken.regionMap]; rfl
  rw [Part.receive]
  simp only [hdeaf, paid, ht, (hd.accept taken).found, decoded.od_eq (e := .portEpoch) (by decide),
    decoded.od_eq (e := .sliceState) (by decide), decoded.bank, hrun, entry, Bool.not_true, bne_self_eq_false, Bool.false_eq_true, if_false]
  rfl

/-- Settles O15: the three messages are one request that is counted and queued; taking its credit leaves the port's routing. -/
theorem hostRequestIsQueued : Obligations.HostRequestIsQueued := by
  intro s i hpa tag sl d l c kind data mask hc hide hdec hvalid hslice hmask hbound hrun full r
  have decodes : Decodes s.part i hpa.toNat d sl :=
    ⟨hdec, hvalid, hslice, hmask, by simp [Part.boundPort, hbound, hrun]⟩
  have hdeaf : s.part.portDeaf i = false := by simpa [Part.portDeaf] using hide
  have received : exec c s = .next (s.withPart (s.part.receive (mkReq kind i hpa tag data mask) false)) ∧
      (s.part.port i).held (kind != .read) ≠ 0 := by
    rcases hc with ⟨rfl, rfl, rfl, rfl, held⟩ | ⟨rfl, rfl, rfl, rfl, held⟩ | ⟨m, hm, rfl, rfl, rfl, rfl, held⟩
    · exact ⟨exec_memRd i hpa tag s, held⟩
    · exact ⟨exec_memWr i hpa tag l false s, held⟩
    · refine ⟨?_, held⟩
      rw [exec_memWrPtl, execMemWrPtl, State.run_eq, if_neg hm]
  obtain ⟨run, credit⟩ := received
  obtain ⟨t, frame, queued⟩ := Part.receive_found (r := mkReq kind i hpa tag data mask) hdeaf credit i.isLt decodes hrun
  have hr : s.part.stamped (mkReq kind i hpa tag data mask) d sl = r := rfl
  rw [hr] at queued
  have hi : r.port < 65536 := by show i.val < 65536; omega
  have counted := t.only_countRequest r hi
  have kept := t.keepsParts_countRequest r hi
  obtain ⟨park, queue⟩ := (t.countRequest r).enqueue_spec r
  have hfull : (t.countRequest r).partitionFull r.port r.slice = full := by
    rw [Part.partitionFull, (kept r.port).2, Part.part_of_keepsParts kept, frame.park, frame.part]
  rw [hfull, (kept r.port).2, frame.park] at park
  rw [hfull, Part.part_of_keepsParts kept, frame.part] at queue
  have only : Part.only logFields s.part ((t.countRequest r).enqueue r) :=
    Part.only_trans frame.only (Part.only_trans counted (Part.only_mono (Part.only_enqueue _ _) (by decide)))
  refine ⟨(t.countRequest r).enqueue r, run.trans (by rw [queued]), park, queue, only .pavs (by decide), only .chans (by decide),
    only .links (by decide)⟩

end Sys2Proof.Machine
end

section
/-!
O41: the identification of a tenant page (spec/10 R405).
-/

namespace Sys2Proof.Machine

/-- Slice 0 is RUNNING and nothing else differs from reset. -/
def sliceZeroRunning : State := State.reset.withPart (State.reset.part.setOd .sliceState 0 2)

/-- The slice's state reads in the field of its number: `<<<` binds more tightly than `%`, so the state is cut to 20 bits and not shifted. -/
theorem tpIdent_sliceZeroRunning : bits (sliceZeroRunning.part.tpIdent 0) 0 12 = 2 := by
  have running : sliceZeroRunning.part.od .sliceState 0 = 2 := Part.od_setOd_val _ _ _ _ (by decide)
  rw [Part.tpIdent, running]
  decide

/-- Refutes O41: TP_IDENT of a RUNNING slice 0 holds 2, the slice's state, in the bits of the slice's number. -/
theorem not_endpointViews : ¬ Obligations.EndpointViews := by
  intro h
  obtain ⟨-, -, -, -, pages, -⟩ := h sliceZeroRunning 0
  obtain ⟨-, number, -⟩ := pages 0
  exact absurd (tpIdent_sliceZeroRunning.symm.trans number) (by decide)

end Sys2Proof.Machine
end

section
/-!
O8: the mailbox of a port (spec/09 R352, R366, R367, R369, R372, R373).
-/

namespace Sys2Proof.Machine

set_option Elab.async false

/-- Without a vector in the mailbox control register the answer is all that is sent. -/
theorem Part.mbox_polled {s : Part} {i : Nat} (h : (s.port i).mboxVector = 0) (code : Nat) (payload : List Nat) :
    s.mbox i code payload = s.emit (.mailbox i code payload) := if_pos h

/-- Two changes of a port that agree on what stands there are one. -/
theorem Part.onPort_congr {s : Part} {i : Nat} {f g : PortState → PortState} (h : f (s.port i) = g (s.port i)) : s.onPort i f = s.onPort i g :=
  congrArg (fun t => ({ s with ports := s.ports.set PortState.zero i t } : Part)) h

/-! ## The Command Effects Log -/

/-- Each entry is its opcode and its effects, two bytes each, the low byte first. -/
theorem celBytes_eq : celBytes = mboxEffects.flatMap fun e => [e.1 % 256, e.1 / 256 % 256, e.2 % 256, e.2 / 256 % 256] := by decide

theorem celBytes_length : celBytes.length = 4 * mboxEffects.length := by decide

theorem exec_mboxGetLog_bytes (s : State) (i : Port) {offset len : Nat} (h : offset + len ≤ celBytes.length) :
    exec (.mboxGetLog i true offset len) s = .next (s.withPart (s.part.mbox i mbSuccess ((celBytes.drop offset).take len))) := by
  have inside : ¬ (!true || decide (celBytes.length < offset + len)) = true := by simpa using h
  rw [exec_mboxGetLog, execMboxGetLog, State.run_eq, if_neg inside]

theorem exec_mboxUnsupported_unlisted (s : State) (i : Port) {op : BitVec 16} (h : ∀ e ∈ mboxEffects, e.1 ≠ op.toNat) :
    exec (.mboxUnsupported i op) s = .next (s.withPart (s.part.mbox i mbUnsupported [])) := by
  have unlisted : ¬ (mboxEffects.any fun e => e.1 == op.toNat) = true := fun listed => by
    obtain ⟨e, he, same⟩ := List.any_eq_true.mp listed
    exact h e he (beq_iff_eq.mp same)
  rw [exec_mboxUnsupported, execMboxUnsupported, State.run_eq, if_neg unlisted]

/-! ## Event logs -/

section
variable (s : State) (i : Port)

theorem exec_mboxGetEventRecords_eq (log : Fin 5) (g : EventLog) (hg : (s.part.port i).logs.get EventLog.zero log = g) :
    exec (.mboxGetEventRecords i log) s = .next (s.withPart (s.part.mbox i mbSuccess
      ([b2n (g.overflow != 0) + 2 * b2n (decide (recordsPerPayload < g.records.length)), g.overflow, g.firstTime, g.lastTime,
        min recordsPerPayload g.records.length] ++ (g.records.take recordsPerPayload).flatMap EventRec.fields))) := by
  rw [exec_mboxGetEventRecords, execMboxGetEventRecords, State.run_eq]
  simp only [hg, List.length_take]

theorem exec_mboxClearEventRecords_all (log : Fin 5) (handles : List Nat) :
    exec (.mboxClearEventRecords i log true handles) s = .next (s.withPart ((s.part.onPort i fun t => { t with
      logs := t.logs.set EventLog.zero log
        { t.logs.get EventLog.zero log with records := [], overflow := 0, firstTime := 0, lastTime := 0 } }).mbox i mbSuccess [])) := by
  rw [exec_mboxClearEventRecords, execMboxClearEventRecords, State.run_eq]
  simp only [if_true, List.filter_false]
  exact congrArg (fun p : Part => Host.Outcome.next (s.withPart (p.mbox i mbSuccess []))) (Part.onPort_congr rfl)

theorem exec_mboxSetEventIntPolicy_taken {policy : List Nat} (h5 : policy.length = 5) (hv : ∀ v ∈ policy, v ≤ 16) :
    exec (.mboxSetEventIntPolicy i policy) s =
      .next (s.withPart ((s.part.onPort i fun t => { t with policy := policy }).mbox i mbSuccess [])) := by
  have taken : ¬ (policy.length != 5 || policy.any (16 < ·)) = true := by simpa [h5] using hv
  rw [exec_mboxSetEventIntPolicy, execMboxSetEventIntPolicy, State.run_eq, if_neg taken]

theorem exec_mboxClearPoison_queues {dpa : U64} {data : Line} {sl logical : Nat} (h : s.part.ofDpa i dpa.toNat = some (sl, logical)) :
    exec (.mboxClearPoison i dpa data) s = .next (s.withPart ((s.part.enqueue ⟨.write, i, 0, ones64, dpa.toNat, sl, logical / 64 * 64,
      data.toNat, 0, s.part.vint.bank, s.part.od .portEpoch i, false⟩).mbox i mbSuccess [])) := by
  rw [exec_mboxClearPoison, execMboxClearPoison, State.run_eq]
  simp only [h]

end

/-- Settles O8: a command that reports is answered from the state; the others are one change before their answer. -/
theorem mailboxCommands : Obligations.MailboxCommands := by
  refine ⟨fun p i code payload h => Part.mbox_polled h code payload,
    fun s i => ⟨exec_mboxIdentify i s, exec_mboxGetFwInfo i s, ?_, fun offset len h => ?_, exec_mboxIdentifyMemoryDevice i s,
      exec_mboxGetDcConfiguration i s⟩,
    fun s i op h => exec_mboxUnsupported_unlisted s i h,
    fun s i log => ⟨exec_mboxGetEventRecords_eq s i log _ rfl, exec_mboxClearEventRecords_all s i log, exec_mboxGetEventIntPolicy i s,
      fun policy h5 hv => exec_mboxSetEventIntPolicy_taken s i h5 hv⟩,
    fun s i => ⟨exec_mboxGetPoisonList i s, fun dpa data sl logical h => exec_mboxClearPoison_queues s i h⟩⟩
  · rw [exec_mboxGetSupportedLogs, execMboxGetSupportedLogs, State.run_eq, celBytes_length]
    rfl
  · rw [← celBytes_length] at h
    refine ⟨_, ?_, exec_mboxGetLog_bytes s i h, fun k hk => ?_⟩
    · rw [List.length_take, List.length_drop]
      omega
    · rw [← celBytes_eq, List.getElem?_take_of_lt hk, List.getElem?_drop]

end Sys2Proof.Machine
end

section
/-!
O47: dynamic capacity of a port (spec/09 R375 to R382).
-/

namespace Sys2Proof.Machine

set_option Elab.async false

/-! ## What answers and compiles leave -/

theorem Part.only_askCompile (s : Part) (kind arg : Nat) : Part.only [.vint] s (s.askCompile kind arg) := by
  unfold Part.askCompile
  dsimp only
  refine Part.only_ite (Part.only_refl _ _) fun f hf => ?_
  cases f <;> first | rfl | simp at hf

theorem Part.granted_of_only {l : List PartField} {a b : Part} (h : Part.only l a b) (hl : PartField.slices ∉ l) (sl le : Nat) :
    b.granted sl le = a.granted sl le := by
  have same : b.slices = a.slices := h .slices hl
  rw [Part.granted, Part.slice, same]
  rfl

/-- A mailbox answer goes out; of the ports it leaves a pending vector at most. -/
theorem Part.mbox_spec (s : Part) (i code : Nat) (payload : List Nat) : Part.only [.ports, .out] s (s.mbox i code payload) ∧
    Part.keepsPorts s (s.mbox i code payload) ∧ .mailbox i code payload ∈ (s.mbox i code payload).out := by
  unfold Part.mbox
  dsimp only
  split
  · exact ⟨Part.only_mono (s.only_emit _) (by decide), s.keepsPorts_emit _, s.mem_emit _⟩
  · have signal := LogFrame.msix (s.emit (.mailbox i code payload)) i (((s.emit (.mailbox i code payload)).port i).mboxVector - 1)
    obtain ⟨l, sent⟩ := signal.sent
    refine ⟨Part.only_trans (Part.only_mono (s.only_emit _) (by decide)) (Part.only_msix _ _ _),
      Part.keepsPorts_trans (s.keepsPorts_emit _) (BundleFrame.of_log signal).ports, ?_⟩
    rw [sent]
    exact List.mem_append_left _ (s.mem_emit _)

/-- A change that leaves the pavilions' states retires none where none was RETIRING or FAILED. -/
theorem Part.retireEmpty_kept {s t : Part} (h : ∀ p < 8, s.pstate p ≠ 3 ∧ s.pstate p ≠ 5)
    (hk : ∀ p < 8, t.od .pavilionState p = s.od .pavilionState p) : t.retireEmpty = t :=
  Part.retireEmpty_none t fun p hp => by
    have same : t.pstate p = s.pstate p := hk p hp
    rw [same]
    exact h p hp

/-! ## DC_REQUEST -/

theorem bits_setBits {x v : Nat} (len : Nat) (hv : v < 2 ^ len) : bits (setBits x 0 len v) 0 len = v := by
  refine Nat.eq_of_testBit_eq fun k => ?_
  rw [bits, Nat.and_two_pow_sub_one_eq_mod, Nat.shiftRight_zero, Nat.testBit_mod_two_pow, setBits, bits]
  by_cases hk : k < len
  · simp [hk]
  · simp [hk, Nat.testBit_lt_two_pow (lt_of_lt_of_le hv (Nat.pow_le_pow_right (by decide) (Nat.not_lt.mp hk)))]

/-- The extents of a request. -/
def DcReq.exts (r : DcReq) : List Nat := (List.range r.count).map (r.first + ·)

theorem DcReq.mem_exts {r : DcReq} {le : Nat} : le ∈ r.exts ↔ r.first ≤ le ∧ le < r.first + r.count := by
  simp only [DcReq.exts, List.mem_map, List.mem_range]
  constructor
  · rintro ⟨k, hk, rfl⟩
    omega
  · intro h
    exact ⟨le - r.first, by omega, by omega⟩

theorem DcReq.forall_exts {r : DcReq} {p : Nat → Prop} (h : ∀ k < r.count, p (r.first + k)) : ∀ le ∈ r.exts, p le := by
  intro le hle
  obtain ⟨k, hk, rfl⟩ := List.mem_map.mp hle
  exact h k (List.mem_range.mp hk)

/-- A request past the checks of spec/09 R376 on its extents and its slice. -/
structure DcReq.Fits (r : DcReq) (s : Part) (i : Nat) : Prop where
  extent : (decide (r.count = 0) || decide (65536 < r.count) || decide (2 ^ 25 < r.first + r.count)) = false
  bound : s.boundPort r.slice = some i

theorem DcReq.fits_of {r : DcReq} {s : Part} {i : Nat} (h0 : 0 < r.count) (h1 : r.count ≤ 65536) (h2 : r.first + r.count ≤ 2 ^ 25)
    (hb : s.boundPort r.slice = some i) : r.Fits s i := ⟨by simp; omega, hb⟩

/-- A request that finds an operation in progress is refused (spec/09 R376). -/
theorem Part.dcRequest_busy {s : Part} {w : Who} {i x op : Nat} (hw : s.mayWrite w .dcRequest) (hs : s.od .dcState i ∈ [1, 2]) :
    s.dcRequest w i (setBits x 0 8 op) 16 = s.refuse rBusy := by
  obtain ⟨role, healthy⟩ := hw
  simp only [List.mem_cons, List.not_mem_nil, or_false] at hs
  rw [Part.dcRequest, writeChecks_takes role (by rfl) (by decide)]
  rcases hs with h | h <;> simp [healthy, h]

section
variable {s : Part} {w : Who} {i x : Nat} {r : DcReq} (hw : s.mayWrite w .dcRequest) (hs : s.od .dcState i = 0) (hf : r.Fits s i)
include hw hs hf

/-- The checks pass and the opcode decides. -/
theorem Part.dcRequest_add (hr : r = DcReq.decode (setBits x 0 8 1)) (hg : ∀ le ∈ r.exts, s.granted r.slice le = false) :
    s.dcRequest w i (setBits x 0 8 1) 16 = (s.dcAdd i r).ok := by
  have opcode : r.op = 1 := hr ▸ bits_setBits 8 (by decide)
  have fresh : (r.exts.any fun le => s.granted r.slice le) = false := by simpa using hg
  unfold DcReq.exts at fresh
  rw [Part.dcRequest, writeChecks_takes hw.1 (by rfl) (by decide)]
  simp only [hw.2, hs, ← hr, hf.bound, opcode, hf.extent, fresh, zero_ne_one, bne_self_eq_false, Bool.false_and, Bool.false_eq_true, if_false]

/-- The extents that a RELEASE asks of the host, with the operation that waits for them. -/
def Part.releaseAsked (s : Part) (i : Nat) (r : DcReq) : Part :=
  ((s.onPort i fun t => { t with dcOp := some ⟨r.slice, r.first, r.count, [], runsOf r.exts, 2⟩ }).setOd .dcState i 3).dcRecords i 1 r.slice
    (runsOf r.exts)

theorem Part.dcRequest_release (hr : r = DcReq.decode (setBits x 0 8 2)) (hg : ∀ le ∈ r.exts, s.granted r.slice le = true) :
    s.dcRequest w i (setBits x 0 8 2) 16 = (s.releaseAsked i r).ok := by
  have opcode : r.op = 2 := hr ▸ bits_setBits 8 (by decide)
  have granted : (r.exts.all fun le => s.granted r.slice le) = true := List.all_eq_true.mpr hg
  unfold DcReq.exts at granted
  rw [Part.dcRequest, writeChecks_takes hw.1 (by rfl) (by decide)]
  simp only [hw.2, hs, ← hr, hf.bound, opcode, hf.extent, granted, zero_ne_one, bne_self_eq_false, Bool.false_and, Bool.false_eq_true,
    if_false, Bool.not_true]
  rfl

/-- The operation in progress of a port is dropped. -/
def Part.opDropped (s : Part) (i : Nat) : Part := (s.onPort i fun t => { t with dcOp := none }).setOd .dcState i 0

/-- The operation in progress is dropped and the extents are released without the host. -/
def Part.forced (s : Part) (i : Nat) (r : DcReq) : Part := (s.opDropped i).forceRelease r.slice r.exts true

theorem Part.dcRequest_forceRelease (hr : r = DcReq.decode (setBits x 0 8 3)) (hg : ∀ le ∈ r.exts, s.granted r.slice le = true)
    (hn : ((s.forced i r).port i).releases = []) :
    s.dcRequest w i (setBits x 0 8 3) 16 = ((s.forced i r).setOd .dcResult i 6).ok := by
  have opcode : r.op = 3 := hr ▸ bits_setBits 8 (by decide)
  have granted : (r.exts.all fun le => s.granted r.slice le) = true := List.all_eq_true.mpr hg
  unfold Part.forced Part.opDropped DcReq.exts at hn
  unfold DcReq.exts at granted
  rw [Part.dcRequest, writeChecks_takes hw.1 (by rfl) (by decide)]
  simp only [hw.2, hs, ← hr, hf.bound, opcode, hf.extent, granted, hn, zero_ne_one, bne_self_eq_false, Bool.false_and, Bool.false_eq_true,
    if_false, Bool.not_true, List.any_nil]
  rfl

end

/-! ## What a request leaves -/

/-- An ADD whose regions have their entries asks for a compile (spec/09 R377). -/
theorem Part.dcAdd_mapped {s t : Part} {i : Nat} {r : DcReq} {taken : List Nat}
    (h : s.mapRegions i r.slice r.dc (((List.range r.count).map fun k => (r.first + k) / 512).eraseDups) = some (taken, t)) :
    s.dcAdd i r = ((t.onPort i fun p => { p with dcOp := some ⟨r.slice, r.first, r.count, taken, [], 1⟩ }).setOd .dcState i 1).ask
      ⟨0, [], none, .grant i, 0⟩ := by
  rw [Part.dcAdd]
  simp only [h]

/-- A RELEASE waits with its operation; the records leave all but logs, rings and vectors of the port. -/
theorem Part.releaseAsked_spec (s : Part) (i : Nat) (r : DcReq) : (s.releaseAsked i r).od .dcState i = 3 ∧
    ((s.releaseAsked i r).port i).dcOp = some ⟨r.slice, r.first, r.count, [], runsOf r.exts, 2⟩ ∧ (s.releaseAsked i r).slices = s.slices := by
  obtain ⟨only, ports⟩ := Part.dcRecords_spec
    ((s.onPort i fun t => { t with dcOp := some ⟨r.slice, r.first, r.count, [], runsOf r.exts, 2⟩ }).setOd .dcState i 3) i 1 r.slice (runsOf r.exts)
  refine ⟨?_, ?_, only .slices (by decide)⟩
  · rw [Part.releaseAsked, (Part.keepsOd_of_only (l := []) only (by decide)).od_eq (by simp), Part.od_setOd_val _ _ _ _ (by decide)]
  · rw [Part.releaseAsked, (Part.keepsDc_of_ports ports i).1, Part.setOd_port, Part.onPort_port_self]

/-- Extents that no DPA region maps are released at once, and a compile follows (spec/09 R381). -/
theorem Part.forceRelease_bare {s : Part} {sl : Nat} {exts : List Nat} (h : ∀ le ∈ exts, s.dpaExt (s.od .slicePort sl) sl le = none)
    (he : exts ≠ []) (asked : Bool) : s.forceRelease sl exts asked = (iter exts s fun s le => s.releaseExtent sl le).askCompile 0 := by
  have mapped : exts.filterMap (s.dpaExt (s.od .slicePort sl) sl) = [] := List.filterMap_eq_nil_iff.mpr h
  have bare : (exts.filter fun le => (s.dpaExt (s.od .slicePort sl) sl le).isNone) = exts :=
    List.filter_eq_self.mpr fun le hle => by rw [h le hle]; rfl
  have some_ : exts.isEmpty = false := by simpa using he
  rw [Part.forceRelease]
  simp only [mapped, bare, some_, List.isEmpty_nil, if_true, Bool.false_eq_true, if_false]

theorem Part.forced_spec {s : Part} {i : Port} {r : DcReq} (hc : 0 < r.count) (hsl : r.slice < 65536) (hb : s.boundPort r.slice = some i.val)
    (hm : ∀ le ∈ r.exts, s.regionEntry i r.slice (le / 512) = none) :
    (s.forced i r).od .dcState i = 0 ∧ ((s.forced i r).port i).releases = (s.port i).releases ∧
    (∀ p, (s.forced i r).od .pavilionState p = s.od .pavilionState p) ∧
    ∀ sl le, (s.forced i r).granted sl le = if sl = r.slice ∧ le ∈ r.exts then false else s.granted sl le := by
  have bound : s.od .slicePort r.slice = i := by
    unfold Part.boundPort at hb
    dsimp only at hb
    split at hb
    · exact Option.some.inj hb
    · cases hb
  have some_ : r.exts ≠ [] := List.ne_nil_of_mem (DcReq.mem_exts.mpr ⟨le_rfl, by omega⟩)
  have port : (s.opDropped i).port i = { s.port i with dcOp := none } := by rw [Part.opDropped, Part.setOd_port, Part.onPort_port_self]
  have other : ∀ e j, e ≠ .dcState → (s.opDropped i).od e j = s.od e j := fun e j he => Part.od_setOd_ne _ _ _ _ he.symm
  have bare : ∀ le ∈ r.exts, (s.opDropped i).dpaExt ((s.opDropped i).od .slicePort r.slice) r.slice le = none := fun le hle => by
    rw [other _ _ (by decide), bound, Part.dpaExt, Part.regionEntry, port]
    exact congrArg (Option.map _) (hm le hle)
  obtain ⟨only, od, granted⟩ := (s.opDropped i).releaseExtents_spec r.slice r.exts hsl
  unfold Part.forced
  rw [Part.forceRelease_bare bare some_]
  have all := Part.only_trans (Part.only_mono only (l' := .vint :: giveFields) (by decide))
    (Part.only_mono (Part.only_askCompile _ 0 0) (by decide))
  refine ⟨?_, ?_, fun p => ?_, fun sl le => ?_⟩
  · rw [Part.askCompile_od, od.od_eq (by decide)]
    exact Part.od_setOd_val _ _ _ _ (by decide)
  · rw [(Part.keepsDc_of_only all (by decide) i).2.1, port]
  · rw [Part.askCompile_od, od.od_eq (by decide), other _ _ (by decide)]
  · rw [Part.granted_of_only (Part.only_askCompile _ 0 0) (by decide), granted]
    rfl

/-! ## The host's answer to an offer -/

/-- What a host accepts of an offer: the logical extents of the DPA extents that it names. -/
def Part.acceptedOf (s : Part) (i : Nat) (xs : List Nat) : List Nat := (xs.map (s.extOfDpa i)).filterMap fun e => e.map (·.2)

/-- The result of a response: none, all or some of the offer (spec/09 R376). -/
def DcOp.resultOf (op : DcOp) (acc : List Nat) : Nat := if acc.isEmpty then 3 else if op.offered.all fun le => acc.contains le then 1 else 2

section
variable {s : Part} {i : Nat} {op : DcOp} {xs : List Nat} (hx : ∀ x ∈ xs, ∃ le ∈ op.offered, s.extOfDpa i x = some (op.slice, le))
include hx

theorem Part.mem_acceptedOf {le : Nat} : le ∈ s.acceptedOf i xs ↔ ∃ x ∈ xs, s.extOfDpa i x = some (op.slice, le) := by
  simp only [Part.acceptedOf, List.mem_filterMap, List.mem_map, Option.map_eq_some_iff]
  constructor
  · rintro ⟨e, ⟨x, hmem, rfl⟩, ⟨sl, le'⟩, he, rfl⟩
    obtain ⟨l, -, hl⟩ := hx x hmem
    refine ⟨x, hmem, ?_⟩
    rw [hl] at he ⊢
    cases he
    rfl
  · rintro ⟨x, hmem, he⟩
    exact ⟨_, ⟨x, hmem, rfl⟩, (op.slice, le), he, rfl⟩

theorem Part.acceptedOf_nil : s.acceptedOf i xs = [] ↔ xs = [] := by
  constructor
  · intro h
    refine List.eq_nil_iff_forall_not_mem.mpr fun x hmem => ?_
    obtain ⟨le, -, hle⟩ := hx x hmem
    have : le ∈ s.acceptedOf i xs := (Part.mem_acceptedOf hx).mpr ⟨x, hmem, hle⟩
    rw [h] at this
    cases this
  · rintro rfl
    rfl

theorem Part.resultOf_acceptedOf : op.resultOf (s.acceptedOf i xs) =
    if xs = [] then 3 else if ∀ le ∈ op.offered, ∃ x ∈ xs, s.extOfDpa i x = some (op.slice, le) then 1 else 2 := by
  simp only [DcOp.resultOf, List.isEmpty_iff, Part.acceptedOf_nil hx, List.all_eq_true, List.contains_iff_mem, Part.mem_acceptedOf hx]

theorem Part.addDcResponse_taken {runs : List (Nat × Nat)} (ho : (s.port i).dcOp = some op) (h2 : s.od .dcState i = 2)
    (hr : dpaExts runs = some xs) :
    s.addDcResponse i runs = (s.endOffer i op (s.acceptedOf i xs) (op.resultOf (s.acceptedOf i xs))).mbox i mbSuccess [] := by
  have good : ((xs.map (s.extOfDpa i)).any fun e => match e with
      | some (sl, le) => sl != op.slice || !op.offered.contains le
      | none => true) = false := by
    refine List.any_eq_false.mpr fun e he => ?_
    obtain ⟨x, hmem, rfl⟩ := List.mem_map.mp he
    obtain ⟨le, hle, hxe⟩ := hx x hmem
    rw [hxe]
    simp [hle]
  rw [Part.addDcResponse]
  simp only [ho, hr, h2, bne_self_eq_false, Bool.false_eq_true, if_false]
  rw [if_neg (by rw [Bool.not_eq_true]; exact good)]
  rfl

end

/-- An offer that no response ended in time: a record follows its end (spec/09 R378). -/
theorem Part.dcOfferTimeout_ends {s : Part} {i : Nat} {op : DcOp} (ho : (s.port i).dcOp = some op) (h2 : s.od .dcState i = 2) :
    ∃ a b, s.dcOfferTimeout i = ((s.endOffer i op [] 4).vendorEvent i logWarning 0x1204 (some op.slice) (portPav i) ones64 ones64 a b).logEv 0x1204 a b
      (some op.slice) (portPav i) := by
  refine ⟨if op.kind = 4 then 0 else op.offered.length, (s.port i).dcGrant, ?_⟩
  rw [Part.dcOfferTimeout]
  simp only [ho, h2, bne_self_eq_false, Bool.false_eq_true, if_false]

/-- What follows the end of an offer leaves its result, its operation and the grants. -/
structure OfferTail (a b : Part) : Prop where
  od : Part.keepsOd [.ringState] a b
  ports : Part.keepsPorts a b
  slices : b.slices = a.slices

theorem OfferTail.mbox (s : Part) (i code : Nat) (payload : List Nat) : OfferTail s (s.mbox i code payload) := by
  obtain ⟨only, ports, -⟩ := s.mbox_spec i code payload
  exact ⟨Part.keepsOd_of_only only (by decide), ports, only .slices (by decide)⟩

theorem OfferTail.record (s : Part) (i log code va vb : Nat) (sl : Option Nat) (pav : Nat) :
    OfferTail s ((s.vendorEvent i log code sl pav ones64 ones64 va vb).logEv code va vb sl pav) where
  od := Part.keepsOd_trans (Part.keepsOd_of_only (s.only_vendorEvent _ _ _ _ _ _ _ _ _ _) (by decide)) (Part.keepsOd_logEv _ _ _ _ _ _)
  ports := Part.keepsPorts_trans (s.keepsPorts_eventRec _ _ _) (BundleFrame.of_log (.logEv _ _ _ _ _ _)).ports
  slices := (Part.logEv_slices _ _ _ _ _ _).trans (s.only_vendorEvent _ _ _ _ _ _ _ _ _ _ .slices (by decide))

/-- The end of an offer and what follows it, where no pavilion may become RETIRED. -/
theorem Part.offerEnded_spec {s t : Part} {i : Port} {op : DcOp} {acc : List Nat} {result : Nat} (hs : op.slice < 4096) (hk : op.kind ≠ 4)
    (hr : result < 256) (hp : ∀ p < 8, s.pstate p ≠ 3 ∧ s.pstate p ≠ 5) (ht : OfferTail (s.endOffer i op acc result) t) :
    t.retireEmpty = t ∧ t.od .dcState i = 0 ∧ t.od .dcResult i = result ∧ (t.port i).dcOp = none ∧
    ∀ sl le, t.granted sl le = if sl = op.slice ∧ le ∈ op.offered ∧ le ∉ acc then false else s.granted sl le := by
  obtain ⟨state, res, none, od, granted⟩ := s.endOffer_spec i op acc result (by omega) (by omega) hr hk
  refine ⟨Part.retireEmpty_kept hp fun p hp8 => ?_, ?_, ?_, ?_, fun sl le => ?_⟩
  · rw [ht.od.od_eq (by decide), od _ _ (by decide) (by decide) (by decide) (by omega)]
  · rw [ht.od.od_eq (by decide), state]
  · rw [ht.od.od_eq (by decide), res]
  · rw [(Part.keepsDc_of_ports ht.ports i).1, none]
  · rw [← granted, Part.granted, Part.slice, ht.slices]
    rfl

/-! ## Release Dynamic Capacity -/

/-- Clearing mask bits clears those of the extents named, and touches no operation (spec/09 R380). -/
theorem Part.masksCleared_spec (i : Nat) (xs : List Nat) (s : Part) : Part.only [.ports] s (iter xs s fun s x => s.setMask i x false) ∧
    Part.keepsDc s (iter xs s fun s x => s.setMask i x false) ∧
    ∀ y, (iter xs s fun s x => s.setMask i x false).maskBit i y = if y ∈ xs then false else s.maskBit i y := by
  refine ⟨Part.only_iter (fun s x => s.only_setMask i x false) xs s, Part.keepsDc_iter (fun s x => s.keepsDc_setMask i x false) xs s, ?_⟩
  induction xs generalizing s with
  | nil => intro y; simp [iter]
  | cons x xs ih =>
    intro y
    refine (ih (s.setMask i x false) y).trans ?_
    rw [Part.maskBit_setMask]
    by_cases hy : y ∈ xs
    · simp [hy]
    · by_cases hx : y = x <;> simp [hy, hx]

theorem exec_releaseDc_begins {s : State} {i : Port} {runs : List (Nat × Nat)} {xs : List Nat} (hb : (s.part.port i).mboxBusy = none)
    (hr : dpaExts runs = some xs) (hx : xs ≠ []) (hm : ∀ x ∈ xs, s.part.maskBit i x = true) :
    exec (.releaseDc i runs) s = .next (s.withPart
      ((s.part.onPort i fun t => { t with mboxBusy := some 0x4803 }).beginRelease i ⟨xs, false, false⟩)) := by
  have accepted : (xs.isEmpty || !(xs.all fun x => s.part.maskBit i x)) = false := by
    rw [List.all_eq_true.mpr hm]
    simpa using hx
  rw [exec_releaseDc, execReleaseDc, State.run_eq]
  simp only [hb, hr, accepted, Option.isSome_none, Bool.false_eq_true, if_false]

theorem Part.beginRelease_spec (s : Part) (i : Nat) (r : Release) : Part.only [.ports] s (s.beginRelease i r) ∧
    ((s.beginRelease i r).port i).mboxBusy = (s.port i).mboxBusy ∧ ((s.beginRelease i r).port i).releases = (s.port i).releases ++ [r] ∧
    ∀ y, (s.beginRelease i r).maskBit i y = if y ∈ r.extents then false else s.maskBit i y := by
  obtain ⟨only, dc, mask⟩ := Part.masksCleared_spec i r.extents s
  obtain ⟨-, releases, busy⟩ := dc i
  unfold Part.beginRelease
  dsimp only
  rw [Part.onPort_port_self]
  refine ⟨Part.only_trans only (Part.only_onPort _ _ _), busy, congrArg (· ++ [r]) releases, fun y => ?_⟩
  rw [← mask, Part.maskBit, Part.onPort_port_self]
  rfl

/-- The extents of a release are given back, and a compile follows (spec/09 R380, step 3). -/
def Part.released (s : Part) (i : Nat) (r : Release) : Part :=
  ((s.onPort i fun t => { t with releases := t.releases.filter (· != r) }).releaseDpa i r.extents).askCompile 0

theorem Part.released_spec (s : Part) (i : Port) (r : Release) (hr : (s.port i).releases = [r]) :
    ((s.released i r).port i).dcOp = (s.port i).dcOp ∧ ((s.released i r).port i).releases = [] ∧
    ((s.released i r).port i).mboxBusy = (s.port i).mboxBusy ∧ (∀ p, (s.released i r).od .pavilionState p = s.od .pavilionState p) ∧
    ∀ sl le, (s.released i r).granted sl le = if ∃ x ∈ r.extents, s.extOfDpa i x = some (sl, le) then false else s.granted sl le := by
  have port : (s.onPort i fun t => { t with releases := t.releases.filter (· != r) }).port i = { s.port i with releases := [] } := by
    rw [Part.onPort_port_self, hr]
    simp
  obtain ⟨dc, od, -, granted⟩ := (s.onPort i fun t => { t with releases := t.releases.filter (· != r) }).releaseDpa_spec i r.extents (by omega)
  have same : ∀ x, (s.onPort i fun t => { t with releases := t.releases.filter (· != r) }).extOfDpa i x = s.extOfDpa i x := fun x => by
    rw [Part.extOfDpa, port]
    rfl
  obtain ⟨op, releases, busy⟩ := Part.keepsDc_trans dc (Part.keepsDc_of_only (Part.only_askCompile _ 0 0) (by decide)) i
  rw [port] at op releases busy
  refine ⟨op, releases, busy, fun p => ?_, fun sl le => ?_⟩
  · rw [Part.released, Part.askCompile_od, od.od_eq (by decide), Part.onPort_od]
  · rw [Part.released, Part.granted_of_only (Part.only_askCompile _ 0 0) (by decide), granted]
    simp only [same]
    rfl

/-- The last release of a port is carried out and its mailbox command answered (spec/09 R380, step 4). -/
theorem Part.drainReleases_answers {s : Part} {i : Port} {r : Release} (hr : (s.port i).releases = [r]) (hf : r.forced = false)
    (hd : s.decodedInto i r.extents = false) (hb : (s.port i).mboxBusy = some 0x4803) (ho : (s.port i).dcOp = none) :
    s.drainReleases i = ((s.released i r).onPort i fun t => { t with mboxBusy := none }).mbox i mbSuccess [] := by
  obtain ⟨op, -, busy, -, -⟩ := s.released_spec i r hr
  have quiet : (((s.released i r).onPort i fun t => { t with mboxBusy := none }).mbox i mbSuccess []).endAsked i =
      ((s.released i r).onPort i fun t => { t with mboxBusy := none }).mbox i mbSuccess [] := by
    have none : ((((s.released i r).onPort i fun t => { t with mboxBusy := none }).mbox i mbSuccess []).port i).dcOp = none := by
      rw [(Part.keepsDc_of_ports (Part.mbox_spec _ i mbSuccess []).2.1 i).1, Part.onPort_port_self]
      exact op.trans ho
    rw [Part.endAsked, none]
  unfold Part.released at busy quiet
  rw [Part.drainReleases, hr]
  simp only [iter, List.foldl, hd, hf, busy, hb, Bool.false_eq_true, if_false, if_true]
  exact quiet

/-! ## The clauses -/

theorem DcReq.slice_lt (x : Nat) : (DcReq.decode x).slice < 4096 := bits_lt _ _ _

section
variable {s : State} {w : Who} {i : Port} {x : BitVec 128} {r : DcReq} (hw : s.part.mayWrite w .dcRequest)
include hw

/-- An accepted ADD (spec/09 R377). -/
theorem exec_dcRequestAdd_maps (hs : s.part.od .dcState i = 0) (hf : r.Fits s.part i)
    (hr : r = DcReq.decode (setBits x.toNat 0 8 1)) (hg : ∀ k < r.count, s.part.granted r.slice (r.first + k) = false) {taken : List Nat}
    {t : Part} (hm : s.part.mapRegions i r.slice r.dc (((List.range r.count).map fun k => (r.first + k) / 512).eraseDups) = some (taken, t)) :
    ∃ q : Part, exec (.dcRequestAdd w i x) s = .next (s.withPart q) ∧ q.od .dcState i = 1 ∧
      (q.port i).dcOp = some ⟨r.slice, r.first, r.count, taken, [], 1⟩ ∧ (q.port i).regionMap = (t.port i).regionMap ∧
      q.vint.queue = s.part.vint.queue ++ [⟨0, [], none, .grant i, 0⟩] ∧ q.slices = s.part.slices ∧ q.out = s.part.out ++ [.answer w rOk []] := by
  have only := Part.only_mapRegions _ _ _ _ _ hm
  have port : ((t.onPort i fun p => { p with dcOp := some ⟨r.slice, r.first, r.count, taken, [], 1⟩ }).setOd .dcState i 1).port i =
      { t.port i with dcOp := some ⟨r.slice, r.first, r.count, taken, [], 1⟩ } := by rw [Part.setOd_port, Part.onPort_port_self]
  have vint : t.vint = s.part.vint := only .vint (by decide)
  refine ⟨(s.part.dcAdd i r).emit (.answer w rOk []), ?_, ?_⟩
  · rw [exec_dcRequestAdd, execDcRequestAdd, State.run_eq, Part.dcRequest_add hw hs hf hr (DcReq.forall_exts hg), Reply.answer_ok]
  · rw [Part.dcAdd_mapped hm]
    refine ⟨?_, ?_, ?_, ?_, only .slices (by decide), ?_⟩
    · exact Part.od_setOd_val _ .dcState i 1 (by decide)
    · exact congrArg (·.dcOp) port
    · exact congrArg (·.regionMap) port
    · rw [← vint]
      rfl
    · rw [← only .out (by decide)]
      rfl

/-- An accepted RELEASE (spec/09 R379). -/
theorem exec_dcRequestRelease_waits (hs : s.part.od .dcState i = 0) (hf : r.Fits s.part i)
    (hr : r = DcReq.decode (setBits x.toNat 0 8 2)) (hg : ∀ k < r.count, s.part.granted r.slice (r.first + k) = true) :
    ∃ q : Part, exec (.dcRequestRelease w i x) s = .next (s.withPart q) ∧ q.od .dcState i = 3 ∧
      (∃ runs, (q.port i).dcOp = some ⟨r.slice, r.first, r.count, [], runs, 2⟩) ∧ q.slices = s.part.slices := by
  obtain ⟨state, op, slices⟩ := s.part.releaseAsked_spec i r
  refine ⟨(s.part.releaseAsked i r).emit (.answer w rOk []), ?_, state, ⟨_, op⟩, slices⟩
  rw [exec_dcRequestRelease, execDcRequestRelease, State.run_eq, Part.dcRequest_release hw hs hf hr (DcReq.forall_exts hg), Reply.answer_ok]

/-- A FORCE_RELEASE of extents that the host has no region for (spec/09 R381). -/
theorem exec_dcRequestForceRelease_bare (hs : s.part.od .dcState i = 0) (hf : r.Fits s.part i)
    (hc : 0 < r.count) (hr : r = DcReq.decode (setBits x.toNat 0 8 3)) (hg : ∀ k < r.count, s.part.granted r.slice (r.first + k) = true)
    (hm : ∀ k < r.count, s.part.regionEntry i r.slice ((r.first + k) / 512) = none) (hn : (s.part.port i).releases = [])
    (hp : ∀ p < 8, s.part.pstate p ≠ 3 ∧ s.part.pstate p ≠ 5) :
    ∃ q : Part, exec (.dcRequestForceRelease w i x) s = .next (s.withPart q) ∧ q.od .dcState i = 0 ∧ q.od .dcResult i = 6 ∧
      ∀ sl le, q.granted sl le = if sl = r.slice ∧ r.first ≤ le ∧ le < r.first + r.count then false else s.part.granted sl le := by
  have small : r.slice < 4096 := hr ▸ DcReq.slice_lt _
  obtain ⟨state, releases, pavs, granted⟩ := Part.forced_spec hc (by omega) hf.bound (DcReq.forall_exts hm)
  refine ⟨((s.part.forced i r).setOd .dcResult i 6).emit (.answer w rOk []), ?_, ?_, Part.od_setOd_val _ .dcResult i 6 (by decide), fun sl le => ?_⟩
  · rw [exec_dcRequestForceRelease, execDcRequestForceRelease, State.run_eq,
      Part.dcRequest_forceRelease hw hs hf hr (DcReq.forall_exts hg) (releases.trans hn), Reply.answer_ok,
      Part.retireEmpty_kept hp fun p _ => ?_]
    rw [Part.emit_od, Part.od_setOd_ne _ _ _ _ (by decide), pavs]
  · rw [Part.emit_od, Part.od_setOd_ne _ _ _ _ (by decide), state]
  · simp only [← DcReq.mem_exts]
    exact granted sl le

/-- A request of a port whose operation is COMPILING or OFFERED (spec/09 R376). -/
theorem exec_dcRequest_busy (hs : s.part.od .dcState i ∈ [1, 2]) :
    ∀ c ∈ [Instr.dcRequestAdd w i x, .dcRequestRelease w i x], exec c s = .next (s.withPart (s.part.emit (.answer w rBusy []))) := by
  intro c hc
  simp only [List.mem_cons, List.not_mem_nil, or_false] at hc
  rcases hc with rfl | rfl
  · rw [exec_dcRequestAdd, execDcRequestAdd, State.run_eq, Part.dcRequest_busy hw hs, Reply.answer_refuse]
  · rw [exec_dcRequestRelease, execDcRequestRelease, State.run_eq, Part.dcRequest_busy hw hs, Reply.answer_refuse]

end

section
variable {s : State} {i : Port} {op : DcOp} (ho : (s.part.port i).dcOp = some op) (hsl : op.slice < 4096)
  (h2 : s.part.od .dcState i = 2) (hk : op.kind ≠ 4) (hp : ∀ p < 8, s.part.pstate p ≠ 3 ∧ s.part.pstate p ≠ 5)
include ho hsl h2 hk hp

/-- A response that names extents of the offer (spec/09 R377, step 5). -/
theorem exec_addDcResponse_ends {runs : List (Nat × Nat)} {xs : List Nat} (hr : dpaExts runs = some xs)
    (hx : ∀ x ∈ xs, ∃ le ∈ op.offered, s.part.extOfDpa i x = some (op.slice, le)) :
    ∃ q : Part, exec (.addDcResponse i runs) s = .next (s.withPart q) ∧ q.od .dcState i = 0 ∧ (q.port i).dcOp = none ∧
      q.od .dcResult i = (if xs = [] then 3 else if ∀ le ∈ op.offered, ∃ x ∈ xs, s.part.extOfDpa i x = some (op.slice, le) then 1 else 2) ∧
      ∀ sl le, q.granted sl le = if sl = op.slice ∧ le ∈ op.offered ∧ ¬ ∃ x ∈ xs, s.part.extOfDpa i x = some (op.slice, le)
        then false else s.part.granted sl le := by
  have small : op.resultOf (s.part.acceptedOf i xs) < 256 := by
    unfold DcOp.resultOf
    split_ifs <;> decide
  obtain ⟨still, state, result, none, granted⟩ := Part.offerEnded_spec hsl hk small hp (OfferTail.mbox _ i mbSuccess [])
  refine ⟨_, ?_, state, none, result.trans (Part.resultOf_acceptedOf hx), fun sl le => ?_⟩
  · rw [exec_addDcResponse, execAddDcResponse, State.run_eq, Part.addDcResponse_taken hx ho h2 hr, still]
  · simp only [granted, Part.mem_acceptedOf hx]

/-- An offer without a response in time (spec/09 R378). -/
theorem exec_dcOfferTimeout_ends : ∃ q : Part, exec (.dcOfferTimeout i) s = .next (s.withPart q) ∧ q.od .dcState i = 0 ∧
    q.od .dcResult i = 4 ∧ (q.port i).dcOp = none ∧
    ∀ sl le, q.granted sl le = if sl = op.slice ∧ le ∈ op.offered then false else s.part.granted sl le := by
  obtain ⟨a, b, ends⟩ := Part.dcOfferTimeout_ends ho h2
  obtain ⟨still, state, result, none, granted⟩ := Part.offerEnded_spec (acc := []) hsl hk (by decide : 4 < 256) hp (OfferTail.record _ i _ _ a b _ _)
  refine ⟨_, ?_, state, result, none, fun sl le => ?_⟩
  · rw [exec_dcOfferTimeout, execDcOfferTimeout, State.run_eq, ends, still]
  · rw [granted]
    simp

end

/-- A release that begins (spec/09 R380, steps 1 and 2). -/
theorem exec_releaseDc_waits {s : State} {i : Port} {runs : List (Nat × Nat)} {xs : List Nat} (hb : (s.part.port i).mboxBusy = none)
    (hr : dpaExts runs = some xs) (hx : xs ≠ []) (hm : ∀ x ∈ xs, s.part.maskBit i x = true) :
    ∃ q : Part, exec (.releaseDc i runs) s = .next (s.withPart q) ∧ (q.port i).mboxBusy = some 0x4803 ∧
      (q.port i).releases = (s.part.port i).releases ++ [⟨xs, false, false⟩] ∧
      (∀ x, q.maskBit i x = if x ∈ xs then false else s.part.maskBit i x) ∧ Part.only [.ports] s.part q := by
  have port := Part.onPort_port_self s.part i fun t => { t with mboxBusy := some 0x4803 }
  obtain ⟨only, busy, releases, mask⟩ := (s.part.onPort i fun t => { t with mboxBusy := some 0x4803 }).beginRelease_spec i ⟨xs, false, false⟩
  rw [port] at busy releases
  refine ⟨_, exec_releaseDc_begins hb hr hx hm, busy, releases, fun x => ?_, Part.only_trans (Part.only_onPort _ _ _) only⟩
  rw [mask, Part.maskBit, port]
  rfl

/-- The last release that drains (spec/09 R380, steps 3 and 4). -/
theorem exec_dcReleaseDrained_answers {s : State} {i : Port} {r : Release} (hr : (s.part.port i).releases = [r]) (hf : r.forced = false)
    (hd : s.part.decodedInto i r.extents = false) (hb : (s.part.port i).mboxBusy = some 0x4803) (ho : (s.part.port i).dcOp = none)
    (hp : ∀ p < 8, s.part.pstate p ≠ 3 ∧ s.part.pstate p ≠ 5) :
    ∃ q : Part, exec (.dcReleaseDrained i) s = .next (s.withPart q) ∧ (q.port i).releases = [] ∧ (q.port i).mboxBusy = none ∧
      .mailbox i mbSuccess [] ∈ q.out ∧
      ∀ sl le, q.granted sl le = if ∃ x ∈ r.extents, s.part.extOfDpa i x = some (sl, le) then false else s.part.granted sl le := by
  have port := Part.onPort_port_self (s.part.released i r) i fun t => { t with mboxBusy := none }
  obtain ⟨-, releases, -, pavs, granted⟩ := s.part.released_spec i r hr
  obtain ⟨only, ports, answer⟩ := ((s.part.released i r).onPort i fun t => { t with mboxBusy := none }).mbox_spec i mbSuccess []
  obtain ⟨-, left, free⟩ := Part.keepsDc_of_ports ports i
  rw [port] at left free
  refine ⟨_, ?_, left.trans releases, free, answer, fun sl le => ?_⟩
  · rw [exec_dcReleaseDrained, execDcReleaseDrained, State.run_eq, Part.drainReleases_answers hr hf hd hb ho, Part.retireEmpty_kept hp fun p _ => ?_]
    rw [(Part.keepsOd_of_only (l := []) only (by decide)).od_eq (by simp), Part.onPort_od, pavs]
  · rw [Part.granted_of_only only (by decide), ← granted]
    rfl

/-- Settles O47: a request by its opcode past the checks, an offer by its end, a release by its masks and its drain. -/
theorem dynamicCapacity : Obligations.DynamicCapacity := by
  intro s i
  refine ⟨fun w x r hw h0 h1 h2 hb hs => ?_, fun w x hw hs => exec_dcRequest_busy hw hs,
    fun op ho hsl h2 hk hp => ⟨fun runs xs hr hx => exec_addDcResponse_ends ho hsl h2 hk hp hr hx, exec_dcOfferTimeout_ends ho hsl h2 hk hp⟩,
    fun runs xs hb hr hx hm => exec_releaseDc_waits hb hr hx hm, fun r hr hf hd hb ho hp => exec_dcReleaseDrained_answers hr hf hd hb ho hp,
    exec_mboxGetDcExtentList i s⟩
  have fits := DcReq.fits_of h0 h1 h2 hb
  exact ⟨fun hr hg taken t hm => exec_dcRequestAdd_maps hw hs fits hr hg hm, fun hr hg => exec_dcRequestRelease_waits hw hs fits hr hg,
    fun hr hg hm hn hp => exec_dcRequestForceRelease_bare hw hs fits h0 hr hg hm hn hp⟩

end Sys2Proof.Machine
end

section
/-!
O52: what a new request of a session leaves (spec/11 R439, R453, spec/00 R13).
-/

namespace Sys2Proof.Machine

set_option Elab.async false

/-- A session that takes a new request: the time of the request is noted, which ends its idle time anew (spec/00 R13). -/
def Part.noted (s : Part) (t : Transport) (k : Nat) (f : Frame) : Part :=
  ((s.onSess k fun q => { q with usedAt := s.now + 1 }).setOd .sessionLastSequence k f.sequence).onSess k fun q =>
    { q with request := some f, answer := none, executing := true, origin := t }

/-- A request with checks 1 to 3 passed runs (spec/11 R439, R453). -/
theorem Part.sessionFrame_new {s : Part} {k : Nat} {f : Frame} (h : s.newTo k f) (t : Transport) :
    s.sessionFrame t f = (s.noted t k f).runRequest t k f := by
  obtain ⟨nonzero, rfl, isOpen, id, auth, fresh, notLast, idle, -⟩ := h
  have executes : (((s.onSess (f.session % 32) fun q => { q with usedAt := s.now + 1 }).setOd .sessionLastSequence (f.session % 32)
      f.sequence).sess (f.session % 32)).executing = false := by
    rw [Part.setOd_sess, Part.onSess_sess_self]
    exact idle
  have later : f.sequence ≠ 2 ^ 64 - 1 := by omega
  rw [Part.sessionFrame]
  simp only [Part.onSess_od, nonzero, isOpen, id, ← auth, fresh, decide_false, Bool.not_true, bne_self_eq_false, Bool.or_self,
    Bool.false_eq_true, if_false, if_true]
  rw [Part.newRequest]
  simp only [executes, later, Bool.false_eq_true, if_false]
  rfl

/-- A KEEPALIVE over Ethernet is answered. -/
theorem exec_vopKeepalive_ethernet {s : State} {a u k : Nat} {f : Frame} (hh : s.part.hears (.ethernet a u) f) (hn : s.part.newTo k f)
    (ho : f.opcode = 0x03) (hr : s.part.rest.inRest = false) :
    exec (.vopKeepalive (.ethernet a u) f) s = .next (s.withPart ((s.part.noted (.ethernet a u) k f).respondCode k rOk)) := by
  obtain ⟨listens, free, fits, up⟩ := hh
  obtain ⟨-, -, -, -, -, -, -, -, form⟩ := id hn
  have kind : f.kind = 0 := by
    by_contra h
    simp [formRefusal, h] at form
  have row : rowFrame 0x03 f = true := by simp [rowFrame, kind, ho]
  have short : ¬ frameLimit (.ethernet a u) < f.payloadLen + 64 := Nat.not_lt.mpr fits
  have runs : s.part.handleFrame (.ethernet a u) f = (s.part.noted (.ethernet a u) k f).respondCode k rOk := by
    unfold Part.handleFrame
    simp [kind, ho, Part.sessionFrame_new hn, Part.runRequest, form]
  rw [exec_vopKeepalive, execVopKeepalive, State.run_eq, Part.arriveAs, row, if_pos rfl, Part.arrive, Part.arriveEthernet]
  simp [up, kind, short, hr, listens, Part.gateTake, free, runs]

/-- An answer over Ethernet leaves the time of the session's last request. -/
theorem Part.respondCode_usedAt {s : Part} {k a u : Nat} (h : (s.sess k).origin = .ethernet a u) (code : Nat) :
    ((s.respondCode k code).sess k).usedAt = (s.sess k).usedAt := by
  rw [Part.respondCode, Part.respondSession]
  cases (s.sess k).request with
  | none => rfl
  | some r => simp only [h, Part.sendFrame, Part.emit_sess, Part.onSess_sess_self]

/-- A signed frame carries its own code. -/
theorem frameSign_auth (g : Frame) (key : Nat) : (frameSign g key).auth = frameMac (frameSign g key) key := rfl

/-- After reset the gatehouse listens, the management port is up, and a session is open in slot 0 with SESSION 32 and key 9. -/
def sessionZeroOpen : State := State.reset.withPart ((((State.reset.part.setOd .bootState 0 13).setOd .mgmtLinkState 0 1).setOd .sessionId 0 32).onSess 0
  fun q => { q with isOpen := true, key := 9 })

/-- The first KEEPALIVE of that session, signed with its key. -/
def firstKeepalive : Frame := frameSign ⟨1, 32, 0, 0, 0, 0, 0, 0, 0x03, 0, 0, 0, 0x56, 1, 0, 0, 0⟩ 9

/-- Refutes O52: a KEEPALIVE answered at time 0 also notes the time of the request, 1, where 0 stood. -/
theorem not_sessionRequests : ¬ Obligations.SessionRequests := by
  intro h
  have hears : sessionZeroOpen.part.hears (.ethernet 1 2) firstKeepalive := ⟨by decide, by decide, by decide, by decide⟩
  have new : sessionZeroOpen.part.newTo 0 firstKeepalive :=
    ⟨by decide, rfl, by decide, by decide, frameSign_auth _ 9, by decide, by decide, by decide, by decide⟩
  obtain ⟨answered, -⟩ := h sessionZeroOpen (.ethernet 1 2) 0 firstKeepalive _ hears new rfl
  obtain ⟨q, ran, r, -, session, -⟩ := answered rfl _ (.inl rfl)
  have same : sessionZeroOpen.withPart ((sessionZeroOpen.part.noted (.ethernet 1 2) 0 firstKeepalive).respondCode 0 rOk) =
      sessionZeroOpen.withPart q := Host.Outcome.next.inj ((exec_vopKeepalive_ethernet hears new rfl rfl).symm.trans ran)
  have part : q = (sessionZeroOpen.part.noted (.ethernet 1 2) 0 firstKeepalive).respondCode 0 rOk := (congrArg State.part same).symm
  have noted : (q.sess 0).usedAt = 1 := by
    rw [part, Part.respondCode_usedAt (by rw [Part.noted, Part.onSess_sess_self]), Part.noted, Part.onSess_sess_self, Part.setOd_sess,
      Part.onSess_sess_self]
    rfl
  have kept : (q.sess 0).usedAt = 0 := by
    rw [session, Part.takes, Part.onSess_sess_self, Part.setOd_sess]
    rfl
  omega

end Sys2Proof.Machine
end

section
/-!
O50: the life of a slice (spec/10 R397, R398).
-/

namespace Sys2Proof.Machine

set_option Elab.async false

/-- START of a STOPPED slice whose active key set is not held by every pavilion in service is refused (spec/04 R152). -/
theorem exec_sliceStart_keyAway {s : State} {w : Who} {sl : Slice} (hw : s.part.mayWrite w .sliceCommand) (h1 : s.part.od .sliceState sl = 1)
    (hk : s.part.keyHeld sl = false) :
    exec (.sliceStart w sl) s = .next (s.withPart (s.part.emit (.answer w rCondition []))) := by
  have refused : s.part.startRefusal sl = some rCondition := by simp [Part.startRefusal, h1, hk]
  rw [exec_sliceStart, execSliceStart, State.run_eq, Part.sliceCommand, Part.command_eq _ _ _ hw (by decide) (by simp)]
  simp [h1, Part.startSlice, refused]

/-- An operator stands at the monitor, pavilion 0 is in service, and slice 0 is STOPPED. -/
def sliceZeroStopped : Part := ((Part.reset.setOd .monitorRole 0 2).setOd .pavilionState 0 1).setOd .sliceState 0 1

/-- A key set has gone into slot 0 of slice 0 and is on its way to the key cache of pavilion 0. -/
def sliceZeroKeyed : State := State.reset.withPart (sliceZeroStopped.fillSlot0 0 (1, 2, 3))

/-- Refutes O50: a slice with a live key set that a key cache does not hold yet has no handle, and its START is refused (R152, R397): the slice
stays STOPPED, where the statement has it RUNNING. -/
theorem not_sliceLifecycle : ¬ Obligations.SliceLifecycle := by
  intro h
  have may : sliceZeroKeyed.part.mayWrite .monitor .sliceCommand := ⟨by decide, by decide⟩
  have stopped : sliceZeroKeyed.part.od .sliceState (0 : Slice) = 1 := by decide
  have live : sliceZeroKeyed.part.hasKey (0 : Slice) = true := by decide
  have away : sliceZeroKeyed.part.keyHeld (0 : Slice) = false := by decide
  obtain ⟨commands, -⟩ := h sliceZeroKeyed .monitor 0
  obtain ⟨-, start, -⟩ := commands may
  obtain ⟨-, runs⟩ := start stopped live (by decide) (by decide) (by decide)
  obtain ⟨q, ran, running, -⟩ := runs (by decide)
  have part : sliceZeroKeyed.part.emit (.answer .monitor rCondition []) = q :=
    congrArg State.part (Host.Outcome.next.inj ((exec_sliceStart_keyAway may stopped away).symm.trans ran))
  rw [← part, Part.emit_od, stopped] at running
  contradiction

end Sys2Proof.Machine
end

section
/-!
O51: migration bundles and the doorbells of the tenant page (spec/10 R407, R416, R421, R425, R426).
-/

namespace Sys2Proof.Machine

set_option Elab.async false

/-! ## Dirty marks (spec/10 R416) -/

theorem Part.only_markExt (s : Part) (sl le : Nat) (on : Bool) : Part.only [.pavs] s (s.markExt sl le on) := by
  unfold Part.markExt
  split
  · exact s.only_onPav _ _
  · exact Part.only_refl _ _

theorem Part.only_markExts (sl : Nat) (on : Bool) (l : List Nat) (s : Part) :
    Part.only [.pavs] s (iter l s fun s le => s.markExt sl le on) := Part.only_iter (fun s le => s.only_markExt sl le on) _ _

/-- Marking an extent writes its mark on its home, and no other mark. -/
theorem Part.markExt_dirty (s : Part) (sl le : Nat) (on : Bool) (p x : Nat) :
    ((s.markExt sl le on).pav p).dirty.get 0 x =
      if s.homeOf sl (le * 512) = some p ∧ extentKey sl le = x then b2n on else (s.pav p).dirty.get 0 x := by
  unfold Part.markExt
  split
  · next r home =>
    by_cases hp : r = p
    · subst hp
      simp [home]
    · rw [Part.onPav_pav_other _ _ _ hp, if_neg fun h => hp (Option.some.inj (home.symm.trans h.1))]
  · next away => simp [away]

/-- The vintage in force says where a page has its home. -/
theorem Part.homeOf_of_only {l : List PartField} {a b : Part} (h : Part.only l a b) (hl : PartField.vint ∉ l) (sl lp : Nat) :
    b.homeOf sl lp = a.homeOf sl lp := by
  have same : b.vint = a.vint := h .vint hl
  unfold Part.homeOf Part.place
  rw [same]

/-- Every extent of a list is marked on its home, and what was marked stays marked. -/
theorem Part.markExts_marked {sl le p : Nat} (l : List Nat) (s : Part) (hh : s.homeOf sl (le * 512) = some p)
    (h : le ∈ l ∨ (s.pav p).dirty.get 0 (extentKey sl le) = 1) :
    ((iter l s fun s le => s.markExt sl le true).pav p).dirty.get 0 (extentKey sl le) = 1 := by
  induction l generalizing s with
  | nil => exact h.resolve_left List.not_mem_nil
  | cons x l ih =>
    refine ih (s.markExt sl x true) ((Part.homeOf_of_only (s.only_markExt sl x true) (by decide) _ _).trans hh) ?_
    rw [Part.markExt_dirty]
    rcases h with h | h
    · rcases List.mem_cons.mp h with rfl | h
      · exact .inr (if_pos ⟨hh, rfl⟩)
      · exact .inl h
    · right
      split
      · rfl
      · exact h

/-- An extent that is granted is listed. -/
theorem Part.mem_grantedExts {s : Part} {sl le : Nat} (h : s.granted sl le = true) : le ∈ s.grantedExts sl := by
  unfold Part.granted bit at h
  have listed : (s.slice sl).grants.get 0 (le / 512) ≠ 0 := fun none => by simp [none] at h
  refine List.mem_flatMap.mpr ⟨_, Sparse.mem_of_get listed, List.mem_map.mpr ⟨le % 512, List.mem_filter.mpr ⟨?_, h⟩, ?_⟩⟩
  · exact List.mem_range.mpr (Nat.mod_lt _ (by decide))
  · dsimp only
    omega

/-! ## Arming (spec/10 R416) -/

theorem Part.disarm_slice (s : Part) (sl : Nat) :
    (s.disarm sl).slice sl = { s.slice sl with finalDone := false, sourceSerial := 0, keyRestored := false } := by
  have marks : (iter (s.dirtyExts sl) s fun s le => s.markExt sl le false).slices = s.slices := Part.only_markExts sl false _ s .slices (by decide)
  unfold Part.disarm
  rw [Part.onSlice_slice_self, Part.setOd_slice, Part.slice, marks]
  rfl

theorem Part.odOnly_disarm (s : Part) {sl : Nat} (hsl : sl < 65536) : Part.odOnly [(.sliceMigrationId, sl)] s (s.disarm sl) :=
  have marks : Part.odOnly [(.sliceMigrationId, sl)] s (iter (s.dirtyExts sl) s fun s le => s.markExt sl le false) :=
    Part.odOnly_of_dict (Part.only_markExts sl false _ s .dict (by decide))
  Part.odOnly_trans marks (Part.odOnly_setOd _ .sliceMigrationId sl 0 hsl (List.mem_singleton_self _))

/-- Without a recorded cause no sweep starts. -/
theorem Part.nextSweep_idle {s : Part} {sl : Nat} (h : (s.slice sl).rekeyWait = []) :
    s.nextSweep sl = s.onSlice sl fun q => { q with rekeyWait := [] } := by
  rw [Part.nextSweep, h]
  rfl

/-- A disarmed slice with a new identifier and the sequence at 0. -/
def Part.renamed (s : Part) (sl v : Nat) : Part := ((s.disarm sl).setOd .sliceMigrationId sl v).setOd .sliceBundleSequence sl 0

/-- An armed slice: every granted extent is marked. -/
def Part.armed (s : Part) (sl v : Nat) : Part := iter ((s.renamed sl v).grantedExts sl) (s.renamed sl v) fun s le => s.markExt sl le true

theorem Part.armed_spec (s : Part) {sl v : Nat} (hv : v < 2 ^ 64) :
    (s.armed sl v).od .sliceMigrationId sl = v ∧ (s.armed sl v).od .sliceBundleSequence sl = 0 ∧ ((s.armed sl v).slice sl).finalDone = false ∧
    ∀ le p, s.granted sl le = true → s.homeOf sl (le * 512) = some p → ((s.armed sl v).pav p).dirty.get 0 (extentKey sl le) = 1 := by
  have marks := Part.only_markExts sl true ((s.renamed sl v).grantedExts sl) (s.renamed sl v)
  have entries (e : Entry) : (s.armed sl v).od e sl = (s.renamed sl v).od e sl := (Part.keepsOd_of_only (l := []) marks (by decide)).od_eq (by simp) _
  have slices : (s.armed sl v).slices = (s.renamed sl v).slices := marks .slices (by decide)
  have slice : (s.renamed sl v).slice sl = _ := s.disarm_slice sl
  obtain ⟨-, -, only⟩ := s.keepsOd_disarm sl
  refine ⟨?_, ?_, ?_, fun le p granted home => ?_⟩
  · rw [entries, Part.renamed, Part.od_setOd_ne _ _ _ _ (by decide)]
    exact Part.od_setOd_val _ _ _ _ hv
  · rw [entries, Part.renamed]
    exact Part.od_setOd_val _ _ _ _ (by decide)
  · rw [Part.slice, slices]
    exact congrArg SliceState.finalDone slice
  · refine Part.markExts_marked _ _ ((Part.homeOf_of_only only (by decide) sl _).trans home) (.inl (Part.mem_grantedExts ?_))
    rw [Part.granted, slice]
    exact granted

section
variable {s : Part} {w : Who} {sl v : Nat} (hw : s.mayWrite w .sliceMigrationId) (hs : s.od .sliceState sl ∈ [1, 2, 3])
  (hr : s.od .rekeyState sl ≠ 1) (hc : s.sweepComing sl = false)
include hw hs hr hc

/-- The checks of a write of SLICE_MIGRATION_ID pass. -/
theorem Part.migrationIdWrite_taken (hv : v < 2 ^ 64) : s.migrationIdWrite w sl v 8 =
    if v = 0 then ((s.disarm sl).nextSweep sl).ok else (s.armed sl v).ok := by
  have fits : Entry.sliceMigrationId.info.takes v 8 = true := by
    have bound : v ≤ 18446744073709551615 := by omega
    simpa [EntryInfo.takes, Entry.info, writeLength, EntryInfo.bytes] using bound
  simp only [List.mem_cons, List.not_mem_nil, or_false] at hs
  rw [Part.migrationIdWrite, writeChecks_takes hw.1 fits fun _ => rfl]
  rcases hs with h | h | h <;> simp [hw.2, h, hr, hc] <;> rfl

end

section
variable {s : State} {w : Who} {sl : Slice} {v : U64} (hw : s.part.mayWrite w .sliceMigrationId) (hs : s.part.od .sliceState sl ∈ [1, 2, 3])
  (hr : s.part.od .rekeyState sl ≠ 1) (hc : s.part.sweepComing sl = false)
include hw hs hr hc

theorem exec_sliceMigrationIdWrite_arms (hv : v.toNat ≠ 0) : exec (.sliceMigrationIdWrite w sl v) s =
    .next (s.withPart ((s.part.armed sl v.toNat).emit (.answer w rOk []))) := by
  rw [exec_sliceMigrationIdWrite, execSliceMigrationIdWrite, State.run_eq, Part.migrationIdWrite_taken hw hs hr hc v.isLt, if_neg hv, Reply.answer_ok]

theorem exec_sliceMigrationIdWrite_disarms (hv : v.toNat = 0) (hk : (s.part.slice sl).rekeyWait = []) :
    exec (.sliceMigrationIdWrite w sl v) s =
    .next (s.withPart (((s.part.disarm sl).onSlice sl fun q => { q with rekeyWait := [] }).emit (.answer w rOk []))) := by
  have idle : ((s.part.disarm sl).slice sl).rekeyWait = [] := by rw [Part.disarm_slice, hk]
  rw [exec_sliceMigrationIdWrite, execSliceMigrationIdWrite, State.run_eq, Part.migrationIdWrite_taken hw hs hr hc v.isLt, if_pos hv,
    Part.nextSweep_idle idle, Reply.answer_ok]

end

/-! ## The reach of a slice's traffic (spec/10 R403) -/

theorem Part.sliceReach_covered {s : Part} {i sl addr len : Nat} (hb : s.bmActive i = true)
    (h : covered (s.sliceWindows i sl) 17 addr (addr + len) = true) : s.sliceReach i sl addr len = (s, true) := by
  rw [Part.sliceReach, if_neg (by simp [hb]), if_pos h]

theorem Part.sliceWrite_covered {s : Part} {sl addr len : Nat} (hb : s.bmActive (s.trafficPort sl) = true)
    (h : covered (s.sliceWindows (s.trafficPort sl) sl) 17 addr (addr + len) = true) (data : Nat) :
    s.sliceWrite sl addr len data = (s.emit (.hostWrite (s.trafficPort sl) addr len data (s.slicePasidTag sl)), true) := by
  rw [Part.sliceWrite, Part.sliceReach_covered hb h]

/-! ## SAVE (spec/10 R421) -/

/-- A SAVE in progress: its bundle is formed and waits to be sent. -/
def Part.saving (s : Part) (sl : Nat) (doorbell : Bool) : Part :=
  ((s.formBundle sl doorbell).1.onSlice sl fun q => { q with bundle := some (s.formBundle sl doorbell).2 }).setOd .sliceSaveResult sl 1

theorem Part.saving_spec (s : Part) (sl : Nat) (doorbell : Bool) :
    ((s.saving sl doorbell).slice sl).bundle = some (s.formBundle sl doorbell).2 ∧ (s.saving sl doorbell).od .sliceSaveResult sl = 1 :=
  ⟨by rw [Part.saving, Part.setOd_slice, Part.onSlice_slice_self], Part.od_setOd_val _ _ _ _ (by decide)⟩

theorem Part.startSave_forms {s : Part} {sl : Nat} (hm : s.od .sliceMigrationId sl ≠ 0)
    (hl : (s.wrapKey (s.od .sliceWrapIndex sl)).live = true) (hb : (s.slice sl).bundle = none) (doorbell : Bool) :
    s.startSave sl doorbell = (s.saving sl doorbell).ok := by
  rw [Part.startSave, if_neg hm, if_neg (by simp [hl]), if_neg (by simp [hb])]
  rfl

theorem exec_sliceSave_saves {s : State} {w : Who} {sl : Slice} (hw : s.part.mayWrite w .sliceCommand) (hs : s.part.od .sliceState sl ∈ [2, 3])
    (hm : s.part.od .sliceMigrationId sl ≠ 0) (hl : (s.part.wrapKey (s.part.od .sliceWrapIndex sl)).live = true)
    (hb : (s.part.slice sl).bundle = none) :
    exec (.sliceSave w sl) s = .next (s.withPart ((s.part.saving sl false).emit (.answer w rOk []))) := by
  have command : s.part.sliceCommand w sl 6 = s.part.startSave sl false := by
    simp only [List.mem_cons, List.not_mem_nil, or_false] at hs
    rw [Part.sliceCommand, Part.command_eq _ _ _ hw (by decide) (by simp)]
    rcases hs with h | h <;> simp [h]
  rw [exec_sliceSave, execSliceSave, State.run_eq, command, Part.startSave_forms hm hl hb, Reply.answer_ok]

/-- The two writes of a bundle have gone out, and its results stand. -/
def Part.sent (s : Part) (sl : Nat) (b : Bundle) : Part :=
  let i := s.trafficPort sl
  let addr := s.od .sliceBundleAddress sl
  let tag := s.slicePasidTag sl
  let t := (s.emit (.hostWrite i (addr + 64) (b.size - 64) (b.bytes >>> 512) tag)).emit (.hostWrite i addr 64 (b.bytes % 2 ^ 512) tag)
  let result := if b.final then 4 else if (s.dirtyExts sl).isEmpty then 2 else 3
  (((t.onSlice sl fun q => { q with bundle := none }).setOd .sliceSaveResult sl result).setOd .sliceBundleSize sl b.size).setOd
    .sliceBundleSequence sl (s.od .sliceBundleSequence sl + 1)

theorem Part.sent_spec (s : Part) (sl : Nat) (b : Bundle) :
    ((s.sent sl b).slice sl).bundle = none ∧
    (s.sent sl b).od .sliceSaveResult sl = (if b.final then 4 else if (s.dirtyExts sl).isEmpty then 2 else 3) ∧
    (s.sent sl b).od .sliceBundleSequence sl = (s.od .sliceBundleSequence sl + 1) % 2 ^ 32 ∧
    (s.sent sl b).od .sliceBundleSize sl = b.size % 2 ^ 32 := by
  have small : (if b.final then 4 else if (s.dirtyExts sl).isEmpty then 2 else 3) < 256 := by split_ifs <;> decide
  unfold Part.sent
  refine ⟨?_, ?_, Part.od_setOd_self _ _ _ _, ?_⟩
  · rw [Part.setOd_slice, Part.setOd_slice, Part.setOd_slice, Part.onSlice_slice_self]
  · rw [Part.od_setOd_ne _ _ _ _ (by decide), Part.od_setOd_ne _ _ _ _ (by decide)]
    exact Part.od_setOd_val _ _ _ _ small
  · rw [Part.od_setOd_ne _ _ _ _ (by decide)]
    exact Part.od_setOd_self _ _ _ _

/-- The body goes out first and the header last. -/
theorem Part.sent_out (s : Part) (sl : Nat) (b : Bundle) : (s.sent sl b).out = s.out ++ [
    .hostWrite (s.trafficPort sl) (s.od .sliceBundleAddress sl + 64) (b.size - 64) (b.bytes >>> 512) (s.slicePasidTag sl),
    .hostWrite (s.trafficPort sl) (s.od .sliceBundleAddress sl) 64 (b.bytes % 2 ^ 512) (s.slicePasidTag sl)] := by
  rw [Part.sent, Part.setOd_out, Part.setOd_out, Part.setOd_out, Part.onSlice_out, Part.emit_out, Part.emit_out, List.append_assoc]
  rfl

/-- A bundle whose body and header reach host memory (spec/10 R421, log entry 116). -/
theorem exec_saveBundleSent_sent {s : State} {sl : Slice} {b : Bundle} (hb : (s.part.slice sl).bundle = some b) (hr : b.restore = false)
    (ha : s.part.bmActive (s.part.trafficPort sl) = true)
    (hc : ∀ k len, (k, len) ∈ [(64, b.size - 64), (0, 64)] → covered (s.part.sliceWindows (s.part.trafficPort sl) sl) 17
        (s.part.od .sliceBundleAddress sl + k) (s.part.od .sliceBundleAddress sl + k + len) = true) :
    exec (.saveBundleSent sl) s = .next (s.withPart
      (((s.part.sent sl b).logEv 0x1304 (s.part.od .sliceBundleSequence sl) b.size (some sl.val)).endDoorbell sl b.doorbell 2)) := by
  have body := Part.sliceWrite_covered ha (hc 64 (b.size - 64) (by simp)) (b.bytes >>> 512)
  have head := Part.sliceWrite_covered (s := s.part.emit (.hostWrite (s.part.trafficPort sl) (s.part.od .sliceBundleAddress sl + 64) (b.size - 64)
    (b.bytes >>> 512) (s.part.slicePasidTag sl))) (addr := s.part.od .sliceBundleAddress sl) ha (hc 0 64 (by simp)) (b.bytes % 2 ^ 512)
  rw [exec_saveBundleSent, execSaveBundleSent, State.run_eq]
  simp only [hb, hr, body, Part.emit_od, head, Bool.false_eq_true, if_false]
  rfl

/-! ## RESTORE (spec/10 R425, R426) -/

/-- A RESTORE in progress that has read nothing yet. -/
def Part.awaitingHeader (s : Part) (sl : Nat) (doorbell : Bool) : Part :=
  (s.onSlice sl fun q => { q with bundle := some ⟨true, false, 0, [], 0, doorbell⟩ }).setOd .sliceRestoreResult sl 1

/-- Where a slice's traffic goes does not turn on its transfers. -/
theorem Part.traffic_awaitingHeader (s : Part) (sl i : Nat) (doorbell : Bool) :
    (s.awaitingHeader sl doorbell).trafficPort sl = s.trafficPort sl ∧ (s.awaitingHeader sl doorbell).bmActive i = s.bmActive i ∧
    (s.awaitingHeader sl doorbell).sliceWindows i sl = s.sliceWindows i sl ∧
    (s.awaitingHeader sl doorbell).slicePasidTag sl = s.slicePasidTag sl ∧
    (s.awaitingHeader sl doorbell).od .sliceBundleAddress sl = s.od .sliceBundleAddress sl := by
  have entry (e : Entry) (he : .sliceRestoreResult ≠ e) (j : Nat) : (s.awaitingHeader sl doorbell).od e j = s.od e j :=
    Part.od_setOd_ne _ _ _ _ he
  have port : (s.awaitingHeader sl doorbell).port i = s.port i := rfl
  simp only [Part.trafficPort, Part.boundPort, Part.bmActive, Part.sliceWindows, Part.slicePasidTag, port,
    entry .slicePort (by decide), entry .sliceState (by decide), entry .portDState (by decide), entry .slicePasidEn (by decide),
    entry .slicePasid (by decide), entry .sliceBundleAddress (by decide), and_self]

/-- A RESTORE in progress: the bundle's header is being read. -/
def Part.restoring (s : Part) (sl : Nat) (doorbell : Bool) : Part :=
  (s.awaitingHeader sl doorbell).emit (.hostRead (s.trafficPort sl) (s.od .sliceBundleAddress sl) 64 (s.slicePasidTag sl))

theorem Part.restoring_spec (s : Part) (sl : Nat) (doorbell : Bool) :
    (s.restoring sl doorbell).slice sl = { s.slice sl with bundle := some ⟨true, false, 0, [], 0, doorbell⟩ } ∧
    (s.restoring sl doorbell).od .sliceRestoreResult sl = 1 ∧
    .hostRead (s.trafficPort sl) (s.od .sliceBundleAddress sl) 64 (s.slicePasidTag sl) ∈ (s.restoring sl doorbell).out :=
  ⟨by rw [Part.restoring, Part.emit_slice, Part.awaitingHeader, Part.setOd_slice, Part.onSlice_slice_self],
    Part.od_setOd_val _ .sliceRestoreResult sl 1 (by decide), Part.mem_emit _ _⟩

theorem Part.startRestore_reads {s : Part} {sl : Nat} (hm : s.od .sliceMigrationId sl ≠ 0) (hc : s.od .sliceClearing sl ≠ 1)
    (hb : (s.slice sl).bundle = none) (ha : s.bmActive (s.trafficPort sl) = true)
    (hr : covered (s.sliceWindows (s.trafficPort sl) sl) 17 (s.od .sliceBundleAddress sl) (s.od .sliceBundleAddress sl + 64) = true)
    (doorbell : Bool) : s.startRestore sl doorbell = (s.restoring sl doorbell).ok := by
  obtain ⟨port, active, windows, tag, addr⟩ := s.traffic_awaitingHeader sl (s.trafficPort sl) doorbell
  have begun : (s.onSlice sl fun q => { q with bundle := some ⟨true, false, 0, [], 0, doorbell⟩ }).setOd .sliceRestoreResult sl 1 =
    s.awaitingHeader sl doorbell := rfl
  rw [← active] at ha
  rw [← windows] at hr
  rw [Part.startRestore, if_neg (by simp [hm, hc]), if_neg (by simp [hb])]
  simp only [begun, port, addr, Part.sliceReach_covered ha hr, tag]
  rfl

theorem exec_sliceRestore_reads {s : State} {w : Who} {sl : Slice} (hw : s.part.mayWrite w .sliceCommand) (hs : s.part.od .sliceState sl = 1)
    (hm : s.part.od .sliceMigrationId sl ≠ 0) (hc : s.part.od .sliceClearing sl ≠ 1) (hb : (s.part.slice sl).bundle = none)
    (ha : s.part.bmActive (s.part.trafficPort sl) = true)
    (hr : covered (s.part.sliceWindows (s.part.trafficPort sl) sl) 17 (s.part.od .sliceBundleAddress sl)
      (s.part.od .sliceBundleAddress sl + 64) = true) :
    exec (.sliceRestore w sl) s = .next (s.withPart ((s.part.restoring sl false).emit (.answer w rOk []))) := by
  have command : s.part.sliceCommand w sl 7 = s.part.startRestore sl false := by
    rw [Part.sliceCommand, Part.command_eq _ _ _ hw (by decide) (by simp)]
    simp [hs]
  rw [exec_sliceRestore, execSliceRestore, State.run_eq, command, Part.startRestore_reads hm hc hb ha hr, Reply.answer_ok]

/-- The end of a transfer's doorbell leaves the transfer and the entries. -/
theorem Part.endDoorbell_spec (s : Part) (sl : Nat) (asked : Bool) (result : Nat) :
    ((s.endDoorbell sl asked result).slice sl).bundle = (s.slice sl).bundle ∧ ∀ e i, (s.endDoorbell sl asked result).od e i = s.od e i := by
  unfold Part.endDoorbell
  split
  · exact ⟨by rw [Part.onSlice_slice_self], fun _ _ => rfl⟩
  · exact ⟨rfl, fun _ _ => rfl⟩

/-- A RESTORE that succeeds with a bundle that is not the last: the transfer ends and the sequence rises. -/
theorem Part.restoreDone_spec {s : Part} {sl : Nat} {b : Bundle} (hb : (s.slice sl).bundle = some b) :
    ((s.restoreDone sl false).slice sl).bundle = none ∧ (s.restoreDone sl false).od .sliceRestoreResult sl = 2 ∧
    (s.restoreDone sl false).od .sliceBundleSequence sl = (s.od .sliceBundleSequence sl + 1) % 2 ^ 32 ∧
    (s.restoreDone sl false).od .sliceBundleSize sl = b.size % 2 ^ 32 := by
  simp only [Part.restoreDone, hb, Part.modOd_eq, Bool.false_eq_true, if_false]
  simp only [(Part.endDoorbell_spec _ sl b.doorbell 2).1, (Part.endDoorbell_spec _ sl b.doorbell 2).2]
  refine ⟨?_, ?_, ?_, Part.od_setOd_self _ _ _ _⟩
  · rw [Part.setOd_slice, Part.setOd_slice, Part.setOd_slice, Part.onSlice_slice_self]
  · rw [Part.od_setOd_ne _ _ _ _ (by decide)]
    exact Part.od_setOd_val _ _ _ _ (by decide)
  · rw [Part.od_setOd_ne _ _ _ _ (by decide), Part.od_setOd_ne _ _ _ _ (by decide)]
    exact Part.od_setOd_self _ _ _ _

/-- A bundle that passes every check and is stored whole: its settings are compiled where it is the last, otherwise the RESTORE is done. -/
theorem exec_restoreBundleRead_stored {s : State} {sl : Slice} {b : Bundle} {x len : Nat} {h : BundleHead} {r : BundleRead} {t : Part}
    (hb : (s.part.slice sl).bundle = some b) (hr : b.restore = true) (h0 : b.size = 0) (hh : h = BundleHead.decode (x % 2 ^ 512))
    (hf : h.format = 1) (hl : h.length ≤ s.part.od .sliceBundleLen sl * 1024) (ha : s.part.bmActive (s.part.trafficPort sl) = true)
    (hc : covered (s.part.sliceWindows (s.part.trafficPort sl) sl) 17 (s.part.od .sliceBundleAddress sl)
      (s.part.od .sliceBundleAddress sl + h.length) = true)
    (hd : s.part.readBundle x len = some r) (hn : s.part.bundleRefusal sl x len r = none)
    (hp : Part.restorePages sl h.slice r.pages ((s.part.restoreKeys sl h.sequence h.serial r.keys).onSlice sl fun q =>
      { q with bundle := some { b with size := len } }) = (t, true)) :
    exec (.restoreBundleRead sl x len) s = .next (s.withPart
      (if h.final = true then t.ask ⟨0, stateWrites sl r.states, none, .restore sl, 0⟩ else t.restoreDone sl false)) := by
  obtain ⟨restore, final, size, exts, bytes, asked⟩ := b
  obtain rfl : restore = true := hr
  obtain rfl : size = 0 := h0
  rw [exec_restoreBundleRead, execRestoreBundleRead, State.run_eq]
  simp only [hb, ← hh, hf, Nat.not_lt.mpr hl, Part.sliceReach_covered ha hc, hd, hn, hp, bne_self_eq_false, Bool.not_true, Bool.or_self,
    Bool.false_eq_true, if_false, decide_false]
  cases h.final <;> rfl

/-! ## The doorbells of the tenant page (spec/10 R407) -/

/-- A doorbell's TAG and operation are noted. -/
def Part.doorNoted (s : Part) (sl op : Nat) (d : DoorWrite) : Part := s.onSlice sl fun q => { q with doorTag := d.tag, doorOp := op }

/-- A doorbell that nothing refuses is ACCEPTED once its command has begun. -/
theorem Part.doorbell_accepted {s t : Part} {i sl op : Nat} {d : DoorWrite} {accept : Part → Reply} (hb : s.boundPort sl = some i)
    (hw : d.wide = true) (hr : s.doorRefusal sl op d = 0) (ha : accept (s.doorNoted sl op d) = t.ok)
    (ht : op = 1 ∨ (t.slice sl).bundle.isSome = true) :
    s.doorbell i sl op d accept = t.onSlice sl fun q => { q with doorResult := 1 } := by
  have noted : (s.doorNoted sl op d).doorRefusal sl op d = 0 := by
    rw [← hr]
    simp [Part.doorRefusal, Part.doorNoted]
  unfold Part.doorNoted at noted ha
  have begun : (op != 1 && (t.slice sl).bundle.isNone) = false := by
    rcases ht with rfl | h
    · rfl
    · rw [← Option.not_isSome, h]
      simp
  unfold Part.doorbell
  simp only [hb, hw, noted, ha, bne_self_eq_false, Bool.not_true, Bool.false_eq_true, if_false]
  simp [Part.ok, rOk, begun]

section
variable {s : State} {i : Port} {sl : Slice} {x : BitVec 32} {d : DoorWrite} (hd : d = DoorWrite.decode x)
  (hb : s.part.boundPort sl = some i.val) (hw : d.wide = true)
include hd hb hw

theorem exec_tpDoorbellCounterDump_accepted (hr : s.part.doorRefusal sl 1 d = 0) : exec (.tpDoorbellCounterDump i sl x) s =
    .next (s.withPart (((s.part.doorNoted sl 1 d).doorOpen sl 1).onSlice sl fun q => { q with doorResult := 1 })) := by
  rw [exec_tpDoorbellCounterDump, execTpDoorbellCounterDump, State.run_eq, ← hd,
    Part.doorbell_accepted (accept := fun s => (s.doorOpen sl 1).ok) hb hw hr rfl (.inl rfl)]

theorem exec_tpDoorbellSave_accepted (hr : s.part.doorRefusal sl 2 d = 0) (hm : s.part.od .sliceMigrationId sl ≠ 0)
    (hl : (s.part.wrapKey (s.part.od .sliceWrapIndex sl)).live = true) (hn : (s.part.slice sl).bundle = none) :
    exec (.tpDoorbellSave i sl x) s = .next (s.withPart
      ((((s.part.doorNoted sl 2 d).doorOpen sl 2).saving sl true).onSlice sl fun q => { q with doorResult := 1 })) := by
  have idle : (((s.part.doorNoted sl 2 d).doorOpen sl 2).slice sl).bundle = none := by simp [Part.doorOpen, Part.doorNoted, hn]
  have forms := Part.startSave_forms (s := (s.part.doorNoted sl 2 d).doorOpen sl 2) hm hl idle true
  have begun : ((((s.part.doorNoted sl 2 d).doorOpen sl 2).saving sl true).slice sl).bundle.isSome = true := by
    rw [(Part.saving_spec _ _ _).1]
    rfl
  rw [exec_tpDoorbellSave, execTpDoorbellSave, State.run_eq, ← hd,
    Part.doorbell_accepted (accept := fun s => (s.doorOpen sl 2).startSave sl true) hb hw hr forms (.inr begun)]

theorem exec_tpDoorbellRestore_accepted (hr : s.part.doorRefusal sl 3 d = 0) (hm : s.part.od .sliceMigrationId sl ≠ 0)
    (hc : s.part.od .sliceClearing sl ≠ 1) (hn : (s.part.slice sl).bundle = none) (ha : s.part.bmActive (s.part.trafficPort sl) = true)
    (hv : covered (s.part.sliceWindows (s.part.trafficPort sl) sl) 17 (s.part.od .sliceBundleAddress sl)
      (s.part.od .sliceBundleAddress sl + 64) = true) :
    exec (.tpDoorbellRestore i sl x) s = .next (s.withPart
      ((((s.part.doorNoted sl 3 d).doorOpen sl 3).restoring sl true).onSlice sl fun q => { q with doorResult := 1 })) := by
  have idle : (((s.part.doorNoted sl 3 d).doorOpen sl 3).slice sl).bundle = none := by simp [Part.doorOpen, Part.doorNoted, hn]
  have reads := Part.startRestore_reads (s := (s.part.doorNoted sl 3 d).doorOpen sl 3) hm hc idle ha hv true
  have begun : ((((s.part.doorNoted sl 3 d).doorOpen sl 3).restoring sl true).slice sl).bundle.isSome = true := by
    rw [(Part.restoring_spec _ _ _).1]
    rfl
  rw [exec_tpDoorbellRestore, execTpDoorbellRestore, State.run_eq, ← hd,
    Part.doorbell_accepted (accept := fun s => (s.doorOpen sl 3).startRestore sl true) hb hw hr reads (.inr begun)]

end

/-! ## The obligation -/

/-- Settles O51: each command by the transfer it begins or ends, each doorbell by the command that it begins. That the bundle is formed at SAVE is
log entry 115, and the values of its record 0x1304 are those of log entry 116. -/
theorem migrationAndDoorbells : Obligations.MigrationAndDoorbells := by
  intro s sl
  have hsl : sl.val < 65536 := by omega
  refine ⟨fun w v hw hs hr hc => ⟨fun hv => ?_, fun hv hk => ?_⟩, fun w hw hm hb => ⟨fun hs hl => ?_, fun hs hc ha hv => ?_⟩,
    fun b hb hr ha hc => ?_, fun b x len h r t hb hr h0 hh hf hl ha hc hd hn hp => ⟨fun final => ?_, fun final stored => ?_⟩,
    fun i x d hd hb hw => ⟨fun hr => ?_, fun hr hm hl hn => ?_, fun hr hm hc hn ha hv => ?_⟩⟩
  · refine ⟨_, exec_sliceMigrationIdWrite_arms hw hs hr hc hv, ?_⟩
    simp only [Part.emit_od, Part.emit_slice, Part.emit_pav]
    exact s.part.armed_spec v.isLt
  · obtain ⟨-, cleared, -⟩ := s.part.keepsOd_disarm sl
    refine ⟨_, exec_sliceMigrationIdWrite_disarms hw hs hr hc hv hk, ?_, ?_, Part.odOnly_trans (s.part.odOnly_disarm hsl) (Part.odOnly_of_dict ?_)⟩
    · rw [Part.emit_od, Part.onSlice_od, cleared]
    · rw [Part.emit_slice, Part.onSlice_slice_self, Part.disarm_slice]
    · rw [Part.emit_dict, Part.onSlice_dict]
  · obtain ⟨bundle, result⟩ := s.part.saving_spec sl false
    refine ⟨_, exec_sliceSave_saves hw hs hm hl hb, ?_⟩
    rw [Part.emit_slice, Part.emit_od]
    exact ⟨bundle, result, Part.mem_emit _ _⟩
  · obtain ⟨slice, result, read⟩ := s.part.restoring_spec sl false
    refine ⟨_, exec_sliceRestore_reads hw hs hm hc hb ha hv, ?_⟩
    rw [Part.emit_slice, Part.emit_od, slice]
    exact ⟨rfl, result, List.mem_append_left _ read⟩
  · obtain ⟨bundle, result, sequence, size⟩ := s.part.sent_spec sl b
    exact ⟨_, exec_saveBundleSent_sent hb hr ha hc, bundle, result, sequence, size, s.part.sent_out sl b⟩
  · rw [exec_restoreBundleRead_stored hb hr h0 hh hf hl ha hc hd hn hp, if_pos final]
  · refine ⟨_, ?_, Part.restoreDone_spec stored⟩
    rw [exec_restoreBundleRead_stored hb hr h0 hh hf hl ha hc hd hn hp, if_neg (by simp [final])]
  · refine ⟨_, exec_tpDoorbellCounterDump_accepted hd hb hw hr, ?_, fun k => ?_⟩
    · exact Part.only_trans (Part.only_onSlice _ _ _) (Part.only_trans (Part.only_onSlice _ _ _) (Part.only_onSlice _ _ _))
    · by_cases hk : k = sl.val
      · subst hk
        simp [Part.doorOpen, Part.doorNoted]
      · simp [Part.doorOpen, Part.doorNoted, Part.onSlice_slice, hk, Ne.symm hk]
  · obtain ⟨bundle, result⟩ := ((s.part.doorNoted sl 2 d).doorOpen sl 2).saving_spec sl true
    refine ⟨_, exec_tpDoorbellSave_accepted hd hb hw hr hm hl hn, ?_⟩
    rw [Part.onSlice_slice_self, Part.onSlice_od, bundle]
    exact ⟨rfl, rfl, result⟩
  · obtain ⟨slice, result, -⟩ := ((s.part.doorNoted sl 3 d).doorOpen sl 3).restoring_spec sl true
    refine ⟨_, exec_tpDoorbellRestore_accepted hd hb hw hr hm hc hn ha hv, ?_⟩
    rw [Part.onSlice_slice_self, Part.onSlice_od, slice]
    exact ⟨by simp [Part.doorOpen, Part.doorNoted], by simp [Part.doorOpen, Part.doorNoted], by simp [Part.doorOpen], rfl, rfl, result⟩

end Sys2Proof.Machine
end

section
/-!
O7: what logging a record changes (spec/11 R459, R460, spec/12 R480).
-/

namespace Sys2Proof.Machine

set_option Elab.async false

/-- A fold whose every step leaves its start leaves it. -/
theorem iter_fixed {α σ : Type} {f : σ → α → σ} {s : σ} (l : List α) (h : ∀ a ∈ l, f s a = s) : iter l s f = s := by
  induction l with
  | nil => rfl
  | cons x xs ih =>
    show iter xs (f s x) f = s
    rw [h x (List.mem_cons_self ..)]
    exact ih fun a ha => h a (List.mem_cons_of_mem _ ha)

/-- A record that no enabled notice ring can take goes into the log alone. -/
theorem Part.pushLog_noRing {s : Part} (h : ∀ i < 16, ((s.port i).rings.get Ring.zero 2).enabled = false) (code a b : Nat)
    (sl : Option Nat) (pav : Nat) : s.pushLog code a b sl pav =
      { s with log := s.log.put (s.logNext % 65536) ⟨s.now, code, sl, pav, 0, a, b⟩, logNext := s.logNext + 1 } :=
  iter_fixed _ fun i hi => if_neg (by
    have off := h i (List.mem_range.mp hi)
    simp only [Bool.and_eq_true]
    exact fun wants => Bool.false_ne_true (off.symm.trans wants.1.1))

/-- Where no session is open nobody receives a record. -/
theorem Part.notifyAll_noSession {s : Part} (h : ∀ k < 32, (s.sess k).isOpen = false) (n : Nat) : s.notifyAll n = s :=
  iter_fixed _ fun k hk => if_pos (by simp [Part.subscribed, h k (List.mem_range.mp hk)])

/-- Where no record waits for a notice ring none is written. -/
theorem Part.flushNotices_noPending {s : Part} (h : ∀ i < 16, ((s.port i).rings.get Ring.zero 2).pending = []) : s.flushNotices = s := by
  unfold Part.flushNotices
  split
  · rfl
  · refine iter_fixed _ fun i hi => ?_
    simp only [h i (List.mem_range.mp hi)]
    rfl

/-- Settles O7: the frame of logging, and each of its three parts where nobody takes the record. -/
theorem loggingARecord : Obligations.LoggingARecord := by
  refine ⟨fun p code a b sl pav => ?_, fun p code a b sl pav closed noRing => ?_⟩
  · have frame := LogFrame.logEv p code a b sl pav
    exact ⟨frame.only, frame.od⟩
  · rw [Part.logEv, Part.logQuiet, Part.pushLog_noRing fun i hi => (noRing i hi).1, Part.notifyAll_noSession (by exact closed),
      Part.flushNotices_noPending (by exact fun i hi => (noRing i hi).2)]

end Sys2Proof.Machine
end

section
/-!
O46: the management network and MCTP (spec/11 R443 to R445).
-/

namespace Sys2Proof.Machine

set_option Elab.async false

/-! ## The management port (spec/11 R443) -/

section
variable {s : State}

theorem exec_mgmtLinkChange_stands (hp : s.part.boot.pav0Lost = false) (hv : s.part.power.vaux = true) (up : Bool) :
    exec (.mgmtLinkChange up) s = .next (s.withPart (s.part.setOd .mgmtLinkState 0 (if up then 1 else 0))) := by
  rw [exec_mgmtLinkChange, execMgmtLinkChange, State.run_eq, if_neg (by simp [hp, hv])]
  cases up <;> rfl

/-- A part that listens is not in REST. -/
theorem Part.awake_of_listens {p : Part} (h : p.listens = true) : p.rest.inRest = false := by
  simp only [Part.listens, Bool.and_eq_true, Bool.not_eq_true'] at h
  exact h.2

variable (up : s.part.mgmtUp = true)
include up

theorem exec_arpRequest_up (a : BitVec 32) : exec (.arpRequest a) s =
    .next (s.withPart (if s.part.ownsV4 a.toNat then s.part.emit (.net 0 [a.toNat, s.part.flash.mac]) else s.part)) := by
  rw [exec_arpRequest, execArpRequest, State.run_eq, up, Bool.true_and]

theorem exec_neighbourSolicitation_up (a : BitVec 128) : exec (.neighbourSolicitation a) s =
    .next (s.withPart (if s.part.ownsV6 a.toNat then s.part.emit (.net 1 [a.toNat, s.part.flash.mac]) else s.part)) := by
  rw [exec_neighbourSolicitation, execNeighbourSolicitation, State.run_eq, up, Bool.true_and]

theorem exec_icmpEchoRequest_answered (listens : s.part.listens = true) {v6 : Bool} {a : BitVec 128}
    (own : (if v6 then s.part.ownsV6 a.toNat else s.part.ownsV4 a.toNat) = true) (data : Nat) : exec (.icmpEchoRequest v6 a data) s =
      .next (s.withPart (s.part.emit (.net (if v6 then 3 else 2) [a.toNat, data]))) := by
  rw [exec_icmpEchoRequest, execIcmpEchoRequest, State.run_eq]
  simp [up, Part.awake_of_listens listens, listens, own]

theorem exec_icmpEchoRequest_inRest (rest : s.part.rest.inRest = true) (v6 : Bool) (a : BitVec 128) (data : Nat) :
    exec (.icmpEchoRequest v6 a data) s = .next (s.withPart (s.part.count .mgmtFramesDropped 0)) := by
  rw [exec_icmpEchoRequest, execIcmpEchoRequest, State.run_eq]
  simp [up, rest, Part.mgmtDrop]

theorem exec_dhcpv4Message_taken (listens : s.part.listens = true) (mode : s.part.od .mgmtIpv4Mode 0 = 1) (a g : BitVec 32) (l : BitVec 8) :
    exec (.dhcpv4Message a l g) s =
      .next (s.withPart { s.part with gate := { s.part.gate with lease := some (a.toNat, l.toNat, g.toNat) } }) := by
  rw [exec_dhcpv4Message, execDhcpv4Message, State.run_eq]
  simp [up, Part.awake_of_listens listens, listens, Part.od0, mode]

end

/-! ## Staged settings (spec/11 R444) -/

/-- The value that a table of settings gives an entry, cut to its type; the value in force where the table has none. -/
def Part.settingOr (s : Part) (m : Sparse Nat) (e : Entry) : Nat :=
  ((m.find? fun x => x.1 == e.key 0).map fun x => x.2 % 2 ^ (8 * e.info.bytes)).getD (s.od e 0)

theorem Part.only_setGate (s : Part) (g : GateState) : Part.only [.gate] s { s with gate := g } := fun f hf => by
  cases f <;> first | rfl | simp at hf

/-- One setting of a table is put in force. -/
def Part.putSetting (m : Sparse Nat) (s : Part) (e : Entry) : Part :=
  match m.find? fun q => q.1 == e.key 0 with
  | some q => s.setOd e 0 q.2
  | none => s

theorem Part.only_putSetting (m : Sparse Nat) (s : Part) (e : Entry) : Part.only [.dict] s (s.putSetting m e) := by
  unfold Part.putSetting
  split
  · exact s.only_setOd _ _ _
  · exact Part.only_refl _ _

theorem Part.putSetting_od (m : Sparse Nat) (s : Part) (x e : Entry) :
    (s.putSetting m x).od e 0 = if x = e then s.settingOr m e else s.od e 0 := by
  unfold Part.putSetting Part.settingOr
  by_cases h : x = e
  · subst h
    rw [if_pos rfl]
    cases m.find? fun q => q.1 == x.key 0 with
    | none => rfl
    | some q => exact Part.od_setOd_self s x 0 q.2
  · rw [if_neg h]
    split
    · exact Part.od_setOd_ne s 0 0 _ h
    · rfl

/-- Putting an entry's setting in force again changes nothing. -/
theorem Part.settingOr_putSetting (m : Sparse Nat) (s : Part) (x e : Entry) : (s.putSetting m x).settingOr m e = s.settingOr m e := by
  unfold Part.settingOr
  rw [Part.putSetting_od]
  cases h : m.find? fun x => x.1 == e.key 0 with
  | none => simp [Part.settingOr, h]
  | some q => rfl

theorem Part.putSettings_od (m : Sparse Nat) (l : List Entry) (s : Part) (e : Entry) :
    (iter l s (Part.putSetting m)).od e 0 = if e ∈ l then s.settingOr m e else s.od e 0 := by
  induction l generalizing s with
  | nil => rfl
  | cons x xs ih =>
    refine (ih (s.putSetting m x)).trans ?_
    rw [Part.settingOr_putSetting, Part.putSetting_od]
    by_cases hx : x = e
    · simp [hx]
    · simp [hx, Ne.symm hx]

theorem Part.netApply_eq (s : Part) (m : Sparse Nat) : s.netApply m =
    if (iter stagedEntries s (Part.putSetting m)).od0 .mgmtIpv4Mode = s.od0 .mgmtIpv4Mode then iter stagedEntries s (Part.putSetting m)
    else { iter stagedEntries s (Part.putSetting m) with gate := { (iter stagedEntries s (Part.putSetting m)).gate with lease := none } } := rfl

/-- Settings put in force: every staged entry has its value of the table; the dictionary and the gatehouse alone change. -/
theorem Part.netApply_spec (s : Part) (m : Sparse Nat) : Part.only [.dict, .gate] s (s.netApply m) ∧
    ∀ e ∈ stagedEntries, (s.netApply m).od e 0 = s.settingOr m e := by
  have put : Part.only [.dict, .gate] s (iter stagedEntries s (Part.putSetting m)) :=
    Part.only_mono (Part.only_iter (Part.only_putSetting m) _ _) (by decide)
  have value (e : Entry) (he : e ∈ stagedEntries) : (iter stagedEntries s (Part.putSetting m)).od e 0 = s.settingOr m e := by
    rw [Part.putSettings_od, if_pos he]
  rw [Part.netApply_eq]
  split
  · exact ⟨put, value⟩
  · exact ⟨Part.only_trans put (Part.only_mono (Part.only_setGate _ _) (by decide)), value⟩

/-- Settings put in force, a change of the gatehouse, and a record: the staged entries have their values of the table, and slices, vintages and
keys stay. -/
theorem Part.netApply_logged (s : Part) (m : Sparse Nat) {t : Part} (h : Part.only [.gate] (s.netApply m) t) (code : Nat) :
    (∀ e ∈ stagedEntries, (t.logEv code 0 0).od e 0 = s.settingOr m e) ∧ (t.logEv code 0 0).slices = s.slices ∧
      (t.logEv code 0 0).vint = s.vint ∧ (t.logEv code 0 0).keys = s.keys := by
  obtain ⟨kept, value⟩ := s.netApply_spec m
  have all : Part.only [.dict, .gate] s t := Part.only_trans kept (Part.only_mono h (by decide))
  refine ⟨fun e he => ?_, ?_, ?_, ?_⟩
  · have noRing : e ≠ .ringState := by rintro rfl; revert he; decide
    have dict : t.dict = (s.netApply m).dict := h .dict (by decide)
    rw [Part.logEv_od _ _ _ _ _ _ noRing (by decide), ← value e he, Part.od, dict, Part.od]
  · rw [Part.logEv_slices]
    exact all .slices (by decide)
  · rw [Part.logEv_vint]
    exact all .vint (by decide)
  · rw [Part.logEv_keys]
    exact all .keys (by decide)

theorem Part.mgmtCommand_apply {s : Part} {w : Who} (hw : s.mayWrite w .mgmtCommand) : s.mgmtCommand w 1 = s.ok := by
  rw [Part.mgmtCommand, Part.command_eq _ _ _ hw (by decide) (by simp)]
  rfl

/-- APPLY answers first and then puts the staged settings in force. -/
theorem exec_mgmtApply_applies {s : State} {w : Who} (hw : s.part.mayWrite w .mgmtCommand) :
    exec (.mgmtApply w) s = .next (s.withPart (s.part.emit (.answer w rOk [])).applyStaged) := by
  rw [exec_mgmtApply, execMgmtApply, State.run_eq, Part.mgmtCommand_apply hw]
  exact congrArg (fun p => Host.Outcome.next (s.withPart p)) (if_pos (c := s.part.ok.code = some rOk) rfl)

theorem exec_mgmtConfirm_keeps {s : State} {w : Who} (hw : s.part.mayWrite w .mgmtCommand) (port : s.part.overEthernet w = true) :
    exec (.mgmtConfirm w) s = .next (s.withPart (Part.emit { s.part with gate := { s.part.gate with netOld := none } } (.answer w rOk []))) := by
  rw [exec_mgmtConfirm, execMgmtConfirm, State.run_eq, Part.mgmtCommand, Part.command_eq _ _ _ hw (by decide) (by simp), port]
  rfl

/-! ## MCTP on I3C (spec/11 R445) -/

/-- Outside REST and its entry a private write reaches the gatehouse that listens. -/
theorem Part.onI3c_listens {s : Part} (listens : s.listens = true) (idle : s.rest.step = none) (f : Part → Part) : s.onI3c f = f s := by
  have awake := Part.awake_of_listens listens
  simp [Part.onI3c, Part.wakeEvent_awake awake idle, awake, listens]

/-! ## The obligation -/

/-- Settles O46: the old settings' return after an APPLY is log entry 45, the answers' completion codes are those of log entry 46, and the lease of
DHCP stands beside the settings (log entry 173). -/
theorem networkAndMctp : Obligations.NetworkAndMctp := by
  intro s
  refine ⟨fun up hp hv => exec_mgmtLinkChange_stands hp hv up, fun hup => ?_, fun w hw => ⟨?_, exec_mgmtConfirm_keeps hw⟩, fun m hm => ?_,
    fun a hv => ?_, fun listens idle => ?_⟩
  · have up : s.part.mgmtUp = true := by simpa [Part.mgmtUp, Part.od0] using hup
    exact ⟨fun a => ⟨fun own => by rw [exec_arpRequest_up up, if_pos own], fun other => by rw [exec_arpRequest_up up, other]; rfl⟩,
      fun a => ⟨fun own => by rw [exec_neighbourSolicitation_up up, if_pos own],
        fun other => by rw [exec_neighbourSolicitation_up up, other]; rfl⟩,
      fun v6 a data listens own => exec_icmpEchoRequest_answered up listens own data,
      fun a g l listens mode => exec_dhcpv4Message_taken up listens mode a g l,
      fun v6 a data rest => exec_icmpEchoRequest_inRest up rest v6 a data⟩
  · refine ⟨_, exec_mgmtApply_applies hw, ?_⟩
    exact Part.netApply_logged (s.part.emit (.answer w rOk [])) _ (Part.only_setGate _ _) 0x1407
  · refine ⟨_, by rw [exec_mgmtConfirmTimeout, execMgmtConfirmTimeout, State.run_eq, hm], ?_⟩
    exact Part.netApply_logged s.part m (Part.only_setGate _ _) 0x1408
  · rw [exec_i3cDynamicAddressAssign, execI3cDynamicAddressAssign, State.run_eq, if_pos hv]
  · refine ⟨fun eid null broadcast => ?_, ?_, ⟨s.part.free.1 % 2 ^ 32, ?_⟩, ?_, ?_⟩
    · rw [exec_mctpSetEndpointId, execMctpSetEndpointId, State.run_eq, Part.onI3c_listens listens idle,
        if_neg (by simpa only [Bool.or_eq_true, decide_eq_true_eq, not_or] using ⟨null, broadcast⟩)]
    · rw [exec_mctpGetEndpointId, execMctpGetEndpointId, State.run_eq, Part.onI3c_listens listens idle]
      rfl
    · rw [exec_mctpGetVersionSupport, execMctpGetVersionSupport, State.run_eq, Part.onI3c_listens listens idle, if_pos (by decide)]
    · rw [exec_mctpGetMessageTypeSupport, execMctpGetMessageTypeSupport, State.run_eq, Part.onI3c_listens listens idle]
    · rw [exec_mctpGetVendorDefinedSupport, execMctpGetVendorDefinedSupport, State.run_eq, Part.onI3c_listens listens idle, if_pos rfl]

end Sys2Proof.Machine
end

section
/-!
O53: sessions and roles (spec/11 R450 to R454, R460, R462, spec/09 R368).
-/

namespace Sys2Proof.Machine

set_option Elab.async false

/-! ## What the closing of a session leaves (spec/11 R453) -/

theorem Part.only_mboxSilent (s : Part) (t : Transport) : Part.only [.ports, .out, .freeCtr] s (s.mboxSilent t) := by
  unfold Part.mboxSilent
  split
  · next i =>
    refine Part.only_ite ?_ (Part.only_refl _ _)
    obtain ⟨answer, -⟩ := (s.free.2.onPort i fun p => { p with mboxBusy := none }).mbox_spec i (s.free.1 % 65536) []
    exact Part.only_trans (Part.only_mono s.only_free (by decide))
      (Part.only_trans (Part.only_mono (Part.only_onPort _ _ _) (by decide)) (Part.only_mono answer (by decide)))
  · exact Part.only_refl _ _

/-- The slot of a session is free: what it waited for forgets it, and its entries are back at their defaults. -/
def Part.slotFreed (s : Part) (k : Nat) : Part :=
  iter sessionEntries ((s.forgetWho (sessionWho k)).onSess k fun q => { Session.zero with openings := q.openings }) fun s e => s.resetOd e k

theorem Part.only_resetEntries (l : List Entry) (s : Part) (k : Nat) : Part.only [.dict] s (iter l s fun s e => s.resetOd e k) :=
  Part.only_iter (fun s e => s.only_resetOd e k) l s

/-- Entries set back to their defaults: each of them, and every other. -/
theorem Part.resetEntries_od (l : List Entry) (s : Part) {k : Nat} (hk : k < 65536) (e : Entry) :
    (iter l s fun s e => s.resetOd e k).od e k = if e ∈ l then e.info.dflt else s.od e k := by
  induction l generalizing s with
  | nil => rfl
  | cons x xs ih =>
    refine (ih (s.resetOd x k)).trans ?_
    rw [Part.od_resetOd _ _ _ _ _ hk hk]
    by_cases hx : x = e
    · simp [hx]
    · simp [hx, Ne.symm hx]

theorem Part.slotFreed_spec (s : Part) (k : Nat) : Part.only [.vint, .codec, .gate, .dict] s (s.slotFreed k) ∧
    (∀ j, (s.slotFreed k).sess j = if k = j then { Session.zero with openings := (s.sess k).openings } else s.sess j) ∧
    (k < 65536 → ∀ e ∈ sessionEntries, (s.slotFreed k).od e k = e.info.dflt) := by
  have forgot : Part.only [.vint, .codec, .gate, .dict] s (s.forgetWho (sessionWho k)) := fun f hf => by
    cases f <;> first | rfl | simp at hf
  have reset := Part.only_resetEntries sessionEntries ((s.forgetWho (sessionWho k)).onSess k fun q => { Session.zero with openings := q.openings }) k
  refine ⟨Part.only_trans forgot (Part.only_trans (Part.only_mono (Part.only_onSess _ _ _) (by decide)) (Part.only_mono reset (by decide))),
    fun j => ?_, fun hk e he => ?_⟩
  · have gate : (s.slotFreed k).gate = _ := reset .gate (by decide)
    rw [Part.sess, gate]
    exact Part.onSess_sess _ _ _ _
  · rw [Part.slotFreed, Part.resetEntries_od _ _ hk, if_pos he]

/-- What the closing of a slot leaves of the sessions: the slot is free, and of the others only the notices change. -/
structure CloseFrame (k : Nat) (a b : Part) : Prop where
  closed : (b.sess k).isOpen = false
  others : ∀ j, j ≠ k → ∃ n m l, b.sess j = { a.sess j with notices := n, noticeNo := m, lostRun := l }
  keys : b.keys = a.keys

/-- A session that closes: its open transfer is logged, the slot is freed, a mailbox command still running for it ends, and the closing is logged. -/
theorem Part.closeSession_spec {s : Part} {k : Nat} (h : (s.sess k).isOpen = true) (cause : Nat) :
    CloseFrame k s (s.closeSession k cause) ∧ (k < 65536 → ∀ e ∈ sessionEntries, (s.closeSession k cause).od e k = e.info.dflt) := by
  unfold Part.closeSession
  extract_lets q a zero b c d
  have logged : LogFrame s a := .ite (.refl s) (.logEv _ _ _ _ _ _)
  obtain ⟨freed, slots, values⟩ := a.slotFreed_spec k
  have silent : Part.only [.ports, .out, .freeCtr] c d := Part.only_ite (Part.only_mboxSilent _ _) (Part.only_refl _ _)
  change Part.only _ (a.slotFreed k) d at silent
  have last := LogFrame.logEv d 0x1403 k cause none 0xF
  have sess (j : Nat) : d.sess j = (a.slotFreed k).sess j := by
    rw [Part.sess, silent .gate (by decide), Part.sess]
  rw [if_neg (by simp [q, h])]
  refine ⟨⟨?_, fun j hj => ?_, ?_⟩, fun hk e he => ?_⟩
  · obtain ⟨n, m, l, same⟩ := last.sess k
    rw [same, sess, slots, if_pos rfl]
    rfl
  · obtain ⟨n, m, l, first⟩ := logged.sess j
    obtain ⟨n', m', l', same⟩ := last.sess j
    exact ⟨n', m', l', by rw [same, sess, slots, if_neg (Ne.symm hj), first]⟩
  · rw [last.only .keys (by decide), silent .keys (by decide), freed .keys (by decide), logged.only .keys (by decide)]
  · have noRing : e ≠ .ringState := by rintro rfl; revert he; decide
    have dict : d.dict = (a.slotFreed k).dict := silent .dict (by decide)
    rw [last.od e k noRing hk, Part.od, dict, ← Part.od, values hk e he]

/-- A slot that is free already stays as it is. -/
theorem Part.closeSession_free {s : Part} {k : Nat} (h : (s.sess k).isOpen = false) (cause : Nat) : s.closeSession k cause = s :=
  if_pos (by simp [h])

theorem Part.closeSession_frame (s : Part) (k cause : Nat) : CloseFrame k s (s.closeSession k cause) := by
  cases h : (s.sess k).isOpen
  · rw [Part.closeSession_free h]
    exact ⟨h, fun j _ => ⟨_, _, _, rfl⟩, rfl⟩
  · exact (Part.closeSession_spec h cause).1

/-- Whatever slot closes, a free slot stays free. -/
theorem Part.closeSession_staysFree {s : Part} {k : Nat} (h : (s.sess k).isOpen = false) (j cause : Nat) :
    ((s.closeSession j cause).sess k).isOpen = false := by
  have frame := s.closeSession_frame j cause
  by_cases hk : k = j
  · rw [hk]
    exact frame.closed
  · obtain ⟨n, m, l, same⟩ := frame.others k hk
    rw [same]
    exact h

/-! ## The sessions of a role (spec/11 R450) -/

theorem Part.closeSessions_keys (l : List Nat) (s : Part) (cause : Nat) : (iter l s fun s k => s.closeSession k cause).keys = s.keys := by
  induction l generalizing s with
  | nil => rfl
  | cons x xs ih => exact (ih (s.closeSession x cause)).trans (s.closeSession_frame x cause).keys

theorem Part.closeSessions_closed {k : Nat} (l : List Nat) (s : Part) (cause : Nat) (h : k ∈ l ∨ (s.sess k).isOpen = false) :
    ((iter l s fun s k => s.closeSession k cause).sess k).isOpen = false := by
  induction l generalizing s with
  | nil => exact h.resolve_left List.not_mem_nil
  | cons x xs ih =>
    refine ih (s.closeSession x cause) ?_
    rcases h with h | h
    · rcases List.mem_cons.mp h with rfl | h
      · exact .inr (s.closeSession_frame k cause).closed
      · exact .inl h
    · exact .inr (Part.closeSession_staysFree h x cause)

theorem Part.closeRole_keys (s : Part) (r : Nat) : (s.closeRole r).keys = s.keys := Part.closeSessions_keys _ s 3

/-- Every session of the role is closed. -/
theorem Part.closeRole_closed {s : Part} {r k : Nat} (hk : k < 32) (hr : s.od .sessionRole k = r) : ((s.closeRole r).sess k).isOpen = false := by
  refine Part.closeSessions_closed _ s 3 ?_
  cases h : (s.sess k).isOpen
  · exact .inr rfl
  · exact .inl (List.mem_filter.mpr ⟨List.mem_filter.mpr ⟨List.mem_range.mpr hk, h⟩, by simp [hr]⟩)

/-- The role's sessions close and the record is logged: the role keys stay. -/
theorem Part.closeRole_logged_roleKey (s : Part) (r code a b n : Nat) : (((s.closeRole r).logEv code a b).roleKey n) = s.roleKey n := by
  rw [Part.roleKey, Part.logEv_keys, Part.closeRole_keys]
  rfl

/-! ## Frames that arrive (spec/11 R442, R456) -/

theorem Part.sendFrame_mailbox (s : Part) (i : Port) (g : Frame) : s.sendFrame (.mailbox i) g =
    if (s.port i).mboxBusy = some 0xC800 then (s.onPort i fun q => { q with mboxBusy := none }).mbox i mbSuccess (frameBytes g) else s := rfl

/-- A mailbox that an answer left has no command VOP_TRANSPORT running. -/
theorem Part.mboxSilent_sendFrame (s : Part) (t : Transport) (g : Frame) : (s.sendFrame t g).mboxSilent t = s.sendFrame t g := by
  cases t with
  | ethernet a u => rfl
  | mctp e => rfl
  | mailbox i =>
    refine if_neg ?_
    rw [Part.sendFrame_mailbox]
    split
    · obtain ⟨-, ports, -⟩ := (s.onPort i fun q => { q with mboxBusy := none }).mbox_spec i mbSuccess (frameBytes g)
      obtain ⟨r, m, l, same⟩ := ports i
      rw [same, Part.onPort_port_self]
      simp
    · next idle => exact idle

/-- A frame whose handling ends in its answer: nothing follows the answer. -/
theorem Part.handleFrame_answered {s y : Part} {t : Transport} {f g : Frame}
    (h : (if f.kind = 4 then s.claim t f else if f.kind = 0 && f.opcode = 1 then s.openRequest t f else s.sessionFrame t f) = y.sendFrame t g) :
    s.handleFrame t f = y.sendFrame t g := by
  unfold Part.handleFrame
  rw [h]
  cases t with
  | ethernet a u => rfl
  | mctp e => rfl
  | mailbox i => exact (ite_eq_left_iff.mpr fun _ => Part.mboxSilent_sendFrame y (.mailbox i) g)

/-- Outside REST a wake event neither enters REST nor changes which agents have agreed to it. -/
theorem Part.wakeEvent_rest {s : Part} (h : s.rest.inRest = false) (n : Nat) : (s.wakeEvent n).rest.inRest = false ∧
    (s.wakeEvent n).rest.agreed = s.rest.agreed := by
  by_cases hs : s.rest.step.isSome = true
  · rw [Part.wakeEvent, if_pos hs]
    exact ⟨h, rfl⟩
  · rw [Part.wakeEvent, if_neg hs, if_neg (by simp [h])]
    exact ⟨h, rfl⟩

/-- Outside REST what the arrival itself changes is a latched wake event or the port's mailbox. -/
theorem Part.heardAt_spec {s : Part} (h : s.rest.inRest = false) (t : Transport) : Part.only [.rest, .ports] s (s.heardAt t) ∧
    (s.heardAt t).rest.inRest = false ∧ (s.heardAt t).rest.agreed = s.rest.agreed := by
  cases t with
  | ethernet a u => exact ⟨Part.only_refl _ _, h, rfl⟩
  | mctp e => exact ⟨Part.only_mono (s.wakeEvent_spec 3 h) (by decide), Part.wakeEvent_rest h 3⟩
  | mailbox i => exact ⟨Part.only_mono (s.only_onPort _ _) (by decide), h, rfl⟩

/-- A gatehouse that listened and held nothing back does so once the frame has arrived. -/
theorem Part.gateTake_heard {s : Part} (listens : s.listens = true) (free : s.gateHolds = false) (t : Transport) (f : Frame) :
    (s.heardAt t).listens = true ∧ (s.heardAt t).gateTake t f = (s.heardAt t).handleFrame t f := by
  have awake := Part.awake_of_listens listens
  obtain ⟨only, awake', agreed⟩ := Part.heardAt_spec awake t
  have dict : (s.heardAt t).dict = s.dict := only .dict (by decide)
  have boot : (s.heardAt t).boot = s.boot := only .boot (by decide)
  have codec : (s.heardAt t).codec = s.codec := only .codec (by decide)
  have still : (s.heardAt t).listens = true := by
    rw [← listens]
    unfold Part.listens Part.gateAlive Part.pstate Part.od0 Part.od
    rw [dict, boot, awake', awake]
  have free' : (s.heardAt t).gateHolds = false := by
    rw [← free]
    simp only [Part.gateHolds, Part.gateParked, awake, awake', agreed, codec]
  exact ⟨still, by rw [Part.gateTake, still, free']; rfl⟩

/-- A frame that is heard is handled. -/
theorem Part.arrive_heard {s : Part} {t : Transport} {f : Frame} (h : s.hears t f) (hk : f.kind ≠ 3) :
    s.arrive t f = (s.heardAt t).handleFrame t f := by
  obtain ⟨listens, free, fits, way⟩ := h
  obtain ⟨still, taken⟩ := Part.gateTake_heard listens free t f
  have awake := Part.awake_of_listens listens
  have short : ¬ frameLimit t < f.payloadLen + 64 := Nat.not_lt.mpr fits
  rw [← taken]
  cases t with
  | ethernet a u =>
    simp only [Part.arrive, Part.arriveEthernet, Part.heardAt]
    simp [way, hk, short, awake, listens]
  | mctp e =>
    simp only [Part.heardAt] at still
    simp only [Part.arrive, Part.arriveMctp, Part.onI3c, Part.heardAt]
    simp [hk, short, awake, still]
  | mailbox i =>
    obtain ⟨port, idle⟩ := way
    simp only [Part.arrive, Part.arriveMailbox, Part.heardAt]
    simp [hk, short, listens, port, idle]

section
variable {s : State} {t : Transport} {f : Frame} {c : Instr}

theorem exec_openFrame (hc : c = .vopOpen t f ∨ ∃ i, t = .mailbox i ∧ c = .mboxVopTransport i f) (hk : f.kind = 0) (ho : f.opcode = 1) :
    exec c s = .next (s.withPart (s.part.arrive t f)) := by
  rcases hc with rfl | ⟨i, rfl, rfl⟩
  · have row : rowFrame 0x01 f = true := by simp [rowFrame, hk, ho]
    rw [exec_vopOpen, execVopOpen, State.run_eq, Part.arriveAs, if_pos row]
  · rw [exec_mboxVopTransport, execMboxVopTransport, State.run_eq, Part.arrive]

theorem exec_claimFrame (hc : c = .vopClaim t f ∨ ∃ i, t = .mailbox i ∧ c = .mboxVopTransport i f) (hk : f.kind = 4) :
    exec c s = .next (s.withPart (s.part.arrive t f)) := by
  rcases hc with rfl | ⟨i, rfl, rfl⟩
  · rw [exec_vopClaim, execVopClaim, State.run_eq, if_pos hk]
  · rw [exec_mboxVopTransport, execMboxVopTransport, State.run_eq, Part.arrive]

end

/-! ## OPEN (spec/11 R452) -/

/-- A session open in a slot with its number and the part's nonce, before its record and its answer. -/
def Part.opened (s : Part) (t : Transport) (f : Frame) (k key id nonce : Nat) : Part :=
  ((((s.free.2.onSess k fun o =>
    { Session.zero with isOpen := true, openings := o.openings + 1, peer := t, origin := t, usedAt := s.now + 1
                        key := ofBytes (hkdf (toBytes 32 f.payload ++ toBytes 32 nonce) (toBytes 48 key)
                          (asciiBytes "GZ8-SESS" ++ [f.role] ++ toBytes 4 id) 48) }).setOd
    .sessionId k id).setOd .sessionRole k f.role).setOd .sessionTransport k (transportCode t)).setOd .sessionPeer k (peerBytes t)

theorem Part.openSession_eq (s : Part) (t : Transport) (f : Frame) (k key : Nat) {id nonce : Nat}
    (hid : id = sessionNumber k (s.sess k).openings) (hn : nonce = Config.random s.freeCtr % 2 ^ 256) :
    s.openSession t f k key = ((s.opened t f k key id nonce).logEv 0x1402 k f.role).sendFrame t
      (responseTo f f.session f.role rOk (id ||| (nonce <<< 32)) 36 key) := by
  subst hid hn
  rfl

theorem Part.only_opened (s : Part) (t : Transport) (f : Frame) (k key id nonce : Nat) :
    Part.only [.dict, .gate, .freeCtr] s (s.opened t f k key id nonce) := by
  unfold Part.opened
  iterate 4 refine Part.only_trans ?_ (Part.only_mono (Part.only_setOd _ _ _ _) (by decide))
  exact Part.only_trans (Part.only_mono s.only_free (by decide)) (Part.only_mono (Part.only_onSess _ _ _) (by decide))

theorem sessionNumber_lt {k : Nat} (hk : k < 32) (n : Nat) : sessionNumber k n < 2 ^ 32 := by
  unfold sessionNumber
  dsimp only
  split <;> omega

theorem transportCode_lt (t : Transport) : transportCode t < 256 := by
  cases t with
  | ethernet a u => exact (by decide : 1 < 256)
  | mctp e => exact (by decide : 2 < 256)
  | mailbox i => simp only [transportCode]; omega

/-- The entries of a session that is open. -/
theorem Part.opened_od (s : Part) (t : Transport) (f : Frame) (k key id nonce : Nat) (hid : id < 2 ^ 32) (hr : f.role < 256) :
    (s.opened t f k key id nonce).od .sessionId k = id ∧ (s.opened t f k key id nonce).od .sessionRole k = f.role ∧
      (s.opened t f k key id nonce).od .sessionTransport k = transportCode t ∧
      ∀ e i, e ∉ sessionEntries → (s.opened t f k key id nonce).od e i = s.od e i := by
  unfold Part.opened
  refine ⟨?_, ?_, ?_, fun e i he => ?_⟩
  · rw [Part.od_setOd_ne _ _ _ _ (by decide), Part.od_setOd_ne _ _ _ _ (by decide), Part.od_setOd_ne _ _ _ _ (by decide)]
    exact Part.od_setOd_val _ _ _ _ hid
  · rw [Part.od_setOd_ne _ _ _ _ (by decide), Part.od_setOd_ne _ _ _ _ (by decide)]
    exact Part.od_setOd_val _ _ _ _ hr
  · rw [Part.od_setOd_ne _ _ _ _ (by decide)]
    exact Part.od_setOd_val _ _ _ _ (transportCode_lt t)
  · have ne (x : Entry) (hx : x ∈ sessionEntries) : x ≠ e := fun h => he (h ▸ hx)
    rw [Part.od_setOd_ne _ _ _ _ (ne _ (by decide)), Part.od_setOd_ne _ _ _ _ (ne _ (by decide)), Part.od_setOd_ne _ _ _ _ (ne _ (by decide)),
      Part.od_setOd_ne _ _ _ _ (ne _ (by decide))]
    rfl

theorem Part.role_of_key {s : Part} {r key : Nat} (h : s.roleKey r = some key) : 1 ≤ r ∧ r ≤ 4 := by
  unfold Part.roleKey at h
  dsimp only at h
  split at h
  · next ok =>
    simp only [Bool.and_eq_true, decide_eq_true_eq] at ok
    exact ok.1
  · contradiction

/-- What an accepted OPEN meets (spec/11 R452). -/
structure OpenRequest (s : Part) (t : Transport) (f : Frame) (rk k : Nat) : Prop where
  key : s.roleKey f.role = some rk
  auth : f.auth = frameMac f rk
  fresh : s.od .roleOpenSequence f.role < f.sequence
  format : f.format = 1
  magic : f.magic = 0x56
  session : f.session = 0
  length : f.length = 32
  payloadLen : f.payloadLen = 32
  slot : s.freeSlot = some k
  room : (s.openSessions.filter fun j => s.od .sessionRole j == f.role).length < 8
  allowed : bit (s.od0 (transportRoles t)) (f.role - 1) = true

/-- A change that leaves the dictionary, the gatehouse and the keys leaves what OPEN meets. -/
theorem OpenRequest.of_only {l : List PartField} {a b : Part} {t : Transport} {f : Frame} {key k : Nat} (h : OpenRequest a t f key k)
    (o : Part.only l a b) (hd : PartField.dict ∉ l) (hg : PartField.gate ∉ l) (hk : PartField.keys ∉ l) : OpenRequest b t f key k := by
  have od (e : Entry) (i : Nat) : b.od e i = a.od e i := by rw [Part.od, o .dict hd, Part.od]
  have sess (i : Nat) : b.sess i = a.sess i := by rw [Part.sess, o .gate hg, Part.sess]
  obtain ⟨role, auth, fresh, format, magic, session, length, payloadLen, slot, room, allowed⟩ := h
  refine ⟨?_, auth, ?_, format, magic, session, length, payloadLen, ?_, ?_, ?_⟩
  · rw [← role, Part.roleKey, o .keys hk, Part.roleKey]
  · rwa [od]
  · rw [← slot]
    simp only [Part.freeSlot, sess]
  · simpa only [Part.openSessions, sess, od] using room
  · rwa [Part.od0, od]

/-- An accepted OPEN advances the role's sequence and opens the session. -/
theorem Part.openRequest_accepted {s : Part} {t : Transport} {f : Frame} {key k : Nat} (h : OpenRequest s t f key k) :
    s.openRequest t f = (s.setOd .roleOpenSequence f.role f.sequence).openSession t f k key := by
  have od (e : Entry) (he : Entry.roleOpenSequence ≠ e) (i : Nat) : (s.setOd .roleOpenSequence f.role f.sequence).od e i = s.od e i :=
    Part.od_setOd_ne _ _ _ _ he
  have slot : (s.setOd .roleOpenSequence f.role f.sequence).freeSlot = some k := h.slot
  have room : ¬ 8 ≤ ((s.setOd .roleOpenSequence f.role f.sequence).openSessions.filter fun j =>
      (s.setOd .roleOpenSequence f.role f.sequence).od .sessionRole j == f.role).length := by
    simp only [od .sessionRole (by decide)]
    exact Nat.not_le.mpr h.room
  have allowed : bit ((s.setOd .roleOpenSequence f.role f.sequence).od0 (transportRoles t)) (f.role - 1) = true := by
    rw [Part.od0, od _ (by cases t <;> simp [transportRoles])]
    exact h.allowed
  rw [Part.openRequest, h.key]
  dsimp only
  rw [if_pos h.auth, Part.openChecked, if_neg (Nat.not_le.mpr h.fresh)]
  dsimp only
  rw [if_neg (by simp [h.format, h.magic, h.session, h.length, h.payloadLen]), slot]
  dsimp only
  rw [if_neg room, allowed]
  rfl

/-- The sequence of the role has advanced and the session is open, before its record and its answer. -/
def Part.openTaken (s : Part) (t : Transport) (f : Frame) (k key id nonce : Nat) : Part :=
  ((s.heardAt t).setOd .roleOpenSequence f.role f.sequence).opened t f k key id nonce

/-- A heard OPEN that is accepted: the session opens, is logged, and the answer gives its number and the nonce. -/
theorem Part.arrive_open {s : Part} {t : Transport} {f : Frame} {key k id nonce : Nat} (hh : s.hears t f) (hk : f.kind = 0) (ho : f.opcode = 1)
    (h : OpenRequest s t f key k) (hid : id = sessionNumber k (s.sess k).openings) (hn : nonce = Config.random s.freeCtr % 2 ^ 256) :
    s.arrive t f = ((s.openTaken t f k key id nonce).logEv 0x1402 k f.role).sendFrame t
      (responseTo f 0 f.role rOk (id ||| (nonce <<< 32)) 36 key) := by
  obtain ⟨only, -, -⟩ := Part.heardAt_spec (Part.awake_of_listens hh.1) t
  have gate : (s.heardAt t).gate = s.gate := only .gate (by decide)
  have counter : (s.heardAt t).freeCtr = s.freeCtr := only .freeCtr (by decide)
  have request : OpenRequest (s.heardAt t) t f key k := h.of_only only (by decide) (by decide) (by decide)
  rw [Part.arrive_heard hh (by omega)]
  refine Part.handleFrame_answered ?_
  rw [if_neg (by omega), if_pos (by simp [hk, ho]), Part.openRequest_accepted request, ← h.session]
  refine Part.openSession_eq _ t f k key ?_ ?_
  · rw [Part.setOd_sess, Part.sess, gate]
    exact hid
  · rw [Part.setOd_freeCtr, counter]
    exact hn

/-- What an accepted OPEN leaves before its record and its answer. -/
theorem Part.openTaken_spec {s : Part} {t : Transport} {f : Frame} {k id : Nat} (awake : s.rest.inRest = false) (hid : id < 2 ^ 32)
    (hr : f.role ≤ 4) (hs : f.sequence < 2 ^ 64) (key nonce : Nat) :
    (s.openTaken t f k key id nonce).sess k =
      { Session.zero with isOpen := true, openings := (s.sess k).openings + 1, peer := t, origin := t, usedAt := s.now + 1
                          key := ofBytes (hkdf (toBytes 32 f.payload ++ toBytes 32 nonce) (toBytes 48 key)
                            (asciiBytes "GZ8-SESS" ++ [f.role] ++ toBytes 4 id) 48) } ∧
    (s.openTaken t f k key id nonce).od .sessionId k = id ∧ (s.openTaken t f k key id nonce).od .sessionRole k = f.role ∧
    (s.openTaken t f k key id nonce).od .sessionTransport k = transportCode t ∧
    (s.openTaken t f k key id nonce).od .roleOpenSequence f.role = f.sequence ∧
    Part.only [.dict, .gate, .freeCtr] (s.heardAt t) (s.openTaken t f k key id nonce) := by
  obtain ⟨only, -, -⟩ := Part.heardAt_spec awake t
  have gate : (s.heardAt t).gate = s.gate := only .gate (by decide)
  have now : (s.heardAt t).now = s.now := only .now (by decide)
  obtain ⟨number, role, transport, others⟩ :=
    ((s.heardAt t).setOd .roleOpenSequence f.role f.sequence).opened_od t f k key id nonce hid (by omega)
  refine ⟨?_, number, role, transport, ?_, Part.only_trans (Part.only_mono (Part.only_setOd _ _ _ _) (by decide)) (Part.only_opened _ _ _ _ _ _ _)⟩
  · simp only [Part.openTaken, Part.opened, Part.setOd_sess, Part.onSess_sess_self, Part.free_part, Part.setOd_now, now]
    rw [Part.sess, Part.sess]
    dsimp only [Part.setOd_gate]
    rw [gate]
  · rw [Part.openTaken, others _ _ (by decide)]
    exact Part.od_setOd_val _ _ _ _ hs

/-! ## CLAIM and the keys of the roles (spec/11 R450, R451) -/

theorem Part.setRoleKey_roleKey (s : Part) {r : Nat} (h1 : 1 ≤ r) (h4 : r ≤ 4) (key : Nat) : (s.setRoleKey r key).roleKey r = some key := by
  simp [Part.setRoleKey, Part.roleKey, h1, h4]

/-- What an accepted CLAIM meets (spec/11 R451). -/
structure ClaimRequest (s : Part) (t : Transport) (f : Frame) (rk : Nat) : Prop where
  far : transportCode t ≠ 1
  unclaimed : s.roleLive roleCustodian = false
  auth : f.auth = 0
  format : f.format = 1
  magic : f.magic = 0x56
  op : f.opcode = 0
  session : f.session = 0
  length : f.length = 97
  payloadLen : f.payloadLen = 97
  point : s.roleKeyOf roleCustodian f.payload = some rk
  rng : s.rngOk = true

/-- A change that leaves the dictionary, the keys and the flash leaves what CLAIM meets. -/
theorem ClaimRequest.of_only {l : List PartField} {a b : Part} {t : Transport} {f : Frame} {key : Nat} (h : ClaimRequest a t f key)
    (o : Part.only l a b) (hd : PartField.dict ∉ l) (hk : PartField.keys ∉ l) (hf : PartField.flash ∉ l) : ClaimRequest b t f key := by
  have dict : b.dict = a.dict := o .dict hd
  have keys : b.keys = a.keys := o .keys hk
  have flash : b.flash = a.flash := o .flash hf
  obtain ⟨far, unclaimed, auth, format, magic, op, session, length, payloadLen, point, rng⟩ := h
  refine ⟨far, ?_, auth, format, magic, op, session, length, payloadLen, ?_, ?_⟩
  · rw [← unclaimed, Part.roleLive, keys, Part.roleLive]
  · rw [← point]
    unfold Part.roleKeyOf Part.agree Part.agreementKey Part.deviceScalar Part.deviceSecret
    rw [flash]
  · rw [← rng]
    unfold Part.rngOk Part.od0 Part.od
    rw [dict]

/-- An accepted CLAIM sets the custodian's key, is logged and answered under the new key. -/
theorem Part.claim_accepted {s : Part} {t : Transport} {f : Frame} {key : Nat} (h : ClaimRequest s t f key) : s.claim t f =
    ((s.setRoleKey roleCustodian key).logEv 0x1405 (transportCode t) 0).sendFrame t (responseTo f 0 roleCustodian rOk 0 0 key) := by
  obtain ⟨far, unclaimed, auth, format, magic, op, session, length, payloadLen, point, rng⟩ := h
  unfold Part.claim
  rw [if_neg (by simp [far, unclaimed]), if_neg (by simp [auth]), if_neg (by simp [format, magic, op, session, length, payloadLen]), point]
  dsimp only
  rw [rng]
  rfl

theorem Part.arrive_claim {s : Part} {t : Transport} {f : Frame} {key : Nat} (hh : s.hears t f) (hk : f.kind = 4) (h : ClaimRequest s t f key) :
    s.arrive t f = (((s.heardAt t).setRoleKey roleCustodian key).logEv 0x1405 (transportCode t) 0).sendFrame t
      (responseTo f 0 roleCustodian rOk 0 0 key) := by
  obtain ⟨only, -, -⟩ := Part.heardAt_spec (Part.awake_of_listens hh.1) t
  rw [Part.arrive_heard hh (by omega)]
  refine Part.handleFrame_answered ?_
  rw [if_pos hk, Part.claim_accepted (h.of_only only (by decide) (by decide) (by decide))]

/-- The role's key is EMPTY and its GEN counted up. -/
def Part.roleDestroyed (s : Part) (r : Nat) : Part :=
  { s with keys := { s.keys with roles := s.keys.roles.modify OneKey.zero r fun q => ⟨false, (q.gen + 1) % 256, 0⟩ } }

theorem Part.roleDestroyed_spec (s : Part) (r : Nat) : Part.only [.keys] s (s.roleDestroyed r) ∧ (s.roleDestroyed r).roleKey r = none :=
  ⟨fun f hf => by cases f <;> first | rfl | simp at hf, by simp [Part.roleDestroyed, Part.roleKey]⟩

section
variable {s : State} {w : Who} {r : Role}

/-- A role other than 0 has entries in the dictionary. -/
theorem role_inRange (h0 : r ≠ 0) : ¬(r.val = 0 || 4 < r.val) = true := by
  simp only [Bool.or_eq_true, decide_eq_true_eq, not_or]
  exact ⟨fun h => h0 (Fin.ext h), by omega⟩

theorem exec_rolePeerPublicWrite_sets (h0 : r ≠ 0) {point key : Nat} (hw : s.part.mayWrite w .rolePeerPublic)
    (agreed : s.part.roleKeyOf r point = some key) : exec (.rolePeerPublicWrite w r point) s =
      .next (s.withPart ((((s.part.setRoleKey r key).closeRole r).logEv 0x1404 r 1).emit (.answer w rOk []))) := by
  rw [exec_rolePeerPublicWrite, execRolePeerPublicWrite, State.run_eq, Part.rolePoint, if_neg (role_inRange h0), Part.written_eq _ _ _ hw rfl]
  rw [agreed, Reply.answer_ok]

theorem Part.roleCommand_runs (h0 : r ≠ 0) {p : Part} (hw : p.mayWrite w .roleCommand) : p.roleCommand w r 1 =
    if r.val = roleCustodian then p.refuse rCondition else (((p.roleDestroyed r).closeRole r).logEv 0x1404 r 0).ok := by
  rw [Part.roleCommand, if_neg (role_inRange h0), Part.command_eq _ _ _ hw (by decide) (by simp)]
  rfl

end

/-! ## The clocks and the commands of a slot (spec/11 R453, R454, R460) -/

section
variable {s : State} {k : Slot}

theorem exec_sessionIdleTimeout_closes (awake : s.part.rest.inRest = false) (idle : (s.part.sess k).executing = false)
    (unused : (s.part.sess k).usedAt ≠ s.part.now + 1) : exec (.sessionIdleTimeout k) s = .next (s.withPart (s.part.closeSession k 4)) := by
  rw [exec_sessionIdleTimeout, execSessionIdleTimeout, State.run_eq, if_neg (by simp [awake, idle, unused])]

theorem sessionWho_slot (k : Slot) : sessionWho k = .session k := by
  rw [sessionWho]
  exact congrArg Who.session (Fin.ext (Nat.mod_eq_of_lt k.isLt))

/-- A session that names itself closes after its answer, any other before it. -/
theorem exec_sessionCloseCommand_closes {w : Who} (hw : s.part.mayWrite w .sessionCommand) : exec (.sessionCloseCommand w k) s = .next (s.withPart
    (if w = .session k then (s.part.emit (.answer w rOk [])).closeSession k 2 else (s.part.closeSession k 2).emit (.answer w rOk []))) := by
  rw [exec_sessionCloseCommand, execSessionCloseCommand, State.run_eq, Part.sessionCommand, Part.command_eq _ _ _ hw (by decide) (by simp),
    sessionWho_slot]
  by_cases h : w = .session k
  · simp [h, Part.ok, Reply.answer]
  · simp [h, Part.ok, Reply.answer]

theorem exec_vopTransferTimeout_ends (opened : (s.part.sess k).transfer ≠ 0) (late : s.part.segmentNow k = false) :
    exec (.vopTransferTimeout k) s = .next (s.withPart ((s.part.endTransfer k).logEv 0x1403 k 6)) := by
  rw [exec_vopTransferTimeout, execVopTransferTimeout, State.run_eq, if_neg (by simp [opened, late])]

/-- Notifications pushed one after the other. -/
theorem Part.pushNotices_spec (l : List Notify) {p : Part} {k : Nat} (awake : p.rest.inRest = false)
    (pushes : transportPushes (p.sess k).peer = true) : Part.only [.out] p (iter l p fun p n => p.pushNotice k n) ∧
      (iter l p fun p n => p.pushNotice k n).out = p.out ++ l.map fun n => .frame (p.sess k).peer
        (frameSign (notifyFrame (p.od .sessionId k) (p.od .sessionRole k) n) (p.sess k).key) := by
  induction l generalizing p with
  | nil => exact ⟨Part.only_refl _ _, (List.append_nil _).symm⟩
  | cons x xs ih =>
    have pushed : p.pushNotice k x = p.emit (.frame (p.sess k).peer
        (frameSign (notifyFrame (p.od .sessionId k) (p.od .sessionRole k) x) (p.sess k).key)) := if_pos (by simp [pushes, awake])
    obtain ⟨only, out⟩ := ih (p := p.pushNotice k x) (by rw [pushed]; exact awake) (by rw [pushed]; exact pushes)
    rw [pushed] at only out
    refine ⟨?_, ?_⟩
    · show Part.only _ p (iter xs (p.pushNotice k x) _)
      rw [pushed]
      exact Part.only_trans (p.only_emit _) only
    · show (iter xs (p.pushNotice k x) _).out = _
      rw [pushed, out, Part.emit_out, List.append_assoc]
      rfl

theorem exec_notifyResend_pushes (opened : (s.part.sess k).isOpen = true) (listens : s.part.listens = true) :
    exec (.notifyResend k) s = .next (s.withPart (iter (s.part.sess k).notices s.part fun p n => p.pushNotice k n)) := by
  rw [exec_notifyResend, execNotifyResend, State.run_eq, if_pos (by simp [opened, listens])]

end

/-! ## The obligation -/

/-- Settles O53: a slot by what its closing leaves, OPEN and CLAIM by the checks they meet. The causes 2, 4 and 6 in record 0x1403 are those of log
entry 48, and that CLAIM logs 0x1405 only is log entry 172. -/
theorem sessionsAndRoles : Obligations.SessionsAndRoles := by
  intro s
  refine ⟨fun x k cause opened _ => ?_, fun t f key k c hc hh hk ho role auth fresh last format magic session length payloadLen slot room allowed
      id nonce hid hn => ?_, fun t f key c hc hh far unclaimed hk auth format magic op session length payloadLen point rng => ?_,
    fun a u f up hk => ⟨fun ok => ?_, fun no => ?_⟩, fun i f listens => ⟨fun off => ?_, fun on busy => ?_⟩,
    fun k => ⟨exec_sessionIdleTimeout_closes, fun w hw => exec_sessionCloseCommand_closes hw,
      fun opened late => ⟨exec_vopTransferTimeout_ends opened late, ?_⟩, fun opened listens pushes => ?_⟩,
    fun w r h0 => ⟨fun point key hw agreed => ⟨exec_rolePeerPublicWrite_sets h0 hw agreed, ?_⟩, fun hw other => ?_, fun hw custodian => ?_⟩,
    fun x r k hr _ => Part.closeRole_closed k.isLt hr⟩
  · obtain ⟨frame, values⟩ := Part.closeSession_spec opened cause
    have hk : k.val < 65536 := by omega
    exact ⟨frame.closed, values hk _ (by decide), values hk _ (by decide), values hk _ (by decide), fun j hj => frame.others j fun h => hj (Fin.ext h)⟩
  · have request : OpenRequest s.part t f key k := ⟨role, auth, fresh, format, magic, session, length, payloadLen, slot, room, allowed⟩
    have hslot : k < 32 := List.mem_range.mp (List.mem_of_find?_eq_some slot)
    have hid' : id < 2 ^ 32 := hid ▸ sessionNumber_lt hslot _
    refine ⟨s.part.openTaken t f k key id nonce, ?_, Part.openTaken_spec (Part.awake_of_listens hh.1) hid' (Part.role_of_key role).2 last key nonce⟩
    rw [exec_openFrame hc hk ho, Part.arrive_open hh hk ho request hid hn]
  · have request : ClaimRequest s.part t f key := ⟨far, unclaimed, auth, format, magic, op, session, length, payloadLen, point, rng⟩
    refine ⟨?_, Part.setRoleKey_roleKey _ (by decide) (by decide) key⟩
    rw [exec_claimFrame hc hk, Part.arrive_claim hh hk request]
  · rw [exec_vopWakeFrame, execVopWakeFrame, State.run_eq, if_pos hk, Part.arrive, Part.arriveEthernet]
    simp [up, hk, Part.wakeFrame, ok, transportCode]
  · rw [exec_vopWakeFrame, execVopWakeFrame, State.run_eq, if_pos hk, Part.arrive, Part.arriveEthernet]
    simp [up, hk, Part.wakeFrame, no, transportCode]
  · rw [exec_mboxVopTransport, execMboxVopTransport, State.run_eq, Part.arriveMailbox]
    simp [listens, off]
  · rw [exec_mboxVopTransport, execMboxVopTransport, State.run_eq, Part.arriveMailbox]
    simp [listens, on, busy]
  · rw [Part.endTransfer, Part.onSess_sess_self]
  · obtain ⟨only, out⟩ := Part.pushNotices_spec (s.part.sess k).notices (Part.awake_of_listens listens) pushes
    exact ⟨_, exec_notifyResend_pushes opened listens, only, out⟩
  · rw [Part.closeRole_logged_roleKey]
    exact Part.setRoleKey_roleKey _ (Nat.pos_of_ne_zero fun h => h0 (Fin.ext h)) (by omega) key
  · obtain ⟨only, empty⟩ := s.part.roleDestroyed_spec r
    refine ⟨s.part.roleDestroyed r, ?_, only, (Part.closeRole_logged_roleKey _ _ _ _ _ _).trans empty⟩
    rw [exec_roleDestroy, execRoleDestroy, State.run_eq, Part.roleCommand_runs h0 hw, if_neg other, Reply.answer_ok]
  · rw [exec_roleDestroy, execRoleDestroy, State.run_eq, Part.roleCommand_runs h0 hw, if_pos custodian, Reply.answer_refuse]

end Sys2Proof.Machine
end

section
/-!
SUPPORT. Changes of one pavilion, and chains of frames: what a part keeps after one more change, and what its entries read.
-/

namespace Sys2Proof.Machine

/-! ## Changes of one pavilion -/

/-- From `a` to `b` only a pavilion's own state and the vintages change. -/
structure OwnPavFrame (p : Nat) (a b : Part) : Prop where
  only : Part.only [.pavs, .vint] a b
  other : ∀ k, k ≠ p → b.pav k = a.pav k

namespace OwnPavFrame
variable {p : Nat} {a b c : Part}

theorem refl (p : Nat) (a : Part) : OwnPavFrame p a a := ⟨Part.only_refl _ _, fun _ _ => rfl⟩

theorem trans (h : OwnPavFrame p a b) (k : OwnPavFrame p b c) : OwnPavFrame p a c :=
  ⟨Part.only_trans h.only k.only, fun j hj => (k.other j hj).trans (h.other j hj)⟩

theorem onPav (h : OwnPavFrame p a b) (f : PavState → PavState) : OwnPavFrame p a (b.onPav p f) :=
  ⟨Part.only_trans h.only (Part.only_mono (b.only_onPav _ _) (by decide)), fun k hk => (Part.onPav_pav_other _ _ _ (Ne.symm hk)).trans (h.other k hk)⟩

theorem setOwn (h : OwnPavFrame p a b) (ext : Nat) (o : Own) : OwnPavFrame p a (b.setOwn p ext o) := h.onPav _

theorem ite {q : Prop} [Decidable q] {s a b : Part} (h : OwnPavFrame p s a) (k : OwnPavFrame p s b) : OwnPavFrame p s (if q then a else b) := by
  split
  · exact h
  · exact k

theorem iter {α : Type} {f : Part → α → Part} (h : ∀ s x, OwnPavFrame p s (f s x)) (xs : List α) (s : Part) : OwnPavFrame p s (iter xs s f) := by
  induction xs generalizing s with
  | nil => exact refl p s
  | cons x xs ih => exact (h s x).trans (ih _)

end OwnPavFrame

/-! ## Chains of changes -/

theorem State.withPart_withPart (s : State) (p q : Part) : (s.withPart p).withPart q = s.withPart q := rfl

/-- What a command comes to, from what its change of the part comes to. -/
theorem State.next_withPart {s : State} {p q : Part} (h : p = q) : (.next (s.withPart p) : Host.Outcome State Fault Refusal) = .next (s.withPart q) := by
  rw [h]

/-- Parts with one store read the same. -/
theorem Part.od_congr {a b : Part} (h : b.dict = a.dict) (e : Entry) (i : Nat) : b.od e i = a.od e i := by
  unfold Part.od
  rw [h]

/-- One more change, of fields that may change. -/
theorem Part.only.next {l l' : List PartField} {a b c : Part} (h : Part.only l a b) (k : Part.only l' b c)
    (hl : ∀ f ∈ l', f ∈ l) : Part.only l a c := Part.only_trans h (Part.only_mono k hl)

/-- One more write of an entry that may change. -/
theorem Part.odOnly.setOd {l : List (Entry × Nat)} {a b : Part} (h : Part.odOnly l a b) (e : Entry) (i v : Nat)
    (hi : i < 65536) (hm : (e, i) ∈ l) : Part.odOnly l a (b.setOd e i v) :=
  Part.odOnly_trans h (Part.odOnly_setOd _ _ _ _ hi hm)

/-- A change that leaves the dictionary. -/
theorem Part.odOnly.same {l : List (Entry × Nat)} {fs : List PartField} {a b c : Part} (h : Part.odOnly l a b) (k : Part.only fs b c)
    (hd : PartField.dict ∉ fs) : Part.odOnly l a c := Part.odOnly_trans h (Part.odOnly_of_dict (k .dict hd))

/-- One more change, of entries that may change. -/
theorem Part.keepsOd.next {l l' : List Entry} {a b c : Part} (h : Part.keepsOd l a b) (k : Part.keepsOd l' b c)
    (hl : ∀ e ∈ l', e ∈ l) : Part.keepsOd l a c := Part.keepsOd_trans h (Part.keepsOd_mono k hl)

/-- One more write of an entry that may change. -/
theorem Part.keepsOd.setOd {l : List Entry} {a b : Part} (h : Part.keepsOd l a b) (e : Entry) (i v : Nat) (he : e ∈ l) :
    Part.keepsOd l a (b.setOd e i v) := Part.keepsOd_trans h (Part.keepsOd_setAny _ _ _ he)

/-- A change that leaves the dictionary. -/
theorem Part.keepsOd.same {l : List Entry} {fs : List PartField} {a b c : Part} (h : Part.keepsOd l a b) (k : Part.only fs b c)
    (hd : PartField.dict ∉ fs) : Part.keepsOd l a c := Part.keepsOd_trans h (Part.keepsOd_of_only k hd)

/-- Driving CORE_EN changes that land only. -/
theorem Part.only_setCoreEn (s : Part) (on : Bool) : Part.only [.power, .out] s (s.setCoreEn on) := by
  unfold Part.setCoreEn
  exact Part.only_ite (Part.only_refl _ _) fun f hf => by cases f <;> first | rfl | simp at hf

/-- A change of the REST sequencer. -/
theorem Part.only_rest (s : Part) (r : RestState) : Part.only [.rest] s { s with rest := r } := fun f hf => by
  cases f <;> first | rfl | simp at hf

/-- A change of the power-input controller. -/
theorem Part.only_power (s : Part) (r : PowerState) : Part.only [.power] s { s with power := r } := fun f hf => by
  cases f <;> first | rfl | simp at hf

/-- A change of the boot sequence. -/
theorem Part.only_boot (s : Part) (r : BootState) : Part.only [.boot] s { s with boot := r } := fun f hf => by
  cases f <;> first | rfl | simp at hf

/-- A change of the seasons. -/
theorem Part.only_season (s : Part) (r : SeasonState) : Part.only [.season] s { s with season := r } := fun f hf => by
  cases f <;> first | rfl | simp at hf

/-- A change of flash. -/
theorem Part.only_flash (s : Part) (r : Flash) : Part.only [.flash] s { s with flash := r } := fun f hf => by
  cases f <;> first | rfl | simp at hf

/-- A loop that writes one value to entries: each member of the list reads it. -/
theorem Part.setEach_od (e : Entry) (v : Nat) (hv : v < 2 ^ (8 * e.info.bytes)) (l : List Nat) (k : Nat) (hl : ∀ j ∈ l, j < 65536) (s : Part)
    (hk : k < 65536) : (iter l s fun s j => s.setOd e j v).od e k = if k ∈ l then v else s.od e k := by
  induction l generalizing s with
  | nil => simp [iter]
  | cons j l ih =>
    show (iter l (s.setOd e j v) _).od e k = _
    rw [ih (fun i hi => hl i (List.mem_cons_of_mem _ hi)), Part.od_setOd _ _ _ _ _ _ (hl j List.mem_cons_self) hk]
    by_cases hm : k ∈ l
    · simp [hm]
    · by_cases hj : j = k
      · simp [hj, Nat.mod_eq_of_lt hv]
      · simp [hm, hj, Ne.symm hj]

/-- A loop that turns one value of some entries into another. -/
def Part.replaceEach (s : Part) (e : Entry) (a b : Nat) (l : List Nat) : Part := iter l s fun s n => if s.od e n = a then s.setOd e n b else s

theorem Part.only_replaceEach (e : Entry) (a b : Nat) (l : List Nat) (s : Part) : Part.only [.dict] s (s.replaceEach e a b l) :=
  Part.only_iter (fun _ _ => Part.only_ite (Part.only_setOd _ _ _ _) (Part.only_refl _ _)) _ _

theorem Part.keepsOd_replaceEach (e : Entry) (a b : Nat) (l : List Nat) (s : Part) : Part.keepsOd [e] s (s.replaceEach e a b l) :=
  Part.keepsOd_iter _ _ fun _ _ _ => Part.keepsOd_ite (Part.keepsOd_setAny _ _ _ (List.mem_singleton_self e)) (Part.keepsOd_refl _ _)

theorem Part.replaceEach_od (e : Entry) (a b : Nat) (hb : b < 2 ^ (8 * e.info.bytes)) (l : List Nat) (n : Nat) (hl : ∀ j ∈ l, j < 65536) (s : Part)
    (hn : n < 65536) : (s.replaceEach e a b l).od e n = if n ∈ l ∧ s.od e n = a then b else s.od e n := by
  induction l generalizing s with
  | nil => simp [Part.replaceEach, iter]
  | cons j l ih =>
    show ((if s.od e j = a then s.setOd e j b else s).replaceEach e a b l).od e n = _
    rw [ih fun i hi => hl i (List.mem_cons_of_mem _ hi)]
    by_cases h : j = n
    · subst h
      by_cases ha : s.od e j = a
      · rw [if_pos ha, Part.od_setOd_val _ _ _ _ hb]
        simp [ha]
      · simp [ha]
    · have same : (if s.od e j = a then s.setOd e j b else s).od e n = s.od e n := by
        split
        · rw [Part.od_setOd _ _ _ _ _ _ (hl j List.mem_cons_self) hn, if_neg fun k => h k.2]
        · rfl
      rw [same]
      simp [Ne.symm h]

/-- Logging leaves every entry but RING_STATE. -/
theorem LogFrame.keeps {a b : Part} (h : LogFrame a b) : Part.keepsOd [.ringState] a b := fun e i he hi =>
  h.od e i (fun q => he (List.mem_singleton.mpr q)) hi

/-- More entries may change. -/
theorem Part.odOnly.mono {l l' : List (Entry × Nat)} {a b : Part} (h : Part.odOnly l a b) (hl : ∀ x ∈ l, x ∈ l') : Part.odOnly l' a b :=
  fun e i hi hm => h e i hi fun k => hm (hl _ k)

/-- A stage's end changes the stage and its times. -/
theorem Part.stageEnd_spec (s : Part) (k : Nat) {next : Nat} (h : next < 256) : (s.stageEnd k next).od .bootState 0 = next ∧
    Part.odOnly [(.bootState, 0), (.bootStageTimes, 0)] s (s.stageEnd k next) :=
  ⟨Part.od_setOd_val _ _ _ _ h, Part.odOnly_trans (Part.odOnly_setOd s .bootStageTimes 0 _ (by decide) (by decide))
    (Part.odOnly_setOd _ _ _ _ (by decide) (by decide))⟩

end Sys2Proof.Machine
end

section
/-!
O1 to O5: the queue of commands and the step (spec/opcode_table.json, log entry 7).
-/

namespace Sys2Proof.Machine

/-- Settles O1: a step takes the command at the front of the queue. -/
theorem stepRunsFrontCommand : Obligations.StepRunsFrontCommand := fun _ _ _ => rfl

/-- Settles O2: an idle step is a tick of the time base. -/
theorem emptyQueueStepAdvancesTime : Obligations.EmptyQueueStepAdvancesTime := by
  intro s h
  have hs : step s = .next (s.withPart s.part.tick) := by
    rw [step, h]
    rfl
  rw [hs, Part.tick]
  cases s.part.power.vaux <;> rfl

/-- Settles O3: every step answers a next state, by induction on the number of steps. -/
theorem noCommandStopsTheBlock : Obligations.NoCommandStopsTheBlock := by
  intro k
  induction k with
  | zero => exact fun _ => trivial
  | succ k ih =>
    intro s
    obtain ⟨p, h⟩ := step_run s
    exact ⟨_, h, ih _⟩

/-- Settles O4: each step takes one command off the queue, by induction on the number of steps. -/
theorem commandsRunInOrder : Obligations.CommandsRunInOrder := by
  intro k
  induction k with
  | zero => exact fun s => ⟨s, rfl, rfl⟩
  | succ k ih =>
    intro s
    obtain ⟨p, h⟩ := step_run s
    obtain ⟨t, run, queue⟩ := ih ⟨s.pending.tail, p⟩
    refine ⟨t, ?_, queue.trans List.drop_tail⟩
    simp only [Host.Core.run, show core.step s = _ from h]
    exact run

/-- Settles O5: the queue after a step is the tail of the queue before it. -/
theorem stepKeepsQueueWellFormed : Obligations.StepKeepsQueueWellFormed := by
  intro s t wf h
  obtain ⟨p, hp⟩ := step_run s
  obtain rfl : (⟨s.pending.tail, p⟩ : State) = t := Host.Outcome.next.inj (hp.symm.trans h)
  exact List.all_eq_true.mpr fun c hc => List.all_eq_true.mp wf c (List.mem_of_mem_tail hc)

end Sys2Proof.Machine
end

section
/-!
O6 and O9: the machine after reset, and the mailbox's timestamp (spec/12 R467, R471, spec/16 R574).
-/

namespace Sys2Proof.Machine

/-- At reset the dictionary holds its defaults but for the stage of the boot, the package's power state and codebook slot 0. -/
theorem Part.reset_od {e : Entry} {i : Nat} (hi : i < 65536) (hb : (e, i) ≠ (.bootState, 0)) (hp : (e, i) ≠ (.packagePowerState, 0))
    (hc : (e, i) ≠ (.codebookState, 0)) : Part.reset.od e i = e.info.dflt := by
  have other : ∀ f : Entry, (e, i) ≠ (f, 0) → f.key 0 ≠ e.key i := fun f h q =>
    h (Prod.ext (Entry.key_inj (by decide) hi q).1.symm (Entry.key_inj (by decide) hi q).2.symm)
  show dictReset.get _ _ = _
  rw [dictReset, Sparse.get_put, if_neg (other _ hc), Sparse.get_put, if_neg (other _ hp), Sparse.get_put, if_neg (other _ hb), Sparse.get_nil]

/-- Settles O6: the reset state by its definition. -/
theorem resetState : Obligations.ResetState :=
  ⟨rfl, fun _ _ hi hb hp hc => Part.reset_od hi hb hp hc, by decide, by decide, by decide, rfl, rfl, rfl, fun _ => rfl, fun _ => rfl, fun _ => rfl,
    fun _ _ => rfl, fun _ => ⟨rfl, rfl⟩, rfl, rfl⟩

/-- What moves with a step of the time base leaves the time base. -/
theorem Part.shiftTimes_now (s : Part) (old new : Nat) : (s.shiftTimes old new).now = s.now := by
  unfold Part.shiftTimes
  extract_lets f t
  split
  · exact Part.setOd_now _ _ _ _
  · rfl

/-- After a step the time base reads the new time (spec/12 R472). -/
theorem Part.stepTime_now (s : Part) (new : Nat) : (s.stepTime new).now = new := by
  unfold Part.stepTime
  extract_lets old a b c d
  have hb : b.now = new := Part.shiftTimes_now _ _ _
  have hd : d.now = c.now := Part.only_iter (fun s k => s.only_hammerWindow k) _ c .now (by decide)
  exact (Part.logEv_now _ _ _ _ _ _).trans (hd.trans hb)

/-- Settles O9: the mailbox's timestamp is the time base, and a host's set steps it only where it may. -/
theorem mailboxTimestamp : Obligations.MailboxTimestamp := by
  intro s i time
  have set : exec (.mboxSetTimestamp i time) s = .next (s.withPart
      ((if s.part.od0 .timeSource = 2 && s.part.od0 .timeHostPort = i.val then s.part.stepTime time.toNat
        else s.part.count .timeSetsIgnored 0).mbox i 0 [])) := rfl
  refine ⟨rfl, fun other => ?_, fun host here => ⟨_, ?_, s.part.stepTime_now time.toNat⟩⟩
  · rw [set, if_neg (by simpa using other)]
  · rw [set, if_pos (by simp [host, here])]

end Sys2Proof.Machine
end

section
/-!
O57: an exit from REST to which the core supply does not come (spec/13 R517).
-/

namespace Sys2Proof.Machine

/-- What the missing CORE_PG of an exit leaves, before its record: REST again, with the failure counted (spec/13 R517). -/
def Part.exitTimedOut (s : Part) : Part :=
  ((((({ s with rest := { s.rest with exiting := false } } : Part).setCoreEn false).setOd .packagePowerState 0 3).setOd .bootState 0 13).count
    .restExitFailures 0)

theorem Part.exitTimedOut_rest (s : Part) : s.exitTimedOut.rest = { s.rest with exiting := false } :=
  (Part.only_setCoreEn _ _) .rest (by decide)

theorem Part.exitTimedOut_power (s : Part) : s.exitTimedOut.power = { s.power with coreEn := false } := Part.setCoreEn_power _ _

theorem Part.exitTimedOut_od (s : Part) : s.exitTimedOut.od .packagePowerState 0 = 3 ∧
    Part.odOnly [(.packagePowerState, 0), (.bootState, 0)] s s.exitTimedOut := by
  unfold Part.exitTimedOut
  refine ⟨by simp (disch := decide) only [Part.count_od, Part.od_setOd_ne, Part.od_setOd_val], ?_⟩
  exact (((((Part.odOnly_refl _ _).same (Part.only_rest _ _) (by decide)).same (Part.only_setCoreEn _ _) (by decide)).setOd _ _ _ (by decide) (by decide)).setOd _ _ _ (by decide) (by decide)).same (Part.only_count _ _ _ _) (by decide)

theorem Part.only_exitTimedOut (s : Part) : Part.only [.dict, .power, .rest, .delta, .out] s s.exitTimedOut := by
  unfold Part.exitTimedOut
  exact (((((Part.only_refl _ _).next (Part.only_rest _ _) (by decide)).next (Part.only_setCoreEn _ _) (by decide)).next (Part.only_setOd _ _ _ _) (by decide)).next
    (Part.only_setOd _ _ _ _) (by decide)).next (Part.only_count _ _ _ _) (by decide)

/-- The failure is counted (spec/13 R517). -/
theorem Part.exitTimedOut_tally (s : Part) : s.exitTimedOut.tallyNow .restExitFailures 0 = s.tallyNow .restExitFailures 0 + 1 := by
  have core := Part.only_setCoreEn ({ s with rest := { s.rest with exiting := false } } : Part) false
  unfold Part.exitTimedOut
  rw [Part.count_tallyNow, Part.tallyNow, Part.tallyNow, Part.od_setOd_ne _ _ _ _ (by decide), Part.od_setOd_ne _ _ _ _ (by decide),
    Part.setCoreEn_od, Part.setOd_delta, Part.setOd_delta, core .delta (by decide)]
  rfl

/-- A wake event in REST starts the exit (spec/13 R511, R516). -/
theorem Part.wakeEvent_rests {s : Part} {source : Nat} (hs : s.rest.step = none) (hi : s.rest.inRest = true) (hx : s.rest.exiting = false)
    (h : source < 256) : (s.wakeEvent source).rest.inRest = true ∧ (s.wakeEvent source).rest.exiting = true ∧
    (s.wakeEvent source).rest.coreUp = false ∧ (s.wakeEvent source).power.coreEn = true ∧ (s.wakeEvent source).od .packagePowerState 0 = 5 ∧
    (s.wakeEvent source).od .restLastWakeSource 0 = source := by
  unfold Part.wakeEvent
  rw [if_neg (by simp [hs]), if_pos (by simp [hi, hx])]
  extract_lets t
  refine ⟨hi, rfl, rfl, rfl, ?_, ?_⟩
  · rw [Part.emit_od, Part.od_setOd_ne _ _ _ _ (by decide)]
    exact (Part.od_congr (a := t) rfl _ _).trans (Part.od_setOd_val _ _ _ _ (by decide))
  · rw [Part.emit_od, Part.od_setOd_ne _ _ _ _ (by decide)]
    exact (Part.od_congr (a := t) rfl _ _).trans ((Part.od_setOd_ne _ _ _ _ (by decide)).trans (Part.od_setOd_val _ _ _ _ h))

/-- Settles O57: the failed exit leaves REST as it was, so that the next wake begins the exit again. -/
theorem restExitTimeout : Obligations.RestExitTimeout := by
  intro s inRest exiting down step
  obtain ⟨pkg, od⟩ := s.part.exitTimedOut_od
  have rest := s.part.exitTimedOut_rest
  refine ⟨s.part.exitTimedOut, ?_, congrArg PowerState.coreEn s.part.exitTimedOut_power, rest, pkg, s.part.exitTimedOut_tally,
    s.part.only_exitTimedOut, od, fun source hs => ?_⟩
  · rw [exec_restExitCorePgTimeout, execRestExitCorePgTimeout, State.run_eq, if_neg (by simp [Part.exits, inRest, exiting, down])]
    rfl
  · have logged : (s.part.exitTimedOut.logEv 0x1606 0 0).rest = { s.part.rest with exiting := false } := (Part.logEv_rest _ _ _ _ _ _).trans rest
    have known : (decide (1 ≤ source.val) && decide (source.val ≤ 4)) = true := by
      simp only [List.mem_cons, List.not_mem_nil, or_false] at hs
      simp only [Bool.and_eq_true, decide_eq_true_eq]
      omega
    refine ⟨(s.part.exitTimedOut.logEv 0x1606 0 0).wakeEvent source, ?_, Part.wakeEvent_rests (by rw [logged, step]) (by rw [logged, inRest])
      (by rw [logged]) (by omega)⟩
    rw [exec_wakeEvent, execWakeEvent, State.run_eq, State.withPart_part, State.withPart_withPart, if_pos known]

end Sys2Proof.Machine
end

section
/-!
O42: the main input, from insertion to absence, and its trips (spec/14 R528 to R537).
-/

namespace Sys2Proof.Machine

/-- MAIN_STATE reads what it was set to. -/
theorem Part.setMain_od (s : Part) {v : Nat} (h : v < 256) : (s.setMain v).od .mainState 0 = v := Part.od_setOd_val _ _ _ _ h

/-- Setting MAIN_STATE leaves every other entry. -/
theorem Part.setMain_keeps (s : Part) (v : Nat) {e : Entry} (h : e ≠ .mainState) (i : Nat) : (s.setMain v).od e i = s.od e i :=
  Part.od_setOd_ne _ _ _ _ (Ne.symm h)

/-- The counts and settings of the main input stand through a fall of MAIN_PG (spec/14 R523). -/
theorem Part.mainOff_kept (s : Part) {e : Entry}
    (h : e ∈ [Entry.mainTrips, .mainRetryCount, .mainLastTrip, .presenceBounces, .mainRetries, .mainWindowExits]) :
    s.mainOff.od e 0 = s.od e 0 :=
  s.mainOff_od (by decide)
    ((by decide : ∀ e ∈ [Entry.mainTrips, .mainRetryCount, .mainLastTrip, .presenceBounces, .mainRetries, .mainWindowExits], e ∈ keptEntries) e h)
    ((by decide : ∀ e ∈ [Entry.mainTrips, .mainRetryCount, .mainLastTrip, .presenceBounces, .mainRetries, .mainWindowExits], e ∉ lostEntries) e h)

/-- The gate is driven in RAMPING and ON. -/
theorem Part.mainDriven_of {s : Part} (h : s.od .mainState 0 ∈ [2, 3]) : s.mainDriven = true := by
  rcases List.mem_pair.mp h with h | h <;> simp [Part.mainDriven, Part.mainState, Part.od0, h]

/-! ## Trips -/

/-- A trip before its retry or its latch: the input off, the trip counted and recorded (spec/14 R534). -/
def Part.tripRecorded (s : Part) (cause : Nat) : Part :=
  let t := (s.mainOff.modOd .mainRetryCount 0 (· + 1)).modOd .mainTrips 0 (· + 1)
  ((t.setOd .mainLastTrip 0 cause).setOd .mainLastTripTime 0 t.now).logEv 0x1701 cause (t.od0 .mainRetryCount)

theorem Part.tripRecorded_spec (s : Part) {cause : Nat} (hc : cause < 256) (hn : s.od .mainRetryCount 0 < 255) :
    (s.tripRecorded cause).power = s.mainOff.power ∧ (s.tripRecorded cause).od .mainRetryCount 0 = s.od .mainRetryCount 0 + 1 ∧
    (s.tripRecorded cause).od .mainTrips 0 = (s.od .mainTrips 0 + 1) % 2 ^ 32 ∧ (s.tripRecorded cause).od .mainLastTrip 0 = cause ∧
    (s.tripRecorded cause).od .mainLastTripTime 0 = s.now % 2 ^ 64 ∧ (s.tripRecorded cause).od .mainRetries 0 = s.od .mainRetries 0 := by
  unfold Part.tripRecorded
  extract_lets t
  have count : t.od .mainRetryCount 0 = s.od .mainRetryCount 0 + 1 := by
    rw [← s.mainOff_kept (e := .mainRetryCount) (by decide)] at hn ⊢
    exact (Part.od_setOd_ne _ _ _ _ (by decide)).trans (Part.od_setOd_val _ _ _ _ (Nat.succ_lt_succ hn))
  have trips : t.od .mainTrips 0 = (s.od .mainTrips 0 + 1) % 2 ^ 32 := by
    refine (Part.od_setOd_self _ _ _ _).trans ?_
    rw [Part.modOd_eq, Part.od_setOd_ne _ _ _ _ (by decide), s.mainOff_kept (by decide)]
    rfl
  have retries : t.od .mainRetries 0 = s.od .mainRetries 0 :=
    (Part.od_setOd_ne _ _ _ _ (by decide)).trans ((Part.od_setOd_ne _ _ _ _ (by decide)).trans (s.mainOff_kept (by decide)))
  have now : t.now = s.now := s.mainOff_now
  have power : t.power = s.mainOff.power := rfl
  clear_value t
  refine ⟨?_, ?_, ?_, ?_, ?_, ?_⟩
  · rw [Part.logEv_power]
    exact power
  all_goals rw [Part.logEv_od _ _ _ _ _ _ (by decide) (by decide)]
  · rw [Part.od_setOd_ne _ _ _ _ (by decide), Part.od_setOd_ne _ _ _ _ (by decide), count]
  · rw [Part.od_setOd_ne _ _ _ _ (by decide), Part.od_setOd_ne _ _ _ _ (by decide), trips]
  · rw [Part.od_setOd_ne _ _ _ _ (by decide)]
    exact Part.od_setOd_val _ _ _ _ hc
  · rw [Part.od_setOd_self, now]
    rfl
  · rw [Part.od_setOd_ne _ _ _ _ (by decide), Part.od_setOd_ne _ _ _ _ (by decide), retries]

/-- A trip past MAIN_RETRIES latches, one before it waits for a retry (spec/14 R534). -/
theorem Part.mainTrip_eq (s : Part) (cause : Nat) : s.mainTrip cause =
    if (s.tripRecorded cause).od .mainRetries 0 < (s.tripRecorded cause).od .mainRetryCount 0 then
      ((s.tripRecorded cause).setMain 5).logEv 0x1702 cause ((s.tripRecorded cause).od0 .mainRetryCount)
    else (s.tripRecorded cause).setMain 4 := rfl

theorem Part.mainTrip_end (s : Part) (cause : Nat) : (s.mainTrip cause).power = (s.tripRecorded cause).power ∧
    (s.mainTrip cause).od .mainState 0 = (if (s.tripRecorded cause).od .mainRetries 0 < (s.tripRecorded cause).od .mainRetryCount 0 then 5 else 4) ∧
    ∀ e ∈ [Entry.mainRetryCount, .mainTrips, .mainLastTrip, .mainLastTripTime], (s.mainTrip cause).od e 0 = (s.tripRecorded cause).od e 0 := by
  have other : ∀ e ∈ [Entry.mainRetryCount, .mainTrips, .mainLastTrip, .mainLastTripTime], e ≠ .ringState ∧ e ≠ .mainState := by decide
  rw [Part.mainTrip_eq]
  generalize s.tripRecorded cause = t
  split
  · refine ⟨Part.logEv_power _ _ _ _ _ _, ?_, fun e h => ?_⟩
    · exact (Part.logEv_od _ _ _ _ _ _ (by decide) (by decide)).trans (Part.setMain_od _ (by decide))
    · exact (Part.logEv_od _ _ _ _ _ _ (other e h).1 (by decide)).trans (Part.setMain_keeps _ _ (other e h).2 _)
  · exact ⟨rfl, Part.setMain_od _ (by decide), fun e h => Part.setMain_keeps _ _ (other e h).2 _⟩

/-- The three trips act where the gate is driven (spec/14 R528, R530). -/
theorem exec_mainTrip {s : State} {c : Instr} {cause : Nat}
    (h : c = .mainFastTrip ∧ cause = 1 ∧ s.part.od .mainState 0 ∈ [2, 3] ∨
      c = .mainSoaTimerExpiry ∧ cause = 2 ∧ s.part.od .mainState 0 ∈ [2, 3] ∧ 0 ∈ s.part.power.limiting ∨
      c = .mainRampTimeout ∧ cause = 3 ∧ s.part.od .mainState 0 = 2) :
    cause < 256 ∧ exec c s = .next (s.withPart (s.part.mainTrip cause)) := by
  rcases h with ⟨rfl, rfl, h⟩ | ⟨rfl, rfl, h, hl⟩ | ⟨rfl, rfl, h⟩
  · exact ⟨by decide, by rw [exec_mainFastTrip, execMainFastTrip, State.run_eq, if_pos (Part.mainDriven_of h)]⟩
  · exact ⟨by decide, by rw [exec_mainSoaTimerExpiry, execMainSoaTimerExpiry, State.run_eq, if_pos (by simp [Part.mainDriven_of h, hl])]⟩
  · exact ⟨by decide, by rw [exec_mainRampTimeout, execMainRampTimeout, State.run_eq, if_pos (show s.part.mainState = 2 from h)]⟩

/-! ## Presence and absence -/

/-- The connector as it shows presence: the absence, if one ran, is over (spec/14 R530, R537). -/
def Part.plugged (s : Part) : Part := { s with power := { s.power with rawPresent := true, present := true, absence := false } }

/-- A connector that is present again after a short absence: counted and logged (spec/14 R537). -/
def Part.replugged (s : Part) : Part := (s.plugged.modOd .presenceBounces 0 (· + 1)).logEv 0x1705 (s.od0 .presenceBounces + 1) 0

theorem Part.replugged_od (s : Part) {e : Entry} (h : e ∉ [Entry.presenceBounces, .ringState]) : s.replugged.od e 0 = s.od e 0 := by
  simp only [List.mem_cons, List.not_mem_nil, or_false, not_or] at h
  unfold Part.replugged
  rw [Part.logEv_od _ _ _ _ _ _ h.2 (by decide)]
  exact (Part.od_setOd_ne _ _ _ _ (Ne.symm h.1)).trans (Part.od_congr rfl _ _)

theorem Part.replugged_bounces (s : Part) : s.replugged.od .presenceBounces 0 = (s.od .presenceBounces 0 + 1) % 2 ^ 32 := by
  unfold Part.replugged
  rw [Part.logEv_od _ _ _ _ _ _ (by decide) (by decide)]
  exact Part.od_setOd_self _ _ _ _

theorem Part.replugged_power (s : Part) : s.replugged.power = { s.power with rawPresent := true, present := true, absence := false } :=
  Part.logEv_power _ _ _ _ _ _

theorem exec_presenceDebounced_eq (s : State) : exec .presenceDebounced s = .next (s.withPart
    (let t := if s.part.power.rawPresent then s.part.plugged else s.part.plugged.wakeEvent 4
     if t.mainState = 0 then t.setMain 1
     else if s.part.power.rawPresent then t
     else
       let u := (t.modOd .presenceBounces 0 (· + 1)).logEv 0x1705 (t.od0 .presenceBounces + 1) 0
       if u.mainState = 5 then u else u.mainOff.setMain 1)) := rfl

/-- Presence in ABSENT begins the insertion. -/
theorem exec_presenceDebounced_absent {s : State} (hs : s.part.rest.step = none) (hi : s.part.rest.inRest = false)
    (h : s.part.od .mainState 0 = 0) : exec .presenceDebounced s = .next (s.withPart (s.part.plugged.setMain 1)) := by
  rw [exec_presenceDebounced_eq, Part.wakeEvent_awake (s := s.part.plugged) hi hs, ite_self]
  exact State.next_withPart (if_pos h)

/-- Presence after a short absence is a bounce: WAITING, but LATCHED stays. -/
theorem exec_presenceDebounced_bounce {s : State} (hs : s.part.rest.step = none) (hi : s.part.rest.inRest = false)
    (hp : s.part.power.rawPresent = false) (h : s.part.od .mainState 0 ≠ 0) : exec .presenceDebounced s = .next (s.withPart
      (if s.part.od .mainState 0 = 5 then s.part.replugged else s.part.replugged.mainOff.setMain 1)) := by
  rw [exec_presenceDebounced_eq, Part.wakeEvent_awake (s := s.part.plugged) hi hs, ite_self, hp, ← s.part.replugged_od (by decide)]
  exact State.next_withPart ((if_neg h).trans (if_neg Bool.false_ne_true))

/-- The connector as it shows a raw absence. -/
def Part.unplugged (s : Part) : Part := { s with power := { s.power with rawPresent := false } }

theorem exec_presentRawAbsence_eq (s : State) : exec .presentRawAbsence s = .next (s.withPart
    (let t := s.part.unplugged.wakeEvent 4
     if t.mainDriven then t.mainOff.setMain 1 else t)) := rfl

/-- A raw absence while the gate is driven takes it down (spec/14 R537). -/
theorem exec_presentRawAbsence_driven {s : State} (hs : s.part.rest.step = none) (hi : s.part.rest.inRest = false)
    (h : s.part.od .mainState 0 ∈ [2, 3]) : exec .presentRawAbsence s = .next (s.withPart
      (s.part.unplugged.mainOff.setMain 1)) := by
  rw [exec_presentRawAbsence_eq, Part.wakeEvent_awake (s := s.part.unplugged) hi hs]
  exact State.next_withPart (if_pos (Part.mainDriven_of h))

/-- The absence timer no longer runs. -/
def Part.absenceOver (s : Part) : Part := { s with power := { s.power with absence := false } }

theorem exec_absenceTimerExpiry_eq (s : State) : exec .absenceTimerExpiry s = .next (s.withPart
    (if !s.part.power.absence then s.part else (s.part.absenceOver.mainOff.setOd .mainRetryCount 0 0).setMain 0)) := rfl

/-! ## The boot that follows -/

/-- Nothing holds CORE_EN low while MAIN_PG stands: no thermal trip, fewer than three failures, and the part has not failed. -/
structure Part.coreFree (s : Part) : Prop where
  mainPG : s.power.mainPG = true
  thermtrip : s.power.thermtrip = true
  fails : s.power.coreFails < 3
  failed : s.od .partFailed 0 ≠ 1
  pav0 : s.boot.pav0Lost = false

/-- What begins stage 3 notes of a boot that follows a loss of the core supply: its start, with a record (spec/16 R574). -/
def Part.bootAgain (s : Part) : Part :=
  if s.boot.again then ({ s with boot := { s.boot with again := false, bootStart := s.now } } : Part).logEv 0x1901 (s.od0 .bootSource) 0 else s

theorem Part.bootAgain_spec (s : Part) : s.bootAgain.power = s.power ∧ Part.only (.power :: .boot :: logFields) s s.bootAgain ∧
    Part.keepsOd [.bootState, .bootStageTimes, .ringState] s s.bootAgain := by
  unfold Part.bootAgain
  split
  · exact ⟨Part.logEv_power _ _ _ _ _ _, ((Part.only_refl _ _).next (Part.only_boot _ _) (by decide)).next (Part.only_log _ _ _ _ _ _) (by decide),
      ((Part.keepsOd_refl _ _).same (Part.only_boot _ _) (by decide)).next (Part.keepsOd_logEv _ _ _ _ _ _) (by decide)⟩
  · exact ⟨rfl, Part.only_refl _ _, Part.keepsOd_refl _ _⟩

theorem Part.coreStart_eq {s : Part} (h : s.coreFree) : s.coreStart = (s.bootAgain.stageEnd 2 3).setCoreEn true := by
  obtain ⟨mainPG, therm, fails, failed, pav0⟩ := h
  have go : (!s.power.mainPG || !s.power.thermtrip || decide (3 ≤ s.power.coreFails)) = false := by simp [mainPG, therm, fails]
  have alive : (decide (s.od0 .partFailed = 1) || s.boot.pav0Lost) = false := by simp [Part.od0, failed, pav0]
  unfold Part.coreStart
  rw [alive, go]
  rfl

/-- Stage 3 begins with CORE_EN (spec/14 R531). -/
theorem Part.coreStart_spec {s : Part} (h : s.coreFree) : s.coreStart.power = { s.power with coreEn := true } ∧ s.coreStart.od .bootState 0 = 3 ∧
    Part.only (.power :: .boot :: logFields) s s.coreStart ∧ Part.keepsOd [.bootState, .bootStageTimes, .ringState] s s.coreStart := by
  rw [Part.coreStart_eq h]
  obtain ⟨power, only, od⟩ := s.bootAgain_spec
  obtain ⟨dict, entries⟩ := s.bootAgain.stageEnd_keeps 2 3
  refine ⟨?_, ?_, (only.next dict (by decide)).next (Part.only_setCoreEn _ _) (by decide), (od.next entries (by decide)).same (Part.only_setCoreEn _ _) (by decide)⟩
  · rw [Part.setCoreEn_power, dict .power (by decide), power]
  · rw [Part.setCoreEn_od]
    exact Part.od_setOd_val _ _ _ _ (by decide)

/-- MAIN_PG rises with the main input on (spec/14 R530). -/
theorem Part.setMainPG_spec (s : Part) (on : Bool) : (s.setMainPG on).power = { s.power with mainPG := on } ∧
    Part.only [.power, .out] s (s.setMainPG on) := by
  unfold Part.setMainPG
  split
  · next h => exact ⟨by rw [← h], Part.only_refl _ _⟩
  · exact ⟨rfl, ((Part.only_refl _ _).next (Part.only_power _ _) (by decide)).next (Part.only_emit _ _) (by decide)⟩

/-- Settles O42: each event of the main input by its own rule. -/
theorem mainInputSequence : Obligations.MainInputSequence := by
  intro s
  refine ⟨fun hs hi h => ?_, fun hs hi hp h => ?_, fun hs hi h => ?_, fun hp => ?_, fun ha => ?_, fun h hp => ?_, fun h ht hf hn hl => ?_,
    fun c cause hc hn => ?_, fun h hp => ?_, fun h => ⟨?_, ?_⟩⟩
  -- insertion
  · refine ⟨_, exec_presenceDebounced_absent hs hi h, Part.setMain_od _ (by decide), rfl, rfl, rfl, ?_, ?_⟩
    · exact ((Part.only_refl _ _).next (Part.only_power _ _) (by decide)).next (Part.only_setOd _ _ _ _) (by decide)
    · exact ((Part.odOnly_refl _ _).same (Part.only_power _ _) (by decide)).setOd _ _ _ (by decide) (by decide)
  -- a bounce
  · have power := s.part.replugged_power
    have counts : ∀ e ∈ [Entry.presenceBounces, .mainRetryCount], s.part.replugged.mainOff.od e 0 = s.part.replugged.od e 0 := fun e he =>
      s.part.replugged.mainOff_kept ((by decide : ∀ e ∈ [Entry.presenceBounces, .mainRetryCount],
        e ∈ [Entry.mainTrips, .mainRetryCount, .mainLastTrip, .presenceBounces, .mainRetries, .mainWindowExits]) e he)
    have retry : s.part.replugged.od .mainRetryCount 0 = s.part.od .mainRetryCount 0 := s.part.replugged_od (by decide)
    obtain ⟨-, -, present, absence, -⟩ := s.part.replugged.mainOff_power
    have run := exec_presenceDebounced_bounce hs hi hp fun h0 => by rw [h0] at h; exact absurd h (by decide)
    have here : s.part.replugged.power.present = true := congrArg PowerState.present power
    have gone : s.part.replugged.power.absence = false := congrArg PowerState.absence power
    have bounces := s.part.replugged_bounces
    have state : s.part.replugged.od .mainState 0 = s.part.od .mainState 0 := s.part.replugged_od (by decide)
    generalize s.part.replugged = t at *
    by_cases h5 : s.part.od .mainState 0 = 5
    · rw [if_pos h5] at run ⊢
      exact ⟨_, run, here, gone, state.trans h5, bounces, retry⟩
    · rw [if_neg h5] at run ⊢
      generalize t.mainOff = u at *
      exact ⟨_, run, present.trans here, absence.trans gone, Part.setMain_od _ (by decide),
        (Part.setMain_keeps _ _ (by decide) _).trans ((counts _ (by decide)).trans bounces),
        (Part.setMain_keeps _ _ (by decide) _).trans ((counts _ (by decide)).trans retry)⟩
  -- a raw absence, its debounced form, and the end of the absence timer
  · obtain ⟨mainPG, raw, -, -, -⟩ := s.part.unplugged.mainOff_power
    have kept : ∀ e ∈ [Entry.mainTrips, .mainRetryCount, .mainLastTrip, .presenceBounces], e ≠ .mainState ∧
        e ∈ [Entry.mainTrips, .mainRetryCount, .mainLastTrip, .presenceBounces, .mainRetries, .mainWindowExits] := by decide
    exact ⟨_, exec_presentRawAbsence_driven hs hi h, Part.setMain_od _ (by decide), mainPG, raw,
      fun e he => (Part.setMain_keeps _ _ (kept e he).1 _).trans (s.part.unplugged.mainOff_kept (kept e he).2)⟩
  · rw [exec_absenceDebounced, execAbsenceDebounced, State.run_eq, if_neg (by simp [hp])]
  · obtain ⟨mainPG, -, -, absence, -⟩ := s.part.absenceOver.mainOff_power
    exact ⟨_, by rw [exec_absenceTimerExpiry_eq, if_neg (by simp [ha])], Part.setMain_od _ (by decide),
      (Part.setMain_keeps _ _ (by decide) _).trans (Part.od_setOd_val _ _ _ _ (by decide)), mainPG, absence⟩
  -- the ramp and its end
  · rw [exec_insertDelayExpiry, execInsertDelayExpiry, State.run_eq, if_pos (by simp [Part.mainState, Part.od0, h, hp])]
    rfl
  · obtain ⟨up, only⟩ := (s.part.setMain 3).setMainPG_spec true
    have free : ((s.part.setMain 3).setMainPG true).coreFree := by
      refine ⟨by rw [up], by rw [up]; exact ht, by rw [up]; exact hf, ?_, ?_⟩
      · rw [Part.od_congr (only .dict (by decide)), Part.setMain_keeps _ _ (by decide)]
        exact hn
      · rw [only .boot (by decide)]
        exact hl
    obtain ⟨power, stage, -, od⟩ := Part.coreStart_spec free
    refine ⟨_, by rw [exec_mainFullyOn, execMainFullyOn, State.run_eq, if_pos (show s.part.mainState = 2 from h)], ?_, by rw [power, up],
      by rw [power], stage⟩
    exact (od.od_eq (by decide) 0).trans ((Part.od_congr (only .dict (by decide)) _ _).trans (Part.setMain_od _ (by decide)))
  -- trips, retries, and what is no trip
  · obtain ⟨hcause, run⟩ := exec_mainTrip hc
    obtain ⟨power, count, trips, last, time, retries⟩ := s.part.tripRecorded_spec hcause hn
    obtain ⟨powers, state, same⟩ := s.part.mainTrip_end cause
    refine ⟨_, run, by rw [powers, power]; exact s.part.mainOff_power.1, ?_, ?_, ?_, ?_, by rw [state, count, retries]⟩
    · rw [same _ (by decide), count]
    · rw [same _ (by decide), trips]
    · rw [same _ (by decide), last]
    · rw [same _ (by decide), time]
  · have window : (s.part.power.rawPresent && s.part.inWindow s.part.power.vin) = true ↔
        s.part.od .mainUv 0 < s.part.power.vin ∧ s.part.power.vin < s.part.od .mainOv 0 := by
      rw [hp, Bool.true_and]
      exact (Bool.and_eq_true_iff).trans (and_congr decide_eq_true_iff decide_eq_true_iff)
    rw [exec_mainRetryWaitEnd, execMainRetryWaitEnd, State.run_eq, if_neg (by simp [Part.mainState, Part.od0, h]), if_congr window rfl rfl]
    exact State.next_withPart (apply_ite (s.part.setOd .mainState 0) _ _ _).symm
  · rw [exec_mainRetryCountReset, execMainRetryCountReset, State.run_eq, if_pos (show s.part.mainState = 3 from h)]
  · have off := s.part.mainOff_power.1
    refine ⟨_, by rw [exec_mainWindowExit, execMainWindowExit, State.run_eq, if_neg (by simp [Part.mainState, Part.od0, h])], ?_, ?_, ?_, ?_⟩
    · rw [Part.logEv_od _ _ _ _ _ _ (by decide) (by decide)]
      exact (Part.od_setOd_ne _ _ _ _ (by decide)).trans (Part.setMain_od _ (by decide))
    · rw [Part.logEv_power]
      exact off
    · rw [Part.logEv_od _ _ _ _ _ _ (by decide) (by decide)]
      refine (Part.od_setOd_self _ _ _ _).trans ?_
      rw [Part.setMain_keeps _ _ (by decide), s.part.mainOff_kept (by decide)]
      rfl
    · rw [Part.logEv_od _ _ _ _ _ _ (by decide) (by decide)]
      exact (Part.od_setOd_ne _ _ _ _ (by decide)).trans ((Part.setMain_keeps _ _ (by decide) _).trans (s.part.mainOff_kept (by decide)))

end Sys2Proof.Machine
end

section
/-!
O55: rings, snapshot sets and arms as they are set up, and the time base under its sources (spec/12 R468 to R481).
-/

namespace Sys2Proof.Machine

/-! ## Rings as they are enabled -/

/-- A write fits an entry whose checks of access and length pass and one of whose ranges holds the value. -/
theorem EntryInfo.takes_of {f : EntryInfo} {v len lo hi : Nat}
    (h : (f.access != .const && f.access != .ro && (writeLength f len).isNone) = true) (hr : (lo, hi) ∈ f.allowed) (hl : lo ≤ v) (hu : v ≤ hi) :
    f.takes v len = true := by
  unfold EntryInfo.takes
  rw [h, Bool.true_and, Bool.or_eq_true, List.any_eq_true]
  exact .inr ⟨_, hr, by simp [hl, hu]⟩

/-- A ring of a port. -/
def Part.ring (s : Part) (i r : Nat) : Ring := (s.port i).rings.get Ring.zero r

theorem Part.ring_onRing (s : Part) (i r : Nat) (f : Ring → Ring) (k : Nat) :
    (s.onRing i r f).ring i k = if r = k then f (s.ring i r) else s.ring i k := by
  unfold Part.ring Part.onRing
  rw [Part.onPort_port_self]
  exact Sparse.get_modify _ _ _ _ _

/-- The rings whose bits a write of RING_ENABLE leaves clear are disabled (spec/12 R473). -/
def Part.ringsOff (s : Part) (i v : Nat) (l : List Nat) : Part :=
  iter l s fun s r => if bit v r then s else s.onRing i r fun g => { g with enabled := false }

theorem Part.only_ringsOff (i v : Nat) (l : List Nat) (s : Part) : Part.only [.ports] s (s.ringsOff i v l) :=
  Part.only_iter (fun _ _ => Part.only_ite (Part.only_refl _ _) (Part.only_onPort _ _ _)) l s

theorem Part.ringsOff_enabled (i v : Nat) (l : List Nat) (k : Nat) (s : Part) :
    ((s.ringsOff i v l).ring i k).enabled = ((!l.contains k || bit v k) && (s.ring i k).enabled) := by
  induction l generalizing s with
  | nil => rfl
  | cons r l ih =>
    show (((if bit v r then s else s.onRing i r _).ringsOff i v l).ring i k).enabled = _
    rw [ih]
    by_cases hb : bit v r = true
    · rw [if_pos hb]
      by_cases h : k = r <;> simp [h, hb]
    · rw [if_neg hb, Part.ring_onRing]
      by_cases h : r = k
      · subst h
        simp [hb]
      · simp [h, Ne.symm h]

theorem Part.ringStart_enabled (s : Part) (i r k : Nat) : ((s.ringStart i r).ring i k).enabled = (decide (k = r) || (s.ring i k).enabled) := by
  have first : ((s.onRing i r fun _ => { Ring.zero with enabled := true }).ring i k).enabled = (decide (k = r) || (s.ring i k).enabled) := by
    rw [Part.ring_onRing]
    by_cases h : r = k
    · simp [h]
    · simp [h, Ne.symm h]
  unfold Part.ringStart
  extract_lets z a b
  have hb : (b.ring i k).enabled = (decide (k = r) || (s.ring i k).enabled) := first
  clear_value b
  split
  · exact hb
  · show (((Part.onRing _ i r _).ring i k).enabled) = _
    rw [Part.ring_onRing, ← hb]
    split
    · next h =>
      subst h
      rfl
    · rfl

theorem Part.only_ringStart (s : Part) (i r : Nat) : Part.only [.dict, .ports, .out, .freeCtr] s (s.ringStart i r) ∧
    Part.keepsOd [.ringState] s (s.ringStart i r) := by
  have ring : ∀ (t : Part) (f : Ring → Ring), Part.only [.ports] t (t.onRing i r f) := fun t f => t.only_onPort _ _
  have read : ∀ t : Part, Part.only [.out, .freeCtr] t (t.readConsumer i r none).1 := fun t f hf => by
    cases f <;> first | rfl | simp at hf
  have end_ : ∀ t : Part, Part.only [.ports, .out, .freeCtr] t
      (match t.readConsumer i r none with
        | (s, some c) => s.onRing i r fun g => { g with consumer := c }
        | (s, none) => s) := fun t => ((Part.only_refl _ _).next (read t) (by decide)).next (ring _ _) (by decide)
  unfold Part.ringStart
  extract_lets z a b
  have hb : Part.only [.dict, .ports, .out, .freeCtr] s b := ((Part.only_refl _ _).next (ring _ _) (by decide)).next (Part.only_setOd a .ringState i _) (by decide)
  have hk : Part.keepsOd [.ringState] s b := ((Part.keepsOd_refl _ _).same (ring _ _) (by decide)).setOd _ _ _ (by decide)
  clear_value b
  split
  · exact ⟨hb, hk⟩
  · exact ⟨hb.next (end_ b) (by decide), hk.same (end_ b) (by decide)⟩

theorem Part.ringsStart_spec (i : Nat) (l : List Nat) (s : Part) :
    Part.only [.dict, .ports, .out, .freeCtr] s (iter l s fun s r => s.ringStart i r) ∧
    Part.keepsOd [.ringState] s (iter l s fun s r => s.ringStart i r) ∧
    ∀ k, ((iter l s fun s r => s.ringStart i r).ring i k).enabled = (decide (k ∈ l) || (s.ring i k).enabled) := by
  refine ⟨Part.only_iter (fun s r => (s.only_ringStart i r).1) _ _, Part.keepsOd_iter _ _ fun s r _ => (s.only_ringStart i r).2, fun k => ?_⟩
  induction l generalizing s with
  | nil => simp [iter]
  | cons r l ih =>
    show ((iter l (s.ringStart i r) _).ring i k).enabled = _
    rw [ih, Part.ringStart_enabled]
    by_cases h : k = r <;> simp [h]

/-- What the rising rings leave, before the backlog (spec/12 R473). -/
def Part.ringsSet (s : Part) (i v : Nat) (rises : List Nat) : Part :=
  iter rises ((s.ringsOff i v (List.range 3)).setOd .ringEnable i (bits v 0 3)) fun s r => s.ringStart i r

theorem Part.ringsSet_spec (s : Part) (i : Nat) {v : Nat} (hv : v < 8) {rises : List Nat} (hr : ∀ r ∈ rises, bit v r = true) :
    (s.ringsSet i v rises).od .ringEnable i = v ∧ Part.only [.dict, .ports, .out, .freeCtr] s (s.ringsSet i v rises) ∧
    ∀ r < 3, ((s.ringsSet i v rises).ring i r).enabled = (bit v r && (decide (r ∈ rises) || (s.ring i r).enabled)) := by
  obtain ⟨only, keeps, enabled⟩ := Part.ringsStart_spec i rises ((s.ringsOff i v (List.range 3)).setOd .ringEnable i (bits v 0 3))
  have small : bits v 0 3 = v := (Nat.and_two_pow_sub_one_eq_mod v 3).trans (Nat.mod_eq_of_lt hv)
  refine ⟨?_, (((Part.only_refl _ _).next (Part.only_ringsOff _ _ _ _) (by decide)).next (Part.only_setOd _ _ _ _) (by decide)).next only (by decide), fun r h => ?_⟩
  · refine (keeps.od_eq (by decide) i).trans ?_
    rw [small]
    exact Part.od_setOd_val _ _ _ _ (Nat.lt_of_lt_of_le hv (by decide))
  · refine (enabled r).trans ?_
    show (_ || ((s.ringsOff i v (List.range 3)).ring i r).enabled) = _
    rw [Part.ringsOff_enabled, List.contains_iff_mem.mpr (List.mem_range.mpr h)]
    by_cases hm : r ∈ rises
    · simp [hm, hr r hm]
    · simp [hm]

/-- A write of RING_ENABLE that its entry takes: every rising ring must fit (spec/12 R473). -/
theorem exec_ringEnableWrite_takes (s : State) (w : Who) (i : Port) (v : BitVec 8) (h : s.part.mayWrite w .ringEnable) (rises : List Nat)
    (hr : rises = (List.range 3).filter fun r => bit v.toNat r && !bit (s.part.od .ringEnable i) r) :
    exec (.ringEnableWrite w i v) s = .next (s.withPart ((if rises.any fun r => !s.part.ringFit i r then s.part.refuse rCondition
      else (if rises.contains 1 then (s.part.ringsSet i v.toNat rises).drainBacklog else s.part.ringsSet i v.toNat rises).ok).answer w)) := by
  subst hr
  rw [exec_ringEnableWrite, execRingEnableWrite, State.run_eq, Part.ringEnableWrite,
    Part.written_eq _ _ _ h (EntryInfo.takes_of (by decide) List.mem_cons_self (Nat.zero_le _) (Nat.le_of_lt_succ v.isLt))]
  rfl

/-! ## The time base under PTP -/

/-- The offset of a master as TIME_OFFSET takes it (spec/12 R469). -/
def Part.heard (s : Part) (offset : Int) : Part := s.setOd .timeOffset 0 (ofInt 32 (max (-(2 ^ 31 : Int)) (min (2 ^ 31 - 1) offset)))

/-- A rate by which the time base runs. -/
def Part.paced (s : Part) (rate : Int) : Part := { s with ptpRate := rate }

/-- The time at which a master was heard. -/
def Part.heardNow (s : Part) : Part := { s with gate := { s.gate with ptpAt := s.now + 1 } }

/-- The time base is locked to its master (spec/12 R468). -/
def Part.locked (s : Part) : Part := (({ s with ptpLock := true } : Part).setOd .timeState 0 3).logEv 0x1506 0 0

/-- What a measured offset makes of the time base: a step at a first lock or beyond TIME_STEP_THRESHOLD, else a rate (spec/12 R470). -/
def Part.steered (s : Part) (offset : Int) (master : Nat) : Part :=
  if !s.ptpLock || decide (s.od0 .timeStepThreshold * 1000 < offset.natAbs) then s.stepTime master
  else s.paced (max (-500) (min 500 (-offset)))

/-- A lock that is new is noted. -/
def Part.noteLock (s : Part) : Part := if s.timeState = 3 then s else s.locked

/-- Under source PTP, a message of the domain measures an offset. -/
theorem exec_ptpMessage_ptp {s : State} {offset : Int} {master : U64} {domain : BitVec 8} (hs : s.part.od0 .timeSource = 1)
    (hd : domain.toNat = s.part.od0 .timePtpDomain) (hi : s.part.rest.inRest = false) (hg : s.part.gateAlive = true) :
    exec (.ptpMessage offset master domain) s = .next (s.withPart ((s.part.heard offset).steered offset master.toNat).heardNow.noteLock) := by
  have run : exec (.ptpMessage offset master domain) s = .next (s.withPart
      (if s.part.od0 .timeSource != 1 || domain.toNat != s.part.od0 .timePtpDomain || s.part.rest.inRest || !s.part.gateAlive then s.part
       else ((s.part.heard offset).steered offset master.toNat).heardNow.noteLock)) := rfl
  rw [run, if_neg (by simp [hs, hd, hi, hg])]

theorem Part.heardNow_now (s : Part) : s.heardNow.now = s.now := rfl
theorem Part.heardNow_od (s : Part) (e : Entry) (i : Nat) : s.heardNow.od e i = s.od e i := rfl
theorem Part.paced_od (s : Part) (r : Int) (e : Entry) (i : Nat) : (s.paced r).od e i = s.od e i := rfl

/-- Once a master is heard, the time base is locked. -/
theorem Part.noteLock_spec (s : Part) : s.noteLock.now = s.now ∧ s.noteLock.od .timeState 0 = 3 := by
  unfold Part.noteLock
  split
  · next h => exact ⟨rfl, h⟩
  · exact ⟨Part.logEv_now _ _ _ _ _ _, (Part.logEv_od _ _ _ _ _ _ (by decide) (by decide)).trans (Part.od_setOd_val _ _ _ _ (by decide))⟩

/-- A measured offset changes the rate, the time at which a master was heard, and TIME_OFFSET. -/
theorem Part.paced_frame (s : Part) (offset rate : Int) : Part.only [.dict, .ptpRate, .gate] s ((s.heard offset).paced rate).heardNow ∧
    Part.odOnly [(.timeOffset, 0)] s ((s.heard offset).paced rate).heardNow := by
  have pace : ∀ t : Part, Part.only [.ptpRate, .gate] t (t.paced rate).heardNow := fun t f hf => by cases f <;> first | rfl | simp at hf
  exact ⟨((Part.only_refl _ _).next (Part.only_setOd _ _ _ _) (by decide)).next (pace _) (by decide), ((Part.odOnly_refl _ _).setOd _ _ _ (by decide) (by decide)).same (pace _) (by decide)⟩

/-- TIME_SOURCE as it changes: PTP keeps its lock and rate, another source loses them (spec/12 R468). -/
def Part.sourced (s : Part) (v : Nat) : Part :=
  let t := (s.setOd .timeSource 0 v).setOd .timeState 0 (if v = 1 then 2 else 1)
  { t with ptpLock := if v = 1 then t.ptpLock else false, ptpRate := if v = 1 then t.ptpRate else 0 }

theorem Part.sourced_spec (s : Part) {v : Nat} (hv : v ≤ 1) : (s.sourced v).od .timeSource 0 = v ∧
    (s.sourced v).od .timeState 0 = (if v = 1 then 2 else 1) ∧ (v = 0 → (s.sourced v).ptpLock = false) ∧
    Part.odOnly [(.timeSource, 0), (.timeState, 0)] s (s.sourced v) ∧ Part.only [.dict, .ptpLock, .ptpRate] s (s.sourced v) := by
  unfold Part.sourced
  extract_lets t
  have ht : Part.odOnly [(.timeSource, 0), (.timeState, 0)] s t := ((Part.odOnly_refl _ _).setOd _ _ _ (by decide) (by decide)).setOd _ _ _ (by decide) (by decide)
  have hd : Part.only [.dict] s t := ((Part.only_refl _ _).next (Part.only_setOd _ _ _ _) (by decide)).next (Part.only_setOd _ _ _ _) (by decide)
  have source : t.od .timeSource 0 = v := (Part.od_setOd_ne _ _ _ _ (by decide)).trans (Part.od_setOd_val _ _ _ _ (Nat.lt_of_le_of_lt hv (by decide)))
  have state : t.od .timeState 0 = if v = 1 then 2 else 1 := Part.od_setOd_val _ _ _ _ (by split <;> decide)
  have lock : Part.only [.ptpLock, .ptpRate] t { t with ptpLock := if v = 1 then t.ptpLock else false, ptpRate := if v = 1 then t.ptpRate else 0 } :=
    fun f hf => by cases f <;> first | rfl | simp at hf
  clear_value t
  exact ⟨source, state, fun h => by simp [h], ht.same lock (by decide), (Part.only_mono hd (by decide)).next lock (by decide)⟩

theorem exec_timeSourceWrite_takes {s : State} {w : Who} {v : BitVec 8} (h : s.part.mayWrite w .timeSource) (hv : v.toNat ≤ 1) :
    exec (.timeSourceWrite w v) s = .next (s.withPart ((if v.toNat = s.part.od0 .timeSource then s.part.ok
      else ((s.part.sourced v.toNat).logEv 0x1501 s.part.now s.part.now).ok).answer w)) := by
  rw [exec_timeSourceWrite, execTimeSourceWrite, State.run_eq, Part.timeSourceWrite,
    Part.written_eq _ _ _ h (EntryInfo.takes_of (by decide) List.mem_cons_self (Nat.zero_le _) (Nat.le_succ_of_le hv))]
  rfl

/-- A write of ARM_COUNTER that names a counter of the port or of a slice bound to it takes (spec/12 R481). -/
theorem exec_armCounterWrite_takes {s : State} {w : Who} {i : Port} {a : Fin 8} {v : BitVec 32} {e : Entry} {k : Nat}
    (h : s.part.mayWrite w .armCounter) (hv : v.toNat ≠ 0) (he : entryOf v.toNat = some (e, k)) :
    exec (.armCounterWrite w i a v) s = .next (s.withPart ((if s.part.armable i e k then
      ((s.part.setOd .armCounter (i * 8 + a) v.toNat).onPort i fun t => { t with
        arms := t.arms.set Arm.zero a { Arm.zero with last := s.part.tallyNow e k } }).ok else s.part.refuse rCondition).answer w)) := by
  rw [exec_armCounterWrite, execArmCounterWrite, State.run_eq, Part.armCounterWrite,
    Part.written_eq _ _ _ h (EntryInfo.takes_of (by decide) List.mem_cons_self (Nat.zero_le _) (Nat.le_of_lt_succ v.isLt))]
  simp only [if_neg hv, he]

/-- Settles O55: each write by its checks, the time base by whether it is locked. -/
theorem ringsAndTimeBase : Obligations.RingsAndTimeBase := by
  intro s
  refine ⟨fun w i v h hv rises hr => ⟨?_, ?_⟩, fun w i v l h hl => ⟨?_, ?_⟩, fun w i a v e k h hv he => ⟨?_, ?_⟩,
    fun offset master domain hs hd hi hg => ⟨?_, ?_⟩, fun hs ht hp => ?_, fun w v h hv => ⟨?_, ?_⟩⟩
  -- rings
  · rintro ⟨r, hm, fit⟩
    rw [exec_ringEnableWrite_takes s w i v h rises hr, if_pos (List.any_eq_true.mpr ⟨r, hm, by simp [fit]⟩), Reply.answer_refuse]
  · intro fit
    obtain ⟨enable, only, enabled⟩ := s.part.ringsSet_spec i hv (rises := rises) fun r hm => by
      rw [hr, List.mem_filter, Bool.and_eq_true] at hm
      exact hm.2.1
    refine ⟨s.part.ringsSet i v.toNat rises, ?_, enable, only, enabled⟩
    rw [exec_ringEnableWrite_takes s w i v h rises hr, if_neg (by simpa using fit), Reply.answer_ok, if_congr List.contains_iff_mem rfl rfl]
  -- snapshot sets
  · intro ok
    rw [exec_snapSetWrite, execSnapSetWrite, State.run_eq, Part.snapSetWrite, Part.written_eq _ _ _ h rfl]
    simp only [← hl]
    rw [List.findSome?_eq_none_iff.mpr ok]
    rfl
  · intro c bad
    rw [exec_snapSetWrite, execSnapSetWrite, State.run_eq, Part.snapSetWrite, Part.written_eq _ _ _ h rfl]
    simp only [← hl]
    rw [bad]
    rfl
  -- arms
  · intro fits
    rw [exec_armCounterWrite_takes h hv he, if_pos fits, Reply.answer_ok]
  · intro bad
    rw [exec_armCounterWrite_takes h hv he, if_neg (by simp [bad]), Reply.answer_refuse]
  -- the time base
  · intro lock state near
    have steered : (s.part.heard offset).steered offset master.toNat = (s.part.heard offset).paced (max (-500) (min 500 (-offset))) := by
      have threshold : (s.part.heard offset).od0 .timeStepThreshold = s.part.od0 .timeStepThreshold := Part.od_setOd_ne _ _ _ _ (by decide)
      have lock' : (s.part.heard offset).ptpLock = true := lock
      exact if_neg (by rw [lock', threshold]; simpa using near)
    obtain ⟨only, od⟩ := s.part.paced_frame offset (max (-500) (min 500 (-offset)))
    refine ⟨((s.part.heard offset).paced (max (-500) (min 500 (-offset)))).heardNow, ?_, rfl, rfl, rfl, ?_, only, od⟩
    · rw [exec_ptpMessage_ptp hs hd hi hg, steered]
      refine State.next_withPart (if_pos ?_)
      show _ = _
      rw [Part.timeState, Part.od0, Part.heardNow_od, Part.paced_od]
      exact (Part.od_setOd_ne _ _ _ _ (by decide)).trans state
    · rw [Part.heardNow_od, Part.paced_od]
      exact Part.od_setOd_val _ _ _ _ (ofInt_lt 32 _)
  · intro lock _
    have steered : (s.part.heard offset).steered offset master.toNat = (s.part.heard offset).stepTime master.toNat := by
      have lock' : (s.part.heard offset).ptpLock = false := lock
      exact if_pos (by rw [lock']; rfl)
    obtain ⟨now, state⟩ := ((s.part.heard offset).stepTime master.toNat).heardNow.noteLock_spec
    exact ⟨_, by rw [exec_ptpMessage_ptp hs hd hi hg, steered], (now.trans (Part.heardNow_now _)).trans (Part.stepTime_now _ _), state⟩
  · rw [exec_ptpLossTimeout, execPtpLossTimeout, State.run_eq, if_pos]
    simp [hs, hp, Part.timeState, ht]
  · intro same
    rw [exec_timeSourceWrite_takes h hv, if_pos same, Reply.answer_ok]
  · intro other
    refine ⟨_, ?_, s.part.sourced_spec hv⟩
    rw [exec_timeSourceWrite_takes h hv, if_neg other, Reply.answer_ok]

end Sys2Proof.Machine
end

section
/-!
SUPPORT. What a loss of the core supply leaves beside the always-on domains (spec/14 R531, spec/17 R611).
-/

namespace Sys2Proof.Machine

/-- The reset state with what the always-on domains keep (spec/14 R531). -/
def Part.lostBase (s : Part) : Part := { Part.reset with
  dict := s.dict.filter fun e => keptKey e.1
  now := s.now
  log := s.log
  logNext := s.logNext
  lastLog := s.lastLog
  ports := (s.ports.filter fun e => !e.2.perst).map fun e => (e.1, { PortState.zero with perst := false })
  power := { s.power with branchQ := [], branchTrips := [], limiting := s.power.limiting.filter (· == 0), corePG := false }
  flash := s.flash
  boot := { BootState.zero with again := true, liveness := s.boot.liveness, pav0Lost := s.boot.pav0Lost }
  out := s.out
  freeCtr := s.freeCtr }

/-- The branches off, with the boot back at stage 2 (spec/14 R531, spec/16 R574). -/
def Part.branchesOff (s : Part) : Part := iter (List.range 16) s fun s b => s.setOd .branchState b 0

theorem Part.coreLost_eq (s : Part) : s.coreLost = (((((s.lostBase.branchesOff).setOd .packagePowerState 0 0).setOd .bootState 0 2).setOd
    .codebookState 0 1).setCoreEn false).retiredStay := rfl

/-- From the state that the always-on domains keep, the loss changes the store and the core supply's own pin. -/
theorem Part.coreLost_only (s : Part) : Part.only [.dict, .power, .out] s.lostBase s.coreLost := by
  rw [Part.coreLost_eq]
  exact ((((((Part.only_refl _ _).next s.lostBase.only_branchesOff (by decide)).next (Part.only_setOd _ _ _ _) (by decide)).next (Part.only_setOd _ _ _ _) (by decide)).next
    (Part.only_setOd _ _ _ _) (by decide)).next (Part.only_setCoreEn _ _) (by decide)).next (Part.retiredStay_spec _).1 (by decide)

/-- The boot is back at stage 2, the package and every branch is off. -/
theorem Part.coreLost_states (s : Part) : s.coreLost.od .bootState 0 = 2 ∧ s.coreLost.od .packagePowerState 0 = 0 ∧
    ∀ b < 16, s.coreLost.od .branchState b = 0 := by
  have stay := fun t : Part => (t.retiredStay_spec).2
  rw [Part.coreLost_eq]
  refine ⟨?_, ?_, fun b hb => ?_⟩
  · rw [(stay _).od_eq (by decide) 0, Part.setCoreEn_od, Part.od_setOd_ne _ _ _ _ (by decide)]
    exact Part.od_setOd_val _ _ _ _ (by decide)
  · rw [(stay _).od_eq (by decide) 0, Part.setCoreEn_od, Part.od_setOd_ne _ _ _ _ (by decide), Part.od_setOd_ne _ _ _ _ (by decide)]
    exact Part.od_setOd_val _ _ _ _ (by decide)
  · rw [(stay _) _ _ (by decide) (Nat.lt_trans hb (by decide)), Part.setCoreEn_od, Part.od_setOd_ne _ _ _ _ (by decide),
      Part.od_setOd_ne _ _ _ _ (by decide), Part.od_setOd_ne _ _ _ _ (by decide)]
    refine (Part.setEach_od .branchState 0 (by decide) _ _ (fun j hj => ?_) _ (Nat.lt_trans hb (by decide))).trans (if_pos (List.mem_range.mpr hb))
    exact Nat.lt_trans (List.mem_range.mp hj) (by decide)

end Sys2Proof.Machine
end

section
/-!
O56: clock gating, IDLE, the start of an attempt to enter REST, and the exit (spec/13 R502 to R516, spec/16 R581).
-/

namespace Sys2Proof.Machine

/-! ## IDLE -/

/-- A channel with every rank that takes commands in power-down (spec/06 R261). -/
def Part.channelDown (s : Part) (c : Nat) : Prop := (s.chan c).openRows = [] ∧ (s.chan c).powerDown = (List.range 4).filter (s.rankRuns c)

theorem Part.rankRuns_congr {a b : Part} (h : b.dict = a.dict) (c : Nat) : b.rankRuns c = a.rankRuns c := by
  funext r
  unfold Part.rankRuns Part.rankState
  rw [Part.od_congr h]

/-- A channel whose ranks go into power-down. -/
def Part.channelOff (s : Part) (c : Nat) : Part :=
  s.onChan c fun v => { v with powerDown := (List.range 4).filter (s.rankRuns c), openRows := [] }

theorem Part.only_channelOff (s : Part) (c : Nat) : Part.only [.chans] s (s.channelOff c) := Part.only_onChan _ _ _

/-- A channel goes down and stays so as others do. -/
theorem Part.channelOff_down {s : Part} {k c : Nat} (h : k = c ∨ s.channelDown c) : (s.channelOff k).channelDown c := by
  have runs : (s.channelOff k).rankRuns c = s.rankRuns c := Part.rankRuns_congr rfl c
  unfold Part.channelDown
  rw [runs]
  unfold Part.channelOff
  by_cases e : k = c
  · subst e
    rw [Part.onChan_chan_self]
    exact ⟨rfl, rfl⟩
  · rw [Part.onChan_chan_other _ _ _ e]
    exact h.resolve_left e

theorem Part.channelsOff_down (f : Nat → Nat) (l : List Nat) (c : Nat) (s : Part) (h : (∃ k ∈ l, f k = c) ∨ s.channelDown c) :
    (iter l s fun s k => s.channelOff (f k)).channelDown c := by
  induction l generalizing s with
  | nil => simpa [iter] using h
  | cons k l ih =>
    refine ih _ ?_
    rcases h with ⟨j, hj, e⟩ | down
    · rcases List.mem_cons.mp hj with rfl | hj
      · exact .inr (Part.channelOff_down (.inl e))
      · exact .inl ⟨j, hj, e⟩
    · exact .inr (Part.channelOff_down (.inr down))

theorem Part.powerDownAll_eq (s : Part) (p : Nat) : s.powerDownAll p = iter (List.range 8) s fun s k => s.channelOff (p * 8 + k) := rfl

theorem Part.only_powerDownAll (s : Part) (p : Nat) : Part.only [.chans] s (s.powerDownAll p) := Part.only_iter (fun s _ => s.only_channelOff _) _ s

theorem Part.powerDownAll_chan (s : Part) {p c : Nat} (h : c / 8 = p) : ((s.powerDownAll p).chan c).openRows = [] ∧
    ((s.powerDownAll p).chan c).powerDown = (List.range 4).filter (s.rankRuns c) := by
  obtain ⟨rows, down⟩ : (s.powerDownAll p).channelDown c := by
    rw [Part.powerDownAll_eq]
    exact Part.channelsOff_down _ _ _ s (.inl ⟨c % 8, List.mem_range.mpr (Nat.mod_lt _ (by decide)), by omega⟩)
  exact ⟨rows, down.trans (by rw [Part.rankRuns_congr ((s.only_powerDownAll p) .dict (by decide))])⟩

/-- A pavilion as it goes to IDLE (spec/13 R503). -/
def Part.idled (s : Part) (p : Nat) : Part := ((s.setOd .pavilionPowerState p 1).count .pavilionIdleEntries p).powerDownAll p

theorem Part.idled_spec (s : Part) (p : Pav) : (s.idled p).od .pavilionPowerState p = 1 ∧
    (s.idled p).tallyNow .pavilionIdleEntries p = s.tallyNow .pavilionIdleEntries p + 1 ∧
    (∀ c, c / 8 = p.val → ((s.idled p).chan c).openRows = [] ∧ ((s.idled p).chan c).powerDown = (List.range 4).filter (s.rankRuns c)) ∧
    Part.only [.dict, .delta, .chans] s (s.idled p) ∧ Part.odOnly [(.pavilionPowerState, p.val)] s (s.idled p) := by
  have small : p.val < 65536 := Nat.lt_trans p.isLt (by decide)
  have down := ((s.setOd .pavilionPowerState p 1).count .pavilionIdleEntries p).only_powerDownAll p
  refine ⟨?_, ?_, fun c hc => ?_, (((Part.only_refl _ _).next (Part.only_setOd _ _ _ _) (by decide)).next (Part.only_count _ _ _ _) (by decide)).next down (by decide), ?_⟩
  · refine (Part.od_congr (down .dict (by decide)) _ _).trans ?_
    rw [Part.count_od]
    exact Part.od_setOd_val _ _ _ _ (by decide)
  · refine Eq.trans ?_ (Part.count_tallyNow (s.setOd .pavilionPowerState p 1) .pavilionIdleEntries p 1 |>.trans ?_)
    · rw [Part.tallyNow, Part.tallyNow]
      exact congrArg₂ (· + ·) (Part.od_congr (down .dict (by decide)) _ _) (congrArg (fun d : Sparse Nat => d.get 0 _) (down .delta (by decide)))
    · rw [Part.tallyNow, Part.od_setOd_ne _ _ _ _ (by decide)]
      rfl
  · obtain ⟨rows, power⟩ := ((s.setOd .pavilionPowerState p 1).count .pavilionIdleEntries p).powerDownAll_chan hc
    refine ⟨rows, power.trans (congrArg (fun f => List.filter f _) (funext fun r => ?_))⟩
    unfold Part.rankRuns Part.rankState
    rw [Part.count_od, Part.od_setOd_ne _ _ _ _ (by decide)]
  · exact (((Part.odOnly_refl _ _).setOd _ _ _ small (by simp)).same (Part.only_count _ _ _ _) (by decide)).same down (by decide)

/-- The package is IDLE once every pavilion in service is (spec/13 R505). -/
theorem Part.packageNow_idle {s : Part} {p : Nat} (hp : p ∈ s.serving) (h : ∀ k ∈ s.serving, s.od .pavilionPowerState k = 1) : s.packageNow = 2 := by
  have some : s.serving.isEmpty = false := by
    cases hs : s.serving with
    | nil => simp [hs] at hp
    | cons => rfl
  rw [Part.packageNow, if_pos]
  simpa [some] using h

theorem Part.packageNow_mem (s : Part) : s.packageNow ∈ [1, 2] := by
  unfold Part.packageNow
  split <;> decide

theorem exec_pavilionIdleEntry_idle {s : State} {p : Pav} (h : s.part.inService p = true) (hr : s.part.od .pavilionPowerState p = 0)
    (hb : s.part.pavBusy p = false) : exec (.pavilionIdleEntry p) s = .next (s.withPart
      (if (s.part.idled p).od0 .packagePowerState = 1 then (s.part.idled p).setOd .packagePowerState 0 (s.part.idled p).packageNow else s.part.idled p)) := by
  have run : exec (.pavilionIdleEntry p) s = .next (s.withPart (if !s.part.inService p || s.part.od .pavilionPowerState p != 0 || s.part.pavBusy p then s.part else
    if (s.part.idled p).od0 .packagePowerState = 1 then (s.part.idled p).setOd .packagePowerState 0 (s.part.idled p).packageNow else s.part.idled p)) := rfl
  rw [run, if_neg (by simp [h, hr, hb])]

/-! ## The exit -/

/-- The agents that restart bring back PLLs, pavilions and channels; what else the exit needs stands (spec/13 R516, step 6). -/
theorem Part.restRestart_spec (s : Part) : Part.only [.dict, .chans, .rest] s s.restRestart ∧
    Part.keepsOd [.pllLocked, .pavilionPowerState, .channelState] s s.restRestart ∧
    s.restRestart.rest = { s.rest with step := none, agreed := [], wake := none } := by
  have leave : ∀ (t : Part) (n : Nat), Part.only [.dict, .chans] t ((t.leaveSelfRefresh n).startRetrain n) ∧
      Part.keepsOd [.pllLocked, .pavilionPowerState, .channelState] t ((t.leaveSelfRefresh n).startRetrain n) := fun t n => by
    unfold Part.leaveSelfRefresh
    extract_lets u
    have hu : Part.only [.chans] t u := Part.only_iter (fun t r => t.only_onChan _ _) _ _
    clear_value u
    exact ⟨((((Part.only_refl _ _).next hu (by decide)).next (Part.only_onChan _ _ _) (by decide)).next (Part.only_setOd _ _ _ _) (by decide)).next (Part.only_onChan _ _ _) (by decide),
      ((((Part.keepsOd_refl _ _).same hu (by decide)).same (Part.only_onChan _ _ _) (by decide)).setOd _ _ _ (by decide)).same (Part.only_onChan _ _ _) (by decide)⟩
  unfold Part.restRestart
  extract_lets t
  have ht : Part.only [.dict, .chans] s t ∧ Part.keepsOd [.pllLocked, .pavilionPowerState, .channelState] s t := by
    refine ⟨Part.only_iter (fun u a => ?_) _ _, Part.keepsOd_iter _ _ fun u a _ => ?_⟩
    · exact Part.only_ite (((Part.only_refl _ _).next (Part.only_setOd _ _ _ _) (by decide)).next (Part.only_setOd _ _ _ _) (by decide))
        (Part.only_ite (leave _ _).1 (Part.only_refl _ _))
    · exact Part.keepsOd_ite (((Part.keepsOd_refl _ _).setOd _ _ _ (by decide)).setOd _ _ _ (by decide)) (Part.keepsOd_ite (leave _ _).2 (Part.keepsOd_refl _ _))
  have rest : t.rest = s.rest := ht.1 .rest (by decide)
  clear_value t
  exact ⟨(Part.only_mono ht.1 (by decide)).next (Part.only_rest _ _) (by decide), ht.2.same (Part.only_rest _ _) (by decide),
    congrArg (fun r : RestState => { r with step := none, agreed := [], wake := none }) rest⟩

/-- The links that were up train again (spec/13 R516, step 5). -/
def Part.linksTrain (s : Part) : Part := s.replaceEach .linkState 2 1 (List.range 28)

theorem Part.linksTrain_spec (s : Part) : Part.only [.dict] s s.linksTrain ∧
    ∀ n < 28, s.linksTrain.od .linkState n = if s.od .linkState n = 2 then 1 else s.od .linkState n := by
  refine ⟨Part.only_replaceEach _ _ _ _ _, fun n hn => (Part.replaceEach_od _ _ _ (by decide) _ n (fun j hj => ?_) s (by omega)).trans (if_congr ?_ rfl rfl)⟩
  · exact Nat.lt_trans (List.mem_range.mp hj) (by decide)
  · simp [hn]

/-- The sequencer after the restart: who had agreed stays noted, no PERST# edge is latched. -/
def Part.goesOn (s : Part) (agreed : List Nat) : Part := { s with rest := { s.rest with agreed := agreed, perst := [] } }

theorem Part.exitSteps_eq (s : Part) : s.exitSteps = iter s.linksTrain.rest.perst (s.linksTrain.restRestart.goesOn s.linksTrain.rest.agreed)
    fun s i => s.conventional i (if (s.port i).perst then 1 else 2) := by
  unfold Part.exitSteps Part.linksTrain Part.replaceEach Part.goesOn
  rfl

/-- The exit's last steps where no PERST# edge is latched (spec/13 R516, steps 5 to 7). -/
theorem Part.exitSteps_spec {s : Part} (h : s.rest.perst = []) : s.exitSteps.rest.step = none ∧ s.exitSteps.rest.restored = s.rest.restored ∧
    ∀ n < 28, s.exitSteps.od .linkState n = if s.od .linkState n = 2 then 1 else s.od .linkState n := by
  obtain ⟨only, trained⟩ := s.linksTrain_spec
  have rest : s.linksTrain.rest = s.rest := only .rest (by decide)
  have perst : s.linksTrain.rest.perst = [] := (congrArg RestState.perst rest).trans h
  rw [Part.exitSteps_eq, perst]
  generalize s.linksTrain = u at *
  obtain ⟨-, keeps, after⟩ := u.restRestart_spec
  generalize u.restRestart = t at *
  refine ⟨congrArg RestState.step after, (congrArg RestState.restored after).trans
    (show u.rest.restored = s.rest.restored from congrArg RestState.restored rest), fun n hn => ?_⟩
  exact (Part.od_congr (a := t) rfl _ _).trans ((keeps.od_eq (by decide) n).trans (trained n hn))

/-- The pavilions that come back are a matter of PAVILION_STATE. -/
theorem Part.leaving_congr {a b : Part} (h : ∀ p, b.od .pavilionState p = a.od .pavilionState p) : b.leaving = a.leaving := by
  unfold Part.leaving Part.pstate
  simp only [h]

/-- The core supply is back (spec/13 R516, step 2). -/
def Part.coreBack (s : Part) : Part :=
  { s with rest := { s.rest with coreUp := true, restored := [] }, power := { s.power with corePG := true } }

/-- The root PLLs of the pavilions that come back, as they lock (spec/13 R516, step 2). -/
def Part.pllsLock (s : Part) (locked : Nat) (l : List Nat) : Part := iter l s fun s p => s.setOd .pllLocked p (b2n (bit locked p))

theorem exec_restExitCorePg_eq (plls : BitVec 8) (ok : BitVec 256) (s : State) : exec (.restExitCorePg plls ok) s = .next (s.withPart
    (if !s.part.exits false then s.part else
      let t := s.part.coreBack.pllsLock plls.toNat s.part.coreBack.leaving
      let t := iter (t.leaving.filter fun p => !bit plls.toNat p || t.rest.dark.contains p) t Part.exitFails
      (iter (List.range 256) t fun s k =>
        if bit ok.toNat k || s.od .channelState (k / 4) != 3 || s.pstate (k / 32) = 2 then s else s.rankLeaves (k / 4) (k % 4) 4).exitProgress)) := rfl

theorem Part.leaving_range {s : Part} {p : Nat} (h : p ∈ s.leaving) : p ∈ List.range 8 := (List.mem_filter.mp h).1

/-- Where each PLL locks, that is all that changes. -/
theorem Part.pllsLock_spec {s : Part} {locked : Nat} {l : List Nat} (hl : ∀ p ∈ l, p ∈ List.range 8) (h : ∀ p ∈ l, bit locked p = true) :
    (∀ p ∈ l, (s.pllsLock locked l).od .pllLocked p = 1) ∧ Part.only [.dict] s (s.pllsLock locked l) ∧
    Part.odOnly ((List.range 8).map fun k => (.pllLocked, k)) s (s.pllsLock locked l) ∧ Part.keepsOd [.pllLocked] s (s.pllsLock locked l) := by
  have eq : s.pllsLock locked l = iter l s fun s p => s.setOd .pllLocked p 1 := by
    unfold Part.pllsLock iter
    refine List.foldl_ext _ _ _ fun t p hp => ?_
    rw [h p hp]
    rfl
  have small : ∀ p ∈ l, p < 65536 := fun p hp => Nat.lt_trans (List.mem_range.mp (hl p hp)) (by decide)
  rw [eq]
  refine ⟨fun p hp => ?_, Part.only_iter (fun t p => t.only_setOd _ _ _) _ _, ?_,
    Part.keepsOd_iter _ _ fun t p _ => (Part.keepsOd_refl _ _).setOd _ _ _ (by decide)⟩
  · rw [Part.setEach_od .pllLocked 1 (by decide) l p small s (small p hp), if_pos hp]
  · have each : ∀ (l' : List Nat) (t : Part), (∀ p ∈ l', p ∈ l) → Part.odOnly ((List.range 8).map fun k => (Entry.pllLocked, k)) t
        (iter l' t fun s p => s.setOd .pllLocked p 1) := fun l' => by
      induction l' with
      | nil => exact fun t _ => Part.odOnly_refl _ _
      | cons p l' ih =>
        intro t sub
        have hp := sub p List.mem_cons_self
        exact Part.odOnly_trans ((Part.odOnly_refl _ _).setOd .pllLocked p 1 (small p hp) (List.mem_map.mpr ⟨p, hl p hp, rfl⟩))
          (ih _ fun q hq => sub q (List.mem_cons_of_mem _ hq))
    exact each l s fun _ => id

/-- The exit waits while a pavilion has not restored its retention. -/
theorem Part.exitProgress_waits {s : Part} {p : Nat} (hp : p ∈ s.leaving) (h : ¬ p ∈ s.rest.restored) : s.exitProgress = s := by
  refine if_neg ?_
  rw [Bool.and_eq_true, List.all_eq_true]
  exact fun all => h (List.contains_iff_mem.mp (all.2 p hp))

/-- It goes on once the last one has. -/
theorem Part.exitProgress_goes {s : Part} (hc : s.rest.coreUp = true) (h : ∀ p ∈ s.leaving, p ∈ s.rest.restored) : s.exitProgress = s.exitSteps := by
  refine if_pos ?_
  rw [Bool.and_eq_true, List.all_eq_true]
  exact ⟨hc, fun p hp => List.contains_iff_mem.mpr (h p hp)⟩

/-- The core supply is back with every PLL locked and every rank out of self-refresh: the exit waits for the retention (spec/13 R516). -/
theorem exec_restExitCorePg_locked {s : State} {p : Pav} {plls : BitVec 8} {ok : BitVec 256} (hr : s.part.rest.inRest = true)
    (hx : s.part.rest.exiting = true) (hc : s.part.rest.coreUp = false) (hp : p.val ∈ s.part.leaving) (hd : s.part.rest.dark = [])
    (hl : ∀ k ∈ s.part.leaving, bit plls.toNat k = true) (hk : ∀ k < 256, s.part.od .channelState (k / 4) = 3 → bit ok.toNat k = true) :
    exec (.restExitCorePg plls ok) s = .next (s.withPart (s.part.coreBack.pllsLock plls.toNat s.part.leaving)) := by
  have same : s.part.coreBack.leaving = s.part.leaving := Part.leaving_congr fun _ => rfl
  obtain ⟨-, only, -, od⟩ := Part.pllsLock_spec (s := s.part.coreBack) (fun k hk => Part.leaving_range hk) hl
  have left : (s.part.coreBack.pllsLock plls.toNat s.part.leaving).leaving = s.part.leaving := Part.leaving_congr fun k =>
    od.od_eq (by decide) k
  have rest : (s.part.coreBack.pllsLock plls.toNat s.part.leaving).rest = { s.part.rest with coreUp := true, restored := [] } :=
    only .rest (by decide)
  have chan : ∀ c, (s.part.coreBack.pllsLock plls.toNat s.part.leaving).od .channelState c = s.part.od .channelState c := fun c => od.od_eq (by decide) c
  rw [exec_restExitCorePg_eq, if_neg (by simp [Part.exits, hr, hx, hc]), same]
  refine State.next_withPart ?_
  generalize s.part.coreBack.pllsLock plls.toNat s.part.leaving = t at *
  have none : (t.leaving.filter fun p => !bit plls.toNat p || t.rest.dark.contains p) = [] := by
    rw [left, rest, hd]
    simpa using hl
  have ranks : iter (List.range 256) t (fun s k =>
      if bit ok.toNat k || s.od .channelState (k / 4) != 3 || s.pstate (k / 32) = 2 then s else s.rankLeaves (k / 4) (k % 4) 4) = t :=
    iter_fixed _ fun k hm => if_pos (by
      rw [chan]
      by_cases h3 : s.part.od .channelState (k / 4) = 3
      · simp [hk k (List.mem_range.mp hm) h3]
      · simp [h3])
  show (iter (List.range 256) (iter (t.leaving.filter fun p => !bit plls.toNat p || t.rest.dark.contains p) t Part.exitFails) fun s k =>
    if bit ok.toNat k || s.od .channelState (k / 4) != 3 || s.pstate (k / 32) = 2 then s else s.rankLeaves (k / 4) (k % 4) 4).exitProgress = t
  rw [none]
  exact (congrArg Part.exitProgress ranks).trans (Part.exitProgress_waits (p := p.val) (by rw [left]; exact hp) (by rw [rest]; simp))

/-- A pavilion has restored its retention. -/
def Part.noteRestored (s : Part) (p : Nat) : Part := { s with rest := { s.rest with restored := s.rest.restored ++ [p] } }

theorem Part.noteRestored_tallyNow (s : Part) (p : Nat) (e : Entry) (i : Nat) : (s.noteRestored p).tallyNow e i = s.tallyNow e i := rfl

/-- A pavilion whose retention is restored, with its corrected words counted (spec/13 R515). -/
def Part.restoredBy (s : Part) (p ce : Nat) : Part := (if ce = 0 then s else s.count .retentionCe 0 ce).noteRestored p

theorem Part.restoredBy_spec (s : Part) (p ce : Nat) : (s.restoredBy p ce).tallyNow .retentionCe 0 = s.tallyNow .retentionCe 0 + ce ∧
    (s.restoredBy p ce).rest = { s.rest with restored := s.rest.restored ++ [p] } ∧ Part.only [.delta, .rest] s (s.restoredBy p ce) := by
  unfold Part.restoredBy
  rw [Part.noteRestored_tallyNow]
  split
  · next h => exact ⟨by rw [h]; rfl, rfl, (Part.only_refl _ _).next (Part.only_rest _ _) (by decide)⟩
  · exact ⟨Part.count_tallyNow _ _ _ _, rfl, ((Part.only_refl _ _).next (Part.only_count _ _ _ _) (by decide)).next (Part.only_rest _ _) (by decide)⟩

theorem exec_retentionRestoreDone_clean {s : State} {p : Pav} (ce : Nat) (hr : s.part.rest.inRest = true) (hx : s.part.rest.exiting = true)
    (hc : s.part.rest.coreUp = true) (hp : p.val ∈ s.part.leaving) (hn : ¬ p.val ∈ s.part.rest.restored) :
    exec (.retentionRestoreDone p ce []) s = .next (s.withPart (s.part.restoredBy p ce).exitProgress) := by
  have run : exec (.retentionRestoreDone p ce []) s = .next (s.withPart (if !s.part.exits true || s.part.rest.restored.contains p.val ||
    !s.part.leaving.contains p.val then s.part else (s.part.restoredBy p ce).exitProgress)) := rfl
  rw [run, if_neg (by simp [Part.exits, hr, hx, hc, hp, hn])]

/-! ## Memory active again, or a cold boot -/

theorem LogFrame.restNotices (s : Part) (first : Nat) : LogFrame s (s.restNotices first) := by
  unfold Part.restNotices
  extract_lets t
  have ht : LogFrame s t := LogFrame.iter _ s fun u k _ => .ite (.refl _) (.iter _ u fun v n _ => .pushNotice v k n)
  exact ht.trans (.flushNotices t)

/-- The REST sequencer at rest, the heartbeat from now (spec/13 R516, step 9). -/
def Part.restCleared (s : Part) : Part := { s with rest := RestState.zero, boot := { s.boot with heartbeat := s.now } }

/-- What REST leaves in the store as memory becomes active, before the compile that follows (spec/13 R516, step 9). -/
def Part.restEnds (s : Part) : Part :=
  let s := s.restCleared
  let s := (iter s.leaving s fun s p => s.setOd .fillState p 3).setOd .fillLastKind 0 2
  let s := if s.od0 .timeSource = 1 then s.setOd .timeState 0 2 else s
  (s.setOd .bootState 0 13).setOd .packagePowerState 0 s.packageNow

theorem Part.restOver_eq (s : Part) (first : Nat) : s.restOver first = (s.restEnds.askCompile 2).restNotices first := rfl

theorem Part.restEnds_spec (s : Part) : s.restEnds.rest = RestState.zero ∧ s.restEnds.od .bootState 0 = 13 ∧
    s.restEnds.od .packagePowerState 0 ∈ [1, 2] ∧
    Part.keepsOd [.fillState, .fillLastKind, .timeState, .bootState, .packagePowerState] s s.restEnds := by
  unfold Part.restEnds
  extract_lets a b c
  have hb : Part.only [.dict] a b := ((Part.only_refl _ _).next (Part.only_iter (fun t p => t.only_setOd _ _ _) _ _) (by decide)).next (Part.only_setOd _ _ _ _) (by decide)
  have kb : Part.keepsOd [.fillState, .fillLastKind] a b :=
    (Part.keepsOd_iter _ _ fun t p _ => (Part.keepsOd_refl _ _).setOd _ _ _ (by decide)).setOd _ _ _ (by decide)
  have ka : Part.keepsOd [] s a := fun _ _ _ _ => rfl
  have ra : a.rest = RestState.zero := rfl
  clear_value b a
  have hc : Part.only [.dict] b c := Part.only_ite (Part.only_setOd _ _ _ _) (Part.only_refl _ _)
  have kc : Part.keepsOd [.timeState] b c := Part.keepsOd_ite ((Part.keepsOd_refl _ _).setOd _ _ _ (by decide)) (Part.keepsOd_refl _ _)
  clear_value c
  have pkg := c.packageNow_mem
  have small : c.packageNow < 2 ^ (8 * Entry.packagePowerState.info.bytes) := by
    rcases List.mem_pair.mp pkg with h | h <;> rw [h] <;> decide
  refine ⟨?_, ?_, ?_, ((((Part.keepsOd_refl _ _).next ka (by decide)).next kb (by decide)).next kc (by decide) |>.setOd _ _ _ (by decide)).setOd _ _ _ (by decide)⟩
  · exact (hc .rest (by decide)).trans ((hb .rest (by decide)).trans ra)
  · rw [Part.od_setOd_ne _ _ _ _ (by decide)]
    exact Part.od_setOd_val _ _ _ _ (by decide)
  · rw [Part.od_setOd_val _ _ _ _ small]
    exact pkg

theorem Part.restOver_spec (s : Part) (first : Nat) : (s.restOver first).rest = RestState.zero ∧ (s.restOver first).od .bootState 0 = 13 ∧
    (s.restOver first).od .packagePowerState 0 ∈ [1, 2] ∧
    Part.keepsOd [.fillState, .fillLastKind, .timeState, .bootState, .packagePowerState, .ringState] s (s.restOver first) := by
  obtain ⟨rest, boot, pkg, keeps⟩ := s.restEnds_spec
  have frame := LogFrame.restNotices (s.restEnds.askCompile 2) first
  have asked := s.restEnds.only_askCompile 2 0
  have keeps' : Part.keepsOd [.ringState] s.restEnds (s.restOver first) := (Part.keepsOd_of_only asked (by decide)).next frame.keeps (by decide)
  refine ⟨?_, (keeps'.od_eq (by decide) 0).trans boot, ?_, Part.keepsOd.next (Part.keepsOd_mono keeps (by decide)) keeps' (by decide)⟩
  · rw [Part.restOver_eq, frame.only .rest (by decide)]
    exact (asked .rest (by decide)).trans rest
  · rw [keeps'.od_eq (by decide) 0]
    exact pkg

theorem Part.restLeft_spec (s : Part) : s.restLeft.rest = RestState.zero ∧ s.restLeft.od .bootState 0 = 13 ∧
    s.restLeft.od .packagePowerState 0 ∈ [1, 2] ∧ s.restLeft.od .restLastDuration 0 = (s.rest.exitAt - s.rest.entered) / nsPerMs % 2 ^ 64 ∧
    s.restLeft.od .restLastExitTime 0 = (s.now - s.rest.exitAt) / nsPerMs % 2 ^ 32 := by
  unfold Part.restLeft
  extract_lets r stay took t u
  obtain ⟨rest, boot, pkg, keeps⟩ := (((u.setOd .restLastDuration 0 stay).setOd .restLastExitTime 0 took).logEv 0x1604 stay took).restOver_spec r.logAt
  refine ⟨rest, boot, pkg, ?_, ?_⟩
  · rw [keeps.od_eq (by decide) 0, Part.logEv_od _ _ _ _ _ _ (by decide) (by decide), Part.od_setOd_ne _ _ _ _ (by decide), Part.od_setOd_self]
    rfl
  · rw [keeps.od_eq (by decide) 0, Part.logEv_od _ _ _ _ _ _ (by decide) (by decide), Part.od_setOd_self]
    rfl

/-- The measurement at the end of the exit: a match makes memory active, another is a cold boot (spec/16 R581). -/
theorem exec_warmMeasurementDone_ready {s : State} (digest : BitVec 384) (hr : s.part.rest.inRest = true) (hx : s.part.rest.exiting = true)
    (hc : s.part.rest.coreUp = true) (hp : ∀ k ∈ s.part.leaving, k ∈ s.part.rest.restored) (hl : ∀ n : Link, s.part.od .linkState n ≠ 1) :
    exec (.warmMeasurementDone digest) s = .next (s.withPart (if digest.toNat = s.part.boot.measured then s.part.restLeft
      else ((s.part.logEv 0x1905 0 0).coreLost).coreStart)) := by
  rw [exec_warmMeasurementDone, execWarmMeasurementDone, State.run_eq, if_neg]
  simp only [Bool.or_eq_true, Bool.not_eq_true', List.any_eq_true, not_or]
  refine ⟨⟨by simp [Part.exits, hr, hx, hc], by simpa using hp⟩, ?_⟩
  rintro ⟨n, hn, h1⟩
  exact hl ⟨n, List.mem_range.mp hn⟩ (beq_iff_eq.mp h1)

/-- A loss of the core supply with the main input in order begins stage 3 again (spec/14 R531, spec/16 R574). -/
theorem Part.coreLost_free {s : Part} (hm : s.power.mainPG = true) (ht : s.power.thermtrip = true) (hf : s.power.coreFails < 3)
    (hn : s.od .partFailed 0 ≠ 1) (hl : s.boot.pav0Lost = false) : s.coreLost.coreFree := by
  have power := s.coreLost_power.1
  have boot : s.coreLost.boot = s.lostBase.boot := s.coreLost_only .boot (by decide)
  refine ⟨?_, ?_, ?_, by rwa [s.coreLost_od (by decide) (by decide) (by decide)], ?_⟩
  · exact (congrArg PowerState.mainPG power).trans hm
  · exact (congrArg PowerState.thermtrip power).trans ht
  · exact (congrArg PowerState.coreFails power).trans_lt hf
  · exact (congrArg BootState.pav0Lost boot).trans hl

/-- POWER_COMMAND REST of a role that may: it depends on the power state of the package (spec/13 R506). -/
theorem exec_powerCommandRest_takes {s : State} {w : Who} (hw : s.part.mayWrite w .powerCommand) :
    exec (.powerCommandRest w) s = .next (s.withPart ((match s.part.od .packagePowerState 0 with
      | 1 => s.part.restStart.ok
      | 2 => s.part.restStart.ok
      | 0 => s.part.refuse rState
      | _ => s.part.refuse rBusy).answer w)) := by
  rw [exec_powerCommandRest, execPowerCommandRest, State.run_eq, Part.powerCommand,
    Part.command_eq 1 false _ hw (by decide) (fun h => absurd h Bool.false_ne_true)]
  rfl

/-- Settles O56: idle lanes and pavilions, the start of an attempt, and the exit's steps each by its own rule. -/
theorem restEntryAndExit : Obligations.RestEntryAndExit := by
  intro s p
  refine ⟨fun lane hr hs hq ht => ?_, fun hs hr hb => ?_, fun w hw => ⟨?_, ?_, ?_⟩, fun ha hpk hf hi => ?_,
    fun hr hx hc hp hd plls ok hl hk => ?_, fun hr hx hc hp hn ce => ⟨?_, ?_⟩, fun hr hx hc hp hl digest => ⟨?_, ?_⟩⟩
  -- an idle lane
  · rw [exec_laneClockGate, execLaneClockGate, State.run_eq, if_neg (by simp [hr, hs, hq, ht])]
  -- an idle pavilion
  · obtain ⟨idle, tally, chans, only, od⟩ := s.part.idled_spec p
    have state : ∀ k, (s.part.idled p).od .pavilionState k = s.part.od .pavilionState k := fun k => by
      rw [← Part.od_mod, od _ _ (Nat.mod_lt _ (by decide)) (by simp), Part.od_mod]
    have package : (s.part.idled p).od .packagePowerState 0 = s.part.od .packagePowerState 0 := od _ _ (by decide) (by simp)
    have idles : s.part.od .packagePowerState 0 = 1 → (∀ k ∈ s.part.serving, k ≠ p.val → s.part.od .pavilionPowerState k = 1) →
        (s.part.idled p).packageNow = 2 := fun _ others => by
      refine Part.packageNow_idle (p := p.val) ?_ ?_
      · rw [Part.serving_congr state]
        exact List.mem_filter.mpr ⟨List.mem_range.mpr p.isLt, hs⟩
      · rw [Part.serving_congr state]
        intro k hk
        by_cases e : k = p.val
        · rw [e]; exact idle
        · have : k < 8 := List.mem_range.mp (List.mem_filter.mp hk).1
          rw [od _ _ (by omega) (by simp [e])]
          exact others k hk e
    have run := exec_pavilionIdleEntry_idle hs hr hb
    generalize s.part.idled p = t at *
    by_cases h1 : t.od0 .packagePowerState = 1
    · rw [if_pos h1] at run
      refine ⟨_, run, ?_, ?_, fun hp others => ?_, fun c hc => chans c hc, only.next (Part.only_setOd _ _ _ _) (by decide), ?_⟩
      · rw [Part.od_setOd_ne _ _ _ _ (by decide)]
        exact idle
      · rw [Part.tallyNow, Part.od_setOd_ne _ _ _ _ (by decide)]
        exact tally
      · rw [idles hp others]
        exact Part.od_setOd_val _ _ _ _ (by decide)
      · exact Part.odOnly_trans (od.mono fun x hx => List.mem_cons.mpr (.inl (List.mem_singleton.mp hx))) ((Part.odOnly_refl _ _).setOd _ _ _ (by decide) (by simp))
    · rw [if_neg h1] at run
      exact ⟨_, run, idle, tally, fun h => absurd (package.trans h) h1, fun c hc => chans c hc, only,
        od.mono fun x hx => List.mem_cons.mpr (.inl (List.mem_singleton.mp hx))⟩
  -- an attempt by command
  · intro h
    rw [exec_powerCommandRest_takes hw]
    rcases List.mem_pair.mp h with h | h <;> rw [h] <;> rfl
  · intro h
    rw [exec_powerCommandRest_takes hw, h]
    rfl
  · intro h
    rw [exec_powerCommandRest_takes hw]
    simp only [List.mem_cons, List.not_mem_nil, or_false] at h
    rcases h with h | h | h <;> rw [h] <;> rfl
  -- an attempt by REST_AUTO
  · have idle : (List.range 16).all s.part.portInactive = true := List.all_eq_true.mpr fun i hm => hi ⟨i, List.mem_range.mp hm⟩
    have state : (s.part.od0 .packagePowerState == 1 || s.part.od0 .packagePowerState == 2) = true := by
      rcases List.mem_pair.mp hpk with h | h <;> simp [Part.od0, h]
    rw [exec_restAutoDelayExpiry, execRestAutoDelayExpiry, State.run_eq, if_pos (by rw [state, idle]; simp [Part.od0, ha, hf])]
    rfl
  -- the core supply comes back
  · obtain ⟨plls', only, od, -⟩ := Part.pllsLock_spec (s := s.part.coreBack) (fun k hk => Part.leaving_range hk) hl
    have back : Part.only [.rest, .power] s.part s.part.coreBack := fun f hf => by cases f <;> first | rfl | simp at hf
    refine ⟨_, exec_restExitCorePg_locked hr hx hc hp hd hl hk, only .rest (by decide), only .power (by decide), plls',
      Part.only.next (Part.only_mono back (by decide)) only (by decide), Part.odOnly_trans (Part.odOnly_of_dict rfl) od⟩
  -- the retention of a pavilion
  · rintro ⟨k, hk, hne, left⟩
    obtain ⟨tally, rest, only⟩ := s.part.restoredBy_spec p ce
    refine ⟨_, ?_, tally, rest, only⟩
    have same : (s.part.restoredBy p ce).leaving = s.part.leaving := Part.leaving_congr fun q => Part.od_congr (only .dict (by decide)) _ _
    rw [exec_retentionRestoreDone_clean ce hr hx hc hp hn, Part.exitProgress_waits (p := k) (by rw [same]; exact hk)]
    rw [rest]
    simp [left, hne]
  · intro last perst
    obtain ⟨-, rest, only⟩ := s.part.restoredBy_spec p ce
    have same : (s.part.restoredBy p ce).leaving = s.part.leaving := Part.leaving_congr fun q => Part.od_congr (only .dict (by decide)) _ _
    have coreUp : (s.part.restoredBy p ce).rest.coreUp = true := (congrArg RestState.coreUp rest).trans hc
    have all : ∀ k ∈ (s.part.restoredBy p ce).leaving, k ∈ (s.part.restoredBy p ce).rest.restored := by
      rw [same, rest]
      intro k hk
      by_cases e : k = p.val
      · simp [e]
      · simp [last k hk e]
    obtain ⟨step, restored, links⟩ := Part.exitSteps_spec (s := s.part.restoredBy p ce) ((congrArg RestState.perst rest).trans perst)
    refine ⟨_, by rw [exec_retentionRestoreDone_clean ce hr hx hc hp hn, Part.exitProgress_goes coreUp all], step,
      restored.trans (congrArg RestState.restored rest), fun n => ?_⟩
    rw [links n n.isLt, Part.od_congr (only .dict (by decide))]
  -- the measurement
  · intro same
    exact ⟨_, by rw [exec_warmMeasurementDone_ready digest hr hx hc hp hl, if_pos same], s.part.restLeft_spec⟩
  · intro other hm ht hf hn hv
    have power : (s.part.logEv 0x1905 0 0).power = s.part.power := Part.logEv_power _ _ _ _ _ _
    have boot : (s.part.logEv 0x1905 0 0).boot = s.part.boot := Part.logEv_boot _ _ _ _ _ _
    have flash : (s.part.logEv 0x1905 0 0).flash = s.part.flash := Part.logEv_flash _ _ _ _ _ _
    have failed : (s.part.logEv 0x1905 0 0).od .partFailed 0 = s.part.od .partFailed 0 := Part.logEv_od _ _ _ _ _ _ (by decide) (by decide)
    have run := exec_warmMeasurementDone_ready digest hr hx hc hp hl
    rw [if_neg other] at run
    generalize s.part.logEv 0x1905 0 0 = t at *
    have free := Part.coreLost_free (s := t) (by rw [power]; exact hm) (by rw [power]; exact ht) (by rw [power]; exact hf) (by rw [failed]; exact hn)
      (by rw [boot]; exact hv)
    have lost := t.coreLost_only
    have off := t.coreLost_power.1
    generalize t.coreLost = u at *
    obtain ⟨up, stage, only, -⟩ := Part.coreStart_spec free
    refine ⟨_, run, ?_, stage, congrArg PowerState.coreEn up, ?_, ?_, ?_⟩
    · exact (only .rest (by decide)).trans (lost .rest (by decide))
    · exact (congrArg PowerState.corePG up).trans (congrArg PowerState.corePG off)
    · exact (congrArg KeyState.sets (only .keys (by decide))).trans (congrArg KeyState.sets (lost .keys (by decide)))
    · exact (only .flash (by decide)).trans ((lost .flash (by decide)).trans flash)

end Sys2Proof.Machine
end

section
/-!
O44: the commands of the monitor (spec/16 R594 to R598).
-/

namespace Sys2Proof.Machine

/-! ## Who is answered -/

/-- A command was given now (spec/16 R595). -/
def Part.monUsed (s : Part) : Part := { s with mon := { s.mon with usedAt := s.now + 1 } }

theorem Part.monitor_eq (s : Part) (least : Nat) (rom : Bool) (f : Part → Part) : s.monitor least rom f =
    if !s.monServes || !s.monEnabled then s else
    if (s.romOnly && !rom) || decide (s.od .monitorRole 0 < least) then s.monUsed.monRefuses else f s.monUsed := rfl

/-- A command of a session whose role suffices runs, in ROM-only mode where it may. -/
theorem Part.monitor_runs {s : Part} {least : Nat} {rom : Bool} (f : Part → Part) (hs : s.monServes = true) (he : s.monEnabled = true)
    (hr : least ≤ s.od .monitorRole 0) (hm : rom = true ∨ s.romOnly = false) : s.monitor least rom f = f s.monUsed := by
  rw [Part.monitor_eq, if_neg (by simp [hs, he]), if_neg]
  rcases hm with h | h <;> simp [h, hr]

/-- While MONITOR_ENABLE is LOCKED nothing is answered. -/
theorem Part.monitor_locked {s : Part} (least : Nat) (rom : Bool) (f : Part → Part) (he : s.monEnabled = false) : s.monitor least rom f = s := by
  rw [Part.monitor_eq, if_pos (by simp [he])]

/-! ## What is printed -/

/-- Some outputs at the lands. -/
def Part.says (s : Part) (l : List Output) : Part := { s with out := s.out ++ l }

theorem Part.says_says (s : Part) (a b : List Output) : (s.says a).says b = s.says (a ++ b) := by
  unfold Part.says
  rw [List.append_assoc]

/-- A loop that prints for each member of a list what does not depend on the outputs before. -/
theorem Part.iter_says {α : Type} (f : Part → α → Part) (h : Part → α → List Output) (hf : ∀ s a, f s a = s.says (h s a))
    (same : ∀ s l a, h (Part.says s l) a = h s a) (xs : List α) (s : Part) : iter xs s f = s.says (xs.flatMap (h s)) := by
  induction xs generalizing s with
  | nil => exact congrArg (fun l => ({ s with out := l } : Part)) (List.append_nil _).symm
  | cons x xs ih =>
    show iter xs (f s x) f = _
    rw [hf, ih, Part.says_says, List.flatMap_cons, show h (s.says (h s x)) = h s from funext fun a => same s _ a]

/-- The headers that the command vintage prints for a pavilion. -/
def Part.vintageText (s : Part) (p : Nat) : List Output :=
  [("in force", s.vint.inForce), ("shadow", s.vint.shadow.getD Vintage.none)].map fun q =>
    .text q.1 [q.2.digest, q.2.number, q.2.lengths.get 0 p, q.2.pavilions, b2n q.2.forced + 2 * b2n q.2.planOnly, q.2.format]

/-- What the command train prints for a rank of a channel. -/
def Part.trainText (s : Part) (c r : Nat) : Output :=
  .text "train" [r, s.od .rankState (c * 4 + r), s.od .trainEyes (c * 4 + r), s.stepResults (c * 4 + r)]

theorem Part.vintage_says (s : Part) : (iter s.serving s fun s p =>
      (s.printVintage "in force" s.vint.inForce p).printVintage "shadow" ((s.printVintage "in force" s.vint.inForce p).vint.shadow.getD Vintage.none) p) =
    s.says (s.serving.flatMap s.vintageText) :=
  Part.iter_says _ Part.vintageText (fun s _ => Part.says_says s [_] [_]) (fun _ _ _ => rfl) _ s

theorem Part.train_says (s : Part) (c : Nat) : (iter (List.range 4) s fun s r =>
      s.prints "train" [r, s.od .rankState (c * 4 + r), s.od .trainEyes (c * 4 + r), s.stepResults (c * 4 + r)]) =
    s.says ((List.range 4).flatMap fun r => [s.trainText c r]) :=
  Part.iter_says _ (fun s r => [s.trainText c r]) (fun _ _ => rfl) (fun _ _ _ => rfl) _ s

theorem Part.only_says (s : Part) (l : List Output) : Part.only [.out] s (s.says l) := fun f hf => by cases f <;> first | rfl | simp at hf

/-! ## peek and poke of an aligned word -/

theorem bits_low (x n : Nat) : bits x 0 n = x % 2 ^ n := by
  unfold bits
  rw [Nat.shiftRight_zero, Nat.and_two_pow_sub_one_eq_mod]

/-- An aligned word is read by itself. -/
theorem Part.peekWords_one (s : Part) (p a : Nat) (h : a % 8 = 0) : s.peekWords ((a % 8 + 8 + 7) / 8) p (a / 8) = s.peekWord p (a / 8) := by
  rw [h]
  show ((s.peekWord p (a / 8)).1, (s.peekWord p (a / 8)).2 ||| (0 <<< 64)) = _
  rw [Nat.zero_shiftLeft, Nat.or_zero]

theorem Part.peekWord_dram (s : Part) (p : Nat) {a : Nat} (h : a % 8 = 0) (hg : a < gateMemory) : s.peekWord p (a / 8) = s.filterRead 1 p a := by
  have e : 8 * (a / 8) = a := by omega
  rw [Part.peekWord, e, if_pos hg]

theorem Part.peekWord_gate {s : Part} (p : Nat) {a v : Nat} (h : a % 8 = 0) (hg : gateMemory ≤ a)
    (hv : s.mon.memory.lookup (a / 8 - gateMemory / 8) = some v) : s.peekWord p (a / 8) = (s, v) := by
  have e : 8 * (a / 8) = a := by omega
  rw [Part.peekWord, e, if_neg (Nat.not_lt.mpr hg), hv]

theorem Part.pokeWord_dram (s : Part) (p v : Nat) {a : Nat} (h : a % 8 = 0) (hg : a < gateMemory) :
    s.pokeWord p (a / 8) v = s.filterWrite 1 p a v := by
  have e : 8 * (a / 8) = a := by omega
  rw [Part.pokeWord, e, if_pos hg]

theorem Part.pokeWord_gate (s : Part) (p v : Nat) {a : Nat} (h : a % 8 = 0) (hg : gateMemory ≤ a) :
    s.pokeWord p (a / 8) v = { s with mon := { s.mon with memory := s.mon.memory.put (a / 8 - gateMemory / 8) v } } := by
  have e : 8 * (a / 8) = a := by omega
  rw [Part.pokeWord, e, if_neg (Nat.not_lt.mpr hg)]

/-- An aligned poke is the write of one whole word. -/
theorem Part.poke_aligned (s : Part) (p a : Nat) (value : U64) (h : a % 8 = 0) :
    (s.pokeMasked p (a / 8) (bits ((2 ^ 64 - 1) <<< (8 * (a % 8))) 0 64) (bits (value.toNat <<< (8 * (a % 8))) 0 64)).pokeMasked p (a / 8 + 1)
      (bits ((2 ^ 64 - 1) <<< (8 * (a % 8))) 64 64) (bits (value.toNat <<< (8 * (a % 8))) 64 64) = s.pokeWord p (a / 8) value.toNat := by
  have low : bits (value.toNat <<< (8 * (a % 8))) 0 64 = value.toNat := by
    rw [h, bits_low]
    exact Nat.mod_eq_of_lt value.isLt
  rw [low, h]
  exact (if_pos rfl).trans ((if_neg (by decide)).trans (if_pos rfl))

/-! ## The login -/

theorem Part.login_unlocked {s : Part} {r answer key : Nat} (hl : s.mon.locked = false) (ho : s.od .monitorRole 0 = 0) (hk : s.monKey r = some key) :
    s.login r answer = if answer = s.monAnswer key (s.free.1 % 2 ^ 128) then (s.free.2.prints "nonce" [s.free.1 % 2 ^ 128]).loginPasses r
      else (s.free.2.prints "nonce" [s.free.1 % 2 ^ 128]).loginFails r := by
  unfold Part.login
  rw [if_neg (by simp [hl, Part.od0, ho]), hk]
  rfl

theorem Part.loginPasses_spec (s : Part) {r : Nat} (h : r < 256) : (s.loginPasses r).od .monitorRole 0 = r ∧
    (s.loginPasses r).mon = { s.mon with wrong := 0 } ∧ (s.loginPasses r).keys = s.keys ∧ (s.loginPasses r).flash = s.flash := by
  unfold Part.loginPasses
  extract_lets _ t
  have mon : t.mon = { s.mon with wrong := 0 } := rfl
  have keys : t.keys = s.keys := rfl
  have flash : t.flash = s.flash := rfl
  clear_value t
  refine ⟨?_, ?_, ?_, ?_⟩
  · rw [Part.logEv_od _ _ _ _ _ _ (by decide) (by decide), Part.count_od]
    exact Part.od_setOd_val _ _ _ _ h
  · rw [Part.logEv_mon]
    exact mon
  · rw [Part.logEv_keys]
    exact keys
  · rw [Part.logEv_flash]
    exact flash

/-- A wrong answer: the third in a row locks the login (spec/16 R595). -/
def Part.wrongOnce (s : Part) : Part :=
  { s with mon := { s.mon with wrong := if decide (2 ≤ s.mon.wrong) then 0 else s.mon.wrong + 1, locked := decide (2 ≤ s.mon.wrong) } }

theorem Part.loginFails_eq (s : Part) (r : Nat) : s.loginFails r = ((s.wrongOnce.count .monitorLoginFailures 0).logEv 0x190A r 0).emit (.text "refused" []) :=
  rfl

theorem Part.loginFails_spec (s : Part) (r : Nat) : (s.loginFails r).od .monitorRole 0 = s.od .monitorRole 0 ∧
    (s.loginFails r).mon = s.wrongOnce.mon := by
  rw [Part.loginFails_eq]
  refine ⟨?_, ?_⟩
  · rw [Part.emit_od, Part.logEv_od _ _ _ _ _ _ (by decide) (by decide), Part.count_od]
    rfl
  · rw [Part.emit_mon, Part.logEv_mon]
    rfl

/-- Settles O44: each command by the role it needs. -/
theorem monitorCommands : Obligations.MonitorCommands := by
  intro s hs u
  have hu : u = s.part.monUsed := rfl
  clear_value u
  subst hu
  refine ⟨?_, fun he c hc => ?_, ?_, fun h => ?_, fun h => ?_, fun he => ⟨?_, fun r answer key hk ho => ⟨fun hl => ?_, fun hl => ⟨fun right => ?_, fun wrong => ?_⟩⟩,
    fun h1 => ⟨?_, fun n hn hm => ?_, fun hrom index sub => ⟨fun v n hd => ?_, fun v n hd => ?_, fun v n e i hd => ?_⟩⟩,
    fun h2 => ⟨?_, ?_, fun p addr v hg ha hv hl => ?_, fun hrom => ⟨fun p addr hg ha => ?_, ?_, fun c => ⟨?_, ?_⟩⟩⟩,
    fun h4 => ⟨fun p addr value hg ha => ?_, fun hrom p addr value hg ha => ?_, fun img => ?_⟩⟩⟩
  -- without a session
  · rw [exec_monitorHelp, execMonitorHelp, State.run_eq, if_pos hs]
    exact State.next_withPart (Part.iter_says _ (fun _ c => [.text c []]) (fun _ _ => rfl) (fun _ _ _ => rfl) monCommands s.part)
  · simp only [List.mem_cons, List.not_mem_nil, or_false] at hc
    rcases hc with rfl | rfl | rfl | rfl | rfl <;> exact State.next_withPart (Part.monitor_locked _ _ _ he)
  · rfl
  · rw [exec_monitorIdleTimeout, execMonitorIdleTimeout, State.run_eq, if_pos (by simp [hs, h])]
    rfl
  · rw [exec_monitorIdleTimeout, execMonitorIdleTimeout, State.run_eq, if_neg (by simp [h])]
    rfl
  · exact State.next_withPart (Part.monitor_runs _ hs he (Nat.zero_le _) (.inl rfl))
  -- the login
  · rw [exec_monitorLogin, execMonitorLogin, State.run_eq, Part.monitor_runs _ hs he (Nat.zero_le _) (.inl rfl)]
    exact State.next_withPart (if_pos (by simp [Part.monUsed, hl]))
  · obtain ⟨role, mon, keys, flash⟩ := (s.part.monUsed.free.2.prints "nonce" [s.part.monUsed.free.1 % 2 ^ 128]).loginPasses_spec
      (r := r) (Nat.lt_trans r.isLt (by decide))
    refine ⟨_, ?_, role, mon, keys, flash⟩
    rw [exec_monitorLogin, execMonitorLogin, State.run_eq, Part.monitor_runs _ hs he (Nat.zero_le _) (.inl rfl), Part.login_unlocked (s := s.part.monUsed) hl ho hk]
    exact State.next_withPart (if_pos right)
  · obtain ⟨role, mon⟩ := (s.part.monUsed.free.2.prints "nonce" [s.part.monUsed.free.1 % 2 ^ 128]).loginFails_spec r
    refine ⟨_, ?_, role.trans ho, (congrArg MonState.locked mon), (congrArg MonState.wrong mon).trans (if_congr decide_eq_true_iff rfl rfl)⟩
    rw [exec_monitorLogin, execMonitorLogin, State.run_eq, Part.monitor_runs _ hs he (Nat.zero_le _) (.inl rfl), Part.login_unlocked (s := s.part.monUsed) hl ho hk]
    exact State.next_withPart (if_neg wrong)
  -- a session of any role
  · exact State.next_withPart (Part.monitor_runs _ hs he h1 (.inl rfl))
  · rw [exec_monitorLog, execMonitorLog, State.run_eq, Part.monitor_runs _ hs he h1 (.inl rfl)]
    have all : min (min n s.part.monUsed.logNext) 65536 = n := by
      rw [Nat.min_eq_left (show n ≤ s.part.monUsed.logNext from hn), Nat.min_eq_left hm]
    simp only [all]
    rfl
  · rw [exec_monitorOdRead, execMonitorOdRead, State.run_eq, Part.monitor_runs _ hs he h1 (.inr hrom), hd]
    rfl
  · rw [exec_monitorOdWrite, execMonitorOdWrite, State.run_eq, Part.monitor_runs _ hs he h1 (.inr hrom), hd]
  · rw [exec_monitorOdWrite, execMonitorOdWrite, State.run_eq, Part.monitor_runs _ hs he h1 (.inr hrom), hd]
  -- a session of an operator
  · exact State.next_withPart (Part.monitor_runs _ hs he h2 (.inl rfl))
  · exact State.next_withPart (Part.monitor_runs _ hs he h2 (.inl rfl))
  · rw [exec_monitorPeek, execMonitorPeek, State.run_eq, Part.monitor_runs _ hs he h2 (.inl (decide_eq_true hg)), if_neg (by decide)]
    simp only [Part.peekWords_one _ _ _ ha, Part.peekWord_gate (s := s.part.monUsed) p ha hg hl]
    rw [ha, bits_low, Nat.mod_eq_of_lt hv]
    rfl
  · rw [exec_monitorPeek, execMonitorPeek, State.run_eq, Part.monitor_runs _ hs he h2 (.inr hrom), if_neg (by decide)]
    simp only [Part.peekWords_one _ _ _ ha, Part.peekWord_dram _ p ha hg]
    rw [ha, bits_low]
    rfl
  · refine ⟨s.part.monUsed.says (s.part.serving.flatMap s.part.monUsed.vintageText), _, ?_, rfl, ?_, Part.only_says _ _⟩
    · rw [exec_monitorVintage, execMonitorVintage, State.run_eq, Part.monitor_runs _ hs he h2 (.inr hrom)]
      exact State.next_withPart s.part.monUsed.vintage_says
    · simp [List.length_flatMap, Part.vintageText, Nat.mul_comm]
  · exact State.next_withPart (Part.monitor_runs _ hs he h2 (.inr hrom))
  · refine ⟨s.part.monUsed.says ((List.range 4).flatMap fun r => [s.part.monUsed.trainText c r]), _, ?_, rfl, rfl, Part.only_says _ _, fun r => ?_⟩
    · rw [exec_monitorTrain, execMonitorTrain, State.run_eq, Part.monitor_runs _ hs he h2 (.inr hrom)]
      exact State.next_withPart (s.part.monUsed.train_says c)
    · have steps : s.part.monUsed.stepResults (c * 4 + r) = (s.part.chan c).steps.getD r 0 := by
        have e : (c.val * 4 + r.val) / 4 = c.val ∧ (c.val * 4 + r.val) % 4 = r.val := by omega
        rw [Part.stepResults, e.1, e.2]
        rfl
      rw [← steps]
      fin_cases r <;> rfl
  -- a session of the vendor
  · rw [exec_monitorPoke, execMonitorPoke, State.run_eq, Part.monitor_runs (least := roleVendor) _ hs he h4 (.inl (decide_eq_true hg))]
    exact State.next_withPart ((Part.poke_aligned _ p _ value ha).trans (Part.pokeWord_gate _ p _ ha hg))
  · rw [exec_monitorPoke, execMonitorPoke, State.run_eq, Part.monitor_runs (least := roleVendor) _ hs he h4 (.inr hrom)]
    exact State.next_withPart ((Part.poke_aligned _ p _ value ha).trans (Part.pokeWord_dram _ p _ ha hg))
  · intro n
    rw [exec_monitorLoad, execMonitorLoad, State.run_eq, Part.monitor_runs (least := roleVendor) _ hs he h4 (.inl rfl)]
    have whole : (decide (1 ≤ (readHeader img.header.toNat).length) && decide ((readHeader img.header.toNat).length ≤ 50331392)) = true ↔
        1 ≤ n ∧ n ≤ 50331392 := Bool.and_eq_true_iff.trans (and_congr decide_eq_true_iff decide_eq_true_iff)
    simp only [if_congr whole rfl rfl]
    rfl

end Sys2Proof.Machine
end

section
/-!
O58: VAUX and PART_RESET_N, self-tests, image slots and the start of firmware (spec/13 R519, spec/15 R550, spec/16 R572 to R584).
-/

namespace Sys2Proof.Machine

/-! ## The supply -/

/-- What is left of the ports: those whose PERST# is released (spec/13 R519). -/
def portsOff (m : Sparse PortState) : Sparse PortState := (m.filter fun e => !e.2.perst).map fun e => (e.1, { PortState.zero with perst := false })

theorem portsOff_get {m : Sparse PortState} (h : m.sorted = true) (k : Nat) :
    (portsOff m).get PortState.zero k = { PortState.zero with perst := (m.get PortState.zero k).perst } := by
  induction m with
  | nil => rfl
  | cons e r ih =>
    obtain ⟨j, v⟩ := e
    obtain ⟨above, sorted⟩ := (Sparse.sorted_cons j v r).mp h
    have rest := ih sorted
    rw [Sparse.get_cons]
    unfold portsOff at rest ⊢
    rw [List.filter_cons]
    cases hv : v.perst with
    | false =>
      rw [if_pos (by simp), List.map_cons, Sparse.get_cons, rest]
      by_cases e : j = k <;> simp [e, hv]
    | true =>
      rw [if_neg (by simp), rest]
      by_cases e : j = k
      · subst e
        rw [if_pos rfl, hv, Sparse.get_of_above above]
        rfl
      · rw [if_neg e]

/-- The pins of the supplies fall with VAUX. -/
def Part.pinsOff (s : Part) : Part := (s.setCoreEn false).setMainPG false

theorem Part.only_pinsOff (s : Part) : Part.only [.power, .out] s s.pinsOff := (Part.only_setCoreEn s false).next ((Part.setMainPG_spec _ _).2) (by decide)

theorem Part.off_eq (s : Part) (h : s.power.vaux = true) : s.off = { Part.reset with
    ports := portsOff s.pinsOff.ports, power := { PowerState.zero with vaux := false }, flash := s.pinsOff.flash, out := s.pinsOff.out,
    freeCtr := s.pinsOff.freeCtr } := if_neg (by simp [h])

theorem Part.off_spec {s : Part} (h : s.power.vaux = true) (hs : s.ports.sorted = true) :
    s.off.power = { PowerState.zero with vaux := false } ∧ s.off.flash = s.flash ∧ s.off.freeCtr = s.freeCtr ∧
    Part.only [.ports, .power, .flash, .out, .freeCtr] State.reset.part s.off ∧
    ∀ i : Port, s.off.port i = { PortState.zero with perst := (s.port i).perst } := by
  have pins := s.only_pinsOff
  rw [Part.off_eq s h]
  refine ⟨rfl, pins .flash (by decide), pins .freeCtr (by decide), fun f hf => by cases f <;> first | rfl | simp at hf, fun i => ?_⟩
  show (portsOff s.pinsOff.ports).get PortState.zero i = _
  rw [show s.pinsOff.ports = s.ports from pins .ports (by decide)]
  exact portsOff_get hs i

/-- The straps as they are sampled when the supply comes (spec/16 R574). -/
def Part.strapped (s : Part) (straps : Nat) : Part :=
  { s with
    power := { s.power with vaux := true, strapMain := bits straps 0 2, strapBr := bits straps 2 2, strapI3c := bits straps 4 3 }
    boot := { s.boot with bootStart := s.now } }

/-- The always-on domains run: source of the boot, time base unset, its PLL locked, with a record (spec/16 R574). -/
def Part.alwaysOn (s : Part) (source : Nat) : Part :=
  (((s.setOd .bootSource 0 source).setOd .timeState 0 0).setOd .aonPllLocked 0 1).logEv 0x1901 source 0

theorem Part.on_eq {s : Part} (source straps : Nat) (h : s.power.vaux = false ∨ s.od .bootState 0 = 1) :
    s.on source straps = (((s.strapped straps).alwaysOn source).stageEnd 1 2).retiredStay := by
  refine if_neg ?_
  rcases h with h | h <;> simp [Part.od0, h]

theorem Part.alwaysOn_spec (s : Part) {source : Nat} (h : source < 256) : (s.alwaysOn source).od .bootSource 0 = source ∧
    (s.alwaysOn source).od .aonPllLocked 0 = 1 ∧ (s.alwaysOn source).od .timeState 0 = 0 ∧ (s.alwaysOn source).power = s.power ∧
    (s.alwaysOn source).boot = s.boot := by
  have od : ∀ e, e ≠ .ringState → (s.alwaysOn source).od e 0 = (((s.setOd .bootSource 0 source).setOd .timeState 0 0).setOd .aonPllLocked 0 1).od e 0 :=
    fun e he => Part.logEv_od _ _ _ _ _ _ he (by decide)
  refine ⟨?_, ?_, ?_, Part.logEv_power _ _ _ _ _ _, Part.logEv_boot _ _ _ _ _ _⟩
  · rw [od _ (by decide), Part.od_setOd_ne _ _ _ _ (by decide), Part.od_setOd_ne _ _ _ _ (by decide), Part.od_setOd_val _ _ _ _ h]
  · rw [od _ (by decide), Part.od_setOd_val _ _ _ _ (by decide)]
  · rw [od _ (by decide), Part.od_setOd_ne _ _ _ _ (by decide), Part.od_setOd_val _ _ _ _ (by decide)]

theorem Part.on_spec {s : Part} {source : Nat} (straps : Nat) (hs : source < 256) (h : s.power.vaux = false ∨ s.od .bootState 0 = 1) :
    (s.on source straps).power = { s.power with
      vaux := true, strapMain := bits straps 0 2, strapBr := bits straps 2 2, strapI3c := bits straps 4 3 } ∧
    (s.on source straps).boot.bootStart = s.now ∧ (s.on source straps).od .bootSource 0 = source ∧ (s.on source straps).od .aonPllLocked 0 = 1 ∧
    (s.on source straps).od .timeState 0 = 0 ∧ (s.on source straps).od .bootState 0 = 2 := by
  rw [Part.on_eq source straps h]
  obtain ⟨boot, pll, time, power, start⟩ := (s.strapped straps).alwaysOn_spec hs
  have strapped : (s.strapped straps).power = { s.power with
      vaux := true, strapMain := bits straps 0 2, strapBr := bits straps 2 2, strapI3c := bits straps 4 3 } ∧
      (s.strapped straps).boot.bootStart = s.now := ⟨rfl, rfl⟩
  generalize (s.strapped straps).alwaysOn source = t at *
  obtain ⟨stage, od⟩ := t.stageEnd_spec 1 (next := 2) (by decide)
  have dict := (t.stageEnd_keeps 1 2).1
  generalize t.stageEnd 1 2 = u at *
  obtain ⟨stay, keeps⟩ := u.retiredStay_spec
  refine ⟨?_, ?_, ?_, ?_, ?_, (keeps.od_eq (by decide) 0).trans stage⟩
  · rw [stay .power (by decide), dict .power (by decide), power]
    exact strapped.1
  · rw [stay .boot (by decide), dict .boot (by decide), start]
    exact strapped.2
  · rw [keeps.od_eq (by decide) 0, od _ _ (by decide) (by decide), boot]
  · rw [keeps.od_eq (by decide) 0, od _ _ (by decide) (by decide), pll]
  · rw [keeps.od_eq (by decide) 0, od _ _ (by decide) (by decide), time]

/-! ## Self-tests -/

/-- A pavilion's self-test is over. -/
def Part.noteTested (s : Part) (p : Nat) : Part := { s with boot := { s.boot with tested := s.boot.tested ++ [p] } }

theorem exec_selfTestDone_eq (p : Pav) (pass gate : Bool) (s : State) : exec (.selfTestDone p pass gate) s = .next (s.withPart
    (if !s.part.booting 3 || !s.part.power.corePG || s.part.boot.tested.contains p.val then s.part
     else if p.val = 0 && !gate then s.part.losePavilion0
     else if p.val = 0 && !pass then (s.part.failPavilion 0 4).failPart 2
     else
       let t := (if pass then s.part else s.part.failPavilion p 4).noteTested p
       if allPavs.all t.boot.tested.contains then t.stageEnd 3 4 else t)) := rfl

/-- A pavilion whose test counts: noted, and the stage ends with the last one (spec/16 R577). -/
def Part.testCounted (s : Part) (p : Nat) : Part :=
  if allPavs.all (s.noteTested p).boot.tested.contains then (s.noteTested p).stageEnd 3 4 else s.noteTested p

theorem Part.only_noteTested (s : Part) (p : Nat) : Part.only [.boot] s (s.noteTested p) := Part.only_boot _ _

theorem Part.testCounted_keeps (s : Part) (p : Nat) : Part.keepsOd [.bootStageTimes, .bootState] s (s.testCounted p) := by
  have noted : Part.keepsOd [.bootStageTimes, .bootState] s (s.noteTested p) := (Part.keepsOd_refl _ _).same (s.only_noteTested p) (by decide)
  exact Part.keepsOd_ite (noted.next ((s.noteTested p).stageEnd_keeps 3 4).2 (by decide)) noted

theorem exec_selfTestDone_counts {s : State} {p : Pav} {pass gate : Bool} (hb : s.part.booting 3 = true) (hc : s.part.power.corePG = true)
    (ht : ¬ p.val ∈ s.part.boot.tested) (h : p.val = 0 → gate = true ∧ pass = true) : exec (.selfTestDone p pass gate) s = .next (s.withPart
      ((if pass then s.part else s.part.failPavilion p 4).testCounted p)) := by
  have first : ¬ ((decide (p.val = 0) && !gate) = true) := by
    by_cases hp : p.val = 0
    · simp [(h hp).1]
    · simp [hp]
  have second : ¬ ((decide (p.val = 0) && !pass) = true) := by
    by_cases hp : p.val = 0
    · simp [(h hp).2]
    · simp [hp]
  rw [exec_selfTestDone_eq, if_neg (by simp [hb, hc, ht]), if_neg first, if_neg second]
  rfl

/-- All self-tests are over once this one is. -/
theorem Part.allTested_iff (s : Part) (p : Nat) : allPavs.all (s.noteTested p).boot.tested.contains = true ↔
    ∀ k < 8, k ≠ p → k ∈ s.boot.tested := by
  have tested : (s.noteTested p).boot.tested = s.boot.tested ++ [p] := rfl
  rw [tested, List.all_eq_true]
  constructor
  · intro h k hk hne
    have := List.contains_iff_mem.mp (h k (List.mem_range.mpr hk))
    simpa [hne] using this
  · intro h k hk
    rw [List.contains_iff_mem, List.mem_append, List.mem_singleton]
    by_cases e : k = p
    · exact .inr e
    · exact .inl (h k (List.mem_range.mp hk) e)

/-! ## Image slots -/

/-- What the image in force leaves in the store, and what is measured of it (spec/16 R584). -/
def Part.imageTaken (s : Part) (x : Nat) (h : ImageCheck) : Part :=
  let t := ((((s.setOd .bootSlotActive 0 x).setOd .fwMeasurement 0 h.measurement).setOd .fwSvnImage 0 (s.slotHeader x h).svn).setOd
    .fwKeyIndex 0 (s.slotHeader x h).keyIndex).setOd .dictVersion 0 h.dictVersion
  { t with boot := { t.boot with measured := h.measurement, version := h.version } }

theorem Part.acceptImage_eq (s : Part) (x : Nat) (h : ImageCheck) : s.acceptImage x h =
    iter (s.imageTaken x h).startingPavs ((s.imageTaken x h).stageEnd 4 6) fun s p => s.pavPortsOn p := rfl

theorem Part.imageTaken_spec (s : Part) (x : Nat) (h : ImageCheck) : (s.imageTaken x h).od .bootSlotActive 0 = x % 256 ∧
    (s.imageTaken x h).od .fwMeasurement 0 = h.measurement % 2 ^ (8 * Entry.fwMeasurement.info.bytes) ∧
    (s.imageTaken x h).boot.measured = h.measurement ∧ (s.imageTaken x h).boot.version = h.version ∧
    Part.keepsOd [.bootSlotActive, .fwMeasurement, .fwSvnImage, .fwKeyIndex, .dictVersion] s (s.imageTaken x h) ∧
    (s.imageTaken x h).ports = s.ports := by
  unfold Part.imageTaken
  extract_lets t
  have active : t.od .bootSlotActive 0 = x % 256 := by
    rw [Part.od_setOd_ne _ _ _ _ (by decide), Part.od_setOd_ne _ _ _ _ (by decide), Part.od_setOd_ne _ _ _ _ (by decide),
      Part.od_setOd_ne _ _ _ _ (by decide), Part.od_setOd_self]
    rfl
  have measured : t.od .fwMeasurement 0 = h.measurement % 2 ^ (8 * Entry.fwMeasurement.info.bytes) := by
    rw [Part.od_setOd_ne _ _ _ _ (by decide), Part.od_setOd_ne _ _ _ _ (by decide), Part.od_setOd_ne _ _ _ _ (by decide), Part.od_setOd_self]
  have keeps : Part.keepsOd [.bootSlotActive, .fwMeasurement, .fwSvnImage, .fwKeyIndex, .dictVersion] s t :=
    (((((Part.keepsOd_refl _ _).setOd _ _ _ (by decide)).setOd _ _ _ (by decide)).setOd _ _ _ (by decide)).setOd _ _ _ (by decide)).setOd _ _ _ (by decide)
  have ports : t.ports = s.ports := rfl
  clear_value t
  exact ⟨active, measured, rfl, rfl, keeps.same (Part.only_boot _ _) (by decide), ports⟩

/-- The ports of some pavilions may train. -/
theorem Part.portsOn_spec (l : List Nat) (hl : ∀ p ∈ l, p < 8) (s : Part) : Part.only [.dict] s (iter l s fun s p => s.pavPortsOn p) ∧
    Part.keepsOd [.portState] s (iter l s fun s p => s.pavPortsOn p) ∧
    ∀ i : Port, (iter l s fun s p => s.pavPortsOn p).od .portState i =
      if i.val / 2 ∈ l ∧ s.od .portState i = 0 then (if (s.port i).perst then 1 else 2) else s.od .portState i := by
  have one : ∀ (t : Part) (p : Nat), Part.only [.dict] t (t.pavPortsOn p) := fun t p =>
    Part.only_iter (fun _ _ => Part.only_ite (Part.only_setOd _ _ _ _) (Part.only_refl _ _)) _ _
  refine ⟨Part.only_iter one _ _, Part.keepsOd_iter _ _ fun t p _ => t.keepsOd_pavPortsOn p, fun i => ?_⟩
  induction l generalizing s with
  | nil => simp [iter]
  | cons p l ih =>
    show (iter l (s.pavPortsOn p) _).od .portState i = _
    have port : (s.pavPortsOn p).port i = s.port i := congrArg (fun m : Sparse PortState => m.get PortState.zero i) (one s p .ports (by decide))
    rw [ih (fun q hq => hl q (List.mem_cons_of_mem _ hq)), Part.pavPortsOn_od _ _ (hl p List.mem_cons_self), port]
    by_cases hp : i.val / 2 = p <;> by_cases h0 : s.od .portState i = 0 <;> by_cases hr : (s.port i).perst = true <;> simp [hp, h0, hr]

theorem Part.acceptImage_spec (s : Part) (x : Nat) (h : ImageCheck) : (s.acceptImage x h).od .bootState 0 = 6 ∧
    (s.acceptImage x h).od .bootSlotActive 0 = x % 256 ∧
    (s.acceptImage x h).od .fwMeasurement 0 = h.measurement % 2 ^ (8 * Entry.fwMeasurement.info.bytes) ∧
    (s.acceptImage x h).boot.measured = h.measurement ∧ (s.acceptImage x h).boot.version = h.version ∧
    ∀ i : Port, s.pstate (portPav i) = 0 → s.od .portState i = 0 → (s.acceptImage x h).od .portState i = if (s.port i).perst = true then 1 else 2 := by
  rw [Part.acceptImage_eq]
  obtain ⟨active, measured, boot, version, keeps, ports⟩ := s.imageTaken_spec x h
  generalize s.imageTaken x h = t at *
  obtain ⟨stage, -⟩ := t.stageEnd_spec 4 (next := 6) (by decide)
  obtain ⟨dict, staged⟩ := t.stageEnd_keeps 4 6
  obtain ⟨only, on, state⟩ := Part.portsOn_spec t.startingPavs (fun p hp => List.mem_range.mp (List.mem_filter.mp hp).1) (t.stageEnd 4 6)
  refine ⟨(on.od_eq (by decide) 0).trans stage, ?_, ?_, ?_, ?_, fun i hi h0 => ?_⟩
  · rw [on.od_eq (by decide) 0, staged.od_eq (by decide) 0, active]
  · rw [on.od_eq (by decide) 0, staged.od_eq (by decide) 0, measured]
  · rw [only .boot (by decide), dict .boot (by decide), boot]
  · rw [only .boot (by decide), dict .boot (by decide), version]
  · have starting : i.val / 2 ∈ t.startingPavs :=
      List.mem_filter.mpr ⟨List.mem_range.mpr (by omega), beq_iff_eq.mpr ((keeps.od_eq (by decide) _).trans hi)⟩
    have port : (t.stageEnd 4 6).port i = s.port i := congrArg (fun m : Sparse PortState => m.get PortState.zero i) ((dict .ports (by decide)).trans ports)
    rw [state i, port, if_pos ⟨starting, by rw [staged.od_eq (by decide) i, keeps.od_eq (by decide) i, h0]⟩]

/-- A slot that fails its checks: its reason is kept (spec/16 R583). -/
def Part.slotRejected (s : Part) (x r : Nat) : Part := (s.setOd (if x = 0 then .bootRejectA else .bootRejectB) 0 r).logEv 0x1902 x r

/-- The other slot is next. -/
def Part.secondNext (s : Part) : Part := { s with boot := { s.boot with second := true } }

theorem exec_fwSlotCheckDone_eq (img : ImageCheck) (s : State) : exec (.fwSlotCheckDone img) s = .next (s.withPart
    (if !s.part.booting 4 then s.part else
     if s.part.slotCheck s.part.slotNow img = 0 then s.part.acceptImage s.part.slotNow img else
     let t := s.part.slotRejected s.part.slotNow (s.part.slotCheck s.part.slotNow img)
     if t.boot.second then (t.logEv 0x1903 0 0).setOd .bootState 0 14 else t.secondNext)) := by
  unfold Part.slotRejected Part.secondNext
  rfl

theorem Part.slotCheck_lt (s : Part) (x : Nat) (img : ImageCheck) : s.slotCheck x img < 256 := by
  unfold Part.slotCheck
  dsimp only
  split_ifs <;> decide

theorem Part.slotRejected_spec (s : Part) (x : Nat) {r : Nat} (hr : r < 256) :
    (s.slotRejected x r).od (if x = 0 then .bootRejectA else .bootRejectB) 0 = r ∧ (s.slotRejected x r).boot = s.boot ∧
    (s.slotRejected x r).od .bootState 0 = s.od .bootState 0 := by
  unfold Part.slotRejected
  refine ⟨?_, Part.logEv_boot _ _ _ _ _ _, ?_⟩
  · by_cases h : x = 0
    · rw [if_pos h, Part.logEv_od _ _ _ _ _ _ (by decide) (by decide), Part.od_setOd_val _ _ _ _ hr]
    · rw [if_neg h, Part.logEv_od _ _ _ _ _ _ (by decide) (by decide), Part.od_setOd_val _ _ _ _ hr]
  · rw [Part.logEv_od _ _ _ _ _ _ (by decide) (by decide), Part.od_setOd_ne]
    split <;> decide

/-! ## Firmware start -/

/-- The store after some stored values took their places (spec/16 R572). -/
def Part.putAll (s : Part) (c : Sparse Nat) : Part := { s with dict := c.foldl (fun m e => m.put e.1 e.2) s.dict }

theorem Part.putAll_od {s : Part} {c : Sparse Nat} {e : Entry} {i : Nat} (h : ∀ x ∈ c, x.1 ≠ e.key i) : (s.putAll c).od e i = s.od e i := by
  have each : ∀ (l : Sparse Nat) (m : Sparse Nat), (∀ x ∈ l, x.1 ≠ e.key i) →
      Sparse.get e.info.dflt (l.foldl (fun m x => m.put x.1 x.2) m) (e.key i) = m.get e.info.dflt (e.key i) := fun l => by
    induction l with
    | nil => exact fun _ _ => rfl
    | cons x l ih =>
      intro m hl
      rw [List.foldl_cons, ih _ fun y hy => hl y (List.mem_cons_of_mem _ hy), Sparse.get_put, if_neg (hl x List.mem_cons_self)]
  exact each c s.dict h

/-- The copy that a boot takes is one of the two, or none. -/
theorem pickCopy_mem {α : Type} (k : Nat) (a b c : α) : pickCopy k a b c ∈ [a, b, c] := by
  unfold pickCopy
  split_ifs <;> simp

theorem copyState_lt (k : Nat) : copyState k < 256 := by
  unfold copyState
  split_ifs <;> decide

/-- The levels that the boot itself sets. -/
def bootLevels : List Entry := [.configStoreState, .trustAreaState, .pavilionState, .portState]

/-- No stored setting is one of the boot's own levels. -/
def freeOfLevels (c : Sparse Nat) : Prop := ∀ x ∈ c, ∀ e ∈ bootLevels, ∀ i, x.1 ≠ e.key i

theorem Part.putAll_levels {s : Part} {c : Sparse Nat} (h : freeOfLevels c) {e : Entry} (he : e ∈ bootLevels) (i : Nat) :
    (s.putAll c).od e i = s.od e i := Part.putAll_od fun x hx => h x hx e he i

/-- The configuration as flash keeps it, in force. -/
def Part.configTaken (s : Part) (k : Nat) : Part :=
  let c := pickCopy k s.flash.config s.flash.config2 []
  { s.putAll c with flash := { s.flash with config := c, config2 := c, slotNext := if k = 3 then 0 else s.flash.slotNext } }

/-- The codebooks whose images the store holds are loaded (spec/16 R572). -/
def Part.codebooksLoaded (s : Part) : Part := iter (List.range 256) s fun s b =>
  if s.od .codebookImage b = 0 then s else (s.setOd .codebookState b 1).setOd .codebookGeneration b 1

/-- The state of the store, and the slot that the next boot takes. -/
def Part.configNoted (s : Part) (k : Nat) : Part := (s.setOd .configStoreState 0 (copyState k)).setOd .bootSlotNext 0 s.flash.slotNext

theorem Part.readConfig_eq (s : Part) (k : Nat) : s.readConfig k =
    if k = 3 then ((s.configTaken k).codebooksLoaded.configNoted k).logEv 0x1906 0 0 else (s.configTaken k).codebooksLoaded.configNoted k := by
  unfold Part.readConfig
  extract_lets c flash taken loaded noted
  have htaken : taken = s.configTaken k := rfl
  have hloaded : loaded = taken.codebooksLoaded := rfl
  have hnoted : noted = loaded.configNoted k := rfl
  rw [hnoted, hloaded, htaken]

theorem LogFrame.logIf (c : Prop) [Decidable c] (s : Part) (code a b : Nat) : LogFrame s (if c then s.logEv code a b else s) :=
  .ite (LogFrame.logEv s code a b none 0xF) (.refl _)

/-- What of flash and of the boot's levels reading the configuration leaves (spec/16 R572). -/
theorem Part.readConfig_spec {s : Part} (k : Nat) (h1 : freeOfLevels s.flash.config) (h2 : freeOfLevels s.flash.config2) :
    (s.readConfig k).od .configStoreState 0 = copyState k ∧
    (∀ e ∈ [Entry.trustAreaState, .pavilionState, .portState], ∀ i, (s.readConfig k).od e i = s.od e i) ∧
    (s.readConfig k).flash.trust = s.flash.trust ∧ (s.readConfig k).flash.trust2 = s.flash.trust2 ∧
    (s.readConfig k).flash.retired = s.flash.retired := by
  have free : freeOfLevels (pickCopy k s.flash.config s.flash.config2 []) := by
    have mem := pickCopy_mem k s.flash.config s.flash.config2 []
    simp only [List.mem_cons, List.not_mem_nil, or_false] at mem
    rcases mem with h | h | h <;> rw [h]
    · exact h1
    · exact h2
    · exact fun x hx => absurd hx List.not_mem_nil
  have taken : ∀ e ∈ bootLevels, ∀ i, (s.configTaken k).od e i = s.od e i := fun e he i =>
    (Part.od_congr (a := s.putAll (pickCopy k s.flash.config s.flash.config2 [])) rfl _ _).trans (Part.putAll_levels free he i)
  have flash : (s.configTaken k).flash.trust = s.flash.trust ∧ (s.configTaken k).flash.trust2 = s.flash.trust2 ∧
      (s.configTaken k).flash.retired = s.flash.retired := ⟨rfl, rfl, rfl⟩
  rw [Part.readConfig_eq]
  generalize s.configTaken k = t at *
  have loaded : Part.only [.dict] t t.codebooksLoaded := Part.only_iter (fun u b => Part.only_ite (Part.only_refl _ _)
    (((Part.only_refl _ _).next (Part.only_setOd _ _ _ _) (by decide)).next (Part.only_setOd _ _ _ _) (by decide))) _ _
  have codebooks : Part.keepsOd [.codebookState, .codebookGeneration] t t.codebooksLoaded := Part.keepsOd_iter _ _ fun u b _ =>
    Part.keepsOd_ite (Part.keepsOd_refl _ _) (((Part.keepsOd_refl _ _).setOd _ _ _ (by decide)).setOd _ _ _ (by decide))
  generalize t.codebooksLoaded = u at *
  have noted : Part.keepsOd [.configStoreState, .bootSlotNext] u (u.configNoted k) := ((Part.keepsOd_refl _ _).setOd _ _ _ (by decide)).setOd _ _ _ (by decide)
  have dict : Part.only [.dict] u (u.configNoted k) := ((Part.only_refl _ _).next (Part.only_setOd _ _ _ _) (by decide)).next (Part.only_setOd _ _ _ _) (by decide)
  have state : (u.configNoted k).od .configStoreState 0 = copyState k :=
    (Part.od_setOd_ne _ _ _ _ (by decide)).trans (Part.od_setOd_val _ _ _ _ (copyState_lt k))
  generalize u.configNoted k = v at *
  have log := LogFrame.logIf (k = 3) v 0x1906 0 0
  have same : (if k = 3 then v.logEv 0x1906 0 0 else v).flash = t.flash :=
    (log.only .flash (by decide)).trans ((dict .flash (by decide)).trans (loaded .flash (by decide)))
  refine ⟨(log.keeps.od_eq (by decide) 0).trans state, fun e he i => ?_, ?_⟩
  · have out : e ∉ [Entry.ringState] ∧ e ∉ [Entry.configStoreState, .bootSlotNext] ∧ e ∉ [Entry.codebookState, .codebookGeneration] ∧ e ∈ bootLevels :=
      (by decide : ∀ e ∈ [Entry.trustAreaState, .pavilionState, .portState], e ∉ [Entry.ringState] ∧ e ∉ [Entry.configStoreState, .bootSlotNext] ∧
        e ∉ [Entry.codebookState, .codebookGeneration] ∧ e ∈ bootLevels) e he
    rw [log.keeps.od_eq out.1, noted.od_eq out.2.1, codebooks.od_eq out.2.2.1, taken e out.2.2.2]
  · rw [same]
    exact flash

/-- The trust area as flash keeps it, in force (spec/16 R573). -/
def Part.trustTaken (s : Part) (t : Trust) : Part :=
  { s.putAll t.settings with keys := { s.keys with roles := t.keys }, flash := { s.flash with trust := t, trust2 := t } }

/-- The settings of the trust area back at their defaults. -/
def Part.trustReset (s : Part) : Part := iter trustSettings s fun s e => s.resetOd e 0

theorem Part.readTrust_eq (s : Part) (k : Nat) : s.readTrust k =
    if k = 3 then ((s.trustReset.trustTaken (pickCopy k s.flash.trust s.flash.trust2 Trust.none)).setOd .trustAreaState 0 (copyState k)).logEv 0x1906 1 0
    else (s.trustReset.trustTaken (pickCopy k s.flash.trust s.flash.trust2 Trust.none)).setOd .trustAreaState 0 (copyState k) := by
  unfold Part.readTrust Part.trustReset Part.trustTaken Part.putAll
  rfl

theorem Part.readTrust_spec {s : Part} (k : Nat) (h1 : freeOfLevels s.flash.trust.settings) (h2 : freeOfLevels s.flash.trust2.settings) :
    (s.readTrust k).od .trustAreaState 0 = copyState k ∧
    (∀ e ∈ [Entry.configStoreState, .pavilionState, .portState], ∀ i, (s.readTrust k).od e i = s.od e i) ∧
    (s.readTrust k).keys.roles = (pickCopy k s.flash.trust s.flash.trust2 Trust.none).keys ∧
    (s.readTrust k).flash.retired = s.flash.retired := by
  have free : freeOfLevels (pickCopy k s.flash.trust s.flash.trust2 Trust.none).settings := by
    have mem := pickCopy_mem k s.flash.trust s.flash.trust2 Trust.none
    simp only [List.mem_cons, List.not_mem_nil, or_false] at mem
    rcases mem with h | h | h <;> rw [h]
    · exact h1
    · exact h2
    · exact fun x hx => absurd hx List.not_mem_nil
  rw [Part.readTrust_eq]
  generalize pickCopy k s.flash.trust s.flash.trust2 Trust.none = t at *
  have reset : Part.keepsOd trustSettings s s.trustReset := Part.keepsOd_iter _ _ fun u e he f j hf hj =>
    (Part.od_resetOd _ _ _ _ _ (by decide) hj).trans (if_neg fun (q : e = f ∧ 0 = j) => hf (q.1 ▸ he))
  have dict : Part.only [.dict] s s.trustReset := Part.only_iter (fun u e => u.only_resetOd e 0) _ _
  have flash : (s.trustReset.trustTaken t).flash.retired = s.trustReset.flash.retired ∧ (s.trustReset.trustTaken t).keys.roles = t.keys := ⟨rfl, rfl⟩
  have taken : ∀ e ∈ bootLevels, ∀ i, (s.trustReset.trustTaken t).od e i = s.trustReset.od e i := fun e he i =>
    (Part.od_congr (a := s.trustReset.putAll t.settings) rfl _ _).trans (Part.putAll_levels free he i)
  generalize s.trustReset.trustTaken t = u at *
  have log := LogFrame.logIf (k = 3) (u.setOd .trustAreaState 0 (copyState k)) 0x1906 1 0
  refine ⟨?_, fun e he i => ?_, ?_, ?_⟩
  · rw [log.keeps.od_eq (by decide) 0]
    exact Part.od_setOd_val _ _ _ _ (copyState_lt k)
  · have out : e ∉ [Entry.ringState] ∧ e ≠ .trustAreaState ∧ e ∈ bootLevels ∧ e ∉ trustSettings :=
      (by decide : ∀ e ∈ [Entry.configStoreState, .pavilionState, .portState], e ∉ [Entry.ringState] ∧ e ≠ .trustAreaState ∧ e ∈ bootLevels ∧
        e ∉ trustSettings) e he
    rw [log.keeps.od_eq out.1, Part.od_setOd_ne _ _ _ _ (Ne.symm out.2.1), taken e out.2.2.1, reset.od_eq out.2.2.2]
  · rw [log.only .keys (by decide)]
    exact flash.2
  · rw [log.only .flash (by decide)]
    exact flash.1.trans (congrArg Flash.retired (dict .flash (by decide)))

/-- The wear record that a boot takes: none where both copies are bad (spec/15 R550). -/
def Flash.wornAs (f : Flash) (k : Nat) : Flash :=
  if k = 2 then { f with wear := Wear.zero, weakRows := [], ppr := [], serials := [], retired := 0, lostLayers := [] } else f

/-- The wear record in force. -/
def Part.wearTaken (s : Part) (f : Flash) : Part := { s with flash := f, season := { s.season with age := f.wear.ages, bands := f.wear.bands } }

/-- The season, the guards and the floors of the wear record, as the dictionary shows them (spec/15 R550). -/
def Part.wearShown (s : Part) (w : Wear) (k : Nat) : Part :=
  let s := ((s.setOd .seasonNumber 0 w.number).setOd .seasonElapsed 0 w.elapsed).setOd .wearRecordState 0 k
  let s := iter allPavs s fun s p => s.setOd .vddGuard p (w.guards.get 0 p)
  let s := iter (List.range 64) s fun s c => (s.setOd .refreshFloor c (w.floors.get 0 c)).setOd .refreshRate c (w.floors.get 0 c)
  s.showAge

theorem Part.readWear_eq (s : Part) (k : Nat) : s.readWear k =
    if k = 2 then ((s.wearTaken (s.flash.wornAs k)).wearShown (s.flash.wornAs k).wear k).logEv 0x1808 0 0
    else (s.wearTaken (s.flash.wornAs k)).wearShown (s.flash.wornAs k).wear k := by
  unfold Part.readWear Part.wearShown
  rfl

/-- The entries that show the wear record. -/
def wearShownEntries : List Entry :=
  [.seasonNumber, .seasonElapsed, .wearRecordState, .vddGuard, .refreshFloor, .refreshRate, .wearEquivHours, .tjHistogram]

theorem Part.showAge_keeps (s : Part) : Part.only [.dict] s s.showAge ∧ Part.keepsOd [.wearEquivHours, .tjHistogram] s s.showAge :=
  ⟨((Part.only_refl _ _).next (Part.only_setOd _ _ _ _) (by decide)).next (Part.only_setOd _ _ _ _) (by decide), ((Part.keepsOd_refl _ _).setOd _ _ _ (by decide)).setOd _ _ _ (by decide)⟩

theorem Part.wearShown_spec (s : Part) (w : Wear) {k : Nat} (hk : k < 256) : Part.only [.dict] s (s.wearShown w k) ∧
    Part.keepsOd wearShownEntries s (s.wearShown w k) ∧ (s.wearShown w k).od .wearRecordState 0 = k := by
  unfold Part.wearShown
  extract_lets a b c
  have only : Part.only [.dict] s a ∧ Part.only [.dict] a b ∧ Part.only [.dict] b c := by
    refine ⟨(((Part.only_refl _ _).next (Part.only_setOd _ _ _ _) (by decide)).next (Part.only_setOd _ _ _ _) (by decide)).next (Part.only_setOd _ _ _ _) (by decide), ?_, ?_⟩
    · exact Part.only_iter (fun t p => t.only_setOd _ _ _) _ _
    · exact Part.only_iter (fun t p => ((Part.only_refl _ _).next (Part.only_setOd _ _ _ _) (by decide)).next (Part.only_setOd _ _ _ _) (by decide)) _ _
  have ka : Part.keepsOd [.seasonNumber, .seasonElapsed, .wearRecordState] s a := (((Part.keepsOd_refl _ _).setOd _ _ _ (by decide)).setOd _ _ _ (by decide)).setOd _ _ _ (by decide)
  have kb : Part.keepsOd [.vddGuard] a b := Part.keepsOd_iter _ _ fun t p _ => (Part.keepsOd_refl _ _).setOd _ _ _ (by decide)
  have kc : Part.keepsOd [.refreshFloor, .refreshRate] b c := Part.keepsOd_iter _ _ fun t p _ => ((Part.keepsOd_refl _ _).setOd _ _ _ (by decide)).setOd _ _ _ (by decide)
  have state : a.od .wearRecordState 0 = k := Part.od_setOd_val _ _ _ _ hk
  clear_value c b a
  obtain ⟨dict, age⟩ := c.showAge_keeps
  refine ⟨((only.1.next only.2.1 (by decide)).next only.2.2 (by decide)).next dict (by decide), (((Part.keepsOd_mono ka (by decide)).next kb (by decide)).next kc (by decide)).next age (by decide), ?_⟩
  rw [age.od_eq (by decide) 0, kc.od_eq (by decide) 0, kb.od_eq (by decide) 0, state]

theorem Part.readWear_spec (s : Part) {k : Nat} (hk : k < 256) : (s.readWear k).od .wearRecordState 0 = k ∧
    Part.keepsOd (.ringState :: wearShownEntries) s (s.readWear k) ∧ (s.readWear k).keys = s.keys ∧
    (s.readWear k).flash.retired = if k = 2 then 0 else s.flash.retired := by
  rw [Part.readWear_eq]
  have worn : (s.flash.wornAs k).retired = if k = 2 then 0 else s.flash.retired := by
    unfold Flash.wornAs
    split <;> rfl
  generalize s.flash.wornAs k = f at *
  have taken : Part.keepsOd [] s (s.wearTaken f) := fun _ _ _ _ => rfl
  obtain ⟨only, keeps, state⟩ := (s.wearTaken f).wearShown_spec f.wear hk
  have log := LogFrame.logIf (k = 2) ((s.wearTaken f).wearShown f.wear k) 0x1808 0 0
  have fields : (s.wearTaken f).keys = s.keys ∧ (s.wearTaken f).flash = f := ⟨rfl, rfl⟩
  generalize (s.wearTaken f).wearShown f.wear k = t at *
  refine ⟨(log.keeps.od_eq (by decide) 0).trans state, ?_, ?_, ?_⟩
  · exact (Part.keepsOd.next (Part.keepsOd_mono taken (by decide)) keeps (by decide)).next log.keeps (by decide)
  · rw [log.only .keys (by decide), only .keys (by decide), fields.1]
  · rw [log.only .flash (by decide), only .flash (by decide), fields.2, worn]

/-! ### Retired pavilions (spec/01 R28, R29) -/

/-- A retired pavilion is gated, its ports idle, its links DISABLED. -/
def Part.gated (s : Part) (p : Nat) : Part := (((s.setOd .pavilionState p 4).setOd .pavilionPowerState p 2).pavPortsIdle p).disableLinks p

/-- The entries that gating a pavilion may change. -/
def gatedEntries : List Entry := .pavilionState :: .linkState :: failEntries

theorem Part.gated_spec (s : Part) {p : Nat} (hp : p < 8) : Part.keepsOd gatedEntries s (s.gated p) ∧ (s.gated p).boot = s.boot ∧
    (s.gated p).power = s.power ∧ ∀ q < 8, (s.gated p).od .pavilionState q = if q = p then 4 else s.od .pavilionState q := by
  unfold Part.gated
  have keeps : Part.keepsOd gatedEntries s ((s.setOd .pavilionState p 4).setOd .pavilionPowerState p 2) :=
    ((Part.keepsOd_refl _ _).setOd _ _ _ (by decide)).setOd _ _ _ (by decide)
  have state : ∀ q < 8, ((s.setOd .pavilionState p 4).setOd .pavilionPowerState p 2).od .pavilionState q = if q = p then 4 else s.od .pavilionState q := by
    intro q hq
    rw [Part.od_setOd_ne _ _ _ _ (by decide), Part.od_setOd _ _ _ _ _ _ (by omega) (by omega)]
    by_cases h : q = p
    · subst h
      rw [if_pos ⟨rfl, rfl⟩, if_pos rfl]
      rfl
    · rw [if_neg fun k => h k.2.symm, if_neg h]
  have fields : ((s.setOd .pavilionState p 4).setOd .pavilionPowerState p 2).boot = s.boot ∧
      ((s.setOd .pavilionState p 4).setOd .pavilionPowerState p 2).power = s.power := ⟨rfl, rfl⟩
  generalize (s.setOd .pavilionState p 4).setOd .pavilionPowerState p 2 = t at *
  have idle := FailFrame.pavPortsIdle t p hp
  obtain ⟨links, -⟩ := (t.pavPortsIdle p).disableLinks_spec p
  obtain ⟨-, boot, power⟩ := (t.pavPortsIdle p).disableLinks_rest p
  refine ⟨(keeps.next idle.od (by decide)).next links (by decide), by rw [boot, idle.boot, fields.1], by rw [power, idle.power, fields.2], fun q hq => ?_⟩
  rw [links.od_eq (by decide) q, idle.od.od_eq (by decide) q, state q hq]

/-- A FAILED pavilion is not gated again. -/
def Part.gatedUnlessFailed (s : Part) (p : Nat) : Part := if s.pstate p = 5 then s else s.gated p

theorem Part.gatedUnlessFailed_spec (s : Part) {p : Nat} (hp : p < 8) : Part.keepsOd gatedEntries s (s.gatedUnlessFailed p) ∧
    (s.gatedUnlessFailed p).boot = s.boot ∧ (s.gatedUnlessFailed p).power = s.power ∧
    ∀ q < 8, (s.gatedUnlessFailed p).od .pavilionState q = if q = p ∧ s.od .pavilionState q ≠ 5 then 4 else s.od .pavilionState q := by
  unfold Part.gatedUnlessFailed
  by_cases h5 : s.pstate p = 5
  · rw [if_pos h5]
    refine ⟨Part.keepsOd_refl _ _, rfl, rfl, fun q _ => (if_neg ?_).symm⟩
    rintro ⟨rfl, h⟩
    exact h h5
  · rw [if_neg h5]
    obtain ⟨keeps, boot, power, state⟩ := s.gated_spec hp
    refine ⟨keeps, boot, power, fun q hq => (state q hq).trans ?_⟩
    by_cases e : q = p
    · subst e
      rw [if_pos rfl, if_pos ⟨rfl, h5⟩]
    · rw [if_neg e, if_neg fun h => e h.1]

theorem Part.gateEach_spec (l : List Nat) (hl : ∀ p ∈ l, p < 8) (s : Part) : Part.keepsOd gatedEntries s (iter l s Part.gatedUnlessFailed) ∧
    (iter l s Part.gatedUnlessFailed).boot = s.boot ∧ (iter l s Part.gatedUnlessFailed).power = s.power ∧
    ∀ q < 8, (iter l s Part.gatedUnlessFailed).od .pavilionState q =
      if q ∈ l ∧ s.od .pavilionState q ≠ 5 then 4 else s.od .pavilionState q := by
  induction l generalizing s with
  | nil => exact ⟨Part.keepsOd_refl _ _, rfl, rfl, fun q _ => by simp [iter]⟩
  | cons p l ih =>
    obtain ⟨keeps, boot, power, state⟩ := s.gatedUnlessFailed_spec (hl p List.mem_cons_self)
    obtain ⟨keeps', boot', power', state'⟩ := ih (fun q hq => hl q (List.mem_cons_of_mem _ hq)) (s.gatedUnlessFailed p)
    refine ⟨keeps.next keeps' (by decide), boot'.trans boot, power'.trans power, fun q hq => (state' q hq).trans ?_⟩
    rw [state q hq]
    by_cases h5 : s.od .pavilionState q = 5
    · simp [h5]
    · by_cases e : q = p
      · subst e
        simp [h5]
      · simp [e]

theorem Part.keepRetired_eq (s : Part) : s.keepRetired =
    iter (allPavs.filter fun p => bit s.flash.retired p) s Part.gatedUnlessFailed := rfl

theorem Part.keepRetired_spec (s : Part) : Part.keepsOd gatedEntries s s.keepRetired ∧ s.keepRetired.boot = s.boot ∧
    s.keepRetired.power = s.power ∧
    ∀ q < 8, s.keepRetired.od .pavilionState q = if bit s.flash.retired q = true ∧ s.od .pavilionState q ≠ 5 then 4 else s.od .pavilionState q := by
  rw [Part.keepRetired_eq]
  obtain ⟨keeps, boot, power, state⟩ := Part.gateEach_spec (allPavs.filter fun p => bit s.flash.retired p)
    (fun p hp => List.mem_range.mp (List.mem_filter.mp hp).1) s
  refine ⟨keeps, boot, power, fun q hq => (state q hq).trans (if_congr ?_ rfl rfl)⟩
  simp [List.mem_filter, allPavs, hq]

/-- No pavilion is retired. -/
theorem Part.keepRetired_none {s : Part} (h : s.flash.retired = 0) : s.keepRetired = s := by
  have none : (allPavs.filter fun p => bit s.flash.retired p) = [] := by
    rw [h]
    rfl
  rw [Part.keepRetired_eq, none]
  rfl

/-! ### The end of the stage -/

/-- A challenge for the debug port is drawn, and the stage ends (spec/16 R574). -/
def Part.firmwareUp (s : Part) : Part := (s.free.2.setOd .debugChallenge 0 (s.free.1 % 2 ^ 256)).stageEnd 6 7

/-- The branches of the pavilions that start turn on. -/
def Part.branchesOn (s : Part) : Part := iter s.startingPavs s fun s p => (s.branchTurnOn (2 * p)).branchTurnOn (2 * p + 1)

theorem exec_firmwareStartDone_eq (config trust : Fin 4) (wear : Fin 3) (s : State) : exec (.firmwareStartDone config trust wear) s =
    .next (s.withPart (if !s.part.booting 6 then s.part else
      ((((((s.part.readConfig config).readTrust trust).readWear wear).keepRetired.firmwareUp).replaceEach .portState 3 4
        (List.range 16)).branchesOn).bootProgress)) := by
  unfold Part.firmwareUp Part.replaceEach Part.branchesOn
  rfl

theorem Part.nextRamp_keeps (t : Part) : Part.only [.dict, .power] t t.nextRamp ∧ Part.keepsOd [.branchState] t t.nextRamp := by
  unfold Part.nextRamp
  split
  · exact ⟨Part.only_refl _ _, Part.keepsOd_refl _ _⟩
  · split
    · exact ⟨Part.only_refl _ _, Part.keepsOd_refl _ _⟩
    · exact ⟨((Part.only_refl _ _).next (Part.only_power _ _) (by decide)).next (Part.only_setOd _ _ _ _) (by decide),
        ((Part.keepsOd_refl _ _).same (Part.only_power _ _) (by decide)).setOd _ _ _ (by decide)⟩

theorem Part.branchesOn_keeps (s : Part) : Part.only [.dict, .power] s s.branchesOn ∧ Part.keepsOd [.branchState] s s.branchesOn := by
  have turn : ∀ (t : Part) (b : Nat), Part.only [.dict, .power] t (t.branchTurnOn b) ∧ Part.keepsOd [.branchState] t (t.branchTurnOn b) := fun t b => by
    unfold Part.branchTurnOn
    split
    · exact ⟨Part.only_refl _ _, Part.keepsOd_refl _ _⟩
    · exact ⟨((Part.only_refl _ _).next (Part.only_power _ _) (by decide)).next (Part.nextRamp_keeps _).1 (by decide), ((Part.keepsOd_refl _ _).same (Part.only_power _ _) (by decide)).next (Part.nextRamp_keeps _).2 (by decide)⟩
  exact ⟨Part.only_iter (fun t p => (turn t _).1.next (turn _ _).1 (by decide)) _ _, Part.keepsOd_iter _ _ fun t p _ => (turn t _).2.next (turn _ _).2 (by decide)⟩

/-- From stage 7 on the boot does not go back (spec/16 R574). -/
theorem Part.bootProgress_bootState {s : Part} (h : 7 ≤ s.od .bootState 0) : 7 ≤ s.bootProgress.od .bootState 0 := by
  have step : ∀ (c : Prop) [Decidable c] (t : Part) (k next : Nat), 7 ≤ next → next < 256 → 7 ≤ t.od .bootState 0 →
      7 ≤ (if c then t.stageEnd k next else t).od .bootState 0 := fun c _ t k next h7 hn ht => by
    split
    · rw [(t.stageEnd_spec k hn).1]
      exact h7
    · exact ht
  unfold Part.bootProgress
  extract_lets all a b listed c
  have ha : 7 ≤ a.od .bootState 0 := step _ s 7 8 (by decide) (by decide) h
  have hb : 7 ≤ b.od .bootState 0 := step _ a 8 9 (by decide) (by decide) ha
  have hc : 7 ≤ c.od .bootState 0 := step _ b 9 10 (by decide) (by decide) hb
  exact step _ c 10 11 (by decide) (by decide) hc

/-- What the end of stage 6 leaves, beside the turn-on of branches and the stage itself (spec/16 R574). -/
theorem Part.stage6_spec (s : Part) :
    let q := ((s.firmwareUp.replaceEach .portState 3 4 (List.range 16)).branchesOn).bootProgress
    7 ≤ q.od .bootState 0 ∧ q.keys = s.keys ∧ Part.keepsOd [.debugChallenge, .bootState, .bootStageTimes, .portState, .branchState] s q ∧
    ∀ i : Port, s.od .portState i = 3 → q.od .portState i = 4 := by
  have draw : Part.only [.freeCtr] s s.free.2 := fun f hf => by cases f <;> first | rfl | simp at hf
  have drawn : Part.only [.dict, .freeCtr] s (s.free.2.setOd .debugChallenge 0 (s.free.1 % 2 ^ 256)) :=
    (Part.only_mono draw (by decide)).next (Part.only_setOd _ _ _ _) (by decide)
  have keeps0 : Part.keepsOd [.debugChallenge] s (s.free.2.setOd .debugChallenge 0 (s.free.1 % 2 ^ 256)) :=
    ((Part.keepsOd_refl _ _).same draw (by decide)).setOd _ _ _ (by decide)
  unfold Part.firmwareUp
  generalize s.free.2.setOd .debugChallenge 0 (s.free.1 % 2 ^ 256) = t at *
  obtain ⟨stage, -⟩ := t.stageEnd_spec 6 (next := 7) (by decide)
  obtain ⟨dict1, keeps1⟩ := t.stageEnd_keeps 6 7
  generalize t.stageEnd 6 7 = u at *
  have dict2 := Part.only_replaceEach .portState 3 4 (List.range 16) u
  have keeps2 := Part.keepsOd_replaceEach .portState 3 4 (List.range 16) u
  have ports : ∀ i : Port, s.od .portState i = 3 → (u.replaceEach .portState 3 4 (List.range 16)).od .portState i = 4 := fun i h => by
    have h3 : u.od .portState i = 3 := by rw [keeps1.od_eq (by decide) i, keeps0.od_eq (by decide) i, h]
    refine (Part.replaceEach_od _ _ _ (by decide) _ i.val (fun j hj => ?_) u (Nat.lt_trans i.isLt (by decide))).trans (if_pos ⟨?_, h3⟩)
    · exact Nat.lt_trans (List.mem_range.mp hj) (by decide)
    · exact List.mem_range.mpr i.isLt
  generalize u.replaceEach .portState 3 4 (List.range 16) = v at *
  obtain ⟨only3, keeps3⟩ := v.branchesOn_keeps
  obtain ⟨dict4, keeps4⟩ := v.branchesOn.bootProgress_keeps
  refine ⟨Part.bootProgress_bootState ?_, ?_, ?_, fun i h => ?_⟩
  · rw [keeps3.od_eq (by decide) 0, keeps2.od_eq (by decide) 0, stage]
  · rw [dict4 .keys (by decide), only3 .keys (by decide), dict2 .keys (by decide), dict1 .keys (by decide), drawn .keys (by decide)]
  · exact ((((Part.keepsOd_mono keeps0 (by decide)).next keeps1 (by decide)).next keeps2 (by decide)).next keeps3 (by decide)).next keeps4 (by decide)
  · rw [keeps4.od_eq (by decide) i, keeps3.od_eq (by decide) i, ports i h]

/-- The role keys that a boot takes. -/
theorem pickCopy_keys (trust : Fin 4) (a b : Trust) : (pickCopy trust.val a b Trust.none).keys = (match trust with
    | 0 => a.keys | 1 => a.keys | 2 => b.keys | 3 => []) := by
  match trust with
  | 0 => rfl
  | 1 => rfl
  | 2 => rfl
  | 3 => rfl

/-- Firmware starts from the copies that are valid (spec/16 R572, R573, spec/15 R550). -/
theorem firmwareStart_spec {s : State} (hb : s.part.booting 6 = true)
    (hf : ∀ t ∈ [s.part.flash.config, s.part.flash.config2, s.part.flash.trust.settings, s.part.flash.trust2.settings], freeOfLevels t)
    (config trust : Fin 4) (wear : Fin 3) :
    ∃ q : Part, exec (.firmwareStartDone config trust wear) s = .next (s.withPart q) ∧ 7 ≤ q.od .bootState 0 ∧
      q.od .configStoreState 0 = copyState config ∧ q.od .trustAreaState 0 = copyState trust ∧ q.od .wearRecordState 0 = wear.val ∧
      (∀ p : Pav, s.part.pstate p ≠ 5 → bit s.part.flash.retired p = true → wear.val ≠ 2 → q.od .pavilionState p = 4) ∧
      (∀ i : Port, s.part.od .portState i = 3 → s.part.flash.retired = 0 → q.od .portState i = 4) ∧
      (s.part.flash.retired = 0 → q.keys.roles = (pickCopy trust.val s.part.flash.trust s.part.flash.trust2 Trust.none).keys) := by
  have run := exec_firmwareStartDone_eq config trust wear s
  rw [if_neg (by simp [hb])] at run
  refine ⟨_, run, ?_⟩
  obtain ⟨store, levels, ftrust, ftrust2, retired⟩ := s.part.readConfig_spec config.val (hf _ (by simp)) (hf _ (by simp))
  have free1 : freeOfLevels (s.part.readConfig config.val).flash.trust.settings := by rw [ftrust]; exact hf _ (by simp)
  have free2 : freeOfLevels (s.part.readConfig config.val).flash.trust2.settings := by rw [ftrust2]; exact hf _ (by simp)
  generalize s.part.readConfig config.val = a at *
  obtain ⟨area, levels', roles, retired'⟩ := a.readTrust_spec trust.val free1 free2
  rw [ftrust, ftrust2] at roles
  generalize a.readTrust trust.val = b at *
  obtain ⟨record, shown, keys, worn⟩ := b.readWear_spec (k := wear.val) (Nat.lt_trans wear.isLt (by decide))
  generalize b.readWear wear.val = c at *
  rw [retired', retired] at worn
  obtain ⟨gates, -, -, states⟩ := c.keepRetired_spec
  have gone : s.part.flash.retired = 0 → c.keepRetired = c := fun h => Part.keepRetired_none (by rw [worn, h, ite_self])
  obtain ⟨stage, keys', keeps, ports⟩ := c.keepRetired.stage6_spec
  generalize c.keepRetired = d at *
  refine ⟨stage, ?_, ?_, ?_, fun p h5 hr h2 => ?_, fun i h3 h0 => ?_, fun h0 => ?_⟩
  · rw [keeps.od_eq (by decide) 0, gates.od_eq (by decide) 0, shown.od_eq (by decide) 0, levels' _ (by decide) 0, store]
  · rw [keeps.od_eq (by decide) 0, gates.od_eq (by decide) 0, shown.od_eq (by decide) 0, area]
  · rw [keeps.od_eq (by decide) 0, gates.od_eq (by decide) 0, record]
  · have same : c.od .pavilionState p = s.part.od .pavilionState p := by
      rw [shown.od_eq (by decide) p, levels' _ (by decide) p, levels _ (by decide) p]
    rw [keeps.od_eq (by decide) p, states p p.isLt, if_pos]
    rw [worn, if_neg h2, same]
    exact ⟨hr, h5⟩
  · refine ports i ?_
    rw [gone h0, shown.od_eq (by decide) i, levels' _ (by decide) i, levels _ (by decide) i, h3]
  · rw [keys', gone h0, keys, roles]

/-- Settles O58: the supply, the self-tests, the image slots and the start of firmware each by its own rule. -/
theorem powerUpAndImages : Obligations.PowerUpAndImages := by
  intro s
  refine ⟨fun hv hs c hc => ?_, fun h straps c source hc => ?_, fun hb hc p ht => ⟨fun gate hg left => ?_, fun gate hg last => ?_,
    fun hp h4 hr hh gate => ?_, fun hp pass => ?_, fun hp h4 => ?_⟩, fun hb img => ⟨fun h0 => ?_, fun h0 => ?_⟩, fun hb hf config trust wear => ?_⟩
  -- the supply
  · have run : exec c s = .next (s.withPart s.part.off) := by
      rcases List.mem_pair.mp hc with rfl | rfl <;> rfl
    exact ⟨_, run, Part.off_spec hv hs⟩
  · have run : source < 256 ∧ exec c s = .next (s.withPart (s.part.on source straps.toNat)) := by
      simp only [List.mem_cons, List.not_mem_nil, or_false, Prod.mk.injEq] at hc
      rcases hc with ⟨rfl, rfl⟩ | ⟨rfl, rfl⟩ <;> exact ⟨by decide, rfl⟩
    exact ⟨_, run.2, Part.on_spec straps.toNat run.1 h⟩
  -- self-tests
  · obtain ⟨k, hk, hne, hn⟩ := left
    rw [exec_selfTestDone_counts hb hc ht fun h => ⟨hg h, rfl⟩, if_pos rfl, Part.testCounted,
      if_neg fun h => hn ((s.part.allTested_iff p).mp h k hk hne)]
    rfl
  · have run := exec_selfTestDone_counts (gate := gate) hb hc ht fun h => ⟨hg h, rfl⟩
    rw [if_pos rfl, Part.testCounted, if_pos ((s.part.allTested_iff p).mpr last)] at run
    obtain ⟨stage, od⟩ := (s.part.noteTested p).stageEnd_spec 3 (next := 4) (by decide)
    have dict := ((s.part.noteTested p).stageEnd_keeps 3 4).1
    refine ⟨_, run, stage, congrArg BootState.tested (dict .boot (by decide)), Part.only.next (Part.only_mono (s.part.only_noteTested p) (by decide)) dict (by decide),
      Part.odOnly_trans (Part.odOnly_of_dict rfl) od⟩
  · have run := exec_selfTestDone_counts (gate := gate) (pass := false) hb hc ht fun h => absurd h hp
    obtain ⟨-, -, state, cause, -⟩ := s.part.failPavilion_spec (cause := 4) p.isLt (by decide) h4 hr
    have keeps := (s.part.failPavilion p 4).testCounted_keeps p
    refine ⟨_, run, ?_, ?_⟩
    · rw [if_neg Bool.false_ne_true, keeps.od_eq (by decide) p]
      rcases state with h | ⟨-, h⟩ <;> simp [h]
    · rw [if_neg Bool.false_ne_true, keeps.od_eq (by decide) p, cause]
  · have alive : s.part.boot.pav0Lost = false := by
      unfold Part.booting at hb
      simpa using (Bool.and_eq_true_iff.mp hb).2
    obtain ⟨-, down, -, -, boot⟩ := s.part.losePavilion0_spec alive
    refine ⟨_, ?_, congrArg BootState.pav0Lost boot, down⟩
    rw [exec_selfTestDone_eq, if_neg (by simp [hb, hc, ht]), if_pos (by simp [hp])]
  · have whole : s.part.od .partFailed 0 ≠ 1 := by
      unfold Part.booting at hb
      have h0 : s.part.od0 .partFailed = 0 := by simpa using (Bool.and_eq_true_iff.mp (Bool.and_eq_true_iff.mp hb).1).2
      rw [Part.od0] at h0
      omega
    have zero : s.part.failPavilion 0 4 = s.part.failZero 4 := (if_neg (Nat.not_le.mpr h4)).trans (if_pos rfl)
    obtain ⟨keeps, -⟩ := s.part.failZero_spec 4 (by decide)
    obtain ⟨-, -, -, -, failed, causes⟩ := (s.part.failZero 4).failPart_spec 2 (by decide)
    refine ⟨_, ?_, failed, (causes (by rw [keeps.od_eq (by decide) 0]; exact whole)).1⟩
    rw [exec_selfTestDone_eq, if_neg (by simp [hb, hc, ht]), if_neg (by simp), if_pos (by simp [hp]), zero]
  -- image slots
  · refine ⟨_, ?_, s.part.acceptImage_spec _ img⟩
    rw [exec_fwSlotCheckDone_eq, if_neg (by simp [hb]), if_pos h0]
  · obtain ⟨reason, boot, stage⟩ := s.part.slotRejected_spec s.part.slotNow (s.part.slotCheck_lt s.part.slotNow img)
    have stage4 : s.part.od .bootState 0 = 4 := by
      unfold Part.booting at hb
      exact beq_iff_eq.mp (Bool.and_eq_true_iff.mp (Bool.and_eq_true_iff.mp hb).1).1
    have run := exec_fwSlotCheckDone_eq img s
    rw [if_neg (by simp [hb]), if_neg h0] at run
    generalize s.part.slotRejected s.part.slotNow (s.part.slotCheck s.part.slotNow img) = t at *
    have rejectEntry : (if s.part.slotNow = 0 then Entry.bootRejectA else Entry.bootRejectB) ≠ .ringState ∧
        .bootState ≠ (if s.part.slotNow = 0 then Entry.bootRejectA else Entry.bootRejectB) := by split <;> decide
    by_cases h2 : s.part.boot.second = true
    · refine ⟨(t.logEv 0x1903 0 0).setOd .bootState 0 14, run.trans (State.next_withPart (if_pos (by rw [boot]; exact h2))), ?_, ?_, ?_⟩
      · rw [Part.od_setOd_ne _ _ _ _ rejectEntry.2, Part.logEv_od _ _ _ _ _ _ rejectEntry.1 (by decide), reason]
      · rw [if_pos h2]
        exact Part.od_setOd_val _ _ _ _ (by decide)
      · rw [Part.setOd_boot, Part.logEv_boot, boot]
        exact h2
    · refine ⟨t.secondNext, run.trans (State.next_withPart (if_neg (by rw [boot]; exact h2))), reason, ?_, rfl⟩
      rw [if_neg h2]
      exact stage.trans stage4
  -- firmware
  · obtain ⟨q, run, stage, store, area, record, retired, ports, roles⟩ := firmwareStart_spec hb hf config trust wear
    exact ⟨q, run, stage, store, area, record, retired, ports, fun h => (roles h).trans (pickCopy_keys trust _ _)⟩

end Sys2Proof.Machine
end

section
/-!
O59, the core supply: its rise, its missing and its loss (spec/14 R531, spec/16 R574, spec/17 R611, R612, R621).
-/

namespace Sys2Proof.Machine

/-! ## The rise of CORE_PG -/

/-- The core supply stands: its failures are forgotten. -/
def Part.corePGUp (s : Part) : Part := { s with power := { s.power with corePG := true, coreFails := 0 } }

/-- Every link trains. -/
def Part.allTrain (s : Part) : Part := iter (List.range 28) s fun s n => s.setOd .linkState n 1

/-- The pavilions whose root PLL does not lock fail (spec/13 R499). -/
def Part.unlockedFail (s : Part) (locked : Nat) : Part :=
  iter (allPavs.filter fun p => !bit locked p) s fun s p =>
    let s := s.failPavilion p 4
    if p = 0 then s.losePavilion0 else s

/-- The root PLLs of the pavilions as they lock. -/
def Part.rootPlls (s : Part) (locked : Nat) : Part := iter allPavs s fun s p => s.setOd .pllLocked p (b2n (bit locked p))

theorem exec_corePgRise_eq (locked : BitVec 8) (s : State) : exec (.corePgRise locked) s = .next (s.withPart
    (if !s.part.booting 3 || !s.part.power.coreEn || s.part.power.corePG then s.part else
      ((s.part.corePGUp.rootPlls locked.toNat).allTrain.keepRetired).unlockedFail locked.toNat)) := by
  unfold Part.rootPlls Part.allTrain Part.unlockedFail
  rfl

/-- Where every root PLL locks, the promenade trains and the retired pavilions stay gated (spec/16 R574, spec/01 R28). -/
theorem Part.coreRisen_spec (s : Part) {locked : Nat} (h : ∀ p < 8, bit locked p = true) :
    let q := ((s.corePGUp.rootPlls locked).allTrain.keepRetired).unlockedFail locked
    q.power = { s.power with corePG := true, coreFails := 0 } ∧ (∀ p < 8, q.od .pllLocked p = 1) ∧
    (∀ p < 8, bit s.flash.retired p = true → q.od .pavilionState p ∈ [4, 5]) ∧
    (s.flash.retired = 0 → (∀ n < 28, q.od .linkState n = 1) ∧ Part.only [.dict, .power] s q) := by
  have up : Part.only [.power] s s.corePGUp := s.only_power _
  have lockAll : s.corePGUp.rootPlls locked = iter allPavs s.corePGUp fun s p => s.setOd .pllLocked p 1 := by
    unfold Part.rootPlls iter
    refine List.foldl_ext _ _ _ fun t p hp => ?_
    rw [h p (List.mem_range.mp hp)]
    rfl
  have power : s.corePGUp.power = { s.power with corePG := true, coreFails := 0 } := rfl
  rw [lockAll]
  generalize s.corePGUp = a at *
  have plls : ∀ p < 8, (iter allPavs a fun s p => s.setOd .pllLocked p 1).od .pllLocked p = 1 := fun p hp =>
    (Part.setEach_od .pllLocked 1 (by decide) allPavs p (fun j hj => Nat.lt_trans (List.mem_range.mp hj) (by decide)) a (by omega)).trans
      (if_pos (List.mem_range.mpr hp))
  have dictB : Part.only [.dict] a (iter allPavs a fun s p => s.setOd .pllLocked p 1) := Part.only_iter (fun t p => t.only_setOd _ _ _) _ _
  generalize iter allPavs a (fun s p => s.setOd .pllLocked p 1) = b at *
  have links : ∀ n < 28, b.allTrain.od .linkState n = 1 := fun n hn =>
    (Part.setEach_od .linkState 1 (by decide) (List.range 28) n (fun j hj => Nat.lt_trans (List.mem_range.mp hj) (by decide)) b (by omega)).trans
      (if_pos (List.mem_range.mpr hn))
  have dictC : Part.only [.dict] b b.allTrain := Part.only_iter (fun t p => t.only_setOd _ _ _) _ _
  have keepsC : Part.keepsOd [.linkState] b b.allTrain := Part.keepsOd_iter _ _ fun t p _ => (Part.keepsOd_refl _ _).setOd _ _ _ (by decide)
  generalize b.allTrain = c at *
  have flash : c.flash = s.flash := (dictC .flash (by decide)).trans ((dictB .flash (by decide)).trans (up .flash (by decide)))
  obtain ⟨keeps, -, same, states⟩ := c.keepRetired_spec
  have none : (allPavs.filter fun p => !bit locked p) = [] := by
    rw [List.filter_eq_nil_iff]
    intro p hp
    simp [h p (List.mem_range.mp hp)]
  have stop : ∀ t : Part, t.unlockedFail locked = t := fun t => by
    unfold Part.unlockedFail
    rw [none]
    rfl
  rw [stop]
  refine ⟨?_, fun p hp => ?_, fun p hp hr => ?_, fun h0 => ?_⟩
  · rw [same, dictC .power (by decide), dictB .power (by decide), power]
  · rw [keeps.od_eq (by decide) p, keepsC.od_eq (by decide) p, plls p hp]
  · rw [states p hp, flash]
    by_cases h5 : c.od .pavilionState p = 5 <;> simp [hr, h5]
  · rw [Part.keepRetired_none (by rw [flash, h0])]
    exact ⟨links, ((Part.only_mono up (by decide)).next dictB (by decide)).next dictC (by decide)⟩

/-! ## CORE_PG that does not come -/

/-- A failure of the core supply, and the wait before another attempt (spec/17 R611). -/
def Part.coreMissed (s : Part) : Part :=
  ({ s with power := { s.power with coreFails := s.power.coreFails + 1, coreWait := decide (s.power.coreFails + 1 < 3) } } : Part).setCoreEn false

theorem Part.coreMissed_spec (s : Part) : s.coreMissed.power = { s.power with
      coreFails := s.power.coreFails + 1, coreWait := decide (s.power.coreFails < 2), coreEn := false } ∧
    Part.only [.power, .out] s s.coreMissed := by
  refine ⟨(Part.setCoreEn_power _ _).trans ?_, ((Part.only_refl _ _).next (Part.only_power _ _) (by decide)).next (Part.only_setCoreEn _ _) (by decide)⟩
  have wait : decide (s.power.coreFails + 1 < 3) = decide (s.power.coreFails < 2) := decide_eq_decide.mpr (by omega)
  rw [← wait]

theorem exec_corePgBootTimeout_missed {s : State} (hb : s.part.booting 3 = true) (he : s.part.power.coreEn = true) (hp : s.part.power.corePG = false) :
    exec .corePgBootTimeout s = .next (s.withPart (s.part.coreMissed.logEv 0x1A02 (s.part.power.coreFails + 1) 0)) := by
  rw [exec_corePgBootTimeout, execCorePgBootTimeout, State.run_eq, if_neg (by simp [hb, he, hp])]
  rfl

/-- The wait is over. -/
def Part.coreWaited (s : Part) : Part := { s with power := { s.power with coreWait := false } }

theorem exec_coreEnRetryWaitEnd_eq (s : State) : exec .coreEnRetryWaitEnd s = .next (s.withPart (if !s.part.power.coreWait then s.part else
    if s.part.coreWaited.od0 .bootState = 3 && s.part.coreWaited.power.mainPG && s.part.coreWaited.power.thermtrip then s.part.coreWaited.setCoreEn true
    else s.part.coreWaited.coreStart)) := rfl

/-! ## The loss of the core supply -/

/-- The loss of CORE_PG alone: the cold boot from stage 3 comes after 1 s (spec/17 R612). -/
def Part.coreFallen (s : Part) : Part := { s with power := { s.power with coreWait := true } }

/-- A thermal trip, until a cold power cycle (spec/17 R621). -/
def Part.tripped (s : Part) : Part := ({ s with power := { s.power with thermtrip := false, coreWait := false } } : Part).emit (.pin 2 0)

theorem exec_corePgFall_eq (s : State) : exec .corePgFall s = .next (s.withPart
    (if !s.part.power.corePG || !s.part.power.coreEn || !s.part.power.mainPG then s.part
     else (s.part.corePowerLost.logEv 0x1A02 0 0).coreFallen)) := rfl

theorem exec_thermalTrip_eq (s : State) : exec .thermalTrip s = .next (s.withPart
    (if !s.part.power.corePG || !s.part.power.thermtrip then s.part else (s.part.corePowerLost.logEv 0x1A01 0 0).tripped)) := rfl

/-- What stands after the core supply went, with its records (spec/14 R531). -/
theorem Part.corePowerLost_spec (s : Part) (code : Nat) : (s.corePowerLost.logEv code 0 0).power = s.coreLost.power ∧
    (s.corePowerLost.logEv code 0 0).od .bootState 0 = 2 ∧ (s.corePowerLost.logEv code 0 0).od .packagePowerState 0 = 0 ∧
    (∀ b : Branch, (s.corePowerLost.logEv code 0 0).od .branchState b = 0) ∧ (s.corePowerLost.logEv code 0 0).keys.sets = [] ∧
    (s.corePowerLost.logEv code 0 0).pavs = [] ∧ (s.corePowerLost.logEv code 0 0).flash = s.flash ∧
    (s.corePowerLost.logEv code 0 0).now = s.now := by
  obtain ⟨boot, package, branches⟩ := s.coreLost_states
  have only := s.coreLost_only
  have fields : s.lostBase.keys.sets = [] ∧ s.lostBase.pavs = [] ∧ s.lostBase.flash = s.flash ∧ s.lostBase.now = s.now := ⟨rfl, rfl, rfl, rfl⟩
  unfold Part.corePowerLost
  generalize s.coreLost = t at *
  generalize s.lostBase = z at *
  have log := (LogFrame.logEv t 0x1706 0 0 none 0xF).trans (LogFrame.logEv (t.logEv 0x1706 0 0) code 0 0 none 0xF)
  refine ⟨log.only .power (by decide), ?_, ?_, fun b => ?_, ?_, ?_, ?_, ?_⟩
  · rw [log.keeps.od_eq (by decide) 0, boot]
  · rw [log.keeps.od_eq (by decide) 0, package]
  · rw [log.keeps.od_eq (by decide) b, branches b b.isLt]
  · rw [log.only .keys (by decide), only .keys (by decide), fields.1]
  · rw [log.only .pavs (by decide), only .pavs (by decide), fields.2.1]
  · rw [log.only .flash (by decide), only .flash (by decide), fields.2.2.1]
  · rw [log.only .now (by decide), only .now (by decide), fields.2.2.2]

/-- What a loss leaves as its own cause is noted. -/
theorem coreLoss_run {s : State} {c : Instr} {therm : Bool} (hc : (c, therm) ∈ [(Instr.corePgFall, false), (.thermalTrip, true)])
    (hp : s.part.power.corePG = true) (hf : therm = false → s.part.power.coreEn = true ∧ s.part.power.mainPG = true)
    (ht : therm = true → s.part.power.thermtrip = true) : exec c s = .next (s.withPart
      (if therm then (s.part.corePowerLost.logEv 0x1A01 0 0).tripped else (s.part.corePowerLost.logEv 0x1A02 0 0).coreFallen)) := by
  simp only [List.mem_cons, List.not_mem_nil, or_false, Prod.mk.injEq] at hc
  rcases hc with ⟨rfl, rfl⟩ | ⟨rfl, rfl⟩
  · obtain ⟨en, pg⟩ := hf rfl
    rw [exec_corePgFall_eq, if_neg (by simp [hp, en, pg]), if_neg Bool.false_ne_true]
  · rw [exec_thermalTrip_eq, if_neg (by simp [hp, ht rfl]), if_pos rfl]

theorem coreLoss_spec {s : State} {c : Instr} {therm : Bool} (hc : (c, therm) ∈ [(Instr.corePgFall, false), (.thermalTrip, true)])
    (hp : s.part.power.corePG = true) (hf : therm = false → s.part.power.coreEn = true ∧ s.part.power.mainPG = true)
    (ht : therm = true → s.part.power.thermtrip = true) :
    ∃ q : Part, exec c s = .next (s.withPart q) ∧ q.power.coreEn = false ∧ q.power.corePG = false ∧
      q.power.coreWait = !therm ∧ q.power.thermtrip = (!therm && s.part.power.thermtrip) ∧ q.power.mainPG = s.part.power.mainPG ∧
      q.od .bootState 0 = 2 ∧ q.od .packagePowerState 0 = 0 ∧ (∀ b : Branch, q.od .branchState b = 0) ∧ q.keys.sets = [] ∧
      q.pavs = [] ∧ q.flash = s.part.flash ∧ q.now = s.part.now ∧ (therm = true → ∃ l, q.out = l ++ [.pin 2 0]) := by
  have run := coreLoss_run hc hp hf ht
  have off := s.part.coreLost_power.1
  cases therm with
  | false =>
    obtain ⟨power, boot, package, branches, keys, pavs, flash, now⟩ := s.part.corePowerLost_spec 0x1A02
    rw [if_neg Bool.false_ne_true] at run
    generalize s.part.corePowerLost.logEv 0x1A02 0 0 = t at *
    rw [off] at power
    exact ⟨_, run, congrArg PowerState.coreEn power, congrArg PowerState.corePG power, rfl, (congrArg PowerState.thermtrip power :),
      (congrArg PowerState.mainPG power :), boot, package, branches, keys, pavs, flash, now, fun h => absurd h Bool.false_ne_true⟩
  | true =>
    obtain ⟨power, boot, package, branches, keys, pavs, flash, now⟩ := s.part.corePowerLost_spec 0x1A01
    rw [if_pos rfl] at run
    generalize s.part.corePowerLost.logEv 0x1A01 0 0 = t at *
    rw [off] at power
    exact ⟨_, run, congrArg PowerState.coreEn power, congrArg PowerState.corePG power, rfl, rfl,
      (congrArg PowerState.mainPG power :), boot, package, branches, keys, pavs, flash, now, fun _ => ⟨_, rfl⟩⟩

end Sys2Proof.Machine
end

section
/-!
O59, the choice of a lane's setting: the reference step of its widest run, nearest the middle among equals (spec/06 R248).
-/

namespace Sys2Proof.Machine

/-- How far a reference step lies from the middle. -/
def refDist (v : Nat) : Nat := max v refMid - min v refMid

/-- The better of the choice so far and one more reference step: the wider run, then the nearer the middle. -/
def laneStep (b : Option (Nat × Nat × Nat)) (q : Nat × Nat) : Option (Nat × Nat × Nat) :=
  match b with
  | none => some (q.2, longestRun 128 q.1)
  | some c => if c.2.2 < (longestRun 128 q.1).2 || ((longestRun 128 q.1).2 == c.2.2 && decide (refDist q.2 < refDist c.1)) then
      some (q.2, longestRun 128 q.1) else b

/-- A choice is the best of the reference steps seen. -/
structure LaneBest (seen : List (Nat × Nat)) (c : Nat × Nat × Nat) : Prop where
  one : ∃ m, (m, c.1) ∈ seen ∧ c.2 = longestRun 128 m
  best : ∀ q ∈ seen, (longestRun 128 q.1).2 ≤ c.2.2 ∧ ((longestRun 128 q.1).2 = c.2.2 → refDist c.1 ≤ refDist q.2)

theorem laneStep_first (q : Nat × Nat) : ∃ c, laneStep none q = some c ∧ LaneBest [q] c :=
  ⟨_, rfl, ⟨q.1, List.mem_singleton_self _, rfl⟩, fun r hr => by rw [List.mem_singleton.mp hr]; exact ⟨Nat.le_refl _, fun _ => Nat.le_refl _⟩⟩

theorem laneStep_best {seen : List (Nat × Nat)} {c : Nat × Nat × Nat} (h : LaneBest seen c) (q : Nat × Nat) :
    ∃ d, laneStep (some c) q = some d ∧ LaneBest (seen ++ [q]) d := by
  obtain ⟨⟨m, hm, hrun⟩, best⟩ := h
  by_cases better : c.2.2 < (longestRun 128 q.1).2 ∨ (longestRun 128 q.1).2 = c.2.2 ∧ refDist q.2 < refDist c.1
  · refine ⟨_, if_pos (by simpa using better), ⟨q.1, by simp, rfl⟩, fun r hr => ?_⟩
    rcases List.mem_append.mp hr with hr | hr
    · obtain ⟨le, near⟩ := best r hr
      refine ⟨?_, fun e => ?_⟩
      · show _ ≤ (longestRun 128 q.1).2
        omega
      · have e : (longestRun 128 r.1).2 = (longestRun 128 q.1).2 := e
        have := near (by omega)
        show refDist q.2 ≤ _
        omega
    · rw [List.mem_singleton.mp hr]
      exact ⟨Nat.le_refl _, fun _ => Nat.le_refl _⟩
  · refine ⟨c, if_neg (by simpa using better), ⟨m, by simp [hm], hrun⟩, fun r hr => ?_⟩
    rcases List.mem_append.mp hr with hr | hr
    · exact best r hr
    · rw [List.mem_singleton.mp hr]
      refine ⟨by omega, fun e => ?_⟩
      by_contra far
      exact better (.inr ⟨e, by omega⟩)

theorem laneFold_best (l : List (Nat × Nat)) (seen : List (Nat × Nat)) (c : Nat × Nat × Nat) (h : LaneBest seen c) :
    ∃ d, l.foldl laneStep (some c) = some d ∧ LaneBest (seen ++ l) d := by
  induction l generalizing seen c with
  | nil => exact ⟨c, rfl, by rwa [List.append_nil]⟩
  | cons q l ih =>
    obtain ⟨d, hd, best⟩ := laneStep_best h q
    obtain ⟨e, he, last⟩ := ih (seen ++ [q]) d best
    exact ⟨e, by rw [List.foldl_cons, hd, he], by rwa [List.append_assoc] at last⟩

theorem chooseLane_fold {sweep : List Nat} (h : sweep ≠ []) : ∃ c, sweep.zipIdx.foldl laneStep none = some c ∧ LaneBest sweep.zipIdx c := by
  cases sweep with
  | nil => exact absurd rfl h
  | cons m l =>
    obtain ⟨c, hc, first⟩ := laneStep_first (m, 0)
    obtain ⟨d, hd, best⟩ := laneFold_best (l.zipIdx 1) [(m, 0)] c first
    exact ⟨d, by rw [List.zipIdx_cons, List.foldl_cons, hc, hd], by rwa [List.zipIdx_cons]⟩

/-- The setting that is chosen: the step and the middle of the run that are the best. -/
theorem chooseLane_eq {sweep : List Nat} {c : Nat × Nat × Nat} (h : sweep.zipIdx.foldl laneStep none = some c) :
    (chooseLane sweep).set = ⟨c.1, c.2.1 + (c.2.2 - 1) / 2⟩ ∧ (chooseLane sweep).width = c.2.2 := by
  have eq : chooseLane sweep = match sweep.zipIdx.foldl laneStep none with
      | none => ⟨⟨0, 0⟩, 0, 0⟩
      | some (v, first, len) =>
        let delay := first + (len - 1) / 2
        let at_ := sweep.map fun m => m.testBit delay
        ⟨⟨v, delay⟩, len, ((at_.drop v).takeWhile id).length + ((at_.take v).reverse.takeWhile id).length⟩ := rfl
  rw [eq, h]
  exact ⟨rfl, rfl⟩

/-- A lane takes the reference step of its widest run of passing delay steps, the one nearest the middle among equals (spec/06 R248). -/
theorem chooseLane_best {sweep : List Nat} (h : sweep ≠ []) : (chooseLane sweep).set.vref < sweep.length ∧
    (∀ m, sweep[(chooseLane sweep).set.vref]? = some m → longestRun 128 m = ((longestRun 128 m).1, (chooseLane sweep).width) ∧
      (chooseLane sweep).set.delay = (longestRun 128 m).1 + ((chooseLane sweep).width - 1) / 2) ∧
    ∀ (v m : Nat), sweep[v]? = some m → (longestRun 128 m).2 ≤ (chooseLane sweep).width ∧
      ((longestRun 128 m).2 = (chooseLane sweep).width → refDist (chooseLane sweep).set.vref ≤ refDist v) := by
  obtain ⟨c, fold, ⟨m, hm, run⟩, best⟩ := chooseLane_fold h
  obtain ⟨set, width⟩ := chooseLane_eq fold
  have chosen : sweep[c.1]? = some m := List.mem_zipIdx_iff_getElem?.mp hm
  rw [set, width]
  refine ⟨(List.getElem?_eq_some_iff.mp chosen).1, fun m' h' => ?_, fun v m' h' => ?_⟩
  · obtain rfl : m = m' := Option.some.inj (chosen.symm.trans h')
    rw [← run]
    exact ⟨rfl, rfl⟩
  · exact best (m', v) (List.mem_zipIdx_iff_getElem?.mpr h')

end Sys2Proof.Machine
end

section
/-!
O59, training of a channel without a failed rank (spec/06 R222 to R226, R247).
-/

namespace Sys2Proof.Machine

/-- A loop whose steps each bring about their own fact and leave those of the others. -/
theorem iter_each {α σ : Type} {f : σ → α → σ} {Good : α → σ → Prop} (l : List α) (own : ∀ a ∈ l, ∀ s, Good a (f s a))
    (other : ∀ a ∈ l, ∀ b ∈ l, b ≠ a → ∀ s, Good b s → Good b (f s a)) (s : σ) : ∀ a ∈ l, Good a (iter l s f) := by
  have part : ∀ (m : List α), (∀ x ∈ m, x ∈ l) → ∀ a ∈ l, ∀ s, (a ∈ m ∨ Good a s) → Good a (iter m s f) := by
    intro m
    induction m with
    | nil => exact fun _ a _ s h => h.resolve_left List.not_mem_nil
    | cons x m ih =>
      intro hm a ha s h
      refine ih (fun y hy => hm y (List.mem_cons_of_mem _ hy)) a ha (f s x) ?_
      by_cases e : a = x
      · exact .inr (e ▸ own a ha s)
      · exact h.imp (fun h => (List.mem_cons.mp h).resolve_left e) (other x (hm x List.mem_cons_self) a ha e s)
  exact fun a ha => part l (fun _ => id) a ha s (.inl ha)

/-! ## One channel -/

/-- What the steps of training come to on a rank of a channel (spec/06 R247). -/
def trainOutcome (ok : Bool) (t : ChanTraining) (r : Nat) : RankOutcome :=
  rankOutcome (ok && (if r / 2 = 0 then t.spdOk0 else t.spdOk1)) (if r / 2 = 0 then t.rcdOk0 else t.rcdOk1) (t.ranks.getD r ⟨false, [], [], false⟩)

/-- A rank that training leaves ready, the `q.2`-th of `n` ranks of which `spares` are spares (spec/06 R226). -/
def Part.rankTrained (s : Part) (c spares n : Nat) (eyes : Nat → Nat) (q : Nat × Nat) : Part :=
  (((s.setOd .rankState (c * 4 + q.1) 1).setOd .rankLayer (c * 4 + q.1) (if q.2 + spares < n then q.2 else 0xFF)).setOd .trainEyes (c * 4 + q.1)
    (eyes q.1)).setOd .rankReplaces (c * 4 + q.1) 0xFF

/-- A channel as training leaves it, before its ranks. -/
def Part.chanTrained (s : Part) (c : Nat) (ok : Bool) (t : ChanTraining) : Part :=
  (s.onChan c fun _ => { ChanState.zero with
    rankMap := presentRanks t ++ (List.range 4).drop (presentRanks t).length
    steps := (List.range 4).map fun r => if (presentRanks t).contains r then (trainOutcome ok t r).failed else 0
    lanes := iter (presentRanks t) [] fun v r => (trainOutcome ok t r).settings r v
    parity := (presentRanks t).any fun r => (trainOutcome ok t r).failed &&& 3 == 0 }).setOd .channelState c 1

/-- The ranks of a channel with a failed step leave the boot (spec/06 R250). -/
def Part.badRanksFail (s : Part) (c : Nat) (bad : List Nat) : Part :=
  iter bad (iter bad s fun s r => (s.setOd .rankState (c * 4 + r) 5).logEv 0x0F06 (c * 4 + r) 3 none (c / 8)) fun s r => s.bootRankFails c r 3

/-- The ranks of a channel as training leaves them. -/
def Part.ranksTrained (s : Part) (c spares : Nat) (ok : Bool) (t : ChanTraining) : Part :=
  iter (presentRanks t).zipIdx s fun s q => s.rankTrained c spares (presentRanks t).length (fun r => (trainOutcome ok t r).eyes) q

theorem Part.trainChannel_eq (s : Part) (c spares : Nat) (ok : Bool) (t : ChanTraining) : s.trainChannel c spares ok t =
    ((((s.newDimms c t).chanTrained c ok t).ranksTrained c spares ok t).eyesMin c).badRanksFail c
      ((presentRanks t).filter fun r => (trainOutcome ok t r).failed != 0) := by
  unfold Part.trainChannel
  extract_lets a ranks n outcome z b d e f bad g
  have hd : d = a.chanTrained c ok t := rfl
  have he : e = d.ranksTrained c spares ok t := rfl
  have hf : f = e.eyesMin c := rfl
  have hb : bad = (presentRanks t).filter fun r => (trainOutcome ok t r).failed != 0 := rfl
  rw [← hb, ← hd, ← he, ← hf]
  rfl

/-- Where no step fails, no rank leaves. -/
theorem Part.trainChannel_good (s : Part) (c spares : Nat) {ok : Bool} {t : ChanTraining} (h : ∀ r ∈ presentRanks t, (trainOutcome ok t r).failed = 0) :
    s.trainChannel c spares ok t = (((s.newDimms c t).chanTrained c ok t).ranksTrained c spares ok t).eyesMin c := by
  have noBad : (presentRanks t).filter (fun r => (trainOutcome ok t r).failed != 0) = [] := by
    rw [List.filter_eq_nil_iff]
    intro r hr
    simp [h r hr]
  rw [Part.trainChannel_eq, noBad]
  rfl

/-- New DIMMs change flash and the refresh of their channel (spec/15 R560). -/
theorem Part.newDimms_spec (s : Part) (c : Nat) (t : ChanTraining) : Part.only [.dict, .flash] s (s.newDimms c t) ∧
    Part.keepsOd [.refreshFloor, .refreshRate] s (s.newDimms c t) ∧
    ∀ k ∈ (s.newDimms c t).flash.lostLayers, k ∈ s.flash.lostLayers := by
  unfold Part.newDimms
  extract_lets old first f gone u
  have hu : Part.only [.flash] s u := s.only_flash _
  have sub : ∀ k ∈ u.flash.lostLayers, k ∈ s.flash.lostLayers := by
    show ∀ k ∈ (if first then f.lostLayers else f.lostLayers.filter fun k => !gone k), k ∈ f.lostLayers
    split
    · exact fun _ => id
    · exact fun k hk => (List.mem_filter.mp hk).1
  clear_value u
  split
  · exact ⟨Part.only_refl _ _, Part.keepsOd_refl _ _, fun _ => id⟩
  · split
    · exact ⟨Part.only_mono hu (by decide), Part.keepsOd_of_only hu (by decide), sub⟩
    · exact ⟨((Part.only_mono hu (by decide)).next (Part.only_setOd _ _ _ _) (by decide)).next (Part.only_setOd _ _ _ _) (by decide),
        ((Part.keepsOd_of_only hu (by decide)).setOd _ _ _ (by decide)).setOd _ _ _ (by decide), sub⟩

theorem Part.rankTrained_spec (s : Part) {c spares n : Nat} (eyes : Nat → Nat) {q : Nat × Nat} (hc : c < 64) (hq : q.1 < 4) (hn : n ≤ 4) :
    (s.rankTrained c spares n eyes q).od .rankState (c * 4 + q.1) = 1 ∧
    (s.rankTrained c spares n eyes q).od .rankLayer (c * 4 + q.1) = (if q.2 + spares < n then q.2 else 0xFF) ∧
    Part.odOnly [(.rankState, c * 4 + q.1), (.rankLayer, c * 4 + q.1), (.trainEyes, c * 4 + q.1), (.rankReplaces, c * 4 + q.1)] s
      (s.rankTrained c spares n eyes q) := by
  have small : c * 4 + q.1 < 65536 := by omega
  unfold Part.rankTrained
  refine ⟨?_, ?_, ?_⟩
  · rw [Part.od_setOd_ne _ _ _ _ (by decide), Part.od_setOd_ne _ _ _ _ (by decide), Part.od_setOd_ne _ _ _ _ (by decide)]
    exact Part.od_setOd_val _ _ _ _ (by decide)
  · rw [Part.od_setOd_ne _ _ _ _ (by decide), Part.od_setOd_ne _ _ _ _ (by decide)]
    refine Part.od_setOd_val _ _ _ _ (Nat.lt_of_le_of_lt (m := 255) ?_ (by decide))
    split <;> omega
  · exact ((((Part.odOnly_refl _ _).setOd _ _ _ small (by simp)).setOd _ _ _ small (by simp)).setOd _ _ _ small (by simp)).setOd _ _ _ small (by simp)

/-- The entries of training's ranks. -/
def trainEntries : List Entry := [.refreshFloor, .refreshRate, .channelState, .rankState, .rankLayer, .trainEyes, .rankReplaces, .eyeWidthMin]

/-- A channel trained: IN_SERVICE for the fill, its ranks ready with their layers, the last `spares` of them without one (spec/06 R226). -/
structure ChanReady (c spares : Nat) (ranks : List Nat) (s : Part) : Prop where
  state : s.od .channelState c = 1
  ranks : ∀ j r, ranks[j]? = some r → s.od .rankState (c * 4 + r) = 1 ∧
    s.od .rankLayer (c * 4 + r) = if j + spares < ranks.length then j else 0xFF

theorem presentRanks_lt {t : ChanTraining} {r : Nat} (h : r ∈ presentRanks t) : r < 4 := List.mem_range.mp (List.mem_filter.mp h).1

theorem presentRanks_length (t : ChanTraining) : (presentRanks t).length ≤ 4 := List.length_filter_le _ _

theorem Part.trainRanks_spec (s : Part) {c : Nat} (spares : Nat) (ranks : List Nat) (eyes : Nat → Nat) (hc : c < 64) (h4 : ∀ r ∈ ranks, r < 4)
    (hn : ranks.length ≤ 4) (hd : ranks.Nodup) :
    ∀ q ∈ ranks.zipIdx, (iter ranks.zipIdx s fun s q => s.rankTrained c spares ranks.length eyes q).od .rankState (c * 4 + q.1) = 1 ∧
      (iter ranks.zipIdx s fun s q => s.rankTrained c spares ranks.length eyes q).od .rankLayer (c * 4 + q.1) =
        if q.2 + spares < ranks.length then q.2 else 0xFF := by
  have lt : ∀ q ∈ ranks.zipIdx, q.1 < 4 := fun q hq => h4 _ (List.mem_of_getElem? (List.mem_zipIdx_iff_getElem?.mp hq))
  refine iter_each (Good := fun q s => s.od .rankState (c * 4 + q.1) = 1 ∧
    s.od .rankLayer (c * 4 + q.1) = if q.2 + spares < ranks.length then q.2 else 0xFF) ranks.zipIdx (fun q hq t => ?_) (fun q hq b hb ne t good => ?_) s
  · obtain ⟨state, layer, -⟩ := t.rankTrained_spec (spares := spares) eyes hc (lt q hq) hn
    exact ⟨state, layer⟩
  · obtain ⟨-, -, od⟩ := t.rankTrained_spec (spares := spares) eyes hc (lt q hq) hn
    have apart : b.1 ≠ q.1 := fun e => by
      have hb' := List.mem_zipIdx_iff_getElem?.mp hb
      have hq' := List.mem_zipIdx_iff_getElem?.mp hq
      have same : b.2 = q.2 := by
        obtain ⟨lb, eb⟩ := List.getElem?_eq_some_iff.mp hb'
        obtain ⟨lq, eq⟩ := List.getElem?_eq_some_iff.mp hq'
        exact (List.Nodup.getElem_inj_iff hd).mp (eb.trans (e.trans eq.symm))
      exact ne (Prod.ext e same)
    have b4 := lt b hb
    rw [od _ _ (by omega) (by simp [apart]), od _ _ (by omega) (by simp [apart])]
    exact good

/-- A change of one channel's entries by its training. -/
structure ChanApart (c : Nat) (a b : Part) : Prop where
  od : Part.keepsOd trainEntries a b
  chan : ∀ i < 65536, i ≠ c → b.od .channelState i = a.od .channelState i
  rank : ∀ e ∈ [Entry.rankState, .rankLayer], ∀ i < 65536, i / 4 ≠ c → b.od e i = a.od e i

theorem ChanApart.refl (c : Nat) (a : Part) : ChanApart c a a := ⟨Part.keepsOd_refl _ _, fun _ _ _ => rfl, fun _ _ _ _ _ => rfl⟩

theorem ChanApart.trans {c : Nat} {a b d : Part} (h : ChanApart c a b) (k : ChanApart c b d) : ChanApart c a d :=
  ⟨Part.keepsOd_trans h.od k.od, fun i hi hn => (k.chan i hi hn).trans (h.chan i hi hn),
    fun e he i hi hn => (k.rank e he i hi hn).trans (h.rank e he i hi hn)⟩

theorem ChanApart.iter {α : Type} {c : Nat} {f : Part → α → Part} (l : List α) (s : Part) (h : ∀ s a, a ∈ l → ChanApart c s (f s a)) :
    ChanApart c s (iter l s f) := by
  induction l generalizing s with
  | nil => exact .refl _ _
  | cons x l ih => exact (h s x List.mem_cons_self).trans (ih _ fun t a ha => h t a (List.mem_cons_of_mem _ ha))

/-- A change that leaves the states of channels and ranks. -/
theorem ChanApart.of_keeps {c : Nat} {l : List Entry} {a b : Part} (h : Part.keepsOd l a b) (hl : ∀ e ∈ l, e ∈ trainEntries)
    (hc : Entry.channelState ∉ l) (hs : Entry.rankState ∉ l) (hr : Entry.rankLayer ∉ l) : ChanApart c a b :=
  ⟨Part.keepsOd_mono h hl, fun i _ _ => h.od_eq hc i, fun e he i _ _ => h.od_eq (by
    rcases List.mem_pair.mp he with rfl | rfl
    · exact hs
    · exact hr) i⟩

theorem ChanApart.rankTrained (s : Part) {c spares n : Nat} (eyes : Nat → Nat) {q : Nat × Nat} (hc : c < 64) (hq : q.1 < 4) (hn : n ≤ 4) :
    ChanApart c s (s.rankTrained c spares n eyes q) := by
  obtain ⟨-, -, od⟩ := s.rankTrained_spec (spares := spares) eyes hc hq hn
  refine ⟨?_, fun i hi _ => od _ _ hi (by simp), fun e _ i hi hne => od _ _ hi fun h => hne ?_⟩
  · exact ((((Part.keepsOd_refl _ _).setOd _ _ _ (by decide)).setOd _ _ _ (by decide)).setOd _ _ _ (by decide)).setOd _ _ _ (by decide)
  · have key : i = c * 4 + q.1 := by
      simp only [List.mem_cons, List.not_mem_nil, or_false, Prod.mk.injEq] at h
      rcases h with h | h | h | h <;> exact h.2
    omega

/-- A trained channel stays ready as another is trained. -/
theorem ChanReady.apart {c d spares : Nat} {ranks : List Nat} {a b : Part} (h : ChanReady d spares ranks a) (k : ChanApart c a b) (hd : d < 64)
    (hr : ∀ r ∈ ranks, r < 4) (hne : d ≠ c) : ChanReady d spares ranks b := by
  refine ⟨(k.chan d (by omega) hne).trans h.state, fun j r hj => ?_⟩
  have r4 := hr r (List.mem_of_getElem? hj)
  obtain ⟨state, layer⟩ := h.ranks j r hj
  exact ⟨(k.rank _ (by decide) _ (by omega) (by omega)).trans state, (k.rank _ (by decide) _ (by omega) (by omega)).trans layer⟩

theorem presentRanks_nodup (t : ChanTraining) : (presentRanks t).Nodup := List.Nodup.filter _ List.nodup_range

theorem Part.trainChannel_spec (s : Part) {c : Nat} (spares : Nat) {ok : Bool} {t : ChanTraining} (hc : c < 64)
    (h : ∀ r ∈ presentRanks t, (trainOutcome ok t r).failed = 0) : ChanReady c spares (presentRanks t) (s.trainChannel c spares ok t) ∧
    ChanApart c s (s.trainChannel c spares ok t) ∧ Part.only [.dict, .flash, .chans] s (s.trainChannel c spares ok t) := by
  rw [Part.trainChannel_good s c spares h]
  obtain ⟨dimms, floors, -⟩ := s.newDimms_spec c t
  generalize s.newDimms c t = a at *
  have only1 : Part.only [.dict, .chans] a (a.chanTrained c ok t) :=
    ((Part.only_refl _ _).next (Part.only_onChan _ _ _) (by decide)).next (Part.only_setOd _ _ _ _) (by decide)
  have state1 : (a.chanTrained c ok t).od .channelState c = 1 := Part.od_setOd_val _ _ _ _ (by decide)
  have apart1 : ChanApart c a (a.chanTrained c ok t) := by
    have chan := a.only_onChan c fun _ => { ChanState.zero with
      rankMap := presentRanks t ++ (List.range 4).drop (presentRanks t).length
      steps := (List.range 4).map fun r => if (presentRanks t).contains r then (trainOutcome ok t r).failed else 0
      lanes := Machine.iter (presentRanks t) [] fun v r => (trainOutcome ok t r).settings r v
      parity := (presentRanks t).any fun r => (trainOutcome ok t r).failed &&& 3 == 0 }
    have same := chan .dict (by decide)
    exact ⟨((Part.keepsOd_refl _ _).same chan (by decide)).setOd _ _ _ (by decide),
      fun i hi hne => (Part.od_setOd_other _ _ (by omega) hi fun q => hne q.2.symm).trans (Part.od_congr same _ _),
      fun e he i hi _ => (Part.od_setOd_ne _ _ _ _ (by rcases List.mem_pair.mp he with rfl | rfl <;> decide)).trans (Part.od_congr same _ _)⟩
  generalize a.chanTrained c ok t = b at *
  have only2 : Part.only [.dict] b (b.ranksTrained c spares ok t) := Part.only_iter (fun u q =>
    ((((Part.only_refl _ _).next (Part.only_setOd _ _ _ _) (by decide)).next (Part.only_setOd _ _ _ _) (by decide)).next (Part.only_setOd _ _ _ _) (by decide)).next (Part.only_setOd _ _ _ _) (by decide)) _ _
  have ranks := b.trainRanks_spec spares (presentRanks t) (fun r => (trainOutcome ok t r).eyes) hc (fun r hr => presentRanks_lt hr)
    (presentRanks_length t) (presentRanks_nodup t)
  have apart2 : ChanApart c b (b.ranksTrained c spares ok t) := ChanApart.iter _ _ fun u q hq =>
    .rankTrained u _ hc (presentRanks_lt (List.mem_of_getElem? (List.mem_zipIdx_iff_getElem?.mp hq))) (presentRanks_length t)
  have state2 : (b.ranksTrained c spares ok t).od .channelState c = b.od .channelState c :=
    (Part.keepsOd_iter (l := [.rankState, .rankLayer, .trainEyes, .rankReplaces]) _ _ fun u q _ =>
      ((((Part.keepsOd_refl _ _).setOd _ _ _ (by decide)).setOd _ _ _ (by decide)).setOd _ _ _ (by decide)).setOd _ _ _ (by decide)).od_eq (by decide) c
  change ∀ q ∈ (presentRanks t).zipIdx, (b.ranksTrained c spares ok t).od .rankState (c * 4 + q.1) = 1 ∧
      (b.ranksTrained c spares ok t).od .rankLayer (c * 4 + q.1) = _ at ranks
  generalize b.ranksTrained c spares ok t = d at *
  have eyes : Part.keepsOd [.eyeWidthMin] d (d.eyesMin c) := (Part.keepsOd_refl _ _).setOd _ _ _ (by decide)
  refine ⟨⟨?_, fun j r hj => ?_⟩, ((ChanApart.of_keeps floors (by decide) (by decide) (by decide) (by decide)).trans apart1).trans
    (apart2.trans (.of_keeps eyes (by decide) (by decide) (by decide) (by decide))),
    (((Part.only_mono dimms (by decide)).next only1 (by decide)).next only2 (by decide)).next (Part.only_setOd _ _ _ _) (by decide)⟩
  · rw [eyes.od_eq (by decide) c, state2, state1]
  · obtain ⟨state, layer⟩ := ranks (r, j) (List.mem_zipIdx_iff_getElem?.mpr hj)
    rw [eyes.od_eq (by decide) _, eyes.od_eq (by decide) _]
    exact ⟨state, layer⟩

end Sys2Proof.Machine
end

section
/-!
O59, training of a whole pavilion: what it shows, its channels and its ranks (spec/06 R222 to R226, R247).
-/

namespace Sys2Proof.Machine

/-- The highest rate that limit, modules and population allow (spec/06 R223). -/
def trainRate (limit rate dimms : Nat) : Nat := stepDown [4800, 5600, 6400, 7200, 8000] (min limit rate) (if dimms = 2 then 6400 else 8000)

/-- Without two ranks there is no spare: a record (spec/06 R226). -/
def Part.spareWarned (s : Part) (p n : Nat) : Part := if s.od .dramSpareMode p = 1 && n < 2 then s.logEv 0x0F0A p 0 none p else s

/-- The population of a pavilion, where its modules are accepted (spec/06 R222). -/
def Part.populated (s : Part) (p rate : Nat) (c : ChanTraining) : Part :=
  if !trainAccepted c then s else
    ((((s.setOd .dramSpeed p rate).setOd .dramDimmsPerChannel p c.dimms).setOd .dramRanksPerDimm p c.ranksPerDimm).setOd
      .dramDevice p c.device).setOd .dramStack p c.stack

/-- New DIMMs are seen on every channel of a pavilion. -/
def Part.dimmsSeen (s : Part) (p : Nat) (t : TrainResult) : Part := iter (List.range 8) s fun s k => match t.chans[k]? with
  | some q => s.newDimms (p * 8 + k) q
  | none => s

/-- The layers of a pavilion: its ranks but the spares and the lost ones. -/
def Part.layersCounted (s : Part) (p m : Nat) : Part :=
  s.setOd .dramLayers p (m - ((List.range m).filter fun k => s.flash.lostLayers.contains (p * 4 + k)).length)

/-- Every channel of a pavilion is trained. -/
def Part.chansTrained (s : Part) (p spares : Nat) (ok : Bool) (t : TrainResult) : Part := iter (List.range 8) s fun s k => match t.chans[k]? with
  | some q => s.trainChannel (p * 8 + k) spares ok q
  | none => s

/-- The pavilion has been trained. -/
def Part.noteTrained (s : Part) (p : Nat) : Part := { s with boot := { s.boot with trained := s.boot.trained ++ [p] } }

/-- Training of a uniform population (spec/06 R223 to R226). -/
def Part.trainedWell (s : Part) (p : Nat) (t : TrainResult) (c : ChanTraining) (spares : Nat) : Part :=
  let n := (presentRanks c).length
  let s := s.spareWarned p n
  let rate := trainRate (s.od .dramSpeedLimit p) t.rate c.dimms
  (((((s.populated p rate c).dimmsSeen p t).layersCounted p (n - spares)).chansTrained p spares (rate != 0 && trainAccepted c) t).noteTrained p)

theorem Part.trained_uniform (s : Part) (p : Nat) {t : TrainResult} {c : ChanTraining} (hu : trainUniform t = true) (h8 : t.chans.length = 8)
    (hc : t.chans.head? = some c) {spares : Nat} (hs : spares = if s.od .dramSpareMode p = 1 ∧ 2 ≤ (presentRanks c).length then 1 else 0) :
    s.trained p t = if (s.trainedWell p t c spares).od .dramLayers p = 0 then (s.trainedWell p t c spares).bootFailed p
      else (s.trainedWell p t c spares).bootProgress := by
  obtain ⟨rate, chans⟩ := t
  cases chans with
  | nil => simp at hc
  | cons c0 l =>
    obtain rfl : c0 = c := Option.some.inj hc
    have same : (if (decide (s.od .dramSpareMode p = 1) && decide (2 ≤ (presentRanks c0).length)) = true then 1 else 0) = spares := by
      rw [hs]
      refine if_congr ?_ rfl rfl
      rw [Bool.and_eq_true, decide_eq_true_iff, decide_eq_true_iff]
    subst same
    refine (if_neg (by simp [hu, h8])).trans ?_
    rfl

theorem trainRate_lt (limit rate dimms : Nat) : trainRate limit rate dimms < 65536 := by
  have most : ∀ (l : List Nat) (a : Nat), a < 65536 → (∀ x ∈ l, x < 65536) → l.foldl max a < 65536 := fun l => by
    induction l with
    | nil => exact fun a ha _ => ha
    | cons x l ih =>
      intro a ha h
      exact ih (max a x) (Nat.max_lt.mpr ⟨ha, h x List.mem_cons_self⟩) fun y hy => h y (List.mem_cons_of_mem _ hy)
  exact most _ _ (by decide) fun x hx => (by decide : ∀ x ∈ [4800, 5600, 6400, 7200, 8000], x < 65536) x (List.mem_filter.mp hx).1

/-- What is accepted of a population is small (spec/06 R222). -/
theorem trainAccepted_lt {c : ChanTraining} (h : trainAccepted c = true) : c.dimms < 256 ∧ c.ranksPerDimm < 256 ∧ c.device < 256 ∧ c.stack < 256 := by
  unfold trainAccepted at h
  simp only [Bool.and_eq_true, Bool.or_eq_true, decide_eq_true_iff, beq_iff_eq] at h
  omega

/-- An accepted population with a DIMM has a rank that is no spare (spec/06 R226). -/
theorem presentRanks_pos {c : ChanTraining} (h : trainAccepted c = true) (hd : c.dimms ≠ 0) : 1 ≤ (presentRanks c).length := by
  unfold trainAccepted at h
  simp only [Bool.and_eq_true, Bool.or_eq_true, decide_eq_true_iff, beq_iff_eq] at h
  have zero : 0 ∈ presentRanks c := List.mem_filter.mpr ⟨by decide, by simp; omega⟩
  exact List.length_pos_of_mem zero

theorem trainUniform_ranks {t : TrainResult} {c d : ChanTraining} (hu : trainUniform t = true) (hc : t.chans.head? = some c) (hd : d ∈ t.chans) :
    presentRanks d = presentRanks c ∧ d.dimms ≠ 0 := by
  have each := List.all_eq_true.mp hu d hd
  simp only [hc, Option.map_some, Bool.and_eq_true, beq_iff_eq, Option.some.injEq, bne_iff_ne, ne_eq, trainPopulation, List.cons.injEq] at each
  obtain ⟨⟨dimms, perDimm, -⟩, some⟩ := each
  exact ⟨by unfold presentRanks; rw [dimms, perDimm], some⟩

/-- The entries that the population shows. -/
def populationEntries : List Entry := [.dramSpeed, .dramDimmsPerChannel, .dramRanksPerDimm, .dramDevice, .dramStack]

/-- What a pavilion's population shows. -/
structure Populated (p rate : Nat) (c : ChanTraining) (s : Part) : Prop where
  speed : s.od .dramSpeed p = rate
  dimms : s.od .dramDimmsPerChannel p = c.dimms
  perDimm : s.od .dramRanksPerDimm p = c.ranksPerDimm
  device : s.od .dramDevice p = c.device
  stack : s.od .dramStack p = c.stack

theorem Part.populated_spec (s : Part) (p : Nat) {rate : Nat} {c : ChanTraining} (hr : rate < 65536) (h : trainAccepted c = true) :
    Populated p rate c (s.populated p rate c) ∧ Part.only [.dict] s (s.populated p rate c) ∧ Part.keepsOd populationEntries s (s.populated p rate c) := by
  obtain ⟨dimms, perDimm, device, stack⟩ := trainAccepted_lt h
  unfold Part.populated
  rw [if_neg (by simp [h])]
  refine ⟨⟨?_, ?_, ?_, ?_, ?_⟩, ?_, ?_⟩
  · rw [Part.od_setOd_ne _ _ _ _ (by decide), Part.od_setOd_ne _ _ _ _ (by decide), Part.od_setOd_ne _ _ _ _ (by decide),
      Part.od_setOd_ne _ _ _ _ (by decide), Part.od_setOd_val _ _ _ _ hr]
  · rw [Part.od_setOd_ne _ _ _ _ (by decide), Part.od_setOd_ne _ _ _ _ (by decide), Part.od_setOd_ne _ _ _ _ (by decide),
      Part.od_setOd_val _ _ _ _ dimms]
  · rw [Part.od_setOd_ne _ _ _ _ (by decide), Part.od_setOd_ne _ _ _ _ (by decide), Part.od_setOd_val _ _ _ _ perDimm]
  · rw [Part.od_setOd_ne _ _ _ _ (by decide), Part.od_setOd_val _ _ _ _ device]
  · exact Part.od_setOd_val _ _ _ _ stack
  · exact (((((Part.only_refl _ _).next (Part.only_setOd _ _ _ _) (by decide)).next (Part.only_setOd _ _ _ _) (by decide)).next (Part.only_setOd _ _ _ _) (by decide)).next
      (Part.only_setOd _ _ _ _) (by decide)).next (Part.only_setOd _ _ _ _) (by decide)
  · exact (((((Part.keepsOd_refl _ _).setOd _ _ _ (by decide)).setOd _ _ _ (by decide)).setOd _ _ _ (by decide)).setOd _ _ _ (by decide)).setOd _ _ _ (by decide)

/-- The population stays shown through what does not change it. -/
theorem Populated.keeps {p rate : Nat} {c : ChanTraining} {a b : Part} {l : List Entry} (h : Populated p rate c a) (k : Part.keepsOd l a b)
    (hl : ∀ e ∈ populationEntries, e ∉ l) : Populated p rate c b :=
  ⟨(k.od_eq (hl _ (by decide)) p).trans h.speed, (k.od_eq (hl _ (by decide)) p).trans h.dimms, (k.od_eq (hl _ (by decide)) p).trans h.perDimm,
    (k.od_eq (hl _ (by decide)) p).trans h.device, (k.od_eq (hl _ (by decide)) p).trans h.stack⟩

theorem Part.dimmsSeen_spec (s : Part) (p : Nat) (t : TrainResult) : Part.only [.dict, .flash] s (s.dimmsSeen p t) ∧
    Part.keepsOd [.refreshFloor, .refreshRate] s (s.dimmsSeen p t) ∧ ∀ k ∈ (s.dimmsSeen p t).flash.lostLayers, k ∈ s.flash.lostLayers := by
  have step : ∀ (u : Part) (k : Nat), let v := (match t.chans[k]? with | some q => u.newDimms (p * 8 + k) q | none => u)
      Part.only [.dict, .flash] u v ∧ Part.keepsOd [.refreshFloor, .refreshRate] u v ∧ ∀ k ∈ v.flash.lostLayers, k ∈ u.flash.lostLayers := fun u k => by
    split
    · exact u.newDimms_spec _ _
    · exact ⟨Part.only_refl _ _, Part.keepsOd_refl _ _, fun _ => id⟩
  unfold Part.dimmsSeen
  refine ⟨Part.only_iter (fun u k => (step u k).1) _ _, Part.keepsOd_iter _ _ fun u k _ => (step u k).2.1, ?_⟩
  generalize List.range 8 = l
  induction l generalizing s with
  | nil => exact fun _ => id
  | cons x l ih => exact fun k hk => (step s x).2.2 k (ih _ k hk)

/-- A step of training where every channel of the population passes: its channel is ready, the others stand. -/
theorem chanStep_spec {p spares : Nat} {t : TrainResult} {ranks : List Nat} (hp : p < 8) (h8 : t.chans.length = 8)
    (hr : ∀ d ∈ t.chans, presentRanks d = ranks) (ho : ∀ d ∈ t.chans, ∀ r ∈ presentRanks d, (trainOutcome true d r).failed = 0) (u : Part) {k : Nat} (hk : k < 8) :
    let v := (match t.chans[k]? with | some q => u.trainChannel (p * 8 + k) spares true q | none => u)
    ChanReady (p * 8 + k) spares ranks v ∧ ChanApart (p * 8 + k) u v ∧ Part.only [.dict, .flash, .chans] u v := by
  have there : t.chans[k]? = some (t.chans[k]'(by omega)) := List.getElem?_eq_getElem _
  have mem : t.chans[k]'(by omega) ∈ t.chans := List.getElem_mem _
  rw [there]
  obtain ⟨ready, apart, only⟩ := u.trainChannel_spec (c := p * 8 + k) spares (by omega) (ho _ mem)
  rw [hr _ mem] at ready
  exact ⟨ready, apart, only⟩

theorem Part.chansTrained_spec (s : Part) {p spares : Nat} {t : TrainResult} {ranks : List Nat} (hp : p < 8) (h8 : t.chans.length = 8)
    (hr : ∀ d ∈ t.chans, presentRanks d = ranks) (ho : ∀ d ∈ t.chans, ∀ r ∈ presentRanks d, (trainOutcome true d r).failed = 0)
    (h4 : ∀ r ∈ ranks, r < 4) :
    (∀ k < 8, ChanReady (p * 8 + k) spares ranks (s.chansTrained p spares true t)) ∧ Part.keepsOd trainEntries s (s.chansTrained p spares true t) ∧
    (s.chansTrained p spares true t).boot = s.boot := by
  have step := chanStep_spec (spares := spares) hp h8 hr ho
  unfold Part.chansTrained
  refine ⟨fun k hk => ?_, Part.keepsOd_iter _ _ fun u k hk => (step u (List.mem_range.mp hk)).2.1.od, ?_⟩
  · refine iter_each (Good := fun k s => ChanReady (p * 8 + k) spares ranks s) (List.range 8) (fun j hj u => (step u (List.mem_range.mp hj)).1)
      (fun j hj b hb ne u good => ?_) s k (List.mem_range.mpr hk)
    have b8 := List.mem_range.mp hb
    exact good.apart (step u (List.mem_range.mp hj)).2.1 (by omega) h4 (by omega)
  · have each : ∀ (l : List Nat) (u : Part), (∀ j ∈ l, j < 8) → (iter l u fun s k => match t.chans[k]? with
        | some q => s.trainChannel (p * 8 + k) spares true q
        | none => s).boot = u.boot := fun l => by
      induction l with
      | nil => exact fun _ _ => rfl
      | cons j l ih =>
        intro u hl
        exact (ih _ fun i hi => hl i (List.mem_cons_of_mem _ hi)).trans ((step u (hl j List.mem_cons_self)).2.2 .boot (by decide))
    exact each _ s fun j hj => List.mem_range.mp hj

/-- The channels of a pavilion and what it shows, trained (spec/06 R223 to R226). -/
structure PavTrained (p spares rate : Nat) (c : ChanTraining) (s : Part) : Prop where
  shown : Populated p rate c s
  layers : s.od .dramLayers p = (presentRanks c).length - spares
  ready : ∀ k < 8, ChanReady (p * 8 + k) spares (presentRanks c) s

/-- A pavilion stays as it was trained through what changes none of its entries. -/
theorem PavTrained.keeps {p spares rate : Nat} {c : ChanTraining} {a b : Part} {l : List Entry} (h : PavTrained p spares rate c a)
    (k : Part.keepsOd l a b) (hl : ∀ e ∈ Entry.dramLayers :: .channelState :: .rankState :: .rankLayer :: populationEntries, e ∉ l) :
    PavTrained p spares rate c b :=
  ⟨h.shown.keeps k fun e he => hl e (by simp only [List.mem_cons]; tauto), (k.od_eq (hl _ (by decide)) p).trans h.layers, fun j hj =>
    ⟨(k.od_eq (hl _ (by decide)) _).trans (h.ready j hj).state, fun i r hi =>
      ⟨(k.od_eq (hl _ (by decide)) _).trans ((h.ready j hj).ranks i r hi).1, (k.od_eq (hl _ (by decide)) _).trans ((h.ready j hj).ranks i r hi).2⟩⟩⟩

theorem Part.trainedWell_spec (s : Part) {p spares : Nat} {t : TrainResult} {c : ChanTraining} (hp : p < 8) (hu : trainUniform t = true)
    (h8 : t.chans.length = 8) (hc : t.chans.head? = some c) (ha : trainAccepted c = true) (hl : ∀ k < 4, s.layerLost p k = false)
    (ho : ∀ d ∈ t.chans, ∀ r ∈ presentRanks c, (trainOutcome true d r).failed = 0) (hr : trainRate (s.od .dramSpeedLimit p) t.rate c.dimms ≠ 0) :
    PavTrained p spares (trainRate (s.od .dramSpeedLimit p) t.rate c.dimms) c (s.trainedWell p t c spares) ∧
    (s.trainedWell p t c spares).boot.trained = s.boot.trained ++ [p] := by
  unfold Part.trainedWell
  extract_lets n a rate
  have log : LogFrame s a := .ite (LogFrame.logEv s 0x0F0A p 0 none p) (.refl _)
  have rates : rate = trainRate (s.od .dramSpeedLimit p) t.rate c.dimms :=
    congrArg (fun l => trainRate l t.rate c.dimms) (log.keeps.od_eq (by decide) p)
  rw [← rates] at hr ⊢
  have small : rate < 65536 := trainRate_lt _ _ _
  have ok : (rate != 0 && trainAccepted c) = true := by simp [hr, ha]
  rw [ok]
  clear_value rate a
  obtain ⟨shown, only1, -⟩ := a.populated_spec p small ha
  generalize a.populated p rate c = b at *
  obtain ⟨only2, floors, lost⟩ := b.dimmsSeen_spec p t
  have shown := shown.keeps floors (by decide)
  generalize b.dimmsSeen p t = d at *
  have fewer : (presentRanks c).length ≤ 4 := presentRanks_length c
  have kept : (List.range (n - spares)).filter (fun k => d.flash.lostLayers.contains (p * 4 + k)) = [] := by
    rw [List.filter_eq_nil_iff]
    intro k hk out
    have k4 : k < 4 := by
      have := List.mem_range.mp hk
      have : n = (presentRanks c).length := rfl
      omega
    have was := lost _ (List.contains_iff_mem.mp out)
    rw [only1 .flash (by decide), log.only .flash (by decide)] at was
    have free := hl k k4
    unfold Part.layerLost at free
    simp [was] at free
  have counted : (d.layersCounted p (n - spares)).od .dramLayers p = n - spares := by
    unfold Part.layersCounted
    rw [kept]
    refine Part.od_setOd_val _ _ _ _ (Nat.lt_of_le_of_lt (m := 4) ?_ (by decide))
    show n - spares - 0 ≤ 4
    omega
  have layers : Part.keepsOd [.dramLayers] d (d.layersCounted p (n - spares)) := (Part.keepsOd_refl _ _).setOd _ _ _ (by decide)
  have boot3 : (d.layersCounted p (n - spares)).boot = d.boot := rfl
  have shown := shown.keeps layers (by decide)
  generalize d.layersCounted p (n - spares) = e at *
  have same : ∀ x ∈ t.chans, presentRanks x = presentRanks c := fun x hx => (trainUniform_ranks hu hc hx).1
  obtain ⟨ready, trained, boot4⟩ := e.chansTrained_spec (spares := spares) hp h8 same (fun x hx r hr => ho x hx r (same x hx ▸ hr)) fun r => presentRanks_lt
  have shown := shown.keeps trained (by decide)
  have layers4 := (trained.od_eq (e := .dramLayers) (by decide) p).trans counted
  generalize e.chansTrained p spares true t = f at *
  have boot : f.boot = s.boot := by
    rw [boot4, boot3, only2 .boot (by decide), only1 .boot (by decide), log.only .boot (by decide)]
  have whole : PavTrained p spares rate c f := ⟨shown, layers4, ready⟩
  exact ⟨whole.keeps (l := []) (fun _ _ _ _ => rfl) (by decide), congrArg (fun b : BootState => b.trained ++ [p]) boot⟩

theorem exec_dramTrainingDone_runs {s : State} {p : Pav} (t : TrainResult) (h : s.part.bootDram p = true) (hn : ¬ p.val ∈ s.part.boot.trained) :
    exec (.dramTrainingDone p t) s = .next (s.withPart (s.part.trained p t)) := by
  rw [exec_dramTrainingDone, execDramTrainingDone, State.run_eq, if_neg (by simp [h, hn])]

/-- A uniform population without a failed rank (spec/06 R223 to R226, R247). -/
theorem trainingDone_uniform {s : State} {p : Pav} {t : TrainResult} {c : ChanTraining} (h : s.part.bootDram p = true)
    (hn : ¬ p.val ∈ s.part.boot.trained) (hu : trainUniform t = true) (h8 : t.chans.length = 8) (hc : t.chans.head? = some c)
    (ha : trainAccepted c = true) (hl : ∀ k < 4, s.part.layerLost p k = false)
    (ho : ∀ d ∈ t.chans, ∀ r ∈ presentRanks c, ∃ q, d.ranks[r]? = some q ∧
      (rankOutcome (if r / 2 = 0 then d.spdOk0 else d.spdOk1) (if r / 2 = 0 then d.rcdOk0 else d.rcdOk1) q).failed = 0)
    (hr : trainRate (s.part.od .dramSpeedLimit p) t.rate c.dimms ≠ 0) {spares : Nat}
    (hs : spares = if s.part.od .dramSpareMode p = 1 ∧ 2 ≤ (presentRanks c).length then 1 else 0) :
    ∃ q : Part, exec (.dramTrainingDone p t) s = .next (s.withPart q) ∧ q.boot.trained = s.part.boot.trained ++ [p.val] ∧
      PavTrained p spares (trainRate (s.part.od .dramSpeedLimit p) t.rate c.dimms) c q := by
  have outcomes : ∀ d ∈ t.chans, ∀ r ∈ presentRanks c, (trainOutcome true d r).failed = 0 := fun d hd r hr => by
    obtain ⟨q, hq, good⟩ := ho d hd r hr
    unfold trainOutcome
    rw [List.getD_eq_getElem?_getD, hq, Option.getD_some, Bool.true_and]
    exact good
  obtain ⟨trained, noted⟩ := s.part.trainedWell_spec (spares := spares) p.isLt hu h8 hc ha hl outcomes hr
  have some : (s.part.trainedWell p t c spares).od .dramLayers p ≠ 0 := by
    have pos := presentRanks_pos ha (trainUniform_ranks hu hc (List.mem_of_mem_head? hc)).2
    rw [trained.layers, hs]
    split <;> omega
  have run := exec_dramTrainingDone_runs t h hn
  rw [s.part.trained_uniform p hu h8 hc hs, if_neg some] at run
  obtain ⟨dict, keeps⟩ := (s.part.trainedWell p t c spares).bootProgress_keeps
  exact ⟨_, run, (congrArg BootState.trained (dict .boot (by decide))).trans noted, trained.keeps keeps (by decide)⟩

/-! ## A population that is not uniform -/

/-- A pavilion that leaves the boot is FAILED, or RETIRED at once, with cause BOOT_FAILURE (spec/16 R577). -/
theorem Part.bootFailed_spec {s : Part} {p : Nat} (hp : p < 8) (h0 : p ≠ 0) (h4 : s.pstate p < 4) (hr : s.rest.step = none) :
    (s.bootFailed p).od .pavilionState p ∈ [4, 5] ∧ (s.bootFailed p).od .pavilionCause p = 4 := by
  obtain ⟨-, -, state, cause, -⟩ := s.failPavilion_spec (cause := 4) hp (by decide) h4 hr
  have eq : s.bootFailed p = (s.failPavilion p 4).nextRamp.bootProgress := by rw [Part.bootFailed, if_neg h0]
  rw [eq]
  generalize s.failPavilion p 4 = t at *
  have ramp := t.nextRamp_keeps.2
  have boot := t.nextRamp.bootProgress_keeps.2
  rw [boot.od_eq (by decide) p, ramp.od_eq (by decide) p, boot.od_eq (by decide) p, ramp.od_eq (by decide) p]
  have failed : t.od .pavilionState p ∈ [4, 5] := by rcases state with h | ⟨-, h⟩ <;> rw [h] <;> decide
  exact ⟨failed, cause⟩

theorem trainingDone_mixed {s : State} {p : Pav} {t : TrainResult} (h : s.part.bootDram p = true) (h0 : p.val ≠ 0) (hr : s.part.rest.step = none)
    (hn : ¬ p.val ∈ s.part.boot.trained) (hu : trainUniform t = false) :
    ∃ q : Part, exec (.dramTrainingDone p t) s = .next (s.withPart q) ∧ q.od .pavilionState p ∈ [4, 5] ∧ q.od .pavilionCause p = 4 := by
  have run := exec_dramTrainingDone_runs t h hn
  have starting : s.part.od .pavilionState p = 0 := by
    unfold Part.bootDram at h
    simp only [Bool.and_eq_true] at h
    obtain ⟨⟨⟨⟨⟨state, -⟩, -⟩, -⟩, -⟩, -⟩ := h
    exact beq_iff_eq.mp state
  have eq : s.part.trained p t = (s.part.logEv 0x0F09 p 0 none p).bootFailed p := if_pos (by simp [hu])
  rw [eq] at run
  have up : (s.part.logEv 0x0F09 p 0 none p).pstate p < 4 := by
    rw [Part.pstate, Part.logEv_od _ _ _ _ _ _ (by decide) (Nat.lt_trans p.isLt (by decide)), starting]
    decide
  have still : (s.part.logEv 0x0F09 p 0 none p).rest.step = none := by rw [Part.logEv_rest, hr]
  generalize s.part.logEv 0x0F09 p 0 none p = t at *
  exact ⟨_, run, Part.bootFailed_spec p.isLt h0 up still⟩

end Sys2Proof.Machine
end

section
/-!
O59, after training: hard repair, the first fill, and memory active (spec/05 R214, R215, spec/15 R560, spec/16 R574, R577).
-/

namespace Sys2Proof.Machine

/-! ## Hard repair -/

/-- The listed rows of a pavilion. -/
def Part.listedRows (s : Part) (p : Nat) : List WeakRow := s.flash.weakRows.filter fun r => r.chan / 8 == p

/-- The listed rows that are repaired. -/
def Part.rowsDone (s : Part) (p : Nat) (failed : List Nat) : List WeakRow :=
  ((s.listedRows p).zipIdx.filter fun q => !failed.contains q.2).map (·.1)

/-- A repaired row leaves the list, its resources used (spec/15 R560). -/
def Part.rowRepaired (s : Part) (p : Nat) (used : WeakRow → Nat) (r : WeakRow) : Part :=
  let s : Part := { s with flash := { s.flash with
    weakRows := s.flash.weakRows.filter (· != r), ppr := s.flash.ppr.modify 0 r.chan (· + used r) } }
  (s.modOd .rowsRepaired p (· + 1)).ladder 1

/-- The pavilion's listed rows are behind it. -/
def Part.noteRepaired (s : Part) (p : Nat) : Part := { s with boot := { s.boot with repaired := s.boot.repaired ++ [p] } }

theorem exec_hardRepair_eq (p : Pav) (failed : List Nat) (s : State) : ∃ used, exec (.hardRepair p failed) s = .next (s.withPart
    (if !s.part.bootDram p || !s.part.boot.trained.contains p.val || s.part.boot.repaired.contains p.val || s.part.boot.filled.contains p.val then s.part
     else ((iter (s.part.rowsDone p failed) s.part fun s r => s.rowRepaired p used r).noteRepaired p).writeWear.bootProgress)) := by
  refine ⟨fun r => if bit r.devices 31 then (if (s.part.geom p).x8 then 5 else 10) else popCount 20 r.devices, ?_⟩
  unfold Part.rowsDone Part.listedRows Part.rowRepaired
  rfl

theorem Part.rowsRepaired_spec (p : Nat) (used : WeakRow → Nat) (l : List WeakRow) (s : Part) :
    Part.only [.dict, .flash] s (iter l s fun s r => s.rowRepaired p used r) ∧
    ∀ r, r ∈ (iter l s fun s r => s.rowRepaired p used r).flash.weakRows ↔ r ∈ s.flash.weakRows ∧ r ∉ l := by
  refine ⟨Part.only_iter (fun t r => ((((Part.only_refl _ _).next (t.only_flash _) (by decide)).next (Part.only_setOd _ _ _ _) (by decide)).next (Part.only_setOd _ _ _ _) (by decide))) _ _, ?_⟩
  induction l generalizing s with
  | nil => simp [iter]
  | cons x l ih =>
    intro r
    refine (ih (s.rowRepaired p used x) r).trans ?_
    show r ∈ s.flash.weakRows.filter (· != x) ∧ _ ↔ _
    simp only [List.mem_filter, bne_iff_ne, List.mem_cons, not_or]
    tauto

theorem Part.mem_rowsDone (s : Part) (p : Nat) (failed : List Nat) (r : WeakRow) :
    r ∈ s.rowsDone p failed ↔ ∃ k, ¬ k ∈ failed ∧ (s.listedRows p)[k]? = some r := by
  unfold Part.rowsDone
  simp only [List.mem_map, List.mem_filter, Bool.not_eq_true', List.contains_eq_mem, decide_eq_false_iff_not]
  constructor
  · rintro ⟨⟨w, k⟩, ⟨hm, hk⟩, rfl⟩
    exact ⟨k, hk, List.mem_zipIdx_iff_getElem?.mp hm⟩
  · rintro ⟨k, hk, hr⟩
    exact ⟨(r, k), ⟨List.mem_zipIdx_iff_getElem?.mpr hr, hk⟩, rfl⟩

/-- Writing the wear record leaves the lists that stand in flash at once (spec/15 R550). -/
theorem Part.writeWear_lists (s : Part) : s.writeWear.flash.weakRows = s.flash.weakRows ∧ Part.only [.flash] s s.writeWear := ⟨rfl, s.only_flash _⟩

theorem hardRepair_spec {s : State} {p : Pav} (h : s.part.bootDram p = true) (ht : p.val ∈ s.part.boot.trained) (hf : ¬ p.val ∈ s.part.boot.filled)
    (hr : ¬ p.val ∈ s.part.boot.repaired) (failed : List Nat) : ∃ q : Part, exec (.hardRepair p failed) s = .next (s.withPart q) ∧
      q.boot.repaired = s.part.boot.repaired ++ [p.val] ∧
      ∀ r, r ∈ q.flash.weakRows ↔ r ∈ s.part.flash.weakRows ∧ ¬ ∃ k, ¬ k ∈ failed ∧ (s.part.listedRows p)[k]? = some r := by
  obtain ⟨used, run⟩ := exec_hardRepair_eq p failed s
  rw [if_neg (by simp [h, ht, hf, hr])] at run
  obtain ⟨only, rows⟩ := Part.rowsRepaired_spec p used (s.part.rowsDone p failed) s.part
  generalize iter (s.part.rowsDone p failed) s.part (fun s r => s.rowRepaired p used r) = t at *
  obtain ⟨lists, flash⟩ := (t.noteRepaired p).writeWear_lists
  have dict := (t.noteRepaired p).writeWear.bootProgress_keeps.1
  refine ⟨_, run, ?_, fun r => ?_⟩
  · rw [dict .boot (by decide), flash .boot (by decide)]
    exact congrArg (fun b : BootState => b.repaired ++ [p.val]) (only .boot (by decide))
  · rw [dict .flash (by decide), lists]
    exact (rows r).trans (and_congr_right fun _ => not_congr (s.part.mem_rowsDone p failed r))

/-! ## The first fill -/

/-- A pavilion's memory without data, nothing but pavilions changed (spec/05 R214). -/
structure Refilled (p : Nat) (s t : Part) : Prop where
  dram : (t.pav p).dram = []
  tags : (t.pav p).tags = []
  cellar : (t.pav p).cellar = []
  only : Part.only [.pavs] s t

theorem Refilled.onPav {p : Nat} {s t : Part} (h : Refilled p s t) {f : PavState → PavState}
    (hf : ∀ v, (f v).dram = v.dram ∧ (f v).tags = v.tags ∧ (f v).cellar = v.cellar) : Refilled p s (t.onPav p f) := by
  obtain ⟨dram, tags, cellar⟩ := hf (t.pav p)
  refine ⟨?_, ?_, ?_, h.only.next (t.only_onPav _ _) (by decide)⟩ <;> rw [Part.onPav_pav_self]
  · exact dram.trans h.dram
  · exact tags.trans h.tags
  · exact cellar.trans h.cellar

theorem Refilled.setOwns {p : Nat} {s t : Part} (h : Refilled p s t) (f : Nat → Own) (l : List Nat) :
    Refilled p s (iter l t fun s e => s.setOwn p e (f e)) := by
  induction l generalizing t with
  | nil => exact h
  | cons e l ih => exact ih (h.onPav fun _ => ⟨rfl, rfl, rfl⟩)

theorem Part.fillOwnership_refilled (s : Part) (p : Nat) : Refilled p s (s.fillOwnership p) := by
  unfold Part.fillOwnership
  extract_lets le zero emptied table free owned cap sized weak spare retired capped spares
  have hemptied : Refilled p s emptied := ⟨congrArg PavState.dram (s.onPav_pav_self p _), congrArg PavState.tags (s.onPav_pav_self p _),
    congrArg PavState.cellar (s.onPav_pav_self p _), s.only_onPav _ _⟩
  have hsized : Refilled p s sized := (hemptied.setOwns (fun _ => { free with kind := kindSystem }) table).onPav fun _ => ⟨rfl, rfl, rfl⟩
  have hcapped : Refilled p s capped := (hsized.setOwns (fun _ => { free with kind := kindRetired }) weak).onPav fun _ => ⟨rfl, rfl, rfl⟩
  exact (hcapped.setOwns (fun _ => { free with kind := kindSpare }) _).setOwns (fun _ => { free with kind := kindSystem }) _

/-- A rank that training left ready serves: one without a layer is a spare (spec/06 R260). -/
def Part.rankServes (s : Part) (p k : Nat) : Part :=
  if s.od .rankState (p * 32 + k) != 1 then s
  else s.setOd .rankState (p * 32 + k) (if s.od .rankLayer (p * 32 + k) = 0xFF then 3 else 2)

/-- The ranks of a pavilion serve. -/
def Part.ranksServe (s : Part) (p : Nat) (l : List Nat) : Part := iter l s fun s k => s.rankServes p k

/-- The channels of a pavilion serve. -/
def Part.chansServe (s : Part) (p : Nat) : Part := iter (List.range 8) s fun s k => s.setOd .channelState (p * 8 + k) 2

/-- The fill is behind a pavilion (spec/05 R215). -/
def Part.fillNoted (s : Part) (p : Nat) : Part :=
  let start := bits (s.od0 .bootStageTimes) 288 32
  let took := (s.now - s.boot.bootStart) / nsPerMs - start
  let s := (((s.setOd .fillState p 2).setOd .fillProgress p 100).setOd .fillLastKind 0 1).setOd .fillLastDuration 0 took
  { s with boot := { s.boot with filled := s.boot.filled ++ [p] } }

/-- A fill without an error. -/
theorem exec_firstFillDone_clean {s : State} {p : Pav} (h : s.part.bootDram p = true) (ht : p.val ∈ s.part.boot.trained)
    (hf : ¬ p.val ∈ s.part.boot.filled) (hl : s.part.od .dramLayers p ≠ 0) : exec (.firstFillDone p []) s = .next (s.withPart
      ((((s.part.fillOwnership p).ranksServe p (List.range 32)).chansServe p).fillNoted p).bootProgress) := by
  rw [exec_firstFillDone, execFirstFillDone, State.run_eq, if_neg (by simp [h, ht, hf])]
  extract_lets bad failed lost owned served chans start took noted boot last
  have hlost : lost = s.part := rfl
  have hserved : served = owned.ranksServe p (List.range 32) := rfl
  have hchans : chans = served.chansServe p := rfl
  have hlast : last = chans.fillNoted p := rfl
  have howned : owned = lost.fillOwnership p := rfl
  clear_value lost owned served chans last
  rw [hlast, hchans, hserved, howned, hlost, if_neg hl]

theorem Part.rankServes_spec (s : Part) (p k : Nat) : Part.only [.dict] s (s.rankServes p k) ∧ Part.keepsOd [.rankState] s (s.rankServes p k) :=
  ⟨Part.only_ite (Part.only_refl _ _) (Part.only_setOd _ _ _ _), Part.keepsOd_ite (Part.keepsOd_refl _ _) ((Part.keepsOd_refl _ _).setOd _ _ _ (by decide))⟩

theorem Part.rankServes_other (s : Part) {p j k : Nat} (hp : p < 8) (hj : j < 32) (hk : k < 32) (h : j ≠ k) :
    (s.rankServes p j).od .rankState (p * 32 + k) = s.od .rankState (p * 32 + k) := by
  unfold Part.rankServes
  split
  · rfl
  · rw [Part.od_setOd _ _ _ _ _ _ (by omega) (by omega), if_neg (by omega)]

theorem Part.rankServes_self {s : Part} {p k : Nat} (h : s.od .rankState (p * 32 + k) = 1) :
    (s.rankServes p k).od .rankState (p * 32 + k) = if s.od .rankLayer (p * 32 + k) = 0xFF then 3 else 2 := by
  rw [Part.rankServes, if_neg (by simp [h])]
  exact Part.od_setOd_val _ _ _ _ (by split <;> decide)

theorem Part.ranksServe_rest {p k : Nat} (hp : p < 8) (hk : k < 32) (l : List Nat) (hl : ∀ j ∈ l, j < 32) (hn : k ∉ l) (s : Part) :
    (s.ranksServe p l).od .rankState (p * 32 + k) = s.od .rankState (p * 32 + k) := by
  induction l generalizing s with
  | nil => rfl
  | cons j l ih =>
    obtain ⟨ne, hn⟩ := not_or.mp (List.mem_cons.not.mp hn)
    exact (ih (fun i hi => hl i (List.mem_cons_of_mem _ hi)) hn _).trans (s.rankServes_other hp (hl j List.mem_cons_self) hk (Ne.symm ne))

theorem Part.ranksServe_frame (p : Nat) (l : List Nat) (s : Part) : Part.only [.dict] s (s.ranksServe p l) ∧ Part.keepsOd [.rankState] s (s.ranksServe p l) :=
  ⟨Part.only_iter (fun t j => (t.rankServes_spec p j).1) _ _, Part.keepsOd_iter _ _ fun t j _ => (t.rankServes_spec p j).2⟩

/-- Each rank that was ready serves, and the state of its layer is as it was. -/
theorem Part.ranksServe_od {p k : Nat} (hp : p < 8) (hk : k < 32) (l : List Nat) (hl : ∀ j ∈ l, j < 32) (hd : l.Nodup) (hm : k ∈ l) (s : Part)
    (h : s.od .rankState (p * 32 + k) = 1) :
    (s.ranksServe p l).od .rankState (p * 32 + k) = if s.od .rankLayer (p * 32 + k) = 0xFF then 3 else 2 := by
  induction l generalizing s with
  | nil => cases hm
  | cons j l ih =>
    have hj := hl j List.mem_cons_self
    have hl' : ∀ j ∈ l, j < 32 := fun i hi => hl i (List.mem_cons_of_mem _ hi)
    obtain ⟨hjl, hd⟩ := List.nodup_cons.mp hd
    by_cases e : j = k
    · subst e
      exact (Part.ranksServe_rest hp hk l hl' hjl _).trans (Part.rankServes_self h)
    · have layer := (s.rankServes_spec p j).2.od_eq (by decide) (p * 32 + k) (e := .rankLayer)
      rw [← layer]
      exact ih hl' hd ((List.mem_cons.mp hm).resolve_left (Ne.symm e)) _ ((s.rankServes_other hp hj hk e).trans h)

theorem Part.chansServe_spec (s : Part) {p : Nat} (hp : p < 8) : Part.only [.dict] s (s.chansServe p) ∧ Part.keepsOd [.channelState] s (s.chansServe p) ∧
    ∀ k < 8, (s.chansServe p).od .channelState (p * 8 + k) = 2 := by
  refine ⟨Part.only_iter (fun t k => t.only_setOd _ _ _) _ _, Part.keepsOd_iter _ _ fun t k _ => (Part.keepsOd_refl _ _).setOd _ _ _ (by decide), fun k hk => ?_⟩
  refine iter_each (Good := fun k s => s.od .channelState (p * 8 + k) = 2) (List.range 8) (fun j _ t => Part.od_setOd_val _ _ _ _ (by decide))
    (fun j hj b hb ne t good => ?_) s k (List.mem_range.mpr hk)
  have hj := List.mem_range.mp hj
  have hb := List.mem_range.mp hb
  rw [Part.od_setOd _ _ _ _ _ _ (by omega) (by omega), if_neg (by omega)]
  exact good

theorem Part.fillNoted_spec (s : Part) (p : Nat) : (s.fillNoted p).od .fillState p = 2 ∧ (s.fillNoted p).od .fillProgress p = 100 ∧
    (s.fillNoted p).boot.filled = s.boot.filled ++ [p] ∧ Part.only [.dict, .boot] s (s.fillNoted p) ∧
    Part.keepsOd [.fillState, .fillProgress, .fillLastKind, .fillLastDuration] s (s.fillNoted p) := by
  unfold Part.fillNoted
  extract_lets start took t
  have state : t.od .fillState p = 2 := by
    rw [Part.od_setOd_ne _ _ _ _ (by decide), Part.od_setOd_ne _ _ _ _ (by decide), Part.od_setOd_ne _ _ _ _ (by decide),
      Part.od_setOd_val _ _ _ _ (by decide)]
  have progress : t.od .fillProgress p = 100 := by
    rw [Part.od_setOd_ne _ _ _ _ (by decide), Part.od_setOd_ne _ _ _ _ (by decide), Part.od_setOd_val _ _ _ _ (by decide)]
  have dict : Part.only [.dict] s t := ((((Part.only_refl _ _).next (Part.only_setOd _ _ _ _) (by decide)).next (Part.only_setOd _ _ _ _) (by decide)).next
    (Part.only_setOd _ _ _ _) (by decide)).next (Part.only_setOd _ _ _ _) (by decide)
  have keeps : Part.keepsOd [.fillState, .fillProgress, .fillLastKind, .fillLastDuration] s t :=
    ((((Part.keepsOd_refl _ _).setOd _ _ _ (by decide)).setOd _ _ _ (by decide)).setOd _ _ _ (by decide)).setOd _ _ _ (by decide)
  clear_value t
  exact ⟨state, progress, congrArg (fun b : BootState => b.filled ++ [p]) (dict .boot (by decide)),
    (Part.only_mono dict (by decide)).next (Part.only_boot _ _) (by decide), keeps.same (Part.only_boot _ _) (by decide)⟩

/-- The first fill leaves zero data, and puts ranks and channels in service (spec/05 R214, R215, spec/06 R260). -/
theorem firstFill_spec {s : State} {p : Pav} (h : s.part.bootDram p = true) (ht : p.val ∈ s.part.boot.trained)
    (hf : ¬ p.val ∈ s.part.boot.filled) (hl : s.part.od .dramLayers p ≠ 0) :
    ∃ q : Part, exec (.firstFillDone p []) s = .next (s.withPart q) ∧ q.od .fillState p = 2 ∧ q.od .fillProgress p = 100 ∧
      q.boot.filled = s.part.boot.filled ++ [p.val] ∧ (q.pav p).dram = [] ∧ (q.pav p).tags = [] ∧ (q.pav p).cellar = [] ∧
      ∀ k < 8, q.od .channelState (p * 8 + k) = 2 ∧ ∀ r < 4, s.part.od .rankState ((p * 8 + k) * 4 + r) = 1 →
        q.od .rankState ((p * 8 + k) * 4 + r) = if s.part.od .rankLayer ((p * 8 + k) * 4 + r) = 0xFF then 3 else 2 := by
  refine ⟨_, exec_firstFillDone_clean h ht hf hl, ?_⟩
  obtain ⟨dram, tags, cellar, pavs⟩ := s.part.fillOwnership_refilled p
  generalize s.part.fillOwnership p = a at *
  obtain ⟨dict1, keeps1⟩ := a.ranksServe_frame p (List.range 32)
  have states : ∀ k < 32, a.od .rankState (p * 32 + k) = 1 → (a.ranksServe p (List.range 32)).od .rankState (p * 32 + k) =
      if a.od .rankLayer (p * 32 + k) = 0xFF then 3 else 2 := fun k hk =>
    a.ranksServe_od p.isLt hk _ (fun j => List.mem_range.mp) List.nodup_range (List.mem_range.mpr hk)
  generalize a.ranksServe p (List.range 32) = b at *
  obtain ⟨dict2, keeps2, serve⟩ := b.chansServe_spec p.isLt
  generalize b.chansServe p = c at *
  obtain ⟨fill, progress, filled, dict3, keeps3⟩ := c.fillNoted_spec p
  generalize c.fillNoted p = d at *
  obtain ⟨dict4, keeps4⟩ := d.bootProgress_keeps
  have boot : c.boot = s.part.boot := by rw [dict2 .boot (by decide), dict1 .boot (by decide), pavs .boot (by decide)]
  have pav : d.bootProgress.pav p = a.pav p := by
    unfold Part.pav
    rw [dict4 .pavs (by decide), dict3 .pavs (by decide), dict2 .pavs (by decide), dict1 .pavs (by decide)]
  have od : ∀ e i, a.od e i = s.part.od e i := fun e i => Part.od_congr (pavs .dict (by decide)) e i
  refine ⟨(keeps4.od_eq (by decide) p).trans fill, (keeps4.od_eq (by decide) p).trans progress, ?_, by rw [pav, dram], by rw [pav, tags],
    by rw [pav, cellar], fun k hk => ⟨?_, fun r hr h1 => ?_⟩⟩
  · rw [dict4 .boot (by decide), filled, boot]
  · rw [keeps4.od_eq (by decide) _, keeps3.od_eq (by decide) _, serve k hk]
  · have key : (p.val * 8 + k) * 4 + r = p.val * 32 + (k * 4 + r) := by omega
    rw [key] at h1 ⊢
    rw [keeps4.od_eq (by decide) _, keeps3.od_eq (by decide) _, keeps2.od_eq (by decide) _, states _ (by omega) ((od _ _).trans h1), od]

/-! ## Memory active -/

/-- What a vintage's swap may change of the store, in a pavilion and in force everywhere, where nobody waits for the compile. -/
def frameEntries : List Entry := [.classesActive, .vintageNumber, .vintageDigest]

theorem Part.only_putVint (s : Part) (t : VintState) : Part.only [.vint] s (s.putVint t) := fun f hf => by
  cases f <;> first | rfl | simp at hf

theorem Part.frameSwapped_keeps (s : Part) (p : Nat) (v : Vintage) : Part.keepsOd frameEntries s (s.frameSwapped p v) := by
  obtain ⟨-, -, tables⟩ := s.swapTables_spec p v
  have loaded : Part.keepsOd frameEntries s (s.frameLoaded p v) := by
    unfold Part.frameLoaded
    extract_lets t u
    have tables : Part.only [.vint] s t := tables
    have tokens : Part.only [.pavs] t u := t.only_onPav p _
    have plan := (u.swapPlan_spec p v).1
    clear_value t u
    exact ((((Part.keepsOd_refl _ _).same tables (by decide)).same tokens (by decide)).same plan (by decide)).setOd _ _ _ (by decide)
  unfold Part.frameSwapped
  generalize s.frameLoaded p v = t at *
  have counted : Part.only [.delta] t (t.carryCounted p) := Part.only_ite (Part.only_refl _ _) (t.only_count _ _ _)
  exact (loaded.same counted (by decide)).same (Part.only_putVint _ _) (by decide)

/-- With no compile running nobody is answered when a vintage is in force. -/
theorem Part.vintageInForce_unasked {s : Part} (h : s.vint.running = none) : s.vintageInForce = s.vintageNamed := by
  unfold Part.vintageInForce
  simp only [h, Part.count_vint, Part.setOd_vint]
  rfl

/-- A swap of a pavilion's part, where no compile runs: no state of a pavilion changes (spec/07 R295). -/
theorem Part.swapFrame_unasked (s : Part) (p : Nat) (h : s.vint.running = none) :
    (s.swapFrame p).vint.running = none ∧ Part.keepsOd frameEntries s (s.swapFrame p) := by
  cases hv : s.vint.shadow with
  | none =>
    have eq : s.swapFrame p = s := by
      unfold Part.swapFrame
      rw [hv]
    rw [eq]
    exact ⟨h, Part.keepsOd_refl _ _⟩
  | some v =>
    rw [Part.swapFrame_eq hv]
    obtain ⟨-, ⟨r, t, tables⟩, -⟩ := s.swapTables_spec p v
    obtain ⟨vint, -, -, -⟩ := s.frameSwapped_spec p v
    have running : (s.frameSwapped p v).vint.running = none := by
      rw [vint, tables]
      exact h
    have keeps := s.frameSwapped_keeps p v
    generalize s.frameSwapped p v = u at *
    unfold Part.swapChecked
    split
    · rw [Part.vintageInForce_unasked running]
      have named : Part.keepsOd frameEntries u u.vintageNamed :=
        Part.keepsOd_trans (Part.keepsOd_setAny u _ _ (by decide)) (Part.keepsOd_setAny _ _ _ (by decide))
      exact ⟨rfl, keeps.next named (by decide)⟩
    · exact ⟨running, keeps⟩

/-- The first vintage changes no state of a pavilion. -/
theorem Part.firstVintage_keeps (s : Part) : Part.keepsOd frameEntries s s.firstVintage := by
  unfold Part.firstVintage
  split
  · next v =>
    have swaps : ∀ (l : List Nat) (t : Part), t.vint.running = none → Part.keepsOd frameEntries t (iter l t Part.swapFrame) := by
      intro l
      induction l with
      | nil => exact fun t _ => Part.keepsOd_refl _ _
      | cons p l ih =>
        intro t ht
        obtain ⟨running, keeps⟩ := t.swapFrame_unasked p ht
        exact keeps.next (ih _ running) (by decide)
    exact Part.keepsOd_trans (Part.keepsOd_of_only (fs := [.vint]) (fun f hf => by cases f <;> first | rfl | simp at hf) (by decide)) (swaps _ _ rfl)
  · exact Part.keepsOd_refl _ _

/-- The pavilions that start are in RUN (spec/16 R577). -/
def Part.pavsActive (s : Part) (l : List Nat) : Part := iter l s fun s p => (s.setOd .pavilionState p 1).setOd .pavilionPowerState p 0

/-- How long the boot took. -/
def Part.bootTook (s : Part) : Nat := (s.now - s.boot.bootStart) / nsPerMs

/-- Memory is active, with the boot's duration (spec/16 R574). -/
def Part.memoryActive (s : Part) : Part :=
  let s : Part := ((s.setOd .bootState 0 13).setOd .bootLastDuration 0 s.bootTook).setOd .packagePowerState 0 1
  { s with boot := { s.boot with active := true } }

theorem exec_bootMemoryActive_eq (s : State) : exec .bootMemoryActive s = .next (s.withPart
    (if !s.part.booting 11 || !(s.part.startingPavs.all s.part.boot.filled.contains) then s.part
     else if s.part.startingPavs.length < 2 then s.part.failPart 2
     else (((((s.part.pavsActive s.part.startingPavs).firstVintage.stageTime 11).stageTime 12).stageTime 5).memoryActive).logEv 0x1904
       (((s.part.pavsActive s.part.startingPavs).firstVintage.stageTime 11).stageTime 12 |>.stageTime 5).bootTook 0)) := rfl

theorem Part.pavsActive_other (l : List Nat) (hl : ∀ p ∈ l, p < 8) {k : Nat} (hk : k < 8) (s : Part) :
    (s.pavsActive l).od .pavilionState k = if k ∈ l then 1 else s.od .pavilionState k := by
  induction l generalizing s with
  | nil => simp [Part.pavsActive, iter]
  | cons j l ih =>
    have hj := hl j List.mem_cons_self
    refine (ih (fun p hp => hl p (List.mem_cons_of_mem _ hp)) _).trans ?_
    rw [Part.od_setOd_ne _ _ _ _ (by decide), Part.od_setOd _ _ _ _ _ _ (by omega) (by omega)]
    by_cases h : k ∈ l
    · simp [h]
    · by_cases e : j = k
      · subst e
        rw [if_neg h, if_pos ⟨rfl, rfl⟩, if_pos List.mem_cons_self]
        rfl
      · rw [if_neg h, if_neg (by simp [e]), if_neg (by simp [h, Ne.symm e])]

theorem Part.memoryActive_spec (s : Part) : s.memoryActive.od .bootState 0 = 13 ∧ s.memoryActive.od .packagePowerState 0 = 1 ∧
    s.memoryActive.boot.active = true ∧ Part.keepsOd [.bootState, .bootLastDuration, .packagePowerState] s s.memoryActive := by
  unfold Part.memoryActive
  extract_lets t
  have state : t.od .bootState 0 = 13 := by
    rw [Part.od_setOd_ne _ _ _ _ (by decide), Part.od_setOd_ne _ _ _ _ (by decide), Part.od_setOd_val _ _ _ _ (by decide)]
  have package : t.od .packagePowerState 0 = 1 := Part.od_setOd_val _ _ _ _ (by decide)
  have keeps : Part.keepsOd [.bootState, .bootLastDuration, .packagePowerState] s t :=
    (((Part.keepsOd_refl _ _).setOd _ _ _ (by decide)).setOd _ _ _ (by decide)).setOd _ _ _ (by decide)
  clear_value t
  exact ⟨state, package, rfl, keeps.same (Part.only_boot _ _) (by decide)⟩

theorem Part.startingPavs_lt {s : Part} {p : Nat} (h : p ∈ s.startingPavs) : p < 8 := List.mem_range.mp (List.mem_filter.mp h).1

/-- Memory active with enough pavilions, or a part that fails (spec/16 R574, R577). -/
theorem memoryActive_spec {s : State} (hb : s.part.booting 11 = true) (hf : ∀ p ∈ s.part.startingPavs, p ∈ s.part.boot.filled) :
    (2 ≤ s.part.startingPavs.length → ∃ q : Part, exec .bootMemoryActive s = .next (s.withPart q) ∧ q.od .bootState 0 = 13 ∧
      q.od .packagePowerState 0 = 1 ∧ q.boot.active = true ∧ ∀ p ∈ s.part.startingPavs, q.od .pavilionState p = 1) ∧
    (s.part.startingPavs.length < 2 → s.part.od .partFailed 0 = 0 → ∃ q : Part, exec .bootMemoryActive s = .next (s.withPart q) ∧
      q.od .partFailed 0 = 1 ∧ q.od .partFailCause 0 = 2) := by
  have run := exec_bootMemoryActive_eq s
  rw [if_neg (by simp only [hb, Bool.not_true, Bool.false_or, Bool.not_eq_true', Bool.not_eq_false, List.all_eq_true]
                 exact fun p hp => List.contains_iff_mem.mpr (hf p hp))] at run
  refine ⟨fun h2 => ?_, fun h2 whole => ?_⟩
  · rw [if_neg (by omega)] at run
    have active : ∀ p ∈ s.part.startingPavs, (s.part.pavsActive s.part.startingPavs).od .pavilionState p = 1 := fun p hp =>
      (Part.pavsActive_other _ (fun _ => Part.startingPavs_lt) (Part.startingPavs_lt hp) _).trans (if_pos hp)
    generalize s.part.pavsActive s.part.startingPavs = a at *
    have vintage := a.firstVintage_keeps
    generalize a.firstVintage = b at *
    have times : Part.keepsOd [.bootStageTimes] b (((b.stageTime 11).stageTime 12).stageTime 5) :=
      (((Part.keepsOd_refl _ _).setOd _ _ _ (by decide)).setOd _ _ _ (by decide)).setOd _ _ _ (by decide)
    generalize ((b.stageTime 11).stageTime 12).stageTime 5 = c at *
    obtain ⟨state, package, on, keeps⟩ := c.memoryActive_spec
    generalize c.memoryActive = d at *
    have log := LogFrame.logEv d 0x1904 c.bootTook 0 none 0xF
    refine ⟨_, run, (log.keeps.od_eq (by decide) 0).trans state, (log.keeps.od_eq (by decide) 0).trans package, ?_, fun p hp => ?_⟩
    · rw [log.only .boot (by decide), on]
    · rw [log.keeps.od_eq (by decide) p, keeps.od_eq (by decide) p, times.od_eq (by decide) p, vintage.od_eq (by decide) p, active p hp]
  · rw [if_pos h2] at run
    obtain ⟨-, -, -, -, failed, causes⟩ := s.part.failPart_spec 2 (by decide)
    exact ⟨_, run, failed, (causes (by omega)).1⟩

/-! ## The whole course -/

/-- The wait after a loss or a miss ends in another rise of CORE_EN (spec/17 R611, R612). -/
theorem coreRetry_spec {s : State} (hw : s.part.power.coreWait = true) (hm : s.part.power.mainPG = true) (ht : s.part.power.thermtrip = true) :
    (s.part.od .bootState 0 = 3 → ∃ q : Part, exec .coreEnRetryWaitEnd s = .next (s.withPart q) ∧
      q.power = { s.part.power with coreWait := false, coreEn := true } ∧ Part.only [.power, .out] s.part q) ∧
    (s.part.od .bootState 0 ≠ 3 → s.part.power.coreFails < 3 → s.part.od .partFailed 0 ≠ 1 → s.part.boot.pav0Lost = false →
      ∃ q : Part, exec .coreEnRetryWaitEnd s = .next (s.withPart q) ∧
        q.power = { s.part.power with coreWait := false, coreEn := true } ∧ q.od .bootState 0 = 3) := by
  have run := exec_coreEnRetryWaitEnd_eq s
  rw [if_neg (by simp [hw])] at run
  refine ⟨fun h3 => ?_, fun h3 hf hn hl => ?_⟩
  · rw [if_pos (by simp only [Bool.and_eq_true, decide_eq_true_eq]; exact ⟨⟨h3, hm⟩, ht⟩)] at run
    exact ⟨_, run, Part.setCoreEn_power _ _, ((Part.only_refl _ _).next (s.part.only_power _ : Part.only _ _ s.part.coreWaited) (by decide)).next (Part.only_setCoreEn _ _) (by decide)⟩
  · rw [if_neg (by simp only [Bool.and_eq_true, decide_eq_true_eq]; exact fun h => h3 h.1.1)] at run
    obtain ⟨power, stage, -, -⟩ := Part.coreStart_spec (s := s.part.coreWaited) ⟨hm, ht, hf, hn, hl⟩
    exact ⟨_, run, power, stage⟩

/-- Settles O59: the core supply's rise, misses and loss, and the DRAM boot from training to memory active. -/
theorem dramBootAndCoreSupply : Obligations.DramBootAndCoreSupply := by
  intro s
  refine ⟨fun hb he hp => ⟨fun locked hl => ?_, ?_⟩, coreRetry_spec, fun c therm hc hp hf ht => coreLoss_spec hc hp hf ht, fun p hd => ?_,
    fun hb hf => ?_, fun sweep hs l hl => ?_⟩
  · have run := exec_corePgRise_eq locked s
    rw [if_neg (by simp [hb, he, hp])] at run
    obtain ⟨power, plls, retired, whole⟩ := s.part.coreRisen_spec (locked := locked.toNat) fun k hk => hl ⟨k, hk⟩
    exact ⟨_, run, power, fun p => plls p p.isLt, fun p => retired p p.isLt, fun h => ⟨fun n => (whole h).1 n n.isLt, (whole h).2⟩⟩
  · exact ⟨_, exec_corePgBootTimeout_missed hb he hp, s.part.coreMissed_spec⟩
  · refine ⟨fun t c hn hu h8 hc ha hl ho hr n spares hm hs => ?_, fun h0 hr _ t hn hu => trainingDone_mixed hd h0 hr hn hu,
      fun ht hf => ⟨fun failed hr => hardRepair_spec hd ht hf hr failed, firstFill_spec hd ht hf⟩⟩
    subst hm
    obtain ⟨q, run, trained, shown, layers, ready⟩ := trainingDone_uniform hd hn hu h8 hc ha hl ho hr hs
    exact ⟨q, run, trained, shown.speed, shown.dimms, shown.perDimm, shown.device, shown.stack, layers, fun k hk =>
      ⟨(ready k hk).state, (ready k hk).ranks⟩⟩
  · obtain ⟨enough, short⟩ := memoryActive_spec hb hf
    refine ⟨fun h2 => ?_, short⟩
    obtain ⟨q, run, stage, package, active, pavs⟩ := enough h2
    exact ⟨q, run, stage, package, active, fun _ => pavs⟩
  · subst hl
    exact chooseLane_best hs

end Sys2Proof.Machine
end

section
/-!
O60, the ages: running time, the samples of the monitors with the guard they raise, and the wear record (spec/15 R547 to R551).
-/

namespace Sys2Proof.Machine

/-! ## Running time -/

/-- A second older: the ages and the temperature bands (spec/15 R547). -/
def SeasonState.older (t : SeasonState) (temps : List Nat) : SeasonState := { t with
  age := allPavs.foldl (fun m p => m.modify 0 p (· + ageFactor (temps.getD p 0))) t.age
  bands := t.bands.modify 0 (tempBand (temps.foldl max 0)) (· + 1) }

/-- The part with its seasons in another state. -/
def Part.putSeason (s : Part) (t : SeasonState) : Part := { s with season := t }

theorem exec_ageIntegrate_eq (temps : List Nat) (s : State) : exec (.ageIntegrate temps) s = .next (s.withPart
    (if s.part.od0 .packagePowerState = 0 then s.part
     else ((s.part.putSeason (s.part.season.older temps)).modOd .seasonElapsed 0 (· + 1)).showAge)) := by
  rw [exec_ageIntegrate, execAgeIntegrate, State.run_eq]
  extract_lets age bands
  have older : s.part.season.older temps = { s.part.season with age := age, bands := bands } := rfl
  clear_value age bands
  rw [older]
  rfl

/-- A fold that adds to each listed key. -/
theorem Sparse.get_addEach (f : Nat → Nat) (l : List Nat) (hl : l.Nodup) (m : Sparse Nat) (k : Nat) :
    Sparse.get 0 (l.foldl (fun m p => Sparse.modify 0 m p (· + f p)) m) k = Sparse.get 0 m k + if k ∈ l then f k else 0 := by
  induction l generalizing m with
  | nil => simp
  | cons p l ih =>
    obtain ⟨hp, hl⟩ := List.nodup_cons.mp hl
    rw [List.foldl_cons, ih hl, Sparse.get_modify]
    by_cases h : p = k
    · subst h
      simp [hp]
    · simp [h, Ne.symm h]

theorem SeasonState.older_spec (t : SeasonState) (temps : List Nat) :
    (∀ p : Pav, (t.older temps).age.get 0 p = t.age.get 0 p + ageFactor (temps.getD p 0)) ∧
    ∀ b, (t.older temps).bands.get 0 b = t.bands.get 0 b + if tempBand (temps.foldl max 0) = b then 1 else 0 := by
  refine ⟨fun p => ?_, fun b => ?_⟩
  · unfold SeasonState.older
    rw [Sparse.get_addEach (fun p => ageFactor (temps.getD p 0)) allPavs List.nodup_range, if_pos (show p.val ∈ allPavs from List.mem_range.mpr p.isLt)]
  · unfold SeasonState.older
    rw [Sparse.get_modify]
    split
    · next h => rw [h]
    · rfl

/-- Running time adds to the ages, the bands and the season (spec/15 R547, R551). -/
theorem ageIntegrate_spec {s : State} (temps : List Nat) (h : s.part.od .packagePowerState 0 ≠ 0) :
    ∃ q : Part, exec (.ageIntegrate temps) s = .next (s.withPart q) ∧
      q.od .seasonElapsed 0 = (s.part.od .seasonElapsed 0 + 1) % 2 ^ 32 ∧
      (∀ p : Pav, q.season.age.get 0 p = s.part.season.age.get 0 p + ageFactor (temps.getD p 0)) ∧
      (∀ b, q.season.bands.get 0 b = s.part.season.bands.get 0 b + if tempBand (temps.foldl max 0) = b then 1 else 0) ∧
      Part.only [.dict, .season] s.part q ∧ Part.odOnly [(.seasonElapsed, 0), (.wearEquivHours, 0), (.tjHistogram, 0)] s.part q := by
  have run := (exec_ageIntegrate_eq temps s).trans (State.next_withPart (if_neg h))
  obtain ⟨ages, bands⟩ := s.part.season.older_spec temps
  have aged : (s.part.putSeason (s.part.season.older temps)).season = s.part.season.older temps := rfl
  have only : Part.only [.season] s.part (s.part.putSeason (s.part.season.older temps)) := s.part.only_season _
  generalize s.part.putSeason (s.part.season.older temps) = y at *
  have counted : Part.only [.dict] y (y.modOd .seasonElapsed 0 (· + 1)) := Part.only_setOd _ _ _ _
  have elapsed : (y.modOd .seasonElapsed 0 (· + 1)).od .seasonElapsed 0 = (s.part.od .seasonElapsed 0 + 1) % 2 ^ 32 := by
    rw [Part.modOd_eq, Part.od_setOd_self, Part.od_congr (only .dict (by decide))]
    rfl
  have od : Part.odOnly [(.seasonElapsed, 0), (.wearEquivHours, 0), (.tjHistogram, 0)] s.part (y.modOd .seasonElapsed 0 (· + 1)) :=
    ((Part.odOnly_refl _ _).same only (by decide)).setOd _ _ _ (by decide) (by decide)
  generalize y.modOd .seasonElapsed 0 (· + 1) = x at *
  obtain ⟨dict, keeps⟩ := x.showAge_keeps
  refine ⟨_, run, (keeps.od_eq (by decide) 0).trans elapsed, fun p => ?_, fun b => ?_,
    (Part.only_mono only (by decide)).next (counted.next dict (by decide)) (by decide), ?_⟩
  · rw [dict .season (by decide), counted .season (by decide), aged, ages]
  · rw [dict .season (by decide), counted .season (by decide), aged, bands]
  · exact (od.setOd _ _ _ (by decide) (by decide)).setOd _ _ _ (by decide) (by decide)

/-! ## The monitors -/

theorem exec_ringOscillatorSample_rest {s : State} (h : s.part.rest.inRest = false) (p : Pav) (drift : Int) :
    exec (.ringOscillatorSample p drift) s = .next (s.withPart (s.part.setOd .roDrift p (ofInt 32 drift))) := by
  rw [exec_ringOscillatorSample, execRingOscillatorSample, State.run_eq, if_neg (by simp [h])]

/-- The least slack of the season after a sample (spec/15 R548). -/
def Part.slackLeast (s : Part) (p : Nat) (slack : Int) : Int := match s.slackMin p with
  | some m => min m slack
  | none => slack

/-- A sample of a pavilion's path delays is kept and shown. -/
def Part.slackNoted (s : Part) (p : Nat) (slack : Int) : Part :=
  let least := s.slackLeast p slack
  (s.putSeason { s.season with slack := s.season.slack.set 0 p (ofInt 32 least + 1) }).setOd .pathSlackMin p (ofInt 32 least)

theorem exec_pathDelaySample_eq {s : State} {p : Pav} (hr : s.part.rest.inRest = false) (h4 : s.part.pstate p < 4) (slack : Int) (ack : Bool) :
    exec (.pathDelaySample p slack ack) s = .next (s.withPart
      (if slack < 0 then ((s.part.slackNoted p slack).logEv 0x1803 p (ofInt 64 slack) none p).setGuard p ((s.part.slackNoted p slack).od .vddGuard p + 10) ack
       else s.part.slackNoted p slack)) := by
  rw [exec_pathDelaySample, execPathDelaySample, State.run_eq, if_neg (by simp [hr, h4])]
  rfl

theorem Part.slackNoted_spec (s : Part) {p : Nat} (hp : p < 8) (slack : Int) :
    (s.slackNoted p slack).od .pathSlackMin p = ofInt 32 (s.slackLeast p slack) ∧ Part.only [.dict, .season] s (s.slackNoted p slack) ∧
    Part.odOnly [(.pathSlackMin, p)] s (s.slackNoted p slack) := by
  have season : ∀ t, Part.only [.season] s (s.putSeason t) := fun t => s.only_season t
  exact ⟨Part.od_setOd_val _ _ _ _ (ofInt_lt 32 _), ((Part.only_refl _ _).next (season _) (by decide)).next (Part.only_setOd _ _ _ _) (by decide),
    ((Part.odOnly_of_dict rfl).same (season _) (by decide)).setOd _ _ _ (by omega) List.mem_cons_self⟩

/-- A regulator that acknowledges takes the guard, up to the fused limit (spec/15 R549). -/
theorem Part.setGuard_acked (s : Part) (p v : Nat) (h : s.flash.vddLimit < 65536) :
    (s.setGuard p v true).od .vddGuard p = min s.flash.vddLimit v ∧ Part.only [.dict] s (s.setGuard p v true) ∧
    Part.keepsOd [.vddGuard] s (s.setGuard p v true) := by
  unfold Part.setGuard
  extract_lets w t u
  split
  · next e => exact ⟨e.symm, Part.only_refl _ _, Part.keepsOd_refl _ _⟩
  · rw [if_pos rfl]
    have small : w < 65536 := lt_of_le_of_lt (min_le_left _ _) h
    exact ⟨Part.od_setOd_val _ _ _ _ small, Part.only_setOd _ _ _ _, (Part.keepsOd_refl _ _).setOd _ _ _ (by decide)⟩

/-- A sample of the path delays: kept, and a slack below 0 raises the guard by 10 mV (spec/15 R548, R549). -/
theorem pathDelaySample_spec {s : State} {p : Pav} (hr : s.part.rest.inRest = false) (h4 : s.part.pstate p < 4) (slack : Int) (ack : Bool) :
    (0 ≤ slack → ∃ q : Part, exec (.pathDelaySample p slack ack) s = .next (s.withPart q) ∧
      q.od .pathSlackMin p = ofInt 32 (s.part.slackLeast p slack) ∧ Part.only [.dict, .season] s.part q ∧ Part.odOnly [(.pathSlackMin, p.val)] s.part q) ∧
    (slack < 0 → s.part.flash.vddLimit < 65536 → ∃ q : Part, exec (.pathDelaySample p slack true) s = .next (s.withPart q) ∧
      q.od .pathSlackMin p = ofInt 32 (s.part.slackLeast p slack) ∧ q.od .vddGuard p = min s.part.flash.vddLimit (s.part.od .vddGuard p + 10)) := by
  obtain ⟨least, only, od⟩ := s.part.slackNoted_spec p.isLt slack
  have run := exec_pathDelaySample_eq hr h4 slack
  generalize s.part.slackNoted p slack = t at *
  refine ⟨fun pos => ⟨t, ?_, least, only, od⟩, fun neg limit => ?_⟩
  · rw [run, if_neg (by omega)]
  · have log := LogFrame.logEv t 0x1803 p (ofInt 64 slack) none p
    have flash : (t.logEv 0x1803 p (ofInt 64 slack) none p).flash = s.part.flash := by
      rw [log.only .flash (by decide), only .flash (by decide)]
    have guard : t.od .vddGuard p = s.part.od .vddGuard p := od _ _ (Nat.lt_trans p.isLt (by decide)) (by simp)
    refine ⟨_, (run true).trans (State.next_withPart (if_pos neg)), ?_⟩
    generalize t.logEv 0x1803 p (ofInt 64 slack) none p = u at *
    obtain ⟨value, -, keeps⟩ := u.setGuard_acked p (t.od .vddGuard p + 10) (by rw [flash]; exact limit)
    refine ⟨?_, by rw [value, flash, guard]⟩
    rw [keeps.od_eq (by decide) p, log.keeps.od_eq (by decide) p, least]

/-! ## The wear record -/

/-- A fold that writes a function of each listed key. -/
theorem Sparse.get_setEach (f : Nat → Nat) (l : List Nat) (m : Sparse Nat) {k : Nat} (hk : k ∈ l) :
    Sparse.get 0 (l.foldl (fun m p => Sparse.set 0 m p (f p)) m) k = f k := by
  have rest : ∀ (l : List Nat) (m : Sparse Nat), Sparse.get 0 m k = f k → Sparse.get 0 (l.foldl (fun m p => Sparse.set 0 m p (f p)) m) k = f k := by
    intro l
    induction l with
    | nil => exact fun m h => h
    | cons p l ih =>
      intro m h
      refine ih _ ?_
      rw [Sparse.get_set]
      split
      · next e => rw [e]
      · exact h
  induction l generalizing m with
  | nil => cases hk
  | cons p l ih =>
    rcases List.mem_cons.mp hk with rfl | hk
    · exact rest l _ ((Sparse.get_set _ _ _ _ _).trans (if_pos rfl))
    · exact ih _ hk

/-- What the wear record holds when it is written (spec/15 R550). -/
theorem Part.writeWear_spec (s : Part) : s.writeWear.flash.wear.number = s.od .seasonNumber 0 ∧ s.writeWear.flash.wear.elapsed = s.od .seasonElapsed 0 ∧
    s.writeWear.flash.wear.ages = s.season.age ∧ s.writeWear.flash.wear.bands = s.season.bands ∧
    (∀ p : Pav, s.writeWear.flash.wear.guards.get 0 p = s.od .vddGuard p) ∧ (∀ c : Chan, s.writeWear.flash.wear.floors.get 0 c = s.od .refreshFloor c) ∧
    Part.only [.flash] s s.writeWear :=
  ⟨rfl, rfl, rfl, rfl, fun p => Sparse.get_setEach _ _ _ (List.mem_range.mpr p.isLt), fun c => Sparse.get_setEach _ _ _ (List.mem_range.mpr c.isLt),
    s.only_flash _⟩

theorem exec_wearRecordHourly_runs {s : State} (h : s.part.firmwareRuns = true) : exec .wearRecordHourly s = .next (s.withPart s.part.writeWear) := by
  rw [exec_wearRecordHourly, execWearRecordHourly, State.run_eq, if_pos h]

end Sys2Proof.Machine
end

section
/-!
O60, the end of a season: its steps leave the season's number and the window's state to its end (spec/15 R551, R552).
-/

namespace Sys2Proof.Machine

/-! ## What the steps leave -/

/-- The entries that the steps of a season's end may change. -/
def seasonStepEntries : List Entry :=
  [.vddGuard, .pavilionWorn, .pathSlackMin, .ceRateSeason, .refreshFloor, .refreshRate, .ladderEvents, .rankState, .rankReplaces, .rankLayer,
    .rebuildProgress, .rankFailCause, .rankWorn, .portEyeMargin, .pavilionState, .pavilionCause, .ringState]

/-- From `a` to `b` a step of a season's end: the season's own entries and its pending steps stay. -/
structure SeasonFrame (a b : Part) : Prop where
  od : Part.keepsOd seasonStepEntries a b
  pending : b.season.pending = a.season.pending

namespace SeasonFrame

theorem refl (a : Part) : SeasonFrame a a := ⟨Part.keepsOd_refl _ _, rfl⟩

theorem trans {a b c : Part} (h : SeasonFrame a b) (k : SeasonFrame b c) : SeasonFrame a c :=
  ⟨Part.keepsOd_trans h.od k.od, k.pending.trans h.pending⟩

theorem ite {c : Prop} [Decidable c] {s a b : Part} (h : SeasonFrame s a) (k : SeasonFrame s b) : SeasonFrame s (if c then a else b) := by
  split
  · exact h
  · exact k

theorem iter {α : Type} {f : Part → α → Part} (h : ∀ s x, SeasonFrame s (f s x)) (xs : List α) (s : Part) : SeasonFrame s (iter xs s f) := by
  induction xs generalizing s with
  | nil => exact refl s
  | cons x xs ih => exact (h s x).trans (ih _)

variable {a b c : Part}

theorem setOd (h : SeasonFrame a b) (e : Entry) (i v : Nat) (he : e ∈ seasonStepEntries) : SeasonFrame a (b.setOd e i v) :=
  ⟨h.od.setOd e i v he, h.pending⟩

/-- A change of other fields than the store and the seasons. -/
theorem same {l : List PartField} (h : SeasonFrame a b) (k : Part.only l b c) (hd : PartField.dict ∉ l)
    (hs : PartField.season ∉ l) : SeasonFrame a c := ⟨h.od.same k hd, (congrArg SeasonState.pending (k .season hs)).trans h.pending⟩

theorem logEv (h : SeasonFrame a b) (c x y : Nat) (sl : Option Nat) (pav : Nat) : SeasonFrame a (b.logEv c x y sl pav) :=
  ⟨h.od.next (Part.keepsOd_logEv _ _ _ _ _ _) (by decide), (congrArg SeasonState.pending (Part.logEv_season _ _ _ _ _ _)).trans h.pending⟩

/-- Another state of the seasons with the same steps pending. -/
theorem putSeason (h : SeasonFrame a b) (t : SeasonState) (ht : t.pending = b.season.pending) : SeasonFrame a (b.putSeason t) :=
  ⟨h.od, ht.trans h.pending⟩

end SeasonFrame

/-! ## The steps -/

theorem Part.setGuard_frame (s : Part) (p v : Nat) : SeasonFrame s (s.setGuard p v true) := by
  unfold Part.setGuard
  exact .ite (.refl _) ((SeasonFrame.refl s).setOd _ _ _ (by decide))

theorem Part.seasonGuard_frame (s : Part) (p : Nat) : SeasonFrame s (s.seasonGuard p) := by
  unfold Part.seasonGuard
  refine .ite (.refl _) ?_
  split
  · exact .refl _
  · extract_lets g v a worn t b
    have guard : SeasonFrame s a := .ite (s.setGuard_frame _ _) (.ite (s.setGuard_frame _ _) (.refl _))
    have slack : SeasonFrame s b := guard.putSeason _ rfl
    exact (slack.setOd _ _ _ (by decide)).setOd _ _ _ (by decide)

theorem Part.seasonFloor_frame (s : Part) (c : Nat) : SeasonFrame s (s.seasonFloor c) := by
  unfold Part.seasonFloor
  extract_lets n start rise rate t a b
  have rated : SeasonFrame s a := (SeasonFrame.refl s).putSeason _ rfl
  have noted : SeasonFrame s b := rated.setOd _ _ _ (by decide)
  exact .ite ((noted.setOd _ _ _ (by decide)).setOd _ _ _ (by decide)) noted

theorem Part.startRebuild_frame (s : Part) (c r spare : Nat) : SeasonFrame s (s.startRebuild c r spare) := by
  unfold Part.startRebuild
  extract_lets a fl b layer d e le g h
  have laddered : SeasonFrame s a := (SeasonFrame.refl s).setOd _ _ _ (by decide)
  have rows : SeasonFrame s b := laddered.same (a.only_flash _) (by decide) (by decide)
  have spared : SeasonFrame s d := ((rows.setOd _ _ _ (by decide)).setOd _ _ _ (by decide)).setOd _ _ _ (by decide)
  have moved : SeasonFrame s e := (spared.setOd _ _ _ (by decide)).setOd _ _ _ (by decide)
  have cleared : SeasonFrame s g := moved.same (e.only_onPav _ _) (by decide) (by decide)
  have queues : SeasonFrame s h := cleared.same (g.only_onChan _ _) (by decide) (by decide)
  exact ((queues.same (h.only_onChan _ _) (by decide) (by decide)).same (Part.only_onChan _ _ _) (by decide) (by decide)).setOd _ _ _ (by decide)

theorem Part.seasonRank_frame (s : Part) (c r : Nat) : SeasonFrame s (s.seasonRank c r) := by
  unfold Part.seasonRank
  refine .ite (.refl _) ?_
  split
  · exact ((s.startRebuild_frame _ _ _).setOd _ _ _ (by decide)).logEv _ _ _ _ _
  · exact ((SeasonFrame.refl s).setOd _ _ _ (by decide)).logEv _ _ _ _ _

theorem Part.seasonPort_frame (s : Part) (i margin : Nat) : SeasonFrame s (s.seasonPort i margin) := by
  unfold Part.seasonPort
  have noted : SeasonFrame s (s.setOd .portEyeMargin i margin) := (SeasonFrame.refl s).setOd _ _ _ (by decide)
  exact .ite (.refl _) (.ite (noted.logEv _ _ _ _ _) noted)

theorem Part.autoRetire_frame (s : Part) (p : Nat) : SeasonFrame s (s.autoRetire p) := by
  unfold Part.autoRetire
  refine .ite ?_ (.refl _)
  extract_lets t a
  have listed : SeasonFrame s (s.putSeason { s.season with retiring := s.season.retiring ++ [p * 2 + b2n (s.pstate p == 2)] }) :=
    (SeasonFrame.refl s).putSeason _ rfl
  have retiring : SeasonFrame s a := listed.setOd .ladderEvents 0 _ (by decide)
  exact ((retiring.setOd _ _ _ (by decide)).setOd _ _ _ (by decide)).same (Part.only_askCompile _ _ _) (by decide) (by decide)

theorem Part.rung4_frame (s : Part) (p : Nat) : SeasonFrame s (s.rung4 p) :=
  .ite (s.autoRetire_frame p) ((SeasonFrame.refl s).logEv _ _ _ _ _)

/-! ## The end of a season -/

/-- The channels in service. -/
def Part.servingChans (s : Part) : List Nat := (List.range 64).filter fun c => s.od .channelState c == 2

/-- Steps 1 to 3 of R552. -/
def Part.stepsNow (s : Part) : Part :=
  let s := iter allPavs s Part.seasonGuard
  iter s.servingChans (iter s.servingChans s Part.seasonFloor) fun s c => iter (List.range 4) s fun s r => s.seasonRank c r

/-- Steps 4 and 5 of R552 wait for a window. -/
def Part.stepsWait (s : Part) : Part := (s.putSeason { s.season with pending := [4, 5] }).setOd .maintState 0 1

/-- Step 6 of R552, and the pavilions that are worn. -/
def Part.stepsLast (s : Part) (margins : List Nat) : Part :=
  iter allPavs (iter (List.range 16) s fun s i => s.seasonPort i (margins.getD i 0)) fun s p =>
    if s.od .pavilionWorn p = 1 && s.inService p then s.rung4 p else s

/-- The next season begins. -/
def Part.seasonBegins (s : Part) : Part := ((s.modOd .seasonNumber 0 (· + 1)).setOd .seasonElapsed 0 0).setOd .seasonLastEnd 0 s.now

/-- The watch lists are empty again (spec/15 R558). -/
def Part.watchNone (s : Part) (l : List Nat) : Part := iter l s fun s p => s.onPav p fun v => { v with watch := [] }

theorem Part.stepsNow_frame (s : Part) : SeasonFrame s s.stepsNow := by
  have ranks : ∀ t c, SeasonFrame t (iter (List.range 4) t fun s r => s.seasonRank c r) := fun t c => .iter (fun u r => u.seasonRank_frame c r) _ _
  exact ((SeasonFrame.iter Part.seasonGuard_frame _ _).trans (.iter Part.seasonFloor_frame _ _)).trans (.iter ranks _ _)

theorem Part.stepsLast_frame (s : Part) (margins : List Nat) : SeasonFrame s (s.stepsLast margins) :=
  (SeasonFrame.iter (fun t i => t.seasonPort_frame i _) _ _).trans (.iter (fun t p => .ite (t.rung4_frame p) (.refl _)) _ _)

/-- All that a season that ends leaves before the wear record is written. -/
def Part.seasonOver (s : Part) (margins : List Nat) : Part := ((s.stepsNow.stepsWait.stepsLast margins).seasonBegins).watchNone allPavs

/-- A season that ends while no window is open (spec/15 R552). -/
theorem Part.seasonEnd_eq {s : Part} (margins : List Nat) (h : s.stepsNow.od .maintState 0 ≠ 2) :
    s.seasonEnd margins = (s.seasonOver margins).writeWear.logEv 0x1801 ((s.seasonOver margins).od0 .seasonNumber) 0 := by
  unfold Part.seasonEnd
  extract_lets guarded chans floored ranked opened left season waiting stepped ports worn begun last
  have now : s.stepsNow = ranked := rfl
  have closed : opened = false := beq_eq_false_iff_ne.mpr h
  have hwaiting : waiting = ranked.putSeason { ranked.season with pending := [4, 5] } := by
    show ranked.putSeason { ranked.season with pending := if opened then left else [4, 5] } = _
    rw [closed]
    rfl
  have hstepped : stepped = waiting.setOd .maintState 0 1 := if_neg (by simp [closed])
  have hwait : stepped = ranked.stepsWait := by
    rw [hstepped, hwaiting]
    rfl
  have hworn : worn = stepped.stepsLast margins := rfl
  have hlast : last = (worn.seasonBegins).watchNone allPavs := rfl
  have hover : s.seasonOver margins = last := by
    rw [Part.seasonOver, now, ← hwait, ← hworn, ← hlast]
  rw [hover]

theorem Part.watchNone_pav (l : List Nat) (s : Part) (p : Nat) (h : p ∈ l) : ((s.watchNone l).pav p).watch = [] := by
  have stays : ∀ (l : List Nat) (s : Part), (s.pav p).watch = [] → ((s.watchNone l).pav p).watch = [] := by
    intro l
    induction l with
    | nil => exact fun _ h => h
    | cons j l ih =>
      intro s h
      refine ih (s.onPav j fun v => { v with watch := [] }) ?_
      rw [Part.onPav_pav]
      split
      · rfl
      · exact h
  induction l generalizing s with
  | nil => cases h
  | cons j l ih =>
    rcases List.mem_cons.mp h with rfl | h
    · exact stays l (s.onPav p fun v => { v with watch := [] }) (congrArg PavState.watch (Part.onPav_pav_self _ _ _))
    · exact ih _ h

theorem Part.only_watchNone (l : List Nat) (s : Part) : Part.only [.pavs] s (s.watchNone l) := Part.only_iter (fun t _ => t.only_onPav _ _) _ _

theorem Part.seasonBegins_spec (s : Part) : s.seasonBegins.od .seasonNumber 0 = (s.od .seasonNumber 0 + 1) % 2 ^ 32 ∧
    s.seasonBegins.od .seasonElapsed 0 = 0 ∧ Part.keepsOd [.seasonNumber, .seasonElapsed, .seasonLastEnd] s s.seasonBegins ∧
    Part.only [.dict] s s.seasonBegins := by
  refine ⟨?_, ?_, (((Part.keepsOd_refl _ _).setOd _ _ _ (by decide)).setOd _ _ _ (by decide)).setOd _ _ _ (by decide),
    (((Part.only_refl _ _).next (Part.only_setOd _ _ _ _) (by decide)).next (Part.only_setOd _ _ _ _) (by decide)).next (Part.only_setOd _ _ _ _) (by decide)⟩
  · unfold Part.seasonBegins
    rw [Part.od_setOd_ne _ _ _ _ (by decide), Part.od_setOd_ne _ _ _ _ (by decide)]
    exact Part.od_setOd_self _ _ _ _
  · unfold Part.seasonBegins
    rw [Part.od_setOd_ne _ _ _ _ (by decide)]
    exact Part.od_setOd_val _ _ _ _ (by decide)

/-- The next season, with the steps that need a window pending (spec/15 R551, R552). -/
theorem Part.seasonOver_spec (s : Part) (margins : List Nat) : (s.seasonOver margins).od .seasonNumber 0 = (s.od .seasonNumber 0 + 1) % 2 ^ 32 ∧
    (s.seasonOver margins).od .seasonElapsed 0 = 0 ∧ (s.seasonOver margins).od .maintState 0 = 1 ∧
    (s.seasonOver margins).season.pending = [4, 5] ∧ ∀ p : Pav, ((s.seasonOver margins).pav p).watch = [] := by
  unfold Part.seasonOver
  have now := s.stepsNow_frame
  generalize s.stepsNow = a at *
  have maint : a.stepsWait.od .maintState 0 = 1 := Part.od_setOd_val _ _ _ _ (by decide)
  have number : a.stepsWait.od .seasonNumber 0 = a.od .seasonNumber 0 := Part.od_setOd_ne _ _ _ _ (by decide)
  have pending : a.stepsWait.season.pending = [4, 5] := rfl
  generalize a.stepsWait = b at *
  have last := b.stepsLast_frame margins
  generalize b.stepsLast margins = c at *
  obtain ⟨next, elapsed, keeps, dict⟩ := c.seasonBegins_spec
  generalize c.seasonBegins = d at *
  have watch := d.only_watchNone allPavs
  have empty := fun p : Pav => Part.watchNone_pav allPavs d p (List.mem_range.mpr p.isLt)
  generalize d.watchNone allPavs = e at *
  have od : ∀ x i, e.od x i = d.od x i := Part.od_congr (watch .dict (by decide))
  refine ⟨?_, (od _ _).trans elapsed, ?_, ?_, empty⟩
  · rw [od, next, last.od.od_eq (by decide) 0, number, now.od.od_eq (by decide) 0]
  · rw [od, keeps.od_eq (by decide) 0, last.od.od_eq (by decide) 0, maint]
  · rw [watch .season (by decide), dict .season (by decide), last.pending, pending]

/-- The end of a season begins the next, with its record (spec/15 R550 to R552). -/
theorem seasonEnd_spec {s : State} (margins : List Nat) (hf : s.part.firmwareRuns = true) (hm : s.part.od .maintState 0 ≠ 2) :
    ∃ q : Part, exec (.seasonEnd margins) s = .next (s.withPart q) ∧
      q.od .seasonNumber 0 = (s.part.od .seasonNumber 0 + 1) % 2 ^ 32 ∧ q.od .seasonElapsed 0 = 0 ∧ q.od .maintState 0 = 1 ∧
      q.season.pending = [4, 5] ∧ q.flash.wear.number = q.od .seasonNumber 0 ∧ ∀ p : Pav, (q.pav p).watch = [] := by
  have run : exec (.seasonEnd margins) s = .next (s.withPart (s.part.seasonEnd margins)) := by
    rw [exec_seasonEnd, execSeasonEnd, State.run_eq, if_pos hf]
  rw [Part.seasonEnd_eq margins (by rw [s.part.stepsNow_frame.od.od_eq (by decide) 0]; exact hm)] at run
  obtain ⟨number, elapsed, maint, pending, watch⟩ := s.part.seasonOver_spec margins
  generalize s.part.seasonOver margins = t at *
  obtain ⟨wear, -, -, -, -, -, flash⟩ := t.writeWear_spec
  have log := LogFrame.logEv t.writeWear 0x1801 (t.od0 .seasonNumber) 0 none 0xF
  have od : ∀ e, e ≠ Entry.ringState → (t.writeWear.logEv 0x1801 (t.od0 .seasonNumber) 0).od e 0 = t.od e 0 := fun e he =>
    (log.keeps.od_eq (by simpa using he) 0).trans (Part.od_congr (flash .dict (by decide)) e 0)
  refine ⟨_, run, (od _ (by decide)).trans number, (od _ (by decide)).trans elapsed, (od _ (by decide)).trans maint, ?_, ?_, fun p => ?_⟩
  · rw [log.only .season (by decide), flash .season (by decide), pending]
  · rw [od _ (by decide), log.only .flash (by decide), wear]
  · rw [Part.pav_of_only log.only (by decide) p, Part.pav_of_only flash (by decide) p, watch]

end Sys2Proof.Machine
end

section
/-!
O60, maintenance windows: what a window starts, and what its end leaves pending (spec/15 R552, R553).
-/

namespace Sys2Proof.Machine

/-! ## A window opens -/

/-- Step 4 of R552 on one channel: a quick retrain of a channel in service. -/
def Part.retrainAsked (s : Part) (c : Nat) : Part := if s.od .channelState c = 2 && (s.chan c).retrain.isEmpty then s.startRetrain c else s

/-- Step 4 of R552 on some channels. -/
def Part.retrainsAsked (s : Part) (l : List Nat) : Part := iter l s Part.retrainAsked

/-- Step 5 of R552 is behind the part. -/
def Part.linksBehind (s : Part) : Part := s.putSeason { s.season with pending := s.season.pending.filter (· != 5) }

/-- A window opens with the channels of step 4 pending (spec/15 R553). -/
theorem Part.openWindow_eq {s : Part} (h2 : s.od .maintState 0 ≠ 2) (h4 : 4 ∈ s.season.pending) : s.openWindow =
    (if ((s.setOd .maintState 0 2).retrainsAsked (List.range 64)).season.pending.contains 5
      then ((s.setOd .maintState 0 2).retrainsAsked (List.range 64)).linksBehind.retrainLinks
      else (s.setOd .maintState 0 2).retrainsAsked (List.range 64)).retrainsDone := by
  unfold Part.openWindow
  rw [if_neg (show ¬ s.od0 .maintState = 2 from h2)]
  extract_lets opened asked
  have hasked : (s.setOd .maintState 0 2).retrainsAsked (List.range 64) = asked := (if_pos (List.contains_iff_mem.mpr h4)).symm
  clear_value asked
  rw [hasked]
  rfl

theorem Part.only_retrainAsked (s : Part) (c : Nat) : Part.only [.chans] s (s.retrainAsked c) :=
  Part.only_ite (s.only_onChan _ _) (Part.only_refl _ _)

theorem Part.only_retrainsAsked (s : Part) (l : List Nat) : Part.only [.chans] s (s.retrainsAsked l) := Part.only_iter Part.only_retrainAsked _ _

/-- One channel's quick retrain, seen at a channel in service. -/
theorem Part.retrainAsked_retrain {s : Part} {c : Nat} (h : s.od .channelState c = 2) (j : Nat) : ((s.retrainAsked j).chan c).retrain =
    if j = c ∧ (s.chan c).retrain = [] then (List.range 4).filter (s.rankRuns c) else (s.chan c).retrain := by
  unfold Part.retrainAsked
  by_cases e : j = c
  · subst e
    by_cases hr : (s.chan j).retrain = []
    · rw [if_pos (by simp [h, hr]), if_pos ⟨rfl, hr⟩, Part.startRetrain, Part.onChan_chan_self]
    · rw [if_neg (by simp [hr]), if_neg fun k => hr k.2]
  · have other : (if s.od .channelState j = 2 && (s.chan j).retrain.isEmpty then s.startRetrain j else s).chan c = s.chan c := by
      split
      · exact Part.onChan_chan_other _ _ _ e
      · rfl
    rw [other, if_neg fun k => e k.1]

section
variable {c : Nat} {v : List Nat}

/-- A channel that retrains all its ranks goes on so. -/
theorem Part.retrainsAsked_goesOn (l : List Nat) (s : Part) (h : s.od .channelState c = 2) (hv : v = (List.range 4).filter (s.rankRuns c))
    (hr : (s.chan c).retrain = v) : ((s.retrainsAsked l).chan c).retrain = v := by
  induction l generalizing s with
  | nil => exact hr
  | cons j l ih =>
    have dict : (s.retrainAsked j).dict = s.dict := s.only_retrainAsked j .dict (by decide)
    have runs : (s.retrainAsked j).rankRuns c = s.rankRuns c := Part.rankRuns_congr dict c
    refine ih (s.retrainAsked j) ((Part.od_congr dict _ _).trans h) (by rw [runs, hv]) ?_
    rw [Part.retrainAsked_retrain h]
    split
    · exact hv.symm
    · exact hr

/-- A listed channel in service that retrains no rank begins with all of them (spec/06 R251). -/
theorem Part.retrainsAsked_begins (l : List Nat) (s : Part) (h : s.od .channelState c = 2) (hv : v = (List.range 4).filter (s.rankRuns c))
    (hr : (s.chan c).retrain = []) (hm : c ∈ l) : ((s.retrainsAsked l).chan c).retrain = v := by
  induction l generalizing s with
  | nil => cases hm
  | cons j l ih =>
    have dict : (s.retrainAsked j).dict = s.dict := s.only_retrainAsked j .dict (by decide)
    have runs : (s.retrainAsked j).rankRuns c = s.rankRuns c := Part.rankRuns_congr dict c
    have own := Part.retrainAsked_retrain h j
    by_cases e : j = c
    · rw [if_pos ⟨e, hr⟩] at own
      exact Part.retrainsAsked_goesOn l (s.retrainAsked j) ((Part.od_congr dict _ _).trans h) (by rw [runs, hv]) (own.trans hv.symm)
    · rw [if_neg fun k => e k.1] at own
      exact ih (s.retrainAsked j) ((Part.od_congr dict _ _).trans h) (by rw [runs, hv]) (own.trans hr) ((List.mem_cons.mp hm).resolve_left (Ne.symm e))

end

/-- While a rank retrains the window stays. -/
theorem Part.retrainsDone_waits {s : Part} {c : Nat} (h : (s.chan c).retrain ≠ []) : s.retrainsDone = s := by
  have listed : (c, s.chan c) ∈ s.chans := Sparse.mem_of_get (d := ChanState.zero) fun k => h (congrArg ChanState.retrain k)
  have some : (s.chans.any fun e => !e.2.retrain.isEmpty) = true :=
    List.any_eq_true.mpr ⟨_, listed, by simp [h]⟩
  unfold Part.retrainsDone
  rw [if_pos (by simp [some])]

/-- Where no UP link has a low margin no link is trained again. -/
theorem Part.retrainLinks_none {s : Part} (h : ∀ n < 28, s.od .linkState n = 2 → marginLow (s.od .linkEyeMargin n) = false) : s.retrainLinks = s := by
  unfold Part.retrainLinks
  refine iter_fixed _ fun n hn => if_neg fun k => ?_
  simp only [Bool.and_eq_true, decide_eq_true_eq] at k
  rw [h n (List.mem_range.mp hn) k.1] at k
  exact Bool.false_ne_true k.2

/-- A window that opens with step 4 pending: it stands, and the ranks of a channel in service wait for their retrains (spec/15 R552, R553). -/
theorem Part.openWindow_spec {s : Part} {c : Nat} (hc : c < 64) (h4 : 4 ∈ s.season.pending) (h2 : s.od .maintState 0 ≠ 2)
    (hs : s.od .channelState c = 2) (hr : (s.chan c).retrain = []) (hk : ∃ r < 4, s.rankRuns c r = true)
    (hl : ∀ n : Link, s.od .linkState n = 2 → marginLow (s.od .linkEyeMargin n) = false) :
    s.openWindow.od .maintState 0 = 2 ∧ (s.openWindow.chan c).retrain = (List.range 4).filter (s.rankRuns c) := by
  rw [Part.openWindow_eq h2 h4]
  have runs : (s.setOd .maintState 0 2).rankRuns c = s.rankRuns c := by
    funext r
    unfold Part.rankRuns Part.rankState
    rw [Part.od_setOd_ne _ _ _ _ (by decide)]
  have keeps : Part.keepsOd [.maintState] s (s.setOd .maintState 0 2) := (Part.keepsOd_refl _ _).setOd _ _ _ (by decide)
  have state : (s.setOd .maintState 0 2).od .maintState 0 = 2 := Part.od_setOd_val _ _ _ _ (by decide)
  have waits : (((s.setOd .maintState 0 2).retrainsAsked (List.range 64)).chan c).retrain = (List.range 4).filter (s.rankRuns c) :=
    Part.retrainsAsked_begins _ _ ((keeps.od_eq (by decide) c).trans hs) (by rw [runs]) hr (List.mem_range.mpr hc)
  have some : (List.range 4).filter (s.rankRuns c) ≠ [] := by
    obtain ⟨r, h, run⟩ := hk
    exact List.ne_nil_of_mem (List.mem_filter.mpr ⟨List.mem_range.mpr h, run⟩)
  have only := (s.setOd .maintState 0 2).only_retrainsAsked (List.range 64)
  generalize (s.setOd .maintState 0 2).retrainsAsked (List.range 64) = a at *
  have od : ∀ e i, a.od e i = (s.setOd .maintState 0 2).od e i := Part.od_congr (only .dict (by decide))
  split
  · rw [Part.retrainLinks_none (s := a.linksBehind) fun n hn up => ?_, Part.retrainsDone_waits (s := a.linksBehind) (c := c) (by
      rw [← waits] at some
      exact some)]
    · exact ⟨(od _ _).trans state, waits⟩
    · have link : ∀ e, e ≠ Entry.maintState → a.linksBehind.od e n = s.od e n := fun e he =>
        (od e n).trans (keeps.od_eq (by simpa using he) n)
      rw [link _ (by decide)] at up ⊢
      exact hl ⟨n, hn⟩ up
  · rw [Part.retrainsDone_waits (c := c) (by rw [waits]; exact some)]
    exact ⟨(od _ _).trans state, waits⟩

theorem exec_maintWindowOpen_runs {s : State} (h : s.part.firmwareRuns = true) (hp : s.part.season.pending ≠ []) :
    exec .maintWindowOpen s = .next (s.withPart s.part.openWindow) := by
  rw [exec_maintWindowOpen, execMaintWindowOpen, State.run_eq, if_pos (by simp [h, hp])]

theorem exec_maintOpenNow_takes {s : State} {w : Who} (h : s.part.mayWrite w .maintCommand) :
    exec (.maintOpenNow w) s = .next (s.withPart (s.part.openWindow.emit (.answer w rOk []))) := by
  rw [exec_maintOpenNow, execMaintOpenNow, State.run_eq, Part.maintCommand, Part.command_eq _ _ _ h (by decide) (by simp)]
  rfl

/-! ## A window ends -/

theorem exec_maintClose_takes {s : State} {w : Who} (h : s.part.mayWrite w .maintCommand) :
    exec (.maintClose w) s = .next (s.withPart ((if s.part.od0 .maintState = 2 then s.part.closeWindow else s.part).emit (.answer w rOk []))) := by
  rw [exec_maintClose, execMaintClose, State.run_eq, Part.maintCommand, Part.command_eq _ _ _ h (by decide) (by simp)]
  rfl

theorem exec_maintWindowExpiry_open {s : State} (h : s.part.od .maintState 0 = 2) :
    exec .maintWindowExpiry s = .next (s.withPart s.part.closeWindow) := by
  rw [exec_maintWindowExpiry, execMaintWindowExpiry, State.run_eq, if_pos (show s.part.od0 .maintState = 2 from h)]

theorem Part.unqueued_retrain (l : List Nat) (c : Nat) (s : Part) :
    ((s.unqueued l).chan c).retrain = if c ∈ l then (s.chan c).retrain.take 1 else (s.chan c).retrain := by
  induction l generalizing s with
  | nil => simp [Part.unqueued, iter]
  | cons j l ih =>
    refine (ih _).trans ?_
    by_cases e : j = c
    · subst e
      rw [Part.onChan_chan_self]
      split <;> simp [List.take_take]
    · rw [Part.onChan_chan_other _ _ _ e]
      simp [Ne.symm e]

/-- What a season's steps are when a window closes: those not done, and those of a season that ended meanwhile (spec/15 R553). -/
def SeasonState.stepsLeft (t : SeasonState) : List Nat := (t.pending.map fun k => if 20 ≤ k then k - 20 else k).eraseDups

/-- A window closes: the next steps stay pending, and only a held rank is swept to its end (spec/15 R553). -/
theorem Part.closeWindow_spec (s : Part) : s.closeWindow.season.pending = s.season.stepsLeft ∧
    s.closeWindow.od .maintState 0 = (if s.closeWindow.season.pending = [] then 0 else 1) ∧
    (∀ c : Chan, (s.closeWindow.chan c).retrain = (s.chan c).retrain.take 1) ∧ Part.only [.chans, .season, .dict] s s.closeWindow := by
  have pending : s.closeWindow.season.pending = s.season.stepsLeft := rfl
  refine ⟨pending, ?_, fun c => ?_, ?_⟩
  · rw [pending]
    refine (Part.od_setOd_val _ _ _ _ ?_).trans (if_congr List.isEmpty_iff rfl rfl)
    split <;> decide
  · have chan : s.closeWindow.chan c = (s.unqueued (List.range 64)).chan c := by
      unfold Part.chan
      rw [Part.closeWindow_chans]
    rw [chan, Part.unqueued_retrain, if_pos (List.mem_range.mpr c.isLt)]
  · exact (((Part.only_refl _ _).next (Part.only_iter (fun t c => t.only_onChan _ _) _ _) (by decide)).next (Part.only_season _ _) (by decide)).next (Part.only_setOd _ _ _ _) (by decide)

end Sys2Proof.Machine
end

section
/-!
O60, weak rows: the scan of the address tables, the watch lists and the rows they report (spec/15 R558, R559).
-/

namespace Sys2Proof.Machine

/-! ## What a pavilion's retire list leaves -/

theorem Part.toZeroing_frame (s : Part) (p ext : Nat) : OwnPavFrame p s (s.toZeroing p ext) := by
  unfold Part.toZeroing
  exact ((OwnPavFrame.refl p s).onPav _).setOwn _ _

theorem Part.retireExtent_frame (s : Part) (p ext : Nat) : OwnPavFrame p s (s.retireExtent p ext) := by
  unfold Part.retireExtent
  extract_lets lost own a b c
  have listed : OwnPavFrame p s b := ((OwnPavFrame.refl p s).setOwn _ _).onPav _
  have less : OwnPavFrame p s c := listed.onPav _
  refine .ite listed ?_
  split
  · exact less.trans (c.toZeroing_frame _ _)
  · exact less

theorem Part.retireNow_frame (s : Part) (p ext : Nat) : OwnPavFrame p s (s.retireNow p ext) :=
  .ite (((OwnPavFrame.refl p s).setOwn _ _).onPav _) (s.retireExtent_frame p ext)

/-- An extent that enters the retire list changes its own pavilion, and may ask for a compile (spec/15 R559). -/
theorem Part.retireAsk_frame (s : Part) (p ext : Nat) : OwnPavFrame p s (s.retireAsk p ext) := by
  unfold Part.retireAsk
  refine .ite (.refl p s) ?_
  extract_lets listed
  have hl : OwnPavFrame p s listed := (OwnPavFrame.refl p s).onPav _
  split
  · exact .refl p s
  · exact s.retireNow_frame p ext
  · exact s.retireNow_frame p ext
  · exact hl
  · split
    · exact ((hl.setOwn _ _).onPav _).trans (Part.retireNow_frame _ _ _)
    · exact hl
  · exact hl.trans ⟨Part.only_mono (listed.only_askCompile _ _) (by decide),
      fun k _ => Part.pav_of_only (listed.only_askCompile _ _) (by decide) k⟩

/-! ## The scan -/

/-- The layer of a burst address, as the store gives it. -/
def Part.rowSeen (s : Part) (addr devices : Nat) : WeakRow :=
  weakRowOf addr (s.od .rankLayer (bits addr 37 6 * 4 + bits addr 34 2)) devices

/-- A row that is new in the list becomes weak: it is listed, and other pavilions stay (spec/15 R558). -/
theorem Part.rowWeak_spec (s : Part) (p addr count devices : Nat) (h : s.flash.weakRows.any (s.rowSeen addr devices).same = false) :
    (s.rowWeak p addr count devices).flash.weakRows = s.flash.weakRows ++ [s.rowSeen addr devices] ∧
    ∀ k, k ≠ p → (s.rowWeak p addr count devices).pav k = s.pav k := by
  unfold Part.rowWeak
  extract_lets r fl a b
  rw [if_neg (by rw [Bool.not_eq_true]; exact h)]
  have log : LogFrame a (a.logEv 0x1802 addr count none p) := .logEv _ _ _ _ _ _
  have ladder : Part.only [.dict] (a.logEv 0x1802 addr count none p) b := Part.only_setOd _ _ _ _
  have asks : OwnPavFrame p b (iter (b.rowExts r) b fun s e => s.retireAsk p e) := .iter (fun t e => t.retireAsk_frame p e) _ _
  refine ⟨?_, fun k hk => ?_⟩
  · rw [asks.only .flash (by decide), ladder .flash (by decide), log.only .flash (by decide)]
    rfl
  · rw [asks.other k hk, Part.pav_of_only ladder (by decide) k, Part.pav_of_only log.only (by decide) k]
    rfl

/-- A pavilion whose table is empty is not changed by the scan. -/
theorem Part.scanTable_none {s : Part} {p : Nat} (h : (s.pav p).ceTable = []) : s.scanTable p = s := by
  unfold Part.scanTable
  rw [h]
  rfl

/-- One pavilion's table has entries, and its scan leaves the others' tables empty: that scan is all. -/
theorem Part.scan_single {p : Nat} (l : List Nat) (hd : l.Nodup) (s : Part) (hm : p ∈ l) (hn : ∀ k ∈ l, k ≠ p → (s.pav k).ceTable = [])
    (hs : ∀ k, k ≠ p → (s.scanTable p).pav k = s.pav k) : iter l s Part.scanTable = s.scanTable p := by
  induction l with
  | nil => cases hm
  | cons j l ih =>
    obtain ⟨hj, hd⟩ := List.nodup_cons.mp hd
    show iter l (s.scanTable j) Part.scanTable = _
    by_cases e : j = p
    · subst e
      refine iter_fixed _ fun k hk => Part.scanTable_none ?_
      have ne : k ≠ j := fun e => hj (e ▸ hk)
      rw [hs k ne, hn k (List.mem_cons_of_mem _ hk) ne]
    · rw [Part.scanTable_none (hn j List.mem_cons_self e)]
      exact ih hd ((List.mem_cons.mp hm).resolve_left (Ne.symm e)) fun k hk => hn k (List.mem_cons_of_mem _ hk)

/-- The part after a correction entered a pavilion's watch list. -/
def Part.watched (s : Part) (p : Nat) (e : CeEnt) : Part := s.onPav p fun v => { v with watch := watchAdd v.watch e.burst (e.device % 32) }

/-- The devices that a row's watched corrections name. -/
def watchedDevices (l : List Nat) : Nat := l.foldl (fun b x => b ||| 2 ^ (x / 2 ^ 43)) 0

/-- A table with one entry. -/
theorem Part.scanTable_one {s : Part} {p : Nat} {e : CeEnt} (h : (s.pav p).ceTable = [e]) {l : List Nat}
    (hl : l = (watchAdd (s.pav p).watch e.burst (e.device % 32)).get [] (rowKey e.burst)) : s.scanTable p =
    if s.od0 .weakRowThreshold ≤ l.length then (s.watched p e).rowWeak p e.burst l.length (watchedDevices l) else s.watched p e := by
  have list : ((s.watched p e).pav p).watch.get [] (rowKey e.burst) = l := by
    rw [Part.watched, Part.onPav_pav_self, hl]
  rw [← list]
  unfold Part.scanTable
  rw [h]
  rfl

theorem exec_ceTableScan_runs {s : State} (h : s.part.firmwareRuns = true) : exec .ceTableScan s = .next (s.withPart (iter s.part.serving s.part Part.scanTable)) := by
  rw [exec_ceTableScan, execCeTableScan, State.run_eq, if_pos h]

/-- The scan of one entry adds to the watch list, and the row that reaches the threshold becomes weak (spec/15 R558). -/
theorem ceTableScan_spec {s : State} {p : Pav} {e : CeEnt} (hf : s.part.firmwareRuns = true) (hp : p.val ∈ s.part.serving)
    (hn : ∀ k ∈ s.part.serving, k ≠ p.val → (s.part.pav k).ceTable = []) (he : (s.part.pav p).ceTable = [e]) {l : List Nat}
    (hl : l = (watchAdd (s.part.pav p).watch e.burst (e.device % 32)).get [] (rowKey e.burst)) :
    (l.length < s.part.od .weakRowThreshold 0 → exec .ceTableScan s = .next (s.withPart (s.part.watched p e))) ∧
    (s.part.od .weakRowThreshold 0 ≤ l.length → s.part.flash.weakRows.any (s.part.rowSeen e.burst (watchedDevices l)).same = false →
      ∃ q : Part, exec .ceTableScan s = .next (s.withPart q) ∧
        q.flash.weakRows = s.part.flash.weakRows ++ [s.part.rowSeen e.burst (watchedDevices l)]) := by
  have nodup : s.part.serving.Nodup := List.nodup_range.filter _
  have scan := Part.scanTable_one he hl
  have watched : ∀ k, k ≠ p.val → (s.part.watched p e).pav k = s.part.pav k := fun k hk => Part.onPav_pav_other _ _ _ (Ne.symm hk)
  refine ⟨fun below => ?_, fun reached new => ?_⟩
  · have scan := scan.trans (if_neg (Nat.not_le.mpr below))
    rw [exec_ceTableScan_runs hf, Part.scan_single _ nodup _ hp hn (by rw [scan]; exact watched), scan]
  · have scan := scan.trans (if_pos reached)
    obtain ⟨rows, other⟩ := (s.part.watched p e).rowWeak_spec p e.burst l.length (watchedDevices l) new
    refine ⟨_, exec_ceTableScan_runs hf, ?_⟩
    rw [Part.scan_single _ nodup _ hp hn (by rw [scan]; exact fun k hk => (other k hk).trans (watched k hk)), scan, rows]
    rfl

end Sys2Proof.Machine
end

section
/-!
O60, the withdrawal of capacity, and the whole of ageing (spec/15 R567, R568).
-/

namespace Sys2Proof.Machine

/-! ## Withdrawal -/

/-- With no page left in a lost layer nothing is added to a poison list (spec/15 R568). -/
theorem Part.withdraw_noPages {s : Part} {p sl le : Nat} (h : s.leftPages p sl le = []) : s.withdraw p sl le =
    ((s.forceRelease sl [le] false).modOd .withdrawnExtents 0 (· + 1)).logEv 0x1809 le 0 (some sl) p := by
  unfold Part.withdraw
  rw [h]
  cases s.boundPort sl <;> rfl

/-- A pavilion in deficit withdraws the highest extent of the first slice in the order of R567. -/
theorem Part.withdrawMore_step {s : Part} {p sl le : Nat} {rest more : List Nat} (hl : s.leftExt p = none) (hd : 0 < s.deficit p)
    (ho : s.withdrawOrder p = sl :: rest) (hg : s.homedGranted sl p = le :: more) (n : Nat) :
    s.withdrawMore (n + 1) p = (s.withdraw p sl le).withdrawMore n p := by
  rw [Part.withdrawMore, hl]
  dsimp only
  rw [if_neg (not_le.mpr hd), ho]
  dsimp only
  rw [hg]

/-- A pavilion without a deficit withdraws nothing more. -/
theorem Part.withdrawMore_done {s : Part} {p : Nat} (hl : s.leftExt p = none) (hd : s.deficit p ≤ 0) (n : Nat) :
    s.withdrawMore (n + 1) p = s := by
  rw [Part.withdrawMore, hl]
  dsimp only
  rw [if_pos hd]

/-- The moves of R567 that still go on. -/
def Part.movesLive (s : Part) : Part :=
  s.putSeason { s.season with moves := s.season.moves.filter fun k => placeHome (s.vint.inForce.place.get 0 (k / 8)) == k % 8 }

theorem exec_capacityWithdrawal_runs {s : State} {p : Pav} (hf : s.part.firmwareRuns = true) (hi : s.part.inService p = true) :
    exec (.capacityWithdrawal p) s = .next (s.withPart ((s.part.movesLive.planMoves p).withdrawMore 33554432 p).retireEmpty) := by
  rw [exec_capacityWithdrawal, execCapacityWithdrawal, State.run_eq, if_neg (by simp [hf, hi])]
  rfl

/-- One extent is withdrawn where that covers the deficit (spec/15 R567, R568). -/
theorem capacityWithdrawal_spec {s : State} {p : Pav} {sl le : Nat} {rest more : List Nat} (hf : s.part.firmwareRuns = true)
    (hi : s.part.inService p = true) (hm : s.part.movesLive.planMoves p = s.part.movesLive) (hl : s.part.movesLive.leftExt p = none)
    (hd : 0 < s.part.movesLive.deficit p) (ho : s.part.movesLive.withdrawOrder p = sl :: rest) (hg : s.part.movesLive.homedGranted sl p = le :: more)
    (hyl : (s.part.movesLive.withdraw p sl le).leftExt p = none) (hyd : (s.part.movesLive.withdraw p sl le).deficit p ≤ 0) :
    exec (.capacityWithdrawal p) s = .next (s.withPart (s.part.movesLive.withdraw p sl le).retireEmpty) := by
  have run := exec_capacityWithdrawal_runs hf hi
  rw [hm] at run
  generalize s.part.movesLive = x at *
  have all : x.withdrawMore 33554432 p = x.withdraw p sl le :=
    (Part.withdrawMore_step hl hd ho hg 33554431).trans (Part.withdrawMore_done hyl hyd 33554430)
  rw [run, all]

/-! ## The whole -/

/-- Settles O60: ages and monitors, the end of a season, windows, weak rows and the withdrawal of capacity. -/
theorem seasonsAndWindows : Obligations.SeasonsAndWindows := by
  intro s
  refine ⟨fun temps h => ageIntegrate_spec temps h, fun hr p => ⟨exec_ringOscillatorSample_rest hr p, fun h4 slack ack least hl => ?_⟩,
    fun hf => ⟨fun margins hm => seasonEnd_spec margins hf hm, fun c hc h4 h2 hs hk hw hn => ?_, ?_, fun p e hp hn he l hl => ?_,
      fun p x y sl le rest more hi hx hm hl hd ho hg hp hy hyl hyd => ?_⟩,
    fun w hw => ⟨fun c hc h4 h2 hs hk hr hn => ?_, fun h2 => ?_⟩, fun h2 => ?_⟩
  · subst hl
    exact pathDelaySample_spec hr h4 slack ack
  · have some : s.part.season.pending ≠ [] := List.ne_nil_of_mem h4
    exact ⟨_, exec_maintWindowOpen_runs hf some, Part.openWindow_spec hc h4 h2 hs hk hw hn⟩
  · exact ⟨_, exec_wearRecordHourly_runs hf, s.part.writeWear_spec⟩
  · obtain ⟨below, reached⟩ := ceTableScan_spec hf hp hn he hl
    refine ⟨below, fun r hr hrow new => ?_⟩
    have seen : r = s.part.rowSeen e.burst (watchedDevices l) := by
      unfold Part.rowSeen watchedDevices
      exact hrow
    subst seen
    exact reached hr new
  · have moved : x = s.part.movesLive := hx
    rw [hy] at hyl hyd
    rw [moved] at hm hl hd ho hg hp hy hyl hyd
    rw [hy, moved]
    exact ⟨capacityWithdrawal_spec hf hi hm hl hd ho hg hyl hyd, Part.withdraw_noPages hp⟩
  · exact ⟨_, exec_maintOpenNow_takes hw, Part.openWindow_spec hc h4 h2 hs hk hr hn⟩
  · rw [exec_maintClose_takes hw, if_neg (show ¬ s.part.od0 .maintState = 2 from h2)]
  · obtain ⟨pending, state, retrain, only⟩ := s.part.closeWindow_spec
    refine ⟨_, exec_maintWindowExpiry_open h2, pending, state, retrain, only, fun w hw => ?_⟩
    rw [exec_maintClose_takes hw, if_pos (show s.part.od0 .maintState = 2 from h2)]

end Sys2Proof.Machine
end
